-- ==== Sys2Proof/Word.lean ====
section
/-!
DEFINITION. The word and byte types, and the index types of the module's numbered units (R3, R12, R15).
-/

namespace Sys2Proof

/-- A register or a 64-bit word of the module. -/
abbrev Word := BitVec 64

/-- One byte. -/
abbrev Byte := BitVec 8

/-- Module-wide core index, die × 96 + cluster × 8 + core (R12). -/
abbrev CoreId := Fin 384

/-- Module-wide cluster index, die × 12 + cluster (R12). -/
abbrev ClusterId := Fin 48

/-- Compute die (R12). -/
abbrev DieId := Fin 4

/-- HBM4 stack; stacks 2d and 2d + 1 stand beside die d. -/
abbrev StackId := Fin 8

/-- HBM channel index, 32 × stack + channel. -/
abbrev ChannelId := Fin 256

/-- Partition (R45). -/
abbrev PartId := Fin 4

/-- Fabric port index in the order of the PORTS entries (R384). -/
abbrev PortId := Fin 48

/-- Queue of a core (R64). -/
abbrev QueueId := Fin 16

/-- Watch counter of a core (R353). -/
abbrev WatchId := Fin 48

end Sys2Proof
end

