-- ==== Sys2Proof/Syntax.lean ====
section
/-!
DEFINITION. The commands of the module, one constructor per row of spec/opcode_table.json, and the records their
operands are made of. A command is one step of the table: an event at an edge of the module, a parcel, packet or
frame that arrives, a register write, a sequencer command of the Meori command format, or one step of an engine.
-/

namespace Sys2Proof

/-- The engines that ISSUE names, by the codes of R52. -/
inductive Engine where
  | axe | mxe | vxe | gsu | suq | smp
deriving DecidableEq, Repr

/-- A requester of work (R346): a core, or the sampler of a cluster. -/
inductive Requester where
  | core (c : CoreId)
  | sampler (c : ClusterId)
deriving DecidableEq, Repr

/-- Who a fabric port's partner is (R390, step 2). -/
structure PortPartner where
  partnerDomain : Nat
  partnerGroup : Nat
  partnerSlot : Nat
  partnerPort : Nat
  partnerCaps : BitVec 32
deriving DecidableEq, Repr

/-- What the steps of link training measure (R390, R391): the last step passed, the lanes that passed step 6, the insertion loss in dB
and the median round trip in tenths of a ns. -/
structure PortMeasured where
  lastStep : Nat
  lanesUp : Nat
  lossDb : Nat
  rttTenthNs : Nat
deriving DecidableEq, Repr

/-- What link training of one fabric port observes. -/
structure PortTraining extends PortPartner, PortMeasured
deriving DecidableEq, Repr

/-- A packet's way into a port input: the port, and whether the packet continues within its CLASS (R405). -/
structure HopInput where
  port : PortId
  continues : Bool
deriving DecidableEq, Repr

/-- The queue figures that a slot sends to the others of its group (R402), and a bit for each of its global ports that is down. -/
structure SlotFigures where
  queued : List Nat
  down : BitVec 32
deriving DecidableEq, Repr

/-- What boot steps 4 to 7 observe (R281, R390, R527, R562, R629, R636): channels that fail training, the densities
read at the cellar device positions, cellar channels that fail training, the reference clock, the ports' training,
the breakout ports that come up and the time to ready. -/
structure BootIn where
  hbmFail : List Nat
  cellarGib : List Nat
  cellarFail : List Nat
  refclk : Bool
  ports : List (Nat × PortTraining)
  ethUp : BitVec 4
  lanes : Nat
  bootMs : BitVec 16
deriving DecidableEq, Repr

/-- The averages of one 1 ms window (R627): input, rails, temperatures and optical levels. -/
structure Measurement where
  vin10mv : BitVec 16
  iin10ma : BitVec 16
  rails : List (BitVec 16 × BitVec 16 × BitVec 16)
  temps : List (BitVec 16)
  opticsMw : BitVec 16
  opticsLevels : BitVec 64
deriving DecidableEq, Repr

/-- A request parcel (R545), less its MAGIC and TYPE. `kmac` is the 32-byte tag of a tagged parcel. -/
structure Parcel where
  flags : BitVec 8 := 0
  privilege : BitVec 8 := 0
  tag : BitVec 32 := 0
  partition : BitVec 8 := 0
  status : BitVec 8 := 0
  detail : BitVec 16 := 0
  seq : BitVec 64 := 0
  reserved : BitVec 32 := 0
  payload : List Byte := []
  kmac : List Byte := []
deriving DecidableEq, Repr

/-- A fabric packet (R396), less its KIND. -/
structure Packet where
  flags : BitVec 8 := 0
  dst : BitVec 14 := 0
  src : BitVec 14 := 0
  viaGroup : BitVec 8 := 0
  stepTag : BitVec 8 := 0
  source : BitVec 16 := 0
  tag : BitVec 32 := 0
  address : BitVec 64 := 0
  pairCount : Nat := 0
  payload : List Byte := []
  /-- The byte mask of a short WRITE (R270, R397), a bit for each byte of `payload`; empty where every byte is written. -/
  mask : List Bool := []
  /-- Whether another module than SRC sends the packet on (R251). It then counts in no PAIR_COUNT (R396, R399). -/
  forwarded : Bool := false
deriving DecidableEq, Repr

/-- One NMR command (R242): where it came from, its header and its payload. -/
structure NmrCmd where
  fromPosition : BitVec 16 := 0
  tag : BitVec 32 := 0
  flags : BitVec 8 := 0
  count : Nat := 0
  table : Nat := 0
  step : Nat := 0
  row : Nat := 0
  column : Nat := 0
  reserved : Bool := false
  payload : List Byte := []
deriving DecidableEq, Repr

/-- One access of a channel's grain scheduler (R270, R272): a read or a masked write, its class, who issued it, and the
parity and ECC status that the stack gives it. -/
structure GrainAccess where
  write : Bool := false
  grain : Nat := 0
  first : Nat := 0
  data : List Byte := []
  /-- The byte mask of a write (R270), a bit for each byte of `data`; empty where every byte is written. -/
  mask : List Bool := []
  length : Nat := 256
  cls : Nat := 2
  writerSource : BitVec 16 := 0
  writerPosition : BitVec 14 := 0
  parityOk : Bool := true
  corrected : Bool := false
  uncorrectable : Bool := false
deriving DecidableEq, Repr

/-- A Kiln link frame that arrived (R317, R318): its partition, and how often it failed its CRC and was retried before. -/
structure KilnFrame where
  part : PartId
  crcFailures : Fin 8 := 0
deriving DecidableEq, Repr

/-- What an ACK frame acknowledges (R317): a READ, an EMIT or a STATE_OUT, towards the Kiln, or a STATE_IN, towards the package. -/
inductive AckOf where
  | read
  | emit
  | stateOut
  | stateIn
deriving DecidableEq, Repr

/-- One cellar burst (R285): where it goes and the link and device status it meets. -/
structure CellarBurst where
  channel : Fin 64
  crcFailures : Nat := 0
  corrected : Bool := false
  uncorrectable : Bool := false
deriving DecidableEq, Repr

/-- A tree message (R416): what it combines. -/
structure TreeMsg where
  kind : BitVec 8 := 0
  barrier : Nat := 0
  entries : Nat := 0
  abort : Bool := false
  step : Nat := 0
  caskFlags : Nat := 0
  sent : Nat := 0
  received : Nat := 0
  dropped : Nat := 0
  amax : List (Nat × BitVec 32) := []
  counts : List (Nat × List Nat) := []
  digest : List (Nat × List (BitVec 64)) := []
  fromPosition : Nat := 0
deriving DecidableEq, Repr

/-- A UDP datagram as the Ethernet port receives it: the breakout port, its addresses and its payload. -/
structure Datagram where
  port : Fin 4 := 0
  ipv6 : Bool := false
  srcAddr : List Byte := []
  dstPort : BitVec 16 := 0
  payload : List Byte := []
deriving DecidableEq, Repr

/-- A received frame that is not a feed, PTP, twin or cask datagram (R529). -/
inductive EthFrame where
  | arpRequest (port : Fin 4) (target : List Byte) (sender : List Byte)
  | ndpSolicit (port : Fin 4) (target : List Byte) (sender : List Byte)
  | icmpEcho (port : Fin 4) (v6 : Bool) (sender : List Byte) (body : List Byte)
  | udpUnmatched (d : Datagram)
  | macsecFail (port : Fin 4)
  | fragment (port : Fin 4)
  | stackedTag (port : Fin 4)
  | fcsError (port : Fin 4)
  | fecUncorrectable (port : Fin 4)
  | other (port : Fin 4)
deriving DecidableEq, Repr

/-- A time observation of a root: the reference minus the local counter, in ns (R437). -/
structure RefOffset where
  offset : Int
deriving DecidableEq, Repr

/-- The commands: one constructor per row of the table, in the table's order. -/
inductive Instr where
  -- power, sideband and clocks (chapters 01, 13, 17)
  | powerOnQualify (vin10mv : BitVec 16) (geo : BitVec 6) (boot : BootIn)
  | inputBelow30V
  | inputPowerFail (vin10mv : BitVec 16)
  | holdupEnd
  | inputLow (vin10mv : BitVec 16)
  | inputRange (vin10mv : BitVec 16)
  | pwrEnRise (boot : BootIn)
  | pwrEnFall
  | modResetLAssert
  | modResetLRelease (geo : BitVec 6) (boot : BootIn)
  | droopDetected (island : Fin 95)
  | droopRecovered (island : Fin 95)
  | clockStop (cluster : ClusterId)
  | clockRestart (cluster : ClusterId)
  | powerSample (watts : BitVec 16)
  | capWindowEnd (m : Measurement)
  | thermalWarn (sensor : Fin 17) (temp : BitVec 16)
  | thermalTrip (sensor : Fin 17) (temp : BitVec 16)
  | pwrCapWrite (value : BitVec 64)
  | smbusBlockRead (code : BitVec 8)
  | smbusBlockWrite (code : BitVec 8) (value : BitVec 64)
  | registerWrite (offset : Nat) (value : BitVec 64)
  -- parcels of the Uzolo port (chapter 15)
  | loadBegin (p : Parcel)
  | loadData (p : Parcel)
  | loadEnd (p : Parcel)
  | loadTimeout (part : PartId)
  | unload (p : Parcel)
  | start (p : Parcel)
  | stop (p : Parcel)
  | restore (p : Parcel)
  | status (p : Parcel)
  | capQuery (p : Parcel)
  | attest (p : Parcel)
  | regRead (p : Parcel)
  | regWrite (p : Parcel)
  | dmaOpen (p : Parcel)
  | dmaClose (p : Parcel)
  | dmaRead (p : Parcel)
  | dmaWrite (p : Parcel)
  | ringCfg (p : Parcel)
  | doorbell (p : Parcel)
  | eventsHeartbeat
  | rsBegin (p : Parcel)
  | rsData (p : Parcel) (sparesOut : Bool)
  | rsEnd (p : Parcel) (boot : BootIn)
  | key (p : Parcel)
  | jobKey (p : Parcel)
  | claim (p : Parcel)
  | release (p : Parcel)
  | floor (p : Parcel)
  | uzoRetrain
  | mgcWatchdogExpiry
  | kick
  | signatureRequest
  -- sequencer commands (chapters 02, 10)
  | nop (core : CoreId)
  | issue (core : CoreId) (engine : Engine) (desc : Fin 2048) (loopBind : Fin 8) (doneWatch : Option WatchId)
  | loop (core : CoreId) (counter : Fin 8) (count : BitVec 24) (endPc : Fin 8192) (fromWork : Bool) (word : Fin 8)
  | branch (core : CoreId) (cond : Fin 16) (sense : Bool) (target : Fin 8192)
  | setcc (core : CoreId) (mask : BitVec 7) (value : BitVec 7)
  | getWork (core : CoreId) (serviceMask : BitVec 16)
  | complete (core : CoreId) (useWord : Bool) (word : Fin 8)
  | wait (core : CoreId) (watch : WatchId) (cmp : Fin 3) (fromWork : Bool) (word : Fin 8) (target : BitVec 32)
  | signal (core : CoreId) (remote : Bool) (toCore : CoreId) (watch : WatchId) (increment : BitVec 16) (position : BitVec 14)
  | fence (core : CoreId)
  | barrier (core : CoreId) (domain : Bool) (wait : Bool) (cluster : Fin 12) (index : Fin 64)
  | raise (core : CoreId) (code : BitVec 8) (payload : BitVec 32)
  | end_ (core : CoreId)
  | endDrained (core : CoreId)
  | seqStop (core : CoreId)
  | seqSingle (core : CoreId)
  -- dispatch and synchronisation (chapter 10)
  | runStart (part : PartId) (eval : Bool)
  | itemAdmit (flow : Fin 1024)
  | workDispatch (r : Requester)
  | itemComplete (flow : Fin 1024) (seq : Nat)
  | collectRecord (core : CoreId)
  | watchWake (core : CoreId)
  | operationDone (core : CoreId) (engine : Engine)
  | fenceComplete (core : CoreId)
  | deadlock (part : PartId)
  -- matrix and vector engines (chapters 03, 04, 05)
  | mxeKStep (core : CoreId)
  | mxeTileWriteback (core : CoreId)
  | zeroPredictVerify (core : CoreId) (stream : Nat)
  | vxeChain (core : CoreId)
  | vxeSegmented (core : CoreId)
  | vxeMatmulF32 (core : CoreId)
  | vxeMatmulF64 (core : CoreId)
  | vxeTranspose (core : CoreId)
  | vxeGather (core : CoreId)
  | vxeScatter (core : CoreId)
  | vxeGrouped (core : CoreId)
  -- access engine, sort-unique, gather-scatter, reducers (chapter 07)
  | axeLoad (core : CoreId) (stream : Nat)
  | axeStore (core : CoreId) (stream : Nat)
  | axeCopy (core : CoreId) (stream : Nat)
  | axeRelay (core : CoreId) (stream : Nat)
  | sortUnique (cluster : ClusterId)
  | gsuGather (cluster : ClusterId)
  | gsuScatter (cluster : ClusterId)
  | gsuMigrate (cluster : ClusterId)
  | gsuReadout (cluster : ClusterId)
  | addW64 (c : NmrCmd)
  | addW128 (c : NmrCmd)
  | addI64 (c : NmrCmd)
  | addF32 (c : NmrCmd)
  | nmrReadout (c : NmrCmd)
  | catchupCopy (part : PartId) (table : Nat)
  -- memory (chapter 08)
  | hbmGrainAccess (channel : ChannelId) (a : GrainAccess)
  | parityRetry (channel : ChannelId) (a : GrainAccess) (attempt : Nat)
  | scrubGrain (channel : ChannelId) (grain : Nat) (corrected : Bool) (uncorrectable : Bool)
  | hbcMapoutClear (stack : StackId) (clear : BitVec 32)
  | cellarBurst (b : CellarBurst)
  -- sampler (chapter 06)
  | samplerBlock (cluster : ClusterId)
  | smpHopDraw (cluster : ClusterId)
  | sampleReq (p : Packet)
  | sampleReply (p : Packet)
  -- Kiln link and Kiln (chapter 09)
  | gradReady (frame : KilnFrame) (tensor step offset first count : Nat)
  | kilnRead (frame : KilnFrame) (offset : Nat)
  | kilnReadData (frame : KilnFrame) (offset : Nat) (data : List Byte)
  | rowGrad (frame : KilnFrame) (tensor step row : Nat) (values : List (BitVec 32))
  | rowsEnd (frame : KilnFrame) (tensor step touched : Nat)
  | emit (frame : KilnFrame) (tensor : Nat) (offset : Nat) (data : List Byte)
  | kilnAck (frame : KilnFrame) (what : AckOf)
  | stateOut (frame : KilnFrame) (tensor row position : Nat) (frozen : Bool) (record : List Byte)
  | stateIn (frame : KilnFrame) (tensor row : Nat) (frozen : Bool) (record : List Byte)
  | stepClose (frame : KilnFrame) (step : Nat)
  | stepDone (frame : KilnFrame) (step : Nat)
  | kilnEntryUpdate (part : PartId)
  | kilnLinkRetrain (ok : Bool)
  | freezeEntry (part : PartId) (rule entry effectiveStep : Nat)
  | thawEntry (part : PartId) (rule entry effectiveStep : Nat)
  | freezeRows (part : PartId) (rule entry effectiveStep : Nat)
  | thawRows (part : PartId) (rule entry effectiveStep : Nat)
  -- step boundary and live loop (chapters 01, 14)
  | stepBarrierEnter (part : PartId)
  | evalOverrun
  | tapEmit
  | feedDatagram (d : Datagram)
  | feedRecordIntake (p : Packet)
  | batchClose (batch : Nat)
  | closeMarker (p : Packet)
  -- tensor fabric (chapter 11)
  | readReq (p : Packet)
  | readData (p : Packet)
  | write (p : Packet)
  | writeAck (p : Packet)
  | nmrAck (p : Packet)
  | fabSignal (p : Packet)
  | signalAck (p : Packet)
  | migrate (p : Packet)
  | kilnState (p : Packet)
  | reduceStart (tensor : Nat)
  | reduceData (p : Packet)
  | treeUp (m : TreeMsg)
  | treeDown (m : TreeMsg)
  | cask (p : Packet)
  | groupNotice (reporter : Fin 17) (slot : Fin 17) (powerFail : Bool)
  | badPacket (kind : BitVec 8) (p : Packet)
  | packetHop (input : HopInput) (kind : BitVec 8) (p : Packet)
  | portRetrain (port : PortId) (partner : PortPartner) (x : PortMeasured) (acked : BitVec 16)
  | partnerIdle (port : PortId)
  | queueFigureExchange (slot : Fin 17) (x : SlotFigures)
  | drainGo
  | drainReq (staged : List (Nat × Nat))
  | drainCountRound (reports : List (Nat × Nat × Nat × Nat))
  | install (table : List (Nat × Nat))
  | resume (us : BitVec 20)
  | drainTimeout (missing : List Nat)
  | domainBarrierTimeout (barrier : Fin 16)
  -- sidereal time and twins (chapter 12)
  | timeMarkSend
  | timeMark (port : PortId) (value : BitVec 64)
  | slewTick
  | timeHoldover
  | ptpMessage (o : RefOffset)
  | ppsInEdge
  | ppsOutEdge
  | twinDigestForm
  | twinDigestResend
  | twinDigestFrame (frame : List Byte)
  | rollback (frame : List Byte)
  | twinFenceFrame (frame : List Byte)
  | twinTimeout
  -- casks (chapter 13)
  | riskEval
  | cskRequest
  | kilnPartSend
  | baseStart (tensor : Nat)
  | caskCommit
  | caskExport
  | caskManifest (frame : List Byte)
  | caskData (frame : List Byte)
  | caskAck (frame : List Byte)
  | caskFetch (frame : List Byte)
  | caskEnd (frame : List Byte)
  | caskRefuse (frame : List Byte)
  | caskFrameResend (seq : Nat)
  | caskRestore (step : Nat)
  -- observability (chapter 16)
  | traceRegionWrite (part : PartId)
  | pcSample (core : CoreId) (toPort : Bool)
  | cntTraceRead (part : PartId) (value : BitVec 64)
  | go (part : PartId) (owner : Bool)
  | cancel (part : PartId)
  | dumpEnd (part : PartId) (ok : Bool)
  | freeze (part : PartId)
  | thaw (part : PartId)
  | tracePortFrame
  | traceCredit (frames : BitVec 16)
  -- link changes and the rest
  | uzoPartnerLightChange (light : Bool) (lanes : Nat)
  | ethLinkChange (port : Fin 4) (up : Bool)
  | ethFrameRx (f : EthFrame)
  | tracePortLinkChange (link : Fin 3)
  | ptpOrPpsInLost
  | unknownTypeParcel (type : BitVec 16) (p : Parcel)
deriving DecidableEq, Repr

end Sys2Proof
end

