-- ==== Sys2Proof/Config.lean ====
section
/-!
DEFINITION. What the manual leaves free and what one build of the module fixes: constants without a body, which no
proof can see into. Each is named in a log entry (notes/assumptions).
-/

namespace Sys2Proof.Config

/-- A free value: what the manual leaves open, drawn at the counter `State` advances. -/
opaque freeWord : Nat → BitVec 64

/-- Signs a message under the device identity key with a leaf index (R568, R570): the secret has no read path, so the
18,469 bytes are not visible to the model. -/
opaque identitySign : Nat → List Byte → List Byte

/-- Whether an XMSS-SHAKE256_20_256 signature verifies under a public key (R564, cause 5). -/
opaque imageSignatureOk : List Byte → List Byte → List Byte → Bool

/-- Whether the signature of a cask manifest verifies (R489): the keys of other modules are not visible to the model. -/
opaque manifestSignatureOk : List Byte → Bool

/-- The identity root and PUB_SEED, 64 bytes, recorded at manufacture (R568). -/
opaque identityPublicKey : List Byte

/-- The PK_HASH fused at manufacture (R564, cause 4). -/
opaque pkHash : List Byte

/-- The module's MAC address, given at manufacture (R43, R527). -/
opaque macAddress : Nat → Byte

/-- Whether fusedMultiplyAdd of infinity and zero with a quiet NaN signals INVALID (IEEE 754-2019, 7.2). -/
opaque fmaInvalidOnQuietNan : Bool

/-- Whether the STATE of a sequencer that a FENCE holds shows what an engine of its core waits for (R65, R70). -/
opaque fenceShowsEngine : Bool

/-- Which of the edges that reach a node of a LAYER hop gives its target time and seed (R194 names none): a value of what R210
keeps fixed. -/
opaque layerEdge : List Nat → BitVec 64

/-- Node entries that hops which are not drawn would have added to a truncated block (R207). -/
opaque hopsNotDrawn : List Nat → BitVec 64

/-- Whether the home of a shard has an edge type TIMED there (R176): a sample reply does not carry it. -/
opaque homeTimed : Nat → Nat → Bool

/-- How often a frame is sent again for a failed CRC (R394), by port and the number of frames sent before it. -/
opaque frameResends : List Nat → BitVec 4

/-- How many frames of the Uzolo link's replay buffer are not acknowledged at a retrain (R542), by the resends counted before it. -/
opaque uzoUnacked : Nat → BitVec 11

/-- How many of the eight buffers of a stop other messages hold when one enters a ring (R407), by die, stop, direction and the grains
carried before. -/
opaque ringHeld : List Nat → BitVec 4

/-- SID_SOURCE in the configuration block of another module, by physical number (R431). -/
opaque sidSourceOf : Nat → BitVec 2

/-- Silicon stepping of the package (R43). -/
opaque stepping : BitVec 16

/-- Whether the part is a KZM-J9410 (R1); a KZM-J9408 otherwise. -/
opaque isJ9410 : Bool

end Sys2Proof.Config
end

