-- ==== Sys2Proof/Machine/Data.lean ====
section
/-!
DEFINITION. Sparse data in one canonical form: a list of key and value pairs, keys strictly rising, no entry equal to
what an unlisted key reads as. Memories, register files and every table of the state that is indexed by number use it.
-/

namespace Sys2Proof.Machine

/-- A sparse table from numbers to values. -/
abbrev AMap (α : Type) := List (Nat × α)

/-- The value at key `k`; `d` where none is listed. -/
def AMap.get {α : Type} (d : α) : AMap α → Nat → α
  | [], _ => d
  | (a, v) :: r, k => if k = a then v else AMap.get d r k

/-- The table without key `k`. -/
def AMap.drop {α : Type} (m : AMap α) (k : Nat) : AMap α := m.filter fun e => decide (e.1 ≠ k)

/-- Lists `v` at a key that is not listed, at its place in the order of keys. -/
def AMap.put {α : Type} : AMap α → Nat → α → AMap α
  | [], k, v => [(k, v)]
  | (a, x) :: r, k, v => if k < a then (k, v) :: (a, x) :: r else (a, x) :: AMap.put r k v

/-- Puts `v` at key `k`, keeping the canonical form: an entry equal to the default is removed. -/
def AMap.set {α : Type} [DecidableEq α] (d : α) (m : AMap α) (k : Nat) (v : α) : AMap α :=
  if v = d then m.drop k else (m.drop k).put k v

/-- Changes the value at key `k`. -/
def AMap.upd {α : Type} [DecidableEq α] (d : α) (m : AMap α) (k : Nat) (f : α → α) : AMap α :=
  AMap.set d m k (f (AMap.get d m k))

/-- Whether the keys rise strictly above `lo` and no entry equals the default. -/
def AMap.wfFrom {α : Type} [DecidableEq α] (d : α) : Nat → AMap α → Bool
  | _, [] => true
  | lo, (a, v) :: r => decide (lo ≤ a) && decide (v ≠ d) && AMap.wfFrom d (a + 1) r

/-- The canonical form. -/
def AMap.wf {α : Type} [DecidableEq α] (d : α) (m : AMap α) : Bool := AMap.wfFrom d 0 m

/-- A memory: the bytes that differ from 0, by address. An unlisted byte reads as 0. -/
abbrev Memory := AMap Byte

/-- The canonical form of a memory. -/
abbrev Memory.wf (m : Memory) : Bool := AMap.wf (0 : Byte) m

/-- The byte at an address. -/
def Memory.byte (m : Memory) (a : Nat) : Byte := AMap.get 0 m a

/-- Writes one byte. -/
def Memory.setByte (m : Memory) (a : Nat) (b : Byte) : Memory := AMap.set 0 m a b

/-- The `n` bytes from address `a` upwards. -/
def Memory.read (m : Memory) (a : Nat) : Nat → List Byte
  | 0 => []
  | n + 1 => m.byte a :: Memory.read m (a + 1) n

/-- Writes a run of bytes from address `a` upwards. -/
def Memory.write (m : Memory) (a : Nat) : List Byte → Memory
  | [] => m
  | b :: bs => Memory.write (m.setByte a b) (a + 1) bs

/-- Removes every byte listed at `lo` or above and below `hi`: they then read as 0. -/
def Memory.zero (m : Memory) (lo hi : Nat) : Memory :=
  m.filter fun e => decide (e.1 < lo) || decide (hi ≤ e.1)

/-- Removes every entry of a table whose key lies in `[lo, hi)`. -/
def AMap.clear {α : Type} (m : AMap α) (lo hi : Nat) : AMap α :=
  m.filter fun e => decide (e.1 < lo) || decide (hi ≤ e.1)

/-- The unsigned number that little-endian bytes spell (R4). -/
def leNat : List Byte → Nat
  | [] => 0
  | b :: bs => b.toNat + 256 * leNat bs

/-- `n` little-endian bytes of a number (R4). -/
def leBytes : Nat → Nat → List Byte
  | 0, _ => []
  | n + 1, v => BitVec.ofNat 8 v :: leBytes n (v / 256)

/-- The unsigned number that bytes in network order spell (R4). -/
def beNat (bs : List Byte) : Nat := leNat bs.reverse

/-- `n` bytes of a number in network order (R4). -/
def beBytes (n v : Nat) : List Byte := (leBytes n v).reverse

/-- The `n` bytes of a list from position `o`; positions beyond its end read as 0. -/
def slice (bs : List Byte) (o n : Nat) : List Byte :=
  let s := (bs.drop o).take n
  s ++ List.replicate (n - s.length) 0

/-- The little-endian number of `n` bytes at position `o` of a list. -/
def leAt (bs : List Byte) (o n : Nat) : Nat := leNat (slice bs o n)

/-- The number of `n` bytes in network order at position `o` of a list. -/
def beAt (bs : List Byte) (o n : Nat) : Nat := beNat (slice bs o n)

/-- Bits `[lo + w - 1 : lo]` of a number. -/
def bitsAt (v lo w : Nat) : Nat := v / 2 ^ lo % 2 ^ w

/-- Bit `i` of a number. -/
def bitAt (v i : Nat) : Bool := decide (v / 2 ^ i % 2 = 1)

/-- `x` rounded up to a multiple of `m`. -/
def roundUp (x m : Nat) : Nat := (x + m - 1) / m * m

/-- The quotient rounded up. -/
def ceilDiv (a b : Nat) : Nat := (a + b - 1) / b

/-- Whether every byte is 0. -/
def allZero (bs : List Byte) : Bool := bs.all fun b => decide (b = 0)

/-- Numbers from `0` to `n - 1` for which the test holds. -/
def numbersWhere (n : Nat) (p : Nat → Bool) : List Nat := (List.range n).filter p

end Sys2Proof.Machine
end

