-- ==== Sys2Proof/Machine/RegMap.lean ====
section
/-!
DEFINITION. The control-space address map (R5, R658) and the field map of every register the manual gives,
with access codes and reset values (R6, R7, R8). A register is written once here; `Ops` reads and writes by it.
-/

namespace Sys2Proof.Machine

/-- The access codes of R6. -/
inductive Access where
  | ro | rw | w1c | rc | wo | rwl
deriving DecidableEq, Repr

/-- One field of a register: its lowest bit, width, access code and reset value (R6, R7). -/
structure Field where
  lo : Nat
  width : Nat
  access : Access
  reset : Nat := 0
deriving DecidableEq, Repr

/-- One register, or `count` registers `stride` bytes apart. -/
structure RegDef where
  name : String
  off : Nat
  count : Nat := 1
  stride : Nat := 8
  fields : List Field
deriving DecidableEq, Repr

/-- The register blocks of R658. -/
inductive Block where
  | seq | mxe | vxe | axe | smp | gsu | suq | nmr | hbc | kln | disp | cjuCore | cjuBar
  | fab | fabPort | orb | sid | csk | eth | hop | tap | uzo | sec | mgc | trc | cnt | pwr
deriving DecidableEq, Repr

/-- Base of a block's first instance (R658). -/
def Block.base : Block → Nat
  | .seq => 0x00100000
  | .mxe => 0x00280000
  | .vxe => 0x00400000
  | .axe => 0x00580000
  | .smp => 0x00700000
  | .gsu => 0x00730000
  | .suq => 0x00760000
  | .nmr => 0x00790000
  | .hbc => 0x00798000
  | .kln => 0x007A0000
  | .disp => 0x007B0000
  | .cjuCore => 0x00800000
  | .cjuBar => 0x00980000
  | .fab => 0x00A00000
  | .fabPort => 0x00A10000
  | .orb => 0x00A40000
  | .sid => 0x00A80000
  | .csk => 0x00A90000
  | .eth => 0x00AA0000
  | .hop => 0x00AB0000
  | .tap => 0x00AC0000
  | .uzo => 0x00AD0000
  | .sec => 0x00AE0000
  | .mgc => 0x00AF0000
  | .trc => 0x00B00000
  | .cnt => 0x00B10000
  | .pwr => 0x00B20000

/-- Instances of a block (R658). -/
def Block.instances : Block → Nat
  | .seq | .mxe | .vxe | .axe | .cjuCore => 384
  | .smp | .gsu | .suq | .cjuBar => 48
  | .nmr | .hbc => 8
  | .disp | .orb | .cnt => 4
  | .fabPort => 48
  | .kln | .fab | .sid | .csk | .eth | .hop | .tap | .uzo | .sec | .mgc | .trc | .pwr => 1

/-- The blocks in ascending base. -/
def Block.all : List Block :=
  [.seq, .mxe, .vxe, .axe, .smp, .gsu, .suq, .nmr, .hbc, .kln, .disp, .cjuCore, .cjuBar,
   .fab, .fabPort, .orb, .sid, .csk, .eth, .hop, .tap, .uzo, .sec, .mgc, .trc, .cnt, .pwr]

/-- The offset in control space of register offset `off` of instance `i` of a block (R5). -/
def Block.addr (b : Block) (i off : Nat) : Nat := b.base + i * 0x1000 + off

/-- The block, instance and register offset that a control-space offset names; none outside R658. -/
def locate (a : Nat) : Option (Block × Nat × Nat) :=
  (Block.all.find? fun b => decide (b.base ≤ a) && decide (a < b.base + b.instances * 0x1000)).map
    fun b => (b, (a - b.base) / 0x1000, (a - b.base) % 0x1000)

/-- An RO field. -/
def ro (lo width : Nat) (reset : Nat := 0) : Field := ⟨lo, width, .ro, reset⟩
/-- An RW field. -/
def rw (lo width : Nat) (reset : Nat := 0) : Field := ⟨lo, width, .rw, reset⟩
/-- A W1C field. -/
def w1c (lo width : Nat) (reset : Nat := 0) : Field := ⟨lo, width, .w1c, reset⟩
/-- A WO field. -/
def wo (lo width : Nat) : Field := ⟨lo, width, .wo, 0⟩
/-- An RWL field. -/
def rwl (lo width : Nat) (reset : Nat := 0) : Field := ⟨lo, width, .rwl, reset⟩

/-- An always-on 64-bit counter (R586). -/
def ctr (name : String) (off : Nat) : RegDef := { name := name, off := off, fields := [ro 0 64] }

/-- All ones in 64 bits. -/
def allOnes64 : Nat := 0xFFFFFFFFFFFFFFFF

/-- SEQ block (R69 to R73). -/
def seqRegs : List RegDef :=
  [⟨"SEQ_CTRL", 0x000, 1, 8, [rw 0 1, wo 1 1, rwl 2 1 1]⟩,
   ⟨"SEQ_STATUS", 0x008, 1, 8, [ro 0 13, ro 16 4, ro 20 4, ro 32 16 0x8000, ro 48 7 0x7F]⟩,
   ⟨"SEQ_ENTRY", 0x010, 1, 8, [ro 0 13, ro 16 13, ro 29 1 1]⟩,
   ⟨"SEQ_LOOP", 0x020, 8, 8, [ro 0 24, ro 24 24, ro 48 13, ro 63 1]⟩,
   ctr "SEQ_MISPREDICT" 0x060, ctr "SEQ_COMMANDS" 0x068]

/-- MXE block (R143 to R146, R173). -/
def mxeRegs : List RegDef :=
  [⟨"MXE_CTX", 0x000, 4, 8, [ro 0 1, ro 1 1]⟩,
   ⟨"MXE_STATUS", 0x040, 1, 8, [ro 0 4, ro 4 4, ro 8 11, ro 19 1, ro 20 1]⟩,
   ⟨"MXE_FAULT", 0x048, 1, 8, [ro 0 4, ro 4 4, ro 8 11, ro 32 16, w1c 63 1]⟩,
   ctr "MXE_BUSY" 0x080, ctr "MXE_OPERAND_WAIT" 0x088, ctr "MXE_TILES_OUT" 0x090,
   ctr "MXE_SPARSE_STEPS" 0x098, ctr "MXE_ROW_SPLITS" 0x0A0, ctr "MXE_PREDICT_SKIPS" 0x0A8,
   ctr "MXE_PREDICT_RECOMPUTES" 0x0B0]

/-- VXE block (R147 to R151). -/
def vxeRegs : List RegDef :=
  [⟨"VXE_CTX", 0x000, 4, 8, [ro 0 1, ro 1 1]⟩,
   ⟨"VXE_STATUS", 0x040, 1, 8, [ro 0 4, ro 4 4, ro 8 11, ro 19 3]⟩,
   ⟨"VXE_FAULT", 0x048, 1, 8, [ro 0 4, ro 4 4, ro 8 11, ro 32 16, w1c 63 1]⟩,
   ⟨"VXE_STICKY", 0x050, 1, 8, [w1c 0 7]⟩,
   ctr "VXE_BUSY" 0x080, ctr "VXE_STAGE_CYCLES" 0x088, ctr "VXE_ELEMENTS" 0x090]

/-- AXE block (R254 to R258, R292). -/
def axeRegs : List RegDef :=
  [⟨"AXE_CTRL", 0x000, 1, 8, [rw 0 1]⟩,
   ⟨"AXE_STATUS", 0x008, 1, 8, [ro 0 4, ro 4 4, ro 8 7, ro 16 9]⟩,
   ⟨"AXE_FAULT", 0x010, 1, 8, [ro 0 4, ro 4 4, ro 8 4, ro 12 11, ro 32 16, ro 48 8, w1c 63 1]⟩,
   ⟨"AXE_FAULT_WRITER", 0x018, 1, 8, [ro 0 16, ro 16 14]⟩,
   ctr "AXE_GRAINS_READ" 0x080, ctr "AXE_GRAINS_WRITTEN" 0x088, ctr "AXE_GUARD_HITS" 0x090,
   ctr "AXE_SLOT_WAIT" 0x098, ctr "AXE_HOT_CHANNEL" 0x0A0]

/-- SMP block (R213 to R216). -/
def smpRegs : List RegDef :=
  [⟨"SMP_STATUS", 0x000, 1, 8, [ro 0 4, ro 4 5, ro 16 9, ro 32 8]⟩,
   ⟨"SMP_FAULT", 0x008, 1, 8, [ro 0 4, ro 8 8, ro 16 8, ro 24 3, w1c 63 1]⟩,
   ⟨"SMP_FAULT_NODE", 0x010, 1, 8, [ro 0 40]⟩,
   ctr "SMP_BLOCKS" 0x080, ctr "SMP_EDGES" 0x088, ctr "SMP_WORDS" 0x090, ctr "SMP_REMOTE_SENT" 0x098,
   ctr "SMP_REMOTE_SERVED" 0x0A0, ctr "SMP_REMOTE_FAULTS" 0x0A8, ctr "SMP_TRUNCATED" 0x0B0,
   ctr "SMP_FRONTIER_TRUNC" 0x0B8, ctr "SMP_HUB_SPLITS" 0x0C0, ctr "SMP_REPLAYS" 0x0C8]

/-- GSU block (R259 to R262, R292). -/
def gsuRegs : List RegDef :=
  [⟨"GSU_DIR_BASE", 0x000, 1, 8, [ro 0 48]⟩,
   ⟨"GSU_FAULT", 0x008, 1, 8, [ro 0 4, ro 8 8, ro 16 24, w1c 63 1]⟩,
   ⟨"GSU_FAULT_ROW", 0x010, 1, 8, [ro 0 48]⟩,
   ctr "GSU_ROWS_GATHERED" 0x080, ctr "GSU_CONTRIBS_SENT" 0x088, ctr "GSU_CONTRIB_ZEROED" 0x090,
   ctr "GSU_MIGRATIONS" 0x098, ctr "GSU_MIGRATE_REFUSED" 0x0A0, ctr "GSU_HOT_CHANNEL" 0x0A8]

/-- SUQ block (R260, R262). -/
def suqRegs : List RegDef :=
  [⟨"SUQ_FAULT", 0x008, 1, 8, [ro 0 4, ro 8 8, ro 16 24, w1c 63 1]⟩,
   ctr "SUQ_KEYS_IN" 0x080, ctr "SUQ_KEYS_UNIQUE" 0x088, ctr "SUQ_KEYS_EXCLUDED" 0x090]

/-- NMR block (R260, R261, R263, R264). -/
def nmrRegs : List RegDef :=
  [⟨"NMR_STICKY", 0x000, 1, 8, [w1c 0 6]⟩,
   ⟨"NMR_FAULT", 0x008, 1, 8, [ro 0 4, ro 8 8, ro 16 24, w1c 63 1]⟩,
   ⟨"NMR_FAULT_ROW", 0x010, 1, 8, [ro 0 48]⟩,
   ctr "NMR_CONTRIBS" 0x080, ctr "NMR_READOUT_ROWS" 0x088, ctr "NMR_WINDOW_OVERFLOWS" 0x090,
   ctr "NMR_FORWARDED" 0x098, ctr "NMR_CATCHUP_GRAINS" 0x0A0, ctr "NMR_CATCHUP_HOLDS" 0x0A8]

/-- HBC block (R287 to R291). -/
def hbcRegs : List RegDef :=
  [⟨"HBC_CHANNEL_STATE", 0x000, 1, 8, [ro 0 64]⟩,
   ⟨"HBC_MAPOUT_CLEAR", 0x008, 1, 8, [wo 0 32]⟩,
   ⟨"HBC_CTRL", 0x010, 1, 8, [rw 0 16 4096, rw 16 8 24]⟩,
   ⟨"HBC_FAULT", 0x018, 1, 8, [ro 0 4, ro 4 4, ro 8 5, w1c 63 1]⟩,
   ctr "HBC_GRAINS_READ" 0x080, ctr "HBC_GRAINS_WRITTEN" 0x088, ctr "HBC_SHORT_ACCESSES" 0x090,
   ctr "HBC_PARITY_RETRIES" 0x098, ctr "HBC_ECC_CORRECTED" 0x0A0, ctr "HBC_ECC_UNCORRECTED" 0x0A8,
   ctr "HBC_BULK_WAIT" 0x0B0, ctr "HBC_FLOOR_GRANTS" 0x0B8, ctr "HBC_SCRUB_GRAINS" 0x0C0,
   ⟨"HBC_CHANNEL_ECC", 0x200, 32, 8, [ro 0 64]⟩]

/-- KLN block (R328 to R335, R294). -/
def klnRegs : List RegDef :=
  [⟨"KLN_STATUS", 0x000, 1, 8, [ro 0 4, ro 4 2, ro 8 8, ro 16 12, ro 32 16]⟩,
   ⟨"KLN_FAULT", 0x008, 1, 8, [ro 0 4, ro 4 2, ro 8 8, ro 16 24, w1c 63 1]⟩,
   ⟨"KLN_STICKY", 0x010, 1, 8, [w1c 0 4]⟩,
   ⟨"KLN_FREEZE_CMD", 0x018, 1, 8, [wo 0 8, wo 8 12, wo 20 2, wo 22 2, wo 24 40]⟩,
   ⟨"KLN_FREEZE_LIST", 0x020, 1, 8, [rw 0 48, rw 48 16]⟩,
   ⟨"KLN_FREEZE_STATUS", 0x028, 1, 8, [ro 0 1, ro 1 2]⟩,
   ⟨"KLN_STEP", 0x030, 4, 8, [ro 0 64 allOnes64]⟩,
   ctr "KLN_ENTRIES_UPDATED" 0x080, ctr "KLN_ELEMENTS_UPDATED" 0x088, ctr "KLN_ROWS_UPDATED" 0x090,
   ctr "KLN_FROZEN_SKIPS" 0x098, ctr "KLN_NONFINITE_SKIPS" 0x0A0, ctr "KLN_MATRIX_CYCLES" 0x0A8,
   ctr "KLN_EMIT_GRAINS" 0x0B0, ctr "KLN_ROWS_MOVED" 0x0B8, ctr "KLN_FREEZE_REFUSED" 0x0C0,
   ctr "KLN_LINK_RETRIES" 0x0C8,
   ⟨"KLN_CELLAR_STATE", 0x100, 1, 8, [ro 0 64]⟩,
   ctr "KLN_CELLAR_RETRIES" 0x108, ctr "KLN_CELLAR_CORRECTED" 0x110]

/-- DISP block (R374 to R378, R380). -/
def dispRegs : List RegDef :=
  [⟨"DISP_CTRL", 0x000, 1, 8, [rw 0 10 50]⟩,
   ⟨"DISP_STATUS", 0x008, 1, 8, [ro 0 14, ro 16 7, ro 23 1, ro 24 1]⟩,
   ⟨"DISP_FAULT", 0x010, 1, 8, [ro 0 4, ro 8 8, ro 16 10, w1c 63 1]⟩,
   ⟨"DISP_DEADLOCK", 0x018, 1, 8, [ro 0 9, ro 9 9, ro 18 9, ro 27 9, ro 36 9, ro 45 9]⟩,
   ctr "DISP_DISPATCHED" 0x080, ctr "DISP_RELEASED" 0x088, ctr "DISP_READY_FULL" 0x090,
   ctr "DISP_IMPLICIT_COMPLETES" 0x098, ctr "DISP_STRAY_COMPLETES" 0x0A0, ctr "DISP_COLLECT_HOLDS" 0x0A8,
   ctr "DISP_COLLECT_DISCARDS" 0x0B0, ctr "DISP_DEADLOCKS" 0x0B8,
   ⟨"DISP_DBAR", 0x108, 15, 8, [ro 0 1, ro 1 9, ro 10 9, ro 19 9]⟩]

/-- CJU core block (R379). -/
def cjuCoreRegs : List RegDef :=
  [⟨"CJU_WATCH", 0x000, 48, 8, [ro 0 64]⟩,
   ⟨"CJU_WAIT", 0x180, 1, 8, [ro 0 32, ro 32 6, ro 38 2, ro 40 1]⟩]

/-- CJU barrier block (R380 to R382). -/
def cjuBarRegs : List RegDef :=
  [⟨"CJU_BAR", 0x000, 64, 8, [ro 0 1, ro 1 7, ro 8 7, ro 15 7]⟩,
   ⟨"CJU_BAR_FAULT", 0x200, 1, 8, [ro 0 8, ro 8 4, ro 12 1, ro 16 9, w1c 63 1]⟩,
   ctr "CJU_BARRIER_ROUNDS" 0x280, ctr "CJU_EARLY_ENTRIES" 0x288, ctr "CJU_BARRIER_ABANDONED" 0x290]

/-- FAB block (R422 to R427). -/
def fabRegs : List RegDef :=
  [⟨"FAB_CTRL", 0x000, 1, 8, [rw 0 1 1, rw 8 16 4096, rw 32 16 2000, rw 48 16 1000]⟩,
   ⟨"FAB_STATUS", 0x008, 1, 8, [ro 0 2, ro 16 14 0x3FFF, ro 32 8, ro 40 5, ro 48 2]⟩,
   ⟨"FAB_DRAIN_CMD", 0x010, 1, 8, [wo 0 1]⟩,
   ⟨"FAB_DRAIN", 0x018, 1, 8, [ro 0 20, ro 20 4, ro 24 8]⟩,
   ⟨"FAB_POSTAB_INDEX", 0x020, 1, 8, [rw 0 14, rw 14 1]⟩,
   ⟨"FAB_POSTAB_DATA", 0x028, 1, 8, [rw 0 16 0xFFFF]⟩,
   ⟨"FAB_FAULT", 0x030, 1, 8, [ro 0 4, ro 8 8, ro 16 14, w1c 63 1]⟩,
   ctr "FAB_PACKETS_SENT" 0x080, ctr "FAB_PACKETS_RECEIVED" 0x088, ctr "FAB_NONMIN" 0x090,
   ctr "FAB_ORDER_HOLDS" 0x098, ctr "FAB_DROPPED_DEAD" 0x0A0, ctr "FAB_STEP_EARLY_HOLDS" 0x0A8,
   ctr "FAB_CIRCUIT_FALLBACKS" 0x0B0, ctr "FAB_REDUCE_OVERFLOWS" 0x0B8, ctr "FAB_ABORTS" 0x0C0,
   ctr "FAB_DRAINS" 0x0C8, ctr "FAB_BUBBLE_WAITS" 0x0D0, ctr "FAB_BAD_PACKETS" 0x0D8]

/-- FAB_PORT block (R428, R429). -/
def fabPortRegs : List RegDef :=
  [⟨"FAB_PORT_STATUS", 0x000, 1, 8, [ro 0 2, ro 2 3, ro 5 3, ro 8 2, ro 16 16, ro 32 16 0xFFFF]⟩,
   ⟨"FAB_PORT_CAPS", 0x008, 1, 8, [ro 0 32]⟩,
   ctr "FAB_PORT_FRAMES_TX" 0x080, ctr "FAB_PORT_FRAMES_RX" 0x088, ctr "FAB_PORT_RETRIES" 0x090,
   ctr "FAB_PORT_RETRAINS" 0x098, ctr "FAB_PORT_FEC_CORRECTED" 0x0A0, ctr "FAB_PORT_FEC_UNCORRECTED" 0x0A8]

/-- ORB block (R429). -/
def orbRegs : List RegDef :=
  [ctr "ORB_GRAINS_CW" 0x080, ctr "ORB_GRAINS_CCW" 0x088, ctr "ORB_CROSSING_GRAINS" 0x090,
   ctr "ORB_BUBBLE_WAITS" 0x098]

/-- SID block (R461 to R467); the island counters are three arrays of 95 with stride 0x18. -/
def sidRegs : List RegDef :=
  [⟨"SID_NOW", 0x000, 1, 8, [ro 0 64]⟩,
   ⟨"SID_SET", 0x008, 1, 8, [rwl 0 64]⟩,
   ⟨"SID_STATUS", 0x010, 1, 8, [ro 0 3, ro 3 2, ro 5 3, ro 8 6 0x3F, ro 16 16]⟩,
   ⟨"SID_TWIN_CTRL", 0x018, 1, 8, [rw 0 16 5000, rw 16 32 100000]⟩,
   ⟨"SID_TWIN_STATUS", 0x020, 1, 8, [ro 0 3, ro 3 2, ro 5 2]⟩,
   ⟨"SID_TWIN_MATCHED", 0x028, 1, 8, [ro 0 64 allOnes64]⟩,
   ⟨"SID_TWIN_DIGEST", 0x030, 4, 8, [ro 0 64]⟩,
   ctr "SID_MARKS_RX" 0x080, ctr "SID_SLEW_NS" 0x088, ctr "SID_HOLDOVERS" 0x090,
   ctr "SID_RESYNC_STAMPS" 0x098, ctr "SID_TWIN_STEPS" 0x0A0, ctr "SID_TWIN_MISMATCHES" 0x0A8,
   ctr "SID_TWIN_ROLLBACKS" 0x0B0, ctr "SID_TWIN_BAD_FRAMES" 0x0B8,
   ⟨"SID_CYCLES", 0x400, 95, 0x18, [ro 0 64]⟩,
   ⟨"SID_STRETCHED_CYCLES", 0x408, 95, 0x18, [ro 0 64]⟩,
   ⟨"SID_CLOCK_STOPS", 0x410, 95, 0x18, [ro 0 64]⟩]

/-- CSK block (R498 to R502). -/
def cskRegs : List RegDef :=
  [⟨"CSK_CTRL", 0x000, 1, 8, [rw 0 16 4096, rw 16 16 2048, rw 32 8 16, rw 40 8 64, rw 48 8 24]⟩,
   ⟨"CSK_REQUEST", 0x008, 1, 8, [wo 0 1]⟩,
   ⟨"CSK_STATUS", 0x010, 1, 8, [ro 0 3, ro 3 1, ro 4 1, w1c 5 1, ro 16 16, ro 32 32]⟩,
   ⟨"CSK_LAST", 0x018, 1, 8, [ro 0 64 allOnes64]⟩,
   ⟨"CSK_LAST_STOP", 0x020, 1, 8, [ro 0 32, ro 32 32]⟩,
   ctr "CSK_CASKS" 0x080, ctr "CSK_DEFERRED" 0x088, ctr "CSK_COW_WAITS" 0x090,
   ctr "CSK_JOURNAL_BYTES" 0x098, ctr "CSK_JOURNAL_HEAVY" 0x0A0, ctr "CSK_RING_HOLDS" 0x0A8,
   ctr "CSK_EXPORTS" 0x0B0, ctr "CSK_EXPORT_FAILS" 0x0B8, ctr "CSK_RESTORES" 0x0C0]

/-- ETH block (R540, R541). -/
def ethRegs : List RegDef :=
  [⟨"ETH_STATUS", 0x000, 1, 8, [ro 0 2, ro 2 4, ro 6 4, ro 10 1]⟩,
   ctr "ETH_FRAMES_RX" 0x080, ctr "ETH_FRAMES_TX" 0x088, ctr "ETH_FCS_ERRORS" 0x090,
   ctr "ETH_FEC_UNCORRECTED" 0x098, ctr "ETH_MACSEC_DISCARDS" 0x0A0, ctr "ETH_UDP_DISCARDS" 0x0A8,
   ctr "ETH_PTP_MESSAGES" 0x0B0]

/-- HOP block (R533 to R536). -/
def hopRegs : List RegDef :=
  [⟨"HOP_LOOP", 0x000, 1, 8, [rw 0 16 1000, rw 16 8 8, rw 24 16 0, rw 40 16 2000, rw 56 8 100]⟩,
   ⟨"HOP_INTAKE", 0x008, 1, 8, [rw 0 48, rw 48 16]⟩,
   ⟨"HOP_STATUS", 0x010, 1, 8, [ro 0 2, ro 2 1]⟩,
   ⟨"HOP_CUT", 0x018, 1, 8, [ro 0 64 allOnes64]⟩,
   ⟨"HOP_CUT_TIME", 0x020, 1, 8, [ro 0 64]⟩,
   ctr "HOP_DATAGRAMS" 0x080, ctr "HOP_RECORDS" 0x088, ctr "HOP_FORWARDED" 0x090,
   ctr "HOP_APPLIED" 0x098, ctr "HOP_LATE" 0x0A0, ctr "HOP_REFUSED" 0x0A8, ctr "HOP_RX_DROPS" 0x0B0,
   ctr "HOP_BAD_DATAGRAMS" 0x0B8, ctr "HOP_DUPLICATES" 0x0C0, ctr "HOP_LOG_REPLAYED" 0x0C8]

/-- TAP block (R537 to R539). -/
def tapRegs : List RegDef :=
  [⟨"TAP_PROPOSALS", 0x000, 1, 8, [rw 0 48, rw 48 16]⟩,
   ⟨"TAP_STATE", 0x008, 1, 8, [rw 0 48, rw 48 16]⟩,
   ⟨"TAP_CTRL", 0x010, 1, 8, [rw 0 1 1]⟩,
   ⟨"TAP_STATUS", 0x018, 1, 8, [ro 0 3]⟩,
   ctr "TAP_PROPOSALS_READ" 0x080, ctr "TAP_ENTRIES_SENT" 0x088, ctr "TAP_DATAGRAMS" 0x090,
   ctr "TAP_LIMITED" 0x098, ctr "TAP_HELD" 0x0A0, ctr "TAP_DROPPED" 0x0A8, ctr "TAP_STATE_FULL" 0x0B0,
   ctr "TAP_SLOTS_SKIPPED" 0x0B8, ctr "TAP_EVAL_OVERRUNS" 0x0C0]

/-- UZO block (R579, R580). -/
def uzoRegs : List RegDef :=
  [⟨"UZO_STATUS", 0x000, 1, 8, [ro 0 3, ro 3 2]⟩,
   ⟨"UZO_EVENT_CTRL", 0x008, 1, 8, [rw 0 1 1, rw 1 3]⟩,
   ctr "UZO_PARCELS_RX" 0x080, ctr "UZO_PARCELS_TX" 0x088, ctr "UZO_AUTH_FAILS" 0x090,
   ctr "UZO_REPLAYS" 0x098, ctr "UZO_EVENTS_SENT" 0x0A0, ctr "UZO_EVENTS_LOST" 0x0A8,
   ctr "UZO_LINK_RETRIES" 0x0B0, ctr "UZO_BAD_DOORBELLS" 0x0B8, ctr "UZO_DMA_BYTES" 0x0C0]

/-- SEC block (R581 to R583). -/
def secRegs : List RegDef :=
  [⟨"SEC_STATUS", 0x000, 1, 8, [ro 0 4, ro 4 1, ro 5 1, ro 8 4, ro 12 8]⟩,
   ⟨"SEC_BOOT_ID", 0x008, 1, 8, [ro 0 64]⟩,
   ⟨"SEC_XMSS_NEXT", 0x010, 1, 8, [ro 0 41]⟩,
   ⟨"SEC_XMSS_RESERVED", 0x018, 1, 8, [ro 0 41]⟩,
   ctr "SEC_SIGNATURES" 0x080, ctr "SEC_SIGN_REFUSED" 0x088, ctr "SEC_RESERVATIONS" 0x090]

/-- MGC block (R584, R585). -/
def mgcRegs : List RegDef :=
  [⟨"MGC_WDT", 0x000, 1, 8, [rwl 0 16 2000, wo 16 1]⟩,
   ⟨"MGC_STATUS", 0x008, 1, 8, [ro 0 2, ro 2 1, ro 16 16]⟩,
   ctr "MGC_RESTARTS" 0x080, ctr "MGC_CONFIG_SKIPS" 0x088]

/-- TRC block (R617, R618). -/
def trcRegs : List RegDef :=
  [⟨"TRC_PORT_CTRL", 0x000, 1, 8, [rw 0 1, rw 1 6, rw 8 5 16]⟩,
   ⟨"TRC_PORT_STATUS", 0x008, 1, 8, [ro 0 2, ro 2 1, ro 3 1, ro 16 16]⟩,
   ctr "TRC_FRAMES" 0x080, ctr "TRC_RECORDS" 0x088, ctr "TRC_THROTTLE_CYCLES" 0x090, ctr "TRC_LOST" 0x098,
   ctr "TRC_LINK_RETRIES" 0x0A0]

/-- CNT block (R611 to R616). -/
def cntRegs : List RegDef :=
  [⟨"CNT_TRACE_REGION", 0x000, 1, 8, [rw 0 48, rw 48 16]⟩,
   ⟨"CNT_TRACE_CTRL", 0x008, 1, 8, [rw 0 5, rw 8 5 16, ro 13 1]⟩,
   ⟨"CNT_TRACE_WRITE", 0x010, 1, 8, [ro 0 48]⟩,
   ⟨"CNT_TRACE_READ", 0x018, 1, 8, [rw 0 48]⟩,
   ⟨"CNT_DUMP_TENSOR", 0x020, 1, 8, [rw 0 24, rw 24 1, rw 25 1]⟩,
   ⟨"CNT_DUMP_STEP", 0x028, 1, 8, [rw 0 64]⟩,
   ⟨"CNT_DUMP_REGION", 0x030, 1, 8, [rw 0 48, rw 48 16]⟩,
   ⟨"CNT_DUMP_CMD", 0x038, 1, 8, [wo 0 1, wo 1 1]⟩,
   ⟨"CNT_DUMP_STATUS", 0x040, 1, 8, [ro 0 2, ro 2 4, ro 16 48]⟩,
   ⟨"CNT_TAIL_SELECT", 0x048, 1, 8, [rw 0 16, rw 16 8]⟩,
   ⟨"CNT_TAIL_DATA", 0x050, 2, 8, [ro 0 64]⟩,
   ⟨"CNT_TAIL_STATUS", 0x060, 1, 8, [ro 0 1, ro 1 8, ro 9 1, ro 10 1, ro 11 3]⟩,
   ⟨"CNT_TAIL_CTRL", 0x068, 1, 8, [wo 0 1, wo 1 1]⟩,
   ctr "CNT_ESCALATIONS" 0x080, ctr "CNT_TRACE_RECORDS" 0x088, ctr "CNT_TRACE_LOST" 0x090,
   ctr "CNT_PC_SAMPLES" 0x098, ctr "CNT_DUMPS" 0x0A0, ctr "CNT_DUMP_BYTES" 0x0A8, ctr "CNT_FAULTS" 0x0B0,
   ctr "CNT_TAIL_FREEZES" 0x0B8]

/-- Warning level of temperature sensor `i`, in °C (R631). -/
def tempWarn (i : Nat) : Nat :=
  if 6 ≤ i ∧ i ≤ 13 then 90 else if i = 15 then 40 else if i = 16 then 75 else 95

/-- Trip level of temperature sensor `i`, in °C (R631). -/
def tempTrip (i : Nat) : Nat :=
  if 6 ≤ i ∧ i ≤ 13 then 100 else if i = 15 then 50 else if i = 16 then 85 else 110

/-- PWR_TEMPi (R649), its warning and trip levels in 0.1 °C units. -/
def pwrTempReg (i : Nat) : RegDef :=
  { name := "PWR_TEMP", off := 0x200 + 8 * i,
    fields := [ro 0 16, ro 16 16 (10 * tempWarn i), ro 32 16 (10 * tempTrip i)] }

/-- PWR block (R644 to R651). -/
def pwrRegs : List RegDef :=
  [⟨"PWR_STATUS", 0x000, 1, 8, [ro 0 3 1, ro 3 1, ro 4 2, ro 8 10 940, ro 18 1, ro 24 6]⟩,
   ⟨"PWR_CAP", 0x008, 1, 8, [rw 0 6 60]⟩,
   ⟨"PWR_INPUT", 0x010, 1, 8, [ro 0 16, ro 16 16, ro 32 16]⟩,
   ⟨"PWR_ALERT", 0x018, 1, 8, [w1c 0 9, rw 16 9 0x1FF]⟩,
   ctr "PWR_ENERGY_J" 0x080, ctr "PWR_CAP_WINDOWS" 0x088, ctr "PWR_THERMAL_WARNS" 0x090,
   ctr "PWR_FAILSAFES" 0x098, ctr "PWR_INPUT_HIGHS" 0x0A0,
   ⟨"PWR_RAIL", 0x100, 16, 8, [ro 0 16, ro 16 16, ro 32 16]⟩,
   ⟨"PWR_CELLAR", 0x300, 1, 8, [ro 0 16, ro 16 8]⟩,
   ⟨"PWR_OPTICS", 0x308, 1, 8, [ro 0 16]⟩,
   ⟨"PWR_OPTICS_LEVELS", 0x310, 1, 8, [ro 0 16, ro 16 16, ro 32 16, ro 48 16]⟩]
  ++ (List.range 17).map pwrTempReg

/-- The registers of a block. -/
def Block.regs : Block → List RegDef
  | .seq => seqRegs
  | .mxe => mxeRegs
  | .vxe => vxeRegs
  | .axe => axeRegs
  | .smp => smpRegs
  | .gsu => gsuRegs
  | .suq => suqRegs
  | .nmr => nmrRegs
  | .hbc => hbcRegs
  | .kln => klnRegs
  | .disp => dispRegs
  | .cjuCore => cjuCoreRegs
  | .cjuBar => cjuBarRegs
  | .fab => fabRegs
  | .fabPort => fabPortRegs
  | .orb => orbRegs
  | .sid => sidRegs
  | .csk => cskRegs
  | .eth => ethRegs
  | .hop => hopRegs
  | .tap => tapRegs
  | .uzo => uzoRegs
  | .sec => secRegs
  | .mgc => mgcRegs
  | .trc => trcRegs
  | .cnt => cntRegs
  | .pwr => pwrRegs

/-- Whether a register definition covers offset `off`. -/
def RegDef.covers (r : RegDef) (off : Nat) : Bool :=
  decide (r.off ≤ off) && decide ((off - r.off) % r.stride = 0) && decide ((off - r.off) / r.stride < r.count)

/-- The register at offset `off` of a block; none where the offset names no register (R659). -/
def Block.regAt (b : Block) (off : Nat) : Option RegDef :=
  b.regs.find? fun r => r.covers off

/-- A register's reset value, from its fields (R7). -/
def RegDef.resetVal (r : RegDef) : Word :=
  r.fields.foldl (fun v f => v ||| BitVec.ofNat 64 (f.reset % 2 ^ f.width * 2 ^ f.lo)) 0

/-- The bits a field covers, as a mask. -/
def Field.mask (f : Field) : Word := BitVec.ofNat 64 ((2 ^ f.width - 1) * 2 ^ f.lo)

/-- The reset value of the register at control-space offset `a` (R7); 0 where no register lies. -/
def regReset (a : Nat) : Word :=
  match locate a with
  | none => 0
  | some (b, _, off) =>
    match b.regAt off with
    | none => 0
    | some r => r.resetVal

/-- Whether Job privilege of the owning partition can read the register (R587, R658). -/
def Block.jobReads (b : Block) (off : Nat) : Bool :=
  match b with
  | .seq | .mxe | .vxe | .axe | .smp | .gsu | .suq | .nmr | .hbc | .disp | .cjuCore | .cjuBar => true
  | .kln => decide (off = 0x000) || (decide (0x030 ≤ off) && decide (off ≤ 0x048))
      || (decide (0x080 ≤ off) && decide (off ≤ 0x0C8)) || decide (off = 0x108) || decide (off = 0x110)
  | .sid => decide (off = 0x000) || decide (off = 0x010) || decide (0x400 ≤ off)
  | .csk => decide (off = 0x010) || decide (off = 0x018)
  | .hop => decide (off = 0x010) || decide (off = 0x018) || decide (off = 0x020) || decide (0x080 ≤ off)
  | .tap => decide (off = 0x018) || decide (0x080 ≤ off)
  | .uzo => decide (off = 0x000)
  | .sec => decide (off = 0x000) || decide (off = 0x008)
  | .cnt => true
  | .pwr => decide (off = 0x000) || decide (off = 0x010)
  | .fab | .fabPort | .orb | .eth | .mgc | .trc => false

/-- Whether Job privilege of the owning partition can write the register (R142, R610). -/
def Block.jobWrites (b : Block) (off : Nat) : Bool :=
  match b with
  | .vxe => decide (off = 0x050)
  | .cnt => decide (off ≠ 0x068)
  | _ => false

end Sys2Proof.Machine
end

