-- ==== Sys2Proof/Machine/State.lean ====
section
/-!
DEFINITION. The state of the module as plain data: every register, memory, queue, buffer, counter, mode and pin that the
manual gives it, and the queue of commands that wait. `State.reset` is the module at power-on, before any input.
-/

namespace Sys2Proof.Machine

/-- Faults of the model. The manual's own faults are effects on the state (a recorded fault, a stopped job), so no
meaning stops the machine: the type has no constructor. -/
inductive Fault where
deriving DecidableEq, Repr

/-- Refusals of the model. -/
inductive Refusal where
  /-- Raised by `exec` for a command that has no meaning yet. Safe: the machine stops. -/
  | notModelled (mnemonic : String)
deriving DecidableEq, Repr

/-! ### Power, clocks and sideband (chapters 01, 17) -/

/-- The stored part of the power state (R623): RUN and CAPPED are TRAINED with a job running. -/
inductive PowerPhase where
  | off | standby | ready | failsafe
deriving DecidableEq, Repr

/-- The power controller, the sideband levels and the frequency ladder. -/
structure Pwr where
  phase : PowerPhase := .off
  pwrEn : Bool := false
  resetLow : Bool := false
  /-- The causes detected in a power-fail sequence that runs (R495, R625); none when no sequence runs. -/
  failSeq : Option (List Nat) := none
  /-- When the sequence began: causes within 50 µs of it raise their events (R625). -/
  failAt : Nat := 0
  /-- MOD_RESET_L asserted during the sequence, held until the hold-up ends (R625). -/
  resetHeld : Bool := false
  failsafeCause : Nat := 0
  inputHigh : Bool := false
  /-- Common arithmetic frequency in MHz (R22). -/
  freq : Nat := 940
  /-- Consecutive windows at least 50 W below the cap (R22). -/
  lowWindows : Nat := 0
  /-- Consecutive windows above the cap at 400 MHz (R23). -/
  floorWindows : Nat := 0
  /-- R23 withholds work in alternate windows. -/
  withholding : Bool := false
  /-- Work is withheld in the window that runs now, which began at `withheldAt` (R23, R372). -/
  withheld : Bool := false
  withheldAt : Nat := 0
  powerSum : Nat := 0
  powerCount : Nat := 0
  /-- Input energy short of one J, in samples of 10 µs × W (R627). -/
  energyRem : Nat := 0
  /-- CAP_FLOOR_HOLDS of R23. -/
  capFloorHolds : Nat := 0
  /-- The cap in force, in units of 50 W, and the cap that takes effect at the next window's end (R622). -/
  capInForce : Nat := 60
  capWindow : Nat := 60
  thermal : Bool := false
  coolWindows : Nat := 0
  /-- Sensors at or above their warning level (R632). -/
  hot : List Nat := []
  /-- Islands whose clock is stretched (R19). -/
  stretched : AMap Bool := []
  /-- A window in which an island stretched, for RISK (R485). -/
  stretchSeen : Bool := false
  geo : BitVec 6 := 0
  refclk : Bool := false
deriving DecidableEq, Repr

/-! ### Sidereal time (chapter 12) -/

/-- SID_STATUS.STATE (R463). -/
inductive SidLock where
  | free | acquiring | locked | holdover | root
deriving DecidableEq, Repr

/-- The sidereal counter and its discipline. -/
structure Sid where
  now : Nat := 0
  lock : SidLock := .free
  source : Nat := 0
  hops : Nat := 0
  parent : Option Nat := none
  /-- The last eight offsets of the parent's marks, newest first (R433). -/
  offsets : List Int := []
  goodMarks : Nat := 0
  holdoverAt : Option Nat := none
  lastMark : Nat := 0
  /-- The counter can still be stepped: no partition 0 job has started (R434). -/
  canStep : Bool := true
  /-- The nanoseconds left to slew out, signed. -/
  pendingSlew : Int := 0
  /-- Nanoseconds of a backward slew that the counter has still to stand still for: it never decreases (R430). -/
  hold : Nat := 0
  isRoot : Bool := false
deriving DecidableEq, Repr

/-! ### Security die (chapter 15) -/

/-- One copy of an MRAM record (R569). -/
structure MramCopy where
  seq : Nat := 0
  body : List Byte := []
  commit : Nat := 0
deriving DecidableEq, Repr

/-- An MRAM record in two copies (R558). -/
structure MramRecord where
  a : MramCopy := {}
  b : MramCopy := {}
deriving DecidableEq, Repr

/-- Where a request parcel came from, and where its response goes (R554): the slot of a ring, or, when none, the link. -/
abbrev Origin := Option (Nat × Nat)

/-- What waits for the signer (R572). -/
inductive SignReq where
  | attest (report : List Byte) (origin : Origin) (request : Parcel)
  | manifest (bytes : List Byte) (step : Nat)
deriving DecidableEq, Repr

/-- The security die: boot, MRAM and the signer. -/
structure Sec where
  bootStep : Nat := 0
  recovery : Bool := false
  recoveryCause : Nat := 0
  bootId : Word := 0
  /-- Nanoseconds since boot step 1 began, on the die's own timer (R571). -/
  timer : Nat := 0
  nextIndex : Nat := 0
  xmss : MramRecord := {}
  owner : MramRecord := {}
  rollbackFloor : MramRecord := {}
  hbmMapout : MramRecord := {}
  cellarMapout : MramRecord := {}
  credits : Nat := 0
  signQueue : List SignReq := []
  /-- Measurements of this start: firmware image, region 1 (R573). -/
  fwMeasure : List Byte := []
  recipeMeasure : List Byte := []
  fwVersion : BitVec 32 := 0
  /-- The watchdog's expiry times and whether the MGC is held in reset (R567). -/
  expiries : List Nat := []
  mgcHeld : Bool := false
  mgcRunning : Bool := false
  lastKick : Nat := 0
  /-- A boot that waits for PWR_EN at the end of step 4 (R624). -/
  bootHeld : Bool := false
  /-- The stored bytes of the recipe store's logical space (R556). -/
  flash : Memory := []
  sparesOut : Bool := false
deriving DecidableEq, Repr

/-! ### The configuration block (R560) -/

/-- An Ethernet table entry (R528). -/
structure EthEntry where
  role : Nat := 0
  port : Nat := 0
  ipv6 : Bool := false
  macsec : Bool := false
  ptpL2 : Bool := false
  pcp : Nat := 0
  vlan : Nat := 0
  udpPort : Nat := 0
  classMask : Nat := 0
  prefixLen : Nat := 0
  address : List Byte := []
  gateway : List Byte := []
deriving DecidableEq, Repr

/-- A governor table entry (R521); the FP32 values are bit patterns. -/
structure Governor where
  cls : Nat := 0
  binary : Bool := false
  maxToggles : Nat := 0
  validity : Nat := 0
  minHoldMs : Nat := 0
  minValue : BitVec 32 := 0
  maxValue : BitVec 32 := 0
  safeValue : BitVec 32 := 0
  maxStep : BitVec 32 := 0
  maxSlew : BitVec 32 := 0
deriving DecidableEq, Repr

/-- The configuration that the boot applied (R560, R561). -/
structure SysConfig where
  domainId : Nat := 0
  domainGroups : Nat := 0
  activeSlots : Nat := 0
  group : Nat := 0
  partition : Nat := 0
  sidSource : Nat := 0
  twinRole : Nat := 0
  autonomous : Bool := false
  powerCap : Nat := 60
  ethMode : Nat := 0
  caskReserve : Nat := 0
  jobSeed : Word := 0
  ethTable : List EthEntry := []
  ethBad : Bool := false
  ethPresent : Bool := false
  governor : List Governor := []
  governorBad : Bool := false
  valid : Bool := false
deriving DecidableEq, Repr

/-! ### Sequencers, queues and engines of a core (chapters 02, 04, 05, 07, 10) -/

/-- SEQ_STATUS.STATE (R70). -/
inductive SeqState where
  | idle | running | workWait | watchWait | fenceWait | queueFull | queueEmpty | stopped | faulted | memorySlot
deriving DecidableEq, Repr

/-- An active hardware loop (R54, R72). -/
structure LoopCtr where
  value : Nat := 0
  count : Nat := 0
  start : Nat := 0
  endPc : Nat := 0
  active : Bool := false
deriving DecidableEq, Repr

/-- An issued operation of an engine (R52, R53): its place in the core's issue order, its descriptor, the bound loop
value, the watch it increments and the work-slot words it was issued with. -/
structure IssuedOp where
  serial : Nat := 0
  core : Nat := 0
  desc : Nat := 0
  bound : Bool := false
  index : Nat := 0
  done : Option Nat := none
  words : List Word := []
deriving DecidableEq, Repr

/-- What a held sequencer waits to do. -/
inductive Held where
  | issue (engine : Engine) (op : IssuedOp)
  | getWork (mask : BitVec 16)
  | completing (value : Word) (thenGet : Option (BitVec 16)) (thenEnd : Bool)
  | watch
  | barrier (key : Nat) (left : Nat)
  | fence (serial : Nat)
  | ending
deriving DecidableEq, Repr

/-- A work item that a core or a sampler holds (R337). -/
structure ItemRef where
  flow : Nat := 0
  seq : Nat := 0
deriving DecidableEq, Repr

/-- An entry of a queue (R64): the handle, the AXE stream and emission it comes from (none when an engine wrote the
tile), and whether it is a predicted-zero handle (R171). -/
structure QEntry where
  handle : Word := 0
  stream : Option Nat := none
  emission : Nat := 0
  predicted : Bool := false
deriving DecidableEq, Repr

/-- A local address that a descriptor or a work item names (R265). -/
inductive LocalPlace where
  | hbm (offset : Nat)
  | store (offset : Nat)
deriving DecidableEq, Repr

/-- A registered prefetch guard (R228): the ring buffer's stream and emission, and the bytes it covers. -/
structure Guard where
  stream : Nat := 0
  emission : Nat := 0
  index : Nat := 0
  queue : Nat := 0
  space : Nat := 0
  lo : Nat := 0
  hi : Nat := 0
  /-- Relaxed mode: the tile is read again before its handle is taken (R230). -/
  reread : Bool := false
deriving DecidableEq, Repr

/-- An AXE operation that has started (R224, R227). -/
structure AxeRun where
  op : IssuedOp := {}
  /-- Tiles emitted, popped or pushed so far. -/
  count : Nat := 0
  /-- Emissions whose handle has not been released (R226). -/
  live : List Nat := []
  /-- Predicted tile numbers of a zero-predicted relay that are not verified (R171). -/
  predicted : List Nat := []
  /-- COPY: grains moved so far. -/
  grains : Nat := 0
  /-- Bytes of a remote tile or copy that have arrived, and the tag of the request that is outstanding (R265), with its position and
  the slots that its grains hold (R274). -/
  fetched : List Byte := []
  waitTag : Option Nat := none
  waitPos : Nat := 0
  waitGrains : Nat := 0
  /-- Bytes of the tile in hand that a STORE to another position has sent. -/
  sent : Nat := 0
deriving DecidableEq, Repr

/-- A WRITE packet of an AXE that is not acknowledged (R266, R274): its tag, operation and destination. -/
structure RemoteWrite where
  tag : Nat := 0
  op : IssuedOp := {}
  pos : Nat := 0
  off : Nat := 0
  bytes : Nat := 0
deriving DecidableEq, Repr

/-- A guard that this module's HBM registered for a stream of another module (R228), and whether a write has hit it. -/
structure RemoteGuard where
  position : Nat := 0
  source : Nat := 0
  lo : Nat := 0
  hi : Nat := 0
  hit : Bool := false
deriving DecidableEq, Repr

/-- An output tile in accumulation (R122, R123): its ACC44 sums by row × 64 + column, the K steps done, the tile shape,
the operand handles taken and the predictions it took. -/
structure AccTile where
  t : Nat := 0
  k : Nat := 0
  rows : Nat := 0
  cols : Nat := 0
  acc : AMap (Option Nat) := []
  /-- The handle of the initial-value tile and the tile's bytes (R119), from which a recomputation begins (R172). -/
  init : Option (QEntry × List Byte) := none
  /-- The exception flags that its products and sums raised (R90). -/
  flags : Nat := 0
  taken : List (QEntry × QEntry) := []
  /-- The bytes of the tiles taken, from which a recomputation runs (R172). -/
  images : List (List Byte × List Byte) := []
  /-- The (stream, tile number) of each prediction taken. -/
  guesses : List (Nat × Nat) := []
deriving DecidableEq, Repr

/-- The MXE operation that runs. -/
structure MxeRun where
  op : IssuedOp := {}
  /-- K steps taken so far, in the order of R119. -/
  stepNo : Nat := 0
  tiles : List AccTile := []
  finished : List AccTile := []
  written : Nat := 0
deriving DecidableEq, Repr

/-- The VXE operation that runs. -/
structure VxeRun where
  op : IssuedOp := {}
  /-- Valid elements, rows and tiles of SRC_A consumed, and output tiles written. -/
  elems : Nat := 0
  rows : Nat := 0
  tiles : Nat := 0
  outTiles : Nat := 0
  outElems : Nat := 0
  /-- Segmented: column count of the first tile, the chain's results row by row, the offsets read so far. -/
  cols : Nat := 0
  results : List (List (Option Nat)) := []
  offsets : List Nat := []
  offsetsDone : Bool := false
  /-- Matrix products: the sums of the output tile in progress. -/
  stepNo : Nat := 0
  acc : List (AccTile) := []
deriving DecidableEq, Repr

/-- An engine of a core: operations that wait, the one that runs, and whether it faulted. -/
structure Mxe where
  pending : List IssuedOp := []
  run : Option MxeRun := none
  faulted : Bool := false
deriving DecidableEq, Repr

/-- The VXE with its registers and masks (R125); a register is 2,048 bits, a mask 64. -/
structure Vxe where
  pending : List IssuedOp := []
  run : Option VxeRun := none
  faulted : Bool := false
  vregs : AMap Nat := []
  masks : AMap Nat := []
  lastStage : Nat := 0
deriving DecidableEq, Repr

/-- The AXE: started streams, waiting operations, guards (R227, R228). -/
structure Axe where
  pending : List IssuedOp := []
  streams : List AxeRun := []
  guards : List Guard := []
  /-- The last real handle of each tile number of a zero map, by map address × 2^24 + number: its shape (R171). -/
  shapes : AMap Word := []
  faulted : Bool := false
  guardHitStep : Bool := false
  /-- Its WRITE packets that no target has acknowledged. -/
  writes : List RemoteWrite := []
  /-- HOT_CHANNEL has been raised in this step (R275). -/
  hotStep : Bool := false
deriving DecidableEq, Repr

/-- A branch's entry in the loop-exit predictor (R62), most recently used first. -/
structure ExitEntry where
  pc : Nat := 0
  length : Nat := 0
deriving DecidableEq, Repr

/-- One core (R15). -/
structure Core where
  pc : Nat := 0
  seq : SeqState := .idle
  held : Option Held := none
  loops : AMap LoopCtr := []
  /-- Condition bits 0 to 4 and 8 to 14 (R57); bit 15 reads 1. -/
  cc : BitVec 16 := 0
  role : Nat := 0x7F
  entryPc : Nat := 0
  evalPc : Option Nat := none
  /-- The sequencer has executed END in the present run. -/
  ended : Bool := true
  stop : Bool := false
  single : Bool := false
  slot : List Word := []
  item : Option ItemRef := none
  /-- Two-bit branch counters less their reset value 0b01 are listed (R61). -/
  bp : AMap Nat := []
  exits : List ExitEntry := []
  takes : AMap Nat := []
  serial : Nat := 0
  /-- Operations issued and not complete: their serials; remote SIGNALs and fabric writes not acknowledged. -/
  live : List Nat := []
  signals : List (Nat × Nat) := []
  watches : AMap Word := []
  waitReg : Option (Nat × Nat × Word) := none
  /-- The CJU's wake message for the registered watch is on its way (R355). -/
  wake : Bool := false
  ahead : AMap Nat := []
  queueMap : AMap Nat := []
  queues : AMap (List QEntry) := []
  mxe : Mxe := {}
  vxe : Vxe := {}
  axe : Axe := {}
  mxeCtx : AMap Nat := []
  vxeCtx : AMap Nat := []
  /-- Operations that finished and whose DONE_WATCH increment waits for OPERATION_DONE (R354). -/
  doneOps : List (Engine × IssuedOp) := []
  /-- The counter of the tags that this core gives its fabric requests (R396). -/
  nextTag : Nat := 0
deriving DecidableEq, Repr

/-! ### Cluster units (chapters 06, 07) -/

/-- A node entry of a block in progress (R204). -/
structure BNode where
  node : Nat := 0
  hop : Nat := 0
  time : Nat := 0
  seed : Nat := 0
deriving DecidableEq, Repr

/-- An edge as a draw returns it (R199). -/
structure DrawEdge where
  neighbour : Nat := 0
  time : Nat := 0
  type : Nat := 0
  weight : Nat := 0
  timed : Bool := false
deriving DecidableEq, Repr

/-- An edge entry of a block in progress (R205). -/
structure BEdge where
  src : Nat := 0
  dst : Nat := 0
  time : Nat := 0
  type : Nat := 0
  weight : Nat := 0
deriving DecidableEq, Repr

/-- A remote request that a sampler has outstanding (R201). -/
structure RemoteDraw where
  tag : Nat := 0
  node : Nat := 0
  parent : Nat := 0
  parts : List (Nat × List DrawEdge) := []
  lastPart : Option Nat := none
deriving DecidableEq, Repr

/-- A block in progress (R203 to R207). -/
structure SmpRun where
  desc : List Byte := []
  op : Option IssuedOp := none
  item : Option ItemRef := none
  plan : Nat := 0
  /-- The next hop to draw. -/
  hop : Nat := 1
  step : Nat := 0
  nodes : List BNode := []
  edges : List BEdge := []
  hopNodes : List Nat := []
  hopEdges : List Nat := []
  /-- Draws of the hop in progress, by parent node index. -/
  draws : AMap (Option (List DrawEdge)) := []
  remote : List RemoteDraw := []
  truncated : Bool := false
  dropped : Nat := 0
  issuedHop : Bool := false
deriving DecidableEq, Repr

/-- The sampler of a cluster. -/
structure Smp where
  pending : List IssuedOp := []
  run : Option SmpRun := none
  item : Option (ItemRef × List Byte) := none
  faulted : Bool := false
  nextTag : Nat := 0
deriving DecidableEq, Repr

/-- The GSU of a cluster: operations that wait, and the contributions of the running scatter not acknowledged. -/
structure Gsu where
  pending : List IssuedOp := []
  /-- The operation whose NMR acknowledgements are outstanding, and how many are (R244). -/
  unacked : Option (IssuedOp × Nat) := none
  /-- Rows of a remote gather that have not arrived: tag, key index. -/
  remote : List (Nat × Nat) := []
  rows : AMap (List Byte) := []
  started : Bool := false
  faulted : Bool := false
  nextTag : Nat := 0
deriving DecidableEq, Repr

/-- The SUQ of a cluster. -/
structure Suq where
  pending : List IssuedOp := []
  faulted : Bool := false
deriving DecidableEq, Repr

/-- One cluster's shared units. -/
structure Cluster where
  smp : Smp := {}
  gsu : Gsu := {}
  suq : Suq := {}
deriving DecidableEq, Repr

/-- A die or domain barrier (R360, R380). -/
structure Bar where
  gen : Bool := false
  cur : Nat := 0
  next : Nat := 0
  expected : Nat := 0
  /-- The participants, as core numbers. -/
  members : List Nat := []
  /-- Completed generations in the run (R414). -/
  rounds : Nat := 0
  /-- Domain barrier: the local generation has been reported up the tree (R359). -/
  reported : Bool := false
deriving DecidableEq, Repr

/-! ### Bundles, partitions, tables (chapters 02, 03, 07, 10) -/

/-- A recipe record (R99). -/
structure Recipe where
  kind : Nat := 0
  format : Nat := 0
  ceiling : Nat := 0
  stochastic : Bool := false
  prevAmax : Bool := false
  mj : Bool := false
  fp6E3m2 : Bool := false
  fp8E5m2 : Bool := false
  escalate : Bool := false
  escLimit : Nat := 0
  deescLimit : Nat := 0
  k : Nat := 0
  l : Nat := 0
  w128 : Bool := false
  windowT : Int := 0
  vanish : Nat := 0
deriving DecidableEq, Repr

/-- A shard map (R411). -/
structure ShardMap where
  mode : Nat := 0
  replica : Bool := false
  shard : Nat := 0
  barrier : Nat := 0
  generation : Nat := 0
  rows : Nat := 0
  staging : Nat := 0
  stageStride : Nat := 0
  accum : Nat := 0
  out : Nat := 0
  target : Nat := 0
  first : List Nat := []
deriving DecidableEq, Repr

/-- A catalogue entry (R110). -/
structure Tensor where
  id : Nat := 0
  recipe : Recipe := {}
  versioned : Bool := false
  fullRewrite : Bool := false
  elements : Nat := 0
  dims : List Nat := []
  map : Option ShardMap := none
  windowRows : Nat := 0
deriving DecidableEq, Repr

/-- A role (R48): its entry points and its command words. -/
structure Role where
  id : Nat := 0
  entryPc : Nat := 0
  evalPc : Option Nat := none
  words : List Word := []
deriving DecidableEq, Repr

/-- A flow definition (R338). -/
structure FlowDef where
  flow : Nat := 0
  priority : Nat := 0
  service : Nat := 0
  sampler : Bool := false
  eval : Bool := false
  collect : Bool := false
  fromMem : Bool := false
  window : Nat := 1
  chained : Bool := false
  releaseWatch : Option Nat := none
  upstream : Option Nat := none
  count : Nat := 0
  listBase : Nat := 0
  countAddr : Nat := 0
  resultBase : Option Nat := none
  releaseCore : Option Nat := none
deriving DecidableEq, Repr

/-- A hop of a plan (R181). -/
structure Hop where
  mode : Nat := 0
  fanout : Nat := 0
  recent : Bool := false
  inherit : Bool := false
  window : Nat := 0
  typeMask : Nat := 0
  layerSize : Nat := 0
deriving DecidableEq, Repr

/-- A sampler plan (R180). -/
structure Plan where
  id : Nat := 0
  hops : Nat := 1
  negCount : Nat := 0
  graph : Nat := 0
  nodeCap : Nat := 0
  edgeCap : Nat := 0
  negLo : Nat := 0
  negHi : Nat := 0
  hop : List Hop := []
deriving DecidableEq, Repr

/-- A Kiln group entry (R297). -/
structure KilnEntry where
  tensor : Nat := 0
  rowTable : Bool := false
  transpose : Bool := false
  noDecay : Bool := false
  rows : Nat := 0
  cols : Nat := 0
  versionOffset : Nat := 0
  cellar : Nat := 0
deriving DecidableEq, Repr

/-- A Kiln rule (R296); the FP32 fields are bit patterns. -/
structure KilnRule where
  kind : Nat := 0
  nesterov : Bool := false
  lookback : Bool := false
  stateCount : Nat := 0
  prog : List (Nat × Nat × Nat × Nat) := []
  entries : List KilnEntry := []
  schedLr : Option Nat := none
  schedWd : Option Nat := none
  nsSteps : Nat := 0
  lr : Nat := 0
  wd : Nat := 0
  beta1 : Nat := 0
  beta2 : Nat := 0
  eps : Nat := 0
  gscale : Nat := 0
  nsA : Nat := 0
  nsB : Nat := 0
  nsC : Nat := 0
  consts : List Nat := []
deriving DecidableEq, Repr

/-- A loaded bundle, section by section. -/
structure Bundle where
  bytes : List Byte := []
  digest : List Byte := []
  contractLevel : Nat := 0
  fwMajor : Nat := 0
  roles : List Role := []
  roleMap : List Nat := []
  /-- Per core: its context word and its descriptors. -/
  descs : List (Nat × List Byte × List (List Byte)) := []
  tensors : List Tensor := []
  statsBase : Nat := 0
  rules : List KilnRule := []
  schedules : List (List (Nat × Nat)) := []
  plans : List Plan := []
  flows : List FlowDef := []
  queueMap : List (List Nat) := []
  watchMasks : List Nat := []
  dieBars : List (Nat × Nat × Nat × Nat) := []
  domBars : List (Nat × Nat) := []
  requirements : List (Nat × Nat × Nat) := []
deriving DecidableEq, Repr

/-- The job state of a partition (R551). -/
inductive JobState where
  | empty | loaded | running | stopped
deriving DecidableEq, Repr

/-- A table directory entry (R218). -/
structure DirEntry where
  tensor : Nat := 0
  kind : Nat := 2
  fullRewrite : Bool := false
  rowGrains : Nat := 16
  current : Bool := false
  version : Nat := 0
  base0 : Nat := 0
  base1 : Nat := 0
  bytes : Nat := 0
  records : Nat := 0
  dim : Nat := 0
  windowRows : Nat := 0
  dirty : Nat := 0
  override0 : Nat := 0
  override1 : Nat := 0
  pool : Nat := 0
  format : Nat := 0
  /-- The override tables' entries: row, position, commit step (R248). -/
  over0 : List (Nat × Nat × Nat) := []
  over1 : List (Nat × Nat × Nat) := []
  /-- The formats of rows of version 0 and of version 1 that are not in FORMAT, and the format of the rows of the current version that
  other modules home (R107). -/
  rowFmt0 : AMap (Option Nat) := []
  rowFmt1 : AMap (Option Nat) := []
  farFormat : Option Nat := none
  /-- Records of the pending version that this step wrote. -/
  dirtySet : List Nat := []
  /-- Records that catch-up has still to copy after the switch, and whether it has completed (R220). -/
  catchup : List Nat := []
  catchupDone : Bool := true
deriving DecidableEq, Repr

/-- A window pool in use (R245): touched rows, each with its cells by column. -/
structure Pool where
  rows : AMap (AMap (Int × Bool × Bool)) := []
  window : Option (Bool × Int) := none
  readOut : Bool := false
deriving DecidableEq, Repr

/-- The statistics of a step in progress for one tensor (R102). -/
structure StatAcc where
  written : Bool := false
  elements : Nat := 0
  zero : Nat := 0
  zeroed : Nat := 0
  flushed : Nat := 0
  overflow : Nat := 0
  saturated : Nat := 0
  amax : Nat := 0
  flags : Nat := 0
deriving DecidableEq, Repr

/-- The run-time state of a flow (R341 to R344). -/
structure Flow where
  active : Bool := false
  count : Nat := 0
  head : Nat := 0
  admitted : Nat := 0
  dispatched : Nat := 0
  /-- Completed sequences whose result write is not acknowledged, those that count as complete and are not released (the
  reorder window), and results by sequence (R342). -/
  finished : List Nat := []
  complete : List Nat := []
  results : AMap Word := []
deriving DecidableEq, Repr

/-- An item on a die's ready list (R345, R346), in order of admission. -/
structure Ready where
  flow : Nat := 0
  seq : Nat := 0
  payload : List Word := []
deriving DecidableEq, Repr

/-- A completion record (R351). -/
structure CollectRec where
  flow : Nat := 0
  seq : Nat := 0
  result : Word := 0
  core : Nat := 0
deriving DecidableEq, Repr

/-- A die's dispatcher. -/
structure Die where
  ready : List Ready := []
  collect : List CollectRec := []
deriving DecidableEq, Repr

/-- A load session (R550); `late` once its load has not completed in time (R41). -/
structure LoadSession where
  late : Bool := false
  total : Nat := 0
  bytes : List Byte := []
deriving DecidableEq, Repr

/-- A tensor dump of a partition (R595 to R600). -/
structure Dump where
  state : Nat := 0
  tensor : Nat := 0
  stats : Bool := false
  ethernet : Bool := false
  step : Nat := 0
  addr : Nat := 0
  image : List Byte := []
  result : Nat := 0
  /-- The transfer to the Ethernet store: 0 runs, 1 done, 2 failed. -/
  copied : Nat := 0
  bytes : Nat := 0
deriving DecidableEq, Repr

/-- A partition. -/
structure Part where
  job : JobState := .empty
  session : Option LoadSession := none
  bundle : Option Bundle := none
  jobSeed : Word := 0
  step : Nat := 0
  /-- Switches since the job started; the step last switched. -/
  lastSwitched : Option Nat := none
  started : Bool := false
  cycle : Nat := 0
  c0 : Nat := 0
  restored : Bool := false
  /-- A run is in progress, and whether it is an evaluation slot's. -/
  running : Bool := false
  eval : Bool := false
  stopAtBoundary : Bool := false
  /-- A run that a boundary leaves to RUN_START: an evaluation slot's, or the step's (R336). -/
  due : Option Bool := none
  inBarrier : Bool := false
  /-- STEP_CLOSE has left for the Kiln, and its STEP_DONE has come (R324). -/
  closeSent : Bool := false
  kilnDone : Bool := false
  /-- Records of migrating rows sent to their new homes (R250), and those not acknowledged. -/
  migrateSent : Bool := false
  migrateOut : Nat := 0
  dir : List DirEntry := []
  pools : AMap Pool := []
  stats : AMap StatAcc := []
  /-- Format in force, by tensor; tensors not listed have their recipe's FORMAT. -/
  formats : AMap (Option Nat) := []
  prevAmax : AMap Nat := []
  jobKey : Option (List Byte) := none
  seqOwner : Option Nat := none
  seqJob : Option Nat := none
  progress : Nat := 0
  /-- The capability record of this start (R42). -/
  record : List Byte := []
  good : List Nat := []
  cellarGib : Nat := 0
  /-- The good cellar channels of the partition's share, as this start found them (R284). -/
  cellarGood : List Nat := []
  dies : List Nat := []
  dump : Dump := {}
  traceLost : Nat := 0
  firstLost : Nat := 0
  traceRead : Nat := 0
  traceWrite : Nat := 0
  traceActive : Bool := false
  traceAddr : Nat := 0
  traceSize : Nat := 0
  /-- Trace records that wait for the trace writer. -/
  traceIn : List (List Byte) := []
  /-- Window overflow already raised in this step, by tensor; KILN_SKIP raised, by tensor. -/
  overflowRaised : List Nat := []
  skipRaised : List Nat := []
  /-- Migrations accepted in this step at this home: table, row, target (R249). -/
  accepted : List (Nat × Nat × Nat) := []
  /-- Forwarding entries: table, row, position, switches left (R251). -/
  forwarding : List (Nat × Nat × Nat × Nat) := []
  /-- Writes held for catch-up (R220): table, address in the pending version, the writer's source and position, bytes. -/
  heldWrites : List (Nat × Nat × Nat × Nat × List Byte) := []
  /-- Per-step counts of multicast grains sent and received (R413). -/
  mcSent : Nat := 0
  mcReceived : Nat := 0
deriving DecidableEq, Repr

/-! ### Kiln (chapter 09) -/

/-- A gradient in delivery for one entry of a partition. -/
structure Grad where
  part : Nat := 0
  tensor : Nat := 0
  /-- Dense: element ranges delivered, as (HBM offset, first, count). -/
  ranges : List (Nat × Nat × Nat) := []
  /-- Row table: rows delivered, with their FP32 values. -/
  rows : AMap (List (BitVec 32)) := []
  ended : Bool := false
deriving DecidableEq, Repr

/-- A freeze command accepted for a later step (R316); with `rows`, the rows of its list. -/
structure FreezeCmd where
  part : Nat := 0
  rule : Nat := 0
  entry : Nat := 0
  freeze : Bool := true
  rows : Option (List Nat) := none
  effective : Nat := 0
deriving DecidableEq, Repr

/-- A migrant slot in use (R300): partition, tensor and number of the slot, and the ROW, FROZEN and record that it holds. -/
structure Migrant where
  part : Nat := 0
  tensor : Nat := 0
  slot : Nat := 0
  row : Nat := 0
  frozen : Bool := false
  record : List Byte := []
deriving DecidableEq, Repr

/-- The Kiln. -/
structure Kiln where
  /-- Gradients in delivery, and entries whose gradient is complete, in order of completion: (partition, rule, entry). -/
  grads : List Grad := []
  queue : List (Nat × Nat × Nat) := []
  /-- Gradient bytes that READ_DATA delivered, by partition × 2^48 + offset, and the grains they came in. -/
  buffer : Memory := []
  grains : List Nat := []
  /-- EMIT and STATE_OUT frames not acknowledged, per partition. -/
  unacked : AMap Nat := []
  /-- One more than the step that STEP_CLOSE last closed; whether its last emissions and moves have left, and its STEP_DONE. -/
  closing : AMap Nat := []
  flushed : AMap Bool := []
  stepDone : AMap Bool := []
  /-- Entries updated in the step. -/
  updated : List (Nat × Nat × Nat) := []
  /-- Frozen entries: the group freeze masks (R315). -/
  frozen : List (Nat × Nat × Nat) := []
  freezes : List FreezeCmd := []
  freezeResult : Nat := 0
  faultedParts : List Nat := []
  failedRetrains : Nat := 0
  linkDown : Bool := false
  /-- Rows whose record has left in the step (R323): (partition, tensor, row). -/
  moving : List (Nat × Nat × Nat) := []
  /-- The migrant slots in use, of all state blocks (R300); every other slot is free. -/
  migrants : List Migrant := []
  /-- READ frames not acknowledged, per partition (R317). -/
  reads : AMap Nat := []
  /-- Where arrived row records came from, by position and tag, for the acknowledgement: in order of arrival. -/
  stateFrom : List (Nat × Nat) := []
deriving DecidableEq, Repr

/-! ### Fabric (chapter 11) -/

/-- A fabric port (R390, R428). -/
structure Port where
  state : Nat := 0
  lanes : Nat := 0
  trainStep : Nat := 0
  lossClass : Nat := 0
  cableCm : Nat := 0
  partner : Nat := 0xFFFF
  caps : BitVec 32 := 0
  rttTenthNs : Nat := 0
  failedRetrains : Nat := 0
  /-- The replay buffer: the frames sent last, at most 4,096, oldest first, with their link sequence number and KIND (R394). -/
  replay : List (Nat × Nat × Packet) := []
deriving DecidableEq, Repr

/-- A circuit (R408): its ends, its path as physical modules with the port that each leaves by, and the slots that it holds on every
link of the path. -/
structure Circuit where
  src : Nat := 0
  dst : Nat := 0
  path : List (Nat × Nat) := []
  slots : List Nat := []
deriving DecidableEq, Repr

/-- A drain in progress (R418 to R420). -/
structure Drain where
  active : Bool := false
  requested : Bool := false
  reason : Nat := 0
  injecting : Bool := true
  lastUs : Nat := 0
  status : Nat := 0
  installed : Bool := false
  /-- Counters at the last drain: sent, received, dropped. -/
  sent0 : Nat := 0
  received0 : Nat := 0
  dropped0 : Nat := 0
deriving DecidableEq, Repr

/-- A generation that a head combines (R416, R417): who has reported, when the first did, and the combination so far. -/
structure TreeGen where
  reports : List Nat := []
  firstAt : Nat := 0
  msg : TreeMsg := {}
deriving DecidableEq, Repr

/-- A REDUCE tensor's accumulation at this home (R414): cells that have arrived, by position. -/
structure Reduce where
  tensor : Nat := 0
  got : AMap Nat := []
deriving DecidableEq, Repr

/-- The fabric of the module. -/
structure Fab where
  trained : Bool := false
  position : Option Nat := none
  physical : Nat := 0
  slot : Nat := 0
  posTable : AMap Nat := []
  /-- Entries of the staged table that have been staged (R387, R418), 0xFFFF for a position that is to be empty. -/
  staged : AMap Nat := []
  ports : AMap Port := []
  pairSent : AMap Nat := []
  pairReceived : AMap Nat := []
  /-- Held packets: for ORDER (R399) and for an early step tag (R29), with their KIND. -/
  orderHeld : List (Nat × Packet) := []
  stepHeld : List (Nat × Packet) := []
  /-- Packets in the buffers of a port input, by port × 4 + class (R404). -/
  buffers : AMap (List (Nat × Packet)) := []
  failed : List Nat := []
  /-- The domain head's: groups whose casks do not survive a further loss (R494), positions that the drain in progress gives to
  spares, and failed modules with their positions that wait for the drain to end (R420, R493). -/
  uncovered : List Nat := []
  taking : List Nat := []
  lost : List (Nat × Nat) := []
  /-- Slot reports: (slot, reporter). -/
  reports : List (Nat × Nat) := []
  viaCounter : Nat := 0
  figures : AMap (List Nat) := []
  /-- Global ports of the other slots that their exchange says are down, a bit each (R401, R402). -/
  downPorts : AMap Nat := []
  /-- The input that each output port serves next (R406). -/
  portTurn : AMap Nat := []
  /-- The circuit table (R408, R409). -/
  circuits : List Circuit := []
  drain : Drain := {}
  /-- Generations in combination, by message kind × 16 + barrier number. -/
  gens : AMap TreeGen := []
  /-- Messages in the receive buffers of a head that wait for their generation to begin (R416). -/
  treeHeld : List TreeMsg := []
  /-- The domain head has completed the barriers with ABORT since the job last started (R417). -/
  aborted : Bool := false
  reduces : List Reduce := []
  /-- REDUCE tensors whose partial cells this module has sent in the run. -/
  reduceSent : List Nat := []
  circuitsDown : List Nat := []
  raisedOverflow : List Nat := []
  /-- Ports' link sequence numbers (R394). -/
  linkSeq : AMap Nat := []
  /-- Guards of other modules' streams on this module's HBM (R228). -/
  guards : List RemoteGuard := []
deriving DecidableEq, Repr

/-! ### Casks, twins, live loop, observability (chapters 12 to 16) -/

/-- A piece of a saved object as it travels to a peer and lies in its reserve (R471, R477, R479, R481). KIND: 0 a stripe of the
Mirror set or of a base, 1 a journal entry, 2 a manifest, 3 a base record; PART as in R483; INDEX is the stripe or the record. -/
structure CPiece where
  kind : Nat := 0
  owner : Nat := 0
  step : Nat := 0
  tensor : Nat := 0
  part : Nat := 0
  index : Nat := 0
  offset : Nat := 0
  bytes : List Byte := []
deriving DecidableEq, Repr

/-- A segment of a cask (R483). -/
structure CSeg where
  tensor : Nat := 0
  method : Nat := 0
  part : Nat := 0
  length : Nat := 0
  base : Nat := 0
  digest : List Byte := []
deriving DecidableEq, Repr

/-- A transfer to the external store (R487, R488): of a cask or of a dump. Its frames that are not acknowledged, with their SEQ,
and how often each was resent; `segs` are the segments, the manifest first. -/
structure Transfer where
  active : Bool := false
  step : Nat := 0
  dump : Option Nat := none
  segs : List (Nat × List Byte) := []
  offset : Nat := 0
  endSent : Bool := false
  nextSeq : Nat := 0
  unacked : List (Nat × List Byte) := []
  resends : AMap Nat := []
deriving DecidableEq, Repr

/-- Pieces of a cask on their way back (R487, R489): the cask's step, whether it is for an export, whether it comes from the store,
the pieces from the peers, the peers that have sent all, and the segments from the store by index. -/
structure Fetching where
  step : Nat := 0
  toExport : Bool := false
  fromStore : Bool := false
  pieces : List CPiece := []
  ended : List Nat := []
  store : List (Nat × List Byte) := []
  written : Bool := false
deriving DecidableEq, Repr

/-- The cask engine (chapter 13). -/
structure Cask where
  linkRetrains : Nat := 0
  /-- The step of the cask that is being taken, its segments so far, and what of it has been sent. -/
  inProgress : Option Nat := none
  segments : List CSeg := []
  kilnSent : Bool := false
  /-- Stripes and manifest pieces, and journal entries, that peers have not acknowledged. -/
  unacked : Nat := 0
  journalUnacked : Nat := 0
  /-- The manifest with its signature, once signed; whether it is being signed, and whether it has been sent. -/
  manifest : List Byte := []
  signing : Bool := false
  manifestSent : Bool := false
  reported : Bool := false
  /-- The casks that the three mirror slots hold (R473). -/
  slots : List (Option Nat) := [none, none, none]
  /-- Journal bytes of a tensor since its last base; completed bases: (tensor, JOURNAL_FROM); the base in progress. -/
  journalBytes : AMap Nat := []
  bases : List (Nat × Nat) := []
  baseRun : Option (Nat × Nat) := none
  baseUnacked : Nat := 0
  heavyStep : Option Nat := none
  /-- The reserve held for peers. -/
  reserve : List CPiece := []
  committed : Option Nat := none
  casks : Nat := 0
  covered : Bool := false
  /-- The cask whose export is due or runs (R487). -/
  exportDue : Option Nat := none
  exportFailed : Bool := false
  fetching : Option Fetching := none
  transfer : Transfer := {}
  /-- A cask must be taken at the first boundary after a resume (R484); a request was written; RISK has set the flag. -/
  forced : Bool := false
  request : Bool := false
  flag : Bool := false
  /-- Stops of the last eight casks in µs, spare takeovers and rollbacks by time, boundaries by time (R486). -/
  stops : List Nat := []
  takeovers : List Nat := []
  boundaryTimes : List Nat := []
  /-- The time at which the mirror stop in force began (R475). -/
  stop : Option Nat := none
  lastStopUs : Nat := 0
  restoreUs : Nat := 0
  restoreAt : Nat := 0
  risk : Nat := 0
  /-- Samples of the terms of RISK: time, E, L, D and T. -/
  riskHist : List (Nat × Nat × Nat × Nat × Nat) := []
  stretchWindows : Nat := 0
  /-- The barrier entry waits for room in the ring, counted once (R480). -/
  ringHeld : Bool := false
deriving DecidableEq, Repr

/-- Twin operation (R452 to R459). -/
structure Twin where
  state : Nat := 0
  role : Nat := 0
  ownDiv : List Nat := []
  matched : Option Nat := none
  digests : AMap (List Byte) := []
  originals : AMap (List Byte) := []
  partner : AMap (List Byte) := []
  partnerVerified : List Nat := []
  /-- Steps of this domain's verified casks, highest first (R455, R456). -/
  verified : List Nat := []
  /-- DIGEST frames that the partner has not answered, by step (R456). -/
  pending : List (Nat × List Byte) := []
  /-- The last step whose partial table has left (R454). -/
  formed : Option Nat := none
  replayStep : Option Nat := none
  sums : AMap (List (BitVec 64)) := []
  lastFrameAt : Nat := 0
  lastDigest : List Byte := []
deriving DecidableEq, Repr

/-- A feed record with the key of R519: datagram source, sequence and place. -/
structure FeedRec where
  batch : Nat := 0
  source : Nat := 0
  seq : Nat := 0
  place : Nat := 0
  bytes : List Byte := []
deriving DecidableEq, Repr

/-- Hopper (chapter 14). -/
structure Hop_ where
  cycleMs : Nat := 1000
  stepsPerCycle : Nat := 8
  spacingMs : Nat := 0
  graceUs : Nat := 2000
  deadlineMs : Nat := 100
  configFixed : Bool := false
  intakeOk : Bool := false
  replaying : Bool := false
  /-- Batches below this number have closed here; batches below `applied` are applied here. -/
  closed : Nat := 0
  applied : Nat := 0
  receive : List FeedRec := []
  intake : List FeedRec := []
  /-- Where the next record goes in the intake ring, and the bytes sent into rings that their homes hold: home, batch, bytes (R517, R518). -/
  ringNext : Nat := 0
  inRings : List (Nat × Nat × Nat) := []
  seen : List (Nat × Nat × Nat × Nat) := []
  markers : AMap (List Nat) := []
  markersOut : Nat := 0
  log : List (Nat × List FeedRec) := []
  lateStep : Option Nat := none
  refusedStep : Option Nat := none
  /-- Graph rows that applied records changed (R453): batch, tensor, node, type. -/
  changed : List (Nat × Nat × Nat × Nat) := []
  cut : Option Nat := none
  cutTime : Nat := 0
deriving DecidableEq, Repr

/-- Tap (chapter 14). -/
structure Tap where
  discarded : Bool := false
  slotStart : Nat := 0
  emitted : Bool := true
  seq : Nat := 0
  slotCycle : Nat := 0
deriving DecidableEq, Repr

/-- A MACsec secure association (R530). -/
structure MacKey where
  port : Nat := 0
  receive : Bool := false
  an : Nat := 0
  sci : List Byte := []
  ssci : List Byte := []
  salt : List Byte := []
  sak : List Byte := []
deriving DecidableEq, Repr

/-- The Ethernet port. -/
structure Eth where
  linkUp : BitVec 4 := 0
  keys : List MacKey := []
deriving DecidableEq, Repr

/-- A DMA window (R552). -/
structure Window where
  open_ : Bool := false
  part : Nat := 0
  read : Bool := false
  write : Bool := false
  job : Bool := false
  offset : Nat := 0
  length : Nat := 0
deriving DecidableEq, Repr

/-- A command ring (R554). -/
structure Ring where
  configured : Bool := false
  window : Nat := 0
  entries : Nat := 1
  offset : Nat := 0
  head : Nat := 0
deriving DecidableEq, Repr

/-- An RS session (R559). -/
structure RsSession where
  region : Nat := 0
  length : Nat := 0
  received : Nat := 0
deriving DecidableEq, Repr

/-- A register access forwarded to another position (R388, R576): the tag of its fabric request, whether that has been sent, whether it
is a write, and the parcel that asked for it. -/
structure RegWait where
  tag : Nat := 0
  sent : Bool := false
  write : Bool := false
  origin : Origin := none
  request : Parcel := {}
deriving DecidableEq, Repr

/-- The Uzolo port (chapter 15). -/
structure Uzo where
  light : Bool := false
  lanes : Nat := 0
  training : Bool := true
  windows : AMap Window := []
  rings : AMap Ring := []
  rs : Option RsSession := none
  /-- Register accesses forwarded to other positions, in order (R388, R576), and the running number of their tags. -/
  regWaits : List RegWait := []
  nextTag : Nat := 0
  /-- A RESTORE request that is answered when the restore ends (R550). -/
  restoreWait : Option (Origin × Parcel) := none
  /-- Event records that wait to be sent, and records dropped since the queue was full (R555). -/
  events : List (List Byte) := []
  lost : Nat := 0
deriving DecidableEq, Repr

/-- A comet tail (R601): its records by index, the next index, whether it has wrapped, and its freeze cause. -/
structure Tail where
  recs : AMap (List Byte) := []
  next : Nat := 0
  wrapped : Bool := false
  frozen : Option Nat := none
deriving DecidableEq, Repr

/-- The trace port (R605 to R608); its buffer holds EVENT records and others in order of acceptance. -/
structure Trc where
  link : Nat := 0
  credits : Nat := 0
  buffer : List (List Byte) := []
  lost : Nat := 0
  firstLost : Nat := 0
  seq : Nat := 0
  /-- Trace buffers of the sources, up to 16 records each, and the units that throttling holds (R607). -/
  srcBuf : AMap (List (List Byte)) := []
  throttled : List Nat := []
deriving DecidableEq, Repr

/-! ### What leaves the module -/

/-- What the module sends, in order of sending. -/
inductive Output where
  | parcel (type : Nat) (flags : Nat) (tag : BitVec 32) (partition : BitVec 8) (status : Nat) (detail : Nat) (payload : List Byte)
  | packet (kind : Nat) (p : Packet)
  | resent (port : Nat) (seq : Nat) (kind : Nat) (p : Packet)
  | figures (slot : Nat) (queued : List Nat) (down : Nat)
  | tree (up : Bool) (m : TreeMsg)
  | notice (slot : Nat) (powerFail : Bool)
  | kiln (toKiln : Bool) (kind : Nat) (part : Nat) (fields : List Nat) (payload : List Byte)
  | datagram (port : Nat) (dst : List Byte) (udp : Nat) (payload : List Byte)
  | frame (port : Nat) (bytes : List Byte)
  | trace (bytes : List Byte)
  | mark (port : Nat) (value : Nat)
  | smbus (bytes : List Byte)
  | smbusNack
  | alert (low : Bool)
  | pps
  | uzoLight (on : Bool)
  | idleLanes
  | drain (kind : Nat) (fields : List Nat)
deriving DecidableEq, Repr

/-- Everything but power, time, the security die and the waiting commands. -/
structure World where
  /-- Registers with no other home, by control-space offset: those that differ from their reset value. -/
  regs : List (Nat × Word) := []
  /-- Always-on counters, by control-space offset (R586). -/
  counters : AMap Word := []
  config : SysConfig := {}
  /-- HBM by channel × 2^31 + grain × 256 + byte; tun memory by core × 2^21 + address; cluster store by
  cluster × 2^24 + offset; the cellar by channel × 2^40 + line × 64 + byte (R284). -/
  hbm : Memory := []
  tun : Memory := []
  cstore : Memory := []
  cellar : Memory := []
  /-- Channel state (R287) by channel index, and corrections in this sidereal hour. -/
  channels : AMap Nat := []
  hourEcc : AMap Nat := []
  eccHour : Nat := 0
  parityStep : AMap Bool := []
  /-- Accesses that wait behind a failed parity check of their grain, by channel, in the order of their acceptance (R271, R277): the
  first of each grain is retried. -/
  parityHeld : AMap (List GrainAccess) := []
  /-- Stacks whose NMR has stopped: it stays faulted until the next load (R260). -/
  nmrFaulted : List Nat := []
  cellarBad : AMap Bool := []
  cores : AMap Core := []
  clusters : AMap Cluster := []
  parts : AMap Part := []
  dies : AMap Die := []
  flows : AMap Flow := []
  /-- Die barriers by cluster × 64 + index; domain barriers by partition × 16 + index. -/
  bars : AMap Bar := []
  dbars : AMap Bar := []
  kiln : Kiln := {}
  fab : Fab := {}
  cask : Cask := {}
  twin : Twin := {}
  hop : Hop_ := {}
  tap : Tap := {}
  eth : Eth := {}
  uzo : Uzo := {}
  trc : Trc := {}
  tails : AMap Tail := []
  /-- One more than the stamp of each source's last record; 0 before the first (R440). -/
  stamps : AMap Nat := []
  /-- Clusters whose clock is stopped (R20), and after a restart the latched stamp and the time at which 16 island
  cycles have passed (R21, R441). -/
  stopped : AMap Bool := []
  restarts : AMap (Nat × Nat) := []
  /-- The frequency of the arithmetic islands in MHz, as the power controller last set it (R22). -/
  mhz : Nat := 940
  /-- Rotating arbitration pointers (R445), by resource; those of resources whose order is timing only are not kept. -/
  pointers : AMap Nat := []
  /-- Draws of free values made so far: the model's own field. -/
  free : Nat := 0
  out : List Output := []
deriving DecidableEq, Repr

/-- The module. -/
structure State where
  pwr : Pwr := {}
  sid : Sid := {}
  sec : Sec := {}
  w : World := {}
  /-- Commands that wait, first in, first out. -/
  pending : List Instr := []
deriving DecidableEq, Repr

/-- The module at power-on before any input: OFF, every field at its reset value, memories with nothing listed. -/
def State.reset : State := {}

end Sys2Proof.Machine
end

