-- ==== Sys2Proof/Machine/Ops.lean ====
section
/-!
DEFINITION. The named operations that every family of commands shares: access to the units' states, registers and
counters; stamps, comet tails, trace and event records (chapters 12, 16, 18); the stop of a partition's job (R30, R47,
R141); and the accesses to HBM, tun memory and cluster store (chapter 08).
-/

namespace Sys2Proof.Machine

/-- The shape of most meanings: the command changes the world and nothing of power, time, the security die or the
waiting commands. -/
def State.onWorld (s : State) (f : World → World) : State := { s with w := f s.w }

/-- Whether the module is in service: ready, and no power-fail sequence runs (R495, R623). -/
def State.inService (s : State) : Bool := decide (s.pwr.phase = .ready) && s.pwr.failSeq.isNone

/-- A command that only a module in service carries out (R623): without service it has no effect. -/
def State.serve (s : State) (f : World → World) : State := if s.inService then s.onWorld f else s

/-! ### Units -/

/-- Core `c`. -/
def World.core (w : World) (c : Nat) : Core := AMap.get {} w.cores c
/-- Changes core `c`. -/
def World.updCore (w : World) (c : Nat) (f : Core → Core) : World := { w with cores := AMap.upd {} w.cores c f }
/-- Cluster `k`. -/
def World.cluster (w : World) (k : Nat) : Cluster := AMap.get {} w.clusters k
/-- Changes cluster `k`. -/
def World.updCluster (w : World) (k : Nat) (f : Cluster → Cluster) : World :=
  { w with clusters := AMap.upd {} w.clusters k f }
/-- Partition `p`. -/
def World.part (w : World) (p : Nat) : Part := AMap.get {} w.parts p
/-- Changes partition `p`. -/
def World.updPart (w : World) (p : Nat) (f : Part → Part) : World := { w with parts := AMap.upd {} w.parts p f }
/-- Die `d`'s dispatcher. -/
def World.die (w : World) (d : Nat) : Die := AMap.get {} w.dies d
/-- Changes die `d`'s dispatcher. -/
def World.updDie (w : World) (d : Nat) (f : Die → Die) : World := { w with dies := AMap.upd {} w.dies d f }
/-- Flow `i`. -/
def World.flow (w : World) (i : Nat) : Flow := AMap.get {} w.flows i
/-- Changes flow `i`. -/
def World.updFlow (w : World) (i : Nat) (f : Flow → Flow) : World := { w with flows := AMap.upd {} w.flows i f }
/-- Die of a core. -/
def dieOfCore (c : Nat) : Nat := c / 96
/-- Cluster of a core. -/
def clusterOfCore (c : Nat) : Nat := c / 8
/-- Die of a cluster. -/
def dieOfCluster (k : Nat) : Nat := k / 12
/-- Sends something out of the module. -/
def World.emit (w : World) (o : Output) : World := { w with out := w.out ++ [o] }

/-- The dies of each partition under a value of PARTITION (R45); a value above 7 leaves the module unpartitioned. -/
def partitionLayout : Nat → List (List Nat)
  | 1 => [[0, 1], [2, 3]]
  | 2 => [[0], [1, 2, 3]]
  | 3 => [[0, 1, 2], [3]]
  | 4 => [[0], [1], [2, 3]]
  | 5 => [[0], [1, 2], [3]]
  | 6 => [[0, 1], [2], [3]]
  | 7 => [[0], [1], [2], [3]]
  | _ => [[0, 1, 2, 3]]

/-- The partition that owns die `d` (R45, R46). -/
def World.ownerOfDie (w : World) (d : Nat) : Nat :=
  ((partitionLayout w.config.partition).findIdx? fun ds => ds.contains d).getD 0
/-- The dies of partition `p`. -/
def World.diesOf (w : World) (p : Nat) : List Nat := (partitionLayout w.config.partition).getD p []
/-- Number of partitions. -/
def World.partCount (w : World) : Nat := (partitionLayout w.config.partition).length
/-- The partition of a core. -/
def World.partOfCore (w : World) (c : Nat) : Nat := w.ownerOfDie (dieOfCore c)
/-- The partition of a cluster. -/
def World.partOfCluster (w : World) (k : Nat) : Nat := w.ownerOfDie (dieOfCluster k)
/-- The cores of partition `p`, ascending. -/
def World.coresOf (w : World) (p : Nat) : List Nat :=
  (w.diesOf p).flatMap fun d => (List.range 96).map (d * 96 + ·)
/-- The clusters of partition `p`, ascending. -/
def World.clustersOf (w : World) (p : Nat) : List Nat :=
  (w.diesOf p).flatMap fun d => (List.range 12).map (d * 12 + ·)
/-- Whether partition `p` runs a job. -/
def World.jobRuns (w : World) (p : Nat) : Bool := decide ((w.part p).job = .running)

/-! ### Registers and counters (R5 to R11, R586) -/

/-- The value a register holds, by control-space offset. -/
def World.reg (w : World) (a : Nat) : Word := AMap.get (regReset a) w.regs a
/-- Sets a register as the hardware does. -/
def World.setReg (w : World) (a : Nat) (v : Word) : World := { w with regs := AMap.set (regReset a) w.regs a v }
/-- Bits `[lo + n - 1 : lo]` of a register value. -/
def fieldOf (v : Word) (lo n : Nat) : Nat := bitsAt v.toNat lo n
/-- A register field as the hardware reads it. -/
def World.regField (w : World) (a lo n : Nat) : Nat := fieldOf (w.reg a) lo n
/-- A word whose field at `lo` holds `v`, wrapped to `n` bits, and whose other bits are 0. -/
def mkField (v lo n : Nat) : Word := BitVec.ofNat 64 (v % 2 ^ n * 2 ^ lo)
/-- `v` with the field at `lo` replaced. -/
def withField (v : Word) (lo n x : Nat) : Word := (v &&& ~~~ (mkField (2 ^ n - 1) lo n)) ||| mkField x lo n
/-- Sets one field of a register as the hardware does. -/
def World.setField (w : World) (a lo n x : Nat) : World := w.setReg a (withField (w.reg a) lo n x)
/-- Sets bits of a register as the hardware does (R9). -/
def World.setBits (w : World) (a : Nat) (m : Word) : World := w.setReg a (w.reg a ||| m)
/-- Adds to an always-on counter, modulo 2^64 (R586, R609). -/
def World.count (w : World) (a n : Nat) : World :=
  { w with counters := AMap.upd 0 w.counters a (· + BitVec.ofNat 64 n) }
/-- Adds 1 to the counter at offset `off` of instance `i` of a block. -/
def World.tick (w : World) (b : Block) (i off : Nat) : World := w.count (b.addr i off) 1

/-- What a software write leaves in one field (R6): `ready` locks the RWL fields (R11). -/
def Field.written (f : Field) (ready : Bool) (old new : Word) : Word :=
  match f.access with
  | .rw => new &&& f.mask
  | .rwl => (if ready then old else new) &&& f.mask
  | .w1c => old &&& ~~~ new &&& f.mask
  | .ro | .rc | .wo => old &&& f.mask
/-- What a software write leaves in a register: each field by its access code, reserved bits 0 (R6, R8, R11). -/
def RegDef.written (r : RegDef) (ready : Bool) (old new : Word) : Word :=
  r.fields.foldl (fun v f => v ||| f.written ready old new) 0
/-- What a read of a register's stored value returns: WO fields read 0 (R6). -/
def RegDef.readable (r : RegDef) (v : Word) : Word :=
  r.fields.foldl (fun x f => if f.access = .wo then x else x ||| (v &&& f.mask)) 0

/-! ### Sources (R13, R654) -/

/-- A source number (R13). -/
def sourceOf (die clusterCode unit sub : Nat) : Nat := die * 2 ^ 14 + clusterCode * 2 ^ 10 + unit * 2 ^ 4 + sub
/-- A unit of a core: SEQ 0, AXE 1, MXE 2, VXE 3, CJU watch slice 8. -/
def coreSource (unit c : Nat) : Nat := sourceOf (dieOfCore c) (clusterOfCore c % 12) unit (c % 8)
/-- A unit of a cluster: DISP bank 4, SMP 5, GSU 6, SUQ 7. -/
def clusterSource (unit k : Nat) : Nat := sourceOf (dieOfCluster k) (k % 12) unit 0
/-- The barrier objects of a cluster. -/
def barSource (k : Nat) : Nat := sourceOf (dieOfCluster k) (k % 12) 8 8
/-- The HBC of a stack. -/
def hbcSource (st : Nat) : Nat := sourceOf (st / 2) 12 1 (st % 2)
/-- The NMR of a stack. -/
def nmrSource (st : Nat) : Nat := sourceOf (st / 2) 12 2 (st % 2)
/-- An I/O die block by its unit code: FAB 0, ETH 4, UZO 5, TRC 6, MGC 7, HOP 8, TAP 9, SID 10, CSK 11, PWR 12. -/
def ioSource (unit : Nat) : Nat := sourceOf 0 13 unit 0
/-- The source of fabric port `i`. -/
def portSource (i : Nat) : Nat := sourceOf 0 13 (1 + i / 16) (i % 16)
/-- The CNT source of partition `p`. -/
def cntSource (p : Nat) : Nat := sourceOf 0 13 13 p
/-- The security die. -/
def secSource : Nat := sourceOf 0 14 0 0
/-- The Kiln. -/
def klnSource : Nat := sourceOf 0 15 0 0
/-- The trace writer of the job regions and of the port. -/
def trcSource (port : Bool) : Nat := sourceOf 0 13 6 (if port then 1 else 0)

/-- The partition a source belongs to; none for a shared source (R654). -/
def World.sourcePart (w : World) (src : Nat) : Option Nat :=
  let code := bitsAt src 10 4
  let unit := bitsAt src 4 6
  if code ≤ 12 then some (w.ownerOfDie (src / 2 ^ 14))
  else if code = 13 then
    if unit = 13 then some (bitsAt src 0 4)
    else if unit = 0 ∨ unit = 8 ∨ unit = 9 ∨ unit = 11 then some 0 else none
  else none

/-- The sources of the units of one die, ascending by cluster. -/
def dieSources (d : Nat) : List Nat :=
  ((List.range 12).flatMap fun k =>
    ((List.range 4).flatMap fun u => (List.range 8).map fun i => sourceOf d k u i)
      ++ [sourceOf d k 4 0, sourceOf d k 5 0, sourceOf d k 6 0, sourceOf d k 7 0]
      ++ (List.range 9).map fun i => sourceOf d k 8 i)
  ++ (List.range 7).map (fun i => sourceOf d 12 0 i)
  ++ [sourceOf d 12 1 0, sourceOf d 12 1 1, sourceOf d 12 2 0, sourceOf d 12 2 1]

/-- The sources of partition `p` (R602, R654): the units of its dies, its CNT source and, in partition 0, FAB, HOP, TAP
and CSK. -/
def World.partSources (w : World) (p : Nat) : List Nat :=
  (w.diesOf p).flatMap dieSources ++ [cntSource p]
    ++ (if p = 0 then [ioSource 0, ioSource 8, ioSource 9, ioSource 11] else [])

/-- The module key of R444. -/
def World.moduleKey (w : World) : Nat :=
  match w.fab.position with
  | some p => p
  | none => 16384 + w.fab.physical

/-! ### Stamps (R439 to R441) -/

/-- Whether a stamp taken now carries RESYNC for want of a locked counter (R441, second case; assumption 12). -/
def Sid.unsettled (t : Sid) : Bool :=
  match t.lock with
  | .locked | .root => false
  | .holdover => if t.isRoot then decide (t.now > t.holdoverAt.getD t.now + 1000000000) else true
  | .free | .acquiring => true

/-- The cluster whose island a source belongs to, if it is a cluster's. -/
def sourceCluster (src : Nat) : Option Nat :=
  if bitsAt src 10 4 < 12 then some (src / 2 ^ 14 * 12 + bitsAt src 10 4) else none

/-- The time a source samples and whether the sample falls in the 16 cycles after a restart (R441, first case). -/
def World.sample (w : World) (t : Sid) (src : Nat) : Nat × Bool :=
  match sourceCluster src with
  | none => (t.now, false)
  | some k =>
    let r := AMap.get (0, 0) w.restarts k
    if t.now < r.2 then (r.1, true) else (t.now, false)

/-- Nanoseconds of 16 island cycles at a frequency in MHz (R441). -/
def resyncSpan (freq : Nat) : Nat := (16000 + freq - 1) / freq

/-- A message reaches the island of cluster `k` (R21): a stopped one runs again before the message is delivered, and its first 16 cycles
use the reference value that the handshake latched (R441). -/
def World.wakeIsland (w : World) (t : Sid) (k : Nat) : World :=
  if AMap.get false w.stopped k then
    { w with stopped := AMap.set false w.stopped k false
             restarts := AMap.set (0, 0) w.restarts k (t.now, t.now + resyncSpan w.mhz) }
  else w

/-- The next stamp of a source, whether it carries RESYNC, and the world in which it has been issued (R440, R441). -/
def World.stamp (w : World) (t : Sid) (src : Nat) : Nat × Bool × World :=
  let smp := w.sample t src
  let v := max smp.1 (AMap.get 0 w.stamps src)
  let resync := smp.2 || t.unsettled
  let w1 := { w with stamps := AMap.set 0 w.stamps src (v + 1) }
  (v, resync, if resync then w1.tick .sid 0 0x098 else w1)

/-! ### Comet tails and trace (R588 to R608) -/

/-- Writes one record of a tail, unless the tail is frozen (R601, R602). -/
def Tail.push (x : Tail) (r : List Byte) : Tail :=
  if x.frozen.isSome then x
  else { x with recs := AMap.set [] x.recs x.next r, next := (x.next + 1) % 256,
                wrapped := x.wrapped || decide (x.next = 255) }

/-- A tail record of 16 bytes (R601). -/
def tailRecord (stamp kind flags arg16 arg32 : Nat) : List Byte :=
  leBytes 8 stamp ++ leBytes 1 kind ++ leBytes 1 flags ++ leBytes 2 arg16 ++ leBytes 4 arg32

/-- Writes a record into a source's tail. -/
def World.tailWrite (w : World) (src : Nat) (r : List Byte) : World :=
  { w with tails := AMap.upd {} w.tails src (·.push r) }

/-- A trace record of 32 bytes (R588); the data is cut or filled to 16 bytes. -/
def World.traceRecord (w : World) (stamp : Nat) (resync : Bool) (src kind : Nat) (data : List Byte) : List Byte :=
  leBytes 8 stamp ++ leBytes 2 w.moduleKey ++ leBytes 2 src ++ leBytes 1 kind
    ++ leBytes 1 (if resync then 1 else 0) ++ leBytes 1 ((w.sourcePart src).getD 0) ++ [0] ++ slice data 0 16

/-- Records that the event part of the port buffer, the rest of it, and a source's trace buffer hold (R607, R608). -/
def eventPartRecords : Nat := 32768
def portBufferRecords : Nat := 98304
def sourceBufferRecords : Nat := 16

/-- Whether a class is enabled for the trace port (R617): `cls` counts from 0 as CLASSES of R611, 5 for packets. -/
def World.portTraces (w : World) (cls : Nat) : Bool :=
  decide (w.regField (Block.trc.addr 0 0x000) 0 1 = 1)
    && bitAt (w.regField (Block.trc.addr 0 0x000) 1 6) cls

/-- Whether a class is enabled for the job region of partition `p` (R590, R611). -/
def World.regionTraces (w : World) (p cls : Nat) : Bool :=
  (w.part p).traceActive && bitAt (w.regField (Block.cnt.addr p 0x008) 0 5) cls

/-- Drops a record of the port, remembering the first dropped stamp (R608). -/
def World.portDrop (w : World) (stamp : Nat) : World :=
  { w with trc := { w.trc with lost := w.trc.lost + 1,
                               firstLost := if w.trc.lost = 0 then stamp else w.trc.firstLost } }.tick .trc 0 0x098

/-- Whether a trace record belongs to the events class (R589): EVENT or DUMP. -/
def eventRecordKind (r : List Byte) : Bool := decide (leAt r 12 1 = 1) || decide (leAt r 12 1 = 7)

/-- Gives a record to the trace port (R605 to R608): EVENT records have their own part of the buffer and drop when it is full; other
records go to the port buffer, or to the source's buffer when the port buffer is full; every record drops while the link is not up. -/
def World.portAccept (w : World) (src cls stamp : Nat) (r : List Byte) : World :=
  let events := (w.trc.buffer.filter eventRecordKind).length
  if w.trc.link ≠ 2 then w.portDrop stamp
  else if cls = 0 then
    if events < eventPartRecords then { w with trc := { w.trc with buffer := w.trc.buffer ++ [r] } } else w.portDrop stamp
  else if w.trc.buffer.length - events < portBufferRecords then
    { w with trc := { w.trc with buffer := w.trc.buffer ++ [r] } }
  else { w with trc := { w.trc with srcBuf := AMap.upd [] w.trc.srcBuf src (· ++ [r]) } }

/-- Gives a record of a class to the paths that trace it. -/
def World.traceTo (w : World) (src cls stamp : Nat) (r : List Byte) : World :=
  let w := match w.sourcePart src with
    | none => w
    | some p =>
      if cls < 5 ∧ w.regionTraces p cls then w.updPart p fun x => { x with traceIn := x.traceIn ++ [r] } else w
  if w.portTraces cls then w.portAccept src cls stamp r else w

/-- One action of a unit (R588, R601): it is stamped once, written into the unit's tail and given to the trace paths
that its class is enabled for. -/
def World.act (w : World) (t : Sid) (src kind cls arg16 arg32 : Nat) (data : List Byte) : World :=
  match w.stamp t src with
  | (st, rs, w) =>
    (w.tailWrite src (tailRecord st kind (if rs then 1 else 0) arg16 arg32)).traceTo src cls st
      (w.traceRecord st rs src kind data)

/-- A hold begins or ends (R601, KIND 0x08): only the tail records it. -/
def World.holdRecord (w : World) (t : Sid) (src state : Nat) (ends : Bool) : World :=
  match w.stamp t src with
  | (st, rs, w) => w.tailWrite src (tailRecord st 0x08 (if rs then 1 else 0) state (if ends then 1 else 0))

/-- Whether the source's trace buffer is full, so that its next traced action of the class must wait (R607). -/
def World.throttles (w : World) (src cls : Nat) : Bool :=
  decide (cls ≠ 0) && w.portTraces cls && decide (w.trc.link = 2)
    && decide (sourceBufferRecords ≤ (AMap.get [] w.trc.srcBuf src).length)

/-- Marks a unit held by throttling and counts the held cycle (R607). -/
def World.throttle (w : World) (src : Nat) : World :=
  { w with trc := { w.trc with throttled := if w.trc.throttled.contains src then w.trc.throttled
                                            else w.trc.throttled ++ [src] } }.tick .trc 0 0x090

/-- Whether a unit is held by throttling: it makes no progress (R608). -/
def World.throttled (w : World) (src : Nat) : Bool := w.trc.throttled.contains src

/-- Freezes the tail of one source (R602): a FREEZE record, then nothing more; a frozen tail keeps its cause. -/
def World.freezeTail (t : Sid) (cause trigger : Nat) (w : World) (src : Nat) : World :=
  if (AMap.get {} w.tails src).frozen.isSome then w
  else
    match w.stamp t src with
    | (st, rs, w) =>
      { w with tails := AMap.upd {} w.tails src fun x =>
          { x.push (tailRecord st 0x09 ((if rs then 1 else 0) + (if src = trigger ∧ cause ≠ 0 then 2 else 0)) cause trigger)
            with frozen := some cause } }

/-- Freezes the tails of a partition (R602) and counts the freeze; a stopped island runs again to take it (R21). -/
def World.freezePart (w : World) (t : Sid) (p cause trigger : Nat) : World :=
  let w := (w.clustersOf p).foldl (fun w k => w.wakeIsland t k) w
  ((w.partSources p).foldl (World.freezeTail t cause trigger) w).tick .cnt p 0x0B8

/-- A fault of a shared unit (the Kiln, the security die, MGC, ETH, UZO, TRC or SID) freezes that unit's tail only (R602, cause 3). -/
def World.freezeShared (w : World) (t : Sid) (sev src : Nat) : World :=
  if 3 ≤ sev ∧ [klnSource, secSource, ioSource 4, ioSource 5, ioSource 7, ioSource 10, trcSource false, trcSource true].contains src then
    World.freezeTail t 3 src w src
  else w

/-- Thaws the tails of the sources given; their records stay (R603). -/
def World.thawTails (w : World) (srcs : List Nat) : World :=
  { w with tails := w.tails.map fun e => (e.1, if srcs.contains e.1 then { e.2 with frozen := none } else e.2) }

/-! ### Events (R652 to R656) -/

/-- Severity of an event code where it does not depend on the case (R656). -/
def eventSeverity (code : Nat) : Nat :=
  if code < 0x100 then 0
  else if code = 0x101 ∨ code = 0x109 ∨ code = 0x10B ∨ code = 0x113 ∨ code = 0x121 ∨ code = 0x130 ∨ code = 0x150
    ∨ code = 0x151 ∨ code = 0x153 ∨ code = 0x160 ∨ code = 0x161 ∨ code = 0x163 ∨ code = 0x171 ∨ code = 0x173 then 2
  else if code = 0x102 ∨ code = 0x103 ∨ code = 0x10C ∨ code = 0x10D ∨ code = 0x112 ∨ code = 0x131 ∨ code = 0x132 then 3
  else if code = 0x104 ∨ code = 0x105 ∨ code = 0x106 ∨ code = 0x107 ∨ code = 0x10A ∨ code = 0x111 ∨ code = 0x120
    ∨ code = 0x141 ∨ code = 0x152 then 1
  else if code = 0x170 ∨ code = 0x172 then 4
  else 0

/-- An event record of 32 bytes (R652). -/
def World.eventRecord (w : World) (stamp : Nat) (resync : Bool) (src code sev payload extra : Nat) : List Byte :=
  let shared := (w.sourcePart src).isNone
  leBytes 8 stamp ++ leBytes 2 w.moduleKey ++ leBytes 2 src ++ leBytes 2 code ++ leBytes 1 sev
    ++ leBytes 1 ((if resync then 1 else 0) + (if shared then 2 else 0)) ++ leBytes 4 payload
    ++ leBytes 1 ((w.sourcePart src).getD 0xFF) ++ [0, 0, 0] ++ leBytes 8 extra

/-- EXTRA of an event of a source: the partition's STEP, all ones before its first job start and for a shared source. -/
def World.eventExtra (w : World) (src : Nat) : Nat :=
  match w.sourcePart src with
  | none => allOnes64
  | some p => if (w.part p).started then (w.part p).step else allOnes64

/-- Queues an event record for the Uzolo port (R555). -/
def World.queueEvent (w : World) (sev : Nat) (r : List Byte) : World :=
  let ctrl := w.reg (Block.uzo.addr 0 0x008)
  if fieldOf ctrl 0 1 = 1 ∧ fieldOf ctrl 1 3 ≤ sev then
    if w.uzo.events.length < 4096 then { w with uzo := { w.uzo with events := w.uzo.events ++ [r] } }
    else ({ w with uzo := { w.uzo with lost := w.uzo.lost + 1 } }).tick .uzo 0 0x0A8
  else w

/-- Raises an event with a severity and EXTRA of its own (R652 to R656): the record is queued for the Uzolo port, the
source's tail and the trace paths take it, a FAULT or MODULE record of a partition's source counts in CNT_FAULTS, and one of a shared unit
freezes its tail. -/
def World.raiseAs (w : World) (t : Sid) (src code sev payload extra : Nat) : World :=
  match w.stamp t src with
  | (st, rs, w) =>
    let w := w.queueEvent sev (w.eventRecord st rs src code sev payload extra)
    let w := match w.sourcePart src with
      | none => w
      | some p => if 3 ≤ sev then w.tick .cnt p 0x0B0 else w
    let w := w.tailWrite src (tailRecord st 0x01 (if rs then 1 else 0) code payload)
    (w.traceTo src 0 st
      (w.traceRecord st rs src 0x01 (leBytes 2 code ++ [0, 0] ++ leBytes 4 payload ++ leBytes 8 0))).freezeShared t sev src

/-- Raises an event with its severity of R656. -/
def World.raise (w : World) (t : Sid) (src code payload : Nat) : World :=
  w.raiseAs t src code (eventSeverity code) payload (w.eventExtra src)

/-! ### Stopping a job (R30, R47, R141, R551) -/

/-- A core whose engines hold no work: what waits and what runs is discarded, with the tile queues; a faulted engine keeps the
operation that its STATUS names (assumption 14). -/
def Core.emptied (c : Core) : Core :=
  { c with
    queues := [], live := [], signals := [], doneOps := []
    mxe := { c.mxe with pending := [], run := if c.mxe.faulted then c.mxe.run else none }
    vxe := { c.vxe with pending := [], run := if c.vxe.faulted then c.vxe.run else none }
    axe := { c.axe with pending := [], streams := [], guards := [] } }

/-- A cluster whose sampler, GSU and SUQ hold no work. -/
def Cluster.emptied (x : Cluster) : Cluster :=
  { smp := { x.smp with pending := [], run := if x.smp.faulted then x.smp.run else none, item := none }
    gsu := { faulted := x.gsu.faulted, nextTag := x.gsu.nextTag }
    suq := { x.suq with pending := [] } }

/-- The cores and clusters of a partition hold no work. -/
def World.emptyUnits (w : World) (p : Nat) : World :=
  let w := (w.coresOf p).foldl (fun w c => w.updCore c Core.emptied) w
  (w.clustersOf p).foldl (fun w k => w.updCluster k Cluster.emptied) w

/-- A core's sequencer stops with STATE faulted (R141). -/
def Core.faultSeq (c : Core) : Core := { c with seq := .faulted, held := none, waitReg := none, wake := false }

/-- What a sequencer of a stopped job becomes: faulted ones stay, the others go idle; a deadlock leaves them as they
are (R372; assumption 14). -/
def Core.halted (keep : Bool) (c : Core) : Core :=
  if keep ∨ c.seq = .faulted then c
  else { c with seq := .idle, held := none, waitReg := none, wake := false, ended := true, item := none }

/-- The job of partition `p` stops: nothing of it runs, its units' work is discarded but at a deadlock, the step does not switch, an armed dump ends as CANCELLED (R597)
and partition 0 reports ABORT up the tree (R417). -/
def World.stopRun (w : World) (p : Nat) (keep : Bool) : World :=
  if (w.part p).job ≠ .running then w
  else
    let w := (w.coresOf p).foldl (fun w c => w.updCore c (Core.halted keep)) w
    let w := if keep then w else w.emptyUnits p
    let w := w.updPart p fun x =>
      { x with job := .stopped, running := false, inBarrier := false, stopAtBoundary := false, due := none,
               dump := if x.dump.state = 1 then { x.dump with state := 0, result := 8 } else x.dump }
    if p = 0 then
      let w := { w with cask := { w.cask with inProgress := none } }
      if w.fab.position.isSome then
        w.emit (.tree true
          { kind := 0, barrier := 0, entries := 1, abort := true, step := (w.part 0).step, fromPosition := w.fab.position.getD 0x3FFF })
      else w
    else w

/-- A dump of a partition ends with a result (R600). -/
def World.endDump (w : World) (t : Sid) (p result : Nat) : World :=
  let d := (w.part p).dump
  let w := w.updPart p fun x => { x with dump := { x.dump with state := 0, result := result, image := [] } }
  let w := if result = 1 then (w.tick .cnt p 0x0A0).count (Block.cnt.addr p 0x0A8) d.image.length else w
  match w.stamp t (cntSource p) with
  | (st, rs, w) =>
    w.traceTo (cntSource p) 0 st
      (w.traceRecord st rs (cntSource p) 0x07 (leBytes 4 d.tensor ++ leBytes 1 result ++ [0, 0, 0] ++ leBytes 8 d.image.length))

/-- An armed dump ends as CANCELLED when the job stops (R597). -/
def World.cancelDump (w : World) (t : Sid) (p : Nat) : World := if (w.part p).dump.state = 1 then w.endDump t p 8 else w

/-- A fault stops the job of partition `p` (R47): the comet tails freeze (R602, causes 1 and 2) and the job stops. -/
def World.stopJob (w : World) (t : Sid) (p cause trigger : Nat) : World :=
  ((w.freezePart t p cause trigger).cancelDump t p).stopRun p (decide (cause = 2))

/-- METADATA (R656, R657): the event, and the stop of the partition's job. -/
def World.metadata (w : World) (t : Sid) (p src check low : Nat) : World :=
  (w.raise t src 0x102 (check * 2 ^ 24 + low % 2 ^ 24)).stopJob t p 1 src

/-- RACE (R656): the event, and the stop of the partition's job. -/
def World.race (w : World) (t : Sid) (p src index queue cause : Nat) : World :=
  (w.raise t src 0x103 (index % 2 ^ 16 + queue % 16 * 2 ^ 16 + cause * 2 ^ 20)).stopJob t p 1 src

/-! ### HBM (R265 to R273) -/

/-- HBM_CAPACITY of partition `p` (R267). -/
def World.hbmCapacity (w : World) (p : Nat) : Nat := (w.part p).good.length * 2 ^ 31

/-- The channel, and the grain within it, of a partition HBM offset (R268). -/
def hbmLocate (good : List Nat) (a : Nat) : Nat × Nat :=
  let g := a / 256
  let line := g / good.length
  let k := g % good.length
  let h := bitsAt line 0 8 ^^^ bitsAt line 8 8 ^^^ bitsAt line 16 7
  (good.getD ((k + h) % good.length) 0, line)

/-- The key of a partition HBM offset in `World.hbm`. -/
def hbmKey (good : List Nat) (a : Nat) : Nat :=
  let l := hbmLocate good a
  l.1 * 2 ^ 31 + l.2 * 256 + a % 256

/-- One byte of a partition's HBM. -/
def World.hbmByte (w : World) (p a : Nat) : Byte := w.hbm.byte (hbmKey (w.part p).good a)

/-- `n` bytes of a partition's HBM. -/
def World.hbmRead (w : World) (p a n : Nat) : List Byte := (List.range n).map fun i => w.hbmByte p (a + i)

/-- Stores bytes in a partition's HBM, with no check. -/
def World.hbmStore (w : World) (p a : Nat) : List Byte → World
  | [] => w
  | b :: bs => World.hbmStore { w with hbm := w.hbm.setByte (hbmKey (w.part p).good a) b } p (a + 1) bs

/-- The offsets at which the grains of a byte range begin. -/
def grainsOf (a n : Nat) : List Nat :=
  if n = 0 then [] else (List.range ((a + n - 1) / 256 - a / 256 + 1)).map fun i => (a / 256 + i) * 256

/-- Whether any grain of the range lies in a channel that has failed in this start (R278). -/
def World.hbmFailed (w : World) (p a n : Nat) : Bool :=
  (grainsOf a n).any fun g => decide (AMap.get 0 w.channels (hbmLocate (w.part p).good g).1 = 2)

/-- Counts the grain accesses of a range at their stacks (R270, R291). -/
def World.hbmCount (w : World) (p a n : Nat) (isWrite : Bool) : World :=
  (grainsOf a n).foldl (fun w g =>
    let st := (hbmLocate (w.part p).good g).1 / 32
    let w := w.tick .hbc st (if isWrite then 0x088 else 0x080)
    if a ≤ g ∧ g + 256 ≤ a + n then w else w.tick .hbc st 0x090) w

/-! ### Orbit rings (R407, R429) -/

/-- Ring buffers of a stop in one direction (R407). -/
def ringBuffers : Nat := 8

/-- A message enters the ring of die `d` at stop `a`, in the direction that the counter at `off` counts. It waits until two buffers are
free; how many others hold is a free value (R407). -/
def World.ringEnter (w : World) (d a off : Nat) : World :=
  let held := (Config.ringHeld [d, a, off, (AMap.get 0 w.counters (Block.orb.addr d off)).toNat]).toNat % 9
  w.count (Block.orb.addr d 0x098) (if ringBuffers < held + 2 then 1 else 0)

/-- Counts `n` grains that travel on the rings of die `d` from stop `a` to stop `b`: the shorter way round, ties clockwise. -/
def World.ringLeg (w : World) (d a b n : Nat) : World :=
  if a = b then w
  else
    let off := if (b + 6 - a) % 6 ≤ 3 then 0x080 else 0x088
    (w.ringEnter d a off).count (Block.orb.addr d off) n

/-- Counts `n` grains from stop `a` of die `d` to stop `b` of die `e`: across the dies the shorter way, ties towards the
higher die. The crossing from stop 1 of a die to stop 4 of the next is the first die's. -/
def World.ringCarry (w : World) (d a e b n : Nat) : Nat → World
  | 0 => w
  | fuel + 1 =>
    if d = e then w.ringLeg d a b n
    else if (e + 4 - d) % 4 ≤ 2 then
      World.ringCarry ((w.ringLeg d a 1 n).count (Block.orb.addr d 0x090) n) ((d + 1) % 4) 4 e b n fuel
    else
      World.ringCarry ((w.ringLeg d a 4 n).count (Block.orb.addr ((d + 3) % 4) 0x090) n) ((d + 3) % 4) 1 e b n fuel

/-- The die and stop of a source for traffic with die `e` (R407): a cluster's own stop, a stack's own stop for a die's
controllers, and stop 5 of die `e` for the I/O die. -/
def ringStop (src e : Nat) : Nat × Nat :=
  let code := bitsAt src 10 4
  if code < 12 then (src / 2 ^ 14, code / 2)
  else if code = 12 then (src / 2 ^ 14, 3 * bitsAt src 0 1)
  else (e, 5)

/-- Counts the grains of a range on the rings between a source and the stacks that hold them. -/
def World.ringGrains (w : World) (src p a n : Nat) (isWrite : Bool) : World :=
  (grainsOf a n).foldl (fun w g =>
    let st := (hbmLocate (w.part p).good g).1 / 32
    let x := ringStop src (st / 2)
    if isWrite then w.ringCarry x.1 x.2 (st / 2) (3 * (st % 2)) 1 4
    else w.ringCarry (st / 2) (3 * (st % 2)) x.1 x.2 1 4) w

/-- A read of a partition's HBM by source `src`: its bytes, and the world in which its grains are counted. -/
def World.hbmFetch (w : World) (src p a n : Nat) : List Byte × World :=
  (w.hbmRead p a n, (w.hbmCount p a n false).ringGrains src p a n false)

/-- A versioned table of a partition by its TENSOR_ID (R218). -/
def Part.entry (x : Part) (id : Nat) : Option DirEntry := x.dir.find? fun e => decide (e.tensor = id)
/-- Offset of the current version. -/
def DirEntry.curBase (e : DirEntry) : Nat := if e.current then e.base1 else e.base0
/-- Offset of the pending version. -/
def DirEntry.penBase (e : DirEntry) : Nat := if e.current then e.base0 else e.base1
/-- Bytes of a record. -/
def DirEntry.recordBytes (e : DirEntry) : Nat := e.rowGrains * 256
/-- Changes the entry of a table. -/
def Part.updEntry (x : Part) (id : Nat) (f : DirEntry → DirEntry) : Part :=
  { x with dir := x.dir.map fun e => if e.tensor = id then f e else e }

/-- Whether two byte ranges meet. -/
def rangesMeet (a n b m : Nat) : Bool := decide (a < b + m) && decide (b < a + n) && decide (0 < n) && decide (0 < m)

/-- The directory entry whose current version a range falls into (R222, R553). -/
def World.currentHit (w : World) (p a n : Nat) : Option DirEntry :=
  (w.part p).dir.find? fun e => rangesMeet a n e.curBase e.bytes

/-- The records of a table's pending version that a range touches. -/
def DirEntry.touched (e : DirEntry) (a n : Nat) : List Nat :=
  if rangesMeet a n e.penBase e.bytes then
    let lo := (max a e.penBase - e.penBase) / e.recordBytes
    let hi := (min (a + n) (e.penBase + e.bytes) - e.penBase - 1) / e.recordBytes
    (List.range (hi - lo + 1)).map (lo + ·)
  else []

/-- A tensor of a partition's catalogue. -/
def World.tensor (w : World) (p id : Nat) : Option Tensor :=
  (w.part p).bundle.bind fun b => b.tensors.find? fun x => decide (x.id = id)
/-- The format in force for a tensor (R107, R123): the one the last boundary chose, at first the recipe's. -/
def World.formatOf (w : World) (p : Nat) (x : Tensor) : Nat := (AMap.get none (w.part p).formats x.id).getD x.recipe.format

/-- The format of a row of the current and of the pending version, as it was written (R107). -/
def DirEntry.curFormat (e : DirEntry) (row : Nat) : Nat := (AMap.get none (if e.current then e.rowFmt1 else e.rowFmt0) row).getD e.format
def DirEntry.penFormat (e : DirEntry) (row : Nat) : Nat := (AMap.get none (if e.current then e.rowFmt0 else e.rowFmt1) row).getD e.format
/-- Notes the format of a row of the pending version. -/
def DirEntry.setPenFormat (e : DirEntry) (row f : Nat) : DirEntry :=
  let v := if f = e.format then none else some f
  if e.current then { e with rowFmt0 := AMap.set none e.rowFmt0 row v } else { e with rowFmt1 := AMap.set none e.rowFmt1 row v }

/-- A row that a write touches is from then on in the format in force for its table (R107). -/
def World.markFormat (w : World) (p row : Nat) (e : DirEntry) : DirEntry :=
  if e.kind = 1 then (w.tensor p e.tensor).elim e fun x => e.setPenFormat row (w.formatOf p x) else e

/-- Sets the dirty bit of every record of a pending version that a write touches (R220), in the directory's set and in
the bitmap that HBM holds, and notes the format of a row (R107). -/
def World.markDirty (w : World) (p a n : Nat) : World :=
  (w.part p).dir.foldl (fun w e =>
    (e.touched a n).foldl (fun w r =>
      let b := e.dirty + r / 8
      let w := w.hbmStore p b [w.hbmByte p b ||| BitVec.ofNat 8 (2 ^ (r % 8))]
      w.updPart p fun x => x.updEntry e.tensor fun y =>
        { w.markFormat p r y with dirtySet := if y.dirtySet.contains r then y.dirtySet else y.dirtySet ++ [r] }) w) w

/-- Spaces that a guard covers (R228): HBM of partition `p` is space `p`, the store of cluster `k` is space 16 + `k`, the HBM of
position `q` is space 2^16 + `q`. -/
def clusterSpace (k : Nat) : Nat := 16 + k
def remoteSpace (q : Nat) : Nat := 2 ^ 16 + q

/-- The guards that a write to `[a, a + n)` of a space hits, by core (R229). -/
def World.guardHits (w : World) (space a n : Nat) : List (Nat × Guard) :=
  w.cores.flatMap fun e => (e.2.axe.guards.filter fun g =>
    decide (g.space = space) && rangesMeet a n g.lo (g.hi - g.lo)).map fun g => (e.1, g)

/-- One guard hit (R229, R230). Strict: the reading core's stream faults with RACE, CAUSE 0. Relaxed: AXE_GUARD_HITS
counts it and the first hit of the core in a step raises GUARD_HIT; the tile is marked to be read again. -/
def World.guardHit (t : Sid) (wsrc wpos : Nat) (w : World) (h : Nat × Guard) : World :=
  let c := h.1
  let g := h.2
  let p := w.partOfCore c
  if w.regField (Block.axe.addr c 0x000) 0 1 = 1 then
    let w := w.tick .axe c 0x090
    let first := !(w.core c).axe.guardHitStep
    let w := w.updCore c fun x =>
      { x with axe := { x.axe with
          guardHitStep := true
          guards := x.axe.guards.map fun y =>
            if y.stream = g.stream ∧ y.emission = g.emission then { y with reread := true } else y } }
    if first then w.raise t (coreSource 1 c) 0x104 (g.index % 2 ^ 16) else w
  else if (w.core c).axe.faulted ∨ ¬ w.jobRuns p then w
  else
    let desc := ((w.core c).axe.streams.find? fun x => decide (x.op.serial = g.stream)).elim 0 (·.op.desc)
    let w := w.setReg (Block.axe.addr c 0x010)
      (mkField 2 0 4 ||| mkField 0 4 4 ||| mkField g.queue 8 4 ||| mkField desc 12 11 ||| mkField g.index 32 16 ||| mkField 1 63 1)
    let w := w.setReg (Block.axe.addr c 0x018) (mkField wsrc 0 16 ||| mkField wpos 16 14)
    let w := w.updCore c fun x => { x.faultSeq with axe := { x.axe with faulted := true, pending := [] } }
    w.race t p (coreSource 1 c) g.index g.queue 0

/-- A write to partition 0's HBM hits the guards that other modules' streams hold there (R229). -/
def World.hitRemote (w : World) (p a n : Nat) : World :=
  if p = 0 then
    { w with fab := { w.fab with guards := w.fab.guards.map fun g => if rangesMeet a n g.lo (g.hi - g.lo) then { g with hit := true } else g } }
  else w

/-- The bytes of a write land (R220, R229): dirty bits are set and every registered guard that they touch is hit. -/
def World.hbmLand (t : Sid) (wsrc wpos p a : Nat) (w : World) (bs : List Byte) : World :=
  let hits := w.guardHits p a bs.length
  hits.foldl (World.guardHit t wsrc wpos) (((w.hbmStore p a bs).markDirty p a bs.length).hitRemote p a bs.length)

/-- A write to a partition's HBM by an agent takes effect (R220, R229, R270): its bytes land and its grains count. -/
def World.hbmApply (w : World) (t : Sid) (wsrc wpos p a : Nat) (bs : List Byte) : World :=
  World.hbmLand t wsrc wpos p a ((w.hbmCount p a bs.length true).ringGrains wsrc p a bs.length true) bs

/-- The runs of bytes that a byte mask lets through, each with its place (R270). -/
def maskRuns : Nat → List (Bool × Byte) → List (Nat × List Byte)
  | _, [] => []
  | i, (m, b) :: r =>
    match m, maskRuns (i + 1) r with
    | false, xs => xs
    | true, [] => [(i, [b])]
    | true, (j, bs) :: xs => if j = i + 1 then (i, b :: bs) :: xs else (i, [b]) :: (j, bs) :: xs

/-- The accesses of a write with a byte mask (R270): one for each grain, short where the mask covers fewer than 256 bytes of it. -/
def World.hbmCountMask (w : World) (p a n : Nat) (mask : List Bool) : World :=
  (grainsOf a n).foldl (fun w g =>
    if a ≤ g ∧ g + 256 ≤ a + n ∧ ((mask.drop (g - a)).take 256).all id = false then w.tick .hbc ((hbmLocate (w.part p).good g).1 / 32) 0x090
    else w) (w.hbmCount p a n true)

/-- A write with a byte mask takes effect (R270): the masked bytes land and its grains count. -/
def World.hbmApplyMask (w : World) (t : Sid) (wsrc wpos p a : Nat) (bs : List Byte) (mask : List Bool) : World :=
  if mask.all id then w.hbmApply t wsrc wpos p a bs
  else
    let runs := maskRuns 0 (mask.zip bs)
    runs.foldl (fun w r => World.hbmLand t wsrc wpos p (a + r.1) w r.2)
      ((w.hbmCountMask p a bs.length mask).ringGrains wsrc p a bs.length true)

/-- The table whose pending version a write meets while its catch-up is not complete (R220). -/
def World.behindCatchup (w : World) (p a n : Nat) : Option DirEntry :=
  (w.part p).dir.find? fun e => !e.catchupDone && rangesMeet a n e.penBase e.bytes

/-- A write to a partition's HBM by an agent: held and counted while the catch-up of its table runs (R220), else applied. -/
def World.hbmWrite (w : World) (t : Sid) (wsrc wpos p a : Nat) (bs : List Byte) : World :=
  match w.behindCatchup p a bs.length with
  | none => w.hbmApply t wsrc wpos p a bs
  | some e =>
    (w.updPart p fun x => { x with heldWrites := x.heldWrites ++ [(e.tensor, a, wsrc, wpos, bs)] }).tick .nmr
      ((hbmLocate (w.part p).good a).1 / 32) 0x0A8

/-- A write with a byte mask by an agent: held while the catch-up of its table runs (R220), run by run, else applied. -/
def World.hbmWriteMask (w : World) (t : Sid) (wsrc wpos p a : Nat) (bs : List Byte) (mask : List Bool) : World :=
  if mask.all id then w.hbmWrite t wsrc wpos p a bs
  else if (w.behindCatchup p a bs.length).isNone then w.hbmApplyMask t wsrc wpos p a bs mask
  else (maskRuns 0 (mask.zip bs)).foldl (fun w r => w.hbmWrite t wsrc wpos p (a + r.1) r.2) w

/-- An agent of the I/O die whose access completes without data stops with KIND 3 in its FAULT register, where it has one, and the job
stops (R278, R293). -/
def World.agentStop (w : World) (t : Sid) (p src : Nat) : World :=
  if w.jobRuns p = false then w
  else
    let w := if src = ioSource 0 then w.setReg (Block.fab.addr 0 0x030) (mkField 3 0 4 ||| mkField 1 63 1)
      else if src = klnSource then w.setReg (Block.kln.addr 0 0x008) (mkField 3 0 4 ||| mkField p 4 2 ||| mkField 1 63 1)
      else w
    w.stopJob t p 1 src

/-- Reads of an agent, each an offset and a length: they count, or the first that meets a failed channel stops the agent (R270, R278). -/
def World.agentReads (w : World) (t : Sid) (p src : Nat) (xs : List (Nat × Nat)) : Option World × World :=
  if xs.any fun x => w.hbmFailed p x.1 x.2 then (none, w.agentStop t p src)
  else let w := xs.foldl (fun w x => (w.hbmFetch src p x.1 x.2).2) w; (some w, w)

/-! ### The cellar (R284) -/

/-- Channel and line of an offset of a partition's cellar share: the map of R268 with lines of 64 bytes. -/
def cellarLocate (good : List Nat) (a : Nat) : Nat × Nat :=
  let g := a / 64
  let line := g / good.length
  let k := g % good.length
  let h := bitsAt line 0 8 ^^^ bitsAt line 8 8 ^^^ bitsAt line 16 7
  (good.getD ((k + h) % good.length) 0, line)

/-- Where the memory holds a byte of a partition's share; a share without a good channel of its own dies stands apart. -/
def cellarKey (good : List Nat) (p a : Nat) : Nat :=
  if good = [] then (64 + p) * 2 ^ 40 + a
  else let l := cellarLocate good a; l.1 * 2 ^ 40 + l.2 * 64 + a % 64

/-- A byte of a partition's cellar share. -/
def World.cellarByte (w : World) (p a : Nat) : Byte := w.cellar.byte (cellarKey (w.part p).cellarGood p a)
/-- `n` bytes of a partition's cellar share, and a write to it. -/
def World.cellarRead (w : World) (p a n : Nat) : List Byte := (List.range n).map fun i => w.cellarByte p (a + i)
def World.cellarWrite (w : World) (p a : Nat) (bs : List Byte) : World :=
  let good := (w.part p).cellarGood
  { w with cellar := bs.zipIdx.foldl (fun m b => m.setByte (cellarKey good p (a + b.2)) b.1) w.cellar }
/-- The offset of a partition's share that the memory holds at a key (R284); none where the share does not lie there. -/
def cellarOffset (good : List Nat) (p key : Nat) : Option Nat :=
  let line := key % 2 ^ 40 / 64
  let h := bitsAt line 0 8 ^^^ bitsAt line 8 8 ^^^ bitsAt line 16 7
  if good = [] then (if key / 2 ^ 40 = 64 + p then some (key % 2 ^ 40) else none)
  else (good.idxOf? (key / 2 ^ 40)).map fun j =>
    (line * good.length + (j + 256 * good.length - h) % good.length) * 64 + key % 64
/-- Zeroes `n` bytes of a partition's cellar share. -/
def World.cellarZero (w : World) (p a n : Nat) : World :=
  let good := (w.part p).cellarGood
  { w with cellar := w.cellar.filter fun e => !((cellarOffset good p e.1).any fun o => decide (a ≤ o) && decide (o < a + n)) }

/-- The position of this module as a writer's position; 0x3FFF for none. -/
def World.ownPosition (w : World) : Nat := w.fab.position.getD 0x3FFF

/-! ### Tun memory and cluster store (R67, R68, R265) -/

/-- Size of a tun memory and of a cluster store. -/
def tunBytes : Nat := 2 ^ 21
def storeBytes : Nat := 2 ^ 24

/-- `n` bytes of a core's tun memory. -/
def World.tunRead (w : World) (c a n : Nat) : List Byte := w.tun.read (c * tunBytes + a) n
/-- Stores bytes in a core's tun memory. -/
def World.tunWrite (w : World) (c a : Nat) (bs : List Byte) : World :=
  { w with tun := w.tun.write (c * tunBytes + a) bs }
/-- `n` bytes of a cluster store. -/
def World.storeRead (w : World) (k a n : Nat) : List Byte := w.cstore.read (k * storeBytes + a) n
/-- A write to a cluster store, which hits the guards that it touches (R229). -/
def World.storeWrite (w : World) (t : Sid) (wsrc wpos k a : Nat) (bs : List Byte) : World :=
  let hits := w.guardHits (clusterSpace k) a bs.length
  hits.foldl (World.guardHit t wsrc wpos) { w with cstore := w.cstore.write (k * storeBytes + a) bs }

end Sys2Proof.Machine
end

