-- ==== Sys2Proof/Machine/Types.lean ====
section
/-!
DEFINITION. Types of the arithmetic: exact values, rounding modes, floating formats, tiles. None of them is state.
-/

namespace Sys2Proof.Machine

/-- A value of a format: a NaN (signalling or not), an infinity, or ±m × 2^e exactly. -/
inductive Val where
  | nan (signalling : Bool)
  | inf (neg : Bool)
  | fin (neg : Bool) (m : Nat) (e : Int)
deriving DecidableEq, Repr

/-- Rounding (R90, R92, R98): to nearest even, toward zero, toward ±∞, or stochastic with 24 bits. -/
inductive RMode where
  | rne | rtz | rtp | rtn
  | sr (r : Nat)
deriving DecidableEq, Repr

/-- What the top codes of a floating format mean (R76). -/
inductive FKind where
  | ieee | e4m3 | noInf | acc
deriving DecidableEq, Repr

/-- A floating format (R76). -/
structure Flt where
  ebits : Nat
  fbits : Nat
  bias : Nat
  kind : FKind
deriving DecidableEq, Repr

/-- A value rounded to a format's grid: ±m × 2^e, and how it came about. -/
structure Rounded where
  neg : Bool := false
  m : Nat := 0
  e : Int := 0
  inexact : Bool := false
  overflow : Bool := false
  /-- Tiny after rounding with an unbounded exponent (R91). -/
  tiny : Bool := false
  /-- The rounded value is non-zero and below the smallest normal. -/
  sub : Bool := false
deriving DecidableEq, Repr

/-- A converted element (R92 to R95): its code, the value it decodes to at scale 1, its flags (bits of STICKY, R103) and
what it counts as (R102). -/
structure Conv where
  code : Nat := 0
  val : Val := .fin false 0 0
  flags : Nat := 0
  zeroed : Bool := false
  flushed : Bool := false
  ovf : Bool := false
  sat : Bool := false
deriving DecidableEq, Repr

/-- OVF_MODE and SUBNORMAL of an engine context (R143). -/
structure Ctx where
  sat : Bool := false
  flush : Bool := false
deriving DecidableEq, Repr

/-- Counts and flags of a set of written elements (R102). -/
structure Tally where
  elements : Nat := 0
  zero : Nat := 0
  zeroed : Nat := 0
  flushed : Nat := 0
  overflow : Nat := 0
  saturated : Nat := 0
  amax : Nat := 0
  flags : Nat := 0
deriving DecidableEq, Repr

/-- A tile header (R152). -/
structure TileHeader where
  format : Nat := 0
  formByte : Nat := 0
  rowsByte : Nat := 0
  colsByte : Nat := 0
  nnz : Nat := 0
  imageBytes : Nat := 0
  maxRow : Nat := 0
  tail : List Byte := []
deriving DecidableEq, Repr

/-- A decoded tile: its format, its valid shape, the codes of its 4,096 places row-major and its scale bytes. -/
structure Tile where
  format : Nat := 1
  rows : Nat := 1
  cols : Nat := 1
  codes : Array Nat := #[]
  scales : Array Byte := #[]
  nnz : Nat := 0
  nonfinite : Bool := false
deriving DecidableEq, Repr

/-- Why a recipe writes as it does: format in force, rounding, amax source (R99, R107). -/
structure WritePlan where
  format : Nat := 1
  ctx : Ctx := {}
  stochastic : Bool := false
  /-- PREV_AMAX as FP32 bits when the recipe takes it (R84). -/
  prevAmax : Option Nat := none
  /-- Key, STREAM_ID and logical index of stochastic bits: JOB_SEED, TENSOR_ID, STEP (R97). -/
  seed : Nat := 0
  tensor : Nat := 0
  step : Nat := 0
deriving DecidableEq, Repr

end Sys2Proof.Machine
end

