-- ==== Sys2Proof/Machine/Num.lean ====
section
/-!
DEFINITION. Exact arithmetic on values, the floating formats and rounding (R76 to R79, R88, R90 to R95, R98).
-/

namespace Sys2Proof.Machine

/-- Exceptions and conversions as bits of STICKY (R103). -/
def flInvalid : Nat := 1
def flDivZero : Nat := 2
def flOverflow : Nat := 4
def flUnderflow : Nat := 8
def flInexact : Nat := 16
def flSaturated : Nat := 32
def flFlushed : Nat := 64

/-- The floating formats of R76. -/
def fp64 : Flt := ⟨11, 52, 1023, .ieee⟩
def fp32 : Flt := ⟨8, 23, 127, .ieee⟩
def fp16 : Flt := ⟨5, 10, 15, .ieee⟩
def bf16 : Flt := ⟨8, 7, 127, .ieee⟩
def e4m3 : Flt := ⟨4, 3, 7, .e4m3⟩
def e5m2 : Flt := ⟨5, 2, 15, .ieee⟩
def e2m3 : Flt := ⟨2, 3, 1, .noInf⟩
def e3m2 : Flt := ⟨3, 2, 3, .noInf⟩
def e2m1 : Flt := ⟨2, 1, 1, .noInf⟩
def m48 : Flt := ⟨8, 39, 127, .ieee⟩
def acc44 : Flt := ⟨11, 32, 1023, .acc⟩

/-- The exponent of the smallest normal. -/
def Flt.emin (f : Flt) : Int := 1 - (f.bias : Int)
/-- The exponent of the unit in the last place of the smallest numbers. -/
def Flt.qmin (f : Flt) : Int := f.emin - f.fbits
/-- The largest finite magnitude as m × 2^e. -/
def Flt.maxMant (f : Flt) : Nat := match f.kind with
  | .e4m3 => 2 ^ (f.fbits + 1) - 2
  | _ => 2 ^ (f.fbits + 1) - 1
def Flt.maxExp (f : Flt) : Int := (match f.kind with
  | .ieee | .acc => (2 ^ f.ebits : Int) - 2
  | .e4m3 | .noInf => (2 ^ f.ebits : Int) - 1) - f.bias - f.fbits
/-- Whether the format holds infinities. -/
def Flt.hasInf (f : Flt) : Bool := match f.kind with
  | .ieee | .acc => true
  | .e4m3 | .noInf => false
/-- Whether SUBNORMAL applies to the format (R94): FP64, FP32, FP16, BF16. -/
def Flt.flushable (f : Flt) : Bool := decide (f.kind = .ieee) && decide (7 ≤ f.fbits)
/-- Bits of an element. -/
def Flt.width (f : Flt) : Nat := 1 + f.ebits + f.fbits

/-- m × 2^e as a numerator over a denominator. -/
def ratOf (m : Nat) (e : Int) : Nat × Nat := if 0 ≤ e then (m * 2 ^ e.toNat, 1) else (m, 2 ^ (-e).toNat)

/-- Decodes a code of a floating format (R76). -/
def Flt.decode (f : Flt) (code : Nat) : Val :=
  let frac := code % 2 ^ f.fbits
  let ex := code / 2 ^ f.fbits % 2 ^ f.ebits
  let neg := bitAt code (f.fbits + f.ebits)
  let top := 2 ^ f.ebits - 1
  match f.kind with
  | .e4m3 =>
    if ex = top ∧ frac = 2 ^ f.fbits - 1 then .nan false
    else if ex = 0 then .fin neg frac f.qmin else .fin neg (2 ^ f.fbits + frac) ((ex : Int) - f.bias - f.fbits)
  | .noInf =>
    if ex = 0 then .fin neg frac f.qmin else .fin neg (2 ^ f.fbits + frac) ((ex : Int) - f.bias - f.fbits)
  | .ieee | .acc =>
    if ex = top then if frac = 0 then .inf neg else .nan (decide (frac < 2 ^ (f.fbits - 1)))
    else if ex = 0 then (if f.kind = .acc then .fin neg 0 0 else .fin neg frac f.qmin)
    else .fin neg (2 ^ f.fbits + frac) ((ex : Int) - f.bias - f.fbits)

/-- The canonical quiet NaN of a format (R77). -/
def Flt.canonNan (f : Flt) : Nat := match f.kind with
  | .e4m3 => 2 ^ (f.ebits + f.fbits) - 1
  | _ => (2 ^ f.ebits - 1) * 2 ^ f.fbits + 2 ^ (f.fbits - 1)

/-- The code of an infinity. -/
def Flt.infCode (f : Flt) (neg : Bool) : Nat :=
  (2 ^ f.ebits - 1) * 2 ^ f.fbits + if neg then 2 ^ (f.ebits + f.fbits) else 0

/-- The code of a finite value that the format holds exactly. -/
def Flt.encodeFin (f : Flt) (neg : Bool) (m : Nat) (e : Int) : Nat :=
  let s := if neg then 2 ^ (f.ebits + f.fbits) else 0
  if m = 0 then s
  else
    let k : Int := (Nat.log2 m : Int) + e
    if k < f.emin then s + (ratOf m (e - f.qmin)).1 / (ratOf m (e - f.qmin)).2
    else
      let r := ratOf m (e - (k - f.fbits))
      s + (k + f.bias).toNat * 2 ^ f.fbits + (r.1 / r.2 - 2 ^ f.fbits)

/-- The code of a value that the format holds exactly. -/
def Flt.encode (f : Flt) : Val → Nat
  | .nan _ => f.canonNan
  | .inf n => f.infCode n
  | .fin n m e => f.encodeFin n m e

/-- Whether an inexact magnitude a + num/den (0 < num/den < 1, in units of the grid) moves up to a + 1. -/
def RMode.up (mode : RMode) (neg : Bool) (a num den : Nat) : Bool :=
  match mode with
  | .rne => decide (den < 2 * num) || (decide (2 * num = den) && decide (a % 2 = 1))
  | .rtz => false
  | .rtp => !neg
  | .rtn => neg
  | .sr r => decide (2 ^ 24 ≤ num * 2 ^ 24 / den + r)

/-- A magnitude num/den rounded to a multiple of 2^q: the multiple, and whether it is inexact (R92, R98). -/
def roundAt (mode : RMode) (neg : Bool) (num den : Nat) (q : Int) : Nat × Bool :=
  let n := if q ≤ 0 then num * 2 ^ (-q).toNat else num
  let d := if q ≤ 0 then den else den * 2 ^ q.toNat
  let a := n / d
  let r := n % d
  if r = 0 then (a, false) else (if mode.up neg a r d then a + 1 else a, true)

/-- ⌊log2 (num / den)⌋ of a positive fraction. -/
def ilog2 (num den : Nat) : Int :=
  let k : Int := (Nat.log2 num : Int) - (Nat.log2 den : Int)
  let r := ratOf den k
  if num * r.2 < r.1 then k - 1 else k

/-- Whether m × 2^e ≤ n × 2^g. -/
def magLe (m : Nat) (e : Int) (n : Nat) (g : Int) : Bool :=
  if e ≤ g then decide (m ≤ n * 2 ^ (g - e).toNat) else decide (m * 2 ^ (e - g).toNat ≤ n)

/-- Rounds ±num/den to a format whose exponent range has no upper end. -/
def Flt.round (f : Flt) (mode : RMode) (neg : Bool) (num den : Nat) : Rounded :=
  if num = 0 then { neg := neg }
  else
    let k := ilog2 num den
    let q := max (k - f.fbits) f.qmin
    let r := roundAt mode neg num den q
    let free := (roundAt mode neg num den (k - f.fbits)).1
    { neg := neg, m := r.1, e := q, inexact := r.2
      overflow := !(magLe r.1 q f.maxMant f.maxExp)
      tiny := !(magLe 1 f.emin free (k - f.fbits))
      sub := decide (r.1 ≠ 0) && !(magLe 1 f.emin r.1 q) }

/-- The largest finite value of a format as a conversion result. -/
def Flt.maxConv (f : Flt) (neg : Bool) (flags : Nat) (sat : Bool) : Conv :=
  { code := f.encodeFin neg f.maxMant f.maxExp, val := .fin neg f.maxMant f.maxExp, flags := flags, ovf := true, sat := sat }

/-- Overflow of a result of the given sign (R93). `attr` marks a VXE result under a rounding attribute. -/
def Flt.overflowed (f : Flt) (ctx : Ctx) (mode : RMode) (attr neg : Bool) : Conv :=
  let directed := attr && (match mode with
    | .rtz => true
    | .rtp => neg
    | .rtn => !neg
    | .rne | .sr _ => false)
  if !f.hasInf || ctx.sat then f.maxConv neg (flOverflow + flInexact + flSaturated) true
  else if directed then f.maxConv neg (flOverflow + flInexact) false
  else { code := f.infCode neg, val := .inf neg, flags := flOverflow + flInexact, ovf := true }

/-- Converts ±num/den to a format (R92 to R95). A flushed result sets FLUSHED and INEXACT, and not UNDERFLOW: R94 and R95 name
FLUSHED alone (DESIGN CHOICE, assumption 153). -/
def Flt.convRat (f : Flt) (ctx : Ctx) (mode : RMode) (attr neg : Bool) (num den : Nat) : Conv :=
  let r := f.round mode neg num den
  if r.overflow then f.overflowed ctx mode attr neg
  else if r.sub ∧ ctx.flush ∧ f.flushable then
    { code := f.encodeFin neg 0 0, val := .fin neg 0 0, flags := flFlushed + flInexact, zeroed := true, flushed := true }
  else
    { code := f.encodeFin neg r.m r.e, val := .fin neg r.m (if r.m = 0 then 0 else r.e)
      flags := (if r.inexact then flInexact else 0) + (if r.inexact ∧ r.tiny then flUnderflow else 0)
      zeroed := decide (r.m = 0) && decide (num ≠ 0) }

/-- Converts a value to a format with NaN and infinity of its own, or an infinity to one without (R93). An infinity that saturates
sets OVERFLOW and SATURATED and leaves INEXACT clear (DESIGN CHOICE, assumption 153). -/
def Flt.conv (f : Flt) (ctx : Ctx) (mode : RMode) (attr : Bool) : Val → Conv
  | .nan s => { code := f.canonNan, val := .nan false, flags := if s then flInvalid else 0 }
  | .inf n => if f.hasInf then { code := f.infCode n, val := .inf n } else f.maxConv n (flOverflow + flSaturated) true
  | .fin n m e => let r := ratOf m e; f.convRat ctx mode attr n r.1 r.2

/-! ### Exact sums and products -/

/-- The exact sum of two finite values as a signed integer over 2^e. -/
def finAdd (n1 : Bool) (m1 : Nat) (e1 : Int) (n2 : Bool) (m2 : Nat) (e2 : Int) : Int × Int :=
  let e := min e1 e2
  let a : Int := (m1 * 2 ^ (e1 - e).toNat : Nat)
  let b : Int := (m2 * 2 ^ (e2 - e).toNat : Nat)
  ((if n1 then -a else a) + (if n2 then -b else b), e)

/-- A signed integer times 2^e as a value; an exact zero takes the given sign. -/
def valOfInt (x : Int) (e : Int) (zneg : Bool) : Val :=
  if x = 0 then .fin zneg 0 0 else .fin (decide (x < 0)) x.natAbs e

/-- The sign of an exactly zero sum (IEEE 754-2019, 6.3). -/
def zeroSumNeg (mode : RMode) (n1 n2 : Bool) : Bool := if n1 = n2 then n1 else decide (mode = .rtn)

/-- The exact sum of two values, and its flags. -/
def exactAdd (mode : RMode) : Val → Val → Val × Nat
  | .nan s, .nan t => (.nan false, if s || t then flInvalid else 0)
  | .nan s, _ => (.nan false, if s then flInvalid else 0)
  | _, .nan t => (.nan false, if t then flInvalid else 0)
  | .inf a, .inf b => if a = b then (.inf a, 0) else (.nan false, flInvalid)
  | .inf a, .fin _ _ _ => (.inf a, 0)
  | .fin _ _ _, .inf b => (.inf b, 0)
  | .fin n1 m1 e1, .fin n2 m2 e2 =>
    let r := finAdd n1 m1 e1 n2 m2 e2
    (valOfInt r.1 r.2 (if m1 = 0 ∧ m2 = 0 then zeroSumNeg mode n1 n2 else decide (mode = .rtn)), 0)

/-- The exact product of two values, and its flags. -/
def exactMul : Val → Val → Val × Nat
  | .nan s, .nan t => (.nan false, if s || t then flInvalid else 0)
  | .nan s, _ => (.nan false, if s then flInvalid else 0)
  | _, .nan t => (.nan false, if t then flInvalid else 0)
  | .inf a, .inf b => (.inf (xor a b), 0)
  | .inf a, .fin n m _ => if m = 0 then (.nan false, flInvalid) else (.inf (xor a n), 0)
  | .fin n m _, .inf b => if m = 0 then (.nan false, flInvalid) else (.inf (xor b n), 0)
  | .fin n1 m1 e1, .fin n2 m2 e2 => (.fin (xor n1 n2) (m1 * m2) (if m1 * m2 = 0 then 0 else e1 + e2), 0)

/-- The negative of a value; a NaN stays. -/
def Val.neg : Val → Val
  | .nan s => .nan s
  | .inf n => .inf !n
  | .fin n m e => .fin (!n) m e

/-- The magnitude of a value. -/
def Val.abs : Val → Val
  | .nan s => .nan s
  | .inf _ => .inf false
  | .fin _ m e => .fin false m e

/-- Whether a value is ±0. -/
def Val.isZero : Val → Bool
  | .fin _ m _ => decide (m = 0)
  | _ => false

/-- Whether a value is finite. -/
def Val.isFinite : Val → Bool
  | .fin _ _ _ => true
  | _ => false

/-- Whether a value is a NaN. -/
def Val.isNan : Val → Bool
  | .nan _ => true
  | _ => false

/-- Order of two numbers: negative, zero or positive difference; none with a NaN. -/
def Val.cmp : Val → Val → Option Int
  | .nan _, _ => none
  | _, .nan _ => none
  | .inf a, .inf b => some (if a = b then 0 else if a then -1 else 1)
  | .inf a, .fin _ _ _ => some (if a then -1 else 1)
  | .fin _ _ _, .inf b => some (if b then 1 else -1)
  | .fin n1 m1 e1, .fin n2 m2 e2 => some (finAdd n1 m1 e1 (!n2) m2 e2).1

/-- Whether the first number is below the second. -/
def Val.lt (a b : Val) : Bool := (Val.cmp a b).elim false fun d => decide (d < 0)
/-- Whether two numbers are equal. -/
def Val.eq (a b : Val) : Bool := (Val.cmp a b).elim false fun d => decide (d = 0)

/-! ### ACC44 (R88, R121) -/

/-- An ACC44 addition: one rounding to a 32-bit fraction, to nearest even. -/
def accAdd (a b : Val) : Val :=
  match (exactAdd .rne a b).1 with
  | .fin n m e => (acc44.convRat {} .rne false n (ratOf m e).1 (ratOf m e).2).val
  | v => v

/-- `accAdd` with the flags raised so far: INVALID of a signalling NaN or of ∞ − ∞ (R90). Rounding into ACC44 raises no flag of
its own (assumption 152). -/
def accAddF (a b : Val × Nat) : Val × Nat := (accAdd a.1 b.1, a.2 ||| b.2 ||| (exactAdd .rne a.1 b.1).2)

/-- A product as a leaf of the tree of the MXE: absent when both operands are finite and the product is zero (R165);
otherwise rounded into ACC44. -/
def productLeaf (a b : Val) : Option Val :=
  match (exactMul a b).1 with
  | .fin n m e => if m = 0 then none else some (acc44.convRat {} .rne false n (ratOf m e).1 (ratOf m e).2).val
  | v => some v

/-- `productLeaf` with the flag it raises: INVALID of a signalling NaN or of 0 × ∞ (R90). -/
def productLeafF (a b : Val) : Option (Val × Nat) := (productLeaf a b).map fun v => (v, (exactMul a b).2)

/-- Joins two nodes of a tree, either of which can be absent (R121). -/
def joinNodes {α : Type} (add : α → α → α) : Option α → Option α → Option α
  | some a, some b => some (add a b)
  | some a, none => some a
  | none, b => b

/-- One level of a tree: neighbours joined. -/
def treeLevel {α : Type} (add : α → α → α) : List (Option α) → List (Option α)
  | a :: b :: r => joinNodes add a b :: treeLevel add r
  | [a] => [a]
  | [] => []

/-- The Tree-64 of up to 64 leaves: six levels; short inputs leave the high places absent (R121). -/
def tree64 {α : Type} (add : α → α → α) (xs : List (Option α)) : Option α :=
  let x := (xs.take 64) ++ List.replicate (64 - xs.length) none
  ((treeLevel add (treeLevel add (treeLevel add (treeLevel add (treeLevel add (treeLevel add x))))))).getD 0 none

/-- Runs of 64 leaves, each a Tree-64, chained left to right (R122, R136); `n` bounds the number of runs. -/
def chainRuns {α : Type} (add : α → α → α) : Nat → Option α → List (Option α) → Option α
  | 0, acc, _ => acc
  | n + 1, acc, xs =>
    if xs.isEmpty then acc else chainRuns add n (joinNodes add acc (tree64 add (xs.take 64))) (xs.drop 64)

/-! ### IEEE operations of the VXE, the Kiln and the NMR (R90) -/

/-- Rounds an exact result to a format under an attribute: the value and its flags. -/
def Flt.result (f : Flt) (ctx : Ctx) (mode : RMode) (x : Val × Nat) : Val × Nat :=
  let c := f.conv ctx mode true x.1
  (c.val, c.flags ||| x.2)

/-- Addition. -/
def Flt.add (f : Flt) (ctx : Ctx) (mode : RMode) (a b : Val) : Val × Nat := f.result ctx mode (exactAdd mode a b)
/-- Subtraction. -/
def Flt.sub (f : Flt) (ctx : Ctx) (mode : RMode) (a b : Val) : Val × Nat := f.result ctx mode (exactAdd mode a b.neg)
/-- Multiplication. -/
def Flt.mul (f : Flt) (ctx : Ctx) (mode : RMode) (a b : Val) : Val × Nat := f.result ctx mode (exactMul a b)
/-- Fused multiply-add a × b + c with one rounding. Whether ∞ × 0 plus a quiet NaN signals INVALID is left open by
IEEE 754-2019 (assumption 21). -/
def Flt.fma (f : Flt) (ctx : Ctx) (mode : RMode) (a b c : Val) : Val × Nat :=
  let p := exactMul a b
  let s := exactAdd mode p.1 c
  let pf := if p.2 = flInvalid ∧ c = .nan false ∧ a.isNan = false ∧ b.isNan = false then
      (if Config.fmaInvalidOnQuietNan then flInvalid else 0) else p.2
  f.result ctx mode (s.1, s.2 ||| pf)

/-- Rounds ±num/den under an attribute. -/
def Flt.ratResult (f : Flt) (ctx : Ctx) (mode : RMode) (neg : Bool) (num den : Nat) : Val × Nat :=
  let c := f.convRat ctx mode true neg num den
  (c.val, c.flags)

/-- Division: the exact quotient rounded once (R133). -/
def Flt.div (f : Flt) (ctx : Ctx) (mode : RMode) : Val → Val → Val × Nat
  | .nan s, .nan t => (.nan false, if s || t then flInvalid else 0)
  | .nan s, _ => (.nan false, if s then flInvalid else 0)
  | _, .nan t => (.nan false, if t then flInvalid else 0)
  | .inf _, .inf _ => (.nan false, flInvalid)
  | .inf a, .fin n _ _ => (.inf (xor a n), 0)
  | .fin n _ _, .inf b => (.fin (xor n b) 0 0, 0)
  | .fin n1 m1 e1, .fin n2 m2 e2 =>
    if m2 = 0 then if m1 = 0 then (.nan false, flInvalid) else (.inf (xor n1 n2), flDivZero)
    else if m1 = 0 then (.fin (xor n1 n2) 0 0, 0)
    else
      let a := ratOf m1 e1
      let b := ratOf m2 e2
      f.ratResult ctx mode (xor n1 n2) (a.1 * b.2) (a.2 * b.1)

/-- IEEE 754-2019 minimum and maximum: a NaN wins, −0 is below +0. -/
def valMin (a b : Val) : Val × Nat :=
  match a, b with
  | .nan s, .nan t => (.nan false, if s || t then flInvalid else 0)
  | .nan s, _ => (.nan false, if s then flInvalid else 0)
  | _, .nan t => (.nan false, if t then flInvalid else 0)
  | _, _ =>
    if a.isZero ∧ b.isZero then (match a, b with
      | .fin n _ _, .fin k _ _ => (.fin (n || k) 0 0, 0)
      | _, _ => (a, 0))
    else if b.lt a then (b, 0) else (a, 0)
def valMax (a b : Val) : Val × Nat :=
  match a, b with
  | .nan s, .nan t => (.nan false, if s || t then flInvalid else 0)
  | .nan s, _ => (.nan false, if s then flInvalid else 0)
  | _, .nan t => (.nan false, if t then flInvalid else 0)
  | _, _ =>
    if a.isZero ∧ b.isZero then (match a, b with
      | .fin n _ _, .fin k _ _ => (.fin (n && k) 0 0, 0)
      | _, _ => (a, 0))
    else if a.lt b then (b, 0) else (a, 0)

/-! ### Integer conversions -/

/-- Rounds ±num/den to an integer code of magnitude at most `maxMag` (R79, R84, R93): INT8, INT4, T2. -/
def intConv (bits maxMag : Nat) (mode : RMode) (neg : Bool) (num den : Nat) : Conv :=
  let r := roundAt mode neg num den 0
  let above := decide (maxMag < r.1)
  let m := if above then maxMag else r.1
  { code := if neg ∧ m ≠ 0 then 2 ^ bits - m else m
    val := .fin (neg && decide (m ≠ 0)) m 0
    flags := (if r.2 ∨ above then flInexact else 0) + (if above then flOverflow + flSaturated else 0)
    zeroed := decide (m = 0) && decide (num ≠ 0), ovf := above, sat := above }

/-- The value of a two's-complement integer code (R78). -/
def intDecode (bits code : Nat) : Val :=
  let c := code % 2 ^ bits
  if 2 ^ (bits - 1) ≤ c then .fin true (2 ^ bits - c) 0 else .fin false c 0

/-- A value as FP32 bits rounded by a mode, capped at the largest finite: AMAX of R102. -/
def amaxBits : Val → Nat
  | .fin _ m e =>
    let c := fp32.convRat { sat := true } .rtp false false (ratOf m e).1 (ratOf m e).2
    c.code
  | _ => 0

end Sys2Proof.Machine
end

