-- ==== Sys2Proof/Machine/Philox.lean ====
section
/-!
DEFINITION. Philox4x32-10, the source of every random bit of the module (R96, R97).
-/

namespace Sys2Proof.Machine

/-- One round: the four counter words under the two key words. -/
def philoxRound (k0 k1 : Nat) (c : Nat × Nat × Nat × Nat) : Nat × Nat × Nat × Nat :=
  let p0 := 0xD2511F53 * c.1
  let p1 := 0xCD9E8D57 * c.2.2.1
  ((p1 / 2 ^ 32 ^^^ c.2.1) ^^^ k0, p1 % 2 ^ 32, (p0 / 2 ^ 32 ^^^ c.2.2.2) ^^^ k1, p0 % 2 ^ 32)

/-- `n` rounds, the key raised between them. -/
def philoxRounds : Nat → Nat → Nat → Nat × Nat × Nat × Nat → Nat × Nat × Nat × Nat
  | 0, _, _, c => c
  | n + 1, k0, k1, c =>
    philoxRounds n ((k0 + 0x9E3779B9) % 2 ^ 32) ((k1 + 0xBB67AE85) % 2 ^ 32) (philoxRound k0 k1 c)

/-- Word `j` (0 to 3) of the output for a job seed, stream class, POSITION and STREAM_ID (R96). -/
def philoxWord (seed cls position stream j : Nat) : Nat :=
  let r := philoxRounds 10 (seed % 2 ^ 32 ^^^ cls % 2 ^ 32) (seed / 2 ^ 32 % 2 ^ 32)
    (position % 2 ^ 32, position / 2 ^ 32 % 2 ^ 32, stream % 2 ^ 32, stream / 2 ^ 32 % 2 ^ 32)
  match j % 4 with
  | 0 => r.1
  | 1 => r.2.1
  | 2 => r.2.2.1
  | _ => r.2.2.2

/-- The word of logical index `i` in a stream that is keyed by a tensor and a step or cycle (R97). -/
def tensorWord (seed cls tensor step i : Nat) : Nat :=
  philoxWord seed cls (i / 4) (tensor * 2 ^ 32 + step % 2 ^ 32) (i % 4)

/-- The 24 bits of stochastic rounding of element `i` (R97, class 3). -/
def roundingBits (seed tensor step i : Nat) : Nat := tensorWord seed 3 tensor step i / 2 ^ 8

end Sys2Proof.Machine
end

