-- ==== Sys2Proof/Machine/Tile.lean ====
section
/-!
DEFINITION. Tiles: the formats of R74, block scales (R81 to R85), the tile header and the four forms (R152 to R161), the
checks of R163 and the quantisation of written elements (R80, R84, R92 to R95, R102).
-/

namespace Sys2Proof.Machine

/-! ### Formats (R74) -/

/-- Element bits of a format code; 0 for a code that no tile holds. -/
def fmtBits (f : Nat) : Nat := [64, 32, 16, 16, 8, 8, 6, 6, 4, 4, 8, 4, 2, 8, 4].getD f 0
/-- Scale bytes of a tile (R85). -/
def fmtScales (f : Nat) : Nat := [0, 0, 0, 0, 128, 128, 128, 128, 128, 272, 128, 272, 272, 256, 256].getD f 0
/-- Bytes of the dense image (R85). -/
def fmtDense (f : Nat) : Nat := 512 * fmtBits f + fmtScales f
/-- Codes that the MXE reads and codes that the VXE reads and writes (R75). -/
def mxeReads (f : Nat) : Bool := decide (2 ≤ f) && decide (f ≤ 0x0C)
def vxeReads (f : Nat) : Bool := decide (f ≤ 0x0E)
/-- MX and block INT8, the MJ formats, the row formats. -/
def fmtMx (f : Nat) : Bool := (decide (4 ≤ f) && decide (f ≤ 8)) || decide (f = 0x0A)
def fmtMj (f : Nat) : Bool := decide (f = 9) || decide (f = 0x0B) || decide (f = 0x0C)
def fmtRow (f : Nat) : Bool := decide (f = 0x0D) || decide (f = 0x0E)
/-- The floating format of a code; FP4 for both block forms. Integer and row formats have none. -/
def fmtFlt : Nat → Option Flt
  | 0 => some fp64
  | 1 => some fp32
  | 2 => some fp16
  | 3 => some bf16
  | 4 => some e4m3
  | 5 => some e5m2
  | 6 => some e2m3
  | 7 => some e3m2
  | 8 | 9 => some e2m1
  | _ => none
/-- Largest magnitude of an integer format as written: 127, 7, 1 (R79, R84). -/
def fmtIntMax (f : Nat) : Nat := if f = 0x0A then 127 else if f = 0x0B then 7 else 1
/-- M of R84 as m × 2^e. -/
def fmtMax (f : Nat) : Nat × Int :=
  match fmtFlt f with
  | some x => (x.maxMant, x.maxExp)
  | none => (fmtIntMax f, 0)
/-- NNZ per 4,096 valid elements at which the sparse path ends (R166). -/
def fmtThreshold (f : Nat) : Option Nat :=
  if f = 0x0C then some 1024
  else if f = 8 ∨ f = 9 ∨ f = 0x0B then some 2048
  else if f = 4 ∨ f = 5 ∨ f = 6 ∨ f = 7 ∨ f = 0x0A then some 2560
  else if f = 2 ∨ f = 3 then some 3072
  else none

/-- An element code's own value, without scales. -/
def fmtCode (f code : Nat) : Val :=
  match fmtFlt f with
  | some x => x.decode code
  | none => if fmtRow f then .fin false code 0 else intDecode (fmtBits f) code

/-! ### Reading elements -/

/-- A value times 2^k. -/
def Val.scale (v : Val) (k : Int) : Val :=
  match v with
  | .fin n m e => .fin n m (if m = 0 then 0 else e + k)
  | x => x

/-- A byte of a tile's scales. -/
def Tile.scaleByte (t : Tile) (i : Nat) : Nat := (t.scales.getD i 0).toNat
/-- The code at a place. -/
def Tile.code (t : Tile) (r c : Nat) : Nat := t.codes.getD (64 * r + c) 0
/-- An FP16 value of the scales. -/
def Tile.rowField (t : Tile) (i : Nat) : Val := fp16.decode (t.scaleByte i + 256 * t.scaleByte (i + 1))
/-- The value of a row code under its row's scale and offset: FP32, one rounding (R80). -/
def rowValue (scale offset : Val) (code : Nat) : Val :=
  (fp32.conv {} .rne false (exactAdd .rne (exactMul (.fin false code 0) scale).1 offset).1).val

/-- The value of an element (R76 to R85). -/
def Tile.val (t : Tile) (r c : Nat) : Val :=
  let v := fmtCode t.format (t.code r c)
  if fmtMx t.format then
    let s := t.scaleByte (2 * r + c / 32)
    if s = 255 then .nan false else v.scale ((s : Int) - 127)
  else if fmtMj t.format then
    let x := t.scaleByte (256 + r / 4)
    if x = 255 then .nan false
    else (exactMul v (e4m3.decode (t.scaleByte (4 * r + c / 16)))).1.scale ((x : Int) - 127)
  else if fmtRow t.format then rowValue (t.rowField (4 * r)) (t.rowField (4 * r + 2)) (t.code r c)
  else v

/-- The valid places of a shape, row-major. -/
def places (rows cols : Nat) : List (Nat × Nat) :=
  (List.range rows).flatMap fun r => (List.range cols).map fun c => (r, c)

/-- Non-zero valid elements by code (R153). -/
def Tile.countNnz (t : Tile) : Nat := ((places t.rows t.cols).filter fun p => decide (t.code p.1 p.2 ≠ 0)).length
/-- Largest NNZ of a valid row. -/
def Tile.countMaxRow (t : Tile) : Nat :=
  ((List.range t.rows).map fun r => ((List.range t.cols).filter fun c => decide (t.code r c ≠ 0)).length).foldl max 0
/-- The scale bytes that are E8M0. -/
def fmtE8m0 (f : Nat) : List Nat :=
  if fmtMx f then List.range 128 else if fmtMj f then (List.range 16).map (256 + ·) else []
/-- NONFINITE of R154. An MJ element is finite unless its E8M0 exponent is 0xFF: a sub-scale that is no number fails CODE (R83). -/
def Tile.isNonfinite (t : Tile) : Bool :=
  (fmtE8m0 t.format).any (fun i => decide (t.scaleByte i = 255))
    || (!(fmtMj t.format) && (places t.rows t.cols).any fun p => !(t.val p.1 p.2).isFinite)

/-! ### Forms (R155 to R161) -/

/-- `n` element codes of `b` bits from a region of bytes (R85). -/
def unpackCodes (b n : Nat) (img : Array Byte) (base : Nat) : List Nat :=
  (List.range n).map fun i =>
    let lo := base + i * b / 8
    bitsAt (leNat ((List.range ((b + 14) / 8)).map fun k => img.getD (lo + k) 0)) (i * b % 8) b

/-- Packs codes of `b` bits, eight at a time, at most `n` groups. -/
def packGroups (b : Nat) : Nat → List Nat → List Byte
  | 0, _ => []
  | n + 1, xs =>
    if xs.isEmpty then []
    else leBytes b (((xs.take 8).zipIdx.map fun x => x.1 % 2 ^ b * 2 ^ (b * x.2)).sum) ++ packGroups b n (xs.drop 8)

/-- Element codes as a bit stream, least significant bits first, in ⌈n × b / 8⌉ bytes (R85). -/
def packCodes (b : Nat) (xs : List Nat) : List Byte :=
  (packGroups b (xs.length / 8 + 1) xs).take (ceilDiv (xs.length * b) 8)

/-- IMAGE_BYTES of a form (R155). -/
def formBytes (f form nnz : Nat) : Nat :=
  match form with
  | 0 => fmtDense f
  | 1 => 512 + roundUp (ceilDiv (nnz * fmtBits f) 8) 16 + fmtScales f
  | 2 => 512 + roundUp (256 * fmtBits f) 16 + fmtScales f
  | _ => 144 + roundUp nnz 16 + roundUp (ceilDiv (nnz * fmtBits f) 8) 16 + fmtScales f

/-- Whether bit `i` of a byte region is 1. -/
def bitOf (img : Array Byte) (i : Nat) : Bool := bitAt (img.getD (i / 8) 0).toNat (i % 8)

/-- Places and codes that a form stores (R155 to R159); a place beyond column 63 does not arise. -/
def storedCodes (f form nnz : Nat) (img : Array Byte) : List (Nat × Nat × Nat) :=
  match form with
  | 0 => (places 64 64).zipWith (fun p x => (p.1, p.2, x)) (unpackCodes (fmtBits f) 4096 img 0)
  | 1 =>
    let ps := (places 64 64).filter fun p => bitOf img (64 * p.1 + p.2)
    ps.zipWith (fun p x => (p.1, p.2, x)) (unpackCodes (fmtBits f) (min ps.length nnz) img 512)
  | 2 =>
    (unpackCodes (fmtBits f) 2048 img 512).zipIdx.map fun x =>
      let q := x.2 / 2
      let e := bitsAt (img.getD (q / 2) 0).toNat (4 * (q % 2)) 4
      (q / 16, 4 * (q % 16) + bitsAt e (2 * (x.2 % 2)) 2, x.1)
  | _ =>
    let ptr := fun r => (img.getD (2 * r) 0).toNat + 256 * (img.getD (2 * r + 1) 0).toNat
    let xs := (unpackCodes (fmtBits f) nnz img (144 + roundUp nnz 16)).toArray
    (List.range 64).flatMap fun r =>
      (List.range (min (ptr (r + 1)) nnz - ptr r)).map fun k =>
        let e := ptr r + k
        (r, (img.getD (144 + e) 0).toNat % 64, xs.getD e 0)

/-- 4,096 places with the stored codes in theirs. -/
def codeArray (xs : List (Nat × Nat × Nat)) : Array Nat :=
  xs.foldl (fun a x => a.set! (64 * x.1 + x.2.1) x.2.2) (Array.replicate 4096 0)

/-- The header of R152 from 16 bytes. -/
def parseHeader (h : List Byte) : TileHeader :=
  { format := leAt h 0 1, formByte := leAt h 1 1, rowsByte := leAt h 2 1, colsByte := leAt h 3 1
    nnz := leAt h 4 2, imageBytes := leAt h 6 2, maxRow := leAt h 8 1, tail := slice h 9 7 }

/-- Form, valid rows and valid columns of a header. -/
def TileHeader.form (h : TileHeader) : Nat := h.formByte % 4
def TileHeader.rows (h : TileHeader) : Nat := h.rowsByte % 64 + 1
def TileHeader.cols (h : TileHeader) : Nat := h.colsByte % 64 + 1
/-- A reserved bit is set (R152). -/
def TileHeader.reserved (h : TileHeader) : Bool :=
  decide (16 ≤ h.formByte) || decide (64 ≤ h.rowsByte) || decide (64 ≤ h.colsByte) || !(allZero h.tail)

/-- The tile that a header and an image hold (R159). -/
def tileOf (h : TileHeader) (img : List Byte) : Tile :=
  let a := img.toArray
  let n := formBytes h.format h.form h.nnz
  { format := h.format, rows := h.rows, cols := h.cols
    codes := codeArray (storedCodes h.format h.form h.nnz a)
    scales := (slice img (n - fmtScales h.format) (fmtScales h.format)).toArray
    nnz := h.nnz, nonfinite := bitAt h.formByte 2 }

/-- ROW_PTR[i] of a CSR image. -/
def csrPtr (img : Array Byte) (i : Nat) : Nat := (img.getD (2 * i) 0).toNat + 256 * (img.getD (2 * i + 1) 0).toNat

/-- Check 0x06, BOUNDS. -/
def boundsBad (h : TileHeader) (img : Array Byte) : Bool :=
  match h.form with
  | 0 => false
  | 1 => (places 64 64).any fun p => bitOf img (64 * p.1 + p.2) && (decide (h.rows ≤ p.1) || decide (h.cols ≤ p.2))
  | 2 => (storedCodes h.format 2 h.nnz img).any fun x =>
      decide (x.2.2 ≠ 0) && (decide (h.rows ≤ x.1) || decide (h.cols ≤ x.2.1))
  | _ => (storedCodes h.format 3 h.nnz img).any (fun x => decide (h.rows ≤ x.1) || decide (h.cols ≤ x.2.1))
      || (List.range h.nnz).any fun e => decide (64 ≤ (img.getD (144 + e) 0).toNat)

/-- Check 0x07, ORDER. -/
def orderBad (h : TileHeader) (img : Array Byte) : Bool :=
  decide (h.form = 3) && (decide (csrPtr img 0 ≠ 0) || decide (csrPtr img 64 ≠ h.nnz)
    || (List.range 64).any fun r => decide (csrPtr img (r + 1) < csrPtr img r)
      || (List.range (csrPtr img (r + 1) - csrPtr img r - 1)).any fun k =>
          decide ((img.getD (144 + csrPtr img r + k + 1) 0).toNat ≤ (img.getD (144 + csrPtr img r + k) 0).toNat))

/-- Check 0x08, PATTERN. -/
def patternBad (h : TileHeader) (img : Array Byte) : Bool :=
  decide (h.form = 2) && (List.range 1024).any fun q =>
    let e := bitsAt (img.getD (q / 2) 0).toNat (4 * (q % 2)) 4
    decide (e / 4 ≤ e % 4)

/-- Check 0x09, CODE; elements outside the valid rows and columns are not read (R112). -/
def codeBad (t : Tile) : Bool :=
  (decide (t.format = 0x0C) && (places t.rows t.cols).any fun p => decide (t.code p.1 p.2 = 2))
    || (fmtMj t.format && (List.range 256).any fun i => decide (127 ≤ t.scaleByte i))

/-- NNZ and MAX_ROW_NNZ as decoding recounts them (R163): the valid codes that the image stores and that are not 0, so that two codes
at one place count twice and PATTERN or ORDER tells them. -/
def recount (h : TileHeader) (t : Tile) (img : Array Byte) : Nat × Nat :=
  if h.form < 2 then (t.countNnz, t.countMaxRow)
  else
    let rs := ((storedCodes h.format h.form h.nnz img).filter fun x =>
      decide (x.2.2 ≠ 0) && decide (x.1 < h.rows) && decide (x.2.1 < h.cols)).map (·.1)
    (rs.length, ((List.range h.rows).map fun r => (rs.filter fun x => decide (x = r)).length).foldl max 0)

/-- The first check of R163 that a tile fails, 1 to 9, or the decoded tile. `accepts` says which formats the engine
reads, `format` is the handle's, `shape` whether the header's shape fits the handle and the operation. -/
def checkTile (accepts : Nat → Bool) (format : Nat) (shape : Nat → Nat → Bool) (h : TileHeader) (img : List Byte) :
    Except Nat Tile :=
  if h.format ≠ format ∨ accepts h.format = false then .error 1
  else if h.reserved ∨ h.rows * h.cols < h.nnz ∨ 64 < h.maxRow then .error 2
  else if shape h.rows h.cols = false then .error 3
  else if h.imageBytes ≠ formBytes h.format h.form h.nnz then .error 4
  else
    let a := img.toArray
    let t := tileOf h img
    if recount h t a ≠ (h.nnz, h.maxRow) ∨ t.isNonfinite ≠ h.formByte.testBit 2
        ∨ (h.form = 1 ∧ ((List.range 4096).filter fun i => bitOf a i).length ≠ h.nnz) then .error 5
    else if boundsBad h a then .error 6
    else if orderBad h a then .error 7
    else if patternBad h a then .error 8
    else if codeBad t then .error 9
    else .ok t

/-! ### Writing a tile image (R160, R161) -/

/-- The codes of one row, zero outside the valid columns. -/
def Tile.rowCodes (t : Tile) (r : Nat) : List Nat :=
  (List.range 64).map fun c => if r < t.rows ∧ c < t.cols then t.code r c else 0

/-- The non-zero places of a tile, row-major. -/
def Tile.present (t : Tile) : List (Nat × Nat) := (places t.rows t.cols).filter fun p => decide (t.code p.1 p.2 ≠ 0)

/-- Positions of a group's two stored codes (R157): its non-zero positions, filled up with the lowest others, rising. -/
def groupPair (nz : List Nat) : Nat × Nat :=
  let rest := (List.range 4).filter fun i => !(nz.contains i)
  match nz with
  | a :: b :: _ => (a, b)
  | [a] => (min a (rest.getD 0 0), max a (rest.getD 0 0))
  | [] => (0, 1)

/-- Non-zero positions of group `g` of row `r`. -/
def Tile.groupNz (t : Tile) (r g : Nat) : List Nat :=
  (List.range 4).filter fun i => decide (r < t.rows) && decide (4 * g + i < t.cols) && decide (t.code r (4 * g + i) ≠ 0)

/-- Whether every group holds at most two non-zero codes (R160). -/
def Tile.fits24 (t : Tile) : Bool := (places 64 16).all fun p => decide ((t.groupNz p.1 p.2).length ≤ 2)

/-- The image of a form, without its header (R155 to R158). -/
def Tile.image (t : Tile) (form : Nat) : List Byte :=
  let b := fmtBits t.format
  let sc := t.scales.toList
  match form with
  | 0 => packCodes b ((List.range 64).flatMap t.rowCodes) ++ sc
  | 1 =>
    let map := (List.range 64).flatMap fun r => packCodes 1 ((t.rowCodes r).map fun x => if x = 0 then 0 else 1)
    let cs := packCodes b (t.present.map fun p => t.code p.1 p.2)
    map ++ slice cs 0 (roundUp cs.length 16) ++ sc
  | 2 =>
    let ps := (places 64 16).map fun p => (p, groupPair (t.groupNz p.1 p.2))
    let at' := fun (p : Nat × Nat) (i : Nat) => if p.1 < t.rows ∧ 4 * p.2 + i < t.cols then t.code p.1 (4 * p.2 + i) else 0
    packCodes 4 (ps.map fun x => x.2.1 + 4 * x.2.2)
      ++ packCodes b (ps.flatMap fun x => [at' x.1 x.2.1, at' x.1 x.2.2]) ++ sc
  | _ =>
    let cs := packCodes b (t.present.map fun p => t.code p.1 p.2)
    let ptr := (List.range 65).flatMap fun r => leBytes 2 (t.present.filter fun p => decide (p.1 < r)).length
    let cols := t.present.map fun p => BitVec.ofNat 8 p.2
    ptr ++ List.replicate 14 0 ++ slice cols 0 (roundUp cols.length 16) ++ slice cs 0 (roundUp cs.length 16) ++ sc

/-- The form a writer stores (R160): the smallest, the lower code on a tie, a sparse one only when strictly smaller. -/
def Tile.chosenForm (t : Tile) (nnz : Nat) : Nat :=
  let cands := [1] ++ (if t.fits24 then [2] else []) ++ [3]
  cands.foldl (fun best f => if formBytes t.format f nnz < formBytes t.format best nnz then f else best) 0

/-- The stored bytes of a tile in a form: header and image (R152, R154). -/
def Tile.encodeAs (t : Tile) (form : Nat) : List Byte :=
  let nnz := t.countNnz
  let fallback := decide (form = 0) && (fmtThreshold t.format).elim false fun th => decide (nnz * 4096 ≤ th * (t.rows * t.cols))
  leBytes 1 t.format ++ leBytes 1 (form + (if t.isNonfinite then 4 else 0) + (if fallback then 8 else 0))
    ++ leBytes 1 (t.rows - 1) ++ leBytes 1 (t.cols - 1) ++ leBytes 2 nnz ++ leBytes 2 (formBytes t.format form nnz)
    ++ leBytes 1 t.countMaxRow ++ List.replicate 7 0 ++ t.image form

/-- The stored bytes of a tile in the form that its writer chooses (R160). -/
def Tile.encode (t : Tile) : List Byte := t.encodeAs (t.chosenForm t.countNnz)

/-! ### Quantisation (R79, R80, R84, R92 to R95) -/

/-- Adds a written element to the counts of R102. -/
def Tally.add (y : Tally) (x : Val) (c : Conv) : Tally :=
  { elements := y.elements + 1
    zero := y.zero + (if c.val.isZero then 1 else 0)
    zeroed := y.zeroed + (if c.zeroed then 1 else 0)
    flushed := y.flushed + (if c.flushed then 1 else 0)
    overflow := y.overflow + (if c.ovf then 1 else 0)
    saturated := y.saturated + (if c.sat then 1 else 0)
    amax := max y.amax (amaxBits x)
    flags := y.flags ||| c.flags }

/-- Sums of two counts. -/
def Tally.join (a b : Tally) : Tally :=
  { elements := a.elements + b.elements, zero := a.zero + b.zero, zeroed := a.zeroed + b.zeroed
    flushed := a.flushed + b.flushed, overflow := a.overflow + b.overflow, saturated := a.saturated + b.saturated
    amax := max a.amax b.amax, flags := a.flags ||| b.flags }

/-- The rounding of the element with logical index `i` under a plan (R92, R97). -/
def WritePlan.mode (w : WritePlan) (i : Nat) : RMode :=
  if w.stochastic then .sr (roundingBits w.seed w.tensor w.step i) else .rne

/-- The larger of two magnitudes. -/
def magMax (a b : Nat × Int) : Nat × Int := if magLe a.1 a.2 b.1 b.2 then b else a

/-- The largest finite magnitude of a list of values as m × 2^e. -/
def amaxOf (xs : List Val) : Nat × Int :=
  xs.foldl (fun a v => match v with
    | .fin _ m e => magMax a (m, e)
    | _ => a) (0, 0)

/-- The smallest k from −127 to 127 with amax ≤ M × 2^k, as an E8M0 code; 0x7F for an amax of 0; 254 where none is large
enough (R84). -/
def blockScale (amax m : Nat × Int) : Nat :=
  if amax.1 = 0 then 0x7F
  else ((List.range 255).find? fun (c : Nat) => magLe amax.1 amax.2 m.1 (m.2 + (c : Int) - 127)).getD 254

/-- The smallest UE4M3 code s with amax ≤ M × s × 2^e (R84); 0 for an all-zero sub-block. -/
def subScale (zero : Bool) (amax m : Nat × Int) (e : Int) : Nat :=
  if zero then 0
  else
    ((List.range 126).find? fun c => match e4m3.decode (c + 1) with
      | .fin _ sm se => magLe amax.1 amax.2 (m.1 * sm) (m.2 + se + e)
      | _ => false).elim 126 (· + 1)

/-- An element converted to a format at a scale ±num/den (a positive fraction) (R92 to R95). -/
def convScaled (f : Nat) (ctx : Ctx) (mode : RMode) (sn sd : Nat) (x : Val) : Conv :=
  match fmtFlt f, x with
  | some g, .fin n m e => let r := ratOf m e; g.convRat ctx mode false n (r.1 * sd) (r.2 * sn)
  | some g, v => g.conv ctx mode false v
  | none, .fin n m e => let r := ratOf m e; intConv (fmtBits f) (fmtIntMax f) mode n (r.1 * sd) (r.2 * sn)
  | none, .inf n =>
    { code := if n then 2 ^ fmtBits f - fmtIntMax f else fmtIntMax f, val := .fin n (fmtIntMax f) 0
      flags := flOverflow + flSaturated, ovf := true, sat := true }
  | none, .nan _ => { flags := flInvalid }

/-- Whether a format writes a NaN through its scale (R93): it has no infinity. -/
def nanByScale (f : Nat) : Bool := (fmtFlt f).elim true fun g => !g.hasInf

/-- Counts the elements of a block that a NaN made NaN (R93). -/
def nanTally (n : Nat) : Tally := { elements := n, flags := flInvalid }

/-- A non-finite element of a row that has no finite value: it reads as +0 (R80). -/
def rowSpecial (x : Val) : Conv :=
  if x.isNan then { flags := flInvalid } else { flags := flOverflow + flSaturated, ovf := true, sat := true, zeroed := true }

/-- The FP32 minimum or maximum of a row of values that need not be FP32 numbers (R80), rounded outward (DESIGN CHOICE,
assumption 154). -/
def rowBound (mode : RMode) (x : Val) : Val := (fp32.conv { sat := true } mode false x).val

/-- The code of a finite value of a row under a scale sn/sd, negative where `sneg` (R80): (x − offset) / scale rounded, bounded by
the codes 0 and `top`. With a zero scale a value that is not below the offset has code 0. -/
def rowCode (top : Nat) (mode : RMode) (offset : Val) (sneg : Bool) (sn sd : Nat) (x : Val) : Nat × Nat × Bool :=
  match (exactAdd .rne x offset.neg).1 with
  | .fin neg m e =>
    let q := ratOf m e
    let below := decide (m ≠ 0) && (if sn = 0 then neg else xor neg sneg)
    let k := roundAt mode false (q.1 * sd) (q.2 * sn) 0
    if below then (0, flOverflow + flSaturated + flInexact, true)
    else if sn = 0 then (0, 0, false)
    else if top * (q.2 * sn) < q.1 * sd then (top, flOverflow + flSaturated + flInexact, true)
    else (min k.1 top, if k.2 then flInexact else 0, false)
  | _ => (0, 0, false)

/-- A row of values as ROW8 or ROW4 (R80): scale and offset codes, element codes and counts. -/
def quantRow (f : Nat) (modes : List RMode) (xs : List Val) : Nat × Nat × List Nat × Tally :=
  let top := if f = 0x0D then 255 else 15
  let fins := xs.filter Val.isFinite
  match fins with
  | [] => (0, 0, xs.map (fun x => if x = .inf false then top else 0),
      xs.foldl (fun y x => y.add x (rowSpecial x)) {})
  | a :: r =>
    let lo := r.foldl (fun p q => (valMin p q).1) a
    let hi := r.foldl (fun p q => (valMax p q).1) a
    let off := (fp16.conv { sat := true } .rtn true (rowBound .rtn lo))
    let diff := (exactAdd .rne (rowBound .rtp hi) off.val.neg).1
    let eqs := lo.eq hi
    let sc : Conv := match diff with
      | .fin n m e => if eqs then {} else let q := ratOf m e; fp16.convRat { sat := true } .rtp true n q.1 (q.2 * top)
      | _ => {}
    let s := match sc.val with
      | .fin n m e => (n, ratOf m e)
      | _ => (false, 0, 1)
    let one := fun (mode : RMode) (x : Val) =>
      let fix := fun (code flags : Nat) (ovf : Bool) =>
        let v := rowValue sc.val off.val code
        ({ code := code, val := v, flags := flags, ovf := ovf, sat := ovf, zeroed := v.isZero && !x.isNan && !x.isZero } : Conv)
      match x with
      | .nan _ => fix 0 flInvalid false
      | .inf n => fix (if n then 0 else top) (flOverflow + flSaturated) true
      | .fin _ _ _ =>
        let c := rowCode top mode off.val s.1 s.2.1 s.2.2 x
        fix c.1 c.2.1 c.2.2
    let cs := modes.zipWith one xs
    (sc.code, off.code, cs.map (·.code), (xs.zip cs).foldl (fun y p => y.add p.1 p.2) {})

/-- A block of elements at one scale: codes and counts. -/
def quantBlock (f : Nat) (ctx : Ctx) (sn sd : Nat) (xs : List (RMode × Val)) : List Nat × Tally :=
  let cs := xs.map fun x => convScaled f ctx x.1 sn sd x.2
  (cs.map (·.code), (xs.zip cs).foldl (fun y p => y.add p.1.2 p.2) {})

/-- The amax that chooses a block scale (R84): PREV_AMAX where the plan has one, else the block's own. A block
without a valid element is all-zero. -/
def WritePlan.amax (w : WritePlan) (xs : List Val) : Nat × Int :=
  match w.prevAmax with
  | none => amaxOf xs
  | some b => if xs.isEmpty then (0, 0) else match fp32.decode b with
    | .fin _ m e => if m = 0 then amaxOf xs else (m, e)
    | _ => amaxOf xs

/-- 2^k as a fraction. -/
def pow2Rat (k : Int) : Nat × Nat := ratOf 1 k

/-- One MX block: its scale byte, codes and counts (R84, R93). -/
def quantMx (w : WritePlan) (xs : List (RMode × Val)) : Nat × List Nat × Tally :=
  if nanByScale w.format ∧ xs.any (·.2.isNan) then (255, xs.map fun _ => 0, nanTally xs.length)
  else
    let k := blockScale (w.amax (xs.map (·.2))) (fmtMax w.format)
    let p := pow2Rat ((k : Int) - 127)
    let q := quantBlock w.format w.ctx p.1 p.2 xs
    (k, q.1, q.2)

/-- One MJ sub-block under tile exponent code `x`: its sub-scale, codes and counts. -/
def quantSub (w : WritePlan) (x : Nat) (xs : List (RMode × Val)) : Nat × List Nat × Tally :=
  let s := subScale (xs.all (·.2.isZero)) (amaxOf (xs.map (·.2))) (fmtMax w.format) ((x : Int) - 127)
  let p := match e4m3.decode s with
    | .fin _ m e => if m = 0 then pow2Rat 0 else ratOf m (e + (x : Int) - 127)
    | _ => pow2Rat 0
  let q := quantBlock w.format w.ctx p.1 p.2 xs
  (s, q.1, q.2)

/-- The values of a stretch of a row, valid columns only, with their rounding. -/
def stretch (w : WritePlan) (idx : Nat → Nat → Nat) (vals : Array Val) (rows cols r c n : Nat) : List (RMode × Val) :=
  if r < rows then
    (List.range (min n (cols - c))).map fun i => (w.mode (idx r (c + i)), vals.getD (64 * r + c + i) (.fin false 0 0))
  else []

/-- Puts the codes of a stretch into a code array. -/
def putCodes (a : Array Nat) (r c : Nat) (xs : List Nat) : Array Nat :=
  xs.zipIdx.foldl (fun a x => a.set! (64 * r + c + x.2) x.1) a

/-- Quantises a tile of values into a format (R84, R85, R93): the tile and the counts of its valid elements, where a row format
leaves out the elements that are not `live`. `idx` gives the logical index of a place (R97). -/
def quantAll (w : WritePlan) (rows cols : Nat) (idx : Nat → Nat → Nat) (vals : Array Val) (live : Nat → Nat → Bool) : Tile × Tally :=
  let z : Array Nat := Array.replicate 4096 0
  let base : Tile := { format := w.format, rows := rows, cols := cols }
  if fmtMx w.format then
    let r := (places 64 2).foldl (fun (st : Array Nat × List Byte × Tally) p =>
      let q := quantMx w (stretch w idx vals rows cols p.1 (32 * p.2) 32)
      (putCodes st.1 p.1 (32 * p.2) q.2.1, BitVec.ofNat 8 q.1 :: st.2.1, st.2.2.join q.2.2)) (z, [], {})
    ({ base with codes := r.1, scales := r.2.1.reverse.toArray }, r.2.2)
  else if fmtMj w.format then
    let r := (List.range 16).foldl (fun (st : Array Nat × List Byte × List Byte × Tally) t =>
      let part := fun i => stretch w idx vals rows cols (4 * t + i / 4) (16 * (i % 4)) 16
      let all := (List.range 16).flatMap part
      if all.any (·.2.isNan) then
        (st.1, List.replicate 16 0 ++ st.2.1, 255 :: st.2.2.1, st.2.2.2.join (nanTally all.length))
      else
        let m := fmtMax w.format
        let x := blockScale (w.amax (all.map (·.2))) (m.1 * 448, m.2)
        let q := (List.range 16).foldl (fun (s2 : Array Nat × List Byte × Tally) i =>
          let b := quantSub w x (part i)
          (putCodes s2.1 (4 * t + i / 4) (16 * (i % 4)) b.2.1, BitVec.ofNat 8 b.1 :: s2.2.1, s2.2.2.join b.2.2))
          (st.1, st.2.1, st.2.2.2)
        (q.1, q.2.1, BitVec.ofNat 8 x :: st.2.2.1, q.2.2)) (z, [], [], {})
    ({ base with codes := r.1, scales := (r.2.1.reverse ++ r.2.2.1.reverse).toArray }, r.2.2.2)
  else if fmtRow w.format then
    let r := (List.range 64).foldl (fun (st : Array Nat × List Byte × Tally) i =>
      let xs := (stretch w idx vals rows cols i 0 64).zipIdx.filter fun x => live i x.2
      if xs.isEmpty then (st.1, st.2.1 ++ [0, 0, 0, 0], st.2.2)
      else
        let q := quantRow w.format (xs.map (·.1.1)) (xs.map (·.1.2))
        ((xs.zip q.2.2.1).foldl (fun a y => a.set! (64 * i + y.1.2) y.2) st.1, st.2.1 ++ leBytes 2 q.1 ++ leBytes 2 q.2.1,
          st.2.2.join q.2.2.2)) (z, [], {})
    ({ base with codes := r.1, scales := r.2.1.toArray }, r.2.2)
  else
    let r := (List.range rows).foldl (fun (st : Array Nat × Tally) i =>
      let q := quantBlock w.format w.ctx 1 1 (stretch w idx vals rows cols i 0 64)
      (putCodes st.1 i 0 q.1, st.2.join q.2)) (z, {})
    ({ base with codes := r.1 }, r.2)

/-- Quantises a tile of values of which only the `live` ones are written (R127): the others hold no element, raise nothing and are
not counted. -/
def quantTile (w : WritePlan) (rows cols : Nat) (idx : Nat → Nat → Nat) (vals : Array Val)
    (live : Nat → Nat → Bool := fun _ _ => true) : Tile × Tally :=
  let q := quantAll w rows cols idx vals live
  let gone := (places rows cols).filter fun x => !live x.1 x.2
  if fmtRow w.format then q
  else (q.1, { q.2 with elements := q.2.elements - gone.length
                        zero := q.2.zero - (gone.filter fun x => (q.1.val x.1 x.2).isZero).length })

end Sys2Proof.Machine
end

