-- ==== Sys2Proof/Machine/Flags.lean ====
section
/-!
DEFINITION. Flags and statistics: the plan under which a tensor is written, the counts and sticky flags of a step
(R91, R102), and their update at the step boundary (R103 to R109).
-/

namespace Sys2Proof.Machine

/-- The step or run number that random bits and records use. -/
def World.stepOf (w : World) (p : Nat) : Nat := (w.part p).step



/-- The plan of a write into a tensor under an engine context (R89, R92, R107). -/
def World.planOf (w : World) (p : Nat) (x : Tensor) (ctx : Ctx) : WritePlan :=
  { format := w.formatOf p x, ctx := ctx, stochastic := x.recipe.stochastic
    prevAmax := if x.recipe.prevAmax then some (AMap.get 0 (w.part p).prevAmax x.id) else none
    seed := (w.part p).jobSeed.toNat, tensor := x.id, step := (w.part p).step }

/-- Adds the counts of a write to a tensor's statistics of the step (R102). -/
def StatAcc.add (a : StatAcc) (y : Tally) : StatAcc :=
  { written := true, elements := a.elements + y.elements, zero := a.zero + y.zero, zeroed := a.zeroed + y.zeroed
    flushed := a.flushed + y.flushed, overflow := a.overflow + y.overflow, saturated := a.saturated + y.saturated
    amax := max a.amax y.amax, flags := a.flags ||| y.flags }

/-- Counts a write into tensor `id` of partition `p`; a tensor of kind 5 is counted and recorded as the kinds that R102 names
(DESIGN CHOICE, assumption 153). -/
def World.addStats (w : World) (p id : Nat) (y : Tally) : World :=
  w.updPart p fun x => { x with stats := AMap.upd {} x.stats id (·.add y) }

/-- Raises sticky flags of a tensor without counting an element (R131). -/
def World.addFlags (w : World) (p id flags : Nat) : World :=
  if flags = 0 then w
  else w.updPart p fun x => { x with stats := AMap.upd {} x.stats id fun a => { a with flags := a.flags ||| flags } }

/-! ### The step boundary (R104 to R109) -/

/-- The ladder of a recipe's kind, narrow to wide (R100). -/
def Recipe.ladder (r : Recipe) : List Nat :=
  if r.kind = 4 then [0x0E, 0x0D]
  else [0x0C, if r.mj then 0x09 else 0x08, if r.fp6E3m2 then 0x07 else 0x06, if r.fp8E5m2 then 0x05 else 0x04, 0x03]

/-- Place of a format on the ladder. -/
def Recipe.rung (r : Recipe) (f : Nat) : Nat := (r.ladder.findIdx? fun x => decide (x = f)).getD 0

/-- Escalation (R106): the next format, ESC_RUN and DEESC_RUN, and whether ESCALATE is raised. -/
def Recipe.escalate' (r : Recipe) (format escRun deescRun bad elements : Nat) : Nat × Nat × Nat × Bool :=
  let up := decide (r.escLimit * elements < bad * 2 ^ 20)
  let dn := decide (bad * 2 ^ 20 ≤ r.deescLimit * elements)
  let e := if up then escRun + 1 else 0
  let d := if up then 0 else if dn then deescRun + 1 else 0
  let i := r.rung format
  if r.k ≤ e ∧ i < r.rung r.ceiling then (r.ladder.getD (i + 1) format, 0, d, true)
  else if r.l ≤ d ∧ r.rung r.format < i then (r.ladder.getD (i - 1) format, e, 0, true)
  else (format, e, d, false)

/-- The statistics record of tensor number `i` of partition `p` (R103). -/
def World.statsRecord (w : World) (p i : Nat) : Nat := ((w.part p).bundle.elim 0 (·.statsBase)) + 128 * i

/-- Events of sticky bits that turn from 0 to 1 (R105), in ascending code. -/
def World.stickyEvents (w : World) (t : Sid) (p id format old new : Nat) : World :=
  [(flOverflow, 0x105), (flSaturated, 0x106), (flFlushed, 0x107)].foldl (fun w e =>
    if old &&& e.1 = 0 ∧ new &&& e.1 ≠ 0 then w.raise t (cntSource p) e.2 (id + format * 2 ^ 24) else w) w

/-- One record at the boundary that closes step `n` (R104 to R109). ESC_RUN and DEESC_RUN keep their low byte: a run past 255 starts
again at 0 (DESIGN CHOICE, assumption 153). -/
def World.closeTensor (t : Sid) (p n : Nat) (w : World) (x : Tensor × Nat) : World :=
  let a := AMap.get {} (w.part p).stats x.1.id
  let at' := w.statsRecord p x.2
  let old := w.hbmRead p at' 128
  let r := x.1.recipe
  let format := w.formatOf p x.1
  let sticky := ((leAt old 5 1) &&& (255 - leAt old 0x51 1)) ||| a.flags
  let esc := if r.escalate ∧ r.kind ≤ 4 ∧ a.written then
      r.escalate' format (leAt old 6 1) (leAt old 7 1) (a.overflow + a.flushed) a.elements
    else (format, leAt old 6 1, leAt old 7 1, false)
  let grad := decide (r.kind = 2) || decide (r.kind = 3)
  let vanish := if grad && a.written then
      (if a.zero < a.elements then 0 else leAt old 0x40 8 + (if 0 < a.elements then 1 else 0)) else leAt old 0x40 8
  let vanished := grad && a.written && decide (r.vanish ≠ 0) && decide (vanish = r.vanish)
    && decide (leAt old 0x40 8 ≠ vanish)
  let rec' := leBytes 4 x.1.id ++ leBytes 1 format ++ leBytes 1 sticky ++ leBytes 1 esc.2.1 ++ leBytes 1 esc.2.2.1
    ++ leBytes 8 n ++ leBytes 8 a.elements ++ leBytes 8 a.zero ++ leBytes 8 a.zeroed ++ leBytes 8 a.flushed
    ++ leBytes 8 a.overflow ++ leBytes 8 a.saturated ++ leBytes 8 vanish ++ leBytes 4 a.amax ++ leBytes 4 (leAt old 0x48 4)
    ++ leBytes 1 esc.1 ++ [0] ++ List.replicate 46 0
  let w := ((w.hbmCount p at' 128 false).hbmStore p at' rec').hbmCount p at' 128 true
  let w := w.updPart p fun y =>
    { y with formats := AMap.set none y.formats x.1.id (if esc.1 = r.format then none else some esc.1)
             prevAmax := AMap.set 0 y.prevAmax x.1.id a.amax }
  let w := w.stickyEvents t p x.1.id format (leAt old 5 1) sticky
  let w := if esc.2.2.2 then (w.raise t (cntSource p) 0x108 (x.1.id + esc.1 * 2 ^ 24)).tick .cnt p 0x080 else w
  if vanished then w.raise t (cntSource p) 0x109 x.1.id else w

/-- Every record at a boundary (R104); the step's counts begin anew. -/
def World.closeStats (w : World) (t : Sid) (p n : Nat) : World :=
  let w := (((w.part p).bundle.elim [] (·.tensors)).zipIdx).foldl (World.closeTensor t p n) w
  w.updPart p fun x => { x with stats := [] }

end Sys2Proof.Machine
end

