-- ==== Sys2Proof/Machine/Issue.lean ====
section
/-!
DEFINITION. How a sequencer holds and continues (R54, R69, R70, R73, R372), and the queues of issued operations that the engines keep
(R52, R53).
-/

namespace Sys2Proof.Machine

/-- Progress in the sense of R372. -/
def World.progressed (w : World) (t : Sid) (p : Nat) : World := w.updPart p fun x => { x with progress := t.now }

/-- Nanoseconds since `since` that lie in the withheld window that runs now (R372). -/
def Pwr.withheldPart (p : Pwr) (now since : Nat) : Nat := if p.withheld then now - max p.withheldAt since else 0

/-- SEQ_STATUS.STATE codes (R70). -/
def SeqState.code : SeqState → Nat
  | .idle => 0
  | .running => 1
  | .workWait => 2
  | .watchWait => 3
  | .fenceWait => 4
  | .queueFull => 5
  | .queueEmpty => 6
  | .stopped => 7
  | .faulted => 8
  | .memorySlot => 9

/-! ### Holding and continuing -/

/-- The next program counter after a command that ends at `pc`, and the loops then (R54): loops whose body ends there iterate
or end, the innermost first. -/
def loopEndStep (loops : AMap LoopCtr) (pc : Nat) : Nat → Nat × AMap LoopCtr
  | 0 => (pc + 1, loops)
  | n + 1 =>
    let here := loops.filter fun l => l.2.active && decide (l.2.endPc = pc)
    match here.foldl (fun (m : Option (Nat × LoopCtr)) l => match m with
        | none => some l
        | some b => if b.2.start < l.2.start then some l else some b) none with
    | none => (pc + 1, loops)
    | some (i, l) =>
      if l.value + 1 < l.count then (l.start, AMap.set {} loops i { l with value := l.value + 1 })
      else loopEndStep (AMap.set {} loops i {}) pc n

/-- The core goes on after a command at its program counter: to the next one, or stopped at this boundary (R69). -/
def Core.advance (c : Core) : Core :=
  let x := loopEndStep c.loops c.pc 8
  { c with pc := x.1, loops := x.2, seq := if c.stop then .stopped else .running, held := none, single := false }

/-- A command of a core has been executed (R73). -/
def World.retire (w : World) (t : Sid) (c : Nat) : World :=
  ((w.updCore c Core.advance).tick .seq c 0x068).progressed t (w.partOfCore c)

/-- A sequencer begins to hold. -/
def World.holdSeq (w : World) (t : Sid) (c : Nat) (st : SeqState) (h : Held) : World :=
  (w.updCore c fun x => { x with seq := st, held := some h }).holdRecord t (coreSource 0 c) st.code false

/-- A held sequencer continues past its command. -/
def World.endHold (w : World) (t : Sid) (c : Nat) : World :=
  (w.holdRecord t (coreSource 0 c) (w.core c).seq.code true).retire t c

/-! ### Engine queues (R52, R53) -/

/-- Operations that an engine accepts ahead of the one it runs (R53). -/
def engineQueue : Nat := 8

/-- Whether an engine of a core, or of its cluster, can accept a further operation. -/
def World.engineRoom (w : World) (c : Nat) (e : Engine) : Bool :=
  let k := clusterOfCore c
  let x := w.core c
  match e with
  | .axe => decide (x.axe.pending.length < engineQueue)
  | .mxe => decide (x.mxe.pending.length < engineQueue + (if x.mxe.run.isNone then 1 else 0))
  | .vxe => decide (x.vxe.pending.length < engineQueue + (if x.vxe.run.isNone then 1 else 0))
  | .gsu => decide ((w.cluster k).gsu.pending.length ≤ engineQueue)
  | .suq => decide ((w.cluster k).suq.pending.length ≤ engineQueue)
  | .smp => decide ((w.cluster k).smp.pending.length < engineQueue + (if (w.cluster k).smp.run.isNone then 1 else 0))

/-- Puts an operation into an engine's queue. -/
def World.enqueueOp (w : World) (c : Nat) (e : Engine) (o : IssuedOp) : World :=
  let k := clusterOfCore c
  let w := w.updCore c fun x => { x with live := x.live ++ [o.serial] }
  match e with
  | .axe => w.updCore c fun x => { x with axe := { x.axe with pending := x.axe.pending ++ [o] } }
  | .mxe => w.updCore c fun x => { x with mxe := { x.mxe with pending := x.mxe.pending ++ [o] } }
  | .vxe => w.updCore c fun x => { x with vxe := { x.vxe with pending := x.vxe.pending ++ [o] } }
  | .gsu => w.updCluster k fun x => { x with gsu := { x.gsu with pending := x.gsu.pending ++ [o] } }
  | .suq => w.updCluster k fun x => { x with suq := { x.suq with pending := x.suq.pending ++ [o] } }
  | .smp => w.updCluster k fun x => { x with smp := { x.smp with pending := x.smp.pending ++ [o] } }

/-- A core that an engine's full queue held continues once there is a place (R53). -/
def World.retryIssue (t : Sid) (w : World) (c : Nat) : World :=
  match (w.core c).held with
  | some (.issue e o) => if w.engineRoom c e then (w.enqueueOp c e o).endHold t c else w
  | _ => w

/-- The cores of a core's cluster. -/
def clusterCores (c : Nat) : List Nat := (List.range 8).map fun i => 8 * clusterOfCore c + i

/-- A place in the queue of an engine of a core, or of its cluster, may have become free. -/
def World.retryIssues (w : World) (t : Sid) (c : Nat) : World := (clusterCores c).foldl (World.retryIssue t) w

end Sys2Proof.Machine
end

