-- ==== Sys2Proof/Machine/Operands.lean ====
section
/-!
DEFINITION. Operands of the engines of a core: descriptors (R52, R115, R124), tile handles (R112, R113), queues (R64, R65),
release of handles (R226, R228), and how an operation starts, ends and faults (R53, R141, R354).
-/

namespace Sys2Proof.Machine

/-- The code of an engine in ISSUE (R52). -/
def engineCode : Engine → Nat
  | .axe => 0
  | .mxe => 1
  | .vxe => 2
  | .gsu => 3
  | .suq => 4
  | .smp => 5

/-! ### Descriptors -/

/-- The descriptors of a core: its context word and its descriptors, each 64 bytes. -/
def Bundle.ofCore (b : Bundle) (c : Nat) : Option (List Byte × List (List Byte)) :=
  (b.descs.find? fun d => decide (d.1 = c)).map (·.2)

/-- Descriptor `i` of core `c`. -/
def World.descOf (w : World) (c i : Nat) : List Byte :=
  (((w.part (w.partOfCore c)).bundle.bind fun b => b.ofCore c).map fun d => d.2.getD i []).getD []

/-- The role of a core in a bundle: none for 0xFF (R48). -/
def Bundle.roleOf (b : Bundle) (c : Nat) : Option Role :=
  let r := b.roleMap.getD c 0xFF
  if r = 0xFF then none else b.roles.find? fun x => decide (x.id = r)

/-- Size of a core's program region (R48). -/
def Bundle.regionBytes (b : Bundle) (c : Nat) : Nat :=
  roundUp (8 * ((b.roleOf c).elim 0 fun r => r.words.length) + 64 * ((b.ofCore c).elim 0 fun d => d.2.length)) 65536

/-- The end of a core's data region. -/
def World.dataEnd (w : World) (c : Nat) : Nat :=
  tunBytes - ((w.part (w.partOfCore c)).bundle.elim 0 fun b => b.regionBytes c)

/-- The bound loop value of an operation; 0 where ISSUE bound none (R52). -/
def IssuedOp.value (o : IssuedOp) : Nat := if o.bound then o.index else 0

/-! ### Handles (R112) -/

def handleAddr (h : Word) : Nat := fieldOf h 0 21
def handleRows (h : Word) : Nat := fieldOf h 21 6 + 1
def handleCols (h : Word) : Nat := fieldOf h 27 6 + 1
def handleFormat (h : Word) : Nat := fieldOf h 33 8
def handleIndex (h : Word) : Nat := fieldOf h 48 16
/-- A handle; INDEX is the tile's number modulo 2^16. -/
def makeHandle (addr rows cols format number : Nat) : Word :=
  mkField addr 0 21 ||| mkField (rows - 1) 21 6 ||| mkField (cols - 1) 27 6 ||| mkField format 33 8 ||| mkField number 48 16
/-- The handle of a stored tile, from its header in tun memory (R113). -/
def World.handleAt (w : World) (c addr number : Nat) : Word :=
  let h := parseHeader (w.tunRead c addr 16)
  makeHandle addr h.rows h.cols h.format number

/-! ### Queues (R64, R65) -/

/-- Entries of a queue. -/
def queueDepth : Nat := 32

/-- The entries of queue `q` of core `c`, oldest first. -/
def World.queue (w : World) (c q : Nat) : List QEntry := AMap.get [] (w.core c).queues q
/-- Whether a queue is full. -/
def World.queueFull (w : World) (c q : Nat) : Bool := decide (queueDepth ≤ (w.queue c q).length)
/-- Puts an entry into a queue. -/
def World.pushQueue (w : World) (c q : Nat) (e : QEntry) : World :=
  w.updCore c fun x => { x with queues := AMap.upd [] x.queues q (· ++ [e]) }
/-- Removes the oldest entry of a queue. -/
def World.popQueue (w : World) (c q : Nat) : World :=
  w.updCore c fun x => { x with queues := AMap.upd [] x.queues q (·.drop 1) }
/-- The entry that the consumer can take: the head, unless the AXE holds it to read its tile again (R230). -/
def World.head (w : World) (c q : Nat) : Option QEntry :=
  match w.queue c q with
  | [] => none
  | e :: _ =>
    if (w.core c).axe.guards.any fun g => g.reread && decide (e.stream = some g.stream) && decide (g.emission = e.emission)
    then none else some e

/-- Removes the oldest entry of each named queue, one after another. -/
def World.popAll (w : World) (c : Nat) (qs : List Nat) : World := qs.foldl (fun w q => w.popQueue c q) w
/-- The entries that a consumer of the named queues takes, one after another: a queue named twice gives its two oldest (R119).
`none` while one of them is missing. -/
def World.heads (w : World) (c : Nat) : List Nat → Option (List QEntry)
  | [] => some []
  | q :: r => (w.head c q).bind fun e => ((w.popQueue c q).heads c r).map (e :: ·)

/-- The consumer releases a handle (R226): the ring buffer may be written again and the guard is removed (R228). -/
def World.release (w : World) (c : Nat) (e : QEntry) : World :=
  match e.stream with
  | none => w
  | some s =>
    w.updCore c fun x =>
      { x with axe := { x.axe with
          guards := x.axe.guards.filter fun g => !(decide (g.stream = s) && decide (g.emission = e.emission))
          streams := x.axe.streams.map fun r =>
            if r.op.serial = s then { r with live := r.live.filter fun n => decide (n ≠ e.emission) } else r } }

/-! ### Tiles -/

/-- Whether the FORMAT of a handle is that of its tile's header (R113). -/
def World.handleFits (w : World) (c : Nat) (e : QEntry) : Bool :=
  decide ((parseHeader (w.tunRead c (handleAddr e.handle) 16)).format = handleFormat e.handle)
/-- Reads and checks the tile of a handle (R113, R162, R163): its bytes as they stand when the handle is taken, so a tile that was written
over while its handle was queued is seen so (R66). -/
def World.takeTile (w : World) (c : Nat) (accepts : Nat → Bool) (shape : Nat → Nat → Bool) (h : Word) : Except Nat Tile :=
  let hdr := parseHeader (w.tunRead c (handleAddr h) 16)
  checkTile accepts (handleFormat h)
    (fun r k => decide (r = handleRows h) && decide (k = handleCols h) && shape r k) hdr
    (w.tunRead c (handleAddr h + 16) hdr.imageBytes)

/-- Writes a quantised tile at an address of tun memory and returns its handle (R123, R160). -/
def World.putTile (w : World) (c addr number : Nat) (x : Tile) : Word × World :=
  (makeHandle addr x.rows x.cols x.format number, w.tunWrite c addr x.encode)

/-- The values of a tile as an array of 4,096 places. -/
def Tile.values (t : Tile) : Array Val :=
  (places t.rows t.cols).foldl (fun a p => a.set! (64 * p.1 + p.2) (t.val p.1 p.2)) (Array.replicate 4096 (.fin false 0 0))

/-! ### Operations (R53, R354) -/

/-- An OP record of a unit (R589): phase 0 start, 1 done. -/
def World.opRecord (w : World) (t : Sid) (src : Nat) (e : Engine) (o : IssuedOp) (phase : Nat) : World :=
  w.act t src 0x03 2 o.desc (engineCode e + phase * 2 ^ 8)
    (leBytes 2 o.desc ++ leBytes 1 (engineCode e) ++ leBytes 1 phase ++ [0, 0, 0, 0] ++ leBytes 8 (w.stepOf (w.partOfCore o.core)))

/-- An operation ends: it is recorded, a core that its engine's full queue held continues (R53), and its DONE_WATCH increment and
completion wait for OPERATION_DONE (R354). -/
def World.finishOp (w : World) (t : Sid) (src : Nat) (e : Engine) (o : IssuedOp) : World :=
  ((w.opRecord t src e o 1).updCore o.core fun x => { x with doneOps := x.doneOps ++ [(e, o)] }).retryIssues t o.core

/-- Whether an engine of core `c` may act: its partition's job runs (R30, R551). -/
def World.coreLive (w : World) (c : Nat) : Bool := w.jobRuns (w.partOfCore c)

/-- A FAULT register of the MXE or VXE (R145, R149). -/
def engineFaultReg (kind queue desc index : Nat) : Word :=
  mkField kind 0 4 ||| mkField queue 4 4 ||| mkField desc 8 11 ||| mkField index 32 16 ||| mkField 1 63 1

/-- The effects of a METADATA fault beyond the engine's own registers (R141, R164). -/
def World.engineMetadata (w : World) (t : Sid) (c unit check queue index : Nat) : World :=
  (w.updCore c Core.faultSeq).metadata t (w.partOfCore c) (coreSource unit c) check (index % 2 ^ 16 + queue % 16 * 2 ^ 16)

end Sys2Proof.Machine
end

