-- ==== Sys2Proof/Machine/Mxe.lean ====
section
/-!
DEFINITION. The matrix engine (R112 to R124, R141) with its sparse path (R165 to R169) and zero prediction (R170 to R172).
-/

namespace Sys2Proof.Machine

/-! ### Fields of an MXE descriptor (R118) -/

def mxeCIn (d : List Byte) : Bool := bitAt (leAt d 1 1) 0
def mxeOutPush (d : List Byte) : Bool := bitAt (leAt d 1 1) 1
def mxeM (d : List Byte) : Nat := leAt d 8 2
def mxeN (d : List Byte) : Nat := leAt d 10 2
def mxeK (d : List Byte) : Nat := leAt d 12 2
def mxeTensor (d : List Byte) : Nat := leAt d 16 4
/-- Address of output tile `t` under a bound value (R123, R124). -/
def mxeOut (d : List Byte) (o : IssuedOp) (t : Nat) : Nat := leAt d 24 4 + o.value * leAt d 32 4 + t * leAt d 28 4
/-- Logical index of element (r, c) of output tile `t` (R123). -/
def mxeIndex (d : List Byte) (o : IssuedOp) (t r c : Nat) : Nat :=
  leAt d 40 8 + o.value * leAt d 56 8 + (64 * (t % mxeM d) + r) * leAt d 48 8 + 64 * (t / mxeM d) + c
def mxeTiles (d : List Byte) : Nat := mxeM d * mxeN d

/-- Output tile and K step of step number `n` (R119). -/
def mxeStep (tiles k n : Nat) : Nat × Nat :=
  let p := n / (2 * k)
  if 2 * p + 1 < tiles then (2 * p + n % (2 * k) % 2, n % (2 * k) / 2) else (2 * p, n - 2 * p * k)

/-- OVF_MODE and SUBNORMAL of a context (R143). -/
def ctxOf (v : Nat) : Ctx := { sat := bitAt v 0, flush := bitAt v 1 }

/-- The partial sum of element (r, c) over one K step (R121, R122); `none` where every leaf is absent. -/
def kSum (a b : Tile) (r c : Nat) : Option Val :=
  tree64 accAdd ((List.range a.cols).map fun i => productLeaf (a.val r i) (b.val c i))

/-- `kSum` with the flags that its products and sums raise (R90). -/
def kSumF (a b : Tile) (r c : Nat) : Option (Val × Nat) :=
  tree64 accAddF ((List.range a.cols).map fun i => productLeafF (a.val r i) (b.val c i))

/-- The accumulator of an element. -/
def AccTile.get (x : AccTile) (r c : Nat) : Option Val := (AMap.get none x.acc (64 * r + c)).map acc44.decode

/-- Adds one K step to an output tile; a predicted-zero operand has no leaves (R171). -/
def AccTile.addStep (x : AccTile) (ab : Option (Tile × Tile)) (rows cols : Nat) : AccTile :=
  match ab with
  | none => { x with k := x.k + 1, rows := rows, cols := cols }
  | some (a, b) =>
    let r := (places rows cols).filterMap fun p =>
      (joinNodes accAddF ((x.get p.1 p.2).map fun v => (v, 0)) (kSumF a b p.1 p.2)).map fun v => (64 * p.1 + p.2, v)
    { x with k := x.k + 1, rows := rows, cols := cols
             acc := r.map fun y => (y.1, some (acc44.encode y.2.1))
             flags := r.foldl (fun f y => f ||| y.2.2) x.flags }

/-- A tile from its stored bytes; none where a prediction stood. -/
def tileFrom (bs : List Byte) : Option Tile := if bs.isEmpty then none else some (tileOf (parseHeader bs) (bs.drop 16))

/-- Output tile `t` before its first K step: C widened to ACC44 (R122); a predicted-zero C tile has no values (R171). -/
def AccTile.start (t : Nat) (init : Option (QEntry × List Byte)) : AccTile :=
  match init.bind fun e => tileFrom e.2 with
  | none => { t := t, init := init }
  | some x =>
    let r := (places x.rows x.cols).map fun p => (64 * p.1 + p.2, acc44.conv {} .rne false (x.val p.1 p.2))
    { t := t, init := init, acc := r.map fun y => (y.1, some (acc44.encode y.2.val)), flags := r.foldl (fun f y => f ||| y.2.flags) 0 }

/-- Whether a handle agrees with the shape that another gives, where neither is predicted (R119, R120, R171). -/
def QEntry.agrees (e : QEntry) (f : Word → Nat) (n : Nat) : Bool := e.predicted || decide (f e.handle = n)

/-! ### Dense and sparse paths (R166 to R169) -/

/-- K elements per cycle of a format (R116). -/
def fmtDepth (f : Nat) : Nat :=
  if f = 0x0C then 16 else if f = 8 ∨ f = 9 ∨ f = 0x0B then 8 else if f = 2 ∨ f = 3 then 2 else 4

/-- Whether an operand qualifies for the sparse path against the other (R166). -/
def qualifies (x y : Tile) : Bool :=
  let f := if fmtDepth x.format ≤ fmtDepth y.format then x.format else y.format
  decide (x.nnz * 4096 ≤ ((fmtThreshold f).getD 0) * (x.rows * x.cols)) && !y.nonfinite
    && !((fmtE8m0 x.format).any fun i => decide (x.scaleByte i = 255))

/-- The operand on whose zeros a step skips: none on the dense path. -/
def sparseOperand (a b : Tile) : Option Tile :=
  match qualifies a b, qualifies b a with
  | true, true => some (if b.nnz < a.nnz then b else a)
  | true, false => some a
  | false, true => some b
  | false, false => none

/-- Parts that the cut of R168 makes of the positions `[lo, lo + 2^n)` of a row. -/
def cutParts (nz : Nat → Bool) (l : Nat) : Nat → Nat → Nat
  | 0, lo => if nz lo then 1 else 0
  | n + 1, lo =>
    let m := ((List.range (2 ^ (n + 1))).filter fun i => nz (lo + i)).length
    if m = 0 then 0 else if m ≤ l then 1 else cutParts nz l n lo + cutParts nz l n (lo + 2 ^ n)

/-- Rows of the operand that the cut divides (R168, R169). -/
def rowSplits (x : Tile) (depth : Nat) : Nat :=
  let l := depth * ceilDiv (ceilDiv x.nnz 64) depth
  ((List.range x.rows).filter fun r =>
    decide (1 < cutParts (fun i => decide (i < x.cols) && decide (x.code r i ≠ 0)) l 6 0)).length

/-- Counts a step's path (R167, R169). -/
def World.countPath (w : World) (c : Nat) (a b : Tile) : World :=
  match sparseOperand a b with
  | none => w
  | some x =>
    (w.tick .mxe c 0x098).count (Block.mxe.addr c 0x0A0) (rowSplits x (min (fmtDepth a.format) (fmtDepth b.format)))

/-! ### Start, fault and writeback -/

/-- Changes the MXE of a core. -/
def World.updMxe (w : World) (c : Nat) (f : Mxe → Mxe) : World := w.updCore c fun x => { x with mxe := f x.mxe }

/-- The finished output tile `x` as it is written (R123): converted under the format in force of its tensor, with its counts. -/
def World.mxeResult (w : World) (c : Nat) (o : IssuedOp) (x : AccTile) (ten : Tensor) : Tile × Tally :=
  let d := w.descOf c o.desc
  let plan := w.planOf (w.partOfCore c) ten (ctxOf (AMap.get 0 (w.core c).mxeCtx (leAt d 2 1 % 4)))
  let vals := (places x.rows x.cols).foldl
    (fun (a : Array Val) q => a.set! (64 * q.1 + q.2) ((x.get q.1 q.2).getD (.fin false 0 0))) (Array.replicate 4096 (.fin false 0 0))
  quantTile plan x.rows x.cols (mxeIndex d o x.t) vals

/-- Writes the finished output tile `x` (R123). -/
def World.mxeWrite (w : World) (c : Nat) (run : MxeRun) (x : AccTile) : World :=
  let d := w.descOf c run.op.desc
  let p := w.partOfCore c
  match w.tensor p (mxeTensor d) with
  | none => w
  | some ten =>
    let q := w.mxeResult c run.op x ten
    let h := w.putTile c (mxeOut d run.op x.t) x.t q.1
    let w := ((h.2.addStats p ten.id q.2).addFlags p ten.id x.flags).tick .mxe c 0x090
    if mxeOutPush d ∧ w.queueFull c (leAt d 7 1) = false then w.pushQueue c (leAt d 7 1) { handle := h.1, emission := x.t } else w

/-- Writes the finished tiles that wait in ascending order, up to the first provisional one (R141). -/
def World.mxeDrain (w : World) (c : Nat) (run : MxeRun) : Nat → Nat → World
  | 0, _ => w
  | n + 1, t =>
    match run.finished.find? fun x => decide (x.t = t) with
    | none => w
    | some x => if x.guesses.isEmpty then World.mxeDrain (w.mxeWrite c run x) c run n (t + 1) else w

/-- The MXE stops with METADATA (R141, R145). -/
def World.mxeFault (w : World) (t : Sid) (c : Nat) (run : MxeRun) (check queue index : Nat) : World :=
  let w := w.mxeDrain c run (run.finished.length) run.written
  let w := w.updMxe c fun m => { m with faulted := true, pending := [] }
  let w := w.setReg (Block.mxe.addr c 0x048) (engineFaultReg 1 queue run.op.desc index)
  w.engineMetadata t c 2 check queue index

/-- Whether every output tile of an operation stays in the core's data region, at the size that the load check gives it (R118,
R124). -/
def World.mxeInside (w : World) (c : Nat) (o : IssuedOp) : Bool :=
  let d := w.descOf c o.desc
  let need := 16 + (w.tensor (w.partOfCore c) (mxeTensor d)).elim 0 fun x => fmtDense x.recipe.ceiling
  decide (mxeOut d o (mxeTiles d - 1) + need ≤ w.dataEnd c)

/-- The MXE starts its next operation (R53, R124): none where it runs one or none waits. -/
def World.mxeStart (w : World) (t : Sid) (c : Nat) : World :=
  match (w.core c).mxe.run, (w.core c).mxe.pending with
  | none, o :: rest =>
    let src := coreSource 2 c
    if w.throttles src 2 then w.throttle src
    else
      let w := (w.updMxe c fun m => { m with pending := rest, run := some { op := o } }).opRecord t src .mxe o 0
      if o.bound = false ∨ w.mxeInside c o then w else w.mxeFault t c { op := o } 0x0B 0 0xFFFF
  | _, _ => w

/-- A handle's tile for a K step: `none` for a predicted-zero handle, whose leaves are all absent (R171). -/
def World.operand (w : World) (c : Nat) (shape : Nat → Nat → Bool) (e : QEntry) : Except Nat (Option Tile) :=
  if e.predicted then .ok none else (w.takeTile c mxeReads shape e.handle).map some

/-- The bytes of the tile of a handle; none for a predicted-zero handle. -/
def World.tileBytes (w : World) (c : Nat) (e : QEntry) : List Byte :=
  if e.predicted then []
  else w.tunRead c (handleAddr e.handle) (16 + (parseHeader (w.tunRead c (handleAddr e.handle) 16)).imageBytes)

/-- The predictions of the handles of one step. -/
def guessOf (e : QEntry) : List (Nat × Nat) := if e.predicted then [(e.stream.getD 0, e.emission)] else []

/-- K step `k` of output tile `n` on its handles, of which those of `qs` leave their queues (R119 to R122): C first where it is due,
then A, then B. A predicted handle is checked against no shape until its real tile arrives (R172). -/
def World.mxeStepOn (w : World) (t : Sid) (c : Nat) (run : MxeRun) (n k : Nat) (ch : Option QEntry) (a b : QEntry) : World :=
  let d := w.descOf c run.op.desc
  let qa := leAt d 4 1
  let qb := leAt d 5 1
  let qc := leAt d 6 1
  let qs := if ch.isSome then [qc] else []
  let open' := run.tiles.find? fun x => decide (x.t = n)
  let c0 : Except Nat Unit := match ch with
    | none => .ok ()
    | some e => (w.operand c (fun i j => a.agrees handleRows i && b.agrees handleRows j) e).map fun _ => ()
  match c0 with
  | .error x => (w.popAll c qs).mxeFault t c run x qc (ch.elim 0 fun e => handleIndex e.handle)
  | .ok _ =>
    let x := open'.getD (.start n (ch.map fun e => (e, w.tileBytes c e)))
    let first := x.taken.head?
    match w.operand c (fun i _ => first.elim true fun f => f.1.agrees handleRows i) a with
    | .error y => (w.popAll c (qs ++ [qa])).mxeFault t c run y qa (handleIndex a.handle)
    | .ok ta =>
      match w.operand c (fun i j => a.agrees handleCols j && first.elim true fun f => f.2.agrees handleRows i) b with
      | .error y => (w.popAll c (qs ++ [qa, qb])).mxeFault t c run y qb (handleIndex b.handle)
      | .ok tb =>
        let both := ta.bind fun p => tb.map fun q => (p, q)
        let es := ch.toList ++ [a, b]
        let y := x.addStep both (handleRows a.handle) (handleRows b.handle)
        let y := { y with
          taken := y.taken ++ [(a, b)]
          images := y.images ++ [(w.tileBytes c a, w.tileBytes c b)]
          guesses := y.guesses ++ es.flatMap guessOf }
        let w := es.foldl (fun w e => w.release c e) (w.popAll c (qs ++ [qa, qb]))
        let w := (both.elim w fun z => w.countPath c z.1 z.2).count (Block.mxe.addr c 0x0A8) (es.filter (·.predicted)).length
        let done := decide (k + 1 = mxeK d)
        w.updMxe c fun m => { m with run := some { run with
          stepNo := run.stepNo + 1
          tiles := run.tiles.filter (fun z => decide (z.t ≠ n)) ++ (if done then [] else [y])
          finished := run.finished ++ (if done then [y] else []) } }

/-- The queues of the next K step: C first where it is due, then A, then B (R119). -/
def mxeNextQueues (d : List Byte) (stepNo : Nat) : List Nat :=
  (if mxeCIn d ∧ (mxeStep (mxeTiles d) (mxeK d) stepNo).2 = 0 then [leAt d 6 1] else []) ++ [leAt d 4 1, leAt d 5 1]

/-- One K step of output tile `t` (R119 to R123), once a buffer of its array is free and its handles are there. -/
def World.mxeKStep (w : World) (t : Sid) (c : Nat) (run : MxeRun) : World :=
  let d := w.descOf c run.op.desc
  let tk := mxeStep (mxeTiles d) (mxeK d) run.stepNo
  let held := (run.tiles ++ run.finished).filter fun x => decide (x.t % 2 = tk.1 % 2)
  if mxeTiles d * mxeK d ≤ run.stepNo then w
  else if tk.2 = 0 ∧ 2 ≤ held.length then w
  else
    match w.heads c (mxeNextQueues d run.stepNo) with
    | some [e, a, b] => w.mxeStepOn t c run tk.1 tk.2 (some e) a b
    | some [a, b] => w.mxeStepOn t c run tk.1 tk.2 none a b
    | _ => w

/-- The current operation of the MXE: the one that runs, else the first that waits, which it has begun (R144). -/
def Mxe.current (m : Mxe) : Option MxeRun := m.run.orElse fun _ => m.pending.head?.map fun o => { op := o }
/-- STATE of the MXE (R144): an operation waits for output while the queue of its finished tile is full, and for operands while a queue
of its next step is empty. -/
def World.mxeState (w : World) (c : Nat) : Nat :=
  let m := (w.core c).mxe
  if m.faulted then 4
  else
    match m.current with
    | none => 0
    | some r =>
      let d := w.descOf c r.op.desc
      if (r.finished.any fun x => decide (x.t = r.written)) ∧ mxeOutPush d ∧ w.queueFull c (leAt d 7 1) then 3
      else if r.stepNo < mxeTiles d * mxeK d ∧ (w.heads c (mxeNextQueues d r.stepNo)).isNone then 2
      else 1
/-- MXE_K_STEP: the next K step of the MXE of a core, starting the next operation first where none runs. -/
def execMxeKStep (core : CoreId) (s : State) : Host.Outcome State Fault Refusal :=
  .next (s.serve fun w =>
    let c := core.val
    if w.coreLive c = false ∨ (w.core c).mxe.faulted then w
    else
      let w := w.mxeStart s.sid c
      match (w.core c).mxe.run with
      | none => w
      | some run => if (w.core c).mxe.faulted then w else w.mxeKStep s.sid c run)

/-- MXE_TILE_WRITEBACK: the next output tile in ascending order is written (R123); the operation ends with the last. -/
def execMxeTileWriteback (core : CoreId) (s : State) : Host.Outcome State Fault Refusal :=
  .next (s.serve fun w =>
    let c := core.val
    if w.coreLive c = false ∨ (w.core c).mxe.faulted then w
    else
      match (w.core c).mxe.run with
      | none => w
      | some run =>
        let d := w.descOf c run.op.desc
        match run.finished.find? fun x => decide (x.t = run.written) with
        | none => w
        | some x =>
          if x.guesses.isEmpty = false ∨ (mxeOutPush d ∧ w.queueFull c (leAt d 7 1)) then w
          else
            let w := w.mxeWrite c run x
            if run.written + 1 = mxeTiles d then
              (w.updMxe c fun m => { m with run := none }).finishOp s.sid (coreSource 2 c) .mxe run.op
            else
              w.updMxe c fun m => { m with run := some { run with
                written := run.written + 1, finished := run.finished.filter fun z => decide (z.t ≠ x.t) } })

/-! ### Verifying a prediction (R172) -/

/-- An output tile recomputed from its first K step with the tiles it took. -/
def AccTile.recompute (x : AccTile) : AccTile :=
  let s := AccTile.start x.t x.init
  (x.taken.zip x.images).foldl (fun y e =>
    y.addStep ((tileFrom e.2.1).bind fun a => (tileFrom e.2.2).map fun b => (a, b)) (handleRows e.1.1.handle) (handleRows e.1.2.handle))
    { x with k := 0, acc := s.acc, flags := s.flags }

/-- The pairs of real tiles that its K steps took. -/
def AccTile.pairs (x : AccTile) : List (Tile × Tile) :=
  x.images.filterMap fun e => (tileFrom e.1).bind fun a => (tileFrom e.2).map fun b => (a, b)

/-- The first operand that disagrees in shape among the handles that are not predicted (R119, R120): 0 the A, 1 the B, 2 the C
queue, and the handle's INDEX. -/
def AccTile.shapeFault (x : AccTile) : Option (Nat × Nat) :=
  let both := fun (f g : Word → Nat) (a b : QEntry) => a.predicted || b.agrees g (f a.handle)
  match x.taken with
  | [] => none
  | (a, b) :: r =>
    match x.init with
    | some (e, _) =>
      if both handleRows handleRows a e && both handleRows handleCols b e then go a b ((a, b) :: r) else some (2, handleIndex e.handle)
    | none => go a b ((a, b) :: r)
where
  go (a b : QEntry) (l : List (QEntry × QEntry)) : Option (Nat × Nat) :=
    let both := fun (f : Word → Nat) (p q : QEntry) => p.predicted || q.agrees f (f p.handle)
    l.findSome? fun y =>
      if both handleRows a y.1 = false then some (0, handleIndex y.1.handle)
      else if both handleCols y.1 y.2 = false ∨ both handleRows b y.2 = false then some (1, handleIndex y.2.handle)
      else none

/-- Whether an entry is prediction (stream, number). -/
def QEntry.isGuess (stream number : Nat) (e : QEntry) : Bool :=
  e.predicted && decide (e.stream = some stream) && decide (e.emission = number)

/-- Puts the real handle in the place of prediction (stream, number) in an entry. -/
def QEntry.resolve (stream number : Nat) (real : QEntry) (e : QEntry) : QEntry := if e.isGuess stream number then real else e

/-- An output tile in which prediction (stream, number) gives way to the real tile, whose bytes are `bs` (R172). -/
def AccTile.resolve (stream number : Nat) (real : QEntry) (bs : List Byte) (x : AccTile) : AccTile :=
  let hit := QEntry.isGuess stream number
  { x with
    init := x.init.map fun e => if hit e.1 then (real, bs) else e
    images := (x.taken.zip x.images).map fun e => (if hit e.1.1 then bs else e.2.1, if hit e.1.2 then bs else e.2.2)
    taken := x.taken.map fun e => (e.1.resolve stream number real, e.2.resolve stream number real)
    guesses := x.guesses.filter fun g => decide (g ≠ (stream, number)) }

/-- Whether the tile that took prediction (stream, number) took it in the shape of the real handle (R171). -/
def AccTile.guessedShape (stream number : Nat) (real : QEntry) (x : AccTile) : Bool :=
  (x.init.toList.map (·.1) ++ x.taken.flatMap fun e => [e.1, e.2]).all fun e =>
    !(e.isGuess stream number) || (decide (handleRows e.handle = handleRows real.handle) && decide (handleCols e.handle = handleCols real.handle))

end Sys2Proof.Machine
end

