-- ==== Sys2Proof/Machine/LoadTypes.lean ====
section
/-!
DEFINITION. Types of the bundle loader: what a load is checked against, and a section as the loader cuts it out.
-/

namespace Sys2Proof.Machine

/-- What a bundle is checked against (R38, R39): the target partition, its record, dies and capacities, the active
positions of the domain, this module's place among them and its position, and the places of its cask peers (R410, R471, R472). -/
structure LoadEnv where
  part : Nat := 0
  record : List Byte := []
  dies : List Nat := []
  capacity : Nat := 0
  cellar : Nat := 0
  reserve : Nat := 0
  positions : Nat := 1
  dense : Nat := 0
  own : Option Nat := none
  peers : List Nat := []
deriving DecidableEq, Repr

/-- A section: its type, its offset in the bundle and its bytes. -/
structure Section where
  type : Nat := 0
  offset : Nat := 0
  bytes : List Byte := []
deriving DecidableEq, Repr

/-- A role as the section holds it, with the bundle offset of its entry. -/
structure RoleItem where
  offset : Nat := 0
  role : Role := {}
deriving DecidableEq, Repr

/-- The descriptors of one core, with the bundle offset of their entry. -/
structure CoreItem where
  offset : Nat := 0
  core : Nat := 0
  context : List Byte := []
  descs : List (List Byte) := []
deriving DecidableEq, Repr

/-- What a descriptor check sees: the core's queues, the end of its data region, the lowest byte of the module area, the
catalogue, the tables, the plans, the largest bound value, the HBM's capacity, this module's position, and the core's queues that its
MXE and VXE descriptors fill, with the tensors that they write there. -/
structure DescEnv where
  part : Nat := 0
  queues : List Nat := []
  top : Nat := 0
  floor : Nat := 0
  tensors : List Tensor := []
  dir : List DirEntry := []
  plans : List Plan := []
  bound : Nat := 0
  capacity : Nat := 0
  own : Option Nat := none
  feeds : List (Nat × Nat) := []
deriving DecidableEq, Repr

end Sys2Proof.Machine
end

