-- ==== Sys2Proof/Machine/Keccak.lean ====
section
/-!
DEFINITION. SHAKE256 (FIPS 202) and KMAC256 (NIST SP 800-185), which the digests and parcel tags of the module use
(R35, R43, R454, R546).
-/

namespace Sys2Proof.Machine

/-- Round constants of Keccak-f[1600]. -/
def keccakRC : List (BitVec 64) :=
  [0x0000000000000001, 0x0000000000008082, 0x800000000000808A, 0x8000000080008000,
   0x000000000000808B, 0x0000000080000001, 0x8000000080008081, 0x8000000000008009,
   0x000000000000008A, 0x0000000000000088, 0x0000000080008009, 0x000000008000000A]
  ++ [0x000000008000808B, 0x800000000000008B, 0x8000000000008089, 0x8000000000008003,
   0x8000000000008002, 0x8000000000000080, 0x000000000000800A, 0x800000008000000A,
   0x8000000080008081, 0x8000000000008080, 0x0000000080000001, 0x8000000080008008]

/-- Rotation offsets by lane x + 5y. -/
def keccakRot : List Nat :=
  [0, 1, 62, 28, 27, 36, 44, 6, 55, 20, 3, 10, 43, 25, 39, 41, 45, 15, 21, 8, 18, 2, 61, 56, 14]

/-- Lane `i` of a state. -/
def lane (s : List (BitVec 64)) (i : Nat) : BitVec 64 := s.getD i 0

/-- One round with its constant: theta, rho and pi, chi, iota. -/
def keccakRound (s : List (BitVec 64)) (rc : BitVec 64) : List (BitVec 64) :=
  let c := (List.range 5).map fun x => lane s x ^^^ lane s (x + 5) ^^^ lane s (x + 10) ^^^ lane s (x + 15) ^^^ lane s (x + 20)
  let d := (List.range 5).map fun x => lane c ((x + 4) % 5) ^^^ (lane c ((x + 1) % 5)).rotateLeft 1
  let t := (List.range 25).map fun i => lane s i ^^^ lane d (i % 5)
  -- lane (x, y) of the permuted state comes from lane (x', y') with x = y' and y = 2x' + 3y' mod 5
  let b := (List.range 25).map fun i =>
    let y' := i % 5
    let x' := (i / 5 + 10 - 3 * y' % 5) * 3 % 5
    (lane t (x' + 5 * y')).rotateLeft (keccakRot.getD (x' + 5 * y') 0)
  let e := (List.range 25).map fun i =>
    let y := i / 5
    lane b i ^^^ (~~~ lane b (5 * y + (i % 5 + 1) % 5) &&& lane b (5 * y + (i % 5 + 2) % 5))
  match e with
  | [] => []
  | a :: r => (a ^^^ rc) :: r

/-- The permutation. -/
def keccakF (s : List (BitVec 64)) : List (BitVec 64) := keccakRC.foldl keccakRound s

/-- The rate of SHAKE256 in bytes. -/
def shakeRate : Nat := 136

/-- Absorbs one block of 136 bytes. -/
def absorbBlock (s : List (BitVec 64)) (block : List Byte) : List (BitVec 64) :=
  keccakF ((List.range 25).map fun i => if i < 17 then lane s i ^^^ BitVec.ofNat 64 (leAt block (8 * i) 8) else lane s i)

/-- Absorbs `n` whole blocks. -/
def absorb : Nat → List (BitVec 64) → List Byte → List (BitVec 64)
  | 0, s, _ => s
  | n + 1, s, bs => absorb n (absorbBlock s (bs.take shakeRate)) (bs.drop shakeRate)

/-- A sponge with a domain suffix byte: the message is padded to whole blocks and absorbed; one block of at most 136
bytes is squeezed. -/
def sponge (suffix : Byte) (msg : List Byte) (n : Nat) : List Byte :=
  let k := msg.length / shakeRate
  let last := msg.drop (k * shakeRate)
  let pad := last ++ [suffix] ++ List.replicate (shakeRate - 1 - last.length) 0
  let pad := pad.take (shakeRate - 1) ++ [pad.getD (shakeRate - 1) 0 ||| 0x80]
  let s := absorbBlock (absorb k (List.replicate 25 0) msg) pad
  (s.flatMap fun l => leBytes 8 l.toNat).take n

/-- SHAKE256 with 256 bits of output. -/
def shake256 (msg : List Byte) : List Byte := sponge 0x1F msg 32

/-- Bytes of a number without leading zeros, at least one. -/
def minBytes (x : Nat) : List Byte :=
  if x < 256 then [BitVec.ofNat 8 x]
  else if x < 65536 then beBytes 2 x
  else if x < 16777216 then beBytes 3 x
  else beBytes 8 x

/-- left_encode of SP 800-185. -/
def leftEncode (x : Nat) : List Byte := BitVec.ofNat 8 (minBytes x).length :: minBytes x
/-- right_encode of SP 800-185. -/
def rightEncode (x : Nat) : List Byte := minBytes x ++ [BitVec.ofNat 8 (minBytes x).length]
/-- encode_string of SP 800-185. -/
def encodeString (s : List Byte) : List Byte := leftEncode (8 * s.length) ++ s
/-- bytepad of SP 800-185 to whole blocks of 136 bytes. -/
def bytePad (x : List Byte) : List Byte :=
  let z := leftEncode shakeRate ++ x
  z ++ List.replicate (roundUp z.length shakeRate - z.length) 0

/-- The ASCII bytes of a text. -/
def ascii (s : String) : List Byte := s.toList.map fun c => BitVec.ofNat 8 c.toNat

/-- KMAC256 with 256 bits of output under a key and a customization string. -/
def kmac256 (key msg : List Byte) (custom : String) : List Byte :=
  sponge 0x04
    (bytePad (encodeString (ascii "KMAC") ++ encodeString (ascii custom)) ++ bytePad (encodeString key) ++ msg
      ++ rightEncode 256) 32

end Sys2Proof.Machine
end

