-- ==== Sys2Proof/Machine/Start.lean ====
section
/-!
DEFINITION. What a start is made of: MRAM records and manifests (R557, R558, R569), the firmware image's checks (R564), the
configuration blocks (R521, R528, R560), the topology of the domain and the training of ports (R383 to R393), HBM and
cellar training (R281, R285) and the capability record (R42 to R44).
-/

namespace Sys2Proof.Machine

/-! ### MRAM records (R558, R569) -/

/-- Whether a copy is valid: COMMIT equals SEQ. -/
def MramCopy.valid (c : MramCopy) : Bool := decide (c.commit = c.seq)
/-- The body in force: that of the valid copy with the higher sequence. -/
def MramRecord.body (r : MramRecord) : List Byte :=
  if r.a.valid ∧ (r.b.valid = false ∨ r.b.seq ≤ r.a.seq) then r.a.body
  else if r.b.valid then r.b.body else []
/-- A committed write: it overwrites the copy that is not valid, or else the one with the lower sequence, and gives it
the higher sequence + 1. -/
def MramRecord.write (r : MramRecord) (body : List Byte) : MramRecord :=
  let n := max (if r.a.valid then r.a.seq else 0) (if r.b.valid then r.b.seq else 0) + 1
  let c : MramCopy := { seq := n, body := body, commit := n }
  if r.a.valid = false then { r with a := c }
  else if r.b.valid = false then { r with b := c }
  else if r.b.seq < r.a.seq then { r with b := c } else { r with a := c }

/-- RESERVED_END of the committed XMSS index record (R569). -/
def Sec.reservedEnd (x : Sec) : Nat := leAt x.xmss.body 0 8
/-- Whether the module is claimed, and the Owner key (R574). -/
def Sec.claimed (x : Sec) : Bool := decide (leAt x.owner.body 0 1 = 1)
def Sec.ownerKey (x : Sec) : List Byte := slice x.owner.body 8 32
/-- The rollback floor (R564). -/
def Sec.floor (x : Sec) : Nat := leAt x.rollbackFloor.body 0 1
/-- The numbers of the bits set in a map-out list of `n` bits (R280, R285). -/
def mapoutList (r : MramRecord) (n : Nat) : List Nat := numbersWhere n fun i => bitAt (leNat r.body) i
/-- Writes a map-out list. -/
def MramRecord.writeBits (r : MramRecord) (bytes v : Nat) : MramRecord := r.write (leBytes bytes v)
/-- Adds a channel to the HBM map-out list (R280). -/
def Sec.mapOutHbm (x : Sec) (c : Nat) : Sec :=
  { x with hbmMapout := x.hbmMapout.writeBits 32 (leNat x.hbmMapout.body ||| 2 ^ c) }
/-- Adds a channel to the cellar map-out list (R285). -/
def Sec.mapOutCellar (x : Sec) (c : Nat) : Sec :=
  { x with cellarMapout := x.cellarMapout.writeBits 8 (leNat x.cellarMapout.body ||| 2 ^ c) }

/-! ### The recipe store (R556, R557) -/

/-- Logical offset and size of a region. -/
def regionBase (r : Nat) : Nat := if r = 0 then 0x00200000 else if r = 1 then 0x04200000 else 0x06000000
def regionSize (r : Nat) : Nat := if r = 0 then 64 * 2 ^ 20 else if r = 1 then 16 * 2 ^ 20 else 905969664
/-- Offset of a manifest slot. -/
def manifestSlot (i : Nat) : Nat := i * 0x00100000

/-- A manifest in 256 bytes is valid (R557, R558). -/
def manifestOk (m : List Byte) : Bool :=
  decide (leAt m 0 4 = 0x4E414D52) && decide (leAt m 4 2 = 1) && decide (leAt m 0xF8 8 = leAt m 8 8)

/-- The slot of the manifest in force (R558): the valid copy with the higher GENERATION. -/
def manifestTaken (flash : Memory) : Option Nat :=
  let a := flash.read (manifestSlot 0) 256
  let b := flash.read (manifestSlot 1) 256
  match manifestOk a, manifestOk b with
  | true, true => some (if leAt a 8 8 < leAt b 8 8 then 1 else 0)
  | true, false => some 0
  | false, true => some 1
  | false, false => none

/-- The manifest in force; zeros where there is none. -/
def Sec.manifest (x : Sec) : List Byte :=
  match manifestTaken x.flash with
  | some i => x.flash.read (manifestSlot i) 256
  | none => List.replicate 256 0

/-- Writes a manifest with the fields given, body first and COMMIT last, over the copy that is not valid or has the lower
GENERATION (R558). -/
def Sec.writeManifest (x : Sec) (flags fwLen cfgLen bunLen : Nat) (fwDig cfgDig bunDig : List Byte) : Sec :=
  let old := x.manifest
  let gen := (if manifestOk old then leAt old 8 8 else 0) + 1
  let slot := match manifestTaken x.flash with
    | some i => 1 - i
    | none => 0
  let bytes := leBytes 4 0x4E414D52 ++ leBytes 2 1 ++ leBytes 2 flags ++ leBytes 8 gen ++ leBytes 4 fwLen
    ++ leBytes 4 cfgLen ++ leBytes 8 bunLen ++ slice fwDig 0 32 ++ slice cfgDig 0 32 ++ slice bunDig 0 32
    ++ List.replicate 120 0 ++ leBytes 8 gen
  { x with flash := x.flash.write (manifestSlot slot) bytes }

/-- The cause for which an image fails verification, in the order of R564; none when it passes. -/
def imageCause (digest floor img : List Byte) (len : Nat) : Option Nat :=
  let body := leAt img 8 4
  if leAt img 0 4 ≠ 0x57465A4B ∨ leAt img 0x0C 4 ≠ 0 ∨ allZero (slice img 0x50 48) = false
      ∨ len ≠ 0x80 + body + 2820 ∨ 64 * 2 ^ 20 < len then some 2
  else if shake256 img ≠ digest then some 3
  else if shake256 (slice img 0x10 64) ≠ Config.pkHash then some 4
  else if Config.imageSignatureOk (slice img 0x10 64) (img.take (0x80 + body)) (slice img (0x80 + body) 2820) = false then some 5
  else if leAt img 7 1 < leAt floor 0 1 then some 6
  else none

/-! ### The configuration block (R521, R528, R560, R561) -/

/-- The blocks of region 1 as type and body; `fuel` bounds their number. -/
def configBlocks (bs : List Byte) : Nat → Nat → List (Nat × List Byte)
  | 0, _ => []
  | n + 1, o => (leAt bs o 2, slice bs (o + 8) (leAt bs (o + 4) 4)) :: configBlocks bs n (o + 8 + leAt bs (o + 4) 4)

/-- The configuration blocks of region 1's bytes; none where its header is not R560's. -/
def parseConfig (bs : List Byte) : List (Nat × List Byte) :=
  if leAt bs 0 4 = 0x47464E43 then configBlocks bs (leAt bs 4 2) 16 else []

/-- The body of the first block of a type. -/
def configBody (xs : List (Nat × List Byte)) (t : Nat) : Option (List Byte) := (xs.find? fun x => decide (x.1 = t)).map (·.2)

/-- An entry of the Ethernet table. -/
def parseEth (e : List Byte) : EthEntry :=
  { role := leAt e 0 1, port := leAt e 1 1, ipv6 := bitAt (leAt e 2 1) 0, macsec := bitAt (leAt e 2 1) 1
    ptpL2 := bitAt (leAt e 2 1) 2, pcp := leAt e 3 1, vlan := leAt e 4 2, udpPort := leAt e 6 2, classMask := leAt e 8 2
    prefixLen := leAt e 10 1, address := slice e 16 16, gateway := slice e 32 16 }

/-- The entries of an Ethernet table's bytes. -/
def ethEntries (b : List Byte) : List (List Byte) := (List.range (leAt b 0 2)).map fun i => slice b (16 + 64 * i) 64

/-- Whether the table is not used (R528). -/
def ethTableBad (b : List Byte) : Bool :=
  let raw := ethEntries b
  let es := raw.map parseEth
  let role := fun r => (es.filter fun e => decide (e.role = r)).length
  decide (1 < role 3) || decide (1 < role 4) || decide (1 < role 5) || decide (8 < role 2)
    || es.any (fun e => decide (e.role = 0) && decide (1 < (es.filter fun x =>
        decide (x.role = 0) && decide (x.port = e.port) && decide (x.ipv6 = e.ipv6)).length))
    || !(allZero (slice b 2 14)) || raw.any fun e => !(allZero (slice e 11 5)) || !(allZero (slice e 48 16))
    || decide (leAt b 0 2 = 0) || decide (64 < leAt b 0 2)

/-- An entry of the governor table. -/
def parseGovernor (e : List Byte) : Governor :=
  { cls := leAt e 0 1, binary := decide (leAt e 1 1 = 1), maxToggles := leAt e 2 1
    validity := if leAt e 3 1 = 0 then 3 else leAt e 3 1, minHoldMs := leAt e 4 4
    minValue := BitVec.ofNat 32 (leAt e 8 4), maxValue := BitVec.ofNat 32 (leAt e 12 4)
    safeValue := BitVec.ofNat 32 (leAt e 16 4), maxStep := BitVec.ofNat 32 (leAt e 20 4)
    maxSlew := BitVec.ofNat 32 (leAt e 24 4) }

/-- The FP32 value of a bit pattern. -/
def f32 (b : BitVec 32) : Val := fp32.decode b.toNat

/-- Whether the governor table is not used (R521). -/
def governorTableBad (gs : List Governor) : Bool :=
  gs.any fun g =>
    decide (15 < g.cls) || decide (1 < (gs.filter fun x => decide (x.cls = g.cls)).length)
      || [g.minValue, g.maxValue, g.safeValue, g.maxStep, g.maxSlew].any (fun v => !(f32 v).isFinite)
      || (f32 g.maxValue).lt (f32 g.minValue) || (f32 g.safeValue).lt (f32 g.minValue)
      || (f32 g.maxValue).lt (f32 g.safeValue)
      || (f32 g.maxStep).lt (.fin false 0 0) || (f32 g.maxSlew).lt (.fin false 0 0)

/-- The configuration that region 1 gives (R560); `ok` says that its digest passed. Without it or without a SYSTEM block
the module boots with defaults (R561). -/
def configOf (bs : List Byte) (ok : Bool) : SysConfig :=
  let xs := if ok then parseConfig bs else []
  match configBody xs 1 with
  | none => {}
  | some s =>
    let eth := configBody xs 2
    let gov := (configBody xs 3).elim [] fun b => (List.range (min 16 (leAt b 0 1))).map fun i => parseGovernor (slice b (16 + 32 * i) 32)
    { domainId := leAt s 0 4, domainGroups := leAt s 4 2, activeSlots := leAt s 6 1, group := leAt s 7 1
      partition := leAt s 8 1, sidSource := leAt s 9 1, twinRole := leAt s 10 1, autonomous := bitAt (leAt s 11 1) 0
      powerCap := min 60 (max 24 (leAt s 12 1)), ethMode := if 3 < leAt s 13 1 then 0 else leAt s 13 1
      caskReserve := leAt s 16 8, jobSeed := BitVec.ofNat 64 (leAt s 24 8)
      ethTable := eth.elim [] fun b => if ethTableBad b then [] else (ethEntries b).map parseEth
      ethBad := eth.elim false ethTableBad, ethPresent := eth.isSome
      governor := if governorTableBad gov then [] else gov
      governorBad := governorTableBad gov || (configBody xs 3).elim false fun b => decide (16 < leAt b 0 1)
      valid := true }

/-- The REGISTERS entries of region 1: address and value (R560). -/
def configRegisters (bs : List Byte) : List (Nat × Word) :=
  (configBody (parseConfig bs) 4).elim [] fun b =>
    (List.range (b.length / 16)).map fun i => (leAt b (16 * i) 8, BitVec.ofNat 64 (leAt b (16 * i + 8) 8))

/-! ### Topology (R383 to R386) -/

/-- Populated slots of a group. -/
def SysConfig.slots (c : SysConfig) : Nat := c.activeSlots + 1
/-- The populated slot of an index, in ascending slot order. -/
def SysConfig.slotAt (c : SysConfig) (i : Nat) : Nat := if i < c.activeSlots then i else 16
/-- The index of a populated slot. -/
def SysConfig.slotIndex (c : SysConfig) (s : Nat) : Nat := if s = 16 then c.activeSlots else s
/-- Whether a slot is populated. -/
def SysConfig.populated (c : SysConfig) (s : Nat) : Bool := decide (s < c.activeSlots) || decide (s = 16)
/-- Links of a pair of groups (R385). -/
def SysConfig.pairLinks (c : SysConfig) : Nat := if c.domainGroups ≤ 1 then 0 else 32 * c.slots / (c.domainGroups - 1)
/-- Slot and global port of link `k` from group `g` to group `b` at group `g`. -/
def SysConfig.linkAt (c : SysConfig) (g b k : Nat) : Nat × Nat :=
  let l := c.pairLinks * ((b + c.domainGroups - g - 1) % c.domainGroups) + k
  (c.slotAt (l % c.slots), l / c.slots)
/-- The group and link number that global port `p` of slot `s` of group `g` serves; none for a port with no link. -/
def SysConfig.linkOf (c : SysConfig) (g s p : Nat) : Option (Nat × Nat) :=
  let l := p * c.slots + c.slotIndex s
  if c.pairLinks = 0 ∨ c.pairLinks * (c.domainGroups - 1) ≤ l then none
  else some ((g + 1 + l / c.pairLinks) % c.domainGroups, l % c.pairLinks)

/-- The partner of port `i` of a module: group, slot and port index (R384, R385). -/
def SysConfig.partnerOf (c : SysConfig) (g s i : Nat) : Option (Nat × Nat × Nat) :=
  if i < 16 then
    let t := (s + i + 1) % 17
    if c.populated t then some (g, t, 15 - i) else none
  else
    (c.linkOf g s (i - 16)).map fun b =>
      let e := c.linkAt b.1 g b.2
      (b.1, e.1, 16 + e.2)

/-- The intra-group port of slot `s` that leads to slot `t`. -/
def intraPort (s t : Nat) : Nat := (t + 17 - s - 1) % 17

/-- Whether the configuration and the straps hold every port down (R383, R638). -/
def fabricOutOfRange (c : SysConfig) (geo : Nat) : Bool :=
  let slot := geo % 32
  decide (c.domainGroups < 1) || decide (256 < c.domainGroups) || decide (c.activeSlots < 1) || decide (16 < c.activeSlots)
    || decide (c.domainGroups ≤ c.group) || !(c.populated slot) || decide (geo / 32 ≠ c.group % 2)

/-- Positions of the domain, and the dense index of a position (R386). -/
def SysConfig.positions (c : SysConfig) : Nat := c.domainGroups * c.activeSlots
def SysConfig.dense (c : SysConfig) (p : Nat) : Nat := p / 16 * c.activeSlots + p % 16

/-- The position of a dense index (R386). -/
def SysConfig.positionAt (c : SysConfig) (d : Nat) : Nat := d / c.activeSlots * 16 + d % c.activeSlots

/-- The position of a slot of a group (R386). -/
def positionOf (g s : Nat) : Option Nat := if s < 16 then some (g * 16 + s) else none

/-- The position table at start (R386, R387), by position. -/
def startTable (c : SysConfig) : AMap Nat :=
  (List.range c.domainGroups).flatMap fun g => (List.range c.activeSlots).map fun s => (g * 16 + s, g * 17 + s)

/-! ### Training (R390 to R393) -/

/-- LOSS_CLASS of an insertion loss in dB; none above 40 dB (R391). -/
def lossClass (db : Nat) : Option Nat :=
  if db ≤ 16 then some 0 else if db ≤ 24 then some 1 else if db ≤ 32 then some 2 else if db ≤ 40 then some 3 else none
/-- CABLE_CM of a round trip in tenths of a ns (R391). -/
def cableCm (rtt : Nat) : Nat := if rtt ≤ 960 then 0 else ((rtt - 960) * 1025 + 500) / 1000

/-- The reason for which step 5 fails (R392). -/
def checkReason (c : SysConfig) (fwMajor : Nat) (want : Nat × Nat × Nat) (t : PortTraining) : Option Nat :=
  if t.partnerGroup ≠ want.1 ∨ t.partnerSlot ≠ want.2.1 ∨ t.partnerPort ≠ want.2.2 then some 0
  else if fieldOf (t.partnerCaps.setWidth 64) 6 8 ≠ fwMajor then some 1
  else if t.partnerDomain ≠ c.domainId then some 2
  else none

/-- A port after training, and the reason of CABLING if it is held down. -/
def trainPort (c : SysConfig) (slot fwMajor i : Nat) (t : Option PortTraining) : Port × Option Nat :=
  match c.partnerOf c.group slot i, t with
  | none, _ => ({}, none)
  | some _, none => ({}, none)
  | some want, some t =>
    match lossClass t.lossDb with
    | none => ({ trainStep := min t.lastStep 2 }, none)
    | some loss =>
      if t.lastStep < 4 then ({ trainStep := t.lastStep }, none)
      else
        match checkReason c fwMajor want t with
        | some r => ({ state := 2, trainStep := 5 }, some r)
        | none =>
          let lanes := min t.lanesUp (if i < 16 then 4 else 1)
          if t.lastStep < 6 ∨ lanes = 0 then ({ trainStep := t.lastStep }, none)
          else
            ({ state := 1, lanes := lanes, trainStep := 7, lossClass := loss, cableCm := min (cableCm t.rttTenthNs) 65535
               partner := (positionOf want.1 want.2.1).getD 0xFFFF, caps := t.partnerCaps, rttTenthNs := t.rttTenthNs }, none)

/-- PAYLOAD of CABLING (R392). -/
def cablingPayload (port group slot reason : Nat) : Nat := port + group % 256 * 2 ^ 8 + slot % 32 * 2 ^ 16 + reason * 2 ^ 24

/-- The module's place, as soon as the SYSTEM block is applied: slot, physical number, position and the position table of a start
(R383, R386, R387). -/
def World.takePlace (w : World) (geo : Nat) : World :=
  let c := w.config
  if fabricOutOfRange c geo then { w with fab := { w.fab with physical := (c.group % 256) * 17 + geo % 32, slot := geo % 32 } }
  else
    let slot := geo % 32
    { w with fab := { w.fab with physical := c.group * 17 + slot, slot := slot, position := positionOf c.group slot, posTable := startTable c } }

/-- Fabric training of every port (R383, R390 to R393); without REFCLK no port trains (R636). -/
def World.trainFabric (w : World) (t : Sid) (geo fwMajor : Nat) (b : BootIn) : World :=
  let c := w.config
  if fabricOutOfRange c geo then
    let w := { w with fab := { w.fab with trained := true, ports := (List.range 48).map fun i => (i, { state := 2 }) } }
    (List.range 48).foldl (fun w i => w.raise t (portSource i) 0x121 (cablingPayload i 0 0 3)) w
  else
    let slot := geo % 32
    let trained := (List.range 48).map fun i =>
      (i, trainPort c slot fwMajor i (if b.refclk then (b.ports.find? fun e => decide (e.1 = i)).map (·.2) else none))
    let w := { w with fab := { w.fab with
      trained := true
      ports := trained.foldl (fun m e => AMap.set {} m e.1 e.2.1) [] } }
    trained.foldl (fun w e => match e.2.2 with
      | none => w
      | some r =>
        let p := (b.ports.find? fun x => decide (x.1 = e.1)).map (·.2)
        w.raise t (portSource e.1) 0x121 (cablingPayload e.1 (p.elim 0 (·.partnerGroup)) (p.elim 0 (·.partnerSlot)) r)) w

/-- HBM training (R281): listed channels, then channels that fail, in channel order. -/
def trainHbm (t : Sid) (fails : List Nat) (x : World × Sec) (c : Nat) : World × Sec :=
  let listed := (mapoutList x.2.hbmMapout 256).contains c
  if listed ∨ fails.contains c then
    let sec := if listed then x.2 else x.2.mapOutHbm c
    let w := { x.1 with channels := AMap.set 0 x.1.channels c 3 }
    (w.raise t (hbcSource (c / 32)) 0x113 (c + (if listed then 0 else 1) * 2 ^ 8), sec)
  else x

/-- Density in GiB that the part expects per cellar device (R629). -/
def expectedGib : Nat := if Config.isJ9410 then 48 else 24
/-- GiB of one cellar channel. -/
def cellarChannelGib : Nat := expectedGib / 4

/-- Cellar training (R285, R629): a channel is listed, or fails, or its device position lacks the density. -/
def trainCellar (t : Sid) (b : BootIn) (x : World × Sec) (c : Nat) : World × Sec :=
  let listed := (mapoutList x.2.cellarMapout 64).contains c
  let bad := b.cellarFail.contains c || decide (b.cellarGib.getD (c / 4) 0 ≠ expectedGib)
  if listed ∨ bad then
    let sec := if listed then x.2 else x.2.mapOutCellar c
    let w := { x.1 with cellarBad := AMap.set false x.1.cellarBad c true }
    (w.raise t klnSource 0x113 (c + (if listed then 0 else 1) * 2 ^ 8 + 2 ^ 23), sec)
  else x

/-- Good cellar capacity in GiB. -/
def World.goodCellarGib (w : World) : Nat :=
  ((List.range 64).filter fun c => !(AMap.get false w.cellarBad c)).length * cellarChannelGib

/-- The good cellar channels of dies, 16 of each, in ascending order. -/
def World.goodCellars (w : World) (dies : List Nat) : List Nat :=
  (dies.flatMap fun d => (List.range 16).map (d * 16 + ·)).filter fun c => !(AMap.get false w.cellarBad c)

/-- Sets up the partitions of this start: their good lists and cellar shares (R45, R46, R267, R284, R566). -/
def World.makeParts (w : World) : World :=
  (List.range w.partCount).foldl (fun w p =>
    let ds := w.diesOf p
    let good := (ds.flatMap fun d => (List.range 64).map (d * 64 + ·)).filter fun c => decide (AMap.get 0 w.channels c = 0)
    w.updPart p fun x =>
      { x with dies := ds, good := good, cellarGib := w.goodCellarGib * ds.length / 4, cellarGood := w.goodCellars ds }) w

/-! ### The capability record (R42 to R44) -/

/-- A PORTS entry (R44). -/
def portEntry (c : SysConfig) (slot p i : Nat) (x : Port) : List Byte :=
  let q := if x.state = 1 then (c.partnerOf c.group slot i).getD (0, 0, 0) else (0, 0, 0)
  leBytes 2 (if x.state = 1 ∧ p = 0 then x.partner else 0xFFFF) ++ leBytes 1 q.1 ++ leBytes 1 q.2.1 ++ leBytes 1 x.state
    ++ leBytes 1 x.lossClass ++ leBytes 2 x.cableCm ++ leBytes 4 x.caps.toNat ++ leBytes 1 x.lanes ++ [0, 0, 0]

/-- Whether the Ethernet port is on (R527). -/
def SysConfig.ethOn (c : SysConfig) : Bool := decide (c.ethMode ≠ 0) && c.ethPresent && !c.ethBad

/-- The capability record of partition `p`, built at a time with a firmware version (R43). -/
def World.buildRecord (w : World) (now fw p : Nat) : List Byte :=
  let x := w.part p
  let n := x.dies.length
  let c := w.config
  let head := leBytes 4 0x52435A4B ++ leBytes 2 1 ++ leBytes 2 1072 ++ leBytes 2 (if Config.isJ9410 then 9410 else 9408)
    ++ leBytes 2 Config.stepping.toNat ++ leBytes 4 fw ++ leBytes 4 3 ++ leBytes 8 now
    ++ leBytes 2 (if p = 0 then w.fab.position.getD 0xFFFF else 0xFFFF) ++ leBytes 1 c.group ++ leBytes 1 w.fab.slot
    ++ leBytes 1 w.partCount ++ leBytes 1 p ++ leBytes 1 ((x.dies.map fun d => 2 ^ d).sum) ++ [0]
    ++ leBytes 2 (96 * n) ++ leBytes 2 (12 * n) ++ leBytes 2 940 ++ leBytes 2 128
    ++ leBytes 1 2 ++ leBytes 1 64 ++ leBytes 1 32 ++ leBytes 1 16 ++ leBytes 1 32 ++ leBytes 1 48 ++ leBytes 1 64 ++ leBytes 1 8
    ++ leBytes 2 256 ++ leBytes 2 4096 ++ leBytes 4 2097152 ++ leBytes 4 16777216 ++ leBytes 2 8192 ++ leBytes 2 2048
    ++ leBytes 2 256 ++ leBytes 2 1024 ++ leBytes 1 64 ++ leBytes 1 64 ++ leBytes 1 4 ++ [0]
    ++ leBytes 2 256 ++ leBytes 2 (64 * n) ++ leBytes 2 4096 ++ leBytes 2 1024 ++ leBytes 2 4096 ++ [0, 0]
    ++ leBytes 8 (w.hbmCapacity p) ++ leBytes 8 (x.cellarGib * 2 ^ 30)
    ++ leBytes 32 ((x.good.map fun ch => 2 ^ ch).sum) ++ List.replicate 120 0
  let ports := (List.range 48).flatMap fun i => portEntry c w.fab.slot p i (AMap.get {} w.fab.ports i)
  let eth := leBytes 1 (if c.ethOn then c.ethMode else 0) ++ leBytes 1 (if c.ethOn then w.eth.linkUp.toNat else 0)
    ++ (List.range 6).map Config.macAddress ++ List.replicate 8 0
  let body := head ++ ports ++ eth
  body ++ shake256 body

/-! ### Ports and slots as this module knows them (R395, R401, R402) -/

/-- Whether a port is up. -/
def World.portUp (w : World) (i : Nat) : Bool := decide ((AMap.get {} w.fab.ports i).state = 1)

/-- Whether port `i` of slot `s` of group `g` is up, as far as this module knows: its own ports by their state; those of a module marked
failed are down; of another slot of its group, an intra-group port that the slot has reported (R395) and a global port that the slot's exchange
names (R402) are down (DESIGN CHOICE, assumption 168: the spec does not say how a module learns of the others' ports). -/
def World.endUp (w : World) (g s i : Nat) : Bool :=
  if g * 17 + s = w.fab.physical then w.portUp i
  else if w.fab.failed.contains (g * 17 + s) then false
  else if g ≠ w.config.group then true
  else if i < 16 then !(w.fab.reports.contains ((s + i + 1) % 17, s))
  else !(bitAt (AMap.get 0 w.fab.downPorts s) (i - 16))

/-- Whether both ends of a link are up. -/
def World.linkUp (w : World) (g s i : Nat) : Bool :=
  w.endUp g s i && (w.config.partnerOf g s i).elim false fun q => w.endUp q.1 q.2.1 q.2.2

/-- Whether a global port of a slot of this group is up (R401). -/
def World.globalUp (w : World) (slot port : Nat) : Bool := w.endUp w.config.group slot (16 + port)

/-- The intra-group port towards a slot: the direct one, or the one to the lowest populated slot that has both ends up (R401). -/
def World.intraHop (w : World) (slot : Nat) : Nat :=
  let own := w.fab.slot
  let direct := intraPort own slot
  if w.portUp direct then direct
  else
    ((List.range 17).find? fun a =>
      w.config.populated a && decide (a ≠ own) && decide (a ≠ slot) && w.portUp (intraPort own a)
        && w.linkUp w.config.group a (intraPort a slot)).elim direct (intraPort own)

/-! ### Time roots and parents (R431, R432) -/

/-- SID_SOURCE of the module that holds a position: this module's own, or what the other module's configuration block says. -/
def World.sidSourceAt (w : World) (pos : Nat) : Nat :=
  let x := AMap.get 0xFFFF w.fab.posTable pos
  if x = w.fab.physical then w.config.sidSource else if x = 0xFFFF then 0 else (Config.sidSourceOf x).toNat

/-- The position of the time root: the lowest whose module's SID_SOURCE is not 0; the domain head's where there is none (R431). -/
def World.timeRoot (w : World) : Nat :=
  (((List.range w.config.positions).map w.config.positionAt).find? fun q => decide (w.sidSourceAt q ≠ 0)).getD 0

/-- Whether this module is the time root; a spare never is. -/
def World.isTimeRoot (w : World) : Bool := w.fab.position.elim false fun p => decide (p = w.timeRoot)

/-- The port a member takes to slot `t` of its group, direct or by the bypass of R401, which adds one hop (R432). -/
def World.towards (w : World) (t : Nat) : Option (Nat × Nat) :=
  let i := w.intraHop t
  if w.portUp i = false then none else if i = intraPort w.fab.slot t then some (i, 0) else some (i, 1)

/-- The parent port and the hops to the root (R432). -/
def World.timeParent (w : World) : Option (Nat × Nat) :=
  let c := w.config
  let root := AMap.get 0xFFFF w.fab.posTable w.timeRoot
  if w.isTimeRoot ∨ w.fab.trained = false ∨ root = 0xFFFF then none
  else if c.group = root / 17 then (w.towards (root % 17)).map fun x => (x.1, 1 + x.2)
  else
    let links := (List.range c.pairLinks).map fun k => c.linkAt c.group (root / 17) k
    match links.find? fun l => w.globalUp l.1 l.2 with
    | none => none
    | some l =>
      let far := (c.partnerOf c.group l.1 (16 + l.2)).elim 0 fun q => if q.2.1 = root % 17 then 0 else 1
      if l.1 = w.fab.slot then some (16 + l.2, 1 + far) else (w.towards l.1).map fun x => (x.1, 2 + far + x.2)

end Sys2Proof.Machine
end

