-- ==== Sys2Proof/Machine/Catalogue.lean ====
section
/-!
DEFINITION. The tensor catalogue (R99 to R101, R110, R111), shard maps and placement (R410 to R412), the table directory
and the module area (R217, R218, R661 to R663).
-/

namespace Sys2Proof.Machine

/-! ### Recipes -/

/-- A recipe from its 32 bytes (R99). -/
def parseRecipe (r : List Byte) : Recipe :=
  let fl := leAt r 3 1
  { kind := leAt r 0 1, format := leAt r 1 1, ceiling := leAt r 2 1, stochastic := bitAt fl 0, prevAmax := bitAt fl 1
    mj := bitAt fl 2, fp6E3m2 := bitAt fl 3, fp8E5m2 := bitAt fl 4, escalate := bitAt fl 5, escLimit := leAt r 4 4
    deescLimit := leAt r 8 4, k := leAt r 12 1, l := leAt r 13 1, w128 := decide (leAt r 14 1 = 1)
    windowT := if leAt r 15 1 < 128 then (leAt r 15 1 : Int) else (leAt r 15 1 : Int) - 256, vanish := leAt r 16 2 }

/-- The default recipe of a kind (R101). -/
def defaultRecipe : Nat → Recipe
  | 0 => { kind := 0, format := 0x04, ceiling := 0x03, escalate := true, escLimit := 1024, deescLimit := 64, k := 4, l := 64 }
  | 1 => { kind := 1, format := 0x04, ceiling := 0x03, escalate := true, escLimit := 1024, deescLimit := 64, k := 4, l := 64 }
  | 2 => { kind := 2, format := 0x05, ceiling := 0x03, prevAmax := true, stochastic := true, fp6E3m2 := true, fp8E5m2 := true,
           escalate := true, escLimit := 1024, deescLimit := 64, k := 2, l := 128, vanish := 64 }
  | 3 => { kind := 3, format := 0x03, ceiling := 0x03, stochastic := true, fp6E3m2 := true, fp8E5m2 := true,
           escalate := true, escLimit := 1024, deescLimit := 64, k := 2, l := 128, vanish := 64 }
  | 4 => { kind := 4, format := 0x0D, ceiling := 0x0D, escalate := true, escLimit := 1024, deescLimit := 64, k := 4, l := 64 }
  | _ => { kind := 5, format := 0x0F, ceiling := 0x0F }

/-- Whether a recipe record breaks R86, R99, R100 or R111. -/
def recipeBad (raw : List Byte) : Bool :=
  let r := parseRecipe raw
  let ladder := r.ladder
  decide (5 < r.kind) || decide (0x11 < r.format) || decide (0x11 < r.ceiling) || decide (leAt raw 3 1 / 64 ≠ 0)
    || !(allZero (slice raw 18 14))
    || (decide (r.kind = 4) && decide (r.format ≠ 0x0D) && decide (r.format ≠ 0x0E))
    || (if r.kind = 5 then decide (1 < leAt raw 14 1) || decide (r.windowT < -100) || decide (126 < r.windowT)
        else decide (leAt raw 14 1 ≠ 0) || decide (leAt raw 15 1 ≠ 0))
    || (decide (r.kind ≠ 2) && decide (r.kind ≠ 3) && decide (r.vanish ≠ 0))
    || decide (r.k = 0) || decide (r.l = 0)
    || (r.escalate
        && (!(ladder.contains r.format) || !(ladder.contains r.ceiling) || decide (r.rung r.ceiling < r.rung r.format)))

/-! ### Shard maps and placement (R410 to R412) -/

/-- A shard map at offset `o` of the catalogue section (R411). -/
def parseShardMap (b : List Byte) (o : Nat) : ShardMap :=
  let r := slice b o 64
  { mode := leAt r 0 1, replica := bitAt (leAt r 1 1) 0, shard := leAt r 2 2, barrier := leAt r 4 1, generation := leAt r 6 2
    rows := leAt r 8 8, staging := leAt r 16 8, stageStride := leAt r 24 8, accum := leAt r 32 8, out := leAt r 40 8
    target := leAt r 48 4
    first := if leAt r 0 1 = 1 then (List.range 4097).map fun i => leAt b (o + 64 + 8 * i) 8 else [] }

/-- The first shard homed at dense index `d` of `m` positions; that of the next is one past its last (R410). -/
def firstShard (m d : Nat) : Nat := ceilDiv (d * 4096) m
/-- The dense index that homes a shard (R410). -/
def shardHome (m s : Nat) : Nat := s * m / 4096

/-- The first row of shard `s` (R412). -/
def ShardMap.firstRow (x : ShardMap) (s : Nat) : Nat := if x.mode = 1 then x.first.getD s 0 else s * x.rows / 4096
/-- The shard of a row (R412). -/
def ShardMap.shardOf (x : ShardMap) (r : Nat) : Nat :=
  if x.mode = 1 then ((List.range 4096).findRev? fun s => decide (x.first.getD s 0 ≤ r)).getD 0
  else if x.mode = 2 then x.shard
  else if x.rows = 0 then 0 else ceilDiv ((r + 1) * 4096) x.rows - 1
/-- The rows that a map places on dense index `d` of `m` positions, as first and one past the last. -/
def ShardMap.homed (x : ShardMap) (m d : Nat) : Nat × Nat :=
  if x.mode = 2 then (if shardHome m x.shard = d then (0, x.rows) else (0, 0))
  else (x.firstRow (firstShard m d), x.firstRow (firstShard m (d + 1)))

/-- Rows and columns of a tensor as a matrix (R662). -/
def Tensor.rows (x : Tensor) : Nat := x.dims.getD 0 0
def Tensor.cols (x : Tensor) : Nat := if x.rows = 0 then 0 else x.elements / x.rows
/-- The rows of a tensor that a position homes: all of a tensor held whole or under REPLICA (R413, R662). -/
def Tensor.homed (x : Tensor) (m d : Nat) : Nat × Nat :=
  match x.map with
  | none => (0, x.rows)
  | some s => if s.replica ∨ s.mode = 3 then (0, x.rows) else s.homed m d
/-- The rows that a tensor's map places on a position, REPLICA or not (R412). -/
def Tensor.homeRange (x : Tensor) (m d : Nat) : Nat × Nat := x.map.elim (0, x.rows) fun s => s.homed m d
/-- Elements that a tensor's map places on a position. -/
def Tensor.homedElements (x : Tensor) (m d : Nat) : Nat := ((x.homeRange m d).2 - (x.homeRange m d).1) * x.cols

/-! ### The catalogue -/

/-- A catalogue entry (R110), with the recipes of the section. -/
def parseTensor (b : List Byte) (recipes : List Recipe) (e : List Byte) : Tensor :=
  let rc := leAt e 4 1
  let sm := leAt e 32 4
  { id := leAt e 0 4, recipe := if 0xF0 ≤ rc then defaultRecipe (rc - 0xF0) else recipes.getD rc {}
    versioned := decide (leAt e 5 1 = 1), fullRewrite := bitAt (leAt e 6 1) 0, elements := leAt e 8 8
    dims := (List.range 4).map fun i => leAt e (16 + 4 * i) 4, windowRows := leAt e 36 4
    map := if sm = 0xFFFFFFFF then none else some (parseShardMap b sm) }

/-- Header fields of the catalogue. -/
def catRecipes (b : List Byte) : Nat := leAt b 0 2
def catTensors (b : List Byte) : Nat := leAt b 4 4
def catStats (b : List Byte) : Nat := leAt b 8 8
/-- Whether the header of the catalogue is malformed. -/
def catHeaderBad (b : List Byte) : Bool :=
  decide (b.length < 32) || decide (64 < catRecipes b) || decide (catTensors b = 0) || decide (65536 < catTensors b)
    || decide (catStats b % 128 ≠ 0) || decide (leAt b 2 2 ≠ 0) || !(allZero (slice b 16 16))
    || decide (b.length < 32 + 32 * catRecipes b + 64 * catTensors b)

/-- The recipe records and the entries, each with its offset within the section. -/
def catRecipeRaws (b : List Byte) : List (Nat × List Byte) :=
  (List.range (catRecipes b)).map fun i => (32 + 32 * i, slice b (32 + 32 * i) 32)
def catEntryRaws (b : List Byte) : List (Nat × List Byte) :=
  (List.range (catTensors b)).map fun i =>
    (32 + 32 * catRecipes b + 64 * i, slice b (32 + 32 * catRecipes b + 64 * i) 64)
/-- The tensors of the catalogue, in its order. -/
def catalogueOf (b : List Byte) : List Tensor :=
  if catHeaderBad b then []
  else
    let rs := (catRecipeRaws b).map fun r => parseRecipe r.2
    (catEntryRaws b).map fun e => parseTensor b rs e.2

/-- Whether DIM of a row table is outside R217. -/
def Tensor.dimBad (x : Tensor) : Bool :=
  x.versioned && decide (x.recipe.kind = 4)
    && (decide (x.cols = 0) || decide (8192 < x.cols) || (decide (x.recipe.format = 0x0E) && decide (x.cols % 2 = 1)))

/-- Whether entry number `i` breaks R110, R111 or R217; its shard map is judged apart. -/
def entryBad (b : List Byte) (all : List Tensor) (i : Nat) (raw : List Byte) : Bool :=
  let x := all.getD i {}
  let rc := leAt raw 4 1
  let vf := leAt raw 6 1
  decide (0xFFFFFF < x.id) || ((all.take i).any fun y => decide (y.id = x.id))
    || !(decide (rc < catRecipes b) || (decide (0xF0 ≤ rc) && decide (rc ≤ 0xF5)))
    || decide (1 < leAt raw 5 1) || decide (leAt raw 7 1 ≠ 0) || decide (1 < vf) || (decide (vf ≠ 0) && !x.versioned)
    || (decide (x.windowRows ≠ 0) && !(x.versioned && decide (x.recipe.kind = 4)))
    || decide (x.dims.prod ≠ x.elements) || x.dimBad
    || (decide (leAt raw 32 4 ≠ 0xFFFFFFFF) && decide (b.length < leAt raw 32 4 + 64))

/-- Whether a shard map is malformed (R411). -/
def shardMapBad (b : List Byte) (all : List Tensor) (x : Tensor) (s : ShardMap) (o : Nat) : Bool :=
  decide (3 < s.mode) || decide (1 < leAt b (o + 1) 1) || decide (leAt b (o + 5) 1 ≠ 0) || !(allZero (slice b (o + 52) 12))
    || decide (s.rows ≠ x.rows) || (decide (s.mode = 2) && decide (4095 < s.shard))
    || (decide (s.mode = 1) && (decide (b.length < o + 64 + 8 * 4097)
        || s.first.any (fun f => decide (2 ^ 40 ≤ f))
        || (List.range 4096).any fun i => decide (s.first.getD (i + 1) 0 < s.first.getD i 0)))
    || (decide (s.mode = 3) &&
        (decide (x.recipe.kind ≠ 5) || decide (s.stageStride < 4 * x.elements) || decide (s.generation = 0)
          || match all.find? fun y => decide (y.id = s.target) with
            | none => true
            | some y => decide (y.elements ≠ x.elements) || y.map.elim true fun z => decide (2 < z.mode)))

/-! ### The table directory and the module area (R217, R218, R661 to R663) -/

/-- Grains of a stored row, sized for the wider of FORMAT and CEILING (R217). -/
def Tensor.rowGrains (x : Tensor) : Nat :=
  let b := if x.recipe.format = 0x0D ∨ x.recipe.ceiling = 0x0D then 8 else 4
  ceilDiv (4 + x.cols * b / 8) 256
/-- Bytes between the stored tiles of a KIND 2 table (R662). -/
def Tensor.tileStride (x : Tensor) : Nat :=
  roundUp (16 + max (fmtDense x.recipe.format) (fmtDense x.recipe.ceiling)) 256
/-- The directory KIND of a versioned tensor (R661). -/
def Tensor.dirKind (graphs : List Nat) (x : Tensor) : Nat :=
  if graphs.contains x.id then 0 else if x.recipe.kind = 4 then 1 else 2
/-- BYTES of one version at dense index `d`. A graph image is given its elements' codes, in whole records (assumption 41). -/
def Tensor.versionBytes (graphs : List Nat) (m d : Nat) (x : Tensor) : Nat :=
  match x.dirKind graphs with
  | 0 => roundUp (ceilDiv (x.elements * max (fmtBits x.recipe.format) (fmtBits x.recipe.ceiling)) 8) 4096
  | 1 => x.rows * x.rowGrains * 256
  | _ =>
    let h := (x.homed m d).2 - (x.homed m d).1
    roundUp (ceilDiv h 64 * ceilDiv x.cols 64 * x.tileStride) 4096

/-- Bytes of an override table (R248) and of one cell of a window pool (assumption 42). -/
def overrideBytes : Nat := 65536 * 16
def poolCell : Nat := 32

/-- The directory entry of a tensor before its regions are placed (R218). -/
def Tensor.dirEntry (graphs : List Nat) (m d : Nat) (x : Tensor) : DirEntry :=
  let kind := x.dirKind graphs
  let bytes := x.versionBytes graphs m d
  let rg := if kind = 1 then x.rowGrains else 16
  let records := bytes / (rg * 256)
  { tensor := x.id, kind := kind, fullRewrite := x.fullRewrite, rowGrains := rg, bytes := bytes, records := records
    dim := if kind = 1 then x.cols else 0
    windowRows := if kind = 1 then (if x.windowRows = 0 then records else x.windowRows) else 0
    format := x.recipe.format }

/-- A region of `n` bytes below `cur`, aligned to 256 bytes; none where it does not fit. -/
def takeBelow (n cur : Nat) : Option Nat := if n ≤ cur then some ((cur - n) / 256 * 256) else none

/-- Places the regions of one directory entry below `cur` (R663). -/
def placeEntry (e : DirEntry) (cur : Nat) : Option (DirEntry × Nat) := do
  let b0 ← takeBelow e.bytes cur
  let b1 ← takeBelow e.bytes b0
  let di ← takeBelow (ceilDiv e.records 8) b1
  if e.kind = 1 then
    let o0 ← takeBelow overrideBytes di
    let o1 ← takeBelow overrideBytes o0
    let po ← takeBelow (e.windowRows * e.dim * poolCell) o1
    pure ({ e with base0 := b0, base1 := b1, dirty := di, override0 := o0, override1 := o1, pool := po }, po)
  else pure ({ e with base0 := b0, base1 := b1, dirty := di }, di)

/-- Places every entry in turn. -/
def placeEntries : List DirEntry → Nat → Option (List DirEntry × Nat)
  | [], cur => some ([], cur)
  | e :: r, cur => do
    let x ← placeEntry e cur
    let y ← placeEntries r x.2
    pure (x.1 :: y.1, y.2)

/-- Whether a table is journalled (R474). -/
def DirEntry.journals (e : DirEntry) : Bool := decide (2 ^ 30 ≤ e.bytes) && !e.fullRewrite

/-- HBM bytes of the Mirror set of the module at dense index `d` (R472, R475; assumption 43). -/
def mirrorBytes (graphs : List Nat) (ts : List Tensor) (m d : Nat) : Nat :=
  let es := (ts.filter (·.versioned)).map (Tensor.dirEntry graphs m d)
  ((es.filter fun e => !e.journals).map (·.bytes)).sum
    + ((es.filter fun e => decide (e.kind = 1)).length) * overrideBytes + 128 * ts.length
    + (if es.any fun e => decide (e.kind = 1) then 65536 else 0)

/-- Size of the HBM landing area: the sum of the peers' mirror stripes (R471, R472). -/
def landingBytes (env : LoadEnv) (graphs : List Nat) (ts : List Tensor) : Nat :=
  if env.part ≠ 0 ∨ env.peers.length < 2 then 0
  else (env.peers.map fun d => ceilDiv (mirrorBytes graphs ts env.positions d) (env.peers.length - 1)).sum

/-- The table directory's base, its entries in ascending TENSOR_ID, and the lowest byte of the module area (R663); none
where the area does not fit. -/
def placeTables (env : LoadEnv) (graphs : List Nat) (ts : List Tensor) : Option (Nat × List DirEntry × Nat) := do
  let vs := (ts.filter (·.versioned)).map (Tensor.dirEntry graphs env.positions env.dense)
  let es := vs.insertionSort fun a b => a.tensor ≤ b.tensor
  let base ← takeBelow (128 * es.length) env.capacity
  let p ← placeEntries es base
  let land ← takeBelow (landingBytes env graphs ts) p.2
  pure (base, p.1, land)

/-- The 128 bytes of a directory entry (R218). -/
def DirEntry.image (e : DirEntry) : List Byte :=
  leBytes 4 e.tensor ++ leBytes 1 e.kind ++ leBytes 1 (if e.fullRewrite then 1 else 0) ++ leBytes 2 e.rowGrains
    ++ leBytes 8 ((if e.current then 1 else 0) + 2 * e.version) ++ leBytes 8 e.base0 ++ leBytes 8 e.base1 ++ leBytes 8 e.bytes
    ++ leBytes 8 e.records ++ leBytes 4 e.dim ++ leBytes 4 e.windowRows ++ leBytes 8 0 ++ leBytes 8 e.dirty
    ++ leBytes 8 e.override0 ++ leBytes 8 e.override1 ++ leBytes 4 e.over0.length ++ leBytes 4 e.over1.length
    ++ leBytes 8 e.pool ++ leBytes 1 e.format ++ List.replicate 23 0

/-- Problems of the catalogue section (R111, R411, R663), each a reason and a bundle offset. `bars` are the domain
barriers that SYNC_ASSIGN defines. -/
def catalogueProblems (env : LoadEnv) (graphs bars : List Nat) (s : Section) : List (Nat × Nat) :=
  let b := s.bytes
  if catHeaderBad b then [(0x01, s.offset)]
  else
    let ts := catalogueOf b
    let area := placeTables env graphs ts
    let floor := area.elim 0 (·.2.2)
    let homedShards := firstShard env.positions (env.dense + 1) - firstShard env.positions env.dense
    ((catRecipeRaws b).filter fun r => recipeBad r.2).map (fun r => (0x01, s.offset + r.1))
      ++ (((catEntryRaws b).zipIdx.filter fun e => entryBad b ts e.2 e.1.2).map fun e => (0x01, s.offset + e.1.1))
      ++ ((catEntryRaws b).zip ts).flatMap (fun e =>
        match e.2.map with
        | none => []
        | some m =>
          let o := leAt e.1.2 32 4
          let home := ((ts.find? fun y => decide (y.id = m.target)).elim 0 fun y => y.homedElements env.positions env.dense)
          (if shardMapBad b ts e.2 m o then [(0x01, s.offset + o)] else [])
            ++ (if m.mode = 3 ∧ bars.contains m.barrier = false then [(0x0E, s.offset + o)] else [])
            ++ (if env.part ≠ 0 ∧ (m.mode = 3 ∨ m.replica) then [(0x15, s.offset + o)] else [])
            ++ (if m.mode = 3 ∧ (floor < m.staging + (homedShards - 1) * m.stageStride + 4 * e.2.elements
                  ∨ floor < m.accum + (if e.2.recipe.w128 then 32 else 16) * home ∨ floor < m.out + 4 * home)
                then [(0x0B, s.offset + o)] else []))
      ++ (if area.isNone ∨ floor < catStats b + 128 * catTensors b then [(0x0B, s.offset)] else [])

end Sys2Proof.Machine
end

