-- ==== Sys2Proof/Machine/Mcf.lean ====
section
/-!
DEFINITION. Words of the Meori command format and the rules of a step program (R50 to R59, R365 to R370).
-/

namespace Sys2Proof.Machine

/-- The opcode of a word (R50). -/
def mcfOpcode (w : Nat) : Nat := bitsAt w 58 6

/-- The reserved field of an opcode's words, as lowest bit and width; none for an opcode not listed (R50). -/
def mcfReserved : Nat → Option (Nat × Nat)
  | 0x00 | 0x0C | 0x11 => some (0, 58)
  | 0x01 => some (0, 35)
  | 0x02 => some (0, 14)
  | 0x03 => some (0, 40)
  | 0x04 => some (0, 44)
  | 0x08 => some (0, 42)
  | 0x09 => some (0, 54)
  | 0x0A => some (32, 14)
  | 0x0B => some (0, 12)
  | 0x0D => some (0, 46)
  | 0x10 => some (32, 18)
  | _ => none

def issueEngine (w : Nat) : Nat := bitsAt w 55 3
def issueDesc (w : Nat) : Nat := bitsAt w 44 11
def issueBind (w : Nat) : Nat := bitsAt w 41 3
def issueWatch (w : Nat) : Nat := bitsAt w 35 6
def loopCounter (w : Nat) : Nat := bitsAt w 55 3
def loopCount (w : Nat) : Nat := bitsAt w 31 24
def loopEnd (w : Nat) : Nat := bitsAt w 18 13
def loopFromWork (w : Nat) : Bool := bitAt w 17
def branchTarget (w : Nat) : Nat := bitsAt w 40 13
def waitWatch (w : Nat) : Nat := bitsAt w 52 6
def signalRemote (w : Nat) : Bool := bitAt w 57
def signalCore (w : Nat) : Nat := bitsAt w 48 9
def signalWatch (w : Nat) : Nat := bitsAt w 42 6
def barrierDomain (w : Nat) : Bool := bitAt w 57
def barrierCluster (w : Nat) : Nat := bitsAt w 52 4
def barrierIndex (w : Nat) : Nat := bitsAt w 46 6

/-- A field as a number below `n`. -/
def fieldFin (w lo width n : Nat) (h : 0 < n) : Fin n := ⟨bitsAt w lo width % n, Nat.mod_lt _ h⟩

/-- A watch of a core (R355): 0 to 47. -/
def fieldWatch (w lo : Nat) : WatchId := fieldFin w lo 6 48 (by decide)

/-- The engine of an ISSUE (R52). -/
def engineOf : Nat → Option Engine
  | 0 => some .axe
  | 1 => some .mxe
  | 2 => some .vxe
  | 3 => some .gsu
  | 4 => some .suq
  | 5 => some .smp
  | _ => none

/-- The command that a 64-bit word of a core's program spells (R50 to R59, R365 to R370); none for an opcode not listed. A word that the
load checks accept spells one with every field as it stands. -/
def mcfInstr (core : CoreId) (w : Nat) : Option Instr :=
  match mcfOpcode w with
  | 0x00 => some (.nop core)
  | 0x01 => (engineOf (issueEngine w)).map fun e =>
      .issue core e (fieldFin w 44 11 2048 (by decide)) (fieldFin w 41 3 8 (by decide))
        (if issueWatch w < 48 then some (fieldWatch w 35) else none)
  | 0x02 => some (.loop core (fieldFin w 55 3 8 (by decide)) (BitVec.ofNat 24 (loopCount w)) (fieldFin w 18 13 8192 (by decide))
      (loopFromWork w) (fieldFin w 14 3 8 (by decide)))
  | 0x03 => some (.branch core (fieldFin w 54 4 16 (by decide)) (bitAt w 53) (fieldFin w 40 13 8192 (by decide)))
  | 0x04 => some (.setcc core (BitVec.ofNat 7 (bitsAt w 51 7)) (BitVec.ofNat 7 (bitsAt w 44 7)))
  | 0x08 => some (.getWork core (BitVec.ofNat 16 (bitsAt w 42 16)))
  | 0x09 => some (.complete core (bitAt w 57) (fieldFin w 54 3 8 (by decide)))
  | 0x0A => some (.wait core (fieldWatch w 52) (fieldFin w 50 2 3 (by decide)) (bitAt w 49) (fieldFin w 46 3 8 (by decide))
      (BitVec.ofNat 32 (bitsAt w 0 32)))
  | 0x0B => some (.signal core (signalRemote w) (fieldFin w 48 9 384 (by decide)) (fieldWatch w 42) (BitVec.ofNat 16 (bitsAt w 26 16))
      (BitVec.ofNat 14 (bitsAt w 12 14)))
  | 0x0C => some (.fence core)
  | 0x0D => some (.barrier core (barrierDomain w) (bitAt w 56) (fieldFin w 52 4 12 (by decide)) (fieldFin w 46 6 64 (by decide)))
  | 0x10 => some (.raise core (BitVec.ofNat 8 (bitsAt w 50 8)) (BitVec.ofNat 32 (bitsAt w 0 32)))
  | 0x11 => some (.end_ core)
  | _ => none

/-- Whether a word's own fields break its format (R51, R52, R54, R365, R367, R368, R370). -/
def wordBad (w : Nat) : Bool :=
  match mcfReserved (mcfOpcode w) with
  | none => true
  | some r =>
    decide (bitsAt w r.1 r.2 ≠ 0) ||
    match mcfOpcode w with
    | 0x01 => decide (5 < issueEngine w) || (decide (48 ≤ issueWatch w) && decide (issueWatch w ≤ 62))
    | 0x02 => decide (loopCount w = 0) && !loopFromWork w
    | 0x08 => bitAt w 57 && decide (bitsAt w 42 15 ≠ 0)
    | 0x0A => decide (47 < waitWatch w) || decide (bitsAt w 50 2 = 3)
    | 0x0B => decide (383 < signalCore w) || decide (47 < signalWatch w) || decide (bitsAt w 26 16 = 0) || (!signalRemote w && decide (bitsAt w 12 14 ≠ 0))
    | 0x0D =>
      if barrierDomain w then decide (barrierCluster w ≠ 0) || decide (barrierIndex w = 0) || decide (15 < barrierIndex w)
      else decide (11 < barrierCluster w)
    | _ => false

/-- The LOOPs of a program: program counter, counter, END_PC, largest value at load (R54, R124). -/
def programLoops (ws : List Nat) : List (Nat × Nat × Nat × Nat) :=
  (ws.zipIdx.filter fun x => decide (mcfOpcode x.1 = 0x02)).map fun x =>
    (x.2, loopCounter x.1, loopEnd x.1, if loopFromWork x.1 then 0 else loopCount x.1 - 1)

/-- The loops whose body holds a command. -/
def enclosing (ls : List (Nat × Nat × Nat × Nat)) (pc : Nat) : List (Nat × Nat × Nat × Nat) :=
  ls.filter fun l => decide (l.1 < pc) && decide (pc ≤ l.2.2.1)

/-- Whether a command breaks a rule that the whole program decides (R51, R52, R54, R55). -/
def commandBad (n : Nat) (ls : List (Nat × Nat × Nat × Nat)) (w pc : Nat) : Bool :=
  wordBad w ||
  match mcfOpcode w with
  | 0x01 => decide (issueBind w ≠ 0) && !(enclosing ls pc).any fun l => decide (l.2.1 + 1 = issueBind w)
  | 0x02 =>
    let out := enclosing ls pc
    decide (loopEnd w ≤ pc) || decide (n ≤ loopEnd w) || decide (8 ≤ out.length)
      || out.any fun l => decide (l.2.1 = loopCounter w) || decide (l.2.2.1 < loopEnd w)
  | 0x03 =>
    let t := branchTarget w
    decide (n ≤ t) || (enclosing ls t).any fun l => !(decide (l.1 < pc) && decide (pc ≤ l.2.2.1))
  | _ => false

/-- Whether a program's last command may be the last (R51). -/
def lastOk (w : Nat) : Bool :=
  decide (mcfOpcode w = 0x11) || (decide (mcfOpcode w = 0x03) && decide (bitsAt w 54 4 = 15) && bitAt w 53)

/-- The program counters of the commands that fail COMMAND, whatever core runs them (R51). -/
def programFaults (ws : List Nat) : List Nat :=
  let n := ws.length
  let ls := programLoops ws
  ((ws.zipIdx.filter fun x => commandBad n ls x.1 x.2).map (·.2))
    ++ (if lastOk (ws.getD (n - 1) 0) then [] else [n - 1])

/-- The largest value that a program's ISSUEs bind to a descriptor (R124). -/
def boundMax (ws : List Nat) (desc : Nat) : Nat :=
  let ls := programLoops ws
  ws.zipIdx.foldl (fun m x =>
    if mcfOpcode x.1 = 0x01 ∧ issueDesc x.1 = desc ∧ issueBind x.1 ≠ 0 then
      (((enclosing ls x.2).filter fun l => decide (l.2.1 + 1 = issueBind x.1)).map fun l => l.2.2.2).foldl max m
    else m) 0

end Sys2Proof.Machine
end

