-- ==== Sys2Proof/Machine/Sections.lean ====
section
/-!
DEFINITION. The other sections of a bundle: REQUIREMENTS (R38, R660), STEP_PROGRAMS and DESCRIPTORS framing (R48, R115),
SYNC_ASSIGN (R364), SAMPLER_PLANS (R180 to R182), FLOW_DEFS (R338, R339) and KILN_RULES (R295 to R300, R311, R312).
-/

namespace Sys2Proof.Machine

/-! ### REQUIREMENTS (R660) -/

/-- The fields of a PORTS entry, and of the record, as offset and size; reserved bytes are left out (R43, R44, R660). -/
def portFields : List (Nat × Nat) := [(0, 2), (2, 1), (3, 1), (4, 1), (5, 1), (6, 2), (8, 4), (12, 1)]
def recordFields : List (Nat × Nat) :=
  [(0x000, 4), (0x004, 2), (0x006, 2), (0x008, 2), (0x00A, 2), (0x00C, 4), (0x010, 4), (0x014, 8), (0x01C, 2), (0x01E, 1),
   (0x01F, 1), (0x020, 1), (0x021, 1), (0x022, 1), (0x024, 2), (0x026, 2), (0x028, 2), (0x02A, 2), (0x02C, 1), (0x02D, 1),
   (0x02E, 1), (0x02F, 1), (0x030, 1), (0x031, 1), (0x032, 1), (0x033, 1), (0x034, 2), (0x036, 2), (0x038, 4), (0x03C, 4),
   (0x040, 2), (0x042, 2), (0x044, 2), (0x046, 2), (0x048, 1), (0x049, 1), (0x04A, 1), (0x04C, 2), (0x04E, 2), (0x050, 2),
   (0x052, 2), (0x054, 2), (0x058, 8), (0x060, 8), (0x068, 32), (0x400, 1), (0x401, 1), (0x402, 6), (0x410, 32)]

/-- Bytes compared at a RECORD_OFFSET; 0 where it names no field. -/
def requirementWidth (o : Nat) : Nat :=
  let at' := fun (base : Nat) (fs : List (Nat × Nat)) =>
    (fs.find? fun f => decide (base + f.1 ≤ o) && decide (o < base + f.1 + f.2)).elim 0 fun f => min 8 (base + f.1 + f.2 - o)
  if 0x100 ≤ o ∧ o < 0x400 then at' (0x100 + (o - 0x100) / 16 * 16) portFields else at' 0 recordFields

/-- The entries of REQUIREMENTS: RECORD_OFFSET, COMPARE, VALUE. -/
def requirementsOf (b : List Byte) : List (Nat × Nat × Nat) :=
  (List.range (b.length / 16)).map fun i => (leAt b (16 * i) 2, leAt b (16 * i + 2) 1, leAt b (16 * i + 8) 8)

/-- Whether a requirement holds against a record. -/
def requirementMet (record : List Byte) (r : Nat × Nat × Nat) : Bool :=
  let v := leAt record r.1 (requirementWidth r.1)
  if r.2.1 = 0 then decide (r.2.2 ≤ v) else if r.2.1 = 1 then decide (v = r.2.2) else decide (v &&& r.2.2 = r.2.2)

/-- Problems of REQUIREMENTS. -/
def requirementProblems (env : LoadEnv) (s : Section) : List (Nat × Nat) :=
  if s.bytes.length % 16 ≠ 0 then [(0x01, s.offset)]
  else (requirementsOf s.bytes).zipIdx.flatMap fun r =>
    let w := requirementWidth r.1.1
    if w = 0 ∨ 2 < r.1.2.1 ∨ 2 ^ (8 * w) ≤ r.1.2.2 ∨ allZero (slice s.bytes (16 * r.2 + 3) 5) = false then [(0x01, s.offset + 16 * r.2)]
    else if requirementMet env.record r.1 then [] else [(0x07, s.offset + 16 * r.2)]

/-! ### STEP_PROGRAMS and DESCRIPTORS -/

/-- The roles of STEP_PROGRAMS from section offset `o`; `fuel` bounds their number. The Boolean says that the section is
malformed at the last offset. -/
def rolesFrom (s : Section) : Nat → Nat → List RoleItem → List RoleItem × Option Nat
  | 0, _, acc => (acc, none)
  | n + 1, o, acc =>
    let b := s.bytes
    if b.length ≤ o then (acc, none)
    else
      let cnt := leAt b (o + 2) 2
      let id := leAt b o 1
      if b.length < o + 8 ∨ cnt = 0 ∨ 8192 < cnt ∨ b.length < o + 8 + 8 * cnt ∨ leAt b (o + 1) 1 ≠ 0 ∨ 63 < id
          ∨ acc.any (fun r => decide (r.role.id = id)) then (acc, some (s.offset + o))
      else
        let ev := leAt b (o + 6) 2
        rolesFrom s n (o + 8 + 8 * cnt) (acc ++ [{
          offset := s.offset + o
          role := { id := id, entryPc := leAt b (o + 4) 2, evalPc := if ev = 0xFFFF then none else some ev
                    words := (List.range cnt).map fun i => BitVec.ofNat 64 (leAt b (o + 8 + 8 * i) 8) } }])

/-- The roles of a section. -/
def rolesOf (s : Section) : List RoleItem := (rolesFrom s 65 0 []).1

/-- Problems of STEP_PROGRAMS: its layout, and each role by itself (R51). -/
def roleProblems (s : Section) : List (Nat × Nat) :=
  let r := rolesFrom s 65 0 []
  r.2.elim [] (fun o => [(0x01, o)]) ++ r.1.flatMap fun x =>
    let ws := x.role.words.map (·.toNat)
    (if ws.length ≤ x.role.entryPc ∨ x.role.evalPc.elim false (fun p => decide (ws.length ≤ p)) then [(0x12, x.offset)] else [])
      ++ (programFaults ws).map fun pc => (0x12, x.offset + 8 + 8 * pc)

/-- The cores of DESCRIPTORS from section offset `o` (R115; assumption 44). -/
def coresFrom (s : Section) : Nat → Nat → List CoreItem → List CoreItem × Option Nat
  | 0, _, acc => (acc, none)
  | n + 1, o, acc =>
    let b := s.bytes
    if b.length ≤ o then (acc, none)
    else
      let core := leAt b o 2
      let cnt := leAt b (o + 2) 2
      if b.length < o + 16 ∨ 383 < core ∨ 2048 < cnt ∨ b.length < o + 16 + 64 * cnt ∨ leAt b (o + 4) 4 ≠ 0
          ∨ acc.any (fun r => decide (r.core = core)) then (acc, some (s.offset + o))
      else coresFrom s n (o + 16 + 64 * cnt) (acc ++ [{
        offset := s.offset + o, core := core, context := slice b (o + 8) 8
        descs := (List.range cnt).map fun i => slice b (o + 16 + 64 * i) 64 }])

/-- The cores of a section. -/
def coreItems (s : Section) : List CoreItem := (coresFrom s 385 0 []).1

/-- The cores of a partition's dies. -/
def LoadEnv.cores (env : LoadEnv) : List Nat := env.dies.flatMap fun d => (List.range 96).map (d * 96 + ·)

/-- Problems of the framing of DESCRIPTORS: its layout, contexts (R115) and cores outside the partition. -/
def coreProblems (env : LoadEnv) (s : Section) : List (Nat × Nat) :=
  let r := coresFrom s 385 0 []
  r.2.elim [] (fun o => [(0x01, o)]) ++ r.1.flatMap fun x =>
    (if x.context.any fun c => decide (4 ≤ c.toNat) then [(0x01, x.offset + 8)] else [])
      ++ (if env.dies.contains (dieOfCore x.core) then [] else [(0x08, x.offset + 8)])

/-- Problems of ROLE_MAP. -/
def roleMapProblems (env : LoadEnv) (roles : List RoleItem) (s : Section) : List (Nat × Nat) :=
  (if s.bytes.length ≠ 384 then [(0x01, s.offset)] else [])
    ++ ((s.bytes.zipIdx.filter fun x => decide (x.1.toNat ≠ 0xFF) &&
        (!(env.dies.contains (dieOfCore x.2)) || !(roles.any fun r => decide (r.role.id = x.1.toNat)))).map
          fun x => (0x08, s.offset + x.2))

/-! ### SYNC_ASSIGN (R364) -/

def syncQueueBase : Nat := 16
def syncWatchBase : Nat := 16 + 384 * 16
def syncBarBase : Nat := syncWatchBase + 384 * 8

/-- Queue `q`'s pair in the queue map. -/
def queueMapOf (b : List Byte) : List (List Nat) :=
  (List.range 384).map fun c => (slice b (syncQueueBase + 16 * c) 16).map (·.toNat)
/-- The watch masks. -/
def watchMasksOf (b : List Byte) : List Nat := (List.range 384).map fun c => leAt b (syncWatchBase + 8 * c) 8
/-- Die barriers: die, cluster, index, participant mask by core in die. -/
def dieBarsOf (b : List Byte) : List (Nat × Nat × Nat × Nat) :=
  (List.range (leAt b 0 2)).map fun i =>
    let o := syncBarBase + 16 * i
    (leAt b o 1, leAt b (o + 1) 1, leAt b (o + 2) 1, leAt b (o + 4) 12)
/-- Domain barriers: index and participant mask by module-wide core. -/
def domBarsOf (b : List Byte) : List (Nat × Nat) :=
  (List.range (leAt b 2 1)).map fun i =>
    let o := syncBarBase + 16 * leAt b 0 2 + 64 * i
    (leAt b o 1, leAt b (o + 8) 48)

/-- Whether the layout of SYNC_ASSIGN is malformed. -/
def syncHeaderBad (b : List Byte) : Bool :=
  decide (b.length < syncBarBase + 16 * leAt b 0 2 + 64 * leAt b 2 1) || decide (3072 < leAt b 0 2) || decide (15 < leAt b 2 1)
    || !(allZero (slice b 3 13))

/-- The bits of a mask. -/
def maskBits (n v : Nat) : List Nat := numbersWhere n (bitAt v)

/-- Problems of SYNC_ASSIGN. -/
def syncProblems (env : LoadEnv) (s : Section) : List (Nat × Nat) :=
  let b := s.bytes
  if syncHeaderBad b then [(0x01, s.offset)]
  else
    let dbs := dieBarsOf b
    let ms := domBarsOf b
    ((queueMapOf b).zipIdx.flatMap fun q =>
        (q.1.zipIdx.filter fun v => decide (4 < v.1)).map fun v => (0x0D, s.offset + syncQueueBase + 16 * q.2 + v.2))
      ++ ((watchMasksOf b).zipIdx.flatMap fun m => if 2 ^ 48 ≤ m.1 then [(0x0E, s.offset + syncWatchBase + 8 * m.2)] else [])
      ++ (dbs.zipIdx.flatMap fun (d : (Nat × Nat × Nat × Nat) × Nat) =>
        let o := syncBarBase + 16 * d.2
        let same := (dbs.take d.2).filter fun x => decide (x.1 = d.1.1) && decide (x.2.1 = d.1.2.1)
        (if 63 < d.1.2.2.1 ∨ 64 ≤ same.length then [(0x0E, s.offset + o)] else [])
          ++ (if env.dies.contains d.1.1 = false ∨ 11 < d.1.2.1 ∨ d.1.2.2.2 = 0 ∨ leAt b (o + 3) 1 ≠ 0
                ∨ same.any (fun x => decide (x.2.2.1 = d.1.2.2.1)) then [(0x01, s.offset + o)] else []))
      ++ ms.zipIdx.flatMap fun d =>
        let o := syncBarBase + 16 * dbs.length + 64 * d.2
        if d.1.1 = 0 ∨ 15 < d.1.1 ∨ d.1.2 = 0 ∨ (ms.take d.2).any (fun x => decide (x.1 = d.1.1))
            ∨ (maskBits 384 d.1.2).any (fun c => !(env.dies.contains (dieOfCore c)))
            ∨ allZero (slice b (o + 1) 7) = false ∨ allZero (slice b (o + 56) 8) = false then [(0x01, s.offset + o)] else []

/-! ### SAMPLER_PLANS (R180 to R182) -/

/-- A hop record (R181). -/
def parseHop (h : List Byte) : Hop :=
  { mode := leAt h 0 1, fanout := leAt h 1 1, recent := bitAt (leAt h 2 1) 0, inherit := bitAt (leAt h 2 1) 1
    window := leAt h 4 4, typeMask := leAt h 8 32, layerSize := leAt h 40 2 }
/-- A plan record (R180). -/
def parsePlan (p : List Byte) : Plan :=
  { id := leAt p 0 1, hops := leAt p 1 1, negCount := leAt p 2 1, graph := leAt p 4 4, nodeCap := leAt p 8 4
    edgeCap := leAt p 12 4, negLo := leAt p 16 8, negHi := leAt p 24 8
    hop := (List.range (min 4 (leAt p 1 1))).map fun i => parseHop (slice p (64 + 48 * i) 48) }
/-- The plan records of a section. -/
def planRaws (b : List Byte) : List (List Byte) := (List.range (leAt b 0 2)).map fun i => slice b (16 + 256 * i) 256
/-- The plans of a section. -/
def plansOf (b : List Byte) : List Plan := (planRaws b).map parsePlan

/-- Whether a hop record breaks R181 or R182. -/
def hopBad (h : List Byte) : Bool :=
  let x := parseHop h
  decide (4 < x.mode) || decide (leAt h 2 1 / 4 ≠ 0) || decide (leAt h 3 1 ≠ 0) || !(allZero (slice h 42 6))
    || (if x.mode ≤ 2 then decide (x.fanout = 0) else decide (x.fanout ≠ 0))
    || (if x.mode = 4 then decide (x.layerSize = 0) || decide (4096 < x.layerSize) else decide (x.layerSize ≠ 0))
    || (x.recent && decide (x.mode ≠ 2))

/-- Problems of SAMPLER_PLANS. -/
def planProblems (ts : List Tensor) (s : Section) : List (Nat × Nat) :=
  let b := s.bytes
  let n := leAt b 0 2
  if n = 0 ∨ 256 < n ∨ allZero (slice b 2 14) = false ∨ b.length < 16 + 256 * n then [(0x01, s.offset)]
  else
    let ps := plansOf b
    (planRaws b).zipIdx.flatMap fun r =>
      let p := parsePlan r.1
      let o := s.offset + 16 + 256 * r.2
      (if 4 < p.hops ∨ p.hop.any (fun h => decide (64 < h.fanout)) then [(0x11, o)] else [])
        ++ (if p.hops = 0 ∨ 64 < p.negCount ∨ (p.negCount ≠ 0 ∧ p.negHi ≤ p.negLo)
              ∨ (ps.take r.2).any (fun x => decide (x.id = p.id)) ∨ p.nodeCap = 0 ∨ 2 ^ 24 < p.nodeCap ∨ 2 ^ 24 < p.edgeCap
              ∨ leAt r.1 3 1 ≠ 0 ∨ allZero (slice r.1 32 32) = false
              ∨ (List.range (min 4 p.hops)).any (fun i => hopBad (slice r.1 (64 + 48 * i) 48))
              ∨ allZero (r.1.drop (64 + 48 * min 4 p.hops)) = false
              ∨ (ts.find? fun x => decide (x.id = p.graph)).elim true (fun x => !x.versioned || decide (x.recipe.kind = 4))
            then [(0x01, o)] else [])

/-! ### FLOW_DEFS (R338, R339) -/

/-- A flow record (R338). -/
def parseFlow (r : List Byte) : FlowDef :=
  let opt := fun (v none' : Nat) => if v = none' then none else some v
  { flow := leAt r 0 2, priority := leAt r 2 1, service := leAt r 3 1, sampler := decide (leAt r 4 1 = 1)
    eval := bitAt (leAt r 5 1) 0, collect := bitAt (leAt r 5 1) 1, fromMem := bitAt (leAt r 5 1) 2, window := leAt r 6 2
    chained := decide (leAt r 8 1 = 1), releaseWatch := opt (leAt r 9 1) 0xFF, upstream := opt (leAt r 10 2) 0xFFFF
    count := leAt r 12 4, listBase := leAt r 16 8, countAddr := leAt r 24 8, resultBase := opt (leAt r 32 8) allOnes64
    releaseCore := opt (leAt r 40 2) 0xFFFF }
/-- The records of a section, and the flows. -/
def flowRaws (b : List Byte) : List (List Byte) := (List.range (leAt b 0 2)).map fun i => slice b (16 + 64 * i) 64
def flowsOf (b : List Byte) : List FlowDef := (flowRaws b).map parseFlow

/-- The list flow at the head of a chain; none for an absent upstream or a cycle. `fuel` is the number of flows. -/
def flowHead (fs : List FlowDef) : Nat → FlowDef → Option FlowDef
  | 0, _ => none
  | n + 1, f => if f.chained then (f.upstream.bind fun u => fs.find? fun x => decide (x.flow = u)).bind (flowHead fs n) else some f

/-- Whether a local address's range lies in its memory: HBM below `limit`, or the cluster store (R265). -/
def localInside (limit a n : Nat) : Bool :=
  if 2 ^ 63 ≤ a then decide (a - 2 ^ 63 + n ≤ storeBytes) else decide (a + n ≤ limit)

/-- The partition HBM ranges that a flow reaches: its count and its results (R338). -/
def FlowDef.ranges (fs : List FlowDef) (f : FlowDef) : List (Nat × Nat) :=
  let c := (flowHead fs (fs.length + 1) f).elim 0 (·.count)
  (if f.fromMem then [(f.countAddr, 8)] else []) ++ f.resultBase.elim [] fun r => [(r, 8 * c)]

/-- Whether every range of a flow lies in its memory, the HBM below `limit`; only its list may lie in the cluster store (R338). -/
def FlowDef.inside (fs : List FlowDef) (limit : Nat) (f : FlowDef) : Bool :=
  (f.chained || localInside limit f.listBase (64 * f.count)) && (f.ranges fs).all fun x => decide (x.1 + x.2 ≤ limit)

/-- Problems of FLOW_DEFS. -/
def flowProblems (env : LoadEnv) (floor : Nat) (masks : List Nat) (s : Section) : List (Nat × Nat) :=
  let b := s.bytes
  let n := leAt b 0 2
  if n = 0 ∨ 1024 < n ∨ allZero (slice b 2 14) = false ∨ b.length < 16 + 64 * n then [(0x01, s.offset)]
  else
    let fs := flowsOf b
    (flowRaws b).zipIdx.flatMap fun r =>
      let f := parseFlow r.1
      let o := s.offset + 16 + 64 * r.2
      let up := f.upstream.bind fun u => fs.find? fun x => decide (x.flow = u)
      let die := f.flow / 256
      (if f.window = 0 ∨ 7 < f.priority ∨ 14 < f.service ∨ (f.sampler ∧ f.service ≠ 0) ∨ 1 < leAt r.1 4 1 ∨ 7 < leAt r.1 5 1
            ∨ 1 < leAt r.1 8 1 ∨ (fs.take r.2).any (fun x => decide (f.flow ≤ x.flow)) ∨ 1023 < f.flow
            ∨ env.dies.contains die = false
            ∨ (if f.chained then f.count ≠ 0 ∨ up.elim true (fun u => decide (u.flow / 256 ≠ die) || decide (u.eval ≠ f.eval))
                  ∨ (flowHead fs (fs.length + 1) f).isNone
               else f.upstream.isSome ∨ f.count = 0 ∨ 2 ^ 24 ≤ f.count)
            ∨ ((fs.any fun x => x.chained && decide (x.upstream = some f.flow)) ∧ f.resultBase.isNone)
            ∨ (f.collect ∧ f.sampler) ∨ f.releaseCore.elim false (fun c => !(env.cores.contains c))
            ∨ f.releaseWatch.elim false (fun w => decide (47 < w))
            ∨ f.inside fs env.capacity = false ∨ allZero (slice r.1 42 22) = false
          then [(0x01, o)] else [])
        ++ (if f.inside fs floor = false then [(0x0B, o)] else [])
        ++ (match f.releaseWatch, f.releaseCore with
            | some w, some c => if w ≤ 47 ∧ bitAt (masks.getD c 0) w = false then [(0x0E, o)] else []
            | _, _ => [])
        ++ (if 4096 < f.window ∨ 256 ≤ ((fs.take r.2).filter fun x => decide (x.flow / 256 = die)).length then [(0x0F, o)] else [])

/-! ### KILN_RULES (R295 to R300, R311, R312) -/

/-- A group entry (R297). -/
def parseKilnEntry (e : List Byte) : KilnEntry :=
  { tensor := leAt e 0 4, rowTable := decide (leAt e 4 1 = 1), transpose := bitAt (leAt e 5 1) 0, noDecay := bitAt (leAt e 5 1) 1
    rows := leAt e 8 4, cols := leAt e 12 4, versionOffset := leAt e 16 8, cellar := leAt e 24 8 }
/-- The entries of a rule's group, with their section offsets. -/
def kilnEntryRaws (b r : List Byte) : List (Nat × List Byte) :=
  (List.range (leAt r 4 2)).map fun i => (leAt r 12 4 + 32 * i, slice b (leAt r 12 4 + 32 * i) 32)
/-- A rule (R296). -/
def parseKilnRule (b r : List Byte) : KilnRule :=
  let opt := fun (v : Nat) => if v = 0xFFFF then none else some v
  { kind := leAt r 0 1, nesterov := bitAt (leAt r 1 1) 0, lookback := bitAt (leAt r 1 1) 1, stateCount := leAt r 2 1
    prog := (List.range (leAt r 3 1)).map fun i =>
      let o := leAt r 52 4 + 4 * i
      (leAt b o 1, leAt b (o + 1) 1, leAt b (o + 2) 1, leAt b (o + 3) 1)
    entries := (kilnEntryRaws b r).map fun e => parseKilnEntry e.2
    schedLr := opt (leAt r 6 2), schedWd := opt (leAt r 8 2), nsSteps := leAt r 10 1, lr := leAt r 16 4, wd := leAt r 20 4
    beta1 := leAt r 24 4, beta2 := leAt r 28 4, eps := leAt r 32 4, gscale := leAt r 36 4, nsA := leAt r 40 4
    nsB := leAt r 44 4, nsC := leAt r 48 4, consts := (List.range 8).map fun i => leAt r (56 + 4 * i) 4 }
/-- The rule records and the rules of a section. -/
def kilnRuleRaws (b : List Byte) : List (List Byte) := (List.range (leAt b 0 2)).map fun i => slice b (32 + 128 * i) 128
def kilnRulesOf (b : List Byte) : List KilnRule := (kilnRuleRaws b).map (parseKilnRule b)
/-- The schedules: their directory entries with section offsets, and the points as step and value. -/
def scheduleRaws (b : List Byte) : List (Nat × List Byte) :=
  (List.range (leAt b 2 2)).map fun i => (32 + 128 * leAt b 0 2 + 8 * i, slice b (32 + 128 * leAt b 0 2 + 8 * i) 8)
def schedulePoints (b : List Byte) (d : List Byte) : List (Nat × Nat) :=
  (List.range (leAt d 0 2)).map fun i => (leAt b (leAt d 4 4 + 16 * i) 8, leAt b (leAt d 4 4 + 16 * i + 8) 4)
def schedulesOf (b : List Byte) : List (List (Nat × Nat)) := (scheduleRaws b).map fun d => schedulePoints b d.2

/-- FP32 state tensors per element of a rule, without LOOKBACK's second copy (R299, R305 to R309). -/
def KilnRule.states (r : KilnRule) : Nat := if r.kind = 1 then 2 else if r.kind = 2 then 0 else if r.kind = 5 then r.stateCount else 1
/-- Copies of each state tensor. -/
def KilnRule.copies (r : KilnRule) : Nat := if r.lookback then 2 else 1
/-- Bytes of a row-table record (R300). -/
def KilnRule.recordBytes (r : KilnRule) (dim : Nat) : Nat :=
  roundUp (6 * dim + (if r.kind = 2 then 4 else 4 * dim * r.states * r.copies)) 64
/-- Migrant slots of a row-table block (R300), the bytes of one, and where they begin in a block of `rows` records. -/
def migrantSlots : Nat := 65536
def KilnRule.slotBytes (r : KilnRule) (dim : Nat) : Nat := roundUp (16 + r.recordBytes dim) 64
def KilnRule.slotsFrom (r : KilnRule) (dim rows : Nat) : Nat := 64 + rows * r.recordBytes dim + roundUp (ceilDiv rows 8) 64

/-- Bytes of an entry's state block at a module that homes `n` elements, or `rows` rows (R299, R300). -/
def KilnRule.blockBytes (r : KilnRule) (e : KilnEntry) (elements rows : Nat) : Nat :=
  if e.rowTable then r.slotsFrom e.cols rows + migrantSlots * r.slotBytes e.cols
  else 64 + roundUp (6 * elements) 64 + r.states * r.copies * roundUp (4 * elements) 64

/-- Whether an FP32 pattern is finite. -/
def finite32 (v : Nat) : Bool := decide (bitsAt v 23 8 ≠ 255)

/-- Operands of an operation of R312: registers read, whether it writes a register, states and constants named, and which
of DST, SRC1 and SRC2 are used; none for another OP. -/
def progShape : Nat → Option (List Nat × Bool × Bool × Bool × Bool)
  | 0x01 | 0x02 | 0x06 | 0x07 => some ([], true, true, false, false)
  | 0x03 | 0x04 | 0x05 => some ([], true, true, true, false)
  | 0x10 | 0x11 | 0x12 | 0x13 | 0x18 | 0x19 => some ([1, 2], true, true, true, true)
  | 0x14 | 0x15 | 0x16 | 0x17 => some ([1], true, true, true, false)
  | 0x20 => some ([1], false, true, true, false)
  | 0x21 => some ([1], false, false, true, false)
  | _ => none

/-- Whether a program breaks R312: walks the operations with the registers written and the states stored so far. -/
def progBad (states : Nat) (lookback : Bool) : List (Nat × Nat × Nat × Nat) → List Nat → List Nat → Bool
  | [], _, _ => true
  | (op, dst, s1, s2) :: r, written, stored =>
    match progShape op with
    | none => true
    | some (reads, writes, useD, use1, use2) =>
      let regs := reads.map fun i => if i = 1 then s1 else s2
      (!useD && decide (dst ≠ 0)) || (!use1 && decide (s1 ≠ 0)) || (!use2 && decide (s2 ≠ 0))
        || regs.any (fun x => decide (7 < x) || !(written.contains x)) || (writes && decide (7 < dst))
        || ((decide (op = 0x03) || decide (op = 0x04)) && decide (states ≤ s1)) || (decide (op = 0x05) && decide (7 < s1))
        || (decide (op = 0x04) && !lookback) || (decide (op = 0x20) && (decide (states ≤ dst) || stored.contains dst))
        || (if op = 0x21 then !r.isEmpty
            else progBad states lookback r (if writes then dst :: written else written) (if op = 0x20 then dst :: stored else stored))

/-- Whether a rule record breaks R296 or R298, its entries apart. -/
def kilnRuleBad (b raw : List Byte) (r : KilnRule) : Bool :=
  let fl := leAt raw 1 1
  let ns := leAt b 2 2
  decide (5 < r.kind) || decide (3 < fl) || (r.nesterov && decide (r.kind ≠ 0) && decide (r.kind ≠ 4))
    || (r.lookback && decide (r.kind ≠ 5))
    || (if r.kind = 5 then decide (4 < r.stateCount) || decide (r.prog.length = 0) || decide (32 < r.prog.length)
          || decide (b.length < leAt raw 52 4 + 4 * r.prog.length) || progBad r.stateCount r.lookback r.prog [] []
        else decide (r.stateCount ≠ 0) || decide (leAt raw 3 1 ≠ 0))
    || (if r.kind = 4 then decide (r.nsSteps = 0) || decide (15 < r.nsSteps) else decide (r.nsSteps ≠ 0))
    || decide (leAt raw 4 2 = 0) || decide (leAt raw 11 1 ≠ 0) || !(allZero (slice raw 88 40))
    || r.schedLr.elim false (fun s => decide (ns ≤ s)) || r.schedWd.elim false (fun s => decide (ns ≤ s))
    || (decide (r.kind = 2) && decide (r.wd % 2 ^ 31 ≠ 0)) || decide (b.length < leAt raw 12 4 + 32 * leAt raw 4 2)

/-- Whether an entry of a rule breaks R297, R298 or R311; `seen` are the tensors named before it. -/
def kilnEntryBad (ts : List Tensor) (m : Nat) (r : KilnRule) (raw : List Byte) (e : KilnEntry) (seen : List Nat) : Bool :=
  match ts.find? fun x => decide (x.id = e.tensor) with
  | none => true
  | some x =>
    let lo := min e.rows e.cols
    let hi := max e.rows e.cols
    !x.versioned || decide (1 < leAt raw 4 1) || decide (x.recipe.kind ≠ (if e.rowTable then 4 else 0)) || decide (3 < leAt raw 5 1)
      || !(allZero (slice raw 6 2)) || seen.contains e.tensor || decide (e.versionOffset ≠ 0) || decide (e.rows ≠ x.rows)
      || decide (e.cols ≠ x.cols) || (e.rowTable && (decide (r.kind = 1) || decide (r.kind = 4)))
      || (!e.rowTable && decide (r.kind = 2))
      || (decide (r.kind = 4) && (decide (12582912 < lo * hi + 2 * lo ^ 2)
          || (x.map.isSome && decide (1 < ((List.range m).filter fun d => let h := x.homeRange m d; decide (h.1 < h.2)).length))))

/-- The entries of a section with their bundle offsets, rules and raw bytes, in order. -/
def kilnItems (s : Section) : List (Nat × KilnRule × List Byte × KilnEntry) :=
  (kilnRuleRaws s.bytes).flatMap fun r =>
    let rule := parseKilnRule s.bytes r
    if kilnRuleBad s.bytes r rule then []
    else (kilnEntryRaws s.bytes r).map fun e => (s.offset + e.1, rule, e.2, parseKilnEntry e.2)

/-- The block of an entry in the cellar, as first byte and length. -/
def kilnBlock (env : LoadEnv) (ts : List Tensor) (r : KilnRule) (e : KilnEntry) : Nat × Nat :=
  let x := (ts.find? fun x => decide (x.id = e.tensor)).getD {}
  let h := x.homeRange env.positions env.dense
  (e.cellar, r.blockBytes e ((h.2 - h.1) * x.cols) (h.2 - h.1))

/-- Problems of KILN_RULES. -/
def kilnProblems (env : LoadEnv) (ts : List Tensor) (s : Section) : List (Nat × Nat) :=
  let b := s.bytes
  let nr := leAt b 0 2
  let ns := leAt b 2 2
  (if 256 < nr then [(0x10, s.offset)] else []) ++
  if nr = 0 ∨ 256 < ns ∨ allZero (slice b 4 28) = false ∨ b.length < 32 + 128 * nr + 8 * ns then [(0x01, s.offset)]
  else
    let items := kilnItems s
    ((scheduleRaws b).flatMap fun d =>
      if 1024 < leAt d.2 0 2 then [(0x10, s.offset + d.1)]
      else if leAt d.2 0 2 = 0 ∨ leAt d.2 2 2 ≠ 0 ∨ b.length < leAt d.2 4 4 + 16 * leAt d.2 0 2 then [(0x01, s.offset + d.1)]
      else
        let ps := schedulePoints b d.2
        (ps.zipIdx.filter fun p => decide (0 < p.2 ∧ p.1.1 ≤ (ps.getD (p.2 - 1) (0, 0)).1) || !(finite32 p.1.2)
            || !(allZero (slice b (leAt d.2 4 4 + 16 * p.2 + 12) 4))).map fun p => (0x01, s.offset + leAt d.2 4 4 + 16 * p.2))
      ++ ((kilnRuleRaws b).zipIdx.flatMap fun r =>
        (if 4096 < leAt r.1 4 2 then [(0x10, s.offset + 32 + 128 * r.2)] else [])
          ++ (if kilnRuleBad b r.1 (parseKilnRule b r.1) then [(0x01, s.offset + 32 + 128 * r.2)] else []))
      ++ items.zipIdx.flatMap fun i =>
        let o := i.1.1
        let e := i.1.2.2.2
        let blk := kilnBlock env ts i.1.2.1 e
        let before := items.take i.2
        (if kilnEntryBad ts env.positions i.1.2.1 i.1.2.2.1 e (before.map fun x => x.2.2.2.tensor)
              ∨ before.any (fun x =>
                let y := kilnBlock env ts x.2.1 x.2.2.2
                rangesMeet blk.1 blk.2 y.1 y.2) then [(0x01, o)] else [])
          ++ (if env.cellar < blk.1 + blk.2 + env.reserve then [(0x0C, o)] else [])

end Sys2Proof.Machine
end

