-- ==== Sys2Proof/Machine/Trans.lean ====
section
/-!
DEFINITION. SQRT, RSQRT, EXP, LOG, TANH and SIGMOID: the exact mathematical value rounded once (R133). The exact value
is enclosed between two fractions of growing precision until both round alike.
-/

namespace Sys2Proof.Machine

/-- Two fractions that enclose a positive real: (numerator, denominator) below and above. -/
abbrev Encl := (Nat × Nat) × (Nat × Nat)

/-- ⌊√n⌋ by Newton's method from above, at most `fuel` steps. -/
def isqrtFrom (n : Nat) : Nat → Nat → Nat
  | 0, x => x
  | f + 1, x => let y := (x + n / x) / 2; if y < x then isqrtFrom n f y else x

/-- ⌊√n⌋. -/
def isqrt (n : Nat) : Nat := if n = 0 then 0 else isqrtFrom n (Nat.log2 n + 8) (2 ^ (Nat.log2 n / 2 + 1))

/-- Rounds the positive real that `encl k` encloses ever more closely; `fuel` bounds the refinements. -/
def refine (f : Flt) (ctx : Ctx) (mode : RMode) (neg : Bool) (encl : Nat → Encl) : Nat → Nat → Val × Nat
  | 0, p => f.ratResult ctx mode neg (encl p).1.1 (encl p).1.2
  | fuel + 1, p =>
    let e := encl p
    let lo := f.ratResult ctx mode neg e.1.1 e.1.2
    let hi := f.ratResult ctx mode neg e.2.1 e.2.2
    if lo = hi then lo else refine f ctx mode neg encl fuel (2 * p)

/-- The square root of num/den exactly when it is a fraction over 2^k, and otherwise a fraction that lies on the same
side of every grid point coarser than 2^-k as the root does. -/
def sqrtSticky (num den k : Nat) : Nat × Nat :=
  let n := num * 4 ^ k / den
  let s := isqrt n
  if s * s * den = num * 4 ^ k then (s, 2 ^ k) else (2 * s + 1, 2 ^ (k + 1))

/-- Bits that place a root's grid below any rounding grid. -/
def rootBits (num den : Nat) : Nat := 1200 + (Nat.log2 num + Nat.log2 den) / 2

/-- √P (R132, 0x0A). -/
def Flt.sqrt (f : Flt) (ctx : Ctx) (mode : RMode) : Val → Val × Nat
  | .nan s => (.nan false, if s then flInvalid else 0)
  | .inf n => if n then (.nan false, flInvalid) else (.inf false, 0)
  | .fin n m e =>
    if m = 0 then (.fin n 0 0, 0)
    else if n then (.nan false, flInvalid)
    else
      let r := ratOf m e
      let q := sqrtSticky r.1 r.2 (rootBits r.1 r.2)
      f.ratResult ctx mode false q.1 q.2

/-- 1/√P (R132, 0x0B). -/
def Flt.rsqrt (f : Flt) (ctx : Ctx) (mode : RMode) : Val → Val × Nat
  | .nan s => (.nan false, if s then flInvalid else 0)
  | .inf n => if n then (.nan false, flInvalid) else (.fin false 0 0, 0)
  | .fin n m e =>
    if m = 0 then (.inf n, flDivZero)
    else if n then (.nan false, flInvalid)
    else
      let r := ratOf m e
      let q := sqrtSticky r.2 r.1 (rootBits r.1 r.2)
      f.ratResult ctx mode false q.1 q.2

/-- Quotient rounded down and up. -/
def divLo (a b : Nat) : Nat := a / b
def divHi (a b : Nat) : Nat := (a + b - 1) / b

/-- Σ yⁿ/n! for y in [ylo, yhi]/2^p below 1/2, as bounds over 2^p; `n` counts terms. -/
def expSeries (p ylo yhi : Nat) : Nat → Nat → Nat × Nat → Nat × Nat → Nat × Nat
  | 0, _, _, sum => (sum.1, sum.2 + 2)
  | fuel + 1, n, t, sum =>
    let t' := (divLo (t.1 * ylo) (2 ^ p * n), divHi (t.2 * yhi) (2 ^ p * n))
    if t'.2 ≤ 1 then (sum.1, sum.2 + 4)
    else expSeries p ylo yhi fuel (n + 1) t' (sum.1 + t'.1, sum.2 + t'.2)

/-- Squares bounds over 2^p, `n` times. -/
def squareTimes (p : Nat) : Nat → Nat × Nat → Nat × Nat
  | 0, b => b
  | n + 1, b => squareTimes p n (divLo (b.1 * b.1) (2 ^ p), divHi (b.2 * b.2) (2 ^ p))

/-- e^(num/den) for a non-negative argument of at most 4,096, enclosed over 2^p. -/
def expEncl (num den p : Nat) : Encl :=
  let j := (if num = 0 then 0 else (ilog2 num den + 2).toNat)
  let d := den * 2 ^ j
  let ylo := divLo (num * 2 ^ p) d
  let yhi := divHi (num * 2 ^ p) d
  let s := expSeries p ylo yhi (2 * p + 8) 1 (2 ^ p, 2 ^ p) (2 ^ p, 2 ^ p)
  let b := squareTimes p j s
  ((b.1, 2 ^ p), (b.2, 2 ^ p))

/-- The reciprocal of an enclosure. -/
def Encl.recip (e : Encl) : Encl := ((e.2.2, e.2.1), (e.1.2, e.1.1))
/-- a + b for fractions. -/
def ratAdd (a b : Nat × Nat) : Nat × Nat := (a.1 * b.2 + b.1 * a.2, a.2 * b.2)
/-- a − b for fractions, 0 where b is larger. -/
def ratSub (a b : Nat × Nat) : Nat × Nat := (a.1 * b.2 - b.1 * a.2, a.2 * b.2)
/-- a × b for fractions. -/
def ratMul (a b : Nat × Nat) : Nat × Nat := (a.1 * b.1, a.2 * b.2)
/-- Whether a fraction is below 2^-64: an argument so small that the first terms of a series enclose the result. -/
def ratTiny (a : Nat × Nat) : Bool := decide (a.1 * 2 ^ 64 < a.2)
/-- Whether a fraction exceeds 3,000: an argument so large that every format has overflowed or vanished. -/
def ratHuge (a : Nat × Nat) : Bool := decide (3000 * a.2 < a.1)

/-- e^x with x = ±a: enclosed. -/
def expBounds (neg : Bool) (a : Nat × Nat) (p : Nat) : Encl :=
  if ratTiny a then
    -- 1 + x < e^x < 1 + x + x²
    if neg then (ratSub (1, 1) a, ratAdd (ratSub (1, 1) a) (ratMul a a))
    else (ratAdd (1, 1) a, ratAdd (ratAdd (1, 1) a) (ratMul a a))
  else if ratHuge a then
    if neg then ((1, 2 ^ 4000), (1, 2 ^ 3900)) else ((2 ^ 3900, 1), (2 ^ 4000, 1))
  else
    let e := expEncl a.1 a.2 p
    if neg then e.recip else e

/-- Starting precision and refinements. -/
def startBits : Nat := 160
def refineFuel : Nat := 8

/-- e^P (R132, 0x0C). -/
def Flt.exp (f : Flt) (ctx : Ctx) (mode : RMode) : Val → Val × Nat
  | .nan s => (.nan false, if s then flInvalid else 0)
  | .inf n => if n then (.fin false 0 0, 0) else (.inf false, 0)
  | .fin n m e =>
    if m = 0 then f.ratResult ctx mode false 1 1
    else refine f ctx mode false (expBounds n (ratOf m e)) refineFuel startBits

/-- Σ z^(2n+1)/(2n+1) for z in [zlo, zhi]/2^p at most 1/3, as bounds over 2^p. -/
def atanhSeries (p zlo zhi : Nat) : Nat → Nat → Nat × Nat → Nat × Nat → Nat × Nat
  | 0, _, _, sum => (sum.1, sum.2 + 2)
  | fuel + 1, n, t, sum =>
    let sum' := (sum.1 + divLo t.1 n, sum.2 + divHi t.2 n)
    let t' := (divLo (divLo (t.1 * zlo) (2 ^ p) * zlo) (2 ^ p), divHi (divHi (t.2 * zhi) (2 ^ p) * zhi) (2 ^ p))
    if t'.2 ≤ 1 then (sum'.1, sum'.2 + 2) else atanhSeries p zlo zhi fuel (n + 2) t' sum'

/-- ln of num/den in [1, 2) as bounds over 2^p. -/
def lnEncl (num den p : Nat) : Nat × Nat :=
  let z1 := divLo ((num - den) * 2 ^ p) (num + den)
  let z2 := divHi ((num - den) * 2 ^ p) (num + den)
  let s := atanhSeries p z1 z2 (2 * p + 8) 1 (z1, z2) (0, 0)
  (2 * s.1, 2 * s.2)

/-- ln of num/den as signed bounds over 2^p. -/
def lnBounds (num den p : Nat) : Int × Int :=
  let k := ilog2 num den
  let m := if 0 ≤ k then (num, den * 2 ^ k.toNat) else (num * 2 ^ (-k).toNat, den)
  let r := lnEncl m.1 m.2 p
  let l2 := lnEncl 2 1 p
  let lo : Int := if 0 ≤ k then k * l2.1 else k * l2.2
  let hi : Int := if 0 ≤ k then k * l2.2 else k * l2.1
  (lo + r.1, hi + r.2)

/-- ln P (R132, 0x0D). -/
def Flt.log (f : Flt) (ctx : Ctx) (mode : RMode) : Val → Val × Nat
  | .nan s => (.nan false, if s then flInvalid else 0)
  | .inf n => if n then (.nan false, flInvalid) else (.inf false, 0)
  | .fin n m e =>
    let r := ratOf m e
    if m = 0 then (.inf true, flDivZero)
    else if n then (.nan false, flInvalid)
    else if r.1 = r.2 then (.fin false 0 0, 0)
    else
      let neg := decide (r.1 < r.2)
      refine f ctx mode neg (fun p =>
        let b := lnBounds r.1 r.2 p
        if neg then (((-b.2).toNat, 2 ^ p), ((-b.1).toNat, 2 ^ p)) else ((b.1.toNat, 2 ^ p), (b.2.toNat, 2 ^ p)))
        refineFuel startBits

/-- tanh of a positive fraction, enclosed. -/
def tanhBounds (a : Nat × Nat) (p : Nat) : Encl :=
  if ratTiny a then
    -- a − a³/3 < tanh a < a − a³/4
    let c := ratMul a (ratMul a a)
    (ratSub a (c.1, 3 * c.2), ratSub a (c.1, 4 * c.2))
  else if ratHuge a then ((2 ^ 3900 - 1, 2 ^ 3900), (2 ^ 4000 - 1, 2 ^ 4000))
  else
    -- 1 − 2 / (e^2a + 1)
    let e := expEncl (2 * a.1) a.2 p
    (ratSub (1, 1) (2 * e.1.2, e.1.1 + e.1.2), ratSub (1, 1) (2 * e.2.2, e.2.1 + e.2.2))

/-- tanh P (R132, 0x0E). -/
def Flt.tanh (f : Flt) (ctx : Ctx) (mode : RMode) : Val → Val × Nat
  | .nan s => (.nan false, if s then flInvalid else 0)
  | .inf n => f.ratResult ctx mode n 1 1
  | .fin n m e =>
    if m = 0 then (.fin n 0 0, 0) else refine f ctx mode n (tanhBounds (ratOf m e)) refineFuel startBits

/-- 1/(1 + e^−x) with x = ±a, enclosed. -/
def sigmoidBounds (neg : Bool) (a : Nat × Nat) (p : Nat) : Encl :=
  if ratTiny a then
    let lo := (a.1, 5 * a.2)
    let hi := (a.1, 4 * a.2)
    if neg then (ratSub (1, 2) hi, ratSub (1, 2) lo) else (ratAdd (1, 2) lo, ratAdd (1, 2) hi)
  else
    -- with E = e^a: E/(1 + E) for x = a and 1/(1 + E) for x = −a, both as 1 − 1/(1 + E) or 1/(1 + E)
    let e := expBounds false a p
    let lo := (e.1.2, e.1.1 + e.1.2)
    let hi := (e.2.2, e.2.1 + e.2.2)
    if neg then (hi, lo) else (ratSub (1, 1) lo, ratSub (1, 1) hi)

/-- 1/(1 + e^−P) (R132, 0x0F; R133). -/
def Flt.sigmoid (f : Flt) (ctx : Ctx) (mode : RMode) : Val → Val × Nat
  | .nan s => (.nan false, if s then flInvalid else 0)
  | .inf n => if n then (.fin false 0 0, 0) else f.ratResult ctx mode false 1 1
  | .fin n m e =>
    if m = 0 then f.ratResult ctx mode false 1 2 else refine f ctx mode false (sigmoidBounds n (ratOf m e)) refineFuel startBits

end Sys2Proof.Machine
end

