-- ==== Sys2Proof/Machine/Vxe.lean ====
section
/-!
DEFINITION. The vector engine (R125 to R141, R147 to R151, R664). One command runs an operation as far as its queues allow.
-/

namespace Sys2Proof.Machine

/-! ### Fields of a VXE descriptor (R129) -/

def vxeOp (d : List Byte) : Nat := leAt d 1 1
def vxeRound (d : List Byte) : RMode := if leAt d 3 1 = 1 then .rtz else if leAt d 3 1 = 2 then .rtp else if leAt d 3 1 = 3 then .rtn else .rne
def vxeSrcA (d : List Byte) : Nat := leAt d 4 1
def vxeSrcB (d : List Byte) : Nat := leAt d 5 1
def vxeSeg (d : List Byte) : Nat := leAt d 6 1
def vxeDest (d : List Byte) : Nat := leAt d 7 1
def vxeCount (d : List Byte) : Nat := leAt d 12 4
def vxeTensor (d : List Byte) : Nat := leAt d 16 4
def vxeMaskOut (d : List Byte) : Nat := bitsAt (leAt d 9 1) 4 3
/-- COMPUTE (R125); the matrix operations fix it (R138). -/
def vxeCompute (d : List Byte) : Nat := if vxeOp d = 2 then 0 else if vxeOp d = 3 then 3 else leAt d 11 1 % 4
def computeFlt (k : Nat) : Flt := if k = 1 then bf16 else if k = 2 then fp16 else if k = 3 then fp64 else fp32
/-- The format code of COMPUTE. -/
def computeFormat (k : Nat) : Nat := if k = 1 then 3 else if k = 2 then 2 else if k = 3 then 0 else 1
/-- Elements of a register (R125). -/
def computeElems (k : Nat) : Nat := if k = 0 then 64 else if k = 3 then 32 else 128
/-- M_TILES, N_TILES and K_TILES of OP 2 to OP 4 (R130). -/
def vxeM (d : List Byte) : Nat := vxeCount d % 2 ^ 16
def vxeN (d : List Byte) : Nat := vxeCount d / 2 ^ 16
def vxeK (d : List Byte) : Nat := leAt d 28 4 % 2 ^ 16
/-- The stages: code and OPERAND; OP 2 to OP 6 run none (R130). -/
def vxeStages (d : List Byte) : List (Nat × Nat) :=
  if vxeOp d = 0 ∨ vxeOp d = 1 ∨ vxeOp d = 7 then
    (List.range (min 8 (leAt d 8 1))).map fun i => (leAt d (32 + 2 * i) 1, leAt d (33 + 2 * i) 1)
  else []
/-- Whether DEST is a register. -/
def vxeToReg (d : List Byte) : Bool := decide (0x20 ≤ vxeDest d) && decide (vxeDest d ≤ 0x3F)

/-- The bits of an output element: of the format in force, or of COMPUTE. -/
def World.vxeOutBits (w : World) (c : Nat) (d : List Byte) : Nat :=
  let p := w.partOfCore c
  match w.tensor p (vxeTensor d) with
  | some x => if vxeToReg d then fmtBits (computeFormat (vxeCompute d)) else fmtBits (w.formatOf p x)
  | none => fmtBits (computeFormat (vxeCompute d))

/-- Output base and first logical index under a bound value (R124). -/
def vxeBase (d : List Byte) (o : IssuedOp) : Nat := leAt d 20 4 + o.value * leAt d 60 4
def World.vxeElemBase (w : World) (c : Nat) (d : List Byte) (o : IssuedOp) : Nat :=
  leAt d 48 8 + o.value * (leAt d 60 4 * 8 / w.vxeOutBits c d)

/-! ### Registers and masks (R125, R126) -/

/-- Element `e` of a register value. -/
def vregElem (k v e : Nat) : Val := (computeFlt k).decode (bitsAt v ((computeFlt k).width * e) (computeFlt k).width)
/-- A register value with element `e` replaced. -/
def vregSet (k v e : Nat) (x : Val) : Nat :=
  let n := (computeFlt k).width
  v - bitsAt v (n * e) n * 2 ^ (n * e) + (computeFlt k).encode x * 2 ^ (n * e)
/-- Mask register and bit that govern element `e` under a named mask (R126). -/
def maskPlace (k reg e : Nat) : Nat × Nat :=
  if k = 0 then (reg, e) else if k = 3 then (reg, 2 * e) else (if reg = 0 then 0 else reg / 2 * 2 + e % 2, e / 2)
/-- The mask bit of element `e`; m0 reads as all ones. -/
def maskGet (k : Nat) (m : AMap Nat) (reg e : Nat) : Bool :=
  let p := maskPlace k reg e
  decide (p.1 = 0) || bitAt (AMap.get 0 m p.1) p.2
/-- Sets the mask bit of element `e`; m0 ignores writes. -/
def maskSet (k : Nat) (m : AMap Nat) (reg e : Nat) (b : Bool) : AMap Nat :=
  let p := maskPlace k reg e
  if p.1 = 0 then m
  else AMap.upd 0 m p.1 fun v => v - bitsAt v p.2 1 * 2 ^ p.2 + (if b then 2 ^ p.2 else 0)
/-- The vector element of row `r`, column `c` of a tile (R127). -/
def vecElem (k r c : Nat) : Nat := if k = 0 then c else if k = 3 then c % 32 else 64 * (r % 2) + c

/-! ### Stages (R131 to R135) -/

/-- What a chain carries from element to element: registers, masks and the flags raised. -/
abbrev Lane := AMap Nat × AMap Nat × Nat

/-- What the stages of an operation share: COMPUTE, rounding, context, MASK_OUT, PARAM, SCALAR, and the seed, tensor, step
and cycle of its random bits. -/
abbrev StageEnv := Nat × RMode × Ctx × Nat × Nat × Val × (Nat × Nat × Nat × Nat)

/-- u of NOISE and RANDOM: a word × 2^−32. -/
def unitVal (word : Nat) : Val := if word = 0 then .fin false 0 0 else .fin false word (-32)

/-- One stage on P for element `e` with logical index `i`; B is the SRC_B element. Every result that a stage hands on is rounded to
COMPUTE under CTX (R131), but for ABS and NEG, which change the sign bit only and raise nothing (R132). -/
def stageStep (env : StageEnv) (e i : Nat) (b : Val) (st : Val × Lane) (s : Nat × Nat) : Val × Lane :=
  match env, st with
  | (k, mode, ctx, mo, param, scalar, seed, tensor, step, cycle), (p, vr, mk, fl) =>
    let f := computeFlt k
    let n := s.2 % 32
    let sel := s.2 / 32
    let x := if sel = 1 then vregElem k (AMap.get 0 vr n) e else if sel = 2 then scalar else if sel = 3 then b else .fin false 0 0
    let put := fun (r : Val × Nat) => (r.1, vr, mk, fl ||| r.2)
    let same := fun (v : Val) => f.result ctx mode (v, 0)
    let cmp := fun (bit : Bool) =>
      ((same p).1, vr, maskSet k mk mo e bit, fl ||| (same p).2 ||| (if p.isNan || x.isNan then flInvalid else 0))
    match s.1 with
    | 0x01 => put (f.add ctx mode p x)
    | 0x02 => put (f.sub ctx mode p x)
    | 0x03 => put (f.mul ctx mode p x)
    | 0x04 => put (f.fma ctx mode p b x)
    | 0x05 => put (f.div ctx mode p x)
    | 0x06 => put (f.result ctx mode (valMin p x))
    | 0x07 => put (f.result ctx mode (valMax p x))
    | 0x08 => put (p.abs, 0)
    | 0x09 => put (p.neg, 0)
    | 0x0A => put (f.sqrt ctx mode p)
    | 0x0B => put (f.rsqrt ctx mode p)
    | 0x0C => put (f.exp ctx mode p)
    | 0x0D => put (f.log ctx mode p)
    | 0x0E => put (f.tanh ctx mode p)
    | 0x0F => put (f.sigmoid ctx mode p)
    | 0x10 => put (if p.isNan then f.result ctx mode (p, 0)
                   else if (Val.fin false 0 0).lt p then f.result ctx mode (p, 0) else (.fin false 0 0, 0))
    | 0x11 => put (if p.isNan = false ∧ p.lt (.fin false 0 0) = false then same p else f.mul ctx mode p x)
    | 0x12 => cmp (p.lt x)
    | 0x13 => cmp (p.eq x)
    | 0x14 => put (same (if maskGet k mk mo e then p else x))
    | 0x15 => put (if tensorWord seed 2 tensor step i < param then f.mul ctx mode p x else (.fin false 0 0, 0))
    | 0x16 => put (f.fma ctx mode x (unitVal (tensorWord seed 4 tensor cycle i)) p)
    | 0x17 => put (f.result ctx mode (unitVal (tensorWord seed param tensor step i), 0))
    | 0x18 =>
      let r := f.add ctx mode (vregElem k (AMap.get 0 vr n) e) p
      ((same p).1, AMap.upd 0 vr n (fun v => vregSet k v e r.1), mk, fl ||| r.2 ||| (same p).2)
    | _ => put (same p)

/-- The stages of a chain on one element (R131). -/
def runStages (env : StageEnv) (stages : List (Nat × Nat)) (e i : Nat) (b p : Val) (l : Lane) : Val × Lane :=
  stages.foldl (stageStep env e i b) (p, l)

/-! ### Faults, destinations and start -/

/-- Changes the VXE of a core. -/
def World.updVxe (w : World) (c : Nat) (f : Vxe → Vxe) : World := w.updCore c fun x => { x with vxe := f x.vxe }

/-- The VXE stops with METADATA (R141). -/
def World.vxeFault (w : World) (t : Sid) (c : Nat) (o : IssuedOp) (check queue index : Nat) : World :=
  let w := w.updVxe c fun m => { m with faulted := true, pending := [] }
  let w := w.setReg (Block.vxe.addr c 0x048) (engineFaultReg 1 queue o.desc index)
  w.engineMetadata t c 3 check queue index

/-- Flags of an operation go to OUT_TENSOR, or to VXE_STICKY for a register DEST (R131, R140). -/
def World.vxeFlags (w : World) (c : Nat) (d : List Byte) (fl : Nat) : World :=
  if vxeToReg d then (if fl = 0 then w else w.setBits (Block.vxe.addr c 0x050) (BitVec.ofNat 64 fl))
  else w.addFlags (w.partOfCore c) (vxeTensor d) fl

/-- Whether the queue that DEST names is full. -/
def World.vxeOutFull (w : World) (c : Nat) (d : List Byte) : Bool := decide (vxeDest d < 0x10) && w.queueFull c (vxeDest d)

/-- Written elements of an output: row, column, value and logical index. -/
abbrev Cells := List (Nat × Nat × Val × Nat)

/-- Writes one output tile or the elements of a register (R127, R140, R664), and counts the elements written (R151). -/
def World.vxeEmit (w : World) (t : Sid) (c : Nat) (run : VxeRun) (rows cols : Nat) (cells : Cells) : World :=
  let d := w.descOf c run.op.desc
  let counted := fun (w : World) (n : Nat) => w.count (Block.vxe.addr c 0x090) n
  if vxeToReg d then
    let k := vxeCompute d
    let at' := fun (x : Nat × Nat × Val × Nat) => x.2.2.2 - w.vxeElemBase c d run.op
    let kept := cells.filter fun x => decide (at' x < computeElems k)
    counted (w.updVxe c fun m => { m with vregs := kept.foldl (fun r x =>
      AMap.upd 0 r (vxeDest d - 0x20) (fun v => vregSet k v (at' x) x.2.2.1)) m.vregs }) kept.length
  else
    let p := w.partOfCore c
    match w.tensor p (vxeTensor d) with
    | none => w
    | some ten =>
      let plan := w.planOf p ten (ctxOf (AMap.get 0 (w.core c).vxeCtx (leAt d 2 1 % 4)))
      let a := cells.foldl (fun (a : Array (Option (Val × Nat))) x => a.set! (64 * x.1 + x.2.1) (some (x.2.2.1, x.2.2.2)))
        (Array.replicate 4096 none)
      let cell := fun (r k : Nat) => a.getD (64 * r + k) none
      let q := quantTile plan rows cols (fun r k => (cell r k).elim 0 (·.2)) (a.map fun x => x.elim (.fin false 0 0) (·.1))
        (fun r k => (cell r k).isSome)
      let addr := vxeBase d run.op + run.outTiles * leAt d 24 4
      if w.dataEnd c < addr + q.1.encode.length then
        w.vxeFault t c run.op 0x0B (if vxeDest d < 0x10 then vxeDest d else 0) run.outTiles
      else
        let h := w.putTile c addr run.outTiles q.1
        let w := (counted h.2 cells.length).addStats p ten.id q.2
        if vxeDest d < 0x10 then w.pushQueue c (vxeDest d) { handle := h.1, emission := run.outTiles } else w

/-- Output tiles that the load-time range covers (R664). -/
def vxeRangeTiles (d : List Byte) : Nat :=
  match vxeOp d with
  | 0 | 7 => ceilDiv (vxeCount d) 4096
  | 1 => ceilDiv (ceilDiv (vxeCount d) 64) 64
  | _ => vxeM d * vxeN d

/-- Whether a bound value keeps the operation's range in the data region (R124). -/
def World.vxeInside (w : World) (c : Nat) (o : IssuedOp) : Bool :=
  let d := w.descOf c o.desc
  if vxeOp d = 5 ∨ vxeOp d = 6 then decide (vxeBase d o + leAt d 24 4 ≤ w.dataEnd c)
  else if vxeToReg d then true
  else
    let need := 16 + (w.tensor (w.partOfCore c) (vxeTensor d)).elim 0 fun x => fmtDense x.recipe.ceiling
    decide (vxeBase d o + (vxeRangeTiles d - 1) * leAt d 24 4 + need ≤ w.dataEnd c)

/-- The VXE starts its next operation (R53, R124). -/
def World.vxeStart (w : World) (t : Sid) (c : Nat) : World :=
  match (w.core c).vxe.run, (w.core c).vxe.pending with
  | none, o :: rest =>
    let src := coreSource 3 c
    if w.throttles src 2 then w.throttle src
    else
      let w := (w.updVxe c fun m => { m with pending := rest, run := some { op := o } }).opRecord t src .vxe o 0
      if o.bound = false ∨ w.vxeInside c o then w else w.vxeFault t c o 0x0B 0 0xFFFF
  | _, _ => w

/-! ### Taking input -/

/-- An input of one step: shape, SRC_A values and format, SRC_B values and format, and the handles to release. -/
abbrev VInput := Nat × Nat × (Nat → Nat → Val) × Nat × Option ((Nat → Nat → Val) × Nat) × List QEntry

/-- A register as a pseudo-tile: one row of 64 or 32 elements, or two rows of 64. -/
def regInput (k v : Nat) (r c : Nat) : Val := vregElem k v (if k = 1 ∨ k = 2 then 64 * r + c else c)

/-- The queues of one input of a chain, an index operation or a transposition: SRC_A's, then SRC_B's. -/
def vxeInputQueues (d : List Byte) : List Nat :=
  (if vxeSrcA d < 0x10 then [vxeSrcA d] else []) ++ (if vxeSrcB d < 0x10 then [vxeSrcB d] else [])

/-- The queue that a fault of a SRC_B tile names (R149): the index queue for OP 6. -/
def vxeFaultQueueB (d : List Byte) : Nat := if vxeOp d = 6 ∧ vxeSrcA d < 0x10 then vxeSrcA d else vxeSrcB d

/-- Takes the next SRC_A tile, and with it a SRC_B tile where SRC_B is a queue: `none` when a handle is missing. One queue named
twice gives its two oldest handles. -/
def World.vxeTake (w : World) (c : Nat) (d : List Byte) (accA : Nat → Bool) (maxCols : Nat) :
    Option (Except (Nat × Nat × Nat) (VInput × World)) :=
  let k := vxeCompute d
  let sa := vxeSrcA d
  let sb := vxeSrcB d
  let regs := (w.core c).vxe.vregs
  (w.heads c (vxeInputQueues d)).map fun es =>
    let ha := if sa < 0x10 then es.head? else none
    let hb := if sb < 0x10 then es.getLast? else none
    let ta : Except (Nat × Nat × Nat) (Nat × Nat × (Nat → Nat → Val) × Nat) := match ha with
      | none => .ok (if k = 1 ∨ k = 2 then 2 else 1, if k = 3 then 32 else 64, regInput k (AMap.get 0 regs (sa - 0x20)), computeFormat k)
      | some e => match w.takeTile c accA (fun _ n => decide (n ≤ maxCols)) e.handle with
        | .error x => .error (x, sa, handleIndex e.handle)
        | .ok x =>
          let vs := x.values
          .ok (x.rows, x.cols, fun r n => vs.getD (64 * r + n) (.fin false 0 0), x.format)
    match ta with
    | .error x => .error x
    | .ok a =>
      let tb : Except (Nat × Nat × Nat) (Option ((Nat → Nat → Val) × Nat)) := match hb with
        | none => .ok (if 0x20 ≤ sb ∧ sb ≤ 0x3F then
            some (fun r n => vregElem k (AMap.get 0 regs (sb - 0x20)) (vecElem k r n), computeFormat k) else none)
        | some e => match w.takeTile c vxeReads (fun r n => decide (r = a.1) && decide (n = a.2.1)) e.handle with
          | .error x => .error (x, vxeFaultQueueB d, handleIndex e.handle)
          | .ok x =>
            let vs := x.values
            .ok (some (fun r n => vs.getD (64 * r + n) (.fin false 0 0), x.format))
      match tb with
      | .error x => .error x
      | .ok b => .ok ((a.1, a.2.1, a.2.2.1, a.2.2.2, b, es), w.popAll c (vxeInputQueues d))

/-- Converts an input element to COMPUTE (R94, R131; assumption 35): one already in it keeps its full value. -/
def enterVal (k : Nat) (ctx : Ctx) (mode : RMode) (format : Nat) (v : Val) : Val × Nat :=
  let r := (computeFlt k).conv (if format = computeFormat k then { ctx with flush := false } else ctx) mode true v
  (r.val, r.flags)

/-- The environment of an operation's stages. -/
def World.stageEnv (w : World) (c : Nat) (d : List Byte) : StageEnv :=
  let p := w.part (w.partOfCore c)
  let k := vxeCompute d
  (k, vxeRound d, ctxOf (AMap.get 0 (w.core c).vxeCtx (leAt d 2 1 % 4)), vxeMaskOut d, leAt d 28 4,
    ((computeFlt k).conv {} .rne false (fp32.decode (leAt d 56 4))).val, p.jobSeed.toNat, vxeTensor d, p.step, p.cycle)

/-- The result of an element: absent past COUNT, masked, or its value with its logical index. -/
inductive Elem where
  | gone | masked
  | val (v : Val) (i : Nat)

/-- Runs the stages over an input (R127, R131, R135): the results by row and column, the lane state and the elements used.
`left` counts the elements of COUNT that remain. -/
def chainInput (env : StageEnv) (stages : List (Nat × Nat)) (mask base pos left : Nat) (x : VInput) (l : Lane) :
    List (Nat × Nat × Elem) × Lane :=
  match env with
  | (k, mode, ctx, _) =>
    let r := (places x.1 x.2.1).zipIdx.foldl (fun (st : List (Nat × Nat × Elem) × Lane) q =>
      let e := vecElem k q.1.1 q.1.2
      if left ≤ q.2 then ((q.1.1, q.1.2, Elem.gone) :: st.1, st.2)
      else if maskGet k st.2.2.1 mask e = false then ((q.1.1, q.1.2, Elem.masked) :: st.1, st.2)
      else
        let a := enterVal k ctx mode x.2.2.2.1 (x.2.2.1 q.1.1 q.1.2)
        let b := x.2.2.2.2.1.elim ((.fin false 0 0, 0) : Val × Nat) fun y => enterVal k ctx mode y.2 (y.1 q.1.1 q.1.2)
        let i := base + pos + q.2
        let z := runStages env stages e i b.1 a.1 (st.2.1, st.2.2.1, st.2.2.2 ||| a.2 ||| b.2)
        ((q.1.1, q.1.2, Elem.val z.1 i) :: st.1, z.2)) ([], l)
    (r.1.reverse, r.2)

/-- The written cells among results. -/
def cellsOf (xs : List (Nat × Nat × Elem)) : Cells :=
  xs.filterMap fun x => match x.2.2 with
    | .val v i => some (x.1, x.2.1, v, i)
    | _ => none

/-- Grouped sums of one input (R137): the cells of the output tile, with places counted from `opos`. -/
def groupCells (f : Flt) (ctx : Ctx) (mode : RMode) (g rows cols base opos : Nat) (xs : List (Nat × Nat × Elem)) : Cells × Nat :=
  let n := ceilDiv cols g
  let runs := (places rows n).filterMap fun q =>
    let cs := xs.filter fun x => decide (x.1 = q.1) && decide (x.2.1 / g = q.2)
    if cs.all fun x => (match x.2.2 with
      | .gone => true
      | _ => false) then none
    else
      let s := tree64 (fun (a b : Val × Nat) => let r := f.add ctx mode a.1 b.1; (r.1, a.2 ||| b.2 ||| r.2))
        (cs.map fun x => match x.2.2 with
          | .val v _ => some (v, 0)
          | _ => none)
      some (q.1, q.2, s.getD (.fin false 0 0, 0))
  (runs.zipIdx.map (fun x => (x.1.1, x.1.2.1, x.1.2.2.1, base + opos + x.2)), runs.foldl (fun a x => a ||| x.2.2.2) 0)

/-! ### One step of each operation: `none` where the operation is held -/

/-- Releases the handles of an input. -/
def World.releaseAll (w : World) (c : Nat) (es : List QEntry) : World := es.foldl (fun w e => w.release c e) w

/-- Keeps a run's progress. -/
def World.setVxe (w : World) (c : Nat) (run : VxeRun) : World := w.updVxe c fun m => { m with run := some run }

/-- Stores the lane state and the flags after an input. -/
def World.vxeLane (w : World) (c : Nat) (d : List Byte) (l : Lane) : World :=
  (w.updVxe c fun m => { m with vregs := l.1, masks := l.2.1, lastStage := (vxeStages d).length - 1 }).vxeFlags c d l.2.2

/-- Cycles that a stage takes per vector (R132). -/
def stageCost (code : Nat) : Nat :=
  if code = 0x05 ∨ code = 0x0A ∨ code = 0x0B then 4 else if 0x0C ≤ code ∧ code ≤ 0x0F then 8 else 1

/-- Vectors that the first `n` elements of a tile of `cols` columns fill (R127). -/
def vectorsOf (k cols n : Nat) : Nat :=
  if n = 0 then 0
  else
    let r := (n - 1) / cols
    if k = 0 then r + 1 else if k = 3 then r * ceilDiv cols 32 + ceilDiv (n - r * cols) 32 else r / 2 + 1

/-- Counts the stage costs of an input's vectors (R134, R151). -/
def World.countStages (w : World) (c : Nat) (d : List Byte) (cols n : Nat) : World :=
  w.count (Block.vxe.addr c 0x088) (((vxeStages d).map fun x => stageCost x.1).sum * vectorsOf (vxeCompute d) cols n)

/-- The operation has ended. -/
def World.vxeDone (w : World) (t : Sid) (c : Nat) (run : VxeRun) : World :=
  if (w.core c).vxe.faulted then w
  else (w.updVxe c fun m => { m with run := none }).finishOp t (coreSource 3 c) .vxe run.op

/-- One input of OP 0, OP 1, OP 4 or OP 7. -/
def World.vxeInputStep (w : World) (t : Sid) (c : Nat) (run : VxeRun) : Option World :=
  let d := w.descOf c run.op.desc
  let op := vxeOp d
  let left := if op = 4 then 4096 else vxeCount d - run.elems
  if op ≠ 1 ∧ w.vxeOutFull c d then none
  else if vxeSrcA d ≥ 0x20 ∧ 0 < run.tiles then some (w.vxeDone t c run)
  else
    match w.vxeTake c d vxeReads (if op = 1 ∧ 0 < run.tiles then run.cols else 64) with
    | none => none
    | some (.error x) => some (w.vxeFault t c run.op x.1 x.2.1 x.2.2)
    | some (.ok (x, w)) =>
      let env := w.stageEnv c d
      let base := w.vxeElemBase c d run.op
      let r := chainInput env (vxeStages d) (leAt d 9 1 % 8) base run.elems left x ((w.core c).vxe.vregs, (w.core c).vxe.masks, 0)
      let w := ((w.vxeLane c d r.2).countStages c d x.2.1 (min left (x.1 * x.2.1))).releaseAll c x.2.2.2.2.2
      let rows := x.1
      let cols := x.2.1
      let run1 := { run with elems := run.elems + min left (rows * cols), tiles := run.tiles + 1
                             cols := if run.tiles = 0 then cols else run.cols }
      match op with
      | 1 =>
        let kept := (List.range rows).filterMap fun i =>
          let row := r.1.filter fun y => decide (y.1 = i)
          if row.all fun y => (match y.2.2 with
            | .gone => true
            | _ => false) then none
          else some (row.map fun y => match y.2.2 with
            | .val v _ => some ((computeFlt (vxeCompute d)).encode v)
            | _ => none)
        some (w.setVxe c { run1 with rows := run.rows + kept.length, results := run.results ++ kept })
      | 4 =>
        let cells := (cellsOf r.1).map fun y => (y.2.1, y.1, y.2.2.1, base + run.outElems + y.2.1 * rows + y.1)
        let w := w.vxeEmit t c run cols rows cells
        some (w.setVxe c { run1 with outTiles := run.outTiles + 1, outElems := run.outElems + rows * cols })
      | 7 =>
        let g := 2 ^ bitsAt (leAt d 10 1) 4 3
        let y := groupCells (computeFlt (vxeCompute d)) env.2.2.1 (vxeRound d) g rows cols base run.outElems r.1
        let w := (w.vxeFlags c d y.2).vxeEmit t c run rows (ceilDiv cols g) y.1
        some (w.setVxe c { run1 with outTiles := run.outTiles + 1, outElems := run.outElems + y.1.length })
      | _ =>
        let w := w.vxeEmit t c run rows cols (cellsOf r.1)
        some (w.setVxe c { run1 with outTiles := run.outTiles + 1 })

/-- Offsets of one tile checked against those before (R136): none where they decrease or pass R. -/
def checkOffsets (total : Nat) (old : List Nat) (xs : List Nat) : Option (List Nat) :=
  xs.foldl (fun st x => st.bind fun a => if total < x ∨ x < a.getLastD 0 then none else some (a ++ [x])) (some old)

/-- Takes one offset tile of OP 1 (R136). -/
def World.vxeOffsets (w : World) (t : Sid) (c : Nat) (run : VxeRun) : Option World :=
  let d := w.descOf c run.op.desc
  let q := vxeSeg d
  match w.head c q with
  | none => none
  | some e =>
    match w.takeTile c (fun f => decide (f = 1)) (fun _ _ => true) e.handle with
    | .error x => some (w.vxeFault t c run.op x q (handleIndex e.handle))
    | .ok x =>
      match checkOffsets run.rows run.offsets ((places x.rows x.cols).map fun p => x.code p.1 p.2) with
      | none => some (w.vxeFault t c run.op 0x0A q (handleIndex e.handle))
      | some os =>
        some (((w.popQueue c q).release c e).setVxe c
          { run with offsets := os, offsetsDone := decide (os.getLast? = some run.rows) })

/-- The result of one segment and column (R136), with its flags. -/
def segmentValue (f : Flt) (ctx : Ctx) (mode : RMode) (op : Nat) (leaves : List (Option Val)) (count : Nat) : Val × Nat :=
  let add := fun (a b : Val × Nat) =>
    let r := if op = 1 then f.result ctx mode (valMax a.1 b.1) else if op = 2 then f.result ctx mode (valMin a.1 b.1)
             else f.add ctx mode a.1 b.1
    (r.1, a.2 ||| b.2 ||| r.2)
  match chainRuns add (leaves.length / 64 + 1) none (leaves.map fun x => x.map fun v => (v, 0)) with
  | none => (if op = 1 then .inf true else if op = 2 then .inf false else .fin false 0 0, 0)
  | some s =>
    if op = 3 then
      let r := f.div ctx mode s.1 (f.convRat {} .rne false false count 1).val
      (r.1, s.2 ||| r.2)
    else s

/-- Writes the next output tile of OP 1 (R136). -/
def World.vxeSegmentOut (w : World) (t : Sid) (c : Nat) (run : VxeRun) : Option World :=
  let d := w.descOf c run.op.desc
  let segs := run.offsets.length - 1
  if segs ≤ 64 * run.outTiles then some (w.vxeDone t c run)
  else if w.vxeOutFull c d then none
  else
    let k := vxeCompute d
    let f := computeFlt k
    let ctx := ctxOf (AMap.get 0 (w.core c).vxeCtx (leAt d 2 1 % 4))
    let n := min 64 (segs - 64 * run.outTiles)
    let base := w.vxeElemBase c d run.op
    let cells := (places n run.cols).map fun p =>
      let s := 64 * run.outTiles + p.1
      let lo := run.offsets.getD s 0
      let hi := run.offsets.getD (s + 1) 0
      let leaves := ((run.results.drop lo).take (hi - lo)).map fun row => (row.getD p.2 none).map f.decode
      (p, segmentValue f ctx (vxeRound d) (leAt d 10 1 % 4) leaves (hi - lo), base + s * run.cols + p.2)
    let w := (w.vxeFlags c d (cells.foldl (fun a x => a ||| x.2.1.2) 0)).vxeEmit t c run n run.cols
      (cells.map fun x => (x.1.1, x.1.2, x.2.1.1, x.2.2))
    some (w.setVxe c { run with outTiles := run.outTiles + 1 })

/-- The queues of the next step of OP 2 or OP 3: SEG_SRC first where an initial-value tile is due, then SRC_A, then SRC_B (R138). -/
def vxeMatmulQueues (d : List Byte) (stepNo : Nat) : List Nat :=
  (if vxeSeg d < 0x10 ∧ (mxeStep (vxeM d * vxeN d) (vxeK d) stepNo).2 = 0 then [vxeSeg d] else []) ++ [vxeSrcA d, vxeSrcB d]

/-- The products of step `k` of output tile `n` on its handles, of which those of `qs` leave their queues (R138). MASK governs the
elements of the output (R127; DESIGN CHOICE, assumption 156). -/
def World.vxeMatmulOn (w : World) (t : Sid) (c : Nat) (run : VxeRun) (n step : Nat) (ch : Option QEntry) (a b : QEntry) : World :=
  let d := w.descOf c run.op.desc
  let k := vxeCompute d
  let f := computeFlt k
  let ctx := ctxOf (AMap.get 0 (w.core c).vxeCtx (leAt d 2 1 % 4))
  let qs := vxeMatmulQueues d run.stepNo
  let fault := fun (popped x q : Nat) (e : QEntry) => (w.popAll c (qs.take popped)).vxeFault t c run.op x q (handleIndex e.handle)
  let start : Except Nat AccTile := match ch with
    | none => .ok ((run.acc.find? fun x => decide (x.t = n)).getD { t := n })
    | some e =>
      (w.takeTile c (fun x => decide (x = computeFormat k))
        (fun r i => decide (r = handleRows a.handle) && decide (i = handleRows b.handle)) e.handle).map fun x =>
          { t := n, acc := (places x.rows x.cols).map fun p => (64 * p.1 + p.2, some (x.code p.1 p.2)) }
  match start with
  | .error x => fault 1 x (vxeSeg d) (ch.getD a)
  | .ok x =>
    match w.takeTile c vxeReads (fun r _ => decide (step = 0) || decide (r = x.rows)) a.handle with
    | .error e => fault (qs.length - 1) e (vxeSrcA d) a
    | .ok ta =>
      match w.takeTile c vxeReads (fun r i => decide (i = ta.cols) && (decide (step = 0) || decide (r = x.cols))) b.handle with
      | .error e => fault qs.length e (vxeSrcB d) b
      | .ok tb =>
        let va := ta.values
        let vb := tb.values
        let live := (places ta.rows tb.rows).zipIdx.filter fun p =>
          maskGet k (w.core c).vxe.masks (leAt d 9 1 % 8) (vecElem k p.1.1 p.1.2)
        let r := live.map fun p =>
          let c0 := ((AMap.get none x.acc (64 * p.1.1 + p.1.2)).map f.decode).getD (.fin true 0 0)
          (p, (List.range ta.cols).foldl (fun (s : Val × Nat) i =>
            let a := enterVal k ctx (vxeRound d) ta.format (va.getD (64 * p.1.1 + i) (.fin false 0 0))
            let b := enterVal k ctx (vxeRound d) tb.format (vb.getD (64 * p.1.2 + i) (.fin false 0 0))
            let z := f.fma ctx (vxeRound d) a.1 b.1 s.1
            (z.1, s.2 ||| z.2 ||| a.2 ||| b.2)) (c0, 0))
        let w := ((w.popAll c qs).releaseAll c (ch.toList ++ [a, b])).vxeFlags c d (r.foldl (fun s y => s ||| y.2.2) 0)
        let y : AccTile := { x with k := x.k + 1, rows := ta.rows, cols := tb.rows
                                    acc := r.map fun z => (64 * z.1.1.1 + z.1.1.2, some (f.encode z.2.1)) }
        let rest := run.acc.filter fun z => decide (z.t ≠ n)
        if step + 1 = vxeK d then
          let base := w.vxeElemBase c d run.op + run.outElems
          let w := w.vxeEmit t c run ta.rows tb.rows (r.map fun z => (z.1.1.1, z.1.1.2, z.2.1, base + z.1.2))
          w.setVxe c { run with stepNo := run.stepNo + 1, acc := rest, outTiles := run.outTiles + 1
                                outElems := run.outElems + ta.rows * tb.rows }
        else w.setVxe c { run with stepNo := run.stepNo + 1, acc := rest ++ [y] }

/-- One step of OP 2 or OP 3 (R138). -/
def World.vxeMatmulStep (w : World) (t : Sid) (c : Nat) (run : VxeRun) : Option World :=
  let d := w.descOf c run.op.desc
  let tiles := vxeM d * vxeN d
  let tk := mxeStep tiles (vxeK d) run.stepNo
  if tiles * vxeK d ≤ run.stepNo then some (w.vxeDone t c run)
  else if tk.2 + 1 = vxeK d ∧ w.vxeOutFull c d then none
  else
    match w.heads c (vxeMatmulQueues d run.stepNo) with
    | some [e, a, b] => some (w.vxeMatmulOn t c run tk.1 tk.2 (some e) a b)
    | some [a, b] => some (w.vxeMatmulOn t c run tk.1 tk.2 none a b)
    | _ => none

/-- One input of OP 5 or OP 6 (R139). -/
def World.vxeIndexStep (w : World) (t : Sid) (c : Nat) (run : VxeRun) : Option World :=
  let d := w.descOf c run.op.desc
  let k := vxeCompute d
  let f := computeFlt k
  let size := f.width / 8
  let left := vxeCount d - run.elems
  let ctx := ctxOf (AMap.get 0 (w.core c).vxeCtx (leAt d 2 1 % 4))
  let base := vxeBase d run.op
  let idx := (w.head c (vxeSrcA d)).elim 0 fun e => handleIndex e.handle
  if vxeOp d = 5 ∧ w.vxeOutFull c d then none
  else if vxeSrcA d ≥ 0x20 ∧ 0 < run.tiles then some (w.vxeDone t c run)
  else
    match w.vxeTake c d (fun x => decide (x = 1)) 64 with
    | none => none
    | some (.error x) => some (w.vxeFault t c run.op x.1 x.2.1 x.2.2)
    | some (.ok (x, w)) =>
      let live := (places x.1 x.2.1).zipIdx.filter fun p =>
        decide (p.2 < left) && maskGet k (w.core c).vxe.masks (leAt d 9 1 % 8) (vecElem k p.1.1 p.1.2)
      let at' := live.map fun p => (p, (if vxeSrcA d < 0x10 then fp32 else f).encode (x.2.2.1 p.1.1 p.1.2))
      if at'.any fun y => decide (leAt d 24 4 < (y.2 + 1) * size) then some (w.vxeFault t c run.op 0x0B (vxeSrcA d) idx)
      else
        let run1 := { run with elems := run.elems + min left (x.1 * x.2.1), tiles := run.tiles + 1 }
        let w := w.releaseAll c x.2.2.2.2.2
        if vxeOp d = 5 then
          let eb := w.vxeElemBase c d run.op + run.elems
          let cells := at'.map fun y => (y.1.1.1, y.1.1.2, f.decode (leNat (w.tunRead c (base + y.2 * size) size)), eb + y.1.2)
          some ((w.vxeEmit t c run x.1 x.2.1 cells).setVxe c { run1 with outTiles := run.outTiles + 1 })
        else
          let r := at'.foldl (fun (st : World × Nat) y =>
            let v := x.2.2.2.2.1.elim ((.fin false 0 0, 0) : Val × Nat) fun b => enterVal k ctx (vxeRound d) b.2 (b.1 y.1.1.1 y.1.1.2)
            (st.1.tunWrite c (base + y.2 * size) (leBytes size (f.encode v.1)), st.2 ||| v.2)) (w.count (Block.vxe.addr c 0x090) at'.length, 0)
          some ((r.1.vxeFlags c d r.2).setVxe c run1)

/-- Whether an operation has consumed its input stream. -/
def World.vxeConsumed (w : World) (c : Nat) (run : VxeRun) : Bool :=
  let d := w.descOf c run.op.desc
  if vxeOp d = 4 then decide (vxeM d * vxeN d ≤ run.tiles) else decide (vxeCount d ≤ run.elems)

/-- The next step of the running operation; `none` where it is held. -/
def World.vxeNext (w : World) (t : Sid) (c : Nat) (run : VxeRun) : Option World :=
  match vxeOp (w.descOf c run.op.desc) with
  | 2 | 3 => w.vxeMatmulStep t c run
  | 5 | 6 => if w.vxeConsumed c run then some (w.vxeDone t c run) else w.vxeIndexStep t c run
  | 1 =>
    let regDone := decide (0x20 ≤ vxeSrcA (w.descOf c run.op.desc)) && decide (0 < run.tiles)
    if w.vxeConsumed c run = false ∧ regDone = false then w.vxeInputStep t c run
    else if run.offsetsDone then w.vxeSegmentOut t c run
    else w.vxeOffsets t c run
  | _ => if w.vxeConsumed c run then some (w.vxeDone t c run) else w.vxeInputStep t c run

/-- The queues from which the next step of the running operation takes its handles. -/
def World.vxeNextQueues (w : World) (c : Nat) (run : VxeRun) : List Nat :=
  let d := w.descOf c run.op.desc
  match vxeOp d with
  | 2 | 3 => if vxeM d * vxeN d * vxeK d ≤ run.stepNo then [] else vxeMatmulQueues d run.stepNo
  | 1 =>
    if w.vxeConsumed c run = false ∧ (vxeSrcA d < 0x10 ∨ run.tiles = 0) then vxeInputQueues d
    else if run.offsetsDone then [] else [vxeSeg d]
  | _ => if w.vxeConsumed c run ∨ (0x20 ≤ vxeSrcA d ∧ 0 < run.tiles) then [] else vxeInputQueues d

/-- Whether the next step of the running operation writes an output tile. -/
def World.vxeWrites (w : World) (c : Nat) (run : VxeRun) : Bool :=
  let d := w.descOf c run.op.desc
  match vxeOp d with
  | 2 | 3 => decide ((mxeStep (vxeM d * vxeN d) (vxeK d) run.stepNo).2 + 1 = vxeK d)
  | 1 => (w.vxeNextQueues c run).isEmpty
  | 6 => false
  | _ => !(w.vxeConsumed c run)

/-- The current operation of the VXE (R148). -/
def Vxe.current (m : Vxe) : Option VxeRun := m.run.orElse fun _ => m.pending.head?.map fun o => { op := o }
/-- STATE of the VXE (R148): an operation waits for operands while a queue of its next step is empty, and for output while the step has
its operands and the queue of its output tile is full. -/
def World.vxeState (w : World) (c : Nat) : Nat :=
  let m := (w.core c).vxe
  if m.faulted then 4
  else
    match m.current with
    | none => 0
    | some r =>
      if (w.heads c (w.vxeNextQueues c r)).isNone then 2
      else if w.vxeWrites c r ∧ w.vxeOutFull c (w.descOf c r.op.desc) then 3
      else 1
/-- Runs the operation of a core until it is held, faults or ends; `n` bounds the steps of one command. -/
def World.vxeRun (w : World) (t : Sid) (c : Nat) : Nat → World
  | 0 => w
  | n + 1 =>
    if (w.core c).vxe.faulted then w
    else
      match (w.core c).vxe.run with
      | none => w
      | some run =>
        match w.vxeNext t c run with
        | none => w
        | some w1 => w1.vxeRun t c n

/-- Steps that one command takes at most: every queue entry and every output once, and the end. -/
def vxeSteps : Nat := 128

/-- A VXE command: it starts the next operation where none runs, and runs an operation of the OP that it names. -/
def World.vxeCommand (w : World) (t : Sid) (core : CoreId) (op : Nat) : World :=
  let c := core.val
  if w.coreLive c = false ∨ (w.core c).vxe.faulted then w
  else
    let o := match (w.core c).vxe.run with
      | some r => some r.op
      | none => (w.core c).vxe.pending.head?
    match o with
    | none => w
    | some o => if vxeOp (w.descOf c o.desc) = op then (w.vxeStart t c).vxeRun t c vxeSteps else w

/-- VXE_CHAIN, OP 0 (R131 to R135). -/
def execVxeChain (core : CoreId) (s : State) : Host.Outcome State Fault Refusal := .next (s.serve fun w => w.vxeCommand s.sid core 0)
/-- VXE_SEGMENTED, OP 1 (R136). -/
def execVxeSegmented (core : CoreId) (s : State) : Host.Outcome State Fault Refusal := .next (s.serve fun w => w.vxeCommand s.sid core 1)
/-- VXE_MATMUL_F32, OP 2 (R138). -/
def execVxeMatmulF32 (core : CoreId) (s : State) : Host.Outcome State Fault Refusal := .next (s.serve fun w => w.vxeCommand s.sid core 2)
/-- VXE_MATMUL_F64, OP 3 (R138). -/
def execVxeMatmulF64 (core : CoreId) (s : State) : Host.Outcome State Fault Refusal := .next (s.serve fun w => w.vxeCommand s.sid core 3)
/-- VXE_TRANSPOSE, OP 4 (R130). -/
def execVxeTranspose (core : CoreId) (s : State) : Host.Outcome State Fault Refusal := .next (s.serve fun w => w.vxeCommand s.sid core 4)
/-- VXE_GATHER, OP 5 (R139). -/
def execVxeGather (core : CoreId) (s : State) : Host.Outcome State Fault Refusal := .next (s.serve fun w => w.vxeCommand s.sid core 5)
/-- VXE_SCATTER, OP 6 (R139). -/
def execVxeScatter (core : CoreId) (s : State) : Host.Outcome State Fault Refusal := .next (s.serve fun w => w.vxeCommand s.sid core 6)
/-- VXE_GROUPED, OP 7 (R137). -/
def execVxeGrouped (core : CoreId) (s : State) : Host.Outcome State Fault Refusal := .next (s.serve fun w => w.vxeCommand s.sid core 7)

end Sys2Proof.Machine
end

