-- ==== Sys2Proof/Machine/Descriptors.lean ====
section
/-!
DEFINITION. Fields of the AXE, GSU, SUQ and SMP descriptors (R183, R223, R232, R235) and the load-time checks of every
descriptor (R39, R118, R126, R129 to R137, R180 to R185, R223, R232 to R235, R265, R663, R664).
-/

namespace Sys2Proof.Machine

/-! ### AXE (R223) -/

def axeKind (d : List Byte) : Nat := leAt d 1 1
def axePredict (d : List Byte) : Bool := bitAt (leAt d 2 1) 0
def axeOrdered (d : List Byte) : Bool := bitAt (leAt d 2 1) 1
def axeFromWork (d : List Byte) : Bool := bitAt (leAt d 2 1) 2
def axeQueue (d : List Byte) : Nat := leAt d 3 1
def axeMem (d : List Byte) : Nat := leAt d 4 1
def axeOrder (d : List Byte) : Nat := leAt d 5 1
def axeWord (d : List Byte) : Nat := leAt d 6 1
def axeSlots (d : List Byte) : Nat := leAt d 7 1
def axeBase (d : List Byte) : Nat := leAt d 8 8
def axeTable (d : List Byte) : Nat := leAt d 16 4
def axeTiles (d : List Byte) : Nat := leAt d 20 4
def axeStride (d : List Byte) : Nat := leAt d 24 4
def axeRing (d : List Byte) : Nat := leAt d 28 4
def axeRingStride (d : List Byte) : Nat := leAt d 32 4
def axeIndexStride (d : List Byte) : Nat := leAt d 36 4
def axeZmap (d : List Byte) : Nat := leAt d 40 4
def axeM (d : List Byte) : Nat := leAt d 44 2
def axeN (d : List Byte) : Nat := leAt d 46 2
def axeK (d : List Byte) : Nat := leAt d 48 2
def axeDstMem (d : List Byte) : Nat := leAt d 50 1
def axeSrcQueue (d : List Byte) : Nat := leAt d 51 1
def axeCopyBytes (d : List Byte) : Nat := leAt d 52 4
def axeDst (d : List Byte) : Nat := leAt d 56 8
/-- No table. -/
def noTable : Nat := 0xFFFFFFFF

/-! ### GSU (R235) -/

def gsuOp (d : List Byte) : Nat := leAt d 1 1
def gsuFromWork (d : List Byte) : Bool := bitAt (leAt d 2 1) 0
def gsuPerUnique (d : List Byte) : Bool := bitAt (leAt d 2 1) 1
def gsuRaw (d : List Byte) : Bool := bitAt (leAt d 2 1) 2
def gsuSuqList (d : List Byte) : Bool := bitAt (leAt d 2 1) 3
def gsuPool (d : List Byte) : Nat := leAt d 3 1
def gsuTable (d : List Byte) : Nat := leAt d 4 4
def gsuKeys (d : List Byte) : Nat := leAt d 8 8
def gsuKeyCount (d : List Byte) : Nat := leAt d 16 4
def gsuFormat (d : List Byte) : Nat := leAt d 20 1
def gsuWord (d : List Byte) : Nat := leAt d 21 1
def gsuOut (d : List Byte) : Nat := leAt d 24 8
def gsuInv (d : List Byte) : Nat := leAt d 32 8
def gsuInvCount (d : List Byte) : Nat := leAt d 40 4
def gsuGrad (d : List Byte) : Nat := leAt d 44 4
def gsuElemBase (d : List Byte) : Nat := leAt d 48 8
def gsuStride (d : List Byte) : Nat := leAt d 56 4

/-! ### SUQ (R232) -/

def suqBlock (d : List Byte) : Bool := decide (leAt d 1 1 = 1)
def suqFromWork (d : List Byte) : Bool := bitAt (leAt d 2 1) 0
def suqCounts (d : List Byte) : Bool := bitAt (leAt d 2 1) 1
def suqWord (d : List Byte) : Nat := leAt d 3 1
def suqCount (d : List Byte) : Nat := leAt d 4 4
def suqIn (d : List Byte) : Nat := leAt d 8 8
def suqLo (d : List Byte) : Nat := leAt d 16 8
def suqHi (d : List Byte) : Nat := leAt d 24 8
def suqUnique (d : List Byte) : Nat := leAt d 32 8
def suqInverse (d : List Byte) : Nat := leAt d 40 8
def suqCountsAddr (d : List Byte) : Nat := leAt d 48 8
def suqWork (d : List Byte) : Nat := leAt d 56 8

/-! ### SMP (R183) -/

def smpPlan (d : List Byte) : Nat := leAt d 1 1
def smpFirst (d : List Byte) : Nat := leAt d 2 1
def smpLast (d : List Byte) : Nat := leAt d 3 1
def smpFromWork (d : List Byte) : Bool := bitAt (leAt d 4 1) 0
def smpSeeds (d : List Byte) : Nat := leAt d 8 8
def smpSeedCount (d : List Byte) : Nat := leAt d 16 4
def smpOutBytes (d : List Byte) : Nat := leAt d 20 4
def smpOut (d : List Byte) : Nat := leAt d 24 8
def smpFrontier (d : List Byte) : Nat := leAt d 32 8
def smpBlockId (d : List Byte) : Nat := leAt d 40 8
def smpWords (d : List Byte) : Nat := leAt d 48 4

/-- Bytes that a plan's output region must hold (R185). -/
def Plan.outBytes (p : Plan) : Nat :=
  128 + 16 * p.nodeCap + 16 * p.edgeCap + roundUp (4 * (p.nodeCap + p.hops)) 16 + 8 * p.nodeCap * p.negCount

/-! ### Ranges -/

/-- Reasons for which a range in a space coded as MEM fails (R39, R265, R663). -/
def DescEnv.reach (e : DescEnv) (mem addr n : Nat) : List Nat :=
  match mem with
  | 0 => if 2 ^ 48 ≤ addr then [0x13] else if e.floor < addr + n then [0x0B] else []
  | 1 => if storeBytes < addr + n then [0x0A] else []
  | 2 =>
    (if addr / 2 ^ 62 ≠ 1 ∨ (e.own = some (bitsAt addr 48 14) ∧ e.capacity < addr % 2 ^ 48 + n) then [0x13] else [])
      ++ (if e.part ≠ 0 then [0x15] else [])
  | _ => [0x13]
/-- VERSION_WRITE (R26, R39): a write to a global address of this module's own position that meets a version which is current. A partition
HBM offset that does so has failed HBM_CAPACITY (R663). -/
def DescEnv.versionWrite (e : DescEnv) (mem addr n : Nat) : List Nat :=
  if mem = 2 ∧ addr / 2 ^ 62 = 1 ∧ e.own = some (bitsAt addr 48 14)
      ∧ e.dir.any (fun x => rangesMeet (addr % 2 ^ 48) n x.curBase x.bytes) then [0x14] else []
/-- Reasons for which a range at a local address fails (R265). -/
def DescEnv.reachLocal (e : DescEnv) (addr n : Nat) : List Nat :=
  if 2 ^ 63 ≤ addr then (if bitsAt addr 24 39 ≠ 0 then [0x13] else e.reach 1 (addr % 2 ^ 24) n) else e.reach 0 addr n
/-- DESCRIPTOR where a rule is broken, and TUN where the last tun byte reached lies in the program region. -/
def descIf (bad : Bool) : List Nat := if bad then [0x13] else []
def DescEnv.tun (e : DescEnv) (last : Nat) : List Nat := if e.top < last then [0x09] else []
/-- A queue's pair; 255 for a number above 15. -/
def DescEnv.pair (e : DescEnv) (q : Nat) : Nat := if q < 16 then e.queues.getD q 0 else 255
/-- A tensor of the catalogue. -/
def DescEnv.tensor (e : DescEnv) (id : Nat) : Option Tensor := e.tensors.find? fun x => decide (x.id = id)
/-- Bytes of the largest tile that a tensor is written as, its CEILING's (R100, R118); none for a format without tiles. -/
def Tensor.tileNeed (x : Tensor) : Option Nat :=
  if x.recipe.format ≤ 0x0E ∧ x.recipe.ceiling ≤ 0x0E then some (16 + fmtDense x.recipe.ceiling) else none
/-- Whether tiles of a tensor carry codes that the MXE does not read (R117). -/
def DescEnv.unreadable (e : DescEnv) (id : Nat) : Bool := (e.tensor id).elim false fun x => !(mxeReads x.recipe.format)

/-! ### Checks by engine -/

/-- An MXE descriptor (R118). -/
def mxeCheck (e : DescEnv) (d : List Byte) : List Nat :=
  let ins := [leAt d 4 1, leAt d 5 1] ++ (if mxeCIn d then [leAt d 6 1] else [])
  let need := (e.tensor (mxeTensor d)).bind Tensor.tileNeed
  descIf (decide (3 < leAt d 1 1) || decide (3 < leAt d 2 1) || decide (leAt d 3 1 ≠ 0) || decide (mxeM d = 0)
      || decide (mxeN d = 0) || decide (mxeK d = 0) || decide (leAt d 14 2 ≠ 0) || decide (leAt d 20 4 ≠ 0)
      || decide (leAt d 36 4 ≠ 0) || ins.any (fun q => decide (e.pair q ≠ 1))
      || (mxeOutPush d && decide (e.pair (leAt d 7 1) ≠ 3)) || decide (leAt d 24 4 % 16 ≠ 0)
      || need.elim true fun n => decide (leAt d 28 4 < n))
    ++ need.elim [] fun n => e.tun (leAt d 24 4 + e.bound * leAt d 32 4 + (mxeTiles d - 1) * leAt d 28 4 + n)

/-- The stages that take an operand X (R129). -/
def stageTakesX (op : Nat) : Bool := (decide (1 ≤ op) && decide (op ≤ 7)) || (decide (0x11 ≤ op) && decide (op ≤ 0x16)) || decide (op = 0x18)
/-- Whether a stage breaks R129, R132 or R135. -/
def stageBad (param srcB : Nat) (s : Nat × Nat) : Bool :=
  let sel := s.2 / 32
  decide (0x18 < s.1) || decide (3 < sel)
    || (if stageTakesX s.1 then decide (sel = 0) else decide (s.2 ≠ 0))
    || (decide (s.1 = 0x18) && decide (sel ≠ 1)) || (decide (s.1 = 0x17) && decide (param < 0x100))
    || ((decide (sel = 3) || decide (s.1 = 0x04)) && decide (srcB = 0xFF))

/-- A VXE descriptor (R126, R129 to R137, R664). -/
def vxeCheck (e : DescEnv) (d : List Byte) : List Nat :=
  let op := vxeOp d
  let k := leAt d 11 1
  let staged := decide (op ≤ 1) || decide (op = 7)
  let src := fun (x : Nat) => decide (e.pair x = 2) || (decide (0x20 ≤ x) && decide (x ≤ 0x3F))
  let wide := decide (k = 1) || decide (k = 2)
  let base := leAt d 20 4 + e.bound * leAt d 60 4
  let need := (e.tensor (vxeTensor d)).bind Tensor.tileNeed
  descIf (decide (7 < op) || decide (3 < leAt d 2 1) || decide (3 < leAt d 3 1) || decide (3 < k)
      || (staged && (decide (leAt d 8 1 = 0) || decide (8 < leAt d 8 1))) || bitAt (leAt d 9 1) 7
      || decide (leAt d 10 1 &&& 0x8C ≠ 0) || (wide && (bitAt (leAt d 9 1) 0 || bitAt (leAt d 9 1) 4))
      || !(src (vxeSrcA d)) || !(src (vxeSrcB d) || decide (vxeSrcB d = 0xFF))
      || ((decide (op = 2) || decide (op = 3) || decide (op = 6)) && decide (vxeSrcB d = 0xFF))
      || (if op = 1 then decide (e.pair (vxeSeg d) ≠ 2)
          else if op = 2 ∨ op = 3 then decide (vxeSeg d ≠ 0xFF) && decide (e.pair (vxeSeg d) ≠ 2) else decide (vxeSeg d ≠ 0xFF))
      || !(decide (op = 6) || vxeToReg d || decide (vxeDest d = 0xFE) || decide (e.pair (vxeDest d) = 4))
      || (if 2 ≤ op ∧ op ≤ 4 then decide (vxeM d = 0) || decide (vxeN d = 0) || (decide (op ≠ 4) && decide (vxeK d = 0))
          else decide (vxeCount d = 0))
      || (vxeToReg d && (decide (computeElems k < vxeCount d) || decide (vxeTensor d ≠ 0xFFFFFFFF)))
      || (!vxeToReg d && decide (op ≠ 6) && need.isNone)
      || (decide (op = 7) && decide ((if k = 3 then 32 else 64) < 2 ^ bitsAt (leAt d 10 1) 4 3))
      || (staged && (vxeStages d).any (stageBad (leAt d 28 4) (vxeSrcB d))))
    ++ (if op = 5 ∨ op = 6 then e.tun (base + leAt d 24 4)
        else if vxeToReg d then []
        else need.elim [] fun n => e.tun (base + (vxeRangeTiles d - 1) * leAt d 24 4 + n))

/-- An AXE descriptor (R223). One that feeds the MXE tiles of a table, or of a queue, that it does not read breaks R117. -/
def axeCheck (e : DescEnv) (d : List Byte) : List Nat :=
  let k := axeKind d
  let linear := decide (axeOrder d = 0)
  let tab := e.tensor (axeTable d)
  let at' := axeBase d + e.bound * axeIndexStride d
  let tiles := if k = 0 ∧ axeOrder d = 1 then axeM d * axeK d else if k = 0 ∧ axeOrder d = 2 then axeN d * axeK d else axeTiles d
  let ring := decide (k = 0) || decide (k = 3)
  descIf (decide (3 < k) || decide (7 < leAt d 2 1) || decide (2 < axeMem d) || decide (7 < axeWord d)
      || (axePredict d && decide (k ≠ 3)) || decide ((if k = 0 then 2 else 0) < axeOrder d) || decide (axeStride d % 256 ≠ 0)
      || (ring && (decide (axeSlots d = 0) || decide (64 < axeSlots d) || decide (axeRing d % 256 ≠ 0)
            || (decide (e.pair (axeQueue d) ≠ 1) && decide (e.pair (axeQueue d) ≠ 2))))
      || (decide (k = 1) && decide (e.pair (axeQueue d) ≠ 3) && decide (e.pair (axeQueue d) ≠ 4))
      || (decide (k = 3) && decide (e.pair (axeSrcQueue d) ≠ 3) && decide (e.pair (axeSrcQueue d) ≠ 4))
      || (decide (k = 2) && (decide (axeCopyBytes d % 256 ≠ 0) || decide (2 < axeDstMem d)))
      || (decide (axeTable d ≠ noTable) && !(tab.elim false (·.versioned)))
      || ((decide (k = 1) || decide (k = 3) || (decide (k = 0) && linear)) && (decide (axeTiles d = 0) || decide (2 ^ 24 < axeTiles d)))
      || (decide (k = 0) && !linear && (decide (axeM d = 0) || decide (axeN d = 0) || decide (axeK d = 0)))
      || (decide (k = 0) && decide (e.pair (axeQueue d) = 1) && decide (axeTable d ≠ noTable) && e.unreadable (axeTable d))
      || (decide (k = 3) && decide (e.pair (axeQueue d) = 1)
            && e.feeds.any fun x => decide (x.1 = axeSrcQueue d) && e.unreadable x.2))
    ++ (if ring then e.tun (axeRing d + axeSlots d * axeRingStride d) else [])
    ++ (if k = 3 ∧ axePredict d then e.tun (axeZmap d + ceilDiv (axeTiles d) 8) else [])
    ++ (if k ≠ 3 ∧ axeTable d = noTable then
          e.reach (axeMem d) at' (if k = 2 then axeCopyBytes d else if k = 1 then axeTiles d * axeStride d else (tiles - 1) * axeStride d + 256) else [])
    ++ (if k = 1 ∧ axeTable d = noTable then e.versionWrite (axeMem d) at' (axeTiles d * axeStride d) else [])
    ++ (if k = 2 then e.reach (axeDstMem d) (axeDst d) (axeCopyBytes d) ++ e.versionWrite (axeDstMem d) (axeDst d) (axeCopyBytes d)
        else [])

/-- A SUQ descriptor (R232, R234). -/
def suqCheck (e : DescEnv) (d : List Byte) : List Nat :=
  let n := if suqBlock d then 1 else suqCount d
  descIf (decide (1 < leAt d 1 1) || decide (3 < leAt d 2 1) || decide (7 < suqWord d) || decide (suqHi d ≤ suqLo d)
      || decide (n = 0) || decide (4194304 < n))
    ++ e.reachLocal (suqIn d) (if suqBlock d then 128 else 8 * n)
    ++ e.reachLocal (suqUnique d) (16 + 8 * n) ++ e.reachLocal (suqInverse d) (4 * n) ++ e.reachLocal (suqWork d) (16 * n)
    ++ (if suqCounts d then e.reachLocal (suqCountsAddr d) (4 * n) else [])

/-- A GSU descriptor (R235). Under SUQ_LIST only the result record is reckoned: its count is known at run time. -/
def gsuCheck (e : DescEnv) (d : List Byte) : List Nat :=
  let op := gsuOp d
  let ent := e.dir.find? fun x => decide (x.tensor = gsuTable d) && decide (x.kind = 1)
  let dim := ent.elim 0 (·.dim)
  let rows := if op = 1 then (if gsuPerUnique d then gsuKeyCount d else gsuInvCount d)
    else if gsuPool d ≠ 0 then gsuInvCount d else if gsuSuqList d then 0 else gsuKeyCount d
  let tiles := ceilDiv rows 64 * ceilDiv dim 64
  let need := if op = 0 then 16 + fmtDense (gsuFormat d) else 256
  descIf (decide (3 < op) || decide (15 < leAt d 2 1) || decide (2 < gsuPool d) || decide (7 < gsuWord d) || ent.isNone
      || decide (leAt d 22 2 ≠ 0) || decide (leAt d 60 4 ≠ 0)
      || (decide (op = 0) && !gsuRaw d && ((decide (gsuFormat d ≠ 1) && decide (gsuFormat d ≠ 3))
            || decide (gsuStride d < 16 + fmtDense (gsuFormat d))))
      || (decide (op = 1) && (e.tensor (gsuGrad d)).elim true fun x => decide (x.recipe.kind ≠ 5)))
    ++ (if op = 3 then [] else e.reachLocal (gsuKeys d)
          (if gsuSuqList d then 16 else (if op = 2 then 16 else 8) * gsuKeyCount d))
    ++ (if (op = 1 ∧ gsuPerUnique d = false) then e.reachLocal (gsuInv d) (4 * gsuInvCount d) else [])
    ++ (if op = 0 ∧ gsuPool d ≠ 0 then e.reachLocal (gsuElemBase d) (4 * (gsuInvCount d + 1)) else [])
    ++ (if op = 0 ∧ gsuRaw d then
          (if gsuSuqList d then [] else e.reachLocal (gsuOut d) (gsuKeyCount d * (ent.elim 0 (·.rowGrains)) * 256))
        else if op ≤ 1 ∧ 0 < tiles then e.reachLocal (gsuOut d) ((tiles - 1) * gsuStride d + need) else [])

/-- An SMP descriptor (R183, R185). -/
def smpCheck (e : DescEnv) (d : List Byte) : List Nat :=
  match e.plans.find? fun p => decide (p.id = smpPlan d) with
  | none => [0x13]
  | some p =>
    let w := smpWords d
    descIf (decide (smpFirst d = 0) || decide (smpLast d < smpFirst d) || decide (p.hops < smpLast d) || decide (1 < leAt d 4 1)
        || !(allZero (slice d 5 3)) || decide (w &&& 0x07070707 ≠ w) || !(allZero (slice d 52 12))
        || decide (smpSeedCount d = 0) || decide (p.nodeCap < smpSeedCount d) || decide (smpOutBytes d < p.outBytes))
      ++ (if smpFromWork d then [] else e.reachLocal (smpSeeds d) (16 * smpSeedCount d) ++ e.reachLocal (smpOut d) (smpOutBytes d))
      ++ (if smpFirst d = 1 then [] else e.reachLocal (smpFrontier d) 128)

/-- The reasons for which a descriptor fails; the engine code is its first byte. -/
def descCheck (e : DescEnv) (d : List Byte) : List Nat :=
  match leAt d 0 1 with
  | 0 => axeCheck e d
  | 1 => mxeCheck e d
  | 2 => vxeCheck e d
  | 3 => gsuCheck e d
  | 4 => suqCheck e d
  | 5 => smpCheck e d
  | _ => [0x13]

/-- Reasons for which a command of a core's program fails where the core decides it (R52, R364, R368). -/
def coreCommandFaults (env : LoadEnv) (masks : List Nat) (dieBars : List (Nat × Nat × Nat × Nat)) (domBars : List (Nat × Nat))
    (core : Nat) (descs : List (List Byte)) (w : Nat) : List Nat :=
  let unassigned := fun (c x : Nat) => decide (x ≤ 47) && !(bitAt (masks.getD c 0) x)
  match mcfOpcode w with
  | 0x01 =>
    (if (descs[issueDesc w]?).elim true fun d => decide (leAt d 0 1 ≠ issueEngine w) then [0x13] else [])
      ++ (if unassigned core (issueWatch w) then [0x0E] else [])
  | 0x0A => if unassigned core (waitWatch w) then [0x0E] else []
  | 0x0B =>
    if signalRemote w then (if env.part ≠ 0 then [0x15] else [])
    else if env.cores.contains (signalCore w) = false then [0x12]
    else if unassigned (signalCore w) (signalWatch w) then [0x0E] else []
  | 0x0D =>
    if barrierDomain w then
      (if 1 ≤ barrierIndex w ∧ barrierIndex w ≤ 15
          ∧ (domBars.find? fun b => decide (b.1 = barrierIndex w)).elim true (fun b => !(bitAt b.2 core)) then [0x0E] else [])
    else
      (if barrierCluster w ≤ 11 ∧ (dieBars.find? fun b => decide (b.1 = dieOfCore core) && decide (b.2.1 = barrierCluster w)
            && decide (b.2.2.1 = barrierIndex w)).elim true (fun b => !(bitAt b.2.2.2 (core % 96))) then [0x0E] else [])
  | _ => []

end Sys2Proof.Machine
end

