-- ==== Sys2Proof/Machine/Load.lean ====
section
/-!
DEFINITION. Loading a bundle: its header and section table, the checks in order of reason code (R35 to R41), and what a
load that passes them leaves (R40, R48, R67, R115, R218, R221, R551).
-/

namespace Sys2Proof.Machine

/-! ### Header and section table (R35 to R37) -/

/-- Entries of the section table: TYPE, FLAGS, LENGTH, OFFSET. -/
def sectionEntries (b : List Byte) : List (Nat × Nat × Nat × Nat) :=
  (List.range (leAt b 6 2)).map fun i =>
    let o := 0x40 + 16 * i
    (leAt b o 2, leAt b (o + 2) 2, leAt b (o + 4) 4, leAt b (o + 8) 8)

/-- The sections of a bundle. -/
def sectionsOf (b : List Byte) : List Section :=
  (sectionEntries b).map fun e => { type := e.1, offset := e.2.2.2, bytes := (b.drop e.2.2.2).take e.2.2.1 }
/-- A section by its type; an empty one at offset 0 where the bundle holds none. -/
def sectionAt (ss : List Section) (t : Nat) : Section := (ss.find? fun s => decide (s.type = t)).getD {}

/-- The first part of FORMAT: the offset at which the header, the section table or R36 is broken first (R38). A mandatory section that is
missing is a fault of the table as a whole, at offset 0x40 (assumption 16). A section of length 0 may lie at TOTAL_LENGTH, and bytes that
end within the table leave the fault to SIZE (DESIGN CHOICE, assumption 151). -/
def formatHead (b : List Byte) : Option Nat :=
  let n := leAt b 6 2
  let total := leAt b 0x10 8
  let tend := 0x40 + 16 * n
  let es := sectionEntries b
  if leAt b 0 4 ≠ 0x444E424D then some 0
  else if leAt b 4 2 ≠ 1 then some 4
  else if n < 5 ∨ 16 < n then some 6
  else if leAt b 0x0D 3 ≠ 0 then some 0x0D
  else if total < tend then some 0x10
  else if leAt b 0x18 8 ≠ 0 then some 0x18
  else if b.length < tend then none
  else if ([1, 2, 3, 8, 9].all fun t => es.any fun e => decide (e.1 = t)) = false then some 0x40
  else
    (es.zipIdx.find? fun e =>
      let lo := e.1.2.2.2
      let len := e.1.2.2.1
      decide (e.1.1 = 0) || decide (9 < e.1.1) || decide (e.1.2.1 ≠ 0)
        || (es.take e.2).any (fun x => decide (x.1 = e.1.1) || rangesMeet lo len x.2.2.2 x.2.2.1)
        || decide (total < lo + len) || rangesMeet lo len 0 tend).map fun e => 0x40 + 16 * e.2

/-! ### The checks (R38, R39) -/

/-- The lowest reason, and the lowest offset of those that fail it. -/
def leastProblem (ps : List (Nat × Nat)) : Option (Nat × Nat) :=
  ps.foldl (fun m p => match m with
    | none => some p
    | some q => if p.1 < q.1 ∨ (p.1 = q.1 ∧ p.2 < q.2) then some p else some q) none

/-- The bundle that a well-formed image spells. -/
def bundleOf (b : List Byte) : Bundle :=
  let ss := sectionsOf b
  let sync := (sectionAt ss 7).bytes
  let hasSync := (ss.any fun s => decide (s.type = 7)) && !(syncHeaderBad sync)
  let kiln := (sectionAt ss 4).bytes
  { bytes := b, digest := slice b 0x20 32, contractLevel := leAt b 8 4, fwMajor := leAt b 0x0C 1
    roles := (rolesOf (sectionAt ss 1)).map (·.role)
    roleMap := (sectionAt ss 8).bytes.map (·.toNat)
    descs := (coreItems (sectionAt ss 2)).map fun c => (c.core, c.context, c.descs)
    tensors := catalogueOf (sectionAt ss 3).bytes
    statsBase := catStats (sectionAt ss 3).bytes
    rules := kilnRulesOf kiln
    schedules := schedulesOf kiln
    plans := plansOf (sectionAt ss 5).bytes
    flows := flowsOf (sectionAt ss 6).bytes
    queueMap := if hasSync then queueMapOf sync else []
    watchMasks := if hasSync then watchMasksOf sync else []
    dieBars := if hasSync then dieBarsOf sync else []
    domBars := if hasSync then domBarsOf sync else []
    requirements := requirementsOf (sectionAt ss 9).bytes }

/-- The queues of a core that its MXE and VXE descriptors fill, each with the tensor that is written (R118, R126). -/
def coreFeeds (ds : List (List Byte)) : List (Nat × Nat) :=
  ds.flatMap fun d =>
    if leAt d 0 1 = 1 then (if mxeOutPush d then [(leAt d 7 1, mxeTensor d)] else [])
    else if leAt d 0 1 = 2 ∧ vxeDest d < 16 ∧ vxeOp d ≠ 6 then [(vxeDest d, vxeTensor d)] else []

/-- Problems of the descriptors and programs of every core (R39). An ISSUE that names a descriptor of another engine, or one that the core
does not hold, fails DESCRIPTOR at the command word (DESIGN CHOICE, assumption 151). -/
def coreProblemsAll (env : LoadEnv) (x : Bundle) (roles : List RoleItem) (items : List CoreItem) (dir : List DirEntry) (floor : Nat) :
    List (Nat × Nat) :=
  let roleOf := fun (c : Nat) => roles.find? fun r => decide (r.role.id = x.roleMap.getD c 0xFF)
  let top := fun (c : Nat) (n : Nat) =>
    tunBytes - roundUp (8 * ((roleOf c).elim 0 fun r => r.role.words.length) + 64 * n) 65536
  ((items.filter fun i => env.dies.contains (dieOfCore i.core)).flatMap fun i =>
    let ws := ((roleOf i.core).elim [] fun r => r.role.words).map (·.toNat)
    i.descs.zipIdx.flatMap fun d =>
      (descCheck { part := env.part, queues := x.queueMap.getD i.core [], top := top i.core i.descs.length, floor := floor
                   tensors := x.tensors, dir := dir, plans := x.plans, bound := boundMax ws d.2, capacity := env.capacity
                   own := env.own, feeds := coreFeeds i.descs } d.1).map
        fun r => (r, i.offset + 16 + 64 * d.2))
    ++ env.cores.flatMap fun c =>
      (roleOf c).elim [] fun r =>
        let ds := (items.find? fun i => decide (i.core = c)).elim [] (·.descs)
        r.role.words.zipIdx.flatMap fun w =>
          (coreCommandFaults env x.watchMasks x.dieBars x.domBars c ds w.1.toNat).map fun k => (k, r.offset + 8 + 8 * w.2)

/-- Every problem of an image of which all bytes have arrived, the first part of FORMAT apart. A partition HBM range that meets a version
lies in the module area and fails HBM_CAPACITY first (R663). PRIVILEGE never fails (R39). A cask reserve beyond the cellar is no item of
the bundle: it reports offset 0 (DESIGN CHOICE, assumption 151). -/
def bundleProblems (env : LoadEnv) (busy : Bool) (b : List Byte) : List (Nat × Nat) :=
  let ss := sectionsOf b
  let x := bundleOf b
  let has := fun (t : Nat) => ss.any fun s => decide (s.type = t)
  let graphs := x.plans.map (·.graph)
  let area := placeTables env graphs x.tensors
  let floor := area.elim 0 (·.2.2)
  let dir := area.elim [] (·.2.1)
  let roles := rolesOf (sectionAt ss 1)
  let items := coreItems (sectionAt ss 2)
  roleProblems (sectionAt ss 1) ++ coreProblems env (sectionAt ss 2)
    ++ catalogueProblems env graphs (x.domBars.map (·.1)) (sectionAt ss 3)
    ++ (if has 4 then kilnProblems env x.tensors (sectionAt ss 4) else [])
    ++ (if has 5 then planProblems x.tensors (sectionAt ss 5) else [])
    ++ (if has 6 then flowProblems env floor x.watchMasks (sectionAt ss 6) else [])
    ++ (if has 7 then syncProblems env (sectionAt ss 7) else [])
    ++ roleMapProblems env roles (sectionAt ss 8) ++ requirementProblems env (sectionAt ss 9)
    ++ coreProblemsAll env x roles items dir floor
    ++ (if 2 ^ 32 < leAt b 0x10 8 then [(0x02, 0)] else [])
    ++ (if shake256 (b.drop 0x40) ≠ slice b 0x20 32 then [(0x03, 0)] else [])
    ++ (if busy then [(0x04, 0)] else [])
    ++ (if leAt env.record 0x010 4 < leAt b 8 4 then [(0x05, 8)] else [])
    ++ (if leAt b 0x0C 1 ≠ leAt env.record 0x00F 1 then [(0x06, 0x0C)] else [])
    ++ (if env.cellar < env.reserve then [(0x0C, 0)] else [])

/-- The reason and offset for which a bundle is refused; none when every check passes (R38). -/
def bundleRefusal (env : LoadEnv) (busy : Bool) (b : List Byte) : Option (Nat × Nat) :=
  match formatHead b with
  | some o => some (0x01, o)
  | none =>
    if b.length < leAt b 0x10 8 then some (0x02, 0)
    else leastProblem (bundleProblems env busy (b.take (leAt b 0x10 8)))

/-- RECORD_OFFSET of the requirement at a bundle offset, which the REQUIREMENT reason also carries (R39). -/
def refusedRecordOffset (b : List Byte) (r : Nat × Nat) : Nat := if r.1 = 0x07 then leAt b r.2 2 else 0

/-- What a load of partition `p` is checked against: without a position, or in a partition other than 0, the domain is the
module alone. -/
def World.loadEnv (w : World) (p : Nat) : LoadEnv :=
  let x := w.part p
  let base : LoadEnv := { part := p, record := x.record, dies := x.dies, capacity := w.hbmCapacity p
                          cellar := x.cellarGib * 2 ^ 30, reserve := if p = 0 then w.config.caskReserve else 0 }
  match p, w.fab.position with
  | 0, some q =>
    let c := w.config
    { base with
      positions := c.positions, dense := c.dense q, own := some q
      peers := ((List.range c.activeSlots).map fun s => q / 16 * c.activeSlots + s).filter fun y => decide (y ≠ c.dense q) }
  | _, _ => base

/-! ### Installing a bundle (R40) -/

/-- A core after a load: its role, entry points and contexts; its queues, watches and predictors as at reset. -/
def coreAfterLoad (x : Bundle) (c : Nat) : Core :=
  let role := x.roleOf c
  let ctx := (x.ofCore c).elim [] (·.1)
  let ctxMap := fun (o : Nat) => (List.range 4).foldl (fun m i => AMap.set 0 m i (leAt ctx (o + i) 1)) ([] : AMap Nat)
  { role := role.elim 0x7F (·.id), entryPc := role.elim 0 (·.entryPc), evalPc := role.bind (·.evalPc)
    queueMap := ((x.queueMap.getD c []).zipIdx).foldl (fun m q => AMap.set 0 m q.2 q.1) []
    mxeCtx := ctxMap 0, vxeCtx := ctxMap 4 }

/-- Writes a core's program region: its commands, then its descriptors, at the top of tun memory (R48). -/
def World.writeProgram (w : World) (x : Bundle) (c : Nat) : World :=
  let words := ((x.roleOf c).elim [] (·.words)).flatMap fun v => leBytes 8 v.toNat
  w.tunWrite c (tunBytes - x.regionBytes c) (words ++ ((x.ofCore c).elim [] (·.2)).flatten)

/-- Zeroes the data part of the tun memories and the cluster stores of a partition, whose cores have the program regions of a bundle
(R40, R67, R68). -/
def World.zeroLocal (w : World) (p : Nat) (x : Bundle) : World :=
  let w := (w.coresOf p).foldl (fun w c =>
    { w with tun := w.tun.zero (c * tunBytes) ((c + 1) * tunBytes - x.regionBytes c) }) w
  (w.clustersOf p).foldl (fun w k => { w with cstore := w.cstore.zero (k * storeBytes) ((k + 1) * storeBytes) }) w

/-- The clusters' units, dispatchers, flows and barriers of a partition as a load leaves them; SYNC_ASSIGN's barriers. -/
def World.resetUnits (w : World) (p : Nat) (x : Bundle) : World :=
  let w := { w with
    clusters := (w.clustersOf p).foldl (fun m k => AMap.set {} m k {}) w.clusters
    dies := (w.diesOf p).foldl (fun m d => AMap.set {} m d {}) w.dies
    flows := (w.diesOf p).foldl (fun m d => AMap.clear m (256 * d) (256 * d + 256)) w.flows
    bars := (w.clustersOf p).foldl (fun m k => AMap.clear m (64 * k) (64 * k + 64)) w.bars
    dbars := AMap.clear w.dbars (16 * p) (16 * p + 16) }
  { w with
    bars := x.dieBars.foldl (fun m b =>
      let mem := (maskBits 96 b.2.2.2).map (96 * b.1 + ·)
      AMap.set {} m ((12 * b.1 + b.2.1) * 64 + b.2.2.1) { expected := mem.length, members := mem }) w.bars
    dbars := x.domBars.foldl (fun m b =>
      let mem := maskBits 384 b.2
      AMap.set {} m (16 * p + b.1) { expected := mem.length, members := mem }) w.dbars }

/-- Writes the table directory into HBM (R218). -/
def World.writeDirectory (w : World) (p base : Nat) : World :=
  (w.part p).dir.zipIdx.foldl (fun w e => w.hbmStore p (base + 128 * e.2) e.1.image) w

/-- Base of the table directory of a partition, as GSU_DIR_BASE reports it (R218). -/
def World.dirBase (w : World) (p : Nat) : Nat := (w.hbmCapacity p - 128 * (w.part p).dir.length) / 256 * 256

/-- A load that passed every check (R40): the fault registers' units are as after reset, and the partition is loaded. SEQ_CTRL is software's:
a STOP stays (R69). -/
def World.install (w : World) (p : Nat) (x : Bundle) : World :=
  let env := w.loadEnv p
  let area := placeTables env (x.plans.map (·.graph)) x.tensors
  let base := area.elim 0 (·.1)
  let w := { w with
    nmrFaulted := w.nmrFaulted.filter fun st => decide (w.ownerOfDie (st / 2) ≠ p)
    cores := (w.coresOf p).foldl (fun m c => AMap.set {} m c { coreAfterLoad x c with stop := (w.core c).stop }) w.cores }
  let w := (w.zeroLocal p {}).resetUnits p x
  let w := (w.coresOf p).foldl (fun w c => w.writeProgram x c) w
  let w := w.updPart p fun y =>
    { y with job := .loaded, bundle := some x, dir := area.elim [] (·.2.1), started := false, step := 0, lastSwitched := none
             cycle := 0, c0 := 0, restored := false, running := false, eval := false, stopAtBoundary := false, due := none, inBarrier := false
             closeSent := false, kilnDone := false, migrateSent := false, migrateOut := 0
             pools := [], stats := [], formats := [], prevAmax := [], overflowRaised := [], skipRaised := [], accepted := []
             forwarding := [], heldWrites := [], mcSent := 0, mcReceived := 0, progress := 0
             session := none, dump := {} }
  let w := w.writeDirectory p base
  (w.clustersOf p).foldl (fun w k => w.setReg (Block.gsu.addr k 0x000) (mkField base 0 48)) w

end Sys2Proof.Machine
end

