-- ==== Sys2Proof/Machine/Net.lean ====
section
/-!
DEFINITION. Sending over the fabric (chapter 11): positions and physical modules (R383 to R389), the route of a packet and its
CLASS (R400 to R402), the packet header (R396, R398, R399), circuits (R409) and multicast (R413). The modules that units of
this chapter use to reach another position call `sendPacket` alone.
-/

namespace Sys2Proof.Machine

/-! ### Positions -/

/-- The physical number that holds a position; none where the table has no entry (R387). -/
def World.physicalOf (w : World) (pos : Nat) : Option Nat :=
  let x := AMap.get 0xFFFF w.fab.posTable pos
  if x = 0xFFFF then none else some x

/-- Whether requests to a position stay in this module: the module holds it. -/
def World.isOwn (w : World) (pos : Nat) : Bool := decide (w.fab.position = some pos)

/-- The tag of a request: the kind of requester in [31:29], its instance in [28:20] and a running number in [19:0]. Kinds: 0 AXE
read, 1 AXE write, 2 SIGNAL, 3 GSU read, 4 NMR command, 5 sampler, 6 register access, 7 module engines. -/
def mkTag (kind inst n : Nat) : Nat := kind * 2 ^ 29 + inst % 2 ^ 9 * 2 ^ 20 + n % 2 ^ 20
def tagKind (tag : Nat) : Nat := bitsAt tag 29 3
def tagInst (tag : Nat) : Nat := bitsAt tag 20 9

/-- A global address of space 0b01 (R388). -/
def globalAddr (pos offset : Nat) : Nat := 2 ^ 62 + pos % 2 ^ 14 * 2 ^ 48 + offset % 2 ^ 48
def addrSpace (a : Nat) : Nat := bitsAt a 62 2
def addrPosition (a : Nat) : Nat := bitsAt a 48 14
def addrOffset (a : Nat) : Nat := bitsAt a 0 48

/-! ### Routes (R400 to R402) -/

/-- The slot and global port of the link taken from this group to group `g` (R401): the first of k0, k0 + 1, … that is up. -/
def World.linkTo (w : World) (g key : Nat) : Option (Nat × Nat) :=
  let c := w.config
  let n := c.pairLinks
  if n = 0 then none
  else (((List.range n).map fun i => c.linkAt c.group g ((key + i) % n)).find? fun l => w.globalUp l.1 l.2)

/-- First port and CLASS of a minimal route to physical module (g, s) (R400). -/
def World.minimalHop (w : World) (g s key : Nat) : Nat × Nat :=
  if g = w.config.group then (w.intraHop s, 2)
  else
    match w.linkTo g key with
    | none => (0, 0)
    | some l => if l.1 = w.fab.slot then (16 + l.2, 1) else (w.intraHop l.1, 0)

/-- The next port of a packet in transit and its CLASS there, never a lower one (R401, R402, R404). -/
def World.transitHop (w : World) (q : Packet) (phys : Nat) : Nat × Nat :=
  let cls := bitsAt q.flags.toNat 4 2
  let key := if w.config.pairLinks = 0 then 0 else (q.src.toNat + q.dst.toNat) % w.config.pairLinks
  let via := q.viaGroup.toNat
  let toVia := bitAt q.flags.toNat 1 && decide (q.src.toNat / 16 = w.config.group) && decide (via ≠ w.config.group)
  let hop := if toVia then w.minimalHop via 0 key else w.minimalHop (phys / 17) (phys % 17) key
  (hop.1, max cls hop.2)

/-- The packets in a port input's buffers of one CLASS. -/
def World.buffered (w : World) (port cls : Nat) : List (Nat × Packet) := AMap.get [] w.fab.buffers (4 * port + cls)

/-- Whether a buffered packet waits for output port `out`. -/
def World.waitsFor (w : World) (out : Nat) (x : Nat × Packet) : Bool :=
  (w.physicalOf x.2.dst.toNat).elim false fun phys =>
    !(w.fab.failed.contains phys) && decide ((w.transitHop x.2 phys).1 = out)

/-- This module's estimate of the bytes queued at an output port: header and payload of the packets that wait for it (DESIGN CHOICE,
assumption 168: the spec does not say how the estimate is formed). -/
def World.queuedAt (w : World) (out : Nat) : Nat :=
  ((List.range 48).map fun i =>
    ((List.range 4).map fun c => (((w.buffered i c).filter (w.waitsFor out)).map fun x => 32 + x.2.payload.length).sum).sum).sum

/-- Estimated queued bytes at a global port of a slot of this group: this module's own, and the others' from the figures that the slots
exchange (R402). -/
def World.queueFigure (w : World) (l : Nat × Nat) : Nat :=
  if l.1 = w.fab.slot then w.queuedAt (16 + l.2) else (AMap.get [] w.fab.figures l.1).getD l.2 0

/-- The next group after a counter, other than this group and group `g` (R402). -/
def World.viaGroup (w : World) (g : Nat) : Option Nat :=
  ((List.range w.config.domainGroups).map fun i => (w.fab.viaCounter + i) % w.config.domainGroups).find? fun x =>
    decide (x ≠ g) && decide (x ≠ w.config.group)

/-- The route of a packet to a position held by physical module `phys`: port, CLASS, and the intermediate group of a
non-minimal route (R400 to R402). -/
def World.route (w : World) (dst phys : Nat) : (Nat × Nat × Option Nat) × World :=
  let g := phys / 17
  let key := if w.config.pairLinks = 0 then 0 else (w.ownPosition + dst) % w.config.pairLinks
  let minimal := w.minimalHop g (phys % 17) key
  let bias := w.regField (Block.fab.addr 0 0x000) 8 16
  if g = w.config.group ∨ w.regField (Block.fab.addr 0 0x000) 0 1 = 0 then ((minimal.1, minimal.2, none), w)
  else
    match w.viaGroup g with
    | none => ((minimal.1, minimal.2, none), w)
    | some v =>
      let w1 := { w with fab := { w.fab with viaCounter := (v + 1) % w.config.domainGroups } }
      match w.linkTo g key, w.linkTo v key with
      | some a, some b =>
        if 2 * w.queueFigure b + bias < w.queueFigure a then
          let hop := w.minimalHop v 0 key
          ((hop.1, hop.2, some v), w1.tick .fab 0 0x090)
        else ((minimal.1, minimal.2, none), w1)
      | _, _ => ((minimal.1, minimal.2, none), w1)

/-! ### Sending (R396, R398, R399) -/

/-- A PACKET record of FAB (R589): direction 0 sent, 1 received. -/
def World.packetRecord (w : World) (t : Sid) (kind dir peer tag address : Nat) : World :=
  w.act t (ioSource 0) 0x06 5 peer tag
    (leBytes 1 kind ++ leBytes 1 dir ++ leBytes 2 peer ++ leBytes 4 tag ++ leBytes 8 address)

/-- Changes a port. -/
def World.updPort (w : World) (i : Nat) (f : Port → Port) : World :=
  { w with fab := { w.fab with ports := AMap.upd {} w.fab.ports i f } }

/-- Frames that a replay buffer holds (R394). -/
def replayFrames : Nat := 4096

/-- One link frame leaves a port: it takes the next link sequence number and stays in the replay buffer, which holds 4,096; how often it is
sent again for a failed CRC is a free value (R394). -/
def World.frameOut (w : World) (port kind : Nat) (p : Packet) : World :=
  let seq := AMap.get 0 w.fab.linkSeq port
  let again := (Config.frameResends [port, (AMap.get 0 w.counters (Block.fabPort.addr port 0x080)).toNat]).toNat % 8
  let w := w.updPort port fun x => { x with replay := (x.replay ++ [(seq, kind, p)]).drop (x.replay.length + 1 - replayFrames) }
  ({ w with fab := { w.fab with linkSeq := AMap.set 0 w.fab.linkSeq port ((seq + 1) % 2 ^ 16) } }.tick .fabPort port 0x080).count
    (Block.fabPort.addr port 0x090) again

/-- Whether a packet kind travels on circuits (R409). -/
def circuitKind (kind : Nat) : Bool := decide (kind = 0x0D) || decide (kind = 0x10)

/-- The byte mask that a WRITE of `n` bytes to offset `a` carries (R270, R397): one for a write that does not cover whole grains. -/
def shortMask (kind a n : Nat) : List Bool :=
  if kind = 0x03 ∧ (a % 256 ≠ 0 ∨ n % 256 ≠ 0) then List.replicate n true else []

/-- The circuit of this module to a position (R409). -/
def World.circuitTo (w : World) (src dst : Nat) : Option Circuit := w.fab.circuits.find? fun c => decide (c.src = src) && decide (c.dst = dst)

/-- Whether every link of a circuit is up, and none of them has gone down since the last drain (R409). -/
def World.circuitUp (w : World) (c : Circuit) : Bool :=
  !(w.fab.circuitsDown.contains c.dst) && c.path.all fun x => w.linkUp (x.1 / 17) (x.1 % 17) x.2

/-- Sends a packet on behalf of position `src` to a position that has an entry in the position table. It carries the count of
its pair (R399), 0 when it is sent on for another (R251; assumption 169); a packet to a failed module is discarded (R403). A packet whose
circuit is up takes it, outside the routes (R408, R409). -/
def World.sendFrom (w : World) (t : Sid) (src kind dst source tag address : Nat) (ordered stepped : Bool) (payload : List Byte)
    (mask : List Bool := []) : World :=
  match w.physicalOf dst with
  | none => w
  | some phys =>
    let own := decide (src = w.ownPosition)
    let count := if own then AMap.get 0 w.fab.pairSent dst else 0
    let w := (if own then { w with fab := { w.fab with pairSent := AMap.set 0 w.fab.pairSent dst (count + 1) } } else w).tick .fab 0 0x080
    if w.fab.failed.contains phys then w.tick .fab 0 0x0A0
    else
      let circuit := if circuitKind kind then w.circuitTo src dst else none
      let live := circuit.filter w.circuitUp
      let w := if circuit.isSome ∧ live.isNone then
          { w with fab := { w.fab with circuitsDown := if w.fab.circuitsDown.contains dst then w.fab.circuitsDown else w.fab.circuitsDown ++ [dst] } }.tick
            .fab 0 0x0B0
        else w
      let r : (Nat × Nat × Option Nat) × World :=
        match live with
        | some c => (((c.path.headD (0, 0)).2, if phys / 17 = w.config.group then 2 else if (c.path.headD (0, 0)).2 < 16 then 0 else 1, none), w)
        | none => w.route dst phys
      let w := r.2
      let flags := (if ordered then 1 else 0) + (if r.1.2.2.isSome then 2 else 0)
        + (if live.isSome then 8 else 0) + 16 * r.1.2.1 + (if stepped then 64 else 0)
      let p : Packet :=
        { flags := BitVec.ofNat 8 flags, dst := BitVec.ofNat 14 dst, src := BitVec.ofNat 14 src
          viaGroup := BitVec.ofNat 8 (r.1.2.2.getD 0)
          stepTag := if stepped then BitVec.ofNat 8 (w.part 0).step else 0
          source := BitVec.ofNat 16 source, tag := BitVec.ofNat 32 tag, address := BitVec.ofNat 64 address
          pairCount := count, payload := payload, forwarded := !own
          mask := if mask = [] then shortMask kind (addrOffset address) payload.length else mask }
      ((w.frameOut r.1.1 kind p).packetRecord t kind 0 dst tag address).emit (.packet kind p)

/-- Sends a packet of this module. -/
def World.sendPacket (w : World) (t : Sid) (kind dst source tag address : Nat) (ordered stepped : Bool) (payload : List Byte) :
    World :=
  w.sendFrom t w.ownPosition kind dst source tag address ordered stepped payload

/-- The other positions of this module's group. -/
def World.groupMembers (w : World) : List Nat :=
  ((List.range w.config.activeSlots).map (w.ownPosition / 16 * 16 + ·)).filter fun q => decide (q ≠ w.ownPosition)

/-- The positions that a multicast packet leaves its sender for: the heads of the other groups and its own head, or, from a head, its
members (R413; assumption 102). -/
def World.multicastTargets (w : World) : List Nat :=
  let g := w.ownPosition / 16
  (((List.range w.config.domainGroups).filter fun x => decide (x ≠ g)).map (16 * ·))
    ++ (if w.ownPosition % 16 = 0 then w.groupMembers else [16 * g])

/-- One copy of a multicast packet leaves for a position; one for a module marked failed is discarded (R403). -/
def World.copyTo (kind : Nat) (p : Packet) (w : World) (q : Nat) : World :=
  match w.physicalOf q with
  | none => w
  | some phys =>
    let w := w.tick .fab 0 0x080
    if w.fab.failed.contains phys then w.tick .fab 0 0x0A0
    else
      let key := if w.config.pairLinks = 0 then 0 else (w.ownPosition + q) % w.config.pairLinks
      w.frameOut (w.minimalHop (phys / 17) (phys % 17) key).1 kind p

/-- Sends a multicast packet to every position of the domain, and counts its grains (R388, R413). -/
def World.sendMulticast (w : World) (t : Sid) (kind source tag offset : Nat) (stepped : Bool) (payload : List Byte) : World :=
  let address := 2 ^ 63 + 0x3FFF * 2 ^ 48 + offset % 2 ^ 48
  let p : Packet :=
    { flags := BitVec.ofNat 8 (4 + (if stepped then 64 else 0)), dst := 0x3FFF, src := BitVec.ofNat 14 w.ownPosition
      stepTag := if stepped then BitVec.ofNat 8 (w.part 0).step else 0
      source := BitVec.ofNat 16 source, tag := BitVec.ofNat 32 tag, address := BitVec.ofNat 64 address, payload := payload
      mask := shortMask kind (offset % 2 ^ 48) payload.length }
  let w := w.updPart 0 fun x => { x with mcSent := x.mcSent + max 1 (ceilDiv payload.length 256) }
  ((w.multicastTargets.foldl (World.copyTo kind p) w).packetRecord t kind 0 0x3FFF tag address).emit (.packet kind p)

/-- Whether new packets may be injected: no drain holds injection (R419). -/
def World.canSend (w : World) : Bool := w.fab.drain.injecting

/-- A fabric request fails for want of a position entry (R389, R426). -/
def World.noPosition (w : World) (pos : Nat) : World :=
  w.setReg (Block.fab.addr 0 0x030) (mkField 1 0 4 ||| mkField 0x40 8 8 ||| mkField pos 16 14 ||| mkField 1 63 1)

end Sys2Proof.Machine
end

