-- ==== Sys2Proof/Machine/Nmr.lean ====
section
/-!
DEFINITION. The near-memory reducers and the homes of rows (R236, R241 to R252, R263, R264): where a row lives, window adds,
read-out, migration at the home, forwarding, and the catch-up copy (R219 to R221).
-/

namespace Sys2Proof.Machine

/-! ### Homes (R236, R410 to R412) -/

/-- The current and the pending override table of an entry, and where the pending one lies. -/
def DirEntry.curOver (e : DirEntry) : List (Nat × Nat × Nat) := if e.current then e.over1 else e.over0
def DirEntry.penOver (e : DirEntry) : List (Nat × Nat × Nat) := if e.current then e.over0 else e.over1
def DirEntry.penOverBase (e : DirEntry) : Nat := if e.current then e.override0 else e.override1
def DirEntry.setPenOver (e : DirEntry) (x : List (Nat × Nat × Nat)) : DirEntry :=
  if e.current then { e with over0 := x } else { e with over1 := x }

/-- The home that the shard map gives a row of a table, under REPLICA too; this module's own position where the table is held whole here
(R412, R413). -/
def World.mapHome (w : World) (p : Nat) (e : DirEntry) (row : Nat) : Nat :=
  match p, w.fab.position, (w.tensor p e.tensor).bind (·.map) with
  | 0, some _, some m => w.config.positionAt (shardHome w.config.positions (m.shardOf row))
  | _, _, _ => w.ownPosition

/-- Whether every position holds a tensor of partition `p` whole (R413). -/
def World.isReplica (w : World) (p tensor : Nat) : Bool :=
  decide (p = 0) && w.fab.position.isSome && ((w.tensor p tensor).bind (·.map)).elim false (·.replica)

/-- The home of a row: its current override entry, else the shard map's (R236). -/
def World.homeOf (w : World) (p : Nat) (e : DirEntry) (row : Nat) : Nat :=
  (e.curOver.find? fun x => decide (x.1 = row)).elim (w.mapHome p e row) (·.2.1)

/-- Whether this module homes a row. -/
def World.homesRow (w : World) (p : Nat) (e : DirEntry) (row : Nat) : Bool := decide (w.homeOf p e row = w.ownPosition)

/-- Whether a row is read here: this module homes it, or holds it under REPLICA (R413). -/
def World.readsRow (w : World) (p : Nat) (e : DirEntry) (row : Nat) : Bool := w.homesRow p e row || w.isReplica p e.tensor

/-- The table and the row that lie at an offset of a pending version, for a REPLICA tensor: of a grid of tiles, the first row of the
tile (R413, R662). -/
def World.replicaAt (w : World) (off : Nat) : Option (DirEntry × Nat) :=
  ((w.part 0).dir.find? fun e => w.isReplica 0 e.tensor && decide (e.penBase ≤ off) && decide (off < e.penBase + e.bytes)).bind fun e =>
    (w.tensor 0 e.tensor).map fun x =>
      (e, if e.kind = 1 then (off - e.penBase) / e.recordBytes
          else 64 * ((off - e.penBase) / max 1 x.tileStride / max 1 (ceilDiv x.cols 64)))

/-- Whether a write at an offset of a pending version is a home's write of a REPLICA tensor (R413). -/
def World.replicaHome (w : World) (off : Nat) : Bool :=
  match w.replicaAt off with
  | none => false
  | some (e, row) =>
    if e.kind = 1 then w.homesRow 0 e row
    else (List.range 64).any fun i => decide (w.mapHome 0 e (row + i) = w.ownPosition)

/-- A home's write into the pending version of a REPLICA tensor is sent to every position, in packets of at most 2,048 bytes (R413). -/
def World.tellReplicas (w : World) (t : Sid) (src p a : Nat) (bs : List Byte) : World :=
  if p = 0 ∧ w.replicaHome a then
    (List.range (ceilDiv bs.length 2048)).foldl (fun w i =>
      w.sendMulticast t 0x03 src (mkTag 7 0 0) (a + 2048 * i) true (slice bs (2048 * i) (min 2048 (bs.length - 2048 * i)))) w
  else w

/-- A unit of this module writes HBM, and tells the other positions where R413 asks for it. -/
def World.homeWrite (w : World) (t : Sid) (src p a : Nat) (bs : List Byte) : World :=
  (w.hbmWrite t src w.ownPosition p a bs).tellReplicas t src p a bs

/-- The forwarding entry of a row (R251). -/
def World.forwardTo (w : World) (p table row : Nat) : Option Nat :=
  ((w.part p).forwarding.find? fun f => decide (f.1 = table) && decide (f.2.1 = row)).map (·.2.2.1)

/-! ### Faults (R252, R260, R261) -/

/-- The stack whose NMR serves a partition HBM offset. -/
def World.stackAt (w : World) (p a : Nat) : Nat := (hbmLocate (w.part p).good a).1 / 32

/-- A FAULT register of the GSU, SUQ or NMR (R260). -/
def unitFaultReg (kind check tensor : Nat) : Word :=
  mkField kind 0 4 ||| mkField check 8 8 ||| mkField tensor 16 24 ||| mkField 1 63 1

/-- The NMR of a stack stops the home's partition with METADATA (R252), and serves no command until the next load (R260). -/
def World.nmrStop (w : World) (t : Sid) (p st check table row : Nat) : World :=
  let w := { w with nmrFaulted := if w.nmrFaulted.contains st then w.nmrFaulted else st :: w.nmrFaulted }
  let w := (w.setReg (Block.nmr.addr st 0x008) (unitFaultReg 1 check table)).setReg (Block.nmr.addr st 0x010) (mkField row 0 48)
  w.metadata t p (nmrSource st) check table

/-- Whether the NMR of some stack of a partition has stopped (R260). -/
def World.nmrDown (w : World) (p : Nat) : Bool := w.nmrFaulted.any fun st => decide (w.ownerOfDie (st / 2) = p)

/-! ### Window cells (R241, R245, R246) -/

/-- A two's-complement number of `n` bits as an integer. -/
def signedOf (n v : Nat) : Int := if v % 2 ^ n < 2 ^ (n - 1) then (v % 2 ^ n : Nat) else (v % 2 ^ n : Nat) - (2 ^ n : Nat)
/-- An integer in two's complement of `n` bits. -/
def bitsOf (n : Nat) (x : Int) : Nat := (x % (2 ^ n : Nat)).toNat

/-- Bytes of a cell, and bits of its integer with the guard (R241). -/
def cellBytes (w128 : Bool) : Nat := if w128 then 32 else 16
def cellBits (w128 : Bool) : Nat := if w128 then 176 else 112

/-- A cell from its bytes: the integer, SAT_POS and SAT_NEG. -/
def parseCell (w128 : Bool) (b : List Byte) : Int × Bool × Bool :=
  let n := cellBits w128
  let f := leAt b (n / 8) 1
  (signedOf n (leAt b 0 (n / 8)), bitAt f 0, bitAt f 1)
/-- The bytes of a cell. -/
def cellImage (w128 : Bool) (c : Int × Bool × Bool) : List Byte :=
  let n := cellBits w128
  leBytes (n / 8) (bitsOf n c.1) ++ leBytes 1 ((if c.2.1 then 1 else 0) + (if c.2.2 then 2 else 0))
    ++ List.replicate (cellBytes w128 - n / 8 - 1) 0

/-- The sum of two cells (R245): integers over the full width, flags by OR. -/
def cellAdd (w128 : Bool) (a b : Int × Bool × Bool) : Int × Bool × Bool :=
  (signedOf (cellBits w128) (bitsOf (cellBits w128) (a.1 + b.1)), a.2.1 || b.2.1, a.2.2 || b.2.2)

/-- The exponent of a window's LSB (R86). -/
def windowLsb (w128 : Bool) (top : Int) : Int := top - (if w128 then 126 else 62)

/-- The FP32 code a cell reads out as, and whether it counts as WINDOW_OVERFLOW or WINDOW_INVALID (R246). -/
def readCell (w128 : Bool) (top : Int) (c : Int × Bool × Bool) : Nat × Bool × Bool :=
  let lim : Int := (2 ^ (if w128 then 127 else 63) : Nat)
  let num := fun (x : Int) => (fp32.conv {} .rne false (valOfInt x (windowLsb w128 top) false)).code
  if c.2.1 ∧ c.2.2 then (fp32.canonNan, false, true)
  else if c.2.1 then (num lim, true, false)
  else if c.2.2 then (num (-lim), true, false)
  else if lim ≤ c.1 then (num lim, true, false)
  else if c.1 < -lim then (num (-lim), true, false)
  else (num c.1, false, false)

/-! ### Contributions at the home (R243 to R245) -/

/-- The window that a contribution from another module adds under: the pool's once it has one, else that of the gradient of the
first SCATTER descriptor of the bundle that names the table. -/
def World.tableWindow (w : World) (p table : Nat) (w128 : Bool) : Bool × Int :=
  match (AMap.get {} (w.part p).pools table).window with
  | some x => (w128, x.2)
  | none =>
    let ds := (w.part p).bundle.elim [] fun b => b.descs.flatMap fun c => c.2.2
    let d := ds.find? fun d => decide (leAt d 0 1 = 3) && decide (gsuOp d = 1) && decide (gsuTable d = table)
    (w128, (d.bind fun d => w.tensor p (gsuGrad d)).elim 0 (·.recipe.windowT))

/-- The byte that an address of a pending version holds once its table's catch-up and the writes held behind it are done. -/
def World.pendingByte (w : World) (p : Nat) (e : DirEntry) (a : Nat) : Byte :=
  match (w.part p).heldWrites.reverse.find? fun h =>
      decide (h.1 = e.tensor) && decide (h.2.1 ≤ a) && decide (a < h.2.1 + h.2.2.2.2.length) with
  | some h => h.2.2.2.2.getD (a - h.2.1) 0
  | none =>
    let o := a - e.penBase
    if e.catchup.contains (o / e.recordBytes) then w.hbmByte p (e.curBase + o) else w.hbmByte p a

/-- Bytes of a pending version. -/
def World.pendingRead (w : World) (p : Nat) (e : DirEntry) (a n : Nat) : List Byte :=
  (List.range n).map fun i => w.pendingByte p e (a + i)

/-- A window add of cells from column `col` of a row (R245): the new world, or the check that fails. -/
def World.windowAdd (w : World) (p : Nat) (e : DirEntry) (win : Bool × Int) (row col : Nat) (cells : List (Int × Bool × Bool)) :
    Except Nat World :=
  let pool := AMap.get {} (w.part p).pools e.tensor
  if pool.readOut then .error 0x34
  else if pool.window.isSome ∧ pool.window ≠ some win then .error 0x35
  else if (pool.rows.any fun r => decide (r.1 = row)) = false ∧ e.windowRows ≤ pool.rows.length then .error 0x32
  else
    let old := ((pool.rows.find? fun r => decide (r.1 = row)).map (·.2)).getD []
    let new := cells.zipIdx.foldl (fun m c =>
      AMap.upd (0, false, false) m (col + c.2) fun x => cellAdd win.1 x c.1) old
    let rows := (pool.rows.filter fun r => decide (r.1 < row)) ++ (row, new) :: pool.rows.filter fun r => decide (row < r.1)
    .ok (w.updPart p fun x =>
      { x with pools := AMap.set {} x.pools e.tensor { pool with rows := rows, window := some win } })

/-- Places of a record's elements of `n` bytes, from column `col`: none past the record. -/
def DirEntry.elementPlaces (e : DirEntry) (row col n count : Nat) : Option (List Nat) :=
  if (col + count) * n ≤ e.recordBytes then
    some ((List.range count).map fun i => e.penBase + row * e.recordBytes + (col + i) * n)
  else none

/-- The sticky flags of NMR_STICKY that an addition raises (R243, R263). -/
def nmrFlags (f : Nat) : Nat :=
  (if f &&& flInvalid ≠ 0 then 1 else 0) + (if f &&& flOverflow ≠ 0 then 2 else 0)
    + (if f &&& flUnderflow ≠ 0 then 4 else 0) + (if f &&& flInexact ≠ 0 then 8 else 0)

/-- ADD_I64 on one element (R243); the writer is the NMR (R257). -/
def World.addI64 (t : Sid) (p st : Nat) (e : DirEntry) (payload : List Byte) (w : World) (x : Nat × Nat) : World :=
  let v := (leNat (w.pendingRead p e x.1 8) + leAt payload (8 * x.2) 8) % 2 ^ 64
  w.homeWrite t (nmrSource st) p x.1 (leBytes 8 v)

/-- ADD_F32 on one element (R243); the writer is the NMR (R257). -/
def World.addF32 (t : Sid) (p st : Nat) (e : DirEntry) (payload : List Byte) (w : World) (x : Nat × Nat) : World :=
  let r := fp32.add {} .rne (fp32.decode (leNat (w.pendingRead p e x.1 4))) (fp32.decode (leAt payload (4 * x.2) 4))
  let w := w.setBits (Block.nmr.addr st 0x000) (BitVec.ofNat 64 (nmrFlags r.2))
  w.homeWrite t (nmrSource st) p x.1 (leBytes 4 (fp32.encode r.1))

/-- Most payload items of an opcode (R243). -/
def nmrItems (op : Nat) : Nat := if op = 1 then 14 else if op = 2 then 7 else if op = 3 then 28 else if op = 4 then 56 else 0

/-- An add command applied at the row's home (R243, R245, R252): the new world, or the check that fails. -/
def World.nmrAdd (w : World) (t : Sid) (p op : Nat) (c : NmrCmd) (win : Option (Bool × Int)) (st : Nat) (e : DirEntry) :
    Except Nat World :=
  if nmrItems op < c.count ∨ e.dim < c.column + c.count then .error 0x31
  else if op ≤ 2 then
    let w128 := decide (op = 2)
    let b := cellBytes w128
    let cells := (List.range c.count).map fun i => parseCell w128 (slice c.payload (b * i) b)
    w.windowAdd p e (win.getD (w.tableWindow p e.tensor w128)) c.row c.column cells
  else
    match e.elementPlaces c.row c.column (if op = 3 then 8 else 4) c.count with
    | none => .error 0x31
    | some xs =>
      .ok (if op = 3 then xs.zipIdx.foldl (World.addI64 t p st e c.payload) w
           else xs.zipIdx.foldl (World.addF32 t p st e c.payload) w)

/-- The NMR that serves a row: that of the stack of the first grain of the row's pending record. -/
def World.rowStack (w : World) (p : Nat) (e : DirEntry) (row : Nat) : Nat := w.stackAt p (e.penBase + row * e.recordBytes)
/-- The first stack of a partition, which reports a command whose table it does not know. -/
def World.firstStack (w : World) (p : Nat) : Nat := (w.part p).good.headD 0 / 32

/-- The 256 bytes of an NMR command (R242). -/
def nmrImage (op : Nat) (c : NmrCmd) : List Byte :=
  leBytes 1 op ++ leBytes 1 c.flags.toNat ++ leBytes 1 c.count ++ [0] ++ leBytes 4 c.table ++ leBytes 8 c.step
    ++ leBytes 6 c.row ++ leBytes 2 c.column ++ List.replicate 8 0 ++ slice c.payload 0 224

/-- A command for a row that this module does not home is sent on with FORWARDED set while a forwarding entry stands (R251). -/
def World.forwardNmr (w : World) (t : Sid) (op st dest : Nat) (c : NmrCmd) : World :=
  (w.tick .nmr st 0x098).sendFrom t c.fromPosition.toNat 0x05 dest (nmrSource st) c.tag.toNat 0 false true
    (nmrImage op { c with flags := c.flags ||| 1 })

/-! ### Read-out (R246) -/

/-- A frame to the Kiln (R317): kinds 0 GRAD_READY, 1 READ, 2 READ_DATA, 3 ROW_GRAD, 4 ROWS_END, 5 EMIT, 6 ACK, 7 STATE_OUT,
8 STATE_IN, 9 STEP_CLOSE, 10 STEP_DONE. -/
def World.toKiln (w : World) (kind p : Nat) (fields : List Nat) (payload : List Byte) : World :=
  w.emit (.kiln true kind p fields payload)

/-- One row read out: its FP32 values go to the Kiln, its overflowed and invalid elements are counted. -/
def World.readRow (t : Sid) (p : Nat) (e : DirEntry) (win : Bool × Int) (w : World) (row : Nat × AMap (Int × Bool × Bool)) : World :=
  let st := w.rowStack p e row.1
  let vals := (List.range e.dim).map fun c => readCell win.1 win.2 (AMap.get (0, false, false) row.2 c)
  let nOver := (vals.filter (·.2.1)).length
  let w := (w.tick .nmr st 0x088).count (Block.nmr.addr st 0x090) nOver
  let w := w.setBits (Block.nmr.addr st 0x000)
    (BitVec.ofNat 64 ((if 0 < nOver then 16 else 0) + (if vals.any (·.2.2) then 32 else 0)))
  let w := if 0 < nOver ∧ (w.part p).overflowRaised.contains e.tensor = false then
      (w.raise t (nmrSource st) 0x10A e.tensor).updPart p fun x => { x with overflowRaised := x.overflowRaised ++ [e.tensor] }
    else w
  w.toKiln 3 p [e.tensor, (w.part p).step, row.1] (vals.flatMap fun v => leBytes 4 v.1)

/-- A table's pool is read out in ascending row order and its rows are freed; ROWS_END carries the count of touched rows. -/
def World.readoutTable (w : World) (t : Sid) (p : Nat) (e : DirEntry) : World :=
  let pool := AMap.get {} (w.part p).pools e.tensor
  if pool.readOut then w
  else
    let w := pool.rows.foldl (World.readRow t p e (pool.window.getD (false, 0))) w
    let w := w.updPart p fun x => { x with pools := AMap.set {} x.pools e.tensor { pool with rows := [], readOut := true } }
    w.toKiln 4 p [e.tensor, (w.part p).step, pool.rows.length] []

/-! ### Migration at the home (R248 to R251) -/

/-- Bytes of an override table. -/
def overImage (xs : List (Nat × Nat × Nat)) : List Byte := xs.flatMap fun x => leBytes 6 x.1 ++ leBytes 2 x.2.1 ++ leBytes 8 x.2.2

/-- Writes a directory entry back into HBM (R218). -/
def World.writeEntry (w : World) (p table : Nat) : World :=
  match (w.part p).dir.zipIdx.find? fun e => decide (e.1.tensor = table) with
  | none => w
  | some e => w.hbmStore p (w.dirBase p + 128 * e.2) e.1.image

/-- Puts an entry into a table's pending override table (R248): sorted by row, and removed where it names the map's home. -/
def World.putOverride (w : World) (p table row pos step : Nat) : World :=
  match (w.part p).entry table with
  | none => w
  | some e =>
    let rest := e.penOver.filter fun x => decide (x.1 ≠ row)
    let xs := if w.mapHome p e row = pos then rest
      else (rest.filter fun x => decide (x.1 < row)) ++ (row, pos, step) :: rest.filter fun x => decide (row < x.1)
    let w := w.updPart p fun x => x.updEntry table fun y => y.setPenOver xs
    let w := w.hbmStore p e.penOverBase (overImage xs)
    let w := if xs.length < e.penOver.length then w.hbmStore p (e.penOverBase + 16 * xs.length) (List.replicate 16 0) else w
    w.writeEntry p table

/-- The home decides a MIGRATE entry (R249). `k` is the cluster whose GSU counts it. Of two entries of one row in a step the one with
the lower TARGET stands and the other is refused; one that repeats the TARGET is accepted again. -/
def World.decideMigration (w : World) (t : Sid) (p k : Nat) (e : DirEntry) (row target : Nat) : World :=
  let x := w.part p
  let now := x.step
  let old := x.accepted.find? fun a => decide (a.1 = e.tensor) && decide (a.2.1 = row)
  let fresh := e.curOver.any fun o => decide (o.1 = row) && decide (now < o.2.2 + 2)
  let full := decide (65536 ≤ e.penOver.length) && !(e.penOver.any fun o => decide (o.1 = row))
  let refuse := w.tick .gsu k 0x0A0
  let write := fun (w : World) =>
    let w := w.putOverride p e.tensor row target (now + 1)
    if p = 0 ∧ w.fab.position.isSome then
      w.sendMulticast t 0x0B (clusterSource 6 k) 0 e.penOverBase true (leBytes 6 row ++ leBytes 2 target ++ leBytes 8 (now + 1))
    else w
  if target = w.ownPosition then w
  else if fresh ∨ full then refuse
  else
    match old with
    | some a =>
      if a.2.2 < target then refuse
      else if a.2.2 = target then write (w.tick .gsu k 0x098)
      else write (refuse.updPart p fun y =>
        { y with accepted := y.accepted.map fun z => if z = a then (e.tensor, row, target) else z })
    | none =>
      if 4096 ≤ x.forwarding.length + x.accepted.length then refuse
      else write ((w.tick .gsu k 0x098).updPart p fun y => { y with accepted := y.accepted ++ [(e.tensor, row, target)] })

/-- Whether a migrating row has this module as its home from the next step on. -/
def World.comingRow (w : World) (e : DirEntry) (row : Nat) : Bool :=
  match e.penOver.find? fun x => decide (x.1 = row) with
  | some x => decide (x.2.1 = w.ownPosition)
  | none => decide (w.mapHome 0 e row = w.ownPosition)

/-! ### Catch-up (R220, R221) -/

/-- Copies one record from a table's current version into its pending version, in the format that it has; the copy hits the guards
that it meets, as any write (R229). -/
def World.copyRecord (w : World) (t : Sid) (p : Nat) (e : DirEntry) (r : Nat) : World :=
  let o := r * e.recordBytes
  let hits := w.guardHits p (e.penBase + o) e.recordBytes
  let w := w.hbmStore p (e.penBase + o) (w.hbmRead p (e.curBase + o) e.recordBytes)
  let w := (w.hbmCount p (e.curBase + o) e.recordBytes false).hbmCount p (e.penBase + o) e.recordBytes true
  let w := (grainsOf (e.penBase + o) e.recordBytes).foldl (fun w g => w.tick .nmr (w.stackAt p g) 0x0A0) w
  let w := w.updPart p fun x => x.updEntry e.tensor fun y => y.setPenFormat r (y.curFormat r)
  hits.foldl (World.guardHit t (nmrSource (w.stackAt p (e.penBase + o))) w.ownPosition) (w.hitRemote p (e.penBase + o) e.recordBytes)

/-- Clears a record's bit in the bitmap that HBM holds. -/
def World.clearDirty (w : World) (p : Nat) (e : DirEntry) (r : Nat) : World :=
  let b := e.dirty + r / 8
  w.hbmStore p b [w.hbmByte p b &&& ~~~ (BitVec.ofNat 8 (2 ^ (r % 8)))]

/-- The writes held behind a table's catch-up take effect in their order (R220); a held EMIT is acknowledged then. -/
def World.releaseHeld (w : World) (t : Sid) (p table : Nat) : World :=
  let held := (w.part p).heldWrites.filter fun h => decide (h.1 = table)
  let w := w.updPart p fun x => { x with heldWrites := x.heldWrites.filter fun h => decide (h.1 ≠ table) }
  held.foldl (fun w h =>
    let w := w.hbmApply t h.2.2.1 h.2.2.2.1 p h.2.1 h.2.2.2.2
    if h.2.2.1 = klnSource then w.toKiln 6 p [1] [] else w) w

/-- Copies the current override table over the pending one (R220). The entries of the new step stand in the pending table from the switch
on, so that one accepted before the copy is kept; the copy's grains count (R264). -/
def World.copyOverrides (w : World) (p : Nat) (e : DirEntry) : World :=
  let w := w.hbmStore p e.penOverBase (overImage e.penOver ++ List.replicate (16 * (e.curOver.length - e.penOver.length)) 0)
  (grainsOf e.penOverBase (16 * e.curOver.length)).foldl (fun w g => w.tick .nmr (w.stackAt p g) 0x0A0) w

/-- The catch-up of one table (R220): its dirty records, its override table, then the writes held behind it. -/
def World.catchUp (w : World) (t : Sid) (p table : Nat) : World :=
  match (w.part p).entry table with
  | none => w
  | some e =>
    if e.catchupDone then w
    else
      let w := e.catchup.foldl (fun w r => (w.copyRecord t p e r).clearDirty p e r) w
      let w := if e.kind = 1 then w.copyOverrides p e else w
      let w := w.updPart p fun x => x.updEntry table fun y => { y with catchup := [], catchupDone := true }
      (w.writeEntry p table).releaseHeld t p table

/-- Before the first step, version 0 of every table is copied whole into version 1 (R221). -/
def World.firstCopy (w : World) (t : Sid) (p : Nat) : World :=
  (w.part p).dir.foldl (fun w e => (List.range e.records).foldl (fun w r => w.copyRecord t p e r) w) w

end Sys2Proof.Machine
end

