-- ==== Sys2Proof/Machine/Axe.lean ====
section
/-!
DEFINITION. The access engine of a core: LOAD, STORE, COPY and RELAY streams (R223 to R231, R265, R266), zero prediction
(R170 to R172), and its faults (R141, R222, R256, R293).
-/

namespace Sys2Proof.Machine

/-! ### Streams -/

/-- Operations that may run at once (R227), and guards of a core (R228). -/
def axeMaxRuns : Nat := 8
def axeGuards : Nat := 64

/-- Tiles that an operation emits, pops or pushes in all (R223, R225). -/
def axeTotal (d : List Byte) : Nat :=
  if axeKind d = 0 ∧ axeOrder d ≠ 0 then axeM d * axeN d * axeK d else axeTiles d

/-- Whether a started operation has finished its work; it may still hold live ring buffers. -/
def World.axeEnded (w : World) (c : Nat) (r : AxeRun) : Bool :=
  let d := w.descOf c r.op.desc
  if axeKind d = 2 then decide (axeCopyBytes d ≤ 256 * r.grains) else decide (axeTotal d ≤ r.count)

/-- Changes one stream of a core. -/
def World.updStream (w : World) (c serial : Nat) (f : AxeRun → AxeRun) : World :=
  w.updCore c fun x =>
    { x with axe := { x.axe with streams := x.axe.streams.map fun r => if r.op.serial = serial then f r else r } }

/-- Drops a stream that has nothing left to hold: all handles released and no prediction open. -/
def World.dropStream (w : World) (c serial : Nat) : World :=
  w.updCore c fun x =>
    { x with axe := { x.axe with streams := x.axe.streams.filter fun r =>
        !(decide (r.op.serial = serial) && r.live.isEmpty && r.predicted.isEmpty) } }

/-- Removes the finished streams whose handles have all been released. -/
def World.sweepStreams (w : World) (c : Nat) : World :=
  ((w.core c).axe.streams.filter fun r => w.axeEnded c r).foldl (fun w r => w.dropStream c r.op.serial) w

/-- A stream of a core by the serial of its operation. -/
def World.stream (w : World) (c serial : Nat) : Option AxeRun :=
  (w.core c).axe.streams.find? fun r => decide (r.op.serial = serial)

/-- Guards reserved by a core's LOAD streams (R228): RING_SLOTS of each that runs, the live ones of each that has finished. -/
def World.guardsUsed (w : World) (c : Nat) : Nat :=
  ((w.core c).axe.streams.map fun r =>
    let d := w.descOf c r.op.desc
    if axeKind d ≠ 0 then 0 else if w.axeEnded c r then r.live.length else axeSlots d).sum

/-- Starts operations in issue order while fewer than eight run; a LOAD waits for its guards (R227, R228). -/
def World.axeStart (w : World) (t : Sid) (c : Nat) : Nat → World
  | 0 => w
  | n + 1 =>
    match (w.core c).axe.pending with
    | [] => w
    | o :: rest =>
      let d := w.descOf c o.desc
      let src := coreSource 1 c
      let running := ((w.core c).axe.streams.filter fun r => !w.axeEnded c r).length
      if axeMaxRuns ≤ running ∨ (axeKind d = 0 ∧ axeGuards < w.guardsUsed c + axeSlots d) then w
      else if w.throttles src 2 then w.throttle src
      else
        let w := w.updCore c fun x =>
          { x with axe := { x.axe with pending := rest, streams := x.axe.streams ++ [{ op := o }] } }
        World.axeStart (w.opRecord t src .axe o 0) t c n

/-! ### Faults (R141, R222, R256, R293) -/

/-- Codes of a stop beyond the METADATA checks: an access without data (R278), a write by address into a current version (R222),
and a position without an entry (R389). -/
def stopMemory : Nat := 0x100
def stopRace : Nat := 0x101
def stopNoPosition : Nat := 0x102

/-- An AXE_FAULT value (R256). -/
def axeFaultReg (kind cause queue desc index check : Nat) : Word :=
  mkField kind 0 4 ||| mkField cause 4 4 ||| mkField queue 8 4 ||| mkField desc 12 11 ||| mkField index 32 16
    ||| mkField check 48 8 ||| mkField 1 63 1

/-- The AXE stops: METADATA with a check, RACE with CAUSE 1, or MEMORY. METADATA carries INDEX and queue (R164); with check RING
the TENSOR_ID of TABLE (R252), where TABLE names one (DESIGN CHOICE, assumption 157). -/
def World.axeStop (w : World) (t : Sid) (c : Nat) (o : IssuedOp) (code queue index pos : Nat) : World :=
  let a := Block.axe.addr c 0x010
  let p := w.partOfCore c
  let w := w.updCore c fun x => { x with axe := { x.axe with faulted := true, pending := [] } }
  if code = stopMemory then
    ((w.setReg a (axeFaultReg 3 0 queue o.desc index 0)).updCore c Core.faultSeq).stopJob t p 1 (coreSource 1 c)
  else if code = stopRace then
    ((w.setReg a (axeFaultReg 2 1 0 o.desc 0xFFFF 0)).updCore c Core.faultSeq).race t p (coreSource 1 c) 0xFFFF 0 1
  else if code = stopNoPosition then
    ((w.setReg a (axeFaultReg 1 0 queue o.desc index 0x40)).noPosition pos).engineMetadata t c 1 0x40 queue index
  else if code = 0x36 ∧ axeTable (w.descOf c o.desc) ≠ noTable then
    ((w.setReg a (axeFaultReg 1 0 queue o.desc index code)).updCore c Core.faultSeq).metadata t p (coreSource 1 c) code
      (axeTable (w.descOf c o.desc))
  else (w.setReg a (axeFaultReg 1 0 queue o.desc index code)).engineMetadata t c 1 code queue index

/-! ### Places (R265, R266) -/

/-- Where an address of a descriptor leads: 0 a partition's HBM, 1 a cluster store, 2 another position; the partition, cluster
or position; the offset. None where the form breaks R265. -/
def World.axePlace (w : World) (c mem addr : Nat) : Option (Nat × Nat × Nat) :=
  match mem with
  | 0 => some (0, w.partOfCore c, addr)
  | 1 => some (1, clusterOfCore c, addr)
  | _ =>
    if addrSpace addr ≠ 1 then none
    else if w.isOwn (addrPosition addr) then some (0, 0, addrOffset addr)
    else some (2, addrPosition addr, addrOffset addr)

/-- Whether a range stays in its memory (R266); another position checks its own capacity. -/
def World.placeHas (w : World) (x : Nat × Nat × Nat) (n : Nat) : Bool :=
  match x.1 with
  | 0 => decide (x.2.2 + n ≤ w.hbmCapacity x.2.1)
  | 1 => decide (x.2.2 + n ≤ storeBytes)
  | _ => decide (x.2.2 + n ≤ 2 ^ 48)

/-- The work-slot word that an operation adds to an address. -/
def IssuedOp.word (o : IssuedOp) (i : Nat) : Nat := (o.words.getD i 0).toNat

/-- MEM_BASE as an operation uses it: the version's base of TABLE, the work word and the bound value added (R124, R223). -/
def World.axeAddr (w : World) (c : Nat) (o : IssuedOp) (offset : Nat) : Nat :=
  let d := w.descOf c o.desc
  let table := if axeTable d = noTable then 0
    else ((w.part (w.partOfCore c)).entry (axeTable d)).elim 0 fun e => if axeKind d = 0 then e.curBase else e.penBase
  (axeBase d + table + (if axeFromWork d then o.word (axeWord d) else 0) + o.value * axeIndexStride d + offset) % 2 ^ 64

/-- Adds the grains of a range to a counter of the AXE. -/
def World.axeGrains (w : World) (c off a n : Nat) : World := w.count (Block.axe.addr c off) (grainsOf a n).length

/-- A request of a core carries the next tag of its kind. -/
def World.takeTag (w : World) (c kind : Nat) : Nat × World :=
  (mkTag kind c (w.core c).nextTag, w.updCore c fun x => { x with nextTag := x.nextTag + 1 })

/-! ### Slots (R227, R274, R275) -/

/-- Slots of an AXE, and of those that one remote position may hold (R274). -/
def axeSlotCount : Nat := 256
def axeSlotCap : Nat := 16

/-- The remote accesses of a core's AXE that hold slots, with their positions: requests that wait for data, and writes that wait for
their acknowledgements (R255, R274). Accesses inside the module complete at once. -/
def World.axeAccesses (w : World) (c : Nat) : List (Nat × Nat) :=
  let x := (w.core c).axe
  (x.streams.filter fun r => r.waitTag.isSome).map (fun r => (r.waitPos, r.waitGrains))
    ++ x.writes.map fun y => (y.pos, (grainsOf y.off y.bytes).length)

/-- The slots in use. -/
def World.axeSlotsUsed (w : World) (c : Nat) : Nat := ((w.axeAccesses c).map (·.2)).sum

/-- The grains that a stream may request at a position now. -/
def World.axeRoom (w : World) (c pos : Nat) : Nat :=
  let at' := (((w.axeAccesses c).filter fun y => decide (y.1 = pos)).map (·.2)).sum
  min (axeSlotCount - w.axeSlotsUsed c) (axeSlotCap - at')

/-- Bytes of a run from `off` on that `room` grains hold, at most one packet. -/
def roomBytes (room off n : Nat) : Nat := min 2048 (min n (256 * room - off % 256))

/-- A stream waits without issuing (R275): the first wait on the cap of a position in a step raises HOT_CHANNEL. -/
def World.axeWaits (w : World) (t : Sid) (c pos : Nat) : World :=
  if w.axeSlotsUsed c < axeSlotCount ∧ (w.core c).axe.hotStep = false then
    (w.updCore c fun x => { x with axe := { x.axe with hotStep := true } }).raise t (coreSource 1 c) 0x110 (2 ^ 15 + pos)
  else w

/-- Reads `n` bytes at a place for a stream: the bytes, or nothing yet from another position; or the code of the stop. Another
position is read from the range's first byte on, one request of at most 2,048 bytes at a time, against free slots; `last` marks the
stream's last range, whose last request carries ORDER where it is asked for (R223). -/
def World.axeFetch (w : World) (t : Sid) (c : Nat) (r : AxeRun) (x : Nat × Nat × Nat) (n : Nat) (last : Bool) :
    Except Nat (Option (List Byte) × World) :=
  if w.placeHas x n = false then .error 0x40
  else
    match x.1 with
    | 0 =>
      if w.hbmFailed x.2.1 x.2.2 n then .error stopMemory
      else
        let y := w.hbmFetch (coreSource 1 c) x.2.1 x.2.2 n
        .ok (some y.1, y.2.axeGrains c 0x080 x.2.2 n)
    | 1 => .ok (some (w.storeRead x.2.1 x.2.2 n), w.axeGrains c 0x080 x.2.2 n)
    | _ =>
      let off := x.2.2 + r.fetched.length
      let left := n - r.fetched.length
      let m := roomBytes (w.axeRoom c x.2.1) off left
      if left = 0 then .ok (some (r.fetched.take n), w)
      else if r.waitTag.isSome ∨ w.canSend = false then .ok (none, w)
      else if w.physicalOf x.2.1 = none then .error stopNoPosition
      else if m = 0 then .ok (none, w.axeWaits t c x.2.1)
      else
        let g := w.takeTag c 0
        let w := (g.2.updStream c r.op.serial fun y =>
          { y with waitTag := some g.1, waitPos := x.2.1, waitGrains := (grainsOf off m).length }).axeGrains c 0x080 off m
        .ok (none, w.sendPacket t 0x01 x.2.1 (coreSource 1 c) g.1 (globalAddr x.2.1 off)
          (last && axeOrdered (w.descOf c r.op.desc) && decide (m = left)) true (leBytes 4 m))

/-- Sends the WRITE packets of a run of bytes of which `sent` are gone, at most 2,048 bytes each, while slots are free; the last
carries ORDER where asked (R223). Answers how many bytes are gone. -/
def World.sendWrites (w : World) (t : Sid) (c : Nat) (o : IssuedOp) (pos off : Nat) (ordered : Bool) (bs : List Byte) :
    Nat → Nat → Nat × World
  | 0, sent => (sent, w)
  | fuel + 1, sent =>
    let m := roomBytes (w.axeRoom c pos) (off + sent) (bs.length - sent)
    if bs.length ≤ sent then (sent, w)
    else if m = 0 then (sent, w.axeWaits t c pos)
    else
      let g := w.takeTag c 1
      let w := g.2.updCore c fun x =>
        { x with signals := x.signals ++ [(g.1, o.serial)]
                 axe := { x.axe with writes := x.axe.writes ++ [{ tag := g.1, op := o, pos := pos, off := off + sent, bytes := m }] } }
      World.sendWrites ((w.axeGrains c 0x088 (off + sent) m).sendPacket t 0x03 pos (coreSource 1 c) g.1 (globalAddr pos (off + sent))
        (ordered && decide (bs.length ≤ sent + m)) true ((bs.drop sent).take m)) t c o pos off ordered bs fuel (sent + m)

/-- Writes bytes at a place for a stream, or the code of the stop; answers whether the whole run is written or sent. `byAddress` asks
for the check of R222: at another position the directory of this module stands for that one's, which the same bundle and step give. -/
def World.axePut (w : World) (t : Sid) (c : Nat) (r : AxeRun) (x : Nat × Nat × Nat) (byAddress ordered : Bool) (bs : List Byte) :
    Except Nat (Bool × World) :=
  let n := bs.length
  if w.placeHas x n = false then .error 0x40
  else
    match x.1 with
    | 0 =>
      if byAddress ∧ (w.currentHit x.2.1 x.2.2 n).isSome then .error stopRace
      else if w.hbmFailed x.2.1 x.2.2 n then .error stopMemory
      else .ok (true, (w.homeWrite t (coreSource 1 c) x.2.1 x.2.2 bs).axeGrains c 0x088 x.2.2 n)
    | 1 => .ok (true, (w.storeWrite t (coreSource 1 c) w.ownPosition x.2.1 x.2.2 bs).axeGrains c 0x088 x.2.2 n)
    | _ =>
      if byAddress ∧ (w.currentHit 0 x.2.2 n).isSome then .error stopRace
      else if w.physicalOf x.2.1 = none then .error stopNoPosition
      else
        let y := w.sendWrites t c r.op x.2.1 x.2.2 ordered bs n r.sent
        let done := decide (n ≤ y.1)
        .ok (done, y.2.updStream c r.op.serial fun z => { z with sent := if done then 0 else y.1 })

/-! ### LOAD (R224 to R226) -/

/-- Offset from MEM_BASE of the tile of emission `e` (R225). -/
def axeOffset (d : List Byte) (e : Nat) : Nat :=
  if axeOrder d = 0 then e * axeStride d
  else
    let s := mxeStep (axeM d * axeN d) (axeK d) e
    let row := if axeOrder d = 1 then s.1 % axeM d else s.1 / axeM d
    (row * axeK d + s.2) * axeStride d

/-- Ring buffer of emission `e` (R226). -/
def axeBuffer (d : List Byte) (e : Nat) : Nat := axeRing d + e % axeSlots d * axeRingStride d

/-- Whether a handle that names a ring buffer is still to be released (R226). -/
def World.bufferBusy (w : World) (c addr : Nat) : Bool :=
  (w.core c).axe.streams.any fun r =>
    let d := w.descOf c r.op.desc
    decide (axeKind d = 0) && r.live.any fun e => decide (axeBuffer d e = addr)

/-- The memory space of a guard (R228): an HBM or a cluster store of this module, or another position's HBM. -/
def guardSpace (x : Nat × Nat × Nat) : Nat :=
  match x.1 with
  | 0 => x.2.1
  | 1 => clusterSpace x.2.1
  | _ => remoteSpace x.2.1

/-- A tile's bytes from its place: the first grain, then as many as its header asks for (R226). With `last` it is the stream's last;
the request for its first grain is known as the last only where a ring buffer holds no second grain. -/
def World.axeTile (w : World) (t : Sid) (c : Nat) (r : AxeRun) (x : Nat × Nat × Nat) (last : Bool) :
    Except Nat (Option (List Byte) × World) :=
  match w.axeFetch t c r x 256 (last && decide (axeRingStride (w.descOf c r.op.desc) ≤ 256)) with
  | .error k => .error k
  | .ok (none, w) => .ok (none, w)
  | .ok (some g, w) =>
    let n := 16 + (parseHeader (g.take 16)).imageBytes
    if axeRingStride (w.descOf c r.op.desc) < n then .error 0x36
    else if n ≤ 256 then .ok (some (g.take n), w)
    else if x.1 = 2 then
      match w.axeFetch t c r x (roundUp n 256) last with
      | .error k => .error k
      | .ok (none, w) => .ok (none, w)
      | .ok (some bs, w) => .ok (some (bs.take n), w)
    else
      match w.axeFetch t c r (x.1, x.2.1, x.2.2 + 256) (roundUp n 256 - 256) false with
      | .error k => .error k
      | .ok (rest, w) => .ok (rest.map fun bs => (g ++ bs).take n, w)

/-- Emits the next tile of a LOAD stream: into its ring buffer, under a guard, its handle to the queue. -/
def World.axeEmit (w : World) (t : Sid) (c : Nat) (r : AxeRun) : World :=
  let d := w.descOf c r.op.desc
  let e := r.count
  let buf := axeBuffer d e
  if w.bufferBusy c buf ∨ w.queueFull c (axeQueue d) then w
  else
    match w.axePlace c (axeMem d) (w.axeAddr c r.op (axeOffset d e)) with
    | none => w.axeStop t c r.op 0x40 (axeQueue d) e 0
    | some x =>
      match w.axeTile t c r x (decide (e + 1 = axeTotal d)) with
      | .error k => w.axeStop t c r.op k (axeQueue d) e x.2.1
      | .ok (none, w) => w
      | .ok (some bs, w) =>
        let w := w.tunWrite c buf bs
        let w := w.updStream c r.op.serial fun y =>
          { y with count := y.count + 1, live := y.live ++ [e], fetched := [], waitTag := none }
        let w := w.updCore c fun z =>
          { z with axe := { z.axe with guards := z.axe.guards ++
            [({ stream := r.op.serial, emission := e, index := e, queue := axeQueue d, space := guardSpace x
                lo := x.2.2, hi := x.2.2 + roundUp bs.length 256 } : Guard)] } }
        w.pushQueue c (axeQueue d) { handle := w.handleAt c buf e, stream := some r.op.serial, emission := e }

/-- Reads again a tile that a write hit while its handle is queued (R230); a handle already taken keeps its data. -/
def World.axeReread (w : World) (t : Sid) (c : Nat) (r : AxeRun) (g : Guard) : World :=
  let d := w.descOf c r.op.desc
  let clear := fun (w : World) => w.updCore c fun z =>
    { z with axe := { z.axe with guards := z.axe.guards.map fun y =>
        if y.stream = g.stream ∧ y.emission = g.emission then { y with reread := false } else y } }
  let queued := (w.queue c g.queue).any fun e => decide (e.stream = some g.stream) && decide (e.emission = g.emission)
  if queued = false then clear w
  else
    match w.axePlace c (axeMem d) (w.axeAddr c r.op (axeOffset d g.emission)) with
    | none => clear w
    | some x =>
      match w.axeTile t c r x false with
      | .error k => w.axeStop t c r.op k g.queue g.emission x.2.1
      | .ok (none, w) => w
      | .ok (some bs, w) => clear (w.tunWrite c (axeBuffer d g.emission) bs)

/-- An operation that has ended is recorded once (R354). -/
def World.axeFinish (w : World) (t : Sid) (c serial : Nat) : World :=
  match w.stream c serial with
  | none => w
  | some r =>
    if w.axeEnded c r then (w.finishOp t (coreSource 1 c) .axe r.op).dropStream c serial else w

/-- Runs one action of a stream of a given kind: starts waiting operations first; nothing where the engine cannot act. -/
def World.axeAct (w : World) (t : Sid) (c serial kind : Nat) (f : World → AxeRun → World) : World :=
  if w.coreLive c = false ∨ (w.core c).axe.faulted ∨ w.throttled (coreSource 1 c) then w
  else
    let w := (((w.sweepStreams c).axeStart t c axeMaxRuns).retryIssues t c).axeStart t c axeMaxRuns
    match w.stream c serial with
    | none => w
    | some r =>
      if axeKind (w.descOf c r.op.desc) ≠ kind then w
      else if w.axeEnded c r then w
      else (f w r).axeFinish t c serial

/-- AXE_LOAD: the stream emits its next tile; a tile that a relaxed guard hit is read again first. -/
def execAxeLoad (core : CoreId) (stream : Nat) (s : State) : Host.Outcome State Fault Refusal :=
  .next (s.serve fun w =>
    let c := core.val
    match (w.core c).axe.guards.find? fun g => g.reread && decide (g.stream = stream), w.stream c stream with
    | some g, some r =>
      if w.coreLive c = false ∨ (w.core c).axe.faulted then w else w.axeReread s.sid c r g
    | _, _ => w.axeAct s.sid c stream 0 fun w r => w.axeEmit s.sid c r)

/-! ### STORE and COPY (R222, R224) -/

/-- Pops the next handle of a STORE stream and copies its tile to memory. -/
def World.axeStoreTile (w : World) (t : Sid) (c : Nat) (r : AxeRun) : World :=
  let d := w.descOf c r.op.desc
  match w.head c (axeQueue d) with
  | none => w
  | some e =>
    let addr := handleAddr e.handle
    let n := 16 + (parseHeader (w.tunRead c addr 16)).imageBytes
    let index := handleIndex e.handle
    if w.handleFits c e = false then w.axeStop t c r.op 1 (axeQueue d) index 0
    else if axeStride d < n then w.axeStop t c r.op 0x40 (axeQueue d) index 0
    else
      match w.axePlace c (axeMem d) (w.axeAddr c r.op (r.count * axeStride d)) with
      | none => w.axeStop t c r.op 0x40 (axeQueue d) index 0
      | some x =>
        if x.1 = 2 ∧ w.canSend = false then w
        else
          match w.axePut t c r x (decide (axeTable d = noTable)) (axeOrdered d && decide (r.count + 1 = axeTiles d)) (w.tunRead c addr n) with
          | .error k => w.axeStop t c r.op k (axeQueue d) index x.2.1
          | .ok (false, w) => w
          | .ok (true, w) =>
            ((w.popQueue c (axeQueue d)).release c e).updStream c r.op.serial fun y => { y with count := y.count + 1 }

/-- AXE_STORE: the stream stores its next tile. -/
def execAxeStore (core : CoreId) (stream : Nat) (s : State) : Host.Outcome State Fault Refusal :=
  .next (s.serve fun w => w.axeAct s.sid core.val stream 1 fun w r => w.axeStoreTile s.sid core.val r)

/-- Moves grains of a COPY stream in ascending order until the copy ends or a read or a drain holds it. -/
def World.axeMove (w : World) (t : Sid) (c serial : Nat) : Nat → World
  | 0 => w
  | fuel + 1 =>
    match w.stream c serial with
    | none => w
    | some r =>
      let d := w.descOf c r.op.desc
      if w.axeEnded c r then w
      else
        match w.axePlace c (axeMem d) (w.axeAddr c r.op (256 * r.grains)), w.axePlace c (axeDstMem d) ((axeDst d + 256 * r.grains) % 2 ^ 64) with
        | some x, some y =>
          let last := decide (axeCopyBytes d ≤ 256 * (r.grains + 1))
          if y.1 = 2 ∧ w.canSend = false then w
          else if y.1 = 2 ∧ w.axeRoom c y.2.1 < (grainsOf y.2.2 256).length then w.axeWaits t c y.2.1
          else
            match w.axeFetch t c r x 256 (last && decide (y.1 ≠ 2)) with
            | .error k => w.axeStop t c r.op k 0 0xFFFF x.2.1
            | .ok (none, w) => w
            | .ok (some bs, w) =>
              match w.axePut t c r y true (axeOrdered d && last) bs with
              | .error k => w.axeStop t c r.op k 0 0xFFFF y.2.1
              | .ok (_, w) =>
                World.axeMove (w.updStream c serial fun z => { z with grains := z.grains + 1, fetched := [], waitTag := none })
                  t c serial fuel
        | _, _ => w.axeStop t c r.op 0x40 0 0xFFFF 0

/-- AXE_COPY: the stream moves its bytes. -/
def execAxeCopy (core : CoreId) (stream : Nat) (s : State) : Host.Outcome State Fault Refusal :=
  .next (s.serve fun w => w.axeAct s.sid core.val stream 2 fun w r =>
    w.axeMove s.sid core.val stream (axeCopyBytes (w.descOf core.val r.op.desc) / 256 + 1))

/-! ### RELAY and zero prediction (R170 to R172, R224) -/

/-- The zero map's bit of a tile number (R170). -/
def World.zeroBit (w : World) (c zmap n : Nat) : Bool := bitAt (leNat (w.tunRead c (zmap + n / 8) 1)) (n % 8)

/-- The map's bit is written, and the shape of the tile remembered, when a real tile reaches the AXE (R170, R171). -/
def World.setZeroBit (w : World) (c zmap n : Nat) (e : QEntry) : World :=
  let b := leNat (w.tunRead c (zmap + n / 8) 1)
  let zero := decide ((parseHeader (w.tunRead c (handleAddr e.handle) 16)).nnz = 0)
  let v := if zero then b ||| 2 ^ (n % 8) else b - (if bitAt b (n % 8) then 2 ^ (n % 8) else 0)
  (w.tunWrite c (zmap + n / 8) [BitVec.ofNat 8 v]).updCore c fun x =>
    { x with axe := { x.axe with shapes := AMap.set 0 x.axe.shapes (zmap * 2 ^ 24 + n) e.handle } }

/-- The real handle of the next tile of a relay: the entry behind those that its open predictions await (R171). -/
def World.relayReal (w : World) (c : Nat) (r : AxeRun) : Option QEntry :=
  let q := axeSrcQueue (w.descOf c r.op.desc)
  if r.predicted.isEmpty then w.head c q else (w.queue c q)[r.predicted.length]?

/-- Relays the next handle (R171, R224): the real one where it is present, else a predicted zero of the shape that the tile had
before, numbered by the relay's own count (R114), where the map says so. -/
def World.axeRelayNext (w : World) (t : Sid) (c : Nat) (r : AxeRun) : World :=
  let d := w.descOf c r.op.desc
  let n := r.count
  let counted := fun (w : World) => w.updStream c r.op.serial fun y => { y with count := y.count + 1 }
  if w.queueFull c (axeQueue d) then w
  else
    match w.relayReal c r with
    | some e =>
      if w.handleFits c e = false then w.axeStop t c r.op 1 (axeSrcQueue d) (handleIndex e.handle) 0
      else
        let w := if axePredict d then w.setZeroBit c (axeZmap d) n e else w
        let w := w.updCore c fun x => { x with queues := AMap.upd [] x.queues (axeSrcQueue d) (·.eraseIdx r.predicted.length) }
        counted (w.pushQueue c (axeQueue d) e)
    | none =>
      if axePredict d ∧ w.zeroBit c (axeZmap d) n then
        let h := AMap.get 0 (w.core c).axe.shapes (axeZmap d * 2 ^ 24 + n)
        let h := makeHandle (handleAddr h) (handleRows h) (handleCols h) (handleFormat h) n
        (counted (w.pushQueue c (axeQueue d) { handle := h, stream := some r.op.serial, emission := n, predicted := true })).updStream c
          r.op.serial fun y => { y with predicted := y.predicted ++ [n] }
      else w

/-- AXE_RELAY: the stream relays its next handle. -/
def execAxeRelay (core : CoreId) (stream : Nat) (s : State) : Host.Outcome State Fault Refusal :=
  .next (s.serve fun w => w.axeAct s.sid core.val stream 3 fun w r => w.axeRelayNext s.sid core.val r)

/-- The output tiles of the MXE's run that took prediction (stream, number). -/
def World.guessers (w : World) (c stream number : Nat) : List AccTile :=
  (w.core c).mxe.run.elim [] fun m => (m.tiles ++ m.finished).filter fun x => x.guesses.contains (stream, number)

/-- The MXE and the relay's queue take the real handle in the place of a prediction. An output tile that took it is recomputed from
its first K step where the tile is not zero, or has another shape than the prediction had (R172); its steps count as any (R167,
R169). -/
def World.resolveGuess (w : World) (c queue stream number : Nat) (real : QEntry) (zero : Bool) : World :=
  let bs := w.tileBytes c real
  let redo := fun (x : AccTile) => !zero || !(x.guessedShape stream number real)
  let fix := fun (x : AccTile) =>
    if x.guesses.contains (stream, number) then
      let y := x.resolve stream number real bs
      if redo x then y.recompute else y
    else x
  let again := (w.guessers c stream number).filter redo
  let w := w.updCore c fun x =>
    { x with
      queues := AMap.upd [] x.queues queue fun q => q.map (QEntry.resolve stream number real)
      mxe := { x.mxe with run := x.mxe.run.map fun m => { m with tiles := m.tiles.map fix, finished := m.finished.map fix } } }
  (again.flatMap fun x => (fix x).pairs).foldl (fun w z => w.countPath c z.1 z.2) (w.count (Block.mxe.addr c 0x0B0) again.length)

/-- The first operand whose shape the checks of R119 and R120 refuse among the output tiles of numbers `ts`: its queue and INDEX. -/
def World.guessShapeFault (w : World) (c : Nat) (ts : List Nat) : Option (Nat × Nat) :=
  (w.core c).mxe.run.bind fun m =>
    let d := w.descOf c m.op.desc
    ((m.tiles ++ m.finished).filter fun x => ts.contains x.t).findSome? fun x =>
      x.shapeFault.map fun y => (if y.1 = 0 then leAt d 4 1 else if y.1 = 1 then leAt d 5 1 else leAt d 6 1, y.2)

/-- ZERO_PREDICT_VERIFY: the real tile of the oldest open prediction of a stream arrives (R172). A tile that breaks R163 stops the
MXE operation that took the prediction, else the relay that awaits it (DEDUCED, assumption 155). The handle is released here only
where the MXE took the prediction: else it waits in the queue as any. -/
def execZeroPredictVerify (core : CoreId) (stream : Nat) (s : State) : Host.Outcome State Fault Refusal :=
  .next (s.serve fun w =>
    let c := core.val
    match w.stream c stream with
    | none => w
    | some r =>
      let d := w.descOf c r.op.desc
      match r.predicted, w.head c (axeSrcQueue d) with
      | n :: rest, some e =>
        if w.coreLive c = false ∨ (w.core c).axe.faulted then w
        else
          let took := w.guessers c stream n
          match w.takeTile c mxeReads (fun _ _ => true) e.handle, (w.core c).mxe.run.filter fun _ => !took.isEmpty with
          | .error k, some m => w.mxeFault s.sid c m k (axeQueue d) (handleIndex e.handle)
          | .error k, none => w.axeStop s.sid c r.op k (axeQueue d) (handleIndex e.handle) 0
          | .ok x, _ =>
            let w := (w.setZeroBit c (axeZmap d) n e).popQueue c (axeSrcQueue d)
            let w := w.resolveGuess c (axeQueue d) stream n e (decide (x.nnz = 0))
            let w := if took.isEmpty then w else w.release c e
            let w := (w.updStream c stream fun y => { y with predicted := rest }).sweepStreams c
            match (w.core c).mxe.run, w.guessShapeFault c (took.map (·.t)) with
            | some m, some y => w.mxeFault s.sid c m 3 y.1 y.2
            | _, _ => w
      | _, _ => w)

/-! ### State (R255) -/

/-- Whether the next access of a stream waits for a slot (R274, R275). -/
def World.axeBlocked (w : World) (c : Nat) (r : AxeRun) : Bool :=
  let d := w.descOf c r.op.desc
  let full := fun (x : Option (Nat × Nat × Nat)) => x.elim false fun y => decide (y.1 = 2) && decide (w.axeRoom c y.2.1 = 0)
  match axeKind d with
  | 0 => r.waitTag.isNone && full (w.axePlace c (axeMem d) (w.axeAddr c r.op (axeOffset d r.count)))
  | 1 => (w.head c (axeQueue d)).isSome && full (w.axePlace c (axeMem d) (w.axeAddr c r.op (r.count * axeStride d)))
  | 2 => r.waitTag.isNone
      && ((r.fetched.isEmpty && full (w.axePlace c (axeMem d) (w.axeAddr c r.op (256 * r.grains))))
        || full (w.axePlace c (axeDstMem d) ((axeDst d + 256 * r.grains) % 2 ^ 64)))
  | _ => false

/-- STATE of the AXE (R255): the next operation waits for guards, every stream that runs waits for a slot, or each waits for a slot, its
ring buffer or its queue. -/
def World.axeState (w : World) (c : Nat) : Nat :=
  let x := (w.core c).axe
  let live := x.streams.filter fun r => !w.axeEnded c r
  let ring := fun (r : AxeRun) =>
    let d := w.descOf c r.op.desc
    decide (axeKind d = 0) && (w.bufferBusy c (axeBuffer d r.count) || w.queueFull c (axeQueue d))
  let guards := match x.pending with
    | [] => false
    | o :: _ =>
      let d := w.descOf c o.desc
      decide (axeKind d = 0) && decide (axeGuards < w.guardsUsed c + axeSlots d)
  if x.faulted then 5
  else if guards then 3
  else if live = [] then (if x.pending = [] then 0 else 1)
  else if live.all ring then 4
  else if live.all fun r => ring r || w.axeBlocked c r then 2
  else 1

end Sys2Proof.Machine
end

