-- ==== Sys2Proof/Machine/Eth.lean ====
section
/-!
DEFINITION. The Ethernet port (R527 to R530): which breakout ports send and hear, datagrams out, and the frames that are no feed,
PTP, twin or cask datagram. Addresses below UDP are modelled; Ethernet, IP and MACsec headers are not.
-/

namespace Sys2Proof.Machine

/-- Whether breakout port `i` is up: the port is on, the table names it as an interface (R527, R528), and its link is up. -/
def World.ethUp (w : World) (i : Nat) : Bool :=
  w.config.ethOn && (w.config.ethTable.any fun e => decide (e.role = 0) && decide (e.port = i)) && bitAt w.eth.linkUp.toNat i

/-- Whether breakout port `i` is a MACSEC port (R528), and whether it holds a key for a direction (R530). -/
def World.macPort (w : World) (i : Nat) : Bool := w.config.ethTable.any fun e => decide (e.port = i) && e.macsec
def World.macKeyed (w : World) (i : Nat) (receive : Bool) : Bool :=
  w.eth.keys.any fun k => decide (k.port = i) && decide (k.receive = receive)

/-- Whether a breakout port transmits, and whether it takes frames (R530). -/
def World.ethSends (w : World) (i : Nat) : Bool := w.ethUp i && (!w.macPort i || w.macKeyed i false)
def World.ethHears (w : World) (i : Nat) : Bool := w.ethUp i && (!w.macPort i || w.macKeyed i true)

/-- Sends a UDP payload to an entry's remote address. -/
def World.sendDatagram (w : World) (e : EthEntry) (payload : List Byte) : World :=
  if w.ethSends e.port then (w.tick .eth 0 0x088).emit (.datagram e.port e.address e.udpPort payload) else w

/-- The table's entry of a role that has at most one (R528). -/
def World.ethRole (w : World) (role : Nat) : Option EthEntry := w.config.ethTable.find? fun e => decide (e.role = role)

/-- A frame that answers another leaves a port. -/
def World.sendFrame (w : World) (port : Nat) (bytes : List Byte) : World :=
  if w.ethSends port then (w.tick .eth 0 0x088).emit (.frame port bytes) else w

/-- Whether `addr` is the module's own address on a port; the table holds IPv4 in its last four bytes. -/
def World.ownAddress (w : World) (port : Nat) (v6 : Bool) (addr : List Byte) : Bool :=
  w.config.ethTable.any fun e => decide (e.role = 0) && decide (e.port = port) && decide (e.ipv6 = v6)
    && decide (e.address = if v6 then slice addr 0 16 else List.replicate 12 0 ++ slice addr 0 4)

/-- The MAC address of a breakout port: the record's plus the port's number (R527), in transmission order. -/
def macOf (port : Nat) : List Byte := beBytes 6 (beNat ((List.range 6).map Config.macAddress) + port)

/-- A frame that a port receives counts, and is handled where the port hears it. -/
def World.hear (w : World) (port : Nat) (f : World → World) : World :=
  if w.ethUp port = false then w
  else
    let w := w.tick .eth 0 0x080
    if w.ethHears port then f w else w

/-- ETH_FRAME_RX: a frame that is no feed, PTP, twin or cask datagram is answered or discarded (R527, R529). Answers are the
payloads of the protocols' own formats. -/
def execEthFrameRx (f : EthFrame) (s : State) : Host.Outcome State Fault Refusal :=
  .next (s.serve fun w =>
    match f with
    | .arpRequest port target sender => w.hear port.val fun w =>
        if w.ownAddress port.val false target then
          w.sendFrame port.val ([0, 1, 8, 0, 6, 4, 0, 2] ++ macOf port.val ++ slice target 0 4 ++ sender)
        else w
    | .ndpSolicit port target _ => w.hear port.val fun w =>
        if w.ownAddress port.val true target then
          w.sendFrame port.val ([136, 0, 0, 0, 0x60, 0, 0, 0] ++ slice target 0 16 ++ [2, 1] ++ macOf port.val)
        else w
    | .icmpEcho port v6 _ body => w.hear port.val fun w =>
        w.sendFrame port.val ((if v6 then [129, 0, 0, 0] else [0, 0, 0, 0]) ++ body)
    | .udpUnmatched d => w.hear d.port.val fun w => w.tick .eth 0 0x0A8
    | .macsecFail port =>
      if w.ethUp port.val then
        let w := w.tick .eth 0 0x080
        if w.macPort port.val ∧ w.macKeyed port.val true then w.tick .eth 0 0x0A0 else w
      else w
    | .fcsError port => if w.ethUp port.val then (w.tick .eth 0 0x080).tick .eth 0 0x090 else w
    | .fecUncorrectable port => if w.ethUp port.val then w.tick .eth 0 0x098 else w
    | .fragment port | .stackedTag port | .other port => w.hear port.val id)

/-- ETH_LINK_CHANGE: a breakout port goes down, or comes up through auto-negotiation and link training (R527); a port without an
interface entry, or of a port that is off, stays down (R528). -/
def execEthLinkChange (port : Fin 4) (up : Bool) (s : State) : Host.Outcome State Fault Refusal :=
  .next (s.serve fun w =>
    let on := up && w.config.ethOn && (w.config.ethTable.any fun e => decide (e.role = 0) && decide (e.port = port.val))
      && decide (port.val < (match w.config.ethMode with | 1 => 1 | 2 => 2 | 3 => 4 | _ => 0))
    let bit := BitVec.ofNat 4 (2 ^ port.val)
    { w with eth := { w.eth with linkUp := if on then w.eth.linkUp ||| bit else w.eth.linkUp &&& ~~~ bit } })

end Sys2Proof.Machine
end

