-- ==== Sys2Proof/Machine/Gather.lean ====
section
/-!
DEFINITION. Local addresses (R265, R266), the sort-unique unit (R232 to R234) and the gather-scatter unit (R235 to R240, R246,
R249): the commands that run an operation of a cluster's SUQ or GSU.
-/

namespace Sys2Proof.Machine

/-! ### Local addresses -/

/-- Where a local address leads (R265); none where it breaks the form. -/
def localOf (a : Nat) : Option LocalPlace :=
  if a % 2 ^ 64 < 2 ^ 63 then (if a % 2 ^ 64 < 2 ^ 48 then some (.hbm (a % 2 ^ 64)) else none)
  else if bitsAt a 24 39 = 0 then some (.store (a % 2 ^ 24)) else none

/-- What an access of `n` bytes would stop with for want of a place or of data (R266, R278); 0 codes no stop. -/
def World.localBad (w : World) (p a n : Nat) : Option (Nat × Nat) :=
  match localOf a with
  | none => some (0x40, 0)
  | some (.hbm o) =>
    if w.hbmCapacity p < o + n then some (0x40, 0) else if w.hbmFailed p o n then some (stopMemory, 0) else none
  | some (.store o) => if storeBytes < o + n then some (0x40, 0) else none

/-- What a write by address would stop with: as an access, or into a current version (R222). -/
def World.localWriteBad (w : World) (p a n : Nat) : Option (Nat × Nat) :=
  match localOf a with
  | some (.hbm o) =>
    match w.currentHit p o n with
    | some e => if w.hbmCapacity p < o + n then some (0x40, 0) else some (stopRace, e.tensor)
    | none => w.localBad p a n
  | _ => w.localBad p a n

/-- A read at a local address by a unit of cluster `k`. -/
def World.localRead (w : World) (src p k a n : Nat) : Except (Nat × Nat) (List Byte × World) :=
  match w.localBad p a n, localOf a with
  | some e, _ => .error e
  | none, some (.hbm o) => .ok (w.hbmFetch src p o n)
  | none, some (.store o) => .ok (w.storeRead k o n, w)
  | none, none => .error (0x40, 0)

/-- A write at a local address by a unit of cluster `k`, with no check. -/
def World.localStore (w : World) (t : Sid) (src p k a : Nat) (bs : List Byte) : World :=
  match localOf a with
  | some (.hbm o) => w.homeWrite t src p o bs
  | some (.store o) => w.storeWrite t src w.ownPosition k o bs
  | none => w

/-- Writes runs of bytes at local addresses; nothing is written when one of them may not be. -/
def World.putAll (w : World) (t : Sid) (src p k : Nat) (outs : List (Nat × List Byte)) : Except (Nat × Nat) World :=
  match outs.findSome? fun o => w.localWriteBad p o.1 o.2.length with
  | some e => .error e
  | none => .ok (outs.foldl (fun w o => w.localStore t src p k o.1 o.2) w)

/-- Free bytes: what a unit leaves in a workspace whose contents the manual does not give (log entry). -/
def freeBytes (base n : Nat) : List Byte := (List.range n).map fun i => (Config.freeWord (base + i)).truncate 8

/-- Whether a cluster's units may act. -/
def World.clusterLive (w : World) (k : Nat) : Bool := w.jobRuns (w.partOfCluster k)

/-! ### Sort-unique (R232 to R234) -/

def World.updSuq (w : World) (k : Nat) (f : Suq → Suq) : World := w.updCluster k fun x => { x with suq := f x.suq }
def World.updGsu (w : World) (k : Nat) (f : Gsu → Gsu) : World := w.updCluster k fun x => { x with gsu := f x.gsu }

/-- Puts a key into a strictly ascending list. -/
def insertKey (x : Nat) : List Nat → List Nat
  | [] => [x]
  | y :: r => if x < y then x :: y :: r else if x = y then y :: r else y :: insertKey x r

/-- The unique keys in [lo, hi), ascending (R233). -/
def uniqueKeys (lo hi : Nat) (ks : List Nat) : List Nat :=
  (ks.filter fun x => decide (lo ≤ x) && decide (x < hi)).foldl (fun m x => insertKey x m) []

/-- The inverse map of R233. -/
def inverseOf (us ks : List Nat) : List Nat := ks.map fun x => (us.findIdx? fun u => decide (u = x)).getD 0xFFFFFFFF

/-- The SUQ stops (R141, R222, R252): METADATA, RACE, or for want of data MEMORY, which the GSU's register records. -/
def World.suqStop (w : World) (t : Sid) (k : Nat) (o : IssuedOp) (e : Nat × Nat) : World :=
  let p := w.partOfCluster k
  let src := clusterSource 7 k
  let w := (w.updSuq k fun x => { x with faulted := true, pending := [] }).updCore o.core Core.faultSeq
  if e.1 = stopMemory then (w.setReg (Block.gsu.addr k 0x008) (unitFaultReg 3 0 0)).stopJob t p 1 src
  else if e.1 = stopRace then (w.setReg (Block.suq.addr k 0x008) (unitFaultReg 2 0 e.2)).race t p src 0xFFFF 0 1
  else (w.setReg (Block.suq.addr k 0x008) (unitFaultReg 1 e.1 0)).metadata t p src e.1 0

/-- The input keys of an operation. -/
def World.suqKeys (w : World) (p k : Nat) (d : List Byte) (o : IssuedOp) : Except (Nat × Nat) (List Nat × World) :=
  let src := clusterSource 7 k
  let a := (suqIn d + if suqFromWork d then o.word (suqWord d) else 0) % 2 ^ 64
  if suqBlock d then
    match w.localRead src p k a 128 with
    | .error e => .error e
    | .ok (h, w) =>
      let n := leAt h 0x18 4
      if 4194304 < n then .error (0x37, 0)
      else (w.localRead src p k (a + 128) (16 * n)).map fun x => ((List.range n).map fun i => leAt x.1 (16 * i) 5, x.2)
  else
    let n := suqCount d
    if 4194304 < n then .error (0x37, 0)
    else (w.localRead src p k a (8 * n)).map fun x => ((List.range n).map fun i => leAt x.1 (8 * i) 8, x.2)

/-- One operation of the SUQ (R233). -/
def World.suqRun (w : World) (t : Sid) (k : Nat) (o : IssuedOp) : World :=
  let p := w.partOfCluster k
  let d := w.descOf o.core o.desc
  match w.suqKeys p k d o with
  | .error e => w.suqStop t k o e
  | .ok (ks, w) =>
    let w := w.count (Block.suq.addr k 0x080) ks.length
    let us := uniqueKeys (suqLo d) (suqHi d) ks
    let inv := inverseOf us ks
    let out := (inv.filter fun i => decide (i = 0xFFFFFFFF)).length
    let counts := us.zipIdx.map fun u => (inv.filter fun i => decide (i = u.2)).length
    let outs := [(suqWork d, freeBytes w.free (16 * ks.length)),
        (suqUnique d, leBytes 4 us.length ++ leBytes 4 ks.length ++ leBytes 4 out ++ [0, 0, 0, 0] ++ us.flatMap (leBytes 8)),
        (suqInverse d, inv.flatMap (leBytes 4))]
      ++ if suqCounts d then [(suqCountsAddr d, counts.flatMap (leBytes 4))] else []
    match w.putAll t (clusterSource 7 k) p k outs with
    | .error e => w.suqStop t k o e
    | .ok w =>
      let w := { w with free := w.free + 16 * ks.length }
      let w := (w.count (Block.suq.addr k 0x088) us.length).count (Block.suq.addr k 0x090) out
      (w.updSuq k fun x => { x with pending := x.pending.drop 1 }).finishOp t (clusterSource 7 k) .suq o

/-- SORT_UNIQUE: the next operation of a cluster's SUQ. -/
def execSortUnique (cluster : ClusterId) (s : State) : Host.Outcome State Fault Refusal :=
  .next (s.serve fun w =>
    let k := cluster.val
    let src := clusterSource 7 k
    match (w.cluster k).suq.pending with
    | [] => w
    | o :: _ =>
      if w.clusterLive k = false ∨ (w.cluster k).suq.faulted ∨ w.throttled src then w
      else if w.throttles src 2 then w.throttle src
      else (w.opRecord s.sid src .suq o 0).suqRun s.sid k o)

/-! ### The GSU: faults and keys -/

/-- The GSU stops (R141, R222, R252, R260): METADATA with a table or gradient and a row, RACE, or MEMORY. -/
def World.gsuStop (w : World) (t : Sid) (k : Nat) (o : IssuedOp) (tensor row : Nat) (e : Nat × Nat) : World :=
  let p := w.partOfCluster k
  let src := clusterSource 6 k
  let a := Block.gsu.addr k 0x008
  let w := (w.updGsu k fun x => { x with faulted := true, pending := [], unacked := none, remote := [] }).updCore o.core Core.faultSeq
  let w := w.setReg (Block.gsu.addr k 0x010) (mkField row 0 48)
  if e.1 = stopMemory then (w.setReg a (unitFaultReg 3 0 tensor)).stopJob t p 1 src
  else if e.1 = stopRace then (w.setReg a (unitFaultReg 2 0 e.2)).race t p src 0xFFFF 0 1
  else if e.1 = stopNoPosition then ((w.setReg a (unitFaultReg 1 0x40 tensor)).noPosition e.2).metadata t p src 0x40 tensor
  else (w.setReg a (unitFaultReg 1 e.1 tensor)).metadata t p src e.1 tensor

/-- KEYS_ADDR and INV_ADDR as the operation uses them (R235). -/
def gsuKeysAt (d : List Byte) (o : IssuedOp) : Nat := (gsuKeys d + if gsuFromWork d then o.word (gsuWord d) else 0) % 2 ^ 64
def gsuInvAt (d : List Byte) (o : IssuedOp) : Nat := (gsuInv d + if gsuFromWork d then o.word (gsuWord d) else 0) % 2 ^ 64

/-- The keys of a GATHER or SCATTER (R235). -/
def World.gsuKeyList (w : World) (p k : Nat) (d : List Byte) (o : IssuedOp) : Except (Nat × Nat) (List Nat × World) :=
  let src := clusterSource 6 k
  let a := gsuKeysAt d o
  if gsuSuqList d then
    match w.localRead src p k a 16 with
    | .error e => .error e
    | .ok (h, w) =>
      let n := leAt h 0 4
      (w.localRead src p k (a + 16) (8 * n)).map fun x => ((List.range n).map fun i => leAt x.1 (8 * i) 8, x.2)
  else (w.localRead src p k a (8 * gsuKeyCount d)).map fun x => ((List.range (gsuKeyCount d)).map fun i => leAt x.1 (8 * i) 8, x.2)

/-- The GSU's operation ends. -/
def World.gsuDone (w : World) (t : Sid) (k : Nat) (o : IssuedOp) : World :=
  (w.updGsu k fun x => { x with pending := x.pending.drop 1, started := false, remote := [], rows := [], unacked := none }).finishOp
    t (clusterSource 6 k) .gsu o

/-- A fabric request of a cluster's GSU carries the next tag of its kind. -/
def World.gsuTag (w : World) (k kind : Nat) : Nat × World :=
  (mkTag kind k (w.cluster k).gsu.nextTag, w.updGsu k fun x => { x with nextTag := x.nextTag + 1 })

/-! ### GATHER (R236 to R238) -/

/-- Requests of one row at another position: at most 2,048 bytes each (R397), noted by key × 64 + part. -/
def World.requestRow (w : World) (t : Sid) (k pos off : Nat) (e : DirEntry) (key : Nat) : World :=
  (List.range (ceilDiv e.recordBytes 2048)).foldl (fun w i =>
    let n := min 2048 (e.recordBytes - 2048 * i)
    let g := w.gsuTag k 3
    (g.2.updGsu k fun x => { x with remote := x.remote ++ [(g.1, 64 * key + i)] }).sendPacket t 0x01 pos (clusterSource 6 k) g.1
      (globalAddr pos (off + 2048 * i)) false true (leBytes 4 n)) w

/-- The elements of a stored row as FP32 values (R80, R217). -/
def rowValues (format dim : Nat) (b : List Byte) : List Val :=
  let a := b.toArray
  let byte := fun (i : Nat) => (a.getD i 0).toNat
  let scale := fp16.decode (byte 0 + 256 * byte 1)
  let offset := fp16.decode (byte 2 + 256 * byte 3)
  (List.range dim).map fun j =>
    rowValue scale offset (if format = 0x0E then byte (4 + j / 2) / 16 ^ (j % 2) % 16 else byte (4 + j))

/-- A row of the key list, whole: read here, or as it came from its home. -/
def World.gatherRow (w : World) (p k : Nat) (e : DirEntry) (key : Nat × Nat) : Except (Nat × Nat) (List Byte × World) :=
  let w := w.tick .gsu k 0x080
  if w.readsRow p e key.1 then
    let a := e.curBase + key.1 * e.recordBytes
    if w.hbmFailed p a e.recordBytes then .error (stopMemory, 0) else .ok (w.hbmFetch (clusterSource 6 k) p a e.recordBytes)
  else
    .ok ((List.range (ceilDiv e.recordBytes 2048)).flatMap fun i => AMap.get [] (w.cluster k).gsu.rows (64 * key.2 + i), w)

/-- Every row of the key list, or the row that cannot be read and what the operation stops with. -/
def World.gatherRows (w : World) (p k : Nat) (e : DirEntry) : List (Nat × Nat) → Except (Nat × Nat × Nat) (List (List Byte) × World)
  | [] => .ok ([], w)
  | x :: r =>
    match w.gatherRow p k e x with
    | .error z => .error (x.1, z)
    | .ok (b, w) => (World.gatherRows w p k e r).map fun y => (b :: y.1, y.2)

/-- A dense tile of FP32 or BF16 values (R237). -/
def denseTile (format rows cols : Nat) (vals : Nat → Nat → Val) : List Byte :=
  let f := if format = 3 then bf16 else fp32
  let codes := (places rows cols).foldl (fun a p => a.set! (64 * p.1 + p.2) (f.conv {} .rne false (vals p.1 p.2)).code)
    (Array.replicate 4096 0)
  ({ format := format, rows := rows, cols := cols, codes := codes } : Tile).encodeAs 0

/-- The output tiles of a gather: rows of values, by address (R237). -/
def gatherTiles (d : List Byte) (dim : Nat) (rows : List (List Val)) : List (Nat × List Byte) :=
  let a := (rows.map (·.toArray)).toArray
  let tc := ceilDiv dim 64
  (places (ceilDiv rows.length 64) tc).map fun q =>
    (gsuOut d + (q.1 * tc + q.2) * gsuStride d,
      denseTile (gsuFormat d) (min 64 (rows.length - 64 * q.1)) (min 64 (dim - 64 * q.2))
        fun r c => (a.getD (64 * q.1 + r) #[]).getD (64 * q.2 + c) (.fin false 0 0))

/-- A pooled row (R238): per column a Tree-64 over runs of 64 members, chained, and for the mean one division. -/
def poolBag (mean : Bool) (dim : Nat) (rows : Array (Array Val)) (members : List (Option Nat)) : List Val :=
  let n := (members.filter (·.isSome)).length
  let add := fun (a b : Val) => (fp32.add {} .rne a b).1
  (List.range dim).map fun c =>
    let xs := members.map fun m => m.map fun i => (rows.getD i #[]).getD c (.fin false 0 0)
    match chainRuns add (members.length / 64 + 1) none xs with
    | none => .fin false 0 0
    | some v => if mean then (fp32.div {} .rne v (.fin false n 0)).1 else v

/-- Whether bag offsets decrease or an index passes the key list (R238). -/
def bagsBad (offs : List Nat) (members : List Nat) (keys : Nat) : Bool :=
  (offs.zip (offs.drop 1)).any (fun x => decide (x.2 < x.1)) || members.any fun m => decide (m ≠ 0xFFFFFFFF) && decide (keys ≤ m)

/-- The rows of values that a gather writes: the keys' rows, or pooled. -/
def World.gatherValues (w : World) (p k : Nat) (d : List Byte) (o : IssuedOp) (dim : Nat) (rows : List (List Val)) :
    Except (Nat × Nat) (List (List Val) × World) :=
  if gsuPool d = 0 then .ok (rows, w)
  else
    let src := clusterSource 6 k
    match w.localRead src p k (gsuElemBase d) (4 * (gsuInvCount d + 1)) with
    | .error e => .error e
    | .ok (b, w) =>
      let offs := (List.range (gsuInvCount d + 1)).map fun i => leAt b (4 * i) 4
      let n := offs.getLastD 0
      if bagsBad offs [] 0 then .error (0x38, 0)
      else
        match w.localRead src p k (gsuInvAt d o) (4 * n) with
        | .error e => .error e
        | .ok (mb, w) =>
          let ms := (List.range n).map fun i => leAt mb (4 * i) 4
          if bagsBad offs ms rows.length then .error (0x38, 0)
          else
            let a := (rows.map (·.toArray)).toArray
            let bags := (List.range (gsuInvCount d)).map fun q =>
              ((ms.drop (offs.getD q 0)).take (offs.getD (q + 1) 0 - offs.getD q 0)).map fun m =>
                if m = 0xFFFFFFFF then none else some m
            .ok (bags.map (poolBag (decide (gsuPool d = 2)) dim a), w)

/-- A GATHER whose remote rows have all arrived writes its output and ends. -/
def World.gatherFinish (w : World) (t : Sid) (k : Nat) (o : IssuedOp) (e : DirEntry) (keys : List Nat) : World :=
  let p := w.partOfCluster k
  let d := w.descOf o.core o.desc
  let stop := fun (w : World) (z : Nat × Nat) => w.gsuStop t k o e.tensor 0 z
  let format := fun (key : Nat) => if w.readsRow p e key then e.curFormat key else e.farFormat.getD e.format
  match w.gatherRows p k e keys.zipIdx with
  | .error z => w.gsuStop t k o e.tensor z.1 z.2
  | .ok (rows, w) =>
    if gsuRaw d then
      match w.putAll t (clusterSource 6 k) p k (rows.zipIdx.map fun r => (gsuOut d + r.2 * e.recordBytes, r.1)) with
      | .error z => stop w z
      | .ok w => w.gsuDone t k o
    else
      match w.gatherValues p k d o e.dim ((keys.zip rows).map fun x => rowValues (format x.1) e.dim x.2) with
      | .error z => stop w z
      | .ok (vals, w) =>
        match w.putAll t (clusterSource 6 k) p k (gatherTiles d e.dim vals) with
        | .error z => stop w z
        | .ok w => w.gsuDone t k o

/-- A GATHER: its remote rows are requested once; it ends when they have arrived. -/
def World.gsuGather (w : World) (t : Sid) (k : Nat) (o : IssuedOp) (e : DirEntry) : World :=
  let p := w.partOfCluster k
  let d := w.descOf o.core o.desc
  match w.gsuKeyList p k d o with
  | .error z => w.gsuStop t k o e.tensor 0 z
  | .ok (keys, w) =>
    match keys.find? fun x => decide (e.records ≤ x) with
    | some x => w.gsuStop t k o e.tensor x (0x30, 0)
    | none =>
      if (w.cluster k).gsu.started then
        if (w.cluster k).gsu.remote.isEmpty then w.gatherFinish t k o e keys else w
      else
        let far := keys.zipIdx.filter fun x => !w.readsRow p e x.1
        match far.find? fun x => decide (w.physicalOf (w.homeOf p e x.1) = none) with
        | some x => w.gsuStop t k o e.tensor x.1 (stopNoPosition, w.homeOf p e x.1)
        | none =>
          if far.isEmpty then w.gatherFinish t k o e keys
          else if w.canSend = false then w
          else
            far.foldl (fun w x => w.requestRow t k (w.homeOf p e x.1) (e.curBase + x.1 * e.recordBytes) e x.2)
              (w.updGsu k fun g => { g with started := true })

/-! ### SCATTER (R239, R240) -/

/-- One contribution (R239), and whether a non-zero element rounded to 0. -/
def contribution (w128 : Bool) (top : Int) (mode : RMode) (g : Val) : (Int × Bool × Bool) × Bool :=
  match g with
  | .nan _ => ((0, true, true), false)
  | .inf neg => ((0, !neg, neg), false)
  | .fin neg m e =>
    let q := ratOf m e
    let n := (roundAt mode neg q.1 q.2 (windowLsb w128 top)).1
    if 2 ^ (if w128 then 126 else 62) ≤ n then ((0, !neg, neg), false)
    else ((if neg then -(n : Int) else n, false, false), decide (n = 0) && decide (m ≠ 0))

/-- The gradient tile at (a, b) of a SCATTER (R239), checked as R163 has it. -/
def World.scatterTile (w : World) (p k : Nat) (d : List Byte) (rows dim : Nat) (q : Nat × Nat) : Except (Nat × Nat) (Tile × World) :=
  let src := clusterSource 6 k
  let a := gsuOut d + (q.1 * ceilDiv dim 64 + q.2) * gsuStride d
  match w.localRead src p k a 16 with
  | .error e => .error e
  | .ok (h, w) =>
    let hdr := parseHeader h
    match w.localRead src p k (a + 16) hdr.imageBytes with
    | .error e => .error e
    | .ok (img, w) =>
      match checkTile (fun f => decide (f = 1) || decide (f = 3)) hdr.format
          (fun r c => decide (r = min 64 (rows - 64 * q.1)) && decide (c = min 64 (dim - 64 * q.2))) hdr img with
      | .error c => .error (c, 0)
      | .ok x => .ok (x, w)

/-- Every gradient tile, row of tiles by row of tiles. -/
def World.scatterTiles (w : World) (p k : Nat) (d : List Byte) (rows dim : Nat) : List (Nat × Nat) → Except (Nat × Nat) (List Tile × World)
  | [] => .ok ([], w)
  | q :: r =>
    match w.scatterTile p k d rows dim q with
    | .error e => .error e
    | .ok (x, w) => (World.scatterTiles w p k d rows dim r).map fun y => (x :: y.1, y.2)

/-- The cells of one gradient row and how many of its elements rounded to 0. -/
def World.rowCells (w : World) (p : Nat) (ten : Tensor) (d : List Byte) (dim : Nat) (tiles : Array Tile) (s : Nat) :
    List (Int × Bool × Bool) × Nat :=
  let r := ten.recipe
  let cs := (List.range dim).map fun c =>
    let tile := tiles.getD (s / 64 * ceilDiv dim 64 + c / 64) {}
    let mode := if r.stochastic then
        RMode.sr (roundingBits (w.part p).jobSeed.toNat ten.id (w.part p).step (gsuElemBase d + s * dim + c)) else .rne
    contribution r.w128 r.windowT mode (tile.val (s % 64) (c % 64))
  (cs.map (·.1), (cs.filter (·.2)).length)

/-- The sum of the contributions of a key's rows (R240). -/
def sumCells (w128 : Bool) (dim : Nat) (rows : List (List (Int × Bool × Bool))) : List (Int × Bool × Bool) :=
  rows.foldl (fun a r => a.zipWith (cellAdd w128) r) (List.replicate dim (0, false, false))

/-- The commands that carry one key's contribution (R242, R243): as many cells each as the payload holds. -/
def contribCommands (w : World) (p table : Nat) (w128 : Bool) (row : Nat) (cells : List (Int × Bool × Bool)) : List NmrCmd :=
  let n := if w128 then 7 else 14
  (List.range (ceilDiv cells.length n)).map fun i =>
    let xs := (cells.drop (n * i)).take n
    { fromPosition := BitVec.ofNat 16 w.ownPosition, count := xs.length, table := table, step := (w.part p).step, row := row
      column := n * i, payload := xs.flatMap (cellImage w128) }

/-- One command of a SCATTER: applied here, or sent to the row's home and counted among those not acknowledged. -/
def World.contribute (t : Sid) (k p : Nat) (e : DirEntry) (win : Bool × Int) (w : World) (c : NmrCmd) : World :=
  if w.jobRuns p = false then w
  else
    let w := w.tick .gsu k 0x088
    if w.homesRow p e c.row then
      let st := w.rowStack p e c.row
      if w.nmrFaulted.contains st then w else
      match w.nmrAdd t p (if win.1 then 2 else 1) c (some win) st e with
      | .error check => w.nmrStop t p st check e.tensor c.row
      | .ok w => w.tick .nmr st 0x080
    else
      let g := w.gsuTag k 4
      (g.2.updGsu k fun x => { x with unacked := x.unacked.map fun y => (y.1, y.2 + 1) }).sendPacket t 0x05 (w.homeOf p e c.row)
        (clusterSource 6 k) g.1 0 false true (nmrImage (if win.1 then 2 else 1) c)

/-- A SCATTER: every key's contribution goes to its home; it ends when every one has been applied (R244). -/
def World.gsuScatter (w : World) (t : Sid) (k : Nat) (o : IssuedOp) (e : DirEntry) : World :=
  let p := w.partOfCluster k
  let d := w.descOf o.core o.desc
  let stop := fun (w : World) (row : Nat) (z : Nat × Nat) => w.gsuStop t k o (gsuGrad d) row z
  match (w.cluster k).gsu.unacked with
  | some (_, n) => if n = 0 then w.gsuDone t k o else w
  | none =>
    match w.gsuKeyList p k d o, w.tensor p (gsuGrad d) with
    | .error z, _ => w.gsuStop t k o e.tensor 0 z
    | _, none => w
    | .ok (keys, w), some ten =>
      match keys.find? fun x => decide (e.records ≤ x) with
      | some x => w.gsuStop t k o e.tensor x (0x30, 0)
      | none =>
        let rows := if gsuPerUnique d then keys.length else gsuInvCount d
        let inv := if gsuPerUnique d then .ok ([], w) else w.localRead (clusterSource 6 k) p k (gsuInvAt d o) (4 * rows)
        match inv with
        | .error z => stop w 0 z
        | .ok (ib, w) =>
          let own := fun (s : Nat) => if gsuPerUnique d then s else leAt ib (4 * s) 4
          match (List.range rows).find? fun s => decide (own s ≠ 0xFFFFFFFF) && decide (keys.length ≤ own s) with
          | some _ => stop w 0 (0x40, 0)
          | none =>
            match w.scatterTiles p k d rows e.dim (places (ceilDiv rows 64) (ceilDiv e.dim 64)) with
            | .error z => stop w 0 z
            | .ok (tiles, w) =>
              let far := keys.filter fun x => !w.homesRow p e x
              match far.find? fun x => decide (w.physicalOf (w.homeOf p e x) = none) with
              | some x => stop w x (stopNoPosition, w.homeOf p e x)
              | none =>
                if far.isEmpty = false ∧ w.canSend = false then w
                else
                  let a := tiles.toArray
                  let used := (List.range rows).filter fun s => decide (own s ≠ 0xFFFFFFFF)
                  let cells := used.map fun s => (own s, w.rowCells p ten d e.dim a s)
                  let w := w.count (Block.gsu.addr k 0x090) ((cells.map (·.2.2)).sum)
                  let w128 := ten.recipe.w128
                  let cmds := keys.zipIdx.flatMap fun u =>
                    contribCommands w p e.tensor w128 u.1
                      (sumCells w128 e.dim ((cells.filter fun c => decide (c.1 = u.2)).map (·.2.1)))
                  let w := w.updGsu k fun g => { g with unacked := some (o, 0) }
                  let w := cmds.foldl (World.contribute t k p e (w128, ten.recipe.windowT)) w
                  if w.jobRuns p ∧ (w.cluster k).gsu.unacked = some (o, 0) then w.gsuDone t k o else w

/-! ### MIGRATE, READOUT and the commands -/

/-- One entry of a MIGRATE goes to its row's home (R249); an entry decided here sees those decided before it. -/
def World.sendMigration (t : Sid) (k p : Nat) (e : DirEntry) (w : World) (x : Nat × Nat) : World :=
  let e := ((w.part p).entry e.tensor).getD e
  if w.homesRow p e x.1 then w.decideMigration t p k e x.1 x.2
  else
    let g := w.gsuTag k 4
    g.2.sendPacket t 0x0B (w.homeOf p e x.1) (clusterSource 6 k) g.1 (globalAddr (w.homeOf p e x.1) e.penOverBase) false true
      (leBytes 8 x.1 ++ leBytes 2 x.2 ++ List.replicate 6 0)

/-- A MIGRATE (R249). -/
def World.gsuMigrate (w : World) (t : Sid) (k : Nat) (o : IssuedOp) (e : DirEntry) : World :=
  let p := w.partOfCluster k
  let d := w.descOf o.core o.desc
  match w.localRead (clusterSource 6 k) p k (gsuKeysAt d o) (16 * gsuKeyCount d) with
  | .error z => w.gsuStop t k o e.tensor 0 z
  | .ok (b, w) =>
    let xs := (List.range (gsuKeyCount d)).map fun i => (leAt b (16 * i) 8, leAt b (16 * i + 8) 2)
    match xs.find? fun x => decide (e.records ≤ x.1) with
    | some x => w.gsuStop t k o e.tensor x.1 (0x30, 0)
    | none =>
      let far := xs.filter fun x => !w.homesRow p e x.1
      match far.find? fun x => decide (w.physicalOf (w.homeOf p e x.1) = none) with
      | some x => w.gsuStop t k o e.tensor x.1 (stopNoPosition, w.homeOf p e x.1)
      | none =>
        if far.isEmpty = false ∧ w.canSend = false then w
        else (xs.foldl (World.sendMigration t k p e) w).gsuDone t k o

/-- Runs the front operation of a cluster's GSU where it has the OP given; its start is recorded once. -/
def World.gsuAct (w : World) (t : Sid) (k op : Nat) (f : World → IssuedOp → DirEntry → World) : World :=
  let src := clusterSource 6 k
  let p := w.partOfCluster k
  match (w.cluster k).gsu.pending with
  | [] => w
  | o :: _ =>
    let d := w.descOf o.core o.desc
    match (w.part p).entry (gsuTable d) with
    | none => w
    | some e =>
      let g := (w.cluster k).gsu
      if gsuOp d ≠ op ∨ w.clusterLive k = false ∨ g.faulted ∨ w.throttled src ∨ (p = 0 ∧ w.canSend = false) then w
      else if g.started ∨ g.unacked.isSome then f w o e
      else if w.throttles src 2 then w.throttle src
      else f (w.opRecord t src .gsu o 0) o e

/-- GSU_GATHER: the front operation of a cluster's GSU, a GATHER. -/
def execGsuGather (cluster : ClusterId) (s : State) : Host.Outcome State Fault Refusal :=
  .next (s.serve fun w => w.gsuAct s.sid cluster.val 0 fun w o e => w.gsuGather s.sid cluster.val o e)

/-- GSU_SCATTER: the front operation of a cluster's GSU, a SCATTER. -/
def execGsuScatter (cluster : ClusterId) (s : State) : Host.Outcome State Fault Refusal :=
  .next (s.serve fun w => w.gsuAct s.sid cluster.val 1 fun w o e => w.gsuScatter s.sid cluster.val o e)

/-- GSU_MIGRATE: the front operation of a cluster's GSU, a MIGRATE. -/
def execGsuMigrate (cluster : ClusterId) (s : State) : Host.Outcome State Fault Refusal :=
  .next (s.serve fun w => w.gsuAct s.sid cluster.val 2 fun w o e => w.gsuMigrate s.sid cluster.val o e)

/-- GSU_READOUT: the front operation of a cluster's GSU, a READOUT (R246). -/
def execGsuReadout (cluster : ClusterId) (s : State) : Host.Outcome State Fault Refusal :=
  .next (s.serve fun w => w.gsuAct s.sid cluster.val 3 fun w o e =>
    if w.nmrDown (w.partOfCluster cluster.val) then w
    else (w.readoutTable s.sid (w.partOfCluster cluster.val) e).gsuDone s.sid cluster.val o)

end Sys2Proof.Machine
end

