-- ==== Sys2Proof/Machine/Disp.lean ====
section
/-!
DEFINITION. Dispatch and synchronisation (chapter 10): flows, ready lists and completion queues (R336 to R352), watches (R353,
R355), barriers (R359 to R363) and the deadlock detector (R371, R372).
-/

namespace Sys2Proof.Machine

/-! ### The stall state (R65, R70, R594) -/

/-- STATE of a sequencer as its status and its samples show it. The rules give queue-empty, and the queue-full and memory-slot of an
engine's access, no command of a sequencer that enters them; whether a FENCE held by an engine shows what that engine waits for is left
open (assumption 158). -/
def World.stallState (w : World) (c : Nat) : SeqState :=
  let s := (w.core c).seq
  if s = .fenceWait ∧ Config.fenceShowsEngine then
    if w.axeState c = 2 then .memorySlot
    else if w.mxeState c = 2 ∨ w.vxeState c = 2 then .queueEmpty
    else if w.mxeState c = 3 ∨ w.vxeState c = 3 ∨ w.axeState c = 4 then .queueFull
    else s
  else s

/-! ### Helpers -/

/-- A flow definition of a partition's bundle. -/
def World.flowDef (w : World) (p i : Nat) : Option FlowDef :=
  (w.part p).bundle.bind fun b => b.flows.find? fun f => decide (f.flow = i)

/-- The partition of a flow: that of its die. -/
def World.partOfFlow (w : World) (i : Nat) : Nat := w.ownerOfDie (i / 256)

/-- An ITEM record (R589): phase 0 dispatched, 1 completed, 2 released, by the ready-list bank of cluster `k`. -/
def World.itemRecord (w : World) (t : Sid) (k flow phase seq : Nat) (result : Word) : World :=
  w.act t (clusterSource 4 k) 0x04 3 flow seq
    (leBytes 2 flow ++ leBytes 1 phase ++ [0] ++ leBytes 4 seq ++ leBytes 8 result.toNat)

/-- A SYNC record (R589): 0 watch wake, 1 barrier generation complete, 2 fence complete. -/
def World.syncRecord (w : World) (t : Sid) (src what index value : Nat) : World :=
  w.act t src 0x05 4 index value (leBytes 1 what ++ [0] ++ leBytes 2 index ++ [0, 0, 0, 0] ++ leBytes 8 value)

/-! ### Watches (R353) -/

/-- Whether a comparison holds (R355). -/
def watchHolds (cmp : Nat) (v target : Word) : Bool :=
  if cmp = 0 then decide (target.toNat ≤ v.toNat) else if cmp = 1 then decide (v = target) else decide (v ≠ target)

/-- After a change of a watch counter: the first one that makes the condition of the registered watch true sends the wake message, which
a later change does not take back (R355). -/
def Core.noteWake (c : Core) : Core :=
  { c with wake := c.wake || c.waitReg.elim false fun r => watchHolds r.2.1 (AMap.get 0 c.watches r.1) r.2.2 }

/-- Adds to a watch counter, modulo 2^64. -/
def World.addWatch (w : World) (t : Sid) (c x : Nat) (n : Word) : World :=
  (w.updCore c fun y => { y with watches := AMap.upd 0 y.watches x (· + n) }.noteWake).progressed t (w.partOfCore c)

/-! ### Flows (R338 to R344) -/

/-- Items per run of a flow: its own, or its upstream's (R340). -/
def World.runCount (w : World) (p : Nat) (f : FlowDef) : Nat → Nat
  | 0 => 0
  | fuel + 1 =>
    if f.chained then (f.upstream.bind (w.flowDef p)).elim 0 fun u => World.runCount w p u fuel
    else if f.fromMem then leNat (w.hbmRead p f.countAddr 8) else f.count

/-- Whether a flow's count of this run exceeds its COUNT (R340). -/
def World.countBad (w : World) (p : Nat) (f : FlowDef) : Bool :=
  f.fromMem && !f.chained && decide (f.count < leNat (w.hbmRead p f.countAddr 8))

/-- What the dispatcher reads in HBM for flows: COUNT_ADDR at a run's start (R340). -/
def countReads (fs : List FlowDef) : List (Nat × Nat) :=
  (fs.filter fun f => f.fromMem && !f.chained).map fun f => (f.countAddr, 8)

/-- METADATA, check FLOW_COUNT (R340, R376). -/
def World.flowFault (w : World) (t : Sid) (p flow : Nat) : World :=
  let d := flow / 256
  let w := w.setReg (Block.disp.addr d 0x010) (mkField 1 0 4 ||| mkField 0x60 8 8 ||| mkField flow 16 10 ||| mkField 1 63 1)
  w.metadata t p (clusterSource 4 (12 * d)) 0x60 flow

/-- The payload of item `s` (R340). -/
def World.itemPayload (w : World) (p : Nat) (f : FlowDef) (s : Nat) : Nat → List Word
  | 0 => []
  | fuel + 1 =>
    if f.chained then
      match f.upstream.bind (w.flowDef p) with
      | none => []
      | some u => (World.itemPayload w p u s fuel).set 7 (AMap.get 0 (w.flow u.flow).results s)
    else
      let a := f.listBase + 64 * s
      let bs := match localOf a with
        | some (.hbm o) => w.hbmRead p o 64
        | some (.store o) => w.storeRead (12 * (f.flow / 256)) o 64
        | none => []
      (List.range 8).map fun i => BitVec.ofNat 64 (leAt bs (8 * i) 8)

/-- Entries of a die's ready list (R345). -/
def readyEntries : Nat := 12288

/-- Whether a flow may admit its next item (R341). -/
def World.canAdmit (w : World) (p : Nat) (f : FlowDef) : Bool :=
  let x := w.flow f.flow
  x.active && decide (x.admitted < x.count) && decide (x.admitted < x.head + f.window)
    && decide ((w.die (f.flow / 256)).ready.length < readyEntries)
    && (!f.chained || (f.upstream.elim false fun u => decide (x.admitted < (w.flow u).head)))
    && w.jobRuns p

/-- ITEM_ADMIT: a flow's next item enters the die's ready list (R341, R345). -/
def execItemAdmit (flow : Fin 1024) (s : State) : Host.Outcome State Fault Refusal :=
  .next (s.serve fun w =>
    let p := w.partOfFlow flow.val
    match w.flowDef p flow.val with
    | none => w
    | some f =>
      if w.canAdmit p f then
        let n := (w.flow f.flow).admitted
        let list := if f.chained then [] else match localOf (f.listBase + 64 * n) with
          | some (.hbm o) => [(o, 64)]
          | _ => []
        match w.agentReads s.sid p (clusterSource 4 (12 * (f.flow / 256))) list with
        | (none, w) => w
        | (some w, _) =>
        let w := w.updDie (f.flow / 256) fun d =>
          { d with ready := d.ready ++ [{ flow := f.flow, seq := n, payload := w.itemPayload p f n 1024 }] }
        (w.updFlow f.flow fun x => { x with admitted := n + 1 }).progressed s.sid p
      else w)

/-- The ready item that a request takes (R346): of the highest priority, and of these the first admitted. -/
def World.pickItem (w : World) (p d : Nat) (takes : FlowDef → Bool) : Option Ready :=
  (w.die d).ready.foldl (fun (m : Option (Nat × Ready)) r =>
    match w.flowDef p r.flow with
    | none => m
    | some f =>
      if takes f then
        match m with
        | none => some (f.priority, r)
        | some b => if b.1 < f.priority then some (f.priority, r) else some b
      else m) none |>.map (·.2)

/-- Whether a core's mask takes a flow (R346), and whether a sampler does. -/
def coreTakes (mask : BitVec 16) (f : FlowDef) : Bool := !f.sampler && bitAt mask.toNat f.service && decide (f.service < 15)
def samplerTakes (f : FlowDef) : Bool := f.sampler

/-- Whether every active flow of a die that a request may take is drained (R344, R348). -/
def World.allDrained (w : World) (p d : Nat) (takes : FlowDef → Bool) : Bool :=
  ((w.part p).bundle.elim [] (·.flows)).all fun f =>
    let x := w.flow f.flow
    decide (f.flow / 256 ≠ d) || !takes f || !x.active || decide (x.dispatched = x.count)

/-- Whether every COLLECT flow of a die is exhausted and its completion queue empty (R352). -/
def World.collectDone (w : World) (p d : Nat) : Bool :=
  (w.die d).collect.isEmpty && ((w.part p).bundle.elim [] (·.flows)).all fun f =>
    let x := w.flow f.flow
    decide (f.flow / 256 ≠ d) || !f.collect || !x.active || decide (x.head = x.count)

/-- A grant to requester `i` moves the pointer of a resource past it (R445). Resources: `d` the ready list of die `d`, 4 + `d` its
collector. -/
def World.granted (w : World) (resource i : Nat) : World := { w with pointers := AMap.set 0 w.pointers resource (i + 1) }

/-- Removes an item from a ready list for the requester of source `src` and counts its dispatch. -/
def World.takeItem (w : World) (t : Sid) (p d k src : Nat) (r : Ready) : World :=
  let w := w.granted d src
  let w := w.updDie d fun x => { x with ready := x.ready.filter fun y => !(decide (y.flow = r.flow) && decide (y.seq = r.seq)) }
  let w := (w.updFlow r.flow fun x => { x with dispatched := x.dispatched + 1 }).tick .disp d 0x080
  (w.itemRecord t k r.flow 0 r.seq 0).progressed t p

/-- Condition bits with bit `i` set to `b` (R57). -/
def setBit16 (v : BitVec 16) (i : Nat) (b : Bool) : BitVec 16 :=
  (v &&& ~~~ (BitVec.ofNat 16 (2 ^ i))) ||| (if b then BitVec.ofNat 16 (2 ^ i) else 0)

/-- A core receives an item (R337, R348). -/
def Core.give (r : Ready) (count : Nat) (c : Core) : Core :=
  { c with
    slot := r.payload, item := some { flow := r.flow, seq := r.seq }
    cc := setBit16 (setBit16 (setBit16 c.cc 0 false) 1 (decide (r.seq + 1 = count))) 2 (decide (r.seq = 0)) }

/-- Serves a core's GET_WORK (R346, R348, R352); what it is given restarts its island (R21). -/
def World.serveCore (w : World) (t : Sid) (c : Nat) (mask : BitVec 16) : World :=
  let p := w.partOfCore c
  let d := dieOfCore c
  let token := fun (w : World) =>
    (w.updCore c fun x => { x with cc := setBit16 x.cc 0 true }).endHold t c
  if mask = 0x8000 then (if w.collectDone p d then token (w.wakeIsland t (clusterOfCore c)) else w)
  else
    match w.pickItem p d (coreTakes mask) with
    | some r =>
      let n := (w.flow r.flow).count
      let w := w.wakeIsland t (clusterOfCore c)
      ((w.takeItem t p d (clusterOfCore c) (coreSource 0 c) r).updCore c (Core.give r n)).endHold t c
    | none => if w.allDrained p d (coreTakes mask) then token (w.wakeIsland t (clusterOfCore c)) else w

/-- Serves a cluster's sampler, once it has written the header of its previous item (R346). -/
def World.serveSampler (w : World) (t : Sid) (k : Nat) : World :=
  let p := w.partOfCluster k
  let d := dieOfCluster k
  let x := (w.cluster k).smp
  if x.item.isSome ∨ x.faulted ∨ (x.run.elim false fun r => r.item.isSome) then w
  else
    match w.pickItem p d samplerTakes with
    | none => w
    | some r =>
      let w := w.wakeIsland t k
      (w.takeItem t p d k (clusterSource 5 k) r).updCluster k fun y =>
        { y with smp := { y.smp with item := some ({ flow := r.flow, seq := r.seq }, r.payload.flatMap fun v => leBytes 8 v.toNat) } }

/-- WORK_DISPATCH: the dispatcher serves a request of a core or of a sampler; none in a window that R23 withholds. -/
def execWorkDispatch (r : Requester) (s : State) : Host.Outcome State Fault Refusal :=
  .next (s.serve fun w =>
    if s.pwr.withheld then w
    else
      match r with
      | .core c =>
        match (w.core c.val).held with
        | some (.getWork mask) => if w.coreLive c.val then w.serveCore s.sid c.val mask else w
        | _ => w
      | .sampler k => if w.clusterLive k.val then w.serveSampler s.sid k.val else w)

/-! ### Completion (R342, R349, R351) -/

/-- An item completes with a result (R342): the result is written, and its bit waits for the acknowledgement. -/
def World.completeItem (w : World) (t : Sid) (k : Nat) (i : ItemRef) (v : Word) : World :=
  let p := w.partOfFlow i.flow
  let base := (w.flowDef p i.flow).bind (·.resultBase)
  let w := w.updFlow i.flow fun x => { x with finished := x.finished ++ [i.seq], results := AMap.set 0 x.results i.seq v }
  let w := match base with
    | none => w
    | some a => w.hbmWrite t (clusterSource 4 k) w.ownPosition p (a + 8 * i.seq) (leBytes 8 v.toNat)
  (w.itemRecord t k i.flow 1 i.seq v).progressed t p

/-- Whether a core's own completion-queue entry holds a record. -/
def World.entryBusy (w : World) (c : Nat) : Bool := (w.die (dieOfCore c)).collect.any fun r => decide (r.core = c)

/-- Completes the item that a core holds; none where its completion-queue entry is busy (R351). -/
def World.completeHeld (w : World) (t : Sid) (c : Nat) (v : Word) : Option World :=
  match (w.core c).item with
  | none => some w
  | some i =>
    let collects := (w.flowDef (w.partOfFlow i.flow) i.flow).elim false (·.collect)
    if collects ∧ w.entryBusy c then none
    else
      let w := if collects then w.updDie (dieOfCore c) fun d =>
          { d with collect := d.collect ++ [{ flow := i.flow, seq := i.seq, result := v, core := c }] } else w
      some ((w.updCore c fun x => { x with item := none }).completeItem t (clusterOfCore c) i v)

/-- A core that has completed goes on: past COMPLETE, into its GET_WORK, or into its END. -/
def World.afterComplete (w : World) (t : Sid) (c : Nat) (thenGet : Option (BitVec 16)) (thenEnd : Bool) : World :=
  match thenGet, thenEnd with
  | some mask, _ => w.holdSeq t c .workWait (.getWork mask)
  | none, true => w.holdSeq t c .fenceWait .ending
  | none, false => w.retire t c

/-- A core held in a completion tries again: its entry may have been freed. -/
def World.retryComplete (w : World) (t : Sid) (c : Nat) : World :=
  match (w.core c).held with
  | some (.completing v g e) =>
    match w.completeHeld t c v with
    | none => w
    | some w => (w.holdRecord t (coreSource 0 c) (w.core c).seq.code true).afterComplete t c g e
  | _ => w

/-- Completes the held item, or holds the sequencer in work-wait until its entry is free (R349, R351). -/
def World.completeOrHold (w : World) (t : Sid) (c : Nat) (v : Word) (thenGet : Option (BitVec 16)) (thenEnd : Bool) : World :=
  match w.completeHeld t c v with
  | some w => w.afterComplete t c thenGet thenEnd
  | none => w.holdSeq t c .workWait (.completing v thenGet thenEnd)

/-- COLLECT_RECORD: a collector receives the first completion record of its die (R352). -/
def execCollectRecord (core : CoreId) (s : State) : Host.Outcome State Fault Refusal :=
  .next (s.serve fun w =>
    let c := core.val
    let d := dieOfCore c
    match (w.core c).held, (w.die d).collect with
    | some (.getWork mask), r :: rest =>
      if mask ≠ 0x8000 ∨ w.coreLive c = false ∨ s.pwr.withheld then w
      else
        let w := w.wakeIsland s.sid (clusterOfCore c)
        let words : List Word := [BitVec.ofNat 64 (r.flow + r.core * 2 ^ 16), BitVec.ofNat 64 r.seq, r.result, 0, 0, 0, 0, 0]
        let w := (w.granted (4 + d) (r.core % 96)).updDie d fun x => { x with collect := rest }
        let w := w.updCore c fun x => { x with slot := words, cc := setBit16 (setBit16 (setBit16 x.cc 0 false) 1 false) 2 false }
        (w.endHold s.sid c).retryComplete s.sid r.core
    | _, _ => w)

/-- Releases items while the bit of HEAD is set (R343). -/
def World.releaseItems (w : World) (t : Sid) (p : Nat) (f : FlowDef) : Nat → World
  | 0 => w
  | fuel + 1 =>
    let x := w.flow f.flow
    if x.complete.contains x.head then
      let v := AMap.get 0 x.results x.head
      let w := w.updFlow f.flow fun y => { y with complete := y.complete.filter fun n => decide (n ≠ x.head), head := x.head + 1 }
      let w := match f.releaseCore, f.releaseWatch with
        | some c, some i => w.addWatch t c i 1
        | _, _ => w
      let w := (w.tick .disp (f.flow / 256) 0x088).itemRecord t (12 * (f.flow / 256)) f.flow 2 x.head v
      World.releaseItems (w.progressed t p) t p f fuel
    else w

/-- ITEM_COMPLETE: an item's result write is acknowledged (R342), and HEAD is released while its bit is set (R343). -/
def execItemComplete (flow : Fin 1024) (seq : Nat) (s : State) : Host.Outcome State Fault Refusal :=
  .next (s.serve fun w =>
    let p := w.partOfFlow flow.val
    match w.flowDef p flow.val with
    | none => w
    | some f =>
      if (w.flow f.flow).finished.contains seq ∧ w.jobRuns p then
        let w := w.updFlow f.flow fun x =>
          { x with finished := x.finished.filter (fun n => decide (n ≠ seq)), complete := x.complete ++ [seq] }
        w.releaseItems s.sid p f ((w.flow f.flow).complete.length + 1)
      else w)

/-! ### Watch wake (R355) -/

/-- WATCH_WAKE: the wake message that the CJU sent reaches the core, which continues, and the watch is removed (R355); a stopped island
restarts (R21). -/
def execWatchWake (core : CoreId) (s : State) : Host.Outcome State Fault Refusal :=
  .next (s.serve fun w =>
    let c := core.val
    match (w.core c).waitReg with
    | none => w
    | some (x, _, _) =>
      if (w.core c).wake ∧ w.coreLive c then
        let w := (w.wakeIsland s.sid (clusterOfCore c)).updCore c fun y => { y with waitReg := none, wake := false }
        (w.syncRecord s.sid (coreSource 8 c) 0 x (AMap.get 0 (w.core c).watches x : Word).toNat).endHold s.sid c
      else w)

/-! ### Barriers (R359 to R363) -/

/-- The key of a die barrier of module-wide cluster `k`, and of a domain barrier; the latter begin at 2^20. -/
def dieBarKey (k i : Nat) : Nat := 64 * k + i
def domBarKey (p i : Nat) : Nat := 2 ^ 20 + 16 * p + i

/-- A barrier by its key. -/
def World.bar (w : World) (key : Nat) : Bar :=
  if key < 2 ^ 20 then AMap.get {} w.bars key else AMap.get {} w.dbars (key - 2 ^ 20)
/-- Changes a barrier. -/
def World.updBar (w : World) (key : Nat) (f : Bar → Bar) : World :=
  if key < 2 ^ 20 then { w with bars := AMap.upd {} w.bars key f } else { w with dbars := AMap.upd {} w.dbars (key - 2 ^ 20) f }

/-- The cluster whose barrier block counts a barrier (R382). -/
def World.barBlock (w : World) (key : Nat) : Nat :=
  if key < 2 ^ 20 then key / 64 else 12 * ((w.diesOf ((key - 2 ^ 20) / 16)).headD 0)
/-- The index of a barrier in its object. -/
def barIndex (key : Nat) : Nat := if key < 2 ^ 20 then key % 64 else key % 16

/-- A participant sees one generation complete: AHEAD falls by 1, and a waiting entry of that generation continues. -/
def World.passBar (t : Sid) (key : Nat) (w : World) (c : Nat) : World :=
  let w := w.updCore c fun x => { x with ahead := AMap.upd 0 x.ahead key (· - 1) }
  match (w.core c).held with
  | some (.barrier k left) =>
    if k = key then
      if left ≤ 1 then w.endHold t c else w.updCore c fun x => { x with held := some (.barrier key (left - 1)) }
    else w
  | _ => w

/-- One generation of a barrier completes (R360). -/
def World.completeBar (w : World) (t : Sid) (p key : Nat) : World :=
  let b := w.bar key
  let w := w.updBar key fun x => { x with gen := !x.gen, cur := x.next, next := 0, rounds := x.rounds + 1, reported := false }
  let w := (w.tick .cjuBar (w.barBlock key) 0x280).syncRecord t (barSource (w.barBlock key)) 1 (barIndex key) (b.rounds + 1)
  (b.members.foldl (World.passBar t key) w).progressed t p

/-- Whether a domain barrier of a partition completes through the combining tree (R359). -/
def World.treeBar (w : World) (p key : Nat) : Bool := decide (2 ^ 20 ≤ key) && decide (p = 0) && w.fab.position.isSome

/-- After an entry: a full barrier completes, again while it is still full; a domain barrier's entry goes up the tree (R359,
R360). -/
def World.settleBar (w : World) (t : Sid) (p key : Nat) : Nat → World
  | 0 => w
  | fuel + 1 =>
    let b := w.bar key
    if b.expected = 0 ∨ b.cur < b.expected then w
    else if w.treeBar p key then
      if b.reported then w
      else
        (w.updBar key fun x => { x with reported := true }).emit
          (.tree true { barrier := barIndex key, entries := 1, step := (w.part p).step, fromPosition := w.ownPosition })
    else World.settleBar (w.completeBar t p key) t p key fuel

/-- BARRIER_OVERRUN (R362, R381). -/
def World.overrun (w : World) (t : Sid) (p c key : Nat) : World :=
  let dom := decide (2 ^ 20 ≤ key)
  let k := if dom then clusterOfCore c else key / 64
  let payload := barIndex key + k % 12 * 2 ^ 8 + (if dom then 2 ^ 12 else 0)
  let w := w.setReg (Block.cjuBar.addr k 0x200) (mkField payload 0 13 ||| mkField c 16 9 ||| mkField 1 63 1)
  ((w.updCore c Core.faultSeq).raise t (barSource k) 0x10C payload).stopJob t p 1 (barSource k)

/-- A core enters a barrier (R360, R361). -/
def World.enterBar (w : World) (t : Sid) (p c key : Nat) (wait : Bool) : World :=
  let a := AMap.get 0 (w.core c).ahead key
  if 2 ≤ a then w.overrun t p c key
  else
    let w := w.updCore c fun x => { x with ahead := AMap.set 0 x.ahead key (a + 1) }
    let w := if a = 0 then w.updBar key fun b => { b with cur := b.cur + 1 }
      else (w.updBar key fun b => { b with next := b.next + 1 }).tick .cjuBar (w.barBlock key) 0x288
    let w := if wait then w.holdSeq t c .watchWait (.barrier key (a + 1)) else w.retire t c
    w.settleBar t p key 3

/-! ### The start and the end of a run (R49, R336, R350, R363) -/

/-- Where a run of a kind enters a core's program; none where the core stays idle (R48, R49). -/
def Core.entry (eval : Bool) (c : Core) : Option Nat := if eval then c.evalPc else some c.entryPc
/-- Whether a run of a kind restarts a core's sequencer. -/
def Core.restarts (eval : Bool) (c : Core) : Bool := (c.entry eval).isSome && decide (c.role ≠ 0x7F) && decide (c.seq ≠ .faulted)

/-- The sequencer of a core restarts (R49). -/
def Core.restart (eval restored : Bool) (c : Core) : Core :=
  if c.restarts eval then
    { c with
      pc := (c.entry eval).getD 0, seq := if c.stop then .stopped else .running, held := none, loops := []
      cc := setBit16 (setBit16 0 3 eval) 4 restored
      ended := false, item := none, slot := [], wake := false
      vxe := { c.vxe with vregs := [], masks := [] } }
  else c

/-- Records left in the completion queues of a partition are discarded (R352). -/
def World.discardRecords (w : World) (p : Nat) : World :=
  (w.diesOf p).foldl (fun w d =>
    (w.count (Block.disp.addr d 0x0B0) (w.die d).collect.length).updDie d fun x => { x with collect := [] }) w

/-- The barriers of a partition, by key. -/
def World.barKeys (w : World) (p : Nat) : List Nat :=
  ((w.bars.map (·.1)).filter fun k => (w.clustersOf p).contains (k / 64))
    ++ ((w.dbars.map (·.1)).filter fun k => decide (k / 16 = p)).map (2 ^ 20 + ·)

/-- A sampler holds no item of an earlier run, nor a block that it draws for one (R350; assumption 150). -/
def Cluster.dropItem (x : Cluster) : Cluster :=
  { x with smp := { x.smp with item := none, run := x.smp.run.filter fun r => r.item.isNone } }

/-- Resets flows, ready lists, completion queues, sampler items, watches and barriers of a partition (R350, R353, R363). -/
def World.resetRun (w : World) (p : Nat) : World :=
  let w := w.discardRecords p
  let w := (w.diesOf p).foldl (fun w d => w.updDie d fun x => { x with ready := [] }) w
  let w := if p = 0 then { w with fab := { w.fab with reduceSent := [] } } else w
  let w := (w.clustersOf p).foldl (fun w k => w.updCluster k Cluster.dropItem) w
  let w := { w with flows := (w.diesOf p).foldl (fun m d => AMap.clear m (256 * d) (256 * d + 256)) w.flows }
  let w := (w.coresOf p).foldl (fun w c => w.updCore c fun x => { x with watches := [], ahead := [], waitReg := none, wake := false }) w
  (w.barKeys p).foldl (fun w k => w.updBar k fun b =>
    { b with gen := false, cur := 0, next := 0, rounds := 0, reported := false }) w

/-- Barriers that a run leaves open (R363). -/
def World.abandonBars (w : World) (p : Nat) : World :=
  (w.barKeys p).foldl (fun w k =>
    let b := w.bar k
    if 0 < b.cur ∨ 0 < b.next then w.tick .cjuBar (w.barBlock k) 0x290 else w) w

/-- Whether a core still holds an item whose completion record its own entry cannot take yet: its restart waits (R349). -/
def World.restartWaits (w : World) (p : Nat) : Bool := (w.coresOf p).any fun c =>
  (w.core c).item.elim false fun i => (w.flowDef p i.flow).elim false (·.collect) && w.entryBusy c

/-- A restart while a core holds an item completes it first, with result 0 (R349). -/
def World.restartItems (w : World) (t : Sid) (p : Nat) : World :=
  (w.coresOf p).foldl (fun w c =>
    if (w.core c).item.isSome then ((w.tick .disp (dieOfCore c) 0x098).completeHeld t c 0).getD w else w) w

/-- The release that starts a run reaches the islands whose sequencers restart (R21, R49). -/
def World.wakeRun (w : World) (t : Sid) (p : Nat) (eval : Bool) : World :=
  ((w.clustersOf p).filter fun k => (List.range 8).any fun i => (w.core (8 * k + i)).restarts eval).foldl (fun w k => w.wakeIsland t k) w

/-- A run begins (R336, R350): everything of the partition's dispatch is reset, its active flows start and its sequencers
restart. A count read from memory that is too large stops the partition (R340). Where a restart waits, the run stays due. -/
def World.beginRun (w : World) (t : Sid) (p : Nat) (eval : Bool) : World :=
  if w.restartWaits p then w.updPart p fun x => { x with due := some eval }
  else
    let w := (w.restartItems t p).resetRun p
    let flows := ((w.part p).bundle.elim [] (·.flows)).filter fun f => decide (f.eval = eval)
    match w.agentReads t p (clusterSource 4 0) (countReads flows) with
    | (none, w) => w
    | (some w, _) =>
    match flows.find? fun f => w.countBad p f with
    | some f => w.flowFault t p f.flow
    | none =>
      let w := flows.foldl (fun w f => w.updFlow f.flow fun x => { x with active := true, count := w.runCount p f 1024 }) w
      let restored := (w.part p).restored
      let w := (w.coresOf p).foldl (fun w c => w.updCore c (Core.restart eval restored)) (w.wakeRun t p eval)
      (w.updPart p fun x => { x with running := true, eval := eval }).progressed t p

/-- Whether every sequencer of a partition has executed END. -/
def World.allEnded (w : World) (p : Nat) : Bool := (w.coresOf p).all fun c => (w.core c).ended

/-- A run ends when the last sequencer has executed END (R336); after a slot's run the step's is due (R350). -/
def World.endRun (w : World) (p : Nat) : World :=
  if (w.part p).running ∧ w.allEnded p then
    ((w.abandonBars p).discardRecords p).updPart p fun x =>
      { x with running := false, due := if x.eval then some false else x.due }
  else w

/-! ### The deadlock detector (R371, R372, R377) -/

/-- Whether the detector of a partition is armed (R371); a drain disarms that of partition 0 (R418). -/
def World.armed (w : World) (p : Nat) : Bool :=
  w.jobRuns p && (w.part p).running && !(w.allEnded p) && !(w.part p).inBarrier && !(decide (p = 0) && w.fab.drain.active)

/-- DEADLOCK_MS of a partition: that of its lowest die, at most 1,000 (R373, R374). -/
def World.deadlockMs (w : World) (p : Nat) : Nat :=
  min 1000 (w.regField (Block.disp.addr ((w.diesOf p).headD 0) 0x000) 0 10)

/-- The snapshot of R377. -/
def World.deadlockSnapshot (w : World) (p : Nat) : Word :=
  let n := fun (q : SeqState → Bool) => ((w.coresOf p).filter fun c => q (w.stallState c)).length
  let held := (w.coresOf p).filter fun c => (w.core c).held.isSome
  mkField (n fun s => decide (s = .workWait)) 0 9 ||| mkField (n fun s => decide (s = .watchWait)) 9 9
    ||| mkField (n fun s => decide (s = .fenceWait)) 18 9
    ||| mkField (n fun s => decide (s = .queueFull) || decide (s = .queueEmpty)) 27 9
    ||| mkField (n fun s => decide (s = .memorySlot)) 36 9 ||| mkField (held.headD 0) 45 9

/-- DEADLOCK: no progress for DEADLOCK_MS, in which time that R23 withholds work does not count (R372). -/
def execDeadlock (part : PartId) (s : State) : Host.Outcome State Fault Refusal :=
  .next (s.serve fun w =>
    let p := part.val
    let ms := w.deadlockMs p
    let since := (w.part p).progress
    if w.armed p ∧ ms ≠ 0 ∧ since + s.pwr.withheldPart s.sid.now since + ms * 1000000 ≤ s.sid.now then
      let d := (w.diesOf p).headD 0
      let held := (w.coresOf p).filter fun c => (w.core c).held.isSome
      let src := clusterSource 4 (clusterOfCore (held.headD (96 * d)))
      let w := w.setReg (Block.disp.addr d 0x018) (w.deadlockSnapshot p)
      let w := (w.setReg (Block.disp.addr d 0x010) (mkField 2 0 4 ||| mkField 1 63 1)).tick .disp d 0x0B8
      (w.raise s.sid src 0x10D (p + held.length * 2 ^ 16)).stopJob s.sid p 2 src
    else w)

end Sys2Proof.Machine
end

