-- ==== Sys2Proof/Machine/KilnMath.lean ====
section
/-!
DEFINITION. The arithmetic of the Kiln (R302 to R313): schedules, the element rules, ROW_ADAGRAD, orthogonalised momentum on the
matrix unit, and rule programs. A value carries a mark that an invalid operation on finite operands took part in it.
-/

namespace Sys2Proof.Machine

/-- A value, and whether an invalid operation on finite operands led to it (R302). -/
abbrev KV := Val × Bool

/-- A result with its mark: `fin` says that the operands were finite. -/
def kResult (r : Val × Nat) (fin mark : Bool) : KV := (r.1, mark || (fin && decide (r.2 &&& flInvalid ≠ 0)))
def kAdd (a b : KV) : KV := kResult (fp32.add {} .rne a.1 b.1) (a.1.isFinite && b.1.isFinite) (a.2 || b.2)
def kSub (a b : KV) : KV := kResult (fp32.sub {} .rne a.1 b.1) (a.1.isFinite && b.1.isFinite) (a.2 || b.2)
def kMul (a b : KV) : KV := kResult (fp32.mul {} .rne a.1 b.1) (a.1.isFinite && b.1.isFinite) (a.2 || b.2)
def kDiv (a b : KV) : KV := kResult (fp32.div {} .rne a.1 b.1) (a.1.isFinite && b.1.isFinite) (a.2 || b.2)
def kSqrt (a : KV) : KV := kResult (fp32.sqrt {} .rne a.1) a.1.isFinite a.2
def kMax (a b : KV) : KV := ((valMax a.1 b.1).1, a.2 || b.2)
def kMin (a b : KV) : KV := ((valMin a.1 b.1).1, a.2 || b.2)
/-- sign(x) of R302. -/
def kSign (a : KV) : KV :=
  match a.1 with
  | .nan _ => (.nan false, a.2)
  | .inf n => (.fin n 1 0, a.2)
  | .fin n m _ => (if m = 0 then .fin false 0 0 else .fin n 1 0, a.2)
/-- A constant from FP32 bits, and from a whole number. -/
def kBits (v : Nat) : KV := (fp32.decode v, false)
def kNat (n : Nat) : KV := ((fp32.conv {} .rne true (.fin false n 0)).val, false)
def kOne : KV := kNat 1
/-- fp32(master) of R302. -/
def kOfMaster (m : Val) : KV := ((fp32.conv {} .rne true m).val, false)
/-- `master = master - x`: one M48 operation (R302). -/
def masterSub (m : Val) (x : KV) : KV := kResult (m48.sub {} .rne m x.1) (m.isFinite && x.1.isFinite) x.2

/-! ### Hyperparameters of a step (R303, R304) -/

/-- A schedule at step `n` (R303): FP64 operations, each rounded to nearest even, then FP32. -/
def schedAt (points : List (Nat × Nat)) (n : Nat) : Val :=
  let val := fun (p : Nat × Nat) => fp32.decode p.2
  let f := points.headD (0, 0)
  let l := points.getLastD (0, 0)
  if n ≤ f.1 then val f
  else if l.1 ≤ n then val l
  else
    match (points.zip (points.drop 1)).find? fun x => decide (x.1.1 ≤ n) && decide (n < x.2.1) with
    | none => val l
    | some (a, b) =>
      let int := fun (k : Nat) => (fp64.conv {} .rne true (.fin false k 0)).val
      let t := (fp64.div {} .rne (int (n - a.1)) (int (b.1 - a.1))).1
      let d := (fp64.mul {} .rne (fp64.sub {} .rne (val b) (val a)).1 t).1
      (fp32.conv {} .rne true (fp64.add {} .rne (val a) d).1).val

/-- What an update reads beside the element: lr, wd, bc1 and bc2. -/
structure KHyper where
  lr : KV
  wd : KV
  bc1 : KV
  bc2 : KV

/-- lr and wd of a rule at step `n` (R303); B1POW and B2POW are FP64 bits after the update of R304. -/
def KilnRule.hyper (r : KilnRule) (schedules : List (List (Nat × Nat))) (n b1 b2 : Nat) : KHyper :=
  let factor := fun (base : Nat) (s : Option Nat) =>
    match s with
    | none => kBits base
    | some i => kMul (kBits base) (schedAt (schedules.getD i []) n, false)
  let bc := fun (b : Nat) => ((fp32.conv {} .rne true (fp64.sub {} .rne (.fin false 1 0) (fp64.decode b)).1).val, false)
  { lr := factor r.lr r.schedLr, wd := factor r.wd r.schedWd, bc1 := bc b1, bc2 := bc b2 }

/-- B1POW or B2POW after one more update (R304). -/
def powStep (pow beta : Nat) : Nat := fp64.encode (fp64.mul {} .rne (fp64.decode pow) (fp32.decode beta)).1

/-! ### Element rules (R305, R306, R308, R312) -/

/-- SGD_MOMENTUM (R305): the subtrahend of the master and the new state. -/
def sgdStep (r : KilnRule) (noDecay : Bool) (h : KHyper) (grad w m : KV) : KV × KV :=
  let g := kMul grad (kBits r.gscale)
  let g := if h.wd.1.isZero ∨ noDecay then g else kAdd g (kMul h.wd w)
  let m := kAdd (kMul (kBits r.beta1) m) g
  let d := if r.nesterov then kAdd g (kMul (kBits r.beta1) m) else m
  (kMul h.lr d, m)

/-- ADAMW (R306). -/
def adamStep (r : KilnRule) (noDecay : Bool) (h : KHyper) (grad w m v : KV) : KV × KV × KV :=
  let g := kMul grad (kBits r.gscale)
  let m := kAdd (kMul (kBits r.beta1) m) (kMul (kSub kOne (kBits r.beta1)) g)
  let v := kAdd (kMul (kBits r.beta2) v) (kMul (kSub kOne (kBits r.beta2)) (kMul g g))
  let d := kDiv (kDiv m h.bc1) (kAdd (kSqrt (kDiv v h.bc2)) (kBits r.eps))
  let d := if noDecay then d else kAdd d (kMul h.wd w)
  (kMul h.lr d, m, v)

/-- SIGN_MOMENTUM (R308). -/
def signStep (r : KilnRule) (noDecay : Bool) (h : KHyper) (grad w m : KV) : KV × KV :=
  let g := kMul grad (kBits r.gscale)
  let c := kAdd (kMul (kBits r.beta1) m) (kMul (kSub kOne (kBits r.beta1)) g)
  let d := kSign c
  let d := if noDecay then d else kAdd d (kMul h.wd w)
  (kMul h.lr d, kAdd (kMul (kBits r.beta2) m) (kMul (kSub kOne (kBits r.beta2)) g))

/-- The registers, the new states, the subtrahend and the mark of every operation so far while a program runs. -/
abbrev ProgEnv := List KV × List KV × KV × Bool

/-- One operation of a program (R312). -/
def progStep (r : KilnRule) (noDecay : Bool) (h : KHyper) (grad w : KV) (st prev : List KV) (e : ProgEnv) (o : Nat × Nat × Nat × Nat) :
    ProgEnv :=
  let op := o.1
  let dst := o.2.1
  let zero : KV := (.fin false 0 0, false)
  let a := e.1.getD o.2.2.1 zero
  let b := e.1.getD o.2.2.2 zero
  let put := fun (v : KV) => ((e.1.set dst v, e.2.1, e.2.2.1, e.2.2.2 || v.2) : ProgEnv)
  match op with
  | 0x01 => put (kMul grad (kBits r.gscale))
  | 0x02 => put w
  | 0x03 => put (st.getD o.2.2.1 zero)
  | 0x04 => put (prev.getD o.2.2.1 zero)
  | 0x05 => put (kBits (r.consts.getD o.2.2.1 0))
  | 0x06 => put h.lr
  | 0x07 => put (if noDecay then zero else h.wd)
  | 0x10 => put (kAdd a b)
  | 0x11 => put (kSub a b)
  | 0x12 => put (kMul a b)
  | 0x13 => put (kDiv a b)
  | 0x14 => put (kSqrt a)
  | 0x15 => put (kSign a)
  | 0x16 => put (a.1.abs, a.2)
  | 0x17 => put (a.1.neg, a.2)
  | 0x18 => put (kMax a b)
  | 0x19 => put (kMin a b)
  | 0x20 => (e.1, e.2.1.set dst a, e.2.2)
  | 0x21 => (e.1, e.2.1, a, e.2.2.2)
  | _ => e

/-- PROGRAM (R312, R313): `old` is what STORE_S would replace. DELTA carries the mark of every operation of the program, also of one
whose register is overwritten (R302). -/
def programStep (r : KilnRule) (noDecay : Bool) (h : KHyper) (grad w : KV) (st prev old : List KV) : KV × List KV :=
  let zero : KV := (.fin false 0 0, false)
  let x := r.prog.foldl (progStep r noDecay h grad w st prev) (List.replicate 8 zero, old, zero, false)
  ((x.2.2.1.1, x.2.2.1.2 || x.2.2.2), x.2.1)

/-- One element under an element-wise rule: the master, the states to be written, and whether INVALID is set (R302, R330). `st`
holds the latest states, `prev` the previous, `old` those at the places that are written. -/
def elementStep (r : KilnRule) (noDecay : Bool) (h : KHyper) (grad : Val) (m : Val) (st prev old : List Val) :
    Val × List Val × Bool :=
  let g : KV := (grad, false)
  let w := kOfMaster m
  let s := fun (i : Nat) => ((st.getD i (.fin false 0 0), false) : KV)
  let out : KV × List KV := match r.kind with
    | 1 => let x := adamStep r noDecay h g w (s 0) (s 1); (x.1, [x.2.1, x.2.2])
    | 3 => let x := signStep r noDecay h g w (s 0); (x.1, [x.2])
    | 5 => programStep r noDecay h g w (st.map (·, false)) (prev.map (·, false)) (old.map (·, false))
    | _ => let x := sgdStep r noDecay h g w (s 0); (x.1, [x.2])
  let m2 := masterSub m out.1
  let finite := grad.isFinite && m.isFinite && st.all Val.isFinite && prev.all Val.isFinite
  (m2.1, out.2.map (·.1), m2.2 || out.2.any (·.2) || (finite && (m2.1.isNan || out.2.any (·.1.isNan))))

/-! ### ROW_ADAGRAD (R307) -/

/-- rowsum: Tree-64 over runs of 64, the runs added left to right. -/
def rowSum (xs : List KV) : KV := (chainRuns kAdd (xs.length / 64 + 1) none (xs.map some)).getD (.fin false 0 0, false)

/-- One row: its masters, the accumulator, and whether INVALID is set. -/
def rowAdagrad (r : KilnRule) (h : KHyper) (dim : Nat) (grads masters : List Val) (a : Val) : List Val × Val × Bool :=
  let g := grads.map fun x => kMul (x, false) (kBits r.gscale)
  let s := kDiv (rowSum (g.map fun x => kMul x x)) (kNat dim)
  let a2 := kAdd (a, false) s
  let q := kAdd (kSqrt a2) (kBits r.eps)
  let ms := (masters.zip g).map fun x => masterSub x.1 (kDiv (kMul h.lr x.2) q)
  let finite := grads.all Val.isFinite && masters.all Val.isFinite && a.isFinite
  (ms.map (·.1), a2.1, a2.2 || ms.any (·.2) || (finite && (a2.1.isNan || ms.any (·.1.isNan))))

/-! ### The matrix unit and ORTHO_MOMENTUM (R309, R310) -/

/-- A matrix by rows. -/
abbrev KMat := Nat × Nat × Array KV

def KMat.at' (a : KMat) (i j : Nat) : KV := a.2.2.getD (i * a.2.1 + j) (.fin false 0 0, false)
def matOf (rows cols : Nat) (f : Nat → Nat → KV) : KMat :=
  (rows, cols, ((List.range rows).flatMap fun i => (List.range cols).map fun j => f i j).toArray)
def KMat.map (a : KMat) (f : KV → KV) : KMat := (a.1, a.2.1, a.2.2.map f)
def KMat.transpose (a : KMat) : KMat := matOf a.2.1 a.1 fun i j => a.at' j i
/-- Rounds to BF16 (R310). -/
def kBf16 (v : KV) : KV := ((bf16.conv {} .rne true v.1).val, v.2)
/-- The exact product of two operands of the matrix unit (R310). -/
def kExactMul (a b : KV) : KV := kResult (exactMul a.1 b.1) (a.1.isFinite && b.1.isFinite) (a.2 || b.2)
/-- An FP32 result. -/
def kRound (v : KV) : KV := ((fp32.conv {} .rne true v.1).val, v.2)
/-- One output of the matrix unit: chunks of 32 exact products on the low leaves of a Tree-64 whose sums are FP32, and so is the result
of a chunk of one product; the chunks are added left to right. -/
def dotChunks : Nat → Option KV → List KV → Option KV
  | 0, acc, _ => acc
  | n + 1, acc, xs =>
    if xs.isEmpty then acc
    else dotChunks n (joinNodes kAdd acc ((tree64 kAdd ((xs.take 32).map some)).map kRound)) (xs.drop 32)
/-- matmul of R310. -/
def matMul (a b : KMat) : KMat :=
  let x := a.map kBf16
  let y := b.map kBf16
  matOf a.1 b.2.1 fun i j =>
    (dotChunks (a.2.1 / 32 + 1) none ((List.range a.2.1).map fun k => kExactMul (x.at' i k) (y.at' k j))).getD (.fin false 0 0, false)
/-- Kiln cycles of an M × K by K × N product (R310). -/
def matCycles (m k n : Nat) : Nat := ceilDiv m 32 * ceilDiv n 32 * ceilDiv k 32 * 32

/-- One iteration: x becomes ns_a·x + (ns_b·a + ns_c·a²)·x with a = x·xᵀ. -/
def nsStep (r : KilnRule) (x : KMat) : KMat :=
  let a := matMul x x.transpose
  let aa := matMul a a
  let p := matOf a.1 a.2.1 fun i j => kAdd (kMul (kBits r.nsB) (a.at' i j)) (kMul (kBits r.nsC) (aa.at' i j))
  let px := matMul p x
  matOf x.1 x.2.1 fun i j => kAdd (kMul (kBits r.nsA) (x.at' i j)) (px.at' i j)

/-- Cycles of one iteration over an r × c matrix: two products r × c × r and r × r × c and one r × r × r. -/
def nsCycles (r c : Nat) : Nat := matCycles r c r + matCycles r r r + matCycles r r c

/-- ORTHO_MOMENTUM over a whole matrix (R309): masters, momenta, INVALID and the matrix cycles. -/
def orthoStep (r : KilnRule) (noDecay : Bool) (h : KHyper) (rows cols : Nat) (grads masters ms : List Val) :
    List Val × List Val × Bool × Nat :=
  let g := grads.map fun x => kMul (x, false) (kBits r.gscale)
  let m := (ms.zip g).map fun x => kAdd (kMul (kBits r.beta1) (x.1, false)) x.2
  let b := if r.nesterov then (g.zip m).map fun x => kAdd x.1 (kMul (kBits r.beta1) x.2) else m
  let n := kSqrt (rowSum (b.map fun x => kMul x x))
  let d := kAdd n (kBits r.eps)
  let x0 : KMat := (rows, cols, (b.map fun x => kDiv x d).toArray)
  let x1 := if cols < rows then x0.transpose else x0
  let x2 := (List.range r.nsSteps).foldl (fun x _ => nsStep r x) x1
  let x3 := if cols < rows then x2.transpose else x2
  let f := kSqrt (kMax kOne (kDiv (kNat rows) (kNat cols)))
  let out := (masters.zip x3.2.2.toList).map fun y =>
    let v := kMul f y.2
    let v := if noDecay then v else kAdd v (kMul h.wd (kOfMaster y.1))
    masterSub y.1 (kMul h.lr v)
  let finite := grads.all Val.isFinite && masters.all Val.isFinite && ms.all Val.isFinite
  (out.map (·.1), m.map (·.1),
   out.any (·.2) || m.any (·.2) || (finite && (out.any (·.1.isNan) || m.any (·.1.isNan))),
   r.nsSteps * nsCycles (min rows cols) (max rows cols))

end Sys2Proof.Machine
end

