-- ==== Sys2Proof/Machine/Kiln.lean ====
section
/-!
DEFINITION. The Kiln and its link (chapter 09): state blocks (R299 to R301), gradients in delivery (R317, R319), updates and
emission (R320 to R322), state moves (R323), the close of a step (R324), freezes (R315, R316) and checks (R326). The leaves of the
step digest (R453, R454) stand here too, since the Kiln forms those of item 4.
-/

namespace Sys2Proof.Machine

/-! ### Leaves of the step digest (R453, R454) -/

/-- The four lanes of a leaf. -/
def leafLanes (item : List Byte) : List (BitVec 64) :=
  let d := shake256 item
  (List.range 4).map fun i => BitVec.ofNat 64 (leAt d (8 * i) 8)

/-- Adds an item's leaf to the sum of its shard for a step, lane by lane modulo 2^64; only a twin forms digests (R452). The sums of a
step stand apart from those of the step after it. -/
def World.addLeaf (w : World) (step shard : Nat) (item : List Byte) : World :=
  if w.config.twinRole = 0 then w
  else
    { w with twin := { w.twin with
        sums := AMap.upd [] w.twin.sums (4096 * (step % 2) + shard) fun s => (leafLanes item).zipWith (· + ·) (if s = [] then [0, 0, 0, 0] else s) } }

/-- The shard of a row of a tensor; 0 for a tensor that is held whole. -/
def Tensor.shardOfRow (x : Tensor) (row : Nat) : Nat := x.map.elim 0 fun m => m.shardOf row

/-- Whether this module forms the items of a tensor (R453): of one held whole, only at dense index 0. -/
def World.digests (w : World) (p : Nat) (x : Tensor) : Bool :=
  decide (p = 0) && decide (w.config.twinRole ≠ 0) && (x.map.isSome || decide ((w.loadEnv 0).dense = 0))

/-! ### The cellar and state blocks (R299, R300) -/

/-- The rules of a partition, a group entry by its place, and the entry of a tensor with its place. -/
def World.kilnRules (w : World) (p : Nat) : List KilnRule := (w.part p).bundle.elim [] (·.rules)
def World.kilnEntryAt (w : World) (p g i : Nat) : Option (KilnRule × KilnEntry) :=
  ((w.kilnRules p)[g]?).bind fun r => (r.entries[i]?).map fun e => (r, e)
def World.kilnEntryOf (w : World) (p tensor : Nat) : Option (Nat × Nat × KilnRule × KilnEntry) :=
  (w.kilnRules p).zipIdx.findSome? fun r =>
    (r.1.entries.zipIdx.find? fun e => decide (e.1.tensor = tensor)).map fun e => (r.2, e.2, r.1, e.1)

/-- The rows of a tensor that its shard map places on this module, as first and past the last. -/
def World.homedRows (w : World) (p : Nat) (x : Tensor) : Nat × Nat := x.homeRange (w.loadEnv p).positions (w.loadEnv p).dense

/-- The catalogue tensor of an entry. -/
def World.kilnTensor (w : World) (p : Nat) (e : KilnEntry) : Tensor := (w.tensor p e.tensor).getD {}

/-- Elements of a matrix entry that this module holds. -/
def World.matrixElements (w : World) (p : Nat) (e : KilnEntry) : Nat :=
  let h := w.homedRows p (w.kilnTensor p e)
  (h.2 - h.1) * e.cols

/-- Where state tensor `s`, copy `c`, of a matrix block of `n` elements lies. -/
def stateAt (r : KilnRule) (e : KilnEntry) (n s c : Nat) : Nat :=
  e.cellar + 64 + roundUp (6 * n) 64 + (c * r.states + s) * roundUp (4 * n) 64

/-- Arrays of a matrix block. -/
def World.masterArray (w : World) (p : Nat) (e : KilnEntry) (n : Nat) : List Val :=
  let b := (w.cellarRead p (e.cellar + 64) (6 * n)).toArray
  (List.range n).map fun i => m48.decode ((List.range 6).foldr (fun j a => (b.getD (6 * i + j) 0).toNat + 256 * a) 0)
def World.stateArray (w : World) (p : Nat) (r : KilnRule) (e : KilnEntry) (n s c : Nat) : Array Val :=
  let b := (w.cellarRead p (stateAt r e n s c) (4 * n)).toArray
  ((List.range n).map fun i => fp32.decode ((List.range 4).foldr (fun j a => (b.getD (4 * i + j) 0).toNat + 256 * a) 0)).toArray

/-- The copy of a state that an update writes and the copy it reads the latest value from (R313). -/
def KilnRule.writeCopy (r : KilnRule) (u : Nat) : Nat := if r.lookback then u % 2 else 0
def KilnRule.readCopy (r : KilnRule) (u : Nat) : Nat := if r.lookback then (u + 1) % 2 else 0

/-- UPDATES, B1POW and B2POW after one more update (R304), and the world in which the block header holds them. -/
def World.bumpHeader (w : World) (p : Nat) (r : KilnRule) (e : KilnEntry) : (Nat × Nat × Nat) × World :=
  let u := leNat (w.cellarRead p e.cellar 8) + 1
  let b1 := powStep (leNat (w.cellarRead p (e.cellar + 8) 8)) r.beta1
  let b2 := powStep (leNat (w.cellarRead p (e.cellar + 16) 8)) r.beta2
  ((u, b1, b2), w.cellarWrite p e.cellar (leBytes 8 u ++ leBytes 8 b1 ++ leBytes 8 b2))

/-- Sticky bits of KLN_STICKY (R330). -/
def World.klnSticky (w : World) (nonfinite overflow invalid late : Bool) : World :=
  w.setBits (Block.kln.addr 0 0x010) (BitVec.ofNat 64
    ((if nonfinite then 1 else 0) + (if overflow then 2 else 0) + (if invalid then 4 else 0) + (if late then 8 else 0)))

/-- Whether a master became infinite (R301, R302). -/
def becameInf (old new : List Val) : Bool := (old.zip new).any fun x => x.1.isFinite && !x.2.isFinite && !x.2.isNan

/-! ### Checks (R326) -/

/-- Changes the Kiln. -/
def World.updKiln (w : World) (f : Kiln → Kiln) : World := { w with kiln := f w.kiln }

/-- METADATA from the Kiln (R326): KLN_FAULT, the event, and the stop of the partition. -/
def World.klnFault (w : World) (t : Sid) (p check tensor : Nat) : World :=
  let w := w.setReg (Block.kln.addr 0 0x008)
    (mkField 1 0 4 ||| mkField p 4 2 ||| mkField check 8 8 ||| mkField tensor 16 24 ||| mkField 1 63 1)
  (w.updKiln fun k => { k with faultedParts := if k.faultedParts.contains p then k.faultedParts else k.faultedParts ++ [p] }).metadata
    t p klnSource check tensor

/-- A frame has crossed the link: its retries count (R318). -/
def World.frameIn (w : World) (f : KilnFrame) : World := w.count (Block.kln.addr 0 0x0C8) f.crcFailures.val

/-- Whether the Kiln works for a partition. -/
def World.kilnLive (w : World) (p : Nat) : Bool := w.jobRuns p && !w.kiln.linkDown && !(w.kiln.faultedParts.contains p)

/-- A frame from the Kiln to the package (R317), coded as in `World.toKiln`. -/
def World.fromKiln (w : World) (kind p : Nat) (fields : List Nat) (payload : List Byte) : World :=
  w.emit (.kiln false kind p fields payload)

/-! ### Gradients in delivery (R317, R319) -/

/-- The gradient in delivery of a tensor. -/
def World.grad (w : World) (p tensor : Nat) : Grad :=
  (w.kiln.grads.find? fun g => decide (g.part = p) && decide (g.tensor = tensor)).getD { part := p, tensor := tensor }
/-- Replaces it. -/
def World.setGrad (w : World) (g : Grad) : World :=
  w.updKiln fun k => { k with grads := (k.grads.filter fun x => !(decide (x.part = g.part) && decide (x.tensor = g.tensor))) ++ [g] }
/-- Whether STEP_CLOSE of a step has come (R324). -/
def World.kilnClosed (w : World) (p step : Nat) : Bool := decide (step < AMap.get 0 w.kiln.closing p)

/-- GRAD_READY: a dense gradient range (R319): the Kiln reads its grains. -/
def execGradReady (frame : KilnFrame) (tensor step offset first count : Nat) (s : State) : Host.Outcome State Fault Refusal :=
  .next (s.serve fun w =>
    let w := w.frameIn frame
    let t := s.sid
    let p := frame.part.val
    if w.kilnLive p = false then w
    else if w.kilnClosed p step then w.klnFault t p 0x53 tensor
    else
      match w.kilnEntryOf p tensor with
      | none => w.klnFault t p 0x50 tensor
      | some (g, i, _, e) =>
        let h := w.homedRows p (w.kilnTensor p e)
        let x := w.grad p tensor
        if e.rowTable ∨ count = 0 ∨ first < h.1 * e.cols ∨ h.2 * e.cols < first + count then w.klnFault t p 0x52 tensor
        else if x.ranges.any fun y => rangesMeet first count y.2.1 y.2.2 then w.klnFault t p 0x51 tensor
        else
          let y := { x with ranges := x.ranges ++ [(offset, first, count)] }
          let w := w.setGrad y
          let w := (grainsOf offset (4 * count)).foldl (fun w a =>
            (w.updKiln fun k => { k with reads := AMap.upd 0 k.reads p (· + 1) }).fromKiln 1 p [a] []) w
          if (y.ranges.map (·.2.2)).sum = (h.2 - h.1) * e.cols then
            w.updKiln fun k => { k with queue := k.queue ++ [(p, g, i)] }
          else w)

/-- KILN_READ: the package acknowledges a READ and reads its grain of gradient for the Kiln (R317). -/
def execKilnRead (frame : KilnFrame) (offset : Nat) (s : State) : Host.Outcome State Fault Refusal :=
  .next (s.serve fun w =>
    let w := w.frameIn frame
    let w := w.progressed s.sid frame.part.val
    let p := frame.part.val
    if w.jobRuns p = false ∨ w.hbmCapacity p < offset + 256 then w
    else if w.hbmFailed p offset 256 then w.agentStop s.sid p klnSource
    else
      let r := w.hbmFetch klnSource p offset 256
      (r.2.toKiln 6 p [0] []).toKiln 2 p [offset] r.1)

/-- KILN_READ_DATA: a grain of gradient reaches the Kiln. -/
def execKilnReadData (frame : KilnFrame) (offset : Nat) (data : List Byte) (s : State) : Host.Outcome State Fault Refusal :=
  .next (s.serve fun w =>
    let w := w.frameIn frame
    let key := frame.part.val * 2 ^ 48 + offset
    w.updKiln fun k => { k with buffer := k.buffer.write key (slice data 0 256)
                                grains := if k.grains.contains key then k.grains else k.grains ++ [key] })

/-- ROW_GRAD: the gradient of one row (R317, R326). A row that comes for the first time after its table's ROWS_END disagrees with the
range that the entry's gradient has then (DEDUCED, log entry 164). -/
def execRowGrad (frame : KilnFrame) (tensor step row : Nat) (values : List (BitVec 32)) (s : State) : Host.Outcome State Fault Refusal :=
  .next (s.serve fun w =>
    let w := w.frameIn frame
    let t := s.sid
    let p := frame.part.val
    if w.kilnLive p = false then w
    else if w.kilnClosed p step then w.klnFault t p 0x53 tensor
    else
      match w.kilnEntryOf p tensor with
      | none => w.klnFault t p 0x50 tensor
      | some (_, _, _, e) =>
        let x := w.grad p tensor
        if e.rowTable = false ∨ values.length ≠ e.cols ∨ e.rows ≤ row then w.klnFault t p 0x52 tensor
        else if x.rows.any fun y => decide (y.1 = row) then w.klnFault t p 0x51 tensor
        else if x.ended then w.klnFault t p 0x52 tensor
        else w.setGrad { x with rows := (x.rows.filter fun y => decide (y.1 < row)) ++ (row, values) :: x.rows.filter fun y => decide (row < y.1) })

/-- ROWS_END: the end of a table's read-out (R319). A second one of a step changes nothing. -/
def execRowsEnd (frame : KilnFrame) (tensor step _touched : Nat) (s : State) : Host.Outcome State Fault Refusal :=
  .next (s.serve fun w =>
    let w := w.frameIn frame
    let t := s.sid
    let p := frame.part.val
    if w.kilnLive p = false then w
    else if w.kilnClosed p step then w.klnFault t p 0x53 tensor
    else
      match w.kilnEntryOf p tensor with
      | none => w.klnFault t p 0x50 tensor
      | some (g, i, _, e) =>
        let x := w.grad p tensor
        if e.rowTable = false then w.klnFault t p 0x52 tensor
        else if x.ended then w
        else
          let w := w.setGrad { x with ended := true }
          if x.rows.isEmpty then w else w.updKiln fun k => { k with queue := k.queue ++ [(p, g, i)] })

/-- The FP32 code of element `i` of a dense gradient. -/
def World.gradElement (w : World) (p : Nat) (g : Grad) (i : Nat) : Nat :=
  match g.ranges.find? fun x => decide (x.2.1 ≤ i) && decide (i < x.2.1 + x.2.2) with
  | none => 0
  | some x => leNat (w.kiln.buffer.read (p * 2 ^ 48 + x.1 + 4 * (i - x.2.1)) 4)

/-- Whether every grain of a dense gradient has arrived. -/
def World.gradArrived (w : World) (p : Nat) (g : Grad) : Bool :=
  g.ranges.all fun x => (grainsOf x.1 (4 * x.2.2)).all fun a => w.kiln.grains.contains (p * 2 ^ 48 + a)

/-! ### Emission (R321, R322) -/

/-- Sends an image of a pending version as EMIT frames of one grain, the last filled with zeros. -/
def World.emitImage (w : World) (p tensor at' : Nat) (image : List Byte) : World :=
  let n := ceilDiv image.length 256
  let w := (List.range n).foldl (fun w i => w.fromKiln 5 p [tensor, at' + 256 * i] (slice image (256 * i) 256)) w
  (w.updKiln fun k => { k with unacked := AMap.upd 0 k.unacked p (· + n) }).count (Block.kln.addr 0 0x0B0) n

/-- The tile at an address of a partition's HBM, as its header says. -/
def World.storedTile (w : World) (p a : Nat) : Tile :=
  let h := parseHeader (w.hbmRead p a 16)
  tileOf h (w.hbmRead p (a + 16) h.imageBytes)

/-- Where local row `j`, column `c` of a KIND 2 tensor lies (R662): its tile's index and the place in it. -/
def gridPlace (transpose : Bool) (rows cols j c : Nat) : Nat × Nat × Nat :=
  let r := if transpose then c else j
  let k := if transpose then j else c
  let across := ceilDiv (if transpose then rows else cols) 64
  (r / 64 * across + k / 64, r % 64, k % 64)

/-- The value at a local row and column of a version at `base`. -/
def World.storedValue (w : World) (p base : Nat) (x : Tensor) (transpose : Bool) (rows j c : Nat) : Val :=
  let g := gridPlace transpose rows x.cols j c
  (w.storedTile p (base + g.1 * x.tileStride)).val g.2.1 g.2.2

/-- Emits the tiles of a matrix entry's working copy in ascending stored tile index (R320, R321). Under REPLICA the rows that
other modules home are taken from the current version. -/
def World.emitMatrix (w : World) (p : Nat) (e : KilnEntry) (masters : List Val) : World :=
  let x := w.kilnTensor p e
  let env := w.loadEnv p
  let own := w.homedRows p x
  let stored := x.homed env.positions env.dense
  let rows := stored.2 - stored.1
  let sr := if e.transpose then e.cols else rows
  let sc := if e.transpose then rows else e.cols
  let ms := masters.toArray
  let base := ((w.part p).entry e.tensor).elim 0 (·.curBase)
  let plan := w.planOf p x {}
  (places (ceilDiv sr 64) (ceilDiv sc 64)).foldl (fun w q =>
    let tr := min 64 (sr - 64 * q.1)
    let tc := min 64 (sc - 64 * q.2)
    let place := fun (r c : Nat) =>
      let j := if e.transpose then 64 * q.2 + c else 64 * q.1 + r
      let k := if e.transpose then 64 * q.1 + r else 64 * q.2 + c
      (stored.1 + j, k)
    let mine := fun (row : Nat) => decide (own.1 ≤ row) && decide (row < own.2)
    if (places tr tc).any fun y => mine (place y.1 y.2).1 then
      let vals := (places tr tc).foldl (fun (a : Array Val) y =>
        let z := place y.1 y.2
        let v := if mine z.1 then ms.getD ((z.1 - own.1) * e.cols + z.2) (.fin false 0 0)
          else w.storedValue p base x e.transpose rows (z.1 - stored.1) z.2
        a.set! (64 * y.1 + y.2) v) (Array.replicate 4096 (.fin false 0 0))
      let idx := fun (r c : Nat) => let z := place r c; z.1 * e.cols + z.2
      let out := quantTile plan tr tc idx vals
      let w := w.addStats p e.tensor out.2
      w.emitImage p e.tensor ((q.1 * ceilDiv sc 64 + q.2) * x.tileStride) out.1.encode
    else w) w

/-- The image of a row of values (R80, R217) and its counts. -/
def rowImage (plan : WritePlan) (row dim bytes : Nat) (vals : List Val) : List Byte × Tally :=
  let q := quantRow plan.format ((List.range dim).map fun j => plan.mode (row * dim + j)) vals
  (slice (leBytes 2 q.1 ++ leBytes 2 q.2.1 ++ packCodes (fmtBits plan.format) q.2.2.1) 0 bytes, q.2.2.2)

/-- Emits one row of a row table. -/
def World.emitRow (w : World) (p : Nat) (e : KilnEntry) (row : Nat) (masters : List Val) : World :=
  let x := w.kilnTensor p e
  let d := ((w.part p).entry e.tensor).getD {}
  let out := rowImage (w.planOf p x {}) row e.cols d.recordBytes masters
  (w.addStats p e.tensor out.2).emitImage p e.tensor (row * d.recordBytes) out.1

/-! ### Row records (R300) -/

/-- Where the shard map homes a row here: the record's cellar offset. -/
def World.ownRecord (w : World) (p : Nat) (r : KilnRule) (e : KilnEntry) (row : Nat) : Option Nat :=
  let h := w.homedRows p (w.kilnTensor p e)
  if h.1 ≤ row ∧ row < h.2 then some (e.cellar + 64 + (row - h.1) * r.recordBytes e.cols) else none

/-- The migrant slot that holds a row (R300). -/
def World.migrant (w : World) (p tensor row : Nat) : Option Migrant :=
  w.kiln.migrants.find? fun m => decide (m.part = p) && decide (m.tensor = tensor) && decide (m.row = row)
/-- Changes the migrant slot that holds a row. -/
def World.updMigrant (w : World) (p tensor row : Nat) (f : Migrant → Migrant) : World :=
  w.updKiln fun k => { k with migrants := k.migrants.map fun m => if m.part = p ∧ m.tensor = tensor ∧ m.row = row then f m else m }
/-- Frees the migrant slot that holds a row. -/
def World.dropMigrant (w : World) (p tensor row : Nat) : World :=
  w.updKiln fun k =>
    { k with migrants := k.migrants.filter fun m => !(decide (m.part = p) && decide (m.tensor = tensor) && decide (m.row = row)) }
/-- A row takes the free slot of its block with the lowest number (DESIGN CHOICE: the spec names none; log entry 163), or keeps its own. -/
def World.takeMigrant (w : World) (p tensor row : Nat) : World :=
  if (w.migrant p tensor row).isSome then w
  else
    let used := (w.kiln.migrants.filter fun m => decide (m.part = p) && decide (m.tensor = tensor)).map (·.slot)
    let free := ((List.range migrantSlots).find? fun i => !used.contains i).getD 0
    w.updKiln fun k => { k with migrants := k.migrants ++ [{ part := p, tensor := tensor, slot := free, row := row }] }

/-- The bytes of a slot (R300): ROW, FROZEN, 9 reserved bytes, the record and its padding; a free slot has ROW all ones. -/
def slotImage (size : Nat) : Option Migrant → List Byte
  | none => List.replicate 6 0xFF ++ List.replicate (size - 6) 0
  | some m => slice (leBytes 6 m.row ++ leBytes 1 (if m.frozen then 1 else 0) ++ List.replicate 9 0 ++ m.record) 0 size
/-- The slot that bytes spell; none where it is free. -/
def parseSlot (p tensor slot bytes : Nat) (b : List Byte) : Option Migrant :=
  if leAt b 0 6 = 2 ^ 48 - 1 then none
  else some { part := p, tensor := tensor, slot := slot, row := leAt b 0 6, frozen := decide (leAt b 6 1 ≠ 0), record := slice b 16 bytes }

/-- A state block as the cellar holds it (R299, R300): its header, records, bitmap and migrant slots, or its arrays. -/
def World.blockImage (w : World) (p : Nat) (r : KilnRule) (e : KilnEntry) : List Byte :=
  let h := w.homedRows p (w.kilnTensor p e)
  let rows := h.2 - h.1
  if e.rowTable then
    let mine := w.kiln.migrants.filter fun m => decide (m.part = p) && decide (m.tensor = e.tensor)
    w.cellarRead p e.cellar (r.slotsFrom e.cols rows) ++ (List.range migrantSlots).flatMap fun i =>
      slotImage (r.slotBytes e.cols) (mine.find? fun m => decide (m.slot = i))
  else w.cellarRead p e.cellar (r.blockBytes e (rows * e.cols) rows)

/-- Writes a state block into the cellar. -/
def World.putBlock (w : World) (p : Nat) (r : KilnRule) (e : KilnEntry) (b : List Byte) : World :=
  let h := w.homedRows p (w.kilnTensor p e)
  let rows := h.2 - h.1
  if e.rowTable then
    let from' := r.slotsFrom e.cols rows
    let slots := (List.range migrantSlots).filterMap fun i =>
      parseSlot p e.tensor i (r.recordBytes e.cols) (slice b (from' + r.slotBytes e.cols * i) (r.slotBytes e.cols))
    (w.cellarWrite p e.cellar (b.take from')).updKiln fun k =>
      { k with migrants := (k.migrants.filter fun m => !(decide (m.part = p) && decide (m.tensor = e.tensor))) ++ slots }
  else w.cellarWrite p e.cellar (b.take (r.blockBytes e (rows * e.cols) rows))

/-- The record of a row: its own, or the migrant slot's. -/
def World.rowRecord (w : World) (p : Nat) (r : KilnRule) (e : KilnEntry) (row : Nat) : List Byte :=
  match w.ownRecord p r e row with
  | some a => w.cellarRead p a (r.recordBytes e.cols)
  | none => (w.migrant p e.tensor row).elim [] (·.record)

/-- Writes the record of a row. -/
def World.setRowRecord (w : World) (p : Nat) (r : KilnRule) (e : KilnEntry) (row : Nat) (b : List Byte) : World :=
  match w.ownRecord p r e row with
  | some a => w.cellarWrite p a b
  | none => w.updMigrant p e.tensor row fun m => { m with record := b }

/-- The byte and bit of a row's freeze flag in the bitmap behind the records. -/
def World.freezeBit (w : World) (p : Nat) (r : KilnRule) (e : KilnEntry) (row : Nat) : Nat × Nat :=
  let h := w.homedRows p (w.kilnTensor p e)
  (e.cellar + 64 + (h.2 - h.1) * r.recordBytes e.cols + (row - h.1) / 8, (row - h.1) % 8)

/-- Whether a row is frozen (R315). -/
def World.rowFrozen (w : World) (p : Nat) (r : KilnRule) (e : KilnEntry) (row : Nat) : Bool :=
  match w.ownRecord p r e row with
  | some _ => let b := w.freezeBit p r e row; bitAt (leNat (w.cellarRead p b.1 1)) b.2
  | none => (w.migrant p e.tensor row).elim false (·.frozen)

/-- Sets the freeze flag of a row: its bit of the bitmap, or FROZEN of its migrant slot (R315, R316). -/
def World.setRowFrozen (w : World) (p : Nat) (r : KilnRule) (e : KilnEntry) (row : Nat) (v : Bool) : World :=
  match w.ownRecord p r e row with
  | some _ =>
    let b := w.freezeBit p r e row
    let old := leNat (w.cellarRead p b.1 1)
    let rest := old - (if bitAt old b.2 then 2 ^ b.2 else 0)
    w.cellarWrite p b.1 (leBytes 1 (rest + if v then 2 ^ b.2 else 0))
  | none => w.updMigrant p e.tensor row fun m => { m with frozen := v }

/-- The rows of a table that this module homes at present. -/
def World.rowsHere (w : World) (p : Nat) (e : KilnEntry) : List Nat :=
  match (w.part p).entry e.tensor with
  | none => []
  | some d =>
    let h := w.homedRows p (w.kilnTensor p e)
    let own := ((List.range (h.2 - h.1)).map (h.1 + ·)).filter fun r => w.homesRow p d r
    own ++ ((w.kiln.migrants.filter fun m => decide (m.part = p) && decide (m.tensor = e.tensor)).map (·.row)).filter fun r =>
      w.homesRow p d r

/-- FP32 and M48 values in a record. -/
def recordMasters (b : List Byte) (dim : Nat) : List Val := (List.range dim).map fun j => m48.decode (leAt b (6 * j) 6)
def recordState (b : List Byte) (dim i : Nat) : Val := fp32.decode (leAt b (6 * dim + 4 * i) 4)
def masterBytes (ms : List Val) : List Byte := ms.flatMap fun v => leBytes 6 (m48.encode v)
def stateBytes (xs : List Val) : List Byte := xs.flatMap fun v => leBytes 4 (fp32.encode v)

/-! ### State moves (R323) -/

/-- The record of a moving row leaves for its new home. -/
def World.moveRow (w : World) (p : Nat) (r : KilnRule) (e : KilnEntry) (row target : Nat) : World :=
  if w.kiln.moving.contains (p, e.tensor, row) then w
  else
    let w := w.fromKiln 7 p [e.tensor, row, target, if w.rowFrozen p r e row then 1 else 0] (w.rowRecord p r e row)
    (w.updKiln fun k => { k with moving := k.moving ++ [(p, e.tensor, row)]
                                 unacked := AMap.upd 0 k.unacked p (· + 1) }).tick .kln 0 0x0B8

/-- The target that a row's accepted migration names. -/
def World.moveTarget (w : World) (p tensor row : Nat) : Option Nat :=
  ((w.part p).accepted.find? fun a => decide (a.1 = tensor) && decide (a.2.1 = row)).map (·.2.2)

/-! ### Freezes (R315, R316) -/

/-- Applies one accepted freeze command; rows that this module does not home are ignored (R316). -/
def World.applyFreeze (w : World) (c : FreezeCmd) : World :=
  match c.rows, w.kilnEntryAt c.part c.rule c.entry with
  | none, _ =>
    w.updKiln fun k =>
      let rest := k.frozen.filter fun x => decide (x ≠ (c.part, c.rule, c.entry))
      { k with frozen := if c.freeze then rest ++ [(c.part, c.rule, c.entry)] else rest }
  | some rows, some (r, e) =>
    let homed := rows.filter fun row => ((w.part c.part).entry e.tensor).elim false fun d => w.homesRow c.part d row
    homed.foldl (fun w row => w.setRowFrozen c.part r e row c.freeze) w
  | some _, none => w

/-- Applies the commands that govern the updates of a step, in the order in which they were accepted. -/
def World.applyFreezes (w : World) (p step : Nat) : World :=
  let due := w.kiln.freezes.filter fun c => decide (c.part = p) && decide (c.effective ≤ step)
  let w := w.updKiln fun k => { k with freezes := k.freezes.filter fun c => !(decide (c.part = p) && decide (c.effective ≤ step)) }
  due.foldl World.applyFreeze w

/-- A freeze command (R316, R331): OP 0 freeze entry, 1 thaw entry, 2 freeze rows, 3 thaw rows. -/
def World.freezeCommand (w : World) (t : Sid) (p rule entry op effective : Nat) : World :=
  let result := fun (w : World) (v : Nat) => w.updKiln fun k => { k with freezeResult := v }
  let ok := (w.kilnEntryAt p rule entry).elim false fun x => decide (op < 2) || x.2.rowTable
  if ok = false then result w 3
  else if effective ≤ (w.part p).step then (result (w.klnSticky false false false true) 2).tick .kln 0 0x0C0
  else
    let list := w.reg (Block.kln.addr 0 0x020)
    let n := fieldOf list 48 16
    let rows := (List.range n).map fun i => leNat (w.hbmRead p (fieldOf list 0 48 + 8 * i) 8)
    let c : FreezeCmd :=
      { part := p, rule := rule, entry := entry, freeze := decide (op % 2 = 0), rows := if op < 2 then none else some rows
        effective := effective }
    match w.agentReads t p klnSource (if op < 2 ∨ n = 0 then [] else [(fieldOf list 0 48, 8 * n)]) with
    | (none, w) => w
    | (some w, _) => result (w.updKiln fun k => { k with freezes := k.freezes ++ [c] }) 1

/-- FREEZE_ENTRY, THAW_ENTRY, FREEZE_ROWS, THAW_ROWS: the four commands of KLN_FREEZE_CMD (R331). -/
def execFreezeEntry (part : PartId) (rule entry effectiveStep : Nat) (s : State) : Host.Outcome State Fault Refusal :=
  .next (s.serve fun w => w.freezeCommand s.sid part.val rule entry 0 effectiveStep)
def execThawEntry (part : PartId) (rule entry effectiveStep : Nat) (s : State) : Host.Outcome State Fault Refusal :=
  .next (s.serve fun w => w.freezeCommand s.sid part.val rule entry 1 effectiveStep)
def execFreezeRows (part : PartId) (rule entry effectiveStep : Nat) (s : State) : Host.Outcome State Fault Refusal :=
  .next (s.serve fun w => w.freezeCommand s.sid part.val rule entry 2 effectiveStep)
def execThawRows (part : PartId) (rule entry effectiveStep : Nat) (s : State) : Host.Outcome State Fault Refusal :=
  .next (s.serve fun w => w.freezeCommand s.sid part.val rule entry 3 effectiveStep)

/-! ### Updates (R320) -/

/-- KILN_SKIP (R320): once for an entry, once per table and step for rows. -/
def World.kilnSkip (w : World) (t : Sid) (p tensor : Nat) (row : Bool) : World :=
  let w := (w.klnSticky true false false false).tick .kln 0 0x0A0
  if row ∧ (w.part p).skipRaised.contains tensor then w
  else (w.raise t klnSource 0x10B (tensor + if row then 2 ^ 24 else 0)).updPart p fun x => { x with skipRaised := x.skipRaised ++ [tensor] }

/-- Item 4 of the digest for one element or row (R453). -/
def World.kilnItem (w : World) (p : Nat) (x : Tensor) (row index updates : Nat) (bytes : List Byte) : World :=
  if w.digests p x then w.addLeaf (w.part p).step (x.shardOfRow row) ([4] ++ leBytes 4 x.id ++ leBytes 8 index ++ leBytes 8 updates ++ bytes) else w

/-- A matrix entry whose gradient is finite: the masters and states as the rule leaves them, with INVALID and the cycles. -/
def World.matrixStep (w : World) (p : Nat) (r : KilnRule) (e : KilnEntry) (h : KHyper) (u n : Nat) (grads masters : List Val) :
    List Val × List (List Val) × Bool × Nat :=
  if r.kind = 4 then
    let ms := (w.stateArray p r e n 0 0).toList
    let o := orthoStep r e.noDecay h (if e.cols = 0 then 0 else n / e.cols) e.cols grads masters ms
    (o.1, [o.2.1], o.2.2.1, o.2.2.2)
  else
    let arrays := fun (c : Nat) => (List.range r.states).map fun s => w.stateArray p r e n s c
    let latest := arrays (r.readCopy u)
    let target := arrays (r.writeCopy u)
    let at' := fun (xs : List (Array Val)) (i : Nat) => xs.map fun a => a.getD i (.fin false 0 0)
    let outs := ((grads.zip masters).zipIdx).map fun x =>
      elementStep r e.noDecay h x.1.1 x.1.2 (at' latest x.2) (at' target x.2) (at' target x.2)
    (outs.map (·.1), (List.range r.states).map fun s => outs.map fun o => o.2.1.getD s (.fin false 0 0), outs.any (·.2.2), 0)

/-- Updates a matrix entry (R320). -/
def World.updateMatrix (w : World) (t : Sid) (p g i : Nat) (r : KilnRule) (e : KilnEntry) : World :=
  let x := w.kilnTensor p e
  let n := w.matrixElements p e
  let first := (w.homedRows p x).1 * e.cols
  let gd := w.grad p e.tensor
  let grads := (List.range n).map fun k => fp32.decode (w.gradElement p gd (first + k))
  if grads.any fun v => !v.isFinite then w.kilnSkip t p e.tensor false
  else
    let masters := w.masterArray p e n
    let hd := w.bumpHeader p r e
    let u := hd.1.1
    let h := r.hyper ((w.part p).bundle.elim [] (·.schedules)) (w.part p).step hd.1.2.1 hd.1.2.2
    let out := w.matrixStep p r e h u n grads masters
    let w := (hd.2.cellarWrite p (e.cellar + 64) (masterBytes out.1))
    let w := out.2.1.zipIdx.foldl (fun w s => w.cellarWrite p (stateAt r e n s.2 (r.writeCopy u)) (stateBytes s.1)) w
    let w := w.klnSticky false (becameInf masters out.1) out.2.2.1 false
    let w := ((w.tick .kln 0 0x080).count (Block.kln.addr 0 0x088) n).count (Block.kln.addr 0 0x0A8) out.2.2.2
    let w := if w.digests p x then
        (out.1.zipIdx).foldl (fun w v =>
          w.kilnItem p x ((first + v.2) / (max 1 e.cols)) (first + v.2) u
            (masterBytes [v.1] ++ stateBytes (out.2.1.map fun s => s.getD v.2 (.fin false 0 0)))) w
      else w
    (w.emitMatrix p e out.1).updKiln fun k => { k with updated := k.updated ++ [(p, g, i)] }

/-- A row's record after its update, and INVALID. -/
def rowStep (r : KilnRule) (e : KilnEntry) (h : KHyper) (u : Nat) (grads : List Val) (b : List Byte) : List Byte × List Val × Bool :=
  let dim := e.cols
  let ms := recordMasters b dim
  let bytes := r.recordBytes dim
  if r.kind = 2 then
    let o := rowAdagrad r h dim grads ms (recordState b dim 0)
    (slice (masterBytes o.1 ++ stateBytes [o.2.1]) 0 bytes, o.1, o.2.2)
  else
    let at' := fun (c j : Nat) => (List.range r.states).map fun s => recordState b dim ((c * r.states + s) * dim + j)
    let outs := ((grads.zip ms).zipIdx).map fun x =>
      elementStep r e.noDecay h x.1.1 x.1.2 (at' (r.readCopy u) x.2) (at' (r.writeCopy u) x.2) (at' (r.writeCopy u) x.2)
    let copy := fun (c : Nat) => (List.range r.states).flatMap fun s =>
      (List.range dim).map fun j =>
        if c = r.writeCopy u then ((outs.getD j (.fin false 0 0, [], false)).2.1.getD s (.fin false 0 0))
        else recordState b dim ((c * r.states + s) * dim + j)
    (slice (masterBytes (outs.map (·.1)) ++ stateBytes ((List.range r.copies).flatMap copy)) 0 bytes, outs.map (·.1), outs.any (·.2.2))

/-- Updates one row. -/
def World.updateRow (t : Sid) (p : Nat) (r : KilnRule) (e : KilnEntry) (h : KHyper) (u : Nat) (w : World)
    (x : Nat × List (BitVec 32)) : World :=
  let grads := x.2.map fun v => fp32.decode v.toNat
  let moved := fun (w : World) => (w.moveTarget p e.tensor x.1).elim w fun q => w.moveRow p r e x.1 q
  if w.rowFrozen p r e x.1 then moved (w.tick .kln 0 0x098)
  else if grads.any fun v => !v.isFinite then moved (w.kilnSkip t p e.tensor true)
  else
    let b := w.rowRecord p r e x.1
    let o := rowStep r e h u grads b
    let w := (w.setRowRecord p r e x.1 o.1).klnSticky false (becameInf (recordMasters b e.cols) o.2.1) o.2.2 false
    let w := w.kilnItem p (w.kilnTensor p e) x.1 x.1 u o.1
    moved (((w.emitRow p e x.1 o.2.1).tick .kln 0 0x090).count (Block.kln.addr 0 0x088) e.cols)

/-- Updates a row-table entry, its rows in ascending order (R307, R320, R322). -/
def World.updateTable (w : World) (t : Sid) (p g i : Nat) (r : KilnRule) (e : KilnEntry) : World :=
  let rows := (w.grad p e.tensor).rows
  let live := rows.filter fun x => !(w.rowFrozen p r e x.1) && x.2.all fun v => (fp32.decode v.toNat).isFinite
  let hd := if live.isEmpty then ((0, 0, 0), w) else w.bumpHeader p r e
  let h := r.hyper ((w.part p).bundle.elim [] (·.schedules)) (w.part p).step hd.1.2.1 hd.1.2.2
  let w := rows.foldl (World.updateRow t p r e h hd.1.1) hd.2
  let w := if live.isEmpty then w else w.tick .kln 0 0x080
  let rest := if ((w.part p).entry e.tensor).elim false (·.fullRewrite) then
      (w.rowsHere p e).filter fun row => !(live.any fun x => decide (x.1 = row)) else []
  (rest.foldl (fun w row => w.emitRow p e row (recordMasters (w.rowRecord p r e row) e.cols)) w).updKiln fun k =>
    { k with updated := k.updated ++ [(p, g, i)] }

/-- What the Kiln emits and moves once a step's queue is empty (R322, R323). -/
def World.flushKiln (w : World) (p : Nat) : World :=
  let w := w.applyFreezes p (w.part p).step
  let all := (w.kilnRules p).zipIdx.flatMap fun r => r.1.entries.zipIdx.map fun e => (r.2, e.2, r.1, e.1)
  let w := all.foldl (fun w x =>
    let full := ((w.part p).entry x.2.2.2.tensor).elim false (·.fullRewrite)
    if full = false ∨ w.kiln.updated.contains (p, x.1, x.2.1) then w
    else if x.2.2.2.rowTable then
      (w.rowsHere p x.2.2.2).foldl (fun w row =>
        w.emitRow p x.2.2.2 row (recordMasters (w.rowRecord p x.2.2.1 x.2.2.2 row) x.2.2.2.cols)) w
    else if w.matrixElements p x.2.2.2 = 0 then w
    else w.emitMatrix p x.2.2.2 (w.masterArray p x.2.2.2 (w.matrixElements p x.2.2.2))) w
  let w := (w.part p).accepted.foldl (fun w a =>
    match w.kilnEntryOf p a.1 with
    | none => w
    | some (_, _, r, e) => w.moveRow p r e a.2.1 a.2.2) w
  w.updKiln fun k => { k with flushed := AMap.set false k.flushed p true }

/-- The Kiln finishes a closed step once its queue is empty and every frame is acknowledged (R324). -/
def World.settleKiln (w : World) (p : Nat) : World :=
  let c := AMap.get 0 w.kiln.closing p
  if c = 0 ∨ AMap.get false w.kiln.stepDone p ∨ w.kilnLive p = false ∨ w.kiln.queue.any (fun q => decide (q.1 = p)) then w
  else
    let w := if AMap.get false w.kiln.flushed p then w else w.flushKiln p
    if AMap.get 0 w.kiln.unacked p ≠ 0 ∨ AMap.get 0 w.kiln.reads p ≠ 0 then w
    else
      let w := w.updKiln fun k =>
        { k with stepDone := AMap.set false k.stepDone p true
                 grads := k.grads.filter fun g => decide (g.part ≠ p)
                 buffer := k.buffer.zero (p * 2 ^ 48) ((p + 1) * 2 ^ 48)
                 grains := k.grains.filter fun a => decide (a / 2 ^ 48 ≠ p)
                 updated := k.updated.filter fun u => decide (u.1 ≠ p) }
      (w.setReg (Block.kln.addr 0 (0x030 + 8 * p)) (BitVec.ofNat 64 (c - 1))).fromKiln 10 p [c - 1] []

/-- Whether an update must wait for the cask to read the entry's state (R476). -/
def World.cowHeld (w : World) (p tensor : Nat) : Bool :=
  decide (p = 0) && w.cask.inProgress.isSome && !w.cask.kilnSent && !(((w.part p).entry tensor).elim false DirEntry.journals)

/-- KILN_ENTRY_UPDATE: the Kiln updates the next complete entry of a partition, unless it must wait (R319, R320, R33, R476). -/
def execKilnEntryUpdate (part : PartId) (s : State) : Host.Outcome State Fault Refusal :=
  .next (s.serve fun w =>
    let p := part.val
    match w.kiln.queue.find? fun q => decide (q.1 = p) with
    | none => w
    | some (_, g, i) =>
      match w.kilnEntryAt p g i with
      | none => w
      | some (r, e) =>
        if w.kilnLive p = false ∨ ((w.part p).running ∧ (w.part p).eval) ∨ w.cowHeld p e.tensor
            ∨ w.gradArrived p (w.grad p e.tensor) = false then w
        else
          let w := w.applyFreezes p (w.part p).step
          let w := w.updKiln fun k => { k with queue := k.queue.filter fun q => decide (q ≠ (p, g, i)) }
          let w := if w.kiln.frozen.contains (p, g, i) then w.tick .kln 0 0x098
            else if e.rowTable then w.updateTable s.sid p g i r e else w.updateMatrix s.sid p g i r e
          w.settleKiln p)

/-- EMIT: one grain of working copy goes to the pending version; under REPLICA to that of every position (R321, R413). -/
def execEmit (frame : KilnFrame) (tensor : Nat) (offset : Nat) (data : List Byte) (s : State) : Host.Outcome State Fault Refusal :=
  .next (s.serve fun w =>
    let w := w.frameIn frame
    let w := w.progressed s.sid frame.part.val
    let p := frame.part.val
    match (w.part p).entry tensor with
    | none => w
    | some e =>
      if w.jobRuns p = false ∨ e.bytes < offset + 256 then w
      else if w.hbmFailed p (e.penBase + offset) 256 then w.agentStop s.sid p klnSource
      else
        let a := e.penBase + offset
        let held := (w.behindCatchup p a 256).isSome
        let bs := slice data 0 256
        let w := w.homeWrite s.sid klnSource p a bs
        if held then w else w.toKiln 6 p [1] [])

/-- KILN_ACK: an acknowledgement crosses the link. Towards the Kiln it answers a READ, an EMIT or a STATE_OUT; towards the package it
answers a STATE_IN, whose sender is then told (R317, R323). -/
def execKilnAck (frame : KilnFrame) (what : AckOf) (s : State) : Host.Outcome State Fault Refusal :=
  .next (s.serve fun w =>
    let w := w.frameIn frame
    let p := frame.part.val
    match what with
    | .read => (w.updKiln fun k => { k with reads := AMap.upd 0 k.reads p (· - 1) }).settleKiln p
    | .emit | .stateOut => (w.updKiln fun k => { k with unacked := AMap.upd 0 k.unacked p (· - 1) }).settleKiln p
    | .stateIn =>
      let w := w.progressed s.sid p
      match w.kiln.stateFrom with
      | [] => w
      | (pos, tag) :: rest => (w.updKiln fun k => { k with stateFrom := rest }).sendPacket s.sid 0x04 pos klnSource tag 0 false false [])

/-- STATE_OUT: the package carries a moving row's record to its new home (R323). -/
def execStateOut (frame : KilnFrame) (tensor row position : Nat) (frozen : Bool) (record : List Byte) (s : State) :
    Host.Outcome State Fault Refusal :=
  .next (s.serve fun w =>
    let w := w.frameIn frame
    let w := w.progressed s.sid frame.part.val
    if frame.part.val ≠ 0 ∨ w.jobRuns 0 = false then w
    else
      w.sendPacket s.sid 0x0C position klnSource (mkTag 7 0 1) 0 false false
        (leBytes 4 tensor ++ leBytes 6 row ++ leBytes 1 (if frozen then 1 else 0) ++ List.replicate 5 0 ++ record))

/-- STATE_IN: the new home's Kiln takes a row's record and acknowledges it (R323, R326). -/
def execStateIn (frame : KilnFrame) (tensor row : Nat) (frozen : Bool) (record : List Byte) (s : State) :
    Host.Outcome State Fault Refusal :=
  .next (s.serve fun w =>
    let w := w.frameIn frame
    let p := frame.part.val
    match w.kilnEntryOf p tensor, (w.part p).entry tensor with
    | some (_, _, r, e), some d =>
      if w.kilnLive p = false then w
      else
        let named := d.penOver.find? fun x => decide (x.1 = row)
        let here := named.elim (decide (w.mapHome p d row = w.ownPosition)) fun x => decide (x.2.1 = w.ownPosition)
        let came := here && (named.isSome || d.curOver.any fun x => decide (x.1 = row))
        if came = false then w.klnFault s.sid p 0x54 tensor
        else
          let w := if (w.ownRecord p r e row).isSome then w else w.takeMigrant p tensor row
          ((w.setRowRecord p r e row (slice record 0 (r.recordBytes e.cols))).setRowFrozen p r e row frozen).fromKiln 6 p [2] []
    | _, _ => if w.kilnLive p then w.klnFault s.sid p 0x54 tensor else w)

/-- STEP_CLOSE: no further gradient of the step comes (R324). -/
def execStepClose (frame : KilnFrame) (step : Nat) (s : State) : Host.Outcome State Fault Refusal :=
  .next (s.serve fun w =>
    let w := w.frameIn frame
    let p := frame.part.val
    if w.kilnLive p = false ∨ w.kilnClosed p step then w
    else
      (w.updKiln fun k =>
        { k with closing := AMap.set 0 k.closing p (step + 1), flushed := AMap.set false k.flushed p false
                 stepDone := AMap.set false k.stepDone p false }).settleKiln p)

/-- STEP_DONE: the Kiln's condition of R27 is met. -/
def execStepDone (frame : KilnFrame) (step : Nat) (s : State) : Host.Outcome State Fault Refusal :=
  .next (s.serve fun w =>
    let w := w.frameIn frame
    let w := w.progressed s.sid frame.part.val
    let p := frame.part.val
    if w.jobRuns p ∧ (w.part p).step = step ∧ (w.part p).closeSent then w.updPart p fun x => { x with kilnDone := true } else w)

/-- KILN_LINK_RETRAIN: after a frame's eighth failure the link retrains; the third retrain in a row that fails leaves it down and
stops every partition (R318). -/
def execKilnLinkRetrain (ok : Bool) (s : State) : Host.Outcome State Fault Refusal :=
  .next (s.serve fun w =>
    let w := w.count (Block.kln.addr 0 0x0C8) 8
    let w := { w with cask := { w.cask with linkRetrains := w.cask.linkRetrains + 1 } }
    if ok then w.updKiln fun k => { k with failedRetrains := 0 }
    else
      let n := w.kiln.failedRetrains + 1
      let w := w.updKiln fun k => { k with failedRetrains := n, linkDown := k.linkDown || decide (3 ≤ n) }
      if n = 3 then (List.range w.partCount).foldl (fun w p => if w.jobRuns p then w.klnFault s.sid p 0x55 0 else w) w else w)

/-! ### Start and switch (R301, R323) -/

/-- Forgets what the Kiln holds of a partition. -/
def Kiln.forget (p : Nat) (k : Kiln) : Kiln :=
  { k with
    grads := k.grads.filter fun g => decide (g.part ≠ p), queue := k.queue.filter fun q => decide (q.1 ≠ p)
    buffer := k.buffer.zero (p * 2 ^ 48) ((p + 1) * 2 ^ 48), grains := k.grains.filter fun a => decide (a / 2 ^ 48 ≠ p)
    unacked := AMap.set 0 k.unacked p 0, closing := AMap.set 0 k.closing p 0, flushed := AMap.set false k.flushed p false
    stepDone := AMap.set false k.stepDone p false, updated := k.updated.filter fun u => decide (u.1 ≠ p)
    frozen := k.frozen.filter fun x => decide (x.1 ≠ p), freezes := k.freezes.filter fun c => decide (c.part ≠ p)
    faultedParts := k.faultedParts.filter fun x => decide (x ≠ p), moving := k.moving.filter fun m => decide (m.1 ≠ p)
    migrants := k.migrants.filter fun m => decide (m.part ≠ p), reads := AMap.set 0 k.reads p 0, stateFrom := if p = 0 then [] else k.stateFrom }

/-- The masters of an entry as version 0 holds them (R301). -/
def World.versionMasters (w : World) (p : Nat) (e : KilnEntry) : List (List Val) :=
  let x := w.kilnTensor p e
  let env := w.loadEnv p
  let own := w.homedRows p x
  let stored := x.homed env.positions env.dense
  let d := ((w.part p).entry e.tensor).getD {}
  (List.range (own.2 - own.1)).map fun i =>
    if e.rowTable then rowValues d.format e.cols (w.hbmRead p (d.base0 + (own.1 + i) * d.recordBytes) d.recordBytes)
    else (List.range e.cols).map fun c => w.storedValue p d.base0 x e.transpose (stored.2 - stored.1) (own.1 + i - stored.1) c

/-- Initialises one entry's block (R301). -/
def World.initBlock (p : Nat) (w : World) (x : KilnRule × KilnEntry) : World :=
  let r := x.1
  let e := x.2
  let rows := w.versionMasters p e
  let d := ((w.part p).entry e.tensor).getD {}
  let w := (w.hbmFetch klnSource p d.base0 d.bytes).2
  let h := w.homedRows p (w.kilnTensor p e)
  let len := r.blockBytes e ((h.2 - h.1) * e.cols) (h.2 - h.1)
  let w := w.cellarZero p e.cellar len
  let one := leBytes 8 0x3FF0000000000000
  let w := w.cellarWrite p e.cellar (leBytes 8 0 ++ one ++ one)
  let enc := rows.map fun vs => vs.map fun v => (m48.conv {} .rne true v).val
  let w := w.klnSticky false (becameInf rows.flatten enc.flatten) false false
  if e.rowTable then
    enc.zipIdx.foldl (fun w v => w.cellarWrite p (e.cellar + 64 + v.2 * r.recordBytes e.cols) (masterBytes v.1)) w
  else w.cellarWrite p (e.cellar + 64) (masterBytes enc.flatten)

/-- KILN_INIT: every block of a partition, from version 0 (R301). -/
def World.kilnInit (w : World) (p : Nat) : World :=
  ((w.kilnRules p).flatMap fun r => r.entries.map fun e => (r, e)).foldl (World.initBlock p) (w.updKiln (Kiln.forget p))

/-- At the switch the old home frees what it sent (R323): a migrant slot, or a cleared record. -/
def World.freeMoved (w : World) (p : Nat) : World :=
  let w := (w.kiln.moving.filter fun m => decide (m.1 = p)).foldl (fun w m =>
    match w.kilnEntryOf p m.2.1 with
    | none => w
    | some (_, _, r, e) =>
      match w.ownRecord p r e m.2.2 with
      | some _ => (w.setRowRecord p r e m.2.2 (List.replicate (r.recordBytes e.cols) 0)).setRowFrozen p r e m.2.2 false
      | none => w.dropMigrant p m.2.1 m.2.2) w
  w.updKiln fun k => { k with moving := k.moving.filter fun m => decide (m.1 ≠ p) }

end Sys2Proof.Machine
end

