-- ==== Sys2Proof/Machine/Sampler.lean ====
section
/-!
DEFINITION. The sampler of a cluster (chapter 06): graph images (R174 to R179), the draws (R186 to R197), remote draws (R198 to
R202), blocks (R203 to R208, R211) and their checks (R209).
-/

namespace Sys2Proof.Machine

/-! ### Reading a graph image (R174 to R179, R209) -/

/-- What refuses a read of a graph image on behalf of node `n`: a check code, or a stop (R278), with the node it names. -/
def World.graphBad (w : World) (p n a len : Nat) : Option (Nat × Nat) :=
  if w.hbmCapacity p < a + len then some (0x40, n)
  else if w.hbmFailed p a len then some (stopMemory, n)
  else none

/-- A read of a graph image on behalf of node `n`, counted as an access (R270). -/
def World.graphRead (w : World) (src p n a len : Nat) : Except (Nat × Nat) (List Byte × World) :=
  match w.graphBad p n a len with
  | some e => .error e
  | none => .ok (w.hbmFetch src p a len)

/-- Reads of a graph image that are made one after another: the first that is refused ends them. -/
def World.graphReads (w : World) (src p n : Nat) (xs : List (Nat × Nat)) : Except (Nat × Nat) World :=
  match xs.findSome? fun x => w.graphBad p n x.1 x.2 with
  | some e => .error e
  | none => .ok (xs.foldl (fun w x => (w.hbmFetch src p x.1 x.2).2) w)

/-- The header of the graph image at `base`, which must keep R174. -/
def World.graphHeader (w : World) (p base : Nat) : Except (Nat × Nat) (List Byte) :=
  match w.graphBad p 0 base 128 with
  | some e => .error e
  | none =>
    let h := w.hbmRead p base 128
    let types := leAt h 6 2
    let shards := leAt h 8 4
    if leAt h 0 4 = 0x4852474D ∧ leAt h 4 2 = 1 ∧ 1 ≤ types ∧ types ≤ 256 ∧ 1 ≤ shards ∧ shards ≤ 4096
        ∧ leAt h 0x0C 4 = 0 ∧ allZero (slice h 0x30 80) then .ok h
    else .error (0x28, 0)

/-- Entry `s` of the partition map (R175). -/
def World.firstNode (w : World) (p base : Nat) (h : List Byte) (s : Nat) : Nat :=
  leNat (w.hbmRead p (base + leAt h 0x18 8 + 8 * s) 8) % 2 ^ 40

/-- The shard of a node (R175). -/
def World.shardOfNode (w : World) (p base : Nat) (h : List Byte) (n : Nat) : Option Nat :=
  if w.firstNode p base h 4096 ≤ n then none
  else (List.range 4096).find? fun s => decide (w.firstNode p base h s ≤ n) && decide (n < w.firstNode p base h (s + 1))

/-- The other position that homes a shard; none where this module does (R410). -/
def World.shardAway (w : World) (p s : Nat) : Option Nat :=
  match p, w.fab.position with
  | 0, some q =>
    let h := w.config.positionAt (shardHome w.config.positions s)
    if h = q then none else some h
  | _, _ => none

/-- Where the type directory of a shard lies (R176). -/
def World.typeDir (w : World) (p base : Nat) (h : List Byte) (s : Nat) : Option Nat :=
  let dir := base + leAt h 0x20 8
  ((List.range (leAt h 8 4)).find? fun i => decide (leNat (w.hbmRead p (dir + 16 * i) 2) = s)).map fun i =>
    base + leNat (w.hbmRead p (dir + 16 * i + 8) 8)

/-- Flags of a type directory entry. -/
def typePresent (e : List Byte) : Bool := bitAt (leAt e 0 1) 0
def typeTimed (e : List Byte) : Bool := bitAt (leAt e 0 1) 1
def typeWeighted (e : List Byte) : Bool := bitAt (leAt e 0 1) 2

/-- An FP16 weight that R179 does not allow: negative, infinite or NaN. -/
def weightBad (b : Nat) : Bool := decide (bitsAt b 10 5 = 31) || (bitAt b 15 && decide (b % 2 ^ 15 ≠ 0))
/-- The integer weight (R179): the FP16 value × 2^24. -/
def intWeight (b : Nat) : Nat :=
  let e := bitsAt b 10 5
  let f := bitsAt b 0 10
  if e = 0 then f else (1024 + f) * 2 ^ (e - 1)

/-- Time-stamps of a row: the one at a position of a type's array. -/
def World.timeAt (w : World) (p base : Nat) (e : List Byte) (i : Nat) : Nat := leNat (w.hbmRead p (base + leAt e 32 8 + 4 * i) 4)

/-- Binary search over a row's TIMES for the first position whose time-stamp is at least `x`, with the places probed (R189). -/
def World.timeSearch (w : World) (p base : Nat) (e : List Byte) (x : Nat) : Nat → Nat → Nat → List (Nat × Nat) → Nat × List (Nat × Nat)
  | 0, lo, _, probes => (lo, probes)
  | fuel + 1, lo, hi, probes =>
    if hi ≤ lo then (lo, probes)
    else
      let mid := (lo + hi) / 2
      let v := w.timeAt p base e mid
      if v < x then World.timeSearch w p base e x fuel (mid + 1) hi ((mid, v) :: probes)
      else World.timeSearch w p base e x fuel lo mid ((mid, v) :: probes)

/-- Whether two probed time-stamps are out of order. -/
def timesBad (probes : List (Nat × Nat)) : Bool :=
  probes.any fun a => probes.any fun b => decide (a.1 < b.1) && decide (b.2 < a.2)

/-- The candidate range of a row in one type (R177, R189): its first position, how many, and the type's entry. -/
def World.typeRange (w : World) (src p base n row target : Nat) (hop : Hop) (y : Nat) (e : List Byte) :
    Except (Nat × Nat) ((Nat × Nat × Nat × List Byte) × World) :=
  match w.graphRead src p n (base + leAt e 16 8 + 8 * row) 16 with
  | .error x => .error x
  | .ok (b, w) =>
    let lo := leAt b 0 8
    let hi := leAt b 8 8
    if hi < lo ∨ leAt e 8 8 < hi then .error (0x21, n)
    else if 16777215 < hi - lo then .error (0x22, n)
    else if (hop.mode = 2 ∧ typeTimed e = false) ∨ (hop.mode = 1 ∧ typeWeighted e = false) then .error (0x23, n)
    else if hop.mode = 2 then
      let low := if hop.window = 0 then (lo, []) else w.timeSearch p base e (target - hop.window) 25 lo hi []
      let high := w.timeSearch p base e target 25 lo hi []
      let probes := low.2 ++ high.2
      match w.graphReads src p n (probes.map fun x => (base + leAt e 32 8 + 4 * x.1, 4)) with
      | .error z => .error z
      | .ok w => if timesBad probes then .error (0x24, n) else .ok ((y, low.1, high.1 - low.1, e), w)
    else .ok ((y, lo, hi - lo, e), w)

/-- The candidate sequence of a node as ranges, in ascending type order (R189). -/
def World.candidateRanges (w : World) (src p base n row target : Nat) (hop : Hop) (dir : Nat) :
    List Nat → Except (Nat × Nat) (List (Nat × Nat × Nat × List Byte) × World)
  | [] => .ok ([], w)
  | y :: r =>
    let e := w.hbmRead p (dir + 64 * y) 64
    if bitAt hop.typeMask y ∧ w.hbmFailed p (dir + 64 * y) 64 then .error (stopMemory, n)
    else if bitAt hop.typeMask y = false ∨ typePresent e = false then World.candidateRanges w src p base n row target hop dir r
    else
      match w.typeRange src p base n row target hop y e with
      | .error x => .error x
      | .ok (c, w) => (World.candidateRanges w src p base n row target hop dir r).map fun z => (c :: z.1, z.2)

/-- Length of a candidate sequence, and what stands at a place of it: the type, its entry and the position. -/
def rangesLength (rs : List (Nat × Nat × Nat × List Byte)) : Nat := (rs.map (·.2.2.1)).sum
def placeAt : List (Nat × Nat × Nat × List Byte) → Nat → Option (Nat × List Byte × Nat)
  | [], _ => none
  | (y, lo, n, e) :: r, i => if i < n then some (y, e, lo + i) else placeAt r (i - n)

/-- Reads the edge at a place (R177, R199), checked as R209 has it. -/
def World.readEdge (w : World) (src p base n last : Nat) (x : Nat × List Byte × Nat) : Except (Nat × Nat) (DrawEdge × World) :=
  let e := x.2.1
  let i := x.2.2
  match w.graphRead src p n (base + leAt e 24 8 + 8 * i) 8,
        (if typeTimed e then w.graphRead src p n (base + leAt e 32 8 + 4 * i) 4 else .ok ([], w)),
        (if typeWeighted e then w.graphRead src p n (base + leAt e 40 8 + 2 * i) 2 else .ok ([], w)) with
  | .error z, _, _ => .error z
  | _, .error z, _ => .error z
  | _, _, .error z => .error z
  | .ok (nb, w), .ok (tb, _), .ok (wb, _) =>
    let v := leNat nb
    let w := if typeTimed e then (w.hbmFetch src p (base + leAt e 32 8 + 4 * i) 4).2 else w
    let w := if typeWeighted e then (w.hbmFetch src p (base + leAt e 40 8 + 2 * i) 2).2 else w
    if 2 ^ 40 ≤ v then .error (0x26, v % 2 ^ 40)
    else if last ≤ v then .error (0x20, v)
    else if weightBad (leNat wb) then .error (0x25, n)
    else .ok ({ neighbour := v, time := leNat tb, type := x.1, weight := leNat wb, timed := typeTimed e }, w)

/-- Reads the edges at the places given, in order. -/
def World.readEdges (w : World) (src p base n last : Nat) : List (Nat × List Byte × Nat) → Except (Nat × Nat) (List DrawEdge × World)
  | [] => .ok ([], w)
  | x :: r =>
    match w.readEdge src p base n last x with
    | .error z => .error z
    | .ok (e, w) => (World.readEdges w src p base n last r).map fun y => (e :: y.1, y.2)

/-! ### Choosing (R186 to R193) -/

/-- Word `u` of a draw's stream (R186). -/
def sampleWord (seed plan hop node step u : Nat) : Nat :=
  philoxWord seed 0 (step % 2 ^ 32 * 2 ^ 32 + u / 4) (plan * 2 ^ 42 + (hop - 1) * 2 ^ 40 + node) u

/-- Floyd's algorithm (R190): `k` places of `d`, ascending. -/
def floyd (word : Nat → Nat) (d k : Nat) : List Nat :=
  (List.range k).foldl (fun chosen u =>
    let j := d - k + u
    let t := word u * (j + 1) / 2 ^ 32
    insertKey (if chosen.contains t then j else t) chosen) []

/-- The loop of R192 over candidates given as (start, weight) by place: the places chosen, ascending, and the picks made. -/
def weightedLoop (word : Nat → Nat) (cs : Array (Nat × Nat)) : Nat → Nat → Nat → List Nat → List Nat × Nat
  | 0, j, _, chosen => (chosen, j)
  | n + 1, j, r, chosen =>
    if r = 0 then (chosen, j)
    else
      let x0 := (word (2 * j + 1) * 2 ^ 32 + word (2 * j)) * r / 2 ^ 64
      let x := chosen.foldl (fun x i => let c := cs.getD i (0, 0); if c.1 ≤ x then x + c.2 else x) x0
      match cs.findIdx? fun c => decide (c.1 ≤ x) && decide (x < c.1 + c.2) with
      | none => (chosen, j)
      | some i => weightedLoop word cs n (j + 1) (r - (cs.getD i (0, 0)).2) (insertKey i chosen)

/-- The weights of one range (R179, R192): starts from `at0`; an error where a weight or a sum fails (R209). WEIGHTS and CUMW of
the range are read whole, each grain once. -/
def World.rangeWeights (w : World) (src p base n : Nat) (at0 : Nat) (x : Nat × Nat × Nat × List Byte) :
    Except (Nat × Nat) (List (Nat × Nat) × World) :=
  let e := x.2.2.2
  let wa := base + leAt e 40 8 + 2 * x.2.1
  let ca := base + leAt e 48 8 + 8 * x.2.1
  match w.graphReads src p n (if x.2.2.1 = 0 then [] else [(wa, 2 * x.2.2.1), (ca, 8 * x.2.2.1)]) with
  | .error z => .error z
  | .ok w2 =>
    let ws := (List.range x.2.2.1).map fun i => leNat (w.hbmRead p (wa + 2 * i) 2)
    let cs := (List.range x.2.2.1).map fun i => leNat (w.hbmRead p (ca + 8 * i) 8)
    let sums := (List.range x.2.2.1).map fun i => ((ws.take (i + 1)).map intWeight).sum
    if ws.any weightBad ∨ sums ≠ cs then .error (0x25, n)
    else .ok ((cs.zip (ws.map intWeight)).map fun c => (at0 + c.1 - c.2, c.2), w2)

/-- The weights of a candidate sequence. -/
def World.sequenceWeights (w : World) (src p base n : Nat) :
    Nat → List (Nat × Nat × Nat × List Byte) → Except (Nat × Nat) (List (Nat × Nat) × World)
  | _, [] => .ok ([], w)
  | at0, x :: r =>
    match w.rangeWeights src p base n at0 x with
    | .error z => .error z
    | .ok (cs, w) => (World.sequenceWeights w src p base n (at0 + (cs.map (·.2)).sum) r).map fun y => (cs ++ y.1, y.2)

/-- RECENT (R191): places of the latest time-stamps, ties to the higher type and then the higher position, ascending; with them
where the time-stamps lie that were compared and not taken (those taken are read with their edges). -/
def World.recentPlaces (w : World) (p base k : Nat) (rs : List (Nat × Nat × Nat × List Byte)) : List Nat × List (Nat × Nat) :=
  let d := rangesLength rs
  let tails := ((List.range d).filter fun i =>
    (placeAt rs i).elim false fun x => rs.any fun r => decide (r.1 = x.1) && decide (r.2.1 + r.2.2.1 ≤ x.2.2 + k))
  let keyed : List (Nat × Nat) := tails.filterMap fun i => (placeAt rs i).map fun x => (w.timeAt p base x.2.1 x.2.2, i)
  let best := keyed.filter fun (a : Nat × Nat) =>
    decide ((keyed.filter fun b => decide (a.1 < b.1) || (decide (a.1 = b.1) && decide (a.2 < b.2))).length < k)
  let lost := keyed.filter fun a => !(best.contains a)
  (best.map (·.2), lost.filterMap fun a => (placeAt rs a.2).map fun x => (base + leAt x.2.1 32 8 + 4 * x.2.2, 4))

/-- The places a mode chooses and the words it consumes (R190 to R194). -/
def World.choosePlaces (w : World) (src p base n : Nat) (hop : Hop) (word : Nat → Nat) (rs : List (Nat × Nat × Nat × List Byte)) :
    Except (Nat × Nat) ((List Nat × Nat) × World) :=
  let d := rangesLength rs
  match hop.mode with
  | 3 | 4 => .ok ((List.range d, 0), w)
  | 1 =>
    match w.sequenceWeights src p base n 0 rs with
    | .error z => .error z
    | .ok (cs, w) =>
      let x := weightedLoop word cs.toArray hop.fanout 0 ((cs.map (·.2)).sum) []
      .ok ((x.1, 2 * x.2), w)
  | _ =>
    if hop.recent then
      let x := w.recentPlaces p base hop.fanout rs
      (w.graphReads src p n x.2).map fun w => ((x.1, 0), w)
    else if d ≤ hop.fanout then .ok ((List.range d, 0), w)
    else .ok ((floyd word d hop.fanout, hop.fanout), w)

/-- The draw of one node at its home by the sampler of cluster `k` (R189 to R195): the chosen edges in candidate order. -/
def World.drawNode (w : World) (k p : Nat) (plan : Plan) (h step n target : Nat) : Except (Nat × Nat) (List DrawEdge × World) :=
  let src := clusterSource 5 k
  let hop := plan.hop.getD (h - 1) {}
  let base := ((w.part p).entry plan.graph).elim 0 (·.curBase)
  match w.graphHeader p base with
  | .error z => .error z
  | .ok hd =>
    match w.shardOfNode p base hd n with
    | none => .error (0x20, n)
    | some s =>
      match w.graphBad p n (base + leAt hd 0x18 8 + 8 * s) 16, w.typeDir p base hd s with
      | some z, _ => .error z
      | none, none => .error (0x20, n)
      | none, some dir =>
        let row := n - w.firstNode p base hd s
        match w.candidateRanges src p base n row target hop dir (List.range (leAt hd 6 2)) with
        | .error z => .error z
        | .ok (rs, w) =>
          match w.choosePlaces src p base n hop (sampleWord (w.part p).jobSeed.toNat plan.id h n step) rs with
          | .error z => .error z
          | .ok ((places, words), w) =>
            match w.readEdges src p base n (w.firstNode p base hd 4096) (places.filterMap (placeAt rs)) with
            | .error z => .error z
            | .ok (es, w) =>
              let w := w.count (Block.smp.addr k 0x090) words
              .ok (es, if hop.mode = 3 ∧ 1024 < rangesLength rs then w.tick .smp k 0x0C0 else w)

/-! ### The block in progress -/

/-- Changes the sampler of a cluster. -/
def World.updSmp (w : World) (k : Nat) (f : Smp → Smp) : World := w.updCluster k fun x => { x with smp := f x.smp }
/-- Changes the block in progress. -/
def World.updRun (w : World) (k : Nat) (f : SmpRun → SmpRun) : World := w.updSmp k fun x => { x with run := x.run.map f }

/-- A plan of a partition's bundle. -/
def World.plan (w : World) (p i : Nat) : Option Plan := (w.part p).bundle.bind fun b => b.plans.find? fun x => decide (x.id = i)

/-- The sampler stops (R209, R222, R293): METADATA, RACE or MEMORY. -/
def World.smpStop (w : World) (t : Sid) (k plan hop : Nat) (op : Option IssuedOp) (e : Nat × Nat) : World :=
  let p := w.partOfCluster k
  let src := clusterSource 5 k
  let a := Block.smp.addr k 0x008
  let w := w.updSmp k fun x => { x with faulted := true, pending := [], run := none, item := none }
  let w := op.elim w fun o => w.updCore o.core Core.faultSeq
  let reg := fun (kind check : Nat) =>
    mkField kind 0 4 ||| mkField check 8 8 ||| mkField plan 16 8 ||| mkField hop 24 3 ||| mkField 1 63 1
  let node := fun (w : World) (n : Nat) => w.setReg (Block.smp.addr k 0x010) (mkField n 0 40)
  if e.1 = stopMemory then (node (w.setReg a (reg 3 0)) e.2).stopJob t p 1 src
  else if e.1 = stopRace then (node (w.setReg a (reg 2 0)) 0).race t p src 0xFFFF 0 1
  else if e.1 = stopNoPosition then ((node (w.setReg a (reg 1 0x40)) 0).noPosition e.2).metadata t p src 0x40 0
  else (node (w.setReg a (reg 1 e.1)) e.2).metadata t p src e.1 (e.2 % 2 ^ 24)

/-- Fields of a descriptor as the block uses them (R183). -/
def smpUse (d : List Byte) (o : Option IssuedOp) (lo plain : Nat) : Nat :=
  match smpFromWork d, o with
  | true, some o => o.word (bitsAt (smpWords d) lo 3)
  | _, _ => plain
def smpSeedsAt (d : List Byte) (o : Option IssuedOp) : Nat := smpUse d o 0 (smpSeeds d)
def smpSeedCountAt (d : List Byte) (o : Option IssuedOp) : Nat := smpUse d o 8 (smpSeedCount d) % 2 ^ 32
def smpOutAt (d : List Byte) (o : Option IssuedOp) : Nat := smpUse d o 16 (smpOut d)
def smpBlockIdAt (d : List Byte) (o : Option IssuedOp) : Nat := smpUse d o 24 (smpBlockId d)

/-- Whether the image of a work item, or the seed count of a descriptor, breaks R183 or R185. -/
def imageBad (d : List Byte) (o : Option IssuedOp) (plan : Option Plan) : Bool :=
  match plan with
  | none => true
  | some p =>
    let n := smpSeedCountAt d o
    decide (n = 0) || decide (p.nodeCap < n)
      || (o.isNone && (decide (leAt d 0 1 ≠ 5) || decide (smpFirst d = 0) || decide (smpLast d < smpFirst d)
            || decide (p.hops < smpLast d) || decide (leAt d 4 1 ≠ 0) || !(allZero (slice d 5 3)) || !(allZero (slice d 52 12))
            || decide (smpWords d &&& 0x07070707 ≠ smpWords d) || decide (smpOutBytes d < p.outBytes)))

/-- The seed list (R184), checked. -/
def World.readSeeds (w : World) (k p : Nat) (d : List Byte) (o : Option IssuedOp) (last : Nat) :
    Except (Nat × Nat) (List BNode × World) :=
  let n := smpSeedCountAt d o
  match w.localRead (clusterSource 5 k) p k (smpSeedsAt d o) (16 * n) with
  | .error e => .error e
  | .ok (b, w) =>
    let xs := (List.range n).map fun i => (leAt b (16 * i) 8, leAt b (16 * i + 8) 4, i)
    match xs.find? fun x => decide (last ≤ x.1) with
    | some x => .error (if 2 ^ 40 ≤ x.1 then 0x26 else 0x20, x.1 % 2 ^ 40)
    | none => .ok (xs.map fun x => { node := x.1, hop := 0, time := x.2.1, seed := x.2.2 }, w)

/-- A node and an edge entry of a block, read back (R204, R205). -/
def parseBNode (b : List Byte) : BNode :=
  { node := leAt b 0 8 % 2 ^ 40, hop := bitsAt (leAt b 0 8) 40 3, time := leAt b 8 4, seed := leAt b 12 4 }
def parseBEdge (b : List Byte) : BEdge :=
  { src := leAt b 0 4, dst := leAt b 4 4, time := leAt b 8 4, type := leAt b 12 1, weight := leAt b 14 2 }

/-- The frontier block (R211): its nodes and edges, and where each hop starts. -/
def World.readFrontier (w : World) (k p : Nat) (d : List Byte) (plan : Plan) (r : SmpRun) : Except (Nat × Nat) (SmpRun × World) :=
  let src := clusterSource 5 k
  let a := smpFrontier d
  match w.localRead src p k a 128 with
  | .error e => .error e
  | .ok (h, w) =>
    let f := smpFirst d
    if leAt h 0 4 ≠ 0x4B434C42 ∨ leAt h 4 1 ≠ plan.id ∨ leAt h 5 1 ≠ f - 1 then .error (0x28, 0)
    else
      let nn := min plan.nodeCap (leAt h 0x18 4)
      let ne := min plan.edgeCap (leAt h 0x1C 4)
      match w.localRead src p k (a + 128) (16 * nn) with
      | .error e => .error e
      | .ok (nb, w) =>
        match w.localRead src p k (a + 128 + 16 * plan.nodeCap) (16 * ne) with
        | .error e => .error e
        | .ok (eb, w) =>
          .ok ({ r with
            nodes := (List.range nn).map fun i => parseBNode (slice nb (16 * i) 16)
            edges := (List.range ne).map fun i => parseBEdge (slice eb (16 * i) 16)
            hopNodes := (List.range f).map fun i => leAt h (0x20 + 4 * i) 4
            hopEdges := (List.range f).map fun i => leAt h (0x38 + 4 * i) 4
            truncated := bitAt (leAt h 6 2) 0, dropped := leAt h 0x34 4 }, w)

/-- A sampler takes a descriptor: what it reads before the first hop. -/
def World.blockStart (w : World) (k p : Nat) (d : List Byte) (plan : Plan) (r : SmpRun) : Except (Nat × Nat) (SmpRun × World) :=
  let src := clusterSource 5 k
  let base := ((w.part p).entry plan.graph).elim 0 (·.curBase)
  match w.graphHeader p base with
  | .error e => .error e
  | .ok hd =>
    let w := (w.hbmFetch src p base 128).2
    match w.readSeeds k p d r.op (w.firstNode p base hd 4096) with
    | .error e => .error e
    | .ok (seeds, w) =>
      let r := { r with nodes := seeds, hopNodes := [0], hopEdges := [0] }
      if smpFirst d ≤ 1 then .ok (r, w) else w.readFrontier k p d plan r

/-- Begins a block from a descriptor image. -/
def World.beginBlock (w : World) (t : Sid) (k : Nat) (d : List Byte) (op : Option IssuedOp) (item : Option ItemRef) : World :=
  let p := w.partOfCluster k
  let plan := w.plan p (smpPlan d)
  let stop := fun (w : World) (e : Nat × Nat) => w.smpStop t k (smpPlan d) (smpFirst d) op e
  if imageBad d op plan then stop w (0x28, 0)
  else
    let plan := plan.getD {}
    let r : SmpRun := { desc := d, op := op, item := item, plan := plan.id, hop := smpFirst d, step := w.stepOf p }
    match w.blockStart k p d plan r with
    | .error e => stop w e
    | .ok (r, w) =>
      w.updSmp k fun x => { x with run := some r }

/-- SAMPLER_BLOCK: a sampler takes the next descriptor that a core issued, or its work item, and begins a block (R183).
SMP_REPLAYS counts the descriptors issued by a core, each when it is taken, and no work item (R211). -/
def execSamplerBlock (cluster : ClusterId) (s : State) : Host.Outcome State Fault Refusal :=
  .next (s.serve fun w =>
    let k := cluster.val
    let src := clusterSource 5 k
    let x := (w.cluster k).smp
    if x.run.isSome ∨ x.faulted ∨ w.clusterLive k = false ∨ w.throttled src then w
    else
      match x.pending, x.item with
      | o :: rest, _ =>
        if w.throttles src 2 then w.throttle src
        else
          let w := w.updSmp k fun y => { y with pending := rest }
          ((w.tick .smp k 0x0C8).opRecord s.sid src .smp o 0).beginBlock s.sid k (w.descOf o.core o.desc) (some o) none
      | [], some (i, d) => (w.updSmp k fun y => { y with item := none }).beginBlock s.sid k d none (some i)
      | [], none => w)

/-! ### A hop (R194, R195, R197, R201, R204, R205, R207) -/

/-- The parents of the hop in progress: node index and node. -/
def SmpRun.parents (r : SmpRun) : List (Nat × BNode) :=
  (r.nodes.zipIdx.filter fun x => decide (x.1.hop + 1 = r.hop)).map fun x => (x.2, x.1)

/-- Own requests that a sampler may have outstanding (R201). -/
def remoteLimit : Nat := 256

/-- The image of a sample request (R198). -/
def requestImage (plan hop tag step node target bundleTag : Nat) : List Byte :=
  [1] ++ leBytes 1 plan ++ leBytes 1 hop ++ [0] ++ leBytes 4 tag ++ leBytes 8 step ++ leBytes 8 node ++ leBytes 4 target
    ++ leBytes 4 bundleTag

/-- Sends the request for one parent to its home, unless it cannot be sent now (R201, R419). -/
def World.requestDraw (t : Sid) (k p : Nat) (w : World) (x : Nat × BNode × Nat) : World :=
  match (w.cluster k).smp.run with
  | none => w
  | some r =>
    if AMap.get none r.draws x.1 ≠ none ∨ r.remote.any (fun y => decide (y.parent = x.1)) ∨ remoteLimit ≤ r.remote.length
        ∨ w.canSend = false then w
    else
      let tag := mkTag 5 k (w.cluster k).smp.nextTag
      let w := w.updSmp k fun y => { y with nextTag := y.nextTag + 1 }
      let w := w.updRun k fun r => { r with remote := r.remote ++ [{ tag := tag, node := x.2.1.node, parent := x.1 }] }
      let digest := leAt ((w.part p).bundle.elim [] (·.digest)) 0 4
      (w.tick .smp k 0x098).sendPacket t 0x07 x.2.2 (clusterSource 5 k) tag 0 false true
        (requestImage r.plan r.hop tag r.step x.2.1.node x.2.1.time digest)

/-- Where a node's draw runs: none here, some position elsewhere. -/
def World.drawHome (w : World) (p : Nat) (plan : Plan) (n : Nat) : Option Nat :=
  let base := ((w.part p).entry plan.graph).elim 0 (·.curBase)
  (w.shardOfNode p base (w.hbmRead p base 128) n).bind (w.shardAway p)

/-- Requests for the parents of the hop that live elsewhere and have none yet. -/
def World.requestDraws (w : World) (t : Sid) (k p : Nat) (plan : Plan) (r : SmpRun) : World :=
  (r.parents.filterMap fun x => (w.drawHome p plan x.2.node).map fun q => (x.1, x.2, q)).foldl (World.requestDraw t k p) w

/-- Draws the parents of the hop that live here. -/
def World.drawLocal (w : World) (k p : Nat) (plan : Plan) (r : SmpRun) :
    List (Nat × BNode) → Except (Nat × Nat) (SmpRun × World)
  | [] => .ok (r, w)
  | x :: rest =>
    match w.drawHome p plan x.2.node with
    | some q => if w.physicalOf q = none then .error (stopNoPosition, q) else World.drawLocal w k p plan r rest
    | none =>
      match w.drawNode k p plan r.hop r.step x.2.node x.2.time with
      | .error e => .error e
      | .ok (es, w) => World.drawLocal w k p plan { r with draws := AMap.set none r.draws x.1 (some es) } rest

/-- Target time of a child (R195). -/
def childTime (hop : Hop) (parent : BNode) (e : DrawEdge) : Nat := if hop.inherit && e.timed then e.time else parent.time

/-- The drawn edges of the hop with their parents, in order. -/
def SmpRun.drawn (r : SmpRun) : List (Nat × BNode × DrawEdge) :=
  r.parents.flatMap fun x => ((AMap.get none r.draws x.1).getD []).map fun e => (x.1, x.2, e)

/-- Modes 0 to 3 (R204, R205, R207): one node and one edge for each drawn edge, up to the caps. -/
def SmpRun.addChildren (plan : Plan) (hop : Hop) (r : SmpRun) : SmpRun :=
  let xs := r.drawn
  let n0 := r.nodes.length
  let room := min (plan.nodeCap - n0) (plan.edgeCap - r.edges.length)
  let cut := decide (room < xs.length)
  let ys := xs.take room
  { r with
    nodes := r.nodes ++ ys.map fun x => { node := x.2.2.neighbour, hop := r.hop, time := childTime hop x.2.1 x.2.2, seed := x.2.1.seed }
    edges := r.edges ++ ys.zipIdx.map fun z =>
      { src := n0 + z.2, dst := z.1.1, time := z.1.2.2.time, type := z.1.2.2.type, weight := z.1.2.2.weight }
    truncated := r.truncated || cut, dropped := r.dropped + (xs.length - ys.length) }

/-- Nodes that a mode 4 union keeps (R194). -/
def unionLimit : Nat := 262144

/-- Mode 4 (R194, R207): `word` is the stream of seed 0. The target time and the seed of a node that several edges reach are
one of those edges' own: which one is a free value of what R210 keeps fixed, so that a block drawn again in its step is the same
(DESIGN CHOICE: the spec names no edge; log entry 160). -/
def SmpRun.addLayer (plan : Plan) (hop : Hop) (word : Nat → Nat) (r : SmpRun) : SmpRun × Nat × Bool :=
  let xs := r.drawn
  let union := xs.foldl (fun m x => insertKey x.2.2.neighbour m) []
  let kept := union.take unionLimit
  let d := kept.length
  let all := decide (d ≤ hop.layerSize)
  let chosen := if all then kept else (floyd word d hop.layerSize).map fun i => kept.getD i 0
  let n0 := r.nodes.length
  let written := chosen.take (plan.nodeCap - n0)
  let short := decide (written.length < chosen.length)
  let es := if short then [] else xs.filter fun x => chosen.contains x.2.2.neighbour
  let cut := es.take (plan.edgeCap - r.edges.length)
  let nodeOf := fun (n : Nat) =>
    let own := xs.filter fun x => decide (x.2.2.neighbour = n)
    let pick := own.getD ((Config.layerEdge ([plan.id, r.hop, r.step, n] ++ own.map (·.1))).toNat % own.length) (0, {}, {})
    ({ node := n, hop := r.hop, time := childTime hop pick.2.1 pick.2.2, seed := pick.2.1.seed } : BNode)
  ({ r with
    nodes := r.nodes ++ written.map nodeOf
    edges := r.edges ++ cut.map fun x =>
      { src := n0 + (chosen.findIdx? fun c => decide (c = x.2.2.neighbour)).getD 0, dst := x.1, time := x.2.2.time
        type := x.2.2.type, weight := x.2.2.weight }
    truncated := r.truncated || short || decide (cut.length < es.length)
    dropped := r.dropped + (chosen.length - written.length) },
   if all then 0 else hop.layerSize, decide (unionLimit < union.length))

/-- The block with the hop whose draws it holds joined (R194, R204, R205), the words that takes and whether a union was cut. -/
def SmpRun.joinHop (plan : Plan) (jobSeed seed0 : Nat) (r : SmpRun) : SmpRun × Nat × Bool :=
  let hop := plan.hop.getD (r.hop - 1) {}
  let r := { r with hopNodes := r.hopNodes ++ [r.nodes.length], hopEdges := r.hopEdges ++ [r.edges.length] }
  let x := if hop.mode = 4 then r.addLayer plan hop (sampleWord jobSeed plan.id r.hop seed0 r.step) else (r.addChildren plan hop, 0, false)
  ({ x.1 with hop := r.hop + 1, draws := [], remote := [], issuedHop := false }, x.2)

/-- Every draw of the hop has returned: its entries join the block and the next hop is due. -/
def World.assembleHop (w : World) (k p : Nat) (plan : Plan) (seed0 : Nat) (r : SmpRun) : World :=
  let x := r.joinHop plan (w.part p).jobSeed.toNat seed0
  let w := (w.count (Block.smp.addr k 0x090) x.2.1).updRun k fun _ => x.1
  if x.2.2 then w.tick .smp k 0x0B8 else w

/-- Nodes of the block that `hops` more hops would hold if no cap cut it (R207), where every draw is made here and none fails. -/
def World.fullNodes (w : World) (k p : Nat) (plan : Plan) (seed0 : Nat) : Nat → SmpRun → Option Nat
  | 0, r => some r.nodes.length
  | n + 1, r =>
    if r.parents.any fun x => (w.drawHome p plan x.2.node).isSome then none
    else
      match w.drawLocal k p plan r r.parents with
      | .error _ => none
      | .ok (r, w) => World.fullNodes w k p plan seed0 n (r.joinHop plan (w.part p).jobSeed.toNat seed0).1

/-- DROPPED (R207): the node entries that the untruncated block would have added. Where a hop that was not drawn holds a node of
another module, or would fail a check, what it would have added is a free value (log entry 161). -/
def World.droppedOf (w : World) (k p : Nat) (plan : Plan) (seeds : List BNode) (r : SmpRun) : Nat :=
  if r.truncated = false then r.dropped
  else
    let last := smpLast r.desc
    let whole := { plan with nodeCap := 2 ^ 64, edgeCap := 2 ^ 64 }
    let start : SmpRun := { desc := r.desc, plan := r.plan, step := r.step, nodes := seeds }
    match w.fullNodes k p whole (seeds.headD {}).node last start with
    | some n => n - r.nodes.length
    | none => r.dropped + (if last < r.hop then 0 else (Config.hopsNotDrawn ([r.plan, r.hop, r.step] ++ r.nodes.map (·.node))).toNat)

/-! ### The end of a block (R187, R203 to R208) -/

/-- Negative `j` of a seed (R187). -/
def negativeOf (seed plan node step lo hi j : Nat) : Nat :=
  let word := fun (u : Nat) => philoxWord seed 1 (step % 2 ^ 32 * 2 ^ 32 + u / 4) (plan * 2 ^ 42 + node) u
  lo + (word (2 * j + 1) * 2 ^ 32 + word (2 * j)) * (hi - lo) / 2 ^ 64

/-- Images of a node and an edge entry. -/
def nodeImage (x : BNode) : List Byte := leBytes 8 (x.node % 2 ^ 40 + x.hop % 8 * 2 ^ 40) ++ leBytes 4 x.time ++ leBytes 4 x.seed
def edgeImage (x : BEdge) : List Byte :=
  leBytes 4 x.src ++ leBytes 4 x.dst ++ leBytes 4 x.time ++ leBytes 1 x.type ++ [0] ++ leBytes 2 x.weight

/-- First node, or edge, index of a hop; past the hops drawn, the total. -/
def startOf (xs : List Nat) (total h : Nat) : Nat := xs.getD h total

/-- The segment array of hop `h` (R206): where it lies, in entries, and its offsets. -/
def SmpRun.segments (r : SmpRun) (h : Nat) : Nat × List Byte :=
  let a := startOf r.hopNodes r.nodes.length (h - 1)
  let b := startOf r.hopNodes r.nodes.length h
  let e0 := startOf r.hopEdges r.edges.length h
  let e1 := startOf r.hopEdges r.edges.length (h + 1)
  let es := (r.edges.drop e0).take (e1 - e0)
  (a + h - 1, (List.range (b - a + 1)).flatMap fun i => leBytes 4 (es.filter fun x => decide (x.dst < a + i)).length)

/-- The block header (R203). -/
def SmpRun.header (r : SmpRun) (plan : Plan) (blockId negs : Nat) : List Byte :=
  let edgesAt := 128 + 16 * plan.nodeCap
  let segsAt := edgesAt + 16 * plan.edgeCap
  let negAt := segsAt + roundUp (4 * (plan.nodeCap + plan.hops)) 16
  leBytes 4 0x4B434C42 ++ leBytes 1 r.plan ++ leBytes 1 (smpLast r.desc) ++ leBytes 2 (if r.truncated then 1 else 0)
    ++ leBytes 8 r.step ++ leBytes 8 blockId ++ leBytes 4 r.nodes.length ++ leBytes 4 r.edges.length
    ++ (List.range 5).flatMap (fun h => leBytes 4 (startOf r.hopNodes r.nodes.length h))
    ++ leBytes 4 r.dropped
    ++ (List.range 5).flatMap (fun h => leBytes 4 (startOf r.hopEdges r.edges.length h))
    ++ leBytes 4 0 ++ leBytes 4 128 ++ leBytes 4 edgesAt ++ leBytes 4 segsAt ++ leBytes 4 negAt ++ leBytes 4 negs
    ++ List.replicate 28 0

/-- What a block writes, the header last. -/
def SmpRun.outputs (r : SmpRun) (plan : Plan) (jobSeed : Nat) (seeds : List BNode) : List (Nat × List Byte) :=
  let out := smpOutAt r.desc r.op
  let edgesAt := 128 + 16 * plan.nodeCap
  let segsAt := edgesAt + 16 * plan.edgeCap
  let negAt := segsAt + roundUp (4 * (plan.nodeCap + plan.hops)) 16
  let negs := seeds.flatMap fun x => (List.range plan.negCount).flatMap fun j =>
    leBytes 8 (negativeOf jobSeed r.plan x.node r.step plan.negLo plan.negHi j)
  [(out + 128, r.nodes.flatMap nodeImage), (out + edgesAt, r.edges.flatMap edgeImage)]
    ++ ((List.range (smpLast r.desc)).map fun i => let g := r.segments (i + 1); (out + segsAt + 4 * g.1, g.2))
    ++ [(out + negAt, negs), (out, r.header plan (smpBlockIdAt r.desc r.op) (seeds.length * plan.negCount))]

/-- The block is written and its completion reported (R208). -/
def World.finishBlock (w : World) (t : Sid) (k p : Nat) (plan : Plan) (seeds : List BNode) (r : SmpRun) : World :=
  let src := clusterSource 5 k
  let r := { r with dropped := w.droppedOf k p plan seeds r }
  let w := w.count (Block.smp.addr k 0x090) (2 * seeds.length * plan.negCount)
  let outs := (r.outputs plan (w.part p).jobSeed.toNat seeds).filter fun o => decide (o.2 ≠ [])
  match w.putAll t src p k outs with
  | .error e => w.smpStop t k r.plan (smpLast r.desc) r.op (e.1, 0)
  | .ok w =>
    let w := (w.tick .smp k 0x080).count (Block.smp.addr k 0x088) r.edges.length
    let w := if r.truncated then w.tick .smp k 0x0B0 else w
    let w := w.updSmp k fun x => { x with run := none }
    let w := r.op.elim w fun o => w.finishOp t src .smp o
    r.item.elim w fun i => w.completeItem t k i (BitVec.ofNat 64 (r.nodes.length + r.edges.length * 2 ^ 32))

/-- Whether draws of the hop in progress have still to return. -/
def SmpRun.waits (r : SmpRun) : Bool := r.parents.any fun x => decide (AMap.get none r.draws x.1 = none)

/-- The block advances as far as it can without a reply: a hop whose draws have all returned is assembled. -/
def World.settleHop (w : World) (k p : Nat) (plan : Plan) (seed0 : Nat) : World :=
  match (w.cluster k).smp.run with
  | none => w
  | some r => if r.issuedHop ∧ r.waits = false then w.assembleHop k p plan seed0 r else w

/-- The seeds of a block as its list holds them. -/
def World.seedsOf (w : World) (k p : Nat) (r : SmpRun) : List BNode :=
  match w.readSeeds k p r.desc r.op (2 ^ 40) with
  | .ok (x, _) => x
  | .error _ => []

/-- SMP_HOP_DRAW: when every draw of the previous hop has returned, the sampler draws the next hop; after the last hop it writes
the block (R197, R208). -/
def execSmpHopDraw (cluster : ClusterId) (s : State) : Host.Outcome State Fault Refusal :=
  .next (s.serve fun w =>
    let k := cluster.val
    let p := w.partOfCluster k
    match (w.cluster k).smp.run with
    | none => w
    | some r =>
      match w.plan p r.plan with
      | none => w
      | some plan =>
        let seeds := w.seedsOf k p r
        let seed0 := (seeds.headD {}).node
        if w.clusterLive k = false ∨ w.throttled (clusterSource 5 k) then w
        else if r.issuedHop ∧ r.waits then w.requestDraws s.sid k p plan r
        else
          let w := w.settleHop k p plan seed0
          match (w.cluster k).smp.run with
          | none => w
          | some r =>
            if smpLast r.desc < r.hop ∨ r.truncated then w.finishBlock s.sid k p plan seeds r
            else
              match w.drawLocal k p plan { r with issuedHop := true } r.parents with
              | .error e => w.smpStop s.sid k r.plan r.hop r.op e
              | .ok (r1, w) =>
                let w := ((w.updRun k fun _ => r1).requestDraws s.sid k p plan r1).settleHop k p plan seed0
                match (w.cluster k).smp.run with
                | none => w
                | some r2 =>
                  if r2.issuedHop = false ∧ (smpLast r2.desc < r2.hop ∨ r2.truncated) then
                    w.finishBlock s.sid k p plan seeds r2
                  else w)

/-! ### Remote draws (R198 to R202) -/

/-- The cluster of partition 0 that draws for a shard (R198 and the text before it). -/
def World.homeCluster (w : World) (s : Nat) : Nat :=
  let ks := w.clustersOf 0
  ks.getD (s % 48 % ks.length) 0

/-- The image of one part of a reply (R199). -/
def replyImage (status check tag node part total : Nat) (lastPart : Bool) (es : List DrawEdge) : List Byte :=
  [2] ++ leBytes 1 status ++ leBytes 1 check ++ [0] ++ leBytes 4 tag ++ leBytes 8 node ++ leBytes 4 part ++ leBytes 2 es.length
    ++ leBytes 2 (if lastPart then 1 else 0) ++ leBytes 4 total ++ [0, 0, 0, 0]
    ++ es.flatMap fun e => leBytes 8 e.neighbour ++ leBytes 4 e.time ++ leBytes 1 e.type ++ [0] ++ leBytes 2 e.weight

/-- Sends a reply in parts of 64 edges. -/
def World.sendReply (w : World) (t : Sid) (k dst tag rtag node status check : Nat) (es : List DrawEdge) : World :=
  let n := max 1 (ceilDiv es.length 64)
  (List.range n).foldl (fun w i =>
    w.sendPacket t 0x08 dst (clusterSource 5 k) tag 0 false false
      (replyImage status check rtag node i es.length (decide (i + 1 = n)) ((es.drop (64 * i)).take 64))) w

/-- A home sampler draws for another module (R200). -/
def World.serveSample (w : World) (t : Sid) (q : Packet) : World :=
  let b := q.payload
  let node := leAt b 16 8
  let hop := leAt b 2 1
  let dst := q.src.toNat
  let tag := q.tag.toNat
  let rtag := leAt b 4 4
  let plan := w.plan 0 (leAt b 1 1)
  let base := (((w.part 0).entry (plan.elim 0 (·.graph)))).elim 0 (·.curBase)
  let shard := w.shardOfNode 0 base (w.hbmRead 0 base 128) node
  let k := w.homeCluster (shard.getD 0)
  match (w.part 0).bundle, plan with
  | some bd, some plan =>
    if leAt bd.digest 0 4 ≠ leAt b 28 4 ∨ hop = 0 ∨ plan.hops < hop then w.sendReply t k dst tag rtag node 1 0 []
    else if (shard.bind (w.shardAway 0)).isSome then w.sendReply t k dst tag rtag node 2 0 []
    else
      match w.drawNode k 0 plan hop (leAt b 8 8) node (leAt b 24 4) with
      | .error e => (w.tick .smp k 0x0A8).sendReply t k dst tag rtag node 3 (e.1 % 256) []
      | .ok (es, w) => (w.tick .smp k 0x0A0).sendReply t k dst tag rtag node 0 0 es
  | _, _ => w.sendReply t k dst tag rtag node 1 0 []

/-- The edges of a reply part about a node of shard `shard` in a hop of mode `mode`. A child's target time rests on the home's
TIMED flag of the edge's type (R195, R202), which a reply does not carry: it is set where the time-stamp is not 0 and in mode 2
(R209, check 0x23), and the home's flag of that shard and type, a free value, decides where neither says so (log entry 52). -/
def replyEdges (mode shard : Nat) (b : List Byte) : List DrawEdge :=
  (List.range (leAt b 20 2)).map fun i =>
    let o := 32 + 16 * i
    { neighbour := leAt b o 8 % 2 ^ 40, time := leAt b (o + 8) 4, type := leAt b (o + 12) 1, weight := leAt b (o + 14) 2
      timed := decide (leAt b (o + 8) 4 ≠ 0) || decide (mode = 2) || Config.homeTimed shard (leAt b (o + 12) 1) }

/-- A request's parts, if all have arrived, in PART order (R199). -/
def RemoteDraw.whole (x : RemoteDraw) : Option (List DrawEdge) :=
  match x.lastPart with
  | none => none
  | some n =>
    if (List.range (n + 1)).all fun i => x.parts.any fun y => decide (y.1 = i) then
      some ((List.range (n + 1)).flatMap fun i => ((x.parts.find? fun y => decide (y.1 = i)).map (·.2)).getD [])
    else none

/-- A requesting sampler places one part of a reply; freed slots carry further requests (R199 to R201). -/
def World.takeReply (w : World) (t : Sid) (q : Packet) : World :=
  let b := q.payload
  let k := tagInst q.tag.toNat
  let p := w.partOfCluster k
  match (w.cluster k).smp.run with
  | none => w
  | some r =>
    match r.remote.find? fun x => decide (x.tag = leAt b 4 4), w.plan p r.plan with
    | some x, some plan =>
      let status := leAt b 1 1
      if status ≠ 0 then w.smpStop t k r.plan r.hop r.op (if status = 3 then leAt b 2 1 else 0x27, x.node)
      else
        let part := leAt b 16 4
        let base := ((w.part p).entry plan.graph).elim 0 (·.curBase)
        let shard := (w.shardOfNode p base (w.hbmRead p base 128) x.node).getD 0
        let es := replyEdges (plan.hop.getD (r.hop - 1) {}).mode shard b
        let y := { x with parts := x.parts ++ [(part, es)], lastPart := if bitAt (leAt b 22 2) 0 then some part else x.lastPart }
        match y.whole with
        | none => w.updRun k fun r => { r with remote := r.remote.map fun z => if z.tag = x.tag then y else z }
        | some es =>
          let w := w.updRun k fun r =>
            { r with remote := r.remote.filter fun z => decide (z.tag ≠ x.tag), draws := AMap.set none r.draws x.parent (some es) }
          match (w.cluster k).smp.run with
          | none => w
          | some r => w.requestDraws t k p plan r
    | _, _ => w

end Sys2Proof.Machine
end

