-- ==== Sys2Proof/Machine/Hopper.lean ====
section
/-!
DEFINITION. Hopper (chapter 14): the cycle (R503 to R507), batches and their close (R510, R511, R513), feed datagrams and records
(R514 to R516), and their routing and application at the homes (R517 to R519).
-/

namespace Sys2Proof.Machine

/-! ### The cycle (R503, R504, R506, R507, R533) -/

/-- Changes Hopper. -/
def World.updHop (w : World) (f : Hop_ → Hop_) : World := { w with hop := f w.hop }

/-- Length of a cycle in ns. -/
def Hop_.cycleNs (h : Hop_) : Nat := h.cycleMs * 1000000

/-- The first cycle that starts at least 100 ms after `now` (R504). -/
def Hop_.firstCycle (h : Hop_) (now : Nat) : Nat := ceilDiv (now + 100000000) h.cycleNs

/-- CUT_TIME(N) (R506). -/
def Hop_.cutAt (h : Hop_) (c0 n : Nat) : Nat :=
  (c0 + n / h.stepsPerCycle) * h.cycleNs + n % h.stepsPerCycle * h.spacingMs * 1000000

/-- The lowest batch whose cut time exceeds an event time (R510). -/
def Hop_.batchAt (h : Hop_) (c0 time : Nat) : Nat :=
  let c := time / h.cycleNs
  if c < c0 then 0
  else
    let k := if h.spacingMs = 0 then h.stepsPerCycle else time % h.cycleNs / (h.spacingMs * 1000000) + 1
    (c - c0) * h.stepsPerCycle + min k h.stepsPerCycle

/-- Hopper at a job's start (R507, R518): HOP_LOOP and HOP_INTAKE are read, and nothing is held. -/
def World.hopStart (w : World) : World :=
  let a := Block.hop.addr 0 0
  let cyc := min 10000 (max 250 (w.regField a 0 16))
  let s := max 1 (w.regField a 16 8)
  let spacing := w.regField a 24 16
  let fixed := decide (cyc ≤ (s - 1) * spacing)
  let ring := w.reg (Block.hop.addr 0 0x008)
  { w with hop :=
    { cycleMs := cyc, stepsPerCycle := s, spacingMs := if fixed then 0 else spacing, graceUs := w.regField a 40 16
      deadlineMs := max 1 (w.regField a 56 8), configFixed := fixed
      intakeOk := decide (16 ≤ fieldOf ring 48 16) && decide (fieldOf ring 0 48 + fieldOf ring 48 16 * 2 ^ 20 ≤ w.hbmCapacity 0) } }

/-- The cycle of a step of partition 0 (R504). -/
def World.cycleOf (w : World) (n : Nat) : Nat := (w.part 0).c0 + n / w.hop.stepsPerCycle
/-- Whether a step is a cycle's first. -/
def World.opensCycle (w : World) (n : Nat) : Bool := decide (n % w.hop.stepsPerCycle = 0)

/-- The positions of the domain; this module's own where it has no fabric position. -/
def World.allPositions (w : World) : List Nat :=
  if w.fab.position.isSome then (List.range w.config.positions).map w.config.positionAt else [w.ownPosition]

/-! ### Records (R514, R515) -/

/-- Fields of a record header; a record is in network byte order (R4). -/
def recKind (r : List Byte) : Nat := beAt r 0 1
def recTensor (r : List Byte) : Nat := beAt r 4 4
def recTime (r : List Byte) : Nat := beAt r 8 8
def recKey (r : List Byte) : Nat := beAt r 16 8

/-- Whether the reserved bytes of a record are 0. -/
def recReserved (r : List Byte) : Bool :=
  decide (beAt r 1 1 = 0) && allZero (slice r 24 8)
    && (match recKind r with
      | 1 => allZero (slice r 41 5)
      | 2 => allZero (slice r 33 3)
      | 3 => allZero (slice r 36 4) && allZero (r.drop (40 + 4 * beAt r 34 2))
      | _ => true)

/-- The records of a datagram of `n` records; none where LENGTH fields disagree with its size. -/
def splitRecords : Nat → List Byte → Option (List (List Byte))
  | 0, b => if b = [] then some [] else none
  | n + 1, b =>
    let len := beAt b 2 2
    if b.length < 32 ∨ len < 32 ∨ len % 8 ≠ 0 ∨ b.length < len then none
    else (splitRecords n (b.drop len)).map (b.take len :: ·)

/-- The records of a well-formed datagram (R514). -/
def feedRecords (domain : Nat) (b : List Byte) : Option (List (List Byte)) :=
  if b.length < 32 ∨ 8960 < b.length ∨ beAt b 0 4 ≠ 0x4D4A4644 ∨ beAt b 4 2 ≠ 1 ∨ beAt b 12 4 ≠ domain
      ∨ beAt b 6 2 = 0 ∨ 255 < beAt b 6 2 ∨ allZero (slice b 24 8) = false then none
  else (splitRecords (beAt b 6 2) (b.drop 32)).bind fun rs => if rs.all recReserved then some rs else none

/-! ### Application at a home (R515, R516, R519) -/

/-- Reads and writes of a table by Hopper: batch 0 is applied to version 0 before the copy of R221, so it reaches both versions;
a later batch is applied to the pending version under R220. -/
def World.feedRead (w : World) (first : Bool) (e : DirEntry) (o n : Nat) : List Byte :=
  if first then w.hbmRead 0 (e.curBase + o) n else w.pendingRead 0 e (e.penBase + o) n
def World.feedWrite (t : Sid) (first : Bool) (e : DirEntry) (w : World) (x : Nat × List Byte) : World :=
  if x.2 = [] then w
  else if first then
    let w := (w.hbmStore 0 (e.curBase + x.1) x.2).hbmStore 0 (e.penBase + x.1) x.2
    ((w.hbmCount 0 (e.curBase + x.1) x.2.length true).hbmCount 0 (e.penBase + x.1) x.2.length true).tellReplicas t (ioSource 8) 0
      (e.penBase + x.1) x.2
  else w.homeWrite t (ioSource 8) 0 (e.penBase + x.1) x.2

/-- FIRST[s] of an image that `rd` reads, the shard of a node, and where a shard's type directory lies (R175, R176). -/
def imageFirst (rd : Nat → Nat → List Byte) (s : Nat) : Nat := leNat (rd (leNat (rd 0x18 8) + 8 * s) 8) % 2 ^ 40
def imageShard (rd : Nat → Nat → List Byte) (n : Nat) : Option Nat :=
  (List.range 4096).find? fun s => decide (imageFirst rd s ≤ n) && decide (n < imageFirst rd (s + 1))
def imageDirs (rd : Nat → Nat → List Byte) : List (Nat × Nat) :=
  let dir := leNat (rd 0x20 8)
  (List.range (leNat (rd 8 4))).map fun i => (leNat (rd (dir + 16 * i) 2), leNat (rd (dir + 16 * i + 8) 8))

/-- Where every part of an image begins, and its end. -/
def imageMarks (rd : Nat → Nat → List Byte) : List Nat :=
  let types := leNat (rd 6 2)
  [leNat (rd 0x18 8), leNat (rd 0x20 8), leNat (rd 0x28 8)]
    ++ (imageDirs rd).flatMap fun d => d.2 :: (List.range types).flatMap fun y =>
      let e := rd (d.2 + 64 * y) 64
      if typePresent e then [leAt e 16 8, leAt e 24 8, leAt e 32 8, leAt e 40 8, leAt e 48 8] else []

/-- The room that the image leaves an array at `a`: up to the next part of the image, or its end. -/
def imageRoom (rd : Nat → Nat → List Byte) (a : Nat) : Nat :=
  ((imageMarks rd).filter fun m => decide (a < m)).foldl (fun x m => match x with | none => some m | some y => some (min y m)) none
    |>.elim 0 (· - a)

/-- The little-endian numbers of `n` bytes each in a list of bytes. -/
def numbersOf (n : Nat) (b : List Byte) : List Nat := (List.range (b.length / n)).map fun i => leAt b (n * i) n

/-- Running sums of integer weights (R179). -/
def runningSums : Nat → List Nat → List Nat
  | _, [] => []
  | a, x :: xs => (a + x) :: runningSums (a + x) xs

/-- A row of a type: directory entry's place, entry, row number, rows of the shard. -/
structure RowPlace where
  entryAt : Nat
  entry : List Byte
  row : Nat
  rows : Nat

/-- The time-stamp of an event (R178); none where it does not fit (R516, R609). -/
def edgeStamp (time epoch : Nat) : Option Nat :=
  let s := time / 1000000000
  if s < epoch ∨ 2 ^ 32 ≤ s - epoch then none else some (s - epoch)

/-- The checks of an edge record in the order of their reasons (R516): the row it names, and the time-stamp of a timed type. -/
def edgePlace (rd : Nat → Nat → List Byte) (r : List Byte) (type : Nat) (nodes : List Nat) : Except Nat (RowPlace × Nat) :=
  let k := recKey r
  if nodes.any fun n => decide (2 ^ 40 ≤ n) || decide (imageFirst rd 4096 ≤ n) then .error 2
  else
    match imageShard rd k with
    | none => .error 2
    | some s =>
      if leNat (rd 6 2) ≤ type then .error 3
      else
        match (imageDirs rd).find? fun d => decide (d.1 = s) with
        | none => .error 6
        | some d =>
          let e := rd (d.2 + 64 * type) 64
          let place : RowPlace :=
            { entryAt := d.2 + 64 * type, entry := e, row := k - imageFirst rd s, rows := imageFirst rd (s + 1) - imageFirst rd s }
          if recKind r = 1 ∧ typeWeighted e ∧ weightBad (beAt r 46 2) then .error 3
          else if typePresent e ∧ typeTimed e then
            match edgeStamp (recTime r) (leNat (rd 0x10 8)) with
            | none => .error 5
            | some x => .ok (place, x)
          else .ok (place, 0)

/-- The writes that replace the edges of a row: its new entries as (neighbour, time, weight), then every later edge of the type,
with OFFSETS, CUMW and EDGE_COUNT as the change of degree makes them. -/
def rowRewrite (rd : Nat → Nat → List Byte) (x : RowPlace) (edges : List (Nat × Nat × Nat)) : List (Nat × List Byte) :=
  let e := x.entry
  let n := leAt e 8 8
  let lo := leNat (rd (leAt e 16 8 + 8 * x.row) 8)
  let hi := leNat (rd (leAt e 16 8 + 8 * (x.row + 1)) 8)
  let tail := fun (at' size : Nat) => rd (at' + size * hi) (size * (n - hi))
  let offs := numbersOf 8 (rd (leAt e 16 8 + 8 * (x.row + 1)) (8 * (x.rows - x.row)))
  let put := fun (at' size : Nat) (new : List Nat) => (at' + size * lo, new.flatMap (leBytes size) ++ tail at' size)
  [(x.entryAt + 8, leBytes 8 (n + edges.length - (hi - lo))),
   (leAt e 16 8 + 8 * (x.row + 1), offs.flatMap fun v => leBytes 8 (v + edges.length - (hi - lo))),
   put (leAt e 24 8) 8 (edges.map (·.1))]
    ++ (if typeTimed e then [put (leAt e 32 8) 4 (edges.map (·.2.1))] else [])
    ++ (if typeWeighted e then
          [put (leAt e 40 8) 2 (edges.map (·.2.2)), put (leAt e 48 8) 8 (runningSums 0 (edges.map fun y => intWeight y.2.2))] else [])

/-- The edges of a row as (neighbour, time, weight). -/
def rowEdges (rd : Nat → Nat → List Byte) (x : RowPlace) : List (Nat × Nat × Nat) :=
  let e := x.entry
  let lo := leNat (rd (leAt e 16 8 + 8 * x.row) 8)
  let hi := leNat (rd (leAt e 16 8 + 8 * (x.row + 1)) 8)
  (List.range (hi - lo)).map fun i =>
    (leNat (rd (leAt e 24 8 + 8 * (lo + i)) 8), if typeTimed e then leNat (rd (leAt e 32 8 + 4 * (lo + i)) 4) else 0,
     if typeWeighted e then leNat (rd (leAt e 40 8 + 2 * (lo + i)) 2) else 0)

/-- Edges that one row of a type can have (R177). -/
def maxDegree : Nat := 16777215

/-- EDGE_ADD (R515): the writes, or the reason of its refusal. -/
def edgeAdd (rd : Nat → Nat → List Byte) (r : List Byte) : Except Nat (List (Nat × List Byte)) :=
  let nb := beAt r 32 8
  match edgePlace rd r (beAt r 40 1) [recKey r, nb] with
  | .error e => .error e
  | .ok (x, stamp) =>
    let e := x.entry
    let n := leAt e 8 8 + 1
    let es := rowEdges rd x
    let fits := decide (8 * n ≤ imageRoom rd (leAt e 24 8))
      && (!typeTimed e || decide (4 * n ≤ imageRoom rd (leAt e 32 8)))
      && (!typeWeighted e || (decide (2 * n ≤ imageRoom rd (leAt e 40 8)) && decide (8 * n ≤ imageRoom rd (leAt e 48 8))))
    if typePresent e = false ∨ maxDegree ≤ es.length ∨ fits = false then .error 6
    else
      let before := if typeTimed e then (es.filter fun y => decide (y.2.1 ≤ stamp)).length else es.length
      .ok (rowRewrite rd x (es.take before ++ [(nb, stamp, beAt r 46 2)] ++ es.drop before))

/-- EDGE_TRIM (R515). Edges of an untimed type have no time-stamp and stay. -/
def edgeTrim (rd : Nat → Nat → List Byte) (r : List Byte) : Except Nat (List (Nat × List Byte)) :=
  match edgePlace rd r (beAt r 32 1) [recKey r] with
  | .error e => .error e
  | .ok (x, _) =>
    if typePresent x.entry = false ∨ typeTimed x.entry = false then .ok []
    else .ok (rowRewrite rd x ((rowEdges rd x).filter fun y => decide (beAt r 36 4 ≤ y.2.1)))

/-- ROW_SET (R515): the row is read in the format that it has, `old'`, and written in the format in force, `new'` (R107). -/
def rowSet (rd : Nat → Nat → List Byte) (old' new' : Nat) (e : DirEntry) (r : List Byte) : Except Nat (List (Nat × List Byte)) :=
  let row := recKey r
  let col := beAt r 32 2
  let vals := (List.range (beAt r 34 2)).map fun i => fp32.decode (beAt r (40 + 4 * i) 4)
  if e.records ≤ row then .error 2
  else if (vals.any fun v => !v.isFinite) || decide (e.dim < col + vals.length) then .error 4
  else
    let at' := row * e.recordBytes
    let old := rowValues old' e.dim (rd at' e.recordBytes)
    let new := old.take col ++ vals ++ old.drop (col + vals.length)
    .ok [(at', (rowImage { format := new' } row e.dim e.recordBytes new).1)]

/-- Applies a record to a table (R515, R516): the world, or the reason of the refusal. What it rewrites it first reads. -/
def World.applyRecord (w : World) (t : Sid) (first : Bool) (r : List Byte) : Except Nat World :=
  let entry := (w.part 0).entry (recTensor r)
  let finish := fun (e : DirEntry) (x : Except Nat (List (Nat × List Byte))) =>
    match x with
    | .error n => Except.error n
    | .ok ws =>
      let base := if first then e.curBase else e.penBase
      Except.ok (match w.agentReads t 0 (ioSource 8) ((ws.filter fun x => decide (x.2 ≠ [])).map fun x => (base + x.1, x.2.length)) with
        | (none, w) => w
        | (some w, _) => ws.foldl (World.feedWrite t first e) w)
  match recKind r, entry with
  | 1, some e => if e.kind = 0 then finish e (edgeAdd (w.feedRead first e) r) else .error 1
  | 2, some e => if e.kind = 0 then finish e (edgeTrim (w.feedRead first e) r) else .error 1
  | 3, some e =>
    if e.kind = 1 ∧ (w.kilnEntryOf 0 (recTensor r)).isNone then
      let has := if first then e.curFormat (recKey r) else e.penFormat (recKey r)
      finish e (rowSet (w.feedRead first e) has ((w.tensor 0 e.tensor).elim e.format (w.formatOf 0)) e r)
    else .error 1
  | 1, none | 2, none | 3, none => .error 1
  | _, _ => .error 3

/-- One record of a batch (R516, R519). -/
def World.applyOne (t : Sid) (n : Nat) (w : World) (x : FeedRec) : World :=
  if w.hop.seen.any fun y => decide (y.2 = (x.source, x.seq, x.place)) then w.tick .hop 0 0x0C0
  else
    let w := w.updHop fun h => { h with seen := h.seen ++ [(n, x.source, x.seq, x.place)] }
    match w.applyRecord t (decide (n = 0)) x.bytes with
    | .ok w =>
      let k := recKind x.bytes
      let w := if w.config.twinRole ≠ 0 ∧ k < 3 then w.updHop fun h =>
          { h with changed := h.changed ++ [(n, recTensor x.bytes, recKey x.bytes, beAt x.bytes (if k = 1 then 40 else 32) 1)] } else w
      w.tick .hop 0 0x098
    | .error reason =>
      let w := w.tick .hop 0 0x0A8
      if w.hop.refusedStep = some (w.part 0).step then w
      else (w.raise t (ioSource 8) 0x153 (recTensor x.bytes % 2 ^ 24 + reason * 2 ^ 24)).updHop fun h =>
        { h with refusedStep := some (w.part 0).step }

/-- The order of R519. -/
def FeedRec.before (a b : FeedRec) : Bool :=
  let x := recTime a.bytes
  let y := recTime b.bytes
  decide (x < y) || (decide (x = y) && (decide (a.source < b.source) || (decide (a.source = b.source)
    && (decide (a.seq < b.seq) || (decide (a.seq = b.seq) && decide (a.place < b.place))))))
/-- Inserts a record into a list in that order, after its equals. -/
def insertRec (x : FeedRec) : List FeedRec → List FeedRec
  | [] => [x]
  | y :: ys => if x.before y then x :: y :: ys else y :: insertRec x ys

/-- The records of a list less those whose key an earlier one has. -/
def distinctRecs (seen : List (Nat × Nat × Nat)) : List FeedRec → List FeedRec
  | [] => []
  | x :: xs =>
    if seen.contains (x.source, x.seq, x.place) then distinctRecs seen xs
    else x :: distinctRecs (seen ++ [(x.source, x.seq, x.place)]) xs

/-- Applies batch `n` at this home: its records in order, then the batch enters the feed log (R512, R519). -/
def World.applyBatch (w : World) (t : Sid) (n : Nat) (recs : List FeedRec) : World :=
  let w := w.updHop fun h => { h with seen := h.seen.filter fun y => decide (n ≤ y.1 + 1) }
  let logged := distinctRecs (w.hop.seen.map (·.2)) recs
  (recs.foldl (World.applyOne t n) w).updHop fun h =>
    { h with applied := n + 1, log := (h.log.filter fun y => decide (y.1 ≠ n)) ++ [(n, logged)] }

/-- Applies the batches that may now be applied: in order, each when markers of every position are here (R511), and not before the
step whose closing switch makes it current (R31). While the log replays, each batch comes from the log (R513). -/
def World.settleBatches (w : World) (t : Sid) : Nat → World
  | 0 => w
  | fuel + 1 =>
    let n := w.hop.applied
    if w.jobRuns 0 = false ∨ (w.part 0).step + 1 < n then w
    else if w.hop.replaying then
      match w.hop.log.find? fun y => decide (y.1 = n) with
      | none => w
      | some y => ((w.applyBatch t n y.2).count (Block.hop.addr 0 0x0C8) y.2.length).settleBatches t fuel
    else if w.allPositions.all fun p => (AMap.get [] w.hop.markers n).contains p then
      let recs := (w.hop.intake.filter fun x => decide (x.batch ≤ n)).foldl (fun l x => insertRec x l) []
      let w := w.updHop fun h =>
        { h with intake := h.intake.filter fun x => decide (n < x.batch), markers := AMap.set [] h.markers n [] }
      (w.applyBatch t n recs).settleBatches t fuel
    else w

/-! ### Routing (R517) -/

/-- The home of a record: this module where none can be told, which then refuses it. -/
def World.recordHome (w : World) (r : List Byte) : Nat :=
  match (w.part 0).entry (recTensor r) with
  | none => w.ownPosition
  | some e =>
    if recKind r = 3 then
      if e.kind = 1 ∧ recKey r < e.records then w.homeOf 0 e (recKey r) else w.ownPosition
    else if e.kind = 0 ∧ w.fab.position.isSome then
      ((imageShard (fun o n => w.hbmRead 0 (e.curBase + o) n) (recKey r)).bind (w.shardAway 0)).getD w.ownPosition
    else w.ownPosition

/-- Body bytes of a record that one packet carries beside its 32-byte key and the record header. -/
def recordPart : Nat := 1984

/-- The packet payloads that carry a record: the batch, source, place and sequence number of the record and the number of the part,
the record header, and up to 1,984 bytes of its body. Parts after the first are sent with ORDER, so they arrive in their order. -/
def FeedRec.payloads (x : FeedRec) : List (List Byte) :=
  (List.range (max 1 (ceilDiv (x.bytes.length - 32) recordPart))).map fun i =>
    leBytes 8 x.batch ++ leBytes 4 x.source ++ leBytes 2 x.place ++ leBytes 2 i ++ leBytes 8 x.seq ++ List.replicate 8 0
      ++ slice x.bytes 0 32 ++ (x.bytes.drop (32 + recordPart * i)).take recordPart

/-- Bytes of the intake ring (R518, R534). -/
def World.ringBytes (w : World) : Nat := w.regField (Block.hop.addr 0 0x008) 48 16 * 2 ^ 20

/-- Bytes go into this module's intake ring in partition 0 HBM, one record after the other, from the start again where one does not fit at the end
(R517, R518; DESIGN CHOICE, assumption 171: the spec does not lay the ring out). -/
def World.ringPut (w : World) (b : List Byte) : World :=
  let i := if w.ringBytes < w.hop.ringNext + b.length then 0 else w.hop.ringNext
  let a := w.regField (Block.hop.addr 0 0x008) 0 48 + i
  if w.hop.intakeOk ∧ i + b.length ≤ w.ringBytes then
    ((w.hbmStore 0 a b).hbmCount 0 a b.length true).updHop fun h => { h with ringNext := i + b.length }
  else w

/-- Whether a home has granted room for `n` more bytes. Each position has an equal share of a home's ring, and a batch's bytes are free again from the
switch on that makes the batch current everywhere (R517; DESIGN CHOICE, assumption 171: the spec does not say how room is granted). -/
def World.ringGranted (w : World) (home n : Nat) : Bool :=
  decide (((w.hop.inRings.filter fun y => decide (y.1 = home)).map fun y => y.2.2).sum + n ≤ w.ringBytes / max 1 w.allPositions.length)

/-- Sends a record to its home, or puts it into this module's intake (R517); it waits in the receive buffer while the home grants no room. -/
def World.routeRecord (t : Sid) (w : World) (x : FeedRec) : World :=
  let home := w.recordHome x.bytes
  let sent := fun (w : World) => w.updHop fun h => { h with inRings := h.inRings ++ [(home, x.batch, x.bytes.length)] }
  if w.ringGranted home x.bytes.length = false then w.updHop fun h => { h with receive := h.receive ++ [x] }
  else if home = w.ownPosition then (sent (w.ringPut x.bytes)).updHop fun h => { h with intake := h.intake ++ [x] }
  else if w.physicalOf home = none then (w.noPosition home).metadata t 0 (ioSource 8) 0x40 home
  else
    x.payloads.zipIdx.foldl (fun w b =>
      w.sendPacket t 0x03 home (ioSource 8) (mkTag 7 2 0) (globalAddr home (w.regField (Block.hop.addr 0 0x008) 0 48))
        (decide (0 < b.2)) false b.1) ((sent w).tick .hop 0 0x090)

/-- Routes the records that wait, of batches up to `n`, where packets may be sent. -/
def World.routeWaiting (w : World) (t : Sid) (n : Nat) : World :=
  let xs := w.hop.receive.filter fun x => decide (x.batch ≤ n)
  xs.foldl (World.routeRecord t) (w.updHop fun h => { h with receive := h.receive.filter fun x => decide (n < x.batch) })

/-- Bytes of the receive buffer (R517). -/
def receiveBuffer : Nat := 8 * 2 ^ 20

/-- FEED_LATE (R510). -/
def World.lateRecord (w : World) (t : Sid) (n : Nat) : World :=
  let w := w.tick .hop 0 0x0A0
  if w.hop.lateStep = some (w.part 0).step then w
  else (w.raise t (ioSource 8) 0x152 (n % 2 ^ 32)).updHop fun h => { h with lateStep := some (w.part 0).step }

/-- One record of a datagram: its batch (R510), and its way to its home unless packets may not be sent or the log replays. -/
def World.takeRecord (t : Sid) (source seq : Nat) (w : World) (x : List Byte × Nat) : World :=
  let n := w.hop.batchAt (w.part 0).c0 (recTime x.1)
  let late := decide (n < w.hop.closed)
  let n' := max n w.hop.closed
  let w := if late then w.lateRecord t n' else w
  let r : FeedRec := { batch := n', source := source, seq := seq, place := x.2, bytes := x.1 }
  if w.canSend ∧ w.hop.replaying = false then w.routeRecord t r else w.updHop fun h => { h with receive := h.receive ++ [r] }

/-- FEED_DATAGRAM: Hopper takes a feed datagram (R510, R514, R517, R518, R529). -/
def execFeedDatagram (d : Datagram) (s : State) : Host.Outcome State Fault Refusal :=
  .next (s.serve fun w => w.hear d.port.val fun w =>
    if (w.config.ethTable.any fun e => decide (e.role = 1) && decide (e.udpPort = d.dstPort.toNat)) = false then w.tick .eth 0 0x0A8
    else if w.jobRuns 0 = false ∨ w.hop.intakeOk = false then w.tick .hop 0 0x0B0
    else
      match feedRecords w.config.domainId d.payload with
      | none => w.tick .hop 0 0x0B8
      | some rs =>
        if receiveBuffer < (w.hop.receive.map fun x => x.bytes.length).sum + d.payload.length then w.tick .hop 0 0x0B0
        else
          let w := (w.tick .hop 0 0x080).count (Block.hop.addr 0 0x088) rs.length
          rs.zipIdx.foldl (World.takeRecord s.sid (beAt d.payload 8 4) (beAt d.payload 16 8)) w)

/-! ### Arrival at a home (R511, R517) -/

/-- A record, or a part of one, from another Hopper's packet. -/
def feedPacket (b : List Byte) : FeedRec × Nat :=
  ({ batch := leAt b 0 8, source := leAt b 8 4, place := leAt b 12 2, seq := leAt b 16 8, bytes := b.drop 32 }, leAt b 14 2)

/-- A further part of a record joins the one that began it. -/
def joinPart (x : FeedRec) : List FeedRec → List FeedRec
  | [] => []
  | y :: ys =>
    if y.batch = x.batch ∧ y.source = x.source ∧ y.seq = x.seq ∧ y.place = x.place ∧ slice y.bytes 0 32 = slice x.bytes 0 32
        ∧ y.bytes.length < beAt y.bytes 2 2 then
      { y with bytes := y.bytes ++ x.bytes.drop 32 } :: ys
    else y :: joinPart x ys

/-- A routed record reaches its home's intake ring, or goes on to the row's new home (R251, R517). -/
def World.intakeRecord (w : World) (t : Sid) (b : List Byte) : World :=
  let x := feedPacket b
  let r := x.1
  let row := recKey r.bytes
  let e := if recKind r.bytes = 3 then ((w.part 0).entry (recTensor r.bytes)).filter fun e =>
      decide (e.kind = 1) && decide (row < e.records) && !w.homesRow 0 e row && !w.comingRow e row else none
  let away := if recKind r.bytes = 3 then w.forwardTo 0 (recTensor r.bytes) row else none
  match away with
  | some q =>
    let w := if x.2 = 0 then (w.tick .hop 0 0x090).tick .nmr (e.elim (w.firstStack 0) fun e => w.rowStack 0 e row) 0x098 else w
    w.sendPacket t 0x03 q (ioSource 8) (mkTag 7 2 0) (globalAddr q (w.regField (Block.hop.addr 0 0x008) 0 48))
      (decide (0 < x.2)) false b
  | none =>
    if w.jobRuns 0 = false then w
    else if e.isSome then w.nmrStop t 0 (e.elim 0 fun e => w.rowStack 0 e row) 0x33 (recTensor r.bytes) row
    else (w.ringPut b).updHop fun h => { h with intake := if x.2 = 0 then h.intake ++ [r] else joinPart r h.intake }

/-- A CLOSE marker of a position: a record of KIND 0 whose KEY is the batch. -/
def markerImage (n now : Nat) : List Byte := [0, 0, 0, 32, 0, 0, 0, 0] ++ beBytes 8 now ++ beBytes 8 n ++ List.replicate 8 0

/-- A home takes a CLOSE marker and applies the batch once markers of every position are in (R511). -/
def World.takeMarker (w : World) (t : Sid) (position : Nat) (b : List Byte) : World :=
  if w.jobRuns 0 = false then w
  else
    (w.updHop fun h => { h with markers := AMap.upd [] h.markers (recKey b) fun ps => if ps.contains position then ps else ps ++ [position] }).settleBatches
      t 2

/-! ### Closing a batch (R511, R513) -/

/-- Sends the CLOSE markers of batch `n`. -/
def World.sendMarkers (w : World) (t : Sid) (n : Nat) : World :=
  w.allPositions.foldl (fun w p =>
    if p = w.ownPosition then w.takeMarker t p (markerImage n t.now)
    else
      (w.updHop fun h => { h with markersOut := h.markersOut + 1 }).sendPacket t 0x03 p (ioSource 8) (mkTag 7 3 0)
        (globalAddr p (w.regField (Block.hop.addr 0 0x008) 0 48)) true false (markerImage n t.now)) w

/-- Records that wait while the log replays, of a batch that closes meanwhile, are late (R513). -/
def World.lateWaiting (w : World) (t : Sid) (n : Nat) : World :=
  let late := (w.hop.receive.filter fun x => decide (x.batch ≤ n)).length
  let w := (List.range late).foldl (fun w _ => w.lateRecord t (n + 1)) w
  w.updHop fun h => { h with receive := h.receive.map fun x => { x with batch := max x.batch (n + 1) } }

/-- BATCH_CLOSE: the next open batch closes FEED_GRACE_US after its cut time, once every record of it is on its way (R510, R511, R517); while
the log replays nothing is sent for it (R513). -/
def execBatchClose (batch : Nat) (s : State) : Host.Outcome State Fault Refusal :=
  .next (s.serve fun w =>
    let t := s.sid
    if w.jobRuns 0 = false ∨ batch ≠ w.hop.closed ∨ w.canSend = false
        ∨ t.now < w.hop.cutAt (w.part 0).c0 batch + w.hop.graceUs * 1000 then w
    else if w.hop.replaying then (w.lateWaiting t batch).updHop fun h => { h with closed := batch + 1 }
    else
      let w := w.routeWaiting t batch
      if w.hop.receive.any fun x => decide (x.batch ≤ batch) then w
      else (w.updHop fun h => { h with closed := batch + 1 }).sendMarkers t batch)

/-- The batch that a switch makes current is applied everywhere: its room in the rings is granted again, and records that wait for room go (R517). -/
def World.freeRings (w : World) (t : Sid) (n : Nat) : World :=
  let w := w.updHop fun h => { h with inRings := h.inRings.filter fun y => decide (n < y.2.1) }
  if w.canSend ∧ w.hop.replaying = false then w.routeWaiting t (2 ^ 64) else w

/-- The re-execution ends once the log holds no further batch (R513): what waited is routed, and the batches that closed
meanwhile are closed here. -/
def World.endReplay (w : World) (t : Sid) : World :=
  let n := w.hop.applied
  if w.hop.replaying = false ∨ (w.hop.log.any fun y => decide (n ≤ y.1)) then w
  else
    let w := (w.updHop fun h => { h with replaying := false, closed := max n h.closed }).routeWaiting t w.hop.closed
    (List.range (w.hop.closed - n)).foldl (fun w i => w.sendMarkers t (n + i)) w

/-- Hopper's condition of R27 for the barrier of step `n`: batch n + 1 is applied and its markers are acknowledged. -/
def World.hopReady (w : World) (n : Nat) : Bool := decide (n + 1 < w.hop.applied) && decide (w.hop.markersOut = 0)

end Sys2Proof.Machine
end

