-- ==== Sys2Proof/Machine/Casks.lean ====
section
/-!
DEFINITION. Casks (chapter 13): what a cask holds (R468 to R474, R483), the mirror stop and the Kiln part (R475, R476), journals and
bases (R477 to R480), the manifest and the commit (R481, R482), and when a cask is taken (R484 to R486).
-/

namespace Sys2Proof.Machine

/-! ### Peers and pieces (R471, R472) -/

/-- Changes the cask engine. -/
def World.updCask (w : World) (f : Cask → Cask) : World := { w with cask := f w.cask }

/-- Whether the module keeps casks in its group: partition 0 of a domain whose groups have at least 3 active positions (R471). -/
def World.inGroup (w : World) : Bool := w.fab.position.isSome && decide (3 ≤ w.config.activeSlots)
/-- The other active positions of the group, ascending. -/
def World.peers (w : World) : List Nat :=
  ((List.range w.config.activeSlots).map (w.ownPosition / 16 * 16 + ·)).filter fun p => decide (p ≠ w.ownPosition)

/-- Data stripes of an object and its parity stripe (R471). -/
def stripesOf (n : Nat) (b : List Byte) : List (List Byte) :=
  let len := ceilDiv b.length n
  let data := (List.range n).map fun k => slice b (k * len) len
  data ++ [data.foldl (fun a x => a.zipWith (· ^^^ ·) x) (List.replicate len 0)]

/-- Bytes of a piece that one packet carries beside its 32-byte header. -/
def pieceBytes : Nat := 2016

/-- The payload of a CASK packet: `kind` as in `CPiece`, plus 8 when the piece goes back to its owner; 4 asks for the pieces of a
cask, 7 ends the answer. -/
def pieceImage (kind : Nat) (x : CPiece) : List Byte :=
  leBytes 1 kind ++ leBytes 1 x.part ++ leBytes 2 x.owner ++ leBytes 4 x.tensor ++ leBytes 8 x.step ++ leBytes 8 x.index
    ++ leBytes 8 x.offset ++ x.bytes
/-- The piece that a payload spells. -/
def parsePiece (b : List Byte) : CPiece :=
  { kind := leAt b 0 1 % 8, part := leAt b 1 1, owner := leAt b 2 2, tensor := leAt b 4 4, step := leAt b 8 8, index := leAt b 16 8
    offset := leAt b 24 8, bytes := b.drop 32 }

/-- A piece cut to what packets carry. -/
def CPiece.cut (x : CPiece) : List CPiece :=
  (List.range (max 1 (ceilDiv x.bytes.length pieceBytes))).map fun i =>
    { x with offset := x.offset + pieceBytes * i, bytes := (x.bytes.drop (pieceBytes * i)).take pieceBytes }

/-- Sends a piece to a peer, in packets with a tag of instance `inst`: 4 stripes and manifests, 5 journal entries, 8 bases. -/
def World.sendPiece (t : Sid) (inst : Nat) (w : World) (x : Nat × CPiece) : World :=
  x.2.cut.foldl (fun w y =>
    let w := w.updCask fun c =>
      if inst = 4 then { c with unacked := c.unacked + 1 }
      else if inst = 5 then { c with journalUnacked := c.journalUnacked + 1 }
      else { c with baseUnacked := c.baseUnacked + 1 }
    w.sendPacket t 0x10 x.1 (ioSource 11) (mkTag 7 inst 0) 0 false false (pieceImage y.kind y)) w

/-- Sends an object as stripes to the peers (R471). -/
def World.sendStripes (w : World) (t : Sid) (inst : Nat) (x : CPiece) : World :=
  let ps := w.peers
  let d := w.ownPosition % 16
  ((stripesOf (ps.length - 1) x.bytes).zipIdx).foldl (fun w s =>
    w.sendPiece t inst (ps.getD ((s.2 + d) % ps.length) 0, { x with index := s.2, bytes := s.1 })) w

/-! ### Segments (R468, R474, R483) -/

/-- A segment with its bytes. -/
def segOf (tensor method part base : Nat) (b : List Byte) : CSeg × List Byte :=
  ({ tensor := tensor, method := method, part := part, length := b.length, base := base, digest := shake256 b }, b)

/-- TENSOR_ID of parts that belong to no tensor. -/
def noTensor : Nat := 0xFFFFFFFF

/-- The override table and the forwarding entries of a table. -/
def World.overrideBytesOf (w : World) (e : DirEntry) : List Byte :=
  let fs := (w.part 0).forwarding.filter fun f => decide (f.1 = e.tensor)
  leBytes 8 e.curOver.length ++ overImage e.curOver ++ fs.flatMap fun f => leBytes 6 f.2.1 ++ leBytes 2 f.2.2.1 ++ leBytes 8 f.2.2.2

/-- The HBM part of the Mirror set after the switch that ended step `n`, and the Journal tensors' segments. -/
def World.hbmSegments (w : World) (n : Nat) : List (CSeg × List Byte) :=
  let x := w.part 0
  let b := x.bundle.getD {}
  x.dir.map (fun e =>
      let bytes := w.hbmRead 0 e.curBase e.bytes
      if e.journals then
        segOf e.tensor 1 0 ((w.cask.bases.find? fun y => decide (y.1 = e.tensor)).elim n (·.2)) bytes
      else segOf e.tensor 0 0 n bytes)
    ++ ((x.dir.filter fun e => decide (e.kind = 1)).map fun e => segOf e.tensor 0 3 n (w.overrideBytesOf e))
    ++ [segOf noTensor 0 2 n (w.hbmRead 0 b.statsBase (128 * b.tensors.length)), segOf noTensor 1 4 n []]

/-- The state block of an entry, and the migrant slots that hold rows of it. -/
def World.blockBytesOf (w : World) (r : KilnRule) (e : KilnEntry) : List Byte :=
  w.blockImage 0 r e

/-- The group freeze masks and the freeze commands accepted for later steps (R468). -/
def World.freezeBytes (w : World) : List Byte :=
  let fs := w.kiln.frozen.filter fun x => decide (x.1 = 0)
  let cs := w.kiln.freezes.filter fun c => decide (c.part = 0)
  leBytes 4 fs.length ++ fs.flatMap (fun x => leBytes 2 x.2.1 ++ leBytes 2 x.2.2)
    ++ leBytes 4 cs.length ++ cs.flatMap fun c =>
      leBytes 2 c.rule ++ leBytes 2 c.entry ++ leBytes 1 (if c.freeze then 1 else 0) ++ leBytes 1 (if c.rows.isSome then 1 else 0)
        ++ leBytes 8 c.effective ++ leBytes 2 (c.rows.getD []).length ++ (c.rows.getD []).flatMap (leBytes 8)

/-- The Kiln part of the cask: the blocks of every entry, and the freezes. -/
def World.kilnSegments (w : World) (n : Nat) : List (CSeg × List Byte) :=
  ((w.kilnRules 0).flatMap fun r => r.entries.map fun e =>
      let journal := ((w.part 0).entry e.tensor).elim false DirEntry.journals
      segOf e.tensor (if journal then 1 else 0) 1
        (if journal then (w.cask.bases.find? fun y => decide (y.1 = e.tensor)).elim n (·.2) else n) (w.blockBytesOf r e))
    ++ [segOf noTensor 0 1 n w.freezeBytes]

/-! ### Taking a cask (R473, R475, R476, R484) -/

/-- The casks that a slot must keep (R473). -/
def World.keptCasks (w : World) : List Nat :=
  w.cask.committed.toList ++ w.cask.exportDue.toList
    ++ (if w.config.twinRole = 0 then [] else (w.twin.verified.head?).toList)

/-- Sends the Mirror segments of a list as stripes. -/
def World.mirrorOut (w : World) (t : Sid) (n : Nat) (xs : List (CSeg × List Byte)) : World :=
  (xs.filter fun x => decide (x.1.method = 0)).foldl (fun w x =>
    w.sendStripes t 4 { kind := 0, owner := w.ownPosition, step := n, tensor := x.1.tensor, part := x.1.part, bytes := x.2 }) w

/-- Whether the mirror stop of the cask in progress is in force: it holds the release of the step's work (R475). -/
def World.mirrorStop (w : World) : Bool := w.cask.inProgress.isSome && w.cask.stop.isSome

/-- The mirror stop ends: its length is that of the last cask's stop (R475, R501), and the newest of those whose mean is R486's C. -/
def World.endStop (w : World) (t : Sid) : World :=
  match w.cask.stop with
  | none => w
  | some a => w.updCask fun c =>
    { c with stop := none, lastStopUs := (t.now - a) / 1000, stops := ((t.now - a) / 1000 :: c.stops).take 8 }

/-- The cask of step `n` begins at the boundary (R473, R475): a slot is chosen, or the cask is deferred, and the HBM part leaves. The mirror
stop lasts until the peers have acknowledged it. With fewer than 3 active slots the segments go into the export stream instead, and the
stop lasts until the Kiln part is read (R492). -/
def World.beginCask (w : World) (t : Sid) (n : Nat) : World :=
  match if w.cask.transfer.active ∧ w.inGroup = false then none
      else w.cask.slots.findIdx? fun x => x.elim true fun y => !w.keptCasks.contains y with
  | none => w.tick .csk 0 0x088
  | some i =>
    let gone := (w.cask.slots.getD i none).toList
    let b := (w.part 0).bundle.getD {}
    match w.agentReads t 0 (ioSource 11) (((w.part 0).dir.map fun e => (e.curBase, e.bytes)) ++ [(b.statsBase, 128 * b.tensors.length)]) with
    | (none, w) => w
    | (some w, _) =>
    let xs := w.hbmSegments n
    let w := w.updCask fun c =>
      { c with slots := c.slots.set i (some n)
               reserve := c.reserve.filter fun y => !(gone.contains y.step && (decide (y.kind = 0) || decide (y.kind = 2)))
               inProgress := some n, segments := xs.map (·.1), kilnSent := false, manifest := [], signing := false
               manifestSent := false, reported := false, flag := false, request := false, forced := false
               stop := some t.now
               transfer := if w.inGroup then c.transfer else { step := n, segs := xs.zipIdx.map fun x => (x.2, x.1.2) } }
    if w.inGroup then
      let w := w.mirrorOut t n xs
      if w.cask.unacked = 0 then w.endStop t else w
    else w

/-- KILN_PART_SEND: after the stop the Kiln part of the cask leaves (R476). -/
def execKilnPartSend (s : State) : Host.Outcome State Fault Refusal :=
  .next (s.serve fun w =>
    match w.cask.inProgress with
    | none => w
    | some n =>
      if w.cask.kilnSent ∨ w.jobRuns 0 = false ∨ w.canSend = false ∨ (w.inGroup ∧ w.cask.stop.isSome) then w
      else
        let xs := w.kilnSegments n
        let w := w.updCask fun c =>
          { c with kilnSent := true, segments := c.segments ++ xs.map (·.1)
                   transfer := if w.inGroup then c.transfer
                     else { c.transfer with segs := c.transfer.segs ++ xs.zipIdx.map fun x => (c.segments.length + x.2, x.1.2) } }
        if w.inGroup then w.mirrorOut s.sid n xs else w.endStop s.sid)

/-! ### Journals and bases (R477 to R480) -/

/-- Bytes of journal entries in this module's ring, and the room that the reserve leaves it beside three mirror slots (R472). -/
def World.ringUsed (w : World) : Nat := ((w.cask.reserve.filter fun x => decide (x.kind = 1)).map fun x => x.bytes.length).sum
def World.ringRoom (w : World) : Nat :=
  let b := (w.part 0).bundle.getD {}
  w.config.caskReserve - 3 * landingBytes (w.loadEnv 0) (b.plans.map (·.graph)) b.tensors

/-- One journal entry goes to its two peers (R477, R478). -/
def World.journalOut (t : Sid) (w : World) (x : CPiece) : World :=
  let ps := w.peers
  let w := (w.count (Block.csk.addr 0 0x098) (2 * x.bytes.length)).updCask fun c =>
    { c with journalBytes := AMap.upd 0 c.journalBytes x.tensor (· + x.bytes.length) }
  (w.sendPiece t 5 (ps.getD (x.index % ps.length) 0, x)).sendPiece t 5 (ps.getD ((x.index + 1) % ps.length) 0, x)

/-- The Kiln state of a row as a journal entry carries it: its record and FROZEN. -/
def World.rowState (w : World) (r : KilnRule) (e : KilnEntry) (row : Nat) : List Byte :=
  w.rowRecord 0 r e row ++ leBytes 1 (if w.rowFrozen 0 r e row then 1 else 0)

/-- The journal entries of a table for the step that the last switch ended (R477): its dirty records, and the Kiln's state of them. -/
def World.journalEntries (w : World) (n : Nat) (e : DirEntry) : List CPiece :=
  let piece : CPiece := { kind := 1, owner := w.ownPosition, step := n, tensor := e.tensor }
  let kiln := w.kilnEntryOf 0 e.tensor
  e.catchup.flatMap (fun r =>
      { piece with index := r, bytes := w.hbmRead 0 (e.curBase + r * e.recordBytes) e.recordBytes }
        :: (match kiln with
            | some (_, _, rule, k) => if k.rowTable then [{ piece with part := 1, index := r, bytes := w.rowState rule k r }] else []
            | none => []))
    ++ (match kiln with
        | some (_, _, rule, k) =>
          if k.rowTable ∨ e.catchup = [] then [] else [{ piece with part := 1, bytes := w.blockBytesOf rule k }]
        | none => [])

/-- JOURNAL_SEND: the journal of one table (R477), with CSK_JOURNAL_HEAVY once a step (R474). -/
def World.journalTable (w : World) (t : Sid) (e : DirEntry) : World :=
  if w.inGroup = false ∨ e.journals = false ∨ (w.part 0).step = 0 then w
  else
    let n := (w.part 0).step - 1
    let w := if e.records < 20 * e.catchup.length ∧ w.cask.heavyStep ≠ some n then
        (w.tick .csk 0 0x0A0).updCask fun c => { c with heavyStep := some n } else w
    match w.agentReads t 0 (ioSource 11) (e.catchup.map fun r => (e.curBase + r * e.recordBytes, e.recordBytes)) with
    | (none, w) => w
    | (some w, _) => (w.journalEntries n e).foldl (World.journalOut t) w

/-- The bytes of a feed log entry. -/
def feedLogBytes (xs : List FeedRec) : List Byte :=
  xs.flatMap fun x => leBytes 4 x.source ++ leBytes 8 x.seq ++ leBytes 2 x.place ++ leBytes 2 x.bytes.length ++ x.bytes
/-- The records of a feed log entry of at most `fuel` records. -/
def feedLogRecords (batch : Nat) : Nat → List Byte → List FeedRec
  | 0, _ => []
  | fuel + 1, b =>
    if b.length < 16 then []
    else
      let n := leAt b 14 2
      { batch := batch, source := leAt b 0 4, seq := leAt b 4 8, place := leAt b 12 2, bytes := slice b 16 n }
        :: feedLogRecords batch fuel (b.drop (16 + n))

/-- The feed log entry of the batch that became current at the switch ending step `n` (R477, R512). -/
def World.journalFeed (w : World) (t : Sid) (n : Nat) : World :=
  match w.hop.log.find? fun y => decide (y.1 = n + 1) with
  | none => w
  | some y =>
    if w.inGroup = false ∨ y.2 = [] then w
    else w.journalOut t
      { kind := 1, owner := w.ownPosition, step := n, tensor := noTensor, part := 4, index := n + 1, bytes := feedLogBytes y.2 }

/-- Whether a new base of a tensor is due (R479); without a base none can be committed (R481). -/
def World.baseDue (w : World) (e : DirEntry) : Bool :=
  (w.cask.bases.all fun y => decide (y.1 ≠ e.tensor)) || decide (e.bytes < AMap.get 0 w.cask.journalBytes e.tensor)
    || decide (3 * w.ringRoom ≤ 4 * w.ringUsed)

/-- BASE_START: a full copy of a Journal tensor, its records and Kiln rows, striped like a Mirror object (R479). Every record is of
the step that has just ended. -/
def execBaseStart (tensor : Nat) (s : State) : Host.Outcome State Fault Refusal :=
  .next (s.serve fun w =>
    match (w.part 0).entry tensor, (w.part 0).lastSwitched with
    | some e, some n =>
      if w.jobRuns 0 = false ∨ w.inGroup = false ∨ e.journals = false ∨ w.cask.baseRun.isSome ∨ w.canSend = false
          ∨ w.baseDue e = false then w
      else
        match w.agentReads s.sid 0 (ioSource 11) [(e.curBase, e.bytes)] with
        | (none, w) => w
        | (some w, _) =>
        let piece : CPiece := { kind := 3, owner := w.ownPosition, step := n, tensor := tensor }
        let w := w.updCask fun c => { c with baseRun := some (tensor, n), journalBytes := AMap.set 0 c.journalBytes tensor 0 }
        let w := w.sendStripes s.sid 8 { piece with bytes := w.hbmRead 0 e.curBase e.bytes }
        match w.kilnEntryOf 0 tensor with
        | some (_, _, r, k) => w.sendStripes s.sid 8 { piece with part := 1, bytes := w.blockBytesOf r k }
        | none => w
    | _, _ => w)

/-- A base whose last piece is acknowledged is complete (R479): its records' step has switched. -/
def World.settleBase (w : World) : World :=
  match w.cask.baseRun with
  | none => w
  | some b =>
    if w.cask.baseUnacked ≠ 0 then w
    else w.updCask fun c => { c with baseRun := none, bases := (c.bases.filter fun y => decide (y.1 ≠ b.1)) ++ [b] }

/-- An acknowledgement of a piece; that of the last stripe of the HBM part ends the mirror stop (R475). -/
def World.pieceAcked (w : World) (t : Sid) (inst : Nat) : World :=
  let w := (w.updCask fun c =>
    if inst = 4 then { c with unacked := c.unacked - 1 }
    else if inst = 5 then { c with journalUnacked := c.journalUnacked - 1 }
    else if inst = 8 then { c with baseUnacked := c.baseUnacked - 1 }
    else c).settleBase
  if inst = 4 ∧ w.cask.unacked = 0 then w.endStop t else w

/-! ### Manifest and commit (R481, R482) -/

/-- A segment entry (R483). -/
def CSeg.image (x : CSeg) : List Byte :=
  leBytes 4 x.tensor ++ leBytes 1 x.method ++ leBytes 1 x.part ++ [0, 0] ++ leBytes 8 x.length ++ leBytes 8 x.base ++ slice x.digest 0 32
    ++ List.replicate 8 0
/-- The segment that an entry spells. -/
def parseSeg (b : List Byte) : CSeg :=
  { tensor := leAt b 0 4, method := leAt b 4 1, part := leAt b 5 1, length := leAt b 8 8, base := leAt b 16 8, digest := slice b 24 32 }

/-- The manifest of the cask of step `n`, without its signature (R482). -/
def World.manifestBody (w : World) (now fw n : Nat) : List Byte :=
  let x := w.part 0
  let b := x.bundle.getD {}
  let segs := w.cask.segments
  let from' := (w.cask.bases.map (·.2)).foldl min n
  leBytes 4 0x4B534143 ++ leBytes 2 1 ++ leBytes 2 segs.length ++ leBytes 4 w.config.domainId ++ leBytes 2 w.ownPosition
    ++ leBytes 2 (if w.fab.position.isSome then w.config.positions else 1) ++ leBytes 8 n ++ leBytes 8 (w.cycleOf (n + 1))
    ++ leBytes 8 x.jobSeed.toNat ++ leBytes 8 (w.hop.cut.getD allOnes64) ++ slice b.digest 0 32 ++ leBytes 4 fw ++ leBytes 4 0
    ++ leBytes 8 now ++ leBytes 8 from' ++ List.replicate 152 0 ++ segs.flatMap CSeg.image

/-- Bytes of an XMSS^MT signature. -/
def signatureBytes : Nat := 18469

/-- Whether everything that a manifest promises lies in the peers' reserves (R481, conditions 1 and 2). -/
def World.caskReady (w : World) : Bool :=
  w.cask.kilnSent && decide (w.cask.unacked = 0) && decide (w.cask.journalUnacked = 0)
    && ((w.part 0).dir.all fun e => !e.journals || (w.cask.bases.any fun y => decide (y.1 = e.tensor)))

/-- The domain cask of step `n` is committed: CSK_LAST, the counts of R487, the mirror slots' standing (R481), and the largest stop over positions
(R486). -/
def World.committedCask (w : World) (n stopUs : Nat) : World :=
  let every := w.regField (Block.csk.addr 0 0x000) 40 8
  (w.tick .csk 0 0x080).updCask fun c =>
    { c with stops := stopUs :: c.stops.drop 1, committed := some n, casks := c.casks + 1, inProgress := none, covered := true
             exportDue := if every ≠ 0 ∧ (c.casks + 1) % every = 0 ∧ c.exportDue.isNone ∧ w.inGroup then some n else c.exportDue }

/-- CASK_DONE of the domain head (R481). -/
def World.caskDone (w : World) (t : Sid) (n : Nat) : World := w.raise t (ioSource 11) 0x140 (n % 2 ^ 32)

/-- The module's own commit: reported up the tree, or the domain's where no fabric position is held. -/
def World.reportCommit (w : World) (t : Sid) (n : Nat) : World :=
  let w := w.updCask fun c => { c with reported := true }
  if w.fab.position.isSome then
    w.emit (.tree true
      { kind := 1, barrier := 1, entries := 1, step := n, amax := [(0, BitVec.ofNat 32 w.cask.lastStopUs)], fromPosition := w.ownPosition })
  else (w.caskDone t n).committedCask n w.cask.lastStopUs

/-- Sends the manifest to every peer, COMMIT last (R481, conditions 3 and 4). -/
def World.sendManifest (w : World) (t : Sid) (n : Nat) : World :=
  let m := w.cask.manifest
  let body := m.take (m.length - 8)
  let piece : CPiece := { kind := 2, owner := w.ownPosition, step := n }
  let w := w.peers.foldl (fun w p => w.sendPiece t 4 (p, { piece with bytes := body })) w
  w.peers.foldl (fun w p =>
    (w.updCask fun c => { c with unacked := c.unacked + 1 }).sendPacket t 0x10 p (ioSource 11) (mkTag 7 4 0) 0 true false
      (pieceImage 2 { piece with offset := body.length, bytes := m.drop body.length })) w

/-- CASK_COMMIT: when stripes and journal are in place the manifest is signed, then written to every peer, and when the peers have it
the commit is reported (R481). -/
def execCaskCommit (s : State) : Host.Outcome State Fault Refusal :=
  match s.w.cask.inProgress with
  | none => .next s
  | some n =>
    let w := s.w
    let c := w.cask
    if s.inService = false ∨ w.jobRuns 0 = false ∨ w.caskReady = false ∨ c.reported then .next s
    else if c.manifest = [] then
      if c.signing then .next s
      else
        .next { s with
          sec := { s.sec with signQueue := s.sec.signQueue ++ [.manifest (w.manifestBody s.sid.now s.sec.fwVersion.toNat n) n] }
          w := w.updCask fun c => { c with signing := true } }
    else if w.inGroup = false then
      .next { s with w := w.updCask fun c => { c with exportDue := some n } }
    else if c.manifestSent = false then
      if w.canSend then
        .next { s with w := (w.sendManifest s.sid n).updCask fun c => { c with manifestSent := true } }
      else .next s
    else .next { s with w := w.reportCommit s.sid n }

/-! ### When casks are taken (R484 to R486, R498) -/

/-- CSK_REQUEST: NOW asks for a cask at the next step boundary (R484, R499). -/
def execCskRequest (s : State) : Host.Outcome State Fault Refusal :=
  .next (s.serve fun w => w.updCask fun c => { c with request := true })

/-- The cumulative terms of RISK (R485). -/
def World.riskTerms (w : World) : Nat × Nat × Nat × Nat :=
  let ctr := fun (a : Nat) => (AMap.get 0 w.counters a : Word).toNat
  let e := ((List.range 8).map fun i => ctr (Block.hbc.addr i 0x0A0)).sum + ctr (Block.kln.addr 0 0x110)
  let l := ((List.range 48).map fun i => ctr (Block.fabPort.addr i 0x098)).sum + w.cask.linkRetrains
  (e, l, w.cask.stretchWindows, ctr (Block.pwr.addr 0 0x090))

/-- RISK_EVAL: RISK over the trailing 60 s, and the flag (R485). -/
def execRiskEval (s : State) : Host.Outcome State Fault Refusal :=
  .next (s.serve fun w =>
    let x := w.riskTerms
    let now := s.sid.now
    let old := (w.cask.riskHist.find? fun y => decide (y.1 + 60000000000 ≤ now)).getD
      ((w.cask.riskHist.getLast?).getD (now, x))
    let risk := (x.1 - old.2.1) + 64 * (x.2.1 - old.2.2.1) + 16 * (x.2.2.1 - old.2.2.2.1) + 256 * (x.2.2.2 - old.2.2.2.2)
    let limit := w.regField (Block.csk.addr 0 0x000) 0 16
    w.updCask fun c =>
      { c with risk := min risk (2 ^ 32 - 1)
               riskHist := ((now, x) :: c.riskHist).take 62
               flag := c.flag || (decide (limit ≠ 0) && decide (limit ≤ risk) && decide (w.config.positions ≤ 256)) })

/-- The interval of R486 in steps, from µs: round(√(2 C F) / P), bounded. -/
def World.caskInterval (w : World) (now : Nat) : Nat :=
  let ctl := Block.csk.addr 0 0x000
  let lo := w.regField ctl 32 8
  let hi := max 1 (w.regField ctl 16 16)
  let fails := (w.cask.takeovers.filter fun x => decide (now < x + 2592000000000000)).length
  let c8 := w.cask.stops.length
  let c := if c8 = 0 then 0 else w.cask.stops.sum / c8
  let f := if fails = 0 then 3600000000 * max 1 (w.regField ctl 48 8) else 2592000000000 / fails
  let bs := w.cask.boundaryTimes
  let p := if bs.length < 2 then 1 else max 1 ((bs.headD 0 - bs.getLastD 0) / (bs.length - 1) / 1000)
  let i := (isqrt (8 * c * f / (p * p)) + 1) / 2
  min hi (max lo i)

/-- The head's decision for the boundary that ends step `n`, given the flags that the entries carry (R484 to R486). -/
def World.caskDecision (w : World) (now n flags : Nat) : Bool :=
  let ctl := Block.csk.addr 0 0x000
  let since := w.cask.committed.elim (n + 1) fun c => n - c
  let limit := if w.config.positions ≤ 256 then max 1 (w.regField ctl 16 16) else w.caskInterval now
  (decide (0 < flags) || decide (limit ≤ since)) && (w.cask.committed.isNone || decide (w.regField ctl 32 8 ≤ since))

end Sys2Proof.Machine
end

