-- ==== Sys2Proof/Machine/Reduce.lean ====
section
/-!
DEFINITION. The collective engine (R414, R415): partial cells of a REDUCE tensor, their sum at the homes, and the result.
-/

namespace Sys2Proof.Machine

/-- The REDUCE map of a tensor of partition 0. -/
def World.reduceMap (w : World) (id : Nat) : Option (Tensor × ShardMap) :=
  (w.tensor 0 id).bind fun x => x.map.bind fun m => if m.mode = 3 then some (x, m) else none

/-- The run of elements that TARGET's map places on the position of dense index `d`: first and past the last. -/
def World.reduceRange (w : World) (m : ShardMap) (d : Nat) : Nat × Nat :=
  match w.tensor 0 m.target with
  | none => (0, 0)
  | some x => let h := x.homeRange w.config.positions d; (h.1 * x.cols, h.2 * x.cols)

/-- The shards that a dense index homes (R410). -/
def shardsOf (positions d : Nat) : List Nat :=
  let lo := ceilDiv (d * 4096) positions
  (List.range (ceilDiv ((d + 1) * 4096) positions - lo)).map (lo + ·)

/-- This module's partial cell of element `e` (R414, step 1). -/
def World.partialCell (w : World) (x : Tensor) (m : ShardMap) (shards : List Nat) (e : Nat) : Int × Bool × Bool :=
  let r := x.recipe
  shards.foldl (fun a s =>
    let v := fp32.decode (leNat (w.hbmRead 0 (m.staging + (s - shards.headD 0) * m.stageStride + 4 * e) 4))
    let mode := if r.stochastic then
        RMode.sr (roundingBits (w.part 0).jobSeed.toNat x.id (w.part 0).step (s * x.elements + e)) else .rne
    cellAdd r.w128 a (contribution r.w128 r.windowT mode v).1) (0, false, false)

/-- The result of a home's range once the cells of every position are in (R414, step 3): FP32 elements at OUT, GRAD_READY, and the
report up the tree. -/
def World.finishReduce (w : World) (t : Sid) (x : Tensor) (m : ShardMap) (first n : Nat) : World :=
  let r := x.recipe
  let b := cellBytes r.w128
  let src := ioSource 0
  let c := w.hbmFetch src 0 m.accum (b * n)
  let vals := (List.range n).map fun i => readCell r.w128 r.windowT (parseCell r.w128 (slice c.1 (b * i) b))
  let nOver := (vals.filter (·.2.1)).length
  let w := c.2.hbmApply t src w.ownPosition 0 m.out (vals.flatMap fun v => leBytes 4 v.1)
  let w := w.count (Block.fab.addr 0 0x0B8) nOver
  let w := if 0 < nOver ∧ w.fab.raisedOverflow.contains x.id = false then
      { w.raise t src 0x10A x.id with fab := { (w.raise t src 0x10A x.id).fab with raisedOverflow := w.fab.raisedOverflow ++ [x.id] } }
    else w
  let w := { w with fab := { w.fab with reduces := w.fab.reduces.filter fun y => decide (y.tensor ≠ x.id) } }
  (w.toKiln 0 0 [m.target, (w.part 0).step, m.out, first, n] []).emit
    (.tree true { kind := 2, barrier := m.barrier, entries := 1, step := (w.part 0).step, fromPosition := w.ownPosition })

/-- Cells of one position reach the home, from element `i` of its range (R414, step 3); the first of a generation find ACCUM zeroed. -/
def World.addReduce (w : World) (t : Sid) (x : Tensor) (m : ShardMap) (position i : Nat) (cells : List (Int × Bool × Bool)) : World :=
  let r := x.recipe
  let b := cellBytes r.w128
  let src := ioSource 0
  let range := w.reduceRange m (w.loadEnv 0).dense
  let n := range.2 - range.1
  let old := w.fab.reduces.find? fun y => decide (y.tensor = x.id)
  if w.hbmFailed 0 m.accum (b * n) ∨ w.hbmFailed 0 m.out (4 * n) then w.agentStop t 0 src
  else
  let w := if old.isSome then w else (w.hbmStore 0 m.accum (List.replicate (b * n) 0)).hbmCount 0 m.accum (b * n) true
  let sum := cells.zipIdx.flatMap fun c =>
    cellImage r.w128 (cellAdd r.w128 (parseCell r.w128 (w.hbmRead 0 (m.accum + b * (i + c.2)) b)) c.1)
  let w := (w.hbmCount 0 (m.accum + b * i) (b * cells.length) false).hbmApply t src w.ownPosition 0 (m.accum + b * i) sum
  let y : Reduce := old.getD { tensor := x.id }
  let y := { y with got := AMap.upd 0 y.got position (· + cells.length) }
  let w := { w with fab := { w.fab with reduces := (w.fab.reduces.filter fun z => decide (z.tensor ≠ x.id)) ++ [y] } }
  if (List.range w.config.positions).all fun d => decide (AMap.get 0 y.got (w.config.positionAt d) = n) then
    w.finishReduce t x m range.1 n
  else w

/-- Sends one home range's partial cells to its home (R414, step 2). -/
def World.sendReduce (t : Sid) (x : Tensor) (m : ShardMap) (w : World) (d : Nat) : World :=
  let range := w.reduceRange m d
  let shards := shardsOf w.config.positions (w.loadEnv 0).dense
  let b := cellBytes x.recipe.w128
  let per := 2048 / b
  let n := range.2 - range.1
  let home := w.config.positionAt d
  (List.range (ceilDiv n per)).foldl (fun w i =>
    let k := min per (n - per * i)
    let cells := (List.range k).map fun j => w.partialCell x m shards (range.1 + per * i + j)
    match w.agentReads t 0 (ioSource 0) (shards.map fun s => (m.staging + (s - shards.headD 0) * m.stageStride + 4 * (range.1 + per * i), 4 * k)) with
    | (none, w) => w
    | (some w, _) =>
    if home = w.ownPosition then w.addReduce t x m home (per * i) cells
    else
      w.sendPacket t 0x0D home (ioSource 0) (mkTag 7 6 0) (globalAddr home (m.accum + b * per * i)) false false
        (cells.flatMap (cellImage x.recipe.w128))) w

/-- Whether every local participant of a REDUCE tensor's barrier has entered the generation that the map names. -/
def World.reduceDue (w : World) (m : ShardMap) : Bool :=
  let b := w.bar (domBarKey 0 m.barrier)
  decide (b.rounds + 1 = m.generation) && decide (b.expected ≤ b.cur)

/-- REDUCE_START: the collective engine forms this module's partial cells and sends them, once in a run (R414). -/
def execReduceStart (tensor : Nat) (s : State) : Host.Outcome State Fault Refusal :=
  .next (s.serve fun w =>
    match w.reduceMap tensor with
    | none => w
    | some (x, m) =>
      if w.jobRuns 0 = false ∨ w.fab.position = none ∨ w.canSend = false ∨ w.fab.reduceSent.contains tensor ∨ w.reduceDue m = false then w
      else
        (List.range w.config.positions).foldl (World.sendReduce s.sid x m)
          { w with fab := { w.fab with reduceSent := w.fab.reduceSent ++ [tensor] } })

/-- Window cells reach this home (R414, step 3). -/
def World.takeReduce (w : World) (t : Sid) (q : Packet) : World :=
  let off := addrOffset q.address.toNat
  let range := fun (m : ShardMap) => let r := w.reduceRange m (w.loadEnv 0).dense; r.2 - r.1
  let ms := (w.part 0).bundle.elim [] fun b => b.tensors.filterMap fun x => w.reduceMap x.id
  match ms.find? fun y => decide (y.2.accum ≤ off) && decide (off < y.2.accum + cellBytes y.1.recipe.w128 * range y.2) with
  | none => w
  | some (x, m) =>
    if w.jobRuns 0 = false then w
    else
      let b := cellBytes x.recipe.w128
      w.addReduce t x m q.src.toNat ((off - m.accum) / b)
        ((List.range (q.payload.length / b)).map fun i => parseCell x.recipe.w128 (slice q.payload (b * i) b))

end Sys2Proof.Machine
end

