-- ==== Sys2Proof/Machine/Circuits.lean ====
section
/-!
DEFINITION. The circuit table (R408, R409): every module computes the same from the REDUCE maps of the bundle and the cask plan.
-/

namespace Sys2Proof.Machine

/-- Most slots of a frame's 16 that a link has reserved (R408). -/
def linkSlots : Nat := 12

/-- The path of a circuit: the minimal route over the link k0 (R400, R401), as physical modules with the port that each leaves by. -/
def World.circuitPath (w : World) (src dst : Nat) : List (Nat × Nat) :=
  match w.physicalOf src, w.physicalOf dst with
  | some a, some b =>
    let c := w.config
    let hop := fun (g s t : Nat) => if s = t then [] else [(g * 17 + s, intraPort s t)]
    if a / 17 = b / 17 then hop (a / 17) (a % 17) (b % 17)
    else
      let k := if c.pairLinks = 0 then 0 else (src + dst) % c.pairLinks
      let x := c.linkAt (a / 17) (b / 17) k
      let y := c.linkAt (b / 17) (a / 17) k
      hop (a / 17) (a % 17) x.1 ++ [(a / 17 * 17 + x.1, 16 + x.2)] ++ hop (b / 17) y.1 (b % 17)
  | _, _ => []

/-- The pairs that want a circuit: every position and every home of a REDUCE tensor (R414), and the positions of every group between whom
casks travel (R471). -/
def World.circuitPairs (w : World) : List (Nat × Nat) :=
  let ps := (List.range w.config.positions).map w.config.positionAt
  let maps := ((w.part 0).bundle.elim [] (·.tensors)).filterMap fun x => w.reduceMap x.id
  let homes := ps.filter fun q => maps.any fun m => let r := w.reduceRange m.2 (w.config.dense q); decide (r.1 < r.2)
  let casks := decide (3 ≤ w.config.activeSlots) && (w.part 0).bundle.isSome
  ps.flatMap fun a => (ps.filter fun b =>
    decide (a ≠ b) && (homes.contains b || (casks && decide (a / 16 = b / 16)))).map fun b => (a, b)

/-- Adds the circuit of a pair to a table with the slots that every link has reserved: the lowest slot that all the links of its path have free, while
each has fewer than 12 reserved (R408); a pair that finds none has no circuit. -/
def addCircuit (path : List (Nat × Nat)) (x : List Circuit × AMap (List Nat)) (a b : Nat) : List Circuit × AMap (List Nat) :=
  let key := fun (l : Nat × Nat) => 48 * l.1 + l.2
  let used := path.map fun l => AMap.get [] x.2 (key l)
  let slot := if path.isEmpty ∨ used.any (fun u => decide (linkSlots ≤ u.length)) then none
    else (List.range 16).find? fun s => used.all fun u => !u.contains s
  match slot with
  | none => x
  | some s =>
    (x.1 ++ [{ src := a, dst := b, path := path, slots := [s] }],
     path.foldl (fun m l => AMap.set [] m (key l) (AMap.get [] m (key l) ++ [s])) x.2)

/-- The circuit table, computed at job start and at every drain (R409). One slot for each pair, in ascending order of source and destination
(DESIGN CHOICE, assumption 170: the spec gives no rule by which slots are shared out). -/
def World.circuitTable (w : World) : List Circuit :=
  if w.fab.position = none then []
  else (w.circuitPairs.foldl (fun x p => addCircuit (w.circuitPath p.1 p.2) x p.1 p.2) ([], [])).1

/-- Installs the circuit table; no circuit has fallen back. -/
def World.setCircuits (w : World) : World := { w with fab := { w.fab with circuits := w.circuitTable, circuitsDown := [] } }

end Sys2Proof.Machine
end

