-- ==== Sys2Proof/Machine/Answer.lean ====
section
/-!
DEFINITION. Responses of the Uzolo port (R545, R549, R554), on the link or into a ring's slot, and register accesses that wait for another
position (R388, R576).
-/

namespace Sys2Proof.Machine

/-- Response STATUS codes (R549). -/
def stOk : Nat := 0
def stBadParcel : Nat := 1
def stAuth : Nat := 2
def stReplay : Nat := 3
def stPrivilege : Nat := 4
def stNotReady : Nat := 5
def stBusy : Nat := 6
def stReject : Nat := 7
def stRange : Nat := 8
def stRaceRefused : Nat := 9
def stExhausted : Nat := 10
def stVerify : Nat := 11
def stState : Nat := 12

/-- A window, and a ring. -/
def World.window (w : World) (i : Nat) : Window := AMap.get {} w.uzo.windows i
def World.ring (w : World) (i : Nat) : Ring := AMap.get {} w.uzo.rings i
/-- Changes the Uzolo port. -/
def World.updUzo (w : World) (f : Uzo → Uzo) : World := { w with uzo := f w.uzo }

/-- Payload bytes of a parcel at most. -/
def parcelBytes : Nat := 8192
/-- Bytes of a ring slot, and where its response begins (R554). -/
def slotBytes : Nat := 32768
def responseAt : Nat := 16384

/-- The payloads of the parcels that carry a response (R545). -/
def parcelPayloads (b : List Byte) : List (List Byte) :=
  (List.range (max 1 (ceilDiv b.length parcelBytes))).map fun i => (b.drop (parcelBytes * i)).take parcelBytes

/-- A parcel header (R545). -/
def parcelHeader (type flags privilege length tag partition status detail seq reserved : Nat) : List Byte :=
  leBytes 4 0x4C435A55 ++ leBytes 2 type ++ leBytes 1 flags ++ leBytes 1 privilege ++ leBytes 4 length ++ leBytes 4 tag
    ++ leBytes 1 partition ++ leBytes 1 status ++ leBytes 2 detail ++ leBytes 8 seq ++ leBytes 4 reserved

/-- FLAGS of part `i` of a response of `n` parcels. -/
def responseFlags (i n : Nat) : Nat := if i + 1 < n then 5 else 1

/-- A write of the module into a window's partition: none into a current version while the job runs (R553). -/
def World.windowWrite (w : World) (t : Sid) (p a : Nat) (bs : List Byte) : World :=
  if w.jobRuns p ∧ (w.currentHit p a bs.length).isSome then w else w.hbmWrite t (ioSource 5) w.ownPosition p a bs

/-- A parcel leaves on the Uzolo link; how often its frames are sent again for a failed CRC is a free value (R542). -/
def World.sendParcel (w : World) (o : Output) : World :=
  let again := (Config.frameResends [48, (AMap.get 0 w.counters (Block.uzo.addr 0 0x088)).toNat]).toNat
  ((w.tick .uzo 0 0x088).count (Block.uzo.addr 0 0x0B0) again).emit o

/-- A response goes to where its request came from: parcels on the link, or the slot of a ring, as far as it has room (assumption 103). -/
def World.answer (w : World) (t : Sid) (o : Origin) (type : Nat) (q : Parcel) (status detail : Nat) (payload : List Byte) : World :=
  let ps := parcelPayloads payload
  match o with
  | none =>
    ps.zipIdx.foldl (fun w c =>
      w.sendParcel (.parcel type (responseFlags c.2 ps.length) q.tag q.partition status detail c.1)) w
  | some (r, slot) =>
    let ring := w.ring r
    let win := w.window ring.window
    let image := ps.zipIdx.flatMap fun c =>
      parcelHeader type (responseFlags c.2 ps.length) 0 c.1.length q.tag.toNat q.partition.toNat status detail 0 0 ++ c.1
    if ring.configured ∧ win.open_ then
      w.windowWrite t win.part (win.offset + ring.offset + slot * slotBytes + responseAt) (image.take (slotBytes - responseAt))
    else w

/-! ### Register accesses at other positions (R388, R397, R576) -/

/-- The fabric request of a forwarded register access. -/
def World.sendReg (t : Sid) (w : World) (x : RegWait) : World :=
  let a := leAt x.request.payload 0 8
  w.sendPacket t (if x.write then 0x03 else 0x01) (addrPosition a) (ioSource 7) x.tag a false false
    (if x.write then slice x.request.payload 8 8 else leBytes 4 8)

/-- Sends the forwarded accesses that a drain has held back. -/
def World.sendRegs (w : World) (t : Sid) : World :=
  if w.canSend = false then w
  else
    let due := w.uzo.regWaits.filter fun x => !x.sent
    due.foldl (World.sendReg t) (w.updUzo fun u => { u with regWaits := u.regWaits.map fun x => { x with sent := true } })

/-- The restore that a RESTORE parcel asked for has ended (R550). -/
def World.answerRestore (w : World) (t : Sid) (status : Nat) : World :=
  match w.uzo.restoreWait with
  | none => w
  | some (o, q) => (w.updUzo fun u => { u with restoreWait := none }).answer t o 0x0016 q status 0 []

end Sys2Proof.Machine
end

