-- ==== Sys2Proof/Machine/Power.lean ====
section
/-!
DEFINITION. Power, clocks and the sideband inputs (R18 to R24, R441, R495, R619 to R640): every command of that family but
those that start the module.
-/

namespace Sys2Proof.Machine

/-- The power controller runs in every state but OFF. -/
def State.powered (s : State) : Bool := decide (s.pwr.phase ≠ .off)

/-! ### PWR_ALERT and ALERT_L (R640, R647) -/

/-- Whether ALERT_L is low (R640). -/
def World.alertLow (w : World) : Bool :=
  let v := w.reg (Block.pwr.addr 0 0x018)
  decide (fieldOf v 0 9 &&& fieldOf v 16 9 ≠ 0)

/-- Drives ALERT_L after a change of PWR_ALERT. -/
def World.driveAlert (w : World) (was : Bool) : World := if w.alertLow = was then w else w.emit (.alert w.alertLow)

/-- Hardware sets bit `b` of PWR_ALERT (R9). -/
def World.setAlert (w : World) (b : Nat) : World :=
  (w.setBits (Block.pwr.addr 0 0x018) (BitVec.ofNat 64 (2 ^ b))).driveAlert w.alertLow

/-- A software write of PWR_ALERT (R639, R647). -/
def World.writeAlert (w : World) (v : Word) : World :=
  let old := w.reg (Block.pwr.addr 0 0x018)
  let r := (Block.pwr.regAt 0x018).elim old fun d => d.written true old v
  (w.setReg (Block.pwr.addr 0 0x018) r).driveAlert w.alertLow

/-! ### Reset (R7, R566) -/

/-- What a reset leaves of everything but power, time and the security die: every register, counter, queue and memory at its reset
value. What has been sent, the draws of free values and the partner's light are no state of the module's registers. -/
def World.reset (w : World) : World :=
  ({ out := w.out, free := w.free, uzo := { light := w.uzo.light } } : World).driveAlert w.alertLow

/-- The security die keeps its MRAM and the recipe store over a reset; MGC_STATUS.SPARES_OUT takes its reset value (R7, R584). -/
def Sec.reset (x : Sec) : Sec :=
  { xmss := x.xmss, owner := x.owner, rollbackFloor := x.rollbackFloor, hbmMapout := x.hbmMapout, cellarMapout := x.cellarMapout
    flash := x.flash }

/-- MOD_RESET_L resets everything but SID_NOW, which keeps counting (R7, R430). -/
def State.modReset (s : State) : State :=
  { s with
    pwr := { phase := .standby, pwrEn := s.pwr.pwrEn, resetLow := s.pwr.resetLow, geo := s.pwr.geo, inputHigh := s.pwr.inputHigh }
    sid := { now := s.sid.now }
    sec := s.sec.reset
    w := s.w.reset }

/-! ### The power-fail sequence (R495, R625, R632) -/

/-- GROUP_NOTICE with POWER_FAIL on every up intra-group port. -/
def World.noticeFail (w : World) : World :=
  ((List.range 16).filter fun i => decide ((AMap.get {} w.fab.ports i).state = 1)).foldl
    (fun w _ => w.emit (.notice w.fab.slot true)) w

/-- Every running job ends with the islands (R47, R495). -/
def World.haltAll (w : World) : World := (List.range 4).foldl (fun w p => w.stopRun p false) w

/-- The event of a cause: 1 input, 2 PWR_EN, 3 thermal (R625). -/
def World.failEvent (w : World) (t : Sid) (cause payload : Nat) : World :=
  if cause = 3 then w.raise t (ioSource 12) 0x172 payload else w.raise t (ioSource 12) 0x170 payload

/-- A cause of FAILSAFE is detected (R495, R624, R625). The first starts the sequence: the islands stop, the peers are told
and the event is raised; a further cause within 50 µs raises its own event, and one in the same nanosecond with a lower
code is the one that FAILSAFE_CAUSE will hold. -/
def State.failCause (s : State) (cause alert payload : Nat) : State :=
  match s.pwr.failSeq with
  | some cs =>
    if s.sid.now < s.pwr.failAt + 50000 ∧ cs.contains cause = false then
      { s with
        pwr := { s.pwr with
          failSeq := some (cs ++ [cause])
          failsafeCause := if s.sid.now = s.pwr.failAt then min cause s.pwr.failsafeCause else s.pwr.failsafeCause }
        w := (s.w.setAlert alert).failEvent s.sid cause payload }
    else s
  | none =>
    match s.pwr.phase with
    | .standby | .ready =>
      { s with
        pwr := { s.pwr with failSeq := some [cause], failAt := s.sid.now, failsafeCause := cause }
        w := ((s.w.setAlert alert).haltAll.noticeFail).failEvent s.sid cause payload }
    | .off | .failsafe => s

/-- The last input voltage that PWR_INPUT reports, in 10 mV units. -/
def World.vin (w : World) : Nat := w.regField (Block.pwr.addr 0 0x010) 0 16

/-- PAYLOAD of THERMAL_WARN and THERMAL_TRIP (R632). -/
def thermalPayload (sensor : Nat) (temp : BitVec 16) : Nat := sensor + temp.toNat * 2 ^ 8

/-- INPUT_POWER_FAIL: the input falls below 38 V (R495). -/
def execInputPowerFail (vin10mv : BitVec 16) (s : State) : Host.Outcome State Fault Refusal :=
  .next (s.failCause 1 4 vin10mv.toNat)

/-- PWR_EN_FALL (R624, R625). -/
def execPwrEnFall (s : State) : Host.Outcome State Fault Refusal :=
  let s1 := { s with pwr := { s.pwr with pwrEn := false } }
  .next (if s.pwr.pwrEn then s1.failCause 2 5 (s.w.vin + 2 ^ 16) else s1)

/-- THERMAL_TRIP (R632). -/
def execThermalTrip (sensor : Fin 17) (temp : BitVec 16) (s : State) : Host.Outcome State Fault Refusal :=
  .next (s.failCause 3 3 (thermalPayload sensor.val temp))

/-- The Uzolo transmitters go off (R544). -/
def World.uzoDark (w : World) : World := w.emit (.uzoLight false)

/-- HOLDUP_END: the hold-up of a power-fail sequence ends (R495, R625): FAILSAFE, or STANDBY where MOD_RESET_L was
asserted meanwhile and still is. -/
def execHoldupEnd (s : State) : Host.Outcome State Fault Refusal :=
  match s.pwr.failSeq with
  | none => .next s
  | some _ =>
    let s1 := { s with
      pwr := { s.pwr with failSeq := none, resetHeld := false, phase := .failsafe }
      sec := { s.sec with mgcRunning := false, bootHeld := false }
      w := ((s.w.emit .idleLanes).uzoDark).tick .pwr 0 0x098 }
    .next (if s.pwr.resetHeld ∧ s.pwr.resetLow then s1.modReset else s1)

/-- INPUT_BELOW_30V: the rails fall (R624): OFF. -/
def execInputBelow30V (s : State) : Host.Outcome State Fault Refusal :=
  .next { s with
    pwr := { s.pwr with phase := .off, failSeq := none, resetHeld := false }
    sec := { s.sec with mgcRunning := false, bootHeld := false, bootStep := 0 }
    w := s.w.haltAll.uzoDark }

/-- INPUT_LOW: the input of a powered module lies between 38 V and 40 V (R621). -/
def execInputLow (_vin10mv : BitVec 16) (s : State) : Host.Outcome State Fault Refusal :=
  .next (if s.powered then s.onWorld fun w => w.setAlert 1 else s)

/-- INPUT_RANGE: the input has exceeded 61 V for 1 ms (R621): once per excursion. -/
def execInputRange (vin10mv : BitVec 16) (s : State) : Host.Outcome State Fault Refusal :=
  .next (if s.powered ∧ s.pwr.inputHigh = false then
    { s with
      pwr := { s.pwr with inputHigh := true }
      w := ((s.w.setAlert 0).tick .pwr 0 0x0A0).raise s.sid (ioSource 12) 0x173 vin10mv.toNat }
  else s)

/-! ### Clocks (R19 to R21, R441) -/

/-- DROOP_DETECTED: an island stretches its clock (R19). -/
def execDroopDetected (island : Fin 95) (s : State) : Host.Outcome State Fault Refusal :=
  .next (if s.powered then
    { s with pwr := { s.pwr with stretched := AMap.set false s.pwr.stretched island.val true, stretchSeen := true } } else s)

/-- DROOP_RECOVERED: the island's periods are nominal again (R19). -/
def execDroopRecovered (island : Fin 95) (s : State) : Host.Outcome State Fault Refusal :=
  .next { s with pwr := { s.pwr with stretched := AMap.set false s.pwr.stretched island.val false } }

/-- Whether a core lets its cluster's clock stop (R20): its sequencer is idle after END, blocked in GET_WORK, or blocked on a watch with no
wake pending, and it has no memory slot in use (assumption 148). -/
def Core.sleepy (c : Core) : Bool :=
  c.live.isEmpty && match c.seq, c.held with
    | .idle, _ => true
    | .workWait, some (.getWork _) => true
    | .watchWait, some .watch => !c.wake
    | _, _ => false

/-- Whether the conditions of R20 hold for cluster `k`. -/
def World.clusterIdle (w : World) (k : Nat) : Bool :=
  let x := w.cluster k
  ((List.range 8).all fun i => (w.core (8 * k + i)).sleepy)
    && x.smp.run.isNone && x.smp.item.isNone && x.smp.pending.isEmpty
    && x.gsu.pending.isEmpty && x.gsu.unacked.isNone && x.suq.pending.isEmpty

/-- CLOCK_STOP: a cluster island that meets R20 stops its clock and counts the stop. -/
def execClockStop (cluster : ClusterId) (s : State) : Host.Outcome State Fault Refusal :=
  .next (s.serve fun w =>
    if w.clusterIdle cluster.val ∧ AMap.get false w.stopped cluster.val = false then
      { w with stopped := AMap.set false w.stopped cluster.val true }.count (Block.sid.addr 0 (0x410 + 0x18 * cluster.val)) 1
    else w)

/-- CLOCK_RESTART: a message has reached a stopped island, whose clock runs again (R21, R441). -/
def execClockRestart (cluster : ClusterId) (s : State) : Host.Outcome State Fault Refusal :=
  .next (s.serve fun w => w.wakeIsland s.sid cluster.val)

/-! ### Cap and thermal windows (R22 to R24, R622, R627, R632) -/

/-- POWER_SAMPLE: one 10 µs sample of the input power (R22). -/
def execPowerSample (watts : BitVec 16) (s : State) : Host.Outcome State Fault Refusal :=
  .next (if s.powered then
    let e := s.pwr.energyRem + watts.toNat
    { s with
      pwr := { s.pwr with powerSum := s.pwr.powerSum + watts.toNat, powerCount := s.pwr.powerCount + 1, energyRem := e % 100000 }
      w := s.w.count (Block.pwr.addr 0 0x080) (e / 100000) }
  else s)

/-- The average of a window's samples in whole watts, rounded down (DESIGN CHOICE, assumption 149: R22 names no rounding). -/
def Pwr.average (p : Pwr) : Nat := if p.powerCount = 0 then 0 else p.powerSum / p.powerCount

/-- The measurement registers at a window's end (R627). -/
def World.measure (w : World) (avg : Nat) (m : Measurement) : World :=
  let w := w.setReg (Block.pwr.addr 0 0x010)
    (mkField m.vin10mv.toNat 0 16 ||| mkField m.iin10ma.toNat 16 16 ||| mkField avg 32 16)
  let w := m.rails.zipIdx.foldl (fun w r => if r.2 < 15 then w.setReg (Block.pwr.addr 0 (0x100 + 8 * r.2))
    (mkField r.1.1.toNat 0 16 ||| mkField r.1.2.1.toNat 16 16 ||| mkField r.1.2.2.toNat 32 16) else w) w
  let w := m.temps.zipIdx.foldl (fun w r => if r.2 < 17 then w.setField (Block.pwr.addr 0 (0x200 + 8 * r.2)) 0 16 r.1.toNat else w) w
  (w.setReg (Block.pwr.addr 0 0x308) (mkField m.opticsMw.toNat 0 16)).setReg (Block.pwr.addr 0 0x310) m.opticsLevels

/-- A temperature in 0.1 °C. -/
def tempOf (t : BitVec 16) : Int := t.toInt

/-- The sensors at or above their warning level, and whether every sensor is at least 5 °C below it (R632). -/
def hotSensors (temps : List (BitVec 16)) : List Nat :=
  (temps.zipIdx.filter fun x => decide ((10 * tempWarn x.2 : Int) ≤ tempOf x.1)).map (·.2)
def allCool (temps : List (BitVec 16)) : Bool :=
  temps.zipIdx.all fun x => decide (tempOf x.1 + 50 ≤ (10 * tempWarn x.2 : Int))

/-- The frequency one step down and up the ladder (R22). -/
def stepDown (f : Nat) : Nat := if f ≤ 400 then 400 else f - 20
def stepUp (f : Nat) : Nat := if 940 ≤ f then 940 else f + 20

/-- The controller at a window's end (R22 to R24, R622, R632; assumption 33): it decides with the cap in force; the frequency
moves by one step at most. -/
def Pwr.windowEnd (p : Pwr) (capReg : Nat) (m : Measurement) : Pwr :=
  let avg := p.average
  let cap := p.capInForce * 50
  let above := decide (cap < avg)
  let low := if avg + 50 ≤ cap then p.lowWindows + 1 else 0
  let hot := hotSensors m.temps
  let cool := if allCool m.temps then p.coolWindows + 1 else 0
  let warm := p.thermal && !(decide (20 ≤ cool) && hot.isEmpty)
  let down := above || !hot.isEmpty
  let up := !down && !warm && decide (20 ≤ low)
  let floorRun := if above ∧ p.freq = 400 then p.floorWindows + 1 else 0
  let withholding := (p.withholding && decide (cap ≤ avg)) || decide (10 ≤ floorRun)
  { p with
    powerSum := 0, powerCount := 0
    freq := if down then stepDown p.freq else if up then stepUp p.freq else p.freq
    lowWindows := if up then 0 else low
    floorWindows := floorRun
    withholding := withholding
    withheld := withholding && !p.withheld
    capFloorHolds := p.capFloorHolds + (if withholding && !p.withheld then 1 else 0)
    hot := hot, thermal := warm, coolWindows := if warm then cool else 0
    capInForce := p.capWindow
    capWindow := min 60 (max 24 capReg)
    inputHigh := p.inputHigh && decide (6100 < m.vin10mv.toNat) }

/-- CAP_WINDOW_END: a 1 ms window of the power controller ends. The ladder moves only while the module is in service; a window in which
work was withheld does not count for the deadlock detector (R372): what of it had passed since a partition's last progress. -/
def execCapWindowEnd (m : Measurement) (s : State) : Host.Outcome State Fault Refusal :=
  .next (if s.powered then
    let avg := s.pwr.average
    let w := s.w.measure avg m
    let q := s.pwr.windowEnd (s.w.regField (Block.pwr.addr 0 0x008) 0 6) m
    if s.inService then
      let w := if s.pwr.capInForce * 50 < avg then w.tick .pwr 0 0x088 else w
      let w := if s.pwr.withheld then
          { w with parts := w.parts.map fun e => (e.1, { e.2 with progress := e.2.progress + s.pwr.withheldPart s.sid.now e.2.progress }) }
        else w
      let w := if s.pwr.stretchSeen then { w with cask := { w.cask with stretchWindows := w.cask.stretchWindows + 1 } } else w
      { s with
        pwr := { q with stretchSeen := s.pwr.stretched.any (·.2), withheldAt := s.sid.now }
        w := { w with mhz := q.freq } }
    else
      { s with
        pwr := { s.pwr with powerSum := 0, powerCount := 0, inputHigh := q.inputHigh }
        w := w }
  else s)

/-- THERMAL_WARN: a sensor reaches its warning level (R632). -/
def execThermalWarn (sensor : Fin 17) (temp : BitVec 16) (s : State) : Host.Outcome State Fault Refusal :=
  .next (if s.powered then
    let w := s.w.setField (Block.pwr.addr 0 (0x200 + 8 * sensor.val)) 0 16 temp.toNat
    let hot := if s.pwr.hot.contains sensor.val then s.pwr.hot else s.pwr.hot ++ [sensor.val]
    { s with
      pwr := { s.pwr with hot := hot, thermal := true, coolWindows := 0 }
      w := if s.pwr.thermal then w
           else ((w.setAlert 2).tick .pwr 0 0x090).raise s.sid (ioSource 12) 0x171 (thermalPayload sensor.val temp) }
  else s)

/-- PWR_CAP_WRITE: software writes PWR_CAP (R622, R645). -/
def execPwrCapWrite (value : BitVec 64) (s : State) : Host.Outcome State Fault Refusal :=
  .next (if s.powered then s.onWorld fun w => w.setReg (Block.pwr.addr 0 0x008) (mkField (fieldOf value 0 6) 0 6) else s)

end Sys2Proof.Machine
end

