-- ==== Sys2Proof/Machine/Seq.lean ====
section
/-!
DEFINITION. The sequencer (R49 to R63, R69) and the commands of the Meori command format (R50, R365 to R370): each is the
command that the core's sequencer executes next. Also the ends of what commands wait for: OPERATION_DONE, FENCE_COMPLETE and
END_DRAINED.
-/

namespace Sys2Proof.Machine

/-! ### Executing a command -/

/-- The command at the program counter of a core, as its program region in tun memory spells it (R48, R50). -/
def World.commandAt (w : World) (core : CoreId) : Option Instr :=
  let c := core.val
  (w.part (w.partOfCore c)).bundle.bind fun b => mcfInstr core (leNat (w.tunRead c (tunBytes - b.regionBytes c + 8 * (w.core c).pc) 8))

/-- Whether the sequencer of a core executes its next command now: it runs, or it is stopped and SINGLE was written (R69); it
is not held by trace throttling (R607). -/
def World.seqReady (w : World) (c : Nat) : Bool :=
  let x := w.core c
  w.coreLive c && !w.throttled (coreSource 0 c)
    && (decide (x.seq = .running) || (decide (x.seq = .stopped) && x.single))

/-- Runs a command on the sequencer of a core. -/
def World.seqRun (w : World) (c : Nat) (f : World → World) : World := if w.seqReady c then f w else w

/-- NOP: the next command (R50). -/
def execNop (core : CoreId) (s : State) : Host.Outcome State Fault Refusal :=
  .next (s.serve fun w => w.seqRun core.val fun w => w.retire s.sid core.val)

/-! ### ISSUE (R52, R53) -/

/-- The AXE starts an operation at once where it may (R227). -/
def World.startOps (w : World) (t : Sid) (c : Nat) (e : Engine) : World := if e = .axe then w.axeStart t c axeMaxRuns else w

/-- The operation that an ISSUE makes: with the bound counter's value, and the work slot as it is now (R52, R124). -/
def Core.operation (c : Core) (core desc bind : Nat) (done : Option Nat) : IssuedOp :=
  { serial := c.serial, core := core, desc := desc, bound := decide (bind ≠ 0)
    index := if bind = 0 then 0 else (AMap.get {} c.loops (bind - 1)).value, done := done, words := c.slot }

/-- ISSUE: hands a descriptor to an engine, or holds the sequencer in queue-full (R52, R53). -/
def execIssue (core : CoreId) (engine : Engine) (desc : Fin 2048) (loopBind : Fin 8) (doneWatch : Option WatchId) (s : State) :
    Host.Outcome State Fault Refusal :=
  .next (s.serve fun w => w.seqRun core.val fun w =>
    let c := core.val
    let o := (w.core c).operation c desc.val loopBind.val (doneWatch.map (·.val))
    let w := w.updCore c fun x => { x with serial := x.serial + 1 }
    if w.engineRoom c engine then ((w.enqueueOp c engine o).startOps s.sid c engine).retire s.sid c
    else w.holdSeq s.sid c .queueFull (.issue engine o))

/-- The writes of an operation that no memory has acknowledged yet (R354): fabric writes, and writes held for catch-up. -/
def World.opUnacked (w : World) (c serial : Nat) (e : Engine) : Bool :=
  (w.core c).signals.any (fun x => decide (x.2 = serial))
    || (decide (e ≠ .mxe) && decide (e ≠ .vxe) && !((w.part (w.partOfCore c)).heldWrites.isEmpty))

/-- OPERATION_DONE: an operation of an engine completes when its last write is acknowledged; its DONE_WATCH rises by 1 (R354). -/
def execOperationDone (core : CoreId) (engine : Engine) (s : State) : Host.Outcome State Fault Refusal :=
  .next (s.serve fun w =>
    let c := core.val
    match (w.core c).doneOps.find? fun x => decide (x.1 = engine) with
    | none => w
    | some x =>
      if w.coreLive c = false ∨ w.opUnacked c x.2.serial engine then w
      else
        let w := w.updCore c fun y =>
          { y with doneOps := y.doneOps.erase x, live := y.live.filter fun n => decide (n ≠ x.2.serial) }
        let w := match x.2.done with
          | none => w
          | some i => w.addWatch s.sid c i 1
        (w.startOps s.sid c engine).progressed s.sid (w.partOfCore c))

/-! ### LOOP, BRANCH, SETCC (R54 to R58, R61 to R63) -/

/-- LOOP: begins a hardware loop, or skips the body of a loop whose count from the work slot is 0 (R54). -/
def execLoop (core : CoreId) (counter : Fin 8) (count : BitVec 24) (endPc : Fin 8192) (fromWork : Bool) (word : Fin 8) (s : State) :
    Host.Outcome State Fault Refusal :=
  .next (s.serve fun w => w.seqRun core.val fun w =>
    let c := core.val
    let n := if fromWork then ((w.core c).slot.getD word.val 0).toNat % 2 ^ 24 else count.toNat
    if n = 0 then (w.updCore c fun x => { x with pc := endPc.val }).retire s.sid c
    else
      let pc := (w.core c).pc
      (w.updCore c fun x =>
        { x with pc := pc + 1, seq := if x.stop then .stopped else .running, single := false
                 loops := AMap.set {} x.loops counter.val
                   { value := 0, count := n, start := pc + 1, endPc := endPc.val, active := true } }).tick .seq c 0x068
        |>.progressed s.sid (w.partOfCore c))

/-- A condition bit; bit 15 is 1 (R57). -/
def Core.condition (c : Core) (i : Nat) : Bool := decide (i = 15) || bitAt c.cc.toNat i

/-- Whether a BRANCH has a place in the loop-exit predictor: a backward one on a condition other than 15 (R62). -/
def exitBranch (pc cond target : Nat) : Bool := decide (target ≤ pc) && decide (cond ≠ 15)

/-- The prediction for a BRANCH (R61, R62, R69). -/
def Core.predicts (c : Core) (enabled : Bool) (cond : Nat) (sense : Bool) (target : Nat) : Bool :=
  if cond = 15 ∧ sense then true
  else if enabled = false then false
  else
    let byCounter := decide (2 ≤ AMap.get 1 c.bp (c.pc % 512))
    if exitBranch c.pc cond target then
      match c.exits.find? fun e => decide (e.pc = c.pc) with
      | some e => decide (AMap.get 0 c.takes c.pc ≠ e.length)
      | none => byCounter
    else byCounter

/-- The counters and the loop-exit predictor after a BRANCH resolves (R61, R62). -/
def Core.learn (c : Core) (cond : Nat) (sense : Bool) (target : Nat) (taken : Bool) : Core :=
  let i := c.pc % 512
  let v := AMap.get 1 c.bp i
  let c1 := if cond = 15 ∧ sense then c
    else { c with bp := AMap.set 1 c.bp i (if taken then min 3 (v + 1) else v - 1) }
  if exitBranch c.pc cond target then
    let run := AMap.get 0 c.takes c.pc
    let entry := c.exits.find? fun e => decide (e.pc = c.pc)
    let rest := c.exits.filter fun e => decide (e.pc ≠ c.pc)
    if taken then
      { c1 with takes := AMap.set 0 c.takes c.pc (run + 1)
                exits := match entry with
                  | some e => e :: rest
                  | none => c.exits }
    else
      { c1 with takes := AMap.set 0 c.takes c.pc 0
                exits := if entry.isSome ∨ 2 ≤ run then ({ pc := c.pc, length := run } :: rest).take 16 else c.exits }
  else c1

/-- Loops that a jump to `target` leaves end and free their counters (R55). -/
def leaveLoops (loops : AMap LoopCtr) (target : Nat) : AMap LoopCtr :=
  loops.filter fun l => decide (l.2.start ≤ target) && decide (target ≤ l.2.endPc)

/-- BRANCH: jumps when condition bit COND equals SENSE (R56); the prediction decides only time (R63). -/
def execBranch (core : CoreId) (cond : Fin 16) (sense : Bool) (target : Fin 8192) (s : State) : Host.Outcome State Fault Refusal :=
  .next (s.serve fun w => w.seqRun core.val fun w =>
    let c := core.val
    let x := w.core c
    let taken := decide (x.condition cond.val = sense)
    let guess := x.predicts (decide (w.regField (Block.seq.addr c 0x000) 2 1 = 1)) cond.val sense target.val
    let w := if guess = taken then w else w.tick .seq c 0x060
    let w := w.updCore c fun y => y.learn cond.val sense target.val taken
    if taken then
      ((w.updCore c fun y =>
        { y with pc := target.val, loops := leaveLoops y.loops target.val, single := false
                 seq := if y.stop then .stopped else .running }).tick .seq c 0x068).progressed s.sid (w.partOfCore c)
    else w.retire s.sid c)

/-- SETCC: writes the program condition bits that MASK selects (R58). -/
def execSetcc (core : CoreId) (mask : BitVec 7) (value : BitVec 7) (s : State) : Host.Outcome State Fault Refusal :=
  .next (s.serve fun w => w.seqRun core.val fun w =>
    (w.updCore core.val fun x =>
      { x with cc := (x.cc &&& ~~~ (BitVec.ofNat 16 (mask.toNat * 2 ^ 8))) ||| BitVec.ofNat 16 ((value &&& mask).toNat * 2 ^ 8) }).retire
      s.sid core.val)

/-! ### Work (R348, R349, R365, R366) -/

/-- GET_WORK: completes an item still held, then holds the sequencer in work-wait for WORK_DISPATCH or COLLECT_RECORD. -/
def execGetWork (core : CoreId) (serviceMask : BitVec 16) (s : State) : Host.Outcome State Fault Refusal :=
  .next (s.serve fun w => w.seqRun core.val fun w =>
    let c := core.val
    if (w.core c).item.isSome then
      (w.tick .disp (dieOfCore c) 0x098).completeOrHold s.sid c 0 (some serviceMask) false
    else w.holdSeq s.sid c .workWait (.getWork serviceMask))

/-- COMPLETE: completes the held item (R349); with none held it only counts. -/
def execComplete (core : CoreId) (useWord : Bool) (word : Fin 8) (s : State) : Host.Outcome State Fault Refusal :=
  .next (s.serve fun w => w.seqRun core.val fun w =>
    let c := core.val
    if (w.core c).item.isSome then
      w.completeOrHold s.sid c (if useWord then (w.core c).slot.getD word.val 0 else 0) none false
    else (w.tick .disp (dieOfCore c) 0x0A0).retire s.sid c)

/-! ### WAIT, SIGNAL, FENCE, BARRIER (R355 to R362, R367 to R370) -/

/-- WAIT: continues when the condition holds, else registers the watch and holds the sequencer (R355). -/
def execWait (core : CoreId) (watch : WatchId) (cmp : Fin 3) (fromWork : Bool) (word : Fin 8) (target : BitVec 32) (s : State) :
    Host.Outcome State Fault Refusal :=
  .next (s.serve fun w => w.seqRun core.val fun w =>
    let c := core.val
    let v : Word := if fromWork then (w.core c).slot.getD word.val 0 else target.setWidth 64
    if watchHolds cmp.val (AMap.get 0 (w.core c).watches watch.val) v then w.retire s.sid c
    else (w.updCore c fun x => { x with waitReg := some (watch.val, cmp.val, v), wake := false }).holdSeq s.sid c .watchWait .watch)

/-- The sequencer of a core stops with METADATA: a SIGNAL to a position without an entry (R389). -/
def World.seqMetadata (w : World) (t : Sid) (c check pos : Nat) : World :=
  ((w.updCore c Core.faultSeq).noPosition pos).metadata t (w.partOfCore c) (coreSource 0 c) check pos

/-- SIGNAL: adds to a watch counter here, or sends the addition to another position (R356); the operation is outstanding until it
is acknowledged. -/
def execSignal (core : CoreId) (remote : Bool) (toCore : CoreId) (watch : WatchId) (increment : BitVec 16) (position : BitVec 14)
    (s : State) : Host.Outcome State Fault Refusal :=
  .next (s.serve fun w => w.seqRun core.val fun w =>
    let c := core.val
    if remote = false ∨ w.isOwn position.toNat then
      ((w.addWatch s.sid toCore.val watch.val (increment.setWidth 64)).updCore c fun x => { x with serial := x.serial + 1 }).retire s.sid c
    else if w.physicalOf position.toNat = none then w.seqMetadata s.sid c 0x40 position.toNat
    else if w.canSend = false then w
    else
      let n := (w.core c).serial
      let g := w.takeTag c 2
      let w := g.2.updCore c fun x => { x with serial := n + 1, signals := x.signals ++ [(g.1, n)] }
      (w.sendPacket s.sid 0x09 position.toNat (coreSource 0 c) g.1 0 false true
        (leBytes 2 toCore.val ++ leBytes 1 watch.val ++ [0] ++ leBytes 2 increment.toNat ++ [0, 0])).retire s.sid c)

/-- Whether everything that a core issued before serial `n` is complete and acknowledged (R357). -/
def World.fenceMet (w : World) (c n : Nat) : Bool :=
  let x := w.core c
  x.live.all (fun i => decide (n ≤ i)) && x.signals.all (fun i => decide (n ≤ i.2))
    && x.doneOps.all (fun i => decide (n ≤ i.2.serial)) && (w.part (w.partOfCore c)).heldWrites.isEmpty

/-- FENCE: holds the sequencer in fence-wait (R357). -/
def execFence (core : CoreId) (s : State) : Host.Outcome State Fault Refusal :=
  .next (s.serve fun w => w.seqRun core.val fun w =>
    w.holdSeq s.sid core.val .fenceWait (.fence (w.core core.val).serial))

/-- FENCE_COMPLETE: the conditions of R357 hold, and the sequencer continues. -/
def execFenceComplete (core : CoreId) (s : State) : Host.Outcome State Fault Refusal :=
  .next (s.serve fun w =>
    let c := core.val
    match (w.core c).held with
    | some (.fence n) =>
      if w.fenceMet c n ∧ w.coreLive c then (w.syncRecord s.sid (coreSource 0 c) 2 0 n).endHold s.sid c else w
    | _ => w)

/-- BARRIER: enters a die barrier of the core's die, or a domain barrier (R360, R361, R370). -/
def execBarrier (core : CoreId) (domain : Bool) (wait : Bool) (cluster : Fin 12) (index : Fin 64) (s : State) :
    Host.Outcome State Fault Refusal :=
  .next (s.serve fun w => w.seqRun core.val fun w =>
    let c := core.val
    let p := w.partOfCore c
    let key := if domain then domBarKey p (index.val % 16) else dieBarKey (12 * dieOfCore c + cluster.val) index.val
    w.enterBar s.sid p c key wait)

/-! ### RAISE and END (R59, R60) -/

/-- RAISE: a program event of the core's sequencer (R59). -/
def execRaise (core : CoreId) (code : BitVec 8) (payload : BitVec 32) (s : State) : Host.Outcome State Fault Refusal :=
  .next (s.serve fun w => w.seqRun core.val fun w =>
    (w.raise s.sid (coreSource 0 core.val) code.toNat payload.toNat).retire s.sid core.val)

/-- END: completes an item still held (R349), then waits for the core's operations and queues (R60). -/
def execEnd_ (core : CoreId) (s : State) : Host.Outcome State Fault Refusal :=
  .next (s.serve fun w => w.seqRun core.val fun w =>
    let c := core.val
    if (w.core c).item.isSome then (w.tick .disp (dieOfCore c) 0x098).completeOrHold s.sid c 0 none true
    else w.holdSeq s.sid c .fenceWait .ending)

/-- Whether END can finish (R60): every operation complete, SIGNALs acknowledged, the 16 queues empty. -/
def Core.drained (c : Core) : Bool :=
  c.live.isEmpty && c.signals.isEmpty && c.doneOps.isEmpty && c.queues.all fun q => q.2.isEmpty

/-- END_DRAINED: a core that executed END goes idle, its EVAL_SLOT bit clears (R57), and the run ends with the last of them (R60, R336). -/
def execEndDrained (core : CoreId) (s : State) : Host.Outcome State Fault Refusal :=
  .next (s.serve fun w =>
    let c := core.val
    let p := w.partOfCore c
    match (w.core c).held with
    | some .ending =>
      if (w.core c).drained ∧ w.coreLive c then
        let w := w.holdRecord s.sid (coreSource 0 c) SeqState.fenceWait.code true
        let w := (w.updCore c fun x =>
          { x with seq := .idle, held := none, ended := true, single := false, pc := x.pc + 1, cc := setBit16 x.cc 3 false }).tick .seq c 0x068
        (w.progressed s.sid p).endRun p
      else w
    | _ => w)

/-! ### SEQ_CTRL (R69) -/

/-- A write of STOP: a running sequencer stops at this command boundary, a held one at its next; clearing lets it run on. -/
def World.writeStop (w : World) (c : Nat) (stop : Bool) : World :=
  (w.setField (Block.seq.addr c 0x000) 0 1 (if stop then 1 else 0)).updCore c fun x =>
    { x with
      stop := stop
      seq := if stop then (if x.seq = .running then .stopped else x.seq) else (if x.seq = .stopped then .running else x.seq)
      single := x.single && stop }

/-- A write of SINGLE: a stopped sequencer executes one command. -/
def World.writeSingle (w : World) (c : Nat) : World :=
  if (w.core c).stop ∧ (w.core c).seq = .stopped then w.updCore c fun x => { x with single := true } else w

/-- SEQ_STOP: software sets STOP of a core; the access restarts a stopped island (R21). -/
def execSeqStop (core : CoreId) (s : State) : Host.Outcome State Fault Refusal :=
  .next (s.serve fun w => (w.wakeIsland s.sid (clusterOfCore core.val)).writeStop core.val true)

/-- SEQ_SINGLE: software sets SINGLE of a core; the access restarts a stopped island (R21). -/
def execSeqSingle (core : CoreId) (s : State) : Host.Outcome State Fault Refusal :=
  .next (s.serve fun w => (w.wakeIsland s.sid (clusterOfCore core.val)).writeSingle core.val)

end Sys2Proof.Machine
end

