-- ==== Sys2Proof/Machine/Restore.lean ====
section
/-!
DEFINITION. Restores and exports (R487 to R492): pieces on their way back from the peers, cask transfer frames with the external
store (R488), and what a restore writes (R489).
-/

namespace Sys2Proof.Machine

/-! ### Reserves (R471, R480, R489) -/

/-- Inserts a piece by its offset. -/
def insertPiece (x : CPiece) : List CPiece → List CPiece
  | [] => [x]
  | y :: ys => if x.offset < y.offset then x :: y :: ys else y :: insertPiece x ys

/-- The bytes that the pieces of one stripe, record or manifest spell; none where there is no piece. -/
def joinPieces (xs : List CPiece) : Option (List Byte) :=
  if xs = [] then none else some ((xs.foldl (fun l x => insertPiece x l) []).flatMap (·.bytes))

/-- The segment table of a manifest (R482). -/
def manifestSegs (m : List Byte) : List CSeg := (List.range (leAt m 6 2)).map fun i => parseSeg (slice m (0x100 + 64 * i) 64)

/-- Whether a manifest leaves a journal entry needed: its base of the tensor is not above the entry's step. -/
def manifestNeeds (m : List Byte) (x : CPiece) : Bool :=
  (manifestSegs m).all fun g => decide (g.method ≠ 1) || decide (g.tensor ≠ x.tensor) || decide (g.base ≤ x.step)

/-- Frees the journal entries of an owner that no manifest held here needs (R480). -/
def freeEntries (owner : Nat) (reserve : List CPiece) : List CPiece :=
  let ms := reserve.filter fun y => decide (y.kind = 2) && decide (y.owner = owner)
  let manifests := (ms.map (·.step)).eraseDups.filterMap fun n => joinPieces (ms.filter fun y => decide (y.step = n))
  reserve.filter fun x => decide (x.kind ≠ 1) || decide (x.owner ≠ owner) || manifests.any fun m => manifestNeeds m x

/-- Whether two pieces have the same place in a reserve. -/
def CPiece.samePlace (x y : CPiece) : Bool :=
  decide (x.kind = y.kind) && decide (x.owner = y.owner) && decide (x.step = y.step) && decide (x.tensor = y.tensor)
    && decide (x.part = y.part) && decide (x.index = y.index) && decide (x.offset = y.offset)

/-- A piece arrives for this module's reserve, takes the place of an earlier one that was written there, and is acknowledged with its
packet's tag. The COMMIT of a manifest, its last 8 bytes, frees the journal entries that no cask held still needs (R480). -/
def World.storePiece (w : World) (t : Sid) (q : Packet) : World :=
  let x := parsePiece q.payload
  let w := w.updCask fun c =>
    let r := (c.reserve.filter fun y => !x.samePlace y) ++ [x]
    { c with reserve := if x.kind = 2 ∧ x.bytes.length = 8 then freeEntries x.owner r else r }
  w.sendPacket t 0x04 q.src.toNat (ioSource 11) q.tag.toNat 0 false false []

/-- Serves the pieces of a cask to their owner (R489, step 2): stripes and manifest of the cask, completed bases, journal entries not
above it, and the whole feed log; then the end of the answer. -/
def World.servePieces (w : World) (t : Sid) (q : Packet) : World :=
  let x := parsePiece q.payload
  let send := fun (w : World) (ordered : Bool) (b : List Byte) =>
    w.sendPacket t 0x10 q.src.toNat (ioSource 11) (mkTag 7 9 0) 0 ordered false b
  let ys := w.cask.reserve.filter fun y =>
    decide (y.owner = x.owner) && (match y.kind with
      | 0 | 2 => decide (y.step = x.step)
      | _ => decide (y.part = 4) || decide (y.step ≤ x.step))
  send (ys.foldl (fun w y => send w false (pieceImage (y.kind + 8) y)) w) true (pieceImage 7 x)

/-- Changes what is on its way back. -/
def World.updFetch (w : World) (f : Fetching → Fetching) : World := w.updCask fun c => { c with fetching := c.fetching.map f }

/-- A CASK packet (R397): a piece for the reserve, a request for pieces, or a piece that comes back. -/
def World.takeCask (w : World) (t : Sid) (q : Packet) : World :=
  let k := leAt q.payload 0 1
  if k < 4 then w.storePiece t q
  else if k = 4 then w.servePieces t q
  else if k = 7 then w.updFetch fun f => { f with ended := f.ended ++ [q.src.toNat] }
  else if 8 ≤ k ∧ k < 12 then w.updFetch fun f => { f with pieces := f.pieces ++ [parsePiece q.payload] }
  else w

/-! ### Objects and segments from their pieces -/

/-- An object of `len` bytes from its `n` data stripes and the parity stripe; one that is lost is the XOR of the others (R471). -/
def unstripe (n len : Nat) (xs : List CPiece) : Option (List Byte) :=
  let stripe := fun (k : Nat) => joinPieces (xs.filter fun x => decide (x.index = k))
  let all := (List.range (n + 1)).map stripe
  match (all.filter (·.isNone)).length with
  | 0 => some (((all.take n).flatMap fun s => s.getD []).take len)
  | 1 =>
    let rest := all.filterMap id
    let lost := rest.foldl (fun a x => a.zipWith (· ^^^ ·) x) (List.replicate (ceilDiv len n) 0)
    some (((all.take n).flatMap fun s => s.getD lost).take len)
  | _ => none

/-- The bytes of a segment from the pieces that the peers sent: the stripes, or the base with the images of the highest step on top
(R489). -/
def Fetching.segment (f : Fetching) (n recordBytes : Nat) (g : CSeg) : Option (List Byte) :=
  let mine := f.pieces.filter fun x => decide (x.tensor = g.tensor) && decide (x.part = g.part)
  if g.method = 0 then unstripe n g.length (mine.filter fun x => decide (x.kind = 0) && decide (x.step = f.step))
  else
    (unstripe n g.length (mine.filter fun x => decide (x.kind = 3) && decide (x.step = g.base))).map fun base =>
      let js := mine.filter fun x => decide (x.kind = 1) && decide (g.base < x.step) && decide (x.step ≤ f.step)
      let steps := (List.range (f.step - g.base)).map (g.base + 1 + ·)
      steps.foldl (fun b s =>
        let now := js.filter fun x => decide (x.step = s)
        (now.map (·.index)).eraseDups.foldl (fun b r =>
          match joinPieces ((now.filter fun x => decide (x.index = r)).eraseDups) with
          | none => b
          | some img => b.take (r * recordBytes) ++ img ++ b.drop (r * recordBytes + img.length)) b) base

/-! ### What a restore writes (R489) -/

/-- Whether a manifest may be used: whole to its COMMIT (R482, R489). -/
def World.manifestGood (w : World) (m : List Byte) (step : Nat) : Bool :=
  let top := 0x100 + 64 * leAt m 6 2 + signatureBytes
  decide (leAt m 0 4 = 0x4B534143) && decide (leAt m 0x10 8 = step) && decide (top + 8 ≤ m.length) && decide (leAt m top 8 = step)
    && decide (slice m 0x30 32 = slice ((w.part 0).bundle.elim [] (·.digest)) 0 32) && Config.manifestSignatureOk (m.take top)

/-- Writes an override table and forwarding entries back. -/
def World.writeOverrides (w : World) (table : Nat) (b : List Byte) : World :=
  let n := leAt b 0 8
  let xs := (List.range n).map fun i => (leAt b (8 + 16 * i) 6, leAt b (14 + 16 * i) 2, leAt b (16 + 16 * i) 8)
  let o := 8 + 16 * n
  let fs := (List.range ((b.length - o) / 16)).map fun i => (table, leAt b (o + 16 * i) 6, leAt b (o + 16 * i + 6) 2, leAt b (o + 16 * i + 8) 8)
  let w := w.updPart 0 fun x =>
    { x with forwarding := x.forwarding ++ fs, dir := x.dir.map fun e => if e.tensor = table then { e with over0 := xs, over1 := xs } else e }
  match (w.part 0).entry table with
  | none => w
  | some e => (w.hbmStore 0 e.override0 (overImage xs)).hbmStore 0 e.override1 (overImage xs)

/-- Writes the statistics table back: formats and amaxes in force follow from it (R84, R107). -/
def World.writeStats (w : World) (b : List Byte) : World :=
  let bd := (w.part 0).bundle.getD {}
  let w := w.hbmStore 0 bd.statsBase b
  bd.tensors.zipIdx.foldl (fun w x =>
    let f := leAt b (128 * x.2 + 0x50) 1
    w.updPart 0 fun y =>
      { y with formats := AMap.set none y.formats x.1.id (if f = x.1.recipe.format then none else some f)
               prevAmax := AMap.set 0 y.prevAmax x.1.id (leAt b (128 * x.2 + 0x48) 4)
               dir := y.dir.map fun e => if e.tensor = x.1.id ∧ e.kind = 1 then { e with format := leAt b (128 * x.2 + 4) 1 } else e }) w

/-- Writes a state block and its migrant slots back. -/
def World.writeBlock (w : World) (r : KilnRule) (e : KilnEntry) (b : List Byte) : World :=
  w.putBlock 0 r e b

/-- The freeze commands that bytes spell. -/
def parseFreezes : Nat → List Byte → List FreezeCmd
  | 0, _ => []
  | n + 1, b =>
    let rows := (List.range (leAt b 14 2)).map fun i => leAt b (16 + 8 * i) 8
    { part := 0, rule := leAt b 0 2, entry := leAt b 2 2, freeze := bitAt (leAt b 4 1) 0, effective := leAt b 6 8
      rows := if bitAt (leAt b 5 1) 0 then some rows else none } :: parseFreezes n (b.drop (16 + 8 * rows.length))

/-- Writes the freezes back. -/
def World.writeFreezes (w : World) (b : List Byte) : World :=
  let n := leAt b 0 4
  w.updKiln fun k =>
    { k with frozen := k.frozen ++ (List.range n).map fun i => (0, leAt b (4 + 4 * i) 2, leAt b (6 + 4 * i) 2)
             freezes := k.freezes ++ parseFreezes (leAt b (4 + 4 * n) 4) (b.drop (8 + 4 * n)) }

/-- The Kiln rows of a Journal table, on top of the block of its base. -/
def World.writeRows (w : World) (f : Fetching) (g : CSeg) (r : KilnRule) (e : KilnEntry) : World :=
  let js := f.pieces.filter fun x =>
    decide (x.kind = 1) && decide (x.tensor = g.tensor) && decide (x.part = 1) && decide (g.base < x.step) && decide (x.step ≤ f.step)
  let steps := (List.range (f.step - g.base)).map (g.base + 1 + ·)
  steps.foldl (fun w s =>
    let now := js.filter fun x => decide (x.step = s)
    (now.map (·.index)).eraseDups.foldl (fun w row =>
      match joinPieces ((now.filter fun x => decide (x.index = row)).eraseDups) with
      | none => w
      | some b =>
        if e.rowTable then
          (w.setRowRecord 0 r e row (b.take (r.recordBytes e.cols))).setRowFrozen 0 r e row (bitAt (leAt b (r.recordBytes e.cols) 1) 0)
        else w.writeBlock r e b) w) w

/-- Writes one segment back (R489, step 3). -/
def World.writeSegment (f : Fetching) (n : Nat) (w : World) (x : CSeg × Option (List Byte)) : World :=
  let g := x.1
  match x.2 with
  | none => w
  | some b =>
    if g.part = 0 then ((w.part 0).entry g.tensor).elim w fun e => w.hbmStore 0 e.base0 b
    else if g.part = 2 then w.writeStats b
    else if g.part = 3 then w.writeOverrides g.tensor b
    else if g.part = 1 then
      if g.tensor = noTensor then w.writeFreezes b
      else
        match w.kilnEntryOf 0 g.tensor with
        | none => w
        | some (_, _, r, e) =>
          if g.method = 0 ∨ f.fromStore then w.writeBlock r e b
          else
            (((unstripe n g.length (f.pieces.filter fun y =>
              decide (y.kind = 3) && decide (y.tensor = g.tensor) && decide (y.part = 1) && decide (y.step = g.base))).elim w
                fun base => w.writeBlock r e base)).writeRows f g r e
    else w

/-- The feed log that the peers kept, by batch (R491, R513). -/
def Fetching.feedLog (f : Fetching) : List (Nat × List FeedRec) :=
  let xs := f.pieces.filter fun x => decide (x.kind = 1) && decide (x.part = 4)
  (xs.map (·.index)).eraseDups.map fun b =>
    (b, feedLogRecords b 65536 ((joinPieces ((xs.filter fun x => decide (x.index = b)).eraseDups)).getD []))

/-- The manifest of the cask that has come back. -/
def Fetching.manifest (f : Fetching) : List Byte :=
  if f.fromStore then ((f.store.find? fun x => decide (x.1 = 0xFFFFFFFF)).map (·.2)).getD []
  else
    let xs := f.pieces.filter fun x => decide (x.kind = 2) && decide (x.step = f.step)
    (joinPieces (xs.eraseDups)).getD []

/-- The segments of the cask that has come back, with their bytes where they could be formed. -/
def World.fetchedSegments (w : World) (f : Fetching) : List (CSeg × Option (List Byte)) :=
  ((manifestSegs f.manifest).zipIdx).map fun g =>
    (g.1, if f.fromStore then (f.store.find? fun x => decide (x.1 = g.2)).map (·.2)
          else f.segment (w.peers.length - 1) (((w.part 0).entry g.1.tensor).elim 0 DirEntry.recordBytes) g.1)

/-- Whether everything asked for has come back: every peer that is not failed has ended its answer, or every segment of the manifest
has come from the store. -/
def World.fetchDone (w : World) (f : Fetching) : Bool :=
  if f.fromStore then
    let segs := manifestSegs f.manifest
    decide (f.manifest ≠ []) && (segs.zipIdx.all fun g =>
      (f.store.find? fun x => decide (x.1 = g.2)).elim (decide (g.1.length = 0)) fun x => decide (x.2.length = g.1.length))
  else
    w.peers.all fun p => f.ended.contains p || ((w.physicalOf p).elim true fun x => w.fab.failed.contains x)

/-- Asks the peers for the pieces of a cask. -/
def World.askPeers (w : World) (t : Sid) (step : Nat) : World :=
  w.peers.foldl (fun w p =>
    w.sendPacket t 0x10 p (ioSource 11) (mkTag 7 9 0) 0 false false (pieceImage 4 { owner := w.ownPosition, step := step })) w

/-! ### Cask transfer frames (R487, R488) -/

/-- A cask transfer frame (R488). -/
def World.caskFrame (w : World) (kind segment step offset seq : Nat) (last : Bool) (data : List Byte) : List Byte :=
  beBytes 4 0x4D4A4354 ++ beBytes 1 kind ++ beBytes 1 (if last then 1 else 0) ++ beBytes 2 w.ownPosition ++ beBytes 4 w.config.domainId
    ++ beBytes 4 segment ++ beBytes 8 step ++ beBytes 8 offset ++ beBytes 4 data.length ++ beBytes 4 seq ++ List.replicate 8 0 ++ data

/-- The store that the Ethernet table names. -/
def World.store (w : World) : Option EthEntry := w.ethRole 4
/-- Sends a frame to the store. -/
def World.toStore (w : World) (b : List Byte) : World := w.store.elim w fun e => w.sendDatagram e b

/-- Frames that a sender keeps unacknowledged, data bytes of a frame, and resends of one (R488). -/
def transferWindow : Nat := 1024
def frameData : Nat := 8192
def maxResends : Nat := 100

/-- The next frame of a transfer leaves, and is kept until it is acknowledged. -/
def World.nextFrame (w : World) : World :=
  let x := w.cask.transfer
  let push := fun (w : World) (b : List Byte) (y : Transfer) =>
    (w.toStore b).updCask fun c => { c with transfer := { y with nextSeq := x.nextSeq + 1, unacked := x.unacked ++ [(x.nextSeq, b)] } }
  match x.segs with
  | [] => if x.endSent then w else push w (w.caskFrame 4 0xFFFFFFFF x.step 0 x.nextSeq false []) { x with endSent := true }
  | (i, b) :: rest =>
    let data := (b.drop x.offset).take frameData
    let last := decide (b.length ≤ x.offset + frameData)
    push w (w.caskFrame (if i = 0xFFFFFFFF then 0 else 1) i x.step x.offset x.nextSeq last data)
      (if last then { x with segs := rest, offset := 0 } else { x with offset := x.offset + frameData })

/-- Sends what the window allows. -/
def World.pumpTransfer (w : World) : Nat → World
  | 0 => w
  | n + 1 =>
    if w.cask.transfer.active = false ∨ transferWindow ≤ w.cask.transfer.unacked.length then w
    else World.pumpTransfer w.nextFrame n

/-- A transfer ends (R487): the export's slot is released and the export counts, or its failure does. A cask of a group with fewer
than 3 active slots is committed by its export (R492). -/
def World.endTransfer (w : World) (t : Sid) (ok : Bool) : World :=
  let x := w.cask.transfer
  if x.dump.isSome then
    (w.updCask fun c => { c with transfer := {} }).updPart 0 fun y => { y with dump := { y.dump with copied := if ok then 1 else 2 } }
  else
    let w := w.updCask fun c => { c with transfer := {}, exportDue := none, exportFailed := !ok }
    if ok then
      let w := w.tick .csk 0 0x0B0
      if w.inGroup then w else w.reportCommit t x.step
    else w.tick .csk 0 0x0B8

/-- Begins to send a cask's segments, the manifest first. -/
def World.startTransfer (w : World) (step : Nat) (segs : List (Nat × List Byte)) : World :=
  (w.updCask fun c => { c with transfer := { active := true, step := step, segs := segs } }).pumpTransfer transferWindow

/-- CASK_EXPORT: the cask that is due is sent to the store; in a group the module first gathers what it no longer holds (R487). -/
def execCaskExport (s : State) : Host.Outcome State Fault Refusal :=
  .next (s.serve fun w =>
    match w.cask.exportDue with
    | none => w
    | some n =>
      if w.cask.transfer.active then w
      else if w.store.isNone then w.endTransfer s.sid false
      else if w.inGroup = false then w.startTransfer n ((0xFFFFFFFF, w.cask.manifest) :: w.cask.transfer.segs)
      else
        match w.cask.fetching with
        | none => if w.canSend then (w.updCask fun c => { c with fetching := some { step := n, toExport := true } }).askPeers s.sid n else w
        | some f =>
          if f.toExport = false ∨ w.fetchDone f = false then w
          else
            let segs := w.fetchedSegments f
            let w := w.updCask fun c => { c with fetching := none }
            if segs.any fun g => g.2.isNone && decide (g.1.length ≠ 0) then w.endTransfer s.sid false
            else w.startTransfer n ((0xFFFFFFFF, f.manifest) :: segs.zipIdx.map fun g => (g.2, g.1.2.getD [])))

/-- A frame from the store that this module takes (R488): its fields agree with this domain. -/
def World.storeFrame (w : World) (kind : Nat) (b : List Byte) : Bool :=
  decide (48 ≤ b.length) && decide (beAt b 0 4 = 0x4D4A4354) && decide (beAt b 4 1 = kind) && decide (beAt b 8 4 = w.config.domainId)
    && allZero (slice b 40 8) && decide (b.length = 48 + beAt b 32 4)

/-- Hears a frame from the store on its port (R529). -/
def World.hearStore (w : World) (kind : Nat) (b : List Byte) (f : World → World) : World :=
  w.store.elim w fun e => w.hear e.port fun w => if w.storeFrame kind b then f w else w

/-- Data of a segment arrives in order from the store, and is acknowledged with the bytes received. -/
def World.takeData (w : World) (b : List Byte) : World :=
  match w.cask.fetching with
  | none => w
  | some f =>
    let seg := beAt b 12 4
    if f.fromStore = false ∨ beAt b 16 8 ≠ f.step then w
    else
      let old := ((f.store.find? fun x => decide (x.1 = seg)).map (·.2)).getD []
      let new := if beAt b 24 8 = old.length then old ++ b.drop 48 else old
      (w.updFetch fun f => { f with store := (f.store.filter fun x => decide (x.1 ≠ seg)) ++ [(seg, new)] }).toStore
        (w.caskFrame 2 seg f.step new.length (beAt b 36 4) false [])

/-- CASK_MANIFEST: a frame with bytes of a manifest. -/
def execCaskManifest (frame : List Byte) (s : State) : Host.Outcome State Fault Refusal :=
  .next (s.serve fun w => w.hearStore 0 frame fun w => w.takeData frame)

/-- CASK_DATA: a frame with bytes of a segment. -/
def execCaskData (frame : List Byte) (s : State) : Host.Outcome State Fault Refusal :=
  .next (s.serve fun w => w.hearStore 1 frame fun w => w.takeData frame)

/-- CASK_ACK: the store has what lies below OFFSET of a segment; with the END frame acknowledged the transfer is over. -/
def execCaskAck (frame : List Byte) (s : State) : Host.Outcome State Fault Refusal :=
  .next (s.serve fun w => w.hearStore 2 frame fun w =>
    let x := w.cask.transfer
    if x.active = false ∨ beAt frame 16 8 ≠ x.step then w
    else
      let seg := beAt frame 12 4
      let done := fun (u : Nat × List Byte) =>
        if beAt u.2 4 1 = 4 then decide (beAt frame 36 4 = u.1) && decide (seg = 0xFFFFFFFF)
        else decide (beAt u.2 12 4 = seg) && decide (beAt u.2 24 8 + beAt u.2 32 4 ≤ beAt frame 24 8)
      let y := { x with unacked := x.unacked.filter fun u => !done u }
      let w := (w.updCask fun c => { c with transfer := y }).pumpTransfer transferWindow
      if w.cask.transfer.endSent ∧ w.cask.transfer.unacked = [] then w.endTransfer s.sid true else w)

/-- The segment, and the byte of it, that a restore from the store asks for next. -/
def Fetching.nextAsk (f : Fetching) : Option (Nat × Nat) :=
  let have' := fun (i : Nat) => (((f.store.find? fun x => decide (x.1 = i)).map (·.2)).getD []).length
  let m := f.manifest
  if m.length < 0x100 ∨ m.length < 0x100 + 64 * leAt m 6 2 + signatureBytes + 8 then some (0xFFFFFFFF, m.length)
  else ((manifestSegs m).zipIdx.find? fun g => decide (have' g.2 < g.1.length)).map fun g => (g.2, have' g.2)

/-- Asks the store for the next range. -/
def World.askStore (w : World) : World :=
  match w.cask.fetching with
  | none => w
  | some f => if f.fromStore then (f.nextAsk).elim w fun x => w.toStore (w.caskFrame 3 x.1 f.step x.2 0 false []) else w

/-- CASK_FETCH: a restore from the store asks for the next segment range (R488). -/
def execCaskFetch (_frame : List Byte) (s : State) : Host.Outcome State Fault Refusal := .next (s.serve World.askStore)

/-- CASK_END: the end of a transfer: the store has acknowledged END of an export, or has sent all of a cask (R487). -/
def execCaskEnd (frame : List Byte) (s : State) : Host.Outcome State Fault Refusal :=
  .next (s.serve fun w => w.hearStore 4 frame fun w =>
    if w.cask.transfer.active ∧ w.cask.transfer.endSent ∧ beAt frame 16 8 = w.cask.transfer.step then w.endTransfer s.sid true
    else w.toStore (w.caskFrame 2 (beAt frame 12 4) (beAt frame 16 8) 0 (beAt frame 36 4) false []))

/-- The domain's restore is refused (R489): the head raises SPARE_TAKEOVER with status 2; another position tells it. -/
def World.refuseRestore (w : World) (t : Sid) (step : Nat) : World :=
  let w := (w.updCask fun c => { c with fetching := none }).answerRestore t stRange
  let pos := w.ownPosition
  if w.fab.position = some 0 ∨ w.fab.position = none then
    w.raiseAs t (ioSource 11) 0x141 3 (pos % 2 ^ 14 + w.config.group * 2 ^ 16 + 2 * 2 ^ 24) (w.eventExtra (ioSource 11))
  else w.emit (.tree true { kind := 1, barrier := 2, entries := 1, abort := true, step := step, fromPosition := pos })

/-- CASK_REFUSE: the store refuses a range (R488): a restore ends as refused, an export fails. -/
def execCaskRefuse (frame : List Byte) (s : State) : Host.Outcome State Fault Refusal :=
  .next (s.serve fun w => w.hearStore 5 frame fun w =>
    if w.cask.transfer.active ∧ beAt frame 16 8 = w.cask.transfer.step then w.endTransfer s.sid false
    else
      match w.cask.fetching with
      | some f => if f.fromStore ∧ beAt frame 16 8 = f.step then w.refuseRestore s.sid f.step else w
      | none => w)

/-- CASK_FRAME_RESEND: a frame has had no ACK for 10 ms; after 100 resends of it the transfer fails (R488). -/
def execCaskFrameResend (seq : Nat) (s : State) : Host.Outcome State Fault Refusal :=
  .next (s.serve fun w =>
    let x := w.cask.transfer
    match x.unacked.find? fun u => decide (u.1 = seq) with
    | none => w
    | some u =>
      let n := AMap.get 0 x.resends seq
      if maxResends ≤ n then w.endTransfer s.sid false
      else (w.toStore u.2).updCask fun c => { c with transfer := { x with resends := AMap.set 0 x.resends seq (n + 1) } })

/-! ### The restore itself (R489 to R491) -/

/-- Step 1 of a restore: the partition's state is zeroed, every table's STATE is 0, and the pieces are asked for. -/
def World.beginRestore (w : World) (t : Sid) (fromStore : Bool) (step : Nat) : World :=
  let w := (((w.stopRun 0 false).emptyUnits 0).zeroLocal 0 ((w.part 0).bundle.getD {})).resetRun 0
  let w := (w.coresOf 0).foldl (fun w c => w.updCore c fun x => { (Core.halted false x) with axe := { x.axe with shapes := [] } }) w
  let w := w.updPart 0 fun x =>
    { x with pools := [], stats := [], heldWrites := [], accepted := [], forwarding := [], overflowRaised := [], skipRaised := []
             mcSent := 0, mcReceived := 0, inBarrier := false, closeSent := false, kilnDone := false, migrateSent := false, migrateOut := 0
             dir := x.dir.map fun e =>
               { e with current := false, version := 0, over0 := [], over1 := [], dirtySet := [], catchup := [], catchupDone := true } }
  let store := fromStore || !w.inGroup
  let w := (w.updKiln (Kiln.forget 0)).updCask fun c =>
    { c with inProgress := none, journalUnacked := 0, unacked := 0, baseRun := none, baseUnacked := 0
             fetching := some { step := step, fromStore := store }, restoreAt := t.now }
  let w := { w with fab := { w.fab with reduces := [], reduceSent := [], stepHeld := [] } }
  if store then w.askStore else w.askPeers t step

/-- The bases that a restored cask rests on, and the bytes of the journal entries on top of each (R479, R489): those of the manifest, or none
where the cask came from the store. -/
def Fetching.bases (f : Fetching) : List (Nat × Nat) :=
  if f.fromStore then []
  else ((manifestSegs f.manifest).filter fun g => decide (g.method = 1) && decide (g.part = 0)).map fun g => (g.tensor, g.base)
def Fetching.journalBytes (f : Fetching) (b : Nat × Nat) : Nat :=
  ((f.pieces.filter fun x => decide (x.kind = 1) && decide (x.tensor = b.1) && decide (b.2 < x.step) && decide (x.step ≤ f.step)).eraseDups.map
    fun x => x.bytes.length).sum

/-- Steps 2 and 3 of a restore, once everything is here: version 0, state blocks and statistics are written, and version 0 is copied
into version 1; the position's report goes up the tree (R489). -/
def World.writeRestore (w : World) (t : Sid) (f : Fetching) : World :=
  let m := f.manifest
  let segs := w.fetchedSegments f
  if w.manifestGood m f.step = false ∨ (segs.any fun g => g.2.isNone && decide (g.1.length ≠ 0)) then w.refuseRestore t f.step
  else
    let w := segs.foldl (World.writeSegment f (w.peers.length - 1)) w
    let w := (w.writeDirectory 0 (w.dirBase 0)).firstCopy t 0
    let n := f.step + 1
    let w := w.updPart 0 fun x =>
      { x with step := n, lastSwitched := some f.step, restored := true, started := true, jobSeed := BitVec.ofNat 64 (leAt m 0x20 8)
               cycle := leAt m 0x18 8, c0 := leAt m 0x18 8 - n / w.hop.stepsPerCycle }
    let log := if f.fromStore then w.hop.log else f.feedLog
    let w := w.updHop fun h =>
      { h with replaying := true, applied := n + 1, log := log, intake := [], inRings := [], markers := [], markersOut := 0, seen := [] }
    let w := (w.updFetch fun f => { f with written := true }).updCask fun c =>
      { c with restoreUs := (t.now - c.restoreAt) / 1000, bases := f.bases
               journalBytes := f.bases.foldl (fun m b => AMap.set 0 m b.1 (f.journalBytes b)) [] }
    if w.fab.position.isSome then
      w.emit (.tree true { kind := 1, barrier := 2, entries := 1, step := f.step, fromPosition := w.ownPosition })
    else w

/-- What a completed restore leaves in this module's reserve (R489, step 4), and its engine (R484, R502). -/
def World.endRestore (w : World) (step : Nat) : World :=
  (w.tick .csk 0 0x0C0).updCask fun c =>
    { c with fetching := none, forced := true, committed := some step
             slots := c.slots.map fun x => x.bind fun n => if n ≤ step then some n else none
             reserve := c.reserve.filter fun y => decide (y.step ≤ step) }

end Sys2Proof.Machine
end

