-- ==== Sys2Proof/Machine/Packets.lean ====
section
/-!
DEFINITION. Packets that arrive (chapter 11): their count and the holds for ORDER (R399) and for an early step (R29, R398), what each
KIND does at its destination (R397), and transit (R403 to R405).
-/

namespace Sys2Proof.Machine

/-! ### NMR commands (R242, R243, R251, R252) -/

/-- The opcode and the command that the 256 bytes of an NMR command spell. -/
def parseNmr (position tag : Nat) (b : List Byte) : Nat × NmrCmd :=
  (leAt b 0 1,
   { fromPosition := BitVec.ofNat 16 position, tag := BitVec.ofNat 32 tag, flags := BitVec.ofNat 8 (leAt b 1 1), count := leAt b 2 1
     table := leAt b 4 4, step := leAt b 8 8, row := leAt b 16 6, column := leAt b 22 2
     reserved := decide (1 < leAt b 1 1) || decide (leAt b 3 1 ≠ 0) || !allZero (slice b 24 8), payload := b.drop 32 })

/-- The acknowledgement of a command that came from another position (R244). -/
def World.nmrAck (w : World) (t : Sid) (st : Nat) (remote : Bool) (c : NmrCmd) : World :=
  let w := w.tick .nmr st 0x080
  if remote then w.sendPacket t 0x06 c.fromPosition.toNat (nmrSource st) c.tag.toNat 0 false false [] else w

/-- An NMR command at the module that it reached. -/
def World.nmrServe (w : World) (t : Sid) (op : Nat) (remote : Bool) (c : NmrCmd) : World :=
  if w.jobRuns 0 = false ∨ w.nmrDown 0 then w
  else
    match (w.part 0).entry c.table with
    | none => w.nmrStop t 0 (w.firstStack 0) 0x31 c.table c.row
    | some e =>
      if e.kind ≠ 1 ∨ c.reserved ∨ op = 0 ∨ 5 < op ∨ (op ≠ 5 ∧ e.records ≤ c.row) then w.nmrStop t 0 (w.firstStack 0) 0x31 c.table c.row
      else if op = 5 then (w.readoutTable t 0 e).nmrAck t (w.firstStack 0) remote c
      else
        let st := w.rowStack 0 e c.row
        if w.homesRow 0 e c.row = false then
          match w.forwardTo 0 c.table c.row with
          | some q => w.forwardNmr t op st q c
          | none => w.nmrStop t 0 st 0x33 c.table c.row
        else
          match w.nmrAdd t 0 op c none st e with
          | .error check => w.nmrStop t 0 st check c.table c.row
          | .ok w => w.nmrAck t st remote c

/-! ### Reads and writes (R251, R266, R397, R413) -/

/-- The row of a row table that an offset lies in, in the version at `base`. -/
def Part.rowAt (x : Part) (base : DirEntry → Nat) (off : Nat) : Option (DirEntry × Nat) :=
  (x.dir.find? fun e => decide (e.kind = 1) && decide (base e ≤ off) && decide (off < base e + e.bytes)).map fun e =>
    (e, (off - base e) / e.recordBytes)

/-- A GSU's request that reaches a module which neither homes nor forwards its row stops the job (R251, R252). The first GSU of the
partition reports it (DESIGN CHOICE, assumption 159). -/
def World.gsuNotHome (w : World) (t : Sid) (table row : Nat) : World :=
  let k := (w.clustersOf 0).headD 0
  let w := (w.setReg (Block.gsu.addr k 0x008) (unitFaultReg 1 0x33 table)).setReg (Block.gsu.addr k 0x010) (mkField row 0 48)
  (w.updCluster k fun x => { x with gsu := { x.gsu with faulted := true } }).metadata t 0 (clusterSource 6 k) 0x33 table

/-- A request for a row that this module does not home goes on, or stops the job (R251): a read or a MIGRATE is a GSU's, a write comes to
the NMR. -/
def World.passOn (w : World) (t : Sid) (kind : Nat) (q : Packet) (e : DirEntry) (row : Nat) : World :=
  let st := w.rowStack 0 e row
  match w.forwardTo 0 e.tensor row with
  | none => if kind = 0x03 then w.nmrStop t 0 st 0x33 e.tensor row else w.gsuNotHome t e.tensor row
  | some p =>
    (w.tick .nmr st 0x098).sendFrom t q.src.toNat kind p q.source.toNat q.tag.toNat (globalAddr p (addrOffset q.address.toNat))
      false true q.payload q.mask

/-- Whether a source number is that of an AXE (R13). -/
def isAxeSource (n : Nat) : Bool := decide (n % 2 ^ 10 / 2 ^ 4 = 1) && decide (n / 2 ^ 10 % 2 ^ 4 < 12)

/-- The grains that a stream of another module reads are guarded before they are served (R228). No packet of R397 tells this module
that the guard was released, nor the reader that it was hit (assumption 29): the guard stands until the step's end. -/
def World.guardRemote (w : World) (q : Packet) (off n : Nat) : World :=
  if isAxeSource q.source.toNat then
    { w with fab := { w.fab with guards := w.fab.guards ++
      [{ position := q.src.toNat, source := q.source.toNat, lo := off / 256 * 256, hi := roundUp (off + n) 256 }] } }
  else w

/-- READ_REQ: the bytes of this module's partition 0 HBM, or none where the range leaves it (R266). One in control space reads a
register, which is no matter of memory. -/
def World.serveRead (w : World) (t : Sid) (q : Packet) : World :=
  let off := addrOffset q.address.toNat
  let n := leAt q.payload 0 4
  let answer := fun (w : World) (b : List Byte) => w.sendPacket t 0x02 q.src.toNat (ioSource 0) q.tag.toNat 0 false false b
  if w.jobRuns 0 = false ∨ addrSpace q.address.toNat = 3 then w
  else if n = 0 ∨ 2048 < n ∨ w.hbmCapacity 0 < off + n then answer w []
  else if w.hbmFailed 0 off n then (answer w []).agentStop t 0 (ioSource 0)
  else
    let row := ((w.part 0).rowAt DirEntry.curBase off).bind fun x => if w.readsRow 0 x.1 x.2 then none else some x
    match row with
    | some x => w.passOn t 0x01 q x.1 x.2
    | none => let r := (w.guardRemote q off n).hbmFetch (ioSource 0) 0 off n; answer r.2 r.1

/-- Whether this module is the head of its group (R416): it holds the group's lowest position. -/
def World.groupHead (w : World) : Bool := w.fab.position.elim false fun p => decide (p % 16 = 0)
/-- Whether it is the domain head. -/
def World.domainHead (w : World) : Bool := decide (w.fab.position = some 0)

/-- Whether a packet is multicast, ORDERed or STEPPED (R396). -/
def pktMulticast (q : Packet) : Bool := bitAt q.flags.toNat 2
def pktOrder (q : Packet) : Bool := bitAt q.flags.toNat 0
def pktStepped (q : Packet) : Bool := bitAt q.flags.toNat 6

/-- A group's head relays a multicast packet to its other members but the sender (R413); each copy counts as sent (assumption 102). -/
def World.relay (w : World) (kind : Nat) (q : Packet) : World :=
  if w.groupHead then
    ((w.groupMembers.filter fun p => decide (p ≠ q.src.toNat)).foldl (World.copyTo kind q) w).emit (.packet kind q)
  else w

/-- The ADDRESS of the acknowledgement of a WRITE that would fall into a current version (R222). -/
def raceAck : Nat := 2 ^ 64 - 1

/-- WRITE: data for this module's partition 0 HBM; the acknowledgement of one whose range leaves it carries its address (R266), that of
one into a current version `raceAck` (R26, R222): neither writes a byte. -/
def World.serveWrite (w : World) (t : Sid) (q : Packet) : World :=
  let off := addrOffset q.address.toNat
  let n := q.payload.length
  let ack := fun (w : World) (address : Nat) => w.sendPacket t 0x04 q.src.toNat (ioSource 0) q.tag.toNat address false false []
  let fits := decide (off + n ≤ w.hbmCapacity 0)
  let current := (w.currentHit 0 off n).isSome
  let land := fun (w : World) =>
    if w.hbmFailed 0 off n then w.agentStop t 0 (ioSource 0)
    else w.hbmWriteMask t q.source.toNat q.src.toNat 0 off q.payload q.mask
  if w.jobRuns 0 = false ∨ addrSpace q.address.toNat = 3 then w
  else if pktMulticast q then
    (if fits && !current then land w else w).relay 0x03 q
  else if fits = false then ack w q.address.toNat
  else if current then ack w raceAck
  else
    let row := ((w.part 0).rowAt DirEntry.penBase off).bind fun x =>
      if w.homesRow 0 x.1 x.2 ∨ w.comingRow x.1 x.2 then none else some x
    match row with
    | some x => w.passOn t 0x03 q x.1 x.2
    | none => ack (land w) 0

/-! ### Answers -/

/-- READ_DATA for a stream of a core: it goes on, or stops where the target refused the range (R266). -/
def World.axeData (w : World) (t : Sid) (q : Packet) : World :=
  let c := tagInst q.tag.toNat
  match (w.core c).axe.streams.find? fun r => decide (r.waitTag = some q.tag.toNat) with
  | none => w
  | some r =>
    if q.payload = [] then w.axeStop t c r.op 0x40 (axeQueue (w.descOf c r.op.desc)) (r.count % 2 ^ 16) 0
    else w.updStream c r.op.serial fun y => { y with fetched := y.fetched ++ q.payload, waitTag := none }

/-- READ_DATA for a gather (R236, R266). -/
def World.gsuData (w : World) (t : Sid) (q : Packet) : World :=
  let k := tagInst q.tag.toNat
  let g := (w.cluster k).gsu
  match g.remote.find? fun x => decide (x.1 = q.tag.toNat), g.pending with
  | some x, o :: _ =>
    if q.payload = [] then
      let d := w.descOf o.core o.desc
      let row := match w.gsuKeyList (w.partOfCluster k) k d o with
        | .ok y => y.1.getD (x.2 / 64) 0
        | .error _ => 0
      w.gsuStop t k o (gsuTable d) row (0x40, 0)
    else w.updGsu k fun y =>
      { y with remote := y.remote.filter fun z => decide (z.1 ≠ x.1), rows := AMap.set [] y.rows x.2 q.payload }
  | _, _ => w

/-- A register access at another position has its answer, which goes to the parcel that asked; an access that was refused is out of range
(R576). -/
def World.regAnswered (w : World) (t : Sid) (tag : Nat) (refused : Bool) (b : List Byte) : World :=
  match w.uzo.regWaits.find? fun x => decide (x.tag = tag) with
  | none => w
  | some x =>
    (w.updUzo fun u => { u with regWaits := u.regWaits.filter fun y => decide (y.tag ≠ tag) }).answer t x.origin
      (if x.write then 0x0021 else 0x0020) x.request (if refused then stRange else stOk) 0 b

/-- The cluster whose island the response to a request reaches, by the request's tag. -/
def responseIsland (tag : Nat) : Option Nat :=
  match tagKind tag with
  | 0 | 1 | 2 => some (clusterOfCore (tagInst tag))
  | 3 | 4 | 5 => some (tagInst tag)
  | _ => none

/-- A fabric response reaches the island of its requester, which restarts where it is stopped (R21). -/
def World.responded (w : World) (t : Sid) (tag : Nat) : World := (responseIsland tag).elim w (w.wakeIsland t)

/-- READ_DATA at its requester. -/
def World.takeReadData (w : World) (t : Sid) (q : Packet) : World :=
  match tagKind q.tag.toNat with
  | 0 => w.axeData t q
  | 3 => w.gsuData t q
  | 6 => w.regAnswered t q.tag.toNat (decide (q.payload = [])) q.payload
  | _ => w

/-- WRITE_ACK at the writer: an AXE's write is acknowledged, or refused (R266); Hopper's markers, migrating rows and cask pieces are
counted off; a state move's acknowledgement goes to the Kiln (R323). -/
def World.takeWriteAck (w : World) (t : Sid) (q : Packet) : World :=
  let tag := q.tag.toNat
  let c := tagInst tag
  match tagKind tag with
  | 1 =>
    match (w.core c).signals.find? fun x => decide (x.1 = tag) with
    | none => w
    | some _ =>
      let gone := (w.core c).axe.writes.find? fun y => decide (y.tag = tag)
      let w := w.updCore c fun y =>
        { y with signals := y.signals.filter fun z => decide (z.1 ≠ tag)
                 axe := { y.axe with writes := y.axe.writes.filter fun z => decide (z.tag ≠ tag) } }
      match gone with
      | none => w
      | some y =>
        if q.address.toNat = 0 then
          (w.guardHits (remoteSpace y.pos) y.off y.bytes).foldl (World.guardHit t (coreSource 1 c) w.ownPosition) w
        else w.axeStop t c y.op (if q.address.toNat = raceAck then stopRace else 0x40) (axeQueue (w.descOf c y.op.desc)) 0xFFFF 0
  | 7 =>
    if c = 1 then w.toKiln 6 0 [2] []
    else if c = 3 then w.updHop fun h => { h with markersOut := h.markersOut - 1 }
    else if c = 7 then w.updPart 0 fun x => { x with migrateOut := x.migrateOut - 1 }
    else w.pieceAcked t c
  | 6 => w.regAnswered t tag (decide (q.address.toNat ≠ 0)) []
  | _ => w

/-- NMR_ACK: a contribution of a SCATTER was applied (R244). -/
def World.takeNmrAck (w : World) (q : Packet) : World :=
  w.updGsu (tagInst q.tag.toNat) fun g => { g with unacked := g.unacked.map fun x => (x.1, x.2 - 1) }

/-- SIGNAL: adds to a watch counter here (R356) and answers. -/
def World.takeSignal (w : World) (t : Sid) (q : Packet) : World :=
  let c := leAt q.payload 0 2
  let w := if w.jobRuns 0 ∧ c < 384 ∧ w.partOfCore c = 0 then
      w.addWatch t c (leAt q.payload 2 1 % 64) (BitVec.ofNat 64 (leAt q.payload 4 2)) else w
  w.sendPacket t 0x0A q.src.toNat (ioSource 0) q.tag.toNat 0 false false []

/-- SIGNAL_ACK: the SIGNAL of a core is complete. -/
def World.takeSignalAck (w : World) (q : Packet) : World :=
  w.updCore (tagInst q.tag.toNat) fun x => { x with signals := x.signals.filter fun y => decide (y.1 ≠ q.tag.toNat) }

/-- MIGRATE: an accepted entry for the pending override table of every module, or a request at a row's home (R249). -/
def World.takeMigrate (w : World) (t : Sid) (q : Packet) : World :=
  let off := addrOffset q.address.toNat
  match (w.part 0).dir.find? fun e => decide (e.kind = 1) && (decide (e.override0 = off) || decide (e.override1 = off)) with
  | none => w
  | some e =>
    if w.jobRuns 0 = false then w
    else if pktMulticast q then
      (w.putOverride 0 e.tensor (leAt q.payload 0 6) (leAt q.payload 6 2) (leAt q.payload 8 8)).relay 0x0B q
    else
      let row := leAt q.payload 0 8
      if e.records ≤ row then w
      else if w.homesRow 0 e row then w.decideMigration t 0 ((w.clustersOf 0).headD 0) e row (leAt q.payload 8 2)
      else w.passOn t 0x0B q e row

/-- KILN_STATE: a moving row's record goes on to this module's Kiln (R323). -/
def World.takeKilnState (w : World) (q : Packet) : World :=
  let b := q.payload
  (w.updKiln fun k => { k with stateFrom := k.stateFrom ++ [(q.src.toNat, q.tag.toNat)] }).toKiln 8 0
    [leAt b 0 4, leAt b 4 6, leAt b 10 1 % 2] (b.drop 16)

/-! ### Delivery (R29, R397 to R399) -/

/-- KINDs by which held packets of Hopper are told from other WRITEs. -/
def kindFeed : Nat := 0x103
def kindMarker : Nat := 0x203

/-- A WRITE between Hoppers is acknowledged as any other. -/
def World.hopAck (w : World) (t : Sid) (q : Packet) : World :=
  w.sendPacket t 0x04 q.src.toNat (ioSource 8) q.tag.toNat 0 false false []

/-- A multicast packet counts for the step barrier (R413): at once to the tree where this module has already reported its counts. -/
def World.countMulticast (w : World) (q : Packet) : World :=
  let n := max 1 (ceilDiv q.payload.length 256)
  if pktMulticast q = false then w
  else
    let w := w.updPart 0 fun x => { x with mcReceived := x.mcReceived + n }
    if (w.part 0).inBarrier then
      w.emit (.tree true { kind := 0, barrier := 0, entries := 0, step := (w.part 0).step, received := n, fromPosition := w.ownPosition })
    else w

/-- What a packet does at its destination. -/
def World.process (w : World) (t : Sid) (kind : Nat) (q : Packet) : World :=
  let w := w.countMulticast q
  match kind with
  | 0x01 => w.serveRead t q
  | 0x02 => (w.responded t q.tag.toNat).takeReadData t q
  | 0x03 => w.serveWrite t q
  | 0x04 => (w.responded t q.tag.toNat).takeWriteAck t q
  | 0x05 => let x := parseNmr q.src.toNat q.tag.toNat q.payload; w.nmrServe t x.1 true x.2
  | 0x06 => (w.responded t q.tag.toNat).takeNmrAck q
  | 0x07 => w.serveSample t q
  | 0x08 => (w.responded t q.tag.toNat).takeReply t q
  | 0x09 => w.takeSignal t q
  | 0x0A => (w.responded t q.tag.toNat).takeSignalAck q
  | 0x0B => w.takeMigrate t q
  | 0x0C => w.takeKilnState q
  | 0x0D => w.takeReduce t q
  | 0x10 => w.takeCask t q
  | 0x103 => (w.hopAck t q).intakeRecord t q.payload
  | 0x203 => (w.hopAck t q).takeMarker t q.src.toNat q.payload
  | _ => w

/-- STEP_TAG (R398, R426): a STEPPED packet of neither this step nor the next stops the job. -/
def World.stepTagFault (w : World) (t : Sid) (q : Packet) : World :=
  (w.setReg (Block.fab.addr 0 0x030) (mkField 1 0 4 ||| mkField 0x70 8 8 ||| mkField q.src.toNat 16 14 ||| mkField 1 63 1)).metadata
    t 0 (ioSource 0) 0x70 q.src.toNat

/-- A packet that carries a PAIR_COUNT is counted for its pair: none that is multicast or sent on (R396, R399, R251). -/
def World.countPair (w : World) (q : Packet) : World :=
  if pktMulticast q ∨ q.forwarded then w
  else { w with fab := { w.fab with pairReceived := AMap.upd 0 w.fab.pairReceived q.src.toNat (· + 1) } }

/-- Delivers a packet that no ORDER holds: it is progress (R372), it counts for its pair, and a STEPPED one is served in its
step (R29, R398). -/
def World.deliver (w : World) (t : Sid) (kind : Nat) (q : Packet) : World :=
  let w := w.progressed t 0
  let w := w.countPair q
  let n := (w.part 0).step % 256
  if pktStepped q = false ∨ w.jobRuns 0 = false ∨ q.stepTag.toNat = n then w.process t kind q
  else if q.stepTag.toNat = (n + 1) % 256 then
    { w with fab := { w.fab with stepHeld := w.fab.stepHeld ++ [(kind, q)] } }.tick .fab 0 0x0A8
  else w.stepTagFault t q

/-- Delivers the ORDER packets of a source whose turn has come (R399). -/
def World.releaseOrder (w : World) (t : Sid) (src : Nat) : Nat → World
  | 0 => w
  | fuel + 1 =>
    match w.fab.orderHeld.find? fun x => decide (x.2.src.toNat = src) && decide (x.2.pairCount ≤ AMap.get 0 w.fab.pairReceived src) with
    | none => w
    | some x =>
      World.releaseOrder (({ w with fab := { w.fab with orderHeld := w.fab.orderHeld.erase x } }).deliver t x.1 x.2) t src fuel

/-- A packet for this module arrives (R398, R399): it is counted and recorded, and held while ORDER has it wait. -/
def World.receive (w : World) (t : Sid) (kind : Nat) (q : Packet) : World :=
  if w.fab.trained = false ∨ w.fab.position = none then w
  else
    let src := q.src.toNat
    let w := (w.tick .fab 0 0x088).packetRecord t (kind % 256) 1 src q.tag.toNat q.address.toNat
    if pktOrder q ∧ AMap.get 0 w.fab.pairReceived src < q.pairCount then
      { w with fab := { w.fab with orderHeld := w.fab.orderHeld ++ [(kind, q)] } }.tick .fab 0 0x098
    else (w.deliver t kind q).releaseOrder t src (w.fab.orderHeld.length + 1)

/-- STEP_EARLY_HOLD_RELEASE: requests held for the step that begins are served (R29). -/
def World.releaseSteps (w : World) (t : Sid) : World :=
  let n := (w.part 0).step % 256
  let due := w.fab.stepHeld.filter fun x => decide (x.2.stepTag.toNat = n)
  due.foldl (fun w x => w.process t x.1 x.2)
    { w with fab := { w.fab with stepHeld := w.fab.stepHeld.filter fun x => decide (x.2.stepTag.toNat ≠ n) } }

/-! ### The commands -/

/-- SAMPLE_REQ: another module asks this one for a draw (R198, R200). -/
def execSampleReq (p : Packet) (s : State) : Host.Outcome State Fault Refusal := .next (s.serve fun w => w.receive s.sid 0x07 p)
/-- SAMPLE_REPLY: one part of a reply reaches the requesting sampler (R199). -/
def execSampleReply (p : Packet) (s : State) : Host.Outcome State Fault Refusal := .next (s.serve fun w => w.receive s.sid 0x08 p)
/-- NMR_ACK (R244). -/
def execNmrAck (p : Packet) (s : State) : Host.Outcome State Fault Refusal := .next (s.serve fun w => w.receive s.sid 0x06 p)
/-- SIGNAL from another position (R356). -/
def execFabSignal (p : Packet) (s : State) : Host.Outcome State Fault Refusal := .next (s.serve fun w => w.receive s.sid 0x09 p)
/-- SIGNAL_ACK. -/
def execSignalAck (p : Packet) (s : State) : Host.Outcome State Fault Refusal := .next (s.serve fun w => w.receive s.sid 0x0A p)
/-- MIGRATE at a row's home, or its multicast (R249). -/
def execMigrate (p : Packet) (s : State) : Host.Outcome State Fault Refusal := .next (s.serve fun w => w.receive s.sid 0x0B p)
/-- KILN_STATE (R323). -/
def execKilnState (p : Packet) (s : State) : Host.Outcome State Fault Refusal := .next (s.serve fun w => w.receive s.sid 0x0C p)
/-- REDUCE_DATA at a home (R414). -/
def execReduceData (p : Packet) (s : State) : Host.Outcome State Fault Refusal := .next (s.serve fun w => w.receive s.sid 0x0D p)
/-- CASK: a piece for this module's reserve, or on its way back (R471, R489). -/
def execCask (p : Packet) (s : State) : Host.Outcome State Fault Refusal := .next (s.serve fun w => w.receive s.sid 0x10 p)
/-- FEED_RECORD_INTAKE: a routed feed record reaches this home (R517). -/
def execFeedRecordIntake (p : Packet) (s : State) : Host.Outcome State Fault Refusal :=
  .next (s.serve fun w => w.receive s.sid kindFeed p)
/-- CLOSE_MARKER: a position has sent every record of a batch (R511). -/
def execCloseMarker (p : Packet) (s : State) : Host.Outcome State Fault Refusal :=
  .next (s.serve fun w => w.receive s.sid kindMarker p)

/-- An NMR command: from another position it is a packet, from this module's own units it acts at once. -/
def World.takeNmr (w : World) (t : Sid) (op : Nat) (c : NmrCmd) : World :=
  if w.fab.position = none ∨ c.fromPosition.toNat = w.ownPosition then w.nmrServe t op false c
  else
    w.receive t 0x05
      { flags := 0x40, forwarded := bitAt c.flags.toNat 0, src := c.fromPosition.setWidth 14, dst := BitVec.ofNat 14 w.ownPosition, stepTag := BitVec.ofNat 8 c.step
        tag := c.tag, payload := nmrImage op { c with flags := if c.reserved then c.flags ||| 0x80 else c.flags } }

/-- ADD_W64 (R243, R245). -/
def execAddW64 (c : NmrCmd) (s : State) : Host.Outcome State Fault Refusal := .next (s.serve fun w => w.takeNmr s.sid 1 c)
/-- ADD_W128 (R243, R245). -/
def execAddW128 (c : NmrCmd) (s : State) : Host.Outcome State Fault Refusal := .next (s.serve fun w => w.takeNmr s.sid 2 c)
/-- ADD_I64 (R243). -/
def execAddI64 (c : NmrCmd) (s : State) : Host.Outcome State Fault Refusal := .next (s.serve fun w => w.takeNmr s.sid 3 c)
/-- ADD_F32 (R243). -/
def execAddF32 (c : NmrCmd) (s : State) : Host.Outcome State Fault Refusal := .next (s.serve fun w => w.takeNmr s.sid 4 c)
/-- READOUT (R243, R246). -/
def execNmrReadout (c : NmrCmd) (s : State) : Host.Outcome State Fault Refusal := .next (s.serve fun w => w.takeNmr s.sid 5 c)

/-- BAD_PACKET: a packet of reserved KIND is discarded and counted (R397). -/
def execBadPacket (kind : BitVec 8) (p : Packet) (s : State) : Host.Outcome State Fault Refusal :=
  .next (s.serve fun w =>
    if w.fab.trained = false ∨ (0 < kind.toNat ∧ kind.toNat < 0x12) then w
    else
      let w := (w.tick .fab 0 0x088).tick .fab 0 0x0D8
      (w.countPair p).releaseOrder s.sid p.src.toNat (w.fab.orderHeld.length + 1))

/-! ### Transit (R400 to R405) -/

/-- Buffers of one CLASS at a port input (R404). -/
def classBuffers : Nat := 8

/-- The input that an output port serves next: inputs that hold a packet for it are served in rotation (R406). -/
def World.inputServed (w : World) (out : Nat) : Option Nat :=
  ((List.range 48).map fun k => (AMap.get 0 w.fab.portTurn out + k) % 48).find? fun i =>
    (List.range 4).any fun c => (w.buffered i c).any (w.waitsFor out)

/-- A packet in transit leaves through a port, in the CLASS of that hop. -/
def World.passes (w : World) (kind : Nat) (p : Packet) (hop : Nat × Nat) : World :=
  let q := { p with flags := (p.flags &&& 0xCF) ||| BitVec.ofNat 8 (16 * hop.2) }
  (w.frameOut hop.1 kind q).emit (.packet kind q)

/-- The next port of a CIRCUIT packet: that of its circuit here (R408). -/
def World.circuitHop (w : World) (p : Packet) (phys : Nat) : Nat × Nat :=
  let own := (w.circuitTo p.src.toNat p.dst.toNat).bind fun c => c.path.find? fun x => decide (x.1 = w.fab.physical)
  own.elim (w.transitHop p phys) fun x => (x.2, (w.transitHop p phys).2)

/-- PACKET_HOP: a packet in transit enters a buffer of its CLASS at a port input: one that enters the CLASS when two of them are free, one that
continues within it when one is (R405). When the output port of its route serves this input, in rotation (R406), it leaves. A CIRCUIT
packet goes through outside the buffers (R408); one for a failed module is discarded (R403). -/
def execPacketHop (input : HopInput) (kind : BitVec 8) (p : Packet) (s : State) : Host.Outcome State Fault Refusal :=
  .next (s.serve fun w =>
    let port := input.port
    let key := 4 * port.val + bitsAt p.flags.toNat 4 2
    let held := AMap.get [] w.fab.buffers key
    let drop := fun (w : World) => { w with fab := { w.fab with buffers := AMap.set [] w.fab.buffers key (held.erase (kind.toNat, p)) } }
    if w.fab.trained = false ∨ w.portUp port.val = false then w
    else
      match w.physicalOf p.dst.toNat with
      | none => w
      | some phys =>
        if w.fab.failed.contains phys then (drop w).tick .fab 0 0x0A0
        else if bitAt p.flags.toNat 3 then (w.tick .fabPort port.val 0x088).passes kind.toNat p (w.circuitHop p phys)
        else if held.contains (kind.toNat, p) then
          let hop := w.transitHop p phys
          if w.inputServed hop.1 = some port.val then
            let w := drop w
            { w with fab := { w.fab with portTurn := AMap.set 0 w.fab.portTurn hop.1 ((port.val + 1) % 48) } }.passes kind.toNat p hop
          else w
        else if held.length + (if input.continues then 1 else 2) ≤ classBuffers then
          { w with fab := { w.fab with buffers := AMap.set [] w.fab.buffers key (held ++ [(kind.toNat, p)]) } }.tick .fabPort port.val 0x088
        else if input.continues then w
        else w.tick .fab 0 0x0D0)

end Sys2Proof.Machine
end

