-- ==== Sys2Proof/Machine/Boundary.lean ====
section
/-!
DEFINITION. The step boundary (R25 to R33): when a module enters the step barrier (R27), the switch (R28, R219), statistics over a
domain (R102), the items of the step digest (R453), dumps that the switch starts (R597), the evaluation slot (R505, R508, R520) and
the start of runs (R350).
-/

namespace Sys2Proof.Machine

/-! ### Items of the step digest (R453) -/

/-- Item 0: a row as stored in the current version. -/
def World.rowItem (n p : Nat) (x : Tensor) (e : DirEntry) (w : World) (row : Nat) : World :=
  w.addLeaf n (x.shardOfRow row) ([0] ++ leBytes 4 x.id ++ leBytes 8 row ++ w.hbmRead p (e.curBase + row * e.recordBytes) e.recordBytes)

/-- Item 1: a run of 64 elements of a matrix, where a tile of one of them meets a record of the list; rows that this module does not
hold read +0. -/
def World.runItem (n p : Nat) (x : Tensor) (e : DirEntry) (recs : List Nat) (w : World) (q : Nat) : World :=
  let env := w.loadEnv p
  let own := w.homedRows p x
  let stored := x.homed env.positions env.dense
  let transpose := (w.kilnEntryOf p x.id).elim false fun k => k.2.2.2.transpose
  let rows := stored.2 - stored.1
  let cols := max 1 x.cols
  let elems := ((List.range 64).map (64 * q + ·)).filter fun i => decide (i < x.elements)
  let here := fun (i : Nat) => decide (stored.1 ≤ i / cols) && decide (i / cols < stored.2)
  let met := elems.any fun i => here i &&
    (let g := gridPlace transpose rows x.cols (i / cols - stored.1) (i % cols)
     recs.any fun r => rangesMeet (g.1 * x.tileStride) x.tileStride (r * e.recordBytes) e.recordBytes)
  let first := 64 * q / cols
  if met = false ∨ first < own.1 ∨ own.2 ≤ first then w
  else
    let vals := (List.range 64).map fun j =>
      let i := 64 * q + j
      if i < x.elements ∧ here i then w.storedValue p e.curBase x transpose rows (i / cols - stored.1) (i % cols) else .fin false 0 0
    w.addLeaf n (x.shardOfRow first) ([1] ++ leBytes 4 x.id ++ leBytes 8 (64 * q) ++ vals.flatMap fun v => leBytes 8 (fp64.encode v))

/-- Items 0 and 1 of a table for step `n`, from the records written. -/
def World.tableItems (w : World) (n p : Nat) (e : DirEntry) (recs : List Nat) : World :=
  match w.tensor p e.tensor with
  | none => w
  | some x =>
    if e.kind = 0 ∨ w.digests p x = false then w
    else if e.kind = 1 then recs.foldl (World.rowItem n p x e) w
    else (List.range (ceilDiv x.elements 64)).foldl (World.runItem n p x e recs) w

/-- Item 2: a graph row that Hopper changed. -/
def World.graphItem (n : Nat) (w : World) (y : Nat × Nat × Nat) : World :=
  match (w.part 0).entry y.1 with
  | none => w
  | some e =>
    let rd := w.feedRead true e
    match imageShard rd y.2.1 with
    | none => w
    | some s =>
      match (imageDirs rd).find? fun d => decide (d.1 = s) with
      | none => w
      | some d =>
        let ent := rd (d.2 + 64 * y.2.2) 64
        let es := rowEdges rd
          { entryAt := d.2 + 64 * y.2.2, entry := ent, row := y.2.1 - imageFirst rd s, rows := imageFirst rd (s + 1) - imageFirst rd s }
        w.addLeaf n s ([2] ++ leBytes 4 y.1 ++ leBytes 8 y.2.1 ++ leBytes 1 y.2.2 ++ leBytes 4 es.length
          ++ es.flatMap fun v => leBytes 8 v.1 ++ leBytes 4 v.2.1 ++ leBytes 2 v.2.2)

/-- Items of step `n` that are formed at the switch: the statistics, the tables that have no catch-up, and the graph rows of the
batch that has become current. -/
def World.switchItems (w : World) (n : Nat) : World :=
  if w.config.twinRole = 0 then w
  else
    let b := (w.part 0).bundle.getD {}
    let w := if (w.loadEnv 0).dense = 0 then
        (List.range b.tensors.length).foldl (fun w i => w.addLeaf n 0 ([3] ++ w.hbmRead 0 (b.statsBase + 128 * i) 0x51)) w else w
    let w := ((w.part 0).dir.filter (·.fullRewrite)).foldl (fun w e => w.tableItems n 0 e (List.range e.records)) w
    let due := w.hop.changed.filter fun c => decide (c.1 ≤ n + 1)
    (((due.map (·.2)).eraseDups).foldl (World.graphItem n) w).updHop fun h =>
      { h with changed := h.changed.filter fun c => decide (n + 1 < c.1) }

/-! ### Statistics over a domain (R102) -/

/-- Counts of a tensor as they travel: whether it was written, the six counts and the flags. -/
def StatAcc.counts (a : StatAcc) : List Nat :=
  [if a.written then 1 else 0, a.elements, a.zero, a.zeroed, a.flushed, a.overflow, a.saturated, a.flags]
/-- The statistics that counts and an AMAX spell. -/
def statsOf (c : List Nat) (amax : Nat) : StatAcc :=
  { written := decide (c.getD 0 0 ≠ 0), elements := c.getD 1 0, zero := c.getD 2 0, zeroed := c.getD 3 0, flushed := c.getD 4 0
    overflow := c.getD 5 0, saturated := c.getD 6 0, flags := c.getD 7 0, amax := amax }

/-- Tensors whose statistics the domain combines: those sharded over it. -/
def World.sharded (w : World) : List Tensor := ((w.part 0).bundle.elim [] (·.tensors)).filter fun x => x.map.isSome

/-- A module's entry into the step barrier (R413, R416, R484). -/
def World.stepEntry (w : World) : TreeMsg :=
  let x := w.part 0
  let st := w.sharded.map fun y => (y.id, AMap.get {} x.stats y.id)
  { kind := 0, barrier := 0, entries := 1, step := x.step
    caskFlags := if w.cask.flag ∨ w.cask.request ∨ w.cask.forced then 1 else 0
    sent := x.mcSent, received := x.mcReceived
    amax := st.map fun y => (y.1, BitVec.ofNat 32 y.2.amax), counts := st.map fun y => (y.1, y.2.counts)
    fromPosition := w.ownPosition }

/-- The combined statistics of the domain take the place of the module's own. -/
def World.takeStats (w : World) (m : TreeMsg) : World :=
  w.updPart 0 fun x =>
    { x with stats := m.counts.foldl (fun st c =>
        AMap.set {} st c.1 (statsOf c.2 (((m.amax.find? fun a => decide (a.1 = c.1)).map (·.2.toNat)).getD 0))) x.stats }

/-! ### Entering the barrier (R27) -/

/-- Every flow of the partition's run is exhausted (R344). -/
def World.flowsExhausted (w : World) (p : Nat) : Bool :=
  w.flows.all fun f => !((w.diesOf p).contains (f.1 / 256)) || !f.2.active || decide (f.2.head = f.2.count)

/-- Every reduction in which this module has a part has given its result here. -/
def World.reducesDone (w : World) : Bool :=
  w.fab.reduces.isEmpty && ((w.part 0).bundle.elim [] (·.tensors)).all fun x =>
    match w.reduceMap x.id with
    | none => true
    | some y => w.fab.reduceSent.contains x.id || !w.reduceDue y.2

/-- The conditions of R27 for the step in progress but the Kiln's and those that follow it. -/
def World.stepDone (w : World) (p : Nat) : Bool :=
  let x := w.part p
  w.jobRuns p && x.started && !x.running && x.due.isNone && !x.inBarrier && w.flowsExhausted p
    && x.pools.all (fun e => e.2.rows.isEmpty) && x.heldWrites.isEmpty && x.dir.all (·.catchupDone)
    && (decide (p ≠ 0) || (w.reducesDone && w.hopReady x.step))

/-- The old home writes a migrating row's pending version at the new home (R250). -/
def World.sendMigrant (t : Sid) (w : World) (a : Nat × Nat × Nat) : World :=
  match (w.part 0).entry a.1 with
  | none => w
  | some e =>
    if w.physicalOf a.2.2 = none then (w.noPosition a.2.2).metadata t 0 (nmrSource (w.rowStack 0 e a.2.1)) 0x40 a.2.2
    else
      let at' := e.penBase + a.2.1 * e.recordBytes
      let bs := w.hbmRead 0 at' e.recordBytes
      let w := (w.hbmFetch (nmrSource (w.rowStack 0 e a.2.1)) 0 at' e.recordBytes).2
      (List.range (ceilDiv e.recordBytes 2048)).foldl (fun w i =>
        (w.updPart 0 fun x => { x with migrateOut := x.migrateOut + 1 }).sendPacket t 0x03 a.2.2 (nmrSource (w.rowStack 0 e a.2.1))
          (mkTag 7 7 0) (globalAddr a.2.2 (at' + 2048 * i)) false true ((bs.drop (2048 * i)).take 2048)) w

/-- Whether the peers' rings lack room for further journal entries, as far as this module's own ring shows it (R480). -/
def World.ringFull (w : World) : Bool :=
  w.inGroup && ((w.part 0).dir.any DirEntry.journals) && decide (w.ringRoom < w.ringUsed)

/-! ### The switch (R28, R219, R220) -/

/-- A directory entry after the switch. A table with FULL_REWRITE has no catch-up; its override tables agree at once. -/
def DirEntry.switched (e : DirEntry) : DirEntry :=
  let e := { e with current := !e.current, version := (e.version + 1) % 2 ^ 63, catchup := if e.fullRewrite then [] else e.dirtySet
                    dirtySet := [], catchupDone := e.fullRewrite }
  e.setPenOver e.curOver

/-- Forwarding entries after a switch (R251): those in their second switch expire, and the rows whose migration commits get one. -/
def Part.forwarded (x : Part) : List (Nat × Nat × Nat × Nat) :=
  ((x.forwarding.map fun f => (f.1, f.2.1, f.2.2.1, f.2.2.2 - 1)).filter fun f => decide (0 < f.2.2.2))
    ++ x.accepted.map fun a => (a.1, a.2.1, a.2.2, 2)

/-- The rows of a table that other modules home are in the format that the statistics record of the closed step names, where the table
has one (R103, R107). -/
def World.closedFormat (w : World) (p : Nat) (e : DirEntry) : DirEntry :=
  match ((w.part p).bundle.elim [] (·.tensors)).zipIdx.find? fun x => decide (x.1.id = e.tensor) with
  | some x => if e.kind = 1 then { e with farFormat := some (leAt (w.hbmRead p (w.statsRecord p x.2) 128) 4 1) } else e
  | none => e

/-- Every versioned table of a partition switches. -/
def World.switchTables (w : World) (p : Nat) : World :=
  let w := w.updPart p fun x => { x with forwarding := x.forwarded, dir := x.dir.map (w.closedFormat p ·.switched), accepted := [] }
  let w := ((w.part p).dir.filter fun e => e.fullRewrite && decide (e.kind = 1)).foldl (fun w e =>
    w.hbmStore p e.penOverBase (overImage e.penOver)) w
  (w.writeDirectory p (w.dirBase p)).freeMoved p

/-- What a switch clears for the new step: pools (R245), once-a-step events, and the multicast counts. -/
def World.clearStep (w : World) (p : Nat) : World :=
  let w := w.updPart p fun x =>
    { x with pools := [], inBarrier := false, closeSent := false, kilnDone := false, migrateSent := false, migrateOut := 0
             overflowRaised := [], skipRaised := [], mcSent := 0, mcReceived := 0 }
  let w := (w.coresOf p).foldl (fun w c => w.updCore c fun x => { x with axe := { x.axe with guardHitStep := false, hotStep := false } }) w
  let w := { w with parityStep := w.parityStep.filter fun x => decide (w.ownerOfDie (x.1 / 64) ≠ p) }
  if p = 0 then { w with fab := { w.fab with raisedOverflow := [], guards := [] }, cask := { w.cask with ringHeld := false } } else w

/-! ### Dumps (R595 to R599) -/

/-- The image of a dump (R598). -/
def World.dumpImage (w : World) (p : Nat) (d : Dump) (e : DirEntry) : List Byte :=
  let b := (w.part p).bundle.getD {}
  let rec' := ((b.tensors.findIdx? fun x => decide (x.id = d.tensor)).elim [] fun i => w.hbmRead p (b.statsBase + 128 * i) 128)
  leBytes 4 0x504D5544 ++ leBytes 2 1 ++ leBytes 2 (if d.stats then 1 else 0) ++ leBytes 4 d.tensor ++ leBytes 2 w.moduleKey ++ [0, 0]
    ++ leBytes 8 d.step ++ leBytes 8 e.bytes ++ leBytes 8 (if p = 0 then w.hop.cut.getD allOnes64 else allOnes64) ++ List.replicate 24 0
    ++ w.hbmRead p e.curBase e.bytes ++ (if d.stats then rec' else [])

/-- A dump for the Ethernet store begins its transfer when none runs (R599). -/
def World.sendDump (w : World) : World :=
  let d := (w.part 0).dump
  if d.state = 2 ∧ d.ethernet ∧ d.copied = 0 ∧ w.cask.transfer.active = false ∧ w.cask.transfer.segs = [] then
    (w.updCask fun c =>
      { c with transfer := { active := true, step := d.step, dump := some d.tensor, segs := [(0x80000000 + d.tensor, d.image)] } }).pumpTransfer
      transferWindow
  else w

/-- An armed dump of step `n` reads its tensor at the switch that ends the step (R597). -/
def World.startDump (w : World) (p n : Nat) : World :=
  let d := (w.part p).dump
  match (w.part p).entry d.tensor with
  | some e =>
    if d.state = 1 ∧ d.step = n then
      let img := w.dumpImage p d e
      (w.updPart p fun x => { x with dump := { d with state := 2, image := img, copied := 0, bytes := img.length } }).sendDump
    else w
  | none => w

/-! ### Runs (R336, R350, R505, R508, R520) -/

/-- A run begins; one in which no sequencer starts ends at once. -/
def World.startRun (w : World) (t : Sid) (p : Nat) (eval : Bool) : World :=
  ((w.updPart p fun x => { x with due := none }).beginRun t p eval).endRun p

/-- The header of the proposal region says that it holds no entry (R520); no region is set while CAPACITY is 0 (assumption 93). -/
def World.clearProposals (w : World) (t : Sid) : World :=
  let r := w.reg (Block.tap.addr 0 0x000)
  let a := fieldOf r 0 48
  if 0 < fieldOf r 48 16 ∧ a + 16 + 16 * fieldOf r 48 16 ≤ w.hbmCapacity 0 then w.hbmApply t (ioSource 9) w.ownPosition 0 a (leBytes 4 0) else w

/-- The evaluation slot of a cycle begins. -/
def World.startSlot (w : World) (t : Sid) : World :=
  let w := { w with tap := { w.tap with slotStart := t.now, emitted := false, discarded := false
                                        slotCycle := w.cycleOf (w.part 0).step } }
  (w.clearProposals t).startRun t 0 true

/-- The work of a step is released: its run begins, or is due when the mirror stop ends (R475). -/
def World.releaseRun (w : World) (t : Sid) (p : Nat) : World :=
  if p = 0 ∧ w.mirrorStop then w.updPart 0 fun x => { x with due := some false } else w.startRun t p false

/-- What follows the boundary that opens a step: the slot of a cycle that the step opens, unless the cycle has passed (R505, R508),
else the step's run. -/
def World.openStep (w : World) (t : Sid) (p : Nat) : World :=
  let n := (w.part p).step
  if p = 0 ∧ w.opensCycle n then
    let c := w.cycleOf n
    if (c + 1) * w.hop.cycleNs ≤ t.now then
      ((w.raise t (ioSource 9) 0x150 (c % 2 ^ 32)).tick .tap 0 0x0B8).releaseRun t 0
    else w.startSlot t
  else w.releaseRun t p

/-! ### The boundary -/

/-- What partition 0 does besides at a boundary that closes step `n`: the cut, the feed log, the requests held for the new step,
batches, and the cask. -/
def World.domainBoundary (w : World) (t : Sid) (n : Nat) (cask : Bool) : World :=
  let w := (w.updHop fun h => { h with cut := some (n + 1), cutTime := h.cutAt (w.part 0).c0 (n + 1) }).updPart 0 fun x =>
    { x with cycle := w.cycleOf (n + 1) }
  let w := w.updCask fun c => { c with boundaryTimes := (t.now :: c.boundaryTimes).take 1024 }
  let w := (w.switchItems n).journalFeed t n
  let w := if cask then w.beginCask t n else w
  (((w.releaseSteps t).endReplay t).freeRings t (n + 1)).settleBatches t 2

/-- The boundary that closes a step of a partition (R28, R104, R219): statistics, the switch, the next step's number, and what follows.
A STOP AT_BOUNDARY takes effect before work of the following step is released, and reports no ABORT (R551; assumption 14). -/
def World.boundary (w : World) (t : Sid) (p : Nat) (cask : Bool) : World :=
  let n := (w.part p).step
  let w := ((w.closeStats t p n).switchTables p).clearStep p
  let w := w.updPart p fun x => { x with step := n + 1, lastSwitched := some n, restored := false }
  let w := if p = 0 then w.domainBoundary t n cask else w
  let w := w.startDump p n
  if (w.part p).stopAtBoundary then
    let v := w.cancelDump t p
    { v.stopRun p false with out := v.out }
  else w.openStep t p

/-- Whether partition `p` closes its steps through the combining tree (R417). -/
def World.inTree (w : World) (p : Nat) : Bool := decide (p = 0) && w.fab.position.isSome

/-- A partition enters the step barrier: through the tree, or for itself alone. -/
def World.enterStepBarrier (w : World) (t : Sid) (p : Nat) : World :=
  if w.inTree p then (w.updPart 0 fun x => { x with inBarrier := true }).emit (.tree true w.stepEntry)
  else
    w.boundary t p (decide (p = 0) && (w.cask.forced || w.caskDecision t.now (w.part 0).step w.stepEntry.caskFlags))

/-- STEP_BARRIER_ENTER: once the conditions of R27 hold, the module tells the Kiln that the step is closed (R324), sends the rows that
migrate (R250), and enters the domain step barrier when all of it is acknowledged and the journal of the step before is in place
(R478, R480). -/
def execStepBarrierEnter (part : PartId) (s : State) : Host.Outcome State Fault Refusal :=
  .next (s.serve fun w =>
    let p := part.val
    let x := w.part p
    if w.stepDone p = false then w
    else if x.closeSent = false then (w.updPart p fun y => { y with closeSent := true }).toKiln 9 p [x.step] []
    else if x.kilnDone = false then w
    else if p = 0 ∧ x.migrateSent = false then
      x.accepted.foldl (World.sendMigrant s.sid) (w.updPart 0 fun y => { y with migrateSent := true })
    else if x.migrateOut ≠ 0 ∨ (p = 0 ∧ w.cask.journalUnacked ≠ 0) then w
    else if p = 0 ∧ w.ringFull then
      if w.cask.ringHeld then w else (w.updCask fun c => { c with ringHeld := true }).tick .csk 0 0x0A8
    else w.enterStepBarrier s.sid p)

/-- RUN_START: a run that is due begins (R336, R350): the first one of a job, once batch 0 is applied (R510), and the step's after the
slot's (R32) or after the mirror stop (R475). -/
def execRunStart (part : PartId) (eval : Bool) (s : State) : Host.Outcome State Fault Refusal :=
  .next (s.serve fun w =>
    let p := part.val
    if w.jobRuns p = false ∨ (w.part p).running ∨ (w.part p).due ≠ some eval ∨ (p = 0 ∧ (w.hop.applied = 0 ∨ (eval = false ∧ w.mirrorStop))) then w
    else if eval then w.openStep s.sid p
    else w.startRun s.sid p false)

/-- CATCHUP_COPY: the catch-up of one table after a switch (R220), with its journal (R477) and its items of the step digest (R453); it
follows the switch even when the job stopped there. -/
def execCatchupCopy (part : PartId) (table : Nat) (s : State) : Host.Outcome State Fault Refusal :=
  .next (s.serve fun w =>
    let p := part.val
    match (w.part p).entry table with
    | none => w
    | some e =>
      if e.catchupDone ∨ (p = 0 ∧ e.journals ∧ w.canSend = false) then w
      else
        let w := if p = 0 then
            (w.journalTable s.sid e).tableItems ((w.part 0).step - 1) 0 e e.catchup else w
        w.catchUp s.sid p table)

end Sys2Proof.Machine
end

