-- ==== Sys2Proof/Machine/Time.lean ====
section
/-!
DEFINITION. Time distribution (R430 to R438): time marks and the median offset, stepping and slewing, LOCKED and HOLDOVER, the
roots' references and PPS_OUT.
-/

namespace Sys2Proof.Machine

/-- Inserts into an ascending list. -/
def insertInt (x : Int) : List Int → List Int
  | [] => [x]
  | y :: ys => if x ≤ y then x :: y :: ys else y :: insertInt x ys

/-- The median of eight offsets: the mean of the two middle ones, toward −∞ (R433). -/
def medianOf (xs : List Int) : Int :=
  let s := xs.foldl (fun l x => insertInt x l) []
  (s.getD 3 0 + s.getD 4 0) / 2

/-- The median offset of the last eight marks, once there are eight (R433). -/
def Sid.median (t : Sid) : Option Int := if t.offsets.length = 8 then some (medianOf t.offsets) else none

/-- The counter after a correction in one write (R434). -/
def Sid.stepBy (t : Sid) (d : Int) : Sid := { t with now := ((t.now : Int) + d).toNat % 2 ^ 64 }

/-- Half a round trip in ns, from tenths. -/
def halfTrip (rttTenthNs : Nat) : Nat := (rttTenthNs + 10) / 20

/-- A correction is due (R434): it is written at once before the first job of partition 0, else left to slewing. -/
def Sid.correct (t : Sid) (d : Int) : Sid :=
  if t.canStep then { t.stepBy d with offsets := t.offsets.map (· - d), pendingSlew := 0 }
  else { t with pendingSlew := if d.natAbs ≤ 1 then 0 else d }

/-- A follower after a mark: HOLDOVER ends, the median is corrected, and after 16 marks within ±4 ns it is LOCKED (R434 to R436). -/
def Sid.heed (t : Sid) (offset : Int) : Sid :=
  let t := { t with offsets := (offset :: t.offsets).take 8, holdoverAt := none
                    lock := if t.lock = SidLock.locked then SidLock.locked else SidLock.acquiring }
  match t.median with
  | none => t
  | some m =>
    let good := if m.natAbs ≤ 4 then t.goodMarks + 1 else 0
    { t with goodMarks := good, lock := if 16 ≤ good then SidLock.locked else SidLock.acquiring }.correct m

/-- As `Sid.heed`, with the time at which the mark came. -/
def Sid.follow (t : Sid) (offset : Int) : Sid := let r := t.heed offset; { r with lastMark := r.now }

/-- HOLDOVER begins (R436); offsets taken before it count no more. -/
def Sid.enterHoldover (t : Sid) : Sid :=
  { t with lock := .holdover, holdoverAt := some t.now, offsets := [], goodMarks := 0 }

/-- TIME_HOLDOVER is raised once, with the parent port; 0x3F at a root (R436, R463). -/
def State.holdover (s : State) : State :=
  if s.sid.lock = .holdover then s
  else
    { s with
      sid := s.sid.enterHoldover
      w := (s.w.raise s.sid (ioSource 10) 0x130 (s.sid.parent.getD 0x3F)).tick .sid 0 0x090 }

/-- The parent is chosen again when a port changes state (R432); marks of another parent's link do not mix. -/
def State.chooseParent (s : State) : State :=
  let x := s.w.timeParent
  let root := s.w.isTimeRoot
  let parent := x.map (·.1)
  { s with sid :=
      if parent = s.sid.parent ∧ root = s.sid.isRoot then { s.sid with hops := x.elim 0 (·.2) }
      else
        { s.sid with
          parent := parent, hops := x.elim 0 (·.2), isRoot := root, offsets := [], goodMarks := 0
          canStep := s.sid.canStep && !(root && s.sid.parent.isSome)
          lock := if root then SidLock.root else if s.sid.isRoot ∨ s.sid.lock = SidLock.root then SidLock.acquiring else s.sid.lock } }

/-- TIME_MARK_SEND: at a multiple of 10 µs the module sends its SID_NOW on every link that is up (R433). -/
def execTimeMarkSend (s : State) : Host.Outcome State Fault Refusal :=
  .next (s.serve fun w =>
    ((List.range 48).filter w.portUp).foldl (fun w i => w.emit (.mark i s.sid.now)) w)

/-- TIME_MARK: a mark from the parent port gives one offset; other ports' marks are not used (R433 to R436). -/
def execTimeMark (port : PortId) (value : BitVec 64) (s : State) : Host.Outcome State Fault Refusal :=
  if s.inService = false ∨ s.sid.isRoot ∨ s.sid.parent ≠ some port.val ∨ s.w.portUp port.val = false then .next s
  else
    let rtt := (AMap.get {} s.w.fab.ports port.val).rttTenthNs
    .next { s with
      sid := s.sid.follow ((value.toNat + halfTrip rtt : Nat) - (s.sid.now : Int))
      w := s.w.tick .sid 0 0x080 }

/-- SLEW_TICK: 1 ms of slewing corrects by at most 50 ns (R434). A backward correction makes the counter stand still, since it never
decreases (R430). -/
def execSlewTick (s : State) : Host.Outcome State Fault Refusal :=
  let d := s.sid.pendingSlew
  let n := min d.natAbs 50
  if s.pwr.phase = .off ∨ n = 0 then .next s
  else
    let c : Int := if d < 0 then -(n : Int) else n
    let t := { s.sid with pendingSlew := d - c, offsets := s.sid.offsets.map (· - c) }
    .next { s with
      sid := if d < 0 then { t with hold := t.hold + n } else { t with now := (t.now + n) % 2 ^ 64 }
      w := s.w.count (Block.sid.addr 0 0x088) n }

/-- TIME_HOLDOVER: no mark has come from the parent for 100 µs (R436). -/
def execTimeHoldover (s : State) : Host.Outcome State Fault Refusal :=
  if s.inService = false ∨ s.sid.isRoot ∨ s.sid.parent = none ∨ s.sid.now < s.sid.lastMark + 100000 then .next s else .next s.holdover

/-- A root's reference shows an offset: HOLDOVER ends and the counter is corrected under R434 (R437). -/
def Sid.discipline (t : Sid) (offset : Int) : Sid :=
  ({ t with lock := .root, holdoverAt := none }.correct offset)

/-- PTP_MESSAGE: a root with SID_SOURCE 1 learns its offset from PTP (R437). -/
def execPtpMessage (o : RefOffset) (s : State) : Host.Outcome State Fault Refusal :=
  match s.w.ethRole 5 with
  | none => .next s
  | some e =>
    if s.inService = false ∨ s.w.ethUp e.port = false then .next s
    else
      let s := { s with w := s.w.hear e.port id }
      if s.sid.isRoot ∧ s.w.config.sidSource = 1 ∧ s.w.ethHears e.port then .next { s with sid := s.sid.discipline o.offset, w := s.w.tick .eth 0 0x0B0 } else .next s

/-- The nearest whole second less the counter. -/
def secondOffset (now : Nat) : Int :=
  let r := now % 1000000000
  if r < 500000000 then -(r : Int) else 1000000000 - r

/-- PPS_IN_EDGE: a root with SID_SOURCE 2 aligns whole seconds to the edge (R437). -/
def execPpsInEdge (s : State) : Host.Outcome State Fault Refusal :=
  if s.inService ∧ s.sid.isRoot ∧ s.w.config.sidSource = 2 then .next { s with sid := s.sid.discipline (secondOffset s.sid.now) }
  else .next s

/-- PPS_OUT_EDGE: the counter passes a whole second (R438). -/
def execPpsOutEdge (s : State) : Host.Outcome State Fault Refusal :=
  if s.pwr.phase = .off then .next s else .next { s with w := s.w.emit .pps }

/-- PTP_OR_PPS_IN_LOST: a root that loses its reference enters HOLDOVER (R437). -/
def execPtpOrPpsInLost (s : State) : Host.Outcome State Fault Refusal :=
  if s.inService ∧ s.sid.isRoot ∧ (s.w.config.sidSource = 1 ∨ s.w.config.sidSource = 2) then .next s.holdover else .next s

end Sys2Proof.Machine
end

