-- ==== Sys2Proof/Machine/Drain.lean ====
section
/-!
DEFINITION. Failed modules (R395), the abort of a step (R417), the takeover of a position by the group's spare (R493, R494), and how a
drain starts (R418).
-/

namespace Sys2Proof.Machine

/-- The slot that an intra-group port of this module leads to (R384). -/
def World.slotOfPort (w : World) (i : Nat) : Nat := (w.fab.slot + i + 1) % 17

/-- The position that a physical module holds. -/
def World.positionHeld (w : World) (phys : Nat) : Option Nat :=
  ((List.range w.config.positions).map w.config.positionAt).find? fun p => decide (w.physicalOf p = some phys)

/-- The module that reports for this group towards the domain head: the lowest position of the group whose module is not failed. -/
def World.groupVoice (w : World) : Bool :=
  (((List.range w.config.activeSlots).map (w.config.group * 16 + ·)).find? fun p =>
    (w.physicalOf p).elim false fun x => !w.fab.failed.contains x) = w.fab.position ∧ w.fab.position.isSome

/-! ### Abort (R417) -/

/-- The domain head completes the step barrier, and with it every domain barrier, with ABORT, once. -/
def World.abortDomain (w : World) (step : Nat) : World :=
  if w.fab.aborted then w
  else
    { w with fab := { w.fab with aborted := true, gens := w.fab.gens.filter fun g => decide (16 ≤ g.1 ∧ g.1 < 32) } }.emit
      (.tree false { kind := 0, barrier := 0, abort := true, step := step, fromPosition := w.ownPosition })

/-! ### Drains (R418, R419) -/

/-- Changes the drain. -/
def World.updDrain (w : World) (f : Drain → Drain) : World := { w with fab := { w.fab with drain := f w.fab.drain } }

/-- What an entry of the staged table that nobody has staged reads as in `Fab.staged`: no physical number, and not the 0xFFFF of an empty
position. -/
def unstaged : Nat := 0x10000

/-- The head starts a drain: DRAIN_REQ carries the entries that are staged. -/
def World.startDrain (w : World) (reason : Nat) : World :=
  (w.updDrain fun d => { d with active := true, requested := false, reason := reason, status := 0, installed := false }).emit
    (.drain 0 (w.fab.staged.flatMap fun e => [e.1, e.2]))

/-! ### Takeover (R493, R494) -/

/-- SPARE_TAKEOVER (R493). -/
def World.raiseTakeover (w : World) (t : Sid) (pos group status : Nat) : World :=
  w.raiseAs t (ioSource 11) 0x141 (if status = 0 then 1 else 3) (pos % 2 ^ 14 + group % 2 ^ 8 * 2 ^ 16 + status * 2 ^ 24)
    (w.eventExtra (ioSource 11))

/-- The domain head takes over position `pos` of a failed module. A group whose casks are not covered, or a domain without a committed
cask, cannot be restored (R494). -/
def World.takeover (w : World) (t : Sid) (phys pos : Nat) : World :=
  let g := phys / 17
  let spare := g * 17 + 16
  let w := w.abortDomain (w.part 0).step
  let hit := w.fab.uncovered.contains g
  let w := { w with
    fab := { w.fab with uncovered := if hit then w.fab.uncovered else w.fab.uncovered ++ [g] }
    cask := { w.cask with takeovers := (t.now :: w.cask.takeovers) } }
  if w.fab.failed.contains spare ∨ (w.positionHeld spare).isSome ∨ (w.fab.staged.any fun e => decide (e.2 = spare)) then
    w.raiseTakeover t pos g 1
  else if hit ∨ w.cask.committed = none then w.raiseTakeover t pos g 2
  else
    let w := { w with fab := { w.fab with staged := AMap.set unstaged w.fab.staged pos spare, taking := w.fab.taking ++ [pos] } }
    if w.fab.drain.active then w else w.startDrain 0

/-- The domain head learns that a module has failed: a position that it holds is taken over, when a drain that is under way has ended;
one that holds none is marked and nothing follows (R395). -/
def World.headFailed (w : World) (t : Sid) (phys : Nat) : World :=
  let pos := w.positionHeld phys
  if w.fab.failed.contains phys then w
  else
    let w := { w with fab := { w.fab with failed := w.fab.failed ++ [phys] } }
    match pos with
    | none => w
    | some p =>
      if w.fab.drain.active then { w with fab := { w.fab with lost := w.fab.lost ++ [(phys, p)] } } else w.takeover t phys p

/-- A module is marked failed (R395, R494); the group's voice tells the domain head. -/
def World.markFailed (w : World) (t : Sid) (phys : Nat) : World :=
  if w.fab.failed.contains phys then w
  else
    let own := decide (phys / 17 = w.config.group)
    let w := if own ∧ (w.positionHeld phys).isSome then { w with cask := { w.cask with covered := false } } else w
    if w.domainHead then w.headFailed t phys
    else
      let w := { w with fab := { w.fab with failed := w.fab.failed ++ [phys] } }
      if own ∧ w.groupVoice then w.emit (.tree true { kind := 3, entries := 1, step := phys, fromPosition := w.ownPosition }) else w

/-- As `World.markFailed`; when the module is the root's, every other module enters HOLDOVER (R436). -/
def State.markFailed (s : State) (phys : Nat) : State :=
  let root := decide (s.w.physicalOf s.w.timeRoot = some phys) && !s.sid.isRoot && !s.w.fab.failed.contains phys
  let s := { s with w := s.w.markFailed s.sid phys }
  if root then s.holdover else s

/-- The physical module in a slot of this group. -/
def World.groupPhysical (w : World) (slot : Nat) : Nat := w.config.group * 17 + slot

/-- A slot is reported down by a member of the group; the second report of a slot marks its module failed (R395). -/
def State.slotReport (s : State) (reporter slot : Nat) : State :=
  if s.w.config.populated slot = false ∨ s.w.fab.reports.contains (slot, reporter) then s
  else
    let rs := s.w.fab.reports ++ [(slot, reporter)]
    let s := { s with w := { s.w with fab := { s.w.fab with reports := rs } } }
    if 2 ≤ (rs.filter fun r => decide (r.1 = slot)).length then s.markFailed (s.w.groupPhysical slot) else s

/-- This module finds its port to a slot down: it reports the slot over its other intra-group ports that are up (R395). -/
def State.reportDown (s : State) (port : Nat) : State :=
  let slot := s.w.slotOfPort port
  if 16 ≤ port ∨ s.w.config.populated slot = false then s
  else
    let s := if (List.range 16).any fun i => decide (i ≠ port) && s.w.portUp i then { s with w := s.w.emit (.notice slot false) } else s
    s.slotReport s.w.fab.slot slot

end Sys2Proof.Machine
end

