-- ==== Sys2Proof/Machine/Twin.lean ====
section
/-!
DEFINITION. Twin operation (R452 to R459): the step digest, digest frames, comparison, rollback and fencing. The twin's state lives on
the domain head; a module that holds no position is the head of its own domain.
-/

namespace Sys2Proof.Machine

/-- Changes the twin's state. -/
def World.updTwin (w : World) (f : Twin → Twin) : World := { w with twin := f w.twin }

/-- Whether this module speaks for its domain. -/
def World.headOfDomain (w : World) : Bool := w.domainHead || w.fab.position.isNone

/-- States of SID_TWIN_STATUS (R465). -/
def twinPaired : Nat := 1
def twinRolling : Nat := 2
def twinAlone : Nat := 3
def twinFenced : Nat := 4
def twinStopped : Nat := 5

/-- Whether frames are exchanged: paired or rolling back. -/
def Twin.talks (x : Twin) : Bool := decide (x.state = twinPaired) || decide (x.state = twinRolling)

/-- TWIN_WINDOW in steps (R464). -/
def World.twinWindow (w : World) : Nat := max 1 (w.regField (Block.sid.addr 0 0x018) 16 32)

/-- Divergences charged to this domain within TWIN_WINDOW of step `n`. -/
def World.ownDivergences (w : World) (n : Nat) : Nat :=
  (w.twin.ownDiv.filter fun x => decide (n < x + w.twinWindow)).length

/-! ### Frames (R455) -/

/-- Eight bytes of a step, all ones for none. -/
def stepField (x : Option Nat) : List Byte := beBytes 8 (x.getD allOnes64)

/-- A twin frame of 128 bytes. -/
def World.twinFrame (w : World) (now kind step : Nat) (digest : List Byte) : List Byte :=
  let tag := leAt ((w.part 0).bundle.elim [] (·.digest)) 0 4
  beBytes 4 0x4D4A5444 ++ beBytes 2 1 ++ beBytes 1 w.config.twinRole ++ beBytes 1 kind ++ beBytes 8 step ++ beBytes 8 step
    ++ slice digest 0 32 ++ ((List.range 4).flatMap fun i => stepField (w.twin.verified[i]?)) ++ beBytes 4 tag
    ++ beBytes 4 (w.ownDivergences step) ++ beBytes 8 now ++ List.replicate 24 0

/-- Sends a frame to the partner at the address and port of the Ethernet table (R452). -/
def World.toTwin (w : World) (b : List Byte) : World := (w.ethRole 3).elim w fun e => w.sendDatagram e b

/-- Hears a frame of a KIND from the partner (R456): a well-formed one whose BUNDLE_TAG differs is discarded and counted. -/
def State.hearTwin (s : State) (kind : Nat) (b : List Byte) (f : State → State) : State :=
  match s.w.ethRole 3 with
  | none => s
  | some e =>
    let s' := { s with w := s.w.hear e.port id }
    let w := s'.w
    let formed := decide (b.length = 128) && decide (beAt b 0 4 = 0x4D4A5444) && decide (beAt b 4 2 = 1)
      && decide (beAt b 6 1 + w.config.twinRole = 3) && decide (beAt b 7 1 = kind) && allZero (slice b 104 24)
    if w.ethHears e.port = false ∨ formed = false ∨ w.headOfDomain = false ∨ w.twin.talks = false then s'
    else if beAt b 88 4 ≠ leAt ((w.part 0).bundle.elim [] (·.digest)) 0 4 then { s' with w := w.tick .sid 0 0x0B8 }
    else f { s' with w := w.updTwin fun x => { x with lastFrameAt := s.sid.now } }

/-- The steps that a frame's VERIFIED lists. -/
def frameVerified (b : List Byte) : List Nat :=
  ((List.range 4).map fun i => beAt b (56 + 8 * i) 8).filter fun x => decide (x ≠ allOnes64)

/-! ### Fencing (R459) -/

/-- The job of partition 0 stops for the twin's sake (R30), which is a fault of SID's that stops a job (R602, cause 1). -/
def World.twinStop (w : World) (t : Sid) : World := if w.jobRuns 0 then w.stopJob t 0 1 (ioSource 10) else w.cancelDump t 0

/-- TWIN_FENCED with its case. -/
def World.raiseFenced (w : World) (t : Sid) (how : Nat) : World := w.raise t (ioSource 10) 0x132 how

/-- The domain is charged with a divergence at step `n`; with its second within TWIN_WINDOW it is fenced (R459). -/
def World.charge (w : World) (t : Sid) (n : Nat) : World :=
  let w := w.updTwin fun x => { x with ownDiv := n :: x.ownDiv }
  if w.ownDivergences n < 2 then w
  else
    let w := ((w.raiseFenced t 0).twinStop t).toTwin (w.twinFrame t.now 2 n [])
    w.updTwin fun x => { x with state := twinFenced, pending := [] }

/-- The domain continues alone (R459). -/
def World.goAlone (w : World) (t : Sid) (how : Nat) : World :=
  (w.updTwin fun x => { x with state := twinAlone, pending := [], replayStep := none, originals := [] }).raiseFenced t how

/-! ### Rollback (R457, R458) -/

/-- DIGEST_MISMATCH for step `n`; `flag` is the PAYLOAD bit of a domain that stops for good. -/
def World.mismatch (w : World) (t : Sid) (n flag : Nat) : World :=
  (w.raise t (ioSource 10) 0x131 (Nat.lor (n % 2 ^ 32) flag)).tick .sid 0 0x0A8

/-- The domain stops for good: no common cask, or a persistent difference. -/
def World.twinEnd (w : World) (t : Sid) (n flag : Nat) : World :=
  ((w.mismatch t n flag).twinStop t).updTwin fun x => { x with state := twinStopped, pending := [] }

/-- Keys of this domain's and the partner's first digests of a step under re-execution. -/
def ownOriginal (n : Nat) : Nat := 2 * n
def partnerOriginal (n : Nat) : Nat := 2 * n + 1

/-- The rollback of step `n` (R457): the event, the ROLLBACK frame, the stop, and the restore from the highest cask that both sides
have verified; the digests after it are formed and exchanged again. -/
def World.rollBack (w : World) (t : Sid) (n : Nat) : World :=
  let common := w.twin.verified.find? fun x => w.twin.partnerVerified.contains x
  match common with
  | none => (w.toTwin (w.twinFrame t.now 1 n [])).twinEnd t n (2 ^ 31)
  | some c =>
    let w := (w.mismatch t n 0).toTwin (w.twinFrame t.now 1 n [])
    let w := ((w.twinStop t).tick .sid 0 0x0B0).updCask fun c => { c with takeovers := t.now :: c.takeovers }
    let w := w.updTwin fun x =>
      let first := fun (k : Nat) (m : AMap (List Byte)) (o : AMap (List Byte)) => AMap.set [] o k (AMap.get [] m n)
      { x with
        state := twinRolling, replayStep := some n, pending := []
        originals := if x.replayStep = some n then x.originals
          else first (partnerOriginal n) x.partner (first (ownOriginal n) x.digests [])
        digests := x.digests.filter fun y => decide (y.1 ≤ c)
        partner := x.partner.filter fun y => decide (y.1 ≤ c)
        sums := [], formed := none }
    w.beginRestore t false c

/-- Casks of this domain that the peers still hold and whose every step up to their own has matched are verified (R456). Digests are
kept from the oldest verified cask, at most 65,536. -/
def World.settleVerified (w : World) : World :=
  if w.config.twinRole = 0 ∨ w.headOfDomain = false then w
  else
    let x := w.twin
    let matched := fun (c : Nat) =>
      decide (AMap.get [] x.digests c ≠ [])
        && (x.digests.filter fun y => decide (y.1 ≤ c)).all fun y => decide (AMap.get [] x.partner y.1 = y.2)
    let have' := (w.cask.slots.filterMap id).filter fun c => w.cask.committed.elim false fun y => decide (c ≤ y)
    let new := have'.filter fun c => matched c && !x.verified.contains c
    let all := ((List.range 8).foldl (fun (a : List Nat × List Nat) _ =>
      match a.2.foldl (fun (m : Option Nat) c => some (m.elim c (max c))) none with
      | none => a
      | some m => (a.1 ++ [m], a.2.filter fun c => decide (c ≠ m))) ([], x.verified ++ new)).1
    let keep := all.take 4
    let oldest := keep.getLast?.getD 0
    let cut := fun (m : AMap (List Byte)) =>
      let m := m.filter fun y => decide (oldest ≤ y.1)
      m.drop (m.length - 65536)
    w.updTwin fun x => { x with verified := keep, digests := cut x.digests, partner := cut x.partner }

/-- Both digests of step `n` are known: they match, or a rollback begins; at the step under re-execution divergences are charged
(R457 to R459). -/
def World.compareStep (w : World) (t : Sid) (n : Nat) : World :=
  let x := w.twin
  let own := AMap.get [] x.digests n
  let theirs := AMap.get [] x.partner n
  if own = [] ∨ theirs = [] ∨ x.talks = false then w
  else
    let original := AMap.get [] x.originals (ownOriginal n)
    let diverged := decide (x.replayStep = some n) && decide (original ≠ []) && decide (own ≠ original)
    let w := if diverged then w.charge t n else w
    if own = theirs then
      let w := (w.updTwin fun x => { x with matched := some (x.matched.elim n (max n)) }).tick .sid 0 0x0A0
      let w := if x.replayStep = some n ∧ w.twin.talks then
          w.updTwin fun x => { x with replayStep := none, originals := [], state := twinPaired }
        else w
      w.settleVerified
    else if w.twin.talks = false then w
    else if x.replayStep = some n ∧ diverged = false ∧ AMap.get [] x.originals (partnerOriginal n) = theirs then
      w.twinEnd t n (2 ^ 30)
    else w.rollBack t n

/-! ### The digest (R454, R456) -/

/-- The shard sums of a step in this module's partial table. -/
def World.partialTable (w : World) (n : Nat) : List (Nat × List (BitVec 64)) :=
  (w.twin.sums.filter fun x => decide (x.1 / 4096 = n % 2)).map fun x => (x.1 % 4096, x.2)

/-- D_N from the shard sums of the domain. -/
def World.digestOf (w : World) (n : Nat) (table : List (Nat × List (BitVec 64))) : List Byte :=
  let x := w.part 0
  let lanes := fun (s : Nat) => ((table.find? fun y => decide (y.1 = s)).map (·.2)).getD [0, 0, 0, 0]
  shake256 (slice (x.bundle.elim [] (·.digest)) 0 32 ++ leBytes 8 x.jobSeed.toNat ++ leBytes 8 n
    ++ (List.range 4096).flatMap fun s => (lanes s).flatMap fun l => leBytes 8 l.toNat)

/-- The head has the domain's shard sums: it forms D_N, sends the DIGEST frame and compares (R454, R456, R457). -/
def World.formDigest (w : World) (t : Sid) (n : Nat) (table : List (Nat × List (BitVec 64))) : World :=
  let d := w.digestOf n table
  let w := w.updTwin fun x => { x with digests := AMap.set [] x.digests n d, lastDigest := d }
  if w.twin.talks = false then w
  else
    let b := w.twinFrame t.now 0 n d
    let answered := w.twin.partner.any fun y => decide (n ≤ y.1)
    let w := (w.toTwin b).updTwin fun x => { x with pending := if answered then x.pending else x.pending ++ [(n, b)] }
    w.compareStep t n

/-- TWIN_DIGEST_FORM: after the catch-up that follows a switch, the module sends its partial table of the step up the tree (R454). -/
def execTwinDigestForm (s : State) : Host.Outcome State Fault Refusal :=
  .next (s.serve fun w =>
    match (w.part 0).lastSwitched with
    | none => w
    | some n =>
      if w.config.twinRole = 0 ∨ w.jobRuns 0 = false ∨ (w.part 0).dir.any (fun e => !e.catchupDone) ∨ w.twin.formed = some n then w
      else
        let table := w.partialTable n
        let w := w.updTwin fun x =>
          { x with formed := some n, sums := x.sums.filter fun y => decide (y.1 / 4096 ≠ n % 2) }
        if w.fab.position.isSome then
          w.emit (.tree true { kind := 1, barrier := 3, entries := 1, step := n, digest := table, fromPosition := w.ownPosition })
        else w.formDigest s.sid n table)

/-- TWIN_DIGEST_RESEND: every 100 ms the head sends again the DIGEST frames that the partner has not answered (R456). -/
def execTwinDigestResend (s : State) : Host.Outcome State Fault Refusal :=
  .next (s.serve fun w => if w.twin.talks then w.twin.pending.foldl (fun w b => w.toTwin b.2) w else w)

/-- TWIN_DIGEST_FRAME: the partner's digest of a step (R456, R457); a repeated frame is ignored. -/
def execTwinDigestFrame (frame : List Byte) (s : State) : Host.Outcome State Fault Refusal :=
  if s.inService = false then .next s
  else
    .next (s.hearTwin 0 frame fun s =>
      let n := beAt frame 8 8
      let w := s.w.updTwin fun x =>
        { x with
          partnerVerified := frameVerified frame
          pending := x.pending.filter fun y => decide (n < y.1) }
      if AMap.get [] w.twin.partner n ≠ [] then { s with w := w }
      else
        let w := w.updTwin fun x => { x with partner := AMap.set [] x.partner n (slice frame 24 32) }
        { s with w := w.compareStep s.sid n })

/-- ROLLBACK: the partner rolls a step back, and this head does the same, unless it already has (R457). -/
def execRollback (frame : List Byte) (s : State) : Host.Outcome State Fault Refusal :=
  if s.inService = false then .next s
  else
    .next (s.hearTwin 1 frame fun s =>
      let n := beAt frame 8 8
      let w := s.w.updTwin fun x => { x with partnerVerified := frameVerified frame }
      if w.twin.replayStep = some n then { s with w := w } else { s with w := w.rollBack s.sid n })

/-- TWIN_FENCE_FRAME: the partner is fenced; this domain continues alone (R459). -/
def execTwinFenceFrame (frame : List Byte) (s : State) : Host.Outcome State Fault Refusal :=
  if s.inService = false then .next s
  else .next (s.hearTwin 2 frame fun s => { s with w := s.w.goAlone s.sid 1 })

/-- TWIN_TIMEOUT_MS in ns (R464). -/
def World.twinTimeout (w : World) : Nat := max 1 (w.regField (Block.sid.addr 0 0x018) 0 16) * 1000000

/-- TWIN_TIMEOUT: no valid frame for TWIN_TIMEOUT_MS; this domain continues alone (R459). -/
def execTwinTimeout (s : State) : Host.Outcome State Fault Refusal :=
  .next (s.serve fun w =>
    if w.headOfDomain && w.twin.talks && decide (w.twin.lastFrameAt + w.twinTimeout ≤ s.sid.now) then w.goAlone s.sid 2 else w)

end Sys2Proof.Machine
end

