-- ==== Sys2Proof/Machine/Tree.lean ====
section
/-!
DEFINITION. The combining tree (R415 to R417): how a head combines reports, when a generation is complete, and what a result does at a
module: the step switch (R28), a domain barrier (R359), a committed cask (R481), a completed restore (R489) and a step digest (R454).
-/

namespace Sys2Proof.Machine

/-! ### Combination (R416) -/

/-- Adds lists of numbers, place by place; the first and the last of a tensor's counts are flags (R102). -/
def addCounts (a b : List Nat) : List Nat :=
  if a = [] then b
  else (a.zip b).zipIdx.map fun x => if x.2 = 0 ∨ x.2 = 7 then Nat.lor x.1.1 x.1.2 else x.1.1 + x.1.2

/-- Merges two keyed lists. -/
def mergeBy {α : Type} (f : α → α → α) (xs ys : List (Nat × α)) : List (Nat × α) :=
  ys.foldl (fun l y =>
    if l.any fun z => decide (z.1 = y.1) then l.map fun z => if z.1 = y.1 then (z.1, f z.2 y.2) else z else l ++ [y]) xs

/-- A head's combination of two messages: counts by sum, AMAX by maximum, status by the higher code. -/
def combineMsg (a b : TreeMsg) : TreeMsg :=
  { a with
    entries := a.entries + b.entries, abort := a.abort || b.abort, caskFlags := a.caskFlags + b.caskFlags
    sent := a.sent + b.sent, received := a.received + b.received, dropped := a.dropped + b.dropped
    amax := mergeBy (fun x y => if x.toNat < y.toNat then y else x) a.amax b.amax
    counts := mergeBy addCounts a.counts b.counts
    digest := mergeBy (fun x y => x.zipWith (· + ·) y) a.digest b.digest }

/-- A generation's key: the message kind and the barrier's number. -/
def genKey (m : TreeMsg) : Nat := m.kind.toNat * 16 + m.barrier % 16

/-- The reports of REDUCE tensors that a generation of a domain barrier waits for: one of every home, of the group or of the domain
(R414, R415). -/
def World.reduceReports (w : World) (barrier : Nat) (all : Bool) : Nat :=
  let round := (w.bar (domBarKey 0 barrier)).rounds + 1
  let homes := (List.range w.config.positions).filter fun d => all || decide (w.config.positionAt d / 16 = w.ownPosition / 16)
  (((w.part 0).bundle.elim [] (·.tensors)).map fun x =>
    match w.reduceMap x.id with
    | none => 0
    | some y =>
      if y.2.barrier = barrier ∧ y.2.generation = round then
        (homes.filter fun d => let r := w.reduceRange y.2 d; decide (r.1 < r.2)).length
      else 0).sum

/-- A generation in combination. -/
def World.gen (w : World) (key : Nat) : TreeGen := AMap.get {} w.fab.gens key
/-- Drops a generation that is complete. -/
def World.dropGen (w : World) (key : Nat) : World := { w with fab := { w.fab with gens := AMap.set {} w.fab.gens key {} } }

/-- Whether every report that a head waits for is in: a group head's members, or the whole domain. -/
def World.genFull (w : World) (key : Nat) : Bool :=
  let n := if w.domainHead then w.config.positions else w.config.activeSlots
  if key / 16 = 2 then
    let due := w.reduceReports (key % 16) w.domainHead
    decide (0 < due) && decide (due ≤ (w.gen key).msg.entries)
  else decide (n ≤ (w.gen key).msg.entries)

/-! ### The domain head completes a generation (R417) -/

/-- A result goes down the tree. -/
def World.down (w : World) (m : TreeMsg) : World := w.emit (.tree false { m with fromPosition := w.ownPosition, digest := [] })

/-- The step barrier: with the entries of every position and every multicast grain received (R413) it completes, unless a drain is
due (R418); the result carries the decision on a cask (R484). -/
def World.settleStep (w : World) (t : Sid) : World :=
  let m := (w.gen 0).msg
  if w.genFull 0 = false ∨ m.received ≠ (w.config.positions - 1) * m.sent ∨ w.fab.drain.active then w
  else if w.fab.drain.requested then w.startDrain 1
  else
    let cask := w.cask.forced || w.caskDecision t.now m.step m.caskFlags
    (w.dropGen 0).down { m with caskFlags := if cask then 1 else 0 }

/-- A domain barrier 1 to 15: every position has entered and every REDUCE home has reported (R415). -/
def World.settleDomBar (w : World) (b : Nat) : World :=
  if w.genFull b = false ∨ (w.gen (32 + b)).msg.entries < w.reduceReports b true then w
  else ((w.dropGen b).dropGen (32 + b)).down (w.gen b).msg

/-- A generation of the domain head is settled where it is complete. -/
def World.settleDomain (w : World) (t : Sid) (key : Nat) : World :=
  let m := (w.gen key).msg
  if key = 0 then w.settleStep t
  else if key < 16 then w.settleDomBar key
  else if key / 16 = 2 then w.settleDomBar (key % 16)
  else if w.genFull key = false then w
  else if key = 17 then ((w.dropGen key).caskDone t m.step).down m
  else if key = 18 then (w.dropGen key).down m
  else if key = 19 then (w.dropGen key).formDigest t m.step m.digest
  else w

/-- Whether a report comes from a sender whose report of the generation in combination is in already: it belongs to the next. -/
def World.reportsAgain (w : World) (m : TreeMsg) : Bool :=
  decide (0 < m.entries) && decide (m.kind.toNat ≠ 2) && (w.gen (genKey m)).reports.contains m.fromPosition

/-- Receive buffers that a head keeps for each member and each message kind (R416). -/
def treeBuffers : Nat := 2

/-- Reports of a member and a kind that wait in a head's receive buffers. -/
def World.treeWaiting (w : World) (m : TreeMsg) : Nat :=
  (w.fab.treeHeld.filter fun x => decide (x.fromPosition = m.fromPosition) && decide (x.kind = m.kind)).length

/-- A report joins its generation. One for the next generation waits in a receive buffer of its member and kind; no member sends without a free
buffer (R416). Reports with no entry are counts that follow one (R413). -/
def World.joinGen (w : World) (t : Sid) (m : TreeMsg) : World :=
  let g := w.gen (genKey m)
  if w.reportsAgain m then
    if w.treeWaiting m < treeBuffers then { w with fab := { w.fab with treeHeld := w.fab.treeHeld ++ [m] } } else w
  else
    let g' : TreeGen :=
      if g.reports = [] ∧ g.msg.entries = 0 then
        { reports := if m.entries = 0 then [] else [m.fromPosition], firstAt := t.now
          msg := combineMsg (combineMsg { kind := m.kind, barrier := m.barrier, step := m.step } g.msg) m }
      else { g with reports := if m.entries = 0 then g.reports else g.reports ++ [m.fromPosition], msg := combineMsg g.msg m }
    { w with fab := { w.fab with gens := AMap.set {} w.fab.gens (genKey m) g' } }

/-- A restore that a position cannot complete ends the domain's (R489). -/
def World.restoreRefused (w : World) (t : Sid) (m : TreeMsg) : World :=
  w.raiseTakeover t m.fromPosition (m.fromPosition / 16) 2

/-- The reports in a head's receive buffers whose generation has begun join it, oldest first (R416). -/
def World.releaseTreeN (take : World → TreeMsg → World) (w : World) : Nat → World
  | 0 => w
  | fuel + 1 =>
    match w.fab.treeHeld.find? fun m => !(w.reportsAgain m) with
    | none => w
    | some m => World.releaseTreeN take (take { w with fab := { w.fab with treeHeld := w.fab.treeHeld.erase m } } m) fuel

/-- The domain head's waiting reports. -/
def World.releaseTree (w : World) (t : Sid) : World :=
  World.releaseTreeN (fun w m => (w.joinGen t m).settleDomain t (genKey m)) w w.fab.treeHeld.length

/-- A report at the domain head. -/
def World.headTakes (w : World) (t : Sid) (m : TreeMsg) : World :=
  if m.kind.toNat = 0 ∧ m.abort then w.abortDomain m.step
  else if m.kind.toNat = 3 then w.headFailed t m.step
  else if (genKey m) = 18 ∧ m.abort then w.restoreRefused t m
  else if w.fab.aborted ∧ (m.kind.toNat = 0 ∨ m.kind.toNat = 2) then w
  else ((w.joinGen t m).settleDomain t (genKey m)).releaseTree t

/-- A report at another group's head: what needs no combination goes up at once, the rest when the group is complete. -/
def World.groupTakes (w : World) (t : Sid) (m : TreeMsg) : World :=
  let up := fun (w : World) (m : TreeMsg) => w.emit (.tree true { m with fromPosition := w.ownPosition })
  let take := fun (w : World) (m : TreeMsg) =>
    let w := w.joinGen t m
    if w.genFull (genKey m) then up (w.dropGen (genKey m)) (w.gen (genKey m)).msg else w
  if m.abort ∨ m.kind.toNat = 3 then w.emit (.tree true m)
  else if m.entries = 0 ∧ (w.gen (genKey m)).reports = [] then up w m
  else
    let w := take w m
    World.releaseTreeN take w w.fab.treeHeld.length

/-- TREE_UP: a group or domain head receives a report and combines it (R416). -/
def execTreeUp (m : TreeMsg) (s : State) : Host.Outcome State Fault Refusal :=
  .next (s.serve fun w =>
    if w.fab.trained = false then w
    else if w.domainHead then w.headTakes s.sid m
    else if w.groupHead then w.groupTakes s.sid m
    else w)

/-! ### A result at a module -/

/-- The job of partition 0 stops with the domain's (R30, R417): it reports no ABORT of its own again. -/
def World.abortHere (w : World) (t : Sid) : World :=
  let w := w.tick .fab 0 0x0C0
  let out := (w.cancelDump t 0).out
  { (w.cancelDump t 0).stopRun 0 false with out := out }

/-- The domain resumes at step C + 1 (R489, step 5), or, stand-alone, the module. -/
def World.resumeAfterRestore (w : World) (t : Sid) (step : Nat) : World :=
  if (w.cask.fetching.elim false fun f => decide (f.step = step) && f.written) = false then w
  else
    let n := (w.part 0).step
    let w := (w.endRestore step).updPart 0 fun x => { x with job := .running, due := some (w.opensCycle n), running := false }
    { w with fab := { w.fab with aborted := false, gens := [], treeHeld := [] } }.answerRestore t stOk

/-- What a result does at a module. -/
def World.takeResult (w : World) (t : Sid) (m : TreeMsg) : World :=
  let k := m.kind.toNat
  if k = 0 ∧ m.abort then w.abortHere t
  else if k = 0 ∧ m.barrier % 16 = 0 then
    if (w.part 0).inBarrier ∧ (w.part 0).step = m.step then (w.takeStats m).boundary t 0 (decide (0 < m.caskFlags)) else w
  else if k = 0 then
    let key := domBarKey 0 (m.barrier % 16)
    if w.jobRuns 0 ∧ (w.bar key).reported then (w.completeBar t 0 key).settleBar t 0 key 3 else w
  else if k = 1 ∧ m.barrier = 1 then
    let w := if w.cask.inProgress = some m.step then w.committedCask m.step ((m.amax.headD (0, 0)).2.toNat) else w
    { w with fab := { w.fab with uncovered := [] } }.settleVerified
  else if k = 1 ∧ m.barrier = 2 then w.resumeAfterRestore t m.step
  else w

/-- TREE_DOWN: the result of a generation reaches the module; a group's head sends it on to its members (R416). -/
def execTreeDown (m : TreeMsg) (s : State) : Host.Outcome State Fault Refusal :=
  .next (s.serve fun w =>
    if w.fab.trained = false ∨ w.fab.position = none then w
    else
      let w := if w.groupHead ∧ w.domainHead = false then w.emit (.tree false m) else w
      w.takeResult s.sid m)

/-- DOMAIN_BARRIER_TIMEOUT: the head completes a generation that has not completed in DOMAIN_BARRIER_MS with ABORT and raises DEADLOCK
(R417); during a drain it waits (R371, R418). -/
def execDomainBarrierTimeout (barrier : Fin 16) (s : State) : Host.Outcome State Fault Refusal :=
  .next (s.serve fun w =>
    let g := w.gen barrier.val
    let limit := max 1 (w.regField (Block.fab.addr 0 0x000) 48 16) * 1000000
    if w.domainHead = false ∨ g.reports = [] ∨ w.fab.drain.active ∨ w.fab.aborted ∨ s.sid.now < g.firstAt + limit then w
    else
      let reported := fun (p : Nat) => g.reports.contains p || (decide (16 ≤ p) && g.reports.contains (p / 16 * 16))
      let missing := ((List.range w.config.positions).map w.config.positionAt).find? fun p => !reported p
      (w.raise s.sid (ioSource 0) 0x10D (2 ^ 31 + missing.getD 0)).abortDomain g.msg.step)

/-- CASK_RESTORE: a restore begins for the cask named, or, once everything asked for has come back, is written; a module that is its
own domain resumes at once (R489). -/
def execCaskRestore (step : Nat) (s : State) : Host.Outcome State Fault Refusal :=
  .next (s.serve fun w =>
    match w.cask.fetching with
    | some f =>
      if f.toExport ∨ f.step ≠ step then if (w.part 0).bundle = none ∨ w.canSend = false then w else w.beginRestore s.sid false step
      else if f.written ∨ w.fetchDone f = false then w
      else
        let w := w.writeRestore s.sid f
        if w.fab.position.isNone then w.resumeAfterRestore s.sid step else w
    | none => if (w.part 0).bundle = none ∨ w.canSend = false then w else w.beginRestore s.sid false step)

end Sys2Proof.Machine
end

