-- ==== Sys2Proof/Machine/Fabric.lean ====
section
/-!
DEFINITION. Events of the fabric (R394, R395, R402) and the drain (R418 to R420).
-/

namespace Sys2Proof.Machine

/-! ### Links and slots (R394, R395, R402) -/

/-- Positions to which this module's circuit has a link that is down: they fall back until the next drain (R409). -/
def World.circuitsLost (w : World) : List Nat :=
  (w.fab.circuits.filter fun c => decide (c.src = w.ownPosition) && !(w.circuitUp c)).map (·.dst)

/-- A port goes down: the circuits over it fall back (R409), another parent is chosen (R432), and the slot is reported (R395). -/
def State.portDown (s : State) (i : Nat) : State :=
  let w := s.w.updPort i fun x => { x with state := 0, lanes := 0, replay := [] }
  let w := { w with fab := { w.fab with circuitsDown := (w.fab.circuitsDown ++ w.circuitsLost).eraseDups } }
  (({ s with w := w }).chooseParent).reportDown i

/-- LINK_RETRAIN's PAYLOAD: the port, the lanes up and the result (R394). -/
def retrainPayload (port lanes result : Nat) : Nat := port + lanes % 16 * 2 ^ 8 + result * 2 ^ 12

/-- The frames of a replay buffer that the partner has not acknowledged: it acknowledges in order, and `acked` is the number of the first that it
has not (R394). -/
def unacknowledged (replay : List (Nat × Nat × Packet)) (acked : Nat) : List (Nat × Nat × Packet) :=
  replay.dropWhile fun x => decide (x.1 ≠ acked)

/-- The frames of a replay buffer are sent again in order, and counted (R394). -/
def World.resend (w : World) (i : Nat) (frames : List (Nat × Nat × Packet)) : World :=
  (frames.foldl (fun w x => w.emit (.resent i x.1 x.2.1 x.2.2)) (w.updPort i fun x => { x with replay := frames })).count
    (Block.fabPort.addr i 0x090) frames.length

/-- PORT_RETRAIN: a port retrains from step 3: LOSS_CLASS and CABLE_CM are formed anew, step 5 is checked (R391, R392), and on success the frames
that the partner has not acknowledged are sent again (R394). After three failures in a row it is down until the next start; a partner
that fails step 5 holds it down at once. -/
def execPortRetrain (port : PortId) (partner : PortPartner) (x : PortMeasured) (acked : BitVec 16) (s : State) : Host.Outcome State Fault Refusal :=
  let i := port.val
  let x : PortTraining := { toPortPartner := partner, toPortMeasured := x }
  let old := AMap.get {} s.w.fab.ports i
  if s.inService = false ∨ old.state ≠ 1 then .next s
  else
    let r := trainPort s.w.config s.w.fab.slot (bitsAt s.sec.fwVersion.toNat 24 8) i (some x)
    let full := if i < 16 then 4 else 1
    let lost := decide (r.1.state ≠ 1)
    let result := if lost then 2 else if r.1.lanes < full then 1 else 0
    let w := (s.w.tick .fabPort i 0x098).raiseAs s.sid (portSource i) 0x120 (if lost then 3 else 1)
      (retrainPayload i (if lost then 0 else r.1.lanes) result) (s.w.eventExtra (portSource i))
    if lost = false then
      .next { s with w := (w.updPort i fun _ => r.1).resend i (unacknowledged old.replay acked.toNat) }
    else
      match r.2 with
      | some reason =>
        let w := w.raise s.sid (portSource i) 0x121 (cablingPayload i x.partnerGroup x.partnerSlot reason)
        let s := ({ s with w := w }).portDown i
        .next { s with w := s.w.updPort i fun _ => r.1 }
      | none =>
        let n := old.failedRetrains + 1
        let s := { s with w := w.updPort i fun y => { y with failedRetrains := n, trainStep := r.1.trainStep } }
        .next (if 3 ≤ n then s.portDown i else s)

/-- PARTNER_IDLE: the partner's lanes have been at electrical idle for 100 µs; the port is down (R395). -/
def execPartnerIdle (port : PortId) (s : State) : Host.Outcome State Fault Refusal :=
  if s.inService = false ∨ s.w.portUp port.val = false then .next s else .next (s.portDown port.val)

/-- GROUP_NOTICE: a member reports a slot down, or its own loss of power, which marks it failed at once (R395, R495). -/
def execGroupNotice (reporter : Fin 17) (slot : Fin 17) (powerFail : Bool) (s : State) : Host.Outcome State Fault Refusal :=
  if s.inService = false ∨ s.w.fab.trained = false then .next s
  else if powerFail then
    .next (s.markFailed (s.w.groupPhysical slot.val))
  else .next (s.slotReport reporter.val slot.val)

/-- This module's estimates of the bytes queued at its global ports, and the global ports that are down, a bit each. -/
def World.ownFigures (w : World) : List Nat × Nat :=
  ((List.range 32).map fun i => w.queuedAt (16 + i), ((List.range 32).map fun i => if w.portUp (16 + i) then 0 else 2 ^ i).sum)

/-- QUEUE_FIGURE_EXCHANGE: another slot's estimates of queued bytes at its global ports, and the ports that it has down; for the module's own slot,
its own figures leave for the other slots (R402). -/
def execQueueFigureExchange (slot : Fin 17) (x : SlotFigures) (s : State) : Host.Outcome State Fault Refusal :=
  .next (s.serve fun w =>
    if slot.val = w.fab.slot then let y := w.ownFigures; w.emit (.figures slot.val y.1 y.2)
    else
      { w with fab := { w.fab with
        figures := AMap.set [] w.fab.figures slot.val (x.queued.take 32)
        downPorts := AMap.set 0 w.fab.downPorts slot.val x.down.toNat } })

/-! ### The drain (R418 to R420) -/

/-- A request for a drain on the domain head, which takes it at the next step barrier (R418, R424). -/
def World.requestDrain (w : World) : World := if w.domainHead then w.updDrain fun d => { d with requested := true } else w

/-- DRAIN_GO: an Owner write of GO (R418). -/
def execDrainGo (s : State) : Host.Outcome State Fault Refusal := .next (s.serve World.requestDrain)

/-- DRAIN_REQ: the module stops injecting packets, ends its circuits and keeps the staged entries (R419). -/
def execDrainReq (staged : List (Nat × Nat)) (s : State) : Host.Outcome State Fault Refusal :=
  .next (s.serve fun w =>
    if w.fab.trained = false then w
    else
      let w := { w with fab := { w.fab with staged := staged.foldl (fun (m : AMap Nat) (e : Nat × Nat) => AMap.set unstaged m e.1 e.2) [] } }
      { w with fab := { w.fab with circuits := [] } }.updDrain fun d =>
        { d with active := true, injecting := false, installed := false, status := 0
                 reason := if w.domainHead then d.reason else if w.jobRuns 0 then 1 else 0 })

/-- Counts of packets sent, received and discarded since the last drain. -/
def World.drainCounts (w : World) : Nat × Nat × Nat :=
  let n := fun (off : Nat) => (AMap.get 0 w.counters (Block.fab.addr 0 off) : Word).toNat
  let d := w.fab.drain
  (n 0x080 - d.sent0, n 0x088 - d.received0, n 0x0A0 - d.dropped0)

/-- The position table with the staged entries; a head that gives up leaves out the modules marked failed (R420). -/
def World.stagedTable (w : World) : AMap Nat := w.fab.staged.foldl (fun (m : AMap Nat) (e : Nat × Nat) => AMap.set 0xFFFF m e.1 e.2) w.fab.posTable

/-- INSTALL leaves the head with the whole table. -/
def World.sendInstall (w : World) : World := w.emit (.drain 2 (w.stagedTable.flatMap fun (e : Nat × Nat) => [e.1, e.2]))

/-- DRAIN_COUNT_ROUND: every module reports its counts; the head sends INSTALL when every module has reported and sent packets equal
received and discarded ones (R419). `reports` are other modules' physical numbers and counts. -/
def execDrainCountRound (reports : List (Nat × Nat × Nat × Nat)) (s : State) : Host.Outcome State Fault Refusal :=
  .next (s.serve fun w =>
    if w.fab.drain.active = false ∨ w.fab.drain.injecting ∨ w.fab.drain.installed then w
    else
      let own := w.drainCounts
      let w := w.emit (.drain 1 [w.fab.physical, own.1, own.2.1, own.2.2])
      let held : List Nat := ((List.range w.config.positions).map w.config.positionAt).filterMap w.physicalOf
      let all := held.all fun x => decide (x = w.fab.physical) || w.fab.failed.contains x || reports.any fun r => decide (r.1 = x)
      let sent := own.1 + (reports.map (·.2.1)).sum
      let got := own.2.1 + own.2.2 + (reports.map fun r => r.2.2.1 + r.2.2.2).sum
      if w.domainHead ∧ all ∧ sent = got then w.sendInstall else w)

/-- INSTALL: the module installs the position table, its routes and circuits, and starts its pair counts again (R387, R399, R409, R419). -/
def execInstall (table : List (Nat × Nat)) (s : State) : Host.Outcome State Fault Refusal :=
  if s.inService = false ∨ s.w.fab.trained = false ∨ s.w.fab.drain.active = false then .next s
  else
    let w := s.w
    let n := fun (off : Nat) => (AMap.get 0 w.counters (Block.fab.addr 0 off) : Word).toNat
    let posTable := table.foldl (fun (m : AMap Nat) (e : Nat × Nat) => AMap.set 0xFFFF m e.1 e.2) []
    let w := { w with fab := { w.fab with
      posTable := posTable, staged := [], pairSent := [], pairReceived := [], orderHeld := []
      position := ((List.range w.config.positions).map w.config.positionAt).find? fun p => decide (AMap.get 0xFFFF posTable p = w.fab.physical) } }
    let w := w.updDrain fun d => { d with installed := true, sent0 := n 0x080, received0 := n 0x088, dropped0 := n 0x0A0 }
    .next ({ s with w := w.setCircuits.emit (.drain 3 [w.fab.physical]) }).chooseParent

/-- DRAIN with the time, the status and the reason (R419). -/
def World.raiseDrain (w : World) (t : Sid) (us status reason : Nat) : World :=
  w.raiseAs t (ioSource 0) 0x122 (if status = 1 then 0 else 3) (us % 2 ^ 20 + status * 2 ^ 20 + reason * 2 ^ 24) (w.eventExtra (ioSource 0))

/-- RESUME: the module injects again; the head raises DRAIN, reports the takeovers that the drain carried, completes the step barrier
that it held, and takes over positions lost meanwhile. A restore after a takeover begins at once (R418, R419, R489, R493). -/
def execResume (us : BitVec 20) (s : State) : Host.Outcome State Fault Refusal :=
  .next (s.serve fun w =>
    let t := s.sid
    let d := w.fab.drain
    if d.active = false ∨ d.installed = false then w
    else
      let status := if d.status = 2 then 2 else 1
      let w := ((w.updDrain fun d =>
        { d with active := false, injecting := true, installed := false, lastUs := us.toNat, status := status }).tick .fab 0 0x0C8).sendRegs t
      let w := if w.domainHead then
          let w := (if status = 1 then w.raiseDrain t us.toNat 1 d.reason else w).emit (.drain 4 [us.toNat])
          let w := w.fab.taking.foldl (fun w p => w.raiseTakeover t p (p / 16) 0) w
          let lost := w.fab.lost
          let w := { w with fab := { w.fab with taking := [], lost := [] } }
          let w := lost.foldl (fun w x => w.takeover t x.1 x.2) w
          (w.settleStep t).releaseTree t
        else w
      if d.reason = 0 ∧ w.jobRuns 0 = false ∧ (w.part 0).started ∧ w.fab.position.isSome ∧ w.canSend then
        w.cask.committed.elim w fun c => w.beginRestore t false c
      else w)

/-- DRAIN_TIMEOUT: the counts have not balanced within DRAIN_LIMIT_US. The head marks failed every module whose report is missing,
installs the tables without it and raises DRAIN with status 2; its position then enters the takeover (R420). -/
def execDrainTimeout (missing : List Nat) (s : State) : Host.Outcome State Fault Refusal :=
  if s.inService = false ∨ s.w.domainHead = false ∨ s.w.fab.drain.active = false ∨ s.w.fab.drain.installed then .next s
  else
    let gone := missing.filter fun x => decide (x ≠ s.w.fab.physical) && !s.w.fab.failed.contains x
    let s := gone.foldl State.markFailed s
    let w := s.w
    let limit := max 460 (w.regField (Block.fab.addr 0 0x000) 32 16)
    let held := (gone.filterMap w.positionHeld)
    let w := { w with fab := { w.fab with staged := held.foldl (fun (m : AMap Nat) (p : Nat) => AMap.set unstaged m p 0xFFFF) w.fab.staged } }
    let w := (w.updDrain fun d => { d with status := 2 }).raiseDrain s.sid limit 2 w.fab.drain.reason
    .next { s with w := w.sendInstall }

end Sys2Proof.Machine
end

