-- ==== Sys2Proof/Machine/Live.lean ====
section
/-!
DEFINITION. Tap (R509, R520 to R525): the deadline of the evaluation slot, the proposals, the governor and the setpoint datagrams.
-/

namespace Sys2Proof.Machine

/-- Changes Tap. -/
def World.updTap (w : World) (f : Tap → Tap) : World := { w with tap := f w.tap }

/-- EVAL_OVERRUN: the slot's run has not ended EVAL_DEADLINE_MS after it began; its proposals are discarded (R509). -/
def execEvalOverrun (s : State) : Host.Outcome State Fault Refusal :=
  .next (s.serve fun w =>
    let x := w.part 0
    if w.jobRuns 0 = false ∨ x.running = false ∨ x.eval = false ∨ w.tap.discarded
        ∨ s.sid.now < w.tap.slotStart + w.hop.deadlineMs * 1000000 then w
    else
      ((w.updTap fun y => { y with discarded := true }).raise s.sid (ioSource 9) 0x151 (w.tap.slotCycle % 2 ^ 32)).tick .tap 0 0x0C0)

/-! ### Proposals (R520) -/

/-- A proposal of the slot. -/
structure Proposal where
  target : Nat
  cls : Nat
  value : Nat
deriving DecidableEq, Repr

/-- The governor entry of a class (R521); there is none when the table is not used. -/
def World.governorOf (w : World) (cls : Nat) : Option Governor :=
  if w.config.governorBad then none else w.config.governor.find? fun g => decide (g.cls = cls)

/-- ADDR and CAPACITY of a Tap region; a region that leaves the partition's HBM has no room (assumption 93). -/
def World.tapRegion (w : World) (reg head unit entry : Nat) : Nat × Nat :=
  let r := w.reg (Block.tap.addr 0 reg)
  let a := fieldOf r 0 48
  let n := fieldOf r 48 16 * unit
  if a + head + entry * n ≤ w.hbmCapacity 0 then (a, n) else (a, 0)

/-- The proposals that stand, in the order of the region, and how many entries are dropped or not read. -/
def World.proposals (w : World) : List Proposal × Nat × Nat × World :=
  let g := w.tapRegion 0x000 16 1 16
  let h := w.hbmFetch (ioSource 9) 0 g.1 16
  let count := if g.2 = 0 then 0 else leAt h.1 0 4
  let n := min count g.2
  let body := h.2.hbmFetch (ioSource 9) 0 (g.1 + 16) (16 * n)
  let all := (List.range n).filterMap fun i =>
    let b := slice body.1 (16 * i) 16
    if bitAt (leAt b 7 1) 0 then some (⟨leAt b 0 6, leAt b 6 1, leAt b 8 4⟩ : Proposal) else none
  let good := all.filter fun p => (w.governorOf p.cls).isSome && !(fp32.decode p.value).isNan
  let stand := good.zipIdx.filterMap fun p =>
    if (good.drop (p.2 + 1)).any fun q => decide (q.target = p.1.target) && decide (q.cls = p.1.cls) then none else some p.1
  (stand, n, (all.length - stand.length) + (count - n), body.2)

/-! ### Governor state (R522) -/

/-- A pair's state: `last` in FP32 bits, the time of the last change in ns, and the cycles of the last eight toggles plus one, newest
first. Its 64 bytes are TARGET (6), CLASS (1), a valid byte, last (4), 4 bytes of zero, last_change (8) and eight toggles of 5 bytes
(assumption 94). -/
structure PairState where
  last : Nat
  change : Nat
  toggles : List Nat
deriving DecidableEq, Repr

/-- The 64 bytes of a pair's state. -/
def PairState.image (x : PairState) (p : Proposal) : List Byte :=
  leBytes 6 p.target ++ leBytes 1 p.cls ++ [1] ++ leBytes 4 x.last ++ [0, 0, 0, 0] ++ leBytes 8 x.change
    ++ (List.range 8).flatMap fun i => leBytes 5 (x.toggles.getD i 0)
/-- The state that 64 bytes spell. -/
def parsePair (b : List Byte) : PairState :=
  { last := leAt b 8 4, change := leAt b 16 8
    toggles := ((List.range 8).map fun i => leAt b (24 + 5 * i) 5).filter fun x => decide (x ≠ 0) }

/-- The entries of the region that a search for a pair reads, up to its place (R270). -/
def World.pairReads (w : World) (place : Option (Nat × Bool)) : List (Nat × Nat) :=
  let g := w.tapRegion 0x008 0 65536 64
  (List.range (place.elim g.2 fun x => (x.1 - g.1) / 64 + 1)).map fun i => (g.1 + 64 * i, 8)

/-- The place of a pair in the region: its own, or the first that is free; none when the region is full. -/
def World.pairPlace (w : World) (p : Proposal) : Option (Nat × Bool) :=
  let g := w.tapRegion 0x008 0 65536 64
  (List.range g.2).findSome? fun i =>
    let b := w.hbmRead 0 (g.1 + 64 * i) 8
    if leAt b 7 1 = 0 then some (g.1 + 64 * i, false)
    else if leAt b 0 6 = p.target ∧ leAt b 6 1 = p.cls then some (g.1 + 64 * i, true) else none

/-! ### The governor (R523) -/

/-- One setpoint as it is emitted. -/
structure Setpoint where
  target : Nat
  cls : Nat
  value : Nat
  held : Bool
  limited : Bool
deriving DecidableEq, Repr

/-- The governor on one proposal, at the cycle `c` of `cycleNs` each: the setpoint and the pair's next state. Every operation is one
binary32 operation to nearest even. -/
def govern (g : Governor) (c cycleNs : Nat) (p : Proposal) (x : PairState) : Setpoint × PairState :=
  let tc := c * cycleNs
  let f := fun (b : BitVec 32) => fp32.decode b.toNat
  let v := (valMin (valMax (fp32.decode p.value) (f g.minValue)).1 (f g.maxValue)).1
  let v := if g.binary then (if v.lt (.fin false 1 (-1)) then .fin false 0 0 else .fin false 1 0) else v
  let last := fp32.decode x.last
  let recent := (x.toggles.filter fun y => decide (tc < (y - 1) * cycleNs + 3600000000000)).length
  let r : Val × Bool × Bool :=
    if v.eq last then (last, false, false)
    else if tc < x.change + g.minHoldMs * 1000000 then (last, true, false)
    else if g.binary then (if g.maxToggles ≤ recent then (last, true, false) else (v, false, false))
    else
      let dt := (fp32.ratResult {} .rne false (tc - x.change) 1000000000).1
      let limit := (valMin (f g.maxStep) (fp32.mul {} .rne (f g.maxSlew) dt).1).1
      let d := (fp32.sub {} .rne v last).1
      let out := (fp32.add {} .rne last (valMin (valMax d limit.neg).1 limit).1).1
      (out, false, !out.eq v)
  let changed := !r.1.eq last
  let bits := fp32.encode r.1
  (⟨p.target, p.cls, bits, r.2.1, r.2.2⟩,
   { last := bits, change := if changed then tc else x.change
     toggles := if changed && g.binary then ((c + 1) :: x.toggles).take 8 else x.toggles })

/-- The governor on one proposal of the slot, with the pair's state in HBM. A new pair that finds the region full is dropped (R522). -/
def World.governOne (t : Sid) (acc : World × List Setpoint) (p : Proposal) : World × List Setpoint :=
  let w := acc.1
  match w.governorOf p.cls, w.pairPlace p with
  | some g, some place =>
    match w.agentReads t 0 (ioSource 9) (w.pairReads (some place)) with
    | (none, w) => (w, acc.2)
    | (some w, _) =>
    let x := if place.2 then parsePair (w.hbmRead 0 place.1 64) else ⟨g.safeValue.toNat, 0, []⟩
    let r := govern g w.tap.slotCycle w.hop.cycleNs p x
    let w := (w.hbmCount 0 place.1 64 false).hbmApply t (ioSource 9) w.ownPosition 0 place.1 (r.2.image p)
    let w := if r.1.limited then w.tick .tap 0 0x098 else w
    let w := if r.1.held then w.tick .tap 0 0x0A0 else w
    (w, acc.2 ++ [r.1])
  | some _, none => (((w.agentReads t 0 (ioSource 9) (w.pairReads none)).2).tick .tap 0 0x0B0, acc.2)
  | none, _ => (w.tick .tap 0 0x0B0, acc.2)

/-! ### Datagrams (R524, R525) -/

/-- Entries of a setpoint datagram at most. -/
def datagramEntries : Nat := 672

/-- Ascending TARGET. -/
def insertSetpoint (x : Setpoint) : List Setpoint → List Setpoint
  | [] => [x]
  | y :: ys => if x.target ≤ y.target then x :: y :: ys else y :: insertSetpoint x ys

/-- One setpoint datagram. -/
def World.setpointDatagram (w : World) (now : Nat) (g : Governor) (last : Bool) (xs : List Setpoint) : List Byte :=
  let c := w.tap.slotCycle
  let validity := if g.validity = 0 then 3 else g.validity
  beBytes 4 0x4D4A5350 ++ beBytes 2 1 ++ beBytes 1 g.cls ++ beBytes 1 (if last then 1 else 0) ++ beBytes 4 w.config.domainId
    ++ beBytes 2 w.ownPosition ++ beBytes 2 xs.length ++ beBytes 8 c ++ beBytes 8 (w.part 0).step ++ beBytes 8 now
    ++ beBytes 8 (c * w.hop.cycleNs + validity * w.hop.cycleNs) ++ beBytes 8 w.tap.seq ++ List.replicate 8 0
    ++ xs.flatMap fun x => beBytes 6 x.target ++ beBytes 1 ((if x.limited then 1 else 0) + (if x.held then 2 else 0)) ++ [0] ++ beBytes 4 x.value

/-- Sends one datagram of a class to every setpoint destination that takes the class; it has one number. -/
def World.sendSetpoints (now : Nat) (g : Governor) (w : World) (x : Bool × List Setpoint) : World :=
  let dests := w.config.ethTable.filter fun e => decide (e.role = 2) && bitAt e.classMask g.cls
  if dests = [] then w
  else
    let b := w.setpointDatagram now g x.1 x.2
    ((dests.foldl (fun w e => w.sendDatagram e b) w).updTap fun y => { y with seq := y.seq + 1 }).tick .tap 0 0x090

/-- The datagrams of one class. -/
def World.sendClass (now : Nat) (sent : List Setpoint) (w : World) (g : Governor) : World :=
  let xs := (sent.filter fun x => decide (x.cls = g.cls)).foldl (fun l x => insertSetpoint x l) []
  let n := max 1 (ceilDiv xs.length datagramEntries)
  (List.range n).foldl (fun w i =>
    w.sendSetpoints now g (decide (i + 1 = n), (xs.drop (datagramEntries * i)).take datagramEntries)) w

/-- Whether the twin's state permits emission (R525). -/
def World.twinPermits (w : World) : Bool :=
  decide (w.config.twinRole = 0) || (decide (w.config.twinRole = 1) && decide (w.twin.state ≠ 4))
    || (decide (w.config.twinRole = 2) && decide (w.twin.state = 3))

/-- TAP_EMIT: after the slot's run Tap reads the proposals, unless they are discarded, runs the governor and sends the setpoints where it may
(R520 to R525). -/
def execTapEmit (s : State) : Host.Outcome State Fault Refusal :=
  .next (s.serve fun w =>
    let x := w.part 0
    if w.jobRuns 0 = false ∨ w.tap.emitted ∨ (x.running ∧ x.eval) then w
    else
      let w := w.updTap fun y => { y with emitted := true }
      if w.tap.discarded then w
      else
        let ps := w.proposals
        let w := (ps.2.2.2.count (Block.tap.addr 0 0x080) ps.2.1).count (Block.tap.addr 0 0x0A8) ps.2.2.1
        if w.regField (Block.tap.addr 0 0x010) 0 1 = 0 ∨ w.config.governorBad ∨ w.twinPermits = false then w
        else
        let r := ps.1.foldl (World.governOne s.sid) (w, [])
        let w := r.1.count (Block.tap.addr 0 0x088) r.2.length
        w.config.governor.foldl (World.sendClass s.sid.now r.2) w)

end Sys2Proof.Machine
end

