-- ==== Sys2Proof/Machine/Memory.lean ====
section
/-!
DEFINITION. Accesses of the grain schedulers (R270, R271), parity, ECC and map-out (R277 to R282), and cellar bursts (R285). When they
happen, and in which order of classes, is timing.
-/

namespace Sys2Proof.Machine

/-- The offset in its partition's HBM of the first byte of a grain of a channel (R268); none for a channel that no good list holds. -/
def World.grainOffset (w : World) (c grain : Nat) : Option Nat :=
  let good := (w.part (w.ownerOfDie (c / 64))).good
  let n := good.length
  (List.range n).findSome? fun k =>
    let a := 256 * (n * grain + k)
    if hbmLocate good a = (c, grain) then some a else none

/-- The partition of a channel. -/
def World.partOfChannel (w : World) (c : Nat) : Nat := w.ownerOfDie (c / 64)

/-- A unit whose access completes without data stops with KIND 3 (R278, R293). -/
def World.memoryStop (w : World) (t : Sid) (src : Nat) : World :=
  let code := bitsAt src 10 4
  let unit := bitsAt src 4 6
  let k := src / 2 ^ 14 * 12 + code
  let c := 8 * k + bitsAt src 0 3
  if code = 13 ∨ code = 15 then w.agentStop t 0 src
  else if 12 ≤ code ∨ w.jobRuns (w.sourcePart src |>.getD 0) = false then w
  else if unit = 1 then
    match (w.core c).axe.streams with
    | [] => w
    | r :: _ => w.axeStop t c r.op stopMemory (axeQueue (w.descOf c r.op.desc)) (r.count % 2 ^ 16) 0
  else if unit = 6 then
    match (w.cluster k).gsu.pending with
    | [] => w
    | o :: _ => w.gsuStop t k o (gsuTable (w.descOf o.core o.desc)) 0 (stopMemory, 0)
  else if unit = 5 then
    match (w.cluster k).smp.run with
    | none => w
    | some r => w.smpStop t k r.plan r.hop r.op (stopMemory, 0)
  else w

/-- A channel fault (R278): the channel is failed and on the map-out list, the access and every access queued to the channel complete
without data, so that the units that issued them stop, CHANNEL_FAULT is raised and the partition's job stops. -/
def State.channelFault (s : State) (c cause : Nat) (issuer : Option Nat) : State :=
  let src := hbcSource (c / 32)
  let w := { s.w with channels := AMap.set 0 s.w.channels c 2 }
  let w := w.setReg (Block.hbc.addr (c / 32) 0x018) (mkField 1 0 4 ||| mkField cause 4 4 ||| mkField (c % 32) 8 5 ||| mkField 1 63 1)
  let w := if cause = 1 then w.tick .hbc (c / 32) 0x0A8 else w
  let waiting := (AMap.get [] w.parityHeld c).map fun a => a.writerSource.toNat
  let w := { w with parityHeld := AMap.set [] w.parityHeld c [] }
  let w := ((issuer.toList ++ waiting).eraseDups).foldl (fun w x => w.memoryStop s.sid x) w
  let w := w.raise s.sid src 0x112 (c + cause * 2 ^ 24)
  { s with sec := s.sec.mapOutHbm c, w := w.stopJob s.sid (w.partOfChannel c) 1 src }

/-- ECC_LIMIT of a channel's stack; 0 disables marking (R289). -/
def World.eccLimit (w : World) (c : Nat) : Nat := w.regField (Block.hbc.addr (c / 32) 0x010) 0 16

/-- Nanoseconds of an hour. -/
def hourNs : Nat := 3600000000000

/-- A corrected read (R279): it counts, and the correction that reaches ECC_LIMIT within one sidereal hour marks the channel and puts
it on the map-out list. -/
def State.corrected (s : State) (c : Nat) : State :=
  let w := (s.w.tick .hbc (c / 32) 0x0A0).count (Block.hbc.addr (c / 32) (0x200 + 8 * (c % 32))) 1
  let hour := s.sid.now / hourNs
  let base := if w.eccHour = hour then w.hourEcc else []
  let n := AMap.get 0 base c + 1
  let w := { w with eccHour := hour, hourEcc := AMap.set 0 base c n }
  if w.eccLimit c ≠ 0 ∧ w.eccLimit c ≤ n ∧ AMap.get 0 w.channels c = 0 then
    { s with sec := s.sec.mapOutHbm c, w := { w with channels := AMap.set 0 w.channels c 1 } }
  else { s with w := w }

/-- A write of the background class lands (R220): it hits no guard and sets no dirty bit. -/
def World.hbmCopy (w : World) (p a : Nat) (bs : List Byte) (mask : List Bool) : World :=
  let runs := if mask.all id then [(0, bs)] else maskRuns 0 (mask.zip bs)
  (runs.foldl (fun w r => w.hbmStore p (a + r.1) r.2) w).hbmCountMask p a bs.length mask

/-- An access that passes its parity checks (R270, R271, R278, R279). A write of the background class is a catch-up copy, which hits
no guard and sets no dirty bit (R220, R229). -/
def State.grantAccess (s : State) (c off : Nat) (a : GrainAccess) : State :=
  let p := s.w.partOfChannel c
  if a.write then
    let bs := a.data.take a.length
    let at' := off + a.first
    { s with w := if a.cls = 3 then s.w.hbmCopy p at' bs a.mask
                  else s.w.hbmApplyMask s.sid a.writerSource.toNat a.writerPosition.toNat p at' bs (a.mask.take a.length) }
  else
    let s := { s with w := s.w.hbmCount p (off + a.first) a.length false }
    if a.uncorrectable then s.channelFault c 1 (some a.writerSource.toNat)
    else if a.corrected then s.corrected c else s

/-- What every access of a channel meets first: a channel that is mapped out, or a grain outside its partition's HBM, is not there; an
access of a failed channel completes without data. -/
def State.onChannel (s : State) (c grain : Nat) (issuer : Option Nat) (f : State → Nat → State) : State :=
  if s.inService = false then s
  else
    match s.w.grainOffset c grain with
    | none => s
    | some off => if AMap.get 0 s.w.channels c = 2 then { s with w := issuer.elim s.w (s.w.memoryStop s.sid) } else f s off

/-- Replaces what waits behind failed parity checks of a channel. -/
def State.setHeld (s : State) (c : Nat) (xs : List GrainAccess) : State :=
  { s with w := { s.w with parityHeld := AMap.set [] s.w.parityHeld c xs } }

/-- The accesses to a grain that waited behind one that has now passed take their turn, in the order of their acceptance, up to the next
that fails its own parity check (R271, R277). -/
def State.releaseGrain (c off grain : Nat) : Nat → State → State
  | 0, s => s
  | fuel + 1, s =>
    let xs := AMap.get [] s.w.parityHeld c
    match xs.find? fun a => decide (a.grain = grain) with
    | none => s
    | some a =>
      if a.parityOk then State.releaseGrain c off grain fuel ((s.setHeld c (xs.erase a)).grantAccess c off a) else s

/-- HBM_GRAIN_ACCESS: one grain slot of a channel (R270). An access that fails a parity check waits for its retry and keeps its place:
later ones to its grain wait behind it (R271, R277). -/
def execHbmGrainAccess (channel : ChannelId) (a : GrainAccess) (s : State) : Host.Outcome State Fault Refusal :=
  .next (s.onChannel channel.val a.grain (some a.writerSource.toNat) fun s off =>
    let xs := AMap.get [] s.w.parityHeld channel.val
    if a.parityOk ∧ (xs.all fun y => decide (y.grain ≠ a.grain)) then s.grantAccess channel.val off a
    else s.setHeld channel.val (xs ++ [a]))

/-- PARITY_RETRY: the access is retried (R277): of the accesses that wait for its grain the first, where one waits. The first retry on a
channel in a step raises PARITY_RETRY, and when the fourth fails the channel has a fault (R278). -/
def execParityRetry (channel : ChannelId) (a : GrainAccess) (attempt : Nat) (s : State) : Host.Outcome State Fault Refusal :=
  .next (s.onChannel channel.val a.grain (some a.writerSource.toNat) fun s off =>
    let c := channel.val
    let w := s.w.tick .hbc (c / 32) 0x098
    let first := !(AMap.get false w.parityStep c)
    let w := { w with parityStep := AMap.set false w.parityStep c true }
    let s := { s with w := if first then w.raise s.sid (hbcSource (c / 32)) 0x111 c else w }
    let xs := AMap.get [] s.w.parityHeld c
    let rest := (xs.find? fun y => decide (y.grain = a.grain)).elim xs xs.erase
    if a.parityOk then State.releaseGrain c off a.grain xs.length ((s.setHeld c rest).grantAccess c off a)
    else if 4 ≤ attempt then s.channelFault c 0 (some a.writerSource.toNat)
    else s.setHeld c (if xs.any fun y => decide (y.grain = a.grain) then xs else xs ++ [a]))

/-- SCRUB_GRAIN: the base die reads a grain and writes a correction back, which leaves what is stored (R282). -/
def execScrubGrain (channel : ChannelId) (grain : Nat) (corrected : Bool) (uncorrectable : Bool) (s : State) :
    Host.Outcome State Fault Refusal :=
  .next (s.onChannel channel.val grain none fun s _ =>
    let c := channel.val
    let s := { s with w := s.w.tick .hbc (c / 32) 0x0C0 }
    if uncorrectable then s.channelFault c 1 none else if corrected then s.corrected c else s)

/-- Removes channels of a stack from the map-out list (R280, R288); it takes effect at the next start. -/
def Sec.clearMapout (x : Sec) (stack : Nat) (clear : BitVec 32) : Sec :=
  let keep := 2 ^ 256 - 1 - clear.toNat * 2 ^ (32 * stack)
  { x with hbmMapout := x.hbmMapout.writeBits 32 (Nat.land (leNat x.hbmMapout.body) keep) }

/-- HBC_MAPOUT_CLEAR: an Owner's write (R280, R288). -/
def execHbcMapoutClear (stack : StackId) (clear : BitVec 32) (s : State) : Host.Outcome State Fault Refusal :=
  if s.inService = false ∨ clear = 0 then .next s else .next { s with sec := s.sec.clearMapout stack.val clear }

/-- The partition that a cellar channel serves: 16 channels for each die (R284). -/
def World.partOfCellar (w : World) (c : Nat) : Nat := w.ownerOfDie (c / 16)

/-- CELLAR_BURST: a burst's CRC retries and ECC status (R285); a fourth failed retry, or an uncorrectable status, is a cellar channel
fault. -/
def execCellarBurst (b : CellarBurst) (s : State) : Host.Outcome State Fault Refusal :=
  let c := b.channel.val
  if s.inService = false ∨ AMap.get false s.w.cellarBad c then .next s
  else
    let w := s.w.count (Block.kln.addr 0 0x108) (min 4 b.crcFailures)
    if 5 ≤ b.crcFailures ∨ b.uncorrectable then
      let cause := if 5 ≤ b.crcFailures then 0 else 1
      let w := { w with cellarBad := AMap.set false w.cellarBad c true }
      let w := w.raise s.sid klnSource 0x112 (c + 2 ^ 23 + cause * 2 ^ 24)
      .next { s with sec := s.sec.mapOutCellar c, w := w.stopJob s.sid (w.partOfCellar c) 1 klnSource }
    else .next { s with w := if b.corrected then w.count (Block.kln.addr 0 0x110) 1 else w }

end Sys2Proof.Machine
end

