-- ==== Sys2Proof/Machine/Obs.lean ====
section
/-!
DEFINITION. Observability (chapter 16): the job trace regions, program-counter samples, tensor dumps, the comet tails' freezes and the
trace port.
-/

namespace Sys2Proof.Machine

/-- Whether a byte range of a partition leaves HBM_CAPACITY or overlaps a version of a directory entry (R590, R596). -/
def World.regionBad (w : World) (p a n : Nat) : Bool :=
  decide (w.hbmCapacity p < a + n) || (w.part p).dir.any fun e => rangesMeet a n e.base0 e.bytes || rangesMeet a n e.base1 e.bytes

/-! ### The job trace region (R590 to R592) -/

/-- The job of a partition starts: CNT_TRACE_REGION is read and both offsets are 0 (R590, R591). -/
def World.startTrace (w : World) (p : Nat) : World :=
  let r := w.reg (Block.cnt.addr p 0x000)
  let a := fieldOf r 0 48
  let n := fieldOf r 48 16 * 2 ^ 20
  let bad := w.regionBad p a n
  w.updPart p fun x =>
    { x with traceActive := decide (n ≠ 0) && !bad, traceAddr := a, traceSize := n, traceRead := 0, traceWrite := 0, traceIn := []
             traceLost := 0, firstLost := 0 }

/-- Free bytes of a partition's ring (R591). -/
def Part.traceFree (x : Part) : Nat := x.traceSize - 32 - (x.traceWrite + x.traceSize - x.traceRead) % x.traceSize

/-- One record goes into the ring; WRITE advances. -/
def World.ringRecord (w : World) (p : Nat) (r : List Byte) : World :=
  let x := w.part p
  let a := x.traceAddr + x.traceWrite
  (((w.hbmStore p a r).hbmCount p a 32 true).updPart p fun y =>
    { y with traceWrite := (x.traceWrite + 32) % x.traceSize }).tick .cnt p 0x088

/-- The LOSS record of a trace writer (R589): the records lost and the first one's stamp. -/
def World.lossRecord (w : World) (t : Sid) (port : Bool) (lost first : Nat) : List Byte × World :=
  match w.stamp t (trcSource port) with
  | (st, rs, w) => (w.traceRecord st rs (trcSource port) 0xFF (leBytes 8 lost ++ leBytes 8 first), w)

/-- Rule 1 of R591: a LOSS record, once there is room. -/
def World.ringLoss (w : World) (t : Sid) (p : Nat) : World :=
  let x := w.part p
  if x.traceLost = 0 ∨ x.traceFree < 64 then w
  else
    match w.lossRecord t false x.traceLost x.firstLost with
    | (r, w) => (w.ringRecord p r).updPart p fun y => { y with traceLost := 0 }

/-- TRACE_REGION_WRITE: the trace writer of a partition takes the next record (R591). -/
def execTraceRegionWrite (part : PartId) (s : State) : Host.Outcome State Fault Refusal :=
  .next (s.serve fun w =>
    let p := part.val
    match (w.part p).traceIn with
    | [] => w
    | r :: rest =>
      let w := (w.updPart p fun x => { x with traceIn := rest }).ringLoss s.sid p
      if 64 ≤ (w.part p).traceFree then w.ringRecord p r
      else
        (w.updPart p fun x =>
          { x with firstLost := if x.traceLost = 0 then leAt r 0 8 else x.firstLost, traceLost := x.traceLost + 1 }).tick .cnt p 0x090)

/-- A write to CNT_TRACE_READ (R592). -/
def World.writeTraceRead (w : World) (p v : Nat) : World :=
  let x := w.part p
  let n := x.traceSize
  let o := v % 2 ^ 48
  if o % 32 = 0 ∧ o < n ∧ (o + n - x.traceRead) % n ≤ (x.traceWrite + n - x.traceRead) % n then w.updPart p fun y => { y with traceRead := o }
  else w

/-- CNT_TRACE_READ: software frees space in the ring. -/
def execCntTraceRead (part : PartId) (value : BitVec 64) (s : State) : Host.Outcome State Fault Refusal :=
  .next (s.serve fun w => w.writeTraceRead part.val value.toNat)

/-! ### Program-counter samples (R593, R594) -/

/-- The data of a sample (R589): what SEQ_STATUS reads, with EVAL_SLOT and STEP. -/
def World.sampleData (w : World) (c : Nat) : List Byte :=
  let k := w.core c
  let x := w.part (w.partOfCore c)
  leBytes 2 k.pc ++ leBytes 1 (w.stallState c).code ++ leBytes 1 k.role ++ leBytes 1 (k.loops.filter (·.2.active)).length
    ++ leBytes 1 (if k.cc.getLsbD 3 then 1 else 0) ++ [0, 0] ++ leBytes 8 x.step

/-- Whether the PC samples class is enabled for a path. -/
def World.samplesOn (w : World) (p : Nat) (toPort : Bool) : Bool := if toPort then w.portTraces 1 else w.regionTraces p 1

/-- PC_SAMPLE: a sequencer takes a sample for one path; a stopped island takes none. -/
def execPcSample (core : CoreId) (toPort : Bool) (s : State) : Host.Outcome State Fault Refusal :=
  .next (s.serve fun w =>
    let c := core.val
    let p := w.partOfCore c
    let src := coreSource 0 c
    if w.samplesOn p toPort = false ∨ AMap.get false w.stopped (clusterOfCore c) then w
    else if toPort ∧ w.throttles src 1 then w.throttle src
    else
      match w.stamp s.sid src with
      | (st, rs, w) =>
        let r := w.traceRecord st rs src 0x02 (w.sampleData c)
        if toPort then w.portAccept src 1 st r
        else (w.updPart p fun x => { x with traceIn := x.traceIn ++ [r] }).tick .cnt p 0x098)

/-! ### Tensor dumps (R595 to R600) -/

/-- A write of GO to CNT_DUMP_CMD: the tests of R596 in their order; a request that passes them is armed. -/
def World.dumpGo (w : World) (p : Nat) (owner : Bool) : World :=
  let x := w.part p
  let r := w.reg (Block.cnt.addr p 0x020)
  let tensor := fieldOf r 0 24
  let stats := decide (fieldOf r 24 1 = 1)
  let ethernet := decide (fieldOf r 25 1 = 1)
  let step := (w.reg (Block.cnt.addr p 0x028)).toNat
  let g := w.reg (Block.cnt.addr p 0x030)
  let a := fieldOf g 0 48
  let n := fieldOf g 48 16 * 2 ^ 20
  let entry := if (x.bundle.getD {}).tensors.any fun y => decide (y.id = tensor) && y.versioned then x.entry tensor else none
  let refuse := fun (code : Nat) => w.updPart p fun y => { y with dump := { y.dump with result := code } }
  if x.dump.state ≠ 0 then refuse 6
  else if ethernet ∧ (owner = false ∨ p ≠ 0 ∨ (w.ethRole 4).isNone) then refuse 5
  else
    match entry with
    | none => refuse 3
    | some e =>
      if step < x.step then refuse 2
      else if ethernet = false ∧ (w.regionBad p a n ∨ n < 64 + e.bytes + (if stats then 128 else 0)) then refuse 4
      else w.updPart p fun y =>
        { y with dump := { state := 1, tensor := tensor, stats := stats, ethernet := ethernet, step := step, addr := a } }

/-- GO: arms a dump, or refuses it. -/
def execGo (part : PartId) (owner : Bool) (s : State) : Host.Outcome State Fault Refusal :=
  .next (s.serve fun w => w.dumpGo part.val owner)

/-- CANCEL: ends an armed dump (R597). -/
def execCancel (part : PartId) (s : State) : Host.Outcome State Fault Refusal :=
  .next (s.serve fun w => w.cancelDump s.sid part.val)

/-- DUMP_END: a copy to the region is complete, or the transfer to the store has ended (R599, R600). A transfer that has waited for the
store begins. -/
def execDumpEnd (part : PartId) (_ok : Bool) (s : State) : Host.Outcome State Fault Refusal :=
  .next (s.serve fun w =>
    let p := part.val
    let d := (w.part p).dump
    if d.state ≠ 2 then w
    else if d.ethernet = false then (w.hbmApply s.sid (cntSource p) w.ownPosition p d.addr d.image).endDump s.sid p 1
    else if d.copied = 0 then w.sendDump
    else w.endDump s.sid p (if d.copied = 1 then 1 else 7))

/-! ### Comet tails (R602, R603) -/

/-- FREEZE: the Owner freezes every tail of a partition. -/
def execFreeze (part : PartId) (s : State) : Host.Outcome State Fault Refusal :=
  .next (s.serve fun w => w.freezePart s.sid part.val 0 0)

/-- A write of THAW to CNT_TAIL_CTRL. -/
def World.tailThaw (w : World) (p : Nat) : World :=
  let src := w.regField (Block.cnt.addr p 0x048) 0 16
  w.thawTails (w.partSources p ++ if (w.sourcePart src).isNone then [src] else [])

/-- THAW: the tails of a partition and the selected shared unit's. -/
def execThaw (part : PartId) (s : State) : Host.Outcome State Fault Refusal :=
  .next (s.serve fun w => w.tailThaw part.val)

/-! ### The trace port (R605 to R608) -/

/-- One bit of the CRC-32 of IEEE 802.3 in its reflected form (assumption 98). -/
def crcBit (c : BitVec 32) : BitVec 32 := if c.getLsbD 0 then (c >>> 1) ^^^ 0xEDB88320 else c >>> 1
/-- One byte of the CRC. -/
def crcByte (c : BitVec 32) (b : Byte) : BitVec 32 :=
  crcBit (crcBit (crcBit (crcBit (crcBit (crcBit (crcBit (crcBit (c ^^^ b.zeroExtend 32))))))))
/-- The CRC-32 of a frame. -/
def crc32 (bs : List Byte) : Nat := (bs.foldl crcByte 0xFFFFFFFF ^^^ 0xFFFFFFFF).toNat

/-- Records in a frame. -/
def frameRecords : Nat := 256

/-- A port frame (R606). -/
def World.traceFrame (w : World) (rs : List (List Byte)) : List Byte :=
  let stamps := rs.map fun r => leAt r 0 8
  let b := leBytes 4 0x54524A4D ++ leBytes 2 1 ++ leBytes 2 rs.length ++ leBytes 2 w.moduleKey ++ List.replicate 6 0
    ++ leBytes 8 w.trc.seq ++ leBytes 8 (stamps.foldl min (2 ^ 64 - 1)) ++ leBytes 8 (stamps.foldl max 0)
    ++ List.replicate 24 0 ++ rs.flatten
  b ++ leBytes 4 (crc32 b)

/-- Records leave the sources' buffers for the room that the port buffer has (R607), source by source (assumption 99), and a
source whose buffer has room again is held no more. -/
def World.refillPort (w : World) : World :=
  let w := w.trc.srcBuf.foldl (fun (w : World) (e : Nat × List (List Byte)) =>
    let room := portBufferRecords - (w.trc.buffer.filter fun r => !eventRecordKind r).length
    { w with trc := { w.trc with buffer := w.trc.buffer ++ e.2.take room, srcBuf := AMap.set [] w.trc.srcBuf e.1 (e.2.drop room) } }) w
  let held := w.trc.throttled.filter fun x => decide (sourceBufferRecords ≤ (AMap.get [] w.trc.srcBuf x).length)
  { w with trc := { w.trc with throttled := held } }

/-- The LOSS record at the head of the next frame, when records were dropped (R608). -/
def World.portLoss (w : World) (t : Sid) : List (List Byte) × World :=
  if w.trc.lost = 0 then ([], w)
  else
    match w.lossRecord t true w.trc.lost w.trc.firstLost with
    | (r, w) => ([r], { w with trc := { w.trc with lost := 0 } })

/-- TRACE_PORT_FRAME: against a credit, a frame of the records that were accepted first leaves; how often it is sent again for a failed CRC is a
free value (R605). -/
def execTracePortFrame (s : State) : Host.Outcome State Fault Refusal :=
  .next (s.serve fun w =>
    if w.trc.link ≠ 2 ∨ w.regField (Block.trc.addr 0 0x000) 0 1 = 0 ∨ w.trc.credits = 0 ∨ (w.trc.buffer = [] ∧ w.trc.lost = 0) then w
    else
      match w.portLoss s.sid with
      | (loss, w) =>
        let rs := loss ++ w.trc.buffer.take (frameRecords - loss.length)
        let again := (Config.frameResends [49, (AMap.get 0 w.counters (Block.trc.addr 0 0x080)).toNat]).toNat
        let w := (((w.emit (.trace (w.traceFrame rs))).tick .trc 0 0x080).count (Block.trc.addr 0 0x088) rs.length).count
          (Block.trc.addr 0 0x0A0) again
        { w with trc := { w.trc with buffer := w.trc.buffer.drop (frameRecords - loss.length), seq := w.trc.seq + 1
                                     credits := w.trc.credits - 1 } }.refillPort)

/-- TRACE_CREDIT: the receiver grants credits (R606); the field of R617 holds 65,535 (assumption 100). -/
def execTraceCredit (frames : BitVec 16) (s : State) : Host.Outcome State Fault Refusal :=
  .next (s.serve fun w => { w with trc := { w.trc with credits := min 65535 (w.trc.credits + frames.toNat) } })

/-- TRACE_PORT_LINK_CHANGE: while the link is not up, no unit is held (R608). -/
def execTracePortLinkChange (link : Fin 3) (s : State) : Host.Outcome State Fault Refusal :=
  .next (s.serve fun w =>
    { w with trc := { w.trc with link := link.val, throttled := if link.val = 2 then w.trc.throttled else [] } })

end Sys2Proof.Machine
end

