-- ==== Sys2Proof/Machine/Views.lean ====
section
/-!
DEFINITION. What the registers that show structured state read as: one definition per register, from the chapters' register tables.
-/

namespace Sys2Proof.Machine

/-! ### Cores and clusters -/

/-- SEQ_STATUS (R70). -/
def World.seqStatus (w : World) (i : Nat) : Word :=
  let c := w.core i
  mkField c.pc 0 13 ||| mkField (w.stallState i).code 16 4 ||| mkField (c.loops.filter (·.2.active)).length 20 4
    ||| mkField (c.cc.toNat ||| 0x8000) 32 16 ||| mkField c.role 48 7
/-- SEQ_ENTRY (R71). -/
def Core.entryReg (c : Core) : Word :=
  mkField c.entryPc 0 13 ||| mkField (c.evalPc.getD 0) 16 13 ||| mkField (if c.evalPc.isNone then 1 else 0) 29 1
/-- SEQ_LOOPn (R72). -/
def LoopCtr.reg (x : LoopCtr) : Word :=
  mkField x.value 0 24 ||| mkField x.count 24 24 ||| mkField x.endPc 48 13 ||| mkField (if x.active then 1 else 0) 63 1

/-- MXE_STATUS (R144). -/
def World.mxeStatus (w : World) (c : Nat) : Word :=
  let m := (w.core c).mxe
  let busy := fun (a : Nat) => if m.run.elim false fun r => r.tiles.any fun x => decide (x.t % 2 = a) then 1 else 0
  mkField (w.mxeState c) 0 4 ||| mkField (if m.run.isSome then m.pending.length else m.pending.length - 1) 4 4
    ||| mkField (m.current.elim 0 (·.op.desc)) 8 11 ||| mkField (busy 0) 19 1 ||| mkField (busy 1) 20 1

/-- VXE_STATUS (R148). -/
def World.vxeStatus (w : World) (c : Nat) : Word :=
  let m := (w.core c).vxe
  mkField (w.vxeState c) 0 4 ||| mkField (if m.run.isSome then m.pending.length else m.pending.length - 1) 4 4
    ||| mkField (m.current.elim 0 (·.op.desc)) 8 11 ||| mkField m.lastStage 19 3

/-- AXE_STATUS (R255); the grain accesses of a step are complete when it ends, but for those that wait for another position. -/
def World.axeStatus (w : World) (c : Nat) : Word :=
  let x := (w.core c).axe
  mkField (w.axeState c) 0 4 ||| mkField (x.streams.filter fun r => !w.axeEnded c r).length 4 4 ||| mkField (w.guardsUsed c) 8 7
    ||| mkField (w.axeSlotsUsed c) 16 9

/-- SMP_STATUS (R213). -/
def Smp.statusReg (x : Smp) : Word :=
  let last := fun (r : SmpRun) =>
    decide (smpLast r.desc < r.hop) || r.truncated || (decide (smpLast r.desc = r.hop) && r.issuedHop && !r.waits)
  let state := if x.faulted then 4 else x.run.elim 0 fun r => if last r then 3 else if r.waits && decide (r.remote ≠ []) then 2 else 1
  let unsent := fun (r : SmpRun) (y : Nat × BNode) =>
    decide (AMap.get none r.draws y.1 = none) && !(r.remote.any fun z => decide (z.parent = y.1))
  let held := x.run.elim 0 fun r => if r.issuedHop then (r.parents.filter (unsent r)).length else 0
  mkField state 0 4 ||| mkField (min 16 held) 4 5 ||| mkField (x.run.elim 0 fun r => r.remote.length) 16 9 ||| mkField (x.run.elim 0 (·.plan)) 32 8

/-- HBC_CHANNEL_STATE (R287). -/
def World.channelStates (w : World) (st : Nat) : Word :=
  BitVec.ofNat 64 (((List.range 32).map fun c => AMap.get 0 w.channels (32 * st + c) % 4 * 4 ^ c).sum)

/-! ### Kiln, dispatcher, conjunction unit -/

/-- KLN_STATUS (R328). -/
def World.klnStatus (w : World) : Word :=
  let k := w.kiln
  let moves := k.moving.filter fun m => !(AMap.get false k.stepDone m.1)
  let cur := k.queue.headD ((moves.headD (0, 0, 0)).1, 0, 0)
  let ortho := (w.kilnEntryAt cur.1 cur.2.1 cur.2.2).elim false fun x => decide (x.1.kind = 4)
  let state := if k.linkDown then 5 else if k.faultedParts ≠ [] then 4
    else if k.queue ≠ [] then (if ortho then 2 else 1) else if moves ≠ [] then 3 else 0
  mkField state 0 4 ||| mkField cur.1 4 2 ||| mkField cur.2.1 8 8 ||| mkField cur.2.2 16 12 ||| mkField (min 65535 k.queue.length) 32 16
/-- KLN_CELLAR_STATE (R294). -/
def World.cellarStates (w : World) : Word :=
  BitVec.ofNat 64 (((List.range 64).map fun c => if AMap.get false w.cellarBad c then 2 ^ c else 0).sum)

/-- DISP_STATUS (R375). -/
def World.dispStatus (w : World) (d : Nat) : Word :=
  let p := w.ownerOfDie d
  mkField (w.die d).ready.length 0 14 ||| mkField (w.die d).collect.length 16 7 ||| mkField (if w.armed p then 1 else 0) 23 1
    ||| mkField (if (w.part p).running && (w.part p).eval then 1 else 0) 24 1
/-- A barrier's state (R380); `n` is the width of its counts. -/
def Bar.reg (b : Bar) (n : Nat) : Word :=
  mkField (if b.gen then 1 else 0) 0 1 ||| mkField b.cur 1 n ||| mkField b.next (1 + n) n ||| mkField b.expected (1 + 2 * n) n
/-- DISP_DBARn: on the partition's lowest die; the other dies read 0 (R380). -/
def World.dbarReg (w : World) (d n : Nat) : Word :=
  let p := w.ownerOfDie d
  if (w.diesOf p).headD 0 = d then (w.bar (domBarKey p n)).reg 9 else 0
/-- CJU_WAIT (R379). -/
def Core.waitStatus (c : Core) : Word :=
  c.waitReg.elim 0 fun x => mkField x.2.2.toNat 0 32 ||| mkField x.1 32 6 ||| mkField x.2.1 38 2 ||| mkField 1 40 1

/-! ### Fabric -/

/-- FAB_STATUS (R423). -/
def World.fabStatus (w : World) : Word :=
  mkField (if w.fab.trained = false then 0 else if w.fab.drain.active then 2 else 1) 0 2 ||| mkField (w.fab.position.getD 0x3FFF) 16 14
    ||| mkField w.config.group 32 8 ||| mkField w.fab.slot 40 5 ||| mkField (if w.domainHead then 3 else if w.groupHead then 1 else 0) 48 2
/-- FAB_DRAIN (R424). -/
def Drain.reg (d : Drain) : Word := mkField d.lastUs 0 20 ||| mkField d.status 20 4 ||| mkField d.reason 24 8
/-- FAB_POSTAB_DATA: the selected entry of the current or the staged table (R425). -/
def World.postabEntry (w : World) : Word :=
  let x := w.reg (Block.fab.addr 0 0x020)
  BitVec.ofNat 64 (AMap.get 0xFFFF (if fieldOf x 14 1 = 1 then w.stagedTable else w.fab.posTable) (fieldOf x 0 14))
/-- FAB_PORT_STATUS (R428). -/
def World.portStatus (w : World) (i : Nat) : Word :=
  let x := AMap.get {} w.fab.ports i
  let far := if x.state = 1 then (w.config.partnerOf w.config.group w.fab.slot i).elim 0xFFFF fun q => q.1 * 17 + q.2.1 else 0xFFFF
  mkField x.state 0 2 ||| mkField x.lanes 2 3 ||| mkField x.trainStep 5 3 ||| mkField x.lossClass 8 2 ||| mkField x.cableCm 16 16
    ||| mkField far 32 16

/-! ### Time, twins, casks -/

/-- A signed number saturated to ±32,767, in 16 bits (R463). -/
def saturated16 (x : Int) : Nat := ((max (-32767) (min 32767 x)) % 65536).toNat
/-- SID_STATUS (R463). -/
def Sid.statusReg (t : Sid) : Word :=
  let state := match t.lock with
    | .free => 0
    | .acquiring => 1
    | .locked => 2
    | .holdover => 3
    | .root => 4
  mkField state 0 3 ||| mkField t.source 3 2 ||| mkField t.hops 5 3 ||| mkField (t.parent.getD 0x3F) 8 6
    ||| mkField (saturated16 (t.median.getD 0)) 16 16
/-- SID_TWIN_STATUS (R465). -/
def World.twinStatus (w : World) : Word :=
  mkField w.twin.state 0 3 ||| mkField w.twin.role 3 2 ||| mkField (w.ownDivergences (w.part 0).step) 5 2

/-- CSK_STATUS (R500). -/
def World.caskStatus (w : World) (now : Nat) : Word :=
  let c := w.cask
  let restoring := c.fetching.elim false fun f => !f.toExport
  let state :=
    if restoring then 4 else if w.jobRuns 0 = false then 0 else if w.inGroup = false then 5 else if w.mirrorStop then 2 else if c.inProgress.isSome then 3 else 1
  mkField state 0 3 ||| mkField (if c.covered then 1 else 0) 3 1 ||| mkField (if c.transfer.active && c.transfer.dump.isNone then 1 else 0) 4 1
    ||| mkField (if c.exportFailed then 1 else 0) 5 1 ||| mkField (if w.domainHead ∧ 256 < w.config.positions then w.caskInterval now else 0) 16 16 ||| mkField (min c.risk (2 ^ 32 - 1)) 32 32

/-! ### Live loop, Ethernet -/

/-- ETH_STATUS (R540). -/
def World.ethStatus (w : World) : Word :=
  let c := w.config
  let keyed := ((List.range 4).map fun i => if w.eth.keys.any fun k => decide (k.port = i) then 2 ^ i else 0).sum
  mkField (if c.ethOn then c.ethMode else 0) 0 2 ||| mkField w.eth.linkUp.toNat 2 4 ||| mkField keyed 6 4
    ||| mkField (if c.ethBad then 1 else 0) 10 1
/-- HOP_STATUS (R535). -/
def World.hopStatus (w : World) : Word :=
  let state := if w.jobRuns 0 = false then 0 else if w.hop.intakeOk = false then 3 else if w.hop.replaying then 2 else 1
  mkField state 0 2 ||| mkField (if w.hop.configFixed then 1 else 0) 2 1
/-- TAP_STATUS (R538). -/
def World.tapStatus (w : World) : Word :=
  let state :=
    if w.jobRuns 0 = false then 0 else if w.config.governorBad then 4 else if w.hop.replaying then 3
    else if w.regField (Block.tap.addr 0 0x010) 0 1 = 0 ∨ w.twinPermits = false then 2 else 1
  mkField state 0 3

/-! ### Control, boot, observability, power -/

/-- UZO_STATUS (R543, R579). -/
def State.uzoStatus (s : State) : Word :=
  let state :=
    if s.w.uzo.light = false then 0 else if s.w.uzo.training then 1 else if s.sec.mgcHeld then 4 else if s.sec.recovery then 3 else 2
  mkField state 0 3 ||| mkField s.w.uzo.lanes 3 2
/-- SEC_STATUS (R581). -/
def Sec.statusReg (x : Sec) : Word :=
  mkField x.bootStep 0 4 ||| mkField (if x.recovery then 1 else 0) 4 1 ||| mkField (if x.claimed then 1 else 0) 5 1
    ||| mkField x.recoveryCause 8 4 ||| mkField x.floor 12 8
/-- Nanoseconds of the span in which watchdog expiries count (R567). -/
def expirySpan : Nat := 600000000000
/-- Expiries of the last 600 s (R567). -/
def Sec.recentExpiries (x : Sec) : Nat := (x.expiries.filter fun a => decide (x.timer < a + expirySpan)).length
/-- The part of MGC_STATUS that the security die's state shows (R584). -/
def Sec.mgcStatus (x : Sec) : Word := mkField (min 3 x.recentExpiries) 0 2 ||| mkField (if x.sparesOut then 1 else 0) 2 1
/-- TRC_PORT_STATUS (R617). -/
def Trc.statusReg (x : Trc) : Word :=
  mkField x.link 0 2 ||| mkField (if x.throttled ≠ [] then 1 else 0) 2 1
    ||| mkField (if eventPartRecords ≤ (x.buffer.filter eventRecordKind).length then 1 else 0) 3 1 ||| mkField x.credits 16 16
/-- CNT_DUMP_STATUS (R614). -/
def Dump.reg (d : Dump) : Word := mkField d.state 0 2 ||| mkField d.result 2 4 ||| mkField d.bytes 16 48
/-- The power state of R623; CAPPED while the frequency is below 940 MHz or work is withheld (R24). -/
def State.powerState (s : State) : Nat :=
  match s.pwr.phase with
  | .off => 0
  | .standby => 1
  | .failsafe => 5
  | .ready =>
    if (List.range 4).any s.w.jobRuns then (if s.pwr.freq < 940 ∨ s.pwr.withholding then 4 else 3) else 2
/-- PWR_STATUS (R644). -/
def State.pwrStatus (s : State) : Word :=
  mkField s.powerState 0 3 ||| mkField (if s.pwr.pwrEn then 1 else 0) 3 1 ||| mkField s.pwr.failsafeCause 4 2 ||| mkField s.pwr.freq 8 10
    ||| mkField (if s.pwr.thermal then 1 else 0) 18 1 ||| mkField s.pwr.geo.toNat 24 6

/-! ### Comet tails (R604) -/

/-- Whether a source number is in use (R654). -/
def World.sourceUsed (w : World) (src : Nat) : Bool :=
  let code := bitsAt src 10 4
  let unit := bitsAt src 4 6
  let sub := bitsAt src 0 4
  if code < 12 then
    (decide (unit < 4) && decide (sub < 8)) || (decide (4 ≤ unit) && decide (unit < 8) && decide (sub = 0)) || (decide (unit = 8) && decide (sub < 9))
  else if code = 12 then (decide (unit = 0) && decide (sub < 7)) || ((decide (unit = 1) || decide (unit = 2)) && decide (sub < 2))
  else if 2 ^ 14 ≤ src then false
  else if code = 13 then
    (decide (1 ≤ unit) && decide (unit < 4)) || (decide (unit = 6) && decide (sub < 2)) || (decide (unit = 13) && decide (sub < w.partCount))
      || (decide (unit < 13) && decide (sub = 0))
  else decide (unit = 0) && decide (sub = 0)

/-- Whether the tail that the block of partition `p` selects is denied: to a Job, a source outside the partition or of a shared unit; to
anyone, a source that is not in use (R604, R615). -/
def World.tailDenied (w : World) (job : Bool) (p src : Nat) : Bool := !w.sourceUsed src || (job && decide (w.sourcePart src ≠ some p))

/-- CNT_TAIL_DATA0 or 1: eight bytes of the selected record; 0 where denied. -/
def World.tailData (w : World) (job : Bool) (p half : Nat) : Word :=
  let x := w.reg (Block.cnt.addr p 0x048)
  let src := fieldOf x 0 16
  if w.tailDenied job p src then 0
  else BitVec.ofNat 64 (leAt (AMap.get [] (AMap.get {} w.tails src).recs (fieldOf x 16 8)) (8 * half) 8)
/-- CNT_TAIL_STATUS (R615). -/
def World.tailStatus (w : World) (job : Bool) (p : Nat) : Word :=
  let src := w.regField (Block.cnt.addr p 0x048) 0 16
  if w.tailDenied job p src then mkField 1 10 1
  else
    let x := AMap.get {} w.tails src
    mkField (if x.frozen.isSome then 1 else 0) 0 1 ||| mkField x.next 1 8 ||| mkField (if x.wrapped then 1 else 0) 9 1
      ||| mkField (x.frozen.getD 0) 11 3

/-! ### The registers by block -/

/-- Registers of a core or a cluster that show structured state. -/
def World.unitView (w : World) (b : Block) (i off : Nat) : Option Word :=
  match b with
  | .seq =>
    if off = 0x008 then some (w.seqStatus i)
    else if off = 0x010 then some (w.core i).entryReg
    else if 0x020 ≤ off ∧ off < 0x060 then some (AMap.get {} (w.core i).loops ((off - 0x020) / 8)).reg
    else none
  | .mxe =>
    if off < 0x020 then some (BitVec.ofNat 64 (AMap.get 0 (w.core i).mxeCtx (off / 8))) else if off = 0x040 then some (w.mxeStatus i) else none
  | .vxe =>
    if off < 0x020 then some (BitVec.ofNat 64 (AMap.get 0 (w.core i).vxeCtx (off / 8))) else if off = 0x040 then some (w.vxeStatus i) else none
  | .axe => if off = 0x008 then some (w.axeStatus i) else none
  | .smp => if off = 0x000 then some (w.cluster i).smp.statusReg else none
  | .hbc => if off = 0x000 then some (w.channelStates i) else none
  | .disp =>
    if off = 0x008 then some (w.dispStatus i) else if 0x108 ≤ off then some (w.dbarReg i ((off - 0x100) / 8)) else none
  | .cjuCore => if off = 0x180 then some (w.core i).waitStatus else some (AMap.get 0 (w.core i).watches (off / 8))
  | .cjuBar => if off < 0x200 then some ((w.bar (dieBarKey i (off / 8))).reg 7) else none
  | _ => none

/-- Registers of the module's shared blocks that show structured state; `job` says that a Job reads. -/
def State.sharedView (s : State) (job : Bool) (b : Block) (i off : Nat) : Option Word :=
  let w := s.w
  match b with
  | .kln =>
    if off = 0x000 then some w.klnStatus else if off = 0x028 then some (mkField w.kiln.freezeResult 1 2)
    else if off = 0x100 then some w.cellarStates else none
  | .fab =>
    if off = 0x008 then some w.fabStatus else if off = 0x018 then some w.fab.drain.reg else if off = 0x028 then some w.postabEntry else none
  | .fabPort =>
    if off = 0x000 then some (w.portStatus i) else if off = 0x008 then some ((AMap.get {} w.fab.ports i).caps.setWidth 64) else none
  | .sid =>
    if off = 0x000 then some (BitVec.ofNat 64 s.sid.now)
    else if off = 0x010 then some s.sid.statusReg
    else if off = 0x020 then some w.twinStatus
    else if off = 0x028 then some (BitVec.ofNat 64 (w.twin.matched.getD allOnes64))
    else if 0x030 ≤ off ∧ off < 0x050 then some (BitVec.ofNat 64 (leAt w.twin.lastDigest (off - 0x030) 8))
    else none
  | .csk =>
    if off = 0x010 then some (w.caskStatus s.sid.now)
    else if off = 0x018 then some (BitVec.ofNat 64 (w.cask.committed.getD allOnes64))
    else if off = 0x020 then some (mkField w.cask.lastStopUs 0 32 ||| mkField w.cask.restoreUs 32 32)
    else none
  | .eth => if off = 0x000 then some w.ethStatus else none
  | .hop =>
    if off = 0x010 then some w.hopStatus
    else if off = 0x018 then some (BitVec.ofNat 64 (w.hop.cut.getD allOnes64))
    else if off = 0x020 then some (BitVec.ofNat 64 w.hop.cutTime)
    else none
  | .tap => if off = 0x018 then some w.tapStatus else none
  | .uzo => if off = 0x000 then some s.uzoStatus else none
  | .sec =>
    if off = 0x000 then some s.sec.statusReg
    else if off = 0x008 then some s.sec.bootId
    else if off = 0x010 then some (BitVec.ofNat 64 s.sec.nextIndex)
    else if off = 0x018 then some (BitVec.ofNat 64 s.sec.reservedEnd)
    else none
  | .mgc => if off = 0x008 then some (w.reg (Block.mgc.addr 0 off) ||| s.sec.mgcStatus) else none
  | .trc => if off = 0x008 then some w.trc.statusReg else none
  | .cnt =>
    let x := w.part i
    if off = 0x008 then some (w.reg (Block.cnt.addr i off) ||| mkField (if x.traceActive then 1 else 0) 13 1)
    else if off = 0x010 then some (BitVec.ofNat 64 x.traceWrite)
    else if off = 0x018 then some (BitVec.ofNat 64 x.traceRead)
    else if off = 0x040 then some x.dump.reg
    else if off = 0x050 then some (w.tailData job i 0)
    else if off = 0x058 then some (w.tailData job i 1)
    else if off = 0x060 then some (w.tailStatus job i)
    else none
  | .pwr => if off = 0x000 then some s.pwrStatus else none
  | _ => w.unitView b i off

/-- Always-on counters of cycles, of waits and of link frames, whose amounts the model does not time (assumption 101). -/
def Block.timed : Block → Nat → Bool
  | .mxe, off => decide (off = 0x080) || decide (off = 0x088)
  | .vxe, off => decide (off = 0x080)
  | .axe, off => decide (off = 0x098) || decide (off = 0x0A0)
  | .gsu, off => decide (off = 0x0A8)
  | .hbc, off => decide (off = 0x0B0) || decide (off = 0x0B8)
  | .disp, off => decide (off = 0x090) || decide (off = 0x0A8)
  | .fabPort, off => decide (off = 0x0A0) || decide (off = 0x0A8)
  | .sid, off => decide (0x400 ≤ off) && decide ((off - 0x400) % 0x18 ≠ 0x10)
  | .csk, off => decide (off = 0x090)
  | .trc, off => decide (off = 0x090)
  | _, _ => false

/-- Whether an always-on counter has counted anything since the reset. -/
def World.hasCounted (w : World) (b : Block) (i off : Nat) : Bool := decide (AMap.get 0 w.counters (b.addr i off) ≠ (0 : Word))

/-- Whether the activity whose time a timed counter counts has taken place since the reset: before that it holds its reset value 0. A
unit has acted once it has taken a stamp. -/
def State.hasRun (s : State) (b : Block) (i : Nat) : Bool :=
  let w := s.w
  let acted := fun (src : Nat) => decide (AMap.get 0 w.stamps src ≠ 0)
  match b with
  | .mxe => acted (coreSource 2 i)
  | .vxe => acted (coreSource 3 i)
  | .axe => acted (coreSource 1 i)
  | .gsu => acted (clusterSource 6 i)
  | .hbc => w.hasCounted .hbc i 0x080 || w.hasCounted .hbc i 0x088
  | .disp => w.hasCounted .disp i 0x080 || !(w.die i).ready.isEmpty
  | .fabPort => decide ((AMap.get {} w.fab.ports i).trainStep ≠ 0)
  | .sid => decide (s.pwr.phase ≠ .off)
  | .csk => w.hasCounted .csk 0 0x080 || w.cask.inProgress.isSome
  | .trc => decide (w.trc.link ≠ 0) || w.hasCounted .trc 0 0x080
  | _ => false

/-- Time has advanced a timed counter by an amount that the model does not know: a free value (assumption 101). -/
def World.elapse (w : World) (b : Block) (i off : Nat) : World :=
  { w with counters := AMap.upd 0 w.counters (b.addr i off) (· + Config.freeWord w.free), free := w.free + 1 }

/-- The cluster in whose island a block's instance lies (R21); none for a block outside the cluster islands. -/
def Block.island (b : Block) (i : Nat) : Option Nat :=
  match b with
  | .seq | .mxe | .vxe | .axe | .cjuCore => some (clusterOfCore i)
  | .smp | .gsu | .suq | .cjuBar => some i
  | _ => none

/-- A register access reaches a block: it restarts the island that the block lies in, where that is stopped (R21). -/
def State.reaches (s : State) (b : Block) (i : Nat) : State :=
  match b.island i with
  | none => s
  | some k => { s with w := s.w.wakeIsland s.sid k }

/-- What a read of a register returns, and the world after it: the access restarts a stopped island (R21), and a timed counter that runs
has advanced. Bits that no field covers read 0 (R8). -/
def State.readReg (s : State) (job : Bool) (b : Block) (i off : Nat) : Word × World :=
  let s := s.reaches b i
  match b.regAt off with
  | none => (0, s.w)
  | some r =>
    let a := b.addr i off
    let w := if b.timed off && s.hasRun b i then s.w.elapse b i off else s.w
    (r.readable ((s.sharedView job b i off).getD (w.reg a ||| AMap.get 0 w.counters a)), w)

end Sys2Proof.Machine
end

