-- ==== Sys2Proof/Machine/RegAccess.lean ====
section
/-!
DEFINITION. Accesses to registers (R5 to R11, R576, R658, R659): privilege, what a software write does, the commands that write or read
a register, the SMBus target (R639), and the packets of the memory requests, which also carry register accesses of other positions.
-/

namespace Sys2Proof.Machine

/-! ### Privilege (R142, R587, R610, R658, R659) -/

/-- Whether a block's instance, and the register at `off`, belong to partition `p`; a block that all partitions share does to each. -/
def World.ownsBlock (w : World) (b : Block) (i off p : Nat) : Bool :=
  match b with
  | .seq | .mxe | .vxe | .axe | .cjuCore => decide (w.partOfCore i = p)
  | .smp | .gsu | .suq | .cjuBar => decide (w.partOfCluster i = p)
  | .nmr | .hbc => decide (w.ownerOfDie (i / 2) = p)
  | .disp => decide (w.ownerOfDie i = p)
  | .cnt => decide (i = p)
  | .hop | .tap => decide (p = 0)
  | .sid => decide (off < 0x400) || (decide ((off - 0x400) / 0x18 < 48) && decide (w.partOfCluster ((off - 0x400) / 0x18) = p))
  | .kln | .fab | .fabPort | .orb | .csk | .eth | .uzo | .sec | .mgc | .trc | .pwr => true

/-- Whether a register may be read and written: by the Owner (`none`), or by a Job of a partition. -/
def World.mayRead (w : World) (job : Option Nat) (b : Block) (i off : Nat) : Bool :=
  job.elim true fun p => b.jobReads off && w.ownsBlock b i off p
def World.mayWrite (w : World) (job : Option Nat) (b : Block) (i off : Nat) : Bool :=
  job.elim (decide (b ≠ .sec)) fun p => b.jobWrites off && w.ownsBlock b i off p

/-! ### Writes (R6 to R11) -/

/-- What a write leaves in the register by its fields' access codes. -/
def World.storeReg (w : World) (ready : Bool) (b : Block) (i off : Nat) (v : Word) : World :=
  match b.regAt off with
  | none => w
  | some r => w.setReg (b.addr i off) (r.written ready (w.reg (b.addr i off)) v)

/-- Whether bit `n` of a value is 1. -/
def wordBit (v : Word) (n : Nat) : Bool := decide (fieldOf v n 1 = 1)

/-- A write to CNT_TRACE_READ, CNT_DUMP_CMD and CNT_TAIL_CTRL (R592, R596, R597, R602, R603, R614, R615). -/
def World.writeCnt (w : World) (t : Sid) (owner : Bool) (p off : Nat) (v : Word) : Option World :=
  if off = 0x018 then some (w.writeTraceRead p v.toNat)
  else if off = 0x038 then
    let w := if wordBit v 0 then w.dumpGo p owner else w
    some (if wordBit v 1 then w.cancelDump t p else w)
  else if off = 0x068 then
    let w := if wordBit v 0 then w.freezePart t p 0 0 else w
    some (if wordBit v 1 then w.tailThaw p else w)
  else none

/-- A write to a register of a core, a stack or a die, or of the Kiln, that does more than store (R69, R254, R289, R331, R374). -/
def World.writeUnit (w : World) (t : Sid) (ready : Bool) (b : Block) (i off : Nat) (v : Word) : Option World :=
  match b with
  | .seq =>
    if off = 0x000 then
      let w := (w.storeReg ready b i off v).writeStop i (wordBit v 0)
      some (if wordBit v 1 then w.writeSingle i else w)
    else none
  | .axe => if off = 0x000 ∧ w.jobRuns (w.partOfCore i) then some w else none
  | .hbc => if off = 0x010 ∧ fieldOf v 16 8 = 0 then some (w.storeReg ready b i off (withField v 16 8 24)) else none
  | .disp => if off = 0x000 ∧ 1000 < fieldOf v 0 10 then some (w.storeReg ready b i off 1000) else none
  | .kln =>
    if off = 0x018 then some (w.freezeCommand t (fieldOf v 22 2) (fieldOf v 0 8) (fieldOf v 8 12) (fieldOf v 20 2) (fieldOf v 24 40)) else none
  | _ => none

/-- A write to a register of the fabric, the casks, the power controller or a partition's CNT block that does more than store (R424,
R425, R499, R500, R647). -/
def World.writeShared (w : World) (t : Sid) (owner : Bool) (b : Block) (i off : Nat) (v : Word) : Option World :=
  match b with
  | .fab =>
    if off = 0x010 then some (if wordBit v 0 then w.requestDrain else w)
    else if off = 0x028 then
      some { w with fab := { w.fab with
        staged := AMap.set unstaged w.fab.staged (w.regField (Block.fab.addr 0 0x020) 0 14) (fieldOf v 0 16) } }
    else none
  | .csk =>
    if off = 0x008 then some (if wordBit v 0 then w.updCask fun c => { c with request := true } else w)
    else if off = 0x010 then some (if wordBit v 5 then w.updCask fun c => { c with exportFailed := false } else w)
    else none
  | .cnt => w.writeCnt t owner i off v
  | .pwr => if off = 0x018 then some (w.writeAlert v) else none
  | _ => none

/-- A software write. `ready` locks the RWL fields (R11); `owner` says that the Owner writes. It restarts a stopped island (R21). -/
def State.writeReg (s : State) (ready owner : Bool) (b : Block) (i off : Nat) (v : Word) : State :=
  let s := s.reaches b i
  if b = .hbc ∧ off = 0x008 then
    (if v.setWidth 32 = (0 : BitVec 32) then s else { s with sec := s.sec.clearMapout i (v.setWidth 32) })
  else
    let w := ((s.w.writeUnit s.sid ready b i off v).orElse fun _ => s.w.writeShared s.sid owner b i off v).getD (s.w.storeReg ready b i off v)
    { s with w := w, sec := if b = .mgc ∧ off = 0x000 ∧ wordBit v 16 then { s.sec with lastKick := s.sec.timer } else s.sec }

/-- REGISTER_WRITE: the Owner writes a register of this module at a control-space offset (assumption 104). -/
def execRegisterWrite (offset : Nat) (value : BitVec 64) (s : State) : Host.Outcome State Fault Refusal :=
  if s.inService = false then .next s
  else
    match locate offset with
    | none => .next s
    | some (b, i, off) => .next (if s.w.mayWrite none b i off then s.writeReg true true b i off value else s)

/-! ### The SMBus target (R639) -/

/-- SMBUS_BLOCK_READ: the PWR register at offset 8c, with Owner read rights; a code above 0x7F names none. -/
def execSmbusBlockRead (code : BitVec 8) (s : State) : Host.Outcome State Fault Refusal :=
  if s.powered = false then .next s
  else if code.toNat < 0x80 then
    let r := s.readReg false .pwr 0 (8 * code.toNat)
    .next { s with w := r.2.emit (.smbus (leBytes 8 r.1.toNat)) }
  else .next { s with w := s.w.emit .smbusNack }

/-- SMBUS_BLOCK_WRITE: only PWR_ALERT takes a write. -/
def execSmbusBlockWrite (code : BitVec 8) (value : BitVec 64) (s : State) : Host.Outcome State Fault Refusal :=
  if s.powered = false then .next s
  else .next { s with w := if code = 3 then s.w.writeAlert value else s.w.emit .smbusNack }

/-! ### REG_READ and REG_WRITE (R548, R576, R659) -/

/-- The access that a REG_READ or REG_WRITE parcel asks for, here or, for the Owner, at another position. -/
def State.regAccess (s : State) (job : Option Nat) (o : Origin) (write : Bool) (q : Parcel) : State :=
  let a := leAt q.payload 0 8
  let type := if write then 0x0021 else 0x0020
  let say := fun (w : World) (status : Nat) (b : List Byte) => w.answer s.sid o type q status 0 b
  let refuse := fun (status : Nat) => { s with w := say s.w status [] }
  match locate (addrOffset a) with
  | none => refuse stRange
  | some (b, i, off) =>
    if addrSpace a ≠ 3 then refuse stRange
    else if addrPosition a = s.w.ownPosition then
      if write then
        if s.w.mayWrite job b i off then
          let s := s.writeReg true job.isNone b i off (BitVec.ofNat 64 (leAt q.payload 8 8))
          { s with w := say s.w stOk [] }
        else refuse stPrivilege
      else if s.w.mayRead job b i off then
        let r := s.readReg job.isSome b i off
        { s with w := say r.2 stOk (leBytes 8 r.1.toNat) }
      else refuse stPrivilege
    else if job.isSome ∨ (write ∧ b = .sec) then refuse stPrivilege
    else if s.w.physicalOf (addrPosition a) = none then refuse stRange
    else
      let x : RegWait := { tag := mkTag 6 0 s.w.uzo.nextTag, write := write, origin := o, request := q }
      { s with w := (s.w.updUzo fun u => { u with regWaits := u.regWaits ++ [x], nextTag := u.nextTag + 1 }).sendRegs s.sid }

/-! ### Memory requests of the fabric (R388, R397) -/

/-- A register access of another position's management controller, with Owner privilege. -/
def State.serveReg (s : State) (write : Bool) (q : Packet) : State :=
  let reply := fun (s : State) (refused : Bool) (b : List Byte) => s.onWorld fun w =>
    w.sendPacket s.sid (if write then 0x04 else 0x02) q.src.toNat (ioSource 0) q.tag.toNat (if refused then q.address.toNat else 0)
      false false b
  match locate (addrOffset q.address.toNat) with
  | none => reply s true []
  | some (b, i, off) =>
    if write then
      if s.w.mayWrite none b i off then
        reply (s.writeReg true true b i off (BitVec.ofNat 64 (leAt q.payload 0 8))) false []
      else reply s true []
    else
      let r := s.readReg false b i off
      reply { s with w := r.2 } false (leBytes 8 r.1.toNat)

/-- A request for this module's HBM or registers. -/
def State.memoryRequest (s : State) (write : Bool) (q : Packet) : State :=
  if s.inService = false ∨ s.w.fab.trained = false ∨ s.w.fab.position = none then s
  else
    let s := { s with w := s.w.receive s.sid (if write then 0x03 else 0x01) q }
    if addrSpace q.address.toNat = 3 then s.serveReg write q else s

/-- READ_REQ (R397). -/
def execReadReq (p : Packet) (s : State) : Host.Outcome State Fault Refusal := .next (s.memoryRequest false p)
/-- READ_DATA at its requester (R397). -/
def execReadData (p : Packet) (s : State) : Host.Outcome State Fault Refusal := .next (s.serve fun w => w.receive s.sid 0x02 p)
/-- WRITE (R397). -/
def execWrite (p : Packet) (s : State) : Host.Outcome State Fault Refusal := .next (s.memoryRequest true p)
/-- WRITE_ACK at the writer (R397). -/
def execWriteAck (p : Packet) (s : State) : Host.Outcome State Fault Refusal := .next (s.serve fun w => w.receive s.sid 0x04 p)

end Sys2Proof.Machine
end

