-- ==== Sys2Proof/Machine/Jobs.lean ====
section
/-!
DEFINITION. The job states of a partition (R551): loading a bundle, starting, stopping and unloading, whether a parcel or the recipe store
asks (R38 to R41, R221, R301, R504, R565).
-/

namespace Sys2Proof.Machine

/-! ### Loading (R38, R40, R45) -/

/-- The refusal of a bundle for partition `p`: reason, section offset and RECORD_OFFSET. Another job state than empty is BUSY; a
PARTITION above 7 fails the next load with FORMAT (R45). -/
def World.loadRefusal (w : World) (p : Nat) (b : List Byte) : Option (Nat × Nat × Nat) :=
  if 7 < w.config.partition then some (1, 0, 0)
  else (bundleRefusal (w.loadEnv p) (decide ((w.part p).job ≠ .empty)) b).map fun r => (r.1, r.2, refusedRecordOffset b r)

/-- BUNDLE_REJECT: the reason, RECORD_OFFSET for REQUIREMENT, and the section offset in EXTRA (R38, R652, R656). -/
def World.raiseReject (w : World) (t : Sid) (r : Nat × Nat × Nat) : World :=
  w.raiseAs t (ioSource 7) 0x101 2 (r.1 + r.2.2 % 2 ^ 16 * 2 ^ 8) r.2.1

/-- Loads a bundle into partition `p`: what refuses it, and the world after. -/
def World.loadBundle (w : World) (t : Sid) (p : Nat) (b : List Byte) : Option (Nat × Nat × Nat) × World :=
  match w.loadRefusal p b with
  | some r => (some r, { w with config := { w.config with partition := if 7 < w.config.partition then 0 else w.config.partition } }.raiseReject t r)
  | none => (none, (w.install p (bundleOf (b.take (leAt b 0x10 8)))).thawTails (w.partSources p))

/-! ### Starting (R31, R96, R221, R301, R504, R522, R590) -/

/-- The statistics records before the first step (assumption 105): TENSOR_ID and formats, all ones in STEP, and every count 0. -/
def World.startStats (w : World) (p : Nat) : World :=
  (((w.part p).bundle.elim [] (·.tensors)).zipIdx).foldl (fun w x =>
    let f := x.1.recipe.format
    (w.hbmCount p (w.statsRecord p x.2) 128 true).hbmStore p (w.statsRecord p x.2)
      (leBytes 4 x.1.id ++ leBytes 1 f ++ [0, 0, 0] ++ leBytes 8 allOnes64 ++ List.replicate 64 0 ++ leBytes 1 f ++ List.replicate 47 0)) w

/-- What partition 0's start resets in the parts of the module that it alone owns (R46): Hopper and the first cycle, Tap and its state
region, casks, the twin, and the tree. Histories that span jobs stay (R485, R486). -/
def World.startDomain (w : World) (t : Sid) : World :=
  let w := w.hopStart
  let c0 := w.hop.firstCycle t.now
  let w := w.updPart 0 fun x => { x with c0 := c0, cycle := c0 }
  let g := w.tapRegion 0x008 0 65536 64
  let w := w.hbmStore 0 g.1 (List.replicate (64 * g.2) 0)
  let c := w.cask
  { w with
    tap := {}
    cask := { linkRetrains := c.linkRetrains, request := c.request, stops := c.stops, takeovers := c.takeovers
              lastStopUs := c.lastStopUs, restoreUs := c.restoreUs, risk := c.risk, riskHist := c.riskHist
              stretchWindows := c.stretchWindows }
    twin := { state := if w.config.twinRole = 0 then 0 else twinPaired, role := w.config.twinRole, lastFrameAt := t.now }
    fab := { w.fab with aborted := false, gens := [], treeHeld := [], reduces := [], reduceSent := [], raisedOverflow := [] } }

/-- START: the job of a loaded partition starts with JOB_SEED. Kiln state comes from version 0, version 0 is copied into version 1, and the
first run is due: the evaluation slot of the cycle, where step 0 opens one, though no switch came before it (R32 names slots at switches
alone; DESIGN CHOICE, assumption 172). -/
def State.startJob (s : State) (p : Nat) (seed : Word) : State :=
  let w := ((s.w.startStats p).kilnInit p).firstCopy s.sid p
  let w := if p = 0 then (w.startDomain s.sid).setCircuits else w
  let w := (w.startTrace p).updPart p fun x =>
    { x with job := .running, jobSeed := seed, started := true, due := some (decide (p = 0)), progress := s.sid.now }
  { s with w := w, sid := if p = 0 then { s.sid with canStep := false } else s.sid }

/-! ### Stopping and unloading (R30, R47, R551, R552) -/

/-- STOP at once. -/
def World.stopNow (w : World) (t : Sid) (p : Nat) : World := (w.cancelDump t p).stopRun p false

/-- A core of an empty partition has no role and no entry (R70, R71), and its contexts read 0 (R115). -/
def Core.unloaded (c : Core) : Core := { c with role := 0x7F, entryPc := 0, evalPc := none, mxeCtx := [], vxeCtx := [] }

/-- UNLOAD: the partition is empty; its windows close, its cores lose role and contexts (R115), and no memory is cleared until the next
load. -/
def World.unloadPart (w : World) (p : Nat) : World :=
  let w := (w.coresOf p).foldl (fun w c => w.updCore c Core.unloaded) w
  let w := w.updPart p fun x => { x with job := .empty, bundle := none, dir := [], session := none }
  w.updUzo fun u => { u with windows := u.windows.filter fun x => decide (x.2.part ≠ p) }

end Sys2Proof.Machine
end

