-- ==== Sys2Proof/Machine/Boot.lean ====
section
/-!
DEFINITION. Start-up (R561 to R566, R621 to R624): power-on, reset and the boot steps to ready or to RECOVERY.
-/

namespace Sys2Proof.Machine

/-! ### Steps 5 to 8 (R562, R565) -/

/-- Step 5: HBM and cellar training (R281, R285), and the cellar devices' identities (R629). -/
def State.trainMemory (s : State) (boot : BootIn) : State :=
  let x := (List.range 256).foldl (trainHbm s.sid boot.hbmFail) (s.w, s.sec)
  let x := (List.range 64).foldl (trainCellar s.sid boot) x
  let present := ((List.range 16).map fun k => if boot.cellarGib.getD k 0 = expectedGib then 2 ^ k else 0).sum
  { s with w := x.1.setReg (Block.pwr.addr 0 0x300) (mkField present 0 16 ||| mkField expectedGib 16 8), sec := x.2 }

/-- Breakout ports that come up (R527, R528, R636). -/
def World.ethBringUp (w : World) (boot : BootIn) : World :=
  let n := match w.config.ethMode with
    | 1 => 1
    | 2 => 2
    | 3 => 4
    | _ => 0
  let up := fun (i : Nat) => boot.refclk && w.config.ethOn && bitAt boot.ethUp.toNat i
    && w.config.ethTable.any fun e => decide (e.role = 0) && decide (e.port = i)
  { w with eth := { w.eth with linkUp := BitVec.ofNat 4 (((List.range n).map fun i => if up i then 2 ^ i else 0).sum) } }

/-- Step 6: the fabric ports and the Ethernet port. A port that has not come up to a populated slot is reported (R395). -/
def State.trainPorts (s : State) (boot : BootIn) : State :=
  let w := s.w.trainFabric s.sid s.pwr.geo.toNat (bitsAt s.sec.fwVersion.toNat 24 8) boot
  let w := (if boot.refclk then w else w.setAlert 6).ethBringUp boot
  let s := { s with w := w, pwr := { s.pwr with refclk := boot.refclk } }
  let s := if fabricOutOfRange w.config s.pwr.geo.toNat then s
    else (List.range 16).foldl (fun (s : State) i => if s.w.portUp i then s else s.reportDown i) s
  s.chooseParent

/-- Step 7: the partitions of this start and their records (R42, R45). -/
def World.buildRecords (w : World) (now fw : Nat) : World :=
  let w := w.makeParts
  (List.range w.partCount).foldl (fun w p =>
    let r := w.buildRecord now fw p
    w.updPart p fun x => { x with record := r }) w

/-- Step 8: ready. A root with SID_SOURCE 2 or 3 takes its starting value from SID_SET (R437). -/
def State.ready (s : State) (boot : BootIn) : State :=
  let set := (s.w.reg (Block.sid.addr 0 0x008)).toNat
  let takes := s.sid.isRoot && (decide (s.w.config.sidSource = 2) || decide (s.w.config.sidSource = 3)) && decide (set ≠ 0)
  { s with
    pwr := { s.pwr with phase := .ready }
    sid := if takes then { s.sid with now := set } else s.sid
    sec := { s.sec with bootStep := 8 }
    w := s.w.setField (Block.mgc.addr 0 0x008) 16 16 boot.bootMs.toNat }

/-- The bundle of the recipe store, when it is present and its digest passes (R557, R561). -/
def Sec.storedBundle (x : Sec) : Option (List Byte) :=
  let m := x.manifest
  let b := x.flash.read (regionBase 2) (leAt m 0x18 8)
  if bitAt (leAt m 6 2) 1 ∧ shake256 b = slice m 0x60 32 then some b else none

/-- An autonomous bundle is loaded into partition 0 at ready and starts at once (R565). -/
def State.autonomous (s : State) : State :=
  match s.w.config.autonomous, s.sec.storedBundle with
  | true, some b =>
    match s.w.loadBundle s.sid 0 b with
    | (some _, w) => { s with w := w }
    | (none, w) => { s with w := w }.startJob 0 s.w.config.jobSeed
  | _, _ => s

/-- Steps 5 to 8. -/
def State.bootOn (s : State) (boot : BootIn) : State :=
  let s := { s with sec := { s.sec with bootHeld := false } }
  let s := (s.trainMemory boot).trainPorts boot
  let s := { s with w := s.w.buildRecords s.sid.now s.sec.fwVersion.toNat }
  (s.ready boot).autonomous

/-! ### Steps 1 to 4 (R558, R560 to R564) -/

/-- Step 1: MRAM records are read, BOOT_ID is drawn, and the Uzolo port trains. -/
def State.bootFirst (s : State) (boot : BootIn) : State :=
  { s with
    sec := { s.sec with bootStep := 1, recovery := false, recoveryCause := 0, bootId := Config.freeWord s.w.free, timer := 0, credits := 0
                        nextIndex := s.sec.reservedEnd, signQueue := [], mgcHeld := false, expiries := [] }
    w := { s.w with free := s.w.free + 1
                    uzo := { s.w.uzo with lanes := if s.w.uzo.light then boot.lanes else 0
                                          training := !s.w.uzo.light || decide (boot.lanes = 0) } } }

/-- Step 2 finds no manifest, or step 3 an image that fails (R563, R564): the cause, and the step that found it. -/
def Sec.bootFailure (x : Sec) : Option (Nat × Nat) :=
  match manifestTaken x.flash with
  | none => some (1, 2)
  | some _ =>
    let m := x.manifest
    let n := leAt m 0x10 4
    if bitAt (leAt m 6 2) 0 = false then some (2, 3)
    else (imageCause (slice m 0x20 32) x.rollbackFloor.body (x.flash.read (regionBase 0) n) n).map fun c => (c, 3)

/-- The bytes of region 1, and whether their digest passes. -/
def Sec.configBytes (x : Sec) : List Byte × Bool :=
  let m := x.manifest
  let b := x.flash.read (regionBase 1) (leAt m 0x14 4)
  (b, decide (shake256 b = slice m 0x40 32))

/-- Whether software can write a register at all (R560). -/
def RegDef.writable (r : RegDef) : Bool := r.fields.any fun f => decide (f.access ≠ .ro) && decide (f.access ≠ .rc)

/-- One REGISTERS entry, written or skipped (R560). -/
def State.configWrite (s : State) (e : Nat × Word) : State :=
  let skip := { s with w := s.w.tick .mgc 0 0x088 }
  match locate (addrOffset e.1) with
  | none => skip
  | some (b, i, off) =>
    if (b.regAt off).elim false RegDef.writable ∧ addrSpace e.1 = 3 then s.writeReg false true b i off e.2 else skip

/-- Step 4: the MGC starts and applies the SYSTEM and REGISTERS blocks (R560), with which the module knows its place and whether it is
the time root (R386, R431); bad digests are told (R561). -/
def State.configure (s : State) : State :=
  let b := s.sec.configBytes
  let m := s.sec.manifest
  let img := s.sec.flash.read (regionBase 0) (leAt m 0x10 4)
  let c := configOf b.1 b.2
  let s := ({ s with w := { s.w with config := c }.takePlace s.pwr.geo.toNat }).chooseParent
  let w := s.w.setField (Block.pwr.addr 0 0x008) 0 6 c.powerCap
  let w := if c.valid then w else w.raise s.sid (ioSource 7) 0x160 1
  let w := if bitAt (leAt m 6 2) 1 ∧ s.sec.storedBundle = none then w.raise s.sid (ioSource 7) 0x160 2 else w
  let s := { s with
    w := w
    sec := { s.sec with bootStep := 4, mgcRunning := true, lastKick := 0, fwMeasure := shake256 img, recipeMeasure := shake256 b.1
                        fwVersion := BitVec.ofNat 32 (leAt img 4 4) } }
  if c.valid then (configRegisters b.1).foldl State.configWrite s else s

/-- The boot from step 1: to RECOVERY, to the hold at the end of step 4 while PWR_EN is low (R624), or to ready. -/
def State.boot (s : State) (boot : BootIn) : State :=
  let s := s.bootFirst boot
  match s.sec.bootFailure with
  | some (cause, step) =>
    { s with
      sec := { s.sec with bootStep := step, recovery := true, recoveryCause := cause, mgcRunning := false }
      w := s.w.setAlert 7 }
  | none =>
    let s := s.configure
    if s.pwr.pwrEn then s.bootOn boot else { s with sec := { s.sec with bootHeld := true } }

/-! ### The commands -/

/-- POWER_ON_QUALIFY: the input has stayed at or above 40 V for 10 ms (R621, R624): every register and SID_NOW take their reset values,
GEO_ADDR is read (R638), and the boot begins unless MOD_RESET_L is asserted. -/
def execPowerOnQualify (vin10mv : BitVec 16) (geo : BitVec 6) (boot : BootIn) (s : State) : Host.Outcome State Fault Refusal :=
  if s.pwr.phase ≠ .off ∨ vin10mv.toNat < 4000 then .next s
  else
    let s := s.modReset
    let s := { s with pwr := { s.pwr with geo := geo, inputHigh := false }, sid := {} }
    .next (if s.pwr.resetLow then s else s.boot boot)

/-- PWR_EN_RISE: a boot held at the end of step 4 goes on (R624). -/
def execPwrEnRise (boot : BootIn) (s : State) : Host.Outcome State Fault Refusal :=
  let s := { s with pwr := { s.pwr with pwrEn := true } }
  .next (if s.sec.bootHeld ∧ s.pwr.failSeq = none ∧ s.pwr.phase = .standby then s.bootOn boot else s)

/-- MOD_RESET_L_ASSERT: STANDBY with every register at its reset value and the Uzolo transmitters off (R7, R544, R624); held during a
power-fail sequence (R625). -/
def execModResetLAssert (s : State) : Host.Outcome State Fault Refusal :=
  let s := { s with pwr := { s.pwr with resetLow := true } }
  .next (if s.pwr.phase = .off then s
    else if s.pwr.failSeq.isSome then { s with pwr := { s.pwr with resetHeld := true } }
    else let s := s.modReset; { s with w := s.w.uzoDark })

/-- MOD_RESET_L_RELEASE: GEO_ADDR is read and the boot begins (R562, R638); released before the hold-up ends, the reset is not
applied (R625). -/
def execModResetLRelease (geo : BitVec 6) (boot : BootIn) (s : State) : Host.Outcome State Fault Refusal :=
  if s.pwr.resetLow = false then .next s
  else
    let s := { s with pwr := { s.pwr with resetLow := false } }
    .next (if s.pwr.failSeq.isSome ∨ s.pwr.phase ≠ .standby then s
      else { s with pwr := { s.pwr with geo := geo } }.boot boot)

end Sys2Proof.Machine
end

