-- ==== Sys2Proof/Machine/Parcels.lean ====
section
/-!
DEFINITION. Request parcels of the Uzolo port: their form (R545, R548), who may send what (R546, R547, R574, R577), and the requests for
status, bundles, jobs and registers (R550, R551).
-/

namespace Sys2Proof.Machine

/-! ### The form of a request (R545, R548) -/

/-- Whether a payload length fits a request TYPE; no length fits a TYPE that names no request. -/
def lengthOk (type n : Nat) : Bool :=
  match type with
  | 0x01 | 0x02 | 0x12 | 0x13 | 0x62 | 0x73 => decide (n = 0)
  | 0x03 | 0x71 | 0x72 => decide (n = 32)
  | 0x10 | 0x14 | 0x15 | 0x20 | 0x31 | 0x40 | 0x74 => decide (n = 8)
  | 0x11 | 0x61 => decide (8 ≤ n)
  | 0x16 | 0x21 | 0x32 | 0x34 | 0x60 => decide (n = 16)
  | 0x30 => decide (n = 24)
  | 0x33 => decide (16 ≤ n)
  | 0x70 => decide (n = 64)
  | _ => false

/-- Whether the reserved bytes and bits of a request payload are 0. -/
def reservedOk (type : Nat) (b : List Byte) : Bool :=
  match type with
  | 0x15 => decide (leAt b 0 8 < 2)
  | 0x16 => decide (leAt b 9 7 = 0)
  | 0x30 => decide (leAt b 1 1 < 4) && decide (leAt b 2 6 < 2)
  | 0x31 | 0x33 | 0x60 | 0x74 => decide (leAt b 1 7 = 0)
  | 0x32 | 0x40 => decide (leAt b 1 3 = 0)
  | 0x34 => decide (leAt b 2 2 = 0)
  | 0x70 => decide (leAt b 3 5 = 0)
  | _ => true

/-- Whether a request is tagged. -/
def parcelTagged (q : Parcel) : Bool := bitAt q.flags.toNat 1

/-- Whether a request is well formed (R545, R548): no reserved bit is set and its LENGTH fits its TYPE. -/
def parcelOk (type : Nat) (q : Parcel) : Bool :=
  decide (q.flags.toNat ≤ 2 ∧ q.flags.toNat ≠ 1) && decide (q.privilege.toNat ≤ 2) && decide (q.partition.toNat ≤ 3)
    && decide (q.status = 0) && decide (q.detail = 0) && decide (q.reserved = 0)
    && decide (q.payload.length ≤ parcelBytes) && decide (q.kmac.length = if parcelTagged q then 32 else 0)
    && lengthOk type q.payload.length && reservedOk type q.payload

/-! ### Admission (R543, R546, R547, R574, R577) -/

/-- What becomes of a request: no answer, a refusal with a STATUS, or its handling, for the Owner or for a Job; whether its SEQ counts. -/
inductive Verdict where
  | silent
  | refuse (status : Nat)
  | allow (job : Option Nat) (seq : Bool)
deriving DecidableEq, Repr

/-- The types that any sender may use untagged while the module is unclaimed, or at any time (R548). -/
def anyWhileUnclaimed (type : Nat) : Bool := [0x01, 0x02, 0x03, 0x72].contains type
def anyAlways (type : Nat) : Bool := [0x01, 0x03].contains type
/-- The types that Job privilege may use (R548). -/
def jobMaySend (type : Nat) : Bool :=
  [0x01, 0x02, 0x03, 0x10, 0x11, 0x12, 0x13, 0x14, 0x15, 0x20, 0x21, 0x32, 0x33, 0x40].contains type
/-- The types that act on the parcel's PARTITION. -/
def usesPartition (type : Nat) : Bool :=
  [0x02, 0x03, 0x10, 0x11, 0x12, 0x13, 0x14, 0x15, 0x16, 0x30, 0x71].contains type

/-- The message that a parcel's tag covers (R546). -/
def taggedBytes (bootId : Word) (type : Nat) (q : Parcel) : List Byte :=
  leBytes 8 bootId.toNat
    ++ parcelHeader type q.flags.toNat q.privilege.toNat q.payload.length q.tag.toNat q.partition.toNat q.status.toNat q.detail.toNat
        q.seq.toNat q.reserved.toNat
    ++ q.payload

/-- Whether a tag verifies under a key (R546). -/
def tagOk (bootId : Word) (type : Nat) (q : Parcel) (key : List Byte) : Bool :=
  decide (kmac256 key (taggedBytes bootId type q) "MEORI-UZO" = q.kmac)

/-- The last SEQ accepted for a request's PRIVILEGE and PARTITION (R546). -/
def Part.lastSeq (x : Part) (q : Parcel) : Option Nat := if q.privilege.toNat = 1 then x.seqOwner else x.seqJob

/-- A tagged request: the key that its PRIVILEGE names, its tag and its SEQ (R546, R547). -/
def State.admitTagged (s : State) (type : Nat) (q : Parcel) : Verdict :=
  let x := s.w.part q.partition.toNat
  let key := if q.privilege.toNat = 1 then some s.sec.ownerKey else x.jobKey
  if q.privilege = 0 then .refuse stAuth
  else
    match key with
    | none => .refuse stPrivilege
    | some k =>
      if tagOk s.sec.bootId type q k = false then .refuse stAuth
      else if (x.lastSeq q).any fun n => decide (q.seq.toNat ≤ n) then .refuse stReplay
      else .allow (if q.privilege.toNat = 1 then none else some q.partition.toNat) true

/-- An untagged request (R546, R574). -/
def admitUntagged (type : Nat) (claimed : Bool) (q : Parcel) : Verdict :=
  if anyAlways type ∨ (claimed = false ∧ anyWhileUnclaimed type) then .allow none false
  else .refuse (if q.privilege = 0 then stPrivilege else stAuth)

/-- What becomes of a request (R543, R546, R548, R563, R567, R574). -/
def State.verdict (s : State) (type : Nat) (q : Parcel) : Verdict :=
  if s.sec.mgcHeld then (if type = 0x01 ∧ parcelOk type q then .allow none false else .silent)
  else if s.sec.recovery then
    if type = 0x01 ∨ type = 0x60 ∨ type = 0x61 ∨ type = 0x62 then
      (if parcelOk type q = false then .refuse stBadParcel
       else if type = 0x60 ∧ leAt q.payload 0 1 ≠ 0 then .refuse stNotReady else .allow none false)
    else .refuse stNotReady
  else if s.pwr.phase ≠ .ready ∨ s.w.uzo.training then
    (if type ≠ 0x01 then .refuse stNotReady else if parcelOk type q then .allow none false else .refuse stBadParcel)
  else if parcelOk type q = false then .refuse stBadParcel
  else if s.sec.claimed = false ∧ anyWhileUnclaimed type = false then .refuse stPrivilege
  else if parcelTagged q ∧ s.sec.claimed then s.admitTagged type q
  else admitUntagged type s.sec.claimed q

/-- Refusals that the module counts (R546). -/
def World.countRefusal (w : World) (status : Nat) : World :=
  if status = stAuth then w.tick .uzo 0 0x090 else if status = stReplay then w.tick .uzo 0 0x098 else w

/-- The SEQ of an accepted tagged request is the last of its PRIVILEGE and PARTITION. -/
def Part.accept (q : Parcel) (x : Part) : Part :=
  if q.privilege.toNat = 1 then { x with seqOwner := some q.seq.toNat } else { x with seqJob := some q.seq.toNat }

/-- A response without payload. -/
def State.respond (s : State) (o : Origin) (type : Nat) (q : Parcel) (status : Nat) : State :=
  { s with w := s.w.answer s.sid o type q status 0 [] }
/-- A response with payload. -/
def State.respondWith (s : State) (o : Origin) (type : Nat) (q : Parcel) (payload : List Byte) : State :=
  { s with w := s.w.answer s.sid o type q stOk 0 payload }

/-- What handles an admitted request: the partition of its Job privilege, where it came from, the request, the state. -/
abbrev Handler := Option Nat → Origin → Parcel → State → State

/-- One request from the link or a ring: DOORBELL has no response, whatever becomes of it (R548). -/
def State.request (s : State) (type : Nat) (h : Handler) (o : Origin) (q : Parcel) : State :=
  let say := fun (s : State) (st : Nat) => if type = 0x40 then s else s.respond o type q st
  match s.verdict type q with
  | .silent => s
  | .refuse st => say { s with w := s.w.countRefusal st } st
  | .allow job seq =>
    let s := if seq then s.onWorld fun w => w.updPart q.partition.toNat (Part.accept q) else s
    if job.isSome ∧ jobMaySend type = false then say s stPrivilege
    else if usesPartition type ∧ s.w.partCount ≤ q.partition.toNat then say s stRange
    else h job o q s

/-- Whether parcels reach the module: its transmitters are on and the partner has light (R543, R544), and no power-fail sequence runs. -/
def State.linkLive (s : State) : Bool :=
  (decide (s.pwr.phase = .standby) || decide (s.pwr.phase = .ready)) && s.pwr.failSeq.isNone && !s.pwr.resetLow && s.w.uzo.light

/-- A request that arrives on the link. -/
def State.fromLink (s : State) (type : Nat) (h : Handler) (q : Parcel) : State :=
  if s.linkLive then (s.onWorld fun w => w.tick .uzo 0 0x080).request type h none q else s

/-! ### STATUS and CAP_QUERY (R548) -/

/-- STATUS. -/
def doStatus : Handler := fun _ o q s =>
  s.respondWith o 0x01 q (leBytes 1 (fieldOf s.uzoStatus 0 3) ++ leBytes 1 s.powerState
    ++ leBytes 1 ((if s.sec.claimed then 1 else 0) + (if s.sec.recovery then 2 else 0)) ++ [0]
    ++ leBytes 4 s.sec.fwVersion.toNat ++ leBytes 8 s.sec.bootId.toNat)
/-- CAP_QUERY: the partition's capability record (R43). -/
def doCapQuery : Handler := fun _ o q s => s.respondWith o 0x02 q (s.w.part q.partition.toNat).record

/-! ### Loading (R38 to R41, R550, R551) -/

/-- LOAD_BEGIN. -/
def doLoadBegin : Handler := fun _ o q s =>
  let p := q.partition.toNat
  let x := s.w.part p
  if x.job ≠ .empty then { s with w := s.w.answer s.sid o 0x10 q stReject 4 [] }
  else if x.session.any fun y => !y.late then s.respond o 0x10 q stBusy
  else (s.onWorld fun w => w.updPart p fun y => { y with session := some { total := leAt q.payload 0 8 } }).respond o 0x10 q stOk

/-- LOAD_DATA. -/
def doLoadData : Handler := fun _ o q s =>
  let p := q.partition.toNat
  let set := fun (x : Option LoadSession) => s.onWorld fun w => w.updPart p fun y => { y with session := x }
  match (s.w.part p).session with
  | none => s.respond o 0x11 q stState
  | some x =>
    let bs := q.payload.drop 8
    if x.late then s.respond o 0x11 q stBusy
    else if leAt q.payload 0 8 ≠ x.bytes.length ∨ x.total < x.bytes.length + bs.length then (set none).respond o 0x11 q stRange
    else (set (some { x with bytes := x.bytes ++ bs })).respond o 0x11 q stOk

/-- LOAD_END: the checks and the load; its response is the load response parcel (R38, R550). -/
def doLoadEnd : Handler := fun _ o q s =>
  let p := q.partition.toNat
  match (s.w.part p).session with
  | none => s.respond o 0x12 q stState
  | some x =>
    let w := s.w.updPart p fun y => { y with session := none }
    let say := fun (w : World) (status reason offset record : Nat) =>
      { s with w := w.answer s.sid o 0x12 q status reason (leBytes 8 offset ++ leBytes 2 record ++ List.replicate 6 0) }
    if x.late then say w stReject 4 0 0
    else
      match w.loadBundle s.sid p x.bytes with
      | (some r, w) => say w stReject r.1 r.2.1 r.2.2
      | (none, w) => say w stOk 0 0 0

/-- LOAD_TIMEOUT: a load that does not complete in time is abandoned and reports BUSY (R41). -/
def execLoadTimeout (part : PartId) (s : State) : Host.Outcome State Fault Refusal :=
  .next (s.serve fun w =>
    match (w.part part.val).session with
    | none => w
    | some x =>
      if x.late then w
      else (w.updPart part.val fun y => { y with session := some { x with late := true, bytes := [] } }).raiseReject s.sid (4, 0, 0))

/-! ### Job states (R30, R47, R489, R551) -/

/-- UNLOAD. -/
def doUnload : Handler := fun _ o q s =>
  let p := q.partition.toNat
  if (s.w.part p).job = .loaded ∨ (s.w.part p).job = .stopped then
    (s.onWorld fun w => w.unloadPart p).respond o 0x13 q stOk
  else s.respond o 0x13 q stState

/-- START. -/
def doStart : Handler := fun _ o q s =>
  let p := q.partition.toNat
  if (s.w.part p).job = .loaded then (s.startJob p (BitVec.ofNat 64 (leAt q.payload 0 8))).respond o 0x14 q stOk
  else s.respond o 0x14 q stState

/-- STOP: the response names the step last switched, all ones before the first. -/
def doStop : Handler := fun _ o q s =>
  let p := q.partition.toNat
  if (s.w.part p).job ≠ .running then s.respond o 0x15 q stState
  else
    let s := s.onWorld fun w =>
      if leAt q.payload 0 1 = 0 then w.stopNow s.sid p else w.updPart p fun y => { y with stopAtBoundary := true }
    s.respondWith o 0x15 q (leBytes 8 ((s.w.part p).lastSwitched.getD allOnes64))

/-- RESTORE: answered when the restore completes or fails (R550). -/
def doRestore : Handler := fun _ o q s =>
  let src := leAt q.payload 8 1
  if q.partition ≠ 0 ∨ (s.w.part 0).job ≠ .stopped then s.respond o 0x16 q stState
  else if 1 < src then s.respond o 0x16 q stRange
  else if s.w.uzo.restoreWait.isSome ∨ s.w.canSend = false then s.respond o 0x16 q stBusy
  else s.onWorld fun w =>
    (w.updUzo fun u => { u with restoreWait := some (o, q) }).beginRestore s.sid (decide (src = 1)) (leAt q.payload 0 8)

/-! ### Registers (R576) -/

/-- REG_READ. -/
def doRegRead : Handler := fun job o q s => s.regAccess job o false q
/-- REG_WRITE. -/
def doRegWrite : Handler := fun job o q s => s.regAccess job o true q

/-! ### The commands -/

/-- STATUS (R548). -/
def execStatus (p : Parcel) (s : State) : Host.Outcome State Fault Refusal := .next (s.fromLink 0x01 doStatus p)
/-- CAP_QUERY (R548). -/
def execCapQuery (p : Parcel) (s : State) : Host.Outcome State Fault Refusal := .next (s.fromLink 0x02 doCapQuery p)
/-- LOAD_BEGIN (R550, R551). -/
def execLoadBegin (p : Parcel) (s : State) : Host.Outcome State Fault Refusal := .next (s.fromLink 0x10 doLoadBegin p)
/-- LOAD_DATA (R550). -/
def execLoadData (p : Parcel) (s : State) : Host.Outcome State Fault Refusal := .next (s.fromLink 0x11 doLoadData p)
/-- LOAD_END (R38, R550). -/
def execLoadEnd (p : Parcel) (s : State) : Host.Outcome State Fault Refusal := .next (s.fromLink 0x12 doLoadEnd p)
/-- UNLOAD (R551). -/
def execUnload (p : Parcel) (s : State) : Host.Outcome State Fault Refusal := .next (s.fromLink 0x13 doUnload p)
/-- START (R551). -/
def execStart (p : Parcel) (s : State) : Host.Outcome State Fault Refusal := .next (s.fromLink 0x14 doStart p)
/-- STOP (R551). -/
def execStop (p : Parcel) (s : State) : Host.Outcome State Fault Refusal := .next (s.fromLink 0x15 doStop p)
/-- RESTORE (R489, R551). -/
def execRestore (p : Parcel) (s : State) : Host.Outcome State Fault Refusal := .next (s.fromLink 0x16 doRestore p)
/-- REG_READ (R576). -/
def execRegRead (p : Parcel) (s : State) : Host.Outcome State Fault Refusal := .next (s.fromLink 0x20 doRegRead p)
/-- REG_WRITE (R576). -/
def execRegWrite (p : Parcel) (s : State) : Host.Outcome State Fault Refusal := .next (s.fromLink 0x21 doRegWrite p)

end Sys2Proof.Machine
end

