-- ==== Sys2Proof/Machine/Windows.lean ====
section
/-!
DEFINITION. DMA windows (R552, R553) and the set-up of command rings (R554).
-/

namespace Sys2Proof.Machine

/-- DMA windows of a module (R552). -/
def windowCount : Nat := 16

/-- Whether a privilege may use a window: the Owner any, a Job the JOB windows of its own partition (R577). -/
def Window.usable (x : Window) (job : Option Nat) : Bool := job.elim true fun p => x.job && decide (x.part = p)

/-- DMA_OPEN (R552). -/
def doDmaOpen : Handler := fun _ o q s =>
  let i := leAt q.payload 0 1
  let p := q.partition.toNat
  let off := leAt q.payload 8 8
  let len := leAt q.payload 16 8
  if windowCount ≤ i ∨ off % 256 ≠ 0 ∨ len % 256 ≠ 0 ∨ s.w.hbmCapacity p < off + len then s.respond o 0x30 q stRange
  else
    let x : Window :=
      { open_ := true, part := p, read := bitAt (leAt q.payload 1 1) 0, write := bitAt (leAt q.payload 1 1) 1
        job := bitAt (leAt q.payload 2 1) 0, offset := off, length := len }
    (s.onWorld fun w => w.updUzo fun u => { u with windows := AMap.set {} u.windows i x }).respond o 0x30 q stOk

/-- DMA_CLOSE (R552). -/
def doDmaClose : Handler := fun _ o q s =>
  let i := leAt q.payload 0 1
  if windowCount ≤ i ∨ (s.w.window i).open_ = false then s.respond o 0x31 q stRange
  else (s.onWorld fun w => w.updUzo fun u => { u with windows := AMap.set {} u.windows i {} }).respond o 0x31 q stOk

/-- The refusal of an access of `n` bytes at offset `off` of a window (R552). -/
def World.dmaRefusal (w : World) (job : Option Nat) (i off n : Nat) (write : Bool) : Option Nat :=
  let x := w.window i
  if windowCount ≤ i ∨ x.open_ = false then some stRange
  else if x.usable job = false ∨ (if write then x.write else x.read) = false then some stPrivilege
  else if parcelBytes < n ∨ x.length < off + n then some stRange
  else none

/-- DMA_READ (R552). -/
def doDmaRead : Handler := fun job o q s =>
  let i := leAt q.payload 0 1
  let n := leAt q.payload 4 4
  let off := leAt q.payload 8 8
  match s.w.dmaRefusal job i off n false with
  | some st => s.respond o 0x32 q st
  | none =>
    let x := s.w.window i
    let r := s.w.hbmFetch (ioSource 5) x.part (x.offset + off) n
    { s with w := r.2.count (Block.uzo.addr 0 0x0C0) n }.respondWith o 0x32 q r.1

/-- DMA_WRITE (R552, R553). -/
def doDmaWrite : Handler := fun job o q s =>
  let i := leAt q.payload 0 1
  let off := leAt q.payload 8 8
  let bs := q.payload.drop 16
  match s.w.dmaRefusal job i off bs.length true with
  | some st => s.respond o 0x33 q st
  | none =>
    let x := s.w.window i
    let a := x.offset + off
    if s.w.jobRuns x.part ∧ (s.w.currentHit x.part a bs.length).isSome then s.respond o 0x33 q stRaceRefused
    else
      (s.onWorld fun w => (w.hbmWrite s.sid (ioSource 5) w.ownPosition x.part a bs).count (Block.uzo.addr 0 0x0C0) bs.length).respond o
        0x33 q stOk

/-- Whether a ring may have that many slots (R554). -/
def ringSizeOk (n : Nat) : Bool := (List.range 13).any fun k => decide (n = 2 ^ k)

/-- RING_CFG: the ring is empty, its head at 0 (R554). -/
def doRingCfg : Handler := fun _ o q s =>
  let r := leAt q.payload 0 1
  let i := leAt q.payload 1 1
  let n := leAt q.payload 4 4
  let off := leAt q.payload 8 8
  let x := s.w.window i
  if windowCount ≤ i ∨ x.open_ = false then s.respond o 0x34 q stRange
  else if x.read = false ∨ x.write = false then s.respond o 0x34 q stPrivilege
  else if ringSizeOk n = false ∨ x.length < off + n * slotBytes then s.respond o 0x34 q stRange
  else
    let ring : Ring := { configured := true, window := i, entries := n, offset := off }
    (s.onWorld fun w => w.updUzo fun u => { u with rings := AMap.set {} u.rings r ring }).respond o 0x34 q stOk

/-- DMA_OPEN (R552). -/
def execDmaOpen (p : Parcel) (s : State) : Host.Outcome State Fault Refusal := .next (s.fromLink 0x30 doDmaOpen p)
/-- DMA_CLOSE (R552). -/
def execDmaClose (p : Parcel) (s : State) : Host.Outcome State Fault Refusal := .next (s.fromLink 0x31 doDmaClose p)
/-- DMA_READ (R552). -/
def execDmaRead (p : Parcel) (s : State) : Host.Outcome State Fault Refusal := .next (s.fromLink 0x32 doDmaRead p)
/-- DMA_WRITE (R552, R553). -/
def execDmaWrite (p : Parcel) (s : State) : Host.Outcome State Fault Refusal := .next (s.fromLink 0x33 doDmaWrite p)
/-- RING_CFG (R554). -/
def execRingCfg (p : Parcel) (s : State) : Host.Outcome State Fault Refusal := .next (s.fromLink 0x34 doRingCfg p)

end Sys2Proof.Machine
end

