-- ==== Sys2Proof/Machine/Security.lean ====
section
/-!
DEFINITION. The security die: the recipe store's sessions (R556 to R559), attestation and the signer (R568 to R573), claim and floor (R564,
R574), keys (R530, R547) and the management controller's watchdog (R567).
-/

namespace Sys2Proof.Machine

/-! ### The recipe store (R556 to R559) -/

/-- Rewrites the manifest with flags of its own, the rest as it stands. -/
def Sec.setManifestFlags (x : Sec) (f : Nat → Nat) : Sec :=
  let m := x.manifest
  x.writeManifest (f (leAt m 6 2)) (leAt m 0x10 4) (leAt m 0x14 4) (leAt m 0x18 8) (slice m 0x20 32) (slice m 0x40 32) (slice m 0x60 32)

/-- A FLAGS value with a bit cleared or set. -/
def clearBit (n v : Nat) : Nat := if bitAt v n then v - 2 ^ n else v
def setBit (n v : Nat) : Nat := if bitAt v n then v else v + 2 ^ n

/-- The manifest after a region is written whole: its length and digest, and its flag (R559). -/
def Sec.commitRegion (x : Sec) (region n : Nat) (digest : List Byte) : Sec :=
  let m := x.manifest
  let f := leAt m 6 2
  x.writeManifest (if region = 0 then setBit 0 f else if region = 2 then setBit 1 f else f)
    (if region = 0 then n else leAt m 0x10 4) (if region = 1 then n else leAt m 0x14 4) (if region = 2 then n else leAt m 0x18 8)
    (if region = 0 then digest else slice m 0x20 32) (if region = 1 then digest else slice m 0x40 32)
    (if region = 2 then digest else slice m 0x60 32)

/-- Opens or ends the RS session. -/
def State.setRs (s : State) (r : Option RsSession) : State := s.onWorld fun w => w.updUzo fun u => { u with rs := r }

/-- RS_BEGIN (R550, R559). -/
def doRsBegin : Handler := fun _ o q s =>
  let r := leAt q.payload 0 1
  let n := leAt q.payload 8 8
  if s.w.uzo.rs.isSome then s.respond o 0x60 q stBusy
  else if 3 < r then s.respond o 0x60 q stRange
  else if r = 3 then
    (if n ≠ 0 then s.respond o 0x60 q stRange
     else { s with sec := s.sec.setManifestFlags (clearBit 1) }.respond o 0x60 q stOk)
  else if regionSize r < n then s.respond o 0x60 q stRange
  else
    let s := if r = 0 then { s with sec := s.sec.setManifestFlags (clearBit 0) } else s
    (s.setRs (some { region := r, length := n })).respond o 0x60 q stOk

/-- RS_DATA (R550, R556, R559): `sparesOut` says that the write needs more replacement blocks than remain. -/
def doRsData (sparesOut : Bool) : Handler := fun _ o q s =>
  match s.w.uzo.rs with
  | none => s.respond o 0x61 q stState
  | some x =>
    let bs := q.payload.drop 8
    if leAt q.payload 0 8 ≠ x.received ∨ x.length < x.received + bs.length then (s.setRs none).respond o 0x61 q stRange
    else if sparesOut then { s with sec := { s.sec with sparesOut := true } }.respond o 0x61 q stRange
    else
      let s := { s with sec := { s.sec with flash := s.sec.flash.write (regionBase x.region + x.received) bs } }
      (s.setRs (some { x with received := x.received + bs.length })).respond o 0x61 q stOk

/-- RS_END (R559); in RECOVERY a good image restarts the boot (R563). -/
def doRsEnd (boot : BootIn) : Handler := fun _ o q s =>
  match s.w.uzo.rs with
  | none => s.respond o 0x62 q stState
  | some x =>
    let bs := s.sec.flash.read (regionBase x.region) x.length
    let d := shake256 bs
    let s := s.setRs none
    match if x.region = 0 then imageCause d s.sec.rollbackFloor.body bs x.length else none with
    | some cause => { s with w := s.w.answer s.sid o 0x62 q stVerify cause [] }
    | none =>
      let s := { s with sec := s.sec.commitRegion x.region x.length d }.respond o 0x62 q stOk
      if s.sec.recovery then s.boot boot else s

/-! ### Attestation and the signer (R568 to R573) -/

/-- Leaf indexes in all, and those of one reservation (R568, R570). -/
def leafCount : Nat := 2 ^ 40
def leafBlock : Nat := 1024
/-- The time from boot step 1 before which no reservation commits (R571). -/
def signerWait : Nat := 10000000000
/-- Requests that the signer's queue holds (R572). -/
def signerQueue : Nat := 64

/-- Whether every leaf index has been used. -/
def Sec.exhausted (x : Sec) : Bool := decide (x.nextIndex = x.reservedEnd) && decide (leafCount ≤ x.reservedEnd)

/-- The signed part of an attestation report (R573). -/
def State.reportBody (s : State) (p : Nat) (nonce : List Byte) : List Byte :=
  let x := s.w.part p
  let r := x.record
  leBytes 4 0x5454414D ++ leBytes 2 1 ++ leBytes 1 p
    ++ leBytes 1 ((if s.sec.claimed then 1 else 0) + (if x.bundle.isSome then 2 else 0) + (if x.job = .running then 4 else 0))
    ++ slice r 8 2 ++ slice r 10 2 ++ leBytes 4 s.sec.fwVersion.toNat ++ leBytes 8 s.sid.now ++ leBytes 8 s.sec.bootId.toNat
    ++ slice nonce 0 32 ++ slice s.sec.fwMeasure 0 32 ++ slice s.sec.recipeMeasure 0 32
    ++ x.bundle.elim (List.replicate 32 0) (fun b => shake256 b.bytes) ++ slice r 1040 32
    ++ slice Config.identityPublicKey 0 64
    ++ (if s.sec.claimed then shake256 s.sec.ownerKey else List.replicate 32 0) ++ List.replicate 32 0

/-- ATTEST: the report waits for the signer (R571 to R573). -/
def doAttest : Handler := fun _ o q s =>
  if s.sec.timer < signerWait then s.respond o 0x03 q stNotReady
  else if s.sec.exhausted then s.respond o 0x03 q stExhausted
  else if signerQueue ≤ s.sec.signQueue.length then s.respond o 0x03 q stBusy
  else
    { s with sec := { s.sec with
        signQueue := s.sec.signQueue ++ [.attest (s.reportBody q.partition.toNat q.payload) o q] } }

/-- A refused signature (R570, R572): an ATTEST is answered EXHAUSTED when no index remains; a cask's manifest stays unsigned. -/
def State.refuseSign (s : State) (r : SignReq) : State :=
  let s := s.onWorld fun w => w.tick .sec 0 0x088
  match r with
  | .attest _ o q => if s.sec.exhausted then s.respond o 0x03 q stExhausted else s
  | .manifest _ _ => s

/-- The next block of leaf indexes is reserved: the record is written, then XMSS_RESERVE is raised (R570). -/
def State.reserveLeaves (s : State) : State :=
  let n := s.sec.reservedEnd + leafBlock
  { s with
    sec := { s.sec with xmss := s.sec.xmss.write (leBytes 8 n) }
    w := (s.w.tick .sec 0 0x090).raise s.sid secSource 0x162 (n / 2 ^ 10) }

/-- Signs a request with the next leaf index (R570). -/
def State.sign (s : State) (r : SignReq) : State :=
  let i := s.sec.nextIndex
  let s := { s with
    sec := { s.sec with nextIndex := i + 1, credits := s.sec.credits - 1 }
    w := s.w.tick .sec 0 0x080 }
  match r with
  | .attest report o q => s.respondWith o 0x03 q (report ++ Config.identitySign i report)
  | .manifest bytes n => s.onWorld fun w =>
      if w.cask.inProgress = some n then
        w.updCask fun c => { c with manifest := bytes ++ Config.identitySign i bytes ++ leBytes 8 n, signing := false }
      else w

/-- SIGNATURE_REQUEST: the signer takes the request at the front of its queue, against a credit (R570 to R572). -/
def execSignatureRequest (s : State) : Host.Outcome State Fault Refusal :=
  if s.powered = false ∨ s.sec.timer < signerWait ∨ s.sec.credits = 0 then .next s
  else
    match s.sec.signQueue with
    | [] => .next s
    | r :: rest =>
      let s := { s with sec := { s.sec with signQueue := rest } }
      .next (if s.sec.nextIndex = s.sec.reservedEnd then
        (if leafCount ≤ s.sec.reservedEnd ∨ s.pwr.failSeq.isSome then s.refuseSign r else s.reserveLeaves.sign r)
      else s.sign r)

/-! ### Keys, claim and floor (R530, R547, R564, R574) -/

/-- KEY: installs a key, in place of the one that its port, direction and number have (R530). -/
def doKey : Handler := fun _ o q s =>
  let b := q.payload
  let port := leAt b 0 1
  let dir := leAt b 1 1
  let an := leAt b 2 1
  if 3 < port ∨ 1 < dir ∨ 3 < an then s.respond o 0x70 q stRange
  else
    let k : MacKey :=
      { port := port, receive := decide (dir = 1), an := an, sci := slice b 8 8, ssci := slice b 16 4, salt := slice b 20 12, sak := slice b 32 32 }
    (s.onWorld fun w => { w with eth := { w.eth with keys :=
      (w.eth.keys.filter fun x => !(decide (x.port = k.port) && decide (x.receive = k.receive) && decide (x.an = k.an))) ++ [k] } }).respond o
        0x70 q stOk

/-- JOB_KEY (R547). -/
def doJobKey : Handler := fun _ o q s =>
  (s.onWorld fun w => w.updPart q.partition.toNat fun x => { x with jobKey := some (slice q.payload 0 32) }).respond o 0x71 q stOk

/-- CLAIM (R574). -/
def doClaim : Handler := fun _ o q s =>
  if s.sec.claimed then s.respond o 0x72 q stPrivilege
  else
    { s with sec := { s.sec with owner := s.sec.owner.write (1 :: List.replicate 7 0 ++ slice q.payload 0 32) } }.respond o 0x72 q stOk

/-- RELEASE: the record is cleared and every job stops (R574). -/
def doRelease : Handler := fun _ o q s =>
  let s := { s with
    sec := { s.sec with owner := s.sec.owner.write (List.replicate 40 0) }
    w := (List.range 4).foldl (fun w p => if w.jobRuns p then w.stopNow s.sid p else w) s.w }
  s.respond o 0x73 q stOk

/-- FLOOR: the rollback floor only rises, and not above the running image's major version (R564). -/
def doFloor : Handler := fun _ o q s =>
  let n := leAt q.payload 0 1
  if bitsAt s.sec.fwVersion.toNat 24 8 < n ∨ n < s.sec.floor then s.respond o 0x74 q stRange
  else { s with sec := { s.sec with rollbackFloor := s.sec.rollbackFloor.write [BitVec.ofNat 8 n] } }.respond o 0x74 q stOk

/-! ### The watchdog (R567, R584) -/

/-- KICK: restarts the watchdog period. -/
def execKick (s : State) : Host.Outcome State Fault Refusal :=
  .next (if s.sec.mgcRunning ∧ s.sec.mgcHeld = false then { s with sec := { s.sec with lastKick := s.sec.timer } } else s)

/-- TIMEOUT_MS in ns; values below 100 act as 100 (R584). -/
def World.wdtSpan (w : World) : Nat := max 100 (w.regField (Block.mgc.addr 0 0x000) 0 16) * 1000000

/-- Whether a request of the signer is an attestation. -/
def isAttest : SignReq → Bool
  | .attest _ _ _ => true
  | .manifest _ _ => false

/-- MGC_WATCHDOG_EXPIRY: a KICK was missed: the MGC restarts and the requests in progress are lost; the third expiry within 600 s holds it
in reset (R567). -/
def execMgcWatchdogExpiry (s : State) : Host.Outcome State Fault Refusal :=
  if s.powered = false ∨ s.sec.mgcRunning = false ∨ s.sec.mgcHeld ∨ s.sec.timer < s.sec.lastKick + s.w.wdtSpan then .next s
  else
    let sec := { s.sec with expiries := (s.sec.expiries.filter fun a => decide (s.sec.timer < a + expirySpan)) ++ [s.sec.timer] }
    let held := decide (3 ≤ sec.recentExpiries)
    let w := s.w.updUzo fun u => { u with regWaits := [], restoreWait := none }
    let w := (w.tick .mgc 0 0x080).raise s.sid (ioSource 7) 0x161 (sec.recentExpiries % 2 ^ 8)
    .next { s with
      sec := { sec with mgcHeld := held, lastKick := s.sec.timer, signQueue := sec.signQueue.filter fun r => !isAttest r }
      w := if held then w.setAlert 8 else w }

/-! ### The commands -/

/-- RS_BEGIN (R559). -/
def execRsBegin (p : Parcel) (s : State) : Host.Outcome State Fault Refusal := .next (s.fromLink 0x60 doRsBegin p)
/-- RS_DATA (R556, R559). -/
def execRsData (p : Parcel) (sparesOut : Bool) (s : State) : Host.Outcome State Fault Refusal :=
  .next (s.fromLink 0x61 (doRsData sparesOut) p)
/-- RS_END (R559, R563). -/
def execRsEnd (p : Parcel) (boot : BootIn) (s : State) : Host.Outcome State Fault Refusal := .next (s.fromLink 0x62 (doRsEnd boot) p)
/-- ATTEST (R573). -/
def execAttest (p : Parcel) (s : State) : Host.Outcome State Fault Refusal := .next (s.fromLink 0x03 doAttest p)
/-- KEY (R530). -/
def execKey (p : Parcel) (s : State) : Host.Outcome State Fault Refusal := .next (s.fromLink 0x70 doKey p)
/-- JOB_KEY (R547). -/
def execJobKey (p : Parcel) (s : State) : Host.Outcome State Fault Refusal := .next (s.fromLink 0x71 doJobKey p)
/-- CLAIM (R574). -/
def execClaim (p : Parcel) (s : State) : Host.Outcome State Fault Refusal := .next (s.fromLink 0x72 doClaim p)
/-- RELEASE (R574). -/
def execRelease (p : Parcel) (s : State) : Host.Outcome State Fault Refusal := .next (s.fromLink 0x73 doRelease p)
/-- FLOOR (R564). -/
def execFloor (p : Parcel) (s : State) : Host.Outcome State Fault Refusal := .next (s.fromLink 0x74 doFloor p)

end Sys2Proof.Machine
end

