-- ==== Sys2Proof/Machine/Uzolo.lean ====
section
/-!
DEFINITION. The Uzolo link (R542, R543), parcels of unknown TYPE (R548), command rings (R554) and the forwarding of events (R555).
-/

namespace Sys2Proof.Machine

/-! ### Any request by its TYPE -/

/-- A DOORBELL that stands in a ring's slot is not one of the requests that a ring carries. -/
def doSlotBell : Handler := fun _ o q s => s.respond o 0x40 q stBadParcel

/-- What handles a TYPE that arrives in a ring. -/
def handlerOf (type : Nat) : Handler :=
  match type with
  | 0x01 => doStatus
  | 0x02 => doCapQuery
  | 0x03 => doAttest
  | 0x10 => doLoadBegin
  | 0x11 => doLoadData
  | 0x12 => doLoadEnd
  | 0x13 => doUnload
  | 0x14 => doStart
  | 0x15 => doStop
  | 0x16 => doRestore
  | 0x20 => doRegRead
  | 0x21 => doRegWrite
  | 0x30 => doDmaOpen
  | 0x31 => doDmaClose
  | 0x32 => doDmaRead
  | 0x33 => doDmaWrite
  | 0x34 => doRingCfg
  | 0x60 => doRsBegin
  | 0x61 => doRsData false
  | 0x62 => doRsEnd { hbmFail := [], cellarGib := [], cellarFail := [], refclk := true, ports := [], ethUp := 0, lanes := 0, bootMs := 0 }
  | 0x70 => doKey
  | 0x71 => doJobKey
  | 0x72 => doClaim
  | 0x73 => doRelease
  | 0x74 => doFloor
  | _ => doSlotBell

/-! ### Rings (R554) -/

/-- The parcel whose bytes stand at an address of a partition's HBM, its TYPE, and whether its MAGIC and LENGTH are good. -/
def World.slotParcel (w : World) (p a : Nat) : (Nat × Parcel × Bool) × World :=
  let h := w.hbmFetch (ioSource 5) p a 32
  let n := leAt h.1 8 4
  let good := decide (leAt h.1 0 4 = 0x4C435A55) && decide (n ≤ parcelBytes)
  let tail := if bitAt (leAt h.1 6 1) 1 then 32 else 0
  let b := h.2.hbmFetch (ioSource 5) p (a + 32) (if good then n + tail else 0)
  let f := fun (o k : Nat) => leAt h.1 o k
  ((f 4 2,
    { flags := BitVec.ofNat 8 (f 6 1), privilege := BitVec.ofNat 8 (f 7 1), tag := BitVec.ofNat 32 (f 0x0C 4)
      partition := BitVec.ofNat 8 (f 0x10 1), status := BitVec.ofNat 8 (f 0x11 1), detail := BitVec.ofNat 16 (f 0x12 2)
      seq := BitVec.ofNat 64 (f 0x14 8), reserved := BitVec.ofNat 32 (f 0x1C 4)
      payload := b.1.take n, kmac := b.1.drop n }, good), b.2)

/-- Handles one slot of a ring. -/
def State.ringSlot (r : Nat) (s : State) (slot : Nat) : State :=
  let ring := s.w.ring r
  let win := s.w.window ring.window
  if ring.configured = false ∨ win.open_ = false then s
  else
    match s.w.slotParcel win.part (win.offset + ring.offset + slot * slotBytes) with
    | ((type, q, good), w) =>
      let s := { s with w := w }
      if good = false ∨ type = 0x40 then s.respond (some (r, slot)) type q stBadParcel
      else s.request type (handlerOf type) (some (r, slot)) q

/-- DOORBELL, module-ward: the slots from the head up to the new tail are handled in order, and a node-ward DOORBELL tells the new head
(R554). -/
def doDoorbell : Handler := fun job _ q s =>
  let r := leAt q.payload 0 1
  let tail := leAt q.payload 4 4
  let ring := s.w.ring r
  let win := s.w.window ring.window
  let n := (tail + 2 ^ 32 - ring.head) % 2 ^ 32
  if ring.configured = false ∨ win.open_ = false ∨ win.usable job = false ∨ ring.entries < n then s.onWorld fun w => w.tick .uzo 0 0x0B8
  else
    let s := (List.range n).foldl (fun s k => s.ringSlot r ((ring.head + k) % ring.entries)) s
    s.onWorld fun w =>
      (w.updUzo fun u => { u with rings := AMap.upd {} u.rings r fun x => if x.configured then { x with head := tail } else x }).sendParcel
        (.parcel 0x40 0 0 q.partition 0 0 (leBytes 4 r ++ leBytes 4 tail))

/-- DOORBELL (R554). -/
def execDoorbell (p : Parcel) (s : State) : Host.Outcome State Fault Refusal := .next (s.fromLink 0x40 doDoorbell p)

/-- UNKNOWN_TYPE_PARCEL: a TYPE that names no request is answered BAD_PARCEL (R548); one that does is handled as that request. -/
def execUnknownTypeParcel (type : BitVec 16) (p : Parcel) (s : State) : Host.Outcome State Fault Refusal :=
  .next (s.fromLink type.toNat (if type.toNat = 0x40 then doDoorbell else handlerOf type.toNat) p)

/-! ### Events (R444, R555) -/

/-- The key that orders event records: stamp, module key and source number (R444). -/
def eventKey (r : List Byte) : Nat := leAt r 0 8 * 2 ^ 32 + leAt r 8 2 * 2 ^ 16 + leAt r 10 2

/-- Event records of one EVENTS parcel. -/
def eventsPerParcel : Nat := 256

/-- EVENTS_HEARTBEAT: an EVENTS parcel with the first of the queued records; when room returns after a loss, EVENTS_LOST is queued first
(R555). -/
def execEventsHeartbeat (s : State) : Host.Outcome State Fault Refusal :=
  if s.inService = false ∨ s.linkLive = false ∨ s.w.uzo.training ∨ s.sec.mgcHeld ∨ s.sec.mgcRunning = false then .next s
  else
    let rs := s.w.uzo.events.insertionSort fun a b => eventKey a ≤ eventKey b
    let now := rs.take eventsPerParcel
    let lost := s.w.uzo.lost
    let w := s.w.updUzo fun u => { u with events := rs.drop eventsPerParcel }
    let w := (w.count (Block.uzo.addr 0 0x0A0) now.length).sendParcel (.parcel 0x50 0 0 0 0 0 now.flatten)
    .next { s with w := if lost ≠ 0 ∧ w.uzo.events.length < 4096 then
      (w.updUzo fun u => { u with lost := 0 }).raise s.sid (ioSource 5) 0x163 (lost % 2 ^ 32) else w }

/-! ### The link (R542, R543) -/

/-- UZO_PARTNER_LIGHT_CHANGE: without light the port is down; light starts training, which ends with the lanes given. -/
def execUzoPartnerLightChange (light : Bool) (lanes : Nat) (s : State) : Host.Outcome State Fault Refusal :=
  .next (s.onWorld fun w => w.updUzo fun u =>
    { u with light := light, lanes := if light then min lanes 2 else 0, training := !light || decide (lanes = 0) })

/-- Frames that the Uzolo link sends again at a retrain, at most 1,024 (R542): how many are not acknowledged then is a free value. -/
def World.uzoResent (w : World) : Nat := min 1024 (Config.uzoUnacked (AMap.get 0 w.counters (Block.uzo.addr 0 0x0B0)).toNat).toNat

/-- UZO_RETRAIN: after 16 failures in a row of one frame, 15 of them of a frame sent again, the link retrains, and the frames of the replay
buffer that are not acknowledged are sent again in order (R542): each is counted, and no parcel is lost or duplicated. -/
def execUzoRetrain (s : State) : Host.Outcome State Fault Refusal :=
  .next (if s.linkLive then s.onWorld fun w => w.count (Block.uzo.addr 0 0x0B0) (15 + w.uzoResent) else s)

end Sys2Proof.Machine
end

