-- ==== Sys2Proof/Machine/Dispatch.lean ====
section
/-!
DEFINITION. One arm per command: the direct call of its meaning.
-/

namespace Sys2Proof.Machine

/-- A command's effect on everything but the queue of waiting commands. -/
def exec (i : Instr) (s : State) : Host.Outcome State Fault Refusal :=
  match i with
  | .powerOnQualify vin10mv geo boot => Sys2Proof.Machine.execPowerOnQualify vin10mv geo boot s
  | .inputBelow30V => Sys2Proof.Machine.execInputBelow30V s
  | .inputPowerFail vin10mv => Sys2Proof.Machine.execInputPowerFail vin10mv s
  | .holdupEnd => Sys2Proof.Machine.execHoldupEnd s
  | .inputLow vin10mv => Sys2Proof.Machine.execInputLow vin10mv s
  | .inputRange vin10mv => Sys2Proof.Machine.execInputRange vin10mv s
  | .pwrEnRise boot => Sys2Proof.Machine.execPwrEnRise boot s
  | .pwrEnFall => Sys2Proof.Machine.execPwrEnFall s
  | .modResetLAssert => Sys2Proof.Machine.execModResetLAssert s
  | .modResetLRelease geo boot => Sys2Proof.Machine.execModResetLRelease geo boot s
  | .droopDetected island => Sys2Proof.Machine.execDroopDetected island s
  | .droopRecovered island => Sys2Proof.Machine.execDroopRecovered island s
  | .clockStop cluster => Sys2Proof.Machine.execClockStop cluster s
  | .clockRestart cluster => Sys2Proof.Machine.execClockRestart cluster s
  | .powerSample watts => Sys2Proof.Machine.execPowerSample watts s
  | .capWindowEnd m => Sys2Proof.Machine.execCapWindowEnd m s
  | .thermalWarn sensor temp => Sys2Proof.Machine.execThermalWarn sensor temp s
  | .thermalTrip sensor temp => Sys2Proof.Machine.execThermalTrip sensor temp s
  | .pwrCapWrite value => Sys2Proof.Machine.execPwrCapWrite value s
  | .smbusBlockRead code => Sys2Proof.Machine.execSmbusBlockRead code s
  | .smbusBlockWrite code value => Sys2Proof.Machine.execSmbusBlockWrite code value s
  | .registerWrite offset value => Sys2Proof.Machine.execRegisterWrite offset value s
  | .loadBegin p => Sys2Proof.Machine.execLoadBegin p s
  | .loadData p => Sys2Proof.Machine.execLoadData p s
  | .loadEnd p => Sys2Proof.Machine.execLoadEnd p s
  | .loadTimeout part => Sys2Proof.Machine.execLoadTimeout part s
  | .unload p => Sys2Proof.Machine.execUnload p s
  | .start p => Sys2Proof.Machine.execStart p s
  | .stop p => Sys2Proof.Machine.execStop p s
  | .restore p => Sys2Proof.Machine.execRestore p s
  | .status p => Sys2Proof.Machine.execStatus p s
  | .capQuery p => Sys2Proof.Machine.execCapQuery p s
  | .attest p => Sys2Proof.Machine.execAttest p s
  | .regRead p => Sys2Proof.Machine.execRegRead p s
  | .regWrite p => Sys2Proof.Machine.execRegWrite p s
  | .dmaOpen p => Sys2Proof.Machine.execDmaOpen p s
  | .dmaClose p => Sys2Proof.Machine.execDmaClose p s
  | .dmaRead p => Sys2Proof.Machine.execDmaRead p s
  | .dmaWrite p => Sys2Proof.Machine.execDmaWrite p s
  | .ringCfg p => Sys2Proof.Machine.execRingCfg p s
  | .doorbell p => Sys2Proof.Machine.execDoorbell p s
  | .eventsHeartbeat => Sys2Proof.Machine.execEventsHeartbeat s
  | .rsBegin p => Sys2Proof.Machine.execRsBegin p s
  | .rsData p sparesOut => Sys2Proof.Machine.execRsData p sparesOut s
  | .rsEnd p boot => Sys2Proof.Machine.execRsEnd p boot s
  | .key p => Sys2Proof.Machine.execKey p s
  | .jobKey p => Sys2Proof.Machine.execJobKey p s
  | .claim p => Sys2Proof.Machine.execClaim p s
  | .release p => Sys2Proof.Machine.execRelease p s
  | .floor p => Sys2Proof.Machine.execFloor p s
  | .uzoRetrain => Sys2Proof.Machine.execUzoRetrain s
  | .mgcWatchdogExpiry => Sys2Proof.Machine.execMgcWatchdogExpiry s
  | .kick => Sys2Proof.Machine.execKick s
  | .signatureRequest => Sys2Proof.Machine.execSignatureRequest s
  | .nop core => Sys2Proof.Machine.execNop core s
  | .issue core engine desc loopBind doneWatch => Sys2Proof.Machine.execIssue core engine desc loopBind doneWatch s
  | .loop core counter count endPc fromWork word => Sys2Proof.Machine.execLoop core counter count endPc fromWork word s
  | .branch core cond sense target => Sys2Proof.Machine.execBranch core cond sense target s
  | .setcc core mask value => Sys2Proof.Machine.execSetcc core mask value s
  | .getWork core serviceMask => Sys2Proof.Machine.execGetWork core serviceMask s
  | .complete core useWord word => Sys2Proof.Machine.execComplete core useWord word s
  | .wait core watch cmp fromWork word target => Sys2Proof.Machine.execWait core watch cmp fromWork word target s
  | .signal core remote toCore watch increment position => Sys2Proof.Machine.execSignal core remote toCore watch increment position s
  | .fence core => Sys2Proof.Machine.execFence core s
  | .barrier core domain wait cluster index => Sys2Proof.Machine.execBarrier core domain wait cluster index s
  | .raise core code payload => Sys2Proof.Machine.execRaise core code payload s
  | .end_ core => Sys2Proof.Machine.execEnd_ core s
  | .endDrained core => Sys2Proof.Machine.execEndDrained core s
  | .seqStop core => Sys2Proof.Machine.execSeqStop core s
  | .seqSingle core => Sys2Proof.Machine.execSeqSingle core s
  | .runStart part eval => Sys2Proof.Machine.execRunStart part eval s
  | .itemAdmit flow => Sys2Proof.Machine.execItemAdmit flow s
  | .workDispatch r => Sys2Proof.Machine.execWorkDispatch r s
  | .itemComplete flow seq => Sys2Proof.Machine.execItemComplete flow seq s
  | .collectRecord core => Sys2Proof.Machine.execCollectRecord core s
  | .watchWake core => Sys2Proof.Machine.execWatchWake core s
  | .operationDone core engine => Sys2Proof.Machine.execOperationDone core engine s
  | .fenceComplete core => Sys2Proof.Machine.execFenceComplete core s
  | .deadlock part => Sys2Proof.Machine.execDeadlock part s
  | .mxeKStep core => Sys2Proof.Machine.execMxeKStep core s
  | .mxeTileWriteback core => Sys2Proof.Machine.execMxeTileWriteback core s
  | .zeroPredictVerify core stream => Sys2Proof.Machine.execZeroPredictVerify core stream s
  | .vxeChain core => Sys2Proof.Machine.execVxeChain core s
  | .vxeSegmented core => Sys2Proof.Machine.execVxeSegmented core s
  | .vxeMatmulF32 core => Sys2Proof.Machine.execVxeMatmulF32 core s
  | .vxeMatmulF64 core => Sys2Proof.Machine.execVxeMatmulF64 core s
  | .vxeTranspose core => Sys2Proof.Machine.execVxeTranspose core s
  | .vxeGather core => Sys2Proof.Machine.execVxeGather core s
  | .vxeScatter core => Sys2Proof.Machine.execVxeScatter core s
  | .vxeGrouped core => Sys2Proof.Machine.execVxeGrouped core s
  | .axeLoad core stream => Sys2Proof.Machine.execAxeLoad core stream s
  | .axeStore core stream => Sys2Proof.Machine.execAxeStore core stream s
  | .axeCopy core stream => Sys2Proof.Machine.execAxeCopy core stream s
  | .axeRelay core stream => Sys2Proof.Machine.execAxeRelay core stream s
  | .sortUnique cluster => Sys2Proof.Machine.execSortUnique cluster s
  | .gsuGather cluster => Sys2Proof.Machine.execGsuGather cluster s
  | .gsuScatter cluster => Sys2Proof.Machine.execGsuScatter cluster s
  | .gsuMigrate cluster => Sys2Proof.Machine.execGsuMigrate cluster s
  | .gsuReadout cluster => Sys2Proof.Machine.execGsuReadout cluster s
  | .addW64 c => Sys2Proof.Machine.execAddW64 c s
  | .addW128 c => Sys2Proof.Machine.execAddW128 c s
  | .addI64 c => Sys2Proof.Machine.execAddI64 c s
  | .addF32 c => Sys2Proof.Machine.execAddF32 c s
  | .nmrReadout c => Sys2Proof.Machine.execNmrReadout c s
  | .catchupCopy part table => Sys2Proof.Machine.execCatchupCopy part table s
  | .hbmGrainAccess channel a => Sys2Proof.Machine.execHbmGrainAccess channel a s
  | .parityRetry channel a attempt => Sys2Proof.Machine.execParityRetry channel a attempt s
  | .scrubGrain channel grain corrected uncorrectable => Sys2Proof.Machine.execScrubGrain channel grain corrected uncorrectable s
  | .hbcMapoutClear stack clear => Sys2Proof.Machine.execHbcMapoutClear stack clear s
  | .cellarBurst b => Sys2Proof.Machine.execCellarBurst b s
  | .samplerBlock cluster => Sys2Proof.Machine.execSamplerBlock cluster s
  | .smpHopDraw cluster => Sys2Proof.Machine.execSmpHopDraw cluster s
  | .sampleReq p => Sys2Proof.Machine.execSampleReq p s
  | .sampleReply p => Sys2Proof.Machine.execSampleReply p s
  | .gradReady frame tensor step offset first count => Sys2Proof.Machine.execGradReady frame tensor step offset first count s
  | .kilnRead frame offset => Sys2Proof.Machine.execKilnRead frame offset s
  | .kilnReadData frame offset data => Sys2Proof.Machine.execKilnReadData frame offset data s
  | .rowGrad frame tensor step row values => Sys2Proof.Machine.execRowGrad frame tensor step row values s
  | .rowsEnd frame tensor step touched => Sys2Proof.Machine.execRowsEnd frame tensor step touched s
  | .emit frame tensor offset data => Sys2Proof.Machine.execEmit frame tensor offset data s
  | .kilnAck frame what => Sys2Proof.Machine.execKilnAck frame what s
  | .stateOut frame tensor row position frozen record => Sys2Proof.Machine.execStateOut frame tensor row position frozen record s
  | .stateIn frame tensor row frozen record => Sys2Proof.Machine.execStateIn frame tensor row frozen record s
  | .stepClose frame step => Sys2Proof.Machine.execStepClose frame step s
  | .stepDone frame step => Sys2Proof.Machine.execStepDone frame step s
  | .kilnEntryUpdate part => Sys2Proof.Machine.execKilnEntryUpdate part s
  | .kilnLinkRetrain ok => Sys2Proof.Machine.execKilnLinkRetrain ok s
  | .freezeEntry part rule entry effectiveStep => Sys2Proof.Machine.execFreezeEntry part rule entry effectiveStep s
  | .thawEntry part rule entry effectiveStep => Sys2Proof.Machine.execThawEntry part rule entry effectiveStep s
  | .freezeRows part rule entry effectiveStep => Sys2Proof.Machine.execFreezeRows part rule entry effectiveStep s
  | .thawRows part rule entry effectiveStep => Sys2Proof.Machine.execThawRows part rule entry effectiveStep s
  | .stepBarrierEnter part => Sys2Proof.Machine.execStepBarrierEnter part s
  | .evalOverrun => Sys2Proof.Machine.execEvalOverrun s
  | .tapEmit => Sys2Proof.Machine.execTapEmit s
  | .feedDatagram d => Sys2Proof.Machine.execFeedDatagram d s
  | .feedRecordIntake p => Sys2Proof.Machine.execFeedRecordIntake p s
  | .batchClose batch => Sys2Proof.Machine.execBatchClose batch s
  | .closeMarker p => Sys2Proof.Machine.execCloseMarker p s
  | .readReq p => Sys2Proof.Machine.execReadReq p s
  | .readData p => Sys2Proof.Machine.execReadData p s
  | .write p => Sys2Proof.Machine.execWrite p s
  | .writeAck p => Sys2Proof.Machine.execWriteAck p s
  | .nmrAck p => Sys2Proof.Machine.execNmrAck p s
  | .fabSignal p => Sys2Proof.Machine.execFabSignal p s
  | .signalAck p => Sys2Proof.Machine.execSignalAck p s
  | .migrate p => Sys2Proof.Machine.execMigrate p s
  | .kilnState p => Sys2Proof.Machine.execKilnState p s
  | .reduceStart tensor => Sys2Proof.Machine.execReduceStart tensor s
  | .reduceData p => Sys2Proof.Machine.execReduceData p s
  | .treeUp m => Sys2Proof.Machine.execTreeUp m s
  | .treeDown m => Sys2Proof.Machine.execTreeDown m s
  | .cask p => Sys2Proof.Machine.execCask p s
  | .groupNotice reporter slot powerFail => Sys2Proof.Machine.execGroupNotice reporter slot powerFail s
  | .badPacket kind p => Sys2Proof.Machine.execBadPacket kind p s
  | .packetHop input kind p => Sys2Proof.Machine.execPacketHop input kind p s
  | .portRetrain port partner x acked => Sys2Proof.Machine.execPortRetrain port partner x acked s
  | .partnerIdle port => Sys2Proof.Machine.execPartnerIdle port s
  | .queueFigureExchange slot x => Sys2Proof.Machine.execQueueFigureExchange slot x s
  | .drainGo => Sys2Proof.Machine.execDrainGo s
  | .drainReq staged => Sys2Proof.Machine.execDrainReq staged s
  | .drainCountRound reports => Sys2Proof.Machine.execDrainCountRound reports s
  | .install table => Sys2Proof.Machine.execInstall table s
  | .resume us => Sys2Proof.Machine.execResume us s
  | .drainTimeout missing => Sys2Proof.Machine.execDrainTimeout missing s
  | .domainBarrierTimeout barrier => Sys2Proof.Machine.execDomainBarrierTimeout barrier s
  | .timeMarkSend => Sys2Proof.Machine.execTimeMarkSend s
  | .timeMark port value => Sys2Proof.Machine.execTimeMark port value s
  | .slewTick => Sys2Proof.Machine.execSlewTick s
  | .timeHoldover => Sys2Proof.Machine.execTimeHoldover s
  | .ptpMessage o => Sys2Proof.Machine.execPtpMessage o s
  | .ppsInEdge => Sys2Proof.Machine.execPpsInEdge s
  | .ppsOutEdge => Sys2Proof.Machine.execPpsOutEdge s
  | .twinDigestForm => Sys2Proof.Machine.execTwinDigestForm s
  | .twinDigestResend => Sys2Proof.Machine.execTwinDigestResend s
  | .twinDigestFrame frame => Sys2Proof.Machine.execTwinDigestFrame frame s
  | .rollback frame => Sys2Proof.Machine.execRollback frame s
  | .twinFenceFrame frame => Sys2Proof.Machine.execTwinFenceFrame frame s
  | .twinTimeout => Sys2Proof.Machine.execTwinTimeout s
  | .riskEval => Sys2Proof.Machine.execRiskEval s
  | .cskRequest => Sys2Proof.Machine.execCskRequest s
  | .kilnPartSend => Sys2Proof.Machine.execKilnPartSend s
  | .baseStart tensor => Sys2Proof.Machine.execBaseStart tensor s
  | .caskCommit => Sys2Proof.Machine.execCaskCommit s
  | .caskExport => Sys2Proof.Machine.execCaskExport s
  | .caskManifest frame => Sys2Proof.Machine.execCaskManifest frame s
  | .caskData frame => Sys2Proof.Machine.execCaskData frame s
  | .caskAck frame => Sys2Proof.Machine.execCaskAck frame s
  | .caskFetch frame => Sys2Proof.Machine.execCaskFetch frame s
  | .caskEnd frame => Sys2Proof.Machine.execCaskEnd frame s
  | .caskRefuse frame => Sys2Proof.Machine.execCaskRefuse frame s
  | .caskFrameResend seq => Sys2Proof.Machine.execCaskFrameResend seq s
  | .caskRestore step => Sys2Proof.Machine.execCaskRestore step s
  | .traceRegionWrite part => Sys2Proof.Machine.execTraceRegionWrite part s
  | .pcSample core toPort => Sys2Proof.Machine.execPcSample core toPort s
  | .cntTraceRead part value => Sys2Proof.Machine.execCntTraceRead part value s
  | .go part owner => Sys2Proof.Machine.execGo part owner s
  | .cancel part => Sys2Proof.Machine.execCancel part s
  | .dumpEnd part ok => Sys2Proof.Machine.execDumpEnd part ok s
  | .freeze part => Sys2Proof.Machine.execFreeze part s
  | .thaw part => Sys2Proof.Machine.execThaw part s
  | .tracePortFrame => Sys2Proof.Machine.execTracePortFrame s
  | .traceCredit frames => Sys2Proof.Machine.execTraceCredit frames s
  | .uzoPartnerLightChange light lanes => Sys2Proof.Machine.execUzoPartnerLightChange light lanes s
  | .ethLinkChange port up => Sys2Proof.Machine.execEthLinkChange port up s
  | .ethFrameRx f => Sys2Proof.Machine.execEthFrameRx f s
  | .tracePortLinkChange link => Sys2Proof.Machine.execTracePortLinkChange link s
  | .ptpOrPpsInLost => Sys2Proof.Machine.execPtpOrPpsInLost s
  | .unknownTypeParcel type p => Sys2Proof.Machine.execUnknownTypeParcel type p s

end Sys2Proof.Machine
end

