-- ==== Sys2Proof/Machine/Idle.lean ====
section
/-!
DEFINITION. What the module does while no command waits: 1 ns of its clock passes (assumption 1).
-/

namespace Sys2Proof.Machine

/-- The sidereal counter after 1 ns: it advances, or stands still for a backward slew (R430, R434). -/
def Sid.advance (t : Sid) : Sid := if 0 < t.hold then { t with hold := t.hold - 1 } else { t with now := (t.now + 1) % 2 ^ 64 }

/-- 1 ns passes (R430, R571, R572): the sidereal counter and the security die's timer advance while the module has power,
and the signer gains a credit every 10 ms, up to 100. -/
def idleTick (s : State) : State :=
  if s.pwr.phase = .off then s
  else
    let n := s.sec.timer + 1
    { s with
      sid := s.sid.advance
      sec := { s.sec with timer := n, credits := if n % 10000000 = 0 then min 100 (s.sec.credits + 1) else s.sec.credits } }

end Sys2Proof.Machine
end

