-- ==== Sys2Proof/Safety.lean ====
section
/-!
DEFINITION. What counts as a safe run, and the terms in which the statements speak of two states: what was raised, what was answered, what
was kept.
-/

namespace Sys2Proof.Machine

/-- The state after one step; none where the step faults or refuses. -/
def stepNext (s : State) : Option State :=
  match step s with
  | .next t => some t
  | _ => none

/-- `n` steps, each of which answers a next state. -/
def safeRun : Nat → State → Option State
  | 0, s => some s
  | n + 1, s => (stepNext s).bind (safeRun n)

/-! ### What two states share -/

/-- HBM, tun memories, cluster stores and cellar are the same. -/
def World.memoriesKept (a b : World) : Prop := b.hbm = a.hbm ∧ b.tun = a.tun ∧ b.cstore = a.cstore ∧ b.cellar = a.cellar

/-- Power, time, the security die and the waiting commands are the same. -/
def State.restKept (s t : State) : Prop := t.pwr = s.pwr ∧ t.sid = s.sid ∧ t.sec = s.sec ∧ t.pending = s.pending

/-! ### Events (R555, R652) -/

/-- Whether an event of a severity is forwarded to the node, and the queue has room. -/
def World.forwards (w : World) (sev : Nat) : Prop :=
  fieldOf (w.reg (Block.uzo.addr 0 0x008)) 0 1 = 1 ∧ fieldOf (w.reg (Block.uzo.addr 0 0x008)) 1 3 ≤ sev ∧ w.uzo.events.length < 4096

/-- The reports in this head's receive buffers: none is of the generation `key`, and each still has to wait. -/
def World.treeSettled (w : World) (key : Nat) : Prop :=
  ∀ y ∈ w.fab.treeHeld, genKey y ≠ key ∧ 0 < y.entries ∧ y.kind.toNat ≠ 2 ∧ y.fromPosition ∈ (w.gen (genKey y)).reports

/-- The event queue of `b` is that of `a` and one more record, which carries SOURCE, CODE and PAYLOAD. -/
def World.raised (a b : World) (src code payload : Nat) : Prop :=
  ∃ r, b.uzo.events = a.uzo.events ++ [r] ∧ leAt r 10 2 = src ∧ leAt r 12 2 = code ∧ leAt r 16 4 = payload % 2 ^ 32

/-! ### Parcels (R543 to R549) -/

/-- The TYPE and the parcel of a command that is a request of the Uzolo port. -/
def parcelOf : Instr → Option (Nat × Parcel)
  | .status q => some (0x01, q)
  | .capQuery q => some (0x02, q)
  | .attest q => some (0x03, q)
  | .loadBegin q => some (0x10, q)
  | .loadData q => some (0x11, q)
  | .loadEnd q => some (0x12, q)
  | .unload q => some (0x13, q)
  | .start q => some (0x14, q)
  | .stop q => some (0x15, q)
  | .restore q => some (0x16, q)
  | .regRead q => some (0x20, q)
  | .regWrite q => some (0x21, q)
  | .dmaOpen q => some (0x30, q)
  | .dmaClose q => some (0x31, q)
  | .dmaRead q => some (0x32, q)
  | .dmaWrite q => some (0x33, q)
  | .ringCfg q => some (0x34, q)
  | .doorbell q => some (0x40, q)
  | .rsBegin q => some (0x60, q)
  | .rsData q _ => some (0x61, q)
  | .rsEnd q _ => some (0x62, q)
  | .key q => some (0x70, q)
  | .jobKey q => some (0x71, q)
  | .claim q => some (0x72, q)
  | .release q => some (0x73, q)
  | .floor q => some (0x74, q)
  | .unknownTypeParcel type q => some (type.toNat, q)
  | _ => none

/-- The port is UP (R543): ready, light, trained, and the MGC runs. -/
def State.portOpen (s : State) : Prop :=
  s.pwr.phase = .ready ∧ s.pwr.failSeq = none ∧ s.pwr.resetLow = false ∧ s.w.uzo.light = true ∧ s.w.uzo.training = false
    ∧ s.sec.mgcHeld = false ∧ s.sec.recovery = false

/-- A response in one parcel. -/
def reply (type : Nat) (q : Parcel) (status detail : Nat) (payload : List Byte) : Output :=
  .parcel type 1 q.tag q.partition status detail payload

/-- The module hears a request on the link, counts it and, where its SEQ counts, accepts that. -/
def State.heard (s : State) (q : Parcel) (seq : Bool) : State :=
  s.onWorld fun w =>
    let w := w.tick .uzo 0 0x080
    if seq then w.updPart q.partition.toNat (Part.accept q) else w

/-- A request on the link that is to be handled: it is admitted, at a privilege that may send it, for a partition that exists. -/
def State.hears (s : State) (type : Nat) (q : Parcel) (job : Option Nat) (seq : Bool) : Prop :=
  s.linkLive = true ∧ s.verdict type q = .allow job seq ∧ (job.isSome = true → jobMaySend type = true)
    ∧ (usesPartition type = true → q.partition.toNat < s.w.partCount)

/-! ### Cores -/

/-- Of the cores, only core `c` differs; memories, clusters, flows, dies and registers are the same. -/
def State.onlyCore (s t : State) (c : Nat) : Prop :=
  s.restKept t ∧ s.w.memoriesKept t.w ∧ t.w.clusters = s.w.clusters ∧ t.w.flows = s.w.flows ∧ t.w.dies = s.w.dies ∧ t.w.regs = s.w.regs
    ∧ ∀ d, d ≠ c → t.w.core d = s.w.core d

/-- Core `c` has executed a command: only it differs, and its count of commands rises by 1. -/
def State.retired (s t : State) (c : Nat) : Prop :=
  s.onlyCore t c ∧ AMap.get 0 t.w.counters (Block.seq.addr c 0x068) = AMap.get 0 s.w.counters (Block.seq.addr c 0x068) + 1

/-! ### Memories and engines -/

/-- `b` is the memory `a` with the bytes `bs` at `base`, and every other byte as it was. -/
def Memory.wrote (a b : Memory) (base : Nat) (bs : List Byte) : Prop :=
  (∀ i < bs.length, b.byte (base + i) = bs.getD i 0) ∧ ∀ k, (k < base ∨ base + bs.length ≤ k) → b.byte k = a.byte k

/-- The command that runs a VXE operation of an OP (R130). -/
def vxeInstr : Nat → CoreId → Instr
  | 0 => .vxeChain
  | 1 => .vxeSegmented
  | 2 => .vxeMatmulF32
  | 3 => .vxeMatmulF64
  | 4 => .vxeTranspose
  | 5 => .vxeGather
  | 6 => .vxeScatter
  | _ => .vxeGrouped

/-- No core of the cluster of core `c` is held by an ISSUE, so that the end of an operation lets none go on (R53). -/
def World.noHeldIssue (w : World) (c : Nat) : Prop := ∀ x ∈ clusterCores c, ∀ e o, (w.core x).held ≠ some (.issue e o)

/-- The VXE of a core runs `run`, an operation of OP `op` that the core issued, and no ISSUE is held. -/
def World.vxeRuns (w : World) (c op : Nat) (run : VxeRun) : Prop :=
  w.coreLive c = true ∧ (w.core c).vxe.faulted = false ∧ (w.core c).vxe.run = some run ∧ run.op.core = c
    ∧ vxeOp (w.descOf c run.op.desc) = op ∧ w.noHeldIssue c

/-- The operation of a unit of core `c` has ended: it waits for OPERATION_DONE. -/
def World.opEnded (a b : World) (c : Nat) (e : Engine) (o : IssuedOp) : Prop :=
  (b.core c).doneOps = (a.core c).doneOps ++ [(e, o)]

/-- The VXE of a core begins an operation of OP `op` from a register to a register, which has elements to take. -/
def World.vxeRegRuns (w : World) (c op : Nat) (run : VxeRun) : Prop :=
  w.vxeRuns c op run ∧ run = { op := run.op } ∧ w.vxeConsumed c run = false ∧ 0x20 ≤ vxeSrcA (w.descOf c run.op.desc)
    ∧ 0x10 ≤ vxeSrcB (w.descOf c run.op.desc) ∧ vxeToReg (w.descOf c run.op.desc) = true

/-- What an operation of OP 0, 4 or 7 from a register to a register leaves (R127, R130, R131, R137, R140): the results of its stages over the valid
elements, transposed or summed by groups as the OP says, stand in the destination register and are counted, and the operation has ended. -/
def World.vxeRegResult (w t : World) (c op : Nat) (run : VxeRun) : Prop :=
  let d := w.descOf c run.op.desc
  let k := vxeCompute d
  let v := (w.core c).vxe
  let rows := if k = 1 ∨ k = 2 then 2 else 1
  let cols := if k = 3 then 32 else 64
  let base := w.vxeElemBase c d run.op
  let srcB := if 0x20 ≤ vxeSrcB d ∧ vxeSrcB d ≤ 0x3F then
    some (fun r n => vregElem k (AMap.get 0 v.vregs (vxeSrcB d - 0x20)) (vecElem k r n), computeFormat k) else none
  let x : VInput := (rows, cols, regInput k (AMap.get 0 v.vregs (vxeSrcA d - 0x20)), computeFormat k, srcB, [])
  let r := chainInput (w.stageEnv c d) (vxeStages d) (leAt d 9 1 % 8) base 0 (if op = 4 then 4096 else vxeCount d) x (v.vregs, v.masks, 0)
  let g := 2 ^ bitsAt (leAt d 10 1) 4 3
  let cells : Cells := if op = 4 then (cellsOf r.1).map fun y => (y.2.1, y.1, y.2.2.1, base + 0 + y.2.1 * rows + y.1)
    else if op = 7 then (groupCells (computeFlt k) (w.stageEnv c d).2.2.1 (vxeRound d) g rows cols base 0 r.1).1 else cellsOf r.1
  w.memoriesKept t ∧ (∀ e, e ≠ c → t.core e = w.core e) ∧ (t.core c).vxe.run = none ∧ w.opEnded t c .vxe run.op
    ∧ (t.core c).vxe.masks = r.2.2.1
    ∧ (t.core c).vxe.vregs = cells.foldl (fun m y =>
        if y.2.2.2 - base < computeElems k then AMap.upd 0 m (vxeDest d - 0x20) (fun z => vregSet k z (y.2.2.2 - base) y.2.2.1) else m) r.2.1
    ∧ AMap.get 0 t.counters (Block.vxe.addr c 0x090) = AMap.get 0 w.counters (Block.vxe.addr c 0x090) + BitVec.ofNat 64 cells.length

/-- A step of OP 2 or OP 3 is due that is not the last of its output tile nor of the operation, begins no tile from an initial value, and finds one
tile in each of its two source queues. -/
def World.vxeMatReady (w : World) (c op : Nat) (run : VxeRun) (a b : QEntry) (ta tb : Tile) : Prop :=
  let d := w.descOf c run.op.desc
  let tk := mxeStep (vxeM d * vxeN d) (vxeK d) run.stepNo
  let x := (run.acc.find? fun y => decide (y.t = tk.1)).getD { t := tk.1 }
  w.vxeRuns c op run ∧ run.stepNo + 1 < vxeM d * vxeN d * vxeK d ∧ tk.2 + 1 ≠ vxeK d ∧ (tk.2 ≠ 0 ∨ 0x10 ≤ vxeSeg d)
    ∧ vxeSrcA d ≠ vxeSrcB d ∧ w.queue c (vxeSrcA d) = [a] ∧ w.queue c (vxeSrcB d) = [b]
    ∧ w.head c (vxeSrcA d) = some a ∧ w.head c (vxeSrcB d) = some b
    ∧ w.takeTile c vxeReads (fun r _ => decide (tk.2 = 0) || decide (r = x.rows)) a.handle = .ok ta
    ∧ w.takeTile c vxeReads (fun r n => decide (n = ta.cols) && (decide (tk.2 = 0) || decide (r = x.cols))) b.handle = .ok tb ∧ tb.rows ≤ 64

/-- What that step leaves (R127, R138): both tiles are taken, and each element that the mask selects has the products of a row of A and a row of B added in
ascending order by fused multiply-adds. -/
def World.vxeMatStepped (w t : World) (c : Nat) (run : VxeRun) (ta tb : Tile) : Prop :=
  let d := w.descOf c run.op.desc
  let k := vxeCompute d
  let f := computeFlt k
  let tk := mxeStep (vxeM d * vxeN d) (vxeK d) run.stepNo
  let x := (run.acc.find? fun y => decide (y.t = tk.1)).getD { t := tk.1 }
  let ctx := ctxOf (AMap.get 0 (w.core c).vxeCtx (leAt d 2 1 % 4))
  w.memoriesKept t ∧ (∀ e, e ≠ c → t.core e = w.core e) ∧ t.queue c (vxeSrcA d) = [] ∧ t.queue c (vxeSrcB d) = []
    ∧ ∃ run' y, (t.core c).vxe.run = some run' ∧ run'.stepNo = run.stepNo + 1 ∧ y ∈ run'.acc ∧ y.t = tk.1 ∧ y.rows = ta.rows ∧ y.cols = tb.rows
      ∧ ∀ i < ta.rows, ∀ j < tb.rows, AMap.get none y.acc (64 * i + j) =
        if maskGet k (w.core c).vxe.masks (leAt d 9 1 % 8) (vecElem k i j) then
          some (f.encode ((List.range ta.cols).foldl (fun (z : Val × Nat) n =>
            let p := enterVal k ctx (vxeRound d) ta.format (ta.values.getD (64 * i + n) (.fin false 0 0))
            let q := enterVal k ctx (vxeRound d) tb.format (tb.values.getD (64 * j + n) (.fin false 0 0))
            let m := f.fma ctx (vxeRound d) p.1 q.1 z.1
            (m.1, z.2 ||| m.2 ||| p.2 ||| q.2)) (((AMap.get none x.acc (64 * i + j)).map f.decode).getD (.fin true 0 0), 0)).1)
        else none

/-- The valid elements of OP 5 or OP 6 from a register, each with its place in the vector; and the table index that a place's element names. -/
def World.vxeIndexed (w : World) (c : Nat) (run : VxeRun) : List ((Nat × Nat) × Nat) :=
  let d := w.descOf c run.op.desc
  let k := vxeCompute d
  (places (if k = 1 ∨ k = 2 then 2 else 1) (if k = 3 then 32 else 64)).zipIdx.filter fun p =>
    decide (p.2 < vxeCount d) && maskGet k (w.core c).vxe.masks (leAt d 9 1 % 8) (vecElem k p.1.1 p.1.2)
def World.vxeIndex (w : World) (c : Nat) (run : VxeRun) (p : (Nat × Nat) × Nat) : Nat :=
  let d := w.descOf c run.op.desc
  let k := vxeCompute d
  (computeFlt k).encode (regInput k (AMap.get 0 (w.core c).vxe.vregs (vxeSrcA d - 0x20)) p.1.1 p.1.2)

/-- `b`'s HBM holds the bytes `bs` from offset `off` of partition `p` on, and is `a`'s elsewhere. -/
def World.hbmWrote (a b : World) (p off : Nat) (bs : List Byte) : Prop :=
  (∀ i < bs.length, b.hbm.byte (hbmKey (a.part p).good (off + i)) = bs.getD i 0)
    ∧ ∀ key, (∀ i < bs.length, key ≠ hbmKey (a.part p).good (off + i)) → b.hbm.byte key = a.hbm.byte key

/-- A range of a partition's HBM exists, holds no version of a table, and no guard covers any of it. -/
def World.plainHbm (w : World) (p off n : Nat) : Prop :=
  (w.part p).good.Nodup ∧ off + n ≤ w.hbmCapacity p ∧ w.guardHits p off n = []
    ∧ ∀ e ∈ (w.part p).dir, rangesMeet off n e.penBase e.bytes = false ∧ rangesMeet off n e.curBase e.bytes = false

/-- `b`'s HBM holds the bytes of a grain write that its mask selects, from offset `off` of partition `p` on, and is `a`'s elsewhere (R270). -/
def World.grainWrote (a b : World) (p off : Nat) (x : GrainAccess) : Prop :=
  let good := (a.part p).good
  let n := (x.data.take x.length).length
  let writes := fun (i : Nat) => x.mask = [] ∨ x.mask.getD i false = true
  (∀ i < n, writes i → b.hbm.byte (hbmKey good (off + x.first + i)) = x.data.getD i 0)
    ∧ ∀ key, (∀ i < n, writes i → key ≠ hbmKey good (off + x.first + i)) → b.hbm.byte key = a.hbm.byte key

/-- No prefetch guard is registered. -/
def World.noGuards (w : World) : Prop := ∀ e ∈ w.cores, e.2.axe.guards = []

/-- Of the memories, only the tun memories, the cluster stores or HBM differ. -/
def World.onlyTun (a b : World) : Prop := b.hbm = a.hbm ∧ b.cstore = a.cstore ∧ b.cellar = a.cellar
def World.onlyStore (a b : World) : Prop := b.hbm = a.hbm ∧ b.tun = a.tun ∧ b.cellar = a.cellar
def World.onlyHbm (a b : World) : Prop := b.tun = a.tun ∧ b.cstore = a.cstore ∧ b.cellar = a.cellar

/-- A HBM that differs from this module's only within Hopper's intake ring. -/
def World.ringKept (w : World) (m : Memory) : Prop :=
  ∀ key, (∀ j < w.ringBytes, key ≠ hbmKey (w.part 0).good (w.regField (Block.hop.addr 0 0x008) 0 48 + j)) → m.byte key = w.hbm.byte key

/-- Nothing of the memories has changed but bytes of the intake ring. -/
def World.onlyRing (a b : World) : Prop := a.onlyHbm b ∧ a.ringKept b.hbm

/-- The AXE of a core runs the one stream `r`, of a kind, which has work left, and none of its tiles waits to be read again. -/
def World.axeRuns (w : World) (c kind : Nat) (r : AxeRun) : Prop :=
  w.coreLive c = true ∧ (w.core c).axe.faulted = false ∧ w.throttled (coreSource 1 c) = false ∧ (w.core c).axe.streams = [r]
    ∧ (w.core c).axe.pending = [] ∧ (∀ g ∈ (w.core c).axe.guards, g.reread = false) ∧ r.op.core = c ∧ w.noHeldIssue c
    ∧ axeKind (w.descOf c r.op.desc) = kind ∧ w.axeEnded c r = false

/-- A unit of a cluster (6 GSU, 7 SUQ) may start its next operation. -/
def World.unitFree (w : World) (unit k : Nat) : Prop :=
  w.clusterLive k = true ∧ w.throttled (clusterSource unit k) = false ∧ w.throttles (clusterSource unit k) 2 = false

/-- The GSU of a cluster begins the operation `o` of an OP, on the table with entry `e`; operations `rest` wait behind it. -/
def World.gsuBegins (w : World) (k op : Nat) (o : IssuedOp) (rest : List IssuedOp) (e : DirEntry) : Prop :=
  w.unitFree 6 k ∧ (w.cluster k).gsu.faulted = false ∧ (w.cluster k).gsu.started = false ∧ (w.cluster k).gsu.unacked = none
    ∧ (w.cluster k).gsu.pending = o :: rest ∧ gsuOp (w.descOf o.core o.desc) = op
    ∧ (w.part (w.partOfCluster k)).entry (gsuTable (w.descOf o.core o.desc)) = some e ∧ (w.partOfCluster k = 0 → w.canSend = true)
    ∧ w.noHeldIssue o.core

/-- `n` entries of `size` bytes of a list in a cluster store. -/
def World.storeList (w : World) (k a size n : Nat) : List Nat := (List.range n).map fun i => leAt (w.storeRead k a (size * n)) (size * i) size

/-- Every run of bytes lies in the cluster store. -/
def storeOuts (outs : List (Nat × List Byte)) : Prop := ∀ x ∈ outs, ∃ q, localOf x.1 = some (.store q) ∧ q + x.2.length ≤ storeBytes

/-- A cluster store after runs of bytes are written in order. -/
def storeAfter (m : Memory) (k : Nat) (outs : List (Nat × List Byte)) : Memory :=
  outs.foldl (fun m x => m.write (k * storeBytes + x.1 % 2 ^ 24) x.2) m

/-- A table's pool in a partition, and a cell of it. -/
def World.poolOf (w : World) (p table : Nat) : Pool := AMap.get {} (w.part p).pools table
def World.poolCell (w : World) (p table row col : Nat) : Int × Bool × Bool :=
  AMap.get (0, false, false) ((((w.poolOf p table).rows.find? fun r => decide (r.1 = row)).map (·.2)).getD []) col

/-- A command for an NMR of this module's own, on a row table of partition 0 that runs. -/
def World.nmrOwn (w : World) (c : NmrCmd) (e : DirEntry) : Prop :=
  (w.fab.position = none ∨ c.fromPosition.toNat = w.ownPosition) ∧ w.jobRuns 0 = true ∧ (w.part 0).entry c.table = some e ∧ e.kind = 1
    ∧ c.reserved = false ∧ w.nmrDown 0 = false

/-- A row that this module homes, and columns of it. -/
def World.nmrRow (w : World) (c : NmrCmd) (e : DirEntry) : Prop :=
  w.nmrOwn c e ∧ c.row < e.records ∧ w.homesRow 0 e c.row = true ∧ c.column + c.count ≤ e.dim

/-- A window add of at most the cells of one command is due, into a pool with room for its row and in its window (R243, R245, R252). -/
def World.cellsReady (w : World) (c : NmrCmd) (e : DirEntry) (w128 : Bool) : Prop :=
  w.nmrRow c e ∧ c.count ≤ (if w128 then 7 else 14) ∧ (w.poolOf 0 e.tensor).readOut = false
    ∧ ((w.poolOf 0 e.tensor).window = none ∨ (w.poolOf 0 e.tensor).window = some (w.tableWindow 0 e.tensor w128))
    ∧ ((w.poolOf 0 e.tensor).rows.length < e.windowRows ∨ ∃ r ∈ (w.poolOf 0 e.tensor).rows, r.1 = c.row)

/-- What a window add leaves: each cell of the payload is added to its cell of the row, no other cell of the pool changes, no memory does, and the
NMR of the row counts the command. -/
def World.cellsAdded (w t : World) (c : NmrCmd) (e : DirEntry) (w128 : Bool) : Prop :=
  w.memoriesKept t
    ∧ (∀ i < c.count, t.poolCell 0 e.tensor c.row (c.column + i) =
        cellAdd w128 (w.poolCell 0 e.tensor c.row (c.column + i)) (parseCell w128 (slice c.payload (cellBytes w128 * i) (cellBytes w128))))
    ∧ (∀ row col, (row ≠ c.row ∨ col < c.column ∨ c.column + c.count ≤ col) → t.poolCell 0 e.tensor row col = w.poolCell 0 e.tensor row col)
    ∧ AMap.get 0 t.counters (Block.nmr.addr (w.rowStack 0 e c.row) 0x080) =
        AMap.get 0 w.counters (Block.nmr.addr (w.rowStack 0 e c.row) 0x080) + 1

/-- Where the element `i` of an element add of `n` bytes lies, and the bytes of the dirty bitmaps that the add may touch. -/
def nmrElementAt (c : NmrCmd) (e : DirEntry) (n i : Nat) : Nat := e.penBase + c.row * e.recordBytes + (c.column + i) * n
def World.dirtyOf (w : World) (c : NmrCmd) (e : DirEntry) (n key : Nat) : Prop :=
  ∃ y ∈ (w.part 0).dir, ∃ r ∈ y.touched (nmrElementAt c e n 0) (n * c.count), key = hbmKey (w.part 0).good (y.dirty + r / 8)

/-- An element add of `n` bytes an element is due, within its record, with the catch-up of every table done (R220, R243). -/
def World.elementsReady (w : World) (c : NmrCmd) (e : DirEntry) (n : Nat) : Prop :=
  w.nmrRow c e ∧ c.count * n ≤ 224 ∧ (c.column + c.count) * n ≤ e.recordBytes ∧ e.catchup = [] ∧ (w.part 0).heldWrites = []
    ∧ (∀ y ∈ (w.part 0).dir, y.catchupDone = true) ∧ (w.part 0).good.Nodup ∧ nmrElementAt c e n c.count ≤ w.hbmCapacity 0
    ∧ ∀ j < n * c.count, ¬ w.dirtyOf c e n (hbmKey (w.part 0).good (nmrElementAt c e n 0 + j))

/-- What an element add leaves: `sum` of each element and its payload stands in the element's place; beside the elements and dirty bits HBM stays. -/
def World.elementsAdded (w t : World) (c : NmrCmd) (e : DirEntry) (n : Nat) (sum : Nat → Nat → Nat) : Prop :=
  w.onlyHbm t
    ∧ (∀ i < c.count, t.hbmRead 0 (nmrElementAt c e n i) n =
        leBytes n (sum (leNat (w.hbmRead 0 (nmrElementAt c e n i) n)) (leAt c.payload (n * i) n)))
    ∧ ∀ key, (∀ j < n * c.count, key ≠ hbmKey (w.part 0).good (nmrElementAt c e n 0 + j)) → ¬ w.dirtyOf c e n key →
        t.hbm.byte key = w.hbm.byte key

/-- The frames to the Kiln that read out a pool (R246). -/
def World.readoutFrames (w : World) (p : Nat) (e : DirEntry) : List Output :=
  let pool := w.poolOf p e.tensor
  let win := pool.window.getD (false, 0)
  (pool.rows.map fun r => Output.kiln true 3 p [e.tensor, (w.part p).step, r.1]
      ((List.range e.dim).flatMap fun c => leBytes 4 (readCell win.1 win.2 (AMap.get (0, false, false) r.2 c)).1))
    ++ [.kiln true 4 p [e.tensor, (w.part p).step, pool.rows.length] []]

/-! ### The Kiln (chapter 09) -/

/-- An entry's state block lies in its cellar partition, whose channels differ (R284, R300). -/
def World.blockFits (w : World) (p : Nat) (r : KilnRule) (e : KilnEntry) : Prop :=
  let h := w.homedRows p (w.kilnTensor p e)
  (w.part p).cellarGood.Nodup ∧ e.cellar + r.blockBytes e ((h.2 - h.1) * e.cols) (h.2 - h.1) ≤ 2 ^ 40

/-- The rows that a freeze command for rows names: KLN_FREEZE_LIST's base and count (R331). -/
def World.freezeList (w : World) : Nat × Nat :=
  (fieldOf (w.reg (Block.kln.addr 0 0x020)) 0 48, fieldOf (w.reg (Block.kln.addr 0 0x020)) 48 16)
/-- No failed channel holds any of that list in partition `p`. -/
def World.freezeListRead (w : World) (p : Nat) : Prop :=
  w.freezeList.2 = 0 ∨ w.hbmFailed p w.freezeList.1 (8 * w.freezeList.2) = false

/-- What a freeze or thaw command leaves (R315, R316, R331): accepted, it waits for its step; late, it counts and sets KLN_STICKY; naming no entry
of its kind, it is refused in its result. -/
def World.freezeTaken (a b : World) (p rule entry eff : Nat) (freeze rows : Bool) : Prop :=
  a.memoriesKept b ∧ match a.kilnEntryAt p rule entry with
    | none => b = { a with kiln := { a.kiln with freezeResult := 3 } }
    | some (_, e) =>
      if rows = true ∧ e.rowTable = false then b = { a with kiln := { a.kiln with freezeResult := 3 } }
      else if eff ≤ (a.part p).step then
        b.kiln = { a.kiln with freezeResult := 2 } ∧ (b.reg (Block.kln.addr 0 0x010)).getLsbD 3 = true
          ∧ AMap.get 0 b.counters (Block.kln.addr 0 0x0C0) = AMap.get 0 a.counters (Block.kln.addr 0 0x0C0) + 1
      else
        let named := (List.range a.freezeList.2).map fun i => leNat (a.hbmRead p (a.freezeList.1 + 8 * i) 8)
        let c : FreezeCmd := { part := p, rule := rule, entry := entry, freeze := freeze, rows := if rows then some named else none, effective := eff }
        b.kiln = { a.kiln with freezeResult := 1, freezes := a.kiln.freezes ++ [c] }

/-! ### Packets (chapter 11) -/

/-- A position has an entry, and the module that holds it has not failed: packets to it leave (R389, R403). -/
def World.reaches (w : World) (pos : Nat) : Prop := ∃ phys, w.physicalOf pos = some phys ∧ w.fab.failed.contains phys = false

/-- The module has sent one packet more: its KIND, its destination and its payload. -/
def World.sent (a b : World) (kind pos : Nat) (payload : List Byte) : Prop :=
  ∃ q, b.out = a.out ++ [.packet kind q] ∧ q.dst = BitVec.ofNat 14 pos ∧ q.payload = payload

/-- The KIND (with the marks of Hopper's two kinds of WRITE) and the packet of a command that is a packet's arrival. -/
def packetOf : Instr → Option (Nat × Packet)
  | .readReq q => some (0x01, q)
  | .readData q => some (0x02, q)
  | .write q => some (0x03, q)
  | .writeAck q => some (0x04, q)
  | .nmrAck q => some (0x06, q)
  | .sampleReq q => some (0x07, q)
  | .sampleReply q => some (0x08, q)
  | .fabSignal q => some (0x09, q)
  | .signalAck q => some (0x0A, q)
  | .migrate q => some (0x0B, q)
  | .kilnState q => some (0x0C, q)
  | .reduceData q => some (0x0D, q)
  | .cask q => some (0x10, q)
  | .feedRecordIntake q => some (kindFeed, q)
  | .closeMarker q => some (kindMarker, q)
  | _ => none

/-- A packet that arrives here is served at once: the module hears it, it is no multicast, and neither ORDER nor its step has it wait. -/
def World.comes (w : World) (q : Packet) : Prop :=
  w.fab.trained = true ∧ w.fab.position.isSome = true ∧ pktMulticast q = false ∧ w.fab.orderHeld = []
    ∧ (pktOrder q = true → q.pairCount ≤ AMap.get 0 w.fab.pairReceived q.src.toNat)
    ∧ (pktStepped q = true → w.jobRuns 0 = true → q.stepTag.toNat = (w.part 0).step % 256)

/-- The module after such a packet has come in, before it is served: counted, recorded, progress of partition 0, and one more of its pair unless
another module passed it on. -/
def World.arrived (w : World) (t : Sid) (kind : Nat) (q : Packet) : World :=
  let src := q.src.toNat
  (((w.tick .fab 0 0x088).packetRecord t (kind % 256) 1 src q.tag.toNat q.address.toNat).progressed t 0).countPair q

/-- A counter, and its increase by 1. -/
def World.counter (w : World) (b : Block) (i off : Nat) : Word := AMap.get 0 w.counters (b.addr i off)
def World.counted (a b : World) (k : Block) (i off : Nat) : Prop := b.counter k i off = a.counter k i off + 1

/-- The REDUCE tensor, and its map, whose ACCUM an offset of this home lies in (R414). -/
def World.reduceAt (w : World) (off : Nat) : Option (Tensor × ShardMap) :=
  (((w.part 0).bundle.elim [] (·.tensors)).filterMap fun x => w.reduceMap x.id).find? fun y =>
    decide (y.2.accum ≤ off)
      && decide (off < y.2.accum + cellBytes y.1.recipe.w128 * ((w.reduceRange y.2 (w.loadEnv 0).dense).2 - (w.reduceRange y.2 (w.loadEnv 0).dense).1))

/-- A cause of FAILSAFE has started the power-fail sequence (R625, R495): the cause is held from now on, every job stops, each intra-group port that is
up carries GROUP_NOTICE with POWER_FAIL, and PWR_ALERT shows the cause; `pwr` is what else the power state is. -/
def State.failStarted (s t : State) (pwr : Pwr) (cause bit : Nat) : Prop :=
  t.pwr = { pwr with failSeq := some [cause], failAt := s.sid.now, failsafeCause := cause }
    ∧ t.sid = s.sid ∧ t.sec = s.sec ∧ t.pending = s.pending ∧ s.w.memoriesKept t.w
    ∧ (∀ p < 4, (t.w.part p).job ≠ .running)
    ∧ (∀ i < 16, (AMap.get {} s.w.fab.ports i).state = 1 → Output.notice s.w.fab.slot true ∈ t.w.out)
    ∧ (t.w.reg (Block.pwr.addr 0 0x018)).getLsbD bit = true

/-- A boot has taken its straps and a fresh BOOT_ID, and has come as far as the image and PWR_EN let it (R562 to R565, R570). -/
def State.booted (s t : State) (geo : BitVec 6) : Prop :=
  t.pwr.geo = geo ∧ t.sec.bootId = Config.freeWord s.w.free ∧ t.sec.nextIndex = s.sec.reservedEnd
    ∧ t.sec.xmss = s.sec.xmss ∧ t.sec.owner = s.sec.owner ∧ t.sec.flash = s.sec.flash
    ∧ match s.sec.bootFailure with
      | some (cause, step) => t.pwr.phase = .standby ∧ t.sec.recovery = true ∧ t.sec.recoveryCause = cause ∧ t.sec.bootStep = step
      | none => t.sec.recovery = false
        ∧ if s.pwr.pwrEn then t.pwr.phase = .ready ∧ t.sec.bootStep = 8
          else t.pwr.phase = .standby ∧ t.sec.bootStep = 4 ∧ t.sec.bootHeld = true

/-- A port that trains again, and the severity and the payload of its LINK_RETRAIN (R394). -/
def World.retrained (a b : World) (i sev lanes result : Nat) : Prop :=
  a.counted b .fabPort i 0x098 ∧ (a.forwards sev → ∃ r ∈ b.uzo.events, leAt r 10 2 = portSource i ∧ leAt r 12 2 = 0x120 ∧ leAt r 14 1 = sev
    ∧ leAt r 16 4 = retrainPayload i lanes result % 2 ^ 32)

/-- Where an event of a severity is forwarded, its record stands in the queue of `b`. -/
def World.saw (a b : World) (sev src code payload : Nat) : Prop :=
  a.forwards sev → ∃ r ∈ b.uzo.events, leAt r 10 2 = src ∧ leAt r 12 2 = code ∧ leAt r 14 1 = sev ∧ leAt r 16 4 = payload % 2 ^ 32

/-- A step of partition `p` has switched (R28, R219): STEP rises by 1, and the versions of every table change places. -/
def World.switched (a b : World) (p : Nat) : Prop :=
  (b.part p).step = (a.part p).step + 1 ∧ (b.part p).lastSwitched = some (a.part p).step
    ∧ ∀ e ∈ (a.part p).dir, ∃ f ∈ (b.part p).dir, f.tensor = e.tensor ∧ f.current = !e.current ∧ f.version = (e.version + 1) % 2 ^ 63

/-! ### Twins, casks and the Ethernet port (chapters 12 to 14) -/

/-- A frame of a KIND from the twin that its head takes (R455, R456). -/
def State.twinHears (s : State) (kind : Nat) (b : List Byte) : Prop :=
  ∃ e, s.w.ethRole 3 = some e ∧ s.w.ethHears e.port = true ∧ b.length = 128 ∧ beAt b 0 4 = 0x4D4A5444 ∧ beAt b 4 2 = 1
    ∧ beAt b 6 1 + s.w.config.twinRole = 3 ∧ beAt b 7 1 = kind ∧ allZero (slice b 104 24) = true ∧ s.w.headOfDomain = true
    ∧ s.w.twin.talks = true ∧ beAt b 88 4 = leAt ((s.w.part 0).bundle.elim [] (·.digest)) 0 4

/-- The rollback of step `n` with the partner's verified casks (R457): to the highest common cask, or, without one, to a stop. -/
def World.rolledBack (a b : World) (n : Nat) (verified : List Nat) : Prop :=
  (b.part 0).job ≠ .running
    ∧ match a.twin.verified.find? fun x => verified.contains x with
      | none => b.twin.state = twinStopped ∧ a.saw b 3 (ioSource 10) 0x131 (Nat.lor (n % 2 ^ 32) (2 ^ 31))
      | some c => b.twin.state = twinRolling ∧ b.twin.replayStep = some n ∧ (∃ f, b.cask.fetching = some f ∧ f.step = c ∧ f.written = false)
          ∧ a.saw b 3 (ioSource 10) 0x131 (n % 2 ^ 32) ∧ a.counted b .sid 0 0x0B0

/-- A frame of a KIND from the store that this module takes (R488). -/
def World.storeHears (w : World) (kind : Nat) (b : List Byte) : Prop :=
  ∃ e, w.store = some e ∧ w.ethHears e.port = true ∧ w.storeFrame kind b = true

/-- `b` has sent one frame more to the store. -/
def World.toldStore (a b : World) (frame : List Byte) : Prop :=
  ∃ e, a.store = some e ∧ b.out = a.out ++ (if a.ethSends e.port then [.datagram e.port e.address e.udpPort frame] else [])

/-- A transfer to the store has ended (R487, R492). -/
def World.exported (a b : World) (ok : Bool) : Prop :=
  b.cask.transfer = {} ∧ b.cask.exportDue = none ∧ b.cask.exportFailed = !ok ∧ a.counted b .csk 0 (if ok then 0x0B0 else 0x0B8)

/-- The memories are in their canonical form. -/
def State.memoriesWf (s : State) : Bool :=
  s.w.hbm.wf && s.w.tun.wf && s.w.cstore.wf && s.w.cellar.wf && s.w.kiln.buffer.wf && s.sec.flash.wf

/-! ### Limits that every step keeps (R22, R570, R572, R622) -/

/-- The frequency lies on its ladder, the caps in their range, the credits and the leaf indexes below their bounds. -/
def State.limitsKept (s : State) : Prop :=
  400 ≤ s.pwr.freq ∧ s.pwr.freq ≤ 940 ∧ s.pwr.freq % 20 = 0
    ∧ 24 ≤ s.pwr.capInForce ∧ s.pwr.capInForce ≤ 60 ∧ 24 ≤ s.pwr.capWindow ∧ s.pwr.capWindow ≤ 60
    ∧ s.sec.credits ≤ 100 ∧ s.sec.nextIndex ≤ s.sec.reservedEnd ∧ s.sec.reservedEnd ≤ 2 ^ 40 ∧ s.sec.reservedEnd % 1024 = 0

end Sys2Proof.Machine
end

