-- ==== Sys2Proof/Certificates/Slice0/Obligations.lean ====
section
/-!
DEFINITION. The statements for the provers, by family.
-/

open Sys2Proof Sys2Proof.Machine

/-! ### The machine -/

/-- A step takes the command at the front of the queue and runs it on the state with the queue's rest; with no command waiting, 1 ns passes
(assumption 1: the spec gives the block no queue). -/
def Obligations.StepRunsFrontCommand : Prop :=
  (∀ (c : Instr) (r : List Instr) (s : Machine.State), s.pending = c :: r → step s = exec c { s with pending := r })
  ∧ ∀ s : Machine.State, s.pending = [] → step s = .next (idleTick s)

/-- Every command, in every state, answers a next state, and leaves the commands that wait as they are. -/
def Obligations.EveryCommandAnswersKeepingQueue : Prop :=
  ∀ (c : Instr) (s : Machine.State), ∃ t, exec c s = .next t ∧ t.pending = s.pending

/-! ### Power, clocks, sideband (chapters 01, 13, 17) -/

/-- R625, R495: the first cause of FAILSAFE in STANDBY or ready starts the power-fail sequence: the cause is held, every running job stops,
GROUP_NOTICE with POWER_FAIL goes to every up intra-group port, PWR_ALERT takes the cause's bit and the event is raised; memories, time
and the security die stay. PWR_EN that was low already changes nothing.
R625: a further cause within 50 µs raises its own event while the sequence runs once; in the same nanosecond FAILSAFE_CAUSE holds the
lower code.
R624, R495, R544: below 30 V the module is OFF, its jobs stopped and its Uzolo transmitters off; at the end of the hold-up it is in FAILSAFE with
the fabric lanes idle and the Uzolo transmitters off, or in STANDBY where MOD_RESET_L was asserted meanwhile and still is (R625); with no
sequence running the end of a hold-up changes nothing. -/
def Obligations.FailCausesRunPowerFailSequence : Prop :=
  (∀ (s : Machine.State) (vin : BitVec 16), s.pwr.failSeq = none → (s.pwr.phase = .standby ∨ s.pwr.phase = .ready) →
      ∃ t, exec (.inputPowerFail vin) s = .next t ∧ s.failStarted t s.pwr 1 4 ∧ s.w.saw t.w 4 (ioSource 12) 0x170 vin.toNat)
  ∧ (∀ s : Machine.State, s.pwr.failSeq = none → (s.pwr.phase = .standby ∨ s.pwr.phase = .ready) → s.pwr.pwrEn = true →
      ∃ t, exec .pwrEnFall s = .next t ∧ s.failStarted t { s.pwr with pwrEn := false } 2 5
        ∧ s.w.saw t.w 4 (ioSource 12) 0x170 (s.w.vin + 2 ^ 16))
  ∧ (∀ s : Machine.State, s.pwr.pwrEn = false → exec .pwrEnFall s = .next s)
  ∧ (∀ (s : Machine.State) (i : Fin 17) (temp : BitVec 16), s.pwr.failSeq = none → (s.pwr.phase = .standby ∨ s.pwr.phase = .ready) →
      ∃ t, exec (.thermalTrip i temp) s = .next t ∧ s.failStarted t s.pwr 3 3
        ∧ s.w.saw t.w 4 (ioSource 12) 0x172 (i.val + temp.toNat * 2 ^ 8))
  ∧ (∀ (s : Machine.State) (vin : BitVec 16), s.pwr.failSeq = some [3] → s.sid.now = s.pwr.failAt → s.pwr.failsafeCause = 3 →
      ∃ t, exec (.inputPowerFail vin) s = .next t ∧ t.pwr = { s.pwr with failSeq := some [3, 1], failsafeCause := 1 }
        ∧ s.w.saw t.w 4 (ioSource 12) 0x170 vin.toNat ∧ s.w.memoriesKept t.w ∧ t.sid = s.sid ∧ t.sec = s.sec)
  ∧ (∀ s : Machine.State, ∃ t, exec .inputBelow30V s = .next t ∧ t.pwr = { s.pwr with phase := .off, failSeq := none, resetHeld := false }
      ∧ t.w.out.getLast? = some (.uzoLight false) ∧ (∀ p < 4, (t.w.part p).job ≠ .running)
      ∧ s.w.memoriesKept t.w ∧ t.sid = s.sid ∧ t.sec = { s.sec with mgcRunning := false, bootHeld := false, bootStep := 0 })
  ∧ (∀ (s : Machine.State) (cs : List Nat), s.pwr.failSeq = some cs → (s.pwr.resetHeld && s.pwr.resetLow) = false →
      ∃ t, exec .holdupEnd s = .next t ∧ t.pwr = { s.pwr with phase := .failsafe, failSeq := none, resetHeld := false }
        ∧ t.w.out = s.w.out ++ [.idleLanes, .uzoLight false] ∧ s.w.counted t.w .pwr 0 0x098 ∧ s.w.memoriesKept t.w ∧ t.sid = s.sid)
  ∧ (∀ (s : Machine.State) (cs : List Nat), s.pwr.failSeq = some cs → s.pwr.resetHeld = true → s.pwr.resetLow = true →
      ∃ t, exec .holdupEnd s = .next t ∧ t.pwr.phase = .standby ∧ t.pwr.failSeq = none ∧ t.sid.now = s.sid.now
        ∧ t.w.regs = [] ∧ t.sec.xmss = s.sec.xmss ∧ t.sec.owner = s.sec.owner ∧ t.sec.flash = s.sec.flash)
  ∧ ∀ s : Machine.State, s.pwr.failSeq = none → exec .holdupEnd s = .next s

/-- R621: an input between 38 V and 40 V sets INPUT_LOW; one above 61 V sets INPUT_HIGH and raises INPUT_RANGE with the voltage, once per
excursion; the module keeps running.
R632: a sensor that reaches its warning level while the module is not at the warning level raises THERMAL_WARN once, with the sensor
and its temperature, sets the alert bit and adds 1 to PWR_THERMAL_WARNS.
R22 to R24, R622, R632: at the end of a 1 ms window in service the common frequency falls by one 20 MHz step, not below 400 MHz, when the
window's average exceeds the cap or a sensor is at its warning level; it rises by one step, not above 940 MHz, after 20 windows at
least 50 W below the cap; otherwise it stays. The cap that was written takes force one window later, as the nearer bound of 24 to 60
units of 50 W.
R22, R622, R627: a power sample joins the window's average and the input energy in joules; a write of PWR_CAP holds the field written. -/
def Obligations.PowerAndHeatAreHeldToLimits : Prop :=
  (∀ (s : Machine.State) (vin : BitVec 16), s.pwr.phase ≠ .off → s.w.forwards 2 →
      (∃ t, exec (.inputLow vin) s = .next t ∧ (t.w.reg (Block.pwr.addr 0 0x018)).getLsbD 1 = true ∧ s.restKept t ∧ s.w.memoriesKept t.w
        ∧ t.w.parts = s.w.parts)
      ∧ (s.pwr.inputHigh = false → ∃ t, exec (.inputRange vin) s = .next t ∧ t.pwr = { s.pwr with inputHigh := true }
        ∧ (t.w.reg (Block.pwr.addr 0 0x018)).getLsbD 0 = true ∧ s.w.raised t.w (ioSource 12) 0x173 vin.toNat
        ∧ s.w.memoriesKept t.w ∧ t.sid = s.sid ∧ t.sec = s.sec)
      ∧ (s.pwr.inputHigh = true → exec (.inputRange vin) s = .next s))
  ∧ (∀ (s : Machine.State) (i : Fin 17) (temp : BitVec 16), s.pwr.phase ≠ .off → s.w.forwards 2 →
      ∃ t, exec (.thermalWarn i temp) s = .next t ∧ t.pwr.thermal = true ∧ i.val ∈ t.pwr.hot ∧ t.pwr.freq = s.pwr.freq
        ∧ t.sid = s.sid ∧ t.sec = s.sec ∧ s.w.memoriesKept t.w
        ∧ (s.pwr.thermal = false → (t.w.reg (Block.pwr.addr 0 0x018)).getLsbD 2 = true
            ∧ s.w.raised t.w (ioSource 12) 0x171 (i.val + temp.toNat * 2 ^ 8)
            ∧ AMap.get 0 t.w.counters (Block.pwr.addr 0 0x090) = AMap.get 0 s.w.counters (Block.pwr.addr 0 0x090) + 1)
        ∧ (s.pwr.thermal = true → t.w.uzo = s.w.uzo ∧ t.w.counters = s.w.counters))
  ∧ (∀ (s : Machine.State) (m : Measurement), s.inService = true →
      let avg := if s.pwr.powerCount = 0 then 0 else s.pwr.powerSum / s.pwr.powerCount
      let cap := 50 * s.pwr.capInForce
      let lower := cap < avg ∨ hotSensors m.temps ≠ []
      ∃ t, exec (.capWindowEnd m) s = .next t ∧ t.sid = s.sid ∧ t.sec = s.sec ∧ s.w.memoriesKept t.w
        ∧ (lower → t.pwr.freq = if s.pwr.freq ≤ 400 then 400 else s.pwr.freq - 20)
        ∧ (¬ lower → s.pwr.thermal = false → avg + 50 ≤ cap → 19 ≤ s.pwr.lowWindows → t.pwr.freq = if 940 ≤ s.pwr.freq then 940 else s.pwr.freq + 20)
        ∧ (¬ lower → (cap < avg + 50 ∨ s.pwr.lowWindows < 19) → t.pwr.freq = s.pwr.freq)
        ∧ t.pwr.capInForce = s.pwr.capWindow
        ∧ t.pwr.capWindow = min 60 (max 24 (s.w.regField (Block.pwr.addr 0 0x008) 0 6))
        ∧ t.pwr.powerSum = 0 ∧ t.pwr.powerCount = 0)
  ∧ (∀ (s : Machine.State), s.pwr.phase ≠ .off →
      (∀ watts : BitVec 16, ∃ t, exec (.powerSample watts) s = .next t
        ∧ t.pwr = { s.pwr with
            powerSum := s.pwr.powerSum + watts.toNat, powerCount := s.pwr.powerCount + 1
            energyRem := (s.pwr.energyRem + watts.toNat) % 100000 }
        ∧ AMap.get 0 t.w.counters (Block.pwr.addr 0 0x080) =
          AMap.get 0 s.w.counters (Block.pwr.addr 0 0x080) + BitVec.ofNat 64 ((s.pwr.energyRem + watts.toNat) / 100000)
        ∧ t.w = { s.w with counters := t.w.counters } ∧ t.sid = s.sid ∧ t.sec = s.sec)
      ∧ ∀ v : BitVec 64, ∃ t, exec (.pwrCapWrite v) s = .next t ∧ s.restKept t ∧ t.w = { s.w with regs := t.w.regs }
        ∧ t.w.reg (Block.pwr.addr 0 0x008) = v &&& 0x3F
        ∧ ∀ a, a ≠ Block.pwr.addr 0 0x008 → t.w.reg a = s.w.reg a)

/-- R19 to R21, R441: an island stretches and recovers; a cluster that meets R20 stops and counts the stop; a stopped cluster that is woken
runs again, its stamps latched for 16 of its cycles. Clocks change no result: nothing else of the module changes. -/
def Obligations.ClocksStretchStopRestart : Prop :=
  ∀ s : Machine.State,
    (∀ i : Fin 95, s.pwr.phase ≠ .off → exec (.droopDetected i) s =
      .next { s with pwr := { s.pwr with stretched := AMap.set false s.pwr.stretched i.val true, stretchSeen := true } })
    ∧ (∀ i : Fin 95, exec (.droopRecovered i) s =
      .next { s with pwr := { s.pwr with stretched := AMap.set false s.pwr.stretched i.val false } })
    ∧ (∀ k : ClusterId, s.inService = true → s.w.clusterIdle k.val = true → AMap.get false s.w.stopped k.val = false →
      ∃ t, exec (.clockStop k) s = .next t ∧ s.restKept t
        ∧ t.w = { s.w with stopped := AMap.set false s.w.stopped k.val true, counters := t.w.counters }
        ∧ AMap.get 0 t.w.counters (Block.sid.addr 0 (0x410 + 0x18 * k.val)) =
          AMap.get 0 s.w.counters (Block.sid.addr 0 (0x410 + 0x18 * k.val)) + 1)
    ∧ (∀ k : ClusterId, s.inService = true → AMap.get false s.w.stopped k.val = true →
      exec (.clockRestart k) s = .next { s with w := { s.w with
        stopped := AMap.set false s.w.stopped k.val false
        restarts := AMap.set (0, 0) s.w.restarts k.val (s.sid.now, s.sid.now + (16000 + s.w.mhz - 1) / s.w.mhz) } })
    ∧ ∀ k : ClusterId, AMap.get false s.w.stopped k.val = false → exec (.clockRestart k) s = .next s

/-- R562 to R565, R570, R624: a qualified power-on from OFF, and a release of MOD_RESET_L in STANDBY, run the boot: without a manifest or with an
image that fails, the module stays in STANDBY, in RECOVERY with that cause; else it reaches ready when PWR_EN is high and holds at the end
of step 4 when it is low; PWR_EN rising lets a held boot go on. BOOT_ID is drawn anew and NEXT_INDEX starts at the committed
RESERVED_END.
R7, R430, R544, R624: MOD_RESET_L puts a powered module in STANDBY with every register at its reset value, memories as at reset and the Uzolo
transmitters off; SID_NOW keeps counting, and MRAM and the recipe store keep what they hold. During a power-fail sequence it is held. -/
def Obligations.BootAndModResetReachTheirPhase : Prop :=
  ((∀ (s : Machine.State) (vin : BitVec 16) (geo : BitVec 6) (boot : BootIn), s.pwr.phase = .off → 4000 ≤ vin.toNat → s.pwr.resetLow = false →
      ∃ t, exec (.powerOnQualify vin geo boot) s = .next t ∧ s.booted t geo)
    ∧ (∀ (s : Machine.State) (geo : BitVec 6) (boot : BootIn), s.pwr.phase = .standby → s.pwr.resetLow = true → s.pwr.failSeq = none →
      ∃ t, exec (.modResetLRelease geo boot) s = .next t ∧ t.pwr.resetLow = false ∧ s.booted t geo)
    ∧ ∀ (s : Machine.State) (boot : BootIn), s.sec.bootHeld = true → s.pwr.failSeq = none → s.pwr.phase = .standby →
      ∃ t, exec (.pwrEnRise boot) s = .next t ∧ t.pwr.pwrEn = true ∧ t.pwr.phase = .ready ∧ t.sec.bootStep = 8 ∧ t.sec.bootHeld = false)
  ∧ ((∀ s : Machine.State, s.pwr.phase ≠ .off → s.pwr.failSeq = none → ∃ t, exec .modResetLAssert s = .next t
      ∧ t.pwr.phase = .standby ∧ t.pwr.resetLow = true ∧ t.sid = { now := s.sid.now } ∧ (∀ a, t.w.reg a = regReset a) ∧ t.w.counters = []
      ∧ t.w.parts = [] ∧ t.w.cores = [] ∧ Output.uzoLight false ∈ t.w.out
      ∧ t.sec.xmss = s.sec.xmss ∧ t.sec.owner = s.sec.owner ∧ t.sec.rollbackFloor = s.sec.rollbackFloor ∧ t.sec.flash = s.sec.flash)
    ∧ ∀ (s : Machine.State) (cs : List Nat), s.pwr.phase ≠ .off → s.pwr.failSeq = some cs →
      exec .modResetLAssert s = .next { s with pwr := { s.pwr with resetLow := true, resetHeld := true } })

/-- R639, R647: an SMBus block read of a command code below 80h answers the eight bytes of the PWR register at offset 8c, and changes nothing else; a block write changes
PWR_ALERT alone (code 3), clearing the ALERTS bits that are written 1, and any other code is not acknowledged. -/
def Obligations.SmbusReadsAndClearsAlerts : Prop :=
  ∀ s : Machine.State, s.pwr.phase ≠ .off →
    (∀ c : BitVec 8, c.toNat < 0x80 → exec (.smbusBlockRead c) s =
      .next { s with w := s.w.emit (.smbus (leBytes 8 (s.readReg false .pwr 0 (8 * c.toNat)).1.toNat)) })
    ∧ (∀ c : BitVec 8, 0x80 ≤ c.toNat → exec (.smbusBlockRead c) s = .next { s with w := s.w.emit .smbusNack })
    ∧ (∀ (c : BitVec 8) (v : BitVec 64), c ≠ 3 → exec (.smbusBlockWrite c v) s = .next { s with w := s.w.emit .smbusNack })
    ∧ ∀ v : BitVec 64, ∃ t, exec (.smbusBlockWrite 3 v) s = .next t ∧ s.restKept t
      ∧ ∀ i < 9, (t.w.reg (Block.pwr.addr 0 0x018)).getLsbD i =
        ((s.w.reg (Block.pwr.addr 0 0x018)).getLsbD i && !v.getLsbD i)

/-! ### Parcels of the Uzolo port (chapter 15) -/

/-- R545, R546, R548, R549, R574: what the port, when UP, answers to a request that it does not handle: BAD_PARCEL to a malformed one; PRIVILEGE to all
but four types while the module is unclaimed; AUTH to a tag that fails, counted; REPLAY to a SEQ that is not greater, counted; PRIVILEGE to a
Job without a key. Nothing else changes.
R543, R546, R567, R571: in TRAINING and in RECOVERY only STATUS (and in RECOVERY the RS parcels) is handled, all else is NOT_READY; with the MGC held
nothing but STATUS is answered; without partner light no parcel has an effect.
R546: a tagged Owner request that passes is handled, and its SEQ becomes the last of its privilege and partition: the same parcel sent again
is a replay. -/
def Obligations.RequestsAreRefusedByRule : Prop :=
  (∀ (s : Machine.State) (c : Instr) (type : Nat) (q : Parcel), parcelOf c = some (type, q) → type ≠ 0x40 → s.portOpen →
      let answers := fun (count : Option Nat) (status : Nat) => ∃ t, exec c s = .next t ∧ s.restKept t
        ∧ t.w = { s.w with out := s.w.out ++ [reply type q status 0 []], counters := t.w.counters }
        ∧ ∀ a ∈ count, AMap.get 0 t.w.counters (Block.uzo.addr 0 a) = AMap.get 0 s.w.counters (Block.uzo.addr 0 a) + 1
      let x := s.w.part q.partition.toNat
      (parcelOk type q = false → answers none stBadParcel)
      ∧ (parcelOk type q = true → s.sec.claimed = false → type ≠ 0x01 → type ≠ 0x02 → type ≠ 0x03 → type ≠ 0x72 → answers none stPrivilege)
      ∧ (parcelOk type q = true → s.sec.claimed = true → parcelTagged q = true → q.privilege = 1 →
          (tagOk s.sec.bootId type q s.sec.ownerKey = false → answers (some 0x090) stAuth)
          ∧ (tagOk s.sec.bootId type q s.sec.ownerKey = true → ∀ n, x.seqOwner = some n → q.seq.toNat ≤ n → answers (some 0x098) stReplay))
      ∧ (parcelOk type q = true → s.sec.claimed = true → parcelTagged q = true → q.privilege = 2 → x.jobKey = none → answers none stPrivilege))
  ∧ (∀ (s : Machine.State) (c : Instr) (type : Nat) (q : Parcel), parcelOf c = some (type, q) → type ≠ 0x01 → type ≠ 0x40 →
      (s.linkLive = true → s.sec.mgcHeld = false → (s.sec.recovery = true ∨ s.w.uzo.training = true) →
        type ≠ 0x60 → type ≠ 0x61 → type ≠ 0x62 →
        ∃ t, exec c s = .next t ∧ s.restKept t
          ∧ t.w = { s.w with out := s.w.out ++ [reply type q stNotReady 0 []], counters := t.w.counters })
      ∧ (s.linkLive = true → s.sec.mgcHeld = true → ∃ t, exec c s = .next t ∧ t.w = { s.w with counters := t.w.counters } ∧ s.restKept t)
      ∧ (s.w.uzo.light = false → exec c s = .next s))
  ∧ (∀ (s : Machine.State) (type : Nat) (q : Parcel), s.portOpen → parcelOk type q = true → s.sec.claimed = true → parcelTagged q = true →
      q.privilege = 1 → tagOk s.sec.bootId type q s.sec.ownerKey = true → (∀ n, (s.w.part q.partition.toNat).seqOwner = some n → n < q.seq.toNat) →
      s.verdict type q = .allow none true ∧ (s.heard q true).verdict type q = .refuse stReplay)

/-- R43, R548: STATUS answers the port's and the power state, CLAIMED and RECOVERY, FW_VERSION and SEC_BOOT_ID; CAP_QUERY answers the partition's
capability record. -/
def Obligations.StatusAndCapabilityAreAnswered : Prop :=
  ∀ (s : Machine.State) (q : Parcel) (job : Option Nat) (seq : Bool),
    (s.hears 0x01 q job seq → ∃ t, exec (.status q) s = .next t ∧ s.restKept t ∧ s.w.memoriesKept t.w
      ∧ t.w.out = s.w.out ++ [reply 0x01 q 0 0 (leBytes 1 (fieldOf s.uzoStatus 0 3) ++ leBytes 1 s.powerState
          ++ leBytes 1 ((if s.sec.claimed then 1 else 0) + (if s.sec.recovery then 2 else 0)) ++ leBytes 1 0
          ++ leBytes 4 s.sec.fwVersion.toNat ++ leBytes 8 s.sec.bootId.toNat)])
    ∧ (s.hears 0x02 q job seq → (s.w.part q.partition.toNat).record.length ≤ 8192 →
      ∃ t, exec (.capQuery q) s = .next t ∧ s.restKept t ∧ s.w.memoriesKept t.w
        ∧ t.w.out = s.w.out ++ [reply 0x02 q 0 0 (s.w.part q.partition.toNat).record])

/-- R550, R551: LOAD_BEGIN opens the session of an empty partition, and is answered REJECT with BUSY in any other job state; LOAD_DATA at the next offset adds
its bytes, and at another ends the session with RANGE.
R38, R40, R41, R550: LOAD_END applies the load checks: a bundle that none refuses is loaded, with OK; one that is refused leaves the partition
empty, with REJECT, the reason in DETAIL, the section offset and RECORD_OFFSET in the payload, and BUNDLE_REJECT raised. A load that takes too long is
abandoned and reports BUSY. -/
def Obligations.LoadSessionsLoadOrReject : Prop :=
  (∀ (s : Machine.State) (q : Parcel) (job : Option Nat) (seq : Bool),
      let p := q.partition.toNat
      (s.hears 0x10 q job seq →
        ((s.w.part p).job = .empty → (s.w.part p).session = none → ∃ t, exec (.loadBegin q) s = .next t ∧ s.restKept t ∧ s.w.memoriesKept t.w
          ∧ (t.w.part p).session = some { late := false, total := leAt q.payload 0 8, bytes := [] } ∧ (t.w.part p).job = .empty
          ∧ t.w.out = s.w.out ++ [reply 0x10 q stOk 0 []])
        ∧ ((s.w.part p).job ≠ .empty → ∃ t, exec (.loadBegin q) s = .next t ∧ (t.w.part p).session = (s.w.part p).session
          ∧ t.w.out = s.w.out ++ [reply 0x10 q stReject 4 []]))
      ∧ (s.hears 0x11 q job seq → ∀ x, (s.w.part p).session = some x → x.late = false →
        (leAt q.payload 0 8 = x.bytes.length → x.bytes.length + (q.payload.length - 8) ≤ x.total →
          ∃ t, exec (.loadData q) s = .next t ∧ s.restKept t ∧ s.w.memoriesKept t.w
            ∧ (t.w.part p).session = some { x with bytes := x.bytes ++ q.payload.drop 8 } ∧ t.w.out = s.w.out ++ [reply 0x11 q stOk 0 []])
        ∧ (leAt q.payload 0 8 ≠ x.bytes.length → ∃ t, exec (.loadData q) s = .next t ∧ (t.w.part p).session = none
            ∧ t.w.out = s.w.out ++ [reply 0x11 q stRange 0 []])))
  ∧ ((∀ (s : Machine.State) (q : Parcel) (job : Option Nat) (seq : Bool) (x : LoadSession), s.hears 0x12 q job seq →
      (s.w.part q.partition.toNat).session = some x → x.late = false → s.w.config.partition ≤ 7 → (s.w.part q.partition.toNat).job = .empty →
      let p := q.partition.toNat
      (bundleRefusal (s.w.loadEnv p) false x.bytes = none → ∃ t, exec (.loadEnd q) s = .next t ∧ s.restKept t
        ∧ (t.w.part p).job = .loaded ∧ (t.w.part p).bundle = some (bundleOf (x.bytes.take (leAt x.bytes 0x10 8))) ∧ (t.w.part p).session = none
        ∧ t.w.out = s.w.out ++ [reply 0x12 q stOk 0 (List.replicate 16 0)])
      ∧ ∀ r, bundleRefusal (s.w.loadEnv p) false x.bytes = some r → s.w.forwards 2 → ∃ t, exec (.loadEnd q) s = .next t ∧ s.restKept t
        ∧ (t.w.part p).job = .empty ∧ (t.w.part p).session = none ∧ s.w.memoriesKept t.w
        ∧ s.w.raised t.w (ioSource 7) 0x101 (r.1 + refusedRecordOffset x.bytes r % 2 ^ 16 * 2 ^ 8)
        ∧ t.w.out = s.w.out ++ [reply 0x12 q stReject r.1 (leBytes 8 r.2 ++ leBytes 2 (refusedRecordOffset x.bytes r) ++ List.replicate 6 0)])
    ∧ ∀ (s : Machine.State) (p : PartId) (x : LoadSession), s.inService = true → (s.w.part p.val).session = some x → x.late = false → s.w.forwards 2 →
      ∃ t, exec (.loadTimeout p) s = .next t ∧ s.restKept t ∧ (t.w.part p.val).session = some { x with late := true, bytes := [] }
        ∧ s.w.raised t.w (ioSource 7) 0x101 4 ∧ s.w.memoriesKept t.w)

/-- R30, R221, R551: START runs a loaded job with its JOB_SEED; STOP at once stops a running one and answers the step last switched; STOP AT_BOUNDARY leaves it
running to its next boundary; UNLOAD empties a loaded or stopped partition and closes its windows; in any other job state each is answered STATE.
R489, R551: RESTORE of partition 0's stopped job from a named cask of the external store begins the restore, clears every table's STATE and leaves
its answer for when the restore ends; in any other job state it is answered STATE, and a SOURCE above 1 RANGE. -/
def Obligations.JobStatesFollowRequests : Prop :=
  (∀ (s : Machine.State) (q : Parcel) (job : Option Nat) (seq : Bool),
      let p := q.partition.toNat
      let x := s.w.part p
      (s.hears 0x14 q job seq →
        (x.job = .loaded → ∃ t, exec (.start q) s = .next t ∧ t.pwr = s.pwr ∧ t.sec = s.sec ∧ (t.w.part p).job = .running
          ∧ (t.w.part p).jobSeed = BitVec.ofNat 64 (leAt q.payload 0 8) ∧ (t.w.part p).due ≠ none
          ∧ t.w.out.getLast? = some (reply 0x14 q stOk 0 []))
        ∧ (x.job ≠ .loaded → ∃ t, exec (.start q) s = .next t ∧ s.restKept t ∧ (t.w.part p).job = x.job ∧ s.w.memoriesKept t.w
          ∧ t.w.out = s.w.out ++ [reply 0x14 q stState 0 []]))
      ∧ (s.hears 0x15 q job seq →
        (x.job = .running → leAt q.payload 0 1 = 0 → ∃ t, exec (.stop q) s = .next t ∧ s.restKept t ∧ (t.w.part p).job = .stopped
          ∧ (t.w.part p).step = x.step ∧ s.w.memoriesKept t.w ∧ t.w.out.getLast? = some (reply 0x15 q stOk 0 (leBytes 8 (x.lastSwitched.getD allOnes64))))
        ∧ (x.job = .running → leAt q.payload 0 1 = 1 → ∃ t, exec (.stop q) s = .next t ∧ s.restKept t ∧ (t.w.part p).job = .running
          ∧ (t.w.part p).stopAtBoundary = true ∧ t.w.out = s.w.out ++ [reply 0x15 q stOk 0 (leBytes 8 (x.lastSwitched.getD allOnes64))])
        ∧ (x.job ≠ .running → ∃ t, exec (.stop q) s = .next t ∧ s.restKept t ∧ (t.w.part p).job = x.job ∧ t.w.out = s.w.out ++ [reply 0x15 q stState 0 []]))
      ∧ (s.hears 0x13 q job seq →
        (x.job = .loaded ∨ x.job = .stopped → ∃ t, exec (.unload q) s = .next t ∧ s.restKept t ∧ (t.w.part p).job = .empty ∧ (t.w.part p).bundle = none
          ∧ s.w.memoriesKept t.w ∧ (∀ e ∈ t.w.uzo.windows, e.2.part ≠ p) ∧ t.w.out = s.w.out ++ [reply 0x13 q stOk 0 []])
        ∧ (x.job = .empty ∨ x.job = .running → ∃ t, exec (.unload q) s = .next t ∧ s.restKept t ∧ (t.w.part p).job = x.job
          ∧ t.w.out = s.w.out ++ [reply 0x13 q stState 0 []])))
  ∧ (∀ (s : Machine.State) (q : Parcel) (seq : Bool), s.hears 0x16 q none seq →
      (q.partition = 0 → (s.w.part 0).job = .stopped → leAt q.payload 8 1 = 1 → s.w.uzo.restoreWait = none → s.w.canSend = true →
        ∃ t f, exec (.restore q) s = .next t ∧ s.restKept t ∧ t.w.cask.fetching = some f ∧ f.step = leAt q.payload 0 8 ∧ f.fromStore = true
          ∧ t.w.uzo.restoreWait = some (none, q) ∧ ∀ e ∈ (t.w.part 0).dir, e.current = false ∧ e.version = 0)
      ∧ ((s.w.part 0).job ≠ .stopped → ∃ t, exec (.restore q) s = .next t ∧ s.restKept t ∧ t.w.cask = s.w.cask
        ∧ t.w.out = s.w.out ++ [reply 0x16 q stState 0 []])
      ∧ (q.partition = 0 → (s.w.part 0).job = .stopped → 1 < leAt q.payload 8 1 → ∃ t, exec (.restore q) s = .next t ∧ s.restKept t ∧ t.w.cask = s.w.cask
        ∧ t.w.out = s.w.out ++ [reply 0x16 q stRange 0 []]))

/-- R5, R8, R548, R576: REG_READ of this module's register answers its value, and REG_WRITE writes it; an access of another position needs Owner
privilege and waits for that position's answer; a Job is refused what its privilege does not allow; an address that names no register or another
space is out of range. REGISTER_WRITE is the Owner's write (assumption 104).
R6, R8, R9, R11: what a write leaves in a register whose write does nothing more than store: an RW field takes the value, an RWL field does not once
the module is ready, a W1C field loses the bits written 1, RO, RC and WO fields keep theirs, and bits that no field covers are 0. -/
def Obligations.RegisterAccessesFollowAccessCodes : Prop :=
  (∀ (s : Machine.State) (q : Parcel) (job : Option Nat) (seq : Bool) (b : Block) (i off : Nat),
      let a := leAt q.payload 0 8
      let h := s.heard q seq
      locate (addrOffset a) = some (b, i, off) → addrSpace a = 3 →
      (s.hears 0x20 q job seq → addrPosition a = s.w.ownPosition →
        (s.w.mayRead job b i off = true → ∃ t, exec (.regRead q) s = .next t ∧ s.restKept t ∧ s.w.memoriesKept t.w ∧ t.w.regs = s.w.regs
          ∧ t.w.out = s.w.out ++ [reply 0x20 q stOk 0 (leBytes 8 (h.readReg job.isSome b i off).1.toNat)])
        ∧ (s.w.mayRead job b i off = false → ∃ t, exec (.regRead q) s = .next t ∧ s.restKept t ∧ t.w.regs = s.w.regs
          ∧ t.w.out = s.w.out ++ [reply 0x20 q stPrivilege 0 []]))
      ∧ (s.hears 0x21 q job seq → addrPosition a = s.w.ownPosition →
        (s.w.mayWrite job b i off = true → ∃ t, exec (.regWrite q) s = .next t ∧ t.pwr = s.pwr ∧ t.sid = s.sid
          ∧ (let u := h.writeReg true job.isNone b i off (BitVec.ofNat 64 (leAt q.payload 8 8))
             t.sec = u.sec ∧ t.w.regs = u.w.regs ∧ t.w.out = u.w.out ++ [reply 0x21 q stOk 0 []]))
        ∧ (s.w.mayWrite job b i off = false → ∃ t, exec (.regWrite q) s = .next t ∧ s.restKept t ∧ t.w.regs = s.w.regs
          ∧ t.w.out = s.w.out ++ [reply 0x21 q stPrivilege 0 []]))
      ∧ (s.hears 0x21 q none seq → addrPosition a ≠ s.w.ownPosition → b ≠ .sec → s.w.physicalOf (addrPosition a) ≠ none → s.w.canSend = false →
        ∃ t, exec (.regWrite q) s = .next t ∧ s.restKept t ∧ t.w.out = s.w.out ∧ ∃ x, t.w.uzo.regWaits = s.w.uzo.regWaits ++ [x] ∧ x.request = q ∧ x.write = true)
      ∧ (∀ v : BitVec 64, s.inService = true → s.w.mayWrite none b i off = true →
        exec (.registerWrite (addrOffset a) v) s = .next (s.writeReg true true b i off v)))
  ∧ (∀ (w : World) (b : Block) (i off : Nat) (r : RegDef) (v : Word) (ready : Bool), b.regAt off = some r →
      let old := w.reg (b.addr i off)
      let new := (w.storeReg ready b i off v).reg (b.addr i off)
      ∀ k < 64,
        ((∀ f ∈ r.fields, f.mask.getLsbD k = false) → new.getLsbD k = false)
        ∧ ∀ f ∈ r.fields, f.mask.getLsbD k = true → (∀ g ∈ r.fields, g.mask.getLsbD k = true → g = f) →
          new.getLsbD k = match f.access with
            | .rw => v.getLsbD k
            | .rwl => if ready then old.getLsbD k else v.getLsbD k
            | .w1c => old.getLsbD k && !v.getLsbD k
            | .ro | .rc | .wo => old.getLsbD k)

/-- R552, R577: DMA_OPEN opens a window inside its partition's HBM, at multiples of 256, and DMA_CLOSE closes it; a window that leaves HBM_CAPACITY is RANGE.
R552, R553, R577: DMA_READ answers the bytes of the window's range; DMA_WRITE writes them, and no other byte of HBM, unless the range lies in the
current version of a table while the partition's job runs, which is RACE_REFUSED; access that the window does not allow is PRIVILEGE and a range that leaves
it RANGE. -/
def Obligations.DmaWindowsMoveBytesInside : Prop :=
  (∀ (s : Machine.State) (q : Parcel) (seq : Bool),
      let k := leAt q.payload 0 1
      let off := leAt q.payload 8 8
      let len := leAt q.payload 16 8
      (s.hears 0x30 q none seq → k < 16 → off % 256 = 0 → len % 256 = 0 →
        (off + len ≤ s.w.hbmCapacity q.partition.toNat → ∃ t, exec (.dmaOpen q) s = .next t ∧ s.restKept t ∧ s.w.memoriesKept t.w
          ∧ t.w.window k = { open_ := true, part := q.partition.toNat, read := bitAt (leAt q.payload 1 1) 0, write := bitAt (leAt q.payload 1 1) 1
                             job := bitAt (leAt q.payload 2 1) 0, offset := off, length := len }
          ∧ (∀ j, j ≠ k → t.w.window j = s.w.window j) ∧ t.w.out = s.w.out ++ [reply 0x30 q stOk 0 []])
        ∧ (s.w.hbmCapacity q.partition.toNat < off + len → ∃ t, exec (.dmaOpen q) s = .next t ∧ s.restKept t ∧ t.w.uzo = s.w.uzo
          ∧ t.w.out = s.w.out ++ [reply 0x30 q stRange 0 []]))
      ∧ (s.hears 0x31 q none seq → k < 16 → (s.w.window k).open_ = true → ∃ t, exec (.dmaClose q) s = .next t ∧ s.restKept t ∧ s.w.memoriesKept t.w
        ∧ (t.w.window k).open_ = false ∧ (∀ j, j ≠ k → t.w.window j = s.w.window j) ∧ t.w.out = s.w.out ++ [reply 0x31 q stOk 0 []]))
  ∧ (∀ (s : Machine.State) (q : Parcel) (job : Option Nat) (seq : Bool),
      let k := leAt q.payload 0 1
      let x := s.w.window k
      let n := leAt q.payload 4 4
      let a := x.offset + leAt q.payload 8 8
      let bs := q.payload.drop 16
      k < 16 → x.open_ = true →
      (s.hears 0x32 q job seq →
        (x.usable job = true → x.read = true → n ≤ 8192 → leAt q.payload 8 8 + n ≤ x.length → ∃ t, exec (.dmaRead q) s = .next t ∧ s.restKept t
          ∧ s.w.memoriesKept t.w ∧ t.w.out = s.w.out ++ [reply 0x32 q stOk 0 (s.w.hbmRead x.part a n)])
        ∧ (x.read = false → ∃ t, exec (.dmaRead q) s = .next t ∧ s.restKept t ∧ s.w.memoriesKept t.w ∧ t.w.out = s.w.out ++ [reply 0x32 q stPrivilege 0 []]))
      ∧ (s.hears 0x33 q job seq → x.usable job = true → x.write = true →
        (leAt q.payload 8 8 + bs.length ≤ x.length → bs.length ≤ 8192 → (s.w.part x.part).dir = [] → (s.w.part x.part).good.Nodup →
          a + bs.length ≤ s.w.hbmCapacity x.part → (∀ e ∈ s.w.cores, e.2.axe.guards = []) →
          ∃ t, exec (.dmaWrite q) s = .next t ∧ s.restKept t ∧ t.w.tun = s.w.tun ∧ t.w.cstore = s.w.cstore
            ∧ (∀ i < bs.length, t.w.hbm.byte (hbmKey (s.w.part x.part).good (a + i)) = bs.getD i 0)
            ∧ (∀ key, (∀ i < bs.length, key ≠ hbmKey (s.w.part x.part).good (a + i)) → t.w.hbm.byte key = s.w.hbm.byte key)
            ∧ t.w.out = s.w.out ++ [reply 0x33 q stOk 0 []])
        ∧ (leAt q.payload 8 8 + bs.length ≤ x.length → bs.length ≤ 8192 → s.w.jobRuns x.part = true → (s.w.currentHit x.part a bs.length).isSome = true →
          ∃ t, exec (.dmaWrite q) s = .next t ∧ s.restKept t ∧ s.w.memoriesKept t.w ∧ t.w.out = s.w.out ++ [reply 0x33 q stRaceRefused 0 []])
        ∧ (x.length < leAt q.payload 8 8 + bs.length → ∃ t, exec (.dmaWrite q) s = .next t ∧ s.restKept t ∧ s.w.memoriesKept t.w
            ∧ t.w.out = s.w.out ++ [reply 0x33 q stRange 0 []])))

/-- R554: RING_CFG sets up an empty ring in a window that allows read and write; a DOORBELL whose tail lies more than ENTRIES beyond the head is ignored and
counted; one that names the head handles no slot and is answered by a node-ward DOORBELL with the new head.
R444, R542, R543, R548, R555: the heartbeat sends the first of the queued event records in the order of stamp, module key and source, at most 8,192 bytes of them,
and keeps the rest; partner light makes the port DOWN or trains it; a retraining loses no parcel: the frame
that failed 16 times and those sent but not acknowledged are sent again and counted; a TYPE that names no request is BAD_PARCEL. -/
def Obligations.RingsEventsAndLinkOfThePort : Prop :=
  (∀ (s : Machine.State) (q : Parcel) (job : Option Nat) (seq : Bool),
      let r := leAt q.payload 0 1
      let k := leAt q.payload 1 1
      let n := leAt q.payload 4 4
      let off := leAt q.payload 8 8
      (s.hears 0x34 q none seq → k < 16 → (s.w.window k).open_ = true → (s.w.window k).read = true → (s.w.window k).write = true →
        (∃ e ≤ 12, n = 2 ^ e) → off + n * 32768 ≤ (s.w.window k).length →
        ∃ t, exec (.ringCfg q) s = .next t ∧ s.restKept t ∧ s.w.memoriesKept t.w
          ∧ t.w.ring r = { configured := true, window := k, entries := n, offset := off, head := 0 }
          ∧ (∀ j, j ≠ r → t.w.ring j = s.w.ring j) ∧ t.w.out = s.w.out ++ [reply 0x34 q stOk 0 []])
      ∧ (s.hears 0x40 q job seq → (s.w.ring r).configured = true → (s.w.window (s.w.ring r).window).open_ = true →
        (s.w.window (s.w.ring r).window).usable job = true →
        ((s.w.ring r).entries < (n + 2 ^ 32 - (s.w.ring r).head) % 2 ^ 32 → ∃ t, exec (.doorbell q) s = .next t ∧ s.restKept t ∧ t.w.out = s.w.out ∧ t.w.uzo = s.w.uzo
          ∧ AMap.get 0 t.w.counters (Block.uzo.addr 0 0x0B8) = AMap.get 0 s.w.counters (Block.uzo.addr 0 0x0B8) + 1)
        ∧ ((s.w.ring r).head = n → n < 2 ^ 32 → ∃ t, exec (.doorbell q) s = .next t ∧ s.restKept t ∧ s.w.memoriesKept t.w
          ∧ (t.w.ring r).head = n ∧ t.w.out = s.w.out ++ [.parcel 0x40 0 0 q.partition 0 0 (leBytes 4 r ++ leBytes 4 n)])))
  ∧ (∀ s : Machine.State,
      (s.portOpen → s.sec.mgcRunning = true → s.w.uzo.lost = 0 → ∃ t sent, exec .eventsHeartbeat s = .next t ∧ s.restKept t ∧ s.w.memoriesKept t.w
        ∧ t.w.out = s.w.out ++ [.parcel 0x50 0 0 0 0 0 sent.flatten]
        ∧ (sent ++ t.w.uzo.events).Perm s.w.uzo.events ∧ sent.length = min 256 s.w.uzo.events.length
        ∧ (sent ++ t.w.uzo.events).Pairwise fun a b => eventKey a ≤ eventKey b)
      ∧ (∀ (light : Bool) (lanes : Nat), ∃ t, exec (.uzoPartnerLightChange light lanes) s = .next t ∧ s.restKept t
        ∧ t.w = { s.w with uzo := { s.w.uzo with light := light, lanes := if light then min lanes 2 else 0, training := t.w.uzo.training } }
        ∧ (light = false → fieldOf t.uzoStatus 0 3 = 0) ∧ (light = true → lanes = 0 → fieldOf t.uzoStatus 0 3 = 1))
      ∧ (s.linkLive = true → ∃ t, exec .uzoRetrain s = .next t ∧ s.restKept t
        ∧ t.w = { s.w with counters := t.w.counters }
        ∧ t.w.counter .uzo 0 0x0B0 = s.w.counter .uzo 0 0x0B0 + BitVec.ofNat 64 (15 + s.w.uzoResent) ∧ s.w.uzoResent ≤ 1024)
      ∧ ∀ (type : BitVec 16) (q : Parcel), s.portOpen → (∀ n, lengthOk type.toNat n = false) → ∃ t, exec (.unknownTypeParcel type q) s = .next t ∧ s.restKept t
        ∧ t.w = { s.w with out := s.w.out ++ [reply type.toNat q stBadParcel 0 []], counters := t.w.counters })

/-- R550, R556, R559: RS_BEGIN opens the one session, and for region 0 clears FW_VALID first; RS_DATA writes the next bytes into the region and no other byte of
the store; RS_END commits the region's length and digest, or answers VERIFY with the cause for an image that fails; a write without replacement blocks leaves
the store unchanged.
R530, R547, R564, R574: KEY installs an association key; JOB_KEY gives a partition its Job key; CLAIM writes the Owner record of an unclaimed module; RELEASE
clears it and stops every job; FLOOR raises the rollback floor, never above the running image and never down. -/
def Obligations.RecipeStoreAndKeysAreRecorded : Prop :=
  (∀ (s : Machine.State) (q : Parcel) (seq : Bool),
      (s.hears 0x60 q none seq → s.w.uzo.rs = none → leAt q.payload 0 1 ≤ 2 → leAt q.payload 8 8 ≤ regionSize (leAt q.payload 0 1) →
        leAt s.sec.manifest 8 8 + 1 < 2 ^ 64 →
        ∃ t, exec (.rsBegin q) s = .next t ∧ t.pwr = s.pwr ∧ t.sid = s.sid
          ∧ t.w.uzo.rs = some { region := leAt q.payload 0 1, length := leAt q.payload 8 8, received := 0 }
          ∧ (leAt q.payload 0 1 ≠ 0 → t.sec = s.sec) ∧ (leAt q.payload 0 1 = 0 → bitAt (leAt t.sec.manifest 6 2) 0 = false)
          ∧ t.w.out = s.w.out ++ [reply 0x60 q stOk 0 []])
      ∧ (∀ x, s.hears 0x61 q none seq → s.w.uzo.rs = some x → leAt q.payload 0 8 = x.received → x.received + (q.payload.length - 8) ≤ x.length →
        (∃ t, exec (.rsData q false) s = .next t ∧ t.pwr = s.pwr ∧ t.sid = s.sid
          ∧ (∀ i < q.payload.length - 8, t.sec.flash.byte (regionBase x.region + x.received + i) = q.payload.getD (8 + i) 0)
          ∧ (∀ j, (j < regionBase x.region + x.received ∨ regionBase x.region + x.received + (q.payload.length - 8) ≤ j) →
              t.sec.flash.byte j = s.sec.flash.byte j)
          ∧ t.w.uzo.rs = some { x with received := x.received + (q.payload.length - 8) } ∧ t.w.out = s.w.out ++ [reply 0x61 q stOk 0 []])
        ∧ ∃ t, exec (.rsData q true) s = .next t ∧ t.sec = { s.sec with sparesOut := true } ∧ t.w.out = s.w.out ++ [reply 0x61 q stRange 0 []])
      ∧ ∀ (boot : BootIn) (x : RsSession), s.hears 0x62 q none seq → s.w.uzo.rs = some x → s.sec.recovery = false →
        let bs := s.sec.flash.read (regionBase x.region) x.length
        (x.region ≠ 0 → ∃ t, exec (.rsEnd q boot) s = .next t ∧ t.pwr = s.pwr ∧ t.sid = s.sid ∧ t.w.uzo.rs = none
          ∧ t.sec = s.sec.commitRegion x.region x.length (shake256 bs) ∧ t.w.out = s.w.out ++ [reply 0x62 q stOk 0 []])
        ∧ (∀ cause, x.region = 0 → imageCause (shake256 bs) s.sec.rollbackFloor.body bs x.length = some cause → ∃ t, exec (.rsEnd q boot) s = .next t ∧ s.restKept t
          ∧ t.w.uzo.rs = none ∧ t.w.out = s.w.out ++ [reply 0x62 q stVerify cause []]))
  ∧ (∀ (s : Machine.State) (q : Parcel) (seq : Bool),
      (s.hears 0x70 q none seq → leAt q.payload 0 1 < 4 → leAt q.payload 1 1 < 2 → leAt q.payload 2 1 < 4 → ∃ t, exec (.key q) s = .next t ∧ s.restKept t
        ∧ (∃ k ∈ t.w.eth.keys, k.port = leAt q.payload 0 1 ∧ k.receive = decide (leAt q.payload 1 1 = 1) ∧ k.an = leAt q.payload 2 1 ∧ k.sak = slice q.payload 32 32)
        ∧ t.w.out = s.w.out ++ [reply 0x70 q stOk 0 []])
      ∧ (s.hears 0x71 q none seq → ∃ t, exec (.jobKey q) s = .next t ∧ s.restKept t
        ∧ (t.w.part q.partition.toNat).jobKey = some (slice q.payload 0 32) ∧ t.w.out = s.w.out ++ [reply 0x71 q stOk 0 []])
      ∧ (s.hears 0x72 q none seq → s.sec.claimed = false → ∃ t, exec (.claim q) s = .next t ∧ t.sec.claimed = true ∧ t.sec.ownerKey = slice q.payload 0 32
        ∧ t.sec = { s.sec with owner := t.sec.owner } ∧ t.w.out = s.w.out ++ [reply 0x72 q stOk 0 []])
      ∧ (s.hears 0x73 q none seq → ∃ t, exec (.release q) s = .next t ∧ t.sec.claimed = false ∧ t.sec.ownerKey = List.replicate 32 0
        ∧ t.sec = { s.sec with owner := t.sec.owner } ∧ (∀ p < 4, (t.w.part p).job ≠ .running) ∧ s.w.memoriesKept t.w
        ∧ t.w.out.getLast? = some (reply 0x73 q stOk 0 []))
      ∧ (s.hears 0x74 q none seq →
        (s.sec.floor ≤ leAt q.payload 0 1 → leAt q.payload 0 1 ≤ bitsAt s.sec.fwVersion.toNat 24 8 → ∃ t, exec (.floor q) s = .next t
          ∧ t.sec.floor = leAt q.payload 0 1 ∧ t.sec = { s.sec with rollbackFloor := t.sec.rollbackFloor } ∧ t.w.out = s.w.out ++ [reply 0x74 q stOk 0 []])
        ∧ (bitsAt s.sec.fwVersion.toNat 24 8 < leAt q.payload 0 1 ∨ leAt q.payload 0 1 < s.sec.floor → ∃ t, exec (.floor q) s = .next t ∧ t.sec = s.sec
          ∧ t.w.out = s.w.out ++ [reply 0x74 q stRange 0 []])))

/-- R570 to R573: an ATTEST waits in the signer's queue with the report that was formed; it is NOT_READY within 10 s of boot step 1, EXHAUSTED when no index remains and BUSY
when the queue is full.
R570, R571, R572, R573: the signer uses NEXT_INDEX once, against a credit: inside a reserved block it signs with that index; at its end it first commits RESERVED_END + 1,024 and
raises XMSS_RESERVE, unless every index is used or power-fail detection has begun; the report is answered in parcels of 8,192 bytes, MORE on all but the last. -/
def Obligations.SignerAnswersAttestation : Prop :=
  (∀ (s : Machine.State) (q : Parcel) (job : Option Nat) (seq : Bool), s.hears 0x03 q job seq →
      (10000000000 ≤ s.sec.timer → s.sec.exhausted = false → s.sec.signQueue.length < 64 → ∃ t, exec (.attest q) s = .next t
        ∧ t.sec = { s.sec with signQueue := s.sec.signQueue ++ [.attest (s.reportBody q.partition.toNat q.payload) none q] }
        ∧ t.pwr = s.pwr ∧ t.sid = s.sid ∧ s.w.memoriesKept t.w ∧ t.w.out = s.w.out)
      ∧ (s.sec.timer < 10000000000 → ∃ t, exec (.attest q) s = .next t ∧ t.sec = s.sec ∧ t.w.out = s.w.out ++ [reply 0x03 q stNotReady 0 []])
      ∧ (10000000000 ≤ s.sec.timer → s.sec.exhausted = true → ∃ t, exec (.attest q) s = .next t ∧ t.sec = s.sec ∧ t.w.out = s.w.out ++ [reply 0x03 q stExhausted 0 []]))
  ∧ (∀ (s : Machine.State) (report : List Byte) (q : Parcel) (rest : List SignReq), s.pwr.phase ≠ .off → 10000000000 ≤ s.sec.timer → s.sec.credits ≠ 0 →
      s.sec.signQueue = .attest report none q :: rest →
      let ps := parcelPayloads (report ++ Config.identitySign s.sec.nextIndex report)
      let parts := ps.zipIdx.map fun c => Output.parcel 0x03 (if c.2 + 1 < ps.length then 5 else 1) q.tag q.partition 0 0 c.1
      (s.sec.nextIndex ≠ s.sec.reservedEnd → ∃ t, exec .signatureRequest s = .next t
        ∧ t.sec = { s.sec with nextIndex := s.sec.nextIndex + 1, credits := s.sec.credits - 1, signQueue := rest } ∧ t.w.out = s.w.out ++ parts
        ∧ t.pwr = s.pwr ∧ t.sid = s.sid ∧ s.w.memoriesKept t.w)
      ∧ (s.sec.nextIndex = s.sec.reservedEnd → s.sec.reservedEnd < 2 ^ 40 → s.pwr.failSeq = none → s.w.forwards 0 → ∃ t, exec .signatureRequest s = .next t
        ∧ t.sec.reservedEnd = s.sec.reservedEnd + 1024 ∧ t.sec.nextIndex = s.sec.nextIndex + 1 ∧ t.sec.credits = s.sec.credits - 1
        ∧ s.w.raised t.w secSource 0x162 ((s.sec.reservedEnd + 1024) / 2 ^ 10) ∧ t.w.out = s.w.out ++ parts)
      ∧ (s.sec.nextIndex = s.sec.reservedEnd → s.pwr.failSeq ≠ none → s.sec.reservedEnd < 2 ^ 40 → ∃ t, exec .signatureRequest s = .next t
        ∧ t.sec = { s.sec with signQueue := rest } ∧ t.w.out = s.w.out))

/-- R567, R584: a KICK restarts the watchdog period; a period that passes without one restarts the MGC, raises MGC_RESTART with the expiries of the last 600 s and loses the requests in
progress; the third expiry within 600 s holds the MGC in reset and UZO_STATUS reads HELD. Jobs keep running. -/
def Obligations.WatchdogRestartsOrHolds : Prop :=
  ∀ s : Machine.State, s.pwr.phase ≠ .off → s.sec.mgcRunning = true → s.sec.mgcHeld = false →
    exec .kick s = .next { s with sec := { s.sec with lastKick := s.sec.timer } }
    ∧ (s.sec.lastKick + max 100 (s.w.regField (Block.mgc.addr 0 0x000) 0 16) * 1000000 ≤ s.sec.timer → s.w.forwards 2 → ∃ t, exec .mgcWatchdogExpiry s = .next t
      ∧ s.w.raised t.w (ioSource 7) 0x161 ((s.sec.recentExpiries + 1) % 256) ∧ t.sec.lastKick = s.sec.timer
      ∧ (t.sec.mgcHeld = true ↔ 2 ≤ s.sec.recentExpiries) ∧ t.w.uzo.regWaits = [] ∧ (∀ r ∈ t.sec.signQueue, isAttest r = false)
      ∧ (∀ p, (t.w.part p).job = (s.w.part p).job) ∧ t.w.cores = s.w.cores ∧ s.w.memoriesKept t.w ∧ t.sid = s.sid
      ∧ (t.sec.mgcHeld = true → s.w.uzo.light = true → s.w.uzo.training = false → fieldOf t.uzoStatus 0 3 = 4))

/-! ### Sequencers, dispatch, synchronisation (chapters 02, 10) -/

/-- R50, R54 to R59, R73: a command that does not wait takes its sequencer to the next program counter and counts: NOP; SETCC, which writes the program
condition bits that MASK selects; a BRANCH, to TARGET when its condition equals SENSE; a LOOP, into its body, or past it for a count of 0 from the work
slot; RAISE, with its event. Other cores, memories and queues stay.
R54: past a command at which no active loop ends, the program counter rises by 1; where one loop ends and has counts left, its counter rises by 1 and the
body begins again; where it has none left, the loop ends and frees its counter. -/
def Obligations.PlainCommandsAdvanceSequencer : Prop :=
  (∀ (s : Machine.State) (core : CoreId), s.inService = true → s.w.seqReady core.val = true →
      let c := core.val
      let x := s.w.core c
      (∃ t, exec (.nop core) s = .next t ∧ s.retired t c ∧ t.w.core c = x.advance ∧ t.w.out = s.w.out)
      ∧ (∀ mask value : BitVec 7, ∃ t, exec (.setcc core mask value) s = .next t ∧ s.retired t c
          ∧ t.w.core c = { x.advance with cc := (t.w.core c).cc }
          ∧ ∀ i < 16, (t.w.core c).cc.getLsbD i = if 8 ≤ i ∧ mask.getLsbD (i - 8) = true then value.getLsbD (i - 8) else x.cc.getLsbD i)
      ∧ (∀ (cond : Fin 16) (sense : Bool) (target : Fin 8192), ∃ t, exec (.branch core cond sense target) s = .next t ∧ s.retired t c
          ∧ (t.w.core c).cc = x.cc ∧ (t.w.core c).watches = x.watches
          ∧ (x.condition cond.val = sense → (t.w.core c).pc = target.val
            ∧ (t.w.core c).loops = x.loops.filter fun l => decide (l.2.start ≤ target.val) && decide (target.val ≤ l.2.endPc))
          ∧ (x.condition cond.val ≠ sense → (t.w.core c).pc = x.advance.pc ∧ (t.w.core c).loops = x.advance.loops))
      ∧ (∀ (k : Fin 8) (n : BitVec 24) (e : Fin 8192) (fromWork : Bool) (word : Fin 8),
        let count := if fromWork then (x.slot.getD word.val 0).toNat % 2 ^ 24 else n.toNat
        ∃ t, exec (.loop core k n e fromWork word) s = .next t ∧ s.retired t c
          ∧ (count ≠ 0 → (t.w.core c).pc = x.pc + 1 ∧ (t.w.core c).cc = x.cc
            ∧ AMap.get {} (t.w.core c).loops k.val = { value := 0, count := count, start := x.pc + 1, endPc := e.val, active := true })
          ∧ (count = 0 → t.w.core c = { x with pc := e.val }.advance))
      ∧ ∀ (code : BitVec 8) (payload : BitVec 32), ∃ t, exec (.raise core code payload) s = .next t ∧ s.retired t c ∧ t.w.core c = x.advance
          ∧ s.w.saw t.w (eventSeverity code.toNat) (coreSource 0 c) code.toNat payload.toNat)
  ∧ (∀ x : Core,
      ((∀ l ∈ x.loops, ¬ (l.2.active = true ∧ l.2.endPc = x.pc)) → x.advance.pc = x.pc + 1 ∧ x.advance.loops = x.loops)
      ∧ ∀ (i : Nat) (l : LoopCtr), x.loops = [(i, l)] → l.active = true → l.endPc = x.pc →
        (l.value + 1 < l.count → x.advance.pc = l.start ∧ AMap.get {} x.advance.loops i = { l with value := l.value + 1 })
        ∧ (l.count ≤ l.value + 1 → x.advance.pc = x.pc + 1 ∧ AMap.get {} x.advance.loops i = {}))

/-- R58: SETCC writes program condition bits: the bits of MASK select PROG0 to PROG6, and the bits of VALUE give their new values; no other condition bit changes, and the sequencer goes to
its next command. Nothing else of the module changes but the count of commands and the mark of progress. -/
def Obligations.SetccWritesProgramBits : Prop :=
  ∀ (s : Machine.State) (core : CoreId) (mask value : BitVec 7), s.inService = true → s.w.seqReady core.val = true →
    let c := core.val
    let x := s.w.core c
    ∃ t, exec (.setcc core mask value) s = .next t ∧ s.onlyCore t c ∧ t.w.core c = { x.advance with cc := (t.w.core c).cc }
      ∧ (∀ i < 7, (t.w.core c).cc.getLsbD (8 + i) = if mask.getLsbD i = true then value.getLsbD i else x.cc.getLsbD (8 + i))
      ∧ (∀ i < 16, (i < 8 ∨ i = 15) → (t.w.core c).cc.getLsbD i = x.cc.getLsbD i)
      ∧ t.w.counter .seq c 0x068 = s.w.counter .seq c 0x068 + 1

/-- R52, R53: ISSUE hands an operation to its engine when that has room, with the value of the bound loop counter, the work slot and DONE_WATCH, and the sequencer goes
on; without room the sequencer holds in queue-full with the operation.
R60, R348, R355, R357: a command whose condition does not hold yet holds its sequencer in the wait state of R70 and keeps what it waits for: WAIT, with its watch
registered; FENCE; GET_WORK and END of a core that holds no item. A WAIT whose condition holds goes on. -/
def Obligations.IssueAndWaitingCommandsHold : Prop :=
  (∀ (s : Machine.State) (core : CoreId) (e : Engine) (desc : Fin 2048) (bind : Fin 8) (done : Option WatchId), s.inService = true →
      s.w.seqReady core.val = true →
      let c := core.val
      let k := clusterOfCore c
      let x := s.w.core c
      let o : IssuedOp := { serial := x.serial, core := c, desc := desc.val, bound := decide (bind.val ≠ 0)
                            index := if bind.val = 0 then 0 else (AMap.get {} x.loops (bind.val - 1)).value, done := done.map (·.val), words := x.slot }
      (s.w.engineRoom c e = true → ∃ t, exec (.issue core e desc bind done) s = .next t ∧ s.restKept t ∧ s.w.memoriesKept t.w
        ∧ (t.w.core c).pc = x.advance.pc ∧ (t.w.core c).live = x.live ++ [x.serial] ∧ (t.w.core c).serial = x.serial + 1
        ∧ (∀ d, d ≠ c → t.w.core d = s.w.core d)
        ∧ match e with
          | .axe => (t.w.core c).axe.streams.map (·.op) ++ (t.w.core c).axe.pending = x.axe.streams.map (·.op) ++ x.axe.pending ++ [o]
          | .mxe => (t.w.core c).mxe.pending = x.mxe.pending ++ [o]
          | .vxe => (t.w.core c).vxe.pending = x.vxe.pending ++ [o]
          | .gsu => (t.w.cluster k).gsu.pending = (s.w.cluster k).gsu.pending ++ [o]
          | .suq => (t.w.cluster k).suq.pending = (s.w.cluster k).suq.pending ++ [o]
          | .smp => (t.w.cluster k).smp.pending = (s.w.cluster k).smp.pending ++ [o])
      ∧ (s.w.engineRoom c e = false → ∃ t, exec (.issue core e desc bind done) s = .next t ∧ s.onlyCore t c
        ∧ t.w.core c = { x with serial := x.serial + 1, seq := .queueFull, held := some (.issue e o) }))
  ∧ (∀ (s : Machine.State) (core : CoreId), s.inService = true → s.w.seqReady core.val = true →
      let c := core.val
      let x := s.w.core c
      (∀ (watch : WatchId) (cmp : Fin 3) (fromWork : Bool) (word : Fin 8) (target : BitVec 32),
        let v : BitVec 64 := if fromWork then x.slot.getD word.val 0 else target.setWidth 64
        ∃ t, exec (.wait core watch cmp fromWork word target) s = .next t ∧ s.onlyCore t c
          ∧ (watchHolds cmp.val (AMap.get 0 x.watches watch.val) v = true → t.w.core c = x.advance)
          ∧ (watchHolds cmp.val (AMap.get 0 x.watches watch.val) v = false →
            t.w.core c = { x with waitReg := some (watch.val, cmp.val, v), wake := false, seq := .watchWait, held := some .watch }))
      ∧ (∃ t, exec (.fence core) s = .next t ∧ s.onlyCore t c ∧ t.w.core c = { x with seq := .fenceWait, held := some (.fence x.serial) })
      ∧ (∀ mask : BitVec 16, x.item = none → ∃ t, exec (.getWork core mask) s = .next t ∧ s.onlyCore t c
        ∧ t.w.core c = { x with seq := .workWait, held := some (.getWork mask) })
      ∧ (x.item = none → ∃ t, exec (.end_ core) s = .next t ∧ s.onlyCore t c
        ∧ t.w.core c = { x with seq := .fenceWait, held := some .ending }))

/-- R60, R355, R357: what lets a held sequencer go on: the registered watch's condition came to hold at an addition (WATCH_WAKE); everything issued before the FENCE is complete and acknowledged
(FENCE_COMPLETE); operations, SIGNALs and queues of a core that executed END are drained, which makes it idle and ends its evaluation slot (END_DRAINED).
R353, R356: SIGNAL here adds its increment to the watch of the core it names, modulo 2^64, and no other watch, and wakes that core's
sequencer where its registered condition holds now; SIGNAL to another position sends a packet and stays outstanding
until it is acknowledged. -/
def Obligations.HeldSequencersContinueAndSignal : Prop :=
  (∀ (s : Machine.State) (core : CoreId), s.inService = true → s.w.coreLive core.val = true →
      let c := core.val
      let x := s.w.core c
      (x.waitReg ≠ none → x.wake = true →
        ∃ t, exec (.watchWake core) s = .next t ∧ s.onlyCore t c ∧ t.w.core c = { x with waitReg := none, wake := false }.advance)
      ∧ (∀ n, x.held = some (.fence n) → s.w.fenceMet c n = true →
        ∃ t, exec (.fenceComplete core) s = .next t ∧ s.onlyCore t c ∧ t.w.core c = x.advance)
      ∧ (x.held = some .ending → x.drained = true → ∃ t, exec (.endDrained core) s = .next t ∧ s.restKept t ∧ s.w.memoriesKept t.w
        ∧ t.w.core c = { x with seq := .idle, held := none, ended := true, single := false, pc := x.pc + 1, cc := setBit16 x.cc 3 false } ∧ ∀ d, d ≠ c → t.w.core d = s.w.core d))
  ∧ (∀ (s : Machine.State) (core to_ : CoreId) (watch : WatchId) (n : BitVec 16) (pos : BitVec 14), s.inService = true → s.w.seqReady core.val = true →
      (∃ t, exec (.signal core false to_ watch n pos) s = .next t ∧ s.restKept t ∧ s.w.memoriesKept t.w
        ∧ AMap.get 0 (t.w.core to_.val).watches watch.val = AMap.get 0 (s.w.core to_.val).watches watch.val + n.setWidth 64
        ∧ (∀ d i, (d ≠ to_.val ∨ i ≠ watch.val) → AMap.get 0 (t.w.core d).watches i = AMap.get 0 (s.w.core d).watches i)
        ∧ (∀ i cmp v, (s.w.core to_.val).waitReg = some (i, cmp, v) →
            watchHolds cmp (AMap.get 0 (t.w.core to_.val).watches i) v = true → (t.w.core to_.val).wake = true)
        ∧ (t.w.core core.val).pc = (s.w.core core.val).advance.pc)
      ∧ (s.w.isOwn pos.toNat = false → s.w.physicalOf pos.toNat ≠ none → s.w.canSend = true →
        ∃ t, exec (.signal core true to_ watch n pos) s = .next t ∧ s.restKept t ∧ s.w.memoriesKept t.w
          ∧ (t.w.core core.val).signals = (s.w.core core.val).signals ++ [(mkTag 2 core.val (s.w.core core.val).nextTag, (s.w.core core.val).serial)]
          ∧ (∀ d, (t.w.core d).watches = (s.w.core d).watches) ∧ (t.w.core core.val).pc = (s.w.core core.val).advance.pc))

/-- R360: an entry of a participant with AHEAD 0 adds 1 to CUR and makes AHEAD 1; with AHEAD 1 it adds 1 to NEXT, makes AHEAD 2 and is an early entry; with AHEAD 2 it is BARRIER_OVERRUN:
the event, the core's sequencer faults, the job stops. When CUR reaches EXPECTED the generation completes: GEN inverts, CUR takes NEXT, NEXT becomes 0, every participant's AHEAD
decreases by 1 and CJU_BARRIER_ROUNDS rises by 1; when CUR then still equals EXPECTED, the next generation completes alike. A domain barrier of a module with a position completes
through the combining tree; its last entry is reported. -/
def Obligations.BarrierEntriesCountGenerations : Prop :=
  ∀ (s : Machine.State) (core : CoreId) (domain wait : Bool) (k : Fin 12) (i : Fin 64), s.inService = true → s.w.seqReady core.val = true →
    let c := core.val
    let x := s.w.core c
    let p := s.w.partOfCore c
    let key := if domain then domBarKey p (i.val % 16) else dieBarKey (12 * dieOfCore c + k.val) i.val
    let b := s.w.bar key
    let a := AMap.get 0 x.ahead key
    let block := s.w.barBlock key
    let leaves := fun (b' : Bar) (early rounds : Nat) (q : World → Prop) => ∃ t, exec (.barrier core domain wait k i) s = .next t ∧ s.restKept t
      ∧ s.w.memoriesKept t.w ∧ t.w.bar key = b' ∧ (∀ other, other ≠ key → t.w.bar other = s.w.bar other)
      ∧ (∀ d, AMap.get 0 (t.w.core d).ahead key =
          (AMap.get 0 (s.w.core d).ahead key + if d = c then 1 else 0) - if d ∈ b.members then rounds else 0)
      ∧ t.w.counter .cjuBar block 0x288 = s.w.counter .cjuBar block 0x288 + BitVec.ofNat 64 early
      ∧ t.w.counter .cjuBar block 0x280 = s.w.counter .cjuBar block 0x280 + BitVec.ofNat 64 rounds ∧ q t.w
    let stays := fun (w : World) => w.out = s.w.out
      ∧ (wait = true → (w.core c).held = some (.barrier key (a + 1)) ∧ (w.core c).seq = .watchWait) ∧ (wait = false → (w.core c).pc = x.advance.pc)
    b.members.Nodup → c ∈ b.members →
      (a = 0 → b.cur + 1 < b.expected → leaves { b with cur := b.cur + 1 } 0 0 stays)
      ∧ (a = 1 → b.cur < b.expected → leaves { b with next := b.next + 1 } 1 0 stays)
      ∧ (a = 0 → b.cur + 1 = b.expected → s.w.treeBar p key = false →
        (b.next < b.expected → leaves { b with gen := !b.gen, cur := b.next, next := 0, rounds := b.rounds + 1, reported := false } 0 1
          fun w => w.out = s.w.out ∧ (w.core c).pc = x.advance.pc)
        ∧ (b.next = b.expected → leaves { b with cur := 0, next := 0, rounds := b.rounds + 2, reported := false } 0 2
          fun w => w.out = s.w.out ∧ (w.core c).pc = x.advance.pc))
      ∧ (a = 0 → b.cur + 1 = b.expected → s.w.treeBar p key = true → b.reported = false → leaves { b with cur := b.cur + 1, reported := true } 0 0
          fun w => w.out = s.w.out ++ [.tree true { barrier := i.val % 16, entries := 1, step := (s.w.part p).step, fromPosition := s.w.ownPosition }])
      ∧ (2 ≤ a → ∃ t, exec (.barrier core domain wait k i) s = .next t ∧ s.restKept t ∧ s.w.memoriesKept t.w ∧ t.w.bar key = b
        ∧ (t.w.core c).seq = .faulted ∧ (t.w.part p).job = .stopped
        ∧ s.w.saw t.w 3 (barSource (if domain then clusterOfCore c else 12 * dieOfCore c + k.val)) 0x10C
            (if domain then i.val % 16 + clusterOfCore c % 12 * 2 ^ 8 + 2 ^ 12 else i.val + k.val * 2 ^ 8))

/-- R341, R346, R348: ITEM_ADMIT puts a flow's next item at the end of its die's ready list; WORK_DISPATCH gives the item that a request takes to the core that waits in GET_WORK, in its
work slot with the flags of R337, or gives END_OF_WORK when every flow that it may take is drained; a sampler gets its item alike.
R342, R343, R349, R351, R352: COMPLETE gives up the held item with its result; ITEM_COMPLETE makes an acknowledged item complete and releases in ascending order only; a collector
receives the first completion record of its die. -/
def Obligations.ItemsFlowInOrder : Prop :=
  (∀ s : Machine.State, s.inService = true →
      (∀ (i : Fin 1024) (f : FlowDef), s.w.flowDef (s.w.partOfFlow i.val) i.val = some f → s.w.canAdmit (s.w.partOfFlow i.val) f = true →
        ∃ t, exec (.itemAdmit i) s = .next t ∧ s.restKept t ∧ s.w.memoriesKept t.w ∧ t.w.cores = s.w.cores
          ∧ (t.w.die (i.val / 256)).ready = (s.w.die (i.val / 256)).ready
              ++ [{ flow := i.val, seq := (s.w.flow i.val).admitted, payload := s.w.itemPayload (s.w.partOfFlow i.val) f (s.w.flow i.val).admitted 1024 }]
          ∧ t.w.flow i.val = { s.w.flow i.val with admitted := (s.w.flow i.val).admitted + 1 })
      ∧ (∀ (core : CoreId) (mask : BitVec 16),
        let c := core.val
        let p := s.w.partOfCore c
        let d := dieOfCore c
        s.pwr.withheld = false → (s.w.core c).held = some (.getWork mask) → s.w.coreLive c = true → mask ≠ 0x8000 →
        (∀ r, s.w.pickItem p d (coreTakes mask) = some r → ∃ t, exec (.workDispatch (.core core)) s = .next t ∧ s.restKept t ∧ s.w.memoriesKept t.w
          ∧ (t.w.core c).slot = r.payload ∧ (t.w.core c).item = some { flow := r.flow, seq := r.seq } ∧ (t.w.core c).pc = (s.w.core c).advance.pc
          ∧ (t.w.core c).cc.getLsbD 0 = false ∧ (t.w.core c).cc.getLsbD 1 = decide (r.seq + 1 = (s.w.flow r.flow).count)
          ∧ (t.w.core c).cc.getLsbD 2 = decide (r.seq = 0)
          ∧ (∀ y ∈ (t.w.die d).ready, ¬ (y.flow = r.flow ∧ y.seq = r.seq)) ∧ ∀ e, e ≠ c → t.w.core e = s.w.core e)
        ∧ (s.w.pickItem p d (coreTakes mask) = none → s.w.allDrained p d (coreTakes mask) = true → ∃ t, exec (.workDispatch (.core core)) s = .next t
          ∧ s.onlyCore t c ∧ (t.w.core c).cc.getLsbD 0 = true ∧ (t.w.core c).pc = (s.w.core c).advance.pc))
      ∧ ∀ (k : ClusterId) (r : Ready), s.pwr.withheld = false → s.w.clusterLive k.val = true → (s.w.cluster k.val).smp.item = none →
        (∀ x, (s.w.cluster k.val).smp.run = some x → x.item = none) → (s.w.cluster k.val).smp.faulted = false → s.w.pickItem (s.w.partOfCluster k.val) (dieOfCluster k.val) samplerTakes = some r →
        ∃ t, exec (.workDispatch (.sampler k)) s = .next t ∧ s.restKept t ∧ s.w.memoriesKept t.w ∧ t.w.cores = s.w.cores
          ∧ (t.w.cluster k.val).smp.item = some ({ flow := r.flow, seq := r.seq }, r.payload.flatMap fun v => leBytes 8 v.toNat))
  ∧ (∀ s : Machine.State, s.inService = true →
      (∀ (core : CoreId) (word : Fin 8) (i : ItemRef) (f : FlowDef), s.w.seqReady core.val = true → (s.w.core core.val).item = some i →
        s.w.flowDef (s.w.partOfFlow i.flow) i.flow = some f → f.collect = false → f.resultBase = none →
        ∃ t, exec (.complete core true word) s = .next t ∧ s.restKept t ∧ s.w.memoriesKept t.w ∧ (t.w.core core.val).item = none
          ∧ (t.w.core core.val).pc = (s.w.core core.val).advance.pc
          ∧ (t.w.flow i.flow).finished = (s.w.flow i.flow).finished ++ [i.seq]
          ∧ AMap.get 0 (t.w.flow i.flow).results i.seq = (s.w.core core.val).slot.getD word.val 0)
      ∧ (∀ (i : Fin 1024) (n : Nat) (f : FlowDef), s.w.flowDef (s.w.partOfFlow i.val) i.val = some f → n ∈ (s.w.flow i.val).finished →
        s.w.jobRuns (s.w.partOfFlow i.val) = true → (s.w.flow i.val).complete = [] →
        ∃ t, exec (.itemComplete i n) s = .next t ∧ s.restKept t ∧ s.w.memoriesKept t.w ∧ n ∉ (t.w.flow i.val).finished
          ∧ ((s.w.flow i.val).head = n → (t.w.flow i.val).head = n + 1 ∧ (t.w.flow i.val).complete = []
              ∧ ∀ c x, f.releaseCore = some c → f.releaseWatch = some x →
                AMap.get 0 (t.w.core c).watches x = AMap.get 0 (s.w.core c).watches x + 1)
          ∧ ((s.w.flow i.val).head ≠ n → (t.w.flow i.val).head = (s.w.flow i.val).head ∧ (t.w.flow i.val).complete = [n]))
      ∧ ∀ (core : CoreId) (r : CollectRec) (rest : List CollectRec), (s.w.core core.val).held = some (.getWork 0x8000) → s.w.coreLive core.val = true →
        s.pwr.withheld = false → (s.w.die (dieOfCore core.val)).collect = r :: rest → (s.w.core r.core).held.isSome = decide (r.core = core.val) →
        ∃ t, exec (.collectRecord core) s = .next t ∧ s.restKept t ∧ s.w.memoriesKept t.w ∧ (t.w.die (dieOfCore core.val)).collect = rest
          ∧ (t.w.core core.val).slot = [BitVec.ofNat 64 (r.flow + r.core * 2 ^ 16), BitVec.ofNat 64 r.seq, r.result, 0, 0, 0, 0, 0]
          ∧ (t.w.core core.val).pc = (s.w.core core.val).advance.pc)

/-- R49, R336, R350, R354, R372: RUN_START restarts the sequencers of a partition at their entry points with no work left over; an operation whose writes are acknowledged completes and
adds 1 to its DONE_WATCH; after DEADLOCK_MS without progress, the windows that withheld work aside (R23), the job stops with DEADLOCK, every core as it stands.
R69: SEQ_STOP sets STOP: a running sequencer stops at its command boundary; SEQ_SINGLE lets a stopped one execute one command. -/
def Obligations.RunsAndSequencerControl : Prop :=
  (∀ s : Machine.State, s.inService = true →
      (∀ p : PartId, s.w.jobRuns p.val = true → (s.w.part p.val).running = false → (s.w.part p.val).due = some false → (p.val = 0 → s.w.hop.applied ≠ 0 ∧ s.w.mirrorStop = false) →
        ((s.w.part p.val).bundle.elim [] (·.flows)) = [] → (∀ c, (s.w.core c).item = none) →
        (∃ c ∈ s.w.coresOf p.val, (s.w.core c).role ≠ 0x7F ∧ (s.w.core c).seq ≠ .faulted) →
        ∃ t, exec (.runStart p false) s = .next t ∧ s.restKept t ∧ s.w.memoriesKept t.w ∧ (t.w.part p.val).running = true ∧ (t.w.part p.val).eval = false
          ∧ ∀ c ∈ s.w.coresOf p.val, (s.w.core c).role ≠ 0x7F → (s.w.core c).seq ≠ .faulted → (s.w.core c).stop = false →
            (t.w.core c).pc = (s.w.core c).entryPc ∧ (t.w.core c).seq = .running ∧ (t.w.core c).watches = [])
      ∧ (∀ (core : CoreId) (e : Engine) (x : Engine × IssuedOp) (i : Nat), ((s.w.core core.val).doneOps.find? fun y => decide (y.1 = e)) = some x →
        x.2.done = some i → s.w.coreLive core.val = true → s.w.opUnacked core.val x.2.serial e = false →
        (∀ d ∈ clusterCores core.val, (s.w.core d).held = none) →
        ∃ t, exec (.operationDone core e) s = .next t ∧ s.restKept t ∧ s.w.memoriesKept t.w ∧ x.2.serial ∉ (t.w.core core.val).live
          ∧ AMap.get 0 (t.w.core core.val).watches i = AMap.get 0 (s.w.core core.val).watches i + 1)
      ∧ ∀ p : PartId, s.w.armed p.val = true → s.w.deadlockMs p.val ≠ 0 → 
        (s.w.part p.val).progress + s.pwr.withheldPart s.sid.now (s.w.part p.val).progress + s.w.deadlockMs p.val * 1000000 ≤ s.sid.now →
        s.w.forwards 3 → ∃ t, exec (.deadlock p) s = .next t ∧ s.restKept t ∧ s.w.memoriesKept t.w ∧ (t.w.part p.val).job = .stopped
          ∧ (∀ c, t.w.core c = s.w.core c) ∧ ∃ src, s.w.raised t.w src 0x10D (p.val + ((s.w.coresOf p.val).filter fun c => (s.w.core c).held.isSome).length * 2 ^ 16))
  ∧ (∀ (s : Machine.State) (core : CoreId), s.inService = true →
      let c := core.val
      let x := s.w.core c
      (∃ t, exec (.seqStop core) s = .next t ∧ s.restKept t ∧ s.w.memoriesKept t.w ∧ t.w.core c = { x with stop := true, seq := if x.seq = .running then .stopped else x.seq }
        ∧ (t.w.reg (Block.seq.addr c 0x000)).getLsbD 0 = true ∧ ∀ d, d ≠ c → t.w.core d = s.w.core d)
      ∧ (x.stop = true → x.seq = .stopped → ∃ t, exec (.seqSingle core) s = .next t ∧ s.onlyCore t c ∧ t.w.core c = { x with single := true }
        ∧ (s.w.coreLive c = true → s.w.throttled (coreSource 0 c) = false → t.w.seqReady c = true)))

/-! ### Engines of a core (chapters 04, 05, 08) -/

/-- R119 to R122: a K step takes one A and one B handle, in that order, also where one queue holds both; each element of its output tile becomes what it was
and then the Tree-64 of the step's products, absent leaves left out, added in ACC44. The tile is finished after the step K_TILES − 1.
R123, R119: MXE_TILE_WRITEBACK writes the next output tile, in ascending order, at OUT_BASE + t × OUT_STRIDE in the format in force, and no other byte; with OUT_PUSH its
handle goes to OUT_QUEUE; the last tile ends the operation. ZERO_PREDICT_VERIFY puts the real tile in the place of its prediction, where it waits and where it was taken (R172). -/
def Obligations.MxeComputesAndWritesTiles : Prop :=
  (∀ (s : Machine.State) (core : CoreId) (run : MxeRun) (a b : QEntry) (ta tb : Tile), s.inService = true →
      let c := core.val
      let w := s.w
      let d := w.descOf c run.op.desc
      let tk := mxeStep (mxeTiles d) (mxeK d) run.stepNo
      let x := (run.tiles.find? fun y => decide (y.t = tk.1)).getD { t := tk.1 }
      let first := x.taken.head?
      w.coreLive c = true → (w.core c).mxe.faulted = false → (w.core c).mxe.run = some run → run.stepNo < mxeTiles d * mxeK d →
      (tk.2 ≠ 0 ∨ ((run.tiles ++ run.finished).filter fun y => decide (y.t % 2 = tk.1 % 2)).length < 2) → (mxeCIn d = false ∨ tk.2 ≠ 0) →
      w.heads c [leAt d 4 1, leAt d 5 1] = some [a, b] →
      w.operand c (fun i _ => first.elim true fun f => f.1.agrees handleRows i) a = .ok (some ta) →
      w.operand c (fun i j => a.agrees handleCols j && first.elim true fun f => f.2.agrees handleRows i) b = .ok (some tb) →
      ∃ t run' y, exec (.mxeKStep core) s = .next t ∧ s.onlyCore t c ∧ (t.w.core c).mxe.run = some run' ∧ run'.stepNo = run.stepNo + 1
        ∧ y ∈ (if tk.2 + 1 = mxeK d then run'.finished else run'.tiles) ∧ y.t = x.t ∧ y.k = x.k + 1
        ∧ (∀ r < handleRows a.handle, ∀ n < handleRows b.handle,
            AMap.get none y.acc (64 * r + n) = (joinNodes accAdd (x.get r n) (kSum ta tb r n)).map acc44.encode)
        ∧ (leAt d 4 1 ≠ leAt d 5 1 → t.w.queue c (leAt d 4 1) = (w.queue c (leAt d 4 1)).drop 1 ∧ t.w.queue c (leAt d 5 1) = (w.queue c (leAt d 5 1)).drop 1)
        ∧ (leAt d 4 1 = leAt d 5 1 → t.w.queue c (leAt d 4 1) = (w.queue c (leAt d 4 1)).drop 2))
  ∧ (∀ (s : Machine.State) (core : CoreId) (run : MxeRun) (x : AccTile) (ten : Tensor), s.inService = true →
      let c := core.val
      let w := s.w
      let d := w.descOf c run.op.desc
      w.coreLive c = true → (w.core c).mxe.faulted = false → (w.core c).mxe.run = some run → run.op.core = c →
      (run.finished.find? fun y => decide (y.t = run.written)) = some x → x.guesses = [] → w.tensor (w.partOfCore c) (mxeTensor d) = some ten →
      (mxeOutPush d = true → w.queueFull c (leAt d 7 1) = false) →
      let image := (w.mxeResult c run.op x ten).1.encode
      ∃ t, exec (.mxeTileWriteback core) s = .next t ∧ s.restKept t ∧ t.w.hbm = w.hbm ∧ t.w.cstore = w.cstore ∧ t.w.cellar = w.cellar
        ∧ w.tun.wrote t.w.tun (c * tunBytes + mxeOut d run.op x.t) image
        ∧ AMap.get 0 t.w.counters (Block.mxe.addr c 0x090) = AMap.get 0 w.counters (Block.mxe.addr c 0x090) + 1
        ∧ (mxeOutPush d = true → ∃ e, t.w.queue c (leAt d 7 1) = w.queue c (leAt d 7 1) ++ [e] ∧ handleAddr e.handle = mxeOut d run.op x.t % 2 ^ 21)
        ∧ (run.written + 1 < mxeTiles d → (t.w.core c).mxe.run = some { run with
            written := run.written + 1, finished := run.finished.filter fun z => decide (z.t ≠ x.t) })
        ∧ (run.written + 1 = mxeTiles d → (t.w.core c).mxe.run = none ∧ w.opEnded t.w c .mxe run.op))
  ∧ ∀ (s : Machine.State) (core : CoreId) (stream n : Nat) (rest : List Nat) (r : AxeRun) (e : QEntry) (x : Tile), s.inService = true →
      let c := core.val
      let w := s.w
      let d := w.descOf c r.op.desc
      w.coreLive c = true → (w.core c).axe.faulted = false → w.stream c stream = some r → r.predicted = n :: rest → w.head c (axeSrcQueue d) = some e →
      axeSrcQueue d ≠ axeQueue d →
      w.takeTile c mxeReads (fun _ _ => true) e.handle = .ok x → w.axeEnded c r = false →
      (∀ z ∈ w.guessers c stream n, (z.resolve stream n e []).shapeFault = none) →
      ∃ t, exec (.zeroPredictVerify core stream) s = .next t ∧ s.restKept t ∧ t.w.hbm = w.hbm ∧ t.w.cstore = w.cstore ∧ t.w.cellar = w.cellar
        ∧ t.w.queue c (axeSrcQueue d) = (w.queue c (axeSrcQueue d)).drop 1
        ∧ t.w.queue c (axeQueue d) = (w.queue c (axeQueue d)).map (QEntry.resolve stream n e)
        ∧ (∃ y ∈ (t.w.core c).axe.streams, y.op = r.op ∧ y.predicted = rest)
        ∧ (∀ m, (t.w.core c).mxe.run = some m → ∀ z ∈ m.tiles ++ m.finished, (stream, n) ∉ z.guesses)

/-- R53, R130, R354: a VXE operation, of every OP, ends when it has taken its whole input and written every output tile: it runs no more and waits for OPERATION_DONE. A command of
another OP does nothing to it.
R127, R130, R131, R137, R140: an operation OP 0, 4 or 7 from a register to a register runs its stages over the valid elements of the register, in order; the results, transposed or
summed by groups as the OP says, are put into the destination register, counted as elements, and the operation ends.
R138: a step of OP 2 or OP 3 takes one tile of each source and adds, element by element, the products of a row of A and a row of B to the sum of its output tile, in ascending order by
fused multiply-adds. R139: OP 5 from a register to a register reads the table's elements at the indices of SRC_A; OP 6 from a register writes SRC_B's elements at the indices of SRC_A
within the table, and no other byte. R136: OP 1 takes the results of its chain row by row. -/
def Obligations.VxeComputesItsOperations : Prop :=
  (∀ (s : Machine.State) (core : CoreId) (run : VxeRun) (op : Nat), op < 8 → s.inService = true →
      let c := core.val
      let w := s.w
      let d := w.descOf c run.op.desc
      w.vxeRuns c op run →
      ((op = 2 ∨ op = 3 → vxeM d * vxeN d * vxeK d ≤ run.stepNo) → (op ≠ 2 → op ≠ 3 → w.vxeConsumed c run = true)
          → (op = 1 → run.offsetsDone = true ∧ run.offsets.length - 1 ≤ 64 * run.outTiles) →
        ∃ t, exec (vxeInstr op core) s = .next t ∧ s.onlyCore t c ∧ (t.w.core c).vxe.run = none ∧ w.opEnded t.w c .vxe run.op
          ∧ (t.w.core c).vxe.vregs = (w.core c).vxe.vregs ∧ (t.w.core c).queues = (w.core c).queues)
      ∧ ∀ other < 8, other ≠ op → exec (vxeInstr other core) s = .next s)
  ∧ (∀ (s : Machine.State) (core : CoreId) (run : VxeRun), s.inService = true →
      let c := core.val
      let w := s.w
      (w.vxeRegRuns c 0 run → ∃ t, exec (.vxeChain core) s = .next t ∧ s.restKept t ∧ w.vxeRegResult t.w c 0 run)
      ∧ (w.vxeRegRuns c 4 run → ∃ t, exec (.vxeTranspose core) s = .next t ∧ s.restKept t ∧ w.vxeRegResult t.w c 4 run)
      ∧ (w.vxeRegRuns c 7 run → ∃ t, exec (.vxeGrouped core) s = .next t ∧ s.restKept t ∧ w.vxeRegResult t.w c 7 run))
  ∧ (∀ (s : Machine.State) (core : CoreId) (run : VxeRun) (a b : QEntry) (ta tb : Tile), s.inService = true →
      let c := core.val
      let w := s.w
      (w.vxeMatReady c 2 run a b ta tb → ∃ t, exec (.vxeMatmulF32 core) s = .next t ∧ s.restKept t ∧ w.vxeMatStepped t.w c run ta tb)
      ∧ (w.vxeMatReady c 3 run a b ta tb → ∃ t, exec (.vxeMatmulF64 core) s = .next t ∧ s.restKept t ∧ w.vxeMatStepped t.w c run ta tb))
  ∧ (∀ (s : Machine.State) (core : CoreId) (run : VxeRun), s.inService = true →
      let c := core.val
      let w := s.w
      let d := w.descOf c run.op.desc
      let k := vxeCompute d
      let f := computeFlt k
      let size := f.width / 8
      let live := w.vxeIndexed c run
      (∀ p ∈ live, (w.vxeIndex c run p + 1) * size ≤ leAt d 24 4) →
      (w.vxeRegRuns c 5 run →
        ∃ t, exec (.vxeGather core) s = .next t ∧ s.restKept t ∧ w.memoriesKept t.w ∧ (t.w.core c).vxe.run = none ∧ w.opEnded t.w c .vxe run.op
          ∧ (t.w.core c).vxe.masks = (w.core c).vxe.masks
          ∧ (t.w.core c).vxe.vregs = live.foldl (fun m p => AMap.upd 0 m (vxeDest d - 0x20) fun z => vregSet k z p.2
              (f.decode (leNat (w.tunRead c (vxeBase d run.op + w.vxeIndex c run p * size) size)))) (w.core c).vxe.vregs
          ∧ AMap.get 0 t.w.counters (Block.vxe.addr c 0x090) = AMap.get 0 w.counters (Block.vxe.addr c 0x090) + BitVec.ofNat 64 live.length)
      ∧ (w.vxeRuns c 6 run → run = { op := run.op } → 0 < vxeCount d → 0x20 ≤ vxeSrcA d → 0x20 ≤ vxeSrcB d → vxeSrcB d ≤ 0x3F →
        vxeToReg d = false →
        ∃ t, exec (.vxeScatter core) s = .next t ∧ s.restKept t ∧ t.w.hbm = w.hbm ∧ t.w.cstore = w.cstore ∧ t.w.cellar = w.cellar
          ∧ (t.w.core c).vxe.run = none ∧ w.opEnded t.w c .vxe run.op
          ∧ t.w.tun = live.foldl (fun m p => m.write (c * tunBytes + (vxeBase d run.op + w.vxeIndex c run p * size)) (leBytes size (f.encode
              (enterVal k (ctxOf (AMap.get 0 (w.core c).vxeCtx (leAt d 2 1 % 4))) (vxeRound d) (computeFormat k)
                (vregElem k (AMap.get 0 (w.core c).vxe.vregs (vxeSrcB d - 0x20)) (vecElem k p.1.1 p.1.2))).1))) w.tun
          ∧ AMap.get 0 t.w.counters (Block.vxe.addr c 0x090) = AMap.get 0 w.counters (Block.vxe.addr c 0x090) + BitVec.ofNat 64 live.length))
  ∧ ∀ (s : Machine.State) (core : CoreId) (run : VxeRun), s.inService = true →
      let c := core.val
      let w := s.w
      let d := w.descOf c run.op.desc
      w.vxeRuns c 1 run → run = { op := run.op } → 0 < vxeCount d → 0x20 ≤ vxeSrcA d → 0x10 ≤ vxeSrcB d → vxeCompute d = 0 → leAt d 9 1 % 8 = 0 →
      w.head c (vxeSeg d) = none →
      ∃ t run', exec (.vxeSegmented core) s = .next t ∧ s.restKept t ∧ w.memoriesKept t.w ∧ (t.w.core c).vxe.run = some run' ∧ run'.tiles = 1
        ∧ run'.elems = min (vxeCount d) 64 ∧ run'.cols = 64 ∧ run'.rows = 1 ∧ run'.results.length = 1

/-- R224 to R228, R265: a LOAD stream puts its next tile into its ring buffer under a guard and its handle on the queue; a STORE stream copies the tile of the next handle to its place;
the last grain of a COPY is moved; a RELAY passes its own next handle on, past those it has predicted, or where its zero map says so a predicted zero (R171). The operation ends with its last tile. -/
def Obligations.AxeStreamsMoveTiles : Prop :=
  ∀ (s : Machine.State) (core : CoreId) (r : AxeRun), s.inService = true →
    let c := core.val
    let w := s.w
    let d := w.descOf c r.op.desc
    let e := r.count
    (∀ (x : Nat × Nat × Nat) (bs : List Byte) (w1 : World), w.axeRuns c 0 r → w.bufferBusy c (axeBuffer d e) = false →
      w.queueFull c (axeQueue d) = false → w.axePlace c (axeMem d) (w.axeAddr c r.op (axeOffset d e)) = some x →
      w.axeTile s.sid c r x (decide (e + 1 = axeTotal d)) = .ok (some bs, w1) →
      ∃ t, exec (.axeLoad core r.op.serial) s = .next t ∧ s.restKept t ∧ w.onlyTun t.w ∧ w.tun.wrote t.w.tun (c * tunBytes + axeBuffer d e) bs
        ∧ (∃ q, t.w.queue c (axeQueue d) = w.queue c (axeQueue d) ++ [q] ∧ q.stream = some r.op.serial ∧ q.emission = e
            ∧ handleAddr q.handle = axeBuffer d e % 2 ^ 21)
        ∧ (∃ g ∈ (t.w.core c).axe.guards, g.stream = r.op.serial ∧ g.emission = e ∧ g.space = guardSpace x ∧ g.lo = x.2.2
            ∧ g.hi = x.2.2 + roundUp bs.length 256)
        ∧ (∃ y ∈ (t.w.core c).axe.streams, y.op = r.op ∧ y.count = e + 1 ∧ y.live = r.live ++ [e])
        ∧ (axeTotal d = e + 1 → w.opEnded t.w c .axe r.op))
    ∧ (∀ (q : QEntry) (p off : Nat), w.axeRuns c 1 r → w.head c (axeQueue d) = some q → w.handleFits c q = true →
      let bs := w.tunRead c (handleAddr q.handle) (16 + (parseHeader (w.tunRead c (handleAddr q.handle) 16)).imageBytes)
      bs.length ≤ axeStride d → w.axePlace c (axeMem d) (w.axeAddr c r.op (e * axeStride d)) = some (0, p, off) → w.plainHbm p off bs.length →
      w.hbmFailed p off bs.length = false →
      ∃ t, exec (.axeStore core r.op.serial) s = .next t ∧ s.restKept t ∧ w.onlyHbm t.w ∧ w.hbmWrote t.w p off bs
        ∧ t.w.queue c (axeQueue d) = (w.queue c (axeQueue d)).drop 1
        ∧ (axeTiles d ≠ e + 1 → ∃ y ∈ (t.w.core c).axe.streams, y.op = r.op ∧ y.count = e + 1) ∧ (axeTiles d = e + 1 → w.opEnded t.w c .axe r.op))
    ∧ (∀ (x : Nat × Nat × Nat) (p off : Nat) (bs : List Byte) (w1 : World), w.axeRuns c 2 r → axeCopyBytes d ≤ 256 * (r.grains + 1) →
      r.live = [] → r.predicted = [] → w.axePlace c (axeMem d) (w.axeAddr c r.op (256 * r.grains)) = some x → x.1 ≠ 2 →
      w.axePlace c (axeDstMem d) ((axeDst d + 256 * r.grains) % 2 ^ 64) = some (0, p, off) → w.axeFetch s.sid c r x 256 true = .ok (some bs, w1) →
      w.plainHbm p off bs.length → w.hbmFailed p off bs.length = false →
      ∃ t, exec (.axeCopy core r.op.serial) s = .next t ∧ s.restKept t ∧ w.onlyHbm t.w ∧ w.hbmWrote t.w p off bs
        ∧ (t.w.core c).axe.streams = [] ∧ w.opEnded t.w c .axe r.op)
    ∧ (∀ q : QEntry, w.axeRuns c 3 r → w.queueFull c (axeQueue d) = false → axeSrcQueue d ≠ axeQueue d → w.relayReal c r = some q →
      w.handleFits c q = true →
      ∃ t, exec (.axeRelay core r.op.serial) s = .next t ∧ s.restKept t ∧ w.onlyTun t.w ∧ (axePredict d = false → w.memoriesKept t.w)
        ∧ t.w.queue c (axeSrcQueue d) = (w.queue c (axeSrcQueue d)).eraseIdx r.predicted.length ∧ t.w.queue c (axeQueue d) = w.queue c (axeQueue d) ++ [q]
        ∧ (axeTiles d = e + 1 → w.opEnded t.w c .axe r.op))
    ∧ (w.axeRuns c 3 r → w.queueFull c (axeQueue d) = false → w.relayReal c r = none → axePredict d = true →
      w.zeroBit c (axeZmap d) e = true →
      ∃ t q, exec (.axeRelay core r.op.serial) s = .next t ∧ s.restKept t ∧ w.memoriesKept t.w
        ∧ t.w.queue c (axeQueue d) = w.queue c (axeQueue d) ++ [q] ∧ q.predicted = true ∧ q.stream = some r.op.serial ∧ q.emission = e
        ∧ handleIndex q.handle = e % 2 ^ 16 ∧ ∃ y ∈ (t.w.core c).axe.streams, y.op = r.op ∧ y.predicted = r.predicted ++ [e])

/-- R232, R233: the unique list is the keys in [KEY_LO, KEY_HI), once each, ascending; SORT_UNIQUE writes it with its header, the inverse map and the counts to their places in the
cluster store, and no other byte, and counts keys, unique keys and keys out of range. What it leaves in WORK is free.
R235 to R237, R249: a raw GATHER of rows that this module homes writes the current records of its keys, in their order, to consecutive places of the cluster store and no other
byte; a MIGRATE entry for a row homed here is accepted: it is noted, counted, and stands in the pending override table from the next step on. -/
def Obligations.KeysAreSortedAndRowsGathered : Prop :=
  ((∀ (lo hi : Nat) (ks : List Nat), (uniqueKeys lo hi ks).Pairwise (· < ·) ∧ ∀ x, x ∈ uniqueKeys lo hi ks ↔ x ∈ ks ∧ lo ≤ x ∧ x < hi)
    ∧ (∀ (us ks : List Nat) (i : Nat), i < ks.length → us.length ≤ 0xFFFFFFFF → (inverseOf us ks).getD i 0 < us.length →
        us.getD ((inverseOf us ks).getD i 0) 0 = ks.getD i 0)
    ∧ ∀ (s : Machine.State) (cluster : ClusterId) (o : IssuedOp) (rest : List IssuedOp) (a : Nat), s.inService = true →
      let k := cluster.val
      let w := s.w
      let d := w.descOf o.core o.desc
      let n := suqCount d
      let ks := w.storeList k a 8 n
      let us := uniqueKeys (suqLo d) (suqHi d) ks
      let inv := inverseOf us ks
      let gone := (inv.filter fun i => decide (i = 0xFFFFFFFF)).length
      let counts := us.zipIdx.map fun u => (inv.filter fun i => decide (i = u.2)).length
      let outs := [(suqWork d, freeBytes w.free (16 * n)),
          (suqUnique d, leBytes 4 us.length ++ leBytes 4 n ++ leBytes 4 gone ++ [0, 0, 0, 0] ++ us.flatMap (leBytes 8)),
          (suqInverse d, inv.flatMap (leBytes 4))] ++ if suqCounts d then [(suqCountsAddr d, counts.flatMap (leBytes 4))] else []
      w.unitFree 7 k → (w.cluster k).suq.faulted = false → (w.cluster k).suq.pending = o :: rest → suqBlock d = false → suqFromWork d = false →
      n ≤ 4194304 → localOf (suqIn d) = some (.store a) → a + 8 * n ≤ storeBytes → storeOuts outs → w.noGuards → w.noHeldIssue o.core →
      ∃ t, exec (.sortUnique cluster) s = .next t ∧ s.restKept t ∧ w.onlyStore t.w ∧ t.w.cstore = storeAfter w.cstore k outs
        ∧ (t.w.cluster k).suq.pending = rest ∧ w.opEnded t.w o.core .suq o
        ∧ AMap.get 0 t.w.counters (Block.suq.addr k 0x080) = AMap.get 0 w.counters (Block.suq.addr k 0x080) + BitVec.ofNat 64 n
        ∧ AMap.get 0 t.w.counters (Block.suq.addr k 0x088) = AMap.get 0 w.counters (Block.suq.addr k 0x088) + BitVec.ofNat 64 us.length)
  ∧ (∀ (s : Machine.State) (cluster : ClusterId) (o : IssuedOp) (rest : List IssuedOp) (e : DirEntry) (a : Nat), s.inService = true →
      let k := cluster.val
      let w := s.w
      let p := w.partOfCluster k
      let d := w.descOf o.core o.desc
      let n := gsuKeyCount d
      let rb := e.recordBytes
      localOf (gsuKeysAt d o) = some (.store a) →
      (let keys := w.storeList k a 8 n;
        let outs := keys.zipIdx.map fun x => (gsuOut d + x.2 * rb, w.hbmRead p (e.curBase + x.1 * rb) rb);
        w.gsuBegins k 0 o rest e → gsuSuqList d = false → gsuRaw d = true → a + 8 * n ≤ storeBytes →
        (∀ x ∈ keys, x < e.records ∧ w.homesRow p e x = true ∧ w.hbmFailed p (e.curBase + x * rb) rb = false) → storeOuts outs → w.noGuards →
        ∃ t, exec (.gsuGather cluster) s = .next t ∧ s.restKept t ∧ w.onlyStore t.w ∧ t.w.cstore = storeAfter w.cstore k outs
          ∧ (t.w.cluster k).gsu.pending = rest ∧ w.opEnded t.w o.core .gsu o
          ∧ AMap.get 0 t.w.counters (Block.gsu.addr k 0x080) = AMap.get 0 w.counters (Block.gsu.addr k 0x080) + BitVec.ofNat 64 n)
      ∧ (let row := leAt (w.storeRead k a 16) 0 8;
        let target := leAt (w.storeRead k a 16) 8 2;
        w.gsuBegins k 2 o rest e → n = 1 → a + 16 ≤ storeBytes → row < e.records → w.homesRow p e row = true → target ≠ w.ownPosition →
        (∀ x ∈ e.curOver, x.1 ≠ row) → e.penOver.length < 65536 → (∀ x ∈ (w.part p).accepted, x.1 = e.tensor → x.2.1 ≠ row) →
        (w.part p).forwarding.length + (w.part p).accepted.length < 4096 →
        ∃ t, exec (.gsuMigrate cluster) s = .next t ∧ s.restKept t ∧ w.onlyHbm t.w
          ∧ (t.w.part p).accepted = (w.part p).accepted ++ [(e.tensor, row, target)] ∧ (t.w.cluster k).gsu.pending = rest ∧ w.opEnded t.w o.core .gsu o
          ∧ AMap.get 0 t.w.counters (Block.gsu.addr k 0x098) = AMap.get 0 w.counters (Block.gsu.addr k 0x098) + 1
          ∧ (w.mapHome p e row ≠ target → ∃ f, (t.w.part p).entry e.tensor = some f ∧ (row, target, (w.part p).step + 1) ∈ f.penOver)))

/-- R239, R240, R244: a SCATTER with one row of gradients per key, all homed here, adds each key's contribution to its row of the table's pool, and ends; one whose contributions are
all acknowledged ends. -/
def Obligations.GsuScatterAddsContributions : Prop :=
  ∀ (s : Machine.State) (cluster : ClusterId) (o : IssuedOp) (rest : List IssuedOp) (e : DirEntry), s.inService = true →
    let k := cluster.val
    let w := s.w
    let p := w.partOfCluster k
    let d := w.descOf o.core o.desc
    let n := gsuKeyCount d
    (∀ (a b : Nat) (ten : Tensor) (x : Tile), w.gsuBegins k 1 o rest e → gsuPerUnique d = true → gsuSuqList d = false →
      w.tensor p (gsuGrad d) = some ten → ten.recipe.w128 = false → 0 < e.dim → e.dim ≤ 14 → 0 < n → n ≤ 64 → n ≤ e.windowRows →
      localOf (gsuKeysAt d o) = some (.store a) → a + 8 * n ≤ storeBytes → localOf (gsuOut d) = some (.store b) → localOf (gsuOut d + 16) = some (.store (b + 16)) →
      (let hdr := parseHeader (w.storeRead k b 16);
        b + 16 + hdr.imageBytes ≤ storeBytes ∧ checkTile (fun f => decide (f = 1) || decide (f = 3)) hdr.format
          (fun r c => decide (r = n) && decide (c = e.dim)) hdr (w.storeRead k (b + 16) hdr.imageBytes) = .ok x) →
      (w.storeList k a 8 n).Nodup → (∀ y ∈ w.storeList k a 8 n, y < e.records ∧ w.homesRow p e y = true) → w.poolOf p e.tensor = {} → w.nmrFaulted = [] →
      ∃ t, exec (.gsuScatter cluster) s = .next t ∧ s.restKept t ∧ w.memoriesKept t.w ∧ (t.w.cluster k).gsu.pending = rest
        ∧ w.opEnded t.w o.core .gsu o ∧ (t.w.poolOf p e.tensor).window = some (false, ten.recipe.windowT)
        ∧ ∀ i < n, ∀ c < e.dim, t.w.poolCell p e.tensor ((w.storeList k a 8 n).getD i 0) c =
            (w.rowCells p ten d e.dim #[x] i).1.getD c (0, false, false))
    ∧ (w.unitFree 6 k → (w.cluster k).gsu.faulted = false → (w.cluster k).gsu.unacked = some (o, 0) → (w.cluster k).gsu.pending = o :: rest →
      gsuOp d = 1 → (w.part p).entry (gsuTable d) = some e → (p = 0 → w.canSend = true) → w.noHeldIssue o.core →
      ∃ t, exec (.gsuScatter cluster) s = .next t ∧ s.restKept t ∧ w.memoriesKept t.w ∧ (t.w.cluster k).gsu.pending = rest
        ∧ (t.w.cluster k).gsu.unacked = none ∧ w.opEnded t.w o.core .gsu o)

/-- R243, R245: ADD_W64 and ADD_W128 add each cell of the payload to its cell of the row's pool, integers over the full width and flags by OR, and no other cell of the pool.
R243, R220: ADD_I64 adds to the elements of the row's pending record modulo 2^64, ADD_F32 in FP32 rounded to nearest even; beside them only dirty bits change in HBM.
R246: READOUT, commanded to the GSU or to the NMR, sends every touched row of the pool to the Kiln as FP32 values, in ascending order, and then ROWS_END with their number; the pool is
empty then and takes no more in the step. R220: CATCHUP_COPY copies a table's dirty record into the pending version and completes its catch-up. -/
def Obligations.NmrAddsAndPoolsAreReadOut : Prop :=
  (∀ (s : Machine.State) (c : NmrCmd) (e : DirEntry), s.inService = true →
      (s.w.cellsReady c e false → ∃ t, exec (.addW64 c) s = .next t ∧ s.restKept t ∧ s.w.cellsAdded t.w c e false)
      ∧ (s.w.cellsReady c e true → ∃ t, exec (.addW128 c) s = .next t ∧ s.restKept t ∧ s.w.cellsAdded t.w c e true)
      ∧ (s.w.elementsReady c e 8 → ∃ t, exec (.addI64 c) s = .next t ∧ s.restKept t
        ∧ s.w.elementsAdded t.w c e 8 fun x y => (x + y) % 2 ^ 64)
      ∧ (s.w.elementsReady c e 4 → ∃ t, exec (.addF32 c) s = .next t ∧ s.restKept t
        ∧ s.w.elementsAdded t.w c e 4 fun x y => fp32.encode (fp32.add {} .rne (fp32.decode x) (fp32.decode y)).1))
  ∧ ((∀ (s : Machine.State) (cluster : ClusterId) (o : IssuedOp) (rest : List IssuedOp) (e : DirEntry), s.inService = true →
      let k := cluster.val
      let w := s.w
      let p := w.partOfCluster k
      w.gsuBegins k 3 o rest e → (w.poolOf p e.tensor).readOut = false → w.nmrDown p = false →
      ∃ t, exec (.gsuReadout cluster) s = .next t ∧ s.restKept t ∧ w.memoriesKept t.w ∧ t.w.out = w.out ++ w.readoutFrames p e
        ∧ (t.w.poolOf p e.tensor).rows = [] ∧ (t.w.poolOf p e.tensor).readOut = true ∧ (t.w.cluster k).gsu.pending = rest ∧ w.opEnded t.w o.core .gsu o)
    ∧ (∀ (s : Machine.State) (c : NmrCmd) (e : DirEntry), s.inService = true → s.w.nmrOwn c e → (s.w.poolOf 0 e.tensor).readOut = false →
      ∃ t, exec (.nmrReadout c) s = .next t ∧ s.restKept t ∧ s.w.memoriesKept t.w ∧ t.w.out = s.w.out ++ s.w.readoutFrames 0 e
        ∧ (t.w.poolOf 0 e.tensor).rows = [] ∧ (t.w.poolOf 0 e.tensor).readOut = true)
    ∧ ∀ (s : Machine.State) (part : PartId) (table r : Nat) (e : DirEntry), s.inService = true →
      let p := part.val
      let w := s.w
      let x := w.part p
      let rb := e.recordBytes
      w.jobRuns p = true → p ≠ 0 → x.entry table = some e → e.catchupDone = false → e.catchup = [r] → e.kind ≠ 1 → x.heldWrites = [] → x.good.Nodup →
      e.penBase + (r + 1) * rb ≤ w.hbmCapacity p → e.dirty + r / 8 < w.hbmCapacity p →
      (∀ i < rb, e.penBase + r * rb + i ≠ e.dirty + r / 8 ∧ e.penBase + r * rb + i < w.dirBase p) →
      ∃ t, exec (.catchupCopy part table) s = .next t ∧ s.restKept t ∧ w.onlyHbm t.w
        ∧ t.w.hbmRead p (e.penBase + r * rb) rb = w.hbmRead p (e.curBase + r * rb) rb
        ∧ ∃ f, (t.w.part p).entry table = some f ∧ f.catchup = [] ∧ f.catchupDone = true ∧ f.version = e.version ∧ f.current = e.current)

/-- R268: a partition HBM offset maps to the channel and the grain that the manual's formula gives; the map reaches every byte of every good channel exactly once, from the offsets below
HBM_CAPACITY, and the next grain of a line lies on the next channel of the good list. -/
def Obligations.HbmMapReachesEveryGrainOnce : Prop :=
  (∀ (w : World) (p : Nat), let good := (w.part p).good; w.hbmCapacity p = good.length * (8388608 * 256))
  ∧ ∀ good : List Nat, good ≠ [] → good.Nodup →
    let n := good.length
    (∀ a,
      let g := a / 256
      let line := g / n
      let k := g % n
      let h := line % 256 ^^^ line / 256 % 256 ^^^ line / 65536 % 128
      hbmLocate good a = (good.getD ((k + h) % n) 0, line) ∧ hbmKey good a = good.getD ((k + h) % n) 0 * 2 ^ 31 + line * 256 + a % 256)
    ∧ (∀ a < n * (8388608 * 256), (hbmLocate good a).1 ∈ good ∧ (hbmLocate good a).2 < 8388608)
    ∧ (∀ c ∈ good, ∀ line < 8388608, ∀ byte < 256, ∃ a < n * (8388608 * 256), hbmLocate good a = (c, line) ∧ a % 256 = byte
        ∧ ∀ b, hbmLocate good b = (c, line) → b % 256 = byte → b = a)
    ∧ ∀ a, (a + 256) / 256 / n = a / 256 / n → ∃ i, (hbmLocate good a).1 = good.getD (i % n) 0 ∧ (hbmLocate good (a + 256)).1 = good.getD ((i + 1) % n) 0

/-- R270, R271, R277 to R279, R282, R285: a grain write puts the bytes that its mask selects where the access names them; an access that fails parity waits for its retry, which counts,
and later accesses to its grain wait behind it; a corrected read counts at its
stack and channel; an uncorrectable grain fails the channel, puts it on the map-out list, raises CHANNEL_FAULT and stops the job; so does a cellar channel after the fourth failed retry. -/
def Obligations.MemoryAccessesAndFaults : Prop :=
  (∀ (s : Machine.State) (channel : ChannelId) (a : GrainAccess) (off : Nat), s.inService = true →
    let c := channel.val
    let w := s.w
    let p := w.partOfChannel c
    w.grainOffset c a.grain = some off → AMap.get 0 w.channels c ≠ 2 →
    let held := AMap.get [] w.parityHeld c
    let free := ∀ y ∈ held, y.grain ≠ a.grain
    let fits := w.plainHbm p (off + a.first) (a.data.take a.length).length ∧ (a.mask = [] ∨ a.mask.length = a.data.length)
    (a.parityOk = true → free → a.write = true → fits →
      ∃ t, exec (.hbmGrainAccess channel a) s = .next t ∧ s.restKept t ∧ w.onlyHbm t.w ∧ w.grainWrote t.w p off a)
    ∧ (a.parityOk = true → free → a.write = false → a.corrected = true → a.uncorrectable = false →
      ∃ t, exec (.hbmGrainAccess channel a) s = .next t ∧ t.pwr = s.pwr ∧ t.sid = s.sid ∧ w.memoriesKept t.w
        ∧ AMap.get 0 t.w.counters (Block.hbc.addr (c / 32) 0x0A0) = AMap.get 0 w.counters (Block.hbc.addr (c / 32) 0x0A0) + 1
        ∧ AMap.get 0 t.w.counters (Block.hbc.addr (c / 32) (0x200 + 8 * (c % 32))) =
          AMap.get 0 w.counters (Block.hbc.addr (c / 32) (0x200 + 8 * (c % 32))) + 1)
    ∧ (a.parityOk = false ∨ ¬ free → exec (.hbmGrainAccess channel a) s =
      .next { s with w := { w with parityHeld := AMap.set [] w.parityHeld c (held ++ [a]) } })
    ∧ (∀ attempt, a.parityOk = true → held = [a] → a.write = true → fits →
      ∃ t, exec (.parityRetry channel a attempt) s = .next t ∧ s.restKept t ∧ w.onlyHbm t.w ∧ w.grainWrote t.w p off a
        ∧ AMap.get [] t.w.parityHeld c = []
        ∧ AMap.get 0 t.w.counters (Block.hbc.addr (c / 32) 0x098) = AMap.get 0 w.counters (Block.hbc.addr (c / 32) 0x098) + 1)
    ∧ (∀ attempt, a.parityOk = false → attempt < 4 → w.forwards 1 →
      ∃ t, exec (.parityRetry channel a attempt) s = .next t ∧ s.restKept t ∧ w.memoriesKept t.w
        ∧ AMap.get 0 t.w.counters (Block.hbc.addr (c / 32) 0x098) = AMap.get 0 w.counters (Block.hbc.addr (c / 32) 0x098) + 1
        ∧ (AMap.get false w.parityStep c = false → w.raised t.w (hbcSource (c / 32)) 0x111 c)
        ∧ (AMap.get false w.parityStep c = true → t.w.uzo = w.uzo))
    ∧ (∀ attempt, a.parityOk = false → 4 ≤ attempt →
      ∃ t, exec (.parityRetry channel a attempt) s = .next t ∧ AMap.get 0 t.w.channels c = 2 ∧ c ∈ mapoutList t.sec.hbmMapout 256
        ∧ (t.w.part p).job ≠ .running ∧ w.memoriesKept t.w))
  ∧ (∀ (s : Machine.State) (channel : ChannelId) (grain off : Nat), s.inService = true →
    let c := channel.val
    s.w.grainOffset c grain = some off → AMap.get 0 s.w.channels c ≠ 2 →
    (∃ t, exec (.scrubGrain channel grain false false) s = .next t ∧ s.restKept t ∧ s.w.memoriesKept t.w
      ∧ AMap.get 0 t.w.counters (Block.hbc.addr (c / 32) 0x0C0) = AMap.get 0 s.w.counters (Block.hbc.addr (c / 32) 0x0C0) + 1)
    ∧ (s.w.forwards 3 → AMap.get [] s.w.parityHeld c = [] → ∃ t, exec (.scrubGrain channel grain false true) s = .next t ∧ t.pwr = s.pwr ∧ t.sid = s.sid ∧ s.w.memoriesKept t.w
      ∧ AMap.get 0 t.w.channels c = 2 ∧ c ∈ mapoutList t.sec.hbmMapout 256 ∧ s.w.raised t.w (hbcSource (c / 32)) 0x112 (c + 2 ^ 24)
      ∧ (t.w.part (s.w.partOfChannel c)).job ≠ .running))
  ∧ (∀ (s : Machine.State) (stack : StackId) (clear : BitVec 32), s.inService = true → clear ≠ 0 →
    ∃ t, exec (.hbcMapoutClear stack clear) s = .next t ∧ t.pwr = s.pwr ∧ t.sid = s.sid ∧ t.w = s.w
      ∧ ∀ i < 256, i ∈ mapoutList t.sec.hbmMapout 256 ↔
          (i ∈ mapoutList s.sec.hbmMapout 256 ∧ ¬ (i / 32 = stack.val ∧ clear.getLsbD (i % 32) = true)))
  ∧ ∀ (s : Machine.State) (b : CellarBurst), s.inService = true → AMap.get false s.w.cellarBad b.channel.val = false →
    (b.crcFailures < 5 → b.uncorrectable = false → ∃ t, exec (.cellarBurst b) s = .next t ∧ s.restKept t ∧ s.w.memoriesKept t.w
      ∧ AMap.get 0 t.w.counters (Block.kln.addr 0 0x108) = AMap.get 0 s.w.counters (Block.kln.addr 0 0x108) + BitVec.ofNat 64 (min 4 b.crcFailures))
    ∧ (5 ≤ b.crcFailures → s.w.forwards 3 → ∃ t, exec (.cellarBurst b) s = .next t ∧ t.pwr = s.pwr ∧ t.sid = s.sid ∧ s.w.memoriesKept t.w
      ∧ AMap.get false t.w.cellarBad b.channel.val = true ∧ b.channel.val ∈ mapoutList t.sec.cellarMapout 64
      ∧ s.w.raised t.w klnSource 0x112 (b.channel.val + 2 ^ 23) ∧ (t.w.part (s.w.partOfCellar b.channel.val)).job ≠ .running)

/-! ### Sampler and Kiln (chapters 06, 09) -/

/-- R187, R190: Floyd's choice gives k different places below d, in ascending order; a negative lies in [NEG_LO, NEG_HI).
R183, R184, R197, R203 to R208: a sampler takes its work item and begins the block with the seeds of its list; a hop whose parents are all drawn here joins the block, its nodes and edges
never more than the caps; after the last hop the block's parts and then its header are written, and the operation ends. -/
def Obligations.SamplerDrawsAndBuildsBlocks : Prop :=
  ((∀ (word : Nat → Nat) (d k : Nat), (∀ u, word u < 2 ^ 32) → k ≤ d →
      (floyd word d k).length = k ∧ (floyd word d k).Pairwise (· < ·) ∧ ∀ x ∈ floyd word d k, x < d)
    ∧ ∀ seed plan node step lo hi j : Nat, lo < hi → lo ≤ negativeOf seed plan node step lo hi j ∧ negativeOf seed plan node step lo hi j < hi)
  ∧ (∀ (s : Machine.State) (cluster : ClusterId) (plan : Plan), s.inService = true →
      let k := cluster.val
      let w := s.w
      let p := w.partOfCluster k
      let x := (w.cluster k).smp
      w.clusterLive k = true → w.throttled (clusterSource 5 k) = false →
      (∀ (i : ItemRef) (d : List Byte) (r : SmpRun) (w1 : World), x.run = none → x.faulted = false → x.pending = [] → x.item = some (i, d) →
        w.plan p (smpPlan d) = some plan → imageBad d none (some plan) = false →
        (w.updSmp k fun y => { y with item := none }).blockStart k p d plan { desc := d, item := some i, plan := plan.id, hop := smpFirst d, step := w.stepOf p }
          = .ok (r, w1) →
        ∃ t, exec (.samplerBlock cluster) s = .next t ∧ s.restKept t ∧ w.memoriesKept t.w ∧ (t.w.cluster k).smp.run = some r ∧ (t.w.cluster k).smp.item = none
          ∧ r.hop = smpFirst d ∧ r.item = some i ∧ (smpFirst d ≤ 1 → r.nodes = w.seedsOf k p r ∧ r.edges = []))
      ∧ (∀ (r r1 : SmpRun) (w1 : World), x.run = some r → w.plan p r.plan = some plan → r.issuedHop = false → r.truncated = false →
        r.hop < smpLast r.desc → (plan.hop.getD (r.hop - 1) {}).mode ≠ 4 → w.drawLocal k p plan { r with issuedHop := true } r.parents = .ok (r1, w1) → r1.waits = false →
        (r1.addChildren plan (plan.hop.getD (r.hop - 1) {})).truncated = false →
        ∃ t r2, exec (.smpHopDraw cluster) s = .next t ∧ s.restKept t ∧ w.memoriesKept t.w ∧ (t.w.cluster k).smp.run = some r2 ∧ r2.hop = r.hop + 1
          ∧ (r2.nodes.length = r.nodes.length + r1.drawn.length ∧ r2.edges.length = r.edges.length + r1.drawn.length)
          ∧ (r.nodes.length ≤ plan.nodeCap → r2.nodes.length ≤ plan.nodeCap) ∧ (r.edges.length ≤ plan.edgeCap → r2.edges.length ≤ plan.edgeCap)
          ∧ r2.hopNodes = r.hopNodes ++ [r.nodes.length])
      ∧ ∀ (r : SmpRun) (o : IssuedOp), x.run = some r → w.plan p r.plan = some plan → r.issuedHop = false →
        (smpLast r.desc < r.hop ∨ r.truncated = true) → r.op = some o → r.item = none → w.noGuards →
        let outs := ({ r with dropped := w.droppedOf k p plan (w.seedsOf k p r) r }.outputs plan (w.part p).jobSeed.toNat (w.seedsOf k p r)).filter
          fun o => decide (o.2 ≠ [])
        storeOuts outs →
        ∃ t, exec (.smpHopDraw cluster) s = .next t ∧ s.restKept t ∧ w.onlyStore t.w ∧ t.w.cstore = storeAfter w.cstore k outs
          ∧ (t.w.cluster k).smp.run = none ∧ w.opEnded t.w o.core .smp o
          ∧ AMap.get 0 t.w.counters (Block.smp.addr k 0x080) = AMap.get 0 w.counters (Block.smp.addr k 0x080) + 1)

/-- R317, R319, R326: GRAD_READY of a range that this module homes and that meets no other asks for its grains, and completes the entry when the ranges cover it; READ is acknowledged and
answered with the grain, and READ_DATA keeps it; ROW_GRAD keeps a row's gradient and ROWS_END completes a table that has one. A row delivered twice stops the partition with METADATA 0x51, a gradient after the close of its step with
0x53; the retries of a frame are counted. -/
def Obligations.KilnTakesGradients : Prop :=
  ∀ (s : Machine.State) (f : KilnFrame), s.inService = true →
    let p := f.part.val
    let w := s.w
    (∀ (tensor step g i : Nat) (r : KilnRule) (e : KilnEntry), w.kilnLive p = true → w.kilnClosed p step = false → w.kilnEntryOf p tensor = some (g, i, r, e) →
      let h := w.homedRows p (w.kilnTensor p e)
      let x := w.grad p tensor
      (∀ offset first count, e.rowTable = false → 0 < count → h.1 * e.cols ≤ first → first + count ≤ h.2 * e.cols →
        (∀ y ∈ x.ranges, rangesMeet first count y.2.1 y.2.2 = false) →
        ∃ t, exec (.gradReady f tensor step offset first count) s = .next t ∧ s.restKept t ∧ w.memoriesKept t.w
          ∧ (t.w.grad p tensor).ranges = x.ranges ++ [(offset, first, count)]
          ∧ t.w.out = w.out ++ (grainsOf offset (4 * count)).map (fun a => .kiln false 1 p [a] [])
          ∧ t.w.kiln.queue = w.kiln.queue ++ (if (x.ranges.map (·.2.2)).sum + count = (h.2 - h.1) * e.cols then [(p, g, i)] else []))
      ∧ (∀ (row : Nat) (values : List (BitVec 32)), e.rowTable = true → values.length = e.cols → row < e.rows → x.ended = false → (∀ y ∈ x.rows, y.1 ≠ row) →
        ∃ t, exec (.rowGrad f tensor step row values) s = .next t ∧ s.restKept t ∧ w.memoriesKept t.w ∧ (row, values) ∈ (t.w.grad p tensor).rows
          ∧ (∀ y ∈ x.rows, y ∈ (t.w.grad p tensor).rows) ∧ t.w.kiln.queue = w.kiln.queue)
      ∧ (∀ (row : Nat) (values : List (BitVec 32)), e.rowTable = true → values.length = e.cols → row < e.rows → (∃ y ∈ x.rows, y.1 = row) →
        ∃ t, exec (.rowGrad f tensor step row values) s = .next t ∧ s.restKept t ∧ w.memoriesKept t.w ∧ (t.w.part p).job = .stopped
          ∧ w.saw t.w 3 klnSource 0x102 (0x51 * 2 ^ 24 + tensor % 2 ^ 24))
      ∧ (∀ touched, e.rowTable = true → x.ended = false → ∃ t, exec (.rowsEnd f tensor step touched) s = .next t ∧ s.restKept t ∧ w.memoriesKept t.w
          ∧ (t.w.grad p tensor).ended = true ∧ t.w.kiln.queue = w.kiln.queue ++ (if x.rows.isEmpty then [] else [(p, g, i)])))
    ∧ (∀ offset, w.jobRuns p = true → offset + 256 ≤ w.hbmCapacity p → w.hbmFailed p offset 256 = false →
      ∃ t, exec (.kilnRead f offset) s = .next t ∧ s.restKept t ∧ w.memoriesKept t.w
        ∧ t.w.out = w.out ++ [.kiln true 6 p [0] [], .kiln true 2 p [offset] (w.hbmRead p offset 256)])
    ∧ (∀ (offset : Nat) (data : List Byte), ∃ t, exec (.kilnReadData f offset data) s = .next t ∧ s.restKept t ∧ w.memoriesKept t.w
      ∧ t.w.counter .kln 0 0x0C8 = w.counter .kln 0 0x0C8 + BitVec.ofNat 64 f.crcFailures.val
      ∧ w.kiln.buffer.wrote t.w.kiln.buffer (p * 2 ^ 48 + offset) (slice data 0 256) ∧ p * 2 ^ 48 + offset ∈ t.w.kiln.grains)
    ∧ ∀ (tensor step offset first count : Nat), w.kilnLive p = true → w.kilnClosed p step = true → w.forwards 3 →
      ∃ t, exec (.gradReady f tensor step offset first count) s = .next t ∧ s.restKept t ∧ w.memoriesKept t.w ∧ (t.w.part p).job = .stopped
        ∧ w.raised t.w klnSource 0x102 (0x53 * 2 ^ 24 + tensor % 2 ^ 24)

/-- R304, R315, R319, R320: KILN_ENTRY_UPDATE updates the first complete entry of a partition: a frozen one is left and counted; one with a non-finite gradient is skipped, with KILN_SKIP; else the
block's header counts the update and the masters become what the rule makes of them (elementwise kinds), for a table the records of the touched rows. -/
def Obligations.KilnUpdatesEntries : Prop :=
  ∀ (s : Machine.State) (part : PartId) (g i : Nat) (r : KilnRule) (e : KilnEntry), s.inService = true →
    let p := part.val
    let w := s.w
    let n := w.matrixElements p e
    let x := w.grad p e.tensor
    let first := (w.homedRows p (w.kilnTensor p e)).1 * e.cols
    let grads := (List.range n).map fun k => fp32.decode (w.gradElement p x (first + k))
    let hd := (w.bumpHeader p r e).1
    let hyper := r.hyper ((w.part p).bundle.elim [] (·.schedules)) (w.part p).step hd.2.1 hd.2.2
    (w.kiln.queue.find? fun q => decide (q.1 = p)) = some (p, g, i) → w.kilnEntryAt p g i = some (r, e) → w.kilnLive p = true →
    ((w.part p).running = false ∨ (w.part p).eval = false) → w.cowHeld p e.tensor = false → w.gradArrived p x = true → w.kiln.freezes = [] →
    AMap.get 0 w.kiln.closing p = 0 → w.blockFits p r e →
    let left := fun (t : Machine.State) => s.restKept t ∧ t.w.hbm = w.hbm ∧ t.w.tun = w.tun ∧ t.w.cstore = w.cstore
      ∧ t.w.kiln.queue = w.kiln.queue.filter fun q => decide (q ≠ (p, g, i))
    ((p, g, i) ∈ w.kiln.frozen → ∃ t, exec (.kilnEntryUpdate part) s = .next t ∧ left t ∧ t.w.cellar = w.cellar
        ∧ AMap.get 0 t.w.counters (Block.kln.addr 0 0x098) = AMap.get 0 w.counters (Block.kln.addr 0 0x098) + 1)
    ∧ ((p, g, i) ∉ w.kiln.frozen → e.rowTable = false → (∃ v ∈ grads, v.isFinite = false) → w.forwards 2 →
      ∃ t, exec (.kilnEntryUpdate part) s = .next t ∧ left t ∧ t.w.cellar = w.cellar ∧ w.raised t.w klnSource 0x10B e.tensor
        ∧ AMap.get 0 t.w.counters (Block.kln.addr 0 0x0A0) = AMap.get 0 w.counters (Block.kln.addr 0 0x0A0) + 1)
    ∧ ((p, g, i) ∉ w.kiln.frozen → e.rowTable = false → (∀ v ∈ grads, v.isFinite = true) → r.kind ≠ 4 →
      ∃ t, exec (.kilnEntryUpdate part) s = .next t ∧ left t
        ∧ t.w.cellarRead p e.cellar 24 = leBytes 8 hd.1 ++ leBytes 8 hd.2.1 ++ leBytes 8 hd.2.2
        ∧ t.w.cellarRead p (e.cellar + 64) (6 * n) = masterBytes (w.matrixStep p r e hyper hd.1 n grads (w.masterArray p e n)).1
        ∧ AMap.get 0 t.w.counters (Block.kln.addr 0 0x088) = AMap.get 0 w.counters (Block.kln.addr 0 0x088) + BitVec.ofNat 64 n
        ∧ (p, g, i) ∈ t.w.kiln.updated)
    ∧ ∀ (row a : Nat) (vs : List (BitVec 32)), (p, g, i) ∉ w.kiln.frozen → e.rowTable = true → x.rows = [(row, vs)] →
      (∀ v ∈ vs, (fp32.decode v.toNat).isFinite = true) → w.rowFrozen p r e row = false → w.ownRecord p r e row = some a →
      (∀ f, (w.part p).entry e.tensor = some f → f.fullRewrite = false) → w.moveTarget p e.tensor row = none →
      ∃ t, exec (.kilnEntryUpdate part) s = .next t ∧ left t
        ∧ t.w.rowRecord p r e row = (rowStep r e hyper hd.1 (vs.map fun v => fp32.decode v.toNat) (w.rowRecord p r e row)).1
        ∧ AMap.get 0 t.w.counters (Block.kln.addr 0 0x090) = AMap.get 0 w.counters (Block.kln.addr 0 0x090) + 1

/-- R300, R317, R318, R321, R323, R324: EMIT writes its grain to the pending version and is acknowledged; an acknowledgement counts off; a moving row's record leaves in a KILN_STATE packet, and at its new home
becomes the row's record with its freeze flag; STEP_CLOSE closes the step, and with nothing left to do STEP_DONE follows; STEP_DONE meets the Kiln's condition of the step; the third failed retrain in a
row leaves the link down and stops every partition. -/
def Obligations.KilnFramesTakeEffect : Prop :=
  ∀ (s : Machine.State) (f : KilnFrame), s.inService = true →
    let p := f.part.val
    let w := s.w
    let x := w.part p
    (∀ (tensor offset : Nat) (data : List Byte) (e : DirEntry), x.entry tensor = some e → w.jobRuns p = true → offset + 256 ≤ e.bytes →
      (∀ y ∈ x.dir, y.catchupDone = true) → x.good.Nodup → e.penBase + offset + 256 ≤ w.hbmCapacity p →
      w.hbmFailed p (e.penBase + offset) 256 = false →
      (∀ y ∈ x.dir, ∀ r ∈ y.touched (e.penBase + offset) 256, ∀ j < 256, hbmKey x.good (y.dirty + r / 8) ≠ hbmKey x.good (e.penBase + offset + j)) →
      ∃ t, exec (.emit f tensor offset data) s = .next t ∧ s.restKept t ∧ w.onlyHbm t.w ∧ t.w.hbmRead p (e.penBase + offset) 256 = slice data 0 256
        ∧ t.w.out.getLast? = some (.kiln true 6 p [1] []))
    ∧ (∀ what : AckOf, what ≠ .stateIn → AMap.get 0 w.kiln.closing p = 0 → ∃ t, exec (.kilnAck f what) s = .next t ∧ s.restKept t ∧ w.memoriesKept t.w
        ∧ AMap.get 0 t.w.kiln.reads p = AMap.get 0 w.kiln.reads p - (if what = .read then 1 else 0)
        ∧ AMap.get 0 t.w.kiln.unacked p = AMap.get 0 w.kiln.unacked p - (if what = .read then 0 else 1))
    ∧ (∀ pos tag rest, w.kiln.stateFrom = (pos, tag) :: rest → w.reaches pos → ∃ t, exec (.kilnAck f .stateIn) s = .next t ∧ s.restKept t ∧ w.memoriesKept t.w
        ∧ t.w.kiln.stateFrom = rest ∧ w.sent t.w 0x04 pos [])
    ∧ (∀ (tensor row position : Nat) (frozen : Bool) (record : List Byte), p = 0 → w.jobRuns 0 = true → w.reaches position →
      ∃ t, exec (.stateOut f tensor row position frozen record) s = .next t ∧ s.restKept t ∧ w.memoriesKept t.w
        ∧ w.sent t.w 0x0C position (leBytes 4 tensor ++ leBytes 6 row ++ leBytes 1 (if frozen then 1 else 0) ++ List.replicate 5 0 ++ record))
    ∧ (∀ (tensor row g i a : Nat) (frozen : Bool) (record : List Byte) (r : KilnRule) (e : KilnEntry) (d : DirEntry) (o : Nat × Nat × Nat),
      w.kilnEntryOf p tensor = some (g, i, r, e) → x.entry tensor = some d → w.kilnLive p = true →
      (d.penOver.find? fun y => decide (y.1 = row)) = some o → o.2.1 = w.ownPosition → w.ownRecord p r e row = some a →
      w.blockFits p r e →
      ∃ t, exec (.stateIn f tensor row frozen record) s = .next t ∧ s.restKept t ∧ t.w.hbm = w.hbm ∧ t.w.tun = w.tun ∧ t.w.cstore = w.cstore
        ∧ t.w.rowRecord p r e row = slice record 0 (r.recordBytes e.cols) ∧ t.w.rowFrozen p r e row = frozen ∧ t.w.out = w.out ++ [.kiln false 6 p [2] []])
    ∧ (∀ step, w.kilnLive p = true → w.kilnClosed p step = false →
      ((∃ q ∈ w.kiln.queue, q.1 = p) → ∃ t, exec (.stepClose f step) s = .next t ∧ s.restKept t ∧ w.memoriesKept t.w ∧ t.w.kilnClosed p step = true ∧ t.w.out = w.out)
      ∧ ((∀ q ∈ w.kiln.queue, q.1 ≠ p) → w.kiln.freezes = [] → w.kilnRules p = [] → x.accepted = [] → AMap.get 0 w.kiln.unacked p = 0 →
        AMap.get 0 w.kiln.reads p = 0 →
        ∃ t, exec (.stepClose f step) s = .next t ∧ s.restKept t ∧ w.memoriesKept t.w ∧ t.w.kilnClosed p step = true
          ∧ t.w.out = w.out ++ [.kiln false 10 p [step] []] ∧ t.w.reg (Block.kln.addr 0 (0x030 + 8 * p)) = BitVec.ofNat 64 step))
    ∧ (∀ step, w.jobRuns p = true → x.step = step → x.closeSent = true → ∃ t, exec (.stepDone f step) s = .next t ∧ s.restKept t ∧ w.memoriesKept t.w
        ∧ (t.w.part p).kilnDone = true ∧ (t.w.part p).step = step)
    ∧ (∃ t, exec (.kilnLinkRetrain true) s = .next t ∧ s.restKept t ∧ w.memoriesKept t.w ∧ t.w.kiln = { w.kiln with failedRetrains := 0 }
        ∧ AMap.get 0 t.w.counters (Block.kln.addr 0 0x0C8) = AMap.get 0 w.counters (Block.kln.addr 0 0x0C8) + 8)
    ∧ (w.kiln.failedRetrains = 2 → ∃ t, exec (.kilnLinkRetrain false) s = .next t ∧ s.restKept t ∧ w.memoriesKept t.w ∧ t.w.kiln.linkDown = true
        ∧ ∀ q < w.partCount, (t.w.part q).job ≠ .running)

/-- R315, R316, R331: a freeze command that names an entry, and for rows a row table, and a later step is accepted and waits for that step; one that comes too late changes nothing but KLN_STICKY, the count
and its result; one that names no entry is refused in its result. -/
def Obligations.FreezeCommandsAreAcceptedOrLate : Prop :=
  ∀ (s : Machine.State) (part : PartId) (rule entry eff : Nat), s.inService = true →
    (∃ t, exec (.freezeEntry part rule entry eff) s = .next t ∧ s.restKept t ∧ s.w.freezeTaken t.w part.val rule entry eff true false)
    ∧ (∃ t, exec (.thawEntry part rule entry eff) s = .next t ∧ s.restKept t ∧ s.w.freezeTaken t.w part.val rule entry eff false false)
    ∧ (s.w.freezeListRead part.val →
      (∃ t, exec (.freezeRows part rule entry eff) s = .next t ∧ s.restKept t ∧ s.w.freezeTaken t.w part.val rule entry eff true true)
      ∧ ∃ t, exec (.thawRows part rule entry eff) s = .next t ∧ s.restKept t ∧ s.w.freezeTaken t.w part.val rule entry eff false true)

/-! ### Packets (chapter 11) -/

/-- R251, R265, R266, R397: READ_REQ is answered with the bytes of this module's HBM, or with none where the range leaves the partition or exceeds what a request may ask; READ_DATA goes
to the stream or the gather that asked; WRITE stores the bytes that its mask selects and no other and is acknowledged, and one out of range is acknowledged with its address; WRITE_ACK completes a write. -/
def Obligations.PacketsReadAndWriteMemory : Prop :=
  ∀ (s : Machine.State) (q : Packet), s.inService = true → s.w.comes q →
    let w := s.w
    let src := q.src.toNat
    let off := addrOffset q.address.toNat
    let n := leAt q.payload 0 4
    let c := tagInst q.tag.toNat
    (w.jobRuns 0 = true → w.reaches src → addrSpace q.address.toNat ≠ 3 → w.hbmFailed 0 off n = false →
      (∀ x, (w.part 0).rowAt DirEntry.curBase off = some x → w.readsRow 0 x.1 x.2 = true) →
      ∃ t, exec (.readReq q) s = .next t ∧ s.restKept t ∧ w.memoriesKept t.w
        ∧ w.sent t.w 2 src (if 0 < n ∧ n ≤ 2048 ∧ off + n ≤ w.hbmCapacity 0 then w.hbmRead 0 off n else []))
    ∧ (∀ r : AxeRun, tagKind q.tag.toNat = 0 → q.payload ≠ [] →
      ((w.core c).axe.streams.find? fun y => decide (y.waitTag = some q.tag.toNat)) = some r →
      ∃ t, exec (.readData q) s = .next t ∧ s.restKept t ∧ w.memoriesKept t.w ∧ t.w.out = w.out
        ∧ (t.w.core c).axe.streams = (w.core c).axe.streams.map fun y =>
            if y.op.serial = r.op.serial then { y with fetched := y.fetched ++ q.payload, waitTag := none } else y)
    ∧ (∀ (x : Nat × Nat) (o : IssuedOp) (rest : List IssuedOp), tagKind q.tag.toNat = 3 → q.payload ≠ [] →
      ((w.cluster c).gsu.remote.find? fun y => decide (y.1 = q.tag.toNat)) = some x → (w.cluster c).gsu.pending = o :: rest →
      ∃ t, exec (.readData q) s = .next t ∧ s.restKept t ∧ w.memoriesKept t.w ∧ t.w.out = w.out
        ∧ AMap.get [] (t.w.cluster c).gsu.rows x.2 = q.payload ∧ ∀ y ∈ (t.w.cluster c).gsu.remote, y.1 ≠ q.tag.toNat)
    ∧ (w.jobRuns 0 = true → w.reaches src → addrSpace q.address.toNat ≠ 3 →
      (q.payload ≠ [] → w.plainHbm 0 off q.payload.length → w.hbmFailed 0 off q.payload.length = false →
        (q.mask = [] ∨ q.mask.length = q.payload.length) →
        ∃ t, exec (.write q) s = .next t ∧ s.restKept t ∧ w.onlyHbm t.w
          ∧ w.grainWrote t.w 0 off { data := q.payload, length := q.payload.length, mask := q.mask } ∧ w.sent t.w 4 src [])
      ∧ (w.hbmCapacity 0 < off + q.payload.length →
        ∃ t x, exec (.write q) s = .next t ∧ s.restKept t ∧ w.memoriesKept t.w ∧ t.w.out = w.out ++ [.packet 4 x] ∧ x.dst.toNat = src
          ∧ x.address = q.address ∧ x.tag = q.tag))
    ∧ (∀ x : Nat × Nat, tagKind q.tag.toNat = 1 → q.address = 0 → w.noGuards → ((w.core c).signals.find? fun y => decide (y.1 = q.tag.toNat)) = some x →
      ∃ t, exec (.writeAck q) s = .next t ∧ s.restKept t ∧ w.memoriesKept t.w ∧ t.w.out = w.out
        ∧ (t.w.core c).signals = (w.core c).signals.filter fun y => decide (y.1 ≠ q.tag.toNat))

/-- R198 to R200, R244, R249, R323, R356: NMR_ACK counts a contribution of a SCATTER off; SIGNAL adds to a watch counter and is answered, and SIGNAL_ACK completes a SIGNAL; a request to
migrate a row homed here is accepted and told to every position; KILN_STATE goes on to the Kiln; a sample request is drawn for and answered, or answered with status 1 where its bundle
is not this one; a reply's part is kept until all parts are here, and then the draw of its parent stands. -/
def Obligations.PacketsReachTheirUnits : Prop :=
  ∀ (s : Machine.State) (q : Packet), s.inService = true → s.w.comes q →
    let w := s.w
    let src := q.src.toNat
    let b := q.payload
    let k := tagInst q.tag.toNat
    (∃ t, exec (.nmrAck q) s = .next t ∧ s.restKept t ∧ w.memoriesKept t.w ∧ t.w.out = w.out
      ∧ (t.w.cluster k).gsu.unacked = (w.cluster k).gsu.unacked.map fun x => (x.1, x.2 - 1))
    ∧ (let c := leAt b 0 2; let x := leAt b 2 1 % 64;
      w.jobRuns 0 = true → c < 384 → w.partOfCore c = 0 → w.reaches src →
      ∃ t, exec (.fabSignal q) s = .next t ∧ s.restKept t ∧ w.memoriesKept t.w ∧ w.sent t.w 0x0A src []
        ∧ AMap.get 0 (t.w.core c).watches x = AMap.get 0 (w.core c).watches x + BitVec.ofNat 64 (leAt b 4 2))
    ∧ (∃ t, exec (.signalAck q) s = .next t ∧ s.restKept t ∧ w.memoriesKept t.w ∧ t.w.out = w.out
      ∧ (t.w.core k).signals = (w.core k).signals.filter fun y => decide (y.1 ≠ q.tag.toNat))
    ∧ (∀ e : DirEntry, let row := leAt b 0 8; let target := leAt b 8 2; let off := addrOffset q.address.toNat;
      w.jobRuns 0 = true → ((w.part 0).dir.find? fun e => decide (e.kind = 1) && (decide (e.override0 = off) || decide (e.override1 = off))) = some e →
      row < e.records → w.homesRow 0 e row = true → target ≠ w.ownPosition → (∀ x ∈ e.curOver, x.1 ≠ row) → e.penOver.length < 65536 →
      (∀ x ∈ (w.part 0).accepted, x.1 = e.tensor → x.2.1 ≠ row) → (w.part 0).forwarding.length + (w.part 0).accepted.length < 4096 →
      ∃ t x, exec (.migrate q) s = .next t ∧ s.restKept t ∧ w.onlyHbm t.w
        ∧ (t.w.part 0).accepted = (w.part 0).accepted ++ [(e.tensor, row, target)] ∧ t.w.out = w.out ++ [.packet 0x0B x] ∧ pktMulticast x = true)
    ∧ (∃ t, exec (.kilnState q) s = .next t ∧ s.restKept t ∧ w.memoriesKept t.w
      ∧ t.w.kiln.stateFrom = w.kiln.stateFrom ++ [(src, q.tag.toNat)]
      ∧ t.w.out = w.out ++ [.kiln true 8 0 [leAt b 0 4, leAt b 4 6, leAt b 10 1 % 2] (b.drop 16)])
    ∧ (∀ (bd : Bundle) (plan : Plan), let node := leAt b 16 8; let hop := leAt b 2 1;
      let base := ((w.part 0).entry plan.graph).elim 0 (·.curBase);
      let shard := w.shardOfNode 0 base (w.hbmRead 0 base 128) node;
      (w.part 0).bundle = some bd → w.plan 0 (leAt b 1 1) = some plan → w.reaches src →
      (∀ (es : List DrawEdge) (w1 : World), leAt bd.digest 0 4 = leAt b 28 4 → 0 < hop → hop ≤ plan.hops → (shard.bind (w.shardAway 0)) = none →
        (w.arrived s.sid 7 q).drawNode (w.homeCluster (shard.getD 0)) 0 plan hop (leAt b 8 8) node (leAt b 24 4) = .ok (es, w1) → es.length ≤ 64 →
        ∃ t, exec (.sampleReq q) s = .next t ∧ s.restKept t ∧ w.memoriesKept t.w
          ∧ w.sent t.w 8 src (replyImage 0 0 (leAt b 4 4) node 0 es.length true es))
      ∧ (leAt bd.digest 0 4 ≠ leAt b 28 4 →
        ∃ t, exec (.sampleReq q) s = .next t ∧ s.restKept t ∧ w.memoriesKept t.w ∧ w.sent t.w 8 src (replyImage 1 0 (leAt b 4 4) node 0 0 true [])))
    ∧ (∀ (r : SmpRun) (x : RemoteDraw) (plan : Plan), let p := w.partOfCluster k;
      let base := ((w.part p).entry plan.graph).elim 0 (·.curBase);
      let es := replyEdges (plan.hop.getD (r.hop - 1) {}).mode ((w.shardOfNode p base (w.hbmRead p base 128) x.node).getD 0) b;
      let y := { x with parts := x.parts ++ [(leAt b 16 4, es)], lastPart := if bitAt (leAt b 22 2) 0 then some (leAt b 16 4) else x.lastPart };
      (w.cluster k).smp.run = some r → (r.remote.find? fun z => decide (z.tag = leAt b 4 4)) = some x → w.plan p r.plan = some plan → leAt b 1 1 = 0 →
      ∃ t r1, exec (.sampleReply q) s = .next t ∧ s.restKept t ∧ w.memoriesKept t.w ∧ (t.w.cluster k).smp.run = some r1
        ∧ (y.whole = none → r1.draws = r.draws ∧ y ∈ r1.remote) ∧ ∀ all, y.whole = some all → AMap.get none r1.draws x.parent = some all)

/-- R29, R398, R399, R426: a packet with ORDER waits until the packets of its pair sent before it are here; one for the next step waits for it; one for any other step stops the job
with METADATA 0x70 and is recorded in FAB_FAULT.
R397, R401 to R405, R408: a packet of a reserved KIND is counted and dropped; one in transit takes a free buffer of its CLASS, or waits where two (within its CLASS, one) are not free, and leaves
on its route with a CLASS that is never lower when its input is the next that its output serves; one on a circuit passes outside of the buffers; one for a failed module is dropped
and counted. -/
def Obligations.PacketsWaitOrTravelInClass : Prop :=
  (∀ (s : Machine.State) (i : Instr) (kind : Nat) (q : Packet), s.inService = true → packetOf i = some (kind, q) →
      s.w.fab.trained = true → s.w.fab.position.isSome = true → addrSpace q.address.toNat ≠ 3 →
      let w := s.w
      let src := q.src.toNat
      let n := (w.part 0).step % 256
      (pktOrder q = true → AMap.get 0 w.fab.pairReceived src < q.pairCount →
        ∃ t, exec i s = .next t ∧ s.restKept t ∧ w.memoriesKept t.w ∧ t.w.out = w.out ∧ t.w.fab.orderHeld = w.fab.orderHeld ++ [(kind, q)]
          ∧ t.w.cores = w.cores ∧ t.w.clusters = w.clusters ∧ w.counted t.w .fab 0 0x098)
      ∧ (pktOrder q = false → pktStepped q = true → w.fab.orderHeld = [] → w.jobRuns 0 = true →
        (q.stepTag.toNat = (n + 1) % 256 →
          ∃ t, exec i s = .next t ∧ s.restKept t ∧ w.memoriesKept t.w ∧ t.w.out = w.out ∧ t.w.fab.stepHeld = w.fab.stepHeld ++ [(kind, q)]
            ∧ t.w.cores = w.cores ∧ t.w.clusters = w.clusters ∧ w.counted t.w .fab 0 0x0A8)
        ∧ (q.stepTag.toNat ≠ n → q.stepTag.toNat ≠ (n + 1) % 256 → w.forwards 3 →
          ∃ t, exec i s = .next t ∧ s.restKept t ∧ w.memoriesKept t.w ∧ (t.w.part 0).job = .stopped
            ∧ w.raised t.w (ioSource 0) 0x102 (0x70 * 2 ^ 24 + src) ∧ t.w.regField (Block.fab.addr 0 0x030) 63 1 = 1
            ∧ t.w.regField (Block.fab.addr 0 0x030) 16 14 = src)))
  ∧ (∀ (s : Machine.State) (kind : BitVec 8) (q : Packet), s.inService = true → s.w.fab.trained = true → (kind.toNat = 0 ∨ 0x12 ≤ kind.toNat) →
      s.w.fab.orderHeld = [] →
      ∃ t, exec (.badPacket kind q) s = .next t ∧ s.restKept t ∧ s.w.memoriesKept t.w ∧ t.w.out = s.w.out ∧ t.w.cores = s.w.cores
        ∧ t.w.clusters = s.w.clusters ∧ s.w.counted t.w .fab 0 0x0D8 ∧ s.w.counted t.w .fab 0 0x088)
  ∧ (∀ (s : Machine.State) (port : PortId) (continues : Bool) (kind : BitVec 8) (q : Packet) (phys : Nat), s.inService = true → s.w.fab.trained = true →
      s.w.portUp port.val = true → s.w.physicalOf q.dst.toNat = some phys →
      let w := s.w
      let cls := bitsAt q.flags.toNat 4 2
      let key := 4 * port.val + cls
      let held := AMap.get [] w.fab.buffers key
      let circuit := bitAt q.flags.toNat 3
      let room := decide (held.length + (if continues then 1 else 2) ≤ 8)
      (w.fab.failed.contains phys = true →
        ∃ t, exec (.packetHop ⟨port, continues⟩ kind q) s = .next t ∧ s.restKept t ∧ w.memoriesKept t.w ∧ t.w.out = w.out ∧ w.counted t.w .fab 0 0x0A0
          ∧ AMap.get [] t.w.fab.buffers key = held.erase (kind.toNat, q))
      ∧ (w.fab.failed.contains phys = false → circuit = false → held.contains (kind.toNat, q) = false →
        ∃ t, exec (.packetHop ⟨port, continues⟩ kind q) s = .next t ∧ s.restKept t ∧ w.memoriesKept t.w ∧ t.w.out = w.out
          ∧ AMap.get [] t.w.fab.buffers key = (if room then held ++ [(kind.toNat, q)] else held)
          ∧ (room = false → continues = false → w.counted t.w .fab 0 0x0D0))
      ∧ (w.fab.failed.contains phys = false → circuit = false → held.contains (kind.toNat, q) = true →
        (w.inputServed (w.transitHop q phys).1 = some port.val →
          ∃ t q', exec (.packetHop ⟨port, continues⟩ kind q) s = .next t ∧ s.restKept t ∧ w.memoriesKept t.w ∧ t.w.out = w.out ++ [.packet kind.toNat q']
            ∧ AMap.get [] t.w.fab.buffers key = held.erase (kind.toNat, q) ∧ q'.dst = q.dst ∧ q'.src = q.src ∧ q'.payload = q.payload ∧ q'.tag = q.tag
            ∧ cls ≤ bitsAt q'.flags.toNat 4 2 ∧ AMap.get 0 t.w.fab.portTurn (w.transitHop q phys).1 = (port.val + 1) % 48)
        ∧ (w.inputServed (w.transitHop q phys).1 ≠ some port.val → exec (.packetHop ⟨port, continues⟩ kind q) s = .next s))
      ∧ (w.fab.failed.contains phys = false → circuit = true →
        ∃ t q', exec (.packetHop ⟨port, continues⟩ kind q) s = .next t ∧ s.restKept t ∧ w.memoriesKept t.w ∧ t.w.out = w.out ++ [.packet kind.toNat q']
          ∧ t.w.fab.buffers = w.fab.buffers ∧ q'.dst = q.dst ∧ q'.src = q.src ∧ q'.payload = q.payload ∧ cls ≤ bitsAt q'.flags.toNat 4 2))

/-! ### Collectives, the tree, ports and drains (chapter 11) -/

/-- R414, R415: the collective engine sends each other home's partial cells, once in a run; a home adds the cells that arrive to its own, integers over the full width and flags by OR, the
first of a generation to zeros; with the last position's cells in, each element is read out in FP32 to OUT, the Kiln is told and the home's report goes up the tree. -/
def Obligations.ReduceAddsAtHomes : Prop :=
  ∀ s : Machine.State, s.inService = true →
    let w := s.w
    (∀ (tensor : Nat) (x : Tensor) (m : ShardMap), w.reduceMap tensor = some (x, m) → w.jobRuns 0 = true → w.fab.position.isSome = true →
      w.canSend = true → tensor ∉ w.fab.reduceSent → w.reduceDue m = true →
      (∀ d < w.config.positions, (w.reduceRange m d).1 < (w.reduceRange m d).2 →
        w.config.positionAt d ≠ w.ownPosition ∧ w.reaches (w.config.positionAt d)) → (∀ a n, w.hbmFailed 0 a n = false) →
      ∃ t, exec (.reduceStart tensor) s = .next t ∧ s.restKept t ∧ w.memoriesKept t.w ∧ t.w.fab.reduceSent = w.fab.reduceSent ++ [tensor]
        ∧ ∀ d < w.config.positions,
          let b := cellBytes x.recipe.w128
          let per := 2048 / b
          let r := w.reduceRange m d
          let home := w.config.positionAt d
          ∀ i < ceilDiv (r.2 - r.1) per, ∃ q, Output.packet 0x0D q ∈ t.w.out ∧ q.dst = BitVec.ofNat 14 home
            ∧ q.address = BitVec.ofNat 64 (globalAddr home (m.accum + b * per * i))
            ∧ q.payload = ((List.range (min per (r.2 - r.1 - per * i))).map fun j =>
                w.partialCell x m (shardsOf w.config.positions (w.loadEnv 0).dense) (r.1 + per * i + j)).flatMap (cellImage x.recipe.w128))
    ∧ ∀ (q : Packet) (x : Tensor) (m : ShardMap) (i count : Nat), w.comes q → w.jobRuns 0 = true → w.reduceAt (addrOffset q.address.toNat) = some (x, m) →
      let w128 := x.recipe.w128
      let b := cellBytes w128
      let src := q.src.toNat
      let r := w.reduceRange m (w.loadEnv 0).dense
      let n := r.2 - r.1
      let old := w.fab.reduces.find? fun y => decide (y.tensor = x.id)
      let got := fun (p : Nat) => AMap.get 0 (old.elim [] (·.got)) p
      let cell := fun (j : Nat) => parseCell w128 (slice q.payload (b * j) b)
      addrOffset q.address.toNat = m.accum + b * i → q.payload.length = b * count → 0 < count → i + count ≤ n → w.plainHbm 0 m.accum (b * n) →
      w.hbmFailed 0 m.accum (b * n) = false → w.hbmFailed 0 m.out (4 * n) = false →
      ((∃ d < w.config.positions, w.config.positionAt d ≠ src ∧ got (w.config.positionAt d) ≠ n) →
        ∃ t bs, exec (.reduceData q) s = .next t ∧ s.restKept t ∧ w.onlyHbm t.w ∧ t.w.out = w.out ∧ bs.length = b * n ∧ w.hbmWrote t.w 0 m.accum bs
          ∧ (∀ j < n, parseCell w128 (slice bs (b * j) b) =
              let was := if old.isSome then parseCell w128 (w.hbmRead 0 (m.accum + b * j) b) else (0, false, false)
              if i ≤ j ∧ j < i + count then cellAdd w128 was (cell (j - i)) else was)
          ∧ ∃ y ∈ t.w.fab.reduces, y.tensor = x.id ∧ AMap.get 0 y.got src = got src + count)
      ∧ (old.isSome = true → (∀ d < w.config.positions, w.config.positionAt d ≠ src → got (w.config.positionAt d) = n) → got src + count = n →
        w.plainHbm 0 m.out (4 * n) → rangesMeet m.accum (b * n) m.out (4 * n) = false →
        ∃ t, exec (.reduceData q) s = .next t ∧ s.restKept t ∧ w.onlyHbm t.w ∧ (∀ y ∈ t.w.fab.reduces, y.tensor ≠ x.id)
          ∧ (∀ j < n, leNat (t.w.hbmRead 0 (m.out + 4 * j) 4) =
              (readCell w128 x.recipe.windowT (parseCell w128 (t.w.hbmRead 0 (m.accum + b * j) b))).1 % 2 ^ 32)
          ∧ t.w.out = w.out ++ [.kiln true 0 0 [m.target, (w.part 0).step, m.out, r.1, n] [],
              .tree true { kind := 2, barrier := m.barrier, entries := 1, step := (w.part 0).step, fromPosition := w.ownPosition }])

/-- R415 to R417, R484: a head keeps the sum of the reports of a generation and sends it on when every position has reported, the domain head the result down; the step barrier also waits
until the multicast grains received are those sent. A member's report of the next generation waits in one of its two receive buffers until the generation in combination is sent on. ABORT goes on at once, and the domain head then completes the step barrier with ABORT, once. -/
def Obligations.TreeCombinesReports : Prop :=
  ∀ (s : Machine.State) (m : TreeMsg), s.inService = true → s.w.fab.trained = true →
    let w := s.w
    let key := genKey m
    let g := w.gen key
    let n := g.msg.entries + m.entries
    (w.domainHead = false → w.groupHead = true →
      (m.abort = true → ∃ t, exec (.treeUp m) s = .next t ∧ s.restKept t ∧ t.w = { w with out := w.out ++ [.tree true m] })
      ∧ (m.abort = false → m.kind.toNat < 2 → 0 < m.entries → m.fromPosition ∉ g.reports → w.treeSettled key →
        (n < w.config.activeSlots → ∃ t, exec (.treeUp m) s = .next t ∧ s.restKept t ∧ t.w.out = w.out ∧ t.w.cores = w.cores ∧ t.w.parts = w.parts
          ∧ (t.w.gen key).msg.entries = n ∧ (t.w.gen key).msg.sent = g.msg.sent + m.sent ∧ (t.w.gen key).msg.received = g.msg.received + m.received
          ∧ m.fromPosition ∈ (t.w.gen key).reports)
        ∧ (w.config.activeSlots ≤ n → ∃ t m', exec (.treeUp m) s = .next t ∧ s.restKept t ∧ t.w.out = w.out ++ [.tree true m'] ∧ t.w.parts = w.parts
          ∧ m'.entries = n ∧ m'.sent = g.msg.sent + m.sent ∧ m'.received = g.msg.received + m.received ∧ m'.fromPosition = w.ownPosition
          ∧ t.w.gen key = {}))
      ∧ (m.abort = false → m.kind.toNat < 2 → 0 < m.entries → m.fromPosition ∈ g.reports → g.msg.entries < w.config.activeSlots → w.treeSettled key →
        (w.fab.treeHeld.filter fun y => decide (y.fromPosition = m.fromPosition) && decide (y.kind = m.kind)).length < 2 →
        ∃ t, exec (.treeUp m) s = .next t ∧ s.restKept t ∧ t.w = { w with fab := { w.fab with treeHeld := w.fab.treeHeld ++ [m] } })
      ∧ (∀ y : TreeMsg, m.abort = false → m.kind.toNat < 2 → 0 < m.entries → m.fromPosition ∉ g.reports → w.config.activeSlots ≤ n → w.fab.treeHeld = [y] →
        genKey y = key → y.fromPosition ∈ g.reports → 0 < y.entries → y.entries < w.config.activeSlots →
        ∃ t, exec (.treeUp m) s = .next t ∧ s.restKept t ∧ t.w.fab.treeHeld = [] ∧ (t.w.gen key).msg.entries = y.entries
          ∧ (t.w.gen key).reports = [y.fromPosition]))
    ∧ (w.domainHead = true → w.fab.aborted = false →
      (m.kind = 0 → m.abort = true → ∃ t a, exec (.treeUp m) s = .next t ∧ s.restKept t ∧ t.w.out = w.out ++ [.tree false a] ∧ a.abort = true
        ∧ a.kind = 0 ∧ a.step = m.step ∧ t.w.fab.aborted = true)
      ∧ (m.kind = 0 → m.barrier % 16 = 0 → m.abort = false → 0 < m.entries → m.fromPosition ∉ g.reports → w.fab.drain.active = false → w.fab.drain.requested = false →
        w.treeSettled key →
        let sent := g.msg.sent + m.sent
        let received := g.msg.received + m.received
        (n < w.config.positions ∨ received ≠ (w.config.positions - 1) * sent →
          ∃ t, exec (.treeUp m) s = .next t ∧ s.restKept t ∧ t.w.out = w.out ∧ (t.w.gen key).msg.entries = n)
        ∧ (w.config.positions ≤ n → received = (w.config.positions - 1) * sent →
          ∃ t m', exec (.treeUp m) s = .next t ∧ s.restKept t ∧ t.w.out = w.out ++ [.tree false m'] ∧ m'.entries = n ∧ m'.fromPosition = w.ownPosition
            ∧ t.w.gen key = {})))

/-- R28, R219, R359, R413, R417, R481: the result of the step barrier switches the step at a module that has entered it: STEP rises by 1 and every versioned table's current and pending
version change places; the result of a domain barrier completes its generation here; a committed cask's result commits it here; ABORT stops partition 0's job; a group's head sends each
on. A generation that has not completed in DOMAIN_BARRIER_MS is completed with ABORT, and DEADLOCK names a position that is missing. -/
def Obligations.TreeResultsTakeEffect : Prop :=
  ∀ s : Machine.State, s.inService = true → s.w.fab.trained = true → s.w.fab.position.isSome = true →
    let w := s.w
    (∀ m : TreeMsg,
      let relay := if w.groupHead = true ∧ w.domainHead = false then [Output.tree false m] else []
      (m.kind = 0 → m.abort = true → w.jobRuns 0 = true → ∃ t, exec (.treeDown m) s = .next t ∧ s.restKept t ∧ w.memoriesKept t.w
        ∧ (t.w.part 0).job = .stopped ∧ t.w.out = w.out ++ relay ∧ w.counted t.w .fab 0 0x0C0)
      ∧ (m.kind = 0 → m.abort = false → m.barrier % 16 = 0 → (w.part 0).inBarrier = true → (w.part 0).step = m.step →
        ∃ t, exec (.treeDown m) s = .next t ∧ t.pending = s.pending ∧ (t.w.part 0).step = m.step + 1 ∧ (t.w.part 0).lastSwitched = some m.step
          ∧ (∀ e ∈ (w.part 0).dir, ∃ f ∈ (t.w.part 0).dir, f.tensor = e.tensor ∧ f.current = !e.current ∧ f.version = (e.version + 1) % 2 ^ 63)
          ∧ ∀ o ∈ relay, o ∈ t.w.out)
      ∧ (let key := domBarKey 0 (m.barrier % 16);
        m.kind = 0 → m.abort = false → m.barrier % 16 ≠ 0 → w.jobRuns 0 = true → (w.bar key).reported = true →
        ∃ t, exec (.treeDown m) s = .next t ∧ s.restKept t ∧ w.memoriesKept t.w ∧ (t.w.bar key).rounds = (w.bar key).rounds + 1
          ∧ (t.w.bar key).gen = !(w.bar key).gen ∧ (t.w.bar key).cur = (w.bar key).next ∧ ∀ o ∈ relay, o ∈ t.w.out)
      ∧ (m.kind = 1 → m.barrier = 1 → w.cask.inProgress = some m.step → ∃ t, exec (.treeDown m) s = .next t ∧ t.pending = s.pending
        ∧ w.memoriesKept t.w ∧ t.w.cask.committed = some m.step ∧ t.w.cask.inProgress = none ∧ w.counted t.w .csk 0 0x080 ∧ ∀ o ∈ relay, o ∈ t.w.out))
    ∧ ∀ barrier : Fin 16, let g := w.gen barrier.val;
      w.domainHead = true → g.reports ≠ [] → w.fab.drain.active = false → w.fab.aborted = false →
      g.firstAt + max 1 (w.regField (Block.fab.addr 0 0x000) 48 16) * 1000000 ≤ s.sid.now → w.forwards 3 →
      ∃ t a p, exec (.domainBarrierTimeout barrier) s = .next t ∧ s.restKept t ∧ w.memoriesKept t.w ∧ t.w.out = w.out ++ [.tree false a] ∧ a.abort = true
        ∧ t.w.fab.aborted = true ∧ w.raised t.w (ioSource 0) 0x10D (2 ^ 31 + p) ∧ (p = 0 ∨ p ∉ g.reports)

/-- R393 to R395, R402, R409, R495: a port that trains again reports its lanes and sends the frames that were not acknowledged again in order; after three failures in a row it is down, and
with the wrong partner it is failed; a port whose partner is idle is down, its slot is reported and its circuits fall back; a second member's report, or the slot's own loss of power,
marks its module failed; this module's figures of queued bytes are sent and the other slots' are kept (how they are formed is the model's, log entry 168). -/
def Obligations.PortsAndSlotsAreWatched : Prop :=
  ∀ s : Machine.State, s.inService = true →
    let w := s.w
    (∀ (port : PortId) (x : PortTraining) (acked : BitVec 16),
      let i := port.val
      let old := AMap.get {} w.fab.ports i
      let full := if i < 16 then 4 else 1
      let check := fun (want : Nat × Nat × Nat) => checkReason w.config (bitsAt s.sec.fwVersion.toNat 24 8) want x
      old.state = 1 →
      (∀ (want : Nat × Nat × Nat) (loss : Nat), w.config.partnerOf w.config.group w.fab.slot i = some want → lossClass x.lossDb = some loss → check want = none →
        6 ≤ x.lastStep → 0 < x.lanesUp →
        ∃ t, exec (.portRetrain port x.toPortPartner x.toPortMeasured acked) s = .next t ∧ s.restKept t ∧ w.memoriesKept t.w
          ∧ w.retrained t.w i 1 (min x.lanesUp full) (if x.lanesUp < full then 1 else 0)
          ∧ (let y := AMap.get {} t.w.fab.ports i; y.state = 1 ∧ y.lanes = min x.lanesUp full ∧ y.lossClass = loss ∧ y.failedRetrains = 0 ∧ y.rttTenthNs = x.rttTenthNs)
          ∧ (AMap.get {} t.w.fab.ports i).replay = unacknowledged old.replay acked.toNat
          ∧ t.w.out = w.out ++ (unacknowledged old.replay acked.toNat).map fun f => .resent i f.1 f.2.1 f.2.2)
      ∧ (∀ (want : Nat × Nat × Nat) (loss reason : Nat), w.config.partnerOf w.config.group w.fab.slot i = some want → lossClass x.lossDb = some loss → 4 ≤ x.lastStep →
        check want = some reason →
        ∃ t, exec (.portRetrain port x.toPortPartner x.toPortMeasured acked) s = .next t ∧ t.pending = s.pending ∧ w.memoriesKept t.w ∧ w.retrained t.w i 3 0 2
          ∧ (AMap.get {} t.w.fab.ports i).state = 2)
      ∧ ((w.config.partnerOf w.config.group w.fab.slot i = none ∨ lossClass x.lossDb = none ∨ x.lastStep < 4
          ∨ (x.lastStep < 6 ∨ x.lanesUp = 0) ∧ ∀ want, w.config.partnerOf w.config.group w.fab.slot i = some want → check want = none) →
        ∃ t, exec (.portRetrain port x.toPortPartner x.toPortMeasured acked) s = .next t ∧ t.pending = s.pending ∧ w.memoriesKept t.w ∧ w.retrained t.w i 3 0 2
          ∧ (AMap.get {} t.w.fab.ports i).state = if 3 ≤ old.failedRetrains + 1 then 0 else 1))
    ∧ (∀ port : PortId, let i := port.val; w.portUp i = true →
      ∃ t, exec (.partnerIdle port) s = .next t ∧ t.pending = s.pending ∧ w.memoriesKept t.w ∧ t.w.portUp i = false
        ∧ (i < 16 → w.config.populated (w.slotOfPort i) = true → (w.slotOfPort i, w.fab.slot) ∈ t.w.fab.reports)
        ∧ ∀ c ∈ w.fab.circuits, c.src = w.ownPosition → (w.config.group * 17 + w.fab.slot, i) ∈ c.path → c.dst ∈ t.w.fab.circuitsDown)
    ∧ (∀ (reporter slot : Fin 17), w.fab.trained = true →
      (∃ t, exec (.groupNotice reporter slot true) s = .next t ∧ t.pending = s.pending ∧ w.memoriesKept t.w
        ∧ w.groupPhysical slot.val ∈ t.w.fab.failed)
      ∧ (w.config.populated slot.val = true → (slot.val, reporter.val) ∉ w.fab.reports →
        ∃ t, exec (.groupNotice reporter slot false) s = .next t ∧ t.pending = s.pending ∧ w.memoriesKept t.w
          ∧ t.w.fab.reports = w.fab.reports ++ [(slot.val, reporter.val)]
          ∧ ((∃ r ∈ w.fab.reports, r.1 = slot.val) → w.groupPhysical slot.val ∈ t.w.fab.failed)
          ∧ ((∀ r ∈ w.fab.reports, r.1 ≠ slot.val) → t.w.fab.failed = w.fab.failed)))
    ∧ ∀ (slot : Fin 17) (figures : List Nat) (down : BitVec 32),
      ∃ t, exec (.queueFigureExchange slot ⟨figures, down⟩) s = .next t ∧ s.restKept t ∧ w.memoriesKept t.w
        ∧ (slot.val = w.fab.slot → ∃ own ports, t.w = { w with out := w.out ++ [.figures slot.val own ports] } ∧ own.length = 32
          ∧ ∀ i < 32, own.getD i 0 = w.queuedAt (16 + i) ∧ ports.testBit i = !w.portUp (16 + i))
        ∧ (slot.val ≠ w.fab.slot → t.w.out = w.out ∧ AMap.get [] t.w.fab.figures slot.val = figures.take 32 ∧ AMap.get 0 t.w.fab.downPorts slot.val = down.toNat
          ∧ ∀ k, k ≠ slot.val → AMap.get [] t.w.fab.figures k = AMap.get [] w.fab.figures k ∧ AMap.get 0 t.w.fab.downPorts k = AMap.get 0 w.fab.downPorts k)

/-- R387, R399, R408, R409, R418 to R420: circuits share no slot of a link and reserve at most 12 of its 16. GO asks the domain head for a drain; DRAIN_REQ stops injection; every module reports its counts, and the head installs when all have and what was sent
is what was received and dropped; INSTALL takes the table, starts the pair counts again and forms the circuit table; RESUME injects again, and the head raises DRAIN; a drain that does not balance marks the
modules whose reports are missing as failed and installs without them. -/
def Obligations.DrainInstallsTables : Prop :=
  (∀ (w : World) (link : Nat × Nat),
    let slots := (w.circuitTable.filter fun c => c.path.contains link).flatMap (·.slots)
    slots.length ≤ 12 ∧ slots.Nodup ∧ ∀ x ∈ slots, x < 16)
  ∧ ∀ s : Machine.State, s.inService = true →
    let w := s.w
    let d := w.fab.drain
    (∃ t, exec .drainGo s = .next t ∧ s.restKept t ∧ w.memoriesKept t.w ∧ t.w.out = w.out ∧ t.w.fab.drain = { d with requested := d.requested || w.domainHead })
    ∧ (w.fab.trained = true →
      (∀ staged : List (Nat × Nat), (staged.map (·.1)).Nodup → ∃ t, exec (.drainReq staged) s = .next t ∧ s.restKept t ∧ w.memoriesKept t.w ∧ t.w.out = w.out
        ∧ t.w.canSend = false ∧ t.w.fab.drain.active = true ∧ t.w.fab.circuits = [] ∧ ∀ e ∈ staged, AMap.get unstaged t.w.fab.staged e.1 = e.2)
      ∧ (∀ table : List (Nat × Nat), d.active = true → (table.map (·.1)).Nodup →
        ∃ t, exec (.install table) s = .next t ∧ t.pending = s.pending ∧ w.memoriesKept t.w ∧ t.w.out = w.out ++ [.drain 3 [w.fab.physical]]
          ∧ t.w.fab.drain.installed = true ∧ (∀ e ∈ table, AMap.get 0xFFFF t.w.fab.posTable e.1 = e.2)
          ∧ t.w.fab.staged = [] ∧ t.w.fab.pairSent = [] ∧ t.w.fab.pairReceived = [] ∧ t.w.fab.circuitsDown = [] ∧ t.w.fab.circuits = t.w.circuitTable))
    ∧ (∀ reports : List (Nat × Nat × Nat × Nat), d.active = true → d.injecting = false → d.installed = false →
      let own := w.drainCounts
      let one := Output.drain 1 [w.fab.physical, own.1, own.2.1, own.2.2]
      let sent := own.1 + (reports.map (·.2.1)).sum
      let got := own.2.1 + own.2.2 + (reports.map fun r => r.2.2.1 + r.2.2.2).sum
      (w.domainHead = false ∨ sent ≠ got → ∃ t, exec (.drainCountRound reports) s = .next t ∧ s.restKept t ∧ t.w = { w with out := w.out ++ [one] })
      ∧ (w.domainHead = true → sent = got →
        (∀ p ∈ (List.range w.config.positions).map w.config.positionAt, ∀ x, w.physicalOf p = some x → x = w.fab.physical ∨ ∃ r ∈ reports, r.1 = x) →
        ∃ t tbl, exec (.drainCountRound reports) s = .next t ∧ s.restKept t ∧ t.w = { w with out := w.out ++ [one, .drain 2 tbl] }))
    ∧ (∀ us : BitVec 20, d.active = true → d.installed = true →
      ∃ t, exec (.resume us) s = .next t ∧ t.pending = s.pending ∧ t.w.canSend = true ∧ t.w.fab.drain.lastUs = us.toNat ∧ w.counted t.w .fab 0 0x0C8
        ∧ (w.domainHead = false → t.w.fab.drain.active = false)
        ∧ (w.domainHead = true → Output.drain 4 [us.toNat] ∈ t.w.out
          ∧ (d.status ≠ 2 → w.forwards 0 → ∃ r ∈ t.w.uzo.events, leAt r 10 2 = ioSource 0 ∧ leAt r 12 2 = 0x122
              ∧ leAt r 16 4 = (us.toNat + 2 ^ 20 + d.reason * 2 ^ 24) % 2 ^ 32)))
    ∧ ∀ missing : List Nat, w.domainHead = true → d.active = true → d.installed = false →
      ∃ t, exec (.drainTimeout missing) s = .next t ∧ t.pending = s.pending ∧ w.memoriesKept t.w ∧ t.w.fab.drain.status = 2
        ∧ (∃ o tbl, t.w.out = o ++ [.drain 2 tbl])
        ∧ ∀ x ∈ missing, x ≠ w.fab.physical → x ∉ w.fab.failed →
          x ∈ t.w.fab.failed ∧ ∀ p, w.positionHeld x = some p → AMap.get unstaged t.w.fab.staged p = 0xFFFF

/-! ### The step boundary, the live loop and the Ethernet port (chapters 01, 14) -/

/-- R27, R28, R250, R324, R413, R480: with a step's work done a module closes the step with the Kiln, sends the rows that migrate, and then enters the step barrier: through the combining
tree, or, a partition that has none, by switching its step; a full journal ring holds it, counted once. -/
def Obligations.StepBarrierIsEntered : Prop :=
  ∀ (s : Machine.State) (part : PartId), s.inService = true →
    let p := part.val
    let w := s.w
    let x := w.part p
    w.stepDone p = true →
    (x.closeSent = false → ∃ t, exec (.stepBarrierEnter part) s = .next t ∧ s.restKept t ∧ w.memoriesKept t.w ∧ (t.w.part p).closeSent = true
      ∧ t.w.out = w.out ++ [.kiln true 9 p [x.step] []])
    ∧ (x.closeSent = true → x.kilnDone = true →
      (p = 0 → x.migrateSent = false → x.accepted = [] → ∃ t, exec (.stepBarrierEnter part) s = .next t ∧ s.restKept t ∧ w.memoriesKept t.w
        ∧ (t.w.part 0).migrateSent = true ∧ t.w.out = w.out)
      ∧ (∀ (a : Nat × Nat × Nat) (e : DirEntry), p = 0 → x.migrateSent = false → x.accepted = [a] → x.entry a.1 = some e → w.reaches a.2.2 →
        0 < e.recordBytes → e.recordBytes ≤ 2048 → ∃ t, exec (.stepBarrierEnter part) s = .next t ∧ s.restKept t ∧ w.memoriesKept t.w
        ∧ (t.w.part 0).migrateSent = true ∧ (t.w.part 0).migrateOut = x.migrateOut + 1
        ∧ w.sent t.w 3 a.2.2 (w.hbmRead 0 (e.penBase + a.2.1 * e.recordBytes) e.recordBytes))
      ∧ ((p = 0 → x.migrateSent = true ∧ w.cask.journalUnacked = 0) → x.migrateOut = 0 →
        (p = 0 → w.ringFull = false) →
          (w.inTree p = true → ∃ t, exec (.stepBarrierEnter part) s = .next t ∧ s.restKept t ∧ w.memoriesKept t.w ∧ (t.w.part 0).inBarrier = true
            ∧ t.w.out = w.out ++ [.tree true w.stepEntry])
          ∧ (w.inTree p = false → ∃ t, exec (.stepBarrierEnter part) s = .next t ∧ t.pending = s.pending ∧ w.switched t.w p))
      ∧ (p = 0 → x.migrateSent = true → w.cask.journalUnacked = 0 → x.migrateOut = 0 → w.ringFull = true → w.cask.ringHeld = false →
        ∃ t, exec (.stepBarrierEnter part) s = .next t ∧ s.restKept t ∧ w.memoriesKept t.w ∧ t.w.cask.ringHeld = true ∧ w.counted t.w .csk 0 0x0A8
          ∧ t.w.parts = w.parts))

/-- R510, R511, R514 to R519: a well-formed datagram's records are counted and join their batches at this home, or the next open batch, counted late with FEED_LATE, and lie in the intake ring (its layout and shares are the model's, log entry 171); a malformed datagram is
counted and dropped, as one without a job is; a record from another Hopper is acknowledged and joins the intake; BATCH_CLOSE sends CLOSE markers with ORDER to every other position; with
the markers of every position a home applies the batch and its records leave the intake, in the order of R519. -/
def Obligations.FeedRecordsReachTheirBatch : Prop :=
  (∀ xs : List FeedRec, (xs.foldl (fun l x => insertRec x l) []).Perm xs
    ∧ (xs.foldl (fun l x => insertRec x l) []).Pairwise fun a b => b.before a = false)
  ∧ ∀ s : Machine.State, s.inService = true →
    let w := s.w
    let h := w.hop
    (∀ d : Datagram, w.ethHears d.port.val = true → (w.config.ethTable.any fun e => decide (e.role = 1) && decide (e.udpPort = d.dstPort.toNat)) = true →
      (w.jobRuns 0 = false ∨ h.intakeOk = false → ∃ t, exec (.feedDatagram d) s = .next t ∧ s.restKept t ∧ w.memoriesKept t.w ∧ t.w.hop = h
        ∧ w.counted t.w .hop 0 0x0B0)
      ∧ (w.jobRuns 0 = true → h.intakeOk = true → feedRecords w.config.domainId d.payload = none →
        ∃ t, exec (.feedDatagram d) s = .next t ∧ s.restKept t ∧ w.memoriesKept t.w ∧ t.w.hop = h ∧ w.counted t.w .hop 0 0x0B8)
      ∧ ∀ rs : List (List Byte), w.jobRuns 0 = true → h.intakeOk = true → feedRecords w.config.domainId d.payload = some rs →
        (h.receive.map fun x => x.bytes.length).sum + d.payload.length ≤ receiveBuffer → w.canSend = true → h.replaying = false →
        (∀ r ∈ rs, ∀ m, w.ringKept m → ({ w with hbm := m }).recordHome r = w.ownPosition) →
        ((h.inRings.filter fun y => decide (y.1 = w.ownPosition)).map fun y => y.2.2).sum + (rs.map (·.length)).sum
          ≤ w.ringBytes / max 1 w.allPositions.length →
        let batch := fun (r : List Byte) => h.batchAt (w.part 0).c0 (recTime r)
        let record := fun (n : Nat) (x : List Byte × Nat) =>
          ({ batch := n, source := beAt d.payload 8 4, seq := beAt d.payload 16 8, place := x.2, bytes := x.1 } : FeedRec)
        ((∀ r ∈ rs, h.closed ≤ batch r) → ∃ t, exec (.feedDatagram d) s = .next t ∧ s.restKept t ∧ w.onlyRing t.w
          ∧ t.w.hop.intake = h.intake ++ rs.zipIdx.map (fun x => record (batch x.1) x) ∧ w.counted t.w .hop 0 0x080
          ∧ t.w.counter .hop 0 0x088 = w.counter .hop 0 0x088 + BitVec.ofNat 64 rs.length)
        ∧ ∀ r, rs = [r] → batch r < h.closed → h.lateStep ≠ some (w.part 0).step → ∃ t, exec (.feedDatagram d) s = .next t ∧ s.restKept t ∧ w.onlyRing t.w
          ∧ t.w.hop.intake = h.intake ++ [record h.closed (r, 0)] ∧ w.counted t.w .hop 0 0x0A0 ∧ w.saw t.w 1 (ioSource 8) 0x152 h.closed)
    ∧ (∀ q : Packet, w.comes q → w.reaches q.src.toNat → w.jobRuns 0 = true →
      let r := (feedPacket q.payload).1
      ((feedPacket q.payload).2 = 0 → (recKind r.bytes = 3 → w.forwardTo 0 (recTensor r.bytes) (recKey r.bytes) = none) →
        (∀ e, recKind r.bytes = 3 → (w.part 0).entry (recTensor r.bytes) = some e → e.kind = 1 → recKey r.bytes < e.records →
          w.homesRow 0 e (recKey r.bytes) = true ∨ w.comingRow e (recKey r.bytes) = true) →
        ∃ t, exec (.feedRecordIntake q) s = .next t ∧ s.restKept t ∧ w.onlyRing t.w ∧ w.sent t.w 4 q.src.toNat [] ∧ t.w.hop.intake = h.intake ++ [r])
      ∧ (let n := recKey q.payload;
        (n ≠ h.applied ∨ ∃ p ∈ w.allPositions, p ≠ q.src.toNat ∧ p ∉ AMap.get [] h.markers n) → (w.part 0).step + 1 < h.applied ∨ n = h.applied →
          h.replaying = false → ∃ t, exec (.closeMarker q) s = .next t ∧ s.restKept t ∧ w.memoriesKept t.w ∧ w.sent t.w 4 q.src.toNat []
            ∧ q.src.toNat ∈ AMap.get [] t.w.hop.markers n ∧ t.w.hop.applied = h.applied)
      ∧ (recKey q.payload = h.applied → h.applied = (w.part 0).step + 1 → h.replaying = false →
          (∀ p ∈ w.allPositions, p = q.src.toNat ∨ p ∈ AMap.get [] h.markers h.applied) →
          ∃ t, exec (.closeMarker q) s = .next t ∧ s.restKept t ∧ t.w.hop.applied = h.applied + 1
            ∧ t.w.hop.intake = h.intake.filter (fun x => decide (h.applied < x.batch)) ∧ ∃ ys, (h.applied, ys) ∈ t.w.hop.log))
    ∧ (w.jobRuns 0 = true → w.canSend = true → h.replaying = false → h.receive = [] →
      h.cutAt (w.part 0).c0 h.closed + h.graceUs * 1000 ≤ s.sid.now →
      ∃ t, exec (.batchClose h.closed) s = .next t ∧ s.restKept t ∧ t.w.hop.closed = h.closed + 1
        ∧ ∀ p ∈ w.allPositions, p ≠ w.ownPosition → w.reaches p → ∃ q, Output.packet 3 q ∈ t.w.out ∧ q.dst = BitVec.ofNat 14 p ∧ pktOrder q = true
          ∧ q.payload = markerImage h.closed s.sid.now)

/-- R509, R520 to R525: the governor holds a setpoint within MIN_HOLD of its last change, and a binary class emits 0, 1 or its last value; TAP_EMIT runs it on the proposals of the slot and
sends the setpoints of every class to its destinations, numbered; after an overrun, or where emission is not permitted, the slot sends nothing. -/
def Obligations.TapEmitsGovernedSetpoints : Prop :=
  (∀ (g : Governor) (c cycleNs : Nat) (p : Proposal) (x : PairState),
    let r := govern g c cycleNs p x
    r.1.target = p.target ∧ r.1.cls = p.cls ∧ r.2.last = r.1.value
    ∧ (c * cycleNs < x.change + g.minHoldMs * 1000000 → r.1.value = fp32.encode (fp32.decode x.last) ∧ r.1.limited = false)
    ∧ (g.binary = true → r.1.value = fp32.encode (fp32.decode x.last) ∨ r.1.value = 0 ∨ r.1.value = 0x3F800000))
  ∧ ∀ s : Machine.State, s.inService = true → s.w.jobRuns 0 = true →
    let w := s.w
    let x := w.part 0
    (x.running = true → x.eval = true → w.tap.discarded = false → w.tap.slotStart + w.hop.deadlineMs * 1000000 ≤ s.sid.now →
      ∃ t, exec .evalOverrun s = .next t ∧ s.restKept t ∧ w.memoriesKept t.w ∧ t.w.tap = { w.tap with discarded := true } ∧ w.counted t.w .tap 0 0x0C0
        ∧ w.saw t.w 2 (ioSource 9) 0x151 w.tap.slotCycle)
    ∧ (w.tap.emitted = false → (x.running = true → x.eval = false) →
      let off := w.tap.discarded || decide (w.regField (Block.tap.addr 0 0x010) 0 1 = 0) || w.config.governorBad || !w.twinPermits
      (off = true → ∃ t, exec .tapEmit s = .next t ∧ s.restKept t ∧ w.memoriesKept t.w ∧ t.w.out = w.out ∧ t.w.tap = { w.tap with emitted := true })
      ∧ ∀ (g : Governor) (p : Proposal) (a : Nat) (known : Bool), off = false → w.config.governor = [g] → p.cls = g.cls → w.proposals.1 = [p] →
        w.pairPlace p = some (a, known) → w.plainHbm 0 a 64 → (∀ b n, w.hbmFailed 0 b n = false) →
        let y := if known then parsePair (w.hbmRead 0 a 64) else ⟨g.safeValue.toNat, 0, []⟩
        let r := govern g w.tap.slotCycle w.hop.cycleNs p y
        let dests := w.config.ethTable.filter fun e => decide (e.role = 2) && bitAt e.classMask g.cls
        dests ≠ [] → (∀ e ∈ dests, w.ethSends e.port = true) →
        ∃ t, exec .tapEmit s = .next t ∧ s.restKept t ∧ w.onlyHbm t.w ∧ w.hbmWrote t.w 0 a (r.2.image p)
          ∧ t.w.tap = { w.tap with emitted := true, seq := w.tap.seq + 1 }
          ∧ t.w.out = w.out ++ dests.map fun e => .datagram e.port e.address e.udpPort (w.setpointDatagram s.sid.now g true [r.1]))

/-- R527 to R529: a port of an interface that is on comes up and goes down with its link, and no other; a solicitation of the module's own address and an echo request are answered; every
other frame that no protocol takes is dropped, counted by what is wrong with it. -/
def Obligations.EthernetAnswersAndCounts : Prop :=
  ∀ (s : Machine.State) (port : Fin 4), s.inService = true →
    let w := s.w
    let i := port.val
    (∀ up : Bool, ∃ t, exec (.ethLinkChange port up) s = .next t ∧ s.restKept t ∧ w.memoriesKept t.w ∧ t.w.out = w.out
      ∧ (up = false → t.w.eth.linkUp.getLsbD i = false)
      ∧ (up = true → w.config.ethOn = true → (w.config.ethTable.any fun e => decide (e.role = 0) && decide (e.port = i)) = true → w.config.ethMode = 3 →
        t.w.eth.linkUp.getLsbD i = true)
      ∧ ∀ k, k ≠ i → t.w.eth.linkUp.getLsbD k = w.eth.linkUp.getLsbD k)
    ∧ (w.ethUp i = true →
      (∀ f : EthFrame, f = .fcsError port ∨ f = .fecUncorrectable port → ∃ t, exec (.ethFrameRx f) s = .next t ∧ s.restKept t ∧ w.memoriesKept t.w
        ∧ t.w.out = w.out ∧ (f = .fcsError port → w.counted t.w .eth 0 0x090 ∧ w.counted t.w .eth 0 0x080)
        ∧ (f = .fecUncorrectable port → w.counted t.w .eth 0 0x098))
      ∧ (w.macPort i = true → w.macKeyed i true = true → ∃ t, exec (.ethFrameRx (.macsecFail port)) s = .next t ∧ s.restKept t ∧ w.memoriesKept t.w
        ∧ t.w.out = w.out ∧ w.counted t.w .eth 0 0x0A0))
    ∧ (w.ethHears i = true →
      (∀ f : EthFrame, f = .fragment port ∨ f = .stackedTag port ∨ f = .other port → ∃ t, exec (.ethFrameRx f) s = .next t ∧ s.restKept t
        ∧ w.memoriesKept t.w ∧ t.w.out = w.out ∧ w.counted t.w .eth 0 0x080)
      ∧ (∀ d : Datagram, d.port = port → ∃ t, exec (.ethFrameRx (.udpUnmatched d)) s = .next t ∧ s.restKept t ∧ w.memoriesKept t.w ∧ t.w.out = w.out
        ∧ w.counted t.w .eth 0 0x0A8)
      ∧ (w.ethSends i = true →
        (∀ target sender : List Byte, ∃ t, exec (.ethFrameRx (.arpRequest port target sender)) s = .next t ∧ s.restKept t ∧ w.memoriesKept t.w
          ∧ t.w.out = w.out ++ (if w.ownAddress i false target then
              [.frame i ([0, 1, 8, 0, 6, 4, 0, 2] ++ macOf i ++ slice target 0 4 ++ sender)] else []))
        ∧ (∀ target sender : List Byte, ∃ t, exec (.ethFrameRx (.ndpSolicit port target sender)) s = .next t ∧ s.restKept t ∧ w.memoriesKept t.w
          ∧ t.w.out = w.out ++ (if w.ownAddress i true target then
              [.frame i ([136, 0, 0, 0, 0x60, 0, 0, 0] ++ slice target 0 16 ++ [2, 1] ++ macOf i)] else []))
        ∧ ∀ (v6 : Bool) (sender body : List Byte), ∃ t head, exec (.ethFrameRx (.icmpEcho port v6 sender body)) s = .next t ∧ s.restKept t
          ∧ w.memoriesKept t.w ∧ t.w.out = w.out ++ [.frame i (head ++ body)] ∧ w.counted t.w .eth 0 0x088))

/-! ### Sidereal time and twins (chapter 12) -/

/-- R430, R433 to R438, R463: marks leave on every port that is up; a mark of the parent gives one offset, and with eight the counter follows their median, in one write before partition
0's first job and by slewing after it; slewing corrects at most 50 ns in a tick and the counter never goes back; without marks, or a root's reference, HOLDOVER begins with
TIME_HOLDOVER; a root's reference corrects it; PPS_OUT marks a whole second. -/
def Obligations.TimeFollowsItsParent : Prop :=
  (∀ xs : List Int, xs.length = 8 → 4 ≤ (xs.filter fun x => decide (x ≤ medianOf xs)).length ∧ 4 ≤ (xs.filter fun x => decide (medianOf xs ≤ x)).length)
  ∧ (∀ now : Nat, ((now : Int) + secondOffset now) % 1000000000 = 0 ∧ (secondOffset now).natAbs ≤ 500000000)
  ∧ ∀ s : Machine.State,
    let w := s.w
    let now := s.sid.now
    let follows := fun (t : Machine.State) (d : Int) =>
      t.pwr = s.pwr ∧ t.sec = s.sec ∧ t.pending = s.pending ∧ t.sid.lock = .root ∧ t.sid.holdoverAt = none
        ∧ (s.sid.canStep = true → t.sid.now = ((now : Int) + d).toNat % 2 ^ 64)
        ∧ (s.sid.canStep = false → t.sid.now = now ∧ t.sid.pendingSlew = if d.natAbs ≤ 1 then 0 else d)
    let lost := fun (t : Machine.State) => t.pwr = s.pwr ∧ t.sec = s.sec ∧ t.pending = s.pending ∧ w.memoriesKept t.w ∧ t.sid.lock = .holdover
      ∧ t.sid.holdoverAt = some now ∧ t.sid.now = now ∧ w.counted t.w .sid 0 0x090 ∧ w.saw t.w 2 (ioSource 10) 0x130 (s.sid.parent.getD 0x3F)
    (s.inService = true →
      (∃ t, exec .timeMarkSend s = .next t ∧ s.restKept t ∧ t.w = { w with out := w.out ++ ((List.range 48).filter w.portUp).map fun i => .mark i now })
      ∧ (∀ (port : PortId) (value : BitVec 64), s.sid.isRoot = false → s.sid.parent = some port.val → w.portUp port.val = true →
        let d : Int := (value.toNat + halfTrip (AMap.get {} w.fab.ports port.val).rttTenthNs : Nat) - (now : Int)
        let offs := (d :: s.sid.offsets).take 8
        ∃ t, exec (.timeMark port value) s = .next t ∧ t.pwr = s.pwr ∧ t.sec = s.sec ∧ t.pending = s.pending ∧ w.memoriesKept t.w ∧ t.w.out = w.out
          ∧ w.counted t.w .sid 0 0x080 ∧ t.sid.lastMark = t.sid.now ∧ t.sid.holdoverAt = none
          ∧ (offs.length < 8 → t.sid.now = now ∧ t.sid.offsets = offs)
          ∧ (offs.length = 8 →
            let m := medianOf offs
            (t.sid.lock = .locked ↔ m.natAbs ≤ 4 ∧ 15 ≤ s.sid.goodMarks)
            ∧ (s.sid.canStep = true → t.sid.now = ((now : Int) + m).toNat % 2 ^ 64 ∧ t.sid.offsets = offs.map (· - m))
            ∧ (s.sid.canStep = false → t.sid.now = now ∧ t.sid.pendingSlew = if m.natAbs ≤ 1 then 0 else m)))
      ∧ (∀ (port : PortId) (value : BitVec 64), s.sid.parent ≠ some port.val → exec (.timeMark port value) s = .next s)
      ∧ (s.sid.lock ≠ .holdover →
        (∀ p, s.sid.isRoot = false → s.sid.parent = some p → s.sid.lastMark + 100000 ≤ now → ∃ t, exec .timeHoldover s = .next t ∧ lost t)
        ∧ (s.sid.isRoot = true → (w.config.sidSource = 1 ∨ w.config.sidSource = 2) → ∃ t, exec .ptpOrPpsInLost s = .next t ∧ lost t))
      ∧ (s.sid.isRoot = true →
        (∀ (o : RefOffset) (e : EthEntry), w.config.sidSource = 1 → w.ethRole 5 = some e → w.ethHears e.port = true →
          ∃ t, exec (.ptpMessage o) s = .next t ∧ follows t o.offset ∧ w.counted t.w .eth 0 0x0B0)
        ∧ (w.config.sidSource = 2 → ∃ t, exec .ppsInEdge s = .next t ∧ t.w = w ∧ follows t (secondOffset now))))
    ∧ (s.pwr.phase ≠ .off →
      (∃ t, exec .ppsOutEdge s = .next t ∧ s.restKept t ∧ t.w = { w with out := w.out ++ [.pps] })
      ∧ (s.sid.pendingSlew ≠ 0 → let d := s.sid.pendingSlew; let n := min d.natAbs 50;
        ∃ t, exec .slewTick s = .next t ∧ t.pwr = s.pwr ∧ t.sec = s.sec ∧ t.pending = s.pending ∧ w.memoriesKept t.w
          ∧ t.w.counter .sid 0 0x088 = w.counter .sid 0 0x088 + BitVec.ofNat 64 n ∧ t.sid.pendingSlew.natAbs + n = d.natAbs
          ∧ (0 < d → t.sid.now = (now + n) % 2 ^ 64) ∧ (d < 0 → t.sid.now = now ∧ t.sid.hold = s.sid.hold + n)))

/-- R454 to R459: the module's partial table goes up the tree once a step; the head sends its unanswered frames again; equal digests of a step are a match, unequal ones roll both domains
back to the highest cask that both have verified, or, without one, stop them; a repeated frame changes no digest; a fenced or silent partner leaves the domain alone. -/
def Obligations.TwinsCompareAndRollBack : Prop :=
  ∀ s : Machine.State, s.inService = true →
    let w := s.w
    (∀ n, (w.part 0).lastSwitched = some n → w.config.twinRole ≠ 0 → w.jobRuns 0 = true → (∀ e ∈ (w.part 0).dir, e.catchupDone = true) →
      w.twin.formed ≠ some n → w.fab.position.isSome = true →
      ∃ t, exec .twinDigestForm s = .next t ∧ s.restKept t ∧ w.memoriesKept t.w ∧ t.w.twin.formed = some n
        ∧ t.w.out = w.out ++ [.tree true { kind := 1, barrier := 3, entries := 1, step := n, digest := w.partialTable n, fromPosition := w.ownPosition }])
    ∧ (∀ e, w.twin.talks = true → w.ethRole 3 = some e → w.ethSends e.port = true →
      ∃ t, exec .twinDigestResend s = .next t ∧ s.restKept t ∧ w.memoriesKept t.w ∧ t.w.twin = w.twin
        ∧ t.w.out = w.out ++ w.twin.pending.map fun b => .datagram e.port e.address e.udpPort b.2)
    ∧ (∀ b : List Byte, let n := beAt b 8 8; let own := AMap.get [] w.twin.digests n;
      s.twinHears 0 b →
      (AMap.get [] w.twin.partner n ≠ [] → ∃ t, exec (.twinDigestFrame b) s = .next t ∧ s.restKept t ∧ w.memoriesKept t.w ∧ t.w.out = w.out
        ∧ t.w.twin.partner = w.twin.partner ∧ t.w.twin.digests = w.twin.digests ∧ t.w.twin.partnerVerified = frameVerified b ∧ t.w.twin.lastFrameAt = s.sid.now)
      ∧ (AMap.get [] w.twin.partner n = [] → w.twin.replayStep = none → own ≠ [] →
        (own = slice b 24 32 → ∃ t, exec (.twinDigestFrame b) s = .next t ∧ s.restKept t ∧ w.memoriesKept t.w ∧ t.w.out = w.out
          ∧ t.w.twin.matched = some (w.twin.matched.elim n (max n)) ∧ t.w.twin.state = w.twin.state ∧ w.counted t.w .sid 0 0x0A0)
        ∧ (own ≠ slice b 24 32 → ∃ t, exec (.twinDigestFrame b) s = .next t ∧ s.restKept t ∧ w.rolledBack t.w n (frameVerified b))))
    ∧ (∀ b : List Byte, let n := beAt b 8 8; s.twinHears 1 b →
      (w.twin.replayStep ≠ some n → ∃ t, exec (.rollback b) s = .next t ∧ s.restKept t ∧ w.rolledBack t.w n (frameVerified b))
      ∧ (w.twin.replayStep = some n → ∃ t, exec (.rollback b) s = .next t ∧ s.restKept t ∧ w.memoriesKept t.w ∧ t.w.out = w.out
        ∧ t.w.twin.state = w.twin.state ∧ t.w.twin.partnerVerified = frameVerified b))
    ∧ (∀ b : List Byte, s.twinHears 2 b → ∃ t, exec (.twinFenceFrame b) s = .next t ∧ s.restKept t ∧ w.memoriesKept t.w ∧ t.w.twin.state = twinAlone
      ∧ t.w.twin.pending = [] ∧ w.saw t.w 3 (ioSource 10) 0x132 1)
    ∧ (w.headOfDomain = true → w.twin.talks = true → w.twin.lastFrameAt + w.twinTimeout ≤ s.sid.now →
      ∃ t, exec .twinTimeout s = .next t ∧ s.restKept t ∧ w.memoriesKept t.w ∧ t.w.twin.state = twinAlone ∧ t.w.twin.pending = []
        ∧ w.saw t.w 3 (ioSource 10) 0x132 2)

/-! ### Casks (chapter 13) -/

/-- R471: an object cut into stripes is restored from them, also with any one stripe lost. -/
def Obligations.StripesRestoreAnyLoss : Prop :=
  ∀ (n k : Nat) (b : List Byte), 0 < n →
    let pieces := (stripesOf n b).zipIdx.map fun x => ({ index := x.2, bytes := x.1 } : CPiece)
    unstripe n b.length pieces = some b ∧ unstripe n b.length (pieces.filter fun x => decide (x.index ≠ k)) = some b

/-- R471, R475, R476, R479, R481, R484, R485, R489, R499: NOW asks for a cask; RISK is weighed over the trailing 60 s; the mirror stop holds the step's run
until the peers have acknowledged the last stripe of the HBM part, and CSK_LAST_STOP tells its length; the Kiln part follows the stop; a base of a Journal tensor begins when it is
due; the manifest is signed, sent, and then the commit is reported; a piece from a peer is kept in the reserve, in the place of an earlier one written there, and acknowledged, and what a peer's reserve holds of this module comes
back to it. -/
def Obligations.CasksAreTakenAndKept : Prop :=
  ∀ s : Machine.State, s.inService = true →
    let w := s.w
    let c := w.cask
    (∃ t, exec .cskRequest s = .next t ∧ s.restKept t ∧ t.w = { w with cask := { c with request := true } })
    ∧ (∀ old : Nat × Nat × Nat × Nat × Nat, (c.riskHist.find? fun y => decide (y.1 + 60000000000 ≤ s.sid.now)) = some old →
      let x := w.riskTerms
      let risk := (x.1 - old.2.1) + 64 * (x.2.1 - old.2.2.1) + 16 * (x.2.2.1 - old.2.2.2.1) + 256 * (x.2.2.2 - old.2.2.2.2)
      let limit := w.regField (Block.csk.addr 0 0x000) 0 16
      ∃ t, exec .riskEval s = .next t ∧ s.restKept t ∧ w.memoriesKept t.w ∧ t.w.cask.risk = min risk (2 ^ 32 - 1)
        ∧ (t.w.cask.flag = true ↔ c.flag = true ∨ (limit ≠ 0 ∧ limit ≤ risk ∧ w.config.positions ≤ 256)))
    ∧ (∀ n, c.inProgress = some n → w.jobRuns 0 = true →
      (∀ a, c.stop = some a → exec (.runStart 0 false) s = .next s)
      ∧ (c.kilnSent = false → w.canSend = true → (w.inGroup = true → c.stop = none) → ∃ t, exec .kilnPartSend s = .next t ∧ s.restKept t ∧ w.memoriesKept t.w ∧ t.w.cask.kilnSent = true
        ∧ t.w.cask.segments = c.segments ++ (w.kilnSegments n).map (·.1))
      ∧ (w.caskReady = true → c.reported = false →
        (c.manifest = [] → c.signing = false → ∃ t, exec .caskCommit s = .next t ∧ t.pending = s.pending ∧ w.memoriesKept t.w ∧ t.w.cask.signing = true
          ∧ t.sec.signQueue = s.sec.signQueue ++ [.manifest (w.manifestBody s.sid.now s.sec.fwVersion.toNat n) n])
        ∧ (c.manifest ≠ [] →
          (w.inGroup = false → ∃ t, exec .caskCommit s = .next t ∧ s.restKept t ∧ t.w = { w with cask := { c with exportDue := some n } })
          ∧ (w.inGroup = true → c.manifestSent = false → w.canSend = true → ∃ t, exec .caskCommit s = .next t ∧ s.restKept t ∧ w.memoriesKept t.w
            ∧ t.w.cask.manifestSent = true ∧ ∀ p ∈ w.peers, w.reaches p → ∃ q, Output.packet 0x10 q ∈ t.w.out ∧ q.dst = BitVec.ofNat 14 p
              ∧ pktOrder q = true ∧ (parsePiece q.payload).kind = 2 ∧ (parsePiece q.payload).bytes = c.manifest.drop (c.manifest.length - 8))
          ∧ (w.inGroup = true → c.manifestSent = true → ∃ t, exec .caskCommit s = .next t ∧ s.restKept t ∧ w.memoriesKept t.w ∧ t.w.cask.reported = true
            ∧ t.w.out = w.out ++ [.tree true { kind := 1, barrier := 1, entries := 1, step := n, amax := [(0, BitVec.ofNat 32 c.lastStopUs)], fromPosition := w.ownPosition }]))))
    ∧ (∀ (tensor n : Nat) (e : DirEntry), (w.part 0).entry tensor = some e → (w.part 0).lastSwitched = some n → w.jobRuns 0 = true → w.inGroup = true →
      e.journals = true → c.baseRun = none → w.canSend = true → w.baseDue e = true → (∀ a k, w.hbmFailed 0 a k = false) →
      ∃ t, exec (.baseStart tensor) s = .next t ∧ s.restKept t ∧ w.memoriesKept t.w ∧ t.w.cask.baseRun = some (tensor, n)
        ∧ AMap.get 0 t.w.cask.journalBytes tensor = 0)
    ∧ ∀ q : Packet, w.comes q →
      let k := leAt q.payload 0 1
      let x := parsePiece q.payload
      (k < 4 → (k ≠ 2 ∨ x.bytes.length ≠ 8) → w.reaches q.src.toNat → ∃ t, exec (.cask q) s = .next t ∧ s.restKept t ∧ w.memoriesKept t.w
        ∧ t.w.cask.reserve = (c.reserve.filter fun y => !x.samePlace y) ++ [x] ∧ w.sent t.w 4 q.src.toNat [])
      ∧ (k = 4 → w.reaches q.src.toNat → ∃ t, exec (.cask q) s = .next t ∧ s.restKept t ∧ w.memoriesKept t.w ∧ t.w.cask = c
        ∧ (∀ y ∈ c.reserve, y.owner = x.owner → y.kind = 0 → y.step = x.step →
            ∃ p, Output.packet 0x10 p ∈ t.w.out ∧ p.dst = q.src ∧ p.payload = pieceImage 8 y)
        ∧ ∃ o p, t.w.out = o ++ [.packet 0x10 p] ∧ p.dst = q.src ∧ p.payload = pieceImage 7 x)
      ∧ (∀ f, c.fetching = some f →
        (k = 7 → ∃ t, exec (.cask q) s = .next t ∧ s.restKept t ∧ w.memoriesKept t.w
          ∧ t.w.cask = { c with fetching := some { f with ended := f.ended ++ [q.src.toNat] } })
        ∧ (8 ≤ k → k < 12 → ∃ t, exec (.cask q) s = .next t ∧ s.restKept t ∧ w.memoriesKept t.w
          ∧ t.w.cask = { c with fetching := some { f with pieces := f.pieces ++ [x] } }))
      ∧ (∀ a, c.stop = some a → c.unacked = 1 → tagKind q.tag.toNat = 7 → tagInst q.tag.toNat = 4 →
        ∃ t, exec (.writeAck q) s = .next t ∧ s.restKept t ∧ w.memoriesKept t.w ∧ t.w.out = w.out ∧ t.w.cask.unacked = 0 ∧ t.w.cask.stop = none
          ∧ t.w.cask.lastStopUs = (s.sid.now - a) / 1000)

/-- R487 to R489: an export that is due gathers its cask, and fails where there is no store; frames of the store extend a segment in order and are acknowledged with what has come; an
acknowledged END, or an END of the store, ends a transfer with success and a refusal with failure; an unacknowledged frame is sent again, 100 times at most; a restore asks for the
next range it lacks. -/
def Obligations.TransfersWithTheStore : Prop :=
  ∀ s : Machine.State, s.inService = true →
    let w := s.w
    let c := w.cask
    let x := c.transfer
    (∀ n, c.exportDue = some n → x.active = false → x.dump = none →
      (w.store = none → ∃ t, exec .caskExport s = .next t ∧ s.restKept t ∧ w.memoriesKept t.w ∧ w.exported t.w false)
      ∧ (w.store.isSome = true → w.inGroup = true → c.fetching = none → w.canSend = true → ∃ t, exec .caskExport s = .next t ∧ s.restKept t
        ∧ w.memoriesKept t.w ∧ (∃ f, t.w.cask.fetching = some f ∧ f.step = n ∧ f.toExport = true)
        ∧ ∀ p ∈ w.peers, w.reaches p → ∃ q, Output.packet 0x10 q ∈ t.w.out ∧ q.dst = BitVec.ofNat 14 p ∧ leAt q.payload 0 1 = 4)
      ∧ (w.store.isSome = true → w.inGroup = false → ∃ t, exec .caskExport s = .next t ∧ s.restKept t ∧ w.memoriesKept t.w
        ∧ t.w.cask.transfer.active = true ∧ t.w.cask.transfer.step = n))
    ∧ (∀ (b : List Byte) (f : Fetching), c.fetching = some f → f.fromStore = true → beAt b 16 8 = f.step →
      let seg := beAt b 12 4
      let old := ((f.store.find? fun y => decide (y.1 = seg)).map (·.2)).getD []
      let new := if beAt b 24 8 = old.length then old ++ b.drop 48 else old
      let took := fun (t : Machine.State) => s.restKept t ∧ w.memoriesKept t.w ∧ w.toldStore t.w (w.caskFrame 2 seg f.step new.length (beAt b 36 4) false [])
        ∧ ∃ f', t.w.cask.fetching = some f' ∧ ((f'.store.find? fun y => decide (y.1 = seg)).map (·.2)) = some new
      (w.storeHears 0 b → ∃ t, exec (.caskManifest b) s = .next t ∧ took t) ∧ (w.storeHears 1 b → ∃ t, exec (.caskData b) s = .next t ∧ took t))
    ∧ (∀ b : List Byte, x.active = true → x.dump = none → w.inGroup = true → beAt b 16 8 = x.step →
      (w.storeHears 2 b → ∀ u : Nat × List Byte, x.segs = [] → x.endSent = true → x.unacked = [u] → beAt u.2 4 1 = 4 → beAt b 36 4 = u.1 →
        beAt b 12 4 = 0xFFFFFFFF → ∃ t, exec (.caskAck b) s = .next t ∧ s.restKept t ∧ w.memoriesKept t.w ∧ t.w.out = w.out ∧ w.exported t.w true)
      ∧ (w.storeHears 2 b → ∀ u v : Nat × List Byte, x.segs = [] → x.endSent = true → x.unacked = [u, v] → beAt u.2 4 1 ≠ 4 → beAt v.2 4 1 = 4 →
        beAt b 12 4 = beAt u.2 12 4 → beAt u.2 24 8 + beAt u.2 32 4 ≤ beAt b 24 8 → beAt b 12 4 ≠ 0xFFFFFFFF →
        ∃ t, exec (.caskAck b) s = .next t ∧ s.restKept t ∧ w.memoriesKept t.w ∧ t.w.out = w.out ∧ t.w.cask.transfer = { x with unacked := [v] })
      ∧ (w.storeHears 4 b → x.endSent = true → ∃ t, exec (.caskEnd b) s = .next t ∧ s.restKept t ∧ w.memoriesKept t.w ∧ w.exported t.w true)
      ∧ (w.storeHears 5 b → ∃ t, exec (.caskRefuse b) s = .next t ∧ s.restKept t ∧ w.memoriesKept t.w ∧ w.exported t.w false))
    ∧ (∀ (b : List Byte) (f : Fetching) (a : Nat × Nat), c.fetching = some f → f.fromStore = true → f.nextAsk = some a → w.store.isSome = true →
      ∃ t, exec (.caskFetch b) s = .next t ∧ s.restKept t ∧ w.memoriesKept t.w ∧ t.w.cask = c ∧ w.toldStore t.w (w.caskFrame 3 a.1 f.step a.2 0 false []))
    ∧ ∀ (seq : Nat) (u : Nat × List Byte), (x.unacked.find? fun u => decide (u.1 = seq)) = some u →
      (AMap.get 0 x.resends seq < 100 → w.store.isSome = true → ∃ t, exec (.caskFrameResend seq) s = .next t ∧ s.restKept t ∧ w.memoriesKept t.w ∧ w.toldStore t.w u.2
        ∧ AMap.get 0 t.w.cask.transfer.resends seq = AMap.get 0 x.resends seq + 1 ∧ t.w.cask.transfer.unacked = x.unacked)
      ∧ (100 ≤ AMap.get 0 x.resends seq → x.dump = none → ∃ t, exec (.caskFrameResend seq) s = .next t ∧ s.restKept t ∧ w.memoriesKept t.w ∧ t.w.out = w.out
        ∧ w.exported t.w false)

/-- R489, R491: a restore stops the job, zeroes what the run left, and asks for the cask; once all of it has come back, a manifest that may be used sets the step to follow the cask's and the
position reports, and one that may not refuses the restore; with the domain's restore complete the job runs again from that step. -/
def Obligations.RestoresResumeAtTheNextStep : Prop :=
  ∀ (s : Machine.State) (step : Nat), s.inService = true →
    let w := s.w
    let c := w.cask
    (c.fetching = none → (w.part 0).bundle.isSome = true → w.canSend = true →
      ∃ t, exec (.caskRestore step) s = .next t ∧ s.restKept t ∧ t.w.hbm = w.hbm ∧ (t.w.part 0).job ≠ .running ∧ (t.w.part 0).pools = []
        ∧ (∀ e ∈ (t.w.part 0).dir, e.current = false ∧ e.version = 0) ∧ ∃ f, t.w.cask.fetching = some f ∧ f.step = step ∧ f.fromStore = !w.inGroup)
    ∧ (∀ f, c.fetching = some f → f.toExport = false → f.step = step → f.written = false → w.fetchDone f = true →
      let segs := w.fetchedSegments f
      let good := w.manifestGood f.manifest step && segs.all fun g => g.2.isSome || decide (g.1.length = 0)
      w.fab.position.isSome = true → w.noGuards → ∃ t, exec (.caskRestore step) s = .next t ∧ t.pending = s.pending
        ∧ (good = true → (t.w.part 0).step = step + 1 ∧ (t.w.part 0).lastSwitched = some step ∧ (t.w.part 0).jobSeed = BitVec.ofNat 64 (leAt f.manifest 0x20 8)
          ∧ t.w.hop.replaying = true ∧ t.w.hop.applied = step + 2 ∧ (∃ g, t.w.cask.fetching = some g ∧ g.written = true)
          ∧ t.w.out = w.out ++ [.tree true { kind := 1, barrier := 2, entries := 1, step := step, fromPosition := w.ownPosition }])
        ∧ (good = false → t.w.cask.fetching = none ∧ (t.w.part 0).step = (w.part 0).step))
    ∧ ∀ (m : TreeMsg) (f : Fetching), w.fab.trained = true → w.fab.position.isSome = true → m.kind = 1 → m.barrier = 2 → m.abort = false → c.fetching = some f →
      f.step = m.step → f.written = true → (∀ o q, w.uzo.restoreWait = some (o, q) → o = none) →
      ∃ t, exec (.treeDown m) s = .next t ∧ s.restKept t ∧ (t.w.part 0).job = .running ∧ (t.w.part 0).due = some (w.opensCycle (w.part 0).step)
        ∧ (t.w.part 0).step = (w.part 0).step ∧ t.w.cask.fetching = none ∧ t.w.cask.committed = some m.step ∧ t.w.cask.forced = true
        ∧ w.counted t.w .csk 0 0x0C0 ∧ ∀ o q, w.uzo.restoreWait = some (o, q) → reply 0x16 q stOk 0 [] ∈ t.w.out

/-! ### Observability (chapter 16) -/

/-- R590 to R593, R606 to R608: the trace writer takes records in order, writes one where the ring has room and else counts it lost; software frees room; a program-counter sample is taken
for its path; a port frame takes up to 256 records against a credit and its CRC covers it; credits add up; while the link is not up no unit is held. -/
def Obligations.TracePathsKeepOrder : Prop :=
  ∀ s : Machine.State, s.inService = true →
    let w := s.w
    (∀ (part : PartId) (r : List Byte) (rest : List (List Byte)), let p := part.val; let x := w.part p;
      x.traceIn = r :: rest → x.traceLost = 0 →
      (64 ≤ x.traceFree → r.length = 32 → x.good.Nodup → x.traceAddr + x.traceWrite + 32 ≤ w.hbmCapacity p →
        ∃ t, exec (.traceRegionWrite part) s = .next t ∧ s.restKept t ∧ w.onlyHbm t.w ∧ w.hbmWrote t.w p (x.traceAddr + x.traceWrite) r
          ∧ (t.w.part p).traceIn = rest ∧ (t.w.part p).traceWrite = (x.traceWrite + 32) % x.traceSize ∧ w.counted t.w .cnt p 0x088)
      ∧ (x.traceFree < 64 → ∃ t, exec (.traceRegionWrite part) s = .next t ∧ s.restKept t ∧ w.memoriesKept t.w ∧ (t.w.part p).traceIn = rest
        ∧ (t.w.part p).traceLost = 1 ∧ (t.w.part p).firstLost = leAt r 0 8 ∧ w.counted t.w .cnt p 0x090))
    ∧ (∀ (part : PartId) (value : BitVec 64), let p := part.val; let x := w.part p; let o := value.toNat % 2 ^ 48;
      ∃ t, exec (.cntTraceRead part value) s = .next t ∧ s.restKept t ∧ w.memoriesKept t.w ∧ t.w.out = w.out
        ∧ (t.w.part p).traceRead = if o % 32 = 0 ∧ o < x.traceSize
            ∧ (o + x.traceSize - x.traceRead) % x.traceSize ≤ (x.traceWrite + x.traceSize - x.traceRead) % x.traceSize then o else x.traceRead)
    ∧ (∀ core : CoreId, let c := core.val; let p := w.partOfCore c;
      AMap.get false w.stopped (clusterOfCore c) = false →
      (w.regionTraces p 1 = true → ∃ t r, exec (.pcSample core false) s = .next t ∧ s.restKept t ∧ w.memoriesKept t.w ∧ t.w.cores = w.cores
        ∧ (t.w.part p).traceIn = (w.part p).traceIn ++ [r] ∧ r.drop 16 = w.sampleData c ∧ w.counted t.w .cnt p 0x098)
      ∧ (w.portTraces 1 = true → w.throttles (coreSource 0 c) 1 = false → w.trc.link = 2 →
        (w.trc.buffer.length - (w.trc.buffer.filter eventRecordKind).length < portBufferRecords →
          ∃ t r, exec (.pcSample core true) s = .next t ∧ s.restKept t ∧ w.memoriesKept t.w ∧ t.w.cores = w.cores ∧ t.w.trc.buffer = w.trc.buffer ++ [r]
            ∧ r.drop 16 = w.sampleData c))
      ∧ (w.portTraces 1 = true → w.throttles (coreSource 0 c) 1 = true →
        ∃ t, exec (.pcSample core true) s = .next t ∧ s.restKept t ∧ w.memoriesKept t.w ∧ t.w.throttled (coreSource 0 c) = true
          ∧ w.counted t.w .trc 0 0x090 ∧ t.w.trc.buffer = w.trc.buffer))
    ∧ (w.trc.link = 2 → w.regField (Block.trc.addr 0 0x000) 0 1 = 1 → 0 < w.trc.credits → w.trc.buffer ≠ [] → w.trc.lost = 0 → w.trc.srcBuf = [] →
      ∃ t b, exec .tracePortFrame s = .next t ∧ s.restKept t ∧ w.memoriesKept t.w ∧ t.w.out = w.out ++ [.trace (b ++ leBytes 4 (crc32 b))]
        ∧ b.drop 64 = (w.trc.buffer.take 256).flatten ∧ leAt b 6 2 = min 256 w.trc.buffer.length ∧ leAt b 16 8 = w.trc.seq % 2 ^ 64
        ∧ t.w.trc.buffer = w.trc.buffer.drop 256 ∧ t.w.trc.credits = w.trc.credits - 1 ∧ t.w.trc.seq = w.trc.seq + 1 ∧ w.counted t.w .trc 0 0x080)
    ∧ (∀ frames : BitVec 16, ∃ t, exec (.traceCredit frames) s = .next t ∧ s.restKept t
        ∧ t.w = { w with trc := { w.trc with credits := min 65535 (w.trc.credits + frames.toNat) } })
    ∧ ∀ link : Fin 3, ∃ t, exec (.tracePortLinkChange link) s = .next t ∧ s.restKept t ∧ w.memoriesKept t.w ∧ t.w.trc.link = link.val
        ∧ (link.val ≠ 2 → t.w.trc.throttled = []) ∧ (link.val = 2 → t.w.trc.throttled = w.trc.throttled)

/-- R596, R597, R599, R600, R602, R603: GO arms a dump that passes its tests and refuses another with its code; CANCEL ends an armed one as CANCELLED; the copy of a dump to its region
ends with DONE and a DUMP record, and writes the image and nothing else; FREEZE stops every tail of the partition and THAW lets them run on, their records kept. -/
def Obligations.DumpsAndTailsAreControlled : Prop :=
  ∀ (s : Machine.State) (part : PartId), s.inService = true →
    let p := part.val
    let w := s.w
    let x := w.part p
    let r := w.reg (Block.cnt.addr p 0x020)
    let g := w.reg (Block.cnt.addr p 0x030)
    let step := (w.reg (Block.cnt.addr p 0x028)).toNat
    (∀ owner : Bool,
      (x.dump.state ≠ 0 → ∃ t, exec (.go part owner) s = .next t ∧ s.restKept t ∧ w.memoriesKept t.w ∧ (t.w.part p).dump = { x.dump with result := 6 })
      ∧ (∀ e : DirEntry, x.dump.state = 0 → fieldOf r 25 1 = 0 → ((x.bundle.getD {}).tensors.any fun y => decide (y.id = fieldOf r 0 24) && y.versioned) = true →
        x.entry (fieldOf r 0 24) = some e →
        (step < x.step → ∃ t, exec (.go part owner) s = .next t ∧ s.restKept t ∧ w.memoriesKept t.w ∧ (t.w.part p).dump = { x.dump with result := 2 })
        ∧ (x.step ≤ step → w.regionBad p (fieldOf g 0 48) (fieldOf g 48 16 * 2 ^ 20) = false →
          64 + e.bytes + (if fieldOf r 24 1 = 1 then 128 else 0) ≤ fieldOf g 48 16 * 2 ^ 20 →
          ∃ t, exec (.go part owner) s = .next t ∧ s.restKept t ∧ w.memoriesKept t.w ∧ (t.w.part p).dump.state = 1 ∧ (t.w.part p).dump.tensor = fieldOf r 0 24
            ∧ (t.w.part p).dump.step = step ∧ (t.w.part p).dump.addr = fieldOf g 0 48)))
    ∧ (x.dump.state = 1 → ∃ t, exec (.cancel part) s = .next t ∧ s.restKept t ∧ w.memoriesKept t.w ∧ (t.w.part p).dump.state = 0
      ∧ (t.w.part p).dump.result = 8)
    ∧ (∀ ok : Bool, x.dump.state = 2 → x.dump.ethernet = false → w.plainHbm p x.dump.addr x.dump.image.length →
      ∃ t, exec (.dumpEnd part ok) s = .next t ∧ s.restKept t ∧ w.onlyHbm t.w ∧ w.hbmWrote t.w p x.dump.addr x.dump.image
        ∧ (t.w.part p).dump.state = 0 ∧ (t.w.part p).dump.result = 1 ∧ w.counted t.w .cnt p 0x0A0
        ∧ t.w.counter .cnt p 0x0A8 = w.counter .cnt p 0x0A8 + BitVec.ofNat 64 x.dump.image.length)
    ∧ (∀ ok : Bool, x.dump.state = 2 → x.dump.ethernet = true → x.dump.copied ≠ 0 → ∃ t, exec (.dumpEnd part ok) s = .next t ∧ s.restKept t
      ∧ w.memoriesKept t.w ∧ (t.w.part p).dump.state = 0 ∧ (t.w.part p).dump.result = if x.dump.copied = 1 then 1 else 7)
    ∧ (∃ t, exec (.freeze part) s = .next t ∧ s.restKept t ∧ w.memoriesKept t.w ∧ t.w.cores = w.cores ∧ w.counted t.w .cnt p 0x0B8
      ∧ ∀ src ∈ w.partSources p, (AMap.get {} t.w.tails src).frozen.isSome = true
        ∧ ((AMap.get {} w.tails src).frozen.isSome = true → AMap.get {} t.w.tails src = AMap.get {} w.tails src))
    ∧ ∃ t, exec (.thaw part) s = .next t ∧ s.restKept t ∧ w.memoriesKept t.w ∧ t.w.cores = w.cores
      ∧ ∀ src, (AMap.get {} t.w.tails src).recs = (AMap.get {} w.tails src).recs ∧ (src ∈ w.partSources p → (AMap.get {} t.w.tails src).frozen = none)

/-! ### The whole machine -/

/-- R6, R7, R22, R430, R555, R562, R570, R572: before its first power-on the module is off, no command waits, every memory is empty, every register reads its reset value, no event is queued, no
signature credit is held and the counter reads 0; and the limits of every step and the memories' canonical form hold. Values that the manual gives no reset for are the model's (log entry 110). -/
def Obligations.ResetIsOffAndEmpty : Prop :=
  let s := Machine.State.reset
  s.pending = [] ∧ s.pwr.phase = .off ∧ s.pwr.freq = 940 ∧ s.sid.now = 0 ∧ s.sec.credits = 0 ∧ s.sec.signQueue = []
    ∧ s.w.hbm = [] ∧ s.w.tun = [] ∧ s.w.cstore = [] ∧ s.w.cellar = [] ∧ s.w.uzo.events = [] ∧ s.w.out = []
    ∧ (∀ a, s.w.reg a = regReset a) ∧ s.limitsKept ∧ s.memoriesWf = true

/-- R22, R570, R572, R622: whatever the state and the command, a step keeps the arithmetic frequency on its ladder of 20 MHz from 400 to 940, the caps between 1,200 and 3,000 W, at most 100
signature credits, and every leaf index below the end of the blocks reserved, of 1,024 each, of 2^40 in all. -/
def Obligations.EveryStepKeepsLimits : Prop :=
  ∀ s t : Machine.State, s.limitsKept → step s = .next t → t.limitsKept

/-- HBM, tun memories, cluster stores, cellar, the Kiln's link buffer and the recipe store keep their canonical form in every step: addresses strictly rise, and no byte is listed that an
unlisted address reads as (log entry 4). -/
def Obligations.EveryStepKeepsMemoriesCanonical : Prop :=
  ∀ s t : Machine.State, s.memoriesWf = true → step s = .next t → t.memoriesWf = true
end

