-- ==== Sys2Proof/Laws/Data.lean ====
section
/-!
SUPPORT. The laws of tables and memories: a read after a write gives what was written, other keys keep their value, and every operation
keeps the canonical form; and little-endian bytes.
-/

namespace Sys2Proof.Machine

section Tables
variable {α : Type}

theorem AMap.get_drop_self (d : α) (m : AMap α) (k : Nat) : AMap.get d (m.drop k) k = d := by
  induction m with
  | nil => rfl
  | cons e r ih =>
    unfold AMap.drop at *
    by_cases h : e.1 = k
    · simpa [List.filter_cons, h] using ih
    · have h' : ¬ k = e.1 := fun x => h x.symm
      simpa [List.filter_cons, h, AMap.get, h'] using ih

theorem AMap.get_drop_ne (d : α) (m : AMap α) {k j : Nat} (h : j ≠ k) : AMap.get d (m.drop k) j = AMap.get d m j := by
  induction m with
  | nil => rfl
  | cons e r ih =>
    unfold AMap.drop at *
    by_cases h1 : e.1 = k
    · have h2 : ¬ j = e.1 := fun x => h (x.trans h1)
      simp only [AMap.get, h2, if_false]
      simpa [List.filter_cons, h1] using ih
    · simp only [List.filter_cons, h1, not_false_eq_true, decide_true, if_true, AMap.get, ne_eq]
      split
      · rfl
      · simpa using ih

theorem AMap.get_put (d : α) (m : AMap α) (k j : Nat) (v : α) (h : ∀ e ∈ m, e.1 ≠ k) :
    AMap.get d (AMap.put m k v) j = if j = k then v else AMap.get d m j := by
  induction m with
  | nil => rfl
  | cons e r ih =>
    obtain ⟨a, x⟩ := e
    have hk : k ≠ a := fun z => h (a, x) (by simp) z.symm
    have hr := ih fun e he => h e (by simp [he])
    simp only [AMap.put]
    split
    · rfl
    · simp only [AMap.get, hr]
      by_cases h1 : j = a
      · subst h1; simp [Ne.symm hk]
      · simp [h1]

theorem AMap.ne_of_mem_drop (m : AMap α) (k : Nat) : ∀ e ∈ m.drop k, e.1 ≠ k := by
  intro e he
  simpa using (List.mem_filter.1 he).2

variable [DecidableEq α]

/-- Every read of a table after one write. -/
theorem AMap.get_set (d : α) (m : AMap α) (k j : Nat) (v : α) :
    AMap.get d (AMap.set d m k v) j = if j = k then v else AMap.get d m j := by
  unfold AMap.set
  by_cases hj : j = k
  · subst hj
    split
    · rename_i h; simpa [h] using AMap.get_drop_self d m j
    · simp [AMap.get_put d _ _ _ _ (AMap.ne_of_mem_drop m j)]
  · split
    · simpa [hj] using AMap.get_drop_ne d m hj
    · simpa [AMap.get_put d _ _ _ _ (AMap.ne_of_mem_drop m k), hj] using AMap.get_drop_ne d m hj

@[simp] theorem AMap.get_set_self (d : α) (m : AMap α) (k : Nat) (v : α) : AMap.get d (AMap.set d m k v) k = v := by
  simp [AMap.get_set]

theorem AMap.get_set_ne (d : α) (m : AMap α) {k j : Nat} (v : α) (h : j ≠ k) :
    AMap.get d (AMap.set d m k v) j = AMap.get d m j := by simp [AMap.get_set, h]

@[simp] theorem AMap.get_upd_self (d : α) (m : AMap α) (k : Nat) (f : α → α) :
    AMap.get d (AMap.upd d m k f) k = f (AMap.get d m k) := by simp [AMap.upd]

theorem AMap.get_upd_ne (d : α) (m : AMap α) {k j : Nat} (f : α → α) (h : j ≠ k) :
    AMap.get d (AMap.upd d m k f) j = AMap.get d m j := AMap.get_set_ne d m _ h

/-! ### The canonical form -/

theorem AMap.wfFrom_weaken (d : α) : ∀ (m : AMap α) {lo lo' : Nat}, lo' ≤ lo → AMap.wfFrom d lo m = true → AMap.wfFrom d lo' m = true
  | [], _, _, _, _ => rfl
  | (a, v) :: r, lo, lo', h, hw => by
    simp only [AMap.wfFrom, Bool.and_eq_true, decide_eq_true_eq] at *
    exact ⟨⟨le_trans h hw.1.1, hw.1.2⟩, hw.2⟩

theorem AMap.wfFrom_filter (d : α) (q : Nat × α → Bool) :
    ∀ (m : AMap α) {lo : Nat}, AMap.wfFrom d lo m = true → AMap.wfFrom d lo (m.filter q) = true
  | [], _, _ => rfl
  | (a, v) :: r, lo, hw => by
    simp only [AMap.wfFrom, Bool.and_eq_true, decide_eq_true_eq] at hw
    have ih := AMap.wfFrom_filter d q r hw.2
    rw [List.filter_cons]
    split
    · simp only [AMap.wfFrom, Bool.and_eq_true, decide_eq_true_eq]; exact ⟨hw.1, ih⟩
    · exact AMap.wfFrom_weaken d _ (by omega) ih

theorem AMap.wfFrom_put (d : α) (v : α) (k : Nat) (hv : v ≠ d) :
    ∀ (m : AMap α) {lo : Nat}, lo ≤ k → (∀ e ∈ m, e.1 ≠ k) → AMap.wfFrom d lo m = true → AMap.wfFrom d lo (AMap.put m k v) = true
  | [], lo, hl, _, _ => by simp [AMap.put, AMap.wfFrom, hl, hv]
  | (a, x) :: r, lo, hl, hm, hw => by
    have ha : a ≠ k := hm (a, x) (by simp)
    simp only [AMap.wfFrom, Bool.and_eq_true, decide_eq_true_eq] at hw
    simp only [AMap.put]
    split
    · simp only [AMap.wfFrom, Bool.and_eq_true, decide_eq_true_eq]; exact ⟨⟨hl, hv⟩, ⟨by omega, hw.1.2⟩, hw.2⟩
    · simp only [AMap.wfFrom, Bool.and_eq_true, decide_eq_true_eq]
      exact ⟨hw.1, AMap.wfFrom_put d v k hv r (by omega) (fun e he => hm e (by simp [he])) hw.2⟩

/-- A write keeps the canonical form. -/
theorem AMap.wf_set (d : α) (m : AMap α) (k : Nat) (v : α) (h : AMap.wf d m = true) : AMap.wf d (AMap.set d m k v) = true := by
  unfold AMap.set
  split
  · exact AMap.wfFrom_filter d _ m h
  · rename_i hv
    exact AMap.wfFrom_put d v k hv _ (Nat.zero_le _) (AMap.ne_of_mem_drop m k) (AMap.wfFrom_filter d _ m h)

theorem AMap.wf_upd (d : α) (m : AMap α) (k : Nat) (f : α → α) (h : AMap.wf d m = true) : AMap.wf d (AMap.upd d m k f) = true :=
  AMap.wf_set d m k _ h

theorem AMap.wf_clear (d : α) (m : AMap α) (lo hi : Nat) (h : AMap.wf d m = true) : AMap.wf d (m.clear lo hi) = true :=
  AMap.wfFrom_filter d _ m h

end Tables

/-! ### Memories -/

/-- Every byte of a memory after one byte is written. -/
theorem Memory.byte_setByte (m : Memory) (a j : Nat) (b : Byte) : (m.setByte a b).byte j = if j = a then b else m.byte j :=
  AMap.get_set 0 m a j b

theorem Memory.wf_setByte (m : Memory) (a : Nat) (b : Byte) (h : m.wf = true) : (m.setByte a b).wf = true := AMap.wf_set 0 m a b h

/-- A byte below or above a run that is written keeps its value. -/
theorem Memory.byte_write_outside : ∀ (bs : List Byte) (m : Memory) (a j : Nat), (j < a ∨ a + bs.length ≤ j) →
    (m.write a bs).byte j = m.byte j
  | [], _, _, _, _ => rfl
  | b :: bs, m, a, j, h => by
    simp only [Memory.write, List.length_cons] at *
    rw [Memory.byte_write_outside bs _ (a + 1) j (by omega), Memory.byte_setByte, if_neg (by omega)]

/-- A byte of a run that is written holds what was written. -/
theorem Memory.byte_write : ∀ (bs : List Byte) (m : Memory) (a i : Nat), i < bs.length → (m.write a bs).byte (a + i) = bs.getD i 0
  | [], _, _, i, h => by simp at h
  | b :: bs, m, a, 0, _ => by
    simp only [Memory.write, Nat.add_zero, List.getD_cons_zero]
    rw [Memory.byte_write_outside bs _ (a + 1) a (by omega), Memory.byte_setByte, if_pos rfl]
  | b :: bs, m, a, i + 1, h => by
    simp only [Memory.write, List.getD_cons_succ]
    rw [show a + (i + 1) = (a + 1) + i by omega]
    exact Memory.byte_write bs _ (a + 1) i (by simpa using h)

theorem Memory.wf_write : ∀ (bs : List Byte) (m : Memory) (a : Nat), m.wf = true → (m.write a bs).wf = true
  | [], _, _, h => h
  | b :: bs, m, a, h => Memory.wf_write bs _ (a + 1) (Memory.wf_setByte m a b h)

theorem Memory.wf_zero (m : Memory) (lo hi : Nat) (h : m.wf = true) : (m.zero lo hi).wf = true := AMap.wfFrom_filter 0 _ m h

@[simp] theorem Memory.length_read (m : Memory) (a : Nat) : ∀ n, (m.read a n).length = n
  | 0 => rfl
  | n + 1 => by simp [Memory.read, Memory.length_read m (a + 1) n]

/-! ### Little-endian bytes (R4) -/

@[simp] theorem length_leBytes : ∀ (n v : Nat), (leBytes n v).length = n
  | 0, _ => rfl
  | n + 1, v => by simp [leBytes, length_leBytes n (v / 256)]

/-- The bytes of a number spell it again, modulo their width. -/
theorem leNat_leBytes : ∀ (n v : Nat), leNat (leBytes n v) = v % 256 ^ n
  | 0, v => by simp [leBytes, leNat, Nat.mod_one]
  | n + 1, v => by
    rw [leBytes, leNat, leNat_leBytes n (v / 256), BitVec.toNat_ofNat, Nat.pow_succ' (m := 256),
      Nat.mod_mul (a := 256), show (2 : Nat) ^ 8 = 256 from rfl]

theorem slice_self (bs : List Byte) : slice bs 0 bs.length = bs := by simp [slice]

theorem leAt_leBytes (n v : Nat) : leAt (leBytes n v) 0 n = v % 256 ^ n := by
  have h := slice_self (leBytes n v)
  rw [length_leBytes] at h
  rw [leAt, h, leNat_leBytes]

end Sys2Proof.Machine
end

