-- ==== Sys2Proof/Laws/State.lean ====
section
/-!
SUPPORT. One lemma for each field after each update of the state.
-/

namespace Sys2Proof.Machine

/-! ### The module -/

@[simp] theorem State.onWorld_pwr (s : State) (f : World → World) : (s.onWorld f).pwr = s.pwr := rfl
@[simp] theorem State.onWorld_sid (s : State) (f : World → World) : (s.onWorld f).sid = s.sid := rfl
@[simp] theorem State.onWorld_sec (s : State) (f : World → World) : (s.onWorld f).sec = s.sec := rfl
@[simp] theorem State.onWorld_w (s : State) (f : World → World) : (s.onWorld f).w = f s.w := rfl
@[simp] theorem State.onWorld_pending (s : State) (f : World → World) : (s.onWorld f).pending = s.pending := rfl

/-! ### The world -/

section
variable (w : World)

@[simp] theorem World.emit_regs (o : Output) : (w.emit o).regs = w.regs := rfl
@[simp] theorem World.emit_counters (o : Output) : (w.emit o).counters = w.counters := rfl
@[simp] theorem World.emit_config (o : Output) : (w.emit o).config = w.config := rfl
@[simp] theorem World.emit_hbm (o : Output) : (w.emit o).hbm = w.hbm := rfl
@[simp] theorem World.emit_tun (o : Output) : (w.emit o).tun = w.tun := rfl
@[simp] theorem World.emit_cstore (o : Output) : (w.emit o).cstore = w.cstore := rfl
@[simp] theorem World.emit_cellar (o : Output) : (w.emit o).cellar = w.cellar := rfl
@[simp] theorem World.emit_channels (o : Output) : (w.emit o).channels = w.channels := rfl
@[simp] theorem World.emit_hourEcc (o : Output) : (w.emit o).hourEcc = w.hourEcc := rfl
@[simp] theorem World.emit_eccHour (o : Output) : (w.emit o).eccHour = w.eccHour := rfl
@[simp] theorem World.emit_parityStep (o : Output) : (w.emit o).parityStep = w.parityStep := rfl
@[simp] theorem World.emit_parityHeld (o : Output) : (w.emit o).parityHeld = w.parityHeld := rfl
@[simp] theorem World.emit_nmrFaulted (o : Output) : (w.emit o).nmrFaulted = w.nmrFaulted := rfl
@[simp] theorem World.emit_cellarBad (o : Output) : (w.emit o).cellarBad = w.cellarBad := rfl
@[simp] theorem World.emit_cores (o : Output) : (w.emit o).cores = w.cores := rfl
@[simp] theorem World.emit_clusters (o : Output) : (w.emit o).clusters = w.clusters := rfl
@[simp] theorem World.emit_parts (o : Output) : (w.emit o).parts = w.parts := rfl
@[simp] theorem World.emit_dies (o : Output) : (w.emit o).dies = w.dies := rfl
@[simp] theorem World.emit_flows (o : Output) : (w.emit o).flows = w.flows := rfl
@[simp] theorem World.emit_bars (o : Output) : (w.emit o).bars = w.bars := rfl
@[simp] theorem World.emit_dbars (o : Output) : (w.emit o).dbars = w.dbars := rfl
@[simp] theorem World.emit_kiln (o : Output) : (w.emit o).kiln = w.kiln := rfl
@[simp] theorem World.emit_fab (o : Output) : (w.emit o).fab = w.fab := rfl
@[simp] theorem World.emit_cask (o : Output) : (w.emit o).cask = w.cask := rfl
@[simp] theorem World.emit_twin (o : Output) : (w.emit o).twin = w.twin := rfl
@[simp] theorem World.emit_hop (o : Output) : (w.emit o).hop = w.hop := rfl
@[simp] theorem World.emit_tap (o : Output) : (w.emit o).tap = w.tap := rfl
@[simp] theorem World.emit_eth (o : Output) : (w.emit o).eth = w.eth := rfl
@[simp] theorem World.emit_uzo (o : Output) : (w.emit o).uzo = w.uzo := rfl
@[simp] theorem World.emit_trc (o : Output) : (w.emit o).trc = w.trc := rfl
@[simp] theorem World.emit_tails (o : Output) : (w.emit o).tails = w.tails := rfl
@[simp] theorem World.emit_stamps (o : Output) : (w.emit o).stamps = w.stamps := rfl
@[simp] theorem World.emit_stopped (o : Output) : (w.emit o).stopped = w.stopped := rfl
@[simp] theorem World.emit_restarts (o : Output) : (w.emit o).restarts = w.restarts := rfl
@[simp] theorem World.emit_mhz (o : Output) : (w.emit o).mhz = w.mhz := rfl
@[simp] theorem World.emit_pointers (o : Output) : (w.emit o).pointers = w.pointers := rfl
@[simp] theorem World.emit_free (o : Output) : (w.emit o).free = w.free := rfl
@[simp] theorem World.emit_out (o : Output) : (w.emit o).out = w.out ++ [o] := rfl

@[simp] theorem World.updCore_regs (c : Nat) (f : Core → Core) : (w.updCore c f).regs = w.regs := rfl
@[simp] theorem World.updCore_counters (c : Nat) (f : Core → Core) : (w.updCore c f).counters = w.counters := rfl
@[simp] theorem World.updCore_config (c : Nat) (f : Core → Core) : (w.updCore c f).config = w.config := rfl
@[simp] theorem World.updCore_hbm (c : Nat) (f : Core → Core) : (w.updCore c f).hbm = w.hbm := rfl
@[simp] theorem World.updCore_tun (c : Nat) (f : Core → Core) : (w.updCore c f).tun = w.tun := rfl
@[simp] theorem World.updCore_cstore (c : Nat) (f : Core → Core) : (w.updCore c f).cstore = w.cstore := rfl
@[simp] theorem World.updCore_cellar (c : Nat) (f : Core → Core) : (w.updCore c f).cellar = w.cellar := rfl
@[simp] theorem World.updCore_channels (c : Nat) (f : Core → Core) : (w.updCore c f).channels = w.channels := rfl
@[simp] theorem World.updCore_hourEcc (c : Nat) (f : Core → Core) : (w.updCore c f).hourEcc = w.hourEcc := rfl
@[simp] theorem World.updCore_eccHour (c : Nat) (f : Core → Core) : (w.updCore c f).eccHour = w.eccHour := rfl
@[simp] theorem World.updCore_parityStep (c : Nat) (f : Core → Core) : (w.updCore c f).parityStep = w.parityStep := rfl
@[simp] theorem World.updCore_parityHeld (c : Nat) (f : Core → Core) : (w.updCore c f).parityHeld = w.parityHeld := rfl
@[simp] theorem World.updCore_nmrFaulted (c : Nat) (f : Core → Core) : (w.updCore c f).nmrFaulted = w.nmrFaulted := rfl
@[simp] theorem World.updCore_cellarBad (c : Nat) (f : Core → Core) : (w.updCore c f).cellarBad = w.cellarBad := rfl
@[simp] theorem World.updCore_cores (c : Nat) (f : Core → Core) : (w.updCore c f).cores = AMap.upd {} w.cores c f := rfl
@[simp] theorem World.updCore_clusters (c : Nat) (f : Core → Core) : (w.updCore c f).clusters = w.clusters := rfl
@[simp] theorem World.updCore_parts (c : Nat) (f : Core → Core) : (w.updCore c f).parts = w.parts := rfl
@[simp] theorem World.updCore_dies (c : Nat) (f : Core → Core) : (w.updCore c f).dies = w.dies := rfl
@[simp] theorem World.updCore_flows (c : Nat) (f : Core → Core) : (w.updCore c f).flows = w.flows := rfl
@[simp] theorem World.updCore_bars (c : Nat) (f : Core → Core) : (w.updCore c f).bars = w.bars := rfl
@[simp] theorem World.updCore_dbars (c : Nat) (f : Core → Core) : (w.updCore c f).dbars = w.dbars := rfl
@[simp] theorem World.updCore_kiln (c : Nat) (f : Core → Core) : (w.updCore c f).kiln = w.kiln := rfl
@[simp] theorem World.updCore_fab (c : Nat) (f : Core → Core) : (w.updCore c f).fab = w.fab := rfl
@[simp] theorem World.updCore_cask (c : Nat) (f : Core → Core) : (w.updCore c f).cask = w.cask := rfl
@[simp] theorem World.updCore_twin (c : Nat) (f : Core → Core) : (w.updCore c f).twin = w.twin := rfl
@[simp] theorem World.updCore_hop (c : Nat) (f : Core → Core) : (w.updCore c f).hop = w.hop := rfl
@[simp] theorem World.updCore_tap (c : Nat) (f : Core → Core) : (w.updCore c f).tap = w.tap := rfl
@[simp] theorem World.updCore_eth (c : Nat) (f : Core → Core) : (w.updCore c f).eth = w.eth := rfl
@[simp] theorem World.updCore_uzo (c : Nat) (f : Core → Core) : (w.updCore c f).uzo = w.uzo := rfl
@[simp] theorem World.updCore_trc (c : Nat) (f : Core → Core) : (w.updCore c f).trc = w.trc := rfl
@[simp] theorem World.updCore_tails (c : Nat) (f : Core → Core) : (w.updCore c f).tails = w.tails := rfl
@[simp] theorem World.updCore_stamps (c : Nat) (f : Core → Core) : (w.updCore c f).stamps = w.stamps := rfl
@[simp] theorem World.updCore_stopped (c : Nat) (f : Core → Core) : (w.updCore c f).stopped = w.stopped := rfl
@[simp] theorem World.updCore_restarts (c : Nat) (f : Core → Core) : (w.updCore c f).restarts = w.restarts := rfl
@[simp] theorem World.updCore_mhz (c : Nat) (f : Core → Core) : (w.updCore c f).mhz = w.mhz := rfl
@[simp] theorem World.updCore_pointers (c : Nat) (f : Core → Core) : (w.updCore c f).pointers = w.pointers := rfl
@[simp] theorem World.updCore_free (c : Nat) (f : Core → Core) : (w.updCore c f).free = w.free := rfl
@[simp] theorem World.updCore_out (c : Nat) (f : Core → Core) : (w.updCore c f).out = w.out := rfl

@[simp] theorem World.updCluster_regs (k : Nat) (f : Cluster → Cluster) : (w.updCluster k f).regs = w.regs := rfl
@[simp] theorem World.updCluster_counters (k : Nat) (f : Cluster → Cluster) : (w.updCluster k f).counters = w.counters := rfl
@[simp] theorem World.updCluster_config (k : Nat) (f : Cluster → Cluster) : (w.updCluster k f).config = w.config := rfl
@[simp] theorem World.updCluster_hbm (k : Nat) (f : Cluster → Cluster) : (w.updCluster k f).hbm = w.hbm := rfl
@[simp] theorem World.updCluster_tun (k : Nat) (f : Cluster → Cluster) : (w.updCluster k f).tun = w.tun := rfl
@[simp] theorem World.updCluster_cstore (k : Nat) (f : Cluster → Cluster) : (w.updCluster k f).cstore = w.cstore := rfl
@[simp] theorem World.updCluster_cellar (k : Nat) (f : Cluster → Cluster) : (w.updCluster k f).cellar = w.cellar := rfl
@[simp] theorem World.updCluster_channels (k : Nat) (f : Cluster → Cluster) : (w.updCluster k f).channels = w.channels := rfl
@[simp] theorem World.updCluster_hourEcc (k : Nat) (f : Cluster → Cluster) : (w.updCluster k f).hourEcc = w.hourEcc := rfl
@[simp] theorem World.updCluster_eccHour (k : Nat) (f : Cluster → Cluster) : (w.updCluster k f).eccHour = w.eccHour := rfl
@[simp] theorem World.updCluster_parityStep (k : Nat) (f : Cluster → Cluster) : (w.updCluster k f).parityStep = w.parityStep := rfl
@[simp] theorem World.updCluster_parityHeld (k : Nat) (f : Cluster → Cluster) : (w.updCluster k f).parityHeld = w.parityHeld := rfl
@[simp] theorem World.updCluster_nmrFaulted (k : Nat) (f : Cluster → Cluster) : (w.updCluster k f).nmrFaulted = w.nmrFaulted := rfl
@[simp] theorem World.updCluster_cellarBad (k : Nat) (f : Cluster → Cluster) : (w.updCluster k f).cellarBad = w.cellarBad := rfl
@[simp] theorem World.updCluster_cores (k : Nat) (f : Cluster → Cluster) : (w.updCluster k f).cores = w.cores := rfl
@[simp] theorem World.updCluster_clusters (k : Nat) (f : Cluster → Cluster) : (w.updCluster k f).clusters = AMap.upd {} w.clusters k f := rfl
@[simp] theorem World.updCluster_parts (k : Nat) (f : Cluster → Cluster) : (w.updCluster k f).parts = w.parts := rfl
@[simp] theorem World.updCluster_dies (k : Nat) (f : Cluster → Cluster) : (w.updCluster k f).dies = w.dies := rfl
@[simp] theorem World.updCluster_flows (k : Nat) (f : Cluster → Cluster) : (w.updCluster k f).flows = w.flows := rfl
@[simp] theorem World.updCluster_bars (k : Nat) (f : Cluster → Cluster) : (w.updCluster k f).bars = w.bars := rfl
@[simp] theorem World.updCluster_dbars (k : Nat) (f : Cluster → Cluster) : (w.updCluster k f).dbars = w.dbars := rfl
@[simp] theorem World.updCluster_kiln (k : Nat) (f : Cluster → Cluster) : (w.updCluster k f).kiln = w.kiln := rfl
@[simp] theorem World.updCluster_fab (k : Nat) (f : Cluster → Cluster) : (w.updCluster k f).fab = w.fab := rfl
@[simp] theorem World.updCluster_cask (k : Nat) (f : Cluster → Cluster) : (w.updCluster k f).cask = w.cask := rfl
@[simp] theorem World.updCluster_twin (k : Nat) (f : Cluster → Cluster) : (w.updCluster k f).twin = w.twin := rfl
@[simp] theorem World.updCluster_hop (k : Nat) (f : Cluster → Cluster) : (w.updCluster k f).hop = w.hop := rfl
@[simp] theorem World.updCluster_tap (k : Nat) (f : Cluster → Cluster) : (w.updCluster k f).tap = w.tap := rfl
@[simp] theorem World.updCluster_eth (k : Nat) (f : Cluster → Cluster) : (w.updCluster k f).eth = w.eth := rfl
@[simp] theorem World.updCluster_uzo (k : Nat) (f : Cluster → Cluster) : (w.updCluster k f).uzo = w.uzo := rfl
@[simp] theorem World.updCluster_trc (k : Nat) (f : Cluster → Cluster) : (w.updCluster k f).trc = w.trc := rfl
@[simp] theorem World.updCluster_tails (k : Nat) (f : Cluster → Cluster) : (w.updCluster k f).tails = w.tails := rfl
@[simp] theorem World.updCluster_stamps (k : Nat) (f : Cluster → Cluster) : (w.updCluster k f).stamps = w.stamps := rfl
@[simp] theorem World.updCluster_stopped (k : Nat) (f : Cluster → Cluster) : (w.updCluster k f).stopped = w.stopped := rfl
@[simp] theorem World.updCluster_restarts (k : Nat) (f : Cluster → Cluster) : (w.updCluster k f).restarts = w.restarts := rfl
@[simp] theorem World.updCluster_mhz (k : Nat) (f : Cluster → Cluster) : (w.updCluster k f).mhz = w.mhz := rfl
@[simp] theorem World.updCluster_pointers (k : Nat) (f : Cluster → Cluster) : (w.updCluster k f).pointers = w.pointers := rfl
@[simp] theorem World.updCluster_free (k : Nat) (f : Cluster → Cluster) : (w.updCluster k f).free = w.free := rfl
@[simp] theorem World.updCluster_out (k : Nat) (f : Cluster → Cluster) : (w.updCluster k f).out = w.out := rfl

@[simp] theorem World.updPart_regs (p : Nat) (f : Part → Part) : (w.updPart p f).regs = w.regs := rfl
@[simp] theorem World.updPart_counters (p : Nat) (f : Part → Part) : (w.updPart p f).counters = w.counters := rfl
@[simp] theorem World.updPart_config (p : Nat) (f : Part → Part) : (w.updPart p f).config = w.config := rfl
@[simp] theorem World.updPart_hbm (p : Nat) (f : Part → Part) : (w.updPart p f).hbm = w.hbm := rfl
@[simp] theorem World.updPart_tun (p : Nat) (f : Part → Part) : (w.updPart p f).tun = w.tun := rfl
@[simp] theorem World.updPart_cstore (p : Nat) (f : Part → Part) : (w.updPart p f).cstore = w.cstore := rfl
@[simp] theorem World.updPart_cellar (p : Nat) (f : Part → Part) : (w.updPart p f).cellar = w.cellar := rfl
@[simp] theorem World.updPart_channels (p : Nat) (f : Part → Part) : (w.updPart p f).channels = w.channels := rfl
@[simp] theorem World.updPart_hourEcc (p : Nat) (f : Part → Part) : (w.updPart p f).hourEcc = w.hourEcc := rfl
@[simp] theorem World.updPart_eccHour (p : Nat) (f : Part → Part) : (w.updPart p f).eccHour = w.eccHour := rfl
@[simp] theorem World.updPart_parityStep (p : Nat) (f : Part → Part) : (w.updPart p f).parityStep = w.parityStep := rfl
@[simp] theorem World.updPart_parityHeld (p : Nat) (f : Part → Part) : (w.updPart p f).parityHeld = w.parityHeld := rfl
@[simp] theorem World.updPart_nmrFaulted (p : Nat) (f : Part → Part) : (w.updPart p f).nmrFaulted = w.nmrFaulted := rfl
@[simp] theorem World.updPart_cellarBad (p : Nat) (f : Part → Part) : (w.updPart p f).cellarBad = w.cellarBad := rfl
@[simp] theorem World.updPart_cores (p : Nat) (f : Part → Part) : (w.updPart p f).cores = w.cores := rfl
@[simp] theorem World.updPart_clusters (p : Nat) (f : Part → Part) : (w.updPart p f).clusters = w.clusters := rfl
@[simp] theorem World.updPart_parts (p : Nat) (f : Part → Part) : (w.updPart p f).parts = AMap.upd {} w.parts p f := rfl
@[simp] theorem World.updPart_dies (p : Nat) (f : Part → Part) : (w.updPart p f).dies = w.dies := rfl
@[simp] theorem World.updPart_flows (p : Nat) (f : Part → Part) : (w.updPart p f).flows = w.flows := rfl
@[simp] theorem World.updPart_bars (p : Nat) (f : Part → Part) : (w.updPart p f).bars = w.bars := rfl
@[simp] theorem World.updPart_dbars (p : Nat) (f : Part → Part) : (w.updPart p f).dbars = w.dbars := rfl
@[simp] theorem World.updPart_kiln (p : Nat) (f : Part → Part) : (w.updPart p f).kiln = w.kiln := rfl
@[simp] theorem World.updPart_fab (p : Nat) (f : Part → Part) : (w.updPart p f).fab = w.fab := rfl
@[simp] theorem World.updPart_cask (p : Nat) (f : Part → Part) : (w.updPart p f).cask = w.cask := rfl
@[simp] theorem World.updPart_twin (p : Nat) (f : Part → Part) : (w.updPart p f).twin = w.twin := rfl
@[simp] theorem World.updPart_hop (p : Nat) (f : Part → Part) : (w.updPart p f).hop = w.hop := rfl
@[simp] theorem World.updPart_tap (p : Nat) (f : Part → Part) : (w.updPart p f).tap = w.tap := rfl
@[simp] theorem World.updPart_eth (p : Nat) (f : Part → Part) : (w.updPart p f).eth = w.eth := rfl
@[simp] theorem World.updPart_uzo (p : Nat) (f : Part → Part) : (w.updPart p f).uzo = w.uzo := rfl
@[simp] theorem World.updPart_trc (p : Nat) (f : Part → Part) : (w.updPart p f).trc = w.trc := rfl
@[simp] theorem World.updPart_tails (p : Nat) (f : Part → Part) : (w.updPart p f).tails = w.tails := rfl
@[simp] theorem World.updPart_stamps (p : Nat) (f : Part → Part) : (w.updPart p f).stamps = w.stamps := rfl
@[simp] theorem World.updPart_stopped (p : Nat) (f : Part → Part) : (w.updPart p f).stopped = w.stopped := rfl
@[simp] theorem World.updPart_restarts (p : Nat) (f : Part → Part) : (w.updPart p f).restarts = w.restarts := rfl
@[simp] theorem World.updPart_mhz (p : Nat) (f : Part → Part) : (w.updPart p f).mhz = w.mhz := rfl
@[simp] theorem World.updPart_pointers (p : Nat) (f : Part → Part) : (w.updPart p f).pointers = w.pointers := rfl
@[simp] theorem World.updPart_free (p : Nat) (f : Part → Part) : (w.updPart p f).free = w.free := rfl
@[simp] theorem World.updPart_out (p : Nat) (f : Part → Part) : (w.updPart p f).out = w.out := rfl

@[simp] theorem World.updDie_regs (d : Nat) (f : Die → Die) : (w.updDie d f).regs = w.regs := rfl
@[simp] theorem World.updDie_counters (d : Nat) (f : Die → Die) : (w.updDie d f).counters = w.counters := rfl
@[simp] theorem World.updDie_config (d : Nat) (f : Die → Die) : (w.updDie d f).config = w.config := rfl
@[simp] theorem World.updDie_hbm (d : Nat) (f : Die → Die) : (w.updDie d f).hbm = w.hbm := rfl
@[simp] theorem World.updDie_tun (d : Nat) (f : Die → Die) : (w.updDie d f).tun = w.tun := rfl
@[simp] theorem World.updDie_cstore (d : Nat) (f : Die → Die) : (w.updDie d f).cstore = w.cstore := rfl
@[simp] theorem World.updDie_cellar (d : Nat) (f : Die → Die) : (w.updDie d f).cellar = w.cellar := rfl
@[simp] theorem World.updDie_channels (d : Nat) (f : Die → Die) : (w.updDie d f).channels = w.channels := rfl
@[simp] theorem World.updDie_hourEcc (d : Nat) (f : Die → Die) : (w.updDie d f).hourEcc = w.hourEcc := rfl
@[simp] theorem World.updDie_eccHour (d : Nat) (f : Die → Die) : (w.updDie d f).eccHour = w.eccHour := rfl
@[simp] theorem World.updDie_parityStep (d : Nat) (f : Die → Die) : (w.updDie d f).parityStep = w.parityStep := rfl
@[simp] theorem World.updDie_parityHeld (d : Nat) (f : Die → Die) : (w.updDie d f).parityHeld = w.parityHeld := rfl
@[simp] theorem World.updDie_nmrFaulted (d : Nat) (f : Die → Die) : (w.updDie d f).nmrFaulted = w.nmrFaulted := rfl
@[simp] theorem World.updDie_cellarBad (d : Nat) (f : Die → Die) : (w.updDie d f).cellarBad = w.cellarBad := rfl
@[simp] theorem World.updDie_cores (d : Nat) (f : Die → Die) : (w.updDie d f).cores = w.cores := rfl
@[simp] theorem World.updDie_clusters (d : Nat) (f : Die → Die) : (w.updDie d f).clusters = w.clusters := rfl
@[simp] theorem World.updDie_parts (d : Nat) (f : Die → Die) : (w.updDie d f).parts = w.parts := rfl
@[simp] theorem World.updDie_dies (d : Nat) (f : Die → Die) : (w.updDie d f).dies = AMap.upd {} w.dies d f := rfl
@[simp] theorem World.updDie_flows (d : Nat) (f : Die → Die) : (w.updDie d f).flows = w.flows := rfl
@[simp] theorem World.updDie_bars (d : Nat) (f : Die → Die) : (w.updDie d f).bars = w.bars := rfl
@[simp] theorem World.updDie_dbars (d : Nat) (f : Die → Die) : (w.updDie d f).dbars = w.dbars := rfl
@[simp] theorem World.updDie_kiln (d : Nat) (f : Die → Die) : (w.updDie d f).kiln = w.kiln := rfl
@[simp] theorem World.updDie_fab (d : Nat) (f : Die → Die) : (w.updDie d f).fab = w.fab := rfl
@[simp] theorem World.updDie_cask (d : Nat) (f : Die → Die) : (w.updDie d f).cask = w.cask := rfl
@[simp] theorem World.updDie_twin (d : Nat) (f : Die → Die) : (w.updDie d f).twin = w.twin := rfl
@[simp] theorem World.updDie_hop (d : Nat) (f : Die → Die) : (w.updDie d f).hop = w.hop := rfl
@[simp] theorem World.updDie_tap (d : Nat) (f : Die → Die) : (w.updDie d f).tap = w.tap := rfl
@[simp] theorem World.updDie_eth (d : Nat) (f : Die → Die) : (w.updDie d f).eth = w.eth := rfl
@[simp] theorem World.updDie_uzo (d : Nat) (f : Die → Die) : (w.updDie d f).uzo = w.uzo := rfl
@[simp] theorem World.updDie_trc (d : Nat) (f : Die → Die) : (w.updDie d f).trc = w.trc := rfl
@[simp] theorem World.updDie_tails (d : Nat) (f : Die → Die) : (w.updDie d f).tails = w.tails := rfl
@[simp] theorem World.updDie_stamps (d : Nat) (f : Die → Die) : (w.updDie d f).stamps = w.stamps := rfl
@[simp] theorem World.updDie_stopped (d : Nat) (f : Die → Die) : (w.updDie d f).stopped = w.stopped := rfl
@[simp] theorem World.updDie_restarts (d : Nat) (f : Die → Die) : (w.updDie d f).restarts = w.restarts := rfl
@[simp] theorem World.updDie_mhz (d : Nat) (f : Die → Die) : (w.updDie d f).mhz = w.mhz := rfl
@[simp] theorem World.updDie_pointers (d : Nat) (f : Die → Die) : (w.updDie d f).pointers = w.pointers := rfl
@[simp] theorem World.updDie_free (d : Nat) (f : Die → Die) : (w.updDie d f).free = w.free := rfl
@[simp] theorem World.updDie_out (d : Nat) (f : Die → Die) : (w.updDie d f).out = w.out := rfl

@[simp] theorem World.updFlow_regs (i : Nat) (f : Flow → Flow) : (w.updFlow i f).regs = w.regs := rfl
@[simp] theorem World.updFlow_counters (i : Nat) (f : Flow → Flow) : (w.updFlow i f).counters = w.counters := rfl
@[simp] theorem World.updFlow_config (i : Nat) (f : Flow → Flow) : (w.updFlow i f).config = w.config := rfl
@[simp] theorem World.updFlow_hbm (i : Nat) (f : Flow → Flow) : (w.updFlow i f).hbm = w.hbm := rfl
@[simp] theorem World.updFlow_tun (i : Nat) (f : Flow → Flow) : (w.updFlow i f).tun = w.tun := rfl
@[simp] theorem World.updFlow_cstore (i : Nat) (f : Flow → Flow) : (w.updFlow i f).cstore = w.cstore := rfl
@[simp] theorem World.updFlow_cellar (i : Nat) (f : Flow → Flow) : (w.updFlow i f).cellar = w.cellar := rfl
@[simp] theorem World.updFlow_channels (i : Nat) (f : Flow → Flow) : (w.updFlow i f).channels = w.channels := rfl
@[simp] theorem World.updFlow_hourEcc (i : Nat) (f : Flow → Flow) : (w.updFlow i f).hourEcc = w.hourEcc := rfl
@[simp] theorem World.updFlow_eccHour (i : Nat) (f : Flow → Flow) : (w.updFlow i f).eccHour = w.eccHour := rfl
@[simp] theorem World.updFlow_parityStep (i : Nat) (f : Flow → Flow) : (w.updFlow i f).parityStep = w.parityStep := rfl
@[simp] theorem World.updFlow_parityHeld (i : Nat) (f : Flow → Flow) : (w.updFlow i f).parityHeld = w.parityHeld := rfl
@[simp] theorem World.updFlow_nmrFaulted (i : Nat) (f : Flow → Flow) : (w.updFlow i f).nmrFaulted = w.nmrFaulted := rfl
@[simp] theorem World.updFlow_cellarBad (i : Nat) (f : Flow → Flow) : (w.updFlow i f).cellarBad = w.cellarBad := rfl
@[simp] theorem World.updFlow_cores (i : Nat) (f : Flow → Flow) : (w.updFlow i f).cores = w.cores := rfl
@[simp] theorem World.updFlow_clusters (i : Nat) (f : Flow → Flow) : (w.updFlow i f).clusters = w.clusters := rfl
@[simp] theorem World.updFlow_parts (i : Nat) (f : Flow → Flow) : (w.updFlow i f).parts = w.parts := rfl
@[simp] theorem World.updFlow_dies (i : Nat) (f : Flow → Flow) : (w.updFlow i f).dies = w.dies := rfl
@[simp] theorem World.updFlow_flows (i : Nat) (f : Flow → Flow) : (w.updFlow i f).flows = AMap.upd {} w.flows i f := rfl
@[simp] theorem World.updFlow_bars (i : Nat) (f : Flow → Flow) : (w.updFlow i f).bars = w.bars := rfl
@[simp] theorem World.updFlow_dbars (i : Nat) (f : Flow → Flow) : (w.updFlow i f).dbars = w.dbars := rfl
@[simp] theorem World.updFlow_kiln (i : Nat) (f : Flow → Flow) : (w.updFlow i f).kiln = w.kiln := rfl
@[simp] theorem World.updFlow_fab (i : Nat) (f : Flow → Flow) : (w.updFlow i f).fab = w.fab := rfl
@[simp] theorem World.updFlow_cask (i : Nat) (f : Flow → Flow) : (w.updFlow i f).cask = w.cask := rfl
@[simp] theorem World.updFlow_twin (i : Nat) (f : Flow → Flow) : (w.updFlow i f).twin = w.twin := rfl
@[simp] theorem World.updFlow_hop (i : Nat) (f : Flow → Flow) : (w.updFlow i f).hop = w.hop := rfl
@[simp] theorem World.updFlow_tap (i : Nat) (f : Flow → Flow) : (w.updFlow i f).tap = w.tap := rfl
@[simp] theorem World.updFlow_eth (i : Nat) (f : Flow → Flow) : (w.updFlow i f).eth = w.eth := rfl
@[simp] theorem World.updFlow_uzo (i : Nat) (f : Flow → Flow) : (w.updFlow i f).uzo = w.uzo := rfl
@[simp] theorem World.updFlow_trc (i : Nat) (f : Flow → Flow) : (w.updFlow i f).trc = w.trc := rfl
@[simp] theorem World.updFlow_tails (i : Nat) (f : Flow → Flow) : (w.updFlow i f).tails = w.tails := rfl
@[simp] theorem World.updFlow_stamps (i : Nat) (f : Flow → Flow) : (w.updFlow i f).stamps = w.stamps := rfl
@[simp] theorem World.updFlow_stopped (i : Nat) (f : Flow → Flow) : (w.updFlow i f).stopped = w.stopped := rfl
@[simp] theorem World.updFlow_restarts (i : Nat) (f : Flow → Flow) : (w.updFlow i f).restarts = w.restarts := rfl
@[simp] theorem World.updFlow_mhz (i : Nat) (f : Flow → Flow) : (w.updFlow i f).mhz = w.mhz := rfl
@[simp] theorem World.updFlow_pointers (i : Nat) (f : Flow → Flow) : (w.updFlow i f).pointers = w.pointers := rfl
@[simp] theorem World.updFlow_free (i : Nat) (f : Flow → Flow) : (w.updFlow i f).free = w.free := rfl
@[simp] theorem World.updFlow_out (i : Nat) (f : Flow → Flow) : (w.updFlow i f).out = w.out := rfl

@[simp] theorem World.count_regs (a n : Nat) : (w.count a n).regs = w.regs := rfl
@[simp] theorem World.count_counters (a n : Nat) : (w.count a n).counters = AMap.upd 0 w.counters a (· + BitVec.ofNat 64 n) := rfl
@[simp] theorem World.count_config (a n : Nat) : (w.count a n).config = w.config := rfl
@[simp] theorem World.count_hbm (a n : Nat) : (w.count a n).hbm = w.hbm := rfl
@[simp] theorem World.count_tun (a n : Nat) : (w.count a n).tun = w.tun := rfl
@[simp] theorem World.count_cstore (a n : Nat) : (w.count a n).cstore = w.cstore := rfl
@[simp] theorem World.count_cellar (a n : Nat) : (w.count a n).cellar = w.cellar := rfl
@[simp] theorem World.count_channels (a n : Nat) : (w.count a n).channels = w.channels := rfl
@[simp] theorem World.count_hourEcc (a n : Nat) : (w.count a n).hourEcc = w.hourEcc := rfl
@[simp] theorem World.count_eccHour (a n : Nat) : (w.count a n).eccHour = w.eccHour := rfl
@[simp] theorem World.count_parityStep (a n : Nat) : (w.count a n).parityStep = w.parityStep := rfl
@[simp] theorem World.count_parityHeld (a n : Nat) : (w.count a n).parityHeld = w.parityHeld := rfl
@[simp] theorem World.count_nmrFaulted (a n : Nat) : (w.count a n).nmrFaulted = w.nmrFaulted := rfl
@[simp] theorem World.count_cellarBad (a n : Nat) : (w.count a n).cellarBad = w.cellarBad := rfl
@[simp] theorem World.count_cores (a n : Nat) : (w.count a n).cores = w.cores := rfl
@[simp] theorem World.count_clusters (a n : Nat) : (w.count a n).clusters = w.clusters := rfl
@[simp] theorem World.count_parts (a n : Nat) : (w.count a n).parts = w.parts := rfl
@[simp] theorem World.count_dies (a n : Nat) : (w.count a n).dies = w.dies := rfl
@[simp] theorem World.count_flows (a n : Nat) : (w.count a n).flows = w.flows := rfl
@[simp] theorem World.count_bars (a n : Nat) : (w.count a n).bars = w.bars := rfl
@[simp] theorem World.count_dbars (a n : Nat) : (w.count a n).dbars = w.dbars := rfl
@[simp] theorem World.count_kiln (a n : Nat) : (w.count a n).kiln = w.kiln := rfl
@[simp] theorem World.count_fab (a n : Nat) : (w.count a n).fab = w.fab := rfl
@[simp] theorem World.count_cask (a n : Nat) : (w.count a n).cask = w.cask := rfl
@[simp] theorem World.count_twin (a n : Nat) : (w.count a n).twin = w.twin := rfl
@[simp] theorem World.count_hop (a n : Nat) : (w.count a n).hop = w.hop := rfl
@[simp] theorem World.count_tap (a n : Nat) : (w.count a n).tap = w.tap := rfl
@[simp] theorem World.count_eth (a n : Nat) : (w.count a n).eth = w.eth := rfl
@[simp] theorem World.count_uzo (a n : Nat) : (w.count a n).uzo = w.uzo := rfl
@[simp] theorem World.count_trc (a n : Nat) : (w.count a n).trc = w.trc := rfl
@[simp] theorem World.count_tails (a n : Nat) : (w.count a n).tails = w.tails := rfl
@[simp] theorem World.count_stamps (a n : Nat) : (w.count a n).stamps = w.stamps := rfl
@[simp] theorem World.count_stopped (a n : Nat) : (w.count a n).stopped = w.stopped := rfl
@[simp] theorem World.count_restarts (a n : Nat) : (w.count a n).restarts = w.restarts := rfl
@[simp] theorem World.count_mhz (a n : Nat) : (w.count a n).mhz = w.mhz := rfl
@[simp] theorem World.count_pointers (a n : Nat) : (w.count a n).pointers = w.pointers := rfl
@[simp] theorem World.count_free (a n : Nat) : (w.count a n).free = w.free := rfl
@[simp] theorem World.count_out (a n : Nat) : (w.count a n).out = w.out := rfl

@[simp] theorem World.tick_regs (b : Block) (i off : Nat) : (w.tick b i off).regs = w.regs := rfl
@[simp] theorem World.tick_counters (b : Block) (i off : Nat) : (w.tick b i off).counters = AMap.upd 0 w.counters (b.addr i off) (· + BitVec.ofNat 64 1) := rfl
@[simp] theorem World.tick_config (b : Block) (i off : Nat) : (w.tick b i off).config = w.config := rfl
@[simp] theorem World.tick_hbm (b : Block) (i off : Nat) : (w.tick b i off).hbm = w.hbm := rfl
@[simp] theorem World.tick_tun (b : Block) (i off : Nat) : (w.tick b i off).tun = w.tun := rfl
@[simp] theorem World.tick_cstore (b : Block) (i off : Nat) : (w.tick b i off).cstore = w.cstore := rfl
@[simp] theorem World.tick_cellar (b : Block) (i off : Nat) : (w.tick b i off).cellar = w.cellar := rfl
@[simp] theorem World.tick_channels (b : Block) (i off : Nat) : (w.tick b i off).channels = w.channels := rfl
@[simp] theorem World.tick_hourEcc (b : Block) (i off : Nat) : (w.tick b i off).hourEcc = w.hourEcc := rfl
@[simp] theorem World.tick_eccHour (b : Block) (i off : Nat) : (w.tick b i off).eccHour = w.eccHour := rfl
@[simp] theorem World.tick_parityStep (b : Block) (i off : Nat) : (w.tick b i off).parityStep = w.parityStep := rfl
@[simp] theorem World.tick_parityHeld (b : Block) (i off : Nat) : (w.tick b i off).parityHeld = w.parityHeld := rfl
@[simp] theorem World.tick_nmrFaulted (b : Block) (i off : Nat) : (w.tick b i off).nmrFaulted = w.nmrFaulted := rfl
@[simp] theorem World.tick_cellarBad (b : Block) (i off : Nat) : (w.tick b i off).cellarBad = w.cellarBad := rfl
@[simp] theorem World.tick_cores (b : Block) (i off : Nat) : (w.tick b i off).cores = w.cores := rfl
@[simp] theorem World.tick_clusters (b : Block) (i off : Nat) : (w.tick b i off).clusters = w.clusters := rfl
@[simp] theorem World.tick_parts (b : Block) (i off : Nat) : (w.tick b i off).parts = w.parts := rfl
@[simp] theorem World.tick_dies (b : Block) (i off : Nat) : (w.tick b i off).dies = w.dies := rfl
@[simp] theorem World.tick_flows (b : Block) (i off : Nat) : (w.tick b i off).flows = w.flows := rfl
@[simp] theorem World.tick_bars (b : Block) (i off : Nat) : (w.tick b i off).bars = w.bars := rfl
@[simp] theorem World.tick_dbars (b : Block) (i off : Nat) : (w.tick b i off).dbars = w.dbars := rfl
@[simp] theorem World.tick_kiln (b : Block) (i off : Nat) : (w.tick b i off).kiln = w.kiln := rfl
@[simp] theorem World.tick_fab (b : Block) (i off : Nat) : (w.tick b i off).fab = w.fab := rfl
@[simp] theorem World.tick_cask (b : Block) (i off : Nat) : (w.tick b i off).cask = w.cask := rfl
@[simp] theorem World.tick_twin (b : Block) (i off : Nat) : (w.tick b i off).twin = w.twin := rfl
@[simp] theorem World.tick_hop (b : Block) (i off : Nat) : (w.tick b i off).hop = w.hop := rfl
@[simp] theorem World.tick_tap (b : Block) (i off : Nat) : (w.tick b i off).tap = w.tap := rfl
@[simp] theorem World.tick_eth (b : Block) (i off : Nat) : (w.tick b i off).eth = w.eth := rfl
@[simp] theorem World.tick_uzo (b : Block) (i off : Nat) : (w.tick b i off).uzo = w.uzo := rfl
@[simp] theorem World.tick_trc (b : Block) (i off : Nat) : (w.tick b i off).trc = w.trc := rfl
@[simp] theorem World.tick_tails (b : Block) (i off : Nat) : (w.tick b i off).tails = w.tails := rfl
@[simp] theorem World.tick_stamps (b : Block) (i off : Nat) : (w.tick b i off).stamps = w.stamps := rfl
@[simp] theorem World.tick_stopped (b : Block) (i off : Nat) : (w.tick b i off).stopped = w.stopped := rfl
@[simp] theorem World.tick_restarts (b : Block) (i off : Nat) : (w.tick b i off).restarts = w.restarts := rfl
@[simp] theorem World.tick_mhz (b : Block) (i off : Nat) : (w.tick b i off).mhz = w.mhz := rfl
@[simp] theorem World.tick_pointers (b : Block) (i off : Nat) : (w.tick b i off).pointers = w.pointers := rfl
@[simp] theorem World.tick_free (b : Block) (i off : Nat) : (w.tick b i off).free = w.free := rfl
@[simp] theorem World.tick_out (b : Block) (i off : Nat) : (w.tick b i off).out = w.out := rfl

@[simp] theorem World.setReg_regs (a : Nat) (v : Word) : (w.setReg a v).regs = AMap.set (regReset a) w.regs a v := rfl
@[simp] theorem World.setReg_counters (a : Nat) (v : Word) : (w.setReg a v).counters = w.counters := rfl
@[simp] theorem World.setReg_config (a : Nat) (v : Word) : (w.setReg a v).config = w.config := rfl
@[simp] theorem World.setReg_hbm (a : Nat) (v : Word) : (w.setReg a v).hbm = w.hbm := rfl
@[simp] theorem World.setReg_tun (a : Nat) (v : Word) : (w.setReg a v).tun = w.tun := rfl
@[simp] theorem World.setReg_cstore (a : Nat) (v : Word) : (w.setReg a v).cstore = w.cstore := rfl
@[simp] theorem World.setReg_cellar (a : Nat) (v : Word) : (w.setReg a v).cellar = w.cellar := rfl
@[simp] theorem World.setReg_channels (a : Nat) (v : Word) : (w.setReg a v).channels = w.channels := rfl
@[simp] theorem World.setReg_hourEcc (a : Nat) (v : Word) : (w.setReg a v).hourEcc = w.hourEcc := rfl
@[simp] theorem World.setReg_eccHour (a : Nat) (v : Word) : (w.setReg a v).eccHour = w.eccHour := rfl
@[simp] theorem World.setReg_parityStep (a : Nat) (v : Word) : (w.setReg a v).parityStep = w.parityStep := rfl
@[simp] theorem World.setReg_parityHeld (a : Nat) (v : Word) : (w.setReg a v).parityHeld = w.parityHeld := rfl
@[simp] theorem World.setReg_nmrFaulted (a : Nat) (v : Word) : (w.setReg a v).nmrFaulted = w.nmrFaulted := rfl
@[simp] theorem World.setReg_cellarBad (a : Nat) (v : Word) : (w.setReg a v).cellarBad = w.cellarBad := rfl
@[simp] theorem World.setReg_cores (a : Nat) (v : Word) : (w.setReg a v).cores = w.cores := rfl
@[simp] theorem World.setReg_clusters (a : Nat) (v : Word) : (w.setReg a v).clusters = w.clusters := rfl
@[simp] theorem World.setReg_parts (a : Nat) (v : Word) : (w.setReg a v).parts = w.parts := rfl
@[simp] theorem World.setReg_dies (a : Nat) (v : Word) : (w.setReg a v).dies = w.dies := rfl
@[simp] theorem World.setReg_flows (a : Nat) (v : Word) : (w.setReg a v).flows = w.flows := rfl
@[simp] theorem World.setReg_bars (a : Nat) (v : Word) : (w.setReg a v).bars = w.bars := rfl
@[simp] theorem World.setReg_dbars (a : Nat) (v : Word) : (w.setReg a v).dbars = w.dbars := rfl
@[simp] theorem World.setReg_kiln (a : Nat) (v : Word) : (w.setReg a v).kiln = w.kiln := rfl
@[simp] theorem World.setReg_fab (a : Nat) (v : Word) : (w.setReg a v).fab = w.fab := rfl
@[simp] theorem World.setReg_cask (a : Nat) (v : Word) : (w.setReg a v).cask = w.cask := rfl
@[simp] theorem World.setReg_twin (a : Nat) (v : Word) : (w.setReg a v).twin = w.twin := rfl
@[simp] theorem World.setReg_hop (a : Nat) (v : Word) : (w.setReg a v).hop = w.hop := rfl
@[simp] theorem World.setReg_tap (a : Nat) (v : Word) : (w.setReg a v).tap = w.tap := rfl
@[simp] theorem World.setReg_eth (a : Nat) (v : Word) : (w.setReg a v).eth = w.eth := rfl
@[simp] theorem World.setReg_uzo (a : Nat) (v : Word) : (w.setReg a v).uzo = w.uzo := rfl
@[simp] theorem World.setReg_trc (a : Nat) (v : Word) : (w.setReg a v).trc = w.trc := rfl
@[simp] theorem World.setReg_tails (a : Nat) (v : Word) : (w.setReg a v).tails = w.tails := rfl
@[simp] theorem World.setReg_stamps (a : Nat) (v : Word) : (w.setReg a v).stamps = w.stamps := rfl
@[simp] theorem World.setReg_stopped (a : Nat) (v : Word) : (w.setReg a v).stopped = w.stopped := rfl
@[simp] theorem World.setReg_restarts (a : Nat) (v : Word) : (w.setReg a v).restarts = w.restarts := rfl
@[simp] theorem World.setReg_mhz (a : Nat) (v : Word) : (w.setReg a v).mhz = w.mhz := rfl
@[simp] theorem World.setReg_pointers (a : Nat) (v : Word) : (w.setReg a v).pointers = w.pointers := rfl
@[simp] theorem World.setReg_free (a : Nat) (v : Word) : (w.setReg a v).free = w.free := rfl
@[simp] theorem World.setReg_out (a : Nat) (v : Word) : (w.setReg a v).out = w.out := rfl

@[simp] theorem World.tailWrite_regs (src : Nat) (r : List Byte) : (w.tailWrite src r).regs = w.regs := rfl
@[simp] theorem World.tailWrite_counters (src : Nat) (r : List Byte) : (w.tailWrite src r).counters = w.counters := rfl
@[simp] theorem World.tailWrite_config (src : Nat) (r : List Byte) : (w.tailWrite src r).config = w.config := rfl
@[simp] theorem World.tailWrite_hbm (src : Nat) (r : List Byte) : (w.tailWrite src r).hbm = w.hbm := rfl
@[simp] theorem World.tailWrite_tun (src : Nat) (r : List Byte) : (w.tailWrite src r).tun = w.tun := rfl
@[simp] theorem World.tailWrite_cstore (src : Nat) (r : List Byte) : (w.tailWrite src r).cstore = w.cstore := rfl
@[simp] theorem World.tailWrite_cellar (src : Nat) (r : List Byte) : (w.tailWrite src r).cellar = w.cellar := rfl
@[simp] theorem World.tailWrite_channels (src : Nat) (r : List Byte) : (w.tailWrite src r).channels = w.channels := rfl
@[simp] theorem World.tailWrite_hourEcc (src : Nat) (r : List Byte) : (w.tailWrite src r).hourEcc = w.hourEcc := rfl
@[simp] theorem World.tailWrite_eccHour (src : Nat) (r : List Byte) : (w.tailWrite src r).eccHour = w.eccHour := rfl
@[simp] theorem World.tailWrite_parityStep (src : Nat) (r : List Byte) : (w.tailWrite src r).parityStep = w.parityStep := rfl
@[simp] theorem World.tailWrite_parityHeld (src : Nat) (r : List Byte) : (w.tailWrite src r).parityHeld = w.parityHeld := rfl
@[simp] theorem World.tailWrite_nmrFaulted (src : Nat) (r : List Byte) : (w.tailWrite src r).nmrFaulted = w.nmrFaulted := rfl
@[simp] theorem World.tailWrite_cellarBad (src : Nat) (r : List Byte) : (w.tailWrite src r).cellarBad = w.cellarBad := rfl
@[simp] theorem World.tailWrite_cores (src : Nat) (r : List Byte) : (w.tailWrite src r).cores = w.cores := rfl
@[simp] theorem World.tailWrite_clusters (src : Nat) (r : List Byte) : (w.tailWrite src r).clusters = w.clusters := rfl
@[simp] theorem World.tailWrite_parts (src : Nat) (r : List Byte) : (w.tailWrite src r).parts = w.parts := rfl
@[simp] theorem World.tailWrite_dies (src : Nat) (r : List Byte) : (w.tailWrite src r).dies = w.dies := rfl
@[simp] theorem World.tailWrite_flows (src : Nat) (r : List Byte) : (w.tailWrite src r).flows = w.flows := rfl
@[simp] theorem World.tailWrite_bars (src : Nat) (r : List Byte) : (w.tailWrite src r).bars = w.bars := rfl
@[simp] theorem World.tailWrite_dbars (src : Nat) (r : List Byte) : (w.tailWrite src r).dbars = w.dbars := rfl
@[simp] theorem World.tailWrite_kiln (src : Nat) (r : List Byte) : (w.tailWrite src r).kiln = w.kiln := rfl
@[simp] theorem World.tailWrite_fab (src : Nat) (r : List Byte) : (w.tailWrite src r).fab = w.fab := rfl
@[simp] theorem World.tailWrite_cask (src : Nat) (r : List Byte) : (w.tailWrite src r).cask = w.cask := rfl
@[simp] theorem World.tailWrite_twin (src : Nat) (r : List Byte) : (w.tailWrite src r).twin = w.twin := rfl
@[simp] theorem World.tailWrite_hop (src : Nat) (r : List Byte) : (w.tailWrite src r).hop = w.hop := rfl
@[simp] theorem World.tailWrite_tap (src : Nat) (r : List Byte) : (w.tailWrite src r).tap = w.tap := rfl
@[simp] theorem World.tailWrite_eth (src : Nat) (r : List Byte) : (w.tailWrite src r).eth = w.eth := rfl
@[simp] theorem World.tailWrite_uzo (src : Nat) (r : List Byte) : (w.tailWrite src r).uzo = w.uzo := rfl
@[simp] theorem World.tailWrite_trc (src : Nat) (r : List Byte) : (w.tailWrite src r).trc = w.trc := rfl
@[simp] theorem World.tailWrite_tails (src : Nat) (r : List Byte) : (w.tailWrite src r).tails = AMap.upd {} w.tails src (·.push r) := rfl
@[simp] theorem World.tailWrite_stamps (src : Nat) (r : List Byte) : (w.tailWrite src r).stamps = w.stamps := rfl
@[simp] theorem World.tailWrite_stopped (src : Nat) (r : List Byte) : (w.tailWrite src r).stopped = w.stopped := rfl
@[simp] theorem World.tailWrite_restarts (src : Nat) (r : List Byte) : (w.tailWrite src r).restarts = w.restarts := rfl
@[simp] theorem World.tailWrite_mhz (src : Nat) (r : List Byte) : (w.tailWrite src r).mhz = w.mhz := rfl
@[simp] theorem World.tailWrite_pointers (src : Nat) (r : List Byte) : (w.tailWrite src r).pointers = w.pointers := rfl
@[simp] theorem World.tailWrite_free (src : Nat) (r : List Byte) : (w.tailWrite src r).free = w.free := rfl
@[simp] theorem World.tailWrite_out (src : Nat) (r : List Byte) : (w.tailWrite src r).out = w.out := rfl

@[simp] theorem World.tunWrite_regs (c a : Nat) (bs : List Byte) : (w.tunWrite c a bs).regs = w.regs := rfl
@[simp] theorem World.tunWrite_counters (c a : Nat) (bs : List Byte) : (w.tunWrite c a bs).counters = w.counters := rfl
@[simp] theorem World.tunWrite_config (c a : Nat) (bs : List Byte) : (w.tunWrite c a bs).config = w.config := rfl
@[simp] theorem World.tunWrite_hbm (c a : Nat) (bs : List Byte) : (w.tunWrite c a bs).hbm = w.hbm := rfl
@[simp] theorem World.tunWrite_tun (c a : Nat) (bs : List Byte) : (w.tunWrite c a bs).tun = w.tun.write (c * tunBytes + a) bs := rfl
@[simp] theorem World.tunWrite_cstore (c a : Nat) (bs : List Byte) : (w.tunWrite c a bs).cstore = w.cstore := rfl
@[simp] theorem World.tunWrite_cellar (c a : Nat) (bs : List Byte) : (w.tunWrite c a bs).cellar = w.cellar := rfl
@[simp] theorem World.tunWrite_channels (c a : Nat) (bs : List Byte) : (w.tunWrite c a bs).channels = w.channels := rfl
@[simp] theorem World.tunWrite_hourEcc (c a : Nat) (bs : List Byte) : (w.tunWrite c a bs).hourEcc = w.hourEcc := rfl
@[simp] theorem World.tunWrite_eccHour (c a : Nat) (bs : List Byte) : (w.tunWrite c a bs).eccHour = w.eccHour := rfl
@[simp] theorem World.tunWrite_parityStep (c a : Nat) (bs : List Byte) : (w.tunWrite c a bs).parityStep = w.parityStep := rfl
@[simp] theorem World.tunWrite_parityHeld (c a : Nat) (bs : List Byte) : (w.tunWrite c a bs).parityHeld = w.parityHeld := rfl
@[simp] theorem World.tunWrite_nmrFaulted (c a : Nat) (bs : List Byte) : (w.tunWrite c a bs).nmrFaulted = w.nmrFaulted := rfl
@[simp] theorem World.tunWrite_cellarBad (c a : Nat) (bs : List Byte) : (w.tunWrite c a bs).cellarBad = w.cellarBad := rfl
@[simp] theorem World.tunWrite_cores (c a : Nat) (bs : List Byte) : (w.tunWrite c a bs).cores = w.cores := rfl
@[simp] theorem World.tunWrite_clusters (c a : Nat) (bs : List Byte) : (w.tunWrite c a bs).clusters = w.clusters := rfl
@[simp] theorem World.tunWrite_parts (c a : Nat) (bs : List Byte) : (w.tunWrite c a bs).parts = w.parts := rfl
@[simp] theorem World.tunWrite_dies (c a : Nat) (bs : List Byte) : (w.tunWrite c a bs).dies = w.dies := rfl
@[simp] theorem World.tunWrite_flows (c a : Nat) (bs : List Byte) : (w.tunWrite c a bs).flows = w.flows := rfl
@[simp] theorem World.tunWrite_bars (c a : Nat) (bs : List Byte) : (w.tunWrite c a bs).bars = w.bars := rfl
@[simp] theorem World.tunWrite_dbars (c a : Nat) (bs : List Byte) : (w.tunWrite c a bs).dbars = w.dbars := rfl
@[simp] theorem World.tunWrite_kiln (c a : Nat) (bs : List Byte) : (w.tunWrite c a bs).kiln = w.kiln := rfl
@[simp] theorem World.tunWrite_fab (c a : Nat) (bs : List Byte) : (w.tunWrite c a bs).fab = w.fab := rfl
@[simp] theorem World.tunWrite_cask (c a : Nat) (bs : List Byte) : (w.tunWrite c a bs).cask = w.cask := rfl
@[simp] theorem World.tunWrite_twin (c a : Nat) (bs : List Byte) : (w.tunWrite c a bs).twin = w.twin := rfl
@[simp] theorem World.tunWrite_hop (c a : Nat) (bs : List Byte) : (w.tunWrite c a bs).hop = w.hop := rfl
@[simp] theorem World.tunWrite_tap (c a : Nat) (bs : List Byte) : (w.tunWrite c a bs).tap = w.tap := rfl
@[simp] theorem World.tunWrite_eth (c a : Nat) (bs : List Byte) : (w.tunWrite c a bs).eth = w.eth := rfl
@[simp] theorem World.tunWrite_uzo (c a : Nat) (bs : List Byte) : (w.tunWrite c a bs).uzo = w.uzo := rfl
@[simp] theorem World.tunWrite_trc (c a : Nat) (bs : List Byte) : (w.tunWrite c a bs).trc = w.trc := rfl
@[simp] theorem World.tunWrite_tails (c a : Nat) (bs : List Byte) : (w.tunWrite c a bs).tails = w.tails := rfl
@[simp] theorem World.tunWrite_stamps (c a : Nat) (bs : List Byte) : (w.tunWrite c a bs).stamps = w.stamps := rfl
@[simp] theorem World.tunWrite_stopped (c a : Nat) (bs : List Byte) : (w.tunWrite c a bs).stopped = w.stopped := rfl
@[simp] theorem World.tunWrite_restarts (c a : Nat) (bs : List Byte) : (w.tunWrite c a bs).restarts = w.restarts := rfl
@[simp] theorem World.tunWrite_mhz (c a : Nat) (bs : List Byte) : (w.tunWrite c a bs).mhz = w.mhz := rfl
@[simp] theorem World.tunWrite_pointers (c a : Nat) (bs : List Byte) : (w.tunWrite c a bs).pointers = w.pointers := rfl
@[simp] theorem World.tunWrite_free (c a : Nat) (bs : List Byte) : (w.tunWrite c a bs).free = w.free := rfl
@[simp] theorem World.tunWrite_out (c a : Nat) (bs : List Byte) : (w.tunWrite c a bs).out = w.out := rfl

end

end Sys2Proof.Machine
end

