-- ==== Sys2Proof/Laws/Ops.lean ====
section
/-!
SUPPORT. What the shared operations can do: stamps, trace, tails, events and the stop of a job change a few fields each; the rest stays.
-/

namespace Sys2Proof.Machine

variable (w : World) (t : Sid)

/-- A partition that differs at most in the trace records that wait for its job region. -/
def Part.sameButTrace (x y : Part) : Prop := ∃ l, x = { y with traceIn := l }

theorem Part.sameButTrace_refl (x : Part) : x.sameButTrace x := ⟨x.traceIn, rfl⟩

theorem Part.sameButTrace_trans {x y z : Part} (h : x.sameButTrace y) (g : y.sameButTrace z) : x.sameButTrace z := by
  obtain ⟨l, rfl⟩ := h
  obtain ⟨k, rfl⟩ := g
  exact ⟨l, rfl⟩

/-- What stamping, tracing and raising events may change: always-on counters, the Uzolo queue of events, stamps, comet tails, the trace
port and the trace records that wait. -/
def World.notedFrom (a b : World) : Prop :=
  (∃ (c : AMap Word) (ps : AMap Part) (u : List (List Byte) × Nat) (st : AMap Nat) (ta : AMap Tail) (tr : Trc),
      a = { b with counters := c, parts := ps, uzo := { b.uzo with events := u.1, lost := u.2 }, stamps := st, tails := ta, trc := tr })
    ∧ ∀ p, (a.part p).sameButTrace (b.part p)

theorem World.notedFrom_refl : w.notedFrom w :=
  ⟨⟨w.counters, w.parts, (w.uzo.events, w.uzo.lost), w.stamps, w.tails, w.trc, rfl⟩, fun _ => Part.sameButTrace_refl _⟩

theorem World.notedFrom_trans {a b c : World} (h : a.notedFrom b) (g : b.notedFrom c) : a.notedFrom c := by
  obtain ⟨⟨c1, p1, u1, s1, t1, r1, rfl⟩, h⟩ := h
  obtain ⟨⟨c2, p2, u2, s2, t2, r2, rfl⟩, g⟩ := g
  exact ⟨⟨c1, p1, u1, s1, t1, r1, rfl⟩, fun p => Part.sameButTrace_trans (h p) (g p)⟩

theorem World.count_noted (a n : Nat) : (w.count a n).notedFrom w :=
  ⟨⟨_, w.parts, (w.uzo.events, w.uzo.lost), w.stamps, w.tails, w.trc, rfl⟩, fun _ => Part.sameButTrace_refl _⟩

theorem World.tick_noted (b : Block) (i off : Nat) : (w.tick b i off).notedFrom w := w.count_noted _ _

theorem World.tailWrite_noted (src : Nat) (r : List Byte) : (w.tailWrite src r).notedFrom w :=
  ⟨⟨w.counters, w.parts, (w.uzo.events, w.uzo.lost), w.stamps, _, w.trc, rfl⟩, fun _ => Part.sameButTrace_refl _⟩

theorem World.trc_noted (x : Trc) : { w with trc := x }.notedFrom w :=
  ⟨⟨w.counters, w.parts, (w.uzo.events, w.uzo.lost), w.stamps, w.tails, _, rfl⟩, fun _ => Part.sameButTrace_refl _⟩

theorem World.stamps_noted (x : AMap Nat) : { w with stamps := x }.notedFrom w :=
  ⟨⟨w.counters, w.parts, (w.uzo.events, w.uzo.lost), _, w.tails, w.trc, rfl⟩, fun _ => Part.sameButTrace_refl _⟩

theorem World.stamp_noted (src : Nat) : (w.stamp t src).2.2.notedFrom w := by
  simp only [World.stamp]
  split
  · exact World.notedFrom_trans (World.tick_noted _ _ _ _) (w.stamps_noted _)
  · exact w.stamps_noted _

theorem World.portDrop_noted (st : Nat) : (w.portDrop st).notedFrom w :=
  World.notedFrom_trans (World.tick_noted _ _ _ _) (w.trc_noted _)

theorem World.portAccept_noted (src cls st : Nat) (r : List Byte) : (w.portAccept src cls st r).notedFrom w := by
  simp only [World.portAccept]
  split
  · exact w.portDrop_noted st
  · split
    · split
      · exact w.trc_noted _
      · exact w.portDrop_noted st
    · split <;> exact w.trc_noted _

theorem World.traceIn_noted (p : Nat) (r : List Byte) :
    (w.updPart p fun x => { x with traceIn := x.traceIn ++ [r] }).notedFrom w := by
  refine ⟨⟨w.counters, _, (w.uzo.events, w.uzo.lost), w.stamps, w.tails, w.trc, rfl⟩, fun q => ?_⟩
  by_cases h : q = p
  · subst h; exact ⟨_, by simp [World.part]; rfl⟩
  · exact ⟨_, by simp [World.part, AMap.get_upd_ne _ _ _ h]; rfl⟩

theorem World.traceTo_noted (src cls st : Nat) (r : List Byte) : (w.traceTo src cls st r).notedFrom w := by
  have h : ∀ v : World, v.notedFrom w → (if v.portTraces cls then v.portAccept src cls st r else v).notedFrom w := by
    intro v hv
    split
    · exact World.notedFrom_trans (v.portAccept_noted _ _ _ _) hv
    · exact hv
  simp only [World.traceTo]
  split
  · exact h _ w.notedFrom_refl
  · split
    · exact h _ (w.traceIn_noted _ _)
    · exact h _ w.notedFrom_refl

/-- An action of a unit only notes. -/
theorem World.act_noted (src kind cls a16 a32 : Nat) (data : List Byte) : (w.act t src kind cls a16 a32 data).notedFrom w :=
  World.notedFrom_trans (World.traceTo_noted _ _ _ _ _)
    (World.notedFrom_trans (World.tailWrite_noted _ _ _) (w.stamp_noted t src))

theorem World.holdRecord_noted (src st : Nat) (e : Bool) : (w.holdRecord t src st e).notedFrom w :=
  World.notedFrom_trans (World.tailWrite_noted _ _ _) (w.stamp_noted t src)

theorem World.queueEvent_noted (sev : Nat) (r : List Byte) : (w.queueEvent sev r).notedFrom w := by
  simp only [World.queueEvent]
  split
  · split
    · exact ⟨⟨w.counters, w.parts, (_, w.uzo.lost), w.stamps, w.tails, w.trc, rfl⟩, fun _ => Part.sameButTrace_refl _⟩
    · exact ⟨⟨_, w.parts, (w.uzo.events, _), w.stamps, w.tails, w.trc, rfl⟩, fun _ => Part.sameButTrace_refl _⟩
  · exact w.notedFrom_refl

theorem World.tails_noted (x : AMap Tail) : { w with tails := x }.notedFrom w :=
  ⟨⟨w.counters, w.parts, (w.uzo.events, w.uzo.lost), w.stamps, _, w.trc, rfl⟩, fun _ => Part.sameButTrace_refl _⟩

theorem World.freezeTail_noted (cause trigger src : Nat) : (World.freezeTail t cause trigger w src).notedFrom w := by
  simp only [World.freezeTail]
  split
  · exact w.notedFrom_refl
  · exact World.notedFrom_trans (World.tails_noted _ _) (w.stamp_noted t src)

theorem World.freezeShared_noted (sev src : Nat) : (w.freezeShared t sev src).notedFrom w := by
  simp only [World.freezeShared]
  split
  · exact w.freezeTail_noted t _ _ _
  · exact w.notedFrom_refl

/-- Raising an event only notes. -/
theorem World.raiseAs_noted (src code sev payload extra : Nat) : (w.raiseAs t src code sev payload extra).notedFrom w := by
  have h : ∀ v : World, (match v.sourcePart src with
      | none => v
      | some p => if 3 ≤ sev then v.tick .cnt p 0x0B0 else v).notedFrom v := by
    intro v
    split
    · exact v.notedFrom_refl
    · split
      · exact v.tick_noted _ _ _
      · exact v.notedFrom_refl
  simp only [World.raiseAs]
  exact World.notedFrom_trans (World.freezeShared_noted _ _ _ _) (World.notedFrom_trans (World.traceTo_noted _ _ _ _ _)
    (World.notedFrom_trans (World.tailWrite_noted _ _ _)
      (World.notedFrom_trans (h _) (World.notedFrom_trans (World.queueEvent_noted _ _ _) (w.stamp_noted t src)))))

theorem World.raise_noted (src code payload : Nat) : (w.raise t src code payload).notedFrom w := w.raiseAs_noted t _ _ _ _ _

/-! ### What stays when something is noted -/

theorem World.notedFrom.regs {a b : World} (h : a.notedFrom b) : a.regs = b.regs := by obtain ⟨⟨_, _, _, _, _, _, rfl⟩, _⟩ := h; rfl
theorem World.notedFrom.config {a b : World} (h : a.notedFrom b) : a.config = b.config := by obtain ⟨⟨_, _, _, _, _, _, rfl⟩, _⟩ := h; rfl
theorem World.notedFrom.hbm {a b : World} (h : a.notedFrom b) : a.hbm = b.hbm := by obtain ⟨⟨_, _, _, _, _, _, rfl⟩, _⟩ := h; rfl
theorem World.notedFrom.tun {a b : World} (h : a.notedFrom b) : a.tun = b.tun := by obtain ⟨⟨_, _, _, _, _, _, rfl⟩, _⟩ := h; rfl
theorem World.notedFrom.cstore {a b : World} (h : a.notedFrom b) : a.cstore = b.cstore := by obtain ⟨⟨_, _, _, _, _, _, rfl⟩, _⟩ := h; rfl
theorem World.notedFrom.cellar {a b : World} (h : a.notedFrom b) : a.cellar = b.cellar := by obtain ⟨⟨_, _, _, _, _, _, rfl⟩, _⟩ := h; rfl
theorem World.notedFrom.channels {a b : World} (h : a.notedFrom b) : a.channels = b.channels := by obtain ⟨⟨_, _, _, _, _, _, rfl⟩, _⟩ := h; rfl
theorem World.notedFrom.hourEcc {a b : World} (h : a.notedFrom b) : a.hourEcc = b.hourEcc := by obtain ⟨⟨_, _, _, _, _, _, rfl⟩, _⟩ := h; rfl
theorem World.notedFrom.eccHour {a b : World} (h : a.notedFrom b) : a.eccHour = b.eccHour := by obtain ⟨⟨_, _, _, _, _, _, rfl⟩, _⟩ := h; rfl
theorem World.notedFrom.parityStep {a b : World} (h : a.notedFrom b) : a.parityStep = b.parityStep := by obtain ⟨⟨_, _, _, _, _, _, rfl⟩, _⟩ := h; rfl
theorem World.notedFrom.parityHeld {a b : World} (h : a.notedFrom b) : a.parityHeld = b.parityHeld := by obtain ⟨⟨_, _, _, _, _, _, rfl⟩, _⟩ := h; rfl
theorem World.notedFrom.nmrFaulted {a b : World} (h : a.notedFrom b) : a.nmrFaulted = b.nmrFaulted := by obtain ⟨⟨_, _, _, _, _, _, rfl⟩, _⟩ := h; rfl
theorem World.notedFrom.cellarBad {a b : World} (h : a.notedFrom b) : a.cellarBad = b.cellarBad := by obtain ⟨⟨_, _, _, _, _, _, rfl⟩, _⟩ := h; rfl
theorem World.notedFrom.cores {a b : World} (h : a.notedFrom b) : a.cores = b.cores := by obtain ⟨⟨_, _, _, _, _, _, rfl⟩, _⟩ := h; rfl
theorem World.notedFrom.clusters {a b : World} (h : a.notedFrom b) : a.clusters = b.clusters := by obtain ⟨⟨_, _, _, _, _, _, rfl⟩, _⟩ := h; rfl
theorem World.notedFrom.dies {a b : World} (h : a.notedFrom b) : a.dies = b.dies := by obtain ⟨⟨_, _, _, _, _, _, rfl⟩, _⟩ := h; rfl
theorem World.notedFrom.flows {a b : World} (h : a.notedFrom b) : a.flows = b.flows := by obtain ⟨⟨_, _, _, _, _, _, rfl⟩, _⟩ := h; rfl
theorem World.notedFrom.bars {a b : World} (h : a.notedFrom b) : a.bars = b.bars := by obtain ⟨⟨_, _, _, _, _, _, rfl⟩, _⟩ := h; rfl
theorem World.notedFrom.dbars {a b : World} (h : a.notedFrom b) : a.dbars = b.dbars := by obtain ⟨⟨_, _, _, _, _, _, rfl⟩, _⟩ := h; rfl
theorem World.notedFrom.kiln {a b : World} (h : a.notedFrom b) : a.kiln = b.kiln := by obtain ⟨⟨_, _, _, _, _, _, rfl⟩, _⟩ := h; rfl
theorem World.notedFrom.fab {a b : World} (h : a.notedFrom b) : a.fab = b.fab := by obtain ⟨⟨_, _, _, _, _, _, rfl⟩, _⟩ := h; rfl
theorem World.notedFrom.cask {a b : World} (h : a.notedFrom b) : a.cask = b.cask := by obtain ⟨⟨_, _, _, _, _, _, rfl⟩, _⟩ := h; rfl
theorem World.notedFrom.twin {a b : World} (h : a.notedFrom b) : a.twin = b.twin := by obtain ⟨⟨_, _, _, _, _, _, rfl⟩, _⟩ := h; rfl
theorem World.notedFrom.hop {a b : World} (h : a.notedFrom b) : a.hop = b.hop := by obtain ⟨⟨_, _, _, _, _, _, rfl⟩, _⟩ := h; rfl
theorem World.notedFrom.tap {a b : World} (h : a.notedFrom b) : a.tap = b.tap := by obtain ⟨⟨_, _, _, _, _, _, rfl⟩, _⟩ := h; rfl
theorem World.notedFrom.eth {a b : World} (h : a.notedFrom b) : a.eth = b.eth := by obtain ⟨⟨_, _, _, _, _, _, rfl⟩, _⟩ := h; rfl
theorem World.notedFrom.stopped {a b : World} (h : a.notedFrom b) : a.stopped = b.stopped := by obtain ⟨⟨_, _, _, _, _, _, rfl⟩, _⟩ := h; rfl
theorem World.notedFrom.restarts {a b : World} (h : a.notedFrom b) : a.restarts = b.restarts := by obtain ⟨⟨_, _, _, _, _, _, rfl⟩, _⟩ := h; rfl
theorem World.notedFrom.mhz {a b : World} (h : a.notedFrom b) : a.mhz = b.mhz := by obtain ⟨⟨_, _, _, _, _, _, rfl⟩, _⟩ := h; rfl
theorem World.notedFrom.pointers {a b : World} (h : a.notedFrom b) : a.pointers = b.pointers := by obtain ⟨⟨_, _, _, _, _, _, rfl⟩, _⟩ := h; rfl
theorem World.notedFrom.free {a b : World} (h : a.notedFrom b) : a.free = b.free := by obtain ⟨⟨_, _, _, _, _, _, rfl⟩, _⟩ := h; rfl
theorem World.notedFrom.out {a b : World} (h : a.notedFrom b) : a.out = b.out := by obtain ⟨⟨_, _, _, _, _, _, rfl⟩, _⟩ := h; rfl

@[simp] theorem World.act_regs (src kind cls a16 a32 : Nat) (data : List Byte) : (w.act t src kind cls a16 a32 data).regs = w.regs := (w.act_noted t src kind cls a16 a32 data).regs
@[simp] theorem World.act_config (src kind cls a16 a32 : Nat) (data : List Byte) : (w.act t src kind cls a16 a32 data).config = w.config := (w.act_noted t src kind cls a16 a32 data).config
@[simp] theorem World.act_hbm (src kind cls a16 a32 : Nat) (data : List Byte) : (w.act t src kind cls a16 a32 data).hbm = w.hbm := (w.act_noted t src kind cls a16 a32 data).hbm
@[simp] theorem World.act_tun (src kind cls a16 a32 : Nat) (data : List Byte) : (w.act t src kind cls a16 a32 data).tun = w.tun := (w.act_noted t src kind cls a16 a32 data).tun
@[simp] theorem World.act_cstore (src kind cls a16 a32 : Nat) (data : List Byte) : (w.act t src kind cls a16 a32 data).cstore = w.cstore := (w.act_noted t src kind cls a16 a32 data).cstore
@[simp] theorem World.act_cellar (src kind cls a16 a32 : Nat) (data : List Byte) : (w.act t src kind cls a16 a32 data).cellar = w.cellar := (w.act_noted t src kind cls a16 a32 data).cellar
@[simp] theorem World.act_channels (src kind cls a16 a32 : Nat) (data : List Byte) : (w.act t src kind cls a16 a32 data).channels = w.channels := (w.act_noted t src kind cls a16 a32 data).channels
@[simp] theorem World.act_hourEcc (src kind cls a16 a32 : Nat) (data : List Byte) : (w.act t src kind cls a16 a32 data).hourEcc = w.hourEcc := (w.act_noted t src kind cls a16 a32 data).hourEcc
@[simp] theorem World.act_eccHour (src kind cls a16 a32 : Nat) (data : List Byte) : (w.act t src kind cls a16 a32 data).eccHour = w.eccHour := (w.act_noted t src kind cls a16 a32 data).eccHour
@[simp] theorem World.act_parityStep (src kind cls a16 a32 : Nat) (data : List Byte) : (w.act t src kind cls a16 a32 data).parityStep = w.parityStep := (w.act_noted t src kind cls a16 a32 data).parityStep
@[simp] theorem World.act_parityHeld (src kind cls a16 a32 : Nat) (data : List Byte) : (w.act t src kind cls a16 a32 data).parityHeld = w.parityHeld := (w.act_noted t src kind cls a16 a32 data).parityHeld
@[simp] theorem World.act_nmrFaulted (src kind cls a16 a32 : Nat) (data : List Byte) : (w.act t src kind cls a16 a32 data).nmrFaulted = w.nmrFaulted := (w.act_noted t src kind cls a16 a32 data).nmrFaulted
@[simp] theorem World.act_cellarBad (src kind cls a16 a32 : Nat) (data : List Byte) : (w.act t src kind cls a16 a32 data).cellarBad = w.cellarBad := (w.act_noted t src kind cls a16 a32 data).cellarBad
@[simp] theorem World.act_cores (src kind cls a16 a32 : Nat) (data : List Byte) : (w.act t src kind cls a16 a32 data).cores = w.cores := (w.act_noted t src kind cls a16 a32 data).cores
@[simp] theorem World.act_clusters (src kind cls a16 a32 : Nat) (data : List Byte) : (w.act t src kind cls a16 a32 data).clusters = w.clusters := (w.act_noted t src kind cls a16 a32 data).clusters
@[simp] theorem World.act_dies (src kind cls a16 a32 : Nat) (data : List Byte) : (w.act t src kind cls a16 a32 data).dies = w.dies := (w.act_noted t src kind cls a16 a32 data).dies
@[simp] theorem World.act_flows (src kind cls a16 a32 : Nat) (data : List Byte) : (w.act t src kind cls a16 a32 data).flows = w.flows := (w.act_noted t src kind cls a16 a32 data).flows
@[simp] theorem World.act_bars (src kind cls a16 a32 : Nat) (data : List Byte) : (w.act t src kind cls a16 a32 data).bars = w.bars := (w.act_noted t src kind cls a16 a32 data).bars
@[simp] theorem World.act_dbars (src kind cls a16 a32 : Nat) (data : List Byte) : (w.act t src kind cls a16 a32 data).dbars = w.dbars := (w.act_noted t src kind cls a16 a32 data).dbars
@[simp] theorem World.act_kiln (src kind cls a16 a32 : Nat) (data : List Byte) : (w.act t src kind cls a16 a32 data).kiln = w.kiln := (w.act_noted t src kind cls a16 a32 data).kiln
@[simp] theorem World.act_fab (src kind cls a16 a32 : Nat) (data : List Byte) : (w.act t src kind cls a16 a32 data).fab = w.fab := (w.act_noted t src kind cls a16 a32 data).fab
@[simp] theorem World.act_cask (src kind cls a16 a32 : Nat) (data : List Byte) : (w.act t src kind cls a16 a32 data).cask = w.cask := (w.act_noted t src kind cls a16 a32 data).cask
@[simp] theorem World.act_twin (src kind cls a16 a32 : Nat) (data : List Byte) : (w.act t src kind cls a16 a32 data).twin = w.twin := (w.act_noted t src kind cls a16 a32 data).twin
@[simp] theorem World.act_hop (src kind cls a16 a32 : Nat) (data : List Byte) : (w.act t src kind cls a16 a32 data).hop = w.hop := (w.act_noted t src kind cls a16 a32 data).hop
@[simp] theorem World.act_tap (src kind cls a16 a32 : Nat) (data : List Byte) : (w.act t src kind cls a16 a32 data).tap = w.tap := (w.act_noted t src kind cls a16 a32 data).tap
@[simp] theorem World.act_eth (src kind cls a16 a32 : Nat) (data : List Byte) : (w.act t src kind cls a16 a32 data).eth = w.eth := (w.act_noted t src kind cls a16 a32 data).eth
@[simp] theorem World.act_stopped (src kind cls a16 a32 : Nat) (data : List Byte) : (w.act t src kind cls a16 a32 data).stopped = w.stopped := (w.act_noted t src kind cls a16 a32 data).stopped
@[simp] theorem World.act_restarts (src kind cls a16 a32 : Nat) (data : List Byte) : (w.act t src kind cls a16 a32 data).restarts = w.restarts := (w.act_noted t src kind cls a16 a32 data).restarts
@[simp] theorem World.act_mhz (src kind cls a16 a32 : Nat) (data : List Byte) : (w.act t src kind cls a16 a32 data).mhz = w.mhz := (w.act_noted t src kind cls a16 a32 data).mhz
@[simp] theorem World.act_pointers (src kind cls a16 a32 : Nat) (data : List Byte) : (w.act t src kind cls a16 a32 data).pointers = w.pointers := (w.act_noted t src kind cls a16 a32 data).pointers
@[simp] theorem World.act_free (src kind cls a16 a32 : Nat) (data : List Byte) : (w.act t src kind cls a16 a32 data).free = w.free := (w.act_noted t src kind cls a16 a32 data).free
@[simp] theorem World.act_out (src kind cls a16 a32 : Nat) (data : List Byte) : (w.act t src kind cls a16 a32 data).out = w.out := (w.act_noted t src kind cls a16 a32 data).out

@[simp] theorem World.raise_regs (src code payload : Nat) : (w.raise t src code payload).regs = w.regs := (w.raise_noted t src code payload).regs
@[simp] theorem World.raise_config (src code payload : Nat) : (w.raise t src code payload).config = w.config := (w.raise_noted t src code payload).config
@[simp] theorem World.raise_hbm (src code payload : Nat) : (w.raise t src code payload).hbm = w.hbm := (w.raise_noted t src code payload).hbm
@[simp] theorem World.raise_tun (src code payload : Nat) : (w.raise t src code payload).tun = w.tun := (w.raise_noted t src code payload).tun
@[simp] theorem World.raise_cstore (src code payload : Nat) : (w.raise t src code payload).cstore = w.cstore := (w.raise_noted t src code payload).cstore
@[simp] theorem World.raise_cellar (src code payload : Nat) : (w.raise t src code payload).cellar = w.cellar := (w.raise_noted t src code payload).cellar
@[simp] theorem World.raise_channels (src code payload : Nat) : (w.raise t src code payload).channels = w.channels := (w.raise_noted t src code payload).channels
@[simp] theorem World.raise_hourEcc (src code payload : Nat) : (w.raise t src code payload).hourEcc = w.hourEcc := (w.raise_noted t src code payload).hourEcc
@[simp] theorem World.raise_eccHour (src code payload : Nat) : (w.raise t src code payload).eccHour = w.eccHour := (w.raise_noted t src code payload).eccHour
@[simp] theorem World.raise_parityStep (src code payload : Nat) : (w.raise t src code payload).parityStep = w.parityStep := (w.raise_noted t src code payload).parityStep
@[simp] theorem World.raise_parityHeld (src code payload : Nat) : (w.raise t src code payload).parityHeld = w.parityHeld := (w.raise_noted t src code payload).parityHeld
@[simp] theorem World.raise_nmrFaulted (src code payload : Nat) : (w.raise t src code payload).nmrFaulted = w.nmrFaulted := (w.raise_noted t src code payload).nmrFaulted
@[simp] theorem World.raise_cellarBad (src code payload : Nat) : (w.raise t src code payload).cellarBad = w.cellarBad := (w.raise_noted t src code payload).cellarBad
@[simp] theorem World.raise_cores (src code payload : Nat) : (w.raise t src code payload).cores = w.cores := (w.raise_noted t src code payload).cores
@[simp] theorem World.raise_clusters (src code payload : Nat) : (w.raise t src code payload).clusters = w.clusters := (w.raise_noted t src code payload).clusters
@[simp] theorem World.raise_dies (src code payload : Nat) : (w.raise t src code payload).dies = w.dies := (w.raise_noted t src code payload).dies
@[simp] theorem World.raise_flows (src code payload : Nat) : (w.raise t src code payload).flows = w.flows := (w.raise_noted t src code payload).flows
@[simp] theorem World.raise_bars (src code payload : Nat) : (w.raise t src code payload).bars = w.bars := (w.raise_noted t src code payload).bars
@[simp] theorem World.raise_dbars (src code payload : Nat) : (w.raise t src code payload).dbars = w.dbars := (w.raise_noted t src code payload).dbars
@[simp] theorem World.raise_kiln (src code payload : Nat) : (w.raise t src code payload).kiln = w.kiln := (w.raise_noted t src code payload).kiln
@[simp] theorem World.raise_fab (src code payload : Nat) : (w.raise t src code payload).fab = w.fab := (w.raise_noted t src code payload).fab
@[simp] theorem World.raise_cask (src code payload : Nat) : (w.raise t src code payload).cask = w.cask := (w.raise_noted t src code payload).cask
@[simp] theorem World.raise_twin (src code payload : Nat) : (w.raise t src code payload).twin = w.twin := (w.raise_noted t src code payload).twin
@[simp] theorem World.raise_hop (src code payload : Nat) : (w.raise t src code payload).hop = w.hop := (w.raise_noted t src code payload).hop
@[simp] theorem World.raise_tap (src code payload : Nat) : (w.raise t src code payload).tap = w.tap := (w.raise_noted t src code payload).tap
@[simp] theorem World.raise_eth (src code payload : Nat) : (w.raise t src code payload).eth = w.eth := (w.raise_noted t src code payload).eth
@[simp] theorem World.raise_stopped (src code payload : Nat) : (w.raise t src code payload).stopped = w.stopped := (w.raise_noted t src code payload).stopped
@[simp] theorem World.raise_restarts (src code payload : Nat) : (w.raise t src code payload).restarts = w.restarts := (w.raise_noted t src code payload).restarts
@[simp] theorem World.raise_mhz (src code payload : Nat) : (w.raise t src code payload).mhz = w.mhz := (w.raise_noted t src code payload).mhz
@[simp] theorem World.raise_pointers (src code payload : Nat) : (w.raise t src code payload).pointers = w.pointers := (w.raise_noted t src code payload).pointers
@[simp] theorem World.raise_free (src code payload : Nat) : (w.raise t src code payload).free = w.free := (w.raise_noted t src code payload).free
@[simp] theorem World.raise_out (src code payload : Nat) : (w.raise t src code payload).out = w.out := (w.raise_noted t src code payload).out

@[simp] theorem World.raiseAs_regs (src code sev payload extra : Nat) : (w.raiseAs t src code sev payload extra).regs = w.regs := (w.raiseAs_noted t src code sev payload extra).regs
@[simp] theorem World.raiseAs_config (src code sev payload extra : Nat) : (w.raiseAs t src code sev payload extra).config = w.config := (w.raiseAs_noted t src code sev payload extra).config
@[simp] theorem World.raiseAs_hbm (src code sev payload extra : Nat) : (w.raiseAs t src code sev payload extra).hbm = w.hbm := (w.raiseAs_noted t src code sev payload extra).hbm
@[simp] theorem World.raiseAs_tun (src code sev payload extra : Nat) : (w.raiseAs t src code sev payload extra).tun = w.tun := (w.raiseAs_noted t src code sev payload extra).tun
@[simp] theorem World.raiseAs_cstore (src code sev payload extra : Nat) : (w.raiseAs t src code sev payload extra).cstore = w.cstore := (w.raiseAs_noted t src code sev payload extra).cstore
@[simp] theorem World.raiseAs_cellar (src code sev payload extra : Nat) : (w.raiseAs t src code sev payload extra).cellar = w.cellar := (w.raiseAs_noted t src code sev payload extra).cellar
@[simp] theorem World.raiseAs_channels (src code sev payload extra : Nat) : (w.raiseAs t src code sev payload extra).channels = w.channels := (w.raiseAs_noted t src code sev payload extra).channels
@[simp] theorem World.raiseAs_hourEcc (src code sev payload extra : Nat) : (w.raiseAs t src code sev payload extra).hourEcc = w.hourEcc := (w.raiseAs_noted t src code sev payload extra).hourEcc
@[simp] theorem World.raiseAs_eccHour (src code sev payload extra : Nat) : (w.raiseAs t src code sev payload extra).eccHour = w.eccHour := (w.raiseAs_noted t src code sev payload extra).eccHour
@[simp] theorem World.raiseAs_parityStep (src code sev payload extra : Nat) : (w.raiseAs t src code sev payload extra).parityStep = w.parityStep := (w.raiseAs_noted t src code sev payload extra).parityStep
@[simp] theorem World.raiseAs_parityHeld (src code sev payload extra : Nat) : (w.raiseAs t src code sev payload extra).parityHeld = w.parityHeld := (w.raiseAs_noted t src code sev payload extra).parityHeld
@[simp] theorem World.raiseAs_nmrFaulted (src code sev payload extra : Nat) : (w.raiseAs t src code sev payload extra).nmrFaulted = w.nmrFaulted := (w.raiseAs_noted t src code sev payload extra).nmrFaulted
@[simp] theorem World.raiseAs_cellarBad (src code sev payload extra : Nat) : (w.raiseAs t src code sev payload extra).cellarBad = w.cellarBad := (w.raiseAs_noted t src code sev payload extra).cellarBad
@[simp] theorem World.raiseAs_cores (src code sev payload extra : Nat) : (w.raiseAs t src code sev payload extra).cores = w.cores := (w.raiseAs_noted t src code sev payload extra).cores
@[simp] theorem World.raiseAs_clusters (src code sev payload extra : Nat) : (w.raiseAs t src code sev payload extra).clusters = w.clusters := (w.raiseAs_noted t src code sev payload extra).clusters
@[simp] theorem World.raiseAs_dies (src code sev payload extra : Nat) : (w.raiseAs t src code sev payload extra).dies = w.dies := (w.raiseAs_noted t src code sev payload extra).dies
@[simp] theorem World.raiseAs_flows (src code sev payload extra : Nat) : (w.raiseAs t src code sev payload extra).flows = w.flows := (w.raiseAs_noted t src code sev payload extra).flows
@[simp] theorem World.raiseAs_bars (src code sev payload extra : Nat) : (w.raiseAs t src code sev payload extra).bars = w.bars := (w.raiseAs_noted t src code sev payload extra).bars
@[simp] theorem World.raiseAs_dbars (src code sev payload extra : Nat) : (w.raiseAs t src code sev payload extra).dbars = w.dbars := (w.raiseAs_noted t src code sev payload extra).dbars
@[simp] theorem World.raiseAs_kiln (src code sev payload extra : Nat) : (w.raiseAs t src code sev payload extra).kiln = w.kiln := (w.raiseAs_noted t src code sev payload extra).kiln
@[simp] theorem World.raiseAs_fab (src code sev payload extra : Nat) : (w.raiseAs t src code sev payload extra).fab = w.fab := (w.raiseAs_noted t src code sev payload extra).fab
@[simp] theorem World.raiseAs_cask (src code sev payload extra : Nat) : (w.raiseAs t src code sev payload extra).cask = w.cask := (w.raiseAs_noted t src code sev payload extra).cask
@[simp] theorem World.raiseAs_twin (src code sev payload extra : Nat) : (w.raiseAs t src code sev payload extra).twin = w.twin := (w.raiseAs_noted t src code sev payload extra).twin
@[simp] theorem World.raiseAs_hop (src code sev payload extra : Nat) : (w.raiseAs t src code sev payload extra).hop = w.hop := (w.raiseAs_noted t src code sev payload extra).hop
@[simp] theorem World.raiseAs_tap (src code sev payload extra : Nat) : (w.raiseAs t src code sev payload extra).tap = w.tap := (w.raiseAs_noted t src code sev payload extra).tap
@[simp] theorem World.raiseAs_eth (src code sev payload extra : Nat) : (w.raiseAs t src code sev payload extra).eth = w.eth := (w.raiseAs_noted t src code sev payload extra).eth
@[simp] theorem World.raiseAs_stopped (src code sev payload extra : Nat) : (w.raiseAs t src code sev payload extra).stopped = w.stopped := (w.raiseAs_noted t src code sev payload extra).stopped
@[simp] theorem World.raiseAs_restarts (src code sev payload extra : Nat) : (w.raiseAs t src code sev payload extra).restarts = w.restarts := (w.raiseAs_noted t src code sev payload extra).restarts
@[simp] theorem World.raiseAs_mhz (src code sev payload extra : Nat) : (w.raiseAs t src code sev payload extra).mhz = w.mhz := (w.raiseAs_noted t src code sev payload extra).mhz
@[simp] theorem World.raiseAs_pointers (src code sev payload extra : Nat) : (w.raiseAs t src code sev payload extra).pointers = w.pointers := (w.raiseAs_noted t src code sev payload extra).pointers
@[simp] theorem World.raiseAs_free (src code sev payload extra : Nat) : (w.raiseAs t src code sev payload extra).free = w.free := (w.raiseAs_noted t src code sev payload extra).free
@[simp] theorem World.raiseAs_out (src code sev payload extra : Nat) : (w.raiseAs t src code sev payload extra).out = w.out := (w.raiseAs_noted t src code sev payload extra).out

/-! ### Events -/

theorem World.traceTo_uzo (src cls st : Nat) (r : List Byte) : (w.traceTo src cls st r).uzo = w.uzo := by
  simp only [World.traceTo, World.portAccept, World.portDrop]
  repeat' split
  all_goals rfl

theorem World.stamp_uzo (src : Nat) : (w.stamp t src).2.2.uzo = w.uzo := by
  simp only [World.stamp]
  split <;> rfl

theorem World.freezeTail_uzo (cause trigger src : Nat) : (World.freezeTail t cause trigger w src).uzo = w.uzo := by
  simp only [World.freezeTail]
  split
  · rfl
  · exact w.stamp_uzo t src

theorem World.freezeShared_uzo (sev src : Nat) : (w.freezeShared t sev src).uzo = w.uzo := by
  simp only [World.freezeShared]
  split
  · exact w.freezeTail_uzo t _ _ _
  · rfl

theorem leBytes_split (a b v : Nat) : leBytes (a + b) v = leBytes a v ++ leBytes b (v / 256 ^ a) := by
  induction a generalizing v with
  | zero => simp [leBytes]
  | succ n ih => rw [show n + 1 + b = (n + b) + 1 by omega]; simp [leBytes, ih, Nat.div_div_eq_div_mul, Nat.pow_succ']

/-- The number at an offset of bytes put together. -/
theorem leAt_append (x y z : List Byte) (n : Nat) (h : y.length = n) : leAt (x ++ (y ++ z)) x.length n = leNat y := by
  subst h
  simp [leAt, slice]

theorem leAt_leBytes_append (x z : List Byte) (o n v : Nat) (h : x.length = o) : leAt (x ++ (leBytes n v ++ z)) o n = v % 256 ^ n := by
  subst h
  rw [leAt_append _ _ _ _ (length_leBytes n v), leNat_leBytes]

theorem World.eventRecord_fields (stamp : Nat) (rs : Bool) (src code sev payload extra : Nat) :
    leAt (w.eventRecord stamp rs src code sev payload extra) 10 2 = src % 65536
    ∧ leAt (w.eventRecord stamp rs src code sev payload extra) 12 2 = code % 65536
    ∧ leAt (w.eventRecord stamp rs src code sev payload extra) 16 4 = payload % 2 ^ 32 := by
  simp only [World.eventRecord, List.append_assoc]
  refine ⟨?_, ?_, ?_⟩
  · rw [← List.append_assoc (leBytes 8 stamp)]
    exact leAt_leBytes_append _ _ 10 2 src (by simp)
  · rw [← List.append_assoc (leBytes 8 stamp), ← List.append_assoc]
    exact leAt_leBytes_append _ _ 12 2 code (by simp)
  · iterate 5 rw [← List.append_assoc]
    exact leAt_leBytes_append _ _ 16 4 payload (by simp)

/-- An event that is forwarded is the last of the queue (R555, R652). -/
theorem World.raiseAs_raised {src code sev payload extra : Nat} (h : w.forwards sev) (h1 : src < 65536) (h2 : code < 65536) :
    w.raised (w.raiseAs t src code sev payload extra) src code payload := by
  obtain ⟨ha, hb, hc⟩ := h
  have hu := w.stamp_uzo t src
  have hr : ∀ a, (w.stamp t src).2.2.reg a = w.reg a := fun a => by rw [World.reg, (w.stamp_noted t src).regs]; rfl
  have hx : ∀ v : World, (match v.sourcePart src with
      | none => v
      | some p => if 3 ≤ sev then v.tick .cnt p 0x0B0 else v).uzo = v.uzo := by
    intro v
    repeat' split
    all_goals rfl
  refine ⟨(w.stamp t src).2.2.eventRecord (w.stamp t src).1 (w.stamp t src).2.1 src code sev payload extra, ?_, ?_⟩
  · simp only [World.raiseAs, World.freezeShared_uzo, World.traceTo_uzo, World.tailWrite_uzo]
    refine (congrArg Uzo.events (hx _)).trans ?_
    simp only [World.queueEvent, hr, ha, hb, hu, hc, and_self, if_true]
  · have := (w.stamp t src).2.2.eventRecord_fields (w.stamp t src).1 (w.stamp t src).2.1 src code sev payload extra
    exact ⟨by rw [this.1]; omega, by rw [this.2.1]; omega, this.2.2⟩

theorem World.raise_raised {src code payload : Nat} (h : w.forwards (eventSeverity code)) (h1 : src < 65536) (h2 : code < 65536) :
    w.raised (w.raise t src code payload) src code payload := w.raiseAs_raised t h h1 h2

end Sys2Proof.Machine
end

