-- ==== Sys2Proof/WellFormed.lean ====
section
/-!
DEFINITION. Well-formed commands: the lengths and ranges that the manual gives the operands which their types leave wider.
-/

namespace Sys2Proof

/-- A parcel carries at most 8,192 payload bytes, and a tag of 32 bytes exactly when FLAGS.TAGGED is 1 (R545). -/
def Parcel.wf (p : Parcel) : Bool :=
  decide (p.payload.length ≤ 8192) && decide (p.kmac.length = if p.flags.getLsbD 1 then 32 else 0)

/-- A packet carries at most 2,048 payload bytes and a 64-bit PAIR_COUNT (R396). -/
def Packet.wf (p : Packet) : Bool := decide (p.payload.length ≤ 2048) && decide (p.pairCount < 2 ^ 64)

/-- An NMR command is one grain: its fields fit and its payload has 224 bytes (R242). -/
def NmrCmd.wf (c : NmrCmd) : Bool :=
  decide (c.count < 256) && decide (c.table < 2 ^ 32) && decide (c.step < 2 ^ 64) && decide (c.row < 2 ^ 48)
    && decide (c.column < 2 ^ 16) && decide (c.payload.length = 224)

/-- A grain access stays within one grain of a channel of 2 GiB (R267, R270). -/
def GrainAccess.wf (a : GrainAccess) : Bool :=
  decide (a.grain < 2 ^ 23) && decide (a.first + a.data.length ≤ 256) && decide (a.first + a.length ≤ 256) && decide (a.cls < 4)

/-- What training observes names channels, cellar positions and ports that exist (R281, R283, R390). -/
def BootIn.wf (b : BootIn) : Bool :=
  b.hbmFail.all (fun c => decide (c < 256)) && decide (b.cellarGib.length ≤ 16) && b.cellarFail.all (fun c => decide (c < 64))
    && b.ports.all (fun e => decide (e.1 < 48) && decide (e.2.lanesUp ≤ 16)) && decide (b.lanes ≤ 2)

/-- A measurement names at most 16 rails and 17 sensors (R631, R646). -/
def Measurement.wf (m : Measurement) : Bool := decide (m.rails.length ≤ 16) && decide (m.temps.length ≤ 17)

/-- A datagram has an address of 4 or 16 bytes and fits a frame (R527). -/
def Datagram.wf (d : Datagram) : Bool :=
  decide (d.srcAddr.length = if d.ipv6 then 16 else 4) && decide (d.payload.length ≤ 9216)

/-- A frame carries addresses of 4 or 16 bytes. -/
def EthFrame.wf : EthFrame → Bool
  | .arpRequest _ t s => decide (t.length = 4) && decide (s.length = 4)
  | .ndpSolicit _ t s => decide (t.length = 16) && decide (s.length = 16)
  | .icmpEcho _ v s b => decide (s.length = if v then 16 else 4) && decide (b.length ≤ 9216)
  | .udpUnmatched d => d.wf
  | .macsecFail _ | .fragment _ | .stackedTag _ | .fcsError _ | .fecUncorrectable _ | .other _ => true

/-- A tree message names a domain barrier of R360 and a step. -/
def TreeMsg.wf (m : TreeMsg) : Bool :=
  decide (m.barrier < 16) && decide (m.step < 2 ^ 64) && decide (m.fromPosition < 2 ^ 14)

/-- Well-formed commands. -/
def Instr.wf : Instr → Bool
  | .powerOnQualify _ _ boot => boot.wf
  | .inputBelow30V => true
  | .inputPowerFail _ => true
  | .holdupEnd => true
  | .inputLow _ => true
  | .inputRange _ => true
  | .pwrEnRise boot => boot.wf
  | .pwrEnFall => true
  | .modResetLAssert => true
  | .modResetLRelease _ boot => boot.wf
  | .droopDetected _ => true
  | .droopRecovered _ => true
  | .clockStop _ => true
  | .clockRestart _ => true
  | .powerSample _ => true
  | .capWindowEnd m => m.wf
  | .thermalWarn _ _ => true
  | .thermalTrip _ _ => true
  | .pwrCapWrite _ => true
  | .smbusBlockRead _ => true
  | .smbusBlockWrite _ _ => true
  | .registerWrite offset _ => decide (offset % 8 = 0) && decide (offset < 2 ^ 24)
  | .loadBegin p => p.wf
  | .loadData p => p.wf
  | .loadEnd p => p.wf
  | .loadTimeout _ => true
  | .unload p => p.wf
  | .start p => p.wf
  | .stop p => p.wf
  | .restore p => p.wf
  | .status p => p.wf
  | .capQuery p => p.wf
  | .attest p => p.wf
  | .regRead p => p.wf
  | .regWrite p => p.wf
  | .dmaOpen p => p.wf
  | .dmaClose p => p.wf
  | .dmaRead p => p.wf
  | .dmaWrite p => p.wf
  | .ringCfg p => p.wf
  | .doorbell p => p.wf
  | .eventsHeartbeat => true
  | .rsBegin p => p.wf
  | .rsData p _ => p.wf
  | .rsEnd p boot => p.wf && boot.wf
  | .key p => p.wf
  | .jobKey p => p.wf
  | .claim p => p.wf
  | .release p => p.wf
  | .floor p => p.wf
  | .uzoRetrain => true
  | .mgcWatchdogExpiry => true
  | .kick => true
  | .signatureRequest => true
  | .nop _ => true
  | .issue _ _ _ _ _ => true
  | .loop _ _ _ _ _ _ => true
  | .branch _ _ _ _ => true
  | .setcc _ _ _ => true
  | .getWork _ _ => true
  | .complete _ _ _ => true
  | .wait _ _ _ _ _ _ => true
  | .signal _ _ _ _ _ _ => true
  | .fence _ => true
  | .barrier _ _ _ _ _ => true
  | .raise _ _ _ => true
  | .end_ _ => true
  | .endDrained _ => true
  | .seqStop _ => true
  | .seqSingle _ => true
  | .runStart _ _ => true
  | .itemAdmit _ => true
  | .workDispatch _ => true
  | .itemComplete _ seq => decide (seq < 2 ^ 64)
  | .collectRecord _ => true
  | .watchWake _ => true
  | .operationDone _ _ => true
  | .fenceComplete _ => true
  | .deadlock _ => true
  | .mxeKStep _ => true
  | .mxeTileWriteback _ => true
  | .zeroPredictVerify _ stream => decide (stream < 2 ^ 64)
  | .vxeChain _ => true
  | .vxeSegmented _ => true
  | .vxeMatmulF32 _ => true
  | .vxeMatmulF64 _ => true
  | .vxeTranspose _ => true
  | .vxeGather _ => true
  | .vxeScatter _ => true
  | .vxeGrouped _ => true
  | .axeLoad _ stream => decide (stream < 2 ^ 64)
  | .axeStore _ stream => decide (stream < 2 ^ 64)
  | .axeCopy _ stream => decide (stream < 2 ^ 64)
  | .axeRelay _ stream => decide (stream < 2 ^ 64)
  | .sortUnique _ => true
  | .gsuGather _ => true
  | .gsuScatter _ => true
  | .gsuMigrate _ => true
  | .gsuReadout _ => true
  | .addW64 c => c.wf
  | .addW128 c => c.wf
  | .addI64 c => c.wf
  | .addF32 c => c.wf
  | .nmrReadout c => c.wf
  | .catchupCopy _ table => decide (table < 2 ^ 24)
  | .hbmGrainAccess _ a => a.wf
  | .parityRetry _ a attempt => a.wf && decide (attempt < 8)
  | .scrubGrain _ grain _ _ => decide (grain < 2 ^ 23)
  | .hbcMapoutClear _ _ => true
  | .cellarBurst b => decide (b.crcFailures ≤ 9)
  | .samplerBlock _ => true
  | .smpHopDraw _ => true
  | .sampleReq p => p.wf
  | .sampleReply p => p.wf
  | .gradReady _ tensor step offset first count => decide (tensor < 2 ^ 24) && decide (step < 2 ^ 64) && decide (offset < 2 ^ 48) && decide (first < 2 ^ 48) && decide (count < 2 ^ 48)
  | .kilnRead _ offset => decide (offset < 2 ^ 48)
  | .kilnReadData _ offset data => decide (offset < 2 ^ 48) && decide (data.length ≤ 2 ^ 24)
  | .rowGrad _ tensor step row _ => decide (tensor < 2 ^ 24) && decide (step < 2 ^ 64) && decide (row < 2 ^ 48)
  | .rowsEnd _ tensor step touched => decide (tensor < 2 ^ 24) && decide (step < 2 ^ 64) && decide (touched < 2 ^ 48)
  | .emit _ tensor offset data => decide (tensor < 2 ^ 24) && decide (offset < 2 ^ 48) && decide (data.length ≤ 2 ^ 24)
  | .kilnAck _ _ => true
  | .stateOut _ tensor row position _ record => decide (tensor < 2 ^ 24) && decide (row < 2 ^ 48) && decide (position < 2 ^ 14) && decide (record.length ≤ 2 ^ 24)
  | .stateIn _ tensor row _ record => decide (tensor < 2 ^ 24) && decide (row < 2 ^ 48) && decide (record.length ≤ 2 ^ 24)
  | .stepClose _ step => decide (step < 2 ^ 64)
  | .stepDone _ step => decide (step < 2 ^ 64)
  | .kilnEntryUpdate _ => true
  | .kilnLinkRetrain _ => true
  | .freezeEntry _ rule entry effectiveStep => decide (rule < 2 ^ 8) && decide (entry < 2 ^ 16) && decide (effectiveStep < 2 ^ 64)
  | .thawEntry _ rule entry effectiveStep => decide (rule < 2 ^ 8) && decide (entry < 2 ^ 16) && decide (effectiveStep < 2 ^ 64)
  | .freezeRows _ rule entry effectiveStep => decide (rule < 2 ^ 8) && decide (entry < 2 ^ 16) && decide (effectiveStep < 2 ^ 64)
  | .thawRows _ rule entry effectiveStep => decide (rule < 2 ^ 8) && decide (entry < 2 ^ 16) && decide (effectiveStep < 2 ^ 64)
  | .stepBarrierEnter _ => true
  | .evalOverrun => true
  | .tapEmit => true
  | .feedDatagram d => d.wf
  | .feedRecordIntake p => p.wf
  | .batchClose batch => decide (batch < 2 ^ 64)
  | .closeMarker p => p.wf
  | .readReq p => p.wf
  | .readData p => p.wf
  | .write p => p.wf
  | .writeAck p => p.wf
  | .nmrAck p => p.wf
  | .fabSignal p => p.wf
  | .signalAck p => p.wf
  | .migrate p => p.wf
  | .kilnState p => p.wf
  | .reduceStart tensor => decide (tensor < 2 ^ 24)
  | .reduceData p => p.wf
  | .treeUp m => m.wf
  | .treeDown m => m.wf
  | .cask p => p.wf
  | .groupNotice _ _ _ => true
  | .badPacket _ p => p.wf
  | .packetHop _ _ p => p.wf
  | .portRetrain _ _ x _ => decide (x.lanesUp ≤ 16) && decide (x.rttTenthNs < 2 ^ 32)
  | .partnerIdle _ => true
  | .queueFigureExchange _ _ => true
  | .drainGo => true
  | .drainReq _ => true
  | .drainCountRound _ => true
  | .install _ => true
  | .resume _ => true
  | .drainTimeout _ => true
  | .domainBarrierTimeout _ => true
  | .timeMarkSend => true
  | .timeMark _ _ => true
  | .slewTick => true
  | .timeHoldover => true
  | .ptpMessage _ => true
  | .ppsInEdge => true
  | .ppsOutEdge => true
  | .twinDigestForm => true
  | .twinDigestResend => true
  | .twinDigestFrame frame => decide (frame.length ≤ 2 ^ 24)
  | .rollback frame => decide (frame.length ≤ 2 ^ 24)
  | .twinFenceFrame frame => decide (frame.length ≤ 2 ^ 24)
  | .twinTimeout => true
  | .riskEval => true
  | .cskRequest => true
  | .kilnPartSend => true
  | .baseStart tensor => decide (tensor < 2 ^ 24)
  | .caskCommit => true
  | .caskExport => true
  | .caskManifest frame => decide (frame.length ≤ 2 ^ 24)
  | .caskData frame => decide (frame.length ≤ 2 ^ 24)
  | .caskAck frame => decide (frame.length ≤ 2 ^ 24)
  | .caskFetch frame => decide (frame.length ≤ 2 ^ 24)
  | .caskEnd frame => decide (frame.length ≤ 2 ^ 24)
  | .caskRefuse frame => decide (frame.length ≤ 2 ^ 24)
  | .caskFrameResend seq => decide (seq < 2 ^ 32)
  | .caskRestore step => decide (step < 2 ^ 64)
  | .traceRegionWrite _ => true
  | .pcSample _ _ => true
  | .cntTraceRead _ _ => true
  | .go _ _ => true
  | .cancel _ => true
  | .dumpEnd _ _ => true
  | .freeze _ => true
  | .thaw _ => true
  | .tracePortFrame => true
  | .traceCredit _ => true
  | .uzoPartnerLightChange _ _ => true
  | .ethLinkChange _ _ => true
  | .ethFrameRx f => f.wf
  | .tracePortLinkChange _ => true
  | .ptpOrPpsInLost => true
  | .unknownTypeParcel _ p => p.wf

end Sys2Proof
end

