-- ==== Sys2Proof/Tests/Slice0.lean ====
section
/-!
SUPPORT. Tests: ill-formed commands, one step of each family on a small state, and for every statement states and operands that meet
its hypotheses together.
-/

set_option Elab.async false

namespace Sys2Proof.Tests

open Sys2Proof.Machine

/-! ### Small states -/

/-- An Owner record with a key of sevens. -/
def ownerRecord : MramRecord := ({} : MramRecord).write ([1, 0, 0, 0, 0, 0, 0, 0] ++ List.replicate 32 7)
/-- A security die of a claimed module whose MGC runs. -/
def claimedSec : Sec := { owner := ownerRecord, mgcRunning := true }
/-- A world with an open link that forwards every event. -/
def baseWorld : World := { uzo := { light := true, training := false }, regs := [(Block.uzo.addr 0 0x008, 1)] }
/-- A module in service. -/
def up (w : World) : Machine.State := { pwr := { phase := .ready, pwrEn := true }, sec := claimedSec, w := w }
/-- What a command answers. -/
def after (c : Instr) (s : Machine.State) : Machine.State :=
  match exec c s with
  | .next t => t
  | _ => s

/-! ### Power, clocks, sideband (witnesses of `FailCausesRunPowerFailSequence` to `SmbusReadsAndClearsAlerts`) -/

/-- A small measurement with one sensor at a temperature (in tenths of a degree). -/
def measured (t : BitVec 16) : Measurement :=
  { vin10mv := 4800, iin10ma := 100, rails := [], temps := [t], opticsMw := 0, opticsLevels := 0 }
/-- The state in a power-fail sequence. -/
def failing (cs : List Nat) (held : Bool) : Machine.State :=
  { up baseWorld with pwr := { phase := .ready, failSeq := some cs, failsafeCause := 3, resetHeld := held, resetLow := held } }

theorem witness_first_fail_cause :
    let s := up baseWorld; s.pwr.failSeq = none ∧ s.pwr.phase = .ready ∧ s.pwr.pwrEn = true ∧ s.w.forwards 4 := by
  unfold World.forwards; decide +kernel
theorem witness_second_fail_cause :
    let s := failing [3] false
    s.pwr.failSeq = some [3] ∧ s.sid.now = s.pwr.failAt ∧ s.pwr.failsafeCause = 3 ∧ s.w.forwards 4 := by
  unfold World.forwards; decide +kernel
theorem witness_holdup_end :
    (failing [1] false).pwr.failSeq = some [1] ∧ ((failing [1] false).pwr.resetHeld && (failing [1] false).pwr.resetLow) = false := by decide +kernel
theorem witness_no_power_fail : Machine.State.reset.pwr.failSeq = none ∧ Machine.State.reset.pwr.pwrEn = false := by decide +kernel
theorem witness_holdup_end_reset_held :
    let s := failing [1] true; s.pwr.failSeq = some [1] ∧ s.pwr.resetHeld = true ∧ s.pwr.resetLow = true := by decide +kernel
theorem test_input_power_fail : (after (.inputPowerFail 3700) (up baseWorld)).pwr.failsafeCause = 1
    ∧ (after (.inputPowerFail 3700) (up baseWorld)).w.uzo.events.length = 1 := by decide +kernel
theorem test_holdup_end : (after .holdupEnd (failing [1] true)).pwr.phase = .standby
    ∧ (after .holdupEnd (failing [1] false)).pwr.phase = .failsafe := by decide +kernel

theorem witness_input_range :
    let s := up baseWorld; s.pwr.phase ≠ .off ∧ s.w.forwards 2 ∧ s.pwr.inputHigh = false ∧ s.pwr.thermal = false := by
  unfold World.forwards; decide +kernel
theorem witness_input_range_again :
    let s : Machine.State := { up baseWorld with pwr := { phase := .ready, inputHigh := true, thermal := true } }
    s.pwr.phase ≠ .off ∧ s.w.forwards 2 ∧ s.pwr.inputHigh = true ∧ s.pwr.thermal = true := by
  unfold World.forwards; decide +kernel
/-- A module in service at a frequency, with an average power and quiet windows before this one. -/
def powered (freq avg low : Nat) : Machine.State :=
  { up baseWorld with pwr := { phase := .ready, freq := freq, powerSum := avg, powerCount := 1, lowWindows := low } }
theorem witness_cap_window_above :
    (powered 400 3001 0).inService = true ∧ 50 * (powered 400 3001 0).pwr.capInForce < 3001 := by decide +kernel
theorem witness_cap_window_hot : (powered 420 0 0).inService = true ∧ hotSensors (measured 0xFFF).temps ≠ [] := by decide +kernel
theorem witness_cap_window_rises :
    let s := powered 940 2950 19
    s.inService = true ∧ ¬ (50 * s.pwr.capInForce < 2950 ∨ hotSensors (measured 0).temps ≠ []) ∧ s.pwr.thermal = false
      ∧ 2950 + 50 ≤ 50 * s.pwr.capInForce ∧ 19 ≤ s.pwr.lowWindows := by decide +kernel
theorem witness_cap_window_stays :
    let s := powered 940 2951 19
    s.inService = true ∧ ¬ (50 * s.pwr.capInForce < 2951 ∨ hotSensors (measured 0).temps ≠ []) ∧ 50 * s.pwr.capInForce < 2951 + 50 := by decide +kernel
theorem test_cap_window : (after (.capWindowEnd (measured 0)) (powered 400 3001 0)).pwr.freq = 400
    ∧ (after (.capWindowEnd (measured 0)) (powered 920 2950 19)).pwr.freq = 940 := by decide +kernel

theorem witness_island : let s := up baseWorld; s.pwr.phase ≠ .off ∧ s.inService = true ∧ s.w.clusterIdle 47 = true
    ∧ AMap.get false s.w.stopped 47 = false := by decide +kernel
theorem witness_clock_restart : let s := up { baseWorld with stopped := [(47, true)] }
    s.inService = true ∧ AMap.get false s.w.stopped 47 = true := by decide +kernel
theorem test_clock_restart : AMap.get (0, 0) (after (.clockRestart 47) (up { baseWorld with stopped := [(47, true)] })).w.restarts 47 = (0, 18) := by
  decide +kernel

theorem witness_power_on : let s := Machine.State.reset
    s.pwr.phase = .off ∧ s.pwr.resetLow = false ∧ 4000 ≤ (4000 : BitVec 16).toNat := by decide +kernel
theorem witness_mod_reset_release :
    let s : Machine.State := { pwr := { phase := .standby, resetLow := true } }
    s.pwr.phase = .standby ∧ s.pwr.resetLow = true ∧ s.pwr.failSeq = none := by decide +kernel
theorem witness_pwr_en_rise :
    let s : Machine.State := { pwr := { phase := .standby }, sec := { bootHeld := true } }
    s.sec.bootHeld = true ∧ s.pwr.failSeq = none ∧ s.pwr.phase = .standby := by decide +kernel
theorem witness_mod_reset : (up baseWorld).pwr.phase ≠ .off ∧ (up baseWorld).pwr.failSeq = none
    ∧ (failing [2] false).pwr.phase ≠ .off ∧ (failing [2] false).pwr.failSeq = some [2] := by decide +kernel
/-- Without a manifest the boot ends in RECOVERY with cause 1 (R562). -/
theorem test_power_on_without_manifest :
    (after (.powerOnQualify 4800 0 ⟨[], [], [], true, [], 0, 2, 0⟩) Machine.State.reset).sec.recoveryCause = 1 := by decide +kernel
theorem test_mod_reset_keeps_time :
    (after .modResetLAssert { up baseWorld with sid := { now := 77 } }).sid.now = 77 := by decide +kernel

theorem witness_smbus : (up baseWorld).pwr.phase ≠ .off ∧ (0x7F : BitVec 8).toNat < 0x80 ∧ 0x80 ≤ (0x80 : BitVec 8).toNat
    ∧ (4 : BitVec 8) ≠ 3 := by decide +kernel
theorem test_smbus_alerts :
    let s := up { baseWorld with regs := [(Block.pwr.addr 0 0x018, 0x1F), (Block.uzo.addr 0 0x008, 1)] }
    (after (.smbusBlockWrite 3 0x5) s).w.reg (Block.pwr.addr 0 0x018) = 0x1A := by decide +kernel

/-! ### Parcels (witnesses of `RequestsAreRefusedByRule` to `WatchdogRestartsOrHolds`) -/

theorem keccakRound_length (s : List (BitVec 64)) (rc : BitVec 64) : (keccakRound s rc).length = 25 := by
  unfold keccakRound
  extract_lets c d t b e
  have h : e.length = 25 := by simp [e]
  clear_value e
  cases e with
  | nil => exact absurd h (by decide)
  | cons a r => simpa using h
theorem foldl_keccakRound_length (l : List (BitVec 64)) : ∀ s : List (BitVec 64), s.length = 25 → (l.foldl keccakRound s).length = 25 := by
  induction l with
  | nil => exact fun s h => h
  | cons a r ih => exact fun s _ => ih _ (keccakRound_length s a)
theorem flatMap_leBytes_length (l : List (BitVec 64)) : (l.flatMap fun x => leBytes 8 x.toNat).length = 8 * l.length := by
  induction l with
  | nil => rfl
  | cons a r ih => simp [ih]; omega
theorem sponge_length (n : Byte) (msg : List Byte) : (sponge n msg 32).length = 32 := by
  unfold sponge absorbBlock keccakF
  simp only [List.length_take, flatMap_leBytes_length]
  rw [foldl_keccakRound_length _ _ (by simp)]
  rfl

theorem kmac_length (key msg : List Byte) (custom : String) : (kmac256 key msg custom).length = 32 := sponge_length _ _

/-- A tagged Owner request with a payload. -/
def ownerParcel (type : Nat) (payload : List Byte) (seq : BitVec 64 := 1) : Parcel :=
  let q : Parcel := { flags := 2, privilege := 1, seq := seq, payload := payload }
  { q with kmac := kmac256 claimedSec.ownerKey (taggedBytes 0 type q) "MEORI-UZO" }
/-- The same parcel with a tag of zeros has the same form. -/
theorem parcelOk_kmac (type : Nat) (q : Parcel) (k : List Byte) (h : k.length = 32) :
    parcelOk type { q with kmac := k } = parcelOk type { q with kmac := List.replicate 32 0 } := by
  simp only [parcelOk, parcelTagged, h, List.length_replicate]; rfl
/-- What the module must be for an Owner's tagged parcel to be handled. -/
def hearsOwner (s : Machine.State) : Bool :=
  s.linkLive && !s.sec.mgcHeld && !s.sec.recovery && decide (s.pwr.phase = .ready) && !s.w.uzo.training && s.sec.claimed
    && decide (s.sec.ownerKey = claimedSec.ownerKey) && decide (s.sec.bootId = 0) && (s.w.part 0).seqOwner.isNone && decide (0 < s.w.partCount)
/-- A well-formed tagged request of the Owner for partition 0 is heard. -/
theorem owner_heard (s : Machine.State) (type : Nat) (payload : List Byte) (seq : BitVec 64) (hs : hearsOwner s = true)
    (hp : parcelOk type { flags := 2, privilege := 1, seq := seq, payload := payload, kmac := List.replicate 32 0 } = true) :
    s.hears type (ownerParcel type payload seq) none true := by
  simp only [hearsOwner, Bool.and_eq_true, Bool.not_eq_true', decide_eq_true_eq, Option.isNone_iff_eq_none] at hs
  obtain ⟨⟨⟨⟨⟨⟨⟨⟨⟨hl, hh⟩, hr⟩, hph⟩, ht⟩, hc⟩, hk⟩, hb⟩, hq⟩, hn⟩ := hs
  have hok : parcelOk type (ownerParcel type payload seq) = true := by
    unfold ownerParcel; exact (parcelOk_kmac _ _ _ (kmac_length _ _ _)).trans hp
  have htag : tagOk 0 type (ownerParcel type payload seq) claimedSec.ownerKey = true := by
    unfold tagOk ownerParcel taggedBytes; simp
  refine ⟨hl, ?_, by simp, fun _ => hn⟩
  have h1 : s.verdict type (ownerParcel type payload seq) = s.admitTagged type (ownerParcel type payload seq) := by
    unfold State.verdict
    rw [if_neg (by simp [hh]), if_neg (by simp [hr]), if_neg (by simp [hph, ht]), if_neg (by simp [hok]), if_neg (by simp [hc]),
      if_pos ⟨by show bitAt 2 1 = true; decide, hc⟩]
  have h2 : (s.w.part (ownerParcel type payload seq).partition.toNat).lastSeq (ownerParcel type payload seq) = none := hq
  rw [h1]
  unfold State.admitTagged
  rw [if_neg (show ¬ (ownerParcel type payload seq).privilege = 0 by show ¬ (1 : BitVec 8) = 0; decide)]
  simp only [show (ownerParcel type payload seq).privilege.toNat = 1 from rfl, if_true, h2, hk, hb, htag]
  rfl

theorem test_shake : (shake256 []).take 8 = [0x46, 0xB9, 0xDD, 0x2B, 0x0B, 0xA8, 0x8D, 0x13] := by decide +kernel

/-- An untagged request. -/
def plain (payload : List Byte) : Parcel := { payload := payload }
/-- A world with one partition 0. -/
def withPart (x : Part) : World := { baseWorld with parts := [(0, x)] }

theorem witness_malformed : let s := up baseWorld; parcelOf (.status (plain [1])) = some (0x01, plain [1]) ∧ s.portOpen ∧ parcelOk 0x01 (plain [1]) = false := by
  unfold State.portOpen; decide +kernel
theorem witness_unclaimed :
    let s : Machine.State := { up baseWorld with sec := { mgcRunning := true } }
    s.portOpen ∧ s.sec.claimed = false ∧ parcelOk 0x10 (plain (List.replicate 8 0)) = true := by
  unfold State.portOpen; decide +kernel
/-- A tagged request whose tag is zero. -/
def badTag : Parcel := { flags := 2, privilege := 1, kmac := List.replicate 32 0 }
theorem witness_bad_tag :
    let s := up baseWorld
    s.portOpen ∧ s.sec.claimed = true ∧ parcelOk 0x13 badTag = true ∧ parcelTagged badTag = true ∧ tagOk s.sec.bootId 0x13 badTag s.sec.ownerKey = false := by
  unfold State.portOpen; decide +kernel
theorem owner_tag (type : Nat) (payload : List Byte) (seq : BitVec 64) :
    tagOk 0 type (ownerParcel type payload seq) claimedSec.ownerKey = true := by
  unfold tagOk ownerParcel taggedBytes; simp
theorem owner_ok (type : Nat) (payload : List Byte) (seq : BitVec 64)
    (hp : parcelOk type { flags := 2, privilege := 1, seq := seq, payload := payload, kmac := List.replicate 32 0 } = true) :
    parcelOk type (ownerParcel type payload seq) = true := by
  unfold ownerParcel; exact (parcelOk_kmac _ _ _ (kmac_length _ _ _)).trans hp
theorem witness_replay :
    let s := up (withPart { seqOwner := some 1 })
    let q := ownerParcel 0x13 [] 1
    s.portOpen ∧ s.sec.claimed = true ∧ parcelOk 0x13 q = true ∧ tagOk s.sec.bootId 0x13 q s.sec.ownerKey = true ∧ q.privilege = 1
      ∧ (s.w.part q.partition.toNat).seqOwner = some 1 ∧ q.seq.toNat ≤ 1 :=
  ⟨by unfold State.portOpen; decide +kernel, by decide +kernel, owner_ok _ _ _ (by decide +kernel), owner_tag _ _ _, rfl, by decide +kernel, by decide +kernel⟩
theorem witness_job_without_key :
    let s := up baseWorld
    let q : Parcel := { flags := 2, privilege := 2, kmac := List.replicate 32 0 }
    s.portOpen ∧ s.sec.claimed = true ∧ parcelOk 0x13 q = true ∧ parcelTagged q = true ∧ (s.w.part q.partition.toNat).jobKey = none := by
  unfold State.portOpen; decide +kernel
theorem witness_not_ready :
    let s : Machine.State := { up { baseWorld with uzo := { light := true } } with sec := { recovery := true } }
    let s' : Machine.State := { up baseWorld with sec := { mgcHeld := true } }
    let s'' : Machine.State := up {}
    s.linkLive = true ∧ s.sec.mgcHeld = false ∧ s.sec.recovery = true ∧ s.w.uzo.training = true ∧ s'.linkLive = true ∧ s'.sec.mgcHeld = true
      ∧ s''.w.uzo.light = false := by decide +kernel
theorem witness_accepted_seq :
    let s := up baseWorld
    let q := ownerParcel 0x13 [] 1
    s.portOpen ∧ parcelOk 0x13 q = true ∧ s.sec.claimed = true ∧ q.privilege = 1 ∧ tagOk s.sec.bootId 0x13 q s.sec.ownerKey = true
      ∧ (s.w.part q.partition.toNat).seqOwner = none :=
  ⟨by unfold State.portOpen; decide +kernel, owner_ok _ _ _ (by decide +kernel), by decide +kernel, rfl, owner_tag _ _ _, by decide +kernel⟩
theorem test_status_bad_parcel :
    (after (.status (plain [1])) (up baseWorld)).w.out = [.parcel 0x01 1 0 0 stBadParcel 0 []] := by decide +kernel

theorem witness_status : (up baseWorld).hears 0x01 (ownerParcel 0x01 []) none true := owner_heard _ _ _ _ (by decide +kernel) (by decide +kernel)
theorem witness_cap_query :
    let s := up (withPart { record := List.replicate 1072 0 })
    s.hears 0x02 (ownerParcel 0x02 []) none true ∧ (s.w.part 0).record.length ≤ 8192 :=
  ⟨owner_heard _ _ _ _ (by decide +kernel) (by decide +kernel), by decide +kernel⟩
theorem test_cap_query :
    let s : Machine.State := { up (withPart { record := [1, 2, 3] }) with sec := { mgcRunning := true } }
    (after (.capQuery (plain [])) s).w.out = [.parcel 0x02 1 0 0 0 0 [1, 2, 3]] := by decide +kernel

/-! ### Loading -/

/-- The section table and the sections of a small bundle: a catalogue of one tensor, no roles, no descriptors, no requirements. -/
def tinyTail : List Byte :=
  [(1, 0, 144), (2, 0, 144), (3, 96, 144), (8, 384, 240), (9, 0, 624)].flatMap
      (fun e : Nat × Nat × Nat => leBytes 4 e.1 ++ leBytes 4 e.2.1 ++ leBytes 8 e.2.2)
    ++ (leBytes 4 0 ++ leBytes 4 1 ++ List.replicate 24 0)
    ++ (leBytes 4 1 ++ leBytes 4 0xF0 ++ leBytes 8 4 ++ leBytes 4 2 ++ leBytes 4 2 ++ leBytes 4 1 ++ leBytes 4 1 ++ leBytes 4 0xFFFFFFFF
        ++ List.replicate 28 0)
    ++ List.replicate 384 0xFF
/-- A bundle that a module without a position accepts; its digest is SHAKE256 of what follows the header (R35). -/
def tinyBundle : List Byte :=
  leBytes 4 0x444E424D ++ leBytes 2 1 ++ leBytes 2 5 ++ leBytes 8 0 ++ leBytes 8 624 ++ List.replicate 8 0
    ++ leBytes 32 29696618644996637490629813482231856702998545308413520920189751051324741209570 ++ tinyTail
/-- A load session in partition 0. -/
def loading (job : JobState) (bytes : List Byte) (total : Nat) : Machine.State :=
  up (withPart { job := job, session := some { total := total, bytes := bytes }, good := [0], dies := [0, 1, 2, 3] })

theorem witness_load_begin :
    (up baseWorld).hears 0x10 (ownerParcel 0x10 (leBytes 8 624)) none true ∧ ((up baseWorld).w.part 0).job = .empty
      ∧ ((up baseWorld).w.part 0).session = none ∧ ((up (withPart { job := .loaded })).w.part 0).job ≠ .empty
      ∧ (up (withPart { job := .loaded })).hears 0x10 (ownerParcel 0x10 (leBytes 8 624)) none true :=
  ⟨owner_heard _ _ _ _ (by decide +kernel) (by decide +kernel), by decide +kernel, by decide +kernel, by decide +kernel,
    owner_heard _ _ _ _ (by decide +kernel) (by decide +kernel)⟩
/-- The last bytes of a load, at the next offset; and bytes at another. -/
theorem witness_load_data :
    let s := loading .empty [1, 2] 4
    let q := ownerParcel 0x11 (leBytes 8 2 ++ [3, 4])
    let q' := ownerParcel 0x11 (leBytes 8 3 ++ [3, 4])
    s.hears 0x11 q none true ∧ s.hears 0x11 q' none true ∧ (s.w.part 0).session = some { total := 4, bytes := [1, 2] }
      ∧ leAt q.payload 0 8 = 2 ∧ 2 + (q.payload.length - 8) ≤ 4 ∧ leAt q'.payload 0 8 ≠ 2 :=
  ⟨owner_heard _ _ _ _ (by decide +kernel) (by decide +kernel), owner_heard _ _ _ _ (by decide +kernel) (by decide +kernel), by decide +kernel,
    by decide +kernel, by decide +kernel, by decide +kernel⟩
theorem witness_load_end_good :
    let s := loading .empty tinyBundle 624
    s.hears 0x12 (ownerParcel 0x12 []) none true ∧ s.w.config.partition ≤ 7 ∧ (s.w.part 0).job = .empty
      ∧ bundleRefusal (s.w.loadEnv 0) false tinyBundle = none :=
  ⟨owner_heard _ _ _ _ (by decide +kernel) (by decide +kernel), by decide +kernel, by decide +kernel, by decide +kernel⟩
theorem witness_load_end_bad :
    let s := loading .empty [1] 1
    s.hears 0x12 (ownerParcel 0x12 []) none true ∧ bundleRefusal (s.w.loadEnv 0) false [1] = some (0x01, 0) ∧ s.w.forwards 2 :=
  ⟨owner_heard _ _ _ _ (by decide +kernel) (by decide +kernel), by decide +kernel, by unfold World.forwards; decide +kernel⟩
theorem witness_load_timeout :
    let s := loading .empty [1] 2
    s.inService = true ∧ (s.w.part 0).session = some { total := 2, bytes := [1] } ∧ s.w.forwards 2 := by unfold World.forwards; decide +kernel

/-! ### Jobs -/

/-- A module whose partition 0 has a job in a state. -/
def jobbed (j : JobState) : Machine.State := up (withPart { job := j, dies := [0, 1, 2, 3], good := [0, 1] })
theorem witness_start :
    (jobbed .loaded).hears 0x14 (ownerParcel 0x14 (leBytes 8 5)) none true ∧ ((jobbed .loaded).w.part 0).job = .loaded
      ∧ (jobbed .running).hears 0x14 (ownerParcel 0x14 (leBytes 8 5)) none true ∧ ((jobbed .running).w.part 0).job ≠ .loaded :=
  ⟨owner_heard _ _ _ _ (by decide +kernel) (by decide +kernel), by decide +kernel, owner_heard _ _ _ _ (by decide +kernel) (by decide +kernel),
    by decide +kernel⟩
theorem witness_stop :
    let q := ownerParcel 0x15 (leBytes 8 0)
    let q' := ownerParcel 0x15 (leBytes 8 1)
    (jobbed .running).hears 0x15 q none true ∧ leAt q.payload 0 1 = 0 ∧ (jobbed .running).hears 0x15 q' none true ∧ leAt q'.payload 0 1 = 1
      ∧ (jobbed .stopped).hears 0x15 q none true ∧ ((jobbed .stopped).w.part 0).job ≠ .running :=
  ⟨owner_heard _ _ _ _ (by decide +kernel) (by decide +kernel), by decide +kernel, owner_heard _ _ _ _ (by decide +kernel) (by decide +kernel),
    by decide +kernel, owner_heard _ _ _ _ (by decide +kernel) (by decide +kernel), by decide +kernel⟩
theorem witness_unload :
    (jobbed .stopped).hears 0x13 (ownerParcel 0x13 []) none true ∧ ((jobbed .stopped).w.part 0).job = .stopped
      ∧ (jobbed .running).hears 0x13 (ownerParcel 0x13 []) none true ∧ ((jobbed .running).w.part 0).job = .running :=
  ⟨owner_heard _ _ _ _ (by decide +kernel) (by decide +kernel), by decide +kernel, owner_heard _ _ _ _ (by decide +kernel) (by decide +kernel),
    by decide +kernel⟩
/-- RESTORE of step 6 from the store (SOURCE 1), and with a SOURCE that there is not. -/
theorem witness_restore :
    let q := ownerParcel 0x16 (leBytes 8 6 ++ leBytes 8 1)
    let q' := ownerParcel 0x16 (leBytes 8 6 ++ leBytes 8 2)
    (jobbed .stopped).hears 0x16 q none true ∧ q.partition = 0 ∧ ((jobbed .stopped).w.part 0).job = .stopped ∧ leAt q.payload 8 1 = 1
      ∧ (jobbed .stopped).w.uzo.restoreWait = none ∧ (jobbed .stopped).w.canSend = true ∧ (jobbed .loaded).hears 0x16 q none true
      ∧ ((jobbed .loaded).w.part 0).job ≠ .stopped ∧ (jobbed .stopped).hears 0x16 q' none true ∧ 1 < leAt q'.payload 8 1 :=
  ⟨owner_heard _ _ _ _ (by decide +kernel) (by decide +kernel), rfl, by decide +kernel, by decide +kernel, by decide +kernel, by decide +kernel,
    owner_heard _ _ _ _ (by decide +kernel) (by decide +kernel), by decide +kernel, owner_heard _ _ _ _ (by decide +kernel) (by decide +kernel),
    by decide +kernel⟩

/-! ### Job privilege, registers, windows, rings -/

/-- A Job key, and a tagged Job request. -/
def jobSecret : List Byte := List.replicate 32 9
def jobParcel (type : Nat) (payload : List Byte) : Parcel :=
  let q : Parcel := { flags := 2, privilege := 2, seq := 1, payload := payload }
  { q with kmac := kmac256 jobSecret (taggedBytes 0 type q) "MEORI-UZO" }
/-- What the module must be for a tagged Job parcel of partition 0 to be handled. -/
def hearsJob (s : Machine.State) : Bool :=
  s.linkLive && !s.sec.mgcHeld && !s.sec.recovery && decide (s.pwr.phase = .ready) && !s.w.uzo.training && s.sec.claimed
    && decide ((s.w.part 0).jobKey = some jobSecret) && decide (s.sec.bootId = 0) && (s.w.part 0).seqJob.isNone && decide (0 < s.w.partCount)
theorem job_heard (s : Machine.State) (type : Nat) (payload : List Byte) (hs : hearsJob s = true) (hm : jobMaySend type = true)
    (hp : parcelOk type { flags := 2, privilege := 2, seq := 1, payload := payload, kmac := List.replicate 32 0 } = true) :
    s.hears type (jobParcel type payload) (some 0) true := by
  simp only [hearsJob, Bool.and_eq_true, Bool.not_eq_true', decide_eq_true_eq, Option.isNone_iff_eq_none] at hs
  obtain ⟨⟨⟨⟨⟨⟨⟨⟨⟨hl, hh⟩, hr⟩, hph⟩, ht⟩, hc⟩, hk⟩, hb⟩, hq⟩, hn⟩ := hs
  have hok : parcelOk type (jobParcel type payload) = true := by
    unfold jobParcel; exact (parcelOk_kmac _ _ _ (kmac_length _ _ _)).trans hp
  have htag : tagOk 0 type (jobParcel type payload) jobSecret = true := by
    unfold tagOk jobParcel taggedBytes; simp
  refine ⟨hl, ?_, fun _ => hm, fun _ => hn⟩
  have h1 : s.verdict type (jobParcel type payload) = s.admitTagged type (jobParcel type payload) := by
    unfold State.verdict
    rw [if_neg (by simp [hh]), if_neg (by simp [hr]), if_neg (by simp [hph, ht]), if_neg (by simp [hok]), if_neg (by simp [hc]),
      if_pos ⟨by show bitAt 2 1 = true; decide, hc⟩]
  have h2 : (s.w.part (jobParcel type payload).partition.toNat).lastSeq (jobParcel type payload) = none := hq
  have h3 : (s.w.part (jobParcel type payload).partition.toNat).jobKey = some jobSecret := hk
  rw [h1]
  unfold State.admitTagged
  rw [if_neg (show ¬ (jobParcel type payload).privilege = 0 by show ¬ (2 : BitVec 8) = 0; decide)]
  simp only [show (jobParcel type payload).privilege.toNat = 2 from rfl, show ((2 : Nat) = 1) = False by decide, if_false, h2, h3, hb, htag]
  rfl

/-- The global address of a register of this module without a position. -/
def ownReg (a : Nat) : List Byte := leBytes 8 (3 * 2 ^ 62 + 0x3FFF * 2 ^ 48 + a)
/-- A module with a job that has a key. -/
def keyed : Machine.State := up (withPart { jobKey := some jobSecret, dies := [0, 1, 2, 3], good := [0, 1] })
/-- PWR_CAP is read by the Owner, and PWR_STATUS but not PWR_CAP by a Job. -/
theorem witness_reg_read :
    locate (addrOffset (leAt (ownReg (Block.pwr.addr 0 0x008)) 0 8)) = some (.pwr, 0, 0x008)
      ∧ addrSpace (leAt (ownReg (Block.pwr.addr 0 0x008)) 0 8) = 3 ∧ addrPosition (leAt (ownReg (Block.pwr.addr 0 0x008)) 0 8) = keyed.w.ownPosition
      ∧ keyed.hears 0x20 (ownerParcel 0x20 (ownReg (Block.pwr.addr 0 0x008))) none true ∧ keyed.w.mayRead none .pwr 0 0x008 = true
      ∧ keyed.hears 0x20 (jobParcel 0x20 (ownReg (Block.pwr.addr 0 0x008))) (some 0) true ∧ keyed.w.mayRead (some 0) .pwr 0 0x008 = false
      ∧ keyed.w.mayRead (some 0) .pwr 0 0x000 = true :=
  ⟨by decide +kernel, by decide +kernel, by decide +kernel, owner_heard _ _ _ _ (by decide +kernel) (by decide +kernel), by decide +kernel,
    job_heard _ _ _ (by decide +kernel) (by decide +kernel) (by decide +kernel), by decide +kernel, by decide +kernel⟩
theorem witness_reg_write :
    keyed.hears 0x21 (ownerParcel 0x21 (ownReg (Block.pwr.addr 0 0x008) ++ leBytes 8 30)) none true ∧ keyed.w.mayWrite none .pwr 0 0x008 = true
      ∧ keyed.hears 0x21 (jobParcel 0x21 (ownReg (Block.pwr.addr 0 0x008) ++ leBytes 8 30)) (some 0) true
      ∧ keyed.w.mayWrite (some 0) .pwr 0 0x008 = false ∧ keyed.inService = true :=
  ⟨owner_heard _ _ _ _ (by decide +kernel) (by decide +kernel), by decide +kernel, job_heard _ _ _ (by decide +kernel) (by decide +kernel) (by decide +kernel),
    by decide +kernel, by decide +kernel⟩
/-- A register of position 1, while injection is stopped. -/
theorem witness_remote_reg_write :
    let s := up { baseWorld with fab := { position := some 0, posTable := [(0, 0), (1, 1)], drain := { injecting := false } } }
    let b := leBytes 8 (3 * 2 ^ 62 + 1 * 2 ^ 48 + Block.pwr.addr 0 0x008) ++ leBytes 8 30
    s.hears 0x21 (ownerParcel 0x21 b) none true ∧ addrPosition (leAt b 0 8) ≠ s.w.ownPosition ∧ s.w.physicalOf (addrPosition (leAt b 0 8)) ≠ none
      ∧ s.w.canSend = false ∧ locate (addrOffset (leAt b 0 8)) = some (.pwr, 0, 8) :=
  ⟨owner_heard _ _ _ _ (by decide +kernel) (by decide +kernel), by decide +kernel, by decide +kernel, by decide +kernel, by decide +kernel⟩
theorem witness_register_definition : Block.pwr.regAt 0x008 ≠ none ∧ Block.cnt.regAt 0xFF8 = none := by decide +kernel
theorem test_register_write :
    (after (.registerWrite (Block.pwr.addr 0 0x008) 0xFFFF) (up baseWorld)).w.reg (Block.pwr.addr 0 0x008) = 0x3F := by decide +kernel

/-- A module with an open window 0 of 512 bytes at offset 256, and one with a ring of 2 entries in a window of 64 KiB. -/
def windowed (run : Bool) (dir : List DirEntry) : Machine.State :=
  up { withPart { jobKey := some jobSecret, dies := [0, 1, 2, 3], good := [0, 1], job := if run then .running else .empty, dir := dir } with
       uzo := { light := true, training := false
                windows := [(0, { open_ := true, read := true, write := true, job := true, offset := 256, length := 512 }),
                            (1, { open_ := true, read := false, write := false, offset := 0, length := 512 }),
                            (2, { open_ := true, read := true, write := true, job := true, offset := 0, length := 65536 })]
                rings := [(7, { configured := true, window := 2, entries := 2, offset := 0, head := 5 })] } }
theorem witness_dma_open :
    let p := fun (len : Nat) => leBytes 1 15 ++ leBytes 1 3 ++ leBytes 6 1 ++ leBytes 8 256 ++ leBytes 8 len
    (windowed false []).hears 0x30 (ownerParcel 0x30 (p (2 ^ 32 - 256))) none true ∧ 256 + (2 ^ 32 - 256) ≤ (windowed false []).w.hbmCapacity 0
      ∧ (windowed false []).hears 0x30 (ownerParcel 0x30 (p (2 ^ 32))) none true ∧ (windowed false []).w.hbmCapacity 0 < 256 + 2 ^ 32
      ∧ leAt (p 0) 0 1 < 16 :=
  ⟨owner_heard _ _ _ _ (by decide +kernel) (by decide +kernel), by decide +kernel, owner_heard _ _ _ _ (by decide +kernel) (by decide +kernel),
    by decide +kernel, by decide +kernel⟩
theorem witness_dma_close :
    (windowed false []).hears 0x31 (ownerParcel 0x31 (leBytes 8 0)) none true ∧ ((windowed false []).w.window 0).open_ = true :=
  ⟨owner_heard _ _ _ _ (by decide +kernel) (by decide +kernel), by decide +kernel⟩
/-- The last bytes of the window; and a window that allows no read. -/
theorem witness_dma_read :
    let p := fun (k : Nat) => leBytes 4 k ++ leBytes 4 2 ++ leBytes 8 510
    (windowed false []).hears 0x32 (ownerParcel 0x32 (p 0)) none true ∧ ((windowed false []).w.window 0).usable none = true
      ∧ ((windowed false []).w.window 0).read = true ∧ 510 + 2 ≤ ((windowed false []).w.window 0).length
      ∧ (windowed false []).hears 0x32 (ownerParcel 0x32 (p 1)) none true ∧ ((windowed false []).w.window 1).read = false
      ∧ (windowed false []).hears 0x32 (jobParcel 0x32 (p 0)) (some 0) true ∧ ((windowed false []).w.window 0).usable (some 0) = true :=
  ⟨owner_heard _ _ _ _ (by decide +kernel) (by decide +kernel), by decide +kernel, by decide +kernel, by decide +kernel,
    owner_heard _ _ _ _ (by decide +kernel) (by decide +kernel), by decide +kernel, job_heard _ _ _ (by decide +kernel) (by decide +kernel) (by decide +kernel),
    by decide +kernel⟩
theorem witness_dma_write :
    let p := fun (a : Nat) => leBytes 8 0 ++ leBytes 8 a ++ [1, 2]
    (windowed false []).hears 0x33 (ownerParcel 0x33 (p 510)) none true ∧ ((windowed false []).w.window 0).write = true
      ∧ ((windowed false []).w.part 0).dir = [] ∧ ((windowed false []).w.part 0).good.Nodup
      ∧ 256 + 510 + 2 ≤ (windowed false []).w.hbmCapacity 0 ∧ (∀ e ∈ (windowed false []).w.cores, e.2.axe.guards = [])
      ∧ (windowed false []).hears 0x33 (ownerParcel 0x33 (p 511)) none true ∧ ((windowed false []).w.window 0).length < 511 + 2 :=
  ⟨owner_heard _ _ _ _ (by decide +kernel) (by decide +kernel), by decide +kernel, by decide +kernel, by decide +kernel, by decide +kernel,
    by decide +kernel, owner_heard _ _ _ _ (by decide +kernel) (by decide +kernel), by decide +kernel⟩
/-- The window's last byte is the first of a table's current version. -/
theorem witness_dma_write_race :
    let s := windowed true [{ tensor := 1, base0 := 767, base1 := 4096, bytes := 256, records := 1, rowGrains := 1 }]
    s.hears 0x33 (ownerParcel 0x33 (leBytes 8 0 ++ leBytes 8 510 ++ [1, 2])) none true ∧ s.w.jobRuns 0 = true
      ∧ (s.w.currentHit 0 (256 + 510) 2).isSome = true :=
  ⟨owner_heard _ _ _ _ (by decide +kernel) (by decide +kernel), by decide +kernel, by decide +kernel⟩
/-- A ring of 2 slots fills a window of 64 KiB; a tail 3 beyond the head is out of range, and one at the head has nothing to handle. -/
theorem witness_ring_cfg :
    let p := [3, 2, 0, 0] ++ leBytes 4 2 ++ leBytes 8 0
    let s := windowed false []
    s.hears 0x34 (ownerParcel 0x34 p) none true ∧ (s.w.window 2).open_ = true ∧ (s.w.window 2).read = true ∧ (s.w.window 2).write = true
      ∧ (∃ e ≤ 12, leAt p 4 4 = 2 ^ e) ∧ 0 + 2 * 32768 ≤ (s.w.window 2).length :=
  ⟨owner_heard _ _ _ _ (by decide +kernel) (by decide +kernel), by decide +kernel, by decide +kernel, by decide +kernel, ⟨1, by decide +kernel⟩,
    by decide +kernel⟩
theorem witness_doorbell :
    let s := windowed false []
    let p := fun (n : Nat) => leBytes 4 7 ++ leBytes 4 n
    s.hears 0x40 (ownerParcel 0x40 (p 8)) none true ∧ (s.w.ring 7).entries < (8 + 2 ^ 32 - (s.w.ring 7).head) % 2 ^ 32
      ∧ s.hears 0x40 (ownerParcel 0x40 (p 5)) none true ∧ (s.w.ring 7).head = 5 ∧ (s.w.ring 7).configured = true
      ∧ (s.w.window (s.w.ring 7).window).open_ = true ∧ (s.w.window (s.w.ring 7).window).usable none = true :=
  ⟨owner_heard _ _ _ _ (by decide +kernel) (by decide +kernel), by decide +kernel, owner_heard _ _ _ _ (by decide +kernel) (by decide +kernel),
    by decide +kernel, by decide +kernel, by decide +kernel, by decide +kernel⟩
/-- An event record with a stamp. -/
def eventAt (stamp : Nat) : List Byte := leBytes 8 stamp ++ List.replicate 24 0
theorem witness_heartbeat :
    let s := up { baseWorld with uzo := { light := true, training := false, events := [eventAt 9, eventAt 3] } }
    s.portOpen ∧ s.sec.mgcRunning = true ∧ s.w.uzo.lost = 0 := by unfold State.portOpen; decide +kernel
theorem test_heartbeat :
    (after .eventsHeartbeat (up { baseWorld with uzo := { light := true, training := false, events := [eventAt 9, eventAt 3] } })).w.out
      = [.parcel 0x50 0 0 0 0 0 (eventAt 3 ++ eventAt 9)] := by decide +kernel
theorem witness_uzo_retrain : (up baseWorld).linkLive = true := by decide +kernel
theorem test_uzo_retrain : (after .uzoRetrain (up baseWorld)).w.counter .uzo 0 0x0B0 = BitVec.ofNat 64 (15 + (up baseWorld).w.uzoResent) := by
  show AMap.get 0 (AMap.upd 0 [] (Block.uzo.addr 0 0x0B0) (· + BitVec.ofNat 64 (15 + (up baseWorld).w.uzoResent))) _ = _
  rw [AMap.get_upd_self]; simp [AMap.get]
theorem witness_unknown_type : (up baseWorld).portOpen ∧ ∀ n, lengthOk (0x99 : BitVec 16).toNat n = false :=
  ⟨by unfold State.portOpen; decide +kernel, fun _ => rfl⟩

/-! ### Recipe store, keys, signer, watchdog -/

/-- A module with an RS session of `n` bytes in a region, `m` of them received. -/
def rsState (region n m : Nat) : Machine.State :=
  up { baseWorld with uzo := { light := true, training := false, rs := some { region := region, length := n, received := m } } }
theorem witness_rs_begin :
    let p := fun (r n : Nat) => leBytes 8 r ++ leBytes 8 n
    (up baseWorld).hears 0x60 (ownerParcel 0x60 (p 2 (regionSize 2))) none true ∧ (up baseWorld).w.uzo.rs = none
      ∧ (up baseWorld).hears 0x60 (ownerParcel 0x60 (p 0 0)) none true ∧ leAt (up baseWorld).sec.manifest 8 8 + 1 < 2 ^ 64 :=
  ⟨owner_heard _ _ _ _ (by decide +kernel) (by decide +kernel), by decide +kernel, owner_heard _ _ _ _ (by decide +kernel) (by decide +kernel),
    by decide +kernel⟩
theorem witness_rs_data :
    (rsState 1 4 2).hears 0x61 (ownerParcel 0x61 (leBytes 8 2 ++ [8, 9])) none true
      ∧ (rsState 1 4 2).w.uzo.rs = some { region := 1, length := 4, received := 2 } ∧ leAt (leBytes 8 2 ++ [8, 9]) 0 8 = 2 :=
  ⟨owner_heard _ _ _ _ (by decide +kernel) (by decide +kernel), by decide +kernel, by decide +kernel⟩
/-- An image of no bytes has no header (cause 2, R564). -/
theorem witness_rs_end :
    (rsState 1 4 4).hears 0x62 (ownerParcel 0x62 []) none true ∧ (rsState 0 0 0).hears 0x62 (ownerParcel 0x62 []) none true
      ∧ (rsState 0 0 0).sec.recovery = false ∧ (imageCause (shake256 []) [] [] 0).isSome = true :=
  ⟨owner_heard _ _ _ _ (by decide +kernel) (by decide +kernel), owner_heard _ _ _ _ (by decide +kernel) (by decide +kernel), by decide +kernel,
    by decide +kernel⟩
theorem witness_keys :
    let k := [3, 1, 3] ++ List.replicate 61 0
    (up baseWorld).hears 0x70 (ownerParcel 0x70 k) none true ∧ leAt k 0 1 < 4 ∧ leAt k 1 1 < 2 ∧ leAt k 2 1 < 4
      ∧ (up baseWorld).hears 0x71 (ownerParcel 0x71 (List.replicate 32 1)) none true
      ∧ (up baseWorld).hears 0x73 (ownerParcel 0x73 []) none true :=
  ⟨owner_heard _ _ _ _ (by decide +kernel) (by decide +kernel), by decide +kernel, by decide +kernel, by decide +kernel,
    owner_heard _ _ _ _ (by decide +kernel) (by decide +kernel), owner_heard _ _ _ _ (by decide +kernel) (by decide +kernel)⟩
theorem witness_claim :
    let s : Machine.State := { up baseWorld with sec := { mgcRunning := true } }
    s.hears 0x72 (plain (List.replicate 32 5)) none false ∧ s.sec.claimed = false := by
  unfold State.hears; decide +kernel
/-- Firmware of major version 2 and a floor of 1: 2 may be the new floor, 3 and 0 may not. -/
def floored : Machine.State := { up baseWorld with sec := { claimedSec with fwVersion := 0x02000000, rollbackFloor := ({} : MramRecord).write [1] } }
theorem witness_floor :
    floored.hears 0x74 (ownerParcel 0x74 (leBytes 8 2)) none true ∧ floored.sec.floor = 1 ∧ bitsAt floored.sec.fwVersion.toNat 24 8 = 2
      ∧ floored.hears 0x74 (ownerParcel 0x74 (leBytes 8 3)) none true ∧ floored.hears 0x74 (ownerParcel 0x74 (leBytes 8 0)) none true :=
  ⟨owner_heard _ _ _ _ (by decide +kernel) (by decide +kernel), by decide +kernel, by decide +kernel,
    owner_heard _ _ _ _ (by decide +kernel) (by decide +kernel), owner_heard _ _ _ _ (by decide +kernel) (by decide +kernel)⟩
theorem test_claim :
    let s : Machine.State := { up baseWorld with sec := { mgcRunning := true } }
    (after (.claim (plain (List.replicate 32 5))) s).sec.ownerKey = List.replicate 32 5 := by decide +kernel

/-- A security die some ns after boot step 1, with indexes and a request that waits. -/
def signing (timer next reserved : Nat) (q : List SignReq) : Machine.State :=
  { up baseWorld with sec := { claimedSec with timer := timer, nextIndex := next, xmss := ({} : MramRecord).write (leBytes 8 reserved), credits := 1
                                               signQueue := q } }
theorem witness_attest :
    (signing 10000000000 5 1024 []).hears 0x03 (ownerParcel 0x03 (List.replicate 32 0)) none true ∧ (signing 10000000000 5 1024 []).sec.exhausted = false
      ∧ (signing 9999999999 5 1024 []).hears 0x03 (ownerParcel 0x03 (List.replicate 32 0)) none true
      ∧ (signing 10000000000 (2 ^ 40) (2 ^ 40) []).hears 0x03 (ownerParcel 0x03 (List.replicate 32 0)) none true
      ∧ (signing 10000000000 (2 ^ 40) (2 ^ 40) []).sec.exhausted = true :=
  ⟨owner_heard _ _ _ _ (by decide +kernel) (by decide +kernel), by decide +kernel, owner_heard _ _ _ _ (by decide +kernel) (by decide +kernel),
    owner_heard _ _ _ _ (by decide +kernel) (by decide +kernel), by decide +kernel⟩
theorem witness_signature :
    let s := signing 10000000000 1023 1024 [.attest [1] none (plain [])]
    let s' := signing 10000000000 1024 1024 [.attest [1] none (plain [])]
    s.pwr.phase ≠ .off ∧ s.sec.credits ≠ 0 ∧ s.sec.nextIndex ≠ s.sec.reservedEnd ∧ s'.sec.nextIndex = s'.sec.reservedEnd ∧ s'.sec.reservedEnd < 2 ^ 40
      ∧ s'.pwr.failSeq = none ∧ s'.w.forwards 0 := by unfold World.forwards; decide +kernel
theorem witness_signature_in_power_fail :
    let s : Machine.State := { signing 10000000000 1024 1024 [.attest [1] none (plain [])] with pwr := { phase := .ready, failSeq := some [1] } }
    s.pwr.phase ≠ .off ∧ s.sec.nextIndex = s.sec.reservedEnd ∧ s.pwr.failSeq ≠ none ∧ s.sec.reservedEnd < 2 ^ 40 := by decide +kernel
theorem test_reserve : (after .signatureRequest (signing 10000000000 1024 1024 [.attest [1] none (plain [])])).sec.reservedEnd = 2048 := by decide +kernel

/-- A watchdog at its limit, with expiries within the last 600 s. -/
def watched (e : List Nat) : Machine.State := { up baseWorld with sec := { claimedSec with timer := 10000000000, expiries := e } }
theorem witness_watchdog :
    (watched []).pwr.phase ≠ .off ∧ (watched []).sec.mgcRunning = true ∧ (watched []).sec.mgcHeld = false
      ∧ (watched []).sec.lastKick + max 100 ((watched []).w.regField (Block.mgc.addr 0 0x000) 0 16) * 1000000 ≤ (watched []).sec.timer
      ∧ (watched []).w.forwards 2 ∧ 2 ≤ (watched [1, 2]).sec.recentExpiries := by unfold World.forwards; decide +kernel
theorem test_watchdog_holds : (after .mgcWatchdogExpiry (watched [1, 2])).sec.mgcHeld = true ∧ (after .mgcWatchdogExpiry (watched [1])).sec.mgcHeld = false := by
  decide +kernel

/-! ### Sequencers, dispatch, synchronisation (witnesses of `PlainCommandsAdvanceSequencer` to `RunsAndSequencerControl`) -/

/-- The job of partition 0 with its bundle, and a module in which it runs on every die. -/
def runPart (b : Bundle) : Part := { job := .running, running := true, dies := [0, 1, 2, 3], good := [0, 1], bundle := some b }
def runWorld (b : Bundle) (cores : AMap Core) : World := { withPart (runPart b) with cores := cores }
def busy (cores : AMap Core) : Machine.State := up (runWorld {} cores)
/-- A core at a command. -/
def atWork : Core := { seq := .running, pc := 10, role := 1, ended := false, slot := [0, 7] }

theorem witness_sequencer_ready :
    (busy [(383, atWork)]).inService = true ∧ (busy [(383, atWork)]).w.seqReady 383 = true ∧ atWork.condition 15 = true ∧ atWork.condition 3 ≠ true
      ∧ (atWork.slot.getD 0 0).toNat % 2 ^ 24 = 0 ∧ (busy [(383, atWork)]).w.forwards 0 ∧ (5 : BitVec 24) ≠ 0 := by
  unfold World.forwards; decide +kernel
/-- A loop whose body ends here, in its last but one pass and in its last. -/
theorem witness_loop_end :
    let l : LoopCtr := { value := 1, count := 3, start := 4, endPc := 10, active := true }
    let x := { atWork with loops := [(2, l)] }
    x.loops = [(2, l)] ∧ l.active = true ∧ l.endPc = x.pc ∧ l.value + 1 < l.count ∧ { l with value := 2 }.count ≤ { l with value := 2 }.value + 1
      ∧ ∀ l ∈ atWork.loops, ¬ (l.2.active = true ∧ l.2.endPc = atWork.pc) := by decide +kernel
theorem test_nop : (after (.nop 383) (busy [(383, atWork)])).w.core 383 = { atWork with pc := 11 } := by decide +kernel
theorem test_setcc : ((after (.setcc 383 0x41 0x7F) (busy [(383, atWork)])).w.core 383).cc = 0x4100 := by decide +kernel
theorem test_branch : ((after (.branch 383 15 true 77) (busy [(383, atWork)])).w.core 383).pc = 77
    ∧ ((after (.branch 383 3 true 77) (busy [(383, atWork)])).w.core 383).pc = 11 := by decide +kernel
theorem test_loop_of_none : ((after (.loop 383 0 5 20 true 0) (busy [(383, atWork)])).w.core 383).pc = 21 := by decide +kernel

/-- ISSUE with room in every queue and with a full one. -/
theorem witness_issue :
    let o : IssuedOp := {}
    let s := busy [(0, atWork)]
    let s' := busy [(0, { atWork with axe := { pending := List.replicate 16 o }, mxe := { pending := List.replicate 17 o } })]
    s.inService = true ∧ s.w.seqReady 0 = true ∧ (∀ e ∈ [Engine.axe, .mxe, .vxe, .gsu, .suq, .smp], s.w.engineRoom 0 e = true)
      ∧ s'.inService = true ∧ s'.w.seqReady 0 = true ∧ s'.w.engineRoom 0 .axe = false ∧ s'.w.engineRoom 0 .mxe = false := by decide +kernel
theorem witness_wait :
    let s := busy [(0, { atWork with watches := [(47, 9)] })]
    s.inService = true ∧ s.w.seqReady 0 = true ∧ watchHolds 0 (AMap.get 0 (s.w.core 0).watches 47) 9 = true
      ∧ watchHolds 0 (AMap.get 0 (s.w.core 0).watches 47) 10 = false ∧ (s.w.core 0).item = none := by decide +kernel
theorem test_wait : ((after (.wait 0 47 0 false 0 10) (busy [(0, atWork)])).w.core 0).seq = .watchWait := by decide +kernel

theorem witness_watch_wake :
    let s := busy [(0, { atWork with watches := [(47, 9)], waitReg := some (47, 2, 8), wake := true, seq := .watchWait, held := some .watch })]
    s.inService = true ∧ s.w.coreLive 0 = true ∧ (s.w.core 0).waitReg ≠ none ∧ (s.w.core 0).wake = true := by decide +kernel
/-- An addition that made an equality hold wakes the sequencer, though a further one came before it went on (R355). -/
theorem test_watch_latched :
    let s := busy [(0, atWork), (5, { atWork with waitReg := some (47, 1, 2), seq := .watchWait, held := some .watch })]
    ((after (.watchWake 5) (after (.signal 0 false 5 47 1 0) (after (.signal 0 false 5 47 2 0) s))).w.core 5).pc = 11 := by decide +kernel
theorem witness_fence_complete :
    let s := busy [(0, { atWork with held := some (.fence 5), seq := .fenceWait, live := [5], serial := 6 })]
    s.w.coreLive 0 = true ∧ (s.w.core 0).held = some (.fence 5) ∧ s.w.fenceMet 0 5 = true := by decide +kernel
theorem witness_end_drained :
    let s := busy [(0, { atWork with held := some .ending, seq := .fenceWait })]
    s.inService = true ∧ s.w.coreLive 0 = true ∧ (s.w.core 0).held = some .ending ∧ (s.w.core 0).drained = true := by decide +kernel
/-- A module that holds position 0 of two. -/
def placed : World := { runWorld {} [(0, atWork)] with fab := { position := some 0, posTable := [(0, 0), (1, 1)] } }
theorem witness_signal :
    (up placed).inService = true ∧ (up placed).w.seqReady 0 = true ∧ (up placed).w.isOwn 1 = false ∧ (up placed).w.physicalOf 1 ≠ none
      ∧ (up placed).w.canSend = true := by decide +kernel
theorem test_signal : AMap.get 0 ((after (.signal 0 false 5 47 0xFFFF 0) (busy [(0, atWork), (5, { watches := [(47, 2)] })])).w.core 5).watches 47 = 0x10001 := by
  decide +kernel

/-- Die barrier 3 of cluster 0 with members 0 and 1. -/
def barred (a : Nat) (b : Bar) : Machine.State :=
  up { runWorld {} [(0, { atWork with ahead := [(dieBarKey 0 3, a)] }), (1, { atWork with ahead := [(dieBarKey 0 3, 1)] })] with bars := [(dieBarKey 0 3, b)] }
theorem witness_barrier :
    let b : Bar := { cur := 1, next := 1, expected := 2, members := [0, 1] }
    (∀ a ∈ [0, 1, 2], (barred a b).inService = true ∧ (barred a b).w.seqReady 0 = true ∧ AMap.get 0 ((barred a b).w.core 0).ahead (dieBarKey 0 3) = a
      ∧ (barred a b).w.bar (dieBarKey 0 3) = b) ∧ b.members.Nodup ∧ 0 ∈ b.members ∧ b.cur + 1 = b.expected ∧ b.next < b.expected
      ∧ { b with next := 2 }.next = b.expected ∧ { b with cur := 0 }.cur + 1 < b.expected ∧ (barred 0 b).w.treeBar 0 (dieBarKey 0 3) = false := by
  decide +kernel
theorem witness_domain_barrier :
    let s := up { placed with dbars := [(15, { expected := 1, members := [0] })] }
    s.inService = true ∧ s.w.seqReady 0 = true ∧ s.w.treeBar 0 (domBarKey 0 15) = true ∧ (s.w.bar (domBarKey 0 15)).reported = false
      ∧ (s.w.bar (domBarKey 0 15)).cur + 1 = (s.w.bar (domBarKey 0 15)).expected ∧ AMap.get 0 (s.w.core 0).ahead (domBarKey 0 15) = 0 := by decide +kernel
theorem test_barrier : (after (.barrier 0 false true 0 3) (barred 0 { cur := 1, next := 1, expected := 2, members := [0, 1] })).w.bar (dieBarKey 0 3)
    = { gen := true, cur := 1, next := 0, expected := 2, members := [0, 1], rounds := 1 } := by decide +kernel

/-- Flow 1023 of die 3 for service 14, flow 1022 for samplers. -/
def flowOf : FlowDef := { flow := 1023, service := 14, window := 2, count := 3, releaseCore := some 383, releaseWatch := some 47 }
def smpFlow : FlowDef := { flow := 1022, sampler := true, window := 2, count := 3 }
/-- The flows in a state, with items on the ready list of die 3. -/
def flowing (f : Flow) (ready : List Ready) (x : Core) : Machine.State :=
  up { runWorld { flows := [flowOf, smpFlow] } [(383, x)] with flows := [(1023, f), (1022, f)], dies := [(3, { ready := ready })] }
theorem witness_item_admit :
    let s := flowing { active := true, count := 3, admitted := 1 } [] atWork
    s.inService = true ∧ s.w.flowDef (s.w.partOfFlow 1023) 1023 = some flowOf ∧ s.w.canAdmit (s.w.partOfFlow 1023) flowOf = true := by decide +kernel
theorem witness_work_dispatch :
    let r : Ready := { flow := 1023, seq := 2, payload := [1] }
    let x : Core := { atWork with held := some (.getWork 0x4000), seq := .workWait }
    let s := flowing { active := true, count := 3, admitted := 3 } [r] x
    let s' := flowing { active := true, count := 3, admitted := 3, dispatched := 3 } [] x
    s.inService = true ∧ s.pwr.withheld = false ∧ (s.w.core 383).held = some (.getWork 0x4000) ∧ s.w.coreLive 383 = true ∧ (0x4000 : BitVec 16) ≠ 0x8000
      ∧ s.w.pickItem 0 3 (coreTakes 0x4000) = some r ∧ s'.w.pickItem 0 3 (coreTakes 0x4000) = none ∧ s'.w.allDrained 0 3 (coreTakes 0x4000) = true := by
  decide +kernel
theorem witness_sampler_dispatch :
    let r : Ready := { flow := 1022, seq := 2, payload := [1] }
    let s := flowing { active := true, count := 3, admitted := 3 } [r] atWork
    s.inService = true ∧ s.pwr.withheld = false ∧ s.w.clusterLive 47 = true ∧ (s.w.cluster 47).smp.item = none ∧ (s.w.cluster 47).smp.run = none
      ∧ (s.w.cluster 47).smp.faulted = false
      ∧ s.w.pickItem (s.w.partOfCluster 47) (dieOfCluster 47) samplerTakes = some r := by decide +kernel
theorem witness_complete :
    let s := flowing { active := true, count := 3, admitted := 3, dispatched := 3, head := 1 } [] { atWork with item := some { flow := 1023, seq := 2 } }
    s.inService = true ∧ s.w.seqReady 383 = true ∧ (s.w.core 383).item = some { flow := 1023, seq := 2 } ∧ flowOf.collect = false
      ∧ flowOf.resultBase = none ∧ s.w.flowDef (s.w.partOfFlow 1023) 1023 = some flowOf := by decide +kernel
theorem witness_item_complete :
    let s := flowing { active := true, count := 3, admitted := 3, dispatched := 3, head := 1, finished := [1, 2] } [] atWork
    s.inService = true ∧ s.w.flowDef (s.w.partOfFlow 1023) 1023 = some flowOf ∧ 1 ∈ (s.w.flow 1023).finished ∧ 2 ∈ (s.w.flow 1023).finished
      ∧ s.w.jobRuns (s.w.partOfFlow 1023) = true ∧ (s.w.flow 1023).complete = [] ∧ (s.w.flow 1023).head = 1 ∧ (s.w.flow 1023).head ≠ 2 := by decide +kernel
theorem witness_collect :
    let r : CollectRec := { flow := 1023, seq := 1, result := 9, core := 300 }
    let s := up { runWorld {} [(383, { atWork with held := some (.getWork 0x8000), seq := .workWait })] with dies := [(3, { collect := [r] })] }
    s.inService = true ∧ (s.w.core 383).held = some (.getWork 0x8000) ∧ s.w.coreLive 383 = true ∧ s.pwr.withheld = false
      ∧ (s.w.die (dieOfCore 383)).collect = [r] ∧ (s.w.core r.core).held.isSome = decide (r.core = 383) := by decide +kernel
theorem test_item_complete :
    let s := flowing { active := true, count := 3, admitted := 3, dispatched := 3, head := 1, finished := [1, 2] } [] atWork
    ((after (.itemComplete 1023 2) s).w.flow 1023).head = 1 ∧ ((after (.itemComplete 1023 1) (after (.itemComplete 1023 2) s)).w.flow 1023).head = 3 := by
  decide +kernel

theorem witness_run_start :
    let s := up { withPart { runPart {} with running := false, due := some false } with cores := [(0, { atWork with entryPc := 4 })], hop := { applied := 1 } }
    s.inService = true ∧ s.w.jobRuns 0 = true ∧ (s.w.part 0).running = false ∧ (s.w.part 0).due = some false ∧ s.w.hop.applied ≠ 0
      ∧ ((s.w.part 0).bundle.elim [] (·.flows)) = [] ∧ (s.w.core 0).role ≠ 0x7F ∧ (s.w.core 0).seq ≠ .faulted ∧ (s.w.core 0).stop = false
      ∧ 0 ∈ s.w.coresOf 0 := by decide +kernel
theorem get_one {α : Type} (d v : α) (q : α → Prop) (hd : q d) (hv : q v) (c : Nat) : q (AMap.get d [(0, v)] c) := by
  simp only [AMap.get]; split <;> assumption
theorem witness_run_start_items :
    let s := up { withPart { runPart {} with running := false, due := some false } with cores := [(0, { atWork with entryPc := 4 })], hop := { applied := 1 } }
    ∀ c, (s.w.core c).item = none :=
  fun c => get_one ({} : Core) { atWork with entryPc := 4 } (fun x => x.item = none) rfl rfl c
theorem witness_operation_done :
    let x : Engine × IssuedOp := (.mxe, { serial := 4, done := some 47 })
    let s := busy [(0, { atWork with doneOps := [x], live := [4] })]
    s.inService = true ∧ ((s.w.core 0).doneOps.find? fun y => decide (y.1 = Engine.mxe)) = some x ∧ x.2.done = some 47 ∧ s.w.coreLive 0 = true
      ∧ s.w.opUnacked 0 4 .mxe = false ∧ ∀ d ∈ clusterCores 0, (s.w.core d).held = none := by decide +kernel
theorem witness_deadlock :
    let s : Machine.State := { up { runWorld {} [(0, atWork)] with regs := [(Block.uzo.addr 0 0x008, 1), (Block.disp.addr 0 0x000, 1000)] } with
      sid := { now := 1000000000 } }
    s.inService = true ∧ s.w.armed 0 = true ∧ s.w.deadlockMs 0 = 1000 ∧ s.w.deadlockMs 0 ≠ 0
      ∧ (s.w.part 0).progress + s.pwr.withheldPart s.sid.now (s.w.part 0).progress + s.w.deadlockMs 0 * 1000000 ≤ s.sid.now ∧ s.w.forwards 3 := by
  unfold World.forwards; decide +kernel
theorem witness_single_step :
    let s := busy [(0, { atWork with stop := true, seq := .stopped })]
    s.inService = true ∧ (s.w.core 0).stop = true ∧ (s.w.core 0).seq = .stopped ∧ s.w.coreLive 0 = true ∧ s.w.throttled (coreSource 0 0) = false := by
  decide +kernel
theorem test_operation_done :
    let s := busy [(0, { atWork with doneOps := [(.mxe, { serial := 4, done := some 47 })], live := [4] })]
    AMap.get 0 ((after (.operationDone 0 .mxe) s).w.core 0).watches 47 = 1 := by decide +kernel

/-- Command words written out from the tables of R52, R54, R56, R58, R59 and R365 to R370. -/
theorem test_command_words :
    mcfInstr 5 (0x01 * 2 ^ 58 + 2 * 2 ^ 55 + 2047 * 2 ^ 44 + 7 * 2 ^ 41 + 47 * 2 ^ 35) = some (.issue 5 .vxe 2047 7 (some 47))
      ∧ mcfInstr 5 (0x01 * 2 ^ 58 + 5 * 2 ^ 55 + 1 * 2 ^ 44 + 63 * 2 ^ 35) = some (.issue 5 .smp 1 0 none)
      ∧ mcfInstr 5 (0x02 * 2 ^ 58 + 7 * 2 ^ 55 + 16777215 * 2 ^ 31 + 8191 * 2 ^ 18 + 1 * 2 ^ 17 + 6 * 2 ^ 14) = some (.loop 5 7 16777215 8191 true 6)
      ∧ mcfInstr 5 (0x03 * 2 ^ 58 + 15 * 2 ^ 54 + 1 * 2 ^ 53 + 4096 * 2 ^ 40) = some (.branch 5 15 true 4096)
      ∧ mcfInstr 5 (0x04 * 2 ^ 58 + 64 * 2 ^ 51 + 65 * 2 ^ 44) = some (.setcc 5 64 65)
      ∧ mcfInstr 5 (0x10 * 2 ^ 58 + 255 * 2 ^ 50 + 4294967295) = some (.raise 5 255 4294967295) ∧ mcfInstr 5 (0x11 * 2 ^ 58) = some (.end_ 5)
      ∧ mcfInstr 5 0 = some (.nop 5) := by decide +kernel
theorem test_dispatch_words :
    mcfInstr 5 (0x08 * 2 ^ 58 + 0x8000 * 2 ^ 42) = some (.getWork 5 0x8000) ∧ mcfInstr 5 (0x09 * 2 ^ 58 + 1 * 2 ^ 57 + 7 * 2 ^ 54) = some (.complete 5 true 7)
      ∧ mcfInstr 5 (0x0A * 2 ^ 58 + 47 * 2 ^ 52 + 2 * 2 ^ 50 + 1 * 2 ^ 49 + 3 * 2 ^ 46 + 9) = some (.wait 5 47 2 true 3 9)
      ∧ mcfInstr 5 (0x0B * 2 ^ 58 + 1 * 2 ^ 57 + 383 * 2 ^ 48 + 1 * 2 ^ 42 + 65535 * 2 ^ 26 + 3 * 2 ^ 12) = some (.signal 5 true 383 1 65535 3)
      ∧ mcfInstr 5 (0x0C * 2 ^ 58) = some (.fence 5) ∧ mcfInstr 5 (0x0D * 2 ^ 58 + 1 * 2 ^ 56 + 11 * 2 ^ 52 + 63 * 2 ^ 46) = some (.barrier 5 false true 11 63)
      ∧ mcfInstr 5 (0x0D * 2 ^ 58 + 1 * 2 ^ 57 + 15 * 2 ^ 46) = some (.barrier 5 true false 0 15) ∧ mcfInstr 5 (0x05 * 2 ^ 58) = none := by decide +kernel

/-! ### Engines of a core (witnesses of `MxeComputesAndWritesTiles` to `AxeStreamsMoveTiles`) -/

/-- A descriptor of `n` bytes with fields (offset, bytes, value), from low to high offsets. -/
def desc (n : Nat) (fs : List (Nat × Nat × Nat)) : List Byte :=
  fs.foldl (fun bs f => bs.take f.1 ++ leBytes f.2.1 f.2.2 ++ bs.drop (f.1 + f.2.1)) (List.replicate n 0)
/-- Where no core of a cluster is held, none is held by an ISSUE. -/
theorem no_held_issue (w : World) (c : Nat) (h : ∀ x ∈ clusterCores c, (w.core x).held = none) : w.noHeldIssue c :=
  fun x hx e o => by rw [h x hx]; exact fun h => nomatch h
/-- A module whose core 0 has a descriptor 0. -/
def engineState (d : List Byte) (tun : Memory) (x : Core) : Machine.State :=
  up { runWorld { descs := [(0, [], [d])], tensors := [{ id := 1, recipe := { format := 2 }, elements := 1, dims := [1] }] } [(0, x)] with tun := tun }
/-- Whether a fetch, or a check of a tile, gives something. -/
def gives {α : Type} : Except Nat α → Bool
  | .ok _ => true
  | .error _ => false
/-- The stored bytes of a tile of one element of a 16-bit format (form 3, R158). -/
def tileOfOne (format code : Nat) : List Byte :=
  [BitVec.ofNat 8 format, 3, 0, 0, 1, 0, 176, 0, 1] ++ List.replicate 9 0 ++ (List.range 64).flatMap (fun _ => [1, 0]) ++ List.replicate 14 0 ++ List.replicate 16 0
    ++ leBytes 2 code ++ List.replicate 14 0
/-- A tile at address 256 and one at 1024. -/
def twoTiles : Memory := (({} : Memory).write 256 (tileOfOne 2 0x3E00)).write 1024 (tileOfOne 2 0x4000)
def entryAt (a : Nat) : QEntry := { handle := makeHandle a 1 1 2 0 }
/-- The handle at the head of queue 1 is for A, that of queue 2 for B. -/
def mxeState (run : MxeRun) : Machine.State :=
  engineState (desc 64 [(1, 1, 2), (4, 1, 1), (5, 1, 2), (7, 1, 3), (8, 2, 1), (10, 2, 1), (12, 2, 1), (16, 4, 1), (24, 4, 4096)]) twoTiles
    { atWork with queues := [(1, [entryAt 256]), (2, [entryAt 1024])], mxe := { run := some run } }
theorem witness_mxe_step :
    let s := mxeState {}
    let d := s.w.descOf 0 0
    s.inService = true ∧ s.w.coreLive 0 = true ∧ (s.w.core 0).mxe.run = some {} ∧ 0 < mxeTiles d * mxeK d ∧ mxeStep (mxeTiles d) (mxeK d) 0 = (0, 0)
      ∧ mxeCIn d = false ∧ s.w.heads 0 [leAt d 4 1, leAt d 5 1] = some [entryAt 256, entryAt 1024] ∧ leAt d 4 1 ≠ leAt d 5 1 := by
  decide +kernel
/-- One queue that holds both operands (R119). -/
theorem witness_mxe_one_queue :
    let s := engineState (desc 64 [(1, 1, 2), (4, 1, 1), (5, 1, 1), (7, 1, 3), (8, 2, 1), (10, 2, 1), (12, 2, 1), (16, 4, 1), (24, 4, 4096)]) twoTiles
      { atWork with queues := [(1, [entryAt 256, entryAt 1024])], mxe := { run := some {} } }
    s.w.heads 0 [leAt (s.w.descOf 0 0) 4 1, leAt (s.w.descOf 0 0) 5 1] = some [entryAt 256, entryAt 1024]
      ∧ (s.w.core 0).mxe.faulted = false ∧ ((after (.mxeKStep 0) s).w.core 0).queues = [] := by decide +kernel
theorem witness_mxe_operands :
    (gives ((mxeState {}).w.operand 0 (fun _ _ => true) (entryAt 256))
      && gives ((mxeState {}).w.operand 0 (fun _ j => (entryAt 256).agrees handleCols j && true) (entryAt 1024))) = true
      ∧ (entryAt 256).predicted = false ∧ (entryAt 1024).predicted = false := by decide +kernel
theorem witness_mxe_writeback :
    let x : AccTile := { t := 0, k := 1, rows := 1, cols := 1, acc := [(0, some 0)] }
    let run : MxeRun := { stepNo := 1, finished := [x] }
    let s := mxeState run
    s.inService = true ∧ s.w.coreLive 0 = true ∧ (s.w.core 0).mxe.faulted = false ∧ (s.w.core 0).mxe.run = some run ∧ run.op.core = 0
      ∧ (run.finished.find? fun y => decide (y.t = run.written)) = some x ∧ x.guesses = [] ∧ (s.w.tensor (s.w.partOfCore 0) 1).isSome = true
      ∧ mxeTensor (s.w.descOf 0 0) = 1 ∧ mxeOutPush (s.w.descOf 0 0) = true ∧ s.w.queueFull 0 3 = false ∧ run.written + 1 = mxeTiles (s.w.descOf 0 0) := by
  decide +kernel
/-- A relay of 2 tiles from queue 1 to queue 4 that has predicted tile 0. -/
theorem witness_zero_predict_verify :
    let r : AxeRun := { count := 1, predicted := [0] }
    let s := engineState (desc 64 [(1, 1, 3), (2, 1, 1), (3, 1, 4), (20, 4, 2), (51, 1, 1)]) twoTiles
      { atWork with queues := [(1, [entryAt 256])], axe := { streams := [r] } }
    s.inService = true ∧ s.w.coreLive 0 = true ∧ (s.w.core 0).axe.faulted = false ∧ s.w.stream 0 0 = some r ∧ r.predicted = 0 :: []
      ∧ s.w.head 0 (axeSrcQueue (s.w.descOf 0 0)) = some (entryAt 256) ∧ axeSrcQueue (s.w.descOf 0 0) ≠ axeQueue (s.w.descOf 0 0)
      ∧ gives (s.w.takeTile 0 mxeReads (fun _ _ => true) (entryAt 256).handle) = true ∧ s.w.guessers 0 0 0 = [] ∧ s.w.axeEnded 0 r = false := by
  decide +kernel
/-- A prediction that a K step took: the real tile has the shape of the step's other operand. -/
theorem witness_guess_taken :
    let g : QEntry := { entryAt 256 with predicted := true, stream := some 0, emission := 0 }
    let z : AccTile := { t := 0, k := 1, rows := 1, cols := 1, taken := [(g, entryAt 1024)], images := [([], [])], guesses := [(0, 0)] }
    (z.resolve 0 0 (entryAt 256) []).shapeFault = none ∧ (z.resolve 0 0 (entryAt 256) []).guesses = [] := by decide +kernel

/-- A VXE operation of an OP on core 0 (more fields follow). -/
def vxeState (op : Nat) (fs : List (Nat × Nat × Nat)) (tun : Memory) (queues : AMap (List QEntry)) (run : VxeRun) : Machine.State :=
  engineState (desc 64 ((1, 1, op) :: fs)) tun { atWork with queues := queues, vxe := { run := some run, vregs := [(0, 0x400000003F800000), (1, 5)] } }
theorem witness_vxe_end :
    let run : VxeRun := { offsetsDone := true }
    ∀ op < 8, let s := vxeState op [] [] [] run
      s.inService = true ∧ s.w.coreLive 0 = true ∧ (s.w.core 0).vxe.faulted = false ∧ (s.w.core 0).vxe.run = some run ∧ run.op.core = 0
        ∧ vxeOp (s.w.descOf 0 run.op.desc) = op ∧ vxeM (s.w.descOf 0 0) * vxeN (s.w.descOf 0 0) * vxeK (s.w.descOf 0 0) ≤ run.stepNo
        ∧ (∀ x ∈ clusterCores 0, (s.w.core x).held = none)
        ∧ (op ≠ 2 → op ≠ 3 → s.w.vxeConsumed 0 run = true) ∧ run.offsetsDone = true ∧ run.offsets.length - 1 ≤ 64 * run.outTiles := by decide +kernel
/-- Two elements from register 0 to register 2, or, of OP 4, one tile. -/
theorem witness_vxe_registers :
    ∀ op ∈ [0, 4, 5, 7], let s := vxeState op [(4, 1, if op = 5 then 0x21 else 0x20), (5, 1, 0x10), (7, 1, 0x22), (12, 4, if op = 4 then 0x10001 else 2), (24, 4, 0xFFFFFFFF)] [] [] {}
      s.inService = true ∧ s.w.coreLive 0 = true ∧ (s.w.core 0).vxe.run = some {} ∧ vxeOp (s.w.descOf 0 0) = op ∧ s.w.vxeConsumed 0 {} = false
        ∧ (∀ x ∈ clusterCores 0, (s.w.core x).held = none) ∧ (op = 5 → ∀ p ∈ s.w.vxeIndexed 0 {}, (s.w.vxeIndex 0 {} p + 1) * 4 ≤ leAt (s.w.descOf 0 0) 24 4)
        ∧ 0x20 ≤ vxeSrcA (s.w.descOf 0 0) ∧ 0x10 ≤ vxeSrcB (s.w.descOf 0 0) ∧ vxeToReg (s.w.descOf 0 0) = true := by decide +kernel
/-- The first of two steps (K_TILES 2) of one output tile. -/
theorem witness_vxe_matrix :
    ∀ op ∈ [2, 3], let s := vxeState op [(4, 1, 1), (5, 1, 2), (6, 1, 0x10), (12, 4, 0x10001), (28, 4, 2)] twoTiles [(1, [entryAt 256]), (2, [entryAt 1024])] {}
      let d := s.w.descOf 0 0
      s.inService = true ∧ s.w.coreLive 0 = true ∧ (s.w.core 0).vxe.run = some {} ∧ vxeOp d = op ∧ (∀ x ∈ clusterCores 0, (s.w.core x).held = none) ∧ 0 + 1 < vxeM d * vxeN d * vxeK d
        ∧ mxeStep (vxeM d * vxeN d) (vxeK d) 0 = (0, 0) ∧ 0 + 1 ≠ vxeK d ∧ 0x10 ≤ vxeSeg d ∧ vxeSrcA d ≠ vxeSrcB d
        ∧ s.w.queue 0 (vxeSrcA d) = [entryAt 256] ∧ s.w.queue 0 (vxeSrcB d) = [entryAt 1024] ∧ s.w.head 0 (vxeSrcA d) = some (entryAt 256)
        ∧ s.w.head 0 (vxeSrcB d) = some (entryAt 1024) ∧ gives (s.w.takeTile 0 vxeReads (fun _ _ => true) (entryAt 256).handle) = true
        ∧ gives (s.w.takeTile 0 vxeReads (fun _ n => decide (n = 1)) (entryAt 1024).handle) = true := by decide +kernel
/-- Two elements of register 1 go to the indices 0 and 1 of a table of 8 bytes, the last that fit. -/
theorem witness_vxe_scatter :
    let s := vxeState 6 [(4, 1, 0x21), (5, 1, 0x20), (7, 1, 0x40), (11, 1, 0), (12, 4, 1), (20, 4, 512), (24, 4, 24)] [] [] {}
    let d := s.w.descOf 0 0
    let live := s.w.vxeIndexed 0 {}
    s.inService = true ∧ s.w.coreLive 0 = true ∧ (s.w.core 0).vxe.run = some {} ∧ vxeOp d = 6 ∧ (∀ x ∈ clusterCores 0, (s.w.core x).held = none) ∧ 0 < vxeCount d ∧ 0x20 ≤ vxeSrcA d ∧ 0x20 ≤ vxeSrcB d
      ∧ vxeSrcB d ≤ 0x3F ∧ vxeToReg d = false ∧ live.length = 1 ∧ ∀ p ∈ live, (s.w.vxeIndex 0 {} p + 1) * ((computeFlt (vxeCompute d)).width / 8) ≤ leAt d 24 4 := by decide +kernel
theorem witness_vxe_segmented :
    let s := vxeState 1 [(4, 1, 0x20), (5, 1, 0x10), (6, 1, 3), (7, 1, 4), (12, 4, 70)] [] [] {}
    let d := s.w.descOf 0 0
    s.inService = true ∧ s.w.coreLive 0 = true ∧ (s.w.core 0).vxe.run = some {} ∧ vxeOp d = 1 ∧ (∀ x ∈ clusterCores 0, (s.w.core x).held = none) ∧ 0 < vxeCount d ∧ 0x20 ≤ vxeSrcA d ∧ 0x10 ≤ vxeSrcB d
      ∧ vxeCompute d = 0 ∧ leAt d 9 1 % 8 = 0 ∧ s.w.head 0 (vxeSeg d) = none := by decide +kernel

/-- An AXE stream of a KIND on core 0. -/
def axeState (fs : List (Nat × Nat × Nat)) (tun : Memory) (queues : AMap (List QEntry)) (r : AxeRun) : Machine.State :=
  engineState (desc 64 fs) tun { atWork with queues := queues, axe := { streams := [r] } }
/-- The last tile of a LOAD from HBM, its ring buffer 0 at 512. -/
theorem witness_axe_load :
    let r : AxeRun := { count := 1 }
    let s := axeState [(1, 1, 0), (3, 1, 4), (7, 1, 1), (16, 4, 0xFFFFFFFF), (20, 4, 2), (24, 4, 256), (28, 4, 512), (32, 4, 256)] [] [] r
    let d := s.w.descOf 0 0
    s.inService = true ∧ s.w.coreLive 0 = true ∧ s.w.throttled (coreSource 1 0) = false ∧ (s.w.core 0).axe.streams = [r] ∧ axeKind d = 0
      ∧ (∀ x ∈ clusterCores 0, (s.w.core x).held = none)
      ∧ s.w.axeEnded 0 r = false ∧ s.w.bufferBusy 0 (axeBuffer d 1) = false ∧ s.w.queueFull 0 (axeQueue d) = false
      ∧ s.w.axePlace 0 (axeMem d) (s.w.axeAddr 0 r.op (axeOffset d 1)) = some (0, 0, 256) ∧ guardSpace (0, 0, 256) = 0
      ∧ (match s.w.axeTile s.sid 0 r (0, 0, 256) true with | .ok (some bs, _) => decide (bs.length = 16) | _ => false) = true ∧ axeTotal d = 1 + 1 := by decide +kernel
theorem witness_axe_store :
    let r : AxeRun := { count := 1 }
    let s := axeState [(1, 1, 1), (3, 1, 4), (16, 4, 0xFFFFFFFF), (20, 4, 2), (24, 4, 256)] twoTiles [(4, [entryAt 256])] r
    let d := s.w.descOf 0 0
    let bs := s.w.tunRead 0 256 (16 + (parseHeader (s.w.tunRead 0 256 16)).imageBytes)
    s.w.coreLive 0 = true ∧ s.w.throttled (coreSource 1 0) = false ∧ (s.w.core 0).axe.streams = [r] ∧ axeKind d = 1 ∧ s.w.axeEnded 0 r = false
      ∧ (∀ x ∈ clusterCores 0, (s.w.core x).held = none)
      ∧ s.w.head 0 (axeQueue d) = some (entryAt 256) ∧ s.w.handleFits 0 (entryAt 256) = true ∧ handleAddr (entryAt 256).handle = 256 ∧ bs.length ≤ axeStride d
      ∧ s.w.axePlace 0 (axeMem d) (s.w.axeAddr 0 r.op (1 * axeStride d)) = some (0, 0, 256) ∧ (s.w.part 0).good.Nodup ∧ 256 + bs.length ≤ s.w.hbmCapacity 0
      ∧ s.w.guardHits 0 256 bs.length = [] ∧ (s.w.part 0).dir = [] ∧ s.w.hbmFailed 0 256 bs.length = false ∧ axeTiles d = 1 + 1 := by decide +kernel
theorem witness_axe_copy :
    let r : AxeRun := { grains := 1 }
    let s := axeState [(1, 1, 2), (4, 1, 0), (16, 4, 0xFFFFFFFF), (50, 1, 0), (52, 4, 512), (56, 8, 4096)] [] [] r
    let d := s.w.descOf 0 0
    s.w.coreLive 0 = true ∧ axeKind d = 2 ∧ (∀ x ∈ clusterCores 0, (s.w.core x).held = none) ∧ s.w.axeEnded 0 r = false ∧ axeCopyBytes d ≤ 256 * (1 + 1) ∧ r.live = [] ∧ r.predicted = []
      ∧ s.w.axePlace 0 (axeMem d) (s.w.axeAddr 0 r.op 256) = some (0, 0, 256) ∧ s.w.axePlace 0 (axeDstMem d) ((axeDst d + 256) % 2 ^ 64) = some (0, 0, 4352)
      ∧ (match s.w.axeFetch s.sid 0 r (0, 0, 256) 256 true with | .ok (some bs, _) => decide (bs.length = 256) | _ => false) = true
      ∧ 4352 + 256 ≤ s.w.hbmCapacity 0 ∧ s.w.guardHits 0 4352 256 = [] ∧ s.w.hbmFailed 0 4352 256 = false := by decide +kernel
theorem witness_axe_relay :
    let s := axeState [(1, 1, 3), (3, 1, 4), (20, 4, 1), (51, 1, 1)] twoTiles [(1, [entryAt 256])] {}
    let s' := axeState [(1, 1, 3), (2, 1, 1), (3, 1, 4), (20, 4, 1), (40, 4, 0), (51, 1, 1)] (({} : Memory).write 0 [1]) [] {}
    s.w.coreLive 0 = true ∧ axeKind (s.w.descOf 0 0) = 3 ∧ s.w.axeEnded 0 {} = false ∧ s.w.queueFull 0 4 = false ∧ s.w.relayReal 0 {} = some (entryAt 256)
      ∧ s.w.handleFits 0 (entryAt 256) = true ∧ axeSrcQueue (s.w.descOf 0 0) ≠ axeQueue (s.w.descOf 0 0) ∧ (∀ x ∈ clusterCores 0, (s.w.core x).held = none)
      ∧ axePredict (s.w.descOf 0 0) = false ∧ s'.w.coreLive 0 = true ∧ axeKind (s'.w.descOf 0 0) = 3 ∧ s'.w.axeEnded 0 {} = false ∧ s'.w.relayReal 0 {} = none
      ∧ axePredict (s'.w.descOf 0 0) = true ∧ s'.w.zeroBit 0 (axeZmap (s'.w.descOf 0 0)) 0 = true := by decide +kernel

/-! ### Cluster units and memory (witnesses of `KeysAreSortedAndRowsGathered` to `MemoryAccessesAndFaults`) -/

/-- The address of an offset of the cluster store. -/
def storeAt (a : Nat) : Nat := 2 ^ 63 + a
/-- A module whose cluster 0 has operations, a descriptor 0 of core 0, a table 2 and tensors. -/
def unitState (d : List Byte) (e : DirEntry) (k : Cluster) (store : Memory) : Machine.State :=
  up { withPart { runPart { descs := [(0, [], [d])], tensors := [{ id := 3, recipe := { windowT := -10 }, elements := 1, dims := [1] }] } with dir := [e] } with
       clusters := [(0, k)], cstore := store, cores := [(0, atWork)] }
/-- A table of 4 records of one grain. -/
def rowTable : DirEntry := { tensor := 2, kind := 1, rowGrains := 1, base0 := 0, base1 := 4096, bytes := 1024, records := 4, dim := 1, windowRows := 1, dirty := 8192 }

theorem witness_inverse : let us := uniqueKeys 0 9 [4, 1, 4]; 2 < [4, 1, 4].length ∧ us.length ≤ 0xFFFFFFFF ∧ (inverseOf us [4, 1, 4]).getD 2 0 < us.length := by
  decide +kernel
/-- Two keys at the end of the cluster store. -/
theorem witness_sort_unique :
    let d := desc 64 [(2, 1, 2), (4, 4, 2), (8, 8, storeAt (storeBytes - 16)), (24, 8, 100), (32, 8, storeAt 0), (40, 8, storeAt 256), (48, 8, storeAt 512), (56, 8, storeAt 1024)]
    let s := unitState d rowTable { suq := { pending := [{}] } } (({} : Memory).write (storeBytes - 16) (leBytes 8 7 ++ leBytes 8 200))
    let ks := s.w.storeList 0 (storeBytes - 16) 8 2
    let us := uniqueKeys (suqLo d) (suqHi d) ks
    s.inService = true ∧ s.w.clusterLive 0 = true ∧ s.w.throttled (clusterSource 7 0) = false ∧ s.w.throttles (clusterSource 7 0) 2 = false
      ∧ (s.w.cluster 0).suq.faulted = false ∧ (s.w.cluster 0).suq.pending = [{}] ∧ s.w.descOf 0 0 = d ∧ suqBlock d = false ∧ suqFromWork d = false ∧ suqCount d = 2
      ∧ localOf (suqIn d) = some (.store (storeBytes - 16)) ∧ storeBytes - 16 + 8 * 2 ≤ storeBytes ∧ us = [7] ∧ (∀ x ∈ clusterCores 0, (s.w.core x).held = none) ∧ (∀ e ∈ s.w.cores, e.2.axe.guards = [])
      ∧ localOf (suqWork d) = some (.store 1024) ∧ localOf (suqUnique d) = some (.store 0) ∧ localOf (suqInverse d) = some (.store 256)
      ∧ localOf (suqCountsAddr d) = some (.store 512) ∧ suqCounts d = true := by decide +kernel
/-- A raw gather of the last row of the table, and a migration of row 0 to position 0. -/
theorem witness_gather :
    let d := desc 64 [(1, 1, 0), (2, 1, 4), (4, 4, 2), (8, 8, storeAt 0), (16, 4, 1), (24, 8, storeAt 1024)]
    let s := unitState d rowTable { gsu := { pending := [{}] } } (({} : Memory).write 0 (leBytes 8 3))
    s.inService = true ∧ s.w.clusterLive 0 = true ∧ s.w.throttled (clusterSource 6 0) = false ∧ s.w.throttles (clusterSource 6 0) 2 = false
      ∧ (s.w.cluster 0).gsu = { pending := [{}] } ∧ gsuOp (s.w.descOf 0 0) = 0 ∧ (s.w.part (s.w.partOfCluster 0)).entry (gsuTable (s.w.descOf 0 0)) = some rowTable
      ∧ s.w.canSend = true ∧ localOf (gsuKeysAt d {}) = some (.store 0) ∧ gsuSuqList d = false ∧ gsuRaw d = true ∧ gsuKeyCount d = 1 ∧ s.w.storeList 0 0 8 1 = [3]
      ∧ 3 < rowTable.records ∧ s.w.homesRow 0 rowTable 3 = true ∧ s.w.hbmFailed 0 (rowTable.curBase + 3 * rowTable.recordBytes) rowTable.recordBytes = false
      ∧ localOf (gsuOut d) = some (.store 1024) ∧ 1024 + 256 ≤ storeBytes ∧ (∀ x ∈ clusterCores 0, (s.w.core x).held = none) := by decide +kernel
theorem witness_migrate :
    let d := desc 64 [(1, 1, 2), (4, 4, 2), (8, 8, storeAt 0), (16, 4, 1)]
    let s := unitState d rowTable { gsu := { pending := [{}] } } []
    s.inService = true ∧ s.w.clusterLive 0 = true ∧ (s.w.cluster 0).gsu = { pending := [{}] } ∧ gsuOp (s.w.descOf 0 0) = 2 ∧ gsuKeyCount d = 1
      ∧ localOf (gsuKeysAt d {}) = some (.store 0) ∧ leAt (s.w.storeRead 0 0 16) 0 8 = 0 ∧ leAt (s.w.storeRead 0 0 16) 8 2 = 0 ∧ s.w.homesRow 0 rowTable 0 = true
      ∧ 0 ≠ s.w.ownPosition ∧ rowTable.curOver = [] ∧ rowTable.penOver.length < 65536 ∧ (s.w.part 0).accepted = [] ∧ (s.w.part 0).forwarding = []
      ∧ s.w.mapHome 0 rowTable 0 ≠ 0 ∧ (∀ x ∈ clusterCores 0, (s.w.core x).held = none) := by decide +kernel
/-- A scatter of one BF16 gradient to the last row. -/
def scatterState (g : Gsu) : Machine.State :=
  unitState (desc 64 [(1, 1, 1), (2, 1, 2), (4, 4, 2), (8, 8, storeAt 0), (16, 4, 1), (24, 8, storeAt 1024), (44, 4, 3)]) rowTable { gsu := g }
    ((({} : Memory).write 0 (leBytes 8 3)).write 1024 (tileOfOne 3 0x3F80))
theorem witness_scatter :
    let s := scatterState { pending := [{}] }
    let d := s.w.descOf 0 0
    let hdr := parseHeader (s.w.storeRead 0 1024 16)
    s.inService = true ∧ s.w.clusterLive 0 = true ∧ (s.w.cluster 0).gsu = { pending := [{}] } ∧ gsuOp d = 1 ∧ (s.w.part 0).entry (gsuTable d) = some rowTable
      ∧ gsuPerUnique d = true ∧ gsuSuqList d = false ∧ ((s.w.tensor 0 (gsuGrad d)).any fun t => !t.recipe.w128) = true ∧ rowTable.dim = 1 ∧ gsuKeyCount d = 1
      ∧ rowTable.windowRows = 1 ∧ localOf (gsuKeysAt d {}) = some (.store 0) ∧ localOf (gsuOut d) = some (.store 1024) ∧ localOf (gsuOut d + 16) = some (.store (1024 + 16))
      ∧ 1024 + 16 + hdr.imageBytes ≤ storeBytes ∧ s.w.storeList 0 0 8 1 = [3] ∧ s.w.homesRow 0 rowTable 3 = true ∧ s.w.poolOf 0 2 = {}
      ∧ s.w.nmrFaulted = [] ∧ (∀ x ∈ clusterCores 0, (s.w.core x).held = none) := by decide +kernel
theorem witness_scatter_tile :
    let s := scatterState {}
    let hdr := parseHeader (s.w.storeRead 0 1024 16)
    gives (checkTile (fun f => decide (f = 1) || decide (f = 3)) hdr.format (fun r c => decide (r = 1) && decide (c = rowTable.dim)) hdr
      (s.w.storeRead 0 (1024 + 16) hdr.imageBytes)) = true := by decide +kernel
theorem witness_scatter_acknowledged :
    let s := scatterState { pending := [{}], unacked := some ({}, 0) }
    s.inService = true ∧ s.w.clusterLive 0 = true ∧ s.w.throttled (clusterSource 6 0) = false ∧ s.w.throttles (clusterSource 6 0) 2 = false
      ∧ (s.w.cluster 0).gsu.unacked = some ({}, 0) ∧ (s.w.cluster 0).gsu.pending = [{}] ∧ gsuOp (s.w.descOf 0 0) = 1
      ∧ (s.w.part 0).entry (gsuTable (s.w.descOf 0 0)) = some rowTable ∧ s.w.canSend = true ∧ (∀ x ∈ clusterCores 0, (s.w.core x).held = none) := by decide +kernel

/-- A table of 56 columns, and a command for its last row. -/
def wideTable : DirEntry := { rowTable with dim := 56 }
def nmrCmd (count : Nat) : NmrCmd := { table := 2, row := 3, count := count, payload := List.replicate 224 1 }
def nmrState (x : Pool) : Machine.State :=
  up { withPart { runPart {} with dir := [wideTable], pools := [(2, x)] } with cores := [(0, atWork)] }
theorem witness_nmr :
    let s := nmrState {}
    s.inService = true ∧ s.w.fab.position = none ∧ s.w.jobRuns 0 = true ∧ wideTable.kind = 1 ∧ (nmrCmd 14).reserved = false
      ∧ (s.w.part 0).entry 2 = some wideTable ∧ (s.w.part 0).entry (nmrCmd 56).table = some wideTable ∧ (nmrCmd 56).row < wideTable.records
      ∧ s.w.homesRow 0 wideTable 3 = true ∧ (nmrCmd 56).column + (nmrCmd 56).count ≤ wideTable.dim ∧ (s.w.poolOf 0 2).readOut = false ∧ (s.w.poolOf 0 2).window = none
      ∧ (s.w.poolOf 0 2).rows.length < wideTable.windowRows ∧ s.w.nmrDown 0 = false := by decide +kernel
/-- A full pool in which the row has its cells. -/
theorem witness_nmr_pool_full :
    let s := nmrState { rows := [(3, [])], window := some (false, 0) }
    (s.w.poolOf 0 2).window = some (s.w.tableWindow 0 2 false) ∧ ¬ (s.w.poolOf 0 2).rows.length < wideTable.windowRows ∧ ∃ r ∈ (s.w.poolOf 0 2).rows, r.1 = 3 := by
  decide +kernel
theorem witness_nmr_elements :
    let s := nmrState {}
    let at' := fun (n i : Nat) => wideTable.penBase + 3 * wideTable.recordBytes + i * n
    (0 + 56) * 4 ≤ wideTable.recordBytes ∧ (0 + 28) * 8 ≤ wideTable.recordBytes ∧ wideTable.catchup = [] ∧ (s.w.part 0).heldWrites = []
      ∧ (∀ y ∈ (s.w.part 0).dir, y.catchupDone = true) ∧ (s.w.part 0).good.Nodup ∧ at' 4 56 ≤ s.w.hbmCapacity 0
      ∧ ∀ y ∈ (s.w.part 0).dir, ∀ r ∈ y.touched (at' 4 0) 224, ∀ j < 224, hbmKey [0, 1] (at' 4 0 + j) ≠ hbmKey [0, 1] (y.dirty + r / 8) := by decide +kernel
theorem witness_readout :
    let s := unitState (desc 64 [(1, 1, 3), (4, 4, 2)]) rowTable { gsu := { pending := [{}] } } []
    s.inService = true ∧ s.w.clusterLive 0 = true ∧ (s.w.cluster 0).gsu = { pending := [{}] } ∧ gsuOp (s.w.descOf 0 0) = 3
      ∧ (s.w.part 0).entry (gsuTable (s.w.descOf 0 0)) = some rowTable ∧ (s.w.poolOf 0 2).readOut = false ∧ s.w.nmrDown 0 = false
      ∧ (∀ x ∈ clusterCores 0, (s.w.core x).held = none) := by decide +kernel
theorem witness_catchup :
    let e : DirEntry := { rowTable with catchup := [3], catchupDone := false, kind := 0 }
    let s := up { baseWorld with parts := [(1, { runPart {} with dir := [e] })] }
    s.inService = true ∧ s.w.jobRuns 1 = true ∧ (s.w.part 1).entry 2 = some e ∧ e.kind ≠ 1 ∧ (s.w.part 1).heldWrites = [] ∧ (s.w.part 1).good.Nodup
      ∧ e.penBase + (3 + 1) * e.recordBytes ≤ s.w.hbmCapacity 1 ∧ e.dirty + 3 / 8 < s.w.hbmCapacity 1
      ∧ ∀ i < e.recordBytes, e.penBase + 3 * e.recordBytes + i ≠ e.dirty + 3 / 8 ∧ e.penBase + 3 * e.recordBytes + i < s.w.dirBase 1 := by decide +kernel
theorem test_add_i64 : (after (.addI64 (nmrCmd 1)) (nmrState {})).w.hbmRead 0 (wideTable.penBase + 3 * 256) 9 = List.replicate 8 1 ++ [0] := by decide +kernel
theorem test_add_w64 : (after (.addW64 (nmrCmd 1)) (nmrState {})).w.poolCell 0 2 3 0 = ((256 ^ 14 - 1) / 255, true, false) := by decide +kernel

/-- The last byte of two channels; the first lies at offset 0. -/
theorem witness_hbm_map :
    let good := [0, 255]
    good ≠ [] ∧ good.Nodup ∧ 2 * (8388608 * 256) - 1 < good.length * (8388608 * 256) ∧ hbmLocate good 0 = (0, 0) ∧ hbmLocate good 256 = (255, 0)
      ∧ (0 + 256) / 256 / good.length = 0 / 256 / good.length ∧ 255 ∈ good ∧ 8388607 < 8388608 := by decide +kernel

/-- A module with channels 0 and 1. -/
def memState : Machine.State := up { runWorld {} [(0, atWork)] with regs := [(Block.uzo.addr 0 0x008, 1)] }
theorem witness_grain :
    let w := memState.w
    memState.inService = true ∧ w.grainOffset 0 8388607 = some 4294967040 ∧ AMap.get 0 w.channels 0 ≠ 2 ∧ (w.part (w.partOfChannel 0)).good.Nodup
      ∧ 4294967040 + 0 + 256 ≤ w.hbmCapacity 0 ∧ w.guardHits 0 4294967040 256 = [] ∧ (w.part 0).dir = [] ∧ w.forwards 3 ∧ w.forwards 1
      ∧ AMap.get false w.parityStep 0 = false ∧ AMap.get false { w with parityStep := [(0, true)] }.parityStep 0 = true := by unfold World.forwards; decide +kernel
theorem test_grain : (after (.hbmGrainAccess 1 { write := true, grain := 5, first := 3, length := 2, data := [8, 9] }) memState).w.hbm
    = [(2147483648 + 5 * 256 + 3, 8), (2147483648 + 5 * 256 + 4, 9)] := by decide +kernel
theorem witness_mapout_clear : memState.inService = true ∧ (1 : BitVec 32) ≠ 0 := by decide +kernel
theorem witness_cellar : AMap.get false memState.w.cellarBad 63 = false ∧ (4 : Nat) < 5 := by decide +kernel

/-! ### Sampler and Kiln (witnesses of `SamplerDrawsAndBuildsBlocks` to `FreezeCommandsAreAcceptedOrLate`) -/

theorem witness_floyd : (∀ u, (fun u => u % 7) u < 2 ^ 32) ∧ 2 ≤ 5 ∧ (3 : Nat) < 4 := ⟨fun u => by show u % 7 < _; omega, by decide, by decide⟩
/-- A graph image of one shard: node 0 has one edge, to node 1; it lies at offset 0 of the partition. -/
def tinyGraph : Memory :=
  [(0, 8, 0x00010001 * 2 ^ 32 + 0x4852474D), (8, 8, 1), (0x18, 8, 128), (0x20, 8, 33024), (136, 8, 2), (128 + 8 * 4096, 8, 2), (33032, 8, 33040),
   (33040, 8, 1), (33048, 8, 1), (33056, 8, 33152), (33064, 8, 33200), (33160, 8, 1), (33168, 8, 1), (33200, 8, 1)].foldl
    (fun (m : Memory) (x : Nat × Nat × Nat) => m.write x.1 (leBytes x.2.1 x.2.2)) []
def tinyPlan : Plan := { hops := 2, graph := 9, nodeCap := 2, edgeCap := 1, hop := [{ mode := 3, typeMask := 1 }, { mode := 3, typeMask := 1 }] }
/-- The image of an item: one seed, at offset 0 of the cluster store; the block goes to offset 4096. -/
def tinyImage : List Byte := desc 64 [(0, 1, 5), (2, 1, 1), (3, 1, 2), (8, 8, storeAt 0), (16, 4, 1), (20, 4, 1024), (24, 8, storeAt 4096)]
def smpState (x : Smp) : Machine.State :=
  up { withPart { runPart { plans := [tinyPlan] } with good := [0], dir := [{ tensor := 9, bytes := 65536 }] } with
       clusters := [(0, { smp := x })], hbm := tinyGraph, cores := [(0, atWork)] }
theorem witness_block_start :
    let i : ItemRef := { flow := 3, seq := 1 }
    let s := smpState { item := some (i, tinyImage) }
    s.inService = true ∧ s.w.clusterLive 0 = true ∧ s.w.throttled (clusterSource 5 0) = false ∧ (s.w.cluster 0).smp = { item := some (i, tinyImage) }
      ∧ s.w.plan 0 (smpPlan tinyImage) = some tinyPlan ∧ imageBad tinyImage none (some tinyPlan) = false ∧ smpFirst tinyImage ≤ 1
      ∧ (match (s.w.updSmp 0 fun y => { y with item := none }).blockStart 0 0 tinyImage tinyPlan
            { desc := tinyImage, item := some i, plan := 0, hop := 1, step := 0 } with | .ok (r, _) => decide (r.nodes.length = 1) | _ => false) = true := by
  decide +kernel
/-- A block with its seed, before hop 1. -/
def tinyRun : SmpRun := { desc := tinyImage, nodes := [{}], hopNodes := [0], hopEdges := [0] }
theorem witness_hop :
    let s := smpState { run := some tinyRun }
    s.inService = true ∧ (s.w.cluster 0).smp.run = some tinyRun ∧ s.w.plan 0 tinyRun.plan = some tinyPlan ∧ s.pwr.withheld = false ∧ tinyRun.issuedHop = false
      ∧ tinyRun.truncated = false ∧ tinyRun.hop < smpLast tinyRun.desc ∧ (tinyPlan.hop.getD (tinyRun.hop - 1) {}).mode ≠ 4
      ∧ tinyRun.nodes.length ≤ tinyPlan.nodeCap ∧ tinyRun.edges.length ≤ tinyPlan.edgeCap
      ∧ (match s.w.drawLocal 0 0 tinyPlan { tinyRun with issuedHop := true } tinyRun.parents with
          | .ok (r, _) => !r.waits && !(r.addChildren tinyPlan (tinyPlan.hop.getD 0 {})).truncated && decide (r.drawn.length = 1) | _ => false) = true := by
  decide +kernel
theorem witness_block_end :
    let r : SmpRun := { tinyRun with hop := 3, op := some {}, hopNodes := [0, 1, 1], hopEdges := [0, 0, 0] }
    let s := smpState { run := some r }
    let outs := (SmpRun.outputs { r with dropped := s.w.droppedOf 0 0 tinyPlan (s.w.seedsOf 0 0 r) r } tinyPlan (s.w.part 0).jobSeed.toNat (s.w.seedsOf 0 0 r)).filter fun o => decide (o.2 ≠ [])
    (s.w.cluster 0).smp.run = some r ∧ s.w.plan 0 r.plan = some tinyPlan ∧ s.pwr.withheld = false ∧ r.issuedHop = false ∧ smpLast r.desc < r.hop
      ∧ r.op = some {} ∧ r.item = none ∧ (∀ e ∈ s.w.cores, e.2.axe.guards = []) ∧ outs ≠ []
      ∧ ∀ x ∈ outs, ∃ q ∈ [x.1 % 2 ^ 24], localOf x.1 = some (.store q) ∧ q + x.2.length ≤ storeBytes := by decide +kernel

/-- A rule with a matrix of 1 × 2 (tensor 5) and a table of 4 rows of 2 (tensor 6). -/
def kilnRule (kind : Nat) : KilnRule :=
  { kind := kind, entries := [{ tensor := 5, rows := 1, cols := 2 }, { tensor := 6, rowTable := true, rows := 4, cols := 2, cellar := 4096 }] }
def kilnBundle : Bundle := { rules := [kilnRule 0], tensors := [{ id := 5, elements := 2, dims := [1, 2] }, { id := 6, elements := 8, dims := [4, 2] }] }
def tableSix : DirEntry := { tensor := 6, kind := 0, rowGrains := 1, base0 := 0, base1 := 4096, bytes := 1024, records := 4, dim := 2, dirty := 8192 }
def kilnState (running : Bool) (x : Kiln) : Machine.State :=
  up { withPart { runPart kilnBundle with running := running, good := [0], cellarGib := 1, dir := [tableSix] } with
       kiln := x, cores := [(0, atWork)], fab := { position := some 0, posTable := [(0, 0), (1, 1)] }
       config := { domainGroups := 1, activeSlots := 2 } }
theorem witness_gradients :
    let s := kilnState true {}
    let e := (kilnRule 0).entries.getD 0 {}
    s.inService = true ∧ s.w.kilnLive 0 = true ∧ s.w.kilnClosed 0 0 = false ∧ s.w.kilnEntryOf 0 5 = some (0, 0, kilnRule 0, e) ∧ e.rowTable = false
      ∧ s.w.homedRows 0 (s.w.kilnTensor 0 e) = (0, 1) ∧ 0 + 2 ≤ 1 * e.cols ∧ (s.w.grad 0 5).ranges = [] := by decide +kernel
theorem witness_row_gradients :
    let s := kilnState true {}
    let e := (kilnRule 0).entries.getD 1 {}
    s.w.kilnEntryOf 0 6 = some (0, 1, kilnRule 0, e) ∧ e.rowTable = true ∧ [1, 2].length = e.cols ∧ 3 < e.rows ∧ (s.w.grad 0 6).ended = false
      ∧ (s.w.grad 0 6).rows = [] := by decide +kernel
/-- A row that is delivered again, after ROWS_END (R326). -/
theorem witness_row_again :
    let s := kilnState true { grads := [{ tensor := 6, rows := [(3, [0, 0])], ended := true }] }
    let e := (kilnRule 0).entries.getD 1 {}
    s.w.kilnLive 0 = true ∧ s.w.kilnClosed 0 0 = false ∧ s.w.kilnEntryOf 0 6 = some (0, 1, kilnRule 0, e) ∧ e.rowTable = true ∧ [(1 : Nat), 2].length = e.cols
      ∧ 3 < e.rows ∧ ∃ y ∈ (s.w.grad 0 6).rows, y.1 = 3 := by decide +kernel
theorem witness_kiln_read :
    let s := kilnState true {}
    s.w.jobRuns 0 = true ∧ 2 ^ 31 - 256 + 256 ≤ s.w.hbmCapacity 0 ∧ s.w.hbmFailed 0 (2 ^ 31 - 256) 256 = false := by decide +kernel
theorem witness_late_gradient :
    let s := kilnState true { closing := [(0, 1)] }
    s.w.kilnLive 0 = true ∧ s.w.kilnClosed 0 0 = true ∧ s.w.forwards 3 := by unfold World.forwards; decide +kernel

/-- A complete entry in front of the queue: the matrix with two gradients in one grain, or the table with one row. -/
def matrixDue (buffer : Memory) (frozen : List (Nat × Nat × Nat)) : Machine.State :=
  kilnState false { grads := [{ tensor := 5, ranges := [(0, 0, 2)] }], queue := [(0, 0, 0)], grains := [0], buffer := buffer, frozen := frozen }
def rowDue : Machine.State := kilnState false { grads := [{ tensor := 6, rows := [(3, [0x3F800000, 0])], ended := true }], queue := [(0, 0, 1)] }
theorem witness_entry_update :
    let s := matrixDue [] []
    let e := (kilnRule 0).entries.getD 0 {}
    (s.w.kiln.queue.find? fun q => decide (q.1 = 0)) = some (0, 0, 0) ∧ s.w.kilnEntryAt 0 0 0 = some (kilnRule 0, e) ∧ s.w.kilnLive 0 = true
      ∧ (s.w.part 0).running = false ∧ s.w.cowHeld 0 5 = false ∧ s.w.gradArrived 0 (s.w.grad 0 5) = true ∧ s.w.kiln.freezes = []
      ∧ AMap.get 0 s.w.kiln.closing 0 = 0 ∧ s.w.matrixElements 0 e = 2
      ∧ (∀ k ∈ [0, 1], (fp32.decode (s.w.gradElement 0 (s.w.grad 0 5) k)).isFinite = true) ∧ (kilnRule 0).kind ≠ 4 ∧ (0, 0, 0) ∉ s.w.kiln.frozen
      ∧ s.w.blockFits 0 (kilnRule 0) e := by unfold World.blockFits; decide +kernel
/-- Two good channels of the cellar: the header's grain on one, the masters on the other. -/
theorem test_cellar_interleave : cellarKey [3, 5] 0 0 = 3 * 2 ^ 40 ∧ cellarKey [3, 5] 0 64 = 5 * 2 ^ 40 ∧ cellarKey [3, 5] 0 130 = 5 * 2 ^ 40 + 64 + 2
    ∧ cellarOffset [3, 5] 0 (5 * 2 ^ 40 + 66) = some 130 := by decide +kernel
theorem witness_entry_frozen : (0, 0, 0) ∈ (matrixDue [] [(0, 0, 0)]).w.kiln.frozen := by decide +kernel
/-- The second gradient is an infinity. -/
theorem witness_entry_skipped :
    let s := matrixDue [(6, 0x80), (7, 0x7F)] []
    (fp32.decode (s.w.gradElement 0 (s.w.grad 0 5) 1)).isFinite = false ∧ s.w.forwards 2 := by unfold World.forwards; decide +kernel
theorem witness_rows_update :
    let e := (kilnRule 0).entries.getD 1 {}
    let w := rowDue.w
    (w.kiln.queue.find? fun q => decide (q.1 = 0)) = some (0, 0, 1) ∧ w.kilnEntryAt 0 0 1 = some (kilnRule 0, e) ∧ (0, 0, 1) ∉ w.kiln.frozen ∧ e.rowTable = true
      ∧ (w.grad 0 6).rows = [(3, [0x3F800000, 0])] ∧ w.gradArrived 0 (w.grad 0 6) = true
      ∧ ([(0x3F800000 : BitVec 32), 0].all fun v => (fp32.decode v.toNat).isFinite) = true ∧ w.rowFrozen 0 (kilnRule 0) e 3 = false
      ∧ (w.ownRecord 0 (kilnRule 0) e 3).isSome = true ∧ (w.part 0).entry 6 = some tableSix ∧ tableSix.fullRewrite = false ∧ w.moveTarget 0 6 3 = none
      ∧ w.blockFits 0 (kilnRule 0) e := by unfold World.blockFits; decide +kernel

theorem witness_kiln_emit :
    let s := kilnState true {}
    s.inService = true ∧ (s.w.part 0).entry 6 = some tableSix ∧ s.w.jobRuns 0 = true ∧ 768 + 256 ≤ tableSix.bytes ∧ (∀ y ∈ (s.w.part 0).dir, y.catchupDone = true)
      ∧ (s.w.part 0).good.Nodup ∧ tableSix.penBase + 768 + 256 ≤ s.w.hbmCapacity 0 ∧ s.w.hbmFailed 0 (tableSix.penBase + 768) 256 = false
      ∧ ∀ y ∈ (s.w.part 0).dir, ∀ r ∈ y.touched (tableSix.penBase + 768) 256, ∀ j < 256, hbmKey [0] (y.dirty + r / 8) ≠ hbmKey [0] (tableSix.penBase + 768 + j) := by
  decide +kernel
theorem witness_kiln_ack :
    let s := kilnState true { unacked := [(0, 1)], stateFrom := [(1, 7)] }
    AMap.get 0 s.w.kiln.closing 0 = 0 ∧ s.w.kiln.stateFrom = (1, 7) :: [] ∧ s.w.physicalOf 1 = some 1 ∧ s.w.fab.failed.contains 1 = false := by decide +kernel
/-- Row 3 of the table comes home to this position. -/
theorem witness_state_in :
    let d : DirEntry := { tableSix with over1 := [(3, 0, 1)] }
    let s := up { (kilnState true {}).w with parts := [(0, { (kilnState true {}).w.part 0 with dir := [d] })] }
    let e := (kilnRule 0).entries.getD 1 {}
    s.w.kilnEntryOf 0 6 = some (0, 1, kilnRule 0, e) ∧ (s.w.part 0).entry 6 = some d ∧ s.w.kilnLive 0 = true ∧ (d.penOver.find? fun y => decide (y.1 = 3)) = some (3, 0, 1)
      ∧ 0 = s.w.ownPosition ∧ (s.w.ownRecord 0 (kilnRule 0) e 3).isSome = true ∧ s.w.blockFits 0 (kilnRule 0) e := by unfold World.blockFits; decide +kernel
theorem witness_step_close :
    let s := kilnState true { queue := [(0, 0, 0)] }
    let s' := up { s.w with kiln := {}, parts := [(0, runPart {})] }
    s.w.kilnLive 0 = true ∧ s.w.kilnClosed 0 0 = false ∧ (∃ q ∈ s.w.kiln.queue, q.1 = 0) ∧ s'.w.kilnLive 0 = true ∧ s'.w.kilnClosed 0 0 = false
      ∧ s'.w.kiln.queue = [] ∧ s'.w.kiln.freezes = [] ∧ s'.w.kilnRules 0 = [] ∧ (s'.w.part 0).accepted = [] ∧ AMap.get 0 s'.w.kiln.unacked 0 = 0 ∧ AMap.get 0 s'.w.kiln.reads 0 = 0 := by decide +kernel
theorem witness_step_done :
    let s := up (withPart { runPart {} with closeSent := true, step := 4 })
    s.w.jobRuns 0 = true ∧ (s.w.part 0).step = 4 ∧ (s.w.part 0).closeSent = true ∧ (kilnState true { failedRetrains := 2 }).w.kiln.failedRetrains = 2 := by decide +kernel
/-- The step at which a freeze command would take effect is the next one, or the present one. -/
theorem witness_freeze :
    let s := kilnState true {}
    s.inService = true ∧ s.w.kilnEntryAt 0 0 1 = some (kilnRule 0, (kilnRule 0).entries.getD 1 {}) ∧ ((kilnRule 0).entries.getD 1 {}).rowTable = true
      ∧ s.w.freezeListRead 0 ∧ (s.w.part 0).step < 1 ∧ 0 ≤ (s.w.part 0).step ∧ s.w.kilnEntryAt 0 0 2 = none ∧ s.w.kilnEntryAt 0 1 0 = none := by
  unfold World.freezeListRead; decide +kernel
theorem test_freeze : (after (.freezeEntry 0 0 0 1) (kilnState true {})).w.kiln.freezeResult = 1 ∧ (after (.freezeEntry 0 0 0 0) (kilnState true {})).w.kiln.freezeResult = 2 := by
  decide +kernel
theorem test_state_out : (after (.stateOut { part := 0, crcFailures := 0 } 6 3 1 true [9]) (kilnState true {})).w.out.length = 1 := by decide +kernel

/-! ### Fabric (witnesses of `PacketsReadAndWriteMemory` to `PortsAndSlotsAreWatched`) -/

/-- A module that holds a position of a domain of groups of 2 modules. -/
def netFab (pos : Nat) : Fab := { trained := true, position := some pos, posTable := [(0, 0), (1, 1), (16, 17)] }
def netWorld (groups pos : Nat) (b : Bundle) : World :=
  { withPart { runPart b with good := [0] } with fab := netFab pos, config := { domainGroups := groups, activeSlots := 2 }, cores := [(0, atWork)] }
def net : Machine.State := up (netWorld 1 0 {})
/-- What `World.comes` asks of a packet without ORDER and without a step tag. -/
def plainPacket (w : World) (q : Packet) : Bool :=
  w.fab.trained && w.fab.position.isSome && !pktMulticast q && w.fab.orderHeld.isEmpty && !pktOrder q && !pktStepped q
theorem plain_comes (w : World) (q : Packet) (h : plainPacket w q = true) : w.comes q := by
  simp only [plainPacket, Bool.and_eq_true, Bool.not_eq_true', List.isEmpty_iff] at h
  obtain ⟨⟨⟨⟨⟨h1, h2⟩, h3⟩, h4⟩, h5⟩, h6⟩ := h
  exact ⟨h1, h2, h3, h4, by simp [h5], by simp [h6]⟩

def readPacket (off n : Nat) : Packet := { src := 1, address := BitVec.ofNat 64 (globalAddr 0 off), payload := leBytes 4 n }
theorem witness_read_comes : net.w.comes (readPacket (2 ^ 31 - 2048) 2048) ∧ net.inService = true :=
  ⟨plain_comes _ _ (by decide +kernel), by decide +kernel⟩
theorem witness_read :
    net.w.jobRuns 0 = true ∧ net.w.physicalOf 1 = some 1 ∧ net.w.fab.failed.contains 1 = false ∧ addrSpace (readPacket (2 ^ 31 - 2048) 2048).address.toNat ≠ 3
      ∧ net.w.hbmFailed 0 (2 ^ 31 - 2048) 2048 = false ∧ 2 ^ 31 - 2048 + 2048 ≤ net.w.hbmCapacity 0
      ∧ (net.w.part 0).rowAt DirEntry.curBase (2 ^ 31 - 2048) = none := by decide +kernel
theorem test_read_beyond : (after (.readReq (readPacket (2 ^ 31 - 2048) 2049)) net).w.out.length = 1 := by decide +kernel
/-- A write whose mask selects the first and the third of its bytes stores no other (R270). -/
theorem test_write_mask :
    (after (.write { src := 1, address := BitVec.ofNat 64 (globalAddr 0 256), payload := [7, 8, 9], mask := [true, false, true] }) net).w.hbmRead 0 256 3 = [7, 0, 9] := by
  decide +kernel
/-- Data for the stream that asked, and for the gather that asked. -/
theorem witness_read_data :
    let q : Packet := { src := 1, tag := BitVec.ofNat 32 (mkTag 0 383 5), payload := [1] }
    let q' : Packet := { src := 1, tag := BitVec.ofNat 32 (mkTag 3 47 5), payload := [1] }
    let s := up { netWorld 1 0 {} with cores := [(383, { atWork with axe := { streams := [{ waitTag := some (mkTag 0 383 5) }] } })]
                                       clusters := [(47, { gsu := { remote := [(mkTag 3 47 5, 2)], pending := [{}] } })] }
    plainPacket s.w q = true ∧ plainPacket s.w q' = true ∧ s.inService = true ∧ tagKind q.tag.toNat = 0 ∧ q.payload ≠ [] ∧ tagInst q.tag.toNat = 383
      ∧ ((s.w.core 383).axe.streams.find? fun y => decide (y.waitTag = some q.tag.toNat)) = some { waitTag := some (mkTag 0 383 5) }
      ∧ tagKind q'.tag.toNat = 3 ∧ tagInst q'.tag.toNat = 47 ∧ ((s.w.cluster 47).gsu.remote.find? fun y => decide (y.1 = q'.tag.toNat)) = some (mkTag 3 47 5, 2)
      ∧ (s.w.cluster 47).gsu.pending = {} :: [] := by decide +kernel
/-- The last byte of the partition, and one more. -/
theorem witness_write :
    let q : Packet := { src := 1, address := BitVec.ofNat 64 (globalAddr 0 (2 ^ 31 - 1)), payload := [7] }
    let q' : Packet := { q with payload := [7, 8] }
    plainPacket net.w q = true ∧ plainPacket net.w q' = true ∧ addrSpace q.address.toNat ≠ 3 ∧ addrOffset q.address.toNat + 1 ≤ net.w.hbmCapacity 0
      ∧ (net.w.part 0).good.Nodup ∧ net.w.guardHits 0 (addrOffset q.address.toNat) 1 = [] ∧ (net.w.part 0).dir = []
      ∧ net.w.hbmFailed 0 (addrOffset q.address.toNat) 1 = false ∧ net.w.hbmCapacity 0 < addrOffset q'.address.toNat + q'.payload.length := by decide +kernel
theorem witness_acks :
    let q : Packet := { src := 1, tag := BitVec.ofNat 32 (mkTag 1 0 5) }
    let s := up { netWorld 1 0 {} with cores := [(0, { atWork with signals := [(mkTag 1 0 5, 3)] })], clusters := [(0, { gsu := { unacked := some ({}, 1) } })] }
    plainPacket s.w q = true ∧ s.inService = true ∧ tagKind q.tag.toNat = 1 ∧ q.address = 0 ∧ tagInst q.tag.toNat = 0
      ∧ (∀ e ∈ s.w.cores, e.2.axe.guards = [])
      ∧ ((s.w.core 0).signals.find? fun y => decide (y.1 = q.tag.toNat)) = some (mkTag 1 0 5, 3) ∧ (s.w.cluster 0).gsu.unacked.isSome = true := by decide +kernel
theorem witness_fab_signal :
    let q : Packet := { src := 1, payload := leBytes 2 383 ++ [47, 0] ++ leBytes 2 0xFFFF ++ [0, 0] }
    plainPacket net.w q = true ∧ leAt q.payload 0 2 = 383 ∧ net.w.partOfCore 383 = 0 ∧ net.w.jobRuns 0 = true ∧ net.w.physicalOf 1 = some 1 := by decide +kernel
theorem witness_migrate_request :
    let e : DirEntry := { rowTable with override0 := 65536, override1 := 131072 }
    let s := up { netWorld 1 0 {} with parts := [(0, { runPart {} with good := [0], dir := [e] })] }
    let q : Packet := { src := 1, address := BitVec.ofNat 64 (globalAddr 0 65536), payload := leBytes 8 3 ++ leBytes 8 1 }
    plainPacket s.w q = true ∧ s.w.jobRuns 0 = true
      ∧ ((s.w.part 0).dir.find? fun e => decide (e.kind = 1) && (decide (e.override0 = addrOffset q.address.toNat) || decide (e.override1 = addrOffset q.address.toNat))) = some e
      ∧ leAt q.payload 0 8 < e.records ∧ s.w.homesRow 0 e 3 = true ∧ leAt q.payload 8 2 ≠ s.w.ownPosition ∧ e.curOver = [] ∧ e.penOver.length < 65536
      ∧ (s.w.part 0).accepted = [] ∧ (s.w.part 0).forwarding.length < 4096 := by decide +kernel
/-- A request to draw node 0 at hop 1, with this bundle's digest and with another. -/
def drawer : Machine.State :=
  up { netWorld 1 0 {} with
       parts := [(0, { runPart { plans := [tinyPlan], digest := [1, 2, 3, 4] } with good := [0], dir := [{ tensor := 9, bytes := 65536 }] })]
       clusters := [(0, { smp := { run := some { tinyRun with remote := [{ tag := 5, parent := 0 }] } } })], hbm := tinyGraph }
def drawRequest (digest : List Byte) : Packet := { src := 1, payload := [0, 0, 1, 0] ++ leBytes 4 9 ++ leBytes 8 0 ++ leBytes 8 0 ++ leBytes 4 0 ++ digest }
theorem witness_sample_request :
    let q := drawRequest [1, 2, 3, 4]
    let w := drawer.w
    plainPacket w q = true ∧ (w.part 0).bundle = some { plans := [tinyPlan], digest := [1, 2, 3, 4] } ∧ w.plan 0 (leAt q.payload 1 1) = some tinyPlan
      ∧ w.physicalOf 1 = some 1 ∧ leAt [1, 2, 3, 4] 0 4 = leAt q.payload 28 4 ∧ 0 < leAt q.payload 2 1 ∧ leAt q.payload 2 1 ≤ tinyPlan.hops
      ∧ w.shardOfNode 0 0 (w.hbmRead 0 0 128) 0 = some 0 ∧ w.shardAway 0 0 = none
      ∧ (match (w.arrived drawer.sid 7 q).drawNode (w.homeCluster 0) 0 tinyPlan 1 0 0 0 with | .ok (es, _) => decide (es.length = 1) | _ => false) = true
      ∧ leAt [1, 2, 3, 4] 0 4 ≠ leAt (drawRequest [1, 2, 3, 5]).payload 28 4 := by decide +kernel
/-- The last part of a reply that is not here whole, and of one that is. -/
theorem witness_sample_reply :
    let b := fun (part : Nat) => [0, 0, 0, 0] ++ leBytes 4 5 ++ leBytes 8 0 ++ leBytes 4 part ++ leBytes 2 0 ++ leBytes 2 1 ++ List.replicate 8 0
    let q : Packet := { src := 1, payload := b 1 }
    let w := drawer.w
    let x : RemoteDraw := { tag := 5, parent := 0 }
    plainPacket w q = true ∧ tagInst q.tag.toNat = 0 ∧ (w.cluster 0).smp.run = some { tinyRun with remote := [x] }
      ∧ ([x].find? fun z => decide (z.tag = leAt q.payload 4 4)) = some x ∧ w.plan 0 tinyRun.plan = some tinyPlan ∧ leAt q.payload 1 1 = 0
      ∧ bitAt (leAt q.payload 22 2) 0 = true ∧ { x with parts := [(1, [])], lastPart := some 1 }.whole = none
      ∧ { x with parts := [(0, [])], lastPart := some (leAt (b 0) 16 4) }.whole = some [] := by decide +kernel

/-- Ordered, early, and out of step. -/
theorem witness_waiting_packets :
    let q := readPacket 0 8
    net.inService = true ∧ packetOf (.readReq q) = some (0x01, q) ∧ net.w.fab.trained = true ∧ net.w.fab.position.isSome = true ∧ addrSpace q.address.toNat ≠ 3
      ∧ pktOrder { q with flags := 1 } = true ∧ AMap.get 0 net.w.fab.pairReceived 1 < { q with flags := 1, pairCount := 1 }.pairCount
      ∧ pktOrder { q with flags := 64 } = false ∧ pktStepped { q with flags := 64 } = true ∧ net.w.fab.orderHeld = [] ∧ net.w.jobRuns 0 = true
      ∧ (1 : BitVec 8).toNat = ((net.w.part 0).step % 256 + 1) % 256 ∧ (2 : BitVec 8).toNat ≠ (net.w.part 0).step % 256
      ∧ (2 : BitVec 8).toNat ≠ ((net.w.part 0).step % 256 + 1) % 256 ∧ net.w.forwards 3 := by unfold World.forwards; decide +kernel
/-- A packet in transit through port 15 with nothing, with 6 and with 7 packets before it, to a module that works and to one that has failed. -/
def transit (n : Nat) (failed : List Nat) : Machine.State :=
  up { netWorld 1 0 {} with fab := { netFab 0 with ports := [(15, { state := 1 })], buffers := [(4 * 15 + 3, List.replicate n (1, {}))], failed := failed } }
theorem witness_transit :
    let q : Packet := { readPacket 0 8 with dst := 1, flags := 48 }
    bitsAt q.flags.toNat 4 2 = 3 ∧ (transit 6 []).w.portUp 15 = true ∧ (transit 6 []).w.physicalOf q.dst.toNat = some 1 ∧ (transit 6 [1]).w.fab.failed.contains 1 = true
      ∧ (transit 6 []).w.fab.failed.contains 1 = false ∧ (∀ n ∈ [6, 7], (AMap.get [] (transit n []).w.fab.buffers 63).contains (1, q) = false) ∧ 6 + 2 ≤ 8 ∧ 8 < 7 + 2
      ∧ (AMap.get [] (transit 7 []).w.fab.buffers 63).length + 1 ≤ 8 ∧ bitAt q.flags.toNat 3 = false ∧ bitAt { q with flags := 56 }.flags.toNat 3 = true
      ∧ (0 : BitVec 8).toNat = 0 ∧ 0x12 ≤ (0x12 : BitVec 8).toNat := by decide +kernel
/-- Two inputs wait for the output port to slot 1; the turn is at input 15, and then at the other. -/
theorem witness_rotation :
    let q : Packet := { readPacket 0 8 with dst := 1, flags := 48 }
    let s := fun (turn : Nat) => up { netWorld 1 0 {} with fab := { netFab 0 with
      ports := [(0, { state := 1 }), (14, { state := 1 }), (15, { state := 1 })], buffers := [(59, [(1, q)]), (63, [(1, q)])], portTurn := [(0, turn)] } }
    (s 15).w.inputServed ((s 15).w.transitHop q 1).1 = some 15 ∧ (s 14).w.inputServed ((s 14).w.transitHop q 1).1 ≠ some 15
      ∧ (AMap.get [] (s 15).w.fab.buffers 63).contains (1, q) = true ∧ (s 15).w.portUp 15 = true ∧ (s 15).w.physicalOf q.dst.toNat = some 1
      ∧ (after (.packetHop ⟨15, false⟩ 1 q) (s 15)).w.out.length = 1 := by decide +kernel

/-- A gradient of 2 elements whose sum position 1 homes. -/
def reduceBundle : Bundle :=
  { tensors := [{ id := 1, recipe := { windowT := 40 }, elements := 2, dims := [2, 1], map := some { mode := 3, barrier := 1, generation := 1, accum := 4096, out := 8192, target := 2 } },
                { id := 2, elements := 2, dims := [2, 1], map := some { mode := 2, shard := 2048, rows := 2 } }] }
def reduceSender : Machine.State := up { netWorld 1 0 reduceBundle with dbars := [(1, { cur := 1, expected := 1 })] }
theorem witness_reduce_start :
    let w := reduceSender.w
    reduceSender.inService = true ∧ (w.reduceMap 1).isSome = true ∧ w.jobRuns 0 = true ∧ w.canSend = true ∧ w.fab.reduceSent = [] ∧ ((w.reduceMap 1).any fun y => w.reduceDue y.2) = true
      ∧ w.config.positions = 2 ∧ ((w.reduceMap 1).any fun y => decide (w.reduceRange y.2 0 = (0, 0)) && decide (w.reduceRange y.2 1 = (0, 2))) = true
      ∧ w.config.positionAt 1 ≠ w.ownPosition ∧ w.physicalOf (w.config.positionAt 1) = some 1 := by decide +kernel
theorem no_failed_channel (w : World) (h : w.channels = []) (p a n : Nat) : w.hbmFailed p a n = false := by
  unfold World.hbmFailed; simp [h, AMap.get]
theorem witness_reduce_channels : ∀ a n, reduceSender.w.hbmFailed 0 a n = false := no_failed_channel _ rfl 0
/-- The home, before and after this module's own cells are in. -/
def reduceHome (rs : List Reduce) : Machine.State := up { netWorld 1 1 reduceBundle with fab := { netFab 1 with reduces := rs } }
theorem witness_reduce_data :
    let q : Packet := { src := 0, address := BitVec.ofNat 64 (globalAddr 1 4096), payload := List.replicate 32 0 }
    let w := (reduceHome [{ tensor := 1, got := [(1, 2)] }]).w
    plainPacket w q = true ∧ w.jobRuns 0 = true ∧ ((w.reduceAt (addrOffset q.address.toNat)).any fun y => decide (y.1.id = 1)) = true
      ∧ addrOffset q.address.toNat = 4096 + 16 * 0 ∧ q.payload.length = 16 * 2 ∧ 0 + 2 ≤ 2 ∧ (w.loadEnv 0).dense = 1 ∧ (w.part 0).good.Nodup ∧ (w.part 0).dir = []
      ∧ 4096 + 32 ≤ w.hbmCapacity 0 ∧ w.guardHits 0 4096 32 = [] ∧ w.guardHits 0 8192 8 = [] ∧ rangesMeet 4096 32 8192 8 = false
      ∧ w.hbmFailed 0 4096 32 = false ∧ w.hbmFailed 0 8192 8 = false
      ∧ (reduceHome []).w.fab.reduces = [] ∧ w.config.positionAt 1 ≠ q.src.toNat := by decide +kernel

/-- The head of group 1, and the domain's, with one report of 2 or 4 in. -/
def heads (pos : Nat) (gens : AMap TreeGen) : Machine.State := up { netWorld 2 pos {} with fab := { netFab pos with gens := gens } }
theorem witness_tree_group :
    let s := heads 16 [(0, { reports := [16], msg := { entries := 1, fromPosition := 16 } })]
    let m : TreeMsg := { entries := 1, fromPosition := 17 }
    s.inService = true ∧ s.w.fab.trained = true ∧ s.w.domainHead = false ∧ s.w.groupHead = true ∧ m.kind.toNat < 2 ∧ 0 < m.entries ∧ 17 ∉ (s.w.gen (genKey m)).reports
      ∧ s.w.config.activeSlots ≤ (s.w.gen (genKey m)).msg.entries + m.entries ∧ ((heads 16 []).w.gen (genKey m)).msg.entries + m.entries < 2
      ∧ s.w.treeSettled (genKey m) := by unfold World.treeSettled; decide +kernel
/-- Position 16's report of the next generation waits, and joins it once the report of 17 has completed this one (R416). -/
theorem witness_tree_held :
    let s := heads 16 [(0, { reports := [16], msg := { entries := 1, fromPosition := 16 } })]
    let m : TreeMsg := { entries := 1, fromPosition := 16 }
    let t := after (.treeUp m) s
    16 ∈ (s.w.gen (genKey m)).reports ∧ (s.w.gen (genKey m)).msg.entries < s.w.config.activeSlots ∧ s.w.treeSettled (genKey m) ∧ s.w.fab.treeHeld.length < 2
      ∧ t.w.fab.treeHeld = [m] ∧ 17 ∉ (t.w.gen (genKey m)).reports ∧ 0 < m.entries ∧ m.entries < t.w.config.activeSlots
      ∧ ((after (.treeUp { m with fromPosition := 17 }) t).w.gen 0).reports = [16] := by unfold World.treeSettled; decide +kernel
theorem witness_tree_domain :
    let s := heads 0 [(0, { reports := [0], msg := { entries := 2, sent := 1, received := 2 } })]
    let m : TreeMsg := { entries := 2, fromPosition := 16, received := 1 }
    s.w.domainHead = true ∧ s.w.fab.aborted = false ∧ m.kind = 0 ∧ m.barrier % 16 = 0 ∧ 16 ∉ (s.w.gen (genKey m)).reports ∧ s.w.fab.drain.active = false
      ∧ s.w.fab.drain.requested = false ∧ s.w.config.positions ≤ (s.w.gen (genKey m)).msg.entries + m.entries
      ∧ (s.w.gen (genKey m)).msg.received + m.received = (s.w.config.positions - 1) * ((s.w.gen (genKey m)).msg.sent + m.sent)
      ∧ (s.w.gen (genKey m)).msg.received + { m with received := 0 }.received ≠ (s.w.config.positions - 1) * ((s.w.gen (genKey m)).msg.sent + m.sent)
      ∧ s.w.treeSettled (genKey m) := by unfold World.treeSettled; decide +kernel
/-- A module that has entered the step barrier of step 5, a domain barrier and a cask of that step. -/
def entered : Machine.State :=
  up { netWorld 2 16 {} with
       parts := [(0, { runPart {} with inBarrier := true, step := 5, dir := [rowTable] })], dbars := [(15, { cur := 1, expected := 1, reported := true, members := [0] })]
       cask := { inProgress := some 5 } }
theorem witness_tree_down :
    entered.inService = true ∧ entered.w.fab.trained = true ∧ entered.w.fab.position.isSome = true ∧ entered.w.jobRuns 0 = true ∧ (entered.w.part 0).inBarrier = true
      ∧ (entered.w.part 0).step = 5 ∧ (entered.w.bar (domBarKey 0 15)).reported = true ∧ entered.w.cask.inProgress = some 5 ∧ entered.w.groupHead = true
      ∧ entered.w.domainHead = false := by decide +kernel
theorem witness_domain_barrier_timeout :
    let s : Machine.State := { up { netWorld 2 0 {} with fab := { netFab 0 with gens := [(15, { reports := [0] })] }, regs := [(Block.uzo.addr 0 0x008, 1)] } with
      sid := { now := 1000000000000 } }
    s.w.domainHead = true ∧ (s.w.gen 15).reports ≠ [] ∧ s.w.fab.drain.active = false ∧ s.w.fab.aborted = false
      ∧ (s.w.gen 15).firstAt + max 1 (s.w.regField (Block.fab.addr 0 0x000) 48 16) * 1000000 ≤ s.sid.now ∧ s.w.forwards 3 := by
  unfold World.forwards; decide +kernel
theorem witness_ports :
    let s := up { netWorld 1 0 {} with fab := { netFab 0 with ports := [(15, { state := 1, failedRetrains := 2 })], reports := [(1, 2)] } }
    s.inService = true ∧ (AMap.get {} s.w.fab.ports 15).state = 1 ∧ 3 ≤ (AMap.get {} s.w.fab.ports 15).failedRetrains + 1 ∧ s.w.portUp 15 = true ∧ s.w.fab.trained = true
      ∧ (1 : Nat) ≠ s.w.fab.slot ∧ s.w.config.populated 1 = true ∧ (1, 3) ∉ s.w.fab.reports ∧ (∃ r ∈ s.w.fab.reports, r.1 = 1) ∧ ∀ r ∈ s.w.fab.reports, r.1 ≠ 16 := by
  decide +kernel
/-- Port 15 leads to the spare in slot 16: a training that completes, one that sees another slot, and one that loses its lanes. -/
def retrain (step slot lanes : Nat) : PortTraining :=
  { lastStep := step, partnerDomain := 0, partnerGroup := 0, partnerSlot := slot, partnerPort := 0, partnerCaps := 0, lanesUp := lanes, lossDb := 24, rttTenthNs := 100 }
def retrained : Machine.State :=
  up { netWorld 1 0 {} with fab := { netFab 0 with
    ports := [(15, { state := 1, failedRetrains := 2, replay := [(8, 1, {}), (9, 1, {})] })], circuits := [{ src := 0, dst := 16, path := [(0, 15)], slots := [0] }] } }
theorem witness_port_retrain :
    let w := retrained.w
    let check := fun (x : PortTraining) => checkReason w.config (bitsAt retrained.sec.fwVersion.toNat 24 8) (0, 16, 0) x
    w.config.partnerOf w.config.group w.fab.slot 15 = some (0, 16, 0) ∧ lossClass 24 = some 1 ∧ lossClass 41 = none ∧ check (retrain 6 16 4) = none
      ∧ check (retrain 6 2 4) = some 0 ∧ check (retrain 6 16 0) = none ∧ (AMap.get {} w.fab.ports 15).state = 1
      ∧ (∃ c ∈ w.fab.circuits, c.src = w.ownPosition ∧ (w.config.group * 17 + w.fab.slot, 15) ∈ c.path) := by decide +kernel
theorem test_port_retrain :
    let port := fun (x : PortTraining) => AMap.get {} (after (.portRetrain 15 x.toPortPartner x.toPortMeasured 9) retrained).w.fab.ports 15
    (port (retrain 6 16 2)).lanes = 2 ∧ (port (retrain 6 16 4)).replay = [(9, 1, {})] ∧ (port (retrain 6 2 4)).state = 2 ∧ (port (retrain 6 16 0)).state = 0
      ∧ (port (retrain 3 16 4)).state = 0 := by decide +kernel
/-- This module's own figures leave, and another slot's are kept (R402). -/
theorem test_queue_figures :
    (after (.queueFigureExchange 0 ⟨[], 0⟩) net).w.out.length = 1 ∧ AMap.get [] (after (.queueFigureExchange 3 ⟨[7], 5⟩) net).w.fab.figures 3 = [7]
      ∧ AMap.get 0 (after (.queueFigureExchange 3 ⟨[7], 5⟩) net).w.fab.downPorts 3 = 5 := by decide +kernel
/-- Every pair of a group of 3 has a circuit for casks, and takes another slot of a link than the pairs before it (R408, R409). -/
theorem test_circuits :
    let w := { netWorld 1 0 {} with config := { domainGroups := 1, activeSlots := 3 }, fab := { netFab 0 with posTable := [(0, 0), (1, 1), (2, 2)] } }
    w.circuitTable.length = 6 ∧ (w.circuitTable.map (·.slots)) = List.replicate 6 [0] := by decide +kernel

/-! ### Drains, step boundary, live loop, Ethernet, time, twins (witnesses of `DrainInstallsTables` to `TwinsCompareAndRollBack`) -/

/-- The head and another module in a drain. -/
def draining (pos : Nat) (d : Drain) : Machine.State := up { netWorld 1 pos {} with fab := { netFab pos with physical := pos, drain := d } }
theorem witness_drain :
    let s := draining 0 { active := true, injecting := false }
    s.inService = true ∧ s.w.fab.trained = true ∧ ([(1, 0xFFFF), (0, 1)].map (·.1)).Nodup ∧ s.w.fab.drain.active = true ∧ s.w.fab.drain.injecting = false
      ∧ s.w.fab.drain.installed = false ∧ s.w.domainHead = true ∧ (draining 1 {}).w.domainHead = false ∧ s.w.drainCounts = (0, 0, 0)
      ∧ (∀ p ∈ (List.range s.w.config.positions).map s.w.config.positionAt, s.w.physicalOf p = some p ∧ (p = s.w.fab.physical ∨ ∃ r ∈ [(1, 5, 4, 1)], r.1 = p))
      ∧ 1 ≠ s.w.fab.physical ∧ 1 ∉ s.w.fab.failed ∧ s.w.positionHeld 1 = some 1 := by decide +kernel
theorem witness_resume :
    let s := draining 0 { active := true, injecting := false, installed := true }
    s.w.fab.drain.active = true ∧ s.w.fab.drain.installed = true ∧ s.w.fab.drain.status ≠ 2 ∧ s.w.forwards 0 ∧ s.w.domainHead = true := by
  unfold World.forwards; decide +kernel
theorem test_drain_round : (after (.drainCountRound [(1, 5, 4, 1)]) (draining 0 { active := true, injecting := false })).w.out.length = 2
    ∧ (after (.drainCountRound [(1, 5, 4, 0)]) (draining 0 { active := true, injecting := false })).w.out.length = 1 := by decide +kernel

/-- A module whose step 3 has no work left. -/
def stepDoneState (x : Part → Part) (pos : Option Nat) : Machine.State :=
  up { netWorld 1 0 {} with parts := [(0, x { runPart {} with started := true, running := false, step := 3, good := [0], dir := [rowTable] })]
                            fab := { netFab 0 with position := pos }, hop := { applied := 5 } }
theorem witness_step_work_done :
    (stepDoneState id (some 0)).inService = true ∧ (stepDoneState id (some 0)).w.stepDone 0 = true ∧ ((stepDoneState id (some 0)).w.part 0).closeSent = false := by decide +kernel
theorem witness_step_migrates :
    let s := stepDoneState (fun x => { x with closeSent := true, kilnDone := true, accepted := [(2, 3, 1)] }) (some 0)
    s.w.stepDone 0 = true ∧ (s.w.part 0).closeSent = true ∧ (s.w.part 0).kilnDone = true ∧ (s.w.part 0).migrateSent = false ∧ (s.w.part 0).accepted = [(2, 3, 1)]
      ∧ (s.w.part 0).entry 2 = some rowTable ∧ s.w.physicalOf 1 = some 1 ∧ s.w.fab.failed.contains 1 = false ∧ 0 < rowTable.recordBytes ∧ rowTable.recordBytes ≤ 2048 := by
  decide +kernel
theorem witness_step_enters :
    let f := fun (x : Part) => { x with closeSent := true, kilnDone := true, migrateSent := true }
    (∀ o ∈ [none, some 0], (stepDoneState f o).w.stepDone 0 = true ∧ ((stepDoneState f o).w.part 0).migrateSent = true ∧ (stepDoneState f o).w.cask.journalUnacked = 0
      ∧ ((stepDoneState f o).w.part 0).migrateOut = 0 ∧ (stepDoneState f o).w.ringFull = false) ∧ (stepDoneState f (some 0)).w.inTree 0 = true
      ∧ (stepDoneState f none).w.inTree 0 = false := by decide +kernel
/-- Groups of 3 modules, a Journal tensor, and no room for a journal entry. -/
theorem witness_step_ring_full :
    let s := up { (stepDoneState (fun x => { x with closeSent := true, kilnDone := true, migrateSent := true, dir := [{ rowTable with bytes := 2 ^ 30 }] }) (some 0)).w with
      config := { domainGroups := 1, activeSlots := 3 }, cask := { reserve := [{ kind := 1, bytes := [1] }] } }
    s.w.stepDone 0 = true ∧ s.w.ringFull = true ∧ s.w.cask.ringHeld = false := by decide +kernel

/-- A feed datagram of one record, of the batch that its time gives. -/
def feedBytes (time : Nat) : List Byte :=
  beBytes 4 0x4D4A4644 ++ beBytes 2 1 ++ beBytes 2 1 ++ beBytes 4 7 ++ beBytes 4 0 ++ beBytes 8 9 ++ List.replicate 8 0
    ++ [4, 0] ++ beBytes 2 32 ++ beBytes 4 2 ++ beBytes 8 time ++ beBytes 8 3 ++ List.replicate 8 0
/-- An Ethernet port that is on: an interface on port 3, and an entry of another role. -/
def ethWorld (role : Nat) (w : World) : World :=
  { w with config := { w.config with ethMode := 3, ethPresent := true, ethTable := [{ role := 0, port := 3 }, { role := role, port := 3, udpPort := 5000, classMask := 1 }] }
           eth := { linkUp := 8 } }
/-- The intake ring is the 1 MiB at 1 MiB. -/
def feeding (h : Hop_) : Machine.State :=
  up (ethWorld 1 { netWorld 1 0 {} with hop := { h with spacingMs := 1 }, regs := [(Block.hop.addr 0 0x008, 2 ^ 48 + 2 ^ 20), (Block.uzo.addr 0 0x008, 1)] })
theorem witness_feed :
    let s := feeding { intakeOk := true, closed := 1 }
    let d : Datagram := { port := 3, dstPort := 5000, payload := feedBytes 0 }
    s.inService = true ∧ s.w.ethHears d.port.val = true ∧ (s.w.config.ethTable.any fun e => decide (e.role = 1) && decide (e.udpPort = d.dstPort.toNat)) = true
      ∧ s.w.jobRuns 0 = true ∧ s.w.hop.intakeOk = true ∧ (feeding {}).w.hop.intakeOk = false ∧ feedRecords s.w.config.domainId [] = none
      ∧ feedRecords s.w.config.domainId d.payload = some [(feedBytes 0).drop 32] ∧ d.payload.length ≤ receiveBuffer ∧ s.w.hop.receive = [] ∧ s.w.canSend = true
      ∧ s.w.hop.replaying = false ∧ (s.w.hop.inRings.map fun y => y.2.2).sum + ((feedBytes 0).drop 32).length ≤ s.w.ringBytes / max 1 s.w.allPositions.length
      ∧ s.w.hop.batchAt (s.w.part 0).c0 (recTime ((feedBytes 0).drop 32)) = 1 ∧ s.w.hop.closed ≤ 1
      ∧ 1 < (feeding { intakeOk := true, closed := 2 }).w.hop.closed ∧ s.w.hop.lateStep ≠ some (s.w.part 0).step := by decide +kernel
theorem witness_feed_home (m : Memory) : { (feeding {}).w with hbm := m }.recordHome ((feedBytes 0).drop 32) = (feeding {}).w.ownPosition := rfl
/-- A record and a CLOSE marker from position 1. -/
theorem witness_feed_packets :
    let s := feeding { applied := 1, markers := [(1, [0])] }
    let q : Packet := { src := 1, payload := leBytes 8 1 ++ leBytes 4 7 ++ leBytes 2 0 ++ leBytes 2 0 ++ leBytes 8 9 ++ List.replicate 8 0 ++ (feedBytes 0).drop 32 }
    let m : Packet := { src := 1, payload := markerImage 1 0 }
    plainPacket s.w q = true ∧ s.w.physicalOf 1 = some 1 ∧ s.w.jobRuns 0 = true ∧ (feedPacket q.payload).2 = 0 ∧ recKind (feedPacket q.payload).1.bytes ≠ 3
      ∧ recKey m.payload = 1 ∧ s.w.hop.applied = (s.w.part 0).step + 1 ∧ (∀ p ∈ s.w.allPositions, p = 1 ∨ p ∈ AMap.get [] s.w.hop.markers 1)
      ∧ (∃ p ∈ (feeding { applied := 1 }).w.allPositions, p ≠ 1 ∧ p ∉ AMap.get [] (feeding { applied := 1 }).w.hop.markers 1)
      ∧ (s.w.part 0).step + 1 < (feeding { applied := 2 }).w.hop.applied := by decide +kernel
theorem witness_batch_close :
    let s : Machine.State := { feeding { closed := 2 } with sid := { now := 4000000 } }
    s.w.jobRuns 0 = true ∧ s.w.canSend = true ∧ s.w.hop.receive = [] ∧ s.w.hop.cutAt (s.w.part 0).c0 2 + s.w.hop.graceUs * 1000 ≤ s.sid.now
      ∧ 1 ∈ s.w.allPositions ∧ 1 ≠ s.w.ownPosition := by decide +kernel
theorem test_feed : (after (.feedDatagram { port := 3, dstPort := 5000, payload := feedBytes 0 }) (feeding { intakeOk := true, closed := 2 })).w.hop.intake.map (·.batch) = [2] := by
  decide +kernel

/-- A class 0 of numbers to −1 … 1, and one proposal for target 5. -/
def numberClass : Governor := { cls := 0, minValue := 0xBF800000, maxValue := 0x3F800000, maxStep := 0x3F800000, maxSlew := 0x3F800000 }
def tapState (x : Part → Part) (tap : Tap) (enable : Word) : Machine.State :=
  let w := ethWorld 2 (netWorld 1 0 {})
  { up { w with
      parts := [(0, x { runPart {} with good := [0], running := false })], tap := tap, hop := { deadlineMs := 100 }
      config := { w.config with governor := [numberClass] }
      hbm := (({} : Memory).write 0 [1]).write 16 (leBytes 6 5 ++ [0, 1] ++ leBytes 4 0x40000000)
      regs := [(Block.tap.addr 0 0x000, 2 ^ 48), (Block.tap.addr 0 0x008, 2 ^ 48 + 4096), (Block.tap.addr 0 0x010, enable), (Block.uzo.addr 0 0x008, 1)] } with
    sid := { now := 100000000 } }
theorem witness_overrun :
    let s := tapState (fun x => { x with running := true, eval := true }) {} 1
    s.inService = true ∧ s.w.jobRuns 0 = true ∧ (s.w.part 0).running = true ∧ (s.w.part 0).eval = true ∧ s.w.tap.discarded = false
      ∧ s.w.tap.slotStart + s.w.hop.deadlineMs * 1000000 ≤ s.sid.now := by decide +kernel
theorem witness_emit :
    let s := tapState id { emitted := false } 1
    s.w.tap.emitted = false ∧ (s.w.part 0).running = false ∧ s.w.tap.discarded = false ∧ s.w.regField (Block.tap.addr 0 0x010) 0 1 = 1
      ∧ s.w.config.governorBad = false ∧ s.w.twinPermits = true ∧ s.w.config.governor = [numberClass] ∧ s.w.proposals.1 = [⟨5, 0, 0x40000000⟩]
      ∧ 4096 + 64 ≤ s.w.hbmCapacity 0 ∧ s.w.guardHits 0 4096 64 = [] ∧ (s.w.part 0).dir = [] ∧ (s.w.part 0).good.Nodup
      ∧ (s.w.config.ethTable.filter fun e => decide (e.role = 2) && bitAt e.classMask 0) ≠ []
      ∧ (∀ e ∈ (s.w.config.ethTable.filter fun e => decide (e.role = 2) && bitAt e.classMask 0), s.w.ethSends e.port = true)
      ∧ (tapState id { emitted := false } 0).w.regField (Block.tap.addr 0 0x010) 0 1 = 0 := by decide +kernel
theorem witness_emit_place :
    let s := tapState id { emitted := false } 1
    s.w.pairPlace ⟨5, 0, 0x40000000⟩ = some (4096, false) := by
  intro s
  have h : s.w.tapRegion 0x008 0 65536 64 = (4096, 65536) := by decide +kernel
  unfold World.pairPlace
  rw [h]
  show List.findSome? _ (List.range (65535 + 1)) = _
  rw [List.range_succ_eq_map, List.findSome?_cons, if_pos (by decide +kernel)]
/-- Within MIN_HOLD of the last change, and a binary class. -/
theorem witness_govern :
    0 * 1000000 < (PairState.mk 0 5 []).change + numberClass.minHoldMs * 1000000 ∧ { numberClass with binary := true }.binary = true := by decide +kernel

theorem witness_ethernet :
    let s := up (ethWorld 1 (netWorld 1 0 {}))
    let m : World := { s.w with config := { s.w.config with ethTable := [{ role := 0, port := 3, macsec := true }] }, eth := { linkUp := 8, keys := [{ port := 3, receive := true }] } }
    s.inService = true ∧ s.w.config.ethOn = true ∧ (s.w.config.ethTable.any fun e => decide (e.role = 0) && decide (e.port = 3)) = true ∧ s.w.config.ethMode = 3
      ∧ s.w.ethUp 3 = true ∧ s.w.ethHears 3 = true ∧ s.w.ethSends 3 = true ∧ m.ethUp 3 = true ∧ m.macPort 3 = true ∧ m.macKeyed 3 true = true := by decide +kernel
theorem test_echo : (after (.ethFrameRx (.icmpEcho 3 false [1, 2, 3, 4] [9])) (up (ethWorld 1 (netWorld 1 0 {})))).w.out.length = 1 := by decide +kernel

/-- A module whose parent is port 47, with `n` offsets. -/
def following (n : Nat) (step : Bool) : Machine.State :=
  { up { netWorld 1 1 {} with fab := { netFab 1 with ports := [(47, { state := 1, rttTenthNs := 30 })] } } with
    sid := { now := 1000000, lock := .locked, parent := some 47, offsets := List.replicate n 3, canStep := step, goodMarks := 15 } }
theorem witness_marks :
    (following 6 true).inService = true ∧ (following 6 true).sid.isRoot = false ∧ (following 6 true).sid.parent = some 47 ∧ (following 6 true).w.portUp 47 = true
      ∧ ((1 : Int) :: (following 6 true).sid.offsets).length < 8 ∧ (((1 : Int) :: (following 7 true).sid.offsets).take 8).length = 8 ∧ (following 7 true).sid.canStep = true
      ∧ (following 7 false).sid.canStep = false ∧ (following 7 true).sid.parent ≠ some 46 ∧ (following 7 true).sid.lock ≠ .holdover
      ∧ (following 7 true).sid.lastMark + 100000 ≤ (following 7 true).sid.now ∧ (List.replicate 8 (3 : Int)).length = 8 := by decide +kernel
theorem witness_root :
    let s : Machine.State := { up (ethWorld 5 { netWorld 1 0 {} with config := { domainGroups := 1, activeSlots := 2, sidSource := 1 } }) with
      sid := { now := 1600000000, isRoot := true, lock := .root } }
    let s' := up { netWorld 1 0 {} with config := { domainGroups := 1, activeSlots := 2, sidSource := 2 } }
    s.inService = true ∧ s.sid.isRoot = true ∧ s.w.config.sidSource = 1 ∧ (s.w.ethRole 5).isSome = true ∧ s.w.ethHears 3 = true ∧ ((s.w.ethRole 5).any fun e => decide (e.port = 3)) = true
      ∧ s'.w.config.sidSource = 2 ∧ s.sid.lock ≠ .holdover := by decide +kernel
theorem witness_slew : (up baseWorld).pwr.phase ≠ .off ∧ ({ pendingSlew := -51 } : Sid).pendingSlew ≠ 0 ∧ (0 : Int) < 1 ∧ (-51 : Int) < 0 := by decide +kernel
theorem test_mark_steps : (after (.timeMark 47 1000001) (following 7 true)).sid.now = 1000003 ∧ (after (.timeMark 47 1000001) (following 7 false)).sid.now = 1000000 := by
  decide +kernel
theorem test_slew : (after .slewTick { up baseWorld with sid := { now := 100, pendingSlew := 60 } }).sid.now = 150 := by decide +kernel

/-- The head of twin domain 2, paired, with what it knows of step 4; the bundle's digest begins with 9. -/
def twinState (x : Twin) (steps : Option Nat) : Machine.State :=
  let w := ethWorld 3 (netWorld 1 0 { digest := [9, 0, 0, 0] })
  { up { w with config := { w.config with twinRole := 2 }, twin := { x with state := twinPaired }
                parts := [(0, { runPart { digest := [9, 0, 0, 0] } with lastSwitched := steps })] } with sid := { now := 1000000000000 } }
def twinFrame (kind : Nat) (digest : List Byte) : List Byte :=
  beBytes 4 0x4D4A5444 ++ beBytes 2 1 ++ [1, BitVec.ofNat 8 kind] ++ beBytes 8 4 ++ beBytes 8 0 ++ digest ++ beBytes 8 2 ++ List.replicate 24 255
    ++ beBytes 4 9 ++ List.replicate 36 0
theorem twin_hears (x : Twin) (steps : Option Nat) (kind : Nat) (b : List Byte) (h : b.length = 128 ∧ beAt b 0 4 = 0x4D4A5444 ∧ beAt b 4 2 = 1 ∧ beAt b 6 1 = 1
    ∧ beAt b 7 1 = kind ∧ allZero (slice b 104 24) = true ∧ beAt b 88 4 = 9) : (twinState x steps).twinHears kind b := by
  refine ⟨{ role := 3, port := 3, udpPort := 5000, classMask := 1 }, rfl, (by decide +kernel : (twinState {} none).w.ethHears 3 = true), h.1, h.2.1, h.2.2.1, ?_, h.2.2.2.2.1, h.2.2.2.2.2.1, rfl, rfl, h.2.2.2.2.2.2⟩
  rw [h.2.2.2.1]; rfl
theorem witness_twin_frames :
    (∀ k ∈ [0, 1, 2], let b := twinFrame k (List.replicate 32 1)
      b.length = 128 ∧ beAt b 0 4 = 0x4D4A5444 ∧ beAt b 4 2 = 1 ∧ beAt b 6 1 = 1 ∧ beAt b 7 1 = k ∧ allZero (slice b 104 24) = true ∧ beAt b 88 4 = 9)
      ∧ beAt (twinFrame 0 []) 8 8 = 4 ∧ slice (twinFrame 0 (List.replicate 32 1)) 24 32 = List.replicate 32 1 ∧ (twinState {} none).inService = true := by decide +kernel
theorem witness_twin_digests :
    let x := (twinState { digests := [(4, List.replicate 32 1)] } none).w.twin
    AMap.get [] x.partner 4 = [] ∧ x.replayStep = none ∧ AMap.get [] x.digests 4 ≠ [] ∧ AMap.get [] x.digests 4 = List.replicate 32 1
      ∧ AMap.get [] x.digests 4 ≠ List.replicate 32 2 ∧ AMap.get [] { x with partner := [(4, [1])] }.partner 4 ≠ [] ∧ x.replayStep ≠ some 4
      ∧ { x with replayStep := some 4 }.replayStep = some 4 := by decide +kernel
theorem witness_twin_forms :
    let s := twinState {} (some 4)
    (s.w.part 0).lastSwitched = some 4 ∧ s.w.config.twinRole ≠ 0 ∧ s.w.jobRuns 0 = true ∧ (∀ e ∈ (s.w.part 0).dir, e.catchupDone = true) ∧ s.w.twin.formed ≠ some 4
      ∧ s.w.fab.position.isSome = true ∧ s.w.twin.talks = true ∧ (s.w.ethRole 3).isSome = true ∧ s.w.ethSends 3 = true ∧ s.w.headOfDomain = true
      ∧ s.w.twin.lastFrameAt + s.w.twinTimeout ≤ s.sid.now := by decide +kernel

/-! ### Casks, transfers, restores, observability (witnesses of `StripesRestoreAnyLoss` to `DumpsAndTailsAreControlled`) -/

theorem witness_stripes : (0 : Nat) < 1 ∧ (stripesOf 3 [1, 2, 3, 4]).length = 4 := by decide +kernel
/-- Position 0 of a group of 3 modules, and of a domain without peers. -/
def groupedWorld (x : Cask) (p : Part → Part) : World :=
  { netWorld 1 0 {} with
    config := { domainGroups := 1, activeSlots := 3 }, cask := x, parts := [(0, p { runPart {} with good := [0] })]
    fab := { netFab 0 with posTable := [(0, 0), (1, 1), (2, 2)] } }
def aloneWorld (x : Cask) : World := { netWorld 1 0 {} with config := { domainGroups := 1, activeSlots := 1 }, cask := x }
theorem witness_risk :
    let s : Machine.State := { up (groupedWorld { riskHist := [(1, 0, 0, 0, 0)] } id) with sid := { now := 60000000001 } }
    s.inService = true ∧ (s.w.cask.riskHist.find? fun y => decide (y.1 + 60000000000 ≤ s.sid.now)) = some (1, 0, 0, 0, 0) := by decide +kernel
theorem witness_cask_parts :
    let s := up (groupedWorld { inProgress := some 4 } id)
    s.w.cask.inProgress = some 4 ∧ s.w.jobRuns 0 = true ∧ s.w.cask.kilnSent = false ∧ s.w.canSend = true ∧ s.w.cask.stop = none := by decide +kernel
/-- The mirror stop, which the last acknowledgement ends after 3 µs. -/
def stopping : Machine.State :=
  { up (groupedWorld { inProgress := some 4, stop := some 1000, unacked := 1 } fun x => { x with due := some false }) with sid := { now := 4000 } }
theorem witness_mirror_stop :
    let q : Packet := { src := 1, tag := BitVec.ofNat 32 (mkTag 7 4 0) }
    stopping.inService = true ∧ plainPacket stopping.w q = true ∧ tagKind q.tag.toNat = 7 ∧ tagInst q.tag.toNat = 4 ∧ stopping.w.jobRuns 0 = true
      ∧ (after (.writeAck q) stopping).w.cask.lastStopUs = 3 := by decide +kernel
theorem test_mirror_stop_holds_run : (after (.runStart 0 false) { stopping with w := stopping.w.updHop fun h => { h with applied := 5 } }).w.cask.stop = some 1000
    ∧ ((after (.runStart 0 false) { stopping with w := stopping.w.updHop fun h => { h with applied := 5 } }).w.part 0).due = some false := by decide +kernel
/-- A manifest that is to be signed, one that is to be kept without peers, to be sent, and to be reported. -/
theorem witness_cask_commit :
    let c : Cask := { inProgress := some 4, kilnSent := true }
    let m : Cask := { c with manifest := List.replicate 16 1 }
    (∀ w ∈ [groupedWorld c id, aloneWorld m, groupedWorld m id, groupedWorld { m with manifestSent := true } id],
      w.jobRuns 0 = true ∧ w.cask.inProgress = some 4 ∧ w.caskReady = true ∧ w.cask.reported = false ∧ w.canSend = true)
      ∧ c.manifest = [] ∧ c.signing = false ∧ m.manifest ≠ [] ∧ (aloneWorld m).inGroup = false ∧ (groupedWorld m id).inGroup = true
      ∧ (groupedWorld m id).peers = [1, 2] ∧ (groupedWorld m id).physicalOf 2 = some 2 := by decide +kernel
theorem witness_base :
    let e : DirEntry := { rowTable with bytes := 2 ^ 30 }
    let w := groupedWorld {} fun x => { x with dir := [e], lastSwitched := some 4 }
    (w.part 0).entry 2 = some e ∧ (w.part 0).lastSwitched = some 4 ∧ w.jobRuns 0 = true ∧ w.inGroup = true ∧ e.journals = true ∧ w.cask.baseRun = none
      ∧ w.canSend = true ∧ w.baseDue e = true := by decide +kernel
/-- A piece of each kind at its boundary. -/
def piecePacket (kind : Nat) : Packet := { src := 1, payload := pieceImage kind { owner := 1, step := 4, bytes := [1] } }
theorem witness_pieces :
    let w := groupedWorld { reserve := [{ owner := 1, step := 4, bytes := [7] }], fetching := some { step := 4 } } id
    (∀ k ∈ [0, 2, 3, 4, 7, 8, 11], plainPacket w (piecePacket k) = true ∧ leAt (piecePacket k).payload 0 1 = k) ∧ (parsePiece (piecePacket 2).payload).bytes.length ≠ 8
      ∧ w.physicalOf 1 = some 1 ∧ w.cask.fetching = some { step := 4 } := by decide +kernel
theorem test_piece_kept : (after (.cask (piecePacket 3)) (up (groupedWorld {} id))).w.cask.reserve.length = 1 := by decide +kernel

/-- A module whose store is heard on port 3. -/
def storing (grouped : Bool) (c : Cask) : Machine.State := up (ethWorld 4 (if grouped then groupedWorld c id else aloneWorld c))
theorem witness_export :
    (∀ b ∈ [true, false], (storing b { exportDue := some 4 }).inService = true ∧ (storing b { exportDue := some 4 }).w.cask.exportDue = some 4
      ∧ (storing b { exportDue := some 4 }).w.cask.transfer.active = false ∧ (storing b { exportDue := some 4 }).w.cask.transfer.dump = none
      ∧ (storing b { exportDue := some 4 }).w.store.isSome = true ∧ (storing b { exportDue := some 4 }).w.inGroup = b
      ∧ (storing b { exportDue := some 4 }).w.cask.fetching = none ∧ (storing b { exportDue := some 4 }).w.canSend = true)
      ∧ (groupedWorld { exportDue := some 4 } id).store = none := by decide +kernel
/-- A frame of the store (R488). -/
def storeBytesOf (kind segment step offset seq : Nat) (data : List Byte) : List Byte :=
  beBytes 4 0x4D4A4354 ++ beBytes 1 kind ++ beBytes 1 0 ++ beBytes 2 0 ++ beBytes 4 0 ++ beBytes 4 segment ++ beBytes 8 step ++ beBytes 8 offset
    ++ beBytes 4 data.length ++ beBytes 4 seq ++ List.replicate 8 0 ++ data
theorem witness_store_hears (b : Bool) (c : Cask) (kind : Nat) (f : List Byte)
    (h : (storing b c).w.ethHears 3 = true ∧ (storing b c).w.storeFrame kind f = true) : (storing b c).w.storeHears kind f :=
  ⟨{ role := 4, port := 3, udpPort := 5000, classMask := 1 }, by cases b <;> rfl, h.1, h.2⟩
/-- Data at the length of what is here, and data that leaves a gap. -/
theorem witness_store_data :
    let f : Fetching := { step := 4, fromStore := true, store := [(0, [1])] }
    let s := storing true { fetching := some f }
    s.w.ethHears 3 = true ∧ s.w.storeFrame 0 (storeBytesOf 0 0xFFFFFFFF 4 0 0 [2]) = true ∧ s.w.storeFrame 1 (storeBytesOf 1 0 4 1 0 [2]) = true
      ∧ s.w.cask.fetching = some f ∧ beAt (storeBytesOf 1 0 4 1 0 [2]) 16 8 = f.step ∧ beAt (storeBytesOf 1 0 4 1 0 [2]) 24 8 = [1].length
      ∧ beAt (storeBytesOf 1 0 4 2 0 [2]) 24 8 ≠ [1].length ∧ f.nextAsk.isSome = true ∧ s.w.store.isSome = true := by decide +kernel
/-- The acknowledgement of END, of the data before it, an END and a refusal. -/
theorem witness_store_answers :
    let u : Nat × List Byte := (6, storeBytesOf 4 0 4 0 6 [])
    let d : Nat × List Byte := (5, storeBytesOf 1 2 4 0 5 [7, 8])
    let x := fun (l : List (Nat × List Byte)) => ({ active := true, step := 4, endSent := true, unacked := l } : Transfer)
    let s := storing true { transfer := x [u] }
    s.w.ethHears 3 = true ∧ s.w.storeFrame 2 (storeBytesOf 2 0xFFFFFFFF 4 0 6 []) = true ∧ s.w.storeFrame 2 (storeBytesOf 2 2 4 2 5 []) = true
      ∧ s.w.storeFrame 4 (storeBytesOf 4 0 4 0 0 []) = true ∧ s.w.storeFrame 5 (storeBytesOf 5 0 4 0 0 []) = true ∧ s.w.inGroup = true
      ∧ beAt (storeBytesOf 2 0xFFFFFFFF 4 0 6 []) 16 8 = 4 ∧ (x [u]).segs = [] ∧ beAt u.2 4 1 = 4 ∧ beAt (storeBytesOf 2 0xFFFFFFFF 4 0 6 []) 36 4 = u.1
      ∧ beAt (storeBytesOf 2 0xFFFFFFFF 4 0 6 []) 12 4 = 0xFFFFFFFF ∧ beAt d.2 4 1 ≠ 4 ∧ beAt (storeBytesOf 2 2 4 2 5 []) 12 4 = beAt d.2 12 4
      ∧ beAt d.2 24 8 + beAt d.2 32 4 ≤ beAt (storeBytesOf 2 2 4 2 5 []) 24 8 ∧ beAt (storeBytesOf 2 2 4 2 5 []) 12 4 ≠ 0xFFFFFFFF := by decide +kernel
theorem witness_resend :
    let x : Transfer := { active := true, unacked := [(6, [1])], resends := [(6, 99)] }
    (x.unacked.find? fun u => decide (u.1 = 6)) = some (6, [1]) ∧ AMap.get 0 x.resends 6 < 100 ∧ 100 ≤ AMap.get 0 { x with resends := [(6, 100)] }.resends 6
      ∧ x.dump = none := by decide +kernel
theorem test_export_without_store : (after .caskExport (up (groupedWorld { exportDue := some 4 } id))).w.cask.exportFailed = true := by decide +kernel

theorem witness_restore_begins :
    let w := groupedWorld {} id
    w.cask.fetching = none ∧ (w.part 0).bundle.isSome = true ∧ w.canSend = true := by decide +kernel
/-- All that a restore asked for is here: a manifest of the store that names no segment. Whether it may be used also rests on the signature, which no model value fixes. -/
theorem witness_restore_whole :
    let f : Fetching := { step := 4, fromStore := true, store := [(0xFFFFFFFF, [1])] }
    let w := groupedWorld { fetching := some f } id
    w.cask.fetching = some f ∧ f.toExport = false ∧ f.step = 4 ∧ f.written = false ∧ w.fetchDone f = true ∧ w.fab.position.isSome = true
      ∧ w.manifestGood f.manifest 4 = false := by decide +kernel
theorem witness_restore_ends :
    let f : Fetching := { step := 4, written := true }
    let w := groupedWorld { fetching := some f } id
    let m : TreeMsg := { kind := 1, barrier := 2, step := 4 }
    w.fab.trained = true ∧ w.fab.position.isSome = true ∧ m.kind = 1 ∧ m.barrier = 2 ∧ m.abort = false ∧ w.cask.fetching = some f ∧ f.step = m.step ∧ f.written = true
      ∧ w.uzo.restoreWait = none := by decide +kernel

/-- A partition with a trace region of 4,096 bytes and two records that wait, with room and with none. -/
def tracing (write : Nat) : Machine.State :=
  up { withPart { runPart {} with good := [0], traceIn := [List.replicate 32 1, []], traceActive := true, traceSize := 4096, traceWrite := write } with
       regs := [(Block.cnt.addr 0 0x008, 31), (Block.trc.addr 0 0x000, 0x7F)], cores := [(0, atWork)], trc := { link := 2, credits := 1, buffer := [List.replicate 32 3] } }
theorem witness_trace_region :
    (tracing 4000).inService = true ∧ 64 ≤ ((tracing 4000).w.part 0).traceFree ∧ ((tracing 4064).w.part 0).traceFree < 64 ∧ ((tracing 4000).w.part 0).traceLost = 0
      ∧ ((tracing 4000).w.part 0).traceAddr + 4000 + 32 ≤ (tracing 4000).w.hbmCapacity 0 ∧ ((tracing 4000).w.part 0).good.Nodup := by decide +kernel
theorem witness_pc_sample :
    let w := (tracing 0).w
    let w' : World := { w with trc := { w.trc with srcBuf := [(coreSource 0 0, List.replicate 16 [])] } }
    AMap.get false w.stopped (clusterOfCore 0) = false ∧ w.regionTraces 0 1 = true ∧ w.portTraces 1 = true ∧ w.throttles (coreSource 0 0) 1 = false ∧ w.trc.link = 2
      ∧ w.trc.buffer.length - (w.trc.buffer.filter eventRecordKind).length < portBufferRecords ∧ w'.throttles (coreSource 0 0) 1 = true := by decide +kernel
theorem witness_trace_frame :
    let w := (tracing 0).w
    w.trc.link = 2 ∧ w.regField (Block.trc.addr 0 0x000) 0 1 = 1 ∧ 0 < w.trc.credits ∧ w.trc.buffer ≠ [] ∧ w.trc.lost = 0 ∧ w.trc.srcBuf = [] := by decide +kernel
theorem test_trace_lost : ((after (.traceRegionWrite 0) (tracing 4064)).w.part 0).traceLost = 1 := by decide +kernel
/-- The CRC of `123456789` (the check value of CRC-32, log entry 98). -/
theorem test_crc : crc32 [0x31, 0x32, 0x33, 0x34, 0x35, 0x36, 0x37, 0x38, 0x39] = 0xCBF43926 := by decide +kernel

/-- A partition whose dump registers name a table of 1,024 bytes for step `n` and a region of 1 MiB at 1 MiB. -/
def dumping (d : Dump) (step n : Nat) : Machine.State :=
  up { withPart { runPart { tensors := [{ id := 2, versioned := true }] } with good := [0], dir := [rowTable], dump := d, step := step } with
       regs := [(Block.cnt.addr 0 0x020, 2), (Block.cnt.addr 0 0x028, BitVec.ofNat 64 n), (Block.cnt.addr 0 0x030, 2 ^ 48 + 2 ^ 20)], cores := [(0, atWork)] }
theorem witness_dump_go :
    let s := dumping {} 5 5
    let r := s.w.reg (Block.cnt.addr 0 0x020)
    let g := s.w.reg (Block.cnt.addr 0 0x030)
    s.inService = true ∧ (s.w.part 0).dump.state = 0 ∧ fieldOf r 25 1 = 0 ∧ (((s.w.part 0).bundle.getD {}).tensors.any fun y => decide (y.id = fieldOf r 0 24) && y.versioned) = true
      ∧ (s.w.part 0).entry (fieldOf r 0 24) = some rowTable ∧ (s.w.part 0).step ≤ (s.w.reg (Block.cnt.addr 0 0x028)).toNat
      ∧ (s.w.reg (Block.cnt.addr 0 0x028)).toNat < ((dumping {} 6 5).w.part 0).step ∧ s.w.regionBad 0 (fieldOf g 0 48) (fieldOf g 48 16 * 2 ^ 20) = false
      ∧ 64 + rowTable.bytes + 0 ≤ fieldOf g 48 16 * 2 ^ 20 ∧ ((dumping { state := 1 } 5 5).w.part 0).dump.state ≠ 0 := by decide +kernel
theorem witness_dump_end :
    let s := dumping { state := 2, addr := 2 ^ 20, image := [1, 2] } 5 5
    (s.w.part 0).dump.state = 2 ∧ (s.w.part 0).dump.ethernet = false ∧ (s.w.part 0).good.Nodup ∧ 2 ^ 20 + 2 ≤ s.w.hbmCapacity 0 ∧ s.w.guardHits 0 (2 ^ 20) 2 = []
      ∧ (∀ e ∈ (s.w.part 0).dir, rangesMeet (2 ^ 20) 2 e.penBase e.bytes = false ∧ rangesMeet (2 ^ 20) 2 e.curBase e.bytes = false)
      ∧ ({ state := 2, ethernet := true, copied := 1 } : Dump).copied ≠ 0 ∧ ({ state := 1 } : Dump).state = 1 := by decide +kernel
theorem test_go : ((after (.go 0 true) (dumping {} 5 5)).w.part 0).dump.state = 1 ∧ ((after (.go 0 true) (dumping {} 6 5)).w.part 0).dump.result = 2 := by decide +kernel

theorem test_shared_tail : (AMap.get {} (baseWorld.raiseAs {} klnSource 0x150 3 0 0).tails klnSource).frozen = some 3
    ∧ (AMap.get {} (baseWorld.raiseAs {} klnSource 0x150 2 0 0).tails klnSource).frozen = none := by decide +kernel

/-! ### The whole machine -/

theorem witness_queue : ({ up baseWorld with pending := [.nop 0] } : Machine.State).pending = .nop 0 :: [] := rfl
theorem witness_limits : Machine.State.reset.limitsKept ∧ Machine.State.reset.memoriesWf = true := by
  unfold State.limitsKept; decide +kernel
theorem test_idle : step Machine.State.reset = .next Machine.State.reset := rfl
theorem test_words : decodeTableWord 32 0 = none ∧ Machine.State.reset.withFetchWord 32 0 = Machine.State.reset := ⟨rfl, rfl⟩

/-! ### Ill-formed commands (the checks of WellFormed) -/

theorem wf_parcel : Parcel.wf {} = true ∧ Parcel.wf { kmac := [1] } = false ∧ Parcel.wf { flags := 2 } = false
    ∧ Parcel.wf { payload := List.replicate 8193 0 } = false := by decide +kernel
theorem wf_packet : Packet.wf {} = true ∧ Packet.wf { payload := List.replicate 2049 0 } = false ∧ Packet.wf { pairCount := 2 ^ 64 } = false := by decide +kernel
theorem wf_nmr : let c : NmrCmd := { payload := List.replicate 224 0 }
    c.wf = true ∧ NmrCmd.wf {} = false ∧ NmrCmd.wf { c with count := 256 } = false ∧ NmrCmd.wf { c with table := 2 ^ 32 } = false
      ∧ NmrCmd.wf { c with step := 2 ^ 64 } = false ∧ NmrCmd.wf { c with row := 2 ^ 48 } = false ∧ NmrCmd.wf { c with column := 2 ^ 16 } = false := by decide +kernel
theorem wf_grain : GrainAccess.wf { grain := 2 ^ 23 - 1, first := 0 } = true ∧ GrainAccess.wf { grain := 2 ^ 23 } = false
    ∧ GrainAccess.wf { first := 1 } = false ∧ GrainAccess.wf { first := 255, length := 1, data := [1, 2] } = false ∧ GrainAccess.wf { cls := 4 } = false := by decide +kernel
def trained (lanes : Nat) : PortTraining := ⟨⟨0, 0, 0, 0, 0⟩, ⟨0, lanes, 0, 0⟩⟩
theorem wf_boot : let b : BootIn := ⟨[255], [], [63], true, [(47, trained 16)], 0, 2, 0⟩
    b.wf = true ∧ BootIn.wf { b with hbmFail := [256] } = false ∧ BootIn.wf { b with cellarGib := List.replicate 17 0 } = false
      ∧ BootIn.wf { b with cellarFail := [64] } = false ∧ BootIn.wf { b with ports := [(48, trained 0)] } = false ∧ BootIn.wf { b with ports := [(0, trained 17)] } = false
      ∧ BootIn.wf { b with lanes := 3 } = false := by decide +kernel
theorem wf_measurement : Measurement.wf (measured 0) = true ∧ Measurement.wf { measured 0 with rails := List.replicate 17 (0, 0, 0) } = false
    ∧ Measurement.wf { measured 0 with temps := List.replicate 18 0 } = false := by decide +kernel
theorem wf_datagram : Datagram.wf { srcAddr := [1, 2, 3, 4] } = true ∧ Datagram.wf {} = false ∧ Datagram.wf { ipv6 := true, srcAddr := [1, 2, 3, 4] } = false
    ∧ Datagram.wf { srcAddr := [1, 2, 3, 4], payload := List.replicate 9217 0 } = false := by decide +kernel
theorem wf_frame : EthFrame.wf (.arpRequest 0 [1] [1, 2, 3, 4]) = false ∧ EthFrame.wf (.arpRequest 0 [1, 2, 3, 4] []) = false
    ∧ EthFrame.wf (.ndpSolicit 0 [1] (List.replicate 16 0)) = false ∧ EthFrame.wf (.ndpSolicit 0 (List.replicate 16 0) [1]) = false
    ∧ EthFrame.wf (.icmpEcho 0 true [1, 2, 3, 4] []) = false ∧ EthFrame.wf (.icmpEcho 0 false [1, 2, 3, 4] (List.replicate 9217 0)) = false
    ∧ EthFrame.wf (.udpUnmatched {}) = false ∧ EthFrame.wf (.other 3) = true := by decide +kernel
theorem wf_tree : TreeMsg.wf {} = true ∧ TreeMsg.wf { barrier := 16 } = false ∧ TreeMsg.wf { step := 2 ^ 64 } = false ∧ TreeMsg.wf { fromPosition := 2 ^ 14 } = false := by
  decide +kernel
/-- A frame from the Kiln of partition 0, good at once. -/
def frame : KilnFrame := { part := 0 }
theorem wf_commands_refused :
    ([.registerWrite 4 0, .registerWrite (2 ^ 24) 0, .itemComplete 0 (2 ^ 64), .zeroPredictVerify 0 (2 ^ 64), .axeLoad 0 (2 ^ 64), .axeStore 0 (2 ^ 64),
      .axeCopy 0 (2 ^ 64), .axeRelay 0 (2 ^ 64), .catchupCopy 0 (2 ^ 24), .parityRetry 0 {} 8, .scrubGrain 0 (2 ^ 23) false false,
      .cellarBurst { channel := 0, crcFailures := 10 }, .gradReady frame (2 ^ 24) 0 0 0 0, .gradReady frame 0 (2 ^ 64) 0 0 0, .gradReady frame 0 0 (2 ^ 48) 0 0,
      .gradReady frame 0 0 0 (2 ^ 48) 0, .gradReady frame 0 0 0 0 (2 ^ 48), .kilnRead frame (2 ^ 48), .kilnReadData frame (2 ^ 48) [], .rowGrad frame (2 ^ 24) 0 0 [],
      .rowGrad frame 0 (2 ^ 64) 0 [], .rowGrad frame 0 0 (2 ^ 48) [], .rowsEnd frame (2 ^ 24) 0 0, .rowsEnd frame 0 (2 ^ 64) 0, .rowsEnd frame 0 0 (2 ^ 48),
      .emit frame (2 ^ 24) 0 [], .emit frame 0 (2 ^ 48) [], .stateOut frame (2 ^ 24) 0 0 false [], .stateOut frame 0 (2 ^ 48) 0 false [], .stateOut frame 0 0 (2 ^ 14) false [],
      .stateIn frame (2 ^ 24) 0 false [], .stateIn frame 0 (2 ^ 48) false [], .stepClose frame (2 ^ 64), .stepDone frame (2 ^ 64), .freezeEntry 0 (2 ^ 8) 0 0,
      .thawEntry 0 0 (2 ^ 16) 0, .freezeRows 0 0 0 (2 ^ 64), .thawRows 0 (2 ^ 8) 0 0, .batchClose (2 ^ 64), .reduceStart (2 ^ 24), .portRetrain 0 (trained 17).toPortPartner (trained 17).toPortMeasured 0,
      .portRetrain 0 (trained 4).toPortPartner { (trained 4).toPortMeasured with rttTenthNs := 2 ^ 32 } 0, .baseStart (2 ^ 24), .caskFrameResend (2 ^ 32), .caskRestore (2 ^ 64)] : List Instr).all (fun i => !i.wf) = true := by
  decide +kernel
theorem wf_long_data (d : List Byte) (h : 2 ^ 24 < d.length) : (Instr.kilnReadData frame 0 d).wf = false ∧ (Instr.emit frame 0 0 d).wf = false
    ∧ (Instr.stateOut frame 0 0 0 false d).wf = false ∧ (Instr.stateIn frame 0 0 false d).wf = false
    ∧ ([.twinDigestFrame d, .rollback d, .twinFenceFrame d, .caskManifest d, .caskData d, .caskAck d, .caskFetch d, .caskEnd d, .caskRefuse d] : List Instr).all (fun i => !i.wf) = true := by
  simp only [List.all, Bool.not_false, Bool.and_true, Instr.wf, decide_eq_false (Nat.not_le.2 h), Bool.and_false, and_self]

end Sys2Proof.Tests
end

/-! ### The interleave of a partition's HBM (R268) -/
namespace Sys2Proof.Machine

section Rotation

variable {n : Nat} {i k l : Nat}

/-- A rotation of `n` places reaches every place. -/
theorem exists_add_mod_eq (h : Nat) (hi : i < n) : ∃ k < n, (k + h) % n = i := by
  have hn : 0 < n := Nat.zero_lt_of_lt hi
  refine ⟨(i + (n - h % n)) % n, Nat.mod_lt _ hn, ?_⟩
  have hback : i + (n - h % n) + h % n = i + n := by
    have := Nat.mod_lt h hn
    omega
  calc ((i + (n - h % n)) % n + h) % n = (i + (n - h % n) + h % n) % n := by
        rw [Nat.mod_add_mod, Nat.add_mod_mod]
    _ = i := by rw [hback, Nat.add_mod_right, Nat.mod_eq_of_lt hi]

/-- A rotation of `n` places takes no two places to one. -/
theorem eq_of_add_mod_eq (h : Nat) (hk : k < n) (hl : l < n) (e : (k + h) % n = (l + h) % n) : k = l :=
  (Nat.ModEq.add_right_cancel' h e).eq_of_lt_of_lt hk hl

end Rotation

section Interleave

variable {good : List Nat} {a b c line byte : Nat}

/-- How far R268 rotates the good list for a line (h in the manual). -/
def lineRotation (line : Nat) : Nat := line % 256 ^^^ line / 256 % 256 ^^^ line / 65536 % 128

/-- The place in the good list that R268 gives a grain of the partition. -/
def grainPlace (good : List Nat) (g : Nat) : Nat := (g % good.length + lineRotation (g / good.length)) % good.length

theorem hbmLocate_eq (good : List Nat) (a : Nat) :
    hbmLocate good a = (good.getD (grainPlace good (a / 256)) 0, a / 256 / good.length) := by
  simp [hbmLocate, grainPlace, lineRotation, bitsAt]

theorem hbmKey_eq (good : List Nat) (a : Nat) :
    hbmKey good a = good.getD (grainPlace good (a / 256)) 0 * 2 ^ 31 + a / 256 / good.length * 256 + a % 256 := by
  rw [hbmKey, hbmLocate_eq]

theorem grainPlace_lt (hne : good ≠ []) (g : Nat) : grainPlace good g < good.length :=
  Nat.mod_lt _ (List.length_pos_of_ne_nil hne)

theorem hbmLocate_fst_mem (hne : good ≠ []) (a : Nat) : (hbmLocate good a).1 ∈ good := by
  rw [hbmLocate_eq, List.getD_eq_getElem good 0 (grainPlace_lt hne _)]
  exact List.getElem_mem _

theorem hbmLocate_snd_lt (ha : a < good.length * (8388608 * 256)) : (hbmLocate good a).2 < 8388608 := by
  have hg : a / 256 < good.length * 8388608 := by omega
  rw [hbmLocate_eq]
  exact Nat.div_lt_of_lt_mul hg

/-- Within a line the map is a rotation of the good list, so a good channel has a grain of every line. -/
theorem exists_grain_of_mem (hc : c ∈ good) (line : Nat) :
    ∃ g, g / good.length = line ∧ good.getD (grainPlace good g) 0 = c := by
  obtain ⟨i, hi, rfl⟩ := List.getElem_of_mem hc
  obtain ⟨k, hk, hki⟩ := exists_add_mod_eq (lineRotation line) hi
  have hline : (k + good.length * line) / good.length = line := by
    rw [Nat.add_mul_div_left _ _ (Nat.zero_lt_of_lt hi), Nat.div_eq_of_lt hk, Nat.zero_add]
  refine ⟨k + good.length * line, hline, ?_⟩
  rw [grainPlace, hline, Nat.add_mul_mod_self_left, Nat.mod_eq_of_lt hk, hki, List.getD_eq_getElem good 0 hi]

/-- Two offsets at one grain of one channel lie in one grain of the partition. -/
theorem grain_eq_of_hbmLocate_eq (hne : good ≠ []) (hnd : good.Nodup) (e : hbmLocate good a = hbmLocate good b) : a / 256 = b / 256 := by
  have hn : 0 < good.length := List.length_pos_of_ne_nil hne
  rw [hbmLocate_eq, hbmLocate_eq, Prod.mk.injEq, List.getD_eq_getElem good 0 (grainPlace_lt hne _),
    List.getD_eq_getElem good 0 (grainPlace_lt hne _), hnd.getElem_inj_iff] at e
  obtain ⟨hplace, hline⟩ := e
  rw [grainPlace, grainPlace, hline] at hplace
  have hk := eq_of_add_mod_eq _ (Nat.mod_lt _ hn) (Nat.mod_lt _ hn) hplace
  rw [← Nat.div_add_mod (a / 256) good.length, hline, hk, Nat.div_add_mod]

/-- Every byte of every line of a good channel has its offset below HBM_CAPACITY. -/
theorem exists_offset_of_byte (hc : c ∈ good) (hline : line < 8388608) (hbyte : byte < 256) :
    ∃ a < good.length * (8388608 * 256), hbmLocate good a = (c, line) ∧ a % 256 = byte := by
  obtain ⟨g, hgl, hgc⟩ := exists_grain_of_mem hc line
  have hn : 0 < good.length := List.length_pos_of_mem hc
  have hg : g < 8388608 * good.length := (Nat.div_lt_iff_lt_mul hn).1 (hgl ▸ hline)
  have hdiv : (g * 256 + byte) / 256 = g := by omega
  refine ⟨g * 256 + byte, by omega, ?_, by omega⟩
  rw [hbmLocate_eq, hdiv, hgl, hgc]

/-- The next grain of a line lies one place further in the good list. -/
theorem grainPlace_succ {g : Nat} (e : (g + 1) / good.length = g / good.length) :
    grainPlace good (g + 1) = (g % good.length + lineRotation (g / good.length) + 1) % good.length := by
  have hmod : (g + 1) % good.length = g % good.length + 1 := by
    have h0 := Nat.div_add_mod g good.length
    have h1 := Nat.div_add_mod (g + 1) good.length
    rw [e] at h1
    omega
  rw [grainPlace, e, hmod, Nat.add_right_comm]

end Interleave

/-- Settles O31: R268 rotates the good list within each line, and a rotation is a bijection. -/
theorem hbmMapReachesEveryGrainOnce : Obligations.HbmMapReachesEveryGrainOnce := by
  refine ⟨fun w p => rfl, fun good hne hnd => ⟨fun a => ⟨hbmLocate_eq good a, hbmKey_eq good a⟩,
    fun a ha => ⟨hbmLocate_fst_mem hne a, hbmLocate_snd_lt ha⟩, ?_, ?_⟩⟩
  · intro c hc line hline byte hbyte
    obtain ⟨a, ha, hloc, hmod⟩ := exists_offset_of_byte hc hline hbyte
    refine ⟨a, ha, hloc, hmod, fun b hb hbm => ?_⟩
    have hgrain : b / 256 = a / 256 := grain_eq_of_hbmLocate_eq hne hnd (hb.trans hloc.symm)
    omega
  · intro a hline
    have hnext : (a + 256) / 256 = a / 256 + 1 := Nat.add_div_right a (by decide)
    rw [hnext] at hline
    refine ⟨a / 256 % good.length + lineRotation (a / 256 / good.length), ?_, ?_⟩
    · rw [hbmLocate_eq, grainPlace]
    · rw [hbmLocate_eq, hnext, grainPlace_succ hline]

end Sys2Proof.Machine

/-! ### Barriers (R359 to R362) -/
namespace Sys2Proof.Machine

/-! #### The two counts of a barrier block -/

section Counts

theorem Block.base_mod (b : Block) : b.base % 0x1000 = 0 := by cases b <;> rfl

/-- The units of a block lie 0x1000 apart, so registers at different offsets have different addresses. -/
theorem Block.addr_ne {b b' : Block} {i j off off' : Nat} (h : off < 0x1000) (h' : off' < 0x1000) (hne : off ≠ off') :
    b.addr i off ≠ b'.addr j off' := by
  have hb := b.base_mod
  have hb' := b'.base_mod
  unfold Block.addr
  omega

theorem World.counter_tick_self (w : World) (b : Block) (i off : Nat) : (w.tick b i off).counter b i off = w.counter b i off + 1 := by
  simp [World.tick, World.count, World.counter]

theorem World.counter_tick_ne (w : World) {b b' : Block} {i j off off' : Nat} (h : off < 0x1000) (h' : off' < 0x1000) (hne : off' ≠ off) :
    (w.tick b i off).counter b' j off' = w.counter b' j off' := by
  have haddr : b'.addr j off' ≠ b.addr i off := Block.addr_ne h' h hne
  simp only [World.tick, World.count, World.counter, AMap.get_upd_ne _ _ _ haddr]

/-- CJU_BARRIER_ROUNDS and CJU_EARLY_ENTRIES of every cluster read the same in `v` as in `w`. -/
def World.barCountsKept (w v : World) : Prop :=
  ∀ i, v.counter .cjuBar i 0x280 = w.counter .cjuBar i 0x280 ∧ v.counter .cjuBar i 0x288 = w.counter .cjuBar i 0x288

theorem World.barCountsKept_of_counters {w v : World} (h : v.counters = w.counters) : w.barCountsKept v := by
  simp [World.barCountsKept, World.counter, h]

theorem World.barCountsKept.trans {w v u : World} (h : w.barCountsKept v) (g : v.barCountsKept u) : w.barCountsKept u :=
  fun i => ⟨(g i).1.trans (h i).1, (g i).2.trans (h i).2⟩

theorem World.tick_barCountsKept (w : World) (b : Block) (i : Nat) {off : Nat} (h : off < 0x280) : w.barCountsKept (w.tick b i off) :=
  fun _ => ⟨w.counter_tick_ne (by omega) (by omega) (by omega), w.counter_tick_ne (by omega) (by omega) (by omega)⟩

theorem World.stamp_barCountsKept (w : World) (t : Sid) (src : Nat) : w.barCountsKept (w.stamp t src).2.2 := by
  simp only [World.stamp]
  split
  · exact World.tick_barCountsKept _ _ _ (by decide)
  · exact World.barCountsKept_of_counters rfl

theorem World.portAccept_barCountsKept (w : World) (src cls st : Nat) (r : List Byte) : w.barCountsKept (w.portAccept src cls st r) := by
  have hdrop : w.barCountsKept (w.portDrop st) := World.tick_barCountsKept _ _ _ (by decide)
  simp only [World.portAccept]
  split
  · exact hdrop
  · split
    · split
      · exact World.barCountsKept_of_counters rfl
      · exact hdrop
    · split <;> exact World.barCountsKept_of_counters rfl

theorem World.traceTo_barCountsKept (w : World) (src cls st : Nat) (r : List Byte) : w.barCountsKept (w.traceTo src cls st r) := by
  have h : ∀ v : World, v.counters = w.counters → w.barCountsKept (if v.portTraces cls then v.portAccept src cls st r else v) := by
    intro v hv
    split
    · exact (World.barCountsKept_of_counters hv).trans (v.portAccept_barCountsKept _ _ _ _)
    · exact World.barCountsKept_of_counters hv
  simp only [World.traceTo]
  split
  · exact h _ rfl
  · split <;> exact h _ rfl

end Counts

/-! #### What a sequencer's record, hold or retirement leaves of the barriers -/

section Kept

variable {w v u : World} {t : Sid}

/-- Memories and barriers are the same. -/
structure World.SyncKept (w v : World) : Prop where
  memories : w.memoriesKept v
  bars : v.bars = w.bars
  dbars : v.dbars = w.dbars

theorem World.SyncKept.trans (h : w.SyncKept v) (g : v.SyncKept u) : w.SyncKept u := by
  obtain ⟨⟨h1, h2, h3, h4⟩, h5, h6⟩ := h
  obtain ⟨⟨g1, g2, g3, g4⟩, g5, g6⟩ := g
  exact ⟨⟨g1.trans h1, g2.trans h2, g3.trans h3, g4.trans h4⟩, g5.trans h5, g6.trans h6⟩

theorem World.SyncKept.of_noted (h : v.notedFrom w) : w.SyncKept v := ⟨⟨h.hbm, h.tun, h.cstore, h.cellar⟩, h.bars, h.dbars⟩

theorem World.SyncKept.bar (h : w.SyncKept v) (key : Nat) : v.bar key = w.bar key := by
  simp only [World.bar, h.bars, h.dbars]

/-- The barriers and what an entry reads beside the cores are the same: memories, barriers and their counts, the configuration, the
fabric, what has left the module and every STEP. -/
structure World.BarQuiet (w v : World) : Prop extends World.SyncKept w v where
  config : v.config = w.config
  fab : v.fab = w.fab
  out : v.out = w.out
  step : ∀ p, (v.part p).step = (w.part p).step
  counts : w.barCountsKept v

theorem World.BarQuiet.trans (h : w.BarQuiet v) (g : v.BarQuiet u) : w.BarQuiet u :=
  ⟨h.toSyncKept.trans g.toSyncKept, g.config.trans h.config, g.fab.trans h.fab, g.out.trans h.out, fun p => (g.step p).trans (h.step p),
    h.counts.trans g.counts⟩

theorem World.BarQuiet.refl (w : World) : w.BarQuiet w :=
  ⟨⟨⟨rfl, rfl, rfl, rfl⟩, rfl, rfl⟩, rfl, rfl, rfl, fun _ => rfl, fun _ => ⟨rfl, rfl⟩⟩

theorem World.BarQuiet.of_noted (h : v.notedFrom w) (hc : w.barCountsKept v) : w.BarQuiet v :=
  ⟨.of_noted h, h.config, h.fab, h.out, fun p => by obtain ⟨_, hp⟩ := h.2 p; rw [hp], hc⟩

theorem World.updCore_barQuiet (w : World) (c : Nat) (f : Core → Core) : w.BarQuiet (w.updCore c f) :=
  ⟨⟨⟨rfl, rfl, rfl, rfl⟩, rfl, rfl⟩, rfl, rfl, rfl, fun _ => rfl, fun _ => ⟨rfl, rfl⟩⟩

theorem World.progressed_barQuiet (w : World) (t : Sid) (p : Nat) : w.BarQuiet (w.progressed t p) := by
  refine ⟨⟨⟨rfl, rfl, rfl, rfl⟩, rfl, rfl⟩, rfl, rfl, rfl, fun q => ?_, fun _ => ⟨rfl, rfl⟩⟩
  by_cases h : q = p
  · subst h; simp [World.progressed, World.part]
  · simp [World.progressed, World.part, AMap.get_upd_ne _ _ _ h]

theorem World.holdRecord_barQuiet (w : World) (t : Sid) (src st : Nat) (e : Bool) : w.BarQuiet (w.holdRecord t src st e) :=
  .of_noted (w.holdRecord_noted t src st e) (w.stamp_barCountsKept t src)

theorem World.syncRecord_barQuiet (w : World) (t : Sid) (src what i n : Nat) : w.BarQuiet (w.syncRecord t src what i n) := by
  refine .of_noted (w.act_noted t _ _ _ _ _ _) ?_
  simp only [World.syncRecord, World.act]
  exact (w.stamp_barCountsKept t src).trans (.trans (World.barCountsKept_of_counters rfl) (World.traceTo_barCountsKept _ _ _ _ _))

theorem World.retire_barQuiet (w : World) (t : Sid) (c : Nat) : w.BarQuiet (w.retire t c) :=
  .trans (w.updCore_barQuiet c _) (.trans (.of_noted (World.tick_noted _ _ _ _) (World.tick_barCountsKept _ _ _ (by decide)))
    (World.progressed_barQuiet _ _ _))

theorem World.holdSeq_barQuiet (w : World) (t : Sid) (c : Nat) (st : SeqState) (h : Held) : w.BarQuiet (w.holdSeq t c st h) :=
  .trans (w.updCore_barQuiet c _) (World.holdRecord_barQuiet _ _ _ _ _)

theorem World.endHold_barQuiet (w : World) (t : Sid) (c : Nat) : w.BarQuiet (w.endHold t c) :=
  .trans (w.holdRecord_barQuiet _ _ _ _) (World.retire_barQuiet _ _ _)

end Kept

/-! #### Cores -/

section Cores

variable (w : World) (t : Sid)

theorem World.core_of_cores {w v : World} (h : v.cores = w.cores) (d : Nat) : v.core d = w.core d := by rw [World.core, h, World.core]

theorem World.core_updCore (c d : Nat) (f : Core → Core) : (w.updCore c f).core d = if d = c then f (w.core c) else w.core d := by
  split
  case isTrue h => subst h; simp [World.core]
  case isFalse h => simp [World.core, AMap.get_upd_ne _ _ _ h]

theorem World.core_progressed (p d : Nat) : (w.progressed t p).core d = w.core d := rfl

theorem World.core_retire (c d : Nat) : (w.retire t c).core d = if d = c then (w.core c).advance else w.core d :=
  w.core_updCore c d Core.advance

theorem World.core_holdSeq (c d : Nat) (st : SeqState) (h : Held) :
    (w.holdSeq t c st h).core d = if d = c then { w.core c with seq := st, held := some h } else w.core d :=
  (World.core_of_cores (World.holdRecord_noted _ _ _ _ _).cores d).trans (w.core_updCore c d _)

theorem World.core_endHold (c d : Nat) : (w.endHold t c).core d = if d = c then (w.core c).advance else w.core d := by
  have h := World.core_of_cores (w.holdRecord_noted t (coreSource 0 c) (w.core c).seq.code true).cores
  rw [World.endHold, World.core_retire, h, h]

end Cores

/-! #### Barriers of the world -/

section Bars

variable (w : World) (key : Nat) (f : Bar → Bar)

theorem World.bar_updBar (k : Nat) : (w.updBar key f).bar k = if k = key then f (w.bar key) else w.bar k := by
  by_cases hkey : key < 2 ^ 20 <;> by_cases hk : k < 2 ^ 20 <;> simp only [World.updBar, World.bar, hkey, hk, if_true, if_false]
  · by_cases h : k = key
    · simp [h]
    · simp [h, AMap.get_upd_ne _ _ _ h]
  · rw [if_neg (by omega)]
  · rw [if_neg (by omega)]
  · by_cases h : k = key
    · simp [h]
    · rw [if_neg h, AMap.get_upd_ne _ _ _ (by omega)]

/-- A barrier's change reaches no other field of the world. -/
theorem World.updBar_keeps {α : Type} (g : World → α) (h : ∀ m n, g { w with bars := m, dbars := n } = g w) : g (w.updBar key f) = g w := by
  unfold World.updBar
  split
  · exact h _ w.dbars
  · exact h w.bars _

theorem World.updBar_barBlock (k : Nat) : (w.updBar key f).barBlock k = w.barBlock k :=
  w.updBar_keeps key f (World.barBlock · k) fun _ _ => rfl

end Bars

/-! #### A generation completes (R360, R361) -/

section Completion

/-- A participant whose AHEAD falls by 1 (R360). -/
def Core.lessAhead (x : Core) (key : Nat) : Core := { x with ahead := AMap.upd 0 x.ahead key (· - 1) }

/-- What a participant becomes when one generation of a barrier completes: its AHEAD falls, and an entry that waits for this generation
goes on, one that waits for a later one waits for one less. -/
def Core.passed (x : Core) (key : Nat) : Core :=
  match x.held with
  | some (.barrier k left) =>
    if k = key then
      if left ≤ 1 then (x.lessAhead key).advance else { x.lessAhead key with held := some (.barrier key (left - 1)) }
    else x.lessAhead key
  | _ => x.lessAhead key

/-- Whether a core waits for a generation of a barrier. -/
def Core.waitsAt (x : Core) (key : Nat) : Prop := ∃ left, x.held = some (.barrier key left)

theorem Core.passed_of_not_waitsAt {x : Core} {key : Nat} (h : ¬ x.waitsAt key) : x.passed key = x.lessAhead key := by
  unfold Core.passed
  split
  next k left hheld => rw [if_neg (by rintro rfl; exact h ⟨left, hheld⟩)]
  next => rfl

theorem Core.passed_of_last_wait {x : Core} {key : Nat} (h : x.held = some (.barrier key 1)) : x.passed key = (x.lessAhead key).advance := by
  simp [Core.passed, h]

theorem Core.passed_ahead (x : Core) (key : Nat) : (x.passed key).ahead = AMap.upd 0 x.ahead key (· - 1) := by
  unfold Core.passed
  split
  · split
    · split <;> rfl
    · rfl
  · rfl

variable (w : World) (t : Sid) (key c : Nat)

theorem World.passBar_of_not_waitsAt (h : ¬ (w.core c).waitsAt key) : World.passBar t key w c = w.updCore c (Core.lessAhead · key) := by
  have hc : ((w.updCore c fun x => { x with ahead := AMap.upd 0 x.ahead key (· - 1) }).core c).held = (w.core c).held := by
    rw [World.core_updCore, if_pos rfl]
  unfold World.passBar
  simp only [hc]
  split
  next k left hheld => rw [if_neg (by rintro rfl; exact h ⟨left, hheld⟩)]; rfl
  next => rfl

theorem World.passBar_of_held {left : Nat} (h : (w.core c).held = some (.barrier key left)) :
    World.passBar t key w c = if left ≤ 1 then (w.updCore c (Core.lessAhead · key)).endHold t c
      else (w.updCore c (Core.lessAhead · key)).updCore c fun x => { x with held := some (.barrier key (left - 1)) } := by
  have hc : ((w.updCore c (Core.lessAhead · key)).core c).held = some (.barrier key left) := by
    rw [World.core_updCore, if_pos rfl, ← h]; rfl
  unfold World.passBar
  simp only [Core.lessAhead] at hc
  simp only [hc, if_true]
  rfl

/-- A participant that sees a generation complete changes, and no other core. -/
theorem World.core_passBar (d : Nat) : (World.passBar t key w c).core d = if d = c then (w.core c).passed key else w.core d := by
  by_cases h : (w.core c).waitsAt key
  · obtain ⟨left, hheld⟩ := h
    rw [World.passBar_of_held w t key c hheld]
    unfold Core.passed
    simp only [hheld, if_true]
    split <;> by_cases hd : d = c <;> simp [World.core_endHold, World.core_updCore, hd]
  · rw [World.passBar_of_not_waitsAt w t key c h, World.core_updCore, Core.passed_of_not_waitsAt h]

theorem World.passBar_barQuiet : w.BarQuiet (World.passBar t key w c) := by
  by_cases h : (w.core c).waitsAt key
  · obtain ⟨left, hheld⟩ := h
    rw [World.passBar_of_held w t key c hheld]
    split
    · exact .trans (w.updCore_barQuiet c _) (World.endHold_barQuiet _ _ _)
    · exact .trans (w.updCore_barQuiet c _) (World.updCore_barQuiet _ _ _)
  · rw [World.passBar_of_not_waitsAt w t key c h]
    exact w.updCore_barQuiet c _

theorem World.passAll_barQuiet (ms : List Nat) : w.BarQuiet (ms.foldl (World.passBar t key) w) :=
  List.foldlRecOn ms _ (motive := w.BarQuiet) (.refl w) fun v hv d _ => hv.trans (v.passBar_barQuiet t key d)

/-- Each participant sees the generation complete once. -/
theorem World.core_passAll {ms : List Nat} (hnd : ms.Nodup) (d : Nat) :
    (ms.foldl (World.passBar t key) w).core d = if d ∈ ms then (w.core d).passed key else w.core d := by
  induction ms generalizing w with
  | nil => rfl
  | cons m ms ih =>
    obtain ⟨hm, hnd⟩ := List.nodup_cons.1 hnd
    rw [List.foldl_cons, ih _ hnd, World.core_passBar]
    by_cases hd : d = m
    · subst hd; simp [hm]
    · simp [hd]

/-- A barrier after one generation (R360). -/
def Bar.completed (b : Bar) : Bar := { b with gen := !b.gen, cur := b.next, next := 0, rounds := b.rounds + 1, reported := false }

/-- Beyond the barrier, its count and the participants nothing that an entry reads changes. -/
theorem World.completeBar_barQuiet (p : Nat) :
    ((w.updBar key Bar.completed).tick .cjuBar (w.barBlock key) 0x280).BarQuiet (w.completeBar t p key) := by
  unfold World.completeBar
  simp only [World.updBar_barBlock]
  exact (World.syncRecord_barQuiet _ t _ _ _ _).trans ((World.passAll_barQuiet _ t key _).trans (World.progressed_barQuiet _ t p))

theorem World.core_completeBar (p : Nat) (hnd : (w.bar key).members.Nodup) (d : Nat) :
    (w.completeBar t p key).core d = if d ∈ (w.bar key).members then (w.core d).passed key else w.core d := by
  have hc : ∀ n src i r d, (((w.updBar key Bar.completed).tick .cjuBar n 0x280).syncRecord t src 1 i r).core d = w.core d := fun n src i r =>
    World.core_of_cores ((World.act_noted _ t _ _ _ _ _ _).cores.trans (w.updBar_keeps key _ World.cores fun _ _ => rfl))
  unfold World.completeBar
  rw [World.core_progressed, World.core_passAll _ t key hnd]
  exact congrArg (fun x : Core => if d ∈ (w.bar key).members then x.passed key else x) (hc _ _ _ _ d)

end Completion

/-! #### An entry is counted (R360) -/

section Entry

/-- A barrier after an entry of a participant whose AHEAD was `a`. -/
def Bar.entered (b : Bar) (a : Nat) : Bar := if a = 0 then { b with cur := b.cur + 1 } else { b with next := b.next + 1 }

/-- A core after its entry: it waits for the generation in which the entry counts, or goes on. -/
def Core.joined (x : Core) (key : Nat) (wait : Bool) : Core :=
  let a := AMap.get 0 x.ahead key
  let y := { x with ahead := AMap.set 0 x.ahead key (a + 1) }
  if wait then { y with seq := .watchWait, held := some (.barrier key (a + 1)) } else y.advance

theorem Core.joined_ahead (x : Core) (key : Nat) (wait : Bool) :
    (x.joined key wait).ahead = AMap.set 0 x.ahead key (AMap.get 0 x.ahead key + 1) := by cases wait <;> rfl

/-- A core whose entry did not run ahead is past its BARRIER once the generation completes, and holds no more. -/
theorem Core.joined_passed {x : Core} {key : Nat} (ha : AMap.get 0 x.ahead key = 0) (wait : Bool) :
    ((x.joined key wait).passed key).held = none ∧ ((x.joined key wait).passed key).pc = x.advance.pc := by
  cases wait with
  | true =>
    have hheld : (x.joined key true).held = some (.barrier key 1) := by simp [Core.joined, ha]
    rw [Core.passed_of_last_wait hheld]
    exact ⟨rfl, rfl⟩
  | false =>
    have hfree : ¬ (x.joined key false).waitsAt key := fun ⟨_, h⟩ => nomatch h
    rw [Core.passed_of_not_waitsAt hfree]
    exact ⟨rfl, rfl⟩

variable (w : World) (t : Sid) (p c key a : Nat) (wait : Bool)

/-- The count of an entry (R360). -/
def World.countEntry : World :=
  if a = 0 then w.updBar key fun b => { b with cur := b.cur + 1 }
  else (w.updBar key fun b => { b with next := b.next + 1 }).tick .cjuBar (w.barBlock key) 0x288

/-- An entry as the barrier and the AHEAD of its participant count it. -/
def World.markEntry : World :=
  let a := AMap.get 0 (w.core c).ahead key
  (w.updCore c fun x => { x with ahead := AMap.set 0 x.ahead key (a + 1) }).countEntry key a

/-- An entry that is no overrun, before the barrier is looked at. -/
def World.joinBar : World :=
  if wait then (w.markEntry c key).holdSeq t c .watchWait (.barrier key (AMap.get 0 (w.core c).ahead key + 1))
  else (w.markEntry c key).retire t c

theorem World.enterBar_of_ahead_lt (h : AMap.get 0 (w.core c).ahead key < 2) :
    w.enterBar t p c key wait = (w.joinBar t c key wait).settleBar t p key 3 := by
  unfold World.enterBar
  rw [if_neg (by omega)]
  simp only [World.joinBar, World.markEntry, World.countEntry]

theorem World.enterBar_of_two_le (h : 2 ≤ AMap.get 0 (w.core c).ahead key) : w.enterBar t p c key wait = w.overrun t p c key := by
  unfold World.enterBar
  rw [if_pos h]

/-- One barrier, the barrier counts and the cores may change; what else an entry reads stays. -/
structure World.OnlyBar (w v : World) (key : Nat) : Prop where
  memories : w.memoriesKept v
  other : ∀ k, k ≠ key → v.bar k = w.bar k
  config : v.config = w.config
  fab : v.fab = w.fab
  step : ∀ p, (v.part p).step = (w.part p).step

variable {w key} {v u : World}

theorem World.OnlyBar.trans (h : w.OnlyBar v key) (g : v.OnlyBar u key) : w.OnlyBar u key := by
  obtain ⟨⟨h1, h2, h3, h4⟩, h5, h6, h7, h8⟩ := h
  obtain ⟨⟨g1, g2, g3, g4⟩, g5, g6, g7, g8⟩ := g
  exact ⟨⟨g1.trans h1, g2.trans h2, g3.trans h3, g4.trans h4⟩, fun k hk => (g5 k hk).trans (h5 k hk), g6.trans h6, g7.trans h7,
    fun p => (g8 p).trans (h8 p)⟩

theorem World.BarQuiet.onlyBar (h : w.BarQuiet v) (key : Nat) : w.OnlyBar v key :=
  ⟨h.memories, fun k _ => h.bar k, h.config, h.fab, h.step⟩

theorem World.updBar_onlyBar (w : World) (key : Nat) (f : Bar → Bar) : w.OnlyBar (w.updBar key f) key :=
  ⟨⟨w.updBar_keeps key f World.hbm fun _ _ => rfl, w.updBar_keeps key f World.tun fun _ _ => rfl,
      w.updBar_keeps key f World.cstore fun _ _ => rfl, w.updBar_keeps key f World.cellar fun _ _ => rfl⟩,
    fun k hk => by rw [World.bar_updBar, if_neg hk], w.updBar_keeps key f World.config fun _ _ => rfl,
    w.updBar_keeps key f World.fab fun _ _ => rfl, fun p => w.updBar_keeps key f (fun v => (v.part p).step) fun _ _ => rfl⟩

theorem World.tick_onlyBar (w : World) (b : Block) (i off key : Nat) : w.OnlyBar (w.tick b i off) key :=
  ⟨⟨rfl, rfl, rfl, rfl⟩, fun _ _ => rfl, rfl, rfl, fun _ => rfl⟩

theorem World.OnlyBar.barBlock (h : w.OnlyBar v key) (k : Nat) : v.barBlock k = w.barBlock k := by
  simp only [World.barBlock, World.diesOf, h.config]

theorem World.OnlyBar.treeBar (h : w.OnlyBar v key) (p k : Nat) : v.treeBar p k = w.treeBar p k := by
  simp only [World.treeBar, h.fab]

variable (w key)

theorem World.countEntry_onlyBar : w.OnlyBar (w.countEntry key a) key := by
  unfold World.countEntry
  split
  · exact w.updBar_onlyBar key _
  · exact (w.updBar_onlyBar key _).trans (World.tick_onlyBar _ _ _ _ key)

theorem World.bar_countEntry : (w.countEntry key a).bar key = (w.bar key).entered a := by
  unfold World.countEntry Bar.entered
  split
  · rw [World.bar_updBar, if_pos rfl]
  · exact (w.bar_updBar key _ key).trans (if_pos rfl)

theorem World.counter_countEntry :
    (w.countEntry key a).counter .cjuBar (w.barBlock key) 0x288
        = w.counter .cjuBar (w.barBlock key) 0x288 + BitVec.ofNat 64 (if a = 0 then 0 else 1)
      ∧ (w.countEntry key a).counter .cjuBar (w.barBlock key) 0x280 = w.counter .cjuBar (w.barBlock key) 0x280 := by
  have hbar : ∀ f i off, (w.updBar key f).counter .cjuBar i off = w.counter .cjuBar i off := fun f i off =>
    w.updBar_keeps key f (World.counter · .cjuBar i off) fun _ _ => rfl
  unfold World.countEntry
  split
  · simp [hbar]
  · rw [World.counter_tick_self, World.counter_tick_ne _ (by decide) (by decide) (by decide), hbar, hbar]
    exact ⟨rfl, rfl⟩

theorem World.countEntry_out : (w.countEntry key a).out = w.out := by
  unfold World.countEntry
  split <;> exact w.updBar_keeps key _ World.out fun _ _ => rfl

theorem World.countEntry_cores : (w.countEntry key a).cores = w.cores := by
  unfold World.countEntry
  split <;> exact w.updBar_keeps key _ World.cores fun _ _ => rfl

/-- Beyond the count and the entering core nothing that an entry reads changes. -/
theorem World.joinBar_barQuiet : (w.markEntry c key).BarQuiet (w.joinBar t c key wait) := by
  cases wait with
  | true => exact World.holdSeq_barQuiet _ t c _ _
  | false => exact World.retire_barQuiet _ t c

theorem World.markEntry_onlyBar : w.OnlyBar (w.markEntry c key) key :=
  ((w.updCore_barQuiet c _).onlyBar key).trans (World.countEntry_onlyBar _ key _)

theorem World.markEntry_out : (w.markEntry c key).out = w.out := World.countEntry_out _ key _

theorem World.counter_markEntry :
    (w.markEntry c key).counter .cjuBar (w.barBlock key) 0x288
        = w.counter .cjuBar (w.barBlock key) 0x288 + BitVec.ofNat 64 (if AMap.get 0 (w.core c).ahead key = 0 then 0 else 1)
      ∧ (w.markEntry c key).counter .cjuBar (w.barBlock key) 0x280 = w.counter .cjuBar (w.barBlock key) 0x280 :=
  World.counter_countEntry _ key _

theorem World.core_markEntry (d : Nat) : (w.markEntry c key).core d
    = if d = c then { w.core c with ahead := AMap.set 0 (w.core c).ahead key (AMap.get 0 (w.core c).ahead key + 1) } else w.core d :=
  (World.core_of_cores (World.countEntry_cores _ _ _) d).trans (w.core_updCore c d _)

theorem World.joinBar_onlyBar : w.OnlyBar (w.joinBar t c key wait) key :=
  (w.markEntry_onlyBar c key).trans ((w.joinBar_barQuiet t c key wait).onlyBar key)

theorem World.joinBar_out : (w.joinBar t c key wait).out = w.out :=
  (w.joinBar_barQuiet t c key wait).out.trans (w.markEntry_out c key)

theorem World.core_joinBar (d : Nat) : (w.joinBar t c key wait).core d = if d = c then (w.core c).joined key wait else w.core d := by
  cases wait with
  | true =>
    refine (World.core_holdSeq _ t c d _ _).trans ?_
    by_cases hd : d = c <;> simp [hd, World.core_markEntry, Core.joined]
  | false =>
    refine (World.core_retire _ t c d).trans ?_
    by_cases hd : d = c <;> simp [hd, World.core_markEntry, Core.joined]

end Entry

/-! #### From an entry to what it leaves -/

section Outcome

variable (w : World) (t : Sid) (p c key : Nat) (wait : Bool)

/-- Core `c` has entered a barrier, which is now `b` after `rounds` generations; `early` tells whether the entry ran ahead. -/
structure World.BarEntered (w v : World) (c key : Nat) (b : Bar) (early rounds : Nat) : Prop extends World.OnlyBar w v key where
  bar : v.bar key = b
  ahead : ∀ d, AMap.get 0 (v.core d).ahead key
    = (AMap.get 0 (w.core d).ahead key + if d = c then 1 else 0) - if d ∈ (w.bar key).members then rounds else 0
  countEarly : v.counter .cjuBar (w.barBlock key) 0x288 = w.counter .cjuBar (w.barBlock key) 0x288 + BitVec.ofNat 64 early
  countRounds : v.counter .cjuBar (w.barBlock key) 0x280 = w.counter .cjuBar (w.barBlock key) 0x280 + BitVec.ofNat 64 rounds

theorem World.joinBar_entered : w.BarEntered (w.joinBar t c key wait) c key ((w.bar key).entered (AMap.get 0 (w.core c).ahead key))
    (if AMap.get 0 (w.core c).ahead key = 0 then 0 else 1) 0 := by
  have hq := w.joinBar_barQuiet t c key wait
  obtain ⟨hearly, hrounds⟩ := w.counter_markEntry c key
  refine ⟨w.joinBar_onlyBar t c key wait, (hq.bar key).trans (World.bar_countEntry _ key _), fun d => ?_,
    (hq.counts _).2.trans hearly, (hq.counts _).1.trans (hrounds.trans (BitVec.add_zero _).symm)⟩
  rw [World.core_joinBar]
  by_cases hd : d = c
  · subst hd; simp [Core.joined_ahead]
  · simp [hd]

variable {w c key} {v : World} {b : Bar} {early rounds : Nat}

/-- A further generation completes. -/
theorem World.BarEntered.complete (h : w.BarEntered v c key b early rounds) (hm : b.members = (w.bar key).members) (hnd : b.members.Nodup) :
    w.BarEntered (v.completeBar t p key) c key b.completed early (rounds + 1) := by
  have hq := v.completeBar_barQuiet t key p
  have hcount : ∀ i off, (v.updBar key Bar.completed).counter .cjuBar i off = v.counter .cjuBar i off := fun i off =>
    v.updBar_keeps key _ (World.counter · .cjuBar i off) fun _ _ => rfl
  have hblock : v.barBlock key = w.barBlock key := h.barBlock key
  refine ⟨h.trans ((v.updBar_onlyBar key _).trans ((World.tick_onlyBar _ _ _ _ key).trans (hq.onlyBar key))), ?_, fun d => ?_, ?_, ?_⟩
  · exact (hq.bar key).trans ((v.bar_updBar key _ key).trans (by rw [if_pos rfl, h.bar]))
  · rw [World.core_completeBar v t key p (h.bar ▸ hnd), h.bar, hm]
    by_cases hd : d ∈ (w.bar key).members
    · simp only [hd, if_true, Core.passed_ahead, AMap.get_upd_self, h.ahead d]
      omega
    · simp only [hd, if_false, h.ahead d]
  · rw [(hq.counts _).2, World.counter_tick_ne _ (by decide) (by decide) (by decide), hcount, h.countEarly]
  · rw [(hq.counts _).1, hblock, World.counter_tick_self, hcount, h.countRounds, BitVec.ofNat_add]
    exact BitVec.add_assoc _ _ _

/-- A full domain barrier is marked and reported up the tree (R359). -/
theorem World.BarEntered.report (h : w.BarEntered v c key b early rounds) (o : Output) :
    w.BarEntered ((v.updBar key fun x => { x with reported := true }).emit o) c key { b with reported := true } early rounds := by
  have hcount : ∀ i off, ((v.updBar key fun x => { x with reported := true }).emit o).counter .cjuBar i off = v.counter .cjuBar i off :=
    fun i off => v.updBar_keeps key _ (World.counter · .cjuBar i off) fun _ _ => rfl
  have hcore : ∀ d, ((v.updBar key fun x => { x with reported := true }).emit o).core d = v.core d :=
    World.core_of_cores (v.updBar_keeps key _ World.cores fun _ _ => rfl)
  have honly := v.updBar_onlyBar key fun x => { x with reported := true }
  refine ⟨h.trans ⟨honly.memories, honly.other, honly.config, honly.fab, honly.step⟩, ?_, fun d => ?_, ?_, ?_⟩
  · exact (v.bar_updBar key _ key).trans (by rw [if_pos rfl, h.bar])
  · rw [hcore, h.ahead]
  · rw [hcount, h.countEarly]
  · rw [hcount, h.countRounds]

end Outcome

/-! #### BARRIER_OVERRUN (R362) -/

section Overrun

/-- What the stop of a job leaves of a world: memories, barriers, the Uzolo port, every job but the one that stops, and the sequencers that
had faulted. -/
structure World.StopKept (w v : World) : Prop extends World.SyncKept w v where
  uzo : v.uzo = w.uzo
  job : ∀ p, (v.part p).job = (w.part p).job
  faulted : ∀ c, (w.core c).seq = .faulted → (v.core c).seq = .faulted

theorem World.StopKept.trans {w v u : World} (h : w.StopKept v) (g : v.StopKept u) : w.StopKept u :=
  ⟨h.toSyncKept.trans g.toSyncKept, g.uzo.trans h.uzo, fun p => (g.job p).trans (h.job p), fun c hc => g.faulted c (h.faulted c hc)⟩

theorem World.StopKept.of_noted {w v : World} (h : v.notedFrom w) (hu : v.uzo = w.uzo) : w.StopKept v :=
  ⟨.of_noted h, hu, fun p => by obtain ⟨_, hp⟩ := h.2 p; rw [hp], fun c hc => by rwa [World.core_of_cores h.cores]⟩

variable (w : World) (t : Sid)

theorem World.StopKept.refl : w.StopKept w := .of_noted w.notedFrom_refl rfl

theorem World.StopKept.foldl {α : Type} {f : World → α → World} (h : ∀ (v : World) (x : α), v.StopKept (f v x)) (xs : List α) :
    w.StopKept (xs.foldl f w) :=
  List.foldlRecOn xs f (motive := w.StopKept) (.refl w) fun v hv x _ => hv.trans (h v x)

theorem World.updCore_stopKept (d : Nat) {f : Core → Core} (hf : ∀ x, x.seq = .faulted → (f x).seq = .faulted) : w.StopKept (w.updCore d f) := by
  refine ⟨⟨⟨rfl, rfl, rfl, rfl⟩, rfl, rfl⟩, rfl, fun _ => rfl, fun c hc => ?_⟩
  rw [World.core_updCore]
  split
  case isTrue h => exact hf _ (h ▸ hc)
  case isFalse => exact hc

theorem World.updPart_stopKept (p : Nat) {f : Part → Part} (hf : ∀ x, (f x).job = x.job) : w.StopKept (w.updPart p f) := by
  refine ⟨⟨⟨rfl, rfl, rfl, rfl⟩, rfl, rfl⟩, rfl, fun q => ?_, fun _ hc => hc⟩
  by_cases h : q = p
  · subst h; simp [World.part, hf]
  · simp [World.part, AMap.get_upd_ne _ _ _ h]

theorem World.wakeIsland_stopKept (k : Nat) : w.StopKept (w.wakeIsland t k) := by
  unfold World.wakeIsland
  split
  · exact ⟨⟨⟨rfl, rfl, rfl, rfl⟩, rfl, rfl⟩, rfl, fun _ => rfl, fun _ hc => hc⟩
  · exact .refl w

theorem World.freezePart_stopKept (p cause trigger : Nat) : w.StopKept (w.freezePart t p cause trigger) := by
  have hwake : ∀ (v : World) k, v.StopKept (v.wakeIsland t k) := fun v k => v.wakeIsland_stopKept t k
  have hfreeze : ∀ (v : World) src, v.StopKept (World.freezeTail t cause trigger v src) := fun v src =>
    .of_noted (v.freezeTail_noted t cause trigger src) (v.freezeTail_uzo t cause trigger src)
  have htick : ∀ (v : World) (b : Block) i off, v.StopKept (v.tick b i off) := fun v b i off => .of_noted (v.tick_noted b i off) rfl
  unfold World.freezePart
  exact (World.StopKept.foldl w hwake _).trans ((World.StopKept.foldl _ hfreeze _).trans (htick _ _ _ _))

theorem World.cancelDump_stopKept (p : Nat) : w.StopKept (w.cancelDump t p) := by
  unfold World.cancelDump
  split
  · refine (w.updPart_stopKept p (f := fun x => { x with dump := { x.dump with state := 0, result := 8, image := [] } }) fun _ => rfl).trans ?_
    exact (World.StopKept.of_noted (World.stamp_noted _ t _) (World.stamp_uzo _ t _)).trans
      (.of_noted (World.traceTo_noted _ _ _ _ _) (World.traceTo_uzo _ _ _ _ _))
  · exact .refl w

theorem World.emptyUnits_stopKept (p : Nat) : w.StopKept (w.emptyUnits p) := by
  have hcore : ∀ (v : World) c, v.StopKept (v.updCore c Core.emptied) := fun v c => v.updCore_stopKept c fun _ h => h
  have hcluster : ∀ (v : World) k, v.StopKept (v.updCluster k Cluster.emptied) := fun _ _ =>
    ⟨⟨⟨rfl, rfl, rfl, rfl⟩, rfl, rfl⟩, rfl, fun _ => rfl, fun _ h => h⟩
  exact (World.StopKept.foldl w hcore _).trans (.foldl _ hcluster _)

theorem World.haltUnits_stopKept (p : Nat) : w.StopKept (((w.coresOf p).foldl (fun w c => w.updCore c (Core.halted false)) w).emptyUnits p) := by
  have hcore : ∀ (v : World) c, v.StopKept (v.updCore c (Core.halted false)) := fun v c => v.updCore_stopKept c fun x h => by simp [Core.halted, h]
  exact (World.StopKept.foldl w hcore _).trans (World.emptyUnits_stopKept _ p)

/-- The job stops; a sequencer that has faulted stays so. -/
theorem World.stopRun_stops {p c : Nat} (hjob : (w.part p).job = .running) (hseq : (w.core c).seq = .faulted) :
    w.SyncKept (w.stopRun p false) ∧ (w.stopRun p false).uzo = w.uzo ∧ ((w.stopRun p false).part p).job = .stopped
      ∧ ((w.stopRun p false).core c).seq = .faulted := by
  have hk := w.haltUnits_stopKept p
  unfold World.stopRun
  rw [if_neg (by simp [hjob])]
  simp only [Bool.false_eq_true, if_false]
  generalize World.emptyUnits _ p = v at hk ⊢
  obtain ⟨hsync, huzo, -, hfaulted⟩ := hk
  split
  · split
    · exact ⟨⟨hsync.memories, hsync.bars, hsync.dbars⟩, huzo, by simp [World.part], hfaulted c hseq⟩
    · exact ⟨⟨hsync.memories, hsync.bars, hsync.dbars⟩, huzo, by simp [World.part], hfaulted c hseq⟩
  · exact ⟨⟨hsync.memories, hsync.bars, hsync.dbars⟩, huzo, by simp [World.part], hfaulted c hseq⟩

/-- SEVERITY in an event record (R652). -/
theorem World.eventRecord_severity (stamp : Nat) (rs : Bool) (src code sev payload extra : Nat) :
    leAt (w.eventRecord stamp rs src code sev payload extra) 14 1 = sev % 256 := by
  simp only [World.eventRecord, List.append_assoc]
  iterate 3 rw [← List.append_assoc]
  exact leAt_leBytes_append _ _ 14 1 sev (by simp)

/-- An event that is forwarded becomes the last record of the queue (R555). -/
theorem World.raiseAs_events {src code sev payload extra : Nat} (h : w.forwards sev) :
    (w.raiseAs t src code sev payload extra).uzo.events
      = w.uzo.events ++ [(w.stamp t src).2.2.eventRecord (w.stamp t src).1 (w.stamp t src).2.1 src code sev payload extra] := by
  obtain ⟨hon, hsev, hroom⟩ := h
  have hreg : ∀ a, (w.stamp t src).2.2.reg a = w.reg a := fun a => by rw [World.reg, (w.stamp_noted t src).regs, World.reg]
  have hq : ∀ r, ((w.stamp t src).2.2.queueEvent sev r).uzo.events = w.uzo.events ++ [r] := fun r => by
    simp only [World.queueEvent, hreg, hon, hsev, World.stamp_uzo, hroom, and_self, if_true]
  simp only [World.raiseAs, World.freezeShared_uzo, World.traceTo_uzo, World.tailWrite_uzo]
  split
  · exact hq _
  · split <;> exact hq _

theorem eventSeverity_lt (code : Nat) : eventSeverity code < 256 := by
  unfold eventSeverity
  split_ifs <;> decide

theorem World.raise_saw {src code payload : Nat} (h1 : src < 65536) (h2 : code < 65536) :
    w.saw (w.raise t src code payload) (eventSeverity code) src code payload := by
  intro hf
  have hfields := (w.stamp t src).2.2.eventRecord_fields (w.stamp t src).1 (w.stamp t src).2.1 src code (eventSeverity code) payload
    (w.eventExtra src)
  obtain ⟨hsrc, hcode, hpayload⟩ := hfields
  refine ⟨_, by rw [World.raise, w.raiseAs_events t hf]; exact List.mem_append_right _ (List.mem_singleton_self _), ?_, ?_, ?_, hpayload⟩
  · rw [hsrc, Nat.mod_eq_of_lt h1]
  · rw [hcode, Nat.mod_eq_of_lt h2]
  · rw [World.eventRecord_severity, Nat.mod_eq_of_lt (eventSeverity_lt code)]

/-- A read at another key, whatever the reader's default. -/
theorem AMap.get_set_ne_any {α : Type} [DecidableEq α] (d d' : α) (m : AMap α) (v : α) {j k : Nat} (h : j ≠ k) :
    AMap.get d (AMap.set d' m k v) j = AMap.get d m j := by
  unfold AMap.set
  split
  · exact AMap.get_drop_ne d m h
  · rw [AMap.get_put d _ _ _ _ (AMap.ne_of_mem_drop m k), if_neg h, AMap.get_drop_ne d m h]

/-- A fault stops the job; the core that has faulted stays so. -/
theorem World.stopJob_stops {p c : Nat} (trigger : Nat) (hjob : (w.part p).job = .running) (hseq : (w.core c).seq = .faulted) :
    w.SyncKept (w.stopJob t p 1 trigger) ∧ (w.stopJob t p 1 trigger).uzo = w.uzo ∧ ((w.stopJob t p 1 trigger).part p).job = .stopped
      ∧ ((w.stopJob t p 1 trigger).core c).seq = .faulted := by
  have hk := (w.freezePart_stopKept t p 1 trigger).trans (World.cancelDump_stopKept _ t p)
  obtain ⟨hsync, huzo, hstopped, hfaulted⟩ := World.stopRun_stops _ ((hk.job p).trans hjob) (hk.faulted c hseq)
  exact ⟨hk.toSyncKept.trans hsync, huzo.trans hk.uzo, hstopped, hfaulted⟩

/-- The record of an overrun in CJU_BAR_FAULT of cluster `k`, and the core as it leaves it. -/
def World.overrunFault (w : World) (c k payload : Nat) : World :=
  (w.setReg (Block.cjuBar.addr k 0x200) (mkField payload 0 13 ||| mkField c 16 9 ||| mkField 1 63 1)).updCore c Core.faultSeq

/-- An overrun that the barrier block of cluster `k` records and reports. -/
def World.overrunAt (w : World) (t : Sid) (p c k payload : Nat) : World :=
  ((w.overrunFault c k payload).raise t (barSource k) 0x10C payload).stopJob t p 1 (barSource k)

theorem World.overrun_die {p c key : Nat} (h : key < 2 ^ 20) :
    w.overrun t p c key = w.overrunAt t p c (key / 64) (key % 64 + key / 64 % 12 * 2 ^ 8) := by
  have hdie : ¬ 2 ^ 20 ≤ key := Nat.not_le.2 h
  simp only [World.overrun, World.overrunAt, World.overrunFault, barIndex, h, hdie, decide_false, Bool.false_eq_true, if_true, if_false, Nat.add_zero]

theorem World.overrun_domain {p c key : Nat} (h : 2 ^ 20 ≤ key) :
    w.overrun t p c key = w.overrunAt t p c (clusterOfCore c) (key % 16 + clusterOfCore c % 12 * 2 ^ 8 + 2 ^ 12) := by
  have hdie : ¬ key < 2 ^ 20 := Nat.not_lt.2 h
  simp only [World.overrun, World.overrunAt, World.overrunFault, barIndex, h, hdie, decide_true, if_true, if_false]

theorem World.setReg_syncKept (a : Nat) (v : Word) : w.SyncKept (w.setReg a v) := ⟨⟨rfl, rfl, rfl, rfl⟩, rfl, rfl⟩

theorem World.overrunFault_running {p : Nat} (c k payload : Nat) (hjob : (w.part p).job = .running) :
    ((((w.overrunFault c k payload).raise t (barSource k) 0x10C payload).part p).job = .running)
      ∧ (((w.overrunFault c k payload).raise t (barSource k) 0x10C payload).core c).seq = .faulted := by
  have hn := (w.overrunFault c k payload).raise_noted t (barSource k) 0x10C payload
  refine ⟨?_, ?_⟩
  · obtain ⟨_, hp⟩ := hn.2 p
    rw [hp]
    simpa only [World.part, World.overrunFault, World.updCore_parts, World.setReg_parts] using hjob
  · rw [World.core_of_cores hn.cores, World.overrunFault, World.core_updCore, if_pos rfl]
    rfl

theorem World.overrunAt_stops {p : Nat} (c k payload : Nat) (hjob : (w.part p).job = .running) :
    w.SyncKept (w.overrunAt t p c k payload) ∧ ((w.overrunAt t p c k payload).core c).seq = .faulted
      ∧ ((w.overrunAt t p c k payload).part p).job = .stopped := by
  obtain ⟨hrun, hseq⟩ := w.overrunFault_running t c k payload hjob
  obtain ⟨hsync, -, hstopped, hfaulted⟩ := World.stopJob_stops _ t (barSource k) hrun hseq
  have hfault : w.SyncKept (w.overrunFault c k payload) := (w.setReg_syncKept _ _).trans (World.updCore_barQuiet _ c _).toSyncKept
  exact ⟨hfault.trans ((World.SyncKept.of_noted (World.raise_noted _ t _ _ _)).trans hsync), hfaulted, hstopped⟩

theorem World.overrunAt_saw {p : Nat} (c k payload : Nat) (hjob : (w.part p).job = .running) (hk : k < 48) :
    w.saw (w.overrunAt t p c k payload) 3 (barSource k) 0x10C payload := by
  intro hf
  have haddr : Block.uzo.addr 0 0x008 ≠ Block.cjuBar.addr k 0x200 := Block.addr_ne (by decide) (by decide) (by decide)
  have hreg : (w.overrunFault c k payload).reg (Block.uzo.addr 0 0x008) = w.reg (Block.uzo.addr 0 0x008) := by
    simp only [World.overrunFault, World.reg, World.updCore_regs, World.setReg_regs, AMap.get_set_ne_any _ _ _ _ haddr]
  have hsrc : barSource k < 65536 := by
    unfold barSource sourceOf dieOfCluster
    omega
  obtain ⟨hrun, hseq⟩ := w.overrunFault_running t c k payload hjob
  obtain ⟨-, huzo, -, -⟩ := World.stopJob_stops _ t (barSource k) hrun hseq
  rw [World.overrunAt, huzo]
  refine World.raise_saw _ t hsrc (by decide) ?_
  have huzo : (w.overrunFault c k payload).uzo = w.uzo := by rw [World.overrunFault, World.updCore_uzo, World.setReg_uzo]
  obtain ⟨hon, hsev, hroom⟩ := hf
  exact ⟨by rwa [hreg], by rwa [hreg], by rwa [huzo]⟩

end Overrun

/-! #### An entry and the generations that it completes (R359 to R361) -/

section Settle

variable (w : World) (t : Sid) (p c key : Nat) (wait : Bool)

theorem World.settleBar_of_open (h : (w.bar key).cur < (w.bar key).expected) : ∀ n, w.settleBar t p key n = w
  | 0 => rfl
  | n + 1 => by
    unfold World.settleBar
    exact if_pos (.inr h)

theorem World.settleBar_of_full (hpos : 0 < (w.bar key).expected) (hfull : (w.bar key).expected ≤ (w.bar key).cur)
    (ht : w.treeBar p key = false) (n : Nat) : w.settleBar t p key (n + 1) = (w.completeBar t p key).settleBar t p key n := by
  rw [World.settleBar]
  simp only [ht]
  rw [if_neg (by omega), if_neg (by decide)]

theorem World.settleBar_of_tree (hpos : 0 < (w.bar key).expected) (hfull : (w.bar key).expected ≤ (w.bar key).cur)
    (ht : w.treeBar p key = true) (hr : (w.bar key).reported = false) (n : Nat) :
    w.settleBar t p key (n + 1) = (w.updBar key fun x => { x with reported := true }).emit
      (.tree true { barrier := barIndex key, entries := 1, step := (w.part p).step, fromPosition := w.ownPosition }) := by
  rw [World.settleBar]
  simp only [ht, hr]
  rw [if_neg (by omega), if_pos trivial, if_neg (by decide)]

theorem World.completeBar_out : (w.completeBar t p key).out = w.out :=
  (w.completeBar_barQuiet t key p).out.trans (w.updBar_keeps key _ World.out fun _ _ => rfl)

theorem World.joinBar_entered_open (ha : AMap.get 0 (w.core c).ahead key = 0) :
    w.BarEntered (w.joinBar t c key wait) c key { w.bar key with cur := (w.bar key).cur + 1 } 0 0 := by
  simpa only [ha, Bar.entered, if_true] using w.joinBar_entered t c key wait

theorem World.joinBar_entered_early (ha : AMap.get 0 (w.core c).ahead key = 1) :
    w.BarEntered (w.joinBar t c key wait) c key { w.bar key with next := (w.bar key).next + 1 } 1 0 := by
  simpa only [ha, Bar.entered, Nat.one_ne_zero, if_false] using w.joinBar_entered t c key wait

/-- An entry that completes nothing leaves the core in its wait, or past the command. -/
theorem World.joinBar_stays : (wait = true → ((w.joinBar t c key wait).core c).held = some (.barrier key (AMap.get 0 (w.core c).ahead key + 1))
      ∧ ((w.joinBar t c key wait).core c).seq = .watchWait)
    ∧ (wait = false → ((w.joinBar t c key wait).core c).pc = (w.core c).advance.pc) := by
  rw [World.core_joinBar, if_pos rfl]
  exact ⟨fun h => by subst h; exact ⟨rfl, rfl⟩, fun h => by subst h; rfl⟩

variable {w c key}

/-- An entry that leaves the open generation short of its number completes nothing. -/
theorem World.enterBar_of_open (ha : AMap.get 0 (w.core c).ahead key < 2)
    (hopen : ((w.joinBar t c key wait).bar key).cur < ((w.joinBar t c key wait).bar key).expected) :
    w.enterBar t p c key wait = w.joinBar t c key wait :=
  (w.enterBar_of_ahead_lt t p c key wait ha).trans (World.settleBar_of_open _ t p key hopen 3)

variable (ha : AMap.get 0 (w.core c).ahead key = 0)
include ha

section Barrier

variable (hnd : (w.bar key).members.Nodup)
include hnd

/-- What one generation leaves that the entry completes. -/
theorem World.joinBar_completed : w.BarEntered ((w.joinBar t c key wait).completeBar t p key) c key
    { w.bar key with gen := !(w.bar key).gen, cur := (w.bar key).next, next := 0, rounds := (w.bar key).rounds + 1, reported := false } 0 1 :=
  (w.joinBar_entered_open t c key wait ha).complete t p rfl hnd

/-- What two generations leave that the entry completes. -/
theorem World.joinBar_completed_twice : w.BarEntered (((w.joinBar t c key wait).completeBar t p key).completeBar t p key) c key
    { w.bar key with cur := 0, next := 0, rounds := (w.bar key).rounds + 2, reported := false } 0 2 := by
  have h := (World.joinBar_completed t p wait ha hnd).complete t p rfl hnd
  simpa only [Bar.completed, Bool.not_not] using h

/-- The core whose entry completes a generation is past its BARRIER. -/
theorem World.core_joinBar_completed (hmem : c ∈ (w.bar key).members) :
    (((w.joinBar t c key wait).completeBar t p key).core c).held = none
      ∧ (((w.joinBar t c key wait).completeBar t p key).core c).pc = (w.core c).advance.pc := by
  have hb := (w.joinBar_entered_open t c key wait ha).bar
  rw [World.core_completeBar _ t key p (by rw [hb]; exact hnd), hb, if_pos hmem, World.core_joinBar, if_pos rfl]
  exact Core.joined_passed ha wait

/-- It stays there when the next generation completes too. -/
theorem World.core_joinBar_completed_twice (hmem : c ∈ (w.bar key).members) :
    ((((w.joinBar t c key wait).completeBar t p key).completeBar t p key).core c).pc = (w.core c).advance.pc := by
  obtain ⟨hheld, hpc⟩ := World.core_joinBar_completed t p wait ha hnd hmem
  have hb := (World.joinBar_completed t p wait ha hnd).bar
  have hfree : ¬ (((w.joinBar t c key wait).completeBar t p key).core c).waitsAt key := fun ⟨_, h⟩ => nomatch hheld.symm.trans h
  rw [World.core_completeBar _ t key p (by rw [hb]; exact hnd), hb, if_pos hmem, Core.passed_of_not_waitsAt hfree]
  exact hpc

end Barrier

variable (hfull : (w.bar key).cur + 1 = (w.bar key).expected)
include hfull

theorem World.joinBar_full : 0 < ((w.joinBar t c key wait).bar key).expected
    ∧ ((w.joinBar t c key wait).bar key).expected ≤ ((w.joinBar t c key wait).bar key).cur := by
  rw [(w.joinBar_entered_open t c key wait ha).bar]
  exact ⟨hfull ▸ Nat.succ_pos _, hfull.ge⟩

/-- The last entry of a generation completes it. -/
theorem World.enterBar_of_full (ht : w.treeBar p key = false) :
    w.enterBar t p c key wait = ((w.joinBar t c key wait).completeBar t p key).settleBar t p key 2 := by
  obtain ⟨hpos, hle⟩ := World.joinBar_full t wait ha hfull
  rw [w.enterBar_of_ahead_lt t p c key wait (by omega)]
  exact World.settleBar_of_full _ t p key hpos hle (((w.joinBar_onlyBar t c key wait).treeBar p key).trans ht) 2

/-- The last entry at a domain barrier of a module with a position is reported up the tree (R359). -/
theorem World.enterBar_of_full_tree (ht : w.treeBar p key = true) (hr : (w.bar key).reported = false) :
    w.enterBar t p c key wait = ((w.joinBar t c key wait).updBar key fun x => { x with reported := true }).emit
      (.tree true { barrier := barIndex key, entries := 1, step := (w.part p).step, fromPosition := w.ownPosition }) := by
  have h := w.joinBar_entered_open t c key wait ha
  have hposition : (w.joinBar t c key wait).ownPosition = w.ownPosition := by rw [World.ownPosition, h.fab, World.ownPosition]
  obtain ⟨hpos, hle⟩ := World.joinBar_full t wait ha hfull
  rw [w.enterBar_of_ahead_lt t p c key wait (by omega), ← h.step p, ← hposition]
  exact World.settleBar_of_tree _ t p key hpos hle ((h.treeBar p key).trans ht) (by rw [h.bar]; exact hr) 2

variable (hnd : (w.bar key).members.Nodup)
include hnd

theorem World.enterBar_of_full_once (ht : w.treeBar p key = false) (hnext : (w.bar key).next < (w.bar key).expected) :
    w.enterBar t p c key wait = (w.joinBar t c key wait).completeBar t p key := by
  have h := World.joinBar_completed t p wait ha hnd
  rw [World.enterBar_of_full t p wait ha hfull ht]
  exact World.settleBar_of_open _ t p key (by rw [h.bar]; exact hnext) 2

theorem World.enterBar_of_full_twice (ht : w.treeBar p key = false) (hnext : (w.bar key).next = (w.bar key).expected) :
    w.enterBar t p c key wait = ((w.joinBar t c key wait).completeBar t p key).completeBar t p key := by
  have hpos : 0 < (w.bar key).expected := hfull ▸ Nat.succ_pos _
  have h := World.joinBar_completed t p wait ha hnd
  have h2 := World.joinBar_completed_twice t p wait ha hnd
  rw [World.enterBar_of_full t p wait ha hfull ht,
    World.settleBar_of_full _ t p key (by rw [h.bar]; exact hpos) (by rw [h.bar]; exact hnext.ge) ((h.treeBar p key).trans ht) 1]
  exact World.settleBar_of_open _ t p key (by rw [h2.bar]; exact hpos) 1

end Settle

/-! #### The command BARRIER (R370) -/

section Command

variable (w : World) (t : Sid)

/-- The barrier that a BARRIER command names (R370). -/
def barrierKey (p c : Nat) (domain : Bool) (k : Fin 12) (i : Fin 64) : Nat :=
  if domain then domBarKey p (i.val % 16) else dieBarKey (12 * dieOfCore c + k.val) i.val

theorem barrierKey_domain (p c : Nat) (k : Fin 12) (i : Fin 64) :
    2 ^ 20 ≤ barrierKey p c true k i ∧ barrierKey p c true k i % 16 = i.val % 16 := by
  simp only [barrierKey, domBarKey, if_true]
  omega

theorem barrierKey_die {c : Nat} (p : Nat) (hc : c < 384) (k : Fin 12) (i : Fin 64) :
    barrierKey p c false k i < 2 ^ 20 ∧ barrierKey p c false k i / 64 = 12 * dieOfCore c + k.val ∧ barrierKey p c false k i % 64 = i.val := by
  simp only [barrierKey, dieBarKey, dieOfCore, Bool.false_eq_true, if_false]
  omega

/-- A barrier that completes through the tree is a domain barrier. -/
theorem World.barIndex_of_treeBar {p c : Nat} {domain : Bool} {k : Fin 12} {i : Fin 64} (hc : c < 384)
    (ht : w.treeBar p (barrierKey p c domain k i) = true) : barIndex (barrierKey p c domain k i) = i.val % 16 := by
  cases domain with
  | true =>
    obtain ⟨hge, hmod⟩ := barrierKey_domain p c k i
    rw [barIndex, if_neg (Nat.not_lt.2 hge), hmod]
  | false =>
    obtain ⟨hlt, -⟩ := barrierKey_die p hc k i
    simp only [World.treeBar, Nat.not_le.2 hlt, decide_false, Bool.false_and, Bool.false_eq_true] at ht

/-- The cluster whose barrier block records an overrun, and the payload of its event (R362). -/
def overrunCluster (c : Nat) (domain : Bool) (k : Fin 12) : Nat := if domain then clusterOfCore c else 12 * dieOfCore c + k.val
def overrunPayload (c : Nat) (domain : Bool) (k : Fin 12) (i : Fin 64) : Nat :=
  if domain then i.val % 16 + clusterOfCore c % 12 * 2 ^ 8 + 2 ^ 12 else i.val + k.val * 2 ^ 8

theorem overrunCluster_lt {c : Nat} (hc : c < 384) (domain : Bool) (k : Fin 12) : overrunCluster c domain k < 48 := by
  unfold overrunCluster clusterOfCore dieOfCore
  split <;> omega

theorem World.overrun_barrierKey {p c : Nat} (hc : c < 384) (domain : Bool) (k : Fin 12) (i : Fin 64) :
    w.overrun t p c (barrierKey p c domain k i) = w.overrunAt t p c (overrunCluster c domain k) (overrunPayload c domain k i) := by
  unfold overrunCluster overrunPayload
  cases domain with
  | true =>
    obtain ⟨hge, hmod⟩ := barrierKey_domain p c k i
    rw [World.overrun_domain w t hge, hmod, if_pos rfl, if_pos rfl]
  | false =>
    obtain ⟨hlt, hdiv, hmod⟩ := barrierKey_die p hc k i
    have hk : (12 * dieOfCore c + k.val) % 12 = k.val := by omega
    rw [World.overrun_die w t hlt, hdiv, hmod, hk, if_neg Bool.false_ne_true, if_neg Bool.false_ne_true]

/-- BARRIER_OVERRUN: nothing is counted, the core's sequencer faults, the job stops and the event is queued (R362). -/
theorem World.enterBar_overruns {p c : Nat} {domain wait : Bool} {k : Fin 12} {i : Fin 64} (hc : c < 384) (hjob : (w.part p).job = .running)
    (ha : 2 ≤ AMap.get 0 (w.core c).ahead (barrierKey p c domain k i)) :
    let v := w.enterBar t p c (barrierKey p c domain k i) wait
    w.SyncKept v ∧ (v.core c).seq = .faulted ∧ (v.part p).job = .stopped
      ∧ w.saw v 3 (barSource (overrunCluster c domain k)) 0x10C (overrunPayload c domain k i) := by
  intro v
  have hv : v = w.overrunAt t p c (overrunCluster c domain k) (overrunPayload c domain k i) :=
    (w.enterBar_of_two_le t p c _ wait ha).trans (w.overrun_barrierKey t hc domain k i)
  obtain ⟨hsync, hseq, hstopped⟩ := w.overrunAt_stops t c (overrunCluster c domain k) (overrunPayload c domain k i) hjob
  rw [hv]
  exact ⟨hsync, hseq, hstopped, w.overrunAt_saw t c _ _ hjob (overrunCluster_lt hc domain k)⟩

theorem World.job_of_seqReady {c : Nat} (h : w.seqReady c = true) : (w.part (w.partOfCore c)).job = .running := by
  simp only [World.seqReady, World.coreLive, World.jobRuns, Bool.and_eq_true, decide_eq_true_eq] at h
  obtain ⟨⟨hjob, -⟩, -⟩ := h
  exact hjob

theorem exec_barrier_of_ready (wait : Bool) {s : State} {core : CoreId} (domain : Bool) (k : Fin 12) (i : Fin 64) (hs : s.inService = true)
    (hr : s.w.seqReady core.val = true) :
    let p := s.w.partOfCore core.val
    exec (.barrier core domain wait k i) s
      = .next { s with w := s.w.enterBar s.sid p core.val (barrierKey p core.val domain k i) wait } := by
  have h : exec (.barrier core domain wait k i) s = execBarrier core domain wait k i s := rfl
  rw [h]
  simp only [execBarrier, State.serve, hs, if_true, State.onWorld, World.seqRun, hr, barrierKey]

end Command

/-- Settles O22: an entry is counted, then one generation completes after the other while the barrier is full. -/
theorem barrierEntriesCountGenerations : Obligations.BarrierEntriesCountGenerations := by
  intro s core domain wait k i hs hr c x p key b a block leaves stays hnd hmem
  have hkey : key = barrierKey p c domain k i := rfl
  have hexec : exec (.barrier core domain wait k i) s = .next { s with w := s.w.enterBar s.sid p c key wait } :=
    exec_barrier_of_ready wait domain k i hs hr
  clear_value key
  have hleaves : ∀ {v b' early rounds} {q : World → Prop}, s.w.enterBar s.sid p c key wait = v → s.w.BarEntered v c key b' early rounds → q v →
      leaves b' early rounds q := by
    intro v b' early rounds q hv h hq
    subst hv
    exact ⟨_, hexec, ⟨rfl, rfl, rfl, rfl⟩, h.memories, h.bar, h.other, h.ahead, h.countEarly, h.countRounds, hq⟩
  clear_value leaves
  have hout : (s.w.joinBar s.sid c key wait).out = s.w.out := s.w.joinBar_out s.sid c key wait
  have hout1 := (World.completeBar_out (s.w.joinBar s.sid c key wait) s.sid p key).trans hout
  refine ⟨fun ha hopen => ?_, fun ha hopen => ?_, fun ha hfull htree => ⟨fun hnext => ?_, fun hnext => ?_⟩, fun ha hfull htree hrep => ?_,
    fun ha => ?_⟩
  · have h := s.w.joinBar_entered_open s.sid c key wait ha
    have hv := World.enterBar_of_open s.sid p wait (ha.trans_lt (by decide)) (by rw [h.bar]; exact hopen)
    exact hleaves hv h ⟨hout, s.w.joinBar_stays s.sid c key wait⟩
  · have h := s.w.joinBar_entered_early s.sid c key wait ha
    have hv := World.enterBar_of_open s.sid p wait (ha.trans_lt (by decide)) (by rw [h.bar]; exact hopen)
    exact hleaves hv h ⟨hout, s.w.joinBar_stays s.sid c key wait⟩
  · have hpc := (World.core_joinBar_completed s.sid p wait ha hnd hmem).2
    exact hleaves (World.enterBar_of_full_once s.sid p wait ha hfull hnd htree hnext) (World.joinBar_completed s.sid p wait ha hnd) ⟨hout1, hpc⟩
  · have hpc := World.core_joinBar_completed_twice s.sid p wait ha hnd hmem
    exact hleaves (World.enterBar_of_full_twice s.sid p wait ha hfull hnd htree hnext) (World.joinBar_completed_twice s.sid p wait ha hnd)
      ⟨(World.completeBar_out _ s.sid p key).trans hout1, hpc⟩
  · have hv := World.enterBar_of_full_tree s.sid p wait ha hfull htree hrep
    have hindex : barIndex key = i.val % 16 := by
      subst hkey
      exact s.w.barIndex_of_treeBar core.isLt htree
    rw [hindex] at hv
    exact hleaves hv ((s.w.joinBar_entered_open s.sid c key wait ha).report _)
      (congrArg (· ++ _) ((World.updBar_keeps _ key _ World.out fun _ _ => rfl).trans hout))
  · have hjob : (s.w.part p).job = .running := s.w.job_of_seqReady hr
    subst hkey
    obtain ⟨hsync, hseq, hstopped, hsaw⟩ := s.w.enterBar_overruns s.sid (wait := wait) (c := c) core.isLt hjob ha
    exact ⟨_, hexec, ⟨rfl, rfl, rfl, rfl⟩, hsync.memories, hsync.bar _, hseq, hstopped, hsaw⟩

end Sys2Proof.Machine

namespace Sys2Proof.Machine

/-! ### What a command leaves of the waiting commands and of the limits (R22, R570, R572, R622) -/

section Leaves
variable {s t u : State}

/-- `t` follows `s` with the commands that wait as they were, and within the limits where `s` lies within them. -/
def State.Leaves (s t : State) : Prop := t.pending = s.pending ∧ (s.limitsKept → t.limitsKept)

theorem State.Leaves.refl (s : State) : s.Leaves s := ⟨rfl, id⟩

theorem State.Leaves.trans (h : s.Leaves t) (g : t.Leaves u) : s.Leaves u := ⟨g.1.trans h.1, g.2 ∘ h.2⟩

theorem State.Leaves.foldl {α : Type} {f : State → α → State} (h : ∀ (s : State) x, s.Leaves (f s x)) (l : List α) (s : State) :
    s.Leaves (l.foldl f s) := by
  induction l generalizing s with
  | nil => exact .refl s
  | cons x l ih => exact (h s x).trans (ih _)

theorem State.Leaves.ite {p : Prop} [Decidable p] (ht : s.Leaves t) (hu : s.Leaves u) : s.Leaves (if p then t else u) := by
  split
  · exact ht
  · exact hu

theorem State.world_leaves (s : State) (w : World) : s.Leaves { s with w := w } := ⟨rfl, id⟩

/-- A change that keeps the power state, and of the security die the credits and the leaf indexes. -/
theorem State.Leaves.of_kept (hq : t.pending = s.pending) (hp : t.pwr = s.pwr) (hc : t.sec.credits = s.sec.credits)
    (hn : t.sec.nextIndex = s.sec.nextIndex) (hx : t.sec.xmss = s.sec.xmss) : s.Leaves t := by
  have he : t.sec.reservedEnd = s.sec.reservedEnd := by rw [Sec.reservedEnd, hx, Sec.reservedEnd]
  refine ⟨hq, fun h => ?_⟩
  simpa only [State.limitsKept, hp, hc, hn, he] using h

theorem State.onWorld_leaves (s : State) (f : World → World) : s.Leaves (s.onWorld f) := s.world_leaves _

theorem State.serve_leaves (s : State) (f : World → World) : s.Leaves (s.serve f) := .ite (s.onWorld_leaves f) (.refl s)

end Leaves

section Limits
variable (s : State)

/-! #### Power and reset -/

theorem ite_ite_eq {α : Type} (a b : Bool) (x y z : α) :
    (if a then x else if b then y else z) = x ∨ (if a then x else if b then y else z) = y ∨ (if a then x else if b then y else z) = z := by
  cases a <;> cases b <;> simp

theorem Pwr.windowEnd_freq (p : Pwr) (cap : Nat) (m : Measurement) :
    (p.windowEnd cap m).freq = stepDown p.freq ∨ (p.windowEnd cap m).freq = stepUp p.freq ∨ (p.windowEnd cap m).freq = p.freq := by
  exact ite_ite_eq _ _ _ _ _

/-- Whether a frequency stands on the ladder of R22. -/
def onLadder (f : Nat) : Prop := 400 ≤ f ∧ f ≤ 940 ∧ f % 20 = 0

theorem onLadder_stepDown {f : Nat} (h : onLadder f) : onLadder (stepDown f) := by
  unfold onLadder stepDown at *
  split <;> omega

theorem onLadder_stepUp {f : Nat} (h : onLadder f) : onLadder (stepUp f) := by
  unfold onLadder stepUp at *
  split <;> omega

theorem Pwr.windowEnd_onLadder (p : Pwr) (cap : Nat) (m : Measurement) (h : onLadder p.freq) : onLadder (p.windowEnd cap m).freq := by
  obtain e | e | e := p.windowEnd_freq cap m <;> rw [e]
  · exact onLadder_stepDown h
  · exact onLadder_stepUp h
  · exact h

theorem State.modReset_leaves : s.Leaves s.modReset := by
  refine ⟨rfl, fun h => ?_⟩
  obtain ⟨-, -, -, -, -, -, -, -, -, hend, hblock⟩ := h
  exact ⟨(by decide : 400 ≤ 940), Nat.le_refl 940, (by decide : 940 % 20 = 0), (by decide : 24 ≤ 60), Nat.le_refl 60, (by decide : 24 ≤ 60),
    Nat.le_refl 60, Nat.zero_le 100, Nat.zero_le _, hend, hblock⟩

theorem State.failCause_leaves (cause alert payload : Nat) : s.Leaves (s.failCause cause alert payload) := by
  unfold State.failCause
  split
  · exact .ite ⟨rfl, id⟩ (.refl s)
  · split <;> exact ⟨rfl, id⟩

theorem execCapWindowEnd_leaves (m : Measurement) : ∃ t, exec (.capWindowEnd m) s = .next t ∧ s.Leaves t := by
  refine ⟨_, rfl, .ite (.ite ⟨rfl, fun h => ?_⟩ ⟨rfl, id⟩) (.refl s)⟩
  obtain ⟨hlo, hhi, hstep, hf0, hf1, hw0, hw1, hsec⟩ := h
  obtain ⟨glo, ghi, gstep⟩ := s.pwr.windowEnd_onLadder (s.w.regField (Block.pwr.addr 0 0x008) 0 6) m ⟨hlo, hhi, hstep⟩
  refine ⟨glo, ghi, gstep, hw0, hw1, ?_, ?_, hsec⟩
  · show 24 ≤ min 60 (max 24 _); omega
  · show min 60 (max 24 _) ≤ 60; omega

theorem execHoldupEnd_leaves : ∃ t, exec .holdupEnd s = .next t ∧ s.Leaves t := by
  simp only [exec, execHoldupEnd]
  split
  · exact ⟨_, rfl, .refl s⟩
  · exact ⟨_, rfl, .ite (.trans ⟨rfl, id⟩ (State.modReset_leaves _)) ⟨rfl, id⟩⟩

/-! #### Time, links and memory -/

theorem State.holdover_leaves : s.Leaves s.holdover := .ite (.refl s) ⟨rfl, id⟩

theorem State.chooseParent_leaves : s.Leaves s.chooseParent := ⟨rfl, id⟩

theorem State.markFailed_leaves (phys : Nat) : s.Leaves (s.markFailed phys) := .ite (.trans ⟨rfl, id⟩ (State.holdover_leaves _)) ⟨rfl, id⟩

theorem State.slotReport_leaves (reporter slot : Nat) : s.Leaves (s.slotReport reporter slot) :=
  .ite (.refl s) (.ite (.trans ⟨rfl, id⟩ (State.markFailed_leaves _ _)) ⟨rfl, id⟩)

theorem State.reportDown_leaves (port : Nat) : s.Leaves (s.reportDown port) := by
  unfold State.reportDown
  refine .ite (.refl s) (.trans (.ite ?_ (.refl s)) (State.slotReport_leaves _ _ _))
  exact s.world_leaves _

theorem State.portDown_leaves (i : Nat) : s.Leaves (s.portDown i) := .trans ⟨rfl, id⟩ (State.reportDown_leaves _ i)

theorem State.hearTwin_leaves (kind : Nat) (b : List Byte) (f : State → State) (hf : ∀ s : State, s.Leaves (f s)) : s.Leaves (s.hearTwin kind b f) := by
  unfold State.hearTwin
  split
  · exact .refl s
  · exact .ite ⟨rfl, id⟩ (.ite ⟨rfl, id⟩ (.trans ⟨rfl, id⟩ (hf _)))

theorem State.channelFault_leaves (c cause : Nat) (issuer : Option Nat) : s.Leaves (s.channelFault c cause issuer) := ⟨rfl, id⟩

theorem State.corrected_leaves (c : Nat) : s.Leaves (s.corrected c) := .ite ⟨rfl, id⟩ ⟨rfl, id⟩

theorem State.grantAccess_leaves (c off : Nat) (a : GrainAccess) : s.Leaves (s.grantAccess c off a) :=
  .ite (s.world_leaves _) (.ite (.trans (s.world_leaves _) (State.channelFault_leaves _ _ _ _))
    (.ite (.trans (s.world_leaves _) (State.corrected_leaves _ _)) (s.world_leaves _)))

theorem State.setHeld_leaves (c : Nat) (xs : List GrainAccess) : s.Leaves (s.setHeld c xs) := s.world_leaves _

theorem State.releaseGrain_leaves (c off grain n : Nat) : s.Leaves (State.releaseGrain c off grain n s) := by
  induction n generalizing s with
  | zero => exact .refl s
  | succ n ih =>
    unfold State.releaseGrain
    dsimp only
    split
    · exact .refl s
    · exact .ite (.trans (.trans (s.setHeld_leaves _ _) (State.grantAccess_leaves _ _ _ _)) (ih _)) (.refl s)

theorem State.onChannel_leaves (c grain : Nat) (issuer : Option Nat) (f : State → Nat → State) (hf : ∀ (s : State) off, s.Leaves (f s off)) :
    s.Leaves (s.onChannel c grain issuer f) := by
  unfold State.onChannel
  refine .ite (.refl s) ?_
  split
  · exact .refl s
  · exact .ite (s.world_leaves _) (hf s _)

/-! #### Registers -/

theorem State.reaches_leaves (b : Block) (i : Nat) : s.Leaves (s.reaches b i) := by
  unfold State.reaches
  split
  · exact .refl s
  · exact s.world_leaves _

theorem State.writeReg_leaves (ready owner : Bool) (b : Block) (i off : Nat) (v : Word) : s.Leaves (s.writeReg ready owner b i off v) := by
  refine (s.reaches_leaves b i).trans ?_
  unfold State.writeReg
  generalize s.reaches b i = s
  refine .ite (.ite (.refl s) ⟨rfl, id⟩) ?_
  dsimp only
  split <;> exact ⟨rfl, id⟩

theorem State.regAccess_leaves (job : Option Nat) (o : Origin) (write : Bool) (q : Parcel) : s.Leaves (s.regAccess job o write q) := by
  unfold State.regAccess
  dsimp only
  split
  · exact s.world_leaves _
  · exact .ite (s.world_leaves _) (.ite
      (.ite (.ite ((s.writeReg_leaves _ _ _ _ _ _).trans (State.world_leaves _ _)) (s.world_leaves _)) (.ite (s.world_leaves _) (s.world_leaves _)))
      (.ite (s.world_leaves _) (.ite (s.world_leaves _) (s.world_leaves _))))

theorem State.serveReg_leaves (write : Bool) (q : Packet) : s.Leaves (s.serveReg write q) := by
  unfold State.serveReg
  dsimp only
  split
  · exact s.onWorld_leaves _
  · exact .ite (.ite ((s.writeReg_leaves _ _ _ _ _ _).trans (State.onWorld_leaves _ _)) (s.onWorld_leaves _))
      (.trans (s.world_leaves _) (State.onWorld_leaves _ _))

theorem State.memoryRequest_leaves (write : Bool) (q : Packet) : s.Leaves (s.memoryRequest write q) :=
  .ite (.refl s) (.ite ((s.world_leaves _).trans (State.serveReg_leaves _ _ _)) (s.world_leaves _))

/-! #### The start -/

theorem State.startJob_leaves (p : Nat) (seed : Word) : s.Leaves (s.startJob p seed) := ⟨rfl, id⟩

/-- What training leaves of the security die: all but the map-out lists. -/
def Sec.trainedFrom (x y : Sec) : Prop := ∃ h c, x = { y with hbmMapout := h, cellarMapout := c }

theorem Sec.trainedFrom_refl (x : Sec) : x.trainedFrom x := ⟨x.hbmMapout, x.cellarMapout, rfl⟩

theorem Sec.trainedFrom.trans {x y z : Sec} (h : x.trainedFrom y) (g : y.trainedFrom z) : x.trainedFrom z := by
  obtain ⟨h1, c1, rfl⟩ := h
  obtain ⟨h2, c2, rfl⟩ := g
  exact ⟨h1, c1, rfl⟩

theorem trainHbm_trained (t : Sid) (fails : List Nat) (x : World × Sec) (c : Nat) : (trainHbm t fails x c).2.trainedFrom x.2 := by
  unfold trainHbm
  dsimp only
  split
  · dsimp only
    split
    · exact Sec.trainedFrom_refl _
    · exact ⟨_, x.2.cellarMapout, rfl⟩
  · exact Sec.trainedFrom_refl _

theorem trainCellar_trained (t : Sid) (b : BootIn) (x : World × Sec) (c : Nat) : (trainCellar t b x c).2.trainedFrom x.2 := by
  unfold trainCellar
  dsimp only
  split
  · dsimp only
    split
    · exact Sec.trainedFrom_refl _
    · exact ⟨x.2.hbmMapout, _, rfl⟩
  · exact Sec.trainedFrom_refl _

theorem foldl_trained {f : World × Sec → Nat → World × Sec} (h : ∀ x c, (f x c).2.trainedFrom x.2) (l : List Nat) (x : World × Sec) :
    (l.foldl f x).2.trainedFrom x.2 := by
  induction l generalizing x with
  | nil => exact Sec.trainedFrom_refl _
  | cons c l ih => exact (ih _).trans (h x c)

theorem State.trainMemory_leaves (boot : BootIn) : s.Leaves (s.trainMemory boot) := by
  have h := (foldl_trained (trainCellar_trained s.sid boot) (List.range 64) _).trans
    (foldl_trained (trainHbm_trained s.sid boot.hbmFail) (List.range 256) (s.w, s.sec))
  unfold State.trainMemory
  dsimp only
  generalize List.foldl (trainCellar s.sid boot) _ _ = x at h ⊢
  obtain ⟨a, b, h⟩ := h
  rw [h]
  exact ⟨rfl, id⟩

theorem State.trainPorts_leaves (boot : BootIn) : s.Leaves (s.trainPorts boot) := by
  unfold State.trainPorts
  refine .trans ?_ (State.chooseParent_leaves _)
  refine .ite ⟨rfl, id⟩ (.trans (t := { s with w := _, pwr := { s.pwr with refclk := boot.refclk } }) ⟨rfl, id⟩ (.foldl (fun s i => ?_) _ _))
  exact .ite (.refl s) (s.reportDown_leaves i)

theorem State.ready_leaves (boot : BootIn) : s.Leaves (s.ready boot) := ⟨rfl, id⟩

theorem State.autonomous_leaves : s.Leaves s.autonomous := by
  unfold State.autonomous
  split
  · split
    · exact s.world_leaves _
    · exact (s.world_leaves _).trans (State.startJob_leaves _ _ _)
  · exact .refl s

theorem State.bootOn_leaves (boot : BootIn) : s.Leaves (s.bootOn boot) := by
  refine .trans (t := { s with sec := { s.sec with bootHeld := false } }) ⟨rfl, id⟩ ?_
  exact ((((State.trainMemory_leaves _ boot).trans (State.trainPorts_leaves _ boot)).trans (State.world_leaves _ _)).trans
    (State.ready_leaves _ boot)).trans (State.autonomous_leaves _)

theorem State.bootFirst_leaves (boot : BootIn) : s.Leaves (s.bootFirst boot) := by
  refine ⟨rfl, fun h => ?_⟩
  obtain ⟨hlo, hhi, hstep, hf0, hf1, hw0, hw1, -, -, hend, hblock⟩ := h
  exact ⟨hlo, hhi, hstep, hf0, hf1, hw0, hw1, Nat.zero_le _, le_refl s.sec.reservedEnd, hend, hblock⟩

theorem State.configWrite_leaves (e : Nat × Word) : s.Leaves (s.configWrite e) := by
  unfold State.configWrite
  dsimp only
  split
  · exact s.world_leaves _
  · exact .ite (s.writeReg_leaves _ _ _ _ _ _) (s.world_leaves _)

theorem State.configure_leaves : s.Leaves s.configure := by
  unfold State.configure
  extract_lets b m img c w0 s1 w1 w2 w3 sec s2
  have h1 : s.Leaves s1 := (s.world_leaves _).trans (State.chooseParent_leaves _)
  clear_value s1 w3
  have h2 : s1.Leaves s2 := .of_kept rfl rfl rfl rfl rfl
  clear_value s2
  exact .ite ((h1.trans h2).trans (.foldl State.configWrite_leaves _ _)) (h1.trans h2)

theorem State.boot_leaves (boot : BootIn) : s.Leaves (s.boot boot) := by
  refine (s.bootFirst_leaves boot).trans ?_
  unfold State.boot
  generalize s.bootFirst boot = s
  dsimp only
  split
  · exact ⟨rfl, id⟩
  · refine s.configure_leaves.trans ?_
    generalize s.configure = s
    exact .ite (s.bootOn_leaves boot) ⟨rfl, id⟩

/-! #### Requests -/

theorem State.respond_leaves (o : Origin) (type : Nat) (q : Parcel) (status : Nat) : s.Leaves (s.respond o type q status) := s.world_leaves _

theorem State.respondWith_leaves (o : Origin) (type : Nat) (q : Parcel) (payload : List Byte) : s.Leaves (s.respondWith o type q payload) :=
  s.world_leaves _

/-- What a handler of requests leaves. -/
def Handler.Leaves (h : Handler) : Prop := ∀ job o q (s : State), s.Leaves (h job o q s)

theorem doStatus_leaves : Handler.Leaves doStatus := fun _ _ _ s => s.respondWith_leaves _ _ _ _
theorem doCapQuery_leaves : Handler.Leaves doCapQuery := fun _ _ _ s => s.respondWith_leaves _ _ _ _

theorem doLoadBegin_leaves : Handler.Leaves doLoadBegin := fun _ _ _ s =>
  .ite (s.world_leaves _) (.ite (s.respond_leaves _ _ _ _) ((s.onWorld_leaves _).trans (State.respond_leaves _ _ _ _ _)))

theorem doLoadData_leaves : Handler.Leaves doLoadData := by
  intro _ o q s
  unfold doLoadData
  dsimp only
  split
  · exact s.respond_leaves _ _ _ _
  · exact .ite (s.respond_leaves _ _ _ _) (.ite ((s.onWorld_leaves _).trans (State.respond_leaves _ _ _ _ _))
      ((s.onWorld_leaves _).trans (State.respond_leaves _ _ _ _ _)))

theorem doLoadEnd_leaves : Handler.Leaves doLoadEnd := by
  intro _ o q s
  unfold doLoadEnd
  dsimp only
  split
  · exact s.respond_leaves _ _ _ _
  · refine .ite (s.world_leaves _) ?_
    split <;> exact s.world_leaves _

theorem doUnload_leaves : Handler.Leaves doUnload := fun _ _ _ s =>
  .ite ((s.onWorld_leaves _).trans (State.respond_leaves _ _ _ _ _)) (s.respond_leaves _ _ _ _)

theorem doStart_leaves : Handler.Leaves doStart := fun _ _ _ s =>
  .ite ((s.startJob_leaves _ _).trans (State.respond_leaves _ _ _ _ _)) (s.respond_leaves _ _ _ _)

theorem doStop_leaves : Handler.Leaves doStop := fun _ _ _ s =>
  .ite (s.respond_leaves _ _ _ _) ((s.onWorld_leaves _).trans (State.respondWith_leaves _ _ _ _ _))

theorem doRestore_leaves : Handler.Leaves doRestore := fun _ _ _ s =>
  .ite (s.respond_leaves _ _ _ _) (.ite (s.respond_leaves _ _ _ _) (.ite (s.respond_leaves _ _ _ _) (s.onWorld_leaves _)))

theorem doRegRead_leaves : Handler.Leaves doRegRead := fun _ _ _ s => s.regAccess_leaves _ _ _ _
theorem doRegWrite_leaves : Handler.Leaves doRegWrite := fun _ _ _ s => s.regAccess_leaves _ _ _ _

theorem doDmaOpen_leaves : Handler.Leaves doDmaOpen := fun _ _ _ s =>
  .ite (s.respond_leaves _ _ _ _) ((s.onWorld_leaves _).trans (State.respond_leaves _ _ _ _ _))

theorem doDmaClose_leaves : Handler.Leaves doDmaClose := fun _ _ _ s =>
  .ite (s.respond_leaves _ _ _ _) ((s.onWorld_leaves _).trans (State.respond_leaves _ _ _ _ _))

theorem doDmaRead_leaves : Handler.Leaves doDmaRead := by
  intro job o q s
  unfold doDmaRead
  dsimp only
  split
  · exact s.respond_leaves _ _ _ _
  · exact (s.world_leaves _).trans (State.respondWith_leaves _ _ _ _ _)

theorem doDmaWrite_leaves : Handler.Leaves doDmaWrite := by
  intro job o q s
  unfold doDmaWrite
  dsimp only
  split
  · exact s.respond_leaves _ _ _ _
  · exact .ite (s.respond_leaves _ _ _ _) ((s.onWorld_leaves _).trans (State.respond_leaves _ _ _ _ _))

theorem doRingCfg_leaves : Handler.Leaves doRingCfg := fun _ _ _ s =>
  .ite (s.respond_leaves _ _ _ _) (.ite (s.respond_leaves _ _ _ _) (.ite (s.respond_leaves _ _ _ _)
    ((s.onWorld_leaves _).trans (State.respond_leaves _ _ _ _ _))))

/-- A rewritten manifest changes the recipe store alone. -/
theorem Sec.writeManifest_eq (x : Sec) (flags fwLen cfgLen bunLen : Nat) (fw cfg bun : List Byte) :
    ∃ m, x.writeManifest flags fwLen cfgLen bunLen fw cfg bun = { x with flash := m } := ⟨_, rfl⟩

theorem State.manifest_leaves {x : Sec} (h : ∃ m, x = { s.sec with flash := m }) : s.Leaves { s with sec := x } := by
  obtain ⟨m, rfl⟩ := h
  exact .of_kept rfl rfl rfl rfl rfl

theorem State.setManifestFlags_leaves (f : Nat → Nat) : s.Leaves { s with sec := s.sec.setManifestFlags f } :=
  s.manifest_leaves (s.sec.writeManifest_eq _ _ _ _ _ _ _)

theorem State.commitRegion_leaves (region n : Nat) (d : List Byte) : s.Leaves { s with sec := s.sec.commitRegion region n d } :=
  s.manifest_leaves (s.sec.writeManifest_eq _ _ _ _ _ _ _)

theorem doRsBegin_leaves : Handler.Leaves doRsBegin := fun _ _ _ s =>
  .ite (s.respond_leaves _ _ _ _) (.ite (s.respond_leaves _ _ _ _) (.ite
    (.ite (s.respond_leaves _ _ _ _) ((s.setManifestFlags_leaves _).trans (State.respond_leaves _ _ _ _ _)))
    (.ite (s.respond_leaves _ _ _ _) (.trans (.trans (.ite (s.setManifestFlags_leaves _) (.refl s)) (State.onWorld_leaves _ _))
      (State.respond_leaves _ _ _ _ _)))))

theorem doRsData_leaves (sparesOut : Bool) : Handler.Leaves (doRsData sparesOut) := by
  intro _ o q s
  unfold doRsData
  dsimp only
  split
  · exact s.respond_leaves _ _ _ _
  · exact .ite ((s.onWorld_leaves _).trans (State.respond_leaves _ _ _ _ _)) (.ite ⟨rfl, id⟩ ⟨rfl, id⟩)

theorem doRsEnd_leaves (boot : BootIn) : Handler.Leaves (doRsEnd boot) := by
  intro _ o q s
  unfold doRsEnd
  dsimp only
  split
  · exact s.respond_leaves _ _ _ _
  · split
    · exact ⟨rfl, id⟩
    · refine .trans (t := State.respond _ o 0x62 q stOk) ?_ (.ite (State.boot_leaves _ boot) (.refl _))
      exact (State.commitRegion_leaves (s.setRs none) _ _ _).trans (State.respond_leaves _ _ _ _ _)

theorem doAttest_leaves : Handler.Leaves doAttest := fun _ _ _ s =>
  .ite (s.respond_leaves _ _ _ _) (.ite (s.respond_leaves _ _ _ _) (.ite (s.respond_leaves _ _ _ _) ⟨rfl, id⟩))

theorem doKey_leaves : Handler.Leaves doKey := fun _ _ _ s =>
  .ite (s.respond_leaves _ _ _ _) ((s.onWorld_leaves _).trans (State.respond_leaves _ _ _ _ _))

theorem doJobKey_leaves : Handler.Leaves doJobKey := fun _ _ _ s => (s.onWorld_leaves _).trans (State.respond_leaves _ _ _ _ _)

theorem doClaim_leaves : Handler.Leaves doClaim := fun _ _ _ s => .ite (s.respond_leaves _ _ _ _) ⟨rfl, id⟩

theorem doRelease_leaves : Handler.Leaves doRelease := fun _ _ _ _ => ⟨rfl, id⟩

theorem doFloor_leaves : Handler.Leaves doFloor := fun _ _ _ s => .ite (s.respond_leaves _ _ _ _) ⟨rfl, id⟩

theorem doSlotBell_leaves : Handler.Leaves doSlotBell := fun _ _ _ s => s.respond_leaves _ _ _ _

theorem handlerOf_leaves (type : Nat) : Handler.Leaves (handlerOf type) := by
  unfold handlerOf
  split
  · exact doStatus_leaves
  · exact doCapQuery_leaves
  · exact doAttest_leaves
  · exact doLoadBegin_leaves
  · exact doLoadData_leaves
  · exact doLoadEnd_leaves
  · exact doUnload_leaves
  · exact doStart_leaves
  · exact doStop_leaves
  · exact doRestore_leaves
  · exact doRegRead_leaves
  · exact doRegWrite_leaves
  · exact doDmaOpen_leaves
  · exact doDmaClose_leaves
  · exact doDmaRead_leaves
  · exact doDmaWrite_leaves
  · exact doRingCfg_leaves
  · exact doRsBegin_leaves
  · exact doRsData_leaves _
  · exact doRsEnd_leaves _
  · exact doKey_leaves
  · exact doJobKey_leaves
  · exact doClaim_leaves
  · exact doRelease_leaves
  · exact doFloor_leaves
  · exact doSlotBell_leaves

theorem State.request_leaves (type : Nat) {h : Handler} (hh : h.Leaves) (o : Origin) (q : Parcel) : s.Leaves (s.request type h o q) := by
  have say : ∀ (s : State) st, s.Leaves (if type = 0x40 then s else s.respond o type q st) := fun s st => .ite (.refl s) (s.respond_leaves _ _ _ _)
  unfold State.request
  dsimp only
  split
  · exact .refl s
  · exact (s.world_leaves _).trans (say _ _)
  · exact .trans (.ite (s.onWorld_leaves _) (.refl s)) (.ite (say _ _) (.ite (say _ _) (hh _ _ _ _)))

theorem State.fromLink_leaves (type : Nat) {h : Handler} (hh : h.Leaves) (q : Parcel) : s.Leaves (s.fromLink type h q) :=
  .ite ((s.onWorld_leaves _).trans (State.request_leaves _ type hh none q)) (.refl s)

theorem State.ringSlot_leaves (r slot : Nat) : s.Leaves (State.ringSlot r s slot) := by
  unfold State.ringSlot
  refine .ite (.refl s) ?_
  split
  refine (s.world_leaves _).trans (.ite (State.respond_leaves _ _ _ _ _) (State.request_leaves _ _ (handlerOf_leaves _) _ _))

theorem doDoorbell_leaves : Handler.Leaves doDoorbell := fun _ _ _ s =>
  .ite (s.onWorld_leaves _) (.trans (.foldl (fun s _ => s.ringSlot_leaves _ _) _ _) (State.onWorld_leaves _ _))

/-! #### The signer (R570, R572) -/

theorem MramRecord.body_write (r : MramRecord) (b : List Byte) : (r.write b).body = b := by
  obtain ⟨⟨an, ab, ac⟩, ⟨bn, bb, bc⟩⟩ := r
  by_cases ha : ac = an <;> by_cases hb : bc = bn <;> by_cases hlt : bn < an <;>
    simp [MramRecord.write, MramRecord.body, MramCopy.valid, ha, hb, hlt]; omega

theorem State.reserveLeaves_reservedEnd (h : s.sec.reservedEnd + 1024 < 2 ^ 64) : s.reserveLeaves.sec.reservedEnd = s.sec.reservedEnd + 1024 := by
  show leAt (s.sec.xmss.write _).body 0 8 = _
  rw [MramRecord.body_write, leAt_leBytes]
  exact Nat.mod_eq_of_lt h

theorem State.refuseSign_leaves (r : SignReq) : s.Leaves (s.refuseSign r) := by
  unfold State.refuseSign
  cases r with
  | attest => exact (s.onWorld_leaves _).trans (.ite (State.respond_leaves _ _ _ _ _) (.refl _))
  | manifest => exact s.onWorld_leaves _

/-- A signature with a leaf index that is reserved. -/
theorem State.sign_leaves (r : SignReq) (h : s.limitsKept → s.sec.nextIndex < s.sec.reservedEnd) : s.Leaves (s.sign r) := by
  have hsign : s.Leaves { s with
      sec := { s.sec with nextIndex := s.sec.nextIndex + 1, credits := s.sec.credits - 1 }
      w := s.w.tick .sec 0 0x080 } := by
    refine ⟨rfl, fun hs => ?_⟩
    have hlt := h hs
    obtain ⟨hlo, hhi, hstep, hf0, hf1, hw0, hw1, hc, -, hend, hblock⟩ := hs
    exact ⟨hlo, hhi, hstep, hf0, hf1, hw0, hw1, (Nat.sub_le _ _).trans hc, hlt, hend, hblock⟩
  refine hsign.trans ?_
  unfold State.sign
  cases r with
  | attest => exact State.world_leaves _ _
  | manifest => exact State.world_leaves _ _

theorem State.limitsKept.nextIndex_le {s : State} (h : s.limitsKept) : s.sec.nextIndex ≤ s.sec.reservedEnd := by
  obtain ⟨-, -, -, -, -, -, -, -, hi, -⟩ := h
  exact hi

theorem State.reserveLeaves_limits (hs : s.limitsKept) (hend : s.sec.nextIndex = s.sec.reservedEnd) (hleft : s.sec.reservedEnd < 2 ^ 40) :
    s.reserveLeaves.limitsKept ∧ s.reserveLeaves.sec.nextIndex < s.reserveLeaves.sec.reservedEnd := by
  obtain ⟨hlo, hhi, hstep, hf0, hf1, hw0, hw1, hc, -, -, hblock⟩ := hs
  have e := s.reserveLeaves_reservedEnd (by omega)
  have hn : s.reserveLeaves.sec.nextIndex = s.sec.nextIndex := rfl
  exact ⟨⟨hlo, hhi, hstep, hf0, hf1, hw0, hw1, hc, by omega, by omega, by omega⟩, by omega⟩

theorem State.reserve_sign_leaves (r : SignReq) (hend : s.sec.nextIndex = s.sec.reservedEnd) (hleft : s.sec.reservedEnd < 2 ^ 40) :
    s.Leaves (s.reserveLeaves.sign r) := by
  by_cases hs : s.limitsKept
  · obtain ⟨hl, hi⟩ := s.reserveLeaves_limits hs hend hleft
    exact .trans (t := s.reserveLeaves) ⟨rfl, fun _ => hl⟩ (State.sign_leaves _ r fun _ => hi)
  · refine ⟨?_, fun h => absurd h hs⟩
    cases r <;> rfl

theorem execSignatureRequest_leaves : ∃ t, exec .signatureRequest s = .next t ∧ s.Leaves t := by
  simp only [exec, execSignatureRequest]
  split
  · exact ⟨_, rfl, .refl s⟩
  · split
    · exact ⟨_, rfl, .refl s⟩
    · next r rest _ =>
      refine ⟨_, rfl, .trans (t := { s with sec := { s.sec with signQueue := rest } }) ⟨rfl, id⟩ ?_⟩
      split
      · next hend =>
        split
        · exact State.refuseSign_leaves _ r
        · next hfull =>
          have hfull : ¬ leafCount ≤ s.sec.reservedEnd := fun h => hfull (.inl h)
          exact State.reserve_sign_leaves _ r hend (Nat.lt_of_not_le hfull)
      · next hend => exact State.sign_leaves _ r fun h => lt_of_le_of_ne h.nextIndex_le hend

end Limits
end Sys2Proof.Machine

namespace Sys2Proof.Machine

section Commands
variable {s : State}

/-- A command answers a next state, which it leaves as `State.Leaves` says. -/
def State.LeavesBy (s : State) (o : Host.Outcome State Fault Refusal) : Prop := ∃ t, o = .next t ∧ s.Leaves t

theorem State.LeavesBy.next {t : State} (h : s.Leaves t) : s.LeavesBy (.next t) := ⟨t, rfl, h⟩

theorem State.LeavesBy.stay : s.LeavesBy (.next s) := .next (.refl s)

theorem State.LeavesBy.ite {p : Prop} [Decidable p] {x y : Host.Outcome State Fault Refusal} (hx : s.LeavesBy x) (hy : s.LeavesBy y) :
    s.LeavesBy (if p then x else y) := by
  split
  · exact hx
  · exact hy

theorem State.LeavesBy.world {w : World} : s.LeavesBy (.next { s with w := w }) := .next (s.world_leaves w)

theorem State.LeavesBy.serve {f : World → World} : s.LeavesBy (.next (s.serve f)) := .next (s.serve_leaves f)

theorem State.LeavesBy.parcel {type : Nat} {h : Handler} {q : Parcel} (hh : h.Leaves) : s.LeavesBy (.next (s.fromLink type h q)) :=
  .next (s.fromLink_leaves type hh q)

variable (s)

theorem execPowerOnQualify_leaves (vin : BitVec 16) (geo : BitVec 6) (boot : BootIn) : s.LeavesBy (execPowerOnQualify vin geo boot s) := by
  unfold execPowerOnQualify
  refine .ite .stay (.next (s.modReset_leaves.trans ?_))
  generalize s.modReset = s
  exact .trans (t := { s with pwr := { s.pwr with geo := geo, inputHigh := false }, sid := {} }) ⟨rfl, id⟩ (.ite (.refl _) (State.boot_leaves _ boot))

theorem execPwrEnFall_leaves : s.LeavesBy (execPwrEnFall s) :=
  .next (.trans (t := { s with pwr := { s.pwr with pwrEn := false } }) ⟨rfl, id⟩ (.ite (State.failCause_leaves _ _ _ _) (.refl _)))

theorem execPwrEnRise_leaves (boot : BootIn) : s.LeavesBy (execPwrEnRise boot s) :=
  .next (.trans (t := { s with pwr := { s.pwr with pwrEn := true } }) ⟨rfl, id⟩ (.ite (State.bootOn_leaves _ boot) (.refl _)))

theorem execModResetLAssert_leaves : s.LeavesBy (execModResetLAssert s) :=
  .next (.trans (t := { s with pwr := { s.pwr with resetLow := true } }) ⟨rfl, id⟩
    (.ite (.refl _) (.ite ⟨rfl, id⟩ ((State.modReset_leaves _).trans (State.world_leaves _ _)))))

theorem execModResetLRelease_leaves (geo : BitVec 6) (boot : BootIn) : s.LeavesBy (execModResetLRelease geo boot s) := by
  have h : ∀ s : State, s.Leaves ({ s with pwr := { s.pwr with geo := geo } }.boot boot) := fun s =>
    .trans (t := { s with pwr := { s.pwr with geo := geo } }) ⟨rfl, id⟩ (State.boot_leaves _ boot)
  exact .ite .stay (.next (.trans (t := { s with pwr := { s.pwr with resetLow := false } }) ⟨rfl, id⟩ (.ite (.refl _) (h _))))

theorem execHbmGrainAccess_leaves (channel : ChannelId) (a : GrainAccess) : s.LeavesBy (execHbmGrainAccess channel a s) :=
  .next (s.onChannel_leaves _ _ _ _ fun s _ => .ite (s.grantAccess_leaves _ _ _) (s.setHeld_leaves _ _))

theorem execParityRetry_leaves (channel : ChannelId) (a : GrainAccess) (attempt : Nat) : s.LeavesBy (execParityRetry channel a attempt s) := by
  refine .next (s.onChannel_leaves _ _ _ _ fun s _ => ?_)
  exact (s.world_leaves _).trans (.ite
    (((State.setHeld_leaves _ _ _).trans (State.grantAccess_leaves _ _ _ _)).trans (State.releaseGrain_leaves _ _ _ _ _))
    (.ite (State.channelFault_leaves _ _ _ _) (State.setHeld_leaves _ _ _)))

theorem execScrubGrain_leaves (channel : ChannelId) (grain : Nat) (corrected uncorrectable : Bool) :
    s.LeavesBy (execScrubGrain channel grain corrected uncorrectable s) :=
  .next (s.onChannel_leaves _ _ _ _ fun s _ => (s.world_leaves _).trans
    (.ite (State.channelFault_leaves _ _ _ _) (.ite (State.corrected_leaves _ _) (.refl _))))

theorem execRegisterWrite_leaves (offset : Nat) (v : BitVec 64) : s.LeavesBy (execRegisterWrite offset v s) := by
  unfold execRegisterWrite
  refine .ite .stay ?_
  split
  · exact .stay
  · exact .next (.ite (s.writeReg_leaves _ _ _ _ _ _) (.refl s))

theorem execCaskCommit_leaves : s.LeavesBy (execCaskCommit s) := by
  unfold execCaskCommit
  split
  · exact .stay
  · exact .ite .stay (.ite (.ite .stay (.next ⟨rfl, id⟩)) (.ite .world (.ite (.ite .world .stay) .world)))

theorem execPtpMessage_leaves (o : RefOffset) : s.LeavesBy (execPtpMessage o s) := by
  unfold execPtpMessage
  split
  · exact .stay
  · exact .ite .stay (.ite (.next ⟨rfl, id⟩) .world)

theorem execTwinDigestFrame_leaves (frame : List Byte) : s.LeavesBy (execTwinDigestFrame frame s) :=
  .ite .stay (.next (s.hearTwin_leaves _ _ _ fun s => .ite (s.world_leaves _) (s.world_leaves _)))

theorem execRollback_leaves (frame : List Byte) : s.LeavesBy (execRollback frame s) :=
  .ite .stay (.next (s.hearTwin_leaves _ _ _ fun s => .ite (s.world_leaves _) (s.world_leaves _)))

theorem execTwinFenceFrame_leaves (frame : List Byte) : s.LeavesBy (execTwinFenceFrame frame s) :=
  .ite .stay (.next (s.hearTwin_leaves _ _ _ fun s => s.world_leaves _))

theorem execPortRetrain_leaves (port : PortId) (partner : PortPartner) (x : PortMeasured) (acked : BitVec 16) :
    s.LeavesBy (execPortRetrain port partner x acked s) := by
  unfold execPortRetrain
  refine .ite .stay (.ite .world ?_)
  dsimp only
  split
  · exact .next (((s.world_leaves _).trans (State.portDown_leaves _ _)).trans (State.world_leaves _ _))
  · exact .next ((s.world_leaves _).trans (.ite (State.portDown_leaves _ _) (.refl _)))

theorem execGroupNotice_leaves (reporter slot : Fin 17) (powerFail : Bool) : s.LeavesBy (execGroupNotice reporter slot powerFail s) :=
  .ite .stay (.ite (.next (s.markFailed_leaves _)) (.next (s.slotReport_leaves _ _)))

theorem execInstall_leaves (table : List (Nat × Nat)) : s.LeavesBy (execInstall table s) :=
  .ite .stay (.next ((s.world_leaves _).trans (State.chooseParent_leaves _)))

theorem execDrainTimeout_leaves (missing : List Nat) : s.LeavesBy (execDrainTimeout missing s) :=
  .ite .stay (.next (.trans (.foldl State.markFailed_leaves _ _) (State.world_leaves _ _)))

theorem execUnknownTypeParcel_leaves (type : BitVec 16) (q : Parcel) : s.LeavesBy (execUnknownTypeParcel type q s) := by
  refine .parcel ?_
  split
  · exact doDoorbell_leaves
  · exact handlerOf_leaves _

/-- Every command answers a next state, with the waiting commands as they were and the limits kept. Most change the world alone. -/
theorem exec_leaves (c : Instr) : s.LeavesBy (exec c s) := by
  cases c
  case powerOnQualify vin geo boot => exact execPowerOnQualify_leaves s vin geo boot
  case inputBelow30V => exact .next ⟨rfl, id⟩
  case inputPowerFail => exact .next (s.failCause_leaves _ _ _)
  case holdupEnd => exact execHoldupEnd_leaves s
  case inputLow => exact .next (.ite (s.onWorld_leaves _) (.refl s))
  case inputRange => exact .next (.ite ⟨rfl, id⟩ (.refl s))
  case pwrEnRise boot => exact execPwrEnRise_leaves s boot
  case pwrEnFall => exact execPwrEnFall_leaves s
  case modResetLAssert => exact execModResetLAssert_leaves s
  case modResetLRelease geo boot => exact execModResetLRelease_leaves s geo boot
  case droopDetected => exact .next (.ite ⟨rfl, id⟩ (.refl s))
  case droopRecovered => exact .next ⟨rfl, id⟩
  case powerSample => exact .next (.ite ⟨rfl, id⟩ (.refl s))
  case capWindowEnd m => exact execCapWindowEnd_leaves s m
  case thermalWarn => exact .next (.ite ⟨rfl, id⟩ (.refl s))
  case thermalTrip => exact .next (s.failCause_leaves _ _ _)
  case pwrCapWrite => exact .next (.ite (s.onWorld_leaves _) (.refl s))
  case smbusBlockRead => exact .ite .stay (.ite .world .world)
  case smbusBlockWrite => exact .ite .stay .world
  case registerWrite offset v => exact execRegisterWrite_leaves s offset v
  case loadBegin => exact .parcel doLoadBegin_leaves
  case loadData => exact .parcel doLoadData_leaves
  case loadEnd => exact .parcel doLoadEnd_leaves
  case unload => exact .parcel doUnload_leaves
  case start => exact .parcel doStart_leaves
  case stop => exact .parcel doStop_leaves
  case restore => exact .parcel doRestore_leaves
  case status => exact .parcel doStatus_leaves
  case capQuery => exact .parcel doCapQuery_leaves
  case attest => exact .parcel doAttest_leaves
  case regRead => exact .parcel doRegRead_leaves
  case regWrite => exact .parcel doRegWrite_leaves
  case dmaOpen => exact .parcel doDmaOpen_leaves
  case dmaClose => exact .parcel doDmaClose_leaves
  case dmaRead => exact .parcel doDmaRead_leaves
  case dmaWrite => exact .parcel doDmaWrite_leaves
  case ringCfg => exact .parcel doRingCfg_leaves
  case doorbell => exact .parcel doDoorbell_leaves
  case eventsHeartbeat => exact .ite .stay .world
  case rsBegin => exact .parcel doRsBegin_leaves
  case rsData p b => exact .parcel (doRsData_leaves b)
  case rsEnd p boot => exact .parcel (doRsEnd_leaves boot)
  case key => exact .parcel doKey_leaves
  case jobKey => exact .parcel doJobKey_leaves
  case claim => exact .parcel doClaim_leaves
  case release => exact .parcel doRelease_leaves
  case floor => exact .parcel doFloor_leaves
  case uzoRetrain => exact .next (.ite (s.onWorld_leaves _) (.refl s))
  case mgcWatchdogExpiry => exact .ite .stay (.next ⟨rfl, id⟩)
  case kick => exact .next (.ite ⟨rfl, id⟩ (.refl s))
  case signatureRequest => exact execSignatureRequest_leaves s
  case hbmGrainAccess c a => exact execHbmGrainAccess_leaves s c a
  case parityRetry c a n => exact execParityRetry_leaves s c a n
  case scrubGrain c g x y => exact execScrubGrain_leaves s c g x y
  case hbcMapoutClear => exact .ite .stay (.next (.of_kept rfl rfl rfl rfl rfl))
  case cellarBurst => exact .ite .stay (.ite (.next (.of_kept rfl rfl rfl rfl rfl)) .world)
  case readReq => exact .next (s.memoryRequest_leaves _ _)
  case write => exact .next (s.memoryRequest_leaves _ _)
  case groupNotice r x f => exact execGroupNotice_leaves s r x f
  case portRetrain i q x a => exact execPortRetrain_leaves s i q x a
  case partnerIdle => exact .ite .stay (.next (s.portDown_leaves _))
  case install table => exact execInstall_leaves s table
  case drainTimeout missing => exact execDrainTimeout_leaves s missing
  case timeMark => exact .ite .stay (.next ⟨rfl, id⟩)
  case slewTick => exact .ite .stay (.next ⟨rfl, id⟩)
  case timeHoldover => exact .ite .stay (.next s.holdover_leaves)
  case ptpMessage o => exact execPtpMessage_leaves s o
  case ppsInEdge => exact .ite (.next ⟨rfl, id⟩) .stay
  case ppsOutEdge => exact .ite .stay .world
  case ptpOrPpsInLost => exact .ite (.next s.holdover_leaves) .stay
  case twinDigestFrame b => exact execTwinDigestFrame_leaves s b
  case rollback b => exact execRollback_leaves s b
  case twinFenceFrame b => exact execTwinFenceFrame_leaves s b
  case caskCommit => exact execCaskCommit_leaves s
  case uzoPartnerLightChange => exact .next (s.onWorld_leaves _)
  case unknownTypeParcel type q => exact execUnknownTypeParcel_leaves s type q
  all_goals exact .serve

theorem idleTick_leaves : s.Leaves (idleTick s) := by
  refine .ite (.refl s) ⟨rfl, fun h => ?_⟩
  obtain ⟨hlo, hhi, hstep, hf0, hf1, hw0, hw1, hc, hsec⟩ := h
  refine ⟨hlo, hhi, hstep, hf0, hf1, hw0, hw1, ?_, hsec⟩
  dsimp only
  split
  · exact Nat.min_le_left _ _
  · exact hc

end Commands

/-- Settles O2: most commands change the world alone, and no other touches the queue. -/
theorem everyCommandAnswersKeepingQueue : Obligations.EveryCommandAnswersKeepingQueue := by
  intro c s
  obtain ⟨t, ht, hq, -⟩ := exec_leaves s c
  exact ⟨t, ht, hq⟩

/-- Settles O59: what a command or an idle tick leaves lies within the limits. -/
theorem everyStepKeepsLimits : Obligations.EveryStepKeepsLimits := by
  intro s t hs h
  unfold step at h
  split at h
  · injection h with h
    exact h ▸ (idleTick_leaves s).2 hs
  · next c r _ =>
    obtain ⟨u, hu, -, hkeep⟩ := exec_leaves { s with pending := r } c
    rw [hu] at h
    injection h with h
    exact h ▸ hkeep hs

/-- Settles O1, by the two cases of a step. -/
theorem stepRunsFrontCommand : Obligations.StepRunsFrontCommand :=
  ⟨fun c r s h => by rw [step, h], fun s h => by rw [step, h]⟩

theorem State.reset_limitsKept : State.reset.limitsKept := by
  unfold State.limitsKept
  decide

/-- Settles O58: each field of the reset state has its default value. -/
theorem resetIsOffAndEmpty : Obligations.ResetIsOffAndEmpty :=
  ⟨rfl, rfl, rfl, rfl, rfl, rfl, rfl, rfl, rfl, rfl, rfl, rfl, fun _ => rfl, State.reset_limitsKept, rfl⟩

end Sys2Proof.Machine

namespace Sys2Proof.Machine

/-! ### What noting leaves of the counters -/

section NotedCounters
variable (w : World) (t : Sid) {a : Nat}

/-- The counters that stamps, trace and events may advance: stamps with RESYNC, trace records and events that were lost, and CNT_FAULTS. -/
def notedCounter (a : Nat) : Prop :=
  a = Block.sid.addr 0 0x098 ∨ a = Block.trc.addr 0 0x098 ∨ a = Block.uzo.addr 0 0x0A8 ∨ ∃ p, a = Block.cnt.addr p 0x0B0

/-- An address that lies at none of the three offsets of those counters. -/
theorem not_notedCounter {b : Block} {i off : Nat} (h : off < 0x1000) (h1 : off ≠ 0x098) (h2 : off ≠ 0x0A8) (h3 : off ≠ 0x0B0) :
    ¬ notedCounter (b.addr i off) := by
  rintro (e | e | e | ⟨p, e⟩)
  · exact Block.addr_ne h (by decide) h1 e
  · exact Block.addr_ne h (by decide) h1 e
  · exact Block.addr_ne h (by decide) h2 e
  · exact Block.addr_ne h (by decide) h3 e

/-- `v` is `w` with something noted; no counter but those that noting advances differs. -/
structure World.Noted (w v : World) : Prop where
  noted : v.notedFrom w
  counter : ∀ a, ¬ notedCounter a → AMap.get 0 v.counters a = AMap.get 0 w.counters a

theorem World.Noted.refl : w.Noted w := ⟨w.notedFrom_refl, fun _ _ => rfl⟩

theorem World.Noted.trans {w v u : World} (h : w.Noted v) (g : v.Noted u) : w.Noted u :=
  ⟨World.notedFrom_trans g.noted h.noted, fun a ha => (g.counter a ha).trans (h.counter a ha)⟩

theorem World.Noted.of_counters {w v : World} (h : v.notedFrom w) (hc : v.counters = w.counters) : w.Noted v := ⟨h, fun _ _ => by rw [hc]⟩

theorem World.counter_count_ne {a k : Nat} (n : Nat) (h : a ≠ k) : AMap.get 0 (w.count k n).counters a = AMap.get 0 w.counters a := by
  simp only [World.count, AMap.get_upd_ne _ _ _ h]

theorem World.counter_count_self (k n : Nat) : AMap.get 0 (w.count k n).counters k = AMap.get 0 w.counters k + BitVec.ofNat 64 n := by
  simp only [World.count, AMap.get_upd_self]

theorem World.tick_Noted {b : Block} {i off : Nat} (h : notedCounter (b.addr i off)) : w.Noted (w.tick b i off) :=
  ⟨w.tick_noted b i off, fun _ ha => w.counter_count_ne 1 fun e => ha (e ▸ h)⟩

theorem World.stamp_Noted (src : Nat) : w.Noted (w.stamp t src).2.2 := by
  have h : w.Noted { w with stamps := AMap.set 0 w.stamps src (max (w.sample t src).1 (AMap.get 0 w.stamps src) + 1) } :=
    .of_counters (w.stamps_noted _) rfl
  simp only [World.stamp]
  split
  · exact h.trans (World.tick_Noted _ (.inl rfl))
  · exact h

theorem World.portDrop_Noted (st : Nat) : w.Noted (w.portDrop st) :=
  ⟨w.portDrop_noted st, fun _ ha => World.counter_count_ne _ 1 fun e => ha (.inr (.inl e))⟩

theorem World.portAccept_Noted (src cls st : Nat) (r : List Byte) : w.Noted (w.portAccept src cls st r) := by
  simp only [World.portAccept]
  split
  · exact w.portDrop_Noted st
  · split
    · split
      · exact .of_counters (w.trc_noted _) rfl
      · exact w.portDrop_Noted st
    · split <;> exact .of_counters (w.trc_noted _) rfl

theorem World.traceTo_Noted (src cls st : Nat) (r : List Byte) : w.Noted (w.traceTo src cls st r) := by
  have h : ∀ v : World, w.Noted v → w.Noted (if v.portTraces cls then v.portAccept src cls st r else v) := by
    intro v hv
    split
    · exact hv.trans (v.portAccept_Noted _ _ _ _)
    · exact hv
  simp only [World.traceTo]
  split
  · exact h _ (.refl w)
  · split
    · exact h _ (.of_counters (w.traceIn_noted _ _) rfl)
    · exact h _ (.refl w)

theorem World.tailWrite_Noted (src : Nat) (r : List Byte) : w.Noted (w.tailWrite src r) := .of_counters (w.tailWrite_noted src r) rfl

theorem World.act_Noted (src kind cls a16 a32 : Nat) (data : List Byte) : w.Noted (w.act t src kind cls a16 a32 data) :=
  ((w.stamp_Noted t src).trans (World.tailWrite_Noted _ _ _)).trans (World.traceTo_Noted _ _ _ _ _)

theorem World.holdRecord_Noted (src st : Nat) (e : Bool) : w.Noted (w.holdRecord t src st e) :=
  (w.stamp_Noted t src).trans (World.tailWrite_Noted _ _ _)

theorem World.queueEvent_Noted (sev : Nat) (r : List Byte) : w.Noted (w.queueEvent sev r) := by
  refine ⟨w.queueEvent_noted sev r, fun a ha => ?_⟩
  simp only [World.queueEvent]
  split
  · split
    · rfl
    · exact World.counter_count_ne _ 1 fun e => ha (.inr (.inr (.inl e)))
  · rfl

theorem World.freezeTail_Noted (cause trigger src : Nat) : w.Noted (World.freezeTail t cause trigger w src) := by
  refine ⟨w.freezeTail_noted t cause trigger src, fun a ha => ?_⟩
  simp only [World.freezeTail]
  split
  · rfl
  · exact (w.stamp_Noted t src).counter a ha

theorem World.freezeShared_Noted (sev src : Nat) : w.Noted (w.freezeShared t sev src) := by
  simp only [World.freezeShared]
  split
  · exact w.freezeTail_Noted t _ _ _
  · exact .refl w

theorem World.raiseAs_Noted (src code sev payload extra : Nat) : w.Noted (w.raiseAs t src code sev payload extra) := by
  have h : ∀ v : World, v.Noted (match v.sourcePart src with
      | none => v
      | some p => if 3 ≤ sev then v.tick .cnt p 0x0B0 else v) := by
    intro v
    split
    · exact .refl v
    · split
      · exact v.tick_Noted (.inr (.inr (.inr ⟨_, rfl⟩)))
      · exact .refl v
  simp only [World.raiseAs]
  exact (((((w.stamp_Noted t src).trans (World.queueEvent_Noted _ _ _)).trans (h _)).trans (World.tailWrite_Noted _ _ _)).trans
    (World.traceTo_Noted _ _ _ _ _)).trans (World.freezeShared_Noted _ _ _ _)

theorem World.raise_Noted (src code payload : Nat) : w.Noted (w.raise t src code payload) := w.raiseAs_Noted t _ _ _ _ _

theorem World.notedFrom.memories {a b : World} (h : a.notedFrom b) : b.memoriesKept a := ⟨h.hbm, h.tun, h.cstore, h.cellar⟩

theorem World.memoriesKept_refl : w.memoriesKept w := ⟨rfl, rfl, rfl, rfl⟩

theorem World.memoriesKept.trans {w v u : World} (h : w.memoriesKept v) (g : v.memoriesKept u) : w.memoriesKept u := by
  obtain ⟨h1, h2, h3, h4⟩ := h
  obtain ⟨g1, g2, g3, g4⟩ := g
  exact ⟨g1.trans h1, g2.trans h2, g3.trans h3, g4.trans h4⟩

theorem World.memoriesKept.foldl {α : Type} {f : World → α → World} (h : ∀ (v : World) (x : α), v.memoriesKept (f v x)) (xs : List α) (w : World) :
    w.memoriesKept (xs.foldl f w) :=
  List.foldlRecOn xs f (motive := w.memoriesKept) w.memoriesKept_refl fun v hv x _ => hv.trans (h v x)

theorem World.reg_of_regs {w v : World} (h : v.regs = w.regs) (a : Nat) : v.reg a = w.reg a := by rw [World.reg, h, World.reg]

theorem World.notedFrom.reg {a b : World} (h : a.notedFrom b) (x : Nat) : a.reg x = b.reg x := World.reg_of_regs h.regs x

theorem World.notedFrom.core {a b : World} (h : a.notedFrom b) (c : Nat) : a.core c = b.core c := World.core_of_cores h.cores c

theorem World.reg_setReg (a x : Nat) (v : Word) : (w.setReg a v).reg x = if x = a then v else w.reg x := by
  split
  next h => subst h; exact AMap.get_set_self _ _ _ _
  next h => exact AMap.get_set_ne_any _ _ _ _ h

/-- The state of the event queue decides whether an event is forwarded. -/
theorem World.forwards.of_same {w v : World} {sev : Nat} (h : w.forwards sev) (hr : v.reg (Block.uzo.addr 0 0x008) = w.reg (Block.uzo.addr 0 0x008))
    (hu : v.uzo = w.uzo) : v.forwards sev := by
  rw [World.forwards, hr, hu]
  exact h

theorem World.raised.of_same {w v u : World} {src code payload : Nat} (h : v.raised u src code payload) (hu : v.uzo = w.uzo) :
    w.raised u src code payload := by
  rw [World.raised, hu] at h
  exact h

theorem World.saw.of_same {w v u : World} {sev src code payload : Nat} (h : v.saw u sev src code payload)
    (hr : v.reg (Block.uzo.addr 0 0x008) = w.reg (Block.uzo.addr 0 0x008)) (hu : v.uzo = w.uzo) : w.saw u sev src code payload :=
  fun hf => h (hf.of_same hr hu)

end NotedCounters

section Service
variable {s : State}

theorem State.serve_of_inService (hs : s.inService = true) (f : World → World) : s.serve f = s.onWorld f := if_pos hs

theorem State.powered_of_not_off (h : s.pwr.phase ≠ .off) : s.powered = true := decide_eq_true h

theorem State.phase_of_inService (hs : s.inService = true) : s.pwr.phase = .ready := by
  simp only [State.inService, Bool.and_eq_true, decide_eq_true_eq] at hs
  exact hs.1

theorem State.powered_of_inService (hs : s.inService = true) : s.powered = true := by
  simp [State.powered, s.phase_of_inService hs]

end Service

end Sys2Proof.Machine

namespace Sys2Proof.Machine

/-! ### Power, heat and clocks (R19 to R24, R621, R622, R627, R632) -/

section Alerts
variable (w : World)

theorem World.driveAlert_eq (was : Bool) : ∃ l, w.driveAlert was = { w with out := l } := by
  unfold World.driveAlert
  split
  · exact ⟨w.out, rfl⟩
  · exact ⟨_, rfl⟩

/-- An alert changes PWR_ALERT and what has left the module. -/
theorem World.setAlert_eq (b : Nat) :
    ∃ l, w.setAlert b = { w.setBits (Block.pwr.addr 0 0x018) (BitVec.ofNat 64 (2 ^ b)) with out := l } := World.driveAlert_eq _ _

theorem World.setAlert_reg (b a : Nat) : (w.setAlert b).reg a =
    if a = Block.pwr.addr 0 0x018 then w.reg (Block.pwr.addr 0 0x018) ||| BitVec.ofNat 64 (2 ^ b) else w.reg a := by
  obtain ⟨l, h⟩ := w.setAlert_eq b
  rw [World.reg_of_regs (congrArg World.regs h)]
  exact w.reg_setReg _ _ _

theorem World.setAlert_bit {b : Nat} (hb : b < 64) : ((w.setAlert b).reg (Block.pwr.addr 0 0x018)).getLsbD b = true := by
  rw [World.setAlert_reg, if_pos rfl, BitVec.getLsbD_or, BitVec.getLsbD_ofNat, Nat.testBit_two_pow_self]
  simp [hb]

theorem World.setAlert_uzoCtrl (b : Nat) : (w.setAlert b).reg (Block.uzo.addr 0 0x008) = w.reg (Block.uzo.addr 0 0x008) := by
  rw [World.setAlert_reg, if_neg (by decide)]

@[simp] theorem World.setAlert_uzo (b : Nat) : (w.setAlert b).uzo = w.uzo := by obtain ⟨l, h⟩ := w.setAlert_eq b; rw [h]; rfl
@[simp] theorem World.setAlert_counters (b : Nat) : (w.setAlert b).counters = w.counters := by obtain ⟨l, h⟩ := w.setAlert_eq b; rw [h]; rfl
@[simp] theorem World.setAlert_parts (b : Nat) : (w.setAlert b).parts = w.parts := by obtain ⟨l, h⟩ := w.setAlert_eq b; rw [h]; rfl
@[simp] theorem World.setAlert_hbm (b : Nat) : (w.setAlert b).hbm = w.hbm := by obtain ⟨l, h⟩ := w.setAlert_eq b; rw [h]; rfl
@[simp] theorem World.setAlert_tun (b : Nat) : (w.setAlert b).tun = w.tun := by obtain ⟨l, h⟩ := w.setAlert_eq b; rw [h]; rfl
@[simp] theorem World.setAlert_cstore (b : Nat) : (w.setAlert b).cstore = w.cstore := by obtain ⟨l, h⟩ := w.setAlert_eq b; rw [h]; rfl
@[simp] theorem World.setAlert_cellar (b : Nat) : (w.setAlert b).cellar = w.cellar := by obtain ⟨l, h⟩ := w.setAlert_eq b; rw [h]; rfl
theorem World.setAlert_memories (b : Nat) : w.memoriesKept (w.setAlert b) := by
  simp [World.memoriesKept]

end Alerts

section Measured
variable (w : World)

/-- A change that leaves everything but registers. -/
def World.onlyRegs (w v : World) : Prop := ∃ r, v = { w with regs := r }

theorem World.onlyRegs.trans {w v u : World} (h : w.onlyRegs v) (g : v.onlyRegs u) : w.onlyRegs u := by
  obtain ⟨r, rfl⟩ := h
  obtain ⟨q, rfl⟩ := g
  exact ⟨q, rfl⟩

theorem World.onlyRegs.memories {w v : World} (h : w.onlyRegs v) : w.memoriesKept v := by
  obtain ⟨r, rfl⟩ := h
  exact ⟨rfl, rfl, rfl, rfl⟩

theorem World.onlyRegs.foldl {α : Type} {f : World → α → World} (h : ∀ (v : World) (x : α), v.onlyRegs (f v x)) (xs : List α) (w : World) :
    w.onlyRegs (xs.foldl f w) :=
  List.foldlRecOn xs f (motive := w.onlyRegs) ⟨w.regs, rfl⟩ fun v hv x _ => hv.trans (h v x)

theorem World.setReg_onlyRegs (a : Nat) (v : Word) : w.onlyRegs (w.setReg a v) := ⟨_, rfl⟩

theorem World.measure_onlyRegs (avg : Nat) (m : Measurement) : w.onlyRegs (w.measure avg m) := by
  unfold World.measure
  refine .trans (.trans (.trans (.trans (w.setReg_onlyRegs _ _) (.foldl (fun v x => ?_) _ _)) (.foldl (fun v x => ?_) _ _))
    (World.setReg_onlyRegs _ _ _)) (World.setReg_onlyRegs _ _ _)
  · split
    · exact v.setReg_onlyRegs _ _
    · exact ⟨v.regs, rfl⟩
  · split
    · exact v.setReg_onlyRegs _ _
    · exact ⟨v.regs, rfl⟩

end Measured

section Window
variable (p : Pwr) (cap : Nat) (m : Measurement)

/-- The frequency falls when the average exceeds the cap or a sensor is hot (R22, R632). -/
theorem Pwr.windowEnd_down (h : p.capInForce * 50 < p.average ∨ hotSensors m.temps ≠ []) :
    (p.windowEnd cap m).freq = stepDown p.freq := by
  have hdown : (decide (p.capInForce * 50 < p.average) || !(hotSensors m.temps).isEmpty) = true := by
    simpa [List.isEmpty_iff] using h
  unfold Pwr.windowEnd
  simp only [hdown, if_true]

theorem Pwr.windowEnd_up (h : p.average ≤ p.capInForce * 50) (hcool : hotSensors m.temps = []) (hwarm : p.thermal = false)
    (hlow : p.average + 50 ≤ p.capInForce * 50) (hn : 19 ≤ p.lowWindows) : (p.windowEnd cap m).freq = stepUp p.freq := by
  have hn : 20 ≤ p.lowWindows + 1 := by omega
  unfold Pwr.windowEnd
  simp [Nat.not_lt.2 h, hcool, hwarm, hlow, hn]

theorem Pwr.windowEnd_stay (h : p.average ≤ p.capInForce * 50) (hcool : hotSensors m.temps = [])
    (hlow : p.capInForce * 50 < p.average + 50 ∨ p.lowWindows < 19) : (p.windowEnd cap m).freq = p.freq := by
  have hn : (decide (20 ≤ if p.average + 50 ≤ p.capInForce * 50 then p.lowWindows + 1 else 0)) = false := by
    rw [decide_eq_false_iff_not]
    split <;> omega
  unfold Pwr.windowEnd
  simp [Nat.not_lt.2 h, hcool, hn]

end Window

section PowerCommands
variable {s : State}

theorem exec_inputLow_of_powered (h : s.powered = true) (vin : BitVec 16) :
    exec (.inputLow vin) s = .next (s.onWorld fun w => w.setAlert 1) := by
  show Host.Outcome.next (if s.powered then _ else _) = _
  rw [if_pos h]

theorem execInputRange_raises (h : s.powered = true) (hin : s.pwr.inputHigh = false) (vin : BitVec 16) :
    exec (.inputRange vin) s = .next { s with
      pwr := { s.pwr with inputHigh := true }
      w := ((s.w.setAlert 0).tick .pwr 0 0x0A0).raise s.sid (ioSource 12) 0x173 vin.toNat } := by
  show Host.Outcome.next (if s.powered ∧ s.pwr.inputHigh = false then _ else _) = _
  rw [if_pos ⟨h, hin⟩]

end PowerCommands

theorem World.alert_memories (w : World) (t : Sid) {b off code payload : Nat} :
    w.memoriesKept (((w.setAlert b).tick .pwr 0 off).raise t (ioSource 12) code payload) := by
  simp [World.memoriesKept]

/-- The alert bit, the counter and the event of a condition of the power controller. -/
theorem World.alerted (w : World) (t : Sid) {b off code payload : Nat} (hb : b < 64) (hcode : code < 65536) (hf : w.forwards (eventSeverity code)) :
    ((((w.setAlert b).tick .pwr 0 off).raise t (ioSource 12) code payload).reg (Block.pwr.addr 0 0x018)).getLsbD b = true
      ∧ w.raised (((w.setAlert b).tick .pwr 0 off).raise t (ioSource 12) code payload) (ioSource 12) code payload
      ∧ w.memoriesKept (((w.setAlert b).tick .pwr 0 off).raise t (ioSource 12) code payload)
      ∧ (¬ notedCounter (Block.pwr.addr 0 off) →
          AMap.get 0 (((w.setAlert b).tick .pwr 0 off).raise t (ioSource 12) code payload).counters (Block.pwr.addr 0 off)
            = AMap.get 0 w.counters (Block.pwr.addr 0 off) + 1) := by
  have hn := ((w.setAlert b).tick .pwr 0 off).raise_Noted t (ioSource 12) code payload
  refine ⟨?_, ?_, w.alert_memories t, fun ha => ?_⟩
  · rw [hn.noted.reg]
    exact w.setAlert_bit hb
  · have hf' : ((w.setAlert b).tick .pwr 0 off).forwards (eventSeverity code) := hf.of_same (w.setAlert_uzoCtrl b) (w.setAlert_uzo b)
    exact (World.raise_raised _ t hf' (by decide) hcode).of_same (w.setAlert_uzo b)
  · rw [hn.counter _ ha]
    refine (World.counter_tick_self (w.setAlert b) .pwr 0 off).trans ?_
    rw [World.counter, w.setAlert_counters]

theorem World.memoriesKept.ite {w v u : World} {p : Prop} [Decidable p] (hv : w.memoriesKept v) (hu : w.memoriesKept u) :
    w.memoriesKept (if p then v else u) := by
  split
  · exact hv
  · exact hu

section Cap
variable {s : State}

/-- The end of a window in service: the controller decides, the measurements stand in their registers, no memory changes. -/
theorem exec_capWindowEnd_of_inService (hs : s.inService = true) (m : Measurement) :
    ∃ w, s.w.memoriesKept w ∧ exec (.capWindowEnd m) s = .next { s with
      pwr := { s.pwr.windowEnd (s.w.regField (Block.pwr.addr 0 0x008) 0 6) m with stretchSeen := s.pwr.stretched.any (·.2), withheldAt := s.sid.now }
      w := w } := by
  simp only [exec, execCapWindowEnd, s.powered_of_inService hs, hs, if_true]
  refine ⟨_, ?_, rfl⟩
  obtain ⟨h1, h2, h3, h4⟩ := (s.w.measure_onlyRegs s.pwr.average m).memories
  split_ifs <;> exact ⟨h1, h2, h3, h4⟩

theorem exec_thermalWarn_of_powered (h : s.powered = true) (i : Fin 17) (temp : BitVec 16) :
    exec (.thermalWarn i temp) s = .next
      { s with
        pwr := { s.pwr with hot := if s.pwr.hot.contains i.val then s.pwr.hot else s.pwr.hot ++ [i.val], thermal := true, coolWindows := 0 }
        w := if s.pwr.thermal then s.w.setField (Block.pwr.addr 0 (0x200 + 8 * i.val)) 0 16 temp.toNat
             else (((s.w.setField (Block.pwr.addr 0 (0x200 + 8 * i.val)) 0 16 temp.toNat).setAlert 2).tick .pwr 0 0x090).raise s.sid (ioSource 12)
                0x171 (thermalPayload i.val temp) } := by
  show Host.Outcome.next (if s.powered then _ else _) = _
  rw [if_pos h]

theorem mem_insert_hot (l : List Nat) (i : Nat) : i ∈ (if l.contains i then l else l ++ [i]) := by
  split
  next h => simpa using h
  next => simp

end Cap

/-- PWR_CAP keeps the six bits of its field. -/
theorem mkField_capField (v : Word) : mkField (fieldOf v 0 6) 0 6 = v &&& 0x3F := by
  apply BitVec.eq_of_toNat_eq
  have h : v.toNat &&& 63 = v.toNat % 64 := Nat.and_two_pow_sub_one_eq_mod v.toNat 6
  rw [BitVec.toNat_and, show ((0x3F : BitVec 64).toNat) = 63 from rfl, h]
  simp only [mkField, fieldOf, bitsAt, BitVec.toNat_ofNat]
  omega

section Settle
variable {s : State}

theorem exec_thermalWarn_settles (hoff : s.pwr.phase ≠ .off) (hf : s.w.forwards 2) (i : Fin 17) (temp : BitVec 16) :
    ∃ t, exec (.thermalWarn i temp) s = .next t ∧ t.pwr.thermal = true ∧ i.val ∈ t.pwr.hot ∧ t.pwr.freq = s.pwr.freq
      ∧ t.sid = s.sid ∧ t.sec = s.sec ∧ s.w.memoriesKept t.w
      ∧ (s.pwr.thermal = false → (t.w.reg (Block.pwr.addr 0 0x018)).getLsbD 2 = true
          ∧ s.w.raised t.w (ioSource 12) 0x171 (i.val + temp.toNat * 2 ^ 8)
          ∧ AMap.get 0 t.w.counters (Block.pwr.addr 0 0x090) = AMap.get 0 s.w.counters (Block.pwr.addr 0 0x090) + 1)
      ∧ (s.pwr.thermal = true → t.w.uzo = s.w.uzo ∧ t.w.counters = s.w.counters) := by
  refine ⟨_, exec_thermalWarn_of_powered (s.powered_of_not_off hoff) i temp, rfl, mem_insert_hot _ _, rfl, rfl, rfl, ?_, fun h => ?_, fun h => ?_⟩
  · dsimp only
    split
    · exact ⟨rfl, rfl, rfl, rfl⟩
    · exact (World.setReg_onlyRegs _ _ _).memories.trans (World.alert_memories _ _)
  · have hreg : (s.w.setField (Block.pwr.addr 0 (0x200 + 8 * i.val)) 0 16 temp.toNat).reg (Block.uzo.addr 0 0x008) = s.w.reg (Block.uzo.addr 0 0x008) := by
      have haddr : Block.uzo.addr 0 0x008 ≠ Block.pwr.addr 0 (0x200 + 8 * i.val) := Block.addr_ne (by decide) (by omega) (by omega)
      exact (World.reg_setReg _ _ _ _).trans (if_neg haddr)
    have hf' : (s.w.setField (Block.pwr.addr 0 (0x200 + 8 * i.val)) 0 16 temp.toNat).forwards 2 := hf.of_same hreg rfl
    obtain ⟨hbit, hraised, -, hcount⟩ := World.alerted _ s.sid (b := 2) (off := 0x090) (code := 0x171) (payload := thermalPayload i.val temp)
      (by decide) (by decide) hf'
    simp only [h, Bool.false_eq_true, if_false]
    exact ⟨hbit, hraised.of_same rfl, hcount (not_notedCounter (by decide) (by decide) (by decide) (by decide))⟩
  · simp only [h, if_true]
    exact ⟨rfl, rfl⟩

theorem exec_capWindowEnd_settles (hs : s.inService = true) (m : Measurement) :
    let avg := if s.pwr.powerCount = 0 then 0 else s.pwr.powerSum / s.pwr.powerCount
    let cap := 50 * s.pwr.capInForce
    let lower := cap < avg ∨ hotSensors m.temps ≠ []
    ∃ t, exec (.capWindowEnd m) s = .next t ∧ t.sid = s.sid ∧ t.sec = s.sec ∧ s.w.memoriesKept t.w
      ∧ (lower → t.pwr.freq = if s.pwr.freq ≤ 400 then 400 else s.pwr.freq - 20)
      ∧ (¬ lower → s.pwr.thermal = false → avg + 50 ≤ cap → 19 ≤ s.pwr.lowWindows → t.pwr.freq = if 940 ≤ s.pwr.freq then 940 else s.pwr.freq + 20)
      ∧ (¬ lower → (cap < avg + 50 ∨ s.pwr.lowWindows < 19) → t.pwr.freq = s.pwr.freq)
      ∧ t.pwr.capInForce = s.pwr.capWindow
      ∧ t.pwr.capWindow = min 60 (max 24 (s.w.regField (Block.pwr.addr 0 0x008) 0 6))
      ∧ t.pwr.powerSum = 0 ∧ t.pwr.powerCount = 0 := by
  intro avg cap lower
  have havg : s.pwr.average = avg := rfl
  have hcap : s.pwr.capInForce * 50 = cap := Nat.mul_comm _ _
  have hstay : ¬ lower → s.pwr.average ≤ s.pwr.capInForce * 50 ∧ hotSensors m.temps = [] := fun h => by
    rw [not_or, not_not, Nat.not_lt] at h
    rwa [havg, hcap]
  obtain ⟨w, hmem, he⟩ := exec_capWindowEnd_of_inService hs m
  refine ⟨_, he, rfl, rfl, hmem, fun h => ?_, fun h hth hlow hn => ?_, fun h hlow => ?_, rfl, rfl, rfl, rfl⟩
  · exact s.pwr.windowEnd_down (s.w.regField (Block.pwr.addr 0 0x008) 0 6) m (by rwa [havg, hcap])
  · exact s.pwr.windowEnd_up (s.w.regField (Block.pwr.addr 0 0x008) 0 6) m (hstay h).1 (hstay h).2 hth (by rwa [havg, hcap]) hn
  · exact s.pwr.windowEnd_stay (s.w.regField (Block.pwr.addr 0 0x008) 0 6) m (hstay h).1 (hstay h).2 (by rwa [havg, hcap])

end Settle

/-- Settles O4, command by command. -/
theorem powerAndHeatAreHeldToLimits : Obligations.PowerAndHeatAreHeldToLimits := by
  refine ⟨fun s vin hoff hf => ?_, fun s i temp hoff hf => ?_, fun s m hs => ?_, fun s hoff => ⟨fun watts => ?_, fun v => ?_⟩⟩
  · have hp := s.powered_of_not_off hoff
    refine ⟨?_, fun hin => ?_, fun hin => ?_⟩
    · exact ⟨_, exec_inputLow_of_powered hp vin, s.w.setAlert_bit (by decide), ⟨rfl, rfl, rfl, rfl⟩, s.w.setAlert_memories 1, s.w.setAlert_parts 1⟩
    · obtain ⟨hbit, hraised, hmem, -⟩ := s.w.alerted s.sid (b := 0) (off := 0x0A0) (code := 0x173) (payload := vin.toNat) (by decide) (by decide) hf
      exact ⟨_, execInputRange_raises hp hin vin, rfl, hbit, hraised, hmem, rfl, rfl⟩
    · show Host.Outcome.next (if s.powered ∧ s.pwr.inputHigh = false then _ else _) = _
      rw [if_neg (by simp [hin])]
  · exact exec_thermalWarn_settles hoff hf i temp
  · exact exec_capWindowEnd_settles hs m
  · refine ⟨_, congrArg Host.Outcome.next (if_pos (s.powered_of_not_off hoff)), rfl, ?_, rfl, rfl, rfl⟩
    exact World.counter_count_self _ _ _
  · refine ⟨_, congrArg Host.Outcome.next (if_pos (s.powered_of_not_off hoff)), ⟨rfl, rfl, rfl, rfl⟩, rfl, ?_, fun a ha => ?_⟩
    · exact (World.reg_setReg _ _ _ _).trans ((if_pos rfl).trans (mkField_capField v))
    · exact (World.reg_setReg _ _ _ _).trans (if_neg ha)

/-- Settles O5: each clock command is one update. -/
theorem clocksStretchStopRestart : Obligations.ClocksStretchStopRestart := by
  intro s
  refine ⟨fun i hoff => ?_, fun i => rfl, fun k hs hidle hrun => ?_, fun k hs hstop => ?_, fun k hrun => ?_⟩
  · exact congrArg Host.Outcome.next (if_pos (s.powered_of_not_off hoff))
  · refine ⟨_, congrArg Host.Outcome.next (State.serve_of_inService hs _), ⟨rfl, rfl, rfl, rfl⟩, ?_, ?_⟩
    · exact (if_pos ⟨hidle, hrun⟩).trans (by simp only [State.onWorld, hidle, hrun, and_self, if_true]; rfl)
    · simp only [State.onWorld, hidle, hrun, and_self, if_true]
      exact World.counter_count_self _ _ _
  · refine congrArg Host.Outcome.next ((State.serve_of_inService hs _).trans ?_)
    simp only [State.onWorld, World.wakeIsland, hstop, if_true, resyncSpan]
  · refine congrArg Host.Outcome.next ?_
    simp only [State.serve, State.onWorld, World.wakeIsland, hrun, Bool.false_eq_true, if_false, ite_self]

end Sys2Proof.Machine

namespace Sys2Proof.Machine

/-! ### Requests of the Uzolo port: the answer, the verdict and the way to a handler (R543 to R549) -/

section Answers
variable (w : World) (t : Sid)

/-- A parcel that leaves is counted and appended to what has left the module. -/
theorem World.sendParcel_eq (o : Output) : ∃ c, w.sendParcel o = { w with counters := c, out := w.out ++ [o] } := ⟨_, rfl⟩

theorem World.counter_sendParcel (o : Output) {a : Nat} (h1 : a ≠ Block.uzo.addr 0 0x088) (h2 : a ≠ Block.uzo.addr 0 0x0B0) :
    AMap.get 0 (w.sendParcel o).counters a = AMap.get 0 w.counters a :=
  (World.counter_count_ne _ _ h2).trans (World.counter_count_ne _ 1 h1)

theorem parcelPayloads_of_short {b : List Byte} (h : b.length ≤ 8192) : parcelPayloads b = [b] := by
  have hn : max 1 (ceilDiv b.length parcelBytes) = 1 := by
    have : (b.length + 8192 - 1) / 8192 ≤ 1 := by omega
    exact max_eq_left this
  simp only [parcelPayloads, hn]
  simp [parcelBytes, List.take_of_length_le h]

/-- A response of at most 8,192 bytes leaves on the link in one parcel. -/
theorem World.answer_link (type : Nat) (q : Parcel) (status detail : Nat) {b : List Byte} (h : b.length ≤ 8192) :
    w.answer t none type q status detail b = w.sendParcel (reply type q status detail b) := by
  simp [World.answer, parcelPayloads_of_short h, responseFlags, reply]

theorem State.respond_link (s : State) (type : Nat) (q : Parcel) (status : Nat) :
    s.respond none type q status = { s with w := s.w.sendParcel (reply type q status 0 []) } := by
  rw [State.respond, World.answer_link _ _ _ _ _ _ (by simp)]

theorem State.respondWith_link (s : State) (type : Nat) (q : Parcel) {b : List Byte} (h : b.length ≤ 8192) :
    s.respondWith none type q b = { s with w := s.w.sendParcel (reply type q stOk 0 b) } := by
  rw [State.respondWith, World.answer_link _ _ _ _ _ _ h]

end Answers

section Way
variable {s : State} {type : Nat} {q : Parcel} {job : Option Nat} {seq : Bool} (h : Handler)

/-- A command that is a request, but no DOORBELL, goes the way of its TYPE. -/
theorem exec_eq_fromLink {c : Instr} (hc : parcelOf c = some (type, q)) : ∃ h, exec c s = .next (s.fromLink type h q) := by
  cases c <;> simp only [parcelOf, Option.some.injEq, Prod.mk.injEq, reduceCtorEq] at hc <;> obtain ⟨rfl, rfl⟩ := hc <;> exact ⟨_, rfl⟩

theorem State.linkLive_of_portOpen (hs : s.portOpen) : s.linkLive = true := by
  obtain ⟨hready, hfail, hreset, hlight, -, -, -⟩ := hs
  simp [State.linkLive, hready, hfail, hreset, hlight]

theorem State.linkLive_light (hs : s.linkLive = true) : s.w.uzo.light = true := by
  simp only [State.linkLive, Bool.and_eq_true] at hs
  exact hs.2

/-- A request that is refused on the link: it is heard, counted, and answered. -/
theorem State.fromLink_refuse {st : Nat} (hs : s.linkLive = true) (hv : s.verdict type q = .refuse st) (ht : type ≠ 0x40) :
    s.fromLink type h q = { s with w := ((s.w.tick .uzo 0 0x080).countRefusal st).sendParcel (reply type q st 0 []) } := by
  have hv' : (s.onWorld fun w => w.tick .uzo 0 0x080).verdict type q = .refuse st := hv
  simp only [State.fromLink, hs, if_true, State.request, hv', ht, if_false, State.respond_link]
  rfl

theorem State.fromLink_silent (hs : s.linkLive = true) (hv : s.verdict type q = .silent) :
    s.fromLink type h q = s.onWorld fun w => w.tick .uzo 0 0x080 := by
  have hv' : (s.onWorld fun w => w.tick .uzo 0 0x080).verdict type q = .silent := hv
  simp only [State.fromLink, hs, if_true, State.request, hv']

/-- A request that is to be handled reaches its handler. -/
theorem State.fromLink_hears (hh : s.hears type q job seq) : s.fromLink type h q = h job none q (s.heard q seq) := by
  obtain ⟨hs, hv, hjob, hpart⟩ := hh
  have hv' : (s.onWorld fun w => w.tick .uzo 0 0x080).verdict type q = .allow job seq := hv
  have h1 : ¬ (job.isSome = true ∧ jobMaySend type = false) := fun ⟨a, b⟩ => by simp [hjob a] at b
  have h2 : ∀ u : State, u.w.config = s.w.config → ¬ (usesPartition type = true ∧ u.w.partCount ≤ q.partition.toNat) := by
    intro u hu ⟨a, b⟩
    have := hpart a
    simp only [World.partCount, hu] at *
    omega
  simp only [State.fromLink, hs, if_true, State.request, hv']
  cases seq
  · exact (if_neg h1).trans (if_neg (h2 (s.heard q false) rfl))
  · exact (if_neg h1).trans (if_neg (h2 (s.heard q true) rfl))

theorem State.countRefusal_eq (w : World) (st : Nat) : ∃ c, w.countRefusal st = { w with counters := c } := by
  unfold World.countRefusal
  split
  · exact ⟨_, rfl⟩
  · split
    · exact ⟨_, rfl⟩
    · exact ⟨w.counters, rfl⟩

/-! #### What a request that is heard leaves of its partition -/

/-- A request that is heard changes at most the last SEQ of its partition. -/
theorem State.heard_part (p : Nat) : ∃ o j, (s.heard q seq).w.part p = { s.w.part p with seqOwner := o, seqJob := j } := by
  cases seq with
  | false => exact ⟨(s.w.part p).seqOwner, (s.w.part p).seqJob, rfl⟩
  | true =>
    show ∃ o j, AMap.get {} (AMap.upd {} s.w.parts q.partition.toNat (Part.accept q)) p = _
    by_cases h : p = q.partition.toNat
    · subst h
      rw [AMap.get_upd_self]
      unfold Part.accept
      split
      · exact ⟨_, _, rfl⟩
      · exact ⟨_, _, rfl⟩
    · rw [AMap.get_upd_ne _ _ _ h]
      exact ⟨(s.w.part p).seqOwner, (s.w.part p).seqJob, rfl⟩

theorem State.heard_restKept (s : State) (q : Parcel) (seq : Bool) : s.restKept (s.heard q seq) := ⟨rfl, rfl, rfl, rfl⟩

/-- A request that is heard leaves the world but counters and partitions. -/
theorem State.heard_w (s : State) (q : Parcel) (seq : Bool) : ∃ c ps, (s.heard q seq).w = { s.w with counters := c, parts := ps } := by
  cases seq
  · exact ⟨_, s.w.parts, rfl⟩
  · exact ⟨_, _, rfl⟩

theorem State.heard_jobRuns (s : State) (q : Parcel) (seq : Bool) (p : Nat) : (s.heard q seq).w.jobRuns p = s.w.jobRuns p := by
  obtain ⟨o, j, h⟩ := s.heard_part (q := q) (seq := seq) p
  rw [World.jobRuns, h, World.jobRuns]

theorem State.heard_out (s : State) (q : Parcel) (seq : Bool) : (s.heard q seq).w.out = s.w.out := by
  obtain ⟨c, ps, h⟩ := s.heard_w q seq
  rw [h]

theorem State.heard_uzo (s : State) (q : Parcel) (seq : Bool) : (s.heard q seq).w.uzo = s.w.uzo := by
  obtain ⟨c, ps, h⟩ := s.heard_w q seq
  rw [h]

theorem State.heard_uzoStatus (s : State) (q : Parcel) (seq : Bool) : (s.heard q seq).uzoStatus = s.uzoStatus := by
  rw [State.uzoStatus, s.heard_uzo, State.uzoStatus]
  rfl

theorem State.heard_powerState (s : State) (q : Parcel) (seq : Bool) : (s.heard q seq).powerState = s.powerState := by
  have h : (s.heard q seq).w.jobRuns = s.w.jobRuns := funext fun p => s.heard_jobRuns q seq p
  rw [State.powerState, h]
  rfl

theorem State.heard_memories (s : State) (q : Parcel) (seq : Bool) : s.w.memoriesKept (s.heard q seq).w := by
  obtain ⟨c, ps, h⟩ := s.heard_w q seq
  rw [h]
  exact ⟨rfl, rfl, rfl, rfl⟩

end Way

section Verdicts
variable {s : State} {type : Nat} {q : Parcel}

theorem State.verdict_of_portOpen (hs : s.portOpen) : s.verdict type q =
    if parcelOk type q = false then .refuse stBadParcel
    else if s.sec.claimed = false ∧ anyWhileUnclaimed type = false then .refuse stPrivilege
    else if parcelTagged q ∧ s.sec.claimed then s.admitTagged type q
    else admitUntagged type s.sec.claimed q := by
  obtain ⟨hready, -, -, -, htrain, hheld, hrec⟩ := hs
  simp [State.verdict, hready, htrain, hheld, hrec]

theorem State.verdict_malformed (hs : s.portOpen) (hq : parcelOk type q = false) : s.verdict type q = .refuse stBadParcel := by
  rw [State.verdict_of_portOpen hs, if_pos hq]

theorem anyWhileUnclaimed_eq_false (h1 : type ≠ 0x01) (h2 : type ≠ 0x02) (h3 : type ≠ 0x03) (h4 : type ≠ 0x72) : anyWhileUnclaimed type = false := by
  simp [anyWhileUnclaimed, h1, h2, h3, h4]

theorem State.verdict_unclaimed (hs : s.portOpen) (hq : parcelOk type q = true) (hc : s.sec.claimed = false) (ht : anyWhileUnclaimed type = false) :
    s.verdict type q = .refuse stPrivilege := by
  simp [State.verdict_of_portOpen hs, hq, hc, ht]

theorem State.verdict_tagged (hs : s.portOpen) (hq : parcelOk type q = true) (hc : s.sec.claimed = true) (ht : parcelTagged q = true) :
    s.verdict type q = s.admitTagged type q := by
  simp [State.verdict_of_portOpen hs, hq, hc, ht]

theorem State.admitTagged_owner (hp : q.privilege = 1) : s.admitTagged type q =
    if tagOk s.sec.bootId type q s.sec.ownerKey = false then .refuse stAuth
    else if (s.w.part q.partition.toNat).seqOwner.any (fun n => decide (q.seq.toNat ≤ n)) then .refuse stReplay else .allow none true := by
  have hp1 : q.privilege.toNat = 1 := by rw [hp]; rfl
  have hp0 : q.privilege ≠ 0 := by rw [hp]; decide
  simp only [State.admitTagged, Part.lastSeq, hp1, hp0, if_true, if_false]

theorem State.admitTagged_job_without_key (hp : q.privilege = 2) (hk : (s.w.part q.partition.toNat).jobKey = none) :
    s.admitTagged type q = .refuse stPrivilege := by
  have hp1 : q.privilege.toNat ≠ 1 := by rw [hp]; decide
  have hp0 : q.privilege ≠ 0 := by rw [hp]; decide
  simp only [State.admitTagged, hp1, hp0, if_false, hk]

theorem State.verdict_not_ready (hheld : s.sec.mgcHeld = false) (hr : s.sec.recovery = true ∨ s.w.uzo.training = true) (h1 : type ≠ 0x01)
    (h60 : type ≠ 0x60) (h61 : type ≠ 0x61) (h62 : type ≠ 0x62) : s.verdict type q = .refuse stNotReady := by
  cases hrec : s.sec.recovery with
  | true => simp [State.verdict, hheld, hrec, h1, h60, h61, h62]
  | false =>
    have htrain : s.w.uzo.training = true := by simpa [hrec] using hr
    simp [State.verdict, hheld, hrec, htrain, h1]

theorem State.verdict_held (hheld : s.sec.mgcHeld = true) (h1 : type ≠ 0x01) : s.verdict type q = .silent := by
  simp [State.verdict, hheld, h1]

/-- What the answer to a refused request leaves. -/
theorem State.fromLink_refused {st : Nat} (h : Handler) (hs : s.linkLive = true) (hv : s.verdict type q = .refuse st) (ht : type ≠ 0x40) :
    ∃ c, s.fromLink type h q = { s with w := { s.w with out := s.w.out ++ [reply type q st 0 []], counters := c } }
      ∧ (st = stAuth → AMap.get 0 c (Block.uzo.addr 0 0x090) = AMap.get 0 s.w.counters (Block.uzo.addr 0 0x090) + 1)
      ∧ (st = stReplay → AMap.get 0 c (Block.uzo.addr 0 0x098) = AMap.get 0 s.w.counters (Block.uzo.addr 0 0x098) + 1) := by
  have hcount : ∀ {off}, off < 0x1000 → off ≠ 0x080 → off ≠ 0x088 → off ≠ 0x0B0 →
      AMap.get 0 (((s.w.tick .uzo 0 0x080).tick .uzo 0 off).sendParcel (reply type q st 0 [])).counters (Block.uzo.addr 0 off)
        = AMap.get 0 s.w.counters (Block.uzo.addr 0 off) + 1 := by
    intro off hoff h80 h88 hb0
    rw [World.counter_sendParcel _ _ (Block.addr_ne hoff (by decide) h88) (Block.addr_ne hoff (by decide) hb0)]
    refine (World.counter_tick_self _ _ _ _).trans ?_
    rw [World.counter_tick_ne _ (by decide) hoff h80]
    rfl
  rw [State.fromLink_refuse h hs hv ht]
  obtain ⟨c, hc⟩ := State.countRefusal_eq (s.w.tick .uzo 0 0x080) st
  obtain ⟨c', hc'⟩ := ((s.w.tick .uzo 0 0x080).countRefusal st).sendParcel_eq (reply type q st 0 [])
  refine ⟨c', ?_, fun e => ?_, fun e => ?_⟩
  · rw [hc', hc]; rfl
  · subst e
    have := congrArg World.counters hc'
    rw [← show _ = c' from this]
    exact hcount (by decide) (by decide) (by decide) (by decide)
  · subst e
    have := congrArg World.counters hc'
    rw [← show _ = c' from this]
    exact hcount (by decide) (by decide) (by decide) (by decide)

end Verdicts

/-- Settles O8: each refusal is the verdict on the request. -/
theorem requestsAreRefusedByRule : Obligations.RequestsAreRefusedByRule := by
  refine ⟨fun s c type q hc ht hs => ?_, fun s c type q hc h1 h40 => ?_, fun s type q hs hq hclaimed htag hp hok hseq => ?_⟩
  · intro answers x
    obtain ⟨h, he⟩ := exec_eq_fromLink (s := s) hc
    have hlive := State.linkLive_of_portOpen hs
    have hanswer : ∀ {st}, s.verdict type q = .refuse st → answers none st := fun hv => by
      obtain ⟨c, hf, -⟩ := State.fromLink_refused h hlive hv ht
      exact ⟨_, he, by rw [hf]; exact ⟨rfl, rfl, rfl, rfl⟩, by rw [hf], fun a ha => by cases ha⟩
    refine ⟨fun hq => hanswer (State.verdict_malformed hs hq),
      fun hq hcl h1 h2 h3 h72 => hanswer (State.verdict_unclaimed hs hq hcl (anyWhileUnclaimed_eq_false h1 h2 h3 h72)),
      fun hq hcl htag hp => ⟨fun htok => ?_, fun htok n hn hle => ?_⟩,
      fun hq hcl htag hp hk => hanswer ((State.verdict_tagged hs hq hcl htag).trans (State.admitTagged_job_without_key hp hk))⟩
    · have hv : s.verdict type q = .refuse stAuth := by
        rw [State.verdict_tagged hs hq hcl htag, State.admitTagged_owner hp, if_pos htok]
      obtain ⟨c, hf, hcount, -⟩ := State.fromLink_refused h hlive hv ht
      refine ⟨_, he, by rw [hf]; exact ⟨rfl, rfl, rfl, rfl⟩, by rw [hf], fun a ha => ?_⟩
      obtain rfl : 0x090 = a := Option.some.inj ha
      rw [hf]
      exact hcount rfl
    · have hany : (s.w.part q.partition.toNat).seqOwner.any (fun n => decide (q.seq.toNat ≤ n)) = true := by
        rw [show (s.w.part q.partition.toNat).seqOwner = some n from hn]
        exact decide_eq_true hle
      have hv : s.verdict type q = .refuse stReplay := by
        rw [State.verdict_tagged hs hq hcl htag, State.admitTagged_owner hp, if_neg (by simp [htok]), if_pos hany]
      obtain ⟨c, hf, -, hcount⟩ := State.fromLink_refused h hlive hv ht
      refine ⟨_, he, by rw [hf]; exact ⟨rfl, rfl, rfl, rfl⟩, by rw [hf], fun a ha => ?_⟩
      obtain rfl : 0x098 = a := Option.some.inj ha
      rw [hf]
      exact hcount rfl
  · obtain ⟨h, he⟩ := exec_eq_fromLink (s := s) hc
    refine ⟨fun hlive hheld hr h60 h61 h62 => ?_, fun hlive hheld => ?_, fun hlight => ?_⟩
    · obtain ⟨c, hf, -⟩ := State.fromLink_refused h hlive (State.verdict_not_ready hheld hr h1 h60 h61 h62) h40
      exact ⟨_, he, by rw [hf]; exact ⟨rfl, rfl, rfl, rfl⟩, by rw [hf]⟩
    · rw [State.fromLink_silent h hlive (State.verdict_held hheld h1)] at he
      exact ⟨_, he, rfl, ⟨rfl, rfl, rfl, rfl⟩⟩
    · have hlive : s.linkLive = false := by simp [State.linkLive, hlight]
      rw [he, State.fromLink, hlive]
      rfl
  · have hany : (s.w.part q.partition.toNat).seqOwner.any (fun n => decide (q.seq.toNat ≤ n)) = false := by
      rw [← Bool.not_eq_true, Option.any_eq_true]
      rintro ⟨n, hn, hle⟩
      have := hseq n hn
      simp only [decide_eq_true_eq] at hle
      omega
    refine ⟨by simp [State.verdict_tagged hs hq hclaimed htag, State.admitTagged_owner hp, hok, hany], ?_⟩
    have hs' : (s.heard q true).portOpen := hs
    have hp1 : q.privilege.toNat = 1 := by rw [hp]; rfl
    have hlast : ((s.heard q true).w.part q.partition.toNat).seqOwner = some q.seq.toNat := by
      show (AMap.get {} (AMap.upd {} s.w.parts q.partition.toNat (Part.accept q)) q.partition.toNat).seqOwner = _
      rw [AMap.get_upd_self]
      simp [Part.accept, hp1]
    have hok' : tagOk (s.heard q true).sec.bootId type q (s.heard q true).sec.ownerKey = true := hok
    rw [State.verdict_tagged hs' hq hclaimed htag, State.admitTagged_owner hp, hlast, hok']
    simp

/-- Settles O9: STATUS and CAP_QUERY reach their handlers, whose answers are one parcel. -/
theorem statusAndCapabilityAreAnswered : Obligations.StatusAndCapabilityAreAnswered := by
  intro s q job seq
  refine ⟨fun hh => ?_, fun hh hlen => ?_⟩
  · refine ⟨_, congrArg Host.Outcome.next (State.fromLink_hears doStatus hh), ?_⟩
    have hw := s.heard_memories q seq
    unfold doStatus
    rw [State.respondWith_link _ _ _ (by simp), s.heard_uzoStatus, s.heard_powerState]
    exact ⟨⟨rfl, rfl, rfl, rfl⟩, hw, congrArg (· ++ _) (s.heard_out q seq)⟩
  · refine ⟨_, congrArg Host.Outcome.next (State.fromLink_hears doCapQuery hh), ?_⟩
    have hw := s.heard_memories q seq
    obtain ⟨o, j, hp⟩ := s.heard_part (q := q) (seq := seq) q.partition.toNat
    unfold doCapQuery
    rw [hp, State.respondWith_link _ _ _ hlen]
    exact ⟨⟨rfl, rfl, rfl, rfl⟩, hw, congrArg (· ++ _) (s.heard_out q seq)⟩

end Sys2Proof.Machine

namespace Sys2Proof.Machine

/-! ### What folds, HBM stores and answers leave of the world -/

/-- What each step of a fold keeps, the fold keeps. -/
theorem foldl_keeps {α β γ : Type} (g : β → γ) {f : β → α → β} (h : ∀ b a, g (f b a) = g b) (xs : List α) (b : β) : g (xs.foldl f b) = g b :=
  List.foldlRecOn xs f (motive := fun v => g v = g b) rfl fun v hv x _ => (h v x).trans hv

section Stores
variable (w : World) (t : Sid)

/-- Bytes stored in HBM change nothing but HBM. -/
theorem World.hbmStore_eq (p : Nat) : ∀ (bs : List Byte) (a : Nat) (w : World), ∃ m, w.hbmStore p a bs = { w with hbm := m }
  | [], _, w => ⟨w.hbm, rfl⟩
  | _ :: bs, a, w => by
    obtain ⟨m, h⟩ := World.hbmStore_eq p bs (a + 1) { w with hbm := w.hbm.setByte (hbmKey (w.part p).good a) _ }
    exact ⟨m, h⟩

@[simp] theorem World.hbmStore_parts (p a : Nat) (bs : List Byte) : (w.hbmStore p a bs).parts = w.parts := by
  obtain ⟨m, h⟩ := World.hbmStore_eq p bs a w; rw [h]

@[simp] theorem World.hbmStore_out (p a : Nat) (bs : List Byte) : (w.hbmStore p a bs).out = w.out := by
  obtain ⟨m, h⟩ := World.hbmStore_eq p bs a w; rw [h]

theorem World.part_updPart (p q : Nat) (f : Part → Part) : (w.updPart p f).part q = if q = p then f (w.part p) else w.part q := by
  split
  next h => subst h; exact AMap.get_upd_self _ _ _ _
  next h => exact AMap.get_upd_ne _ _ _ h

@[simp] theorem World.part_updPart_self (p : Nat) (f : Part → Part) : (w.updPart p f).part p = f (w.part p) := by rw [w.part_updPart, if_pos rfl]

@[simp] theorem World.part_updUzo (p : Nat) (f : Uzo → Uzo) : (w.updUzo f).part p = w.part p := rfl
@[simp] theorem World.updUzo_out (f : Uzo → Uzo) : (w.updUzo f).out = w.out := rfl
@[simp] theorem World.updUzo_uzo (f : Uzo → Uzo) : (w.updUzo f).uzo = f w.uzo := rfl

theorem World.part_of_parts {w v : World} (h : v.parts = w.parts) (p : Nat) : v.part p = w.part p := by rw [World.part, h, World.part]

@[simp] theorem World.sendParcel_part (o : Output) (p : Nat) : (w.sendParcel o).part p = w.part p := rfl
@[simp] theorem World.sendParcel_parts (o : Output) : (w.sendParcel o).parts = w.parts := rfl
@[simp] theorem World.sendParcel_uzo (o : Output) : (w.sendParcel o).uzo = w.uzo := rfl
@[simp] theorem World.sendParcel_cask (o : Output) : (w.sendParcel o).cask = w.cask := rfl
@[simp] theorem World.sendParcel_eth (o : Output) : (w.sendParcel o).eth = w.eth := rfl
@[simp] theorem World.sendParcel_regs (o : Output) : (w.sendParcel o).regs = w.regs := rfl
@[simp] theorem World.sendParcel_hbm (o : Output) : (w.sendParcel o).hbm = w.hbm := rfl
@[simp] theorem World.sendParcel_tun (o : Output) : (w.sendParcel o).tun = w.tun := rfl
@[simp] theorem World.sendParcel_cstore (o : Output) : (w.sendParcel o).cstore = w.cstore := rfl
@[simp] theorem World.sendParcel_cellar (o : Output) : (w.sendParcel o).cellar = w.cellar := rfl
@[simp] theorem World.sendParcel_out (o : Output) : (w.sendParcel o).out = w.out ++ [o] := rfl

theorem World.sendParcel_memories (o : Output) : w.memoriesKept (w.sendParcel o) := ⟨rfl, rfl, rfl, rfl⟩

theorem World.updPart_memories (p : Nat) (f : Part → Part) : w.memoriesKept (w.updPart p f) := ⟨rfl, rfl, rfl, rfl⟩

/-- What noting leaves of a partition: all but the trace records that wait. -/
theorem World.notedFrom.part_keeps {a b : World} (h : a.notedFrom b) {γ : Type} (g : Part → γ) (hg : ∀ x l, g { x with traceIn := l } = g x)
    (p : Nat) : g (a.part p) = g (b.part p) := by
  obtain ⟨l, hl⟩ := h.2 p
  rw [hl, hg]

theorem World.notedFrom.job {a b : World} (h : a.notedFrom b) (p : Nat) : (a.part p).job = (b.part p).job := h.part_keeps Part.job (fun _ _ => rfl) p

end Stores

/-- The next state of a command whose request is heard is what its handler makes of the state that has heard it. -/
theorem next_of_hears {s : State} {type : Nat} {q : Parcel} {job : Option Nat} {seq : Bool} {P : State → Prop} (h : Handler)
    (hh : s.hears type q job seq) (hp : P (h job none q (s.heard q seq))) :
    ∃ t, (.next (s.fromLink type h q) : Host.Outcome State Fault Refusal) = .next t ∧ P t :=
  ⟨_, congrArg Host.Outcome.next (State.fromLink_hears h hh), hp⟩

end Sys2Proof.Machine

namespace Sys2Proof.Machine

/-! ### Load sessions and the load of a bundle (R38 to R41, R550, R551) -/

section Loading
variable (w : World) (t : Sid) (p : Nat)

/-- What a load is checked against depends on the partition's setup, the configuration and the position only. -/
theorem World.loadEnv_congr {w v : World} {p : Nat} (hr : (v.part p).record = (w.part p).record) (hd : (v.part p).dies = (w.part p).dies)
    (hg : (v.part p).good = (w.part p).good) (hc : (v.part p).cellarGib = (w.part p).cellarGib) (hconf : v.config = w.config)
    (hfab : v.fab = w.fab) : v.loadEnv p = w.loadEnv p := by
  simp only [World.loadEnv, World.hbmCapacity, hr, hd, hg, hc, hconf, hfab]

theorem World.zeroLocal_parts (x : Bundle) : (w.zeroLocal p x).parts = w.parts :=
  (foldl_keeps World.parts (by exact fun _ _ => rfl) _ _).trans (foldl_keeps World.parts (by exact fun _ _ => rfl) _ _)

theorem World.zeroLocal_out (x : Bundle) : (w.zeroLocal p x).out = w.out :=
  (foldl_keeps World.out (by exact fun _ _ => rfl) _ _).trans (foldl_keeps World.out (by exact fun _ _ => rfl) _ _)

theorem World.writeDirectory_parts (base : Nat) : (w.writeDirectory p base).parts = w.parts :=
  foldl_keeps World.parts (fun _ _ => World.hbmStore_parts _ _ _ _) _ _

theorem World.writeDirectory_out (base : Nat) : (w.writeDirectory p base).out = w.out :=
  foldl_keeps World.out (fun _ _ => World.hbmStore_out _ _ _ _) _ _

theorem World.resetUnits_out (x : Bundle) : (w.resetUnits p x).out = w.out := rfl

theorem World.writePrograms_out (x : Bundle) (cs : List Nat) : (cs.foldl (fun w c => w.writeProgram x c) w).out = w.out :=
  foldl_keeps World.out (fun v c => by simp only [World.writeProgram, World.tunWrite_out]) cs w

theorem World.setRegs_keeps {γ : Type} (g : World → γ) (h : ∀ (v : World) (r : List (Nat × Word)), g { v with regs := r } = g v)
    (a : Nat → Nat) (x : Word) (ks : List Nat) : g (ks.foldl (fun w k => w.setReg (a k) x) w) = g w :=
  foldl_keeps g (fun v _ => h v _) ks w

theorem World.install_out (x : Bundle) : (w.install p x).out = w.out := by
  unfold World.install
  extract_lets env area base w1 w2 w3 w4 w5
  have h2 : w2.out = w1.out := (World.resetUnits_out _ p x).trans (w1.zeroLocal_out p {})
  have h3 : w3.out = w2.out := w2.writePrograms_out x _
  have h5 : w5.out = w4.out := w4.writeDirectory_out p base
  exact (w5.setRegs_keeps World.out (fun _ _ => rfl) _ _ _).trans (h5.trans ((w3.updPart_out _ _).trans (h3.trans (h2.trans rfl))))

/-- After a load the partition is loaded with the bundle, and no session is open. -/
theorem World.install_part (x : Bundle) :
    ((w.install p x).part p).job = .loaded ∧ ((w.install p x).part p).bundle = some x ∧ ((w.install p x).part p).session = none := by
  unfold World.install
  extract_lets env area base w1 w2 w3 w4 w5
  have h5 : w5.parts = w4.parts := w4.writeDirectory_parts p base
  have hpart : ∀ v : World, v.parts = w4.parts → v.part p = w4.part p := fun v hv => World.part_of_parts hv p
  rw [hpart _ ((w5.setRegs_keeps World.parts (fun _ _ => rfl) _ _ _).trans h5)]
  simp [w4]

end Loading

/-- What BUNDLE_REJECT leaves: jobs, sessions, memories and what has left the module; the event is the last of the queue. -/
theorem World.raiseReject_kept (w : World) (t : Sid) (r : Nat × Nat × Nat) (hf : w.forwards 2) :
    (∀ p, ((w.raiseReject t r).part p).job = (w.part p).job) ∧ (∀ p, ((w.raiseReject t r).part p).session = (w.part p).session)
      ∧ w.memoriesKept (w.raiseReject t r) ∧ w.raised (w.raiseReject t r) (ioSource 7) 0x101 (r.1 + r.2.2 % 2 ^ 16 * 2 ^ 8)
      ∧ (w.raiseReject t r).out = w.out := by
  have h : (w.raiseReject t r).notedFrom w := w.raiseAs_noted t _ _ _ _ _
  exact ⟨h.job, h.part_keeps Part.session fun _ _ => rfl, h.memories, World.raiseAs_raised _ t hf (by decide) (by decide), h.out⟩

/-- A request that is heard leaves what a load of its partition is checked against. -/
theorem State.heard_loadEnv (s : State) (q : Parcel) (seq : Bool) (f : Part → Part) (p : Nat)
    (hf : ∀ x, (f x).record = x.record ∧ (f x).dies = x.dies ∧ (f x).good = x.good ∧ (f x).cellarGib = x.cellarGib) :
    ((s.heard q seq).w.updPart p f).loadEnv p = s.w.loadEnv p := by
  obtain ⟨o, j, hp⟩ := s.heard_part (q := q) (seq := seq) p
  obtain ⟨c, ps, hw⟩ := s.heard_w q seq
  obtain ⟨hr, hd, hg, hc⟩ := hf ((s.heard q seq).w.part p)
  refine World.loadEnv_congr ?_ ?_ ?_ ?_ (by rw [World.updPart_config, hw]) (by rw [World.updPart_fab, hw])
  · rw [World.part_updPart_self, hr, hp]
  · rw [World.part_updPart_self, hd, hp]
  · rw [World.part_updPart_self, hg, hp]
  · rw [World.part_updPart_self, hc, hp]

/-- The partition without its load session: what LOAD_END makes of it first. -/
def Part.closeSession (x : Part) : Part := { x with session := none }

section LoadEnd
variable {s : State} {q : Parcel} {seq : Bool} {x : LoadSession}

/-- What LOAD_END loads, with the session closed. -/
def State.loadWorld (s : State) (q : Parcel) (seq : Bool) : World := (s.heard q seq).w.updPart q.partition.toNat Part.closeSession

/-- The same, with a PARTITION that is none put back to 0 (R45). -/
def State.rejectedWorld (s : State) (q : Parcel) (seq : Bool) : World :=
  let w := s.loadWorld q seq
  { w with config := { w.config with partition := if 7 < w.config.partition then 0 else w.config.partition } }

theorem State.loadWorld_part : ((s.loadWorld q seq).part q.partition.toNat).job = (s.w.part q.partition.toNat).job
    ∧ ((s.loadWorld q seq).part q.partition.toNat).session = none := by
  obtain ⟨o, j, hp⟩ := s.heard_part (q := q) (seq := seq) q.partition.toNat
  rw [State.loadWorld, World.part_updPart_self, hp]
  exact ⟨rfl, rfl⟩

theorem State.loadWorld_forwards {sev : Nat} (hf : s.w.forwards sev) : (s.loadWorld q seq).forwards sev := by
  obtain ⟨c, ps, hw⟩ := s.heard_w q seq
  exact hf.of_same (World.reg_of_regs (by rw [State.loadWorld, World.updPart_regs, hw]) _) ((World.updPart_uzo _ _ _).trans (s.heard_uzo q seq))

theorem State.loadRefusal_loadWorld (hconf : s.w.config.partition ≤ 7) (hjob : (s.w.part q.partition.toNat).job = .empty) (b : List Byte) :
    (s.loadWorld q seq).loadRefusal q.partition.toNat b
      = (bundleRefusal (s.w.loadEnv q.partition.toNat) false b).map fun r => (r.1, r.2, refusedRecordOffset b r) := by
  have henv : (s.loadWorld q seq).loadEnv q.partition.toNat = s.w.loadEnv q.partition.toNat :=
    s.heard_loadEnv q seq Part.closeSession _ fun _ => ⟨rfl, rfl, rfl, rfl⟩
  have hj := (State.loadWorld_part (s := s) (q := q) (seq := seq)).1.trans hjob
  have hc : ¬ 7 < (s.loadWorld q seq).config.partition := by
    obtain ⟨c, ps, hw⟩ := s.heard_w q seq
    rw [State.loadWorld, World.updPart_config, hw]
    exact Nat.not_lt.mpr hconf
  rw [World.loadRefusal, if_neg hc, henv, hj]
  rfl

theorem State.doLoadEnd_eq (hx : (s.w.part q.partition.toNat).session = some x) (hlate : x.late = false) (job : Option Nat) :
    doLoadEnd job none q (s.heard q seq) =
      match (s.loadWorld q seq).loadBundle s.sid q.partition.toNat x.bytes with
      | (some r, w) => { s.heard q seq with w := w.sendParcel (reply 0x12 q stReject r.1 (leBytes 8 r.2.1 ++ leBytes 2 r.2.2 ++ List.replicate 6 0)) }
      | (none, w) => { s.heard q seq with w := w.sendParcel (reply 0x12 q stOk 0 (List.replicate 16 0)) } := by
  obtain ⟨o, j, hp⟩ := s.heard_part (q := q) (seq := seq) q.partition.toNat
  have hsess : ((s.heard q seq).w.part q.partition.toNat).session = some x := by rw [hp]; exact hx
  simp only [doLoadEnd, hsess, hlate, Bool.false_eq_true, if_false]
  rw [show (s.heard q seq).w.updPart q.partition.toNat (fun y => { y with session := none }) = s.loadWorld q seq from rfl,
    show (s.heard q seq).sid = s.sid from rfl]
  generalize (s.loadWorld q seq).loadBundle s.sid q.partition.toNat x.bytes = b
  obtain ⟨_ | r, w⟩ := b
  · dsimp only
    rw [World.answer_link _ _ _ _ _ _ (by simp)]
    rfl
  · dsimp only
    rw [World.answer_link _ _ _ _ _ _ (by simp)]

/-- LOAD_END of a bundle that passes loads it. -/
theorem State.doLoadEnd_loads (hconf : s.w.config.partition ≤ 7) (hjob : (s.w.part q.partition.toNat).job = .empty)
    (hx : (s.w.part q.partition.toNat).session = some x) (hlate : x.late = false) (job : Option Nat)
    (hr : bundleRefusal (s.w.loadEnv q.partition.toNat) false x.bytes = none) :
    doLoadEnd job none q (s.heard q seq) = { s.heard q seq with
      w := (((s.loadWorld q seq).install q.partition.toNat (bundleOf (x.bytes.take (leAt x.bytes 0x10 8)))).thawTails
        ((s.loadWorld q seq).partSources q.partition.toNat)).sendParcel (reply 0x12 q stOk 0 (List.replicate 16 0)) } := by
  rw [State.doLoadEnd_eq hx hlate, World.loadBundle, State.loadRefusal_loadWorld hconf hjob, hr]
  rfl

/-- LOAD_END of a bundle that is refused rejects it. -/
theorem State.doLoadEnd_rejects {r : Nat × Nat} (hconf : s.w.config.partition ≤ 7) (hjob : (s.w.part q.partition.toNat).job = .empty)
    (hx : (s.w.part q.partition.toNat).session = some x) (hlate : x.late = false) (job : Option Nat)
    (hr : bundleRefusal (s.w.loadEnv q.partition.toNat) false x.bytes = some r) :
    doLoadEnd job none q (s.heard q seq) = { s.heard q seq with
      w := ((s.rejectedWorld q seq).raiseReject s.sid (r.1, r.2, refusedRecordOffset x.bytes r)).sendParcel
        (reply 0x12 q stReject r.1 (leBytes 8 r.2 ++ leBytes 2 (refusedRecordOffset x.bytes r) ++ List.replicate 6 0)) } := by
  rw [State.doLoadEnd_eq hx hlate, World.loadBundle, State.loadRefusal_loadWorld hconf hjob, hr]
  rfl

theorem State.loadWorld_out : (s.loadWorld q seq).out = s.w.out := (World.updPart_out _ _ _).trans (s.heard_out q seq)

theorem State.loadWorld_uzo : (s.loadWorld q seq).uzo = s.w.uzo := (World.updPart_uzo _ _ _).trans (s.heard_uzo q seq)

theorem State.loadWorld_memories : s.w.memoriesKept (s.loadWorld q seq) := (s.heard_memories q seq).trans (World.updPart_memories _ _ _)

/-- What a load that is refused rests on: the heard request, without the session. -/
theorem State.rejectedWorld_kept : ((s.rejectedWorld q seq).part q.partition.toNat).job = (s.w.part q.partition.toNat).job
    ∧ ((s.rejectedWorld q seq).part q.partition.toNat).session = none ∧ s.w.memoriesKept (s.rejectedWorld q seq)
    ∧ (s.rejectedWorld q seq).uzo = s.w.uzo ∧ (s.rejectedWorld q seq).out = s.w.out ∧ (s.w.forwards 2 → (s.rejectedWorld q seq).forwards 2) :=
  ⟨State.loadWorld_part.1, State.loadWorld_part.2, State.loadWorld_memories, State.loadWorld_uzo, State.loadWorld_out, State.loadWorld_forwards⟩

end LoadEnd

theorem execLoadTimeout_eq {s : State} {p : PartId} {x : LoadSession} (hs : s.inService = true) (hx : (s.w.part p.val).session = some x)
    (hlate : x.late = false) : exec (.loadTimeout p) s =
      .next (s.onWorld fun w => (w.updPart p.val fun y => { y with session := some { x with late := true, bytes := [] } }).raiseReject s.sid (4, 0, 0)) := by
  simp only [exec, execLoadTimeout, State.serve_of_inService hs, State.onWorld, hx, hlate, Bool.false_eq_true, if_false]

/-- Settles O10: the handlers' branches, with the load checks against the partition's setup as it was before the request. -/
theorem loadSessionsLoadOrReject : Obligations.LoadSessionsLoadOrReject := by
  refine ⟨fun s q job seq => ?_, fun s q job seq x hh hx hlate hpart hjob => ?_, fun s p x hs hx hlate hf => ?_⟩
  · dsimp only
    obtain ⟨o, j, hp⟩ := s.heard_part (q := q) (seq := seq) q.partition.toNat
    have hw := s.heard_memories q seq
    have hout := s.heard_out q seq
    refine ⟨fun hh => ⟨fun hjob hsess => ?_, fun hjob => ?_⟩, fun hh x hx hlate => ⟨fun hoff hlen => ?_, fun hoff => ?_⟩⟩
    · refine next_of_hears doLoadBegin hh ?_
      have hjob' : ((s.heard q seq).w.part q.partition.toNat).job = .empty := by rw [hp]; exact hjob
      have hsess' : ((s.heard q seq).w.part q.partition.toNat).session = none := by rw [hp]; exact hsess
      simp only [doLoadBegin]
      rw [if_neg (not_not_intro hjob'), hsess', if_neg (by simp), State.respond_link]
      refine ⟨⟨rfl, rfl, rfl, rfl⟩, hw, ?_, ?_, congrArg (· ++ _) hout⟩
      · simp only [World.sendParcel_part, State.onWorld_w, World.part_updPart_self]
      · simp only [World.sendParcel_part, State.onWorld_w, World.part_updPart_self, hjob']
    · refine next_of_hears doLoadBegin hh ?_
      have hjob' : ((s.heard q seq).w.part q.partition.toNat).job ≠ .empty := by rw [hp]; exact hjob
      simp only [doLoadBegin]
      rw [if_pos hjob', World.answer_link _ _ _ _ _ _ (by simp)]
      exact ⟨by rw [World.sendParcel_part, hp], congrArg (· ++ _) hout⟩
    · refine next_of_hears doLoadData hh ?_
      have hx' : ((s.heard q seq).w.part q.partition.toNat).session = some x := by rw [hp]; exact hx
      have hlen' : ¬ (leAt q.payload 0 8 ≠ x.bytes.length ∨ x.total < x.bytes.length + (q.payload.drop 8).length) := by
        rw [List.length_drop]
        omega
      simp only [doLoadData, hx', hlate, if_neg hlen',
        Bool.false_eq_true, if_false, State.respond_link]
      exact ⟨⟨rfl, rfl, rfl, rfl⟩, hw, by simp only [World.sendParcel_part, State.onWorld_w, World.part_updPart_self], congrArg (· ++ _) hout⟩
    · refine next_of_hears doLoadData hh ?_
      have hx' : ((s.heard q seq).w.part q.partition.toNat).session = some x := by rw [hp]; exact hx
      simp only [doLoadData, hx', hlate, if_pos (Or.inl hoff),
        Bool.false_eq_true, if_false, State.respond_link]
      exact ⟨by simp only [World.sendParcel_part, State.onWorld_w, World.part_updPart_self], congrArg (· ++ _) hout⟩
  · dsimp only
    refine ⟨fun hr => next_of_hears doLoadEnd hh ?_, fun r hr hf => next_of_hears doLoadEnd hh ?_⟩
    · rw [State.doLoadEnd_loads hpart hjob hx hlate job hr]
      obtain ⟨hj, hb, hsess⟩ := (s.loadWorld q seq).install_part q.partition.toNat (bundleOf (x.bytes.take (leAt x.bytes 0x10 8)))
      have ho := (s.loadWorld q seq).install_out q.partition.toNat (bundleOf (x.bytes.take (leAt x.bytes 0x10 8)))
      generalize (s.loadWorld q seq).install q.partition.toNat (bundleOf (x.bytes.take (leAt x.bytes 0x10 8))) = v at *
      exact ⟨⟨rfl, rfl, rfl, rfl⟩, hj, hb, hsess, congrArg (· ++ _) (ho.trans State.loadWorld_out)⟩
    · rw [State.doLoadEnd_rejects hpart hjob hx hlate job hr]
      obtain ⟨kj, ks, km, ku, ko, kf⟩ := State.rejectedWorld_kept (s := s) (q := q) (seq := seq)
      generalize s.rejectedWorld q seq = v at *
      obtain ⟨hj, hsess, hmem, hraised, ho⟩ := v.raiseReject_kept s.sid (r.1, r.2, refusedRecordOffset x.bytes r) (kf hf)
      exact ⟨⟨rfl, rfl, rfl, rfl⟩, (hj _).trans (kj.trans hjob), (hsess _).trans ks, km.trans hmem, hraised.of_same ku,
        congrArg (· ++ _) (ho.trans ko)⟩
  · obtain ⟨hj, hsess, hmem, hraised, ho⟩ :=
      (s.w.updPart p.val fun y => { y with session := some { x with late := true, bytes := [] } }).raiseReject_kept s.sid (4, 0, 0) hf
    refine ⟨_, execLoadTimeout_eq hs hx hlate, ⟨rfl, rfl, rfl, rfl⟩, (hsess _).trans ?_, hraised, hmem⟩
    rw [World.part_updPart_self]

end Sys2Proof.Machine

namespace Sys2Proof.Machine

/-! ### The job states of a partition (R30, R221, R489, R551) -/

section Stopping
variable (w : World) (t : Sid) (p : Nat)

theorem World.emptyUnits_parts : (w.emptyUnits p).parts = w.parts :=
  (foldl_keeps World.parts (fun v k => v.updCluster_parts k _) _ _).trans (foldl_keeps World.parts (fun v c => v.updCore_parts c _) _ _)

theorem World.emptyUnits_uzo : (w.emptyUnits p).uzo = w.uzo := (w.emptyUnits_stopKept p).uzo

/-- The partition of a job that stops. -/
def Part.stopped (x : Part) : Part :=
  { x with job := .stopped, running := false, inBarrier := false, stopAtBoundary := false, due := none
           dump := if x.dump.state = 1 then { x.dump with state := 0, result := 8 } else x.dump }

/-- The end of a stop, once the units hold no work. -/
theorem World.stopRun_ends {keep : Bool} (hjob : (w.part p).job = .running) : ∃ v : World, w.memoriesKept v ∧ v.uzo = w.uzo ∧ v.parts = w.parts
    ∧ ∃ o c, w.stopRun p keep = { v.updPart p Part.stopped with out := v.out ++ o, cask := c } := by
  unfold World.stopRun
  rw [if_neg (not_not_intro hjob)]
  extract_lets v1 v2 v3
  have h1 : w.memoriesKept v1 ∧ v1.uzo = w.uzo ∧ v1.parts = w.parts :=
    ⟨World.memoriesKept.foldl (f := fun w c => w.updCore c (Core.halted keep)) (fun _ _ => ⟨rfl, rfl, rfl, rfl⟩) _ w,
      foldl_keeps World.uzo (fun v c => v.updCore_uzo c _) _ _,
      foldl_keeps World.parts (fun v c => v.updCore_parts c _) _ _⟩
  have h2 : w.memoriesKept v2 ∧ v2.uzo = w.uzo ∧ v2.parts = w.parts := by
    simp only [v2]
    split
    · exact h1
    · exact ⟨h1.1.trans (v1.emptyUnits_stopKept p).memories, (v1.emptyUnits_uzo p).trans h1.2.1, (v1.emptyUnits_parts p).trans h1.2.2⟩
  refine ⟨v2, h2.1, h2.2.1, h2.2.2, ?_⟩
  clear_value v2
  split
  · split
    · exact ⟨_, _, rfl⟩
    · exact ⟨[], _, by rw [List.append_nil]; rfl⟩
  · exact ⟨[], v2.cask, by rw [List.append_nil]; rfl⟩

/-- An armed dump that ends leaves of a partition all but its dump and the trace records that wait. -/
theorem World.cancelDump_part_keeps {γ : Type} (g : Part → γ) (hg : ∀ x l, g { x with traceIn := l } = g x) (hd : ∀ x d, g { x with dump := d } = g x)
    (r : Nat) : g ((w.cancelDump t p).part r) = g (w.part r) := by
  unfold World.cancelDump
  split
  · refine (((World.traceTo_noted _ _ _ _ _).part_keeps g hg r).trans ((World.stamp_noted _ t _).part_keeps g hg r)).trans ?_
    rw [if_neg (by decide), World.part_updPart]
    split
    next h => rw [h]; exact hd _ _
    next => rfl
  · rfl

/-- STOP at once: the job is stopped in its step, and memories stay. -/
theorem World.stopNow_kept (hjob : (w.part p).job = .running) :
    ((w.stopNow t p).part p).job = .stopped ∧ ((w.stopNow t p).part p).step = (w.part p).step
      ∧ ((w.stopNow t p).part p).lastSwitched = (w.part p).lastSwitched ∧ w.memoriesKept (w.stopNow t p) := by
  have hc := w.cancelDump_stopKept t p
  have hstep := w.cancelDump_part_keeps t p Part.step (fun _ _ => rfl) (fun _ _ => rfl) p
  have hlast := w.cancelDump_part_keeps t p Part.lastSwitched (fun _ _ => rfl) (fun _ _ => rfl) p
  obtain ⟨v, hv, -, hparts, o, c, h⟩ := (w.cancelDump t p).stopRun_ends p (keep := false) ((hc.job p).trans hjob)
  have hpart : ((w.stopNow t p).part p) = ((w.cancelDump t p).part p).stopped := by
    rw [World.stopNow, h, ← World.part_of_parts hparts p]
    exact v.part_updPart_self p Part.stopped
  refine ⟨by rw [hpart]; rfl, by rw [hpart]; exact hstep, by rw [hpart]; exact hlast, hc.memories.trans (hv.trans ?_)⟩
  rw [World.stopNow, h]
  exact ⟨rfl, rfl, rfl, rfl⟩

/-- UNLOAD: the partition is empty, its windows are closed, and memories stay. -/
theorem World.unloadPart_kept : ((w.unloadPart p).part p).job = .empty ∧ ((w.unloadPart p).part p).bundle = none ∧ w.memoriesKept (w.unloadPart p)
    ∧ (∀ e ∈ (w.unloadPart p).uzo.windows, e.2.part ≠ p) ∧ (w.unloadPart p).out = w.out := by
  have hm : w.memoriesKept ((w.coresOf p).foldl (fun w c => w.updCore c Core.unloaded) w) := 
    World.memoriesKept.foldl (f := fun w c => w.updCore c Core.unloaded) (fun _ _ => ⟨rfl, rfl, rfl, rfl⟩) _ w
  have ho : ((w.coresOf p).foldl (fun w c => w.updCore c Core.unloaded) w).out = w.out := foldl_keeps World.out (fun v c => v.updCore_out c _) _ _
  unfold World.unloadPart
  generalize (w.coresOf p).foldl (fun w c => w.updCore c Core.unloaded) w = v at *
  refine ⟨?_, ?_, hm, fun e he => ?_, ho⟩
  · simp only [World.part_updUzo, World.part_updPart_self]
  · simp only [World.part_updUzo, World.part_updPart_self]
  · simpa using (List.mem_filter.mp he).2

end Stopping

section Restoring
variable (w : World) (t : Sid)

theorem World.zeroLocal_uzo (p : Nat) (x : Bundle) : (w.zeroLocal p x).uzo = w.uzo :=
  (foldl_keeps World.uzo (by exact fun _ _ => rfl) _ _).trans (foldl_keeps World.uzo (by exact fun _ _ => rfl) _ _)

theorem World.resetRun_uzo (p : Nat) : (w.resetRun p).uzo = w.uzo := by
  unfold World.resetRun
  extract_lets v1 v2 fab v3 v4 v5 v6
  have h1 : v1.uzo = w.uzo := foldl_keeps World.uzo (f := fun (w : World) d =>
    (w.count (Block.disp.addr d 0x0B0) (w.die d).collect.length).updDie d fun x => { x with collect := [] }) (fun _ _ => rfl) _ _
  have h2 : v2.uzo = v1.uzo := foldl_keeps World.uzo (fun v d => v.updDie_uzo d _) _ _
  have h3 : v3.uzo = v2.uzo := by
    simp only [v3]
    split <;> rfl
  have h4 : v4.uzo = v3.uzo := foldl_keeps World.uzo (fun v k => v.updCluster_uzo k _) _ _
  have h6 : v6.uzo = v5.uzo := foldl_keeps World.uzo (fun v c => v.updCore_uzo c _) _ _
  have h7 := foldl_keeps World.uzo (f := fun (w : World) k => w.updBar k fun b =>
    { b with gen := false, cur := 0, next := 0, rounds := 0, reported := false }) (fun v k => v.updBar_keeps k _ World.uzo fun _ _ => rfl) (v6.barKeys p) v6
  exact h7.trans (h6.trans (Eq.trans rfl (h4.trans (h3.trans (h2.trans h1)))))

theorem optionElim_keeps {α γ : Type} {w : World} (g : World → γ) {f : α → World} (h : ∀ x, g (f x) = g w) (o : Option α) : g (o.elim w f) = g w := by
  cases o with
  | none => rfl
  | some x => exact h x

theorem World.sendDatagram_keeps {γ : Type} (g : World → γ) (hg : ∀ (v : World) c o, g { v with counters := c, out := o } = g v) (e : EthEntry)
    (b : List Byte) : g (w.sendDatagram e b) = g w := by
  unfold World.sendDatagram
  split
  · exact hg w _ _
  · rfl

theorem World.toStore_keeps {γ : Type} (g : World → γ) (hg : ∀ (v : World) c o, g { v with counters := c, out := o } = g v) (b : List Byte) :
    g (w.toStore b) = g w := optionElim_keeps g (fun e => w.sendDatagram_keeps g hg e b) _

theorem World.askStore_keeps {γ : Type} (g : World → γ) (hg : ∀ (v : World) c o, g { v with counters := c, out := o } = g v) :
    g w.askStore = g w := by
  unfold World.askStore
  split
  · rfl
  · split
    · exact optionElim_keeps g (fun x => w.toStore_keeps g hg _) _
    · rfl

theorem World.stopRun_uzo (p : Nat) (keep : Bool) : (w.stopRun p keep).uzo = w.uzo := by
  by_cases hjob : (w.part p).job = .running
  · obtain ⟨v, -, hu, -, o, c, h⟩ := w.stopRun_ends p (keep := keep) hjob
    rw [h]
    exact hu
  · rw [World.stopRun, if_pos hjob]

/-- The table entries of a partition whose restore begins: STATE is 0 (R489). -/
def DirEntry.restoring (e : DirEntry) : DirEntry :=
  { e with current := false, version := 0, over0 := [], over1 := [], dirtySet := [], catchup := [], catchupDone := true }

theorem World.restoreZeroed_uzo (x : Bundle) : ((((w.stopRun 0 false).emptyUnits 0).zeroLocal 0 x).resetRun 0).uzo = w.uzo := by
  rw [World.resetRun_uzo, World.zeroLocal_uzo, World.emptyUnits_uzo, World.stopRun_uzo]

/-- The start of a restore from the store: the fetch, the tables' STATE, and the Uzolo port as it was. -/
theorem World.beginRestore_fromStore (step : Nat) :
    (∃ f, (w.beginRestore t true step).cask.fetching = some f ∧ f.step = step ∧ f.fromStore = true)
      ∧ (w.beginRestore t true step).uzo = w.uzo
      ∧ ∀ e ∈ ((w.beginRestore t true step).part 0).dir, e.current = false ∧ e.version = 0 := by
  unfold World.beginRestore
  extract_lets v1 v2 v3 store v4 fab v5
  have h1 : v1.uzo = w.uzo := w.restoreZeroed_uzo _
  have h2 : v2.uzo = v1.uzo := foldl_keeps World.uzo (fun v c => v.updCore_uzo c _) _ _
  have h3 : ∀ e ∈ (v3.part 0).dir, e.current = false ∧ e.version = 0 := by
    intro e he
    simp only [v3, World.part_updPart_self] at he
    obtain ⟨x, -, rfl⟩ := List.mem_map.mp he
    exact ⟨rfl, rfl⟩
  have h23 : v3.uzo = v2.uzo := v2.updPart_uzo 0 _
  clear_value v1 v2
  have h4 : v4.uzo = v3.uzo ∧ v4.parts = v3.parts ∧ v4.cask.fetching = some { step := step, fromStore := true } := by
    clear_value v3
    exact ⟨rfl, rfl, rfl⟩
  have h35 : v5.uzo = v3.uzo ∧ v5.parts = v3.parts ∧ v5.cask.fetching = some { step := step, fromStore := true } := h4
  have hstore : store = true := rfl
  rw [if_pos hstore]
  clear_value v5 v4 v3
  obtain ⟨hu, hparts, hf⟩ := h35
  refine ⟨⟨_, (v5.askStore_keeps (fun v => v.cask.fetching) fun _ _ _ => rfl).trans hf, rfl, rfl⟩,
    (v5.askStore_keeps World.uzo fun _ _ _ => rfl).trans (hu.trans (h23.trans (h2.trans h1))), ?_⟩
  rw [World.part_of_parts ((v5.askStore_keeps World.parts fun _ _ _ => rfl).trans hparts)]
  exact h3

end Restoring

/-! #### The requests -/

section Requests
variable (u : State) (q : Parcel) (job : Option Nat)

/-- A request that is answered with a status and does nothing else. -/
theorem State.respond_kept (type status : Nat) : u.restKept (u.respond none type q status) ∧ u.w.memoriesKept (u.respond none type q status).w
    ∧ (u.respond none type q status).w.parts = u.w.parts ∧ (u.respond none type q status).w.uzo = u.w.uzo
    ∧ (u.respond none type q status).w.cask = u.w.cask ∧ (u.respond none type q status).w.regs = u.w.regs
    ∧ (u.respond none type q status).w.out = u.w.out ++ [reply type q status 0 []] := by
  rw [State.respond_link]
  exact ⟨⟨rfl, rfl, rfl, rfl⟩, ⟨rfl, rfl, rfl, rfl⟩, rfl, rfl, rfl, rfl, rfl⟩

theorem doStart_of_loaded (h : (u.w.part q.partition.toNat).job = .loaded) :
    doStart job none q u = (u.startJob q.partition.toNat (BitVec.ofNat 64 (leAt q.payload 0 8))).respond none 0x14 q stOk := if_pos h

theorem doStart_of_not_loaded (h : (u.w.part q.partition.toNat).job ≠ .loaded) : doStart job none q u = u.respond none 0x14 q stState := if_neg h

theorem doStop_of_not_running (h : (u.w.part q.partition.toNat).job ≠ .running) : doStop job none q u = u.respond none 0x15 q stState := if_pos h

/-- What STOP asks for: a stop at once, or at the next boundary. -/
def World.stopAsked (w : World) (t : Sid) (q : Parcel) : World :=
  if leAt q.payload 0 1 = 0 then w.stopNow t q.partition.toNat else w.updPart q.partition.toNat fun y => { y with stopAtBoundary := true }

theorem doStop_of_running (h : (u.w.part q.partition.toNat).job = .running) : doStop job none q u =
    { u with w := (u.w.stopAsked u.sid q).sendParcel (reply 0x15 q stOk 0
        (leBytes 8 (((u.w.stopAsked u.sid q).part q.partition.toNat).lastSwitched.getD allOnes64))) } := by
  simp only [doStop]
  rw [if_neg (not_not_intro h), State.respondWith_link _ _ _ (by simp)]
  rfl

/-- RESTORE of a stopped job from the external store begins the restore. -/
theorem doRestore_fromStore (hq : q.partition = 0) (h : (u.w.part 0).job = .stopped) (hsrc : leAt q.payload 8 1 = 1)
    (hwait : u.w.uzo.restoreWait = none) (hcan : u.w.canSend = true) : doRestore job none q u =
      { u with w := (u.w.updUzo fun x => { x with restoreWait := some (none, q) }).beginRestore u.sid true (leAt q.payload 0 8) } := by
  simp only [doRestore]
  rw [if_neg (by simp [hq, h]), if_neg (by omega), if_neg (by simp [hwait, hcan]), hsrc]
  rfl

theorem doUnload_of_loaded (h : (u.w.part q.partition.toNat).job = .loaded ∨ (u.w.part q.partition.toNat).job = .stopped) :
    doUnload job none q u = (u.onWorld fun w => w.unloadPart q.partition.toNat).respond none 0x13 q stOk := if_pos h

theorem doUnload_of_not_loaded (h : ¬ ((u.w.part q.partition.toNat).job = .loaded ∨ (u.w.part q.partition.toNat).job = .stopped)) :
    doUnload job none q u = u.respond none 0x13 q stState := if_neg h

/-- START of a loaded job, whatever its start resets. -/
theorem State.startJob_part (p : Nat) (seed : Word) : (u.startJob p seed).pwr = u.pwr ∧ (u.startJob p seed).sec = u.sec
    ∧ ((u.startJob p seed).w.part p).job = .running ∧ ((u.startJob p seed).w.part p).jobSeed = seed
    ∧ ((u.startJob p seed).w.part p).due ≠ none := by
  unfold State.startJob
  extract_lets v1 v2 v3
  have h : v3.part p = _ := World.part_updPart_self _ p _
  refine ⟨rfl, rfl, ?_⟩
  show (v3.part p).job = _ ∧ (v3.part p).jobSeed = _ ∧ (v3.part p).due ≠ _
  rw [h]
  exact ⟨rfl, rfl, Option.some_ne_none _⟩

end Requests

/-- Settles O11. -/
theorem jobStatesFollowRequests : Obligations.JobStatesFollowRequests := by
  refine ⟨fun s q job seq => ?_, fun s q seq hh => ?_⟩
  · dsimp only
    obtain ⟨o, j, hp⟩ := s.heard_part (q := q) (seq := seq) q.partition.toNat
    have hjob : ((s.heard q seq).w.part q.partition.toNat).job = (s.w.part q.partition.toNat).job := by rw [hp]
    have hlast : ((s.heard q seq).w.part q.partition.toNat).lastSwitched = (s.w.part q.partition.toNat).lastSwitched := by rw [hp]
    have hstep : ((s.heard q seq).w.part q.partition.toNat).step = (s.w.part q.partition.toNat).step := by rw [hp]
    have hw := s.heard_memories q seq
    have hout := s.heard_out q seq
    refine ⟨fun hh => ⟨fun h => next_of_hears doStart hh ?_, fun h => next_of_hears doStart hh ?_⟩,
      fun hh => ⟨fun h hat => next_of_hears doStop hh ?_, fun h hat => next_of_hears doStop hh ?_, fun h => next_of_hears doStop hh ?_⟩,
      fun hh => ⟨fun h => next_of_hears doUnload hh ?_, fun h => next_of_hears doUnload hh ?_⟩⟩
    · rw [doStart_of_loaded _ _ _ (hjob.trans h), State.respond_link]
      obtain ⟨h1, h2, h3, h4, h5⟩ := (s.heard q seq).startJob_part q.partition.toNat (BitVec.ofNat 64 (leAt q.payload 0 8))
      generalize (s.heard q seq).startJob q.partition.toNat (BitVec.ofNat 64 (leAt q.payload 0 8)) = v at *
      exact ⟨h1, h2, h3, h4, h5, List.getLast?_concat⟩
    · rw [doStart_of_not_loaded _ _ _ (by rwa [hjob])]
      obtain ⟨h1, h2, h3, -, -, -, h4⟩ := (s.heard q seq).respond_kept q 0x14 stState
      exact ⟨h1, (congrArg Part.job (World.part_of_parts h3 _)).trans hjob, hw.trans h2, h4.trans (by rw [hout])⟩
    · rw [doStop_of_running _ _ _ (hjob.trans h), World.stopAsked, if_pos hat]
      obtain ⟨h1, h2, h3, h4⟩ := (s.heard q seq).w.stopNow_kept s.sid q.partition.toNat (hjob.trans h)
      rw [show (s.heard q seq).sid = s.sid from rfl]
      generalize (s.heard q seq).w.stopNow s.sid q.partition.toNat = v at *
      refine ⟨⟨rfl, rfl, rfl, rfl⟩, h1, h2.trans hstep, hw.trans h4, ?_⟩
      rw [World.sendParcel_out, List.getLast?_concat, h3, hlast]
    · have hat0 : leAt q.payload 0 1 ≠ 0 := by rw [hat]; decide
      rw [doStop_of_running _ _ _ (hjob.trans h), World.stopAsked, if_neg hat0]
      simp only [World.sendParcel_part, World.part_updPart_self, World.sendParcel_out, World.updPart_out, hlast, hout, hjob, h]
      exact ⟨⟨rfl, rfl, rfl, rfl⟩, trivial, trivial, trivial⟩
    · rw [doStop_of_not_running _ _ _ (by rwa [hjob])]
      obtain ⟨h1, h2, h3, -, -, -, h4⟩ := (s.heard q seq).respond_kept q 0x15 stState
      exact ⟨h1, (congrArg Part.job (World.part_of_parts h3 _)).trans hjob, h4.trans (by rw [hout])⟩
    · rw [doUnload_of_loaded _ _ _ (by rwa [hjob]), State.respond_link]
      obtain ⟨h1, h2, h3, h4, h5⟩ := (s.heard q seq).w.unloadPart_kept q.partition.toNat
      rw [State.onWorld]
      generalize (s.heard q seq).w.unloadPart q.partition.toNat = v at *
      exact ⟨⟨rfl, rfl, rfl, rfl⟩, h1, h2, hw.trans h3, h4, by rw [World.sendParcel_out, h5, hout]⟩
    · rw [doUnload_of_not_loaded _ _ _ (by rw [hjob]; rcases h with h | h <;> simp [h])]
      obtain ⟨h1, h2, h3, -, -, -, h4⟩ := (s.heard q seq).respond_kept q 0x13 stState
      exact ⟨h1, (congrArg Part.job (World.part_of_parts h3 _)).trans hjob, h4.trans (by rw [hout])⟩
  · obtain ⟨o, j, hp⟩ := s.heard_part (q := q) (seq := seq) 0
    have hjob : ((s.heard q seq).w.part 0).job = (s.w.part 0).job := by rw [hp]
    have hout := s.heard_out q seq
    have huzo := s.heard_uzo q seq
    obtain ⟨c, ps, hw⟩ := s.heard_w q seq
    have hcask : (s.heard q seq).w.cask = s.w.cask := by rw [hw]
    have hsend : (s.heard q seq).w.canSend = s.w.canSend := by rw [hw]; rfl
    refine ⟨fun hq h hsrc hwait hcan => ?_, fun h => ?_, fun hq h hsrc => ?_⟩
    · have hd := doRestore_fromStore (s.heard q seq) q none hq (hjob.trans h) hsrc (by rw [huzo, hwait]) (hsend.trans hcan)
      obtain ⟨⟨f, hf, hfs, hst⟩, hu, hdir⟩ := World.beginRestore_fromStore
        ((s.heard q seq).w.updUzo fun u => { u with restoreWait := some (none, q) }) s.sid (leAt q.payload 0 8)
      rw [show (s.heard q seq).sid = s.sid from rfl] at hd
      generalize hv : World.beginRestore _ s.sid true (leAt q.payload 0 8) = v at hd hf hu hdir
      refine ⟨_, f, congrArg Host.Outcome.next ((State.fromLink_hears doRestore hh).trans hd), ⟨rfl, rfl, rfl, rfl⟩, hf, hfs, hst, ?_, hdir⟩
      rw [hu]
      rfl
    · refine next_of_hears doRestore hh ?_
      simp only [doRestore]
      rw [if_pos (Or.inr (by rwa [hjob]))]
      obtain ⟨h1, -, -, -, h2, -, h3⟩ := (s.heard q seq).respond_kept q 0x16 stState
      exact ⟨h1, h2.trans hcask, h3.trans (by rw [hout])⟩
    · refine next_of_hears doRestore hh ?_
      have h1 : ¬ (q.partition ≠ 0 ∨ ((s.heard q seq).w.part 0).job ≠ .stopped) := by rw [hjob]; simp [hq, h]
      simp only [doRestore]
      rw [if_neg h1, if_pos hsrc]
      obtain ⟨h1, -, -, -, h2, -, h3⟩ := (s.heard q seq).respond_kept q 0x16 stRange
      exact ⟨h1, h2.trans hcask, h3.trans (by rw [hout])⟩

end Sys2Proof.Machine

namespace Sys2Proof.Machine

/-! ### Stores to HBM: where the bytes stand, and what else a write changes (R265 to R273) -/

section Keys
variable {good : List Nat} {a b : Nat}

/-- Two offsets below HBM_CAPACITY that HBM keeps at one place are one (R268). -/
theorem hbmKey_inj (hnd : good.Nodup) (ha : a < good.length * 2 ^ 31) (hb : b < good.length * 2 ^ 31) (h : hbmKey good a = hbmKey good b) : a = b := by
  have hne : good ≠ [] := by rintro rfl; simp at ha
  have hla := hbmLocate_snd_lt (good := good) (a := a) (by omega)
  have hlb := hbmLocate_snd_lt (good := good) (a := b) (by omega)
  simp only [hbmKey] at h
  have hline : (hbmLocate good a).2 = (hbmLocate good b).2 := by omega
  have hgrain := grain_eq_of_hbmLocate_eq hne hnd (a := a) (b := b) (Prod.ext (by omega) hline)
  omega

end Keys

section Writes
variable (w : World) (t : Sid) {p a n : Nat} {bs : List Byte}

theorem World.hbmStore_outside : ∀ (bs : List Byte) (w : World) (a : Nat) {key : Nat},
    (∀ i < bs.length, key ≠ hbmKey (w.part p).good (a + i)) → (w.hbmStore p a bs).hbm.byte key = w.hbm.byte key
  | [], _, _, _, _ => rfl
  | b :: bs, w, a, key, h => by
    refine (World.hbmStore_outside bs { w with hbm := w.hbm.setByte (hbmKey (w.part p).good a) b } (a + 1) fun i hi => ?_).trans ?_
    · have := h (i + 1) (by simpa using hi)
      rwa [show a + (i + 1) = a + 1 + i by omega] at this
    · exact (Memory.byte_setByte _ _ _ _).trans (if_neg (h 0 (by simp)))

/-- Bytes stored in a partition's HBM stand at their offsets. -/
theorem World.hbmStore_inside {good : List Nat} (hnd : good.Nodup) (bs : List Byte) (w : World) (a : Nat) (hw : (w.part p).good = good)
    (hcap : a + bs.length ≤ good.length * 2 ^ 31) (i : Nat) (hi : i < bs.length) :
    (w.hbmStore p a bs).hbm.byte (hbmKey good (a + i)) = bs.getD i 0 := by
  induction bs generalizing w a i with
  | nil => exact absurd hi (Nat.not_lt_zero i)
  | cons b bs ih =>
    rw [List.length_cons] at hcap hi
    cases i with
    | zero =>
      have hsep : ∀ j < bs.length, hbmKey good (a + 0) ≠ hbmKey good (a + 1 + j) := fun j hj e => by
        have := hbmKey_inj hnd (by omega) (by omega) e
        omega
      subst hw
      exact (World.hbmStore_outside bs { w with hbm := w.hbm.setByte (hbmKey (w.part p).good a) b } (a + 1) hsep).trans ((Memory.byte_setByte _ _ _ _).trans (if_pos rfl))
    | succ i =>
      have := ih { w with hbm := w.hbm.setByte (hbmKey (w.part p).good a) b } (a + 1) hw (by omega) i (by omega)
      rw [show a + (i + 1) = a + 1 + i by omega]
      exact this

theorem World.hbmStore_wrote (hnd : (w.part p).good.Nodup) (hcap : a + bs.length ≤ w.hbmCapacity p) : w.hbmWrote (w.hbmStore p a bs) p a bs :=
  ⟨fun i hi => World.hbmStore_inside hnd bs w a rfl hcap i hi, fun _ h => World.hbmStore_outside bs w a h⟩

/-- Counting the accesses of a range changes counters only. -/
theorem foldl_counters {α : Type} {f : World → α → World} (h : ∀ v x, ∃ c, f v x = { v with counters := c }) (xs : List α) (w : World) :
    ∃ c, xs.foldl f w = { w with counters := c } :=
  List.foldlRecOn xs f (motive := fun v => ∃ c, v = { w with counters := c }) ⟨w.counters, rfl⟩ fun v ⟨c, hc⟩ x _ => by
    obtain ⟨c', h'⟩ := h v x
    exact ⟨c', by rw [h', hc]⟩

theorem World.hbmCount_eq (p a n : Nat) (isWrite : Bool) : ∃ c, w.hbmCount p a n isWrite = { w with counters := c } :=
  foldl_counters (fun v g => by
    dsimp only
    split
    · exact ⟨_, rfl⟩
    · exact ⟨_, rfl⟩) _ w

theorem World.ringLeg_eq (d x y n : Nat) : ∃ c, w.ringLeg d x y n = { w with counters := c } := by
  unfold World.ringLeg
  split
  · exact ⟨w.counters, rfl⟩
  · exact ⟨_, rfl⟩

theorem World.ringCarry_eq (e y n : Nat) : ∀ (fuel : Nat) (w : World) (d x : Nat), ∃ c, w.ringCarry d x e y n fuel = { w with counters := c }
  | 0, w, _, _ => ⟨w.counters, rfl⟩
  | fuel + 1, w, d, x => by
    unfold World.ringCarry
    split
    · exact w.ringLeg_eq d x y n
    · split
      · obtain ⟨c, h⟩ := w.ringLeg_eq d x 1 n
        obtain ⟨c', h'⟩ := World.ringCarry_eq e y n fuel ((w.ringLeg d x 1 n).count (Block.orb.addr d 0x090) n) ((d + 1) % 4) 4
        exact ⟨c', by rw [h', h]; rfl⟩
      · obtain ⟨c, h⟩ := w.ringLeg_eq d x 4 n
        obtain ⟨c', h'⟩ := World.ringCarry_eq e y n fuel ((w.ringLeg d x 4 n).count (Block.orb.addr ((d + 3) % 4) 0x090) n) ((d + 3) % 4) 1
        exact ⟨c', by rw [h', h]; rfl⟩

theorem World.ringGrains_eq (src p a n : Nat) (isWrite : Bool) : ∃ c, w.ringGrains src p a n isWrite = { w with counters := c } :=
  foldl_counters (fun v g => by
    dsimp only
    split
    · exact World.ringCarry_eq _ _ _ _ _ _ _
    · exact World.ringCarry_eq _ _ _ _ _ _ _) _ w

/-- A read changes counters only. -/
theorem World.hbmFetch_eq (src p a n : Nat) : ∃ c, w.hbmFetch src p a n = (w.hbmRead p a n, { w with counters := c }) := by
  obtain ⟨c, h⟩ := w.hbmCount_eq p a n false
  obtain ⟨c', h'⟩ := (w.hbmCount p a n false).ringGrains_eq src p a n false
  exact ⟨c', by rw [World.hbmFetch, h', h]⟩

theorem World.markDirty_of_plain (h : ∀ e ∈ (w.part p).dir, rangesMeet a n e.penBase e.bytes = false) : w.markDirty p a n = w := by
  unfold World.markDirty
  refine List.foldlRecOn (w.part p).dir _ (motive := fun v => v = w) rfl fun v hv e he => ?_
  rw [DirEntry.touched, h e he]
  exact hv

theorem World.hitRemote_eq (p a n : Nat) : ∃ g, w.hitRemote p a n = { w with fab := { w.fab with guards := g } } := by
  unfold World.hitRemote
  split
  · exact ⟨_, rfl⟩
  · exact ⟨w.fab.guards, rfl⟩

theorem World.plainHbm_of_noDir (hnd : (w.part p).good.Nodup) (hcap : a + n ≤ w.hbmCapacity p) (hdir : (w.part p).dir = []) (hg : w.noGuards) :
    w.plainHbm p a n := by
  refine ⟨hnd, hcap, ?_, by simp [hdir]⟩
  rw [World.guardHits, List.flatMap_eq_nil_iff]
  intro e he
  simp [hg e he]

/-- A write where no version and no guard lies stores its bytes; beside them it changes counters and the marks of other modules' guards. -/
theorem World.hbmLand_plain (src pos : Nat) (h : w.plainHbm p a bs.length) :
    ∃ g, World.hbmLand t src pos p a w bs = { w.hbmStore p a bs with fab := { w.fab with guards := g } } := by
  obtain ⟨-, -, hhits, hdir⟩ := h
  have hdir' : ∀ e ∈ ((w.hbmStore p a bs).part p).dir, rangesMeet a bs.length e.penBase e.bytes = false := by
    rw [World.part_of_parts (w.hbmStore_parts p a bs)]
    exact fun e he => (hdir e he).1
  obtain ⟨g, hg⟩ := (w.hbmStore p a bs).hitRemote_eq p a bs.length
  obtain ⟨m, hm⟩ := World.hbmStore_eq p bs a w
  refine ⟨g, ?_⟩
  rw [World.hbmLand, World.markDirty_of_plain _ hdir', hhits, List.foldl_nil, hg, hm]

theorem World.plainHbm_of_counters {c : AMap Word} (h : w.plainHbm p a n) : { w with counters := c }.plainHbm p a n := h

theorem World.hbmStore_counters (c : AMap Word) : ∀ (bs : List Byte) (w : World) (a : Nat),
    { w with counters := c }.hbmStore p a bs = { w.hbmStore p a bs with counters := c }
  | [], _, _ => rfl
  | b :: bs, w, a => World.hbmStore_counters c bs { w with hbm := w.hbm.setByte (hbmKey (w.part p).good a) b } (a + 1)

theorem World.hbmApply_plain (src pos : Nat) (h : w.plainHbm p a bs.length) :
    ∃ c g, w.hbmApply t src pos p a bs = { w.hbmStore p a bs with counters := c, fab := { w.fab with guards := g } } := by
  obtain ⟨c, hc⟩ := w.hbmCount_eq p a bs.length true
  obtain ⟨c', hc'⟩ := (w.hbmCount p a bs.length true).ringGrains_eq src p a bs.length true
  obtain ⟨g, hg⟩ := World.hbmLand_plain { w with counters := c' } t src pos (w.plainHbm_of_counters h)
  refine ⟨c', g, ?_⟩
  rw [World.hbmApply, hc', hc, hg, World.hbmStore_counters]

theorem World.behindCatchup_of_plain (h : w.plainHbm p a n) : w.behindCatchup p a n = none := by
  obtain ⟨-, -, -, hdir⟩ := h
  rw [World.behindCatchup, List.find?_eq_none]
  intro e he
  simp [(hdir e he).1]

theorem World.hbmWrite_plain (src pos : Nat) (h : w.plainHbm p a bs.length) :
    ∃ c g, w.hbmWrite t src pos p a bs = { w.hbmStore p a bs with counters := c, fab := { w.fab with guards := g } } := by
  rw [World.hbmWrite, w.behindCatchup_of_plain h]
  exact w.hbmApply_plain t src pos h

end Writes

end Sys2Proof.Machine

namespace Sys2Proof.Machine

/-! ### DMA windows (R552, R553, R577) -/

section Windows
variable (w : World)

theorem World.window_of_uzo {w v : World} (h : v.uzo = w.uzo) (i : Nat) : v.window i = w.window i := by rw [World.window, h, World.window]

theorem World.window_set (i j : Nat) (x : Window) :
    (w.updUzo fun u => { u with windows := AMap.set {} u.windows i x }).window j = if j = i then x else w.window j := AMap.get_set _ _ _ _ _

theorem World.window_open {i : Nat} (hi : i < 16) (hopen : (w.window i).open_ = true) : ¬ (windowCount ≤ i ∨ (w.window i).open_ = false) := by
  rintro (h | h)
  · exact absurd hi (Nat.not_lt.mpr h)
  · rw [hopen] at h
    cases h

theorem World.window_allowed {job : Option Nat} {i : Nat} {allow : Bool} (husable : (w.window i).usable job = true) (hallow : allow = true) :
    ¬ ((w.window i).usable job = false ∨ allow = false) := by simp [husable, hallow]

section Refusal
variable {w : World} {job : Option Nat} {i off n : Nat} {write : Bool} (hi : i < 16) (hopen : (w.window i).open_ = true)
include hi hopen

theorem World.dmaRefusal_of_fits (husable : (w.window i).usable job = true)
    (hallow : (if write then (w.window i).write else (w.window i).read) = true) (hn : n ≤ 8192) (hfit : off + n ≤ (w.window i).length) :
    w.dmaRefusal job i off n write = none := by
  have hlen : ¬ (parcelBytes < n ∨ (w.window i).length < off + n) := by simp only [parcelBytes]; omega
  simp only [World.dmaRefusal, if_neg (w.window_open hi hopen), if_neg (w.window_allowed husable hallow), if_neg hlen]

theorem World.dmaRefusal_of_denied (hdeny : (if write then (w.window i).write else (w.window i).read) = false) :
    w.dmaRefusal job i off n write = some stPrivilege := by
  simp only [World.dmaRefusal, if_neg (w.window_open hi hopen)]
  exact if_pos (Or.inr hdeny)

theorem World.dmaRefusal_of_long (husable : (w.window i).usable job = true)
    (hallow : (if write then (w.window i).write else (w.window i).read) = true) (hlong : (w.window i).length < off + n) :
    w.dmaRefusal job i off n write = some stRange := by
  simp only [World.dmaRefusal, if_neg (w.window_open hi hopen), if_neg (w.window_allowed husable hallow)]
  exact if_pos (Or.inr hlong)

end Refusal

theorem World.hbmRead_of_same {w v : World} {p : Nat} (hh : v.hbm = w.hbm) (hg : (v.part p).good = (w.part p).good) (a n : Nat) :
    v.hbmRead p a n = w.hbmRead p a n := by simp only [World.hbmRead, World.hbmByte, hh, hg]

theorem World.length_hbmRead (p a n : Nat) : (w.hbmRead p a n).length = n := by simp [World.hbmRead]

end Windows

section DmaRequests
variable (u : State) (q : Parcel) (job : Option Nat)

/-- The world after the bytes of a DMA_WRITE have landed. -/
def World.dmaStored (w : World) (q : Parcel) (c : AMap Word) (g : List RemoteGuard) : World :=
  let x := w.window (leAt q.payload 0 1)
  { w.hbmStore x.part (x.offset + leAt q.payload 8 8) (q.payload.drop 16) with counters := c, fab := { w.fab with guards := g } }

/-- A DMA_READ that is allowed. -/
theorem doDmaRead_reads (hr : u.w.dmaRefusal job (leAt q.payload 0 1) (leAt q.payload 8 8) (leAt q.payload 4 4) false = none) (hn : leAt q.payload 4 4 ≤ 8192) :
    ∃ c, doDmaRead job none q u = { u with
      w := { u.w with counters := c }.sendParcel (reply 0x32 q stOk 0 (u.w.hbmRead (u.w.window (leAt q.payload 0 1)).part ((u.w.window (leAt q.payload 0 1)).offset + leAt q.payload 8 8)
        (leAt q.payload 4 4))) } := by
  obtain ⟨c, hc⟩ := u.w.hbmFetch_eq (ioSource 5) (u.w.window (leAt q.payload 0 1)).part
    ((u.w.window (leAt q.payload 0 1)).offset + leAt q.payload 8 8) (leAt q.payload 4 4)
  have hd : doDmaRead job none q u = { u with w := { u.w with counters := c }.count (Block.uzo.addr 0 0x0C0) (leAt q.payload 4 4) }.respondWith none 0x32 q
      (u.w.hbmRead (u.w.window (leAt q.payload 0 1)).part ((u.w.window (leAt q.payload 0 1)).offset + leAt q.payload 8 8) (leAt q.payload 4 4)) := by
    simp only [doDmaRead, hr, hc]
  rw [hd, State.respondWith_link _ _ _ (by rw [World.length_hbmRead]; exact hn)]
  exact ⟨_, rfl⟩

theorem doDmaRead_refused {st : Nat} (hr : u.w.dmaRefusal job (leAt q.payload 0 1) (leAt q.payload 8 8) (leAt q.payload 4 4) false = some st) :
    doDmaRead job none q u = u.respond none 0x32 q st := by
  simp only [doDmaRead, hr]

theorem doDmaWrite_refused {st : Nat}
    (hr : u.w.dmaRefusal job (leAt q.payload 0 1) (leAt q.payload 8 8) (q.payload.drop 16).length true = some st) :
    doDmaWrite job none q u = u.respond none 0x33 q st := by
  simp only [doDmaWrite, hr]

theorem doDmaWrite_raced (hr : u.w.dmaRefusal job (leAt q.payload 0 1) (leAt q.payload 8 8) (q.payload.drop 16).length true = none)
    (hrun : u.w.jobRuns (u.w.window (leAt q.payload 0 1)).part = true)
    (hhit : (u.w.currentHit (u.w.window (leAt q.payload 0 1)).part ((u.w.window (leAt q.payload 0 1)).offset + leAt q.payload 8 8)
      (q.payload.drop 16).length).isSome = true) : doDmaWrite job none q u = u.respond none 0x33 q stRaceRefused := by
  simp only [doDmaWrite, hr]
  rw [if_pos ⟨hrun, hhit⟩]

/-- A DMA_WRITE where no version and no guard lies. -/
theorem doDmaWrite_writes (hr : u.w.dmaRefusal job (leAt q.payload 0 1) (leAt q.payload 8 8) (q.payload.drop 16).length true = none)
    (h : u.w.plainHbm (u.w.window (leAt q.payload 0 1)).part ((u.w.window (leAt q.payload 0 1)).offset + leAt q.payload 8 8) (q.payload.drop 16).length) :
    ∃ c g, doDmaWrite job none q u = { u with
      w := (u.w.dmaStored q c g).sendParcel (reply 0x33 q stOk 0 []) } := by
  have hhit : ¬ (u.w.jobRuns (u.w.window (leAt q.payload 0 1)).part = true ∧ (u.w.currentHit (u.w.window (leAt q.payload 0 1)).part
      ((u.w.window (leAt q.payload 0 1)).offset + leAt q.payload 8 8) (q.payload.drop 16).length).isSome = true) := by
    rintro ⟨-, hsome⟩
    obtain ⟨e, he⟩ := Option.isSome_iff_exists.mp hsome
    have hmeet := List.find?_some he
    rw [(h.2.2.2 e (List.mem_of_find?_eq_some he)).2] at hmeet
    cases hmeet
  obtain ⟨c, g, hc⟩ := u.w.hbmWrite_plain u.sid (ioSource 5) u.w.ownPosition h
  have hd : doDmaWrite job none q u = (u.onWorld fun w => (w.hbmWrite u.sid (ioSource 5) w.ownPosition (u.w.window (leAt q.payload 0 1)).part
      ((u.w.window (leAt q.payload 0 1)).offset + leAt q.payload 8 8) (q.payload.drop 16)).count (Block.uzo.addr 0 0x0C0)
        (q.payload.drop 16).length).respond none 0x33 q stOk := by
    simp only [doDmaWrite, hr, if_neg hhit]
  rw [hd, State.onWorld, hc, State.respond_link]
  exact ⟨_, g, rfl⟩

end DmaRequests

/-- Settles O13: windows are entries of the port's map, and the bytes of a range have places of their own in HBM (R268). -/
theorem dmaWindowsMoveBytesInside : Obligations.DmaWindowsMoveBytesInside := by
  refine ⟨fun s q seq => ?_, fun s q job seq => ?_⟩
  · dsimp only
    obtain ⟨o, j, hp⟩ := s.heard_part (q := q) (seq := seq) q.partition.toNat
    have hcap : (s.heard q seq).w.hbmCapacity q.partition.toNat = s.w.hbmCapacity q.partition.toNat := by simp only [World.hbmCapacity, hp]
    have hw := s.heard_memories q seq
    have hout := s.heard_out q seq
    have huzo := s.heard_uzo q seq
    refine ⟨fun hh hk hoff hlen => ⟨fun hfit => next_of_hears doDmaOpen hh ?_, fun hlong => next_of_hears doDmaOpen hh ?_⟩,
      fun hh hk hopen => next_of_hears doDmaClose hh ?_⟩
    · simp only [doDmaOpen]
      rw [if_neg (by rw [hcap]; simp only [windowCount]; omega), State.respond_link]
      refine ⟨⟨rfl, rfl, rfl, rfl⟩, hw, ?_, fun j hj => ?_, congrArg (· ++ _) hout⟩
      · exact ((s.heard q seq).w.window_set _ _ _).trans (if_pos rfl)
      · exact ((s.heard q seq).w.window_set _ _ _).trans ((if_neg hj).trans (World.window_of_uzo huzo j))
    · simp only [doDmaOpen]
      rw [if_pos (by rw [hcap]; exact Or.inr (Or.inr (Or.inr hlong)))]
      obtain ⟨h1, -, -, h2, -, -, h3⟩ := (s.heard q seq).respond_kept q 0x30 stRange
      exact ⟨h1, h2.trans huzo, h3.trans (by rw [hout])⟩
    · have hopen' : ((s.heard q seq).w.window (leAt q.payload 0 1)).open_ = true := by rw [World.window_of_uzo huzo, hopen]
      simp only [doDmaClose]
      rw [if_neg (by simp only [windowCount, hopen']; simp; omega), State.respond_link]
      refine ⟨⟨rfl, rfl, rfl, rfl⟩, hw, ?_, fun j hj => ?_, congrArg (· ++ _) hout⟩
      · exact congrArg Window.open_ (((s.heard q seq).w.window_set _ _ _).trans (if_pos rfl))
      · exact ((s.heard q seq).w.window_set _ _ _).trans ((if_neg hj).trans (World.window_of_uzo huzo j))
  · dsimp only
    intro hk hopen
    have hw := s.heard_memories q seq
    have hout := s.heard_out q seq
    have hwin := World.window_of_uzo (s.heard_uzo q seq) (leAt q.payload 0 1)
    obtain ⟨o, j, hp⟩ := s.heard_part (q := q) (seq := seq) (s.w.window (leAt q.payload 0 1)).part
    obtain ⟨c0, ps, hwc⟩ := s.heard_w q seq
    have hcores : (s.heard q seq).w.cores = s.w.cores := by rw [hwc]
    rw [← hwin] at hopen hp ⊢
    refine ⟨fun hh => ⟨fun husable hread hn hfit => next_of_hears doDmaRead hh ?_, fun hread => next_of_hears doDmaRead hh ?_⟩,
      fun hh husable hwrite => ⟨fun hfit hn hdir hnd hcap hguards => next_of_hears doDmaWrite hh ?_,
        fun hfit hn hrun hhit => next_of_hears doDmaWrite hh ?_, fun hlong => next_of_hears doDmaWrite hh ?_⟩⟩
    · obtain ⟨c, hc⟩ := doDmaRead_reads (s.heard q seq) q job (World.dmaRefusal_of_fits hk hopen husable hread hn hfit) hn
      rw [hc]
      refine ⟨⟨rfl, rfl, rfl, rfl⟩, hw, ?_⟩
      rw [World.sendParcel_out, World.hbmRead_of_same hw.1 (congrArg Part.good hp :)]
      exact congrArg (· ++ _) hout
    · rw [doDmaRead_refused _ q job (World.dmaRefusal_of_denied hk hopen hread)]
      obtain ⟨h1, h2, -, -, -, -, h3⟩ := (s.heard q seq).respond_kept q 0x32 stPrivilege
      exact ⟨h1, hw.trans h2, h3.trans (by rw [hout])⟩
    · have hplain : (s.heard q seq).w.plainHbm ((s.heard q seq).w.window (leAt q.payload 0 1)).part
          (((s.heard q seq).w.window (leAt q.payload 0 1)).offset + leAt q.payload 8 8) (q.payload.drop 16).length :=
        World.plainHbm_of_noDir _ (by rw [hp]; exact hnd) (by rw [World.hbmCapacity, hp]; exact hcap) (by rw [hp]; exact hdir)
          (by rw [World.noGuards, hcores]; exact hguards)
      obtain ⟨c, g, hd⟩ := doDmaWrite_writes (s.heard q seq) q job (World.dmaRefusal_of_fits hk hopen husable hwrite hn hfit) hplain
      obtain ⟨hin, hsame⟩ := World.hbmStore_wrote _ hplain.1 hplain.2.1 (bs := q.payload.drop 16)
      obtain ⟨m, hm⟩ := World.hbmStore_eq ((s.heard q seq).w.window (leAt q.payload 0 1)).part (q.payload.drop 16)
        (((s.heard q seq).w.window (leAt q.payload 0 1)).offset + leAt q.payload 8 8) (s.heard q seq).w
      rw [hp, hm] at hin hsame
      rw [hd, World.dmaStored, hm]
      exact ⟨⟨rfl, rfl, rfl, rfl⟩, hw.2.1, hw.2.2.1, hin, fun key hkey => (hsame key hkey).trans (by rw [hw.1]), congrArg (· ++ _) hout⟩
    · rw [doDmaWrite_raced _ q job (World.dmaRefusal_of_fits hk hopen husable hwrite hn hfit) ?_ ?_]
      · obtain ⟨h1, h2, -, -, -, -, h3⟩ := (s.heard q seq).respond_kept q 0x33 stRaceRefused
        exact ⟨h1, hw.trans h2, h3.trans (by rw [hout])⟩
      · rw [s.heard_jobRuns, hrun]
      · rw [World.currentHit, hp]
        exact hhit
    · rw [doDmaWrite_refused _ q job (World.dmaRefusal_of_long hk hopen husable hwrite hlong)]
      obtain ⟨h1, h2, -, -, -, -, h3⟩ := (s.heard q seq).respond_kept q 0x33 stRange
      exact ⟨h1, hw.trans h2, h3.trans (by rw [hout])⟩

end Sys2Proof.Machine

namespace Sys2Proof.Machine

/-! ### Rings, events and the link of the Uzolo port (R444, R542, R543, R554, R555) -/

section Rings
variable (w : World)

theorem World.ring_of_uzo {w v : World} (h : v.uzo = w.uzo) (i : Nat) : v.ring i = w.ring i := by rw [World.ring, h, World.ring]

theorem World.ring_set (i j : Nat) (x : Ring) :
    (w.updUzo fun u => { u with rings := AMap.set {} u.rings i x }).ring j = if j = i then x else w.ring j := AMap.get_set _ _ _ _ _

theorem ringSizeOk_of_pow {n : Nat} (h : ∃ e ≤ 12, n = 2 ^ e) : ringSizeOk n = true := by
  obtain ⟨e, he, rfl⟩ := h
  exact List.any_eq_true.mpr ⟨e, List.mem_range.mpr (by omega), decide_eq_true rfl⟩

variable (u : State) (q : Parcel) (job : Option Nat)

/-- The ring that RING_CFG sets up. -/
def newRing (q : Parcel) : Ring :=
  { configured := true, window := leAt q.payload 1 1, entries := leAt q.payload 4 4, offset := leAt q.payload 8 8 }

theorem doRingCfg_configures (hk : leAt q.payload 1 1 < 16) (hopen : (u.w.window (leAt q.payload 1 1)).open_ = true)
    (hread : (u.w.window (leAt q.payload 1 1)).read = true) (hwrite : (u.w.window (leAt q.payload 1 1)).write = true)
    (hsize : ∃ e ≤ 12, leAt q.payload 4 4 = 2 ^ e)
    (hfit : leAt q.payload 8 8 + leAt q.payload 4 4 * 32768 ≤ (u.w.window (leAt q.payload 1 1)).length) :
    doRingCfg job none q u = (u.onWorld fun w => w.updUzo fun y => { y with rings := AMap.set {} y.rings (leAt q.payload 0 1) (newRing q) }).respond none 0x34 q stOk := by
  simp only [doRingCfg, if_neg (u.w.window_open hk hopen)]
  rw [if_neg (by simp [hread, hwrite]), if_neg (by simp only [ringSizeOk_of_pow hsize, slotBytes]; simp; omega)]
  rfl

theorem doDoorbell_ignored
    (h : (u.w.ring (leAt q.payload 0 1)).entries < (leAt q.payload 4 4 + 2 ^ 32 - (u.w.ring (leAt q.payload 0 1)).head) % 2 ^ 32) :
    doDoorbell job none q u = u.onWorld fun w => w.tick .uzo 0 0x0B8 :=
  if_pos (Or.inr (Or.inr (Or.inr h)))

/-- A tail that is the head: no slot is handled. -/
theorem doDoorbell_empty (hring : (u.w.ring (leAt q.payload 0 1)).configured = true)
    (hopen : (u.w.window (u.w.ring (leAt q.payload 0 1)).window).open_ = true)
    (husable : (u.w.window (u.w.ring (leAt q.payload 0 1)).window).usable job = true)
    (hhead : (u.w.ring (leAt q.payload 0 1)).head = leAt q.payload 4 4) :
    doDoorbell job none q u = u.onWorld fun w =>
      (w.updUzo fun y => { y with rings := AMap.upd {} y.rings (leAt q.payload 0 1) fun x =>
          if x.configured then { x with head := leAt q.payload 4 4 } else x }).sendParcel
        (.parcel 0x40 0 0 q.partition 0 0 (leBytes 4 (leAt q.payload 0 1) ++ leBytes 4 (leAt q.payload 4 4))) := by
  have hzero : (leAt q.payload 4 4 + 2 ^ 32 - (u.w.ring (leAt q.payload 0 1)).head) % 2 ^ 32 = 0 := by
    rw [hhead]
    omega
  simp only [doDoorbell, hzero]
  rw [if_neg (by simp [hring, hopen, husable])]
  rfl

end Rings

section Status

/-- The lowest bits of UZO_STATUS are the port's state. -/
theorem State.uzoStatus_low (s : State) : fieldOf s.uzoStatus 0 3 = if s.w.uzo.light = false then 0 else if s.w.uzo.training then 1
    else if s.sec.mgcHeld then 4 else if s.sec.recovery then 3 else 2 := by
  have hfield : ∀ state lanes : Nat, state < 8 → fieldOf (mkField state 0 3 ||| mkField lanes 3 2) 0 3 = state := by
    intro state lanes h
    have hl : lanes % 4 * 8 % 2 ^ 64 % 2 ^ 3 = 0 := by omega
    simp only [fieldOf, bitsAt, mkField, BitVec.toNat_or, BitVec.toNat_ofNat, Nat.pow_zero, Nat.div_one, Nat.or_mod_two_pow]
    rw [show lanes % 2 ^ 2 * 2 ^ 3 % 2 ^ 64 % 2 ^ 3 = 0 from hl, Nat.or_zero]
    omega
  refine hfield _ _ ?_
  repeat' split
  all_goals decide

end Status

section Heartbeat

theorem sorted_events (rs : List (List Byte)) : (rs.insertionSort fun a b => eventKey a ≤ eventKey b).Pairwise fun a b => eventKey a ≤ eventKey b := by
  have : Std.Total (α := List Byte) fun a b => eventKey a ≤ eventKey b := ⟨fun a b => Nat.le_total _ _⟩
  have : IsTrans (List Byte) fun a b => eventKey a ≤ eventKey b := ⟨fun a b c => Nat.le_trans⟩
  exact List.pairwise_insertionSort _ rs

/-- The queued events in the order of R444. -/
def World.sortedEvents (w : World) : List (List Byte) := w.uzo.events.insertionSort fun a b => eventKey a ≤ eventKey b

/-- An EVENTS parcel with the first of the queued events leaves. -/
def World.heartbeat (w : World) : World :=
  ((w.updUzo fun u => { u with events := w.sortedEvents.drop 256 }).count (Block.uzo.addr 0 0x0A0) (w.sortedEvents.take 256).length).sendParcel
    (.parcel 0x50 0 0 0 0 0 (w.sortedEvents.take 256).flatten)

theorem World.heartbeat_events (w : World) : w.heartbeat.uzo.events = w.sortedEvents.drop 256 := rfl

theorem World.heartbeat_memories (w : World) : w.memoriesKept w.heartbeat := by
  unfold World.heartbeat
  generalize w.sortedEvents = rs
  exact ⟨rfl, rfl, rfl, rfl⟩

theorem World.heartbeat_out (w : World) : w.heartbeat.out = w.out ++ [.parcel 0x50 0 0 0 0 0 (w.sortedEvents.take 256).flatten] := by
  unfold World.heartbeat
  generalize w.sortedEvents = rs
  rfl

theorem State.inService_of_portOpen {s : State} (h : s.portOpen) : s.inService = true := by
  obtain ⟨hready, hfail, -⟩ := h
  simp [State.inService, hready, hfail]

theorem execEventsHeartbeat_sends {s : State} (hs : s.portOpen) (hmgc : s.sec.mgcRunning = true) (hlost : s.w.uzo.lost = 0) :
    exec .eventsHeartbeat s = .next (s.onWorld World.heartbeat) := by
  have hopen : ¬ (s.inService = false ∨ s.linkLive = false ∨ s.w.uzo.training = true ∨ s.sec.mgcHeld = true ∨ s.sec.mgcRunning = false) := by
    obtain ⟨-, -, -, -, htrain, hheld, -⟩ := id hs
    simp [State.inService_of_portOpen hs, State.linkLive_of_portOpen hs, htrain, hheld, hmgc]
  simp only [exec, execEventsHeartbeat, if_neg hopen, hlost]
  rw [if_neg (by simp)]
  rfl

end Heartbeat

theorem State.onWorld_restKept (s : State) (f : World → World) : s.restKept (s.onWorld f) := ⟨rfl, rfl, rfl, rfl⟩

/-- Settles O14. -/
theorem ringsEventsAndLinkOfThePort : Obligations.RingsEventsAndLinkOfThePort := by
  refine ⟨fun s q job seq => ?_, fun s => ⟨fun hs hmgc hlost => ?_, fun light lanes => ?_, fun hlive => ?_, fun type q hs hlen => ?_⟩⟩
  · dsimp only
    have hw := s.heard_memories q seq
    have hout := s.heard_out q seq
    have huzo := s.heard_uzo q seq
    have hring := World.ring_of_uzo huzo
    have hwin := World.window_of_uzo huzo
    refine ⟨fun hh hk hopen hread hwrite hsize hfit => next_of_hears doRingCfg hh ?_,
      fun hh hconf hopen husable => ⟨fun hover => next_of_hears doDoorbell hh ?_, fun hhead hn => next_of_hears doDoorbell hh ?_⟩⟩
    · rw [doRingCfg_configures _ q _ hk (by rw [hwin, hopen]) (by rw [hwin, hread]) (by rw [hwin, hwrite]) hsize (by rw [hwin]; exact hfit),
        State.respond_link]
      refine ⟨⟨rfl, rfl, rfl, rfl⟩, hw, ?_, fun j hj => ?_, congrArg (· ++ _) hout⟩
      · exact ((s.heard q seq).w.ring_set _ _ _).trans (if_pos rfl)
      · exact ((s.heard q seq).w.ring_set _ _ _).trans ((if_neg hj).trans (hring j))
    · rw [doDoorbell_ignored _ q _ (by rw [hring]; exact hover)]
      refine ⟨⟨rfl, rfl, rfl, rfl⟩, hout, huzo, (World.counter_tick_self _ _ _ _).trans ?_⟩
      have hcount : (s.heard q seq).w.counters = (s.w.tick .uzo 0 0x080).counters := by cases seq <;> rfl
      rw [World.counter, hcount]
      exact congrArg (· + 1) (World.counter_tick_ne s.w (b := .uzo) (b' := .uzo) (i := 0) (j := 0) (by decide) (by decide) (by decide))
    · rw [doDoorbell_empty _ q _ (by rw [hring, hconf]) (by rw [hring, hwin, hopen]) (by rw [hring, hwin]; exact husable) (by rw [hring, hhead])]
      refine ⟨⟨rfl, rfl, rfl, rfl⟩, hw, ?_, congrArg (· ++ _) hout⟩
      refine (congrArg Ring.head (AMap.get_upd_self _ _ _ _)).trans ?_
      rw [if_pos (show (AMap.get {} (s.heard q seq).w.uzo.rings (leAt q.payload 0 1)).configured = true by rw [huzo]; exact hconf)]
  · refine ⟨_, s.w.sortedEvents.take 256, execEventsHeartbeat_sends hs hmgc hlost, s.onWorld_restKept _, s.w.heartbeat_memories, s.w.heartbeat_out, ?_, ?_, ?_⟩
    · rw [State.onWorld_w, World.heartbeat_events, List.take_append_drop]
      exact List.perm_insertionSort _ _
    · rw [List.length_take, World.sortedEvents, List.length_insertionSort]
    · rw [State.onWorld_w, World.heartbeat_events, List.take_append_drop]
      exact sorted_events _
  · refine ⟨_, rfl, ⟨rfl, rfl, rfl, rfl⟩, rfl, fun h => ?_, fun h hl => ?_⟩
    · rw [State.uzoStatus_low]
      exact if_pos h
    · rw [State.uzoStatus_low, if_neg (by simp [h]), if_pos (by simp [hl])]
  · refine ⟨_, congrArg Host.Outcome.next (if_pos hlive), ⟨rfl, rfl, rfl, rfl⟩, rfl, World.counter_count_self _ _ _, Nat.min_le_left _ _⟩
  · have hq : parcelOk type.toNat q = false := by simp [parcelOk, hlen]
    have ht : type.toNat ≠ 0x40 := fun h => by simpa [h, lengthOk] using hlen 8
    obtain ⟨h, he⟩ := exec_eq_fromLink (s := s) (c := .unknownTypeParcel type q) rfl
    obtain ⟨c, hf, -⟩ := State.fromLink_refused h (State.linkLive_of_portOpen hs) (State.verdict_malformed hs hq) ht
    exact ⟨_, he.trans (congrArg Host.Outcome.next hf), ⟨rfl, rfl, rfl, rfl⟩, rfl⟩

end Sys2Proof.Machine

namespace Sys2Proof.Machine

/-! ### The recipe store's manifest (R556 to R559) -/

section Reading

theorem Memory.read_eq (m : Memory) : ∀ n a, m.read a n = (List.range n).map fun i => m.byte (a + i)
  | 0, _ => rfl
  | n + 1, a => by
    rw [Memory.read, Memory.read_eq m n (a + 1), List.range_succ_eq_map, List.map_cons, List.map_map]
    refine congrArg (_ :: ·) (List.map_congr_left fun i _ => ?_)
    rw [Function.comp_apply, Nat.succ_eq_add_one, Nat.add_right_comm, Nat.add_assoc]

theorem Memory.read_write_self (m : Memory) (a : Nat) (bs : List Byte) : (m.write a bs).read a bs.length = bs := by
  rw [Memory.read_eq]
  refine List.ext_getElem (by simp) fun i h1 h2 => ?_
  rw [List.getElem_map, List.getElem_range, Memory.byte_write bs m a i h2, List.getD_eq_getElem bs 0 h2]

theorem Memory.read_write_outside (m : Memory) (a b n : Nat) (bs : List Byte) (h : b + n ≤ a ∨ a + bs.length ≤ b) :
    (m.write a bs).read b n = m.read b n := by
  rw [Memory.read_eq, Memory.read_eq]
  refine List.map_congr_left fun i hi => Memory.byte_write_outside bs m a (b + i) ?_
  have := List.mem_range.mp hi
  omega

end Reading

section Manifest

/-- The bytes of a manifest (R557). -/
def manifestBytes (flags gen fwLen cfgLen bunLen : Nat) (fwDig cfgDig bunDig : List Byte) : List Byte :=
  leBytes 4 0x4E414D52 ++ leBytes 2 1 ++ leBytes 2 flags ++ leBytes 8 gen ++ leBytes 4 fwLen
    ++ leBytes 4 cfgLen ++ leBytes 8 bunLen ++ slice fwDig 0 32 ++ slice cfgDig 0 32 ++ slice bunDig 0 32
    ++ List.replicate 120 0 ++ leBytes 8 gen

variable (flags gen fwLen cfgLen bunLen : Nat) (fwDig cfgDig bunDig : List Byte)

theorem length_slice (bs : List Byte) (o n : Nat) : (slice bs o n).length = n := by
  simp only [slice, List.length_append, List.length_take, List.length_drop, List.length_replicate]
  omega

theorem length_manifestBytes : (manifestBytes flags gen fwLen cfgLen bunLen fwDig cfgDig bunDig).length = 256 := by
  simp [manifestBytes, length_slice]

theorem manifestBytes_flags : leAt (manifestBytes flags gen fwLen cfgLen bunLen fwDig cfgDig bunDig) 6 2 = flags % 65536 := by
  simp only [manifestBytes, List.append_assoc]
  rw [← List.append_assoc]
  exact leAt_leBytes_append _ _ 6 2 flags (by simp)

theorem manifestBytes_generation : leAt (manifestBytes flags gen fwLen cfgLen bunLen fwDig cfgDig bunDig) 8 8 = gen % 2 ^ 64 := by
  simp only [manifestBytes, List.append_assoc]
  rw [← List.append_assoc, ← List.append_assoc]
  exact leAt_leBytes_append _ _ 8 8 gen (by simp)

theorem manifestOk_manifestBytes : manifestOk (manifestBytes flags gen fwLen cfgLen bunLen fwDig cfgDig bunDig) = true := by
  have h0 : leAt (manifestBytes flags gen fwLen cfgLen bunLen fwDig cfgDig bunDig) 0 4 = 0x4E414D52 := by
    simp only [manifestBytes, List.append_assoc]
    exact leAt_leBytes_append [] _ 0 4 _ rfl
  have h4 : leAt (manifestBytes flags gen fwLen cfgLen bunLen fwDig cfgDig bunDig) 4 2 = 1 := by
    simp only [manifestBytes, List.append_assoc]
    exact leAt_leBytes_append _ _ 4 2 1 (by simp)
  have hF8 : leAt (manifestBytes flags gen fwLen cfgLen bunLen fwDig cfgDig bunDig) 0xF8 8 = gen % 2 ^ 64 := by
    have h := leAt_leBytes_append (leBytes 4 0x4E414D52 ++ leBytes 2 1 ++ leBytes 2 flags ++ leBytes 8 gen ++ leBytes 4 fwLen
      ++ leBytes 4 cfgLen ++ leBytes 8 bunLen ++ slice fwDig 0 32 ++ slice cfgDig 0 32 ++ slice bunDig 0 32 ++ List.replicate 120 0) [] 0xF8 8 gen
      (by simp [length_slice])
    rwa [List.append_nil] at h
  simp [manifestOk, h0, h4, hF8, manifestBytes_generation]

end Manifest

section Generations
variable (x : Sec) (flags fwLen cfgLen bunLen : Nat) (fwDig cfgDig bunDig : List Byte)

/-- GENERATION of the next manifest, and the slot that takes it (R558). -/
def Sec.nextGeneration : Nat := (if manifestOk x.manifest then leAt x.manifest 8 8 else 0) + 1
def Sec.nextSlot : Nat :=
  match manifestTaken x.flash with
  | some i => 1 - i
  | none => 0

theorem Sec.writeManifest_flash : (x.writeManifest flags fwLen cfgLen bunLen fwDig cfgDig bunDig).flash =
    x.flash.write (manifestSlot x.nextSlot) (manifestBytes flags x.nextGeneration fwLen cfgLen bunLen fwDig cfgDig bunDig) := by
  simp only [Sec.writeManifest, Sec.nextSlot, Sec.nextGeneration, manifestBytes] <;> cases manifestTaken x.flash <;> rfl

theorem manifestTaken_cases (flash : Memory) :
    (manifestTaken flash = none ∧ manifestOk (flash.read (manifestSlot 0) 256) = false ∧ manifestOk (flash.read (manifestSlot 1) 256) = false)
      ∨ (manifestTaken flash = some 0 ∧ manifestOk (flash.read (manifestSlot 0) 256) = true)
      ∨ (manifestTaken flash = some 1 ∧ manifestOk (flash.read (manifestSlot 1) 256) = true) := by
  unfold manifestTaken
  dsimp only
  generalize flash.read (manifestSlot 0) 256 = a
  generalize flash.read (manifestSlot 1) 256 = b
  cases manifestOk a <;> cases manifestOk b
  · exact .inl ⟨rfl, rfl, rfl⟩
  · exact .inr (.inr ⟨rfl, rfl⟩)
  · exact .inr (.inl ⟨rfl, rfl⟩)
  · by_cases h : leAt a 8 8 < leAt b 8 8
    · exact .inr (.inr ⟨by simp [h], rfl⟩)
    · exact .inr (.inl ⟨by simp [h], rfl⟩)

variable {x}

/-- The manifest that was written is the one in force, where GENERATION does not wrap. -/
theorem Sec.manifest_writeManifest (hgen : leAt x.manifest 8 8 + 1 < 2 ^ 64) :
    (x.writeManifest flags fwLen cfgLen bunLen fwDig cfgDig bunDig).manifest
      = manifestBytes flags x.nextGeneration fwLen cfgLen bunLen fwDig cfgDig bunDig := by
  have hok := manifestOk_manifestBytes flags x.nextGeneration fwLen cfgLen bunLen fwDig cfgDig bunDig
  have hg := manifestBytes_generation flags x.nextGeneration fwLen cfgLen bunLen fwDig cfgDig bunDig
  have hlen := length_manifestBytes flags x.nextGeneration fwLen cfgLen bunLen fwDig cfgDig bunDig
  have hself := fun a => Memory.read_write_self x.flash a (manifestBytes flags x.nextGeneration fwLen cfgLen bunLen fwDig cfgDig bunDig)
  have hother := fun a b h => Memory.read_write_outside x.flash a b 256 (manifestBytes flags x.nextGeneration fwLen cfgLen bunLen fwDig cfgDig bunDig) h
  rw [hlen] at hself hother
  rw [Sec.manifest, Sec.writeManifest_flash]
  generalize manifestBytes flags x.nextGeneration fwLen cfgLen bunLen fwDig cfgDig bunDig = bs at *
  obtain ⟨ht, ha, hb⟩ | ⟨ht, ha⟩ | ⟨ht, hb⟩ := manifestTaken_cases x.flash
  · have hslot : x.nextSlot = 0 := by simp only [Sec.nextSlot, ht]
    have hb' := hother (manifestSlot 0) (manifestSlot 1) (by simp [manifestSlot])
    have htaken : manifestTaken (x.flash.write (manifestSlot 0) bs) = some 0 := by
      simp only [manifestTaken, hself, hb', hok, hb]
    rw [hslot]
    simp only [htaken, hself]
  · have hslot : x.nextSlot = 1 := by simp only [Sec.nextSlot, ht]
    have hm : x.manifest = x.flash.read (manifestSlot 0) 256 := by simp only [Sec.manifest, ht]
    have hnext : x.nextGeneration = leAt (x.flash.read (manifestSlot 0) 256) 8 8 + 1 := by rw [Sec.nextGeneration, hm, if_pos ha]
    have ha' := hother (manifestSlot 1) (manifestSlot 0) (by simp [manifestSlot])
    rw [hm] at hgen
    have hlt : leAt (x.flash.read (manifestSlot 0) 256) 8 8 < leAt bs 8 8 := by rw [hg, hnext]; omega
    have htaken : manifestTaken (x.flash.write (manifestSlot 1) bs) = some 1 := by
      simp only [manifestTaken, hself, ha', hok, ha, if_pos hlt]
    rw [hslot]
    simp only [htaken, hself]
  · have hslot : x.nextSlot = 0 := by simp only [Sec.nextSlot, ht]
    have hm : x.manifest = x.flash.read (manifestSlot 1) 256 := by simp only [Sec.manifest, ht]
    have hnext : x.nextGeneration = leAt (x.flash.read (manifestSlot 1) 256) 8 8 + 1 := by rw [Sec.nextGeneration, hm, if_pos hb]
    have hb' := hother (manifestSlot 0) (manifestSlot 1) (by simp [manifestSlot])
    rw [hm] at hgen
    have hlt : ¬ leAt bs 8 8 < leAt (x.flash.read (manifestSlot 1) 256) 8 8 := by rw [hg, hnext]; omega
    have htaken : manifestTaken (x.flash.write (manifestSlot 0) bs) = some 0 := by
      simp only [manifestTaken, hself, hb', hok, hb, if_neg hlt]
    rw [hslot]
    simp only [htaken, hself]

/-- A flag that is cleared reads 0. -/
theorem bitAt_clearBit_zero (v : Nat) : bitAt (clearBit 0 v % 65536) 0 = false := by
  by_cases h : v % 2 = 1
  · simp [clearBit, bitAt, h]
    omega
  · simp [clearBit, bitAt, h]

/-- After RS_BEGIN of region 0 FW_VALID is clear (R559). -/
theorem Sec.setManifestFlags_clears (hgen : leAt x.manifest 8 8 + 1 < 2 ^ 64) :
    bitAt (leAt (x.setManifestFlags (clearBit 0)).manifest 6 2) 0 = false := by
  rw [Sec.setManifestFlags, Sec.manifest_writeManifest _ _ _ _ _ _ _ hgen, manifestBytes_flags]
  exact bitAt_clearBit_zero _

end Generations

/-! ### RELEASE stops every job (R574) -/

section Releasing
variable (w : World) (t : Sid)

/-- RELEASE's stop of one partition. -/
def World.stopRunning (t : Sid) (w : World) (p : Nat) : World := if w.jobRuns p then w.stopNow t p else w

theorem World.stopNow_job {p : Nat} (hjob : (w.part p).job = .running) (r : Nat) :
    ((w.stopNow t p).part r).job = if r = p then .stopped else (w.part r).job := by
  have hc := w.cancelDump_stopKept t p
  obtain ⟨v, -, -, hparts, o, c, h⟩ := (w.cancelDump t p).stopRun_ends p (keep := false) ((hc.job p).trans hjob)
  have hpart : (w.stopNow t p).part r = (v.updPart p Part.stopped).part r := by rw [World.stopNow, h]; rfl
  rw [hpart, v.part_updPart]
  split
  · rfl
  · rw [World.part_of_parts hparts, hc.job]

theorem World.stopRunning_kept (p : Nat) : w.memoriesKept (World.stopRunning t w p) ∧ ((World.stopRunning t w p).part p).job ≠ .running
    ∧ ∀ r, (w.part r).job ≠ .running → ((World.stopRunning t w p).part r).job ≠ .running := by
  unfold World.stopRunning
  split
  next h =>
    have hjob : (w.part p).job = .running := of_decide_eq_true h
    refine ⟨(w.stopNow_kept t p hjob).2.2.2, by rw [w.stopNow_job t hjob, if_pos rfl]; decide, fun r hr => ?_⟩
    rw [w.stopNow_job t hjob]
    split
    · decide
    · exact hr
  next h => exact ⟨w.memoriesKept_refl, fun e => h (decide_eq_true e), fun _ hr => hr⟩

theorem World.stopAll_kept : ∀ (ps : List Nat) (w : World), w.memoriesKept (ps.foldl (World.stopRunning t) w)
    ∧ (∀ p ∈ ps, ((ps.foldl (World.stopRunning t) w).part p).job ≠ .running)
    ∧ ∀ r, (w.part r).job ≠ .running → ((ps.foldl (World.stopRunning t) w).part r).job ≠ .running
  | [], w => ⟨w.memoriesKept_refl, fun _ h => absurd h List.not_mem_nil, fun _ h => h⟩
  | p :: ps, w => by
    obtain ⟨hm, hp, hr⟩ := w.stopRunning_kept t p
    obtain ⟨im, ip, ir⟩ := World.stopAll_kept ps (World.stopRunning t w p)
    refine ⟨hm.trans im, fun x hx => ?_, fun r h => ir r (hr r h)⟩
    rcases List.mem_cons.mp hx with rfl | hx
    · exact ir x hp
    · exact ip x hx

end Releasing

section RecipeRequests
variable (u : State) (q : Parcel) (job : Option Nat)

theorem doRsBegin_begins (hrs : u.w.uzo.rs = none) (hr : leAt q.payload 0 1 ≤ 2) (hn : leAt q.payload 8 8 ≤ regionSize (leAt q.payload 0 1)) :
    doRsBegin job none q u = ((if leAt q.payload 0 1 = 0 then { u with sec := u.sec.setManifestFlags (clearBit 0) } else u).setRs
      (some { region := leAt q.payload 0 1, length := leAt q.payload 8 8 })).respond none 0x60 q stOk := by
  simp only [doRsBegin]
  rw [if_neg (by simp [hrs]), if_neg (by omega), if_neg (by omega), if_neg (by omega)]

theorem doRsData_writes {x : RsSession} (hx : u.w.uzo.rs = some x) (hoff : leAt q.payload 0 8 = x.received)
    (hlen : x.received + (q.payload.length - 8) ≤ x.length) : doRsData false job none q u =
      (State.setRs { u with sec := { u.sec with flash := u.sec.flash.write (regionBase x.region + x.received) (q.payload.drop 8) } }
        (some { x with received := x.received + (q.payload.drop 8).length })).respond none 0x61 q stOk := by
  simp only [doRsData, hx]
  rw [if_neg (by rw [List.length_drop]; omega)]
  rfl

theorem doRsData_without_spares {x : RsSession} (hx : u.w.uzo.rs = some x) (hoff : leAt q.payload 0 8 = x.received)
    (hlen : x.received + (q.payload.length - 8) ≤ x.length) : doRsData true job none q u =
      State.respond { u with sec := { u.sec with sparesOut := true } } none 0x61 q stRange := by
  simp only [doRsData, hx]
  rw [if_neg (by rw [List.length_drop]; omega)]
  rfl

theorem doRsEnd_commits {x : RsSession} (boot : BootIn) (hx : u.w.uzo.rs = some x) (hr : x.region ≠ 0) (hrec : u.sec.recovery = false) :
    doRsEnd boot job none q u = State.respond { u.setRs none with
      sec := u.sec.commitRegion x.region x.length (shake256 (u.sec.flash.read (regionBase x.region) x.length)) } none 0x62 q stOk := by
  simp only [doRsEnd, hx, if_neg hr]
  exact if_neg (fun h : u.sec.recovery = true => by rw [hrec] at h; cases h)

theorem doRsEnd_fails {x : RsSession} {cause : Nat} (boot : BootIn) (hx : u.w.uzo.rs = some x) (hr : x.region = 0)
    (hc : imageCause (shake256 (u.sec.flash.read (regionBase x.region) x.length)) u.sec.rollbackFloor.body
      (u.sec.flash.read (regionBase x.region) x.length) x.length = some cause) :
    doRsEnd boot job none q u = (u.setRs none).onWorld fun w => w.sendParcel (reply 0x62 q stVerify cause []) := by
  have hc' : (if x.region = 0 then imageCause (shake256 (u.sec.flash.read (regionBase x.region) x.length)) (u.setRs none).sec.rollbackFloor.body
      (u.sec.flash.read (regionBase x.region) x.length) x.length else none) = some cause := (if_pos hr).trans hc
  simp only [doRsEnd, hx, hc', World.answer_link _ _ _ _ _ _ (b := []) (by simp)]
  rfl

theorem doFloor_raises (hlo : u.sec.floor ≤ leAt q.payload 0 1) (hhi : leAt q.payload 0 1 ≤ bitsAt u.sec.fwVersion.toNat 24 8) :
    doFloor job none q u = State.respond
      { u with sec := { u.sec with rollbackFloor := u.sec.rollbackFloor.write [BitVec.ofNat 8 (leAt q.payload 0 1)] } } none 0x74 q stOk :=
  if_neg (by omega)

theorem doFloor_refused (h : bitsAt u.sec.fwVersion.toNat 24 8 < leAt q.payload 0 1 ∨ leAt q.payload 0 1 < u.sec.floor) :
    doFloor job none q u = u.respond none 0x74 q stRange := if_pos h

theorem doRelease_eq : doRelease job none q u = State.respond { u with
      sec := { u.sec with owner := u.sec.owner.write (List.replicate 40 0) }
      w := (List.range 4).foldl (World.stopRunning u.sid) u.w } none 0x73 q stOk := rfl

theorem leNat_lt : ∀ bs : List Byte, leNat bs < 256 ^ bs.length
  | [] => Nat.one_pos
  | b :: bs => by
    have := leNat_lt bs
    have hb := b.isLt
    rw [leNat, List.length_cons, Nat.pow_succ]
    omega

theorem leAt_lt (b : List Byte) (o n : Nat) : leAt b o n < 256 ^ n := by
  have := leNat_lt (slice b o n)
  rwa [length_slice] at this

/-- A byte of a payload, written as the only byte of a record, reads back. -/
theorem leAt_singleton (b : List Byte) (o : Nat) : leAt [BitVec.ofNat 8 (leAt b o 1)] 0 1 = leAt b o 1 := by
  have h := leAt_lt b o 1
  generalize leAt b o 1 = n at *
  simp only [leAt, slice, List.drop_zero, List.take_succ_cons, List.take_zero, List.length_singleton, Nat.sub_self, List.replicate_zero, List.append_nil,
    leNat, BitVec.toNat_ofNat]
  omega

/-- The key that a CLAIM's record holds. -/
theorem slice_ownerRecord (key : List Byte) (h : key.length = 32) : slice (1 :: List.replicate 7 0 ++ key) 8 32 = key := by
  simp [slice, h, List.take_of_length_le (Nat.le_of_eq h)]

end RecipeRequests

/-- Settles O15. -/
theorem recipeStoreAndKeysAreRecorded : Obligations.RecipeStoreAndKeysAreRecorded := by
  refine ⟨fun s q seq => ?_, fun s q seq => ?_⟩
  · have hout := s.heard_out q seq
    have hrs : (s.heard q seq).w.uzo.rs = s.w.uzo.rs := by rw [s.heard_uzo]
    refine ⟨fun hh hnone hr hn hgen => next_of_hears doRsBegin hh ?_,
      fun x hh hx hoff hlen => ⟨next_of_hears (doRsData false) hh ?_, next_of_hears (doRsData true) hh ?_⟩, fun boot x hh hx hrec => ?_⟩
    · rw [doRsBegin_begins _ q _ (hrs.trans hnone) hr hn, State.respond_link]
      by_cases h0 : leAt q.payload 0 1 = 0
      · have hclear := Sec.setManifestFlags_clears hgen
        rw [if_pos h0, show (s.heard q seq).sec = s.sec from rfl]
        generalize s.sec.setManifestFlags (clearBit 0) = x at *
        exact ⟨rfl, rfl, rfl, fun h => absurd h0 h, fun _ => hclear, congrArg (· ++ _) hout⟩
      · rw [if_neg h0]
        exact ⟨rfl, rfl, rfl, fun _ => rfl, fun h => absurd h h0, congrArg (· ++ _) hout⟩
    · rw [doRsData_writes _ q _ (hrs.trans hx) hoff hlen, State.respond_link, List.length_drop, show (s.heard q seq).sec = s.sec from rfl]
      have hin := Memory.byte_write (q.payload.drop 8) s.sec.flash (regionBase x.region + x.received)
      have houtside := Memory.byte_write_outside (q.payload.drop 8) s.sec.flash (regionBase x.region + x.received)
      rw [List.length_drop] at hin houtside
      generalize s.sec.flash.write (regionBase x.region + x.received) (q.payload.drop 8) = m at *
      exact ⟨rfl, rfl, fun i hi => (hin i hi).trans (by simp [List.getD]), houtside, rfl, congrArg (· ++ _) hout⟩
    · rw [doRsData_without_spares _ q _ (hrs.trans hx) hoff hlen, State.respond_link]
      exact ⟨rfl, congrArg (· ++ _) hout⟩
    · refine ⟨fun hr => next_of_hears (doRsEnd boot) hh ?_, fun cause hr hc => next_of_hears (doRsEnd boot) hh ?_⟩
      · rw [doRsEnd_commits _ q _ boot (hrs.trans hx) hr hrec, State.respond_link, show (s.heard q seq).sec = s.sec from rfl]
        generalize s.sec.commitRegion x.region x.length (shake256 (s.sec.flash.read (regionBase x.region) x.length)) = y
        exact ⟨rfl, rfl, rfl, rfl, congrArg (· ++ _) hout⟩
      · rw [doRsEnd_fails _ q _ boot (hrs.trans hx) hr hc]
        exact ⟨⟨rfl, rfl, rfl, rfl⟩, rfl, congrArg (· ++ _) hout⟩
  · have hout := s.heard_out q seq
    have hw := s.heard_memories q seq
    refine ⟨fun hh h0 h1 h2 => next_of_hears doKey hh ?_, fun hh => next_of_hears doJobKey hh ?_, fun hh hc => next_of_hears doClaim hh ?_,
      fun hh => next_of_hears doRelease hh ?_, fun hh => ⟨fun hlo hhi => next_of_hears doFloor hh ?_, fun h => next_of_hears doFloor hh ?_⟩⟩
    · simp only [doKey]
      rw [if_neg (by omega), State.respond_link]
      exact ⟨⟨rfl, rfl, rfl, rfl⟩, ⟨_, List.mem_append_right _ (List.mem_singleton_self _), rfl, rfl, rfl, rfl⟩, congrArg (· ++ _) hout⟩
    · rw [doJobKey, State.respond_link]
      exact ⟨⟨rfl, rfl, rfl, rfl⟩, by simp only [World.sendParcel_part, State.onWorld_w, World.part_updPart_self], congrArg (· ++ _) hout⟩
    · have hc' : ¬ (s.heard q seq).sec.claimed = true := fun h => by rw [show (s.heard q seq).sec = s.sec from rfl, hc] at h; cases h
      rw [doClaim, if_neg hc', State.respond_link]
      refine ⟨?_, ?_, rfl, congrArg (· ++ _) hout⟩
      · simp only [Sec.claimed, MramRecord.body_write]
        simp [leAt, slice, leNat]
      · simp only [Sec.ownerKey, MramRecord.body_write]
        exact slice_ownerRecord _ (length_slice _ _ _)
    · obtain ⟨hm, hj, -⟩ := World.stopAll_kept s.sid (List.range 4) (s.heard q seq).w
      rw [doRelease_eq, State.respond_link, show (s.heard q seq).sid = s.sid from rfl]
      generalize (List.range 4).foldl (World.stopRunning s.sid) (s.heard q seq).w = v at *
      refine ⟨?_, ?_, rfl, fun p hp => hj p (List.mem_range.mpr hp), hw.trans hm, List.getLast?_concat⟩
      · simp only [Sec.claimed, MramRecord.body_write]
        decide
      · simp only [Sec.ownerKey, MramRecord.body_write]
        decide
    · rw [doFloor_raises (s.heard q seq) q _ hlo hhi, State.respond_link]
      refine ⟨?_, rfl, congrArg (· ++ _) hout⟩
      simp only [Sec.floor, MramRecord.body_write]
      exact leAt_singleton _ _
    · rw [doFloor_refused (s.heard q seq) q _ h, State.respond_link]
      exact ⟨rfl, congrArg (· ++ _) hout⟩

end Sys2Proof.Machine

namespace Sys2Proof.Machine

/-! ### The watchdog of the management controller (R567, R584) -/

section Watchdog
variable {s : State}

/-- The expiries that count after one more: those of the last 600 s, and this one. -/
def Sec.expired (x : Sec) : Sec := { x with expiries := (x.expiries.filter fun a => decide (x.timer < a + expirySpan)) ++ [x.timer] }

theorem Sec.recentExpiries_expired (x : Sec) : x.expired.recentExpiries = x.recentExpiries + 1 := by
  have hspan : x.timer < x.timer + expirySpan := Nat.lt_add_of_pos_right (by decide)
  show (((x.expiries.filter fun a => decide (x.timer < a + expirySpan)) ++ [x.timer]).filter fun a => decide (x.timer < a + expirySpan)).length
    = (x.expiries.filter fun a => decide (x.timer < a + expirySpan)).length + 1
  simp [List.filter_append, List.filter_filter, hspan]

/-- The world after an expiry: no request is in progress, and MGC_RESTART is raised. -/
def State.restartMgc (s : State) : World :=
  ((s.w.updUzo fun u => { u with regWaits := [], restoreWait := none }).tick .mgc 0 0x080).raise s.sid (ioSource 7) 0x161
    (s.sec.expired.recentExpiries % 2 ^ 8)

theorem execMgcWatchdogExpiry_expires (hp : s.pwr.phase ≠ .off) (hrun : s.sec.mgcRunning = true) (hheld : s.sec.mgcHeld = false)
    (hlate : s.sec.lastKick + max 100 (s.w.regField (Block.mgc.addr 0 0x000) 0 16) * 1000000 ≤ s.sec.timer) :
    exec .mgcWatchdogExpiry s = .next { s with
      sec := { s.sec.expired with mgcHeld := decide (3 ≤ s.sec.expired.recentExpiries), lastKick := s.sec.timer
                                  signQueue := s.sec.signQueue.filter fun r => !isAttest r }
      w := if decide (3 ≤ s.sec.expired.recentExpiries) = true then s.restartMgc.setAlert 8 else s.restartMgc } := by
  have hgo : ¬ (s.powered = false ∨ s.sec.mgcRunning = false ∨ s.sec.mgcHeld = true ∨ s.sec.timer < s.sec.lastKick + s.w.wdtSpan) := by
    simp only [State.powered_of_not_off hp, hrun, hheld, World.wdtSpan]
    simp
    exact hlate
  simp only [exec, execMgcWatchdogExpiry, if_neg hgo]
  rfl

/-- What an expiry leaves of the world, whether the MGC is held or not. -/
theorem State.restartMgc_kept (held : Bool) (hf : s.w.forwards 2) :
    let v := if held = true then s.restartMgc.setAlert 8 else s.restartMgc
    s.w.raised v (ioSource 7) 0x161 (s.sec.expired.recentExpiries % 2 ^ 8) ∧ v.uzo.regWaits = [] ∧ (∀ p, (v.part p).job = (s.w.part p).job)
      ∧ v.cores = s.w.cores ∧ s.w.memoriesKept v ∧ v.uzo.light = s.w.uzo.light ∧ v.uzo.training = s.w.uzo.training := by
  have hraised : s.w.raised s.restartMgc (ioSource 7) 0x161 (s.sec.expired.recentExpiries % 2 ^ 8) :=
    World.raise_raised ((s.w.updUzo fun u => { u with regWaits := [], restoreWait := none }).tick .mgc 0 0x080) s.sid hf (by decide) (by decide)
  have hn : s.restartMgc.notedFrom ((s.w.updUzo fun u => { u with regWaits := [], restoreWait := none }).tick .mgc 0 0x080) := World.raise_noted _ _ _ _ _
  have huzo : s.restartMgc.uzo.regWaits = [] ∧ s.restartMgc.uzo.light = s.w.uzo.light ∧ s.restartMgc.uzo.training = s.w.uzo.training := by
    obtain ⟨⟨c, ps, u, st, ta, tr, h⟩, -⟩ := hn
    rw [h]
    exact ⟨rfl, rfl, rfl⟩
  have hjob := hn.job
  have hcores := hn.cores
  have hmem := hn.memories
  generalize s.restartMgc = v at *
  obtain ⟨hwaits, hlight, htrain⟩ := huzo
  cases held
  · exact ⟨hraised, hwaits, hjob, hcores, hmem, hlight, htrain⟩
  · refine ⟨?_, ?_, fun p => ?_, ?_, World.memoriesKept.trans hmem (v.setAlert_memories 8), ?_, ?_⟩
    · rw [if_pos rfl, World.raised, v.setAlert_uzo]; exact hraised
    · rw [if_pos rfl, v.setAlert_uzo]; exact hwaits
    · rw [if_pos rfl, World.part_of_parts (v.setAlert_parts 8)]; exact hjob p
    · obtain ⟨l, h⟩ := v.setAlert_eq 8
      rw [if_pos rfl, h]; exact hcores
    · rw [if_pos rfl, v.setAlert_uzo]; exact hlight
    · rw [if_pos rfl, v.setAlert_uzo]; exact htrain

end Watchdog

/-- Settles O17. -/
theorem watchdogRestartsOrHolds : Obligations.WatchdogRestartsOrHolds := by
  intro s hp hrun hheld
  refine ⟨congrArg Host.Outcome.next (if_pos ⟨hrun, hheld⟩), fun hlate hf => ⟨_, execMgcWatchdogExpiry_expires hp hrun hheld hlate, ?_⟩⟩
  obtain ⟨h1, h2, h3, h4, h5, h6, h7⟩ := State.restartMgc_kept (s := s) (decide (3 ≤ s.sec.expired.recentExpiries)) hf
  have hcount := s.sec.recentExpiries_expired
  refine ⟨by rw [← hcount]; exact h1, rfl, ?_, h2, fun r hr => ?_, h3, h4, h5, rfl, fun h8 hlight htrain => ?_⟩
  · rw [decide_eq_true_eq, hcount]
    omega
  · simpa using (List.mem_filter.mp hr).2
  · rw [State.uzoStatus_low, if_neg (by rw [h6, hlight]; decide), if_neg (by rw [h7, htrain]; decide)]
    exact if_pos h8

end Sys2Proof.Machine

namespace Sys2Proof.Machine

/-! ### Commands of a sequencer: what reaches beyond its core (R50, R54, R73) -/

/-- Of the cores only `c` differs; memories, clusters, flows, dies and registers are the same. -/
structure World.CoreOnly (w v : World) (c : Nat) : Prop where
  memories : w.memoriesKept v
  clusters : v.clusters = w.clusters
  flows : v.flows = w.flows
  dies : v.dies = w.dies
  regs : v.regs = w.regs
  cores : ∀ d, d ≠ c → v.core d = w.core d

section CoreOnly
variable {w v u : World} {c : Nat}

theorem World.CoreOnly.trans (h : w.CoreOnly v c) (g : v.CoreOnly u c) : w.CoreOnly u c :=
  ⟨h.memories.trans g.memories, g.clusters.trans h.clusters, g.flows.trans h.flows, g.dies.trans h.dies, g.regs.trans h.regs,
    fun d hd => (g.cores d hd).trans (h.cores d hd)⟩

theorem World.CoreOnly.of_noted (h : v.notedFrom w) (c : Nat) : w.CoreOnly v c :=
  ⟨h.memories, h.clusters, h.flows, h.dies, h.regs, fun d _ => h.core d⟩

theorem World.CoreOnly.onlyCore {s : State} {v : World} (h : s.w.CoreOnly v c) : s.onlyCore { s with w := v } c :=
  ⟨⟨rfl, rfl, rfl, rfl⟩, h.memories, h.clusters, h.flows, h.dies, h.regs, h.cores⟩

variable (w c) (t : Sid)

theorem World.CoreOnly.refl : w.CoreOnly w c := .of_noted w.notedFrom_refl c

theorem World.updCore_coreOnly (f : Core → Core) : w.CoreOnly (w.updCore c f) c :=
  ⟨⟨rfl, rfl, rfl, rfl⟩, rfl, rfl, rfl, rfl, fun d hd => by rw [World.core_updCore, if_neg hd]⟩

theorem World.tick_coreOnly (b : Block) (i off : Nat) : w.CoreOnly (w.tick b i off) c := .of_noted (w.tick_noted b i off) c

theorem World.updPart_coreOnly (p : Nat) (f : Part → Part) : w.CoreOnly (w.updPart p f) c :=
  ⟨⟨rfl, rfl, rfl, rfl⟩, rfl, rfl, rfl, rfl, fun _ _ => rfl⟩

theorem World.progressed_coreOnly (p : Nat) : w.CoreOnly (w.progressed t p) c := w.updPart_coreOnly c p _

theorem World.retire_coreOnly : w.CoreOnly (w.retire t c) c :=
  ((w.updCore_coreOnly c _).trans (World.tick_coreOnly _ c _ _ _)).trans (World.progressed_coreOnly _ c t _)

theorem World.holdSeq_coreOnly (st : SeqState) (h : Held) : w.CoreOnly (w.holdSeq t c st h) c :=
  (w.updCore_coreOnly c _).trans (.of_noted (World.holdRecord_noted _ t _ _ _) c)

theorem World.endHold_coreOnly : w.CoreOnly (w.endHold t c) c :=
  (CoreOnly.of_noted (World.holdRecord_noted _ t _ _ _) c).trans (World.retire_coreOnly _ c t)

theorem World.syncRecord_coreOnly (src what i n : Nat) : w.CoreOnly (w.syncRecord t src what i n) c := .of_noted (World.act_noted _ t _ _ _ _ _ _) c

/-- A command after which its core is as `f` makes it has been executed. -/
def World.goOn (w : World) (t : Sid) (c : Nat) (f : Core → Core) : World :=
  ((w.updCore c f).tick .seq c 0x068).progressed t (w.partOfCore c)

theorem World.goOn_coreOnly (f : Core → Core) : w.CoreOnly (w.goOn t c f) c :=
  ((w.updCore_coreOnly c f).trans (World.tick_coreOnly _ c _ _ _)).trans (World.progressed_coreOnly _ c t _)

theorem World.core_goOn (f : Core → Core) : (w.goOn t c f).core c = f (w.core c) := by
  show (w.updCore c f).core c = _
  rw [World.core_updCore, if_pos rfl]

theorem World.counter_goOn (f : Core → Core) : (w.goOn t c f).counter .seq c 0x068 = w.counter .seq c 0x068 + 1 :=
  World.counter_tick_self (w.updCore c f) .seq c 0x068

theorem World.counter_retire : (w.retire t c).counter .seq c 0x068 = w.counter .seq c 0x068 + 1 :=
  World.counter_tick_self (w.updCore c Core.advance) .seq c 0x068

theorem World.retire_out : (w.retire t c).out = w.out := rfl
theorem World.retire_uzo : (w.retire t c).uzo = w.uzo := rfl

end CoreOnly

section Ready
variable {s : State} {c : Nat}

/-- A command of a sequencer that executes its next command now. -/
theorem State.serve_seqRun (hs : s.inService = true) (hr : s.w.seqReady c = true) (f : World → World) :
    (s.serve fun w => w.seqRun c f) = { s with w := f s.w } := by
  rw [s.serve_of_inService hs, State.onWorld, World.seqRun, if_pos hr]

/-- A command that retires, after a change of its core alone. -/
theorem State.retired_updCore (f : Core → Core) : s.retired { s with w := (s.w.updCore c f).retire s.sid c } c :=
  ⟨((s.w.updCore_coreOnly c f).trans (World.retire_coreOnly _ c s.sid)).onlyCore, World.counter_retire _ c s.sid⟩

theorem World.core_retire_updCore (w : World) (t : Sid) (f : Core → Core) : ((w.updCore c f).retire t c).core c = (f (w.core c)).advance := by
  rw [World.core_retire, if_pos rfl, World.core_updCore, if_pos rfl]

end Ready

/-! #### Loops and branches (R54 to R57) -/

section Loops

theorem loopEndStep_of_none {loops : AMap LoopCtr} {pc : Nat} (h : ∀ l ∈ loops, ¬ (l.2.active = true ∧ l.2.endPc = pc)) (n : Nat) :
    loopEndStep loops pc n = (pc + 1, loops) := by
  have hnil : (loops.filter fun l => l.2.active && decide (l.2.endPc = pc)) = [] := by
    rw [List.filter_eq_nil_iff]
    intro l hl hboth
    exact h l hl (by simpa using hboth)
  cases n with
  | zero => rfl
  | succ n => simp only [loopEndStep, hnil, List.foldl_nil]

theorem loopEndStep_of_one {i : Nat} {l : LoopCtr} (hl : l.active = true) (n : Nat) : loopEndStep [(i, l)] l.endPc (n + 1) =
    if l.value + 1 < l.count then (l.start, AMap.set {} [(i, l)] i { l with value := l.value + 1 })
    else loopEndStep (AMap.set {} [(i, l)] i {}) l.endPc n := by
  simp [loopEndStep, hl]

theorem Core.advance_of_noLoopEnd {x : Core} (h : ∀ l ∈ x.loops, ¬ (l.2.active = true ∧ l.2.endPc = x.pc)) :
    x.advance.pc = x.pc + 1 ∧ x.advance.loops = x.loops := by
  simp only [Core.advance, loopEndStep_of_none h, and_self]

/-- The end of the one loop of a core: its body begins again, or the loop ends (R54). -/
theorem Core.advance_of_loopEnd {x : Core} {i : Nat} {l : LoopCtr} (hx : x.loops = [(i, l)]) (hl : l.active = true) (he : l.endPc = x.pc) :
    (l.value + 1 < l.count → x.advance.pc = l.start ∧ AMap.get {} x.advance.loops i = { l with value := l.value + 1 })
      ∧ (l.count ≤ l.value + 1 → x.advance.pc = x.pc + 1 ∧ AMap.get {} x.advance.loops i = {}) := by
  have hone := loopEndStep_of_one (i := i) hl 7
  refine ⟨fun h => ?_, fun h => ?_⟩
  · rw [if_pos h] at hone
    simp only [Core.advance, hx, ← he, hone, AMap.get_set_self, and_self]
  · have hgone : AMap.set ({} : LoopCtr) [(i, l)] i {} = [] := by simp [AMap.set, AMap.drop]
    rw [if_neg (Nat.not_lt.mpr h), hgone] at hone
    have hnil := loopEndStep_of_none (loops := []) (pc := l.endPc) (fun _ h => absurd h List.not_mem_nil) 7
    simp only [Core.advance, hx, ← he, hone, hnil, AMap.get, and_self]

/-- What a BRANCH teaches its core is the predictors' alone (R63). -/
theorem Core.learn_eq (x : Core) (cond : Nat) (sense : Bool) (target : Nat) (taken : Bool) :
    ∃ b k e, x.learn cond sense target taken = { x with bp := b, takes := k, exits := e } := by
  unfold Core.learn
  extract_lets i v c1 run entry rest
  have h1 : ∃ b, c1 = { x with bp := b } := by
    simp only [c1]
    split
    · exact ⟨x.bp, rfl⟩
    · exact ⟨_, rfl⟩
  obtain ⟨b, h1⟩ := h1
  split
  · split
    · exact ⟨b, _, _, by rw [h1]⟩
    · exact ⟨b, _, _, by rw [h1]⟩
  · exact ⟨b, x.takes, x.exits, h1⟩

/-- A core whose BRANCH is taken. -/
def Core.jump (x : Core) (target : Nat) : Core :=
  { x with pc := target, loops := leaveLoops x.loops target, single := false, seq := if x.stop then .stopped else .running }

end Loops

/-! #### The program condition bits (R58) -/

/-- The condition bits after a SETCC. -/
def setProgramBits (cc : BitVec 16) (mask value : BitVec 7) : BitVec 16 :=
  (cc &&& ~~~ (BitVec.ofNat 16 (mask.toNat * 2 ^ 8))) ||| BitVec.ofNat 16 ((value &&& mask).toNat * 2 ^ 8)

theorem getLsbD_shifted (m : BitVec 7) {i : Nat} (hi : i < 16) :
    (BitVec.ofNat 16 (m.toNat * 2 ^ 8)).getLsbD i = (decide (8 ≤ i) && m.getLsbD (i - 8)) := by
  rw [BitVec.getLsbD_ofNat, decide_eq_true hi, Bool.true_and, Nat.testBit_mul_two_pow, BitVec.testBit_toNat]

theorem getLsbD_setProgramBits (cc : BitVec 16) (mask value : BitVec 7) {i : Nat} (hi : i < 16) :
    (setProgramBits cc mask value).getLsbD i = if 8 ≤ i ∧ mask.getLsbD (i - 8) = true then value.getLsbD (i - 8) else cc.getLsbD i := by
  rw [setProgramBits, BitVec.getLsbD_or, BitVec.getLsbD_and, BitVec.getLsbD_not, getLsbD_shifted _ hi, getLsbD_shifted _ hi, BitVec.getLsbD_and,
    decide_eq_true hi]
  by_cases h8 : 8 ≤ i <;> cases hm : mask.getLsbD (i - 8) <;> simp [h8]

/-- The world once a BRANCH is resolved: a wrong guess is counted, and the predictors have learned (R61 to R63). -/
def World.guessed (w : World) (c cond : Nat) (sense : Bool) (target : Nat) (taken : Bool) : World :=
  let guess := (w.core c).predicts (decide (w.regField (Block.seq.addr c 0x000) 2 1 = 1)) cond sense target
  (if guess = taken then w else w.tick .seq c 0x060).updCore c fun y => y.learn cond sense target taken

section Guessed
variable (w : World) (c cond : Nat) (sense : Bool) (target : Nat) (taken : Bool)

theorem World.guessed_coreOnly : w.CoreOnly (w.guessed c cond sense target taken) c := by
  refine World.CoreOnly.trans ?_ (World.updCore_coreOnly _ c _)
  split
  · exact .refl w c
  · exact w.tick_coreOnly c _ _ _

theorem World.core_guessed : (w.guessed c cond sense target taken).core c = (w.core c).learn cond sense target taken := by
  rw [World.guessed, World.core_updCore, if_pos rfl]
  split <;> rfl

theorem World.counter_guessed : (w.guessed c cond sense target taken).counter .seq c 0x068 = w.counter .seq c 0x068 := by
  unfold World.guessed
  dsimp only
  split
  · rfl
  · exact World.counter_tick_ne w (b := .seq) (b' := .seq) (i := c) (j := c) (by decide) (by decide) (by decide)

end Guessed

/-- The count of a LOOP (R54). -/
def Core.loopTimes (x : Core) (n : BitVec 24) (fromWork : Bool) (word : Fin 8) : Nat :=
  if fromWork then (x.slot.getD word.val 0).toNat % 2 ^ 24 else n.toNat

/-- A core that begins a loop at the command behind `pc`. -/
def Core.beginLoop (x : Core) (k n pc e : Nat) : Core :=
  { x with pc := pc + 1, seq := if x.stop then .stopped else .running, single := false
           loops := AMap.set {} x.loops k { value := 0, count := n, start := pc + 1, endPc := e, active := true } }

section Commands
variable {s : State} {core : CoreId} (hs : s.inService = true) (hr : s.w.seqReady core.val = true)
include hs hr

theorem exec_nop_of_ready : exec (.nop core) s = .next { s with w := s.w.retire s.sid core.val } :=
  congrArg Host.Outcome.next (s.serve_seqRun hs hr _)

theorem exec_setcc_of_ready (mask value : BitVec 7) : exec (.setcc core mask value) s =
    .next { s with w := (s.w.updCore core.val fun x => { x with cc := setProgramBits x.cc mask value }).retire s.sid core.val } :=
  congrArg Host.Outcome.next (s.serve_seqRun hs hr _)

theorem exec_raise_of_ready (code : BitVec 8) (payload : BitVec 32) : exec (.raise core code payload) s =
    .next { s with w := (s.w.raise s.sid (coreSource 0 core.val) code.toNat payload.toNat).retire s.sid core.val } :=
  congrArg Host.Outcome.next (s.serve_seqRun hs hr _)

theorem exec_branch_taken {cond : Fin 16} {sense : Bool} (target : Fin 8192) (h : (s.w.core core.val).condition cond.val = sense) :
    exec (.branch core cond sense target) s = .next { s with 
      w := (s.w.guessed core.val cond.val sense target.val true).goOn s.sid core.val (Core.jump · target.val) } := by
  refine (congrArg Host.Outcome.next (s.serve_seqRun hs hr _)).trans ?_
  simp only [decide_eq_true h, if_true]
  rw [World.guessed]
  split <;> rfl

theorem exec_branch_not_taken {cond : Fin 16} {sense : Bool} (target : Fin 8192) (h : (s.w.core core.val).condition cond.val ≠ sense) :
    exec (.branch core cond sense target) s = .next { s with w := (s.w.guessed core.val cond.val sense target.val false).retire s.sid core.val } := by
  refine (congrArg Host.Outcome.next (s.serve_seqRun hs hr _)).trans ?_
  simp only [decide_eq_false h, Bool.false_eq_true, if_false]
  rfl

theorem exec_loop_begins {k : Fin 8} {n : BitVec 24} {e : Fin 8192} {fromWork : Bool} {word : Fin 8}
    (h : (s.w.core core.val).loopTimes n fromWork word ≠ 0) : exec (.loop core k n e fromWork word) s = .next { s with
      w := s.w.goOn s.sid core.val (Core.beginLoop · k.val ((s.w.core core.val).loopTimes n fromWork word) (s.w.core core.val).pc e.val) } :=
  (congrArg Host.Outcome.next (s.serve_seqRun hs hr _)).trans (congrArg (fun w => Host.Outcome.next { s with w := w }) (if_neg h))

theorem exec_loop_skipped {k : Fin 8} {n : BitVec 24} {e : Fin 8192} {fromWork : Bool} {word : Fin 8}
    (h : (s.w.core core.val).loopTimes n fromWork word = 0) : exec (.loop core k n e fromWork word) s = .next { s with
      w := (s.w.updCore core.val fun x => { x with pc := e.val }).retire s.sid core.val } :=
  (congrArg Host.Outcome.next (s.serve_seqRun hs hr _)).trans (congrArg (fun w => Host.Outcome.next { s with w := w }) (if_pos h))

end Commands

theorem coreSource_lt (core : CoreId) : coreSource 0 core.val < 65536 := by
  have := core.isLt
  simp only [coreSource, sourceOf, dieOfCore, clusterOfCore]
  omega

/-- Settles O18. -/
theorem plainCommandsAdvanceSequencer : Obligations.PlainCommandsAdvanceSequencer := by
  refine ⟨fun s core hs hr => ?_, fun x => ⟨Core.advance_of_noLoopEnd, fun i l => Core.advance_of_loopEnd⟩⟩
  dsimp only
  refine ⟨⟨_, exec_nop_of_ready hs hr, ?_, ?_, rfl⟩, fun mask value => ⟨_, exec_setcc_of_ready hs hr mask value, s.retired_updCore _, ?_, fun i hi => ?_⟩,
    fun cond sense target => ?_, fun k n e fromWork word => ?_, fun code payload => ⟨_, exec_raise_of_ready hs hr code payload, ?_, ?_, ?_⟩⟩
  · exact ⟨(s.w.retire_coreOnly core.val s.sid).onlyCore, s.w.counter_retire core.val s.sid⟩
  · rw [World.core_retire, if_pos rfl]
  · rw [World.core_retire_updCore]
    rfl
  · rw [World.core_retire_updCore]
    exact getLsbD_setProgramBits _ _ _ hi
  · by_cases h : (s.w.core core.val).condition cond.val = sense
    · refine ⟨_, exec_branch_taken hs hr target h, ?_⟩
      have honly := s.w.guessed_coreOnly core.val cond.val sense target.val true
      have hcore := s.w.core_guessed core.val cond.val sense target.val true
      have hcount := s.w.counter_guessed core.val cond.val sense target.val true
      obtain ⟨b, t, ex, hl⟩ := (s.w.core core.val).learn_eq cond.val sense target.val true
      rw [hl] at hcore
      generalize s.w.guessed core.val cond.val sense target.val true = v at *
      refine ⟨⟨(honly.trans (v.goOn_coreOnly core.val s.sid _)).onlyCore, (v.counter_goOn core.val s.sid _).trans (by rw [hcount]; rfl)⟩, ?_, ?_,
        fun _ => ?_, fun h' => absurd h h'⟩
      all_goals rw [World.core_goOn, hcore]
      · rfl
      · rfl
      · exact ⟨rfl, rfl⟩
    · refine ⟨_, exec_branch_not_taken hs hr target h, ?_⟩
      have honly := s.w.guessed_coreOnly core.val cond.val sense target.val false
      have hcore := s.w.core_guessed core.val cond.val sense target.val false
      have hcount := s.w.counter_guessed core.val cond.val sense target.val false
      obtain ⟨b, t, ex, hl⟩ := (s.w.core core.val).learn_eq cond.val sense target.val false
      rw [hl] at hcore
      generalize s.w.guessed core.val cond.val sense target.val false = v at *
      refine ⟨⟨(honly.trans (v.retire_coreOnly core.val s.sid)).onlyCore, (v.counter_retire core.val s.sid).trans (by rw [hcount]; rfl)⟩, ?_, ?_,
        fun h' => absurd h' h, fun _ => ?_⟩
      all_goals rw [World.core_retire, if_pos rfl, hcore]
      · rfl
      · rfl
      · exact ⟨rfl, rfl⟩
  · by_cases h : (s.w.core core.val).loopTimes n fromWork word = 0
    · refine ⟨_, exec_loop_skipped hs hr h, s.retired_updCore _, fun h' => absurd h h', fun _ => ?_⟩
      rw [World.core_retire_updCore]
    · refine ⟨_, exec_loop_begins hs hr h, ⟨(s.w.goOn_coreOnly core.val s.sid _).onlyCore, s.w.counter_goOn core.val s.sid _⟩, fun _ => ?_, fun h' => absurd h' h⟩
      rw [World.core_goOn]
      exact ⟨rfl, rfl, AMap.get_set_self _ _ _ _⟩
  · have hn := s.w.raise_Noted s.sid (coreSource 0 core.val) code.toNat payload.toNat
    have hcount : (s.w.raise s.sid (coreSource 0 core.val) code.toNat payload.toNat).counter .seq core.val 0x068 = s.w.counter .seq core.val 0x068 :=
      hn.counter _ (not_notedCounter (by decide) (by decide) (by decide) (by decide))
    exact ⟨((World.CoreOnly.of_noted hn.noted core.val).trans (World.retire_coreOnly _ core.val s.sid)).onlyCore,
      (World.counter_retire _ core.val s.sid).trans (by rw [hcount]; rfl)⟩
  · rw [World.core_retire, if_pos rfl, (s.w.raise_noted s.sid _ _ _).core]
  · exact s.w.raise_saw s.sid (coreSource_lt core) (by omega)

end Sys2Proof.Machine

namespace Sys2Proof.Machine

/-! ### ISSUE, and commands that hold their sequencer (R52, R53, R60, R348, R355, R357) -/

/-- Operations that the AXE of a core has accepted, the started ones first. -/
def Axe.accepted (a : Axe) : List IssuedOp := a.streams.map (·.op) ++ a.pending

/-- Of the cores only `c` differs, and there only the AXE, which has accepted the same operations; memories and clusters are the same. -/
structure World.AxeOnly (w v : World) (c : Nat) : Prop where
  memories : w.memoriesKept v
  clusters : v.clusters = w.clusters
  cores : ∀ d, d ≠ c → v.core d = w.core d
  core : ∃ a : Axe, v.core c = { w.core c with axe := a } ∧ a.accepted = (w.core c).axe.accepted

/-- Operations that an engine of a core, or of its cluster, has accepted: of the AXE the started ones too. -/
def World.engineAccepted (w : World) (c : Nat) : Engine → List IssuedOp
  | .axe => (w.core c).axe.accepted
  | .mxe => (w.core c).mxe.pending
  | .vxe => (w.core c).vxe.pending
  | .gsu => (w.cluster (clusterOfCore c)).gsu.pending
  | .suq => (w.cluster (clusterOfCore c)).suq.pending
  | .smp => (w.cluster (clusterOfCore c)).smp.pending

section AxeOnly
variable {w v u : World} {c : Nat}

theorem World.AxeOnly.of_noted (h : v.notedFrom w) (c : Nat) : w.AxeOnly v c :=
  ⟨h.memories, h.clusters, fun d _ => h.core d, _, h.core c, rfl⟩

theorem World.AxeOnly.trans (h : w.AxeOnly v c) (g : v.AxeOnly u c) : w.AxeOnly u c := by
  obtain ⟨a, ha, hacc⟩ := h.core
  obtain ⟨b, hb, hbcc⟩ := g.core
  refine ⟨h.memories.trans g.memories, g.clusters.trans h.clusters, fun d hd => (g.cores d hd).trans (h.cores d hd), b, ?_, ?_⟩
  · rw [hb, ha]
  · rw [hbcc, ha, hacc]

theorem World.AxeOnly.accepted (h : w.AxeOnly v c) (e : Engine) : v.engineAccepted c e = w.engineAccepted c e := by
  obtain ⟨a, ha, hacc⟩ := h.core
  cases e <;> simp only [World.engineAccepted, World.cluster, ha, hacc, h.clusters]

variable (w c) (t : Sid)

/-- The AXE starts its first waiting operation. -/
theorem World.startStream_axeOnly {o : IssuedOp} {rest : List IssuedOp} (h : (w.core c).axe.pending = o :: rest) :
    w.AxeOnly (w.updCore c fun x => { x with axe := { x.axe with pending := rest, streams := x.axe.streams ++ [{ op := o }] } }) c := by
  refine ⟨⟨rfl, rfl, rfl, rfl⟩, rfl, fun d hd => by rw [World.core_updCore, if_neg hd], _, by rw [World.core_updCore, if_pos rfl], ?_⟩
  simp [Axe.accepted, h]

theorem World.axeStart_axeOnly (n : Nat) : w.AxeOnly (w.axeStart t c n) c := by
  induction n generalizing w with
  | zero => exact .of_noted w.notedFrom_refl c
  | succ n ih =>
    rw [World.axeStart]
    split
    · exact .of_noted w.notedFrom_refl c
    next o rest hp =>
      dsimp only
      split
      · exact .of_noted w.notedFrom_refl c
      · split
        · exact ⟨⟨rfl, rfl, rfl, rfl⟩, rfl, fun _ _ => rfl, _, rfl, rfl⟩
        · exact ((w.startStream_axeOnly c hp).trans (.of_noted (World.act_noted _ t _ _ _ _ _ _) c)).trans (ih _)

theorem World.startOps_axeOnly (e : Engine) : w.AxeOnly (w.startOps t c e) c := by
  unfold World.startOps
  split
  · exact w.axeStart_axeOnly c t _
  · exact .of_noted w.notedFrom_refl c

end AxeOnly

/-- A core that has handed an operation to one of its engines. -/
def Core.issued (x : Core) (n : Nat) : Core := { x with serial := x.serial + 1, live := x.live ++ [n] }

section Enqueue
variable (w : World) (t : Sid) (c : Nat)

@[simp] theorem World.cluster_updCore (d : Nat) (f : Core → Core) (k : Nat) : (w.updCore d f).cluster k = w.cluster k := rfl

@[simp] theorem World.cluster_updCluster_self (k : Nat) (f : Cluster → Cluster) : (w.updCluster k f).cluster k = f (w.cluster k) :=
  AMap.get_upd_self _ _ _ _

@[simp] theorem World.core_updCluster (k : Nat) (f : Cluster → Cluster) : (w.updCluster k f).core c = w.core c := rfl

/-- The world with an operation issued and in its engine's queue. -/
def World.issueTo (w : World) (c : Nat) (e : Engine) (o : IssuedOp) : World :=
  (w.updCore c fun x => { x with serial := x.serial + 1 }).enqueueOp c e o

theorem World.issueTo_memories (e : Engine) (o : IssuedOp) : w.memoriesKept (w.issueTo c e o) := by
  cases e <;> simp [World.memoriesKept, World.issueTo, World.enqueueOp]

theorem World.engineAccepted_issueTo (e : Engine) (o : IssuedOp) : (w.issueTo c e o).engineAccepted c e = w.engineAccepted c e ++ [o] := by
  unfold World.issueTo World.enqueueOp World.engineAccepted
  cases e <;> simp [World.core_updCore, Axe.accepted]

theorem World.engineAccepted_retire (e : Engine) : (w.retire t c).engineAccepted c e = w.engineAccepted c e := by
  cases e <;> simp only [World.engineAccepted, World.core_retire, if_true] <;> rfl

theorem World.engineRoom_updCore (e : Engine) (n : Nat) : (w.updCore c fun x => { x with serial := n }).engineRoom c e = w.engineRoom c e := by
  cases e with
  | axe | mxe | vxe => simp only [World.engineRoom, World.core_updCore, if_true]
  | gsu | suq | smp => rfl

theorem World.core_issueTo_ne (e : Engine) (o : IssuedOp) {d : Nat} (hd : d ≠ c) : (w.issueTo c e o).core d = w.core d := by
  cases e <;> simp [World.issueTo, World.enqueueOp, World.core_updCore, hd]

theorem World.core_issueTo_axe (o : IssuedOp) : (w.issueTo c .axe o).core c =
    { (w.core c).issued o.serial with axe := { (w.core c).axe with pending := (w.core c).axe.pending ++ [o] } } := by
  simp [World.issueTo, World.enqueueOp, World.core_updCore, Core.issued]

theorem World.core_issueTo_mxe (o : IssuedOp) : (w.issueTo c .mxe o).core c =
    { (w.core c).issued o.serial with mxe := { (w.core c).mxe with pending := (w.core c).mxe.pending ++ [o] } } := by
  simp [World.issueTo, World.enqueueOp, World.core_updCore, Core.issued]

theorem World.core_issueTo_vxe (o : IssuedOp) : (w.issueTo c .vxe o).core c =
    { (w.core c).issued o.serial with vxe := { (w.core c).vxe with pending := (w.core c).vxe.pending ++ [o] } } := by
  simp [World.issueTo, World.enqueueOp, World.core_updCore, Core.issued]

theorem World.core_issueTo_of_cluster {e : Engine} (o : IssuedOp) (h : e = .gsu ∨ e = .suq ∨ e = .smp) :
    (w.issueTo c e o).core c = (w.core c).issued o.serial := by
  obtain rfl | rfl | rfl := h <;> simp [World.issueTo, World.enqueueOp, World.core_updCore, Core.issued]

/-- What an issued operation leaves of its core: the engines aside, the serial and the operations in progress. -/
theorem World.core_issueTo (e : Engine) (o : IssuedOp) : ∃ m v a, (w.issueTo c e o).core c =
    { (w.core c).issued o.serial with mxe := m, vxe := v, axe := a } := by
  cases e with
  | mxe => exact ⟨_, _, _, w.core_issueTo_mxe c o⟩
  | vxe => exact ⟨_, _, _, w.core_issueTo_vxe c o⟩
  | axe => exact ⟨_, _, _, w.core_issueTo_axe c o⟩
  | gsu => exact ⟨_, _, _, w.core_issueTo_of_cluster c o (.inl rfl)⟩
  | suq => exact ⟨_, _, _, w.core_issueTo_of_cluster c o (.inr (.inl rfl))⟩
  | smp => exact ⟨_, _, _, w.core_issueTo_of_cluster c o (.inr (.inr rfl))⟩

end Enqueue

section Commands
variable {s : State} {core : CoreId} (hs : s.inService = true) (hr : s.w.seqReady core.val = true)
include hs hr

theorem exec_issue_of_room {e : Engine} {desc : Fin 2048} {bind : Fin 8} {done : Option WatchId} (h : s.w.engineRoom core.val e = true) :
    exec (.issue core e desc bind done) s = .next { s with
      w := ((s.w.issueTo core.val e ((s.w.core core.val).operation core.val desc.val bind.val (done.map (·.val)))).startOps s.sid core.val e).retire
        s.sid core.val } :=
  (congrArg Host.Outcome.next (s.serve_seqRun hs hr _)).trans (congrArg (fun w => Host.Outcome.next { s with w := w }) (if_pos
    ((s.w.engineRoom_updCore core.val e _).trans h)))

theorem exec_issue_of_full {e : Engine} {desc : Fin 2048} {bind : Fin 8} {done : Option WatchId} (h : s.w.engineRoom core.val e = false) :
    exec (.issue core e desc bind done) s = .next { s with
      w := (s.w.updCore core.val fun x => { x with serial := x.serial + 1 }).holdSeq s.sid core.val .queueFull
        (.issue e ((s.w.core core.val).operation core.val desc.val bind.val (done.map (·.val)))) } :=
  (congrArg Host.Outcome.next (s.serve_seqRun hs hr _)).trans (congrArg (fun w => Host.Outcome.next { s with w := w }) (if_neg
    (Bool.not_eq_true _ ▸ (s.w.engineRoom_updCore core.val e _).trans h)))

omit hs hr in
/-- A command that holds its sequencer, with what it changed of its core before. -/
theorem holds_of_updCore {f : Core → Core} {st : SeqState} {h : Held} {i : Instr}
    (hi : exec i s = .next { s with w := (s.w.updCore core.val f).holdSeq s.sid core.val st h }) :
    ∃ t, exec i s = .next t ∧ s.onlyCore t core.val ∧ t.w.core core.val = { f (s.w.core core.val) with seq := st, held := some h } :=
  ⟨_, hi, ((s.w.updCore_coreOnly core.val f).trans (World.holdSeq_coreOnly _ core.val s.sid st h)).onlyCore, by
    rw [World.core_holdSeq, if_pos rfl, World.core_updCore, if_pos rfl]⟩

omit hs hr in
theorem holds_of_holdSeq {st : SeqState} {h : Held} {i : Instr} (hi : exec i s = .next { s with w := s.w.holdSeq s.sid core.val st h }) :
    ∃ t, exec i s = .next t ∧ s.onlyCore t core.val ∧ t.w.core core.val = { s.w.core core.val with seq := st, held := some h } :=
  ⟨_, hi, (s.w.holdSeq_coreOnly core.val s.sid st h).onlyCore, by rw [World.core_holdSeq, if_pos rfl]⟩

theorem exec_getWork_of_free {mask : BitVec 16} (h : (s.w.core core.val).item = none) :
    exec (.getWork core mask) s = .next { s with w := s.w.holdSeq s.sid core.val .workWait (.getWork mask) } :=
  (congrArg Host.Outcome.next (s.serve_seqRun hs hr _)).trans (congrArg (fun w => Host.Outcome.next { s with w := w }) (if_neg (by simp [h])))

theorem exec_end_of_free (h : (s.w.core core.val).item = none) :
    exec (.end_ core) s = .next { s with w := s.w.holdSeq s.sid core.val .fenceWait .ending } :=
  (congrArg Host.Outcome.next (s.serve_seqRun hs hr _)).trans (congrArg (fun w => Host.Outcome.next { s with w := w }) (if_neg (by simp [h])))

theorem exec_fence_of_ready :
    exec (.fence core) s = .next { s with w := s.w.holdSeq s.sid core.val .fenceWait (.fence (s.w.core core.val).serial) } :=
  congrArg Host.Outcome.next (s.serve_seqRun hs hr _)

theorem exec_wait_goes_on {watch : WatchId} {cmp : Fin 3} {fromWork : Bool} {word : Fin 8} {target : BitVec 32}
    (h : watchHolds cmp.val (AMap.get 0 (s.w.core core.val).watches watch.val)
      (if fromWork then (s.w.core core.val).slot.getD word.val 0 else target.setWidth 64) = true) :
    exec (.wait core watch cmp fromWork word target) s = .next { s with w := s.w.retire s.sid core.val } :=
  (congrArg Host.Outcome.next (s.serve_seqRun hs hr _)).trans (congrArg (fun w => Host.Outcome.next { s with w := w }) (if_pos h))

theorem exec_wait_holds {watch : WatchId} {cmp : Fin 3} {fromWork : Bool} {word : Fin 8} {target : BitVec 32} {v : Word}
    (hv : (if fromWork then (s.w.core core.val).slot.getD word.val 0 else target.setWidth 64) = v)
    (h : watchHolds cmp.val (AMap.get 0 (s.w.core core.val).watches watch.val) v = false) :
    exec (.wait core watch cmp fromWork word target) s = .next { s with
      w := (s.w.updCore core.val fun x => { x with waitReg := some (watch.val, cmp.val, v), wake := false }).holdSeq s.sid core.val
        .watchWait .watch } := by
  subst hv
  exact (congrArg Host.Outcome.next (s.serve_seqRun hs hr _)).trans (congrArg (fun w => Host.Outcome.next { s with w := w })
    (if_neg (by rw [h]; exact Bool.false_ne_true)))

end Commands

/-- Settles O20: a started AXE operation moves from the waiting ones to the end of the running ones, so an issued one stands last of both. -/
theorem issueAndWaitingCommandsHold : Obligations.IssueAndWaitingCommandsHold := by
  refine ⟨fun s core e desc bind done hs hr => ?_, fun s core hs hr => ?_⟩
  · dsimp only
    generalize ho : (s.w.core core.val).operation core.val desc.val bind.val (done.map (·.val)) = o
    have hser : o.serial = (s.w.core core.val).serial := by rw [← ho]; rfl
    have ho' : ({ serial := (s.w.core core.val).serial, core := core.val, desc := desc.val, bound := decide (bind.val ≠ 0)
                  index := if bind.val = 0 then 0 else (AMap.get {} (s.w.core core.val).loops (bind.val - 1)).value, done := done.map (·.val)
                  words := (s.w.core core.val).slot } : IssuedOp) = o := ho
    rw [ho']
    refine ⟨fun hroom => ?_, fun hfull => ?_⟩
    · have hx := exec_issue_of_room hs hr (desc := desc) (bind := bind) (done := done) hroom
      rw [ho] at hx
      have hown := s.w.core_issueTo core.val e o
      have hkept := s.w.issueTo_memories core.val e o
      have hothers := fun d hd => s.w.core_issueTo_ne core.val e o (d := d) hd
      have hqueue := s.w.engineAccepted_issueTo core.val e o
      generalize s.w.issueTo core.val e o = v at *
      have hstart := v.startOps_axeOnly core.val s.sid e
      generalize v.startOps s.sid core.val e = u at *
      obtain ⟨m, x, a, hown⟩ := hown
      obtain ⟨a', hcore, hacc⟩ := hstart.core
      have hret := u.retire_coreOnly core.val s.sid
      have hlast : (u.retire s.sid core.val).core core.val = (u.core core.val).advance := by rw [World.core_retire, if_pos rfl]
      refine ⟨_, hx, ⟨rfl, rfl, rfl, rfl⟩, (hkept.trans hstart.memories).trans hret.memories, ?_, ?_, ?_, fun d hd => ?_, ?_⟩
      · rw [hlast, hcore, hown]
        rfl
      · rw [hlast, hcore, hown, ← hser]
        rfl
      · rw [hlast, hcore, hown]
        rfl
      · rw [hret.cores d hd, hstart.cores d hd, hothers d hd]
      · have hq : ((u.retire s.sid core.val).engineAccepted core.val e) = s.w.engineAccepted core.val e ++ [o] := by
          rw [World.engineAccepted_retire, hstart.accepted, hqueue]
        cases e <;> exact hq
    · obtain ⟨t, ht, honly, hcore⟩ := holds_of_updCore (exec_issue_of_full hs hr (desc := desc) (bind := bind) (done := done) hfull)
      exact ⟨t, ht, honly, hcore.trans (by rw [ho])⟩
  · refine ⟨fun watch cmp fromWork word target => ?_, holds_of_holdSeq (exec_fence_of_ready hs hr),
      fun mask h => holds_of_holdSeq (exec_getWork_of_free hs hr h), fun h => holds_of_holdSeq (exec_end_of_free hs hr h)⟩
    dsimp only
    generalize hv : (if fromWork then (s.w.core core.val).slot.getD word.val 0 else target.setWidth 64) = v
    cases h : watchHolds cmp.val (AMap.get 0 (s.w.core core.val).watches watch.val) v with
    | true =>
      refine ⟨_, exec_wait_goes_on hs hr (hv ▸ h), (s.w.retire_coreOnly core.val s.sid).onlyCore, fun _ => ?_, fun h' => by cases h'⟩
      rw [World.core_retire, if_pos rfl]
    | false =>
      obtain ⟨t, ht, honly, hcore⟩ := holds_of_updCore (exec_wait_holds hs hr hv h)
      exact ⟨t, ht, honly, (fun h' => by cases h'), fun _ => hcore⟩

end Sys2Proof.Machine

namespace Sys2Proof.Machine

/-! ### What sending over the fabric and waking an island change (R21, R396 to R402) -/

/-- Beside what is noted only the fabric's state, what leaves the module, and which islands are stopped may differ. -/
def World.sentFrom (a b : World) : Prop :=
  ∃ (f : Fab) (o : List Output) (st : AMap Bool) (rs : AMap (Nat × Nat)), a.notedFrom { b with fab := f, out := o, stopped := st, restarts := rs }

section Sent

theorem World.notedFrom.sent {a b : World} (h : a.notedFrom b) : a.sentFrom b := ⟨b.fab, b.out, b.stopped, b.restarts, h⟩

theorem World.sentFrom_refl (w : World) : w.sentFrom w := w.notedFrom_refl.sent

theorem World.sentFrom.trans {a b c : World} (h : a.sentFrom b) (g : b.sentFrom c) : a.sentFrom c := by
  obtain ⟨f, o, st, rs, ⟨c1, p1, u1, s1, t1, r1, rfl⟩, h⟩ := h
  obtain ⟨_, _, _, _, ⟨_, _, _, _, _, _, rfl⟩, g⟩ := g
  exact ⟨f, o, st, rs, ⟨c1, p1, u1, s1, t1, r1, rfl⟩, fun p => Part.sameButTrace_trans (h p) (g p)⟩

section Fields
variable {a b : World} (h : a.sentFrom b)
include h

theorem World.sentFrom.memories : b.memoriesKept a := by obtain ⟨_, _, _, _, h⟩ := h; exact h.memories
theorem World.sentFrom.regs : a.regs = b.regs := by obtain ⟨_, _, _, _, h⟩ := h; exact h.regs
theorem World.sentFrom.config : a.config = b.config := by obtain ⟨_, _, _, _, h⟩ := h; exact h.config
theorem World.sentFrom.channels : a.channels = b.channels := by obtain ⟨_, _, _, _, h⟩ := h; exact h.channels
theorem World.sentFrom.parityHeld : a.parityHeld = b.parityHeld := by obtain ⟨_, _, _, _, h⟩ := h; exact h.parityHeld
theorem World.sentFrom.cores : a.cores = b.cores := by obtain ⟨_, _, _, _, h⟩ := h; exact h.cores
theorem World.sentFrom.clusters : a.clusters = b.clusters := by obtain ⟨_, _, _, _, h⟩ := h; exact h.clusters
theorem World.sentFrom.dies : a.dies = b.dies := by obtain ⟨_, _, _, _, h⟩ := h; exact h.dies
theorem World.sentFrom.flows : a.flows = b.flows := by obtain ⟨_, _, _, _, h⟩ := h; exact h.flows
theorem World.sentFrom.bars : a.bars = b.bars := by obtain ⟨_, _, _, _, h⟩ := h; exact h.bars
theorem World.sentFrom.dbars : a.dbars = b.dbars := by obtain ⟨_, _, _, _, h⟩ := h; exact h.dbars
theorem World.sentFrom.kiln : a.kiln = b.kiln := by obtain ⟨_, _, _, _, h⟩ := h; exact h.kiln
theorem World.sentFrom.cask : a.cask = b.cask := by obtain ⟨_, _, _, _, h⟩ := h; exact h.cask
theorem World.sentFrom.twin : a.twin = b.twin := by obtain ⟨_, _, _, _, h⟩ := h; exact h.twin
theorem World.sentFrom.hop : a.hop = b.hop := by obtain ⟨_, _, _, _, h⟩ := h; exact h.hop
theorem World.sentFrom.tap : a.tap = b.tap := by obtain ⟨_, _, _, _, h⟩ := h; exact h.tap
theorem World.sentFrom.eth : a.eth = b.eth := by obtain ⟨_, _, _, _, h⟩ := h; exact h.eth
theorem World.sentFrom.core (c : Nat) : a.core c = b.core c := World.core_of_cores h.cores c
theorem World.sentFrom.reg (x : Nat) : a.reg x = b.reg x := World.reg_of_regs h.regs x
theorem World.sentFrom.cluster (k : Nat) : a.cluster k = b.cluster k := by rw [World.cluster, h.clusters, World.cluster]
theorem World.sentFrom.die (d : Nat) : a.die d = b.die d := by rw [World.die, h.dies, World.die]
theorem World.sentFrom.flow (i : Nat) : a.flow i = b.flow i := by rw [World.flow, h.flows, World.flow]

theorem World.sentFrom.part_keeps {γ : Type} (g : Part → γ) (hg : ∀ x l, g { x with traceIn := l } = g x) (p : Nat) :
    g (a.part p) = g (b.part p) := by obtain ⟨_, _, _, _, h⟩ := h; exact h.part_keeps g hg p

end Fields

variable (w : World) (t : Sid)

theorem World.fab_sent (f : Fab) : { w with fab := f }.sentFrom w := ⟨f, w.out, w.stopped, w.restarts, World.notedFrom_refl _⟩

theorem World.emit_sent (o : Output) : (w.emit o).sentFrom w := ⟨w.fab, w.out ++ [o], w.stopped, w.restarts, World.notedFrom_refl _⟩

theorem World.tick_sent (b : Block) (i off : Nat) : (w.tick b i off).sentFrom w := (w.tick_noted b i off).sent

theorem World.wakeIsland_sent (k : Nat) : (w.wakeIsland t k).sentFrom w := by
  unfold World.wakeIsland
  split
  · exact ⟨w.fab, w.out, _, _, World.notedFrom_refl _⟩
  · exact w.sentFrom_refl

theorem World.updPort_sent (i : Nat) (f : Port → Port) : (w.updPort i f).sentFrom w := w.fab_sent _

theorem World.frameOut_sent (port kind : Nat) (q : Packet) : (w.frameOut port kind q).sentFrom w :=
  ((World.count_noted _ _ _).sent.trans (World.tick_sent _ _ _ _)).trans ((World.fab_sent _ _).trans (w.updPort_sent _ _))

theorem World.packetRecord_sent (kind dir peer tag a : Nat) : (w.packetRecord t kind dir peer tag a).sentFrom w := (w.act_noted t _ _ _ _ _ _).sent

theorem World.route_sent (dst phys : Nat) : (w.route dst phys).2.sentFrom w := by
  unfold World.route
  extract_lets g key minimal bias
  split
  · exact w.sentFrom_refl
  · split
    · exact w.sentFrom_refl
    · split
      · split
        · exact (World.tick_sent _ _ _ _).trans (w.fab_sent _)
        · exact w.fab_sent _
      · exact w.fab_sent _

theorem World.sendFrom_sent (src kind dst source tag a : Nat) (ordered stepped : Bool) (payload : List Byte) (mask : List Bool) :
    (w.sendFrom t src kind dst source tag a ordered stepped payload mask).sentFrom w := by
  unfold World.sendFrom
  split
  · exact w.sentFrom_refl
  next phys hphys =>
    extract_lets own count f1 w1 circuit live f2 w2 r w3 flags q
    have h1 : w1.sentFrom w := by
      refine (World.tick_sent _ _ _ _).trans ?_
      split
      · exact w.fab_sent _
      · exact w.sentFrom_refl
    split
    · exact (w1.tick_sent _ _ _).trans h1
    · have h2 : w2.sentFrom w1 := by
        simp only [w2]
        split
        · exact (World.tick_sent _ _ _ _).trans (w1.fab_sent _)
        · exact w1.sentFrom_refl
      have h3 : w3.sentFrom w2 := by
        show r.2.sentFrom w2
        clear_value w2
        cases hl : live with
        | some c =>
          simp only [r, hl]
          exact w2.sentFrom_refl
        | none =>
          simp only [r, hl]
          exact w2.route_sent _ _
      exact ((World.emit_sent _ _).trans ((World.packetRecord_sent _ t _ _ _ _ _).trans (w3.frameOut_sent _ _ _))).trans (h3.trans (h2.trans h1))

theorem World.sendPacket_sent (kind dst source tag a : Nat) (ordered stepped : Bool) (payload : List Byte) :
    (w.sendPacket t kind dst source tag a ordered stepped payload).sentFrom w := w.sendFrom_sent t _ _ _ _ _ _ _ _ _ _

end Sent

end Sys2Proof.Machine

namespace Sys2Proof.Machine

/-! ### What lets a held sequencer go on, and SIGNAL (R60, R353, R355 to R357) -/

section Kept
variable {w v : World} {c : Nat}

theorem World.CoreOnly.of_sent (h : v.sentFrom w) (c : Nat) : w.CoreOnly v c :=
  ⟨h.memories, h.clusters, h.flows, h.dies, h.regs, fun d _ => h.core d⟩

end Kept

section RunEnd
variable (w : World) (p : Nat)

theorem World.abandonBars_noted : (w.abandonBars p).notedFrom w := by
  unfold World.abandonBars
  induction w.barKeys p generalizing w with
  | nil => exact w.notedFrom_refl
  | cons k ks ih =>
    rw [List.foldl_cons]
    refine World.notedFrom_trans (ih _) ?_
    dsimp only
    split
    · exact w.tick_noted _ _ _
    · exact w.notedFrom_refl

theorem World.discardRecords_eq : ∃ cs ds, w.discardRecords p = { w with counters := cs, dies := ds } := by
  unfold World.discardRecords
  induction w.diesOf p generalizing w with
  | nil => exact ⟨_, _, rfl⟩
  | cons d ds ih =>
    rw [List.foldl_cons]
    exact ih _

theorem World.endRun_memories : w.memoriesKept (w.endRun p) := by
  unfold World.endRun
  split
  · obtain ⟨cs, ds, h⟩ := (w.abandonBars p).discardRecords_eq p
    rw [h]
    exact (w.abandonBars_noted p).memories
  · exact w.memoriesKept_refl

theorem World.core_endRun (c : Nat) : (w.endRun p).core c = w.core c := by
  unfold World.endRun
  split
  · obtain ⟨cs, ds, h⟩ := (w.abandonBars p).discardRecords_eq p
    rw [h]
    exact (w.abandonBars_noted p).core c
  · rfl

end RunEnd

section AddWatch
variable (w : World) (t : Sid) (c x : Nat) (n : Word)

/-- A core after an addition to one of its watches (R353, R355). -/
def Core.watched (y : Core) (x : Nat) (n : Word) : Core := { y with watches := AMap.upd 0 y.watches x (· + n) }.noteWake

theorem World.addWatch_coreOnly : w.CoreOnly (w.addWatch t c x n) c :=
  (w.updCore_coreOnly c _).trans (World.progressed_coreOnly _ c t _)

theorem World.core_addWatch (d : Nat) : (w.addWatch t c x n).core d = if d = c then (w.core c).watched x n else w.core d :=
  w.core_updCore c d (Core.watched · x n)

theorem Core.get_watched (y : Core) (i : Nat) :
    AMap.get 0 (y.watched x n).watches i = AMap.get 0 y.watches i + if i = x then n else 0 := by
  show AMap.get 0 (AMap.upd 0 y.watches x (· + n)) i = _
  by_cases h : i = x
  · subst h
    rw [AMap.get_upd_self, if_pos rfl]
  · rw [AMap.get_upd_ne _ _ _ h, if_neg h]
    simp

/-- The wake message of a core whose registered condition holds after the addition. -/
theorem Core.wake_watched (y : Core) {i cmp : Nat} {v : Word} (hr : y.waitReg = some (i, cmp, v))
    (h : watchHolds cmp (AMap.get 0 (y.watched x n).watches i) v = true) : (y.watched x n).wake = true := by
  have hw : (y.watched x n).wake = (y.wake || y.waitReg.elim false fun r => watchHolds r.2.1 (AMap.get 0 (y.watched x n).watches r.1) r.2.2) := rfl
  rw [hw, hr]
  simp only [Option.elim_some, h, Bool.or_true]

/-- A SIGNAL's core goes on; its own watches and its wake message stay. -/
theorem World.signalEnd (d : Nat) : let u := (w.updCore c fun x => { x with serial := x.serial + 1 }).retire t c
    (u.core d).watches = (w.core d).watches ∧ (u.core d).wake = (w.core d).wake ∧ (d = c → (u.core d).pc = (w.core d).advance.pc) := by
  dsimp only
  by_cases h : d = c
  · subst h
    rw [World.core_retire_updCore]
    exact ⟨rfl, rfl, fun _ => rfl⟩
  · rw [World.core_retire, if_neg h, World.core_updCore, if_neg h]
    exact ⟨rfl, rfl, fun h' => absurd h' h⟩

end AddWatch

section Commands
variable {s : State} {core : CoreId}

/-- A command in service, by what it makes of the world. -/
theorem next_of_serve (hs : s.inService = true) {f : World → World} {w : World} (h : f s.w = w) :
    (Host.Outcome.next (s.serve f) : Host.Outcome State Fault Refusal) = .next { s with w := w } := by
  rw [s.serve_of_inService hs, State.onWorld, h]

/-- The wake message has reached a core: its island runs and its watch is removed. -/
def World.awakened (w : World) (t : Sid) (c : Nat) : World :=
  (w.wakeIsland t (clusterOfCore c)).updCore c fun y => { y with waitReg := none, wake := false }

theorem exec_watchWake_of_wake (hs : s.inService = true) (hl : s.w.coreLive core.val = true) {x cmp : Nat} {v : Word}
    (hr : (s.w.core core.val).waitReg = some (x, cmp, v)) (hw : (s.w.core core.val).wake = true) :
    exec (.watchWake core) s = .next { s with
      w := ((s.w.awakened s.sid core.val).syncRecord s.sid (coreSource 8 core.val) 0 x
        (AMap.get 0 ((s.w.awakened s.sid core.val).core core.val).watches x : Word).toNat).endHold s.sid core.val } := by
  refine next_of_serve hs ?_
  dsimp only
  rw [hr]
  exact if_pos ⟨hw, hl⟩

theorem exec_fenceComplete_of_met (hs : s.inService = true) (hl : s.w.coreLive core.val = true) {n : Nat}
    (hh : (s.w.core core.val).held = some (.fence n)) (hm : s.w.fenceMet core.val n = true) :
    exec (.fenceComplete core) s = .next { s with w := (s.w.syncRecord s.sid (coreSource 0 core.val) 2 0 n).endHold s.sid core.val } := by
  refine next_of_serve hs ?_
  dsimp only
  rw [hh]
  exact if_pos ⟨hm, hl⟩

/-- A core that has executed END and goes idle. -/
def Core.goIdle (x : Core) : Core :=
  { x with seq := .idle, held := none, ended := true, single := false, pc := x.pc + 1, cc := setBit16 x.cc 3 false }

/-- The world once the core that executed END is idle. -/
def World.idled (w : World) (t : Sid) (c : Nat) : World :=
  (((w.holdRecord t (coreSource 0 c) SeqState.fenceWait.code true).updCore c Core.goIdle).tick .seq c 0x068).progressed t (w.partOfCore c)

theorem World.idled_coreOnly (w : World) (t : Sid) (c : Nat) : w.CoreOnly (w.idled t c) c :=
  (((CoreOnly.of_noted (w.holdRecord_noted t _ _ _) c).trans (World.updCore_coreOnly _ c _)).trans (World.tick_coreOnly _ c _ _ _)).trans
    (World.progressed_coreOnly _ c t _)

theorem World.core_idled (w : World) (t : Sid) (c : Nat) : (w.idled t c).core c = (w.core c).goIdle := by
  have h := (w.holdRecord_noted t (coreSource 0 c) SeqState.fenceWait.code true).core c
  unfold World.idled
  generalize w.holdRecord t (coreSource 0 c) SeqState.fenceWait.code true = v at *
  show (v.updCore c Core.goIdle).core c = _
  rw [World.core_updCore, if_pos rfl, h]

theorem exec_endDrained_of_drained (hs : s.inService = true) (hl : s.w.coreLive core.val = true)
    (hh : (s.w.core core.val).held = some .ending) (hd : (s.w.core core.val).drained = true) :
    exec (.endDrained core) s = .next { s with w := (s.w.idled s.sid core.val).endRun (s.w.partOfCore core.val) } := by
  refine next_of_serve hs ?_
  dsimp only
  rw [hh]
  exact if_pos ⟨hd, hl⟩

theorem endDrained_goes_idle (hs : s.inService = true) (hl : s.w.coreLive core.val = true) (hh : (s.w.core core.val).held = some .ending)
    (hd : (s.w.core core.val).drained = true) : ∃ t, exec (.endDrained core) s = .next t ∧ s.restKept t ∧ s.w.memoriesKept t.w
      ∧ t.w.core core.val = (s.w.core core.val).goIdle ∧ ∀ d, d ≠ core.val → t.w.core d = s.w.core d := by
  have honly := s.w.idled_coreOnly s.sid core.val
  refine ⟨_, exec_endDrained_of_drained hs hl hh hd, ⟨rfl, rfl, rfl, rfl⟩, honly.memories.trans (World.endRun_memories _ _), ?_, fun d hne => ?_⟩
  · rw [World.core_endRun, World.core_idled]
  · rw [World.core_endRun, honly.cores d hne]

theorem World.awakened_coreOnly (w : World) (t : Sid) (c : Nat) : w.CoreOnly (w.awakened t c) c :=
  (World.CoreOnly.of_sent (w.wakeIsland_sent t _) c).trans (World.updCore_coreOnly _ c _)

theorem World.core_awakened (w : World) (t : Sid) (c : Nat) : (w.awakened t c).core c = { w.core c with waitReg := none, wake := false } := by
  rw [World.awakened, World.core_updCore, if_pos rfl, (w.wakeIsland_sent t _).core]

/-- A held core that goes on after a synchronisation is recorded. -/
theorem World.recordedEnd_coreOnly (w : World) (t : Sid) (c src what i n : Nat) : w.CoreOnly ((w.syncRecord t src what i n).endHold t c) c :=
  (w.syncRecord_coreOnly c t _ _ _ _).trans (World.endHold_coreOnly _ c t)

theorem World.core_recordedEnd (w : World) (t : Sid) (c src what i n : Nat) :
    ((w.syncRecord t src what i n).endHold t c).core c = (w.core c).advance := by
  rw [World.core_endHold, if_pos rfl, World.syncRecord, (w.act_noted t _ _ _ _ _ _).core]

/-- A core that has sent a SIGNAL. -/
def Core.signalled (x : Core) (tag : Nat) : Core :=
  { x with nextTag := x.nextTag + 1, serial := x.serial + 1, signals := x.signals ++ [(tag, x.serial)] }

/-- The world in which a core sends a SIGNAL to another position. -/
def World.signalling (w : World) (c : Nat) : World :=
  (w.takeTag c 2).2.updCore c fun x =>
    { x with serial := (w.core c).serial + 1, signals := x.signals ++ [((w.takeTag c 2).1, (w.core c).serial)] }

theorem World.signalling_coreOnly (w : World) (c : Nat) : w.CoreOnly (w.signalling c) c :=
  (w.updCore_coreOnly c _).trans (World.updCore_coreOnly _ c _)

theorem World.core_signalling (w : World) (c : Nat) : (w.signalling c).core c = (w.core c).signalled (mkTag 2 c (w.core c).nextTag) := by
  rw [World.signalling, World.core_updCore, if_pos rfl, World.takeTag, World.core_updCore, if_pos rfl]
  rfl

variable (hs : s.inService = true) (hr : s.w.seqReady core.val = true)
include hs hr

theorem exec_signal_here (to_ : CoreId) (watch : WatchId) (n : BitVec 16) (pos : BitVec 14) :
    exec (.signal core false to_ watch n pos) s = .next { s with
      w := ((s.w.addWatch s.sid to_.val watch.val (n.setWidth 64)).updCore core.val fun x => { x with serial := x.serial + 1 }).retire s.sid core.val } :=
  (congrArg Host.Outcome.next (s.serve_seqRun hs hr _)).trans (congrArg (fun w => Host.Outcome.next { s with w := w }) (if_pos (.inl rfl)))

theorem exec_signal_away (to_ : CoreId) (watch : WatchId) (n : BitVec 16) {pos : BitVec 14} (hown : s.w.isOwn pos.toNat = false)
    (hp : s.w.physicalOf pos.toNat ≠ none) (hc : s.w.canSend = true) : exec (.signal core true to_ watch n pos) s = .next { s with
      w := ((s.w.signalling core.val).sendPacket s.sid 0x09 pos.toNat (coreSource 0 core.val) (mkTag 2 core.val (s.w.core core.val).nextTag) 0 false true
        (leBytes 2 to_.val ++ leBytes 1 watch.val ++ [0] ++ leBytes 2 n.toNat ++ [0, 0])).retire s.sid core.val } :=
  (congrArg Host.Outcome.next (s.serve_seqRun hs hr _)).trans (congrArg (fun w => Host.Outcome.next { s with w := w })
    ((if_neg (by simp [hown])).trans ((if_neg hp).trans (if_neg (by simp [hc])))))

end Commands

/-- Settles O21. -/
theorem heldSequencersContinueAndSignal : Obligations.HeldSequencersContinueAndSignal := by
  refine ⟨fun s core hs hl => ?_, fun s core to_ watch n pos hs hr => ⟨?_, fun hown hp hc => ?_⟩⟩
  · dsimp only
    refine ⟨fun hreg hw => ?_, fun n hh hm => ?_, fun hh hd => ?_⟩
    · obtain ⟨⟨x, cmp, v⟩, hreg⟩ := Option.ne_none_iff_exists'.mp hreg
      have hwake := s.w.wakeIsland_sent s.sid (clusterOfCore core.val)
      refine ⟨_, exec_watchWake_of_wake hs hl hreg hw,
        ((s.w.awakened_coreOnly s.sid core.val).trans (World.recordedEnd_coreOnly _ s.sid core.val _ _ _ _)).onlyCore, ?_⟩
      rw [World.core_recordedEnd, World.core_awakened]
    · refine ⟨_, exec_fenceComplete_of_met hs hl hh hm, (s.w.recordedEnd_coreOnly s.sid core.val _ _ _ _).onlyCore, ?_⟩
      rw [World.core_recordedEnd]
    · exact endDrained_goes_idle hs hl hh hd
  · have hadd := s.w.core_addWatch s.sid to_.val watch.val (n.setWidth 64)
    have hkept := (s.w.addWatch_coreOnly s.sid to_.val watch.val (n.setWidth 64)).memories
    refine ⟨_, exec_signal_here hs hr to_ watch n pos, ⟨rfl, rfl, rfl, rfl⟩, ?_⟩
    generalize s.w.addWatch s.sid to_.val watch.val (n.setWidth 64) = v at *
    have hend := v.signalEnd s.sid core.val
    have hmem := (v.updCore_coreOnly core.val fun x => { x with serial := x.serial + 1 }).memories.trans (World.retire_coreOnly _ core.val s.sid).memories
    generalize (v.updCore core.val fun x => { x with serial := x.serial + 1 }).retire s.sid core.val = u at *
    refine ⟨hkept.trans hmem, ?_, fun d i hdi => ?_, fun i cmp x hw hh => ?_, ?_⟩
    · rw [(hend _).1, hadd, if_pos rfl, Core.get_watched, if_pos rfl]
    · rw [(hend _).1, hadd]
      by_cases hd : d = to_.val
      · rw [if_pos hd, Core.get_watched, if_neg (hdi.resolve_left (fun h => h hd)), hd]
        simp
      · rw [if_neg hd]
    · rw [(hend _).1, hadd, if_pos rfl] at hh
      rw [(hend _).2.1, hadd, if_pos rfl]
      exact Core.wake_watched _ _ _ hw hh
    · rw [(hend _).2.2 rfl, hadd]
      by_cases hd : core.val = to_.val
      · rw [if_pos hd, hd]
        rfl
      · rw [if_neg hd]
  · have honly := s.w.signalling_coreOnly core.val
    have hsent := (s.w.signalling core.val).sendPacket_sent s.sid 0x09 pos.toNat (coreSource 0 core.val)
      (mkTag 2 core.val (s.w.core core.val).nextTag) 0 false true (leBytes 2 to_.val ++ leBytes 1 watch.val ++ [0] ++ leBytes 2 n.toNat ++ [0, 0])
    refine ⟨_, exec_signal_away hs hr to_ watch n hown hp hc, ⟨rfl, rfl, rfl, rfl⟩, ?_⟩
    generalize World.sendPacket _ _ _ _ _ _ _ _ _ _ = u at *
    have hown : (u.retire s.sid core.val).core core.val = ((s.w.core core.val).signalled (mkTag 2 core.val (s.w.core core.val).nextTag)).advance := by
      rw [World.core_retire, if_pos rfl, hsent.core, World.core_signalling]
    refine ⟨(honly.memories.trans hsent.memories).trans (u.retire_coreOnly core.val s.sid).memories, ?_, fun d => ?_, ?_⟩
    · rw [hown]
      rfl
    · by_cases h : d = core.val
      · subst h
        rw [hown]
        rfl
      · rw [World.core_retire, if_neg h, hsent.core, honly.cores d h]
    · rw [hown]
      rfl

end Sys2Proof.Machine

namespace Sys2Proof.Machine

/-! ### A flow whose list lies in a failed channel (R278, R341) -/

theorem World.sentFrom.foldl {α : Type} {f : World → α → World} (h : ∀ (v : World) (x : α), (f v x).sentFrom v) (xs : List α) (w : World) :
    (xs.foldl f w).sentFrom w :=
  List.foldlRecOn xs f (motive := fun v => v.sentFrom w) w.sentFrom_refl fun v hv x _ => (h v x).trans hv

section StopFlows
variable (w : World) (t : Sid) (p : Nat)

theorem World.freezePart_sent (cause trigger : Nat) : (w.freezePart t p cause trigger).sentFrom w := by
  unfold World.freezePart
  extract_lets w1
  have h1 : w1.sentFrom w := World.sentFrom.foldl (f := fun v k => v.wakeIsland t k) (fun v k => v.wakeIsland_sent t k) _ _
  have h2 : ((w1.partSources p).foldl (World.freezeTail t cause trigger) w1).sentFrom w1 :=
    World.sentFrom.foldl (f := World.freezeTail t cause trigger) (fun v src => (v.freezeTail_noted t cause trigger src).sent) _ _
  exact (World.tick_sent _ _ _ _).trans (h2.trans h1)

/-- The end of a dump changes only the partition's record of it, and what is noted. -/
theorem World.endDump_noted (r : Nat) :
    (w.endDump t p r).notedFrom (w.updPart p fun x => { x with dump := { x.dump with state := 0, result := r, image := [] } }) := by
  unfold World.endDump
  extract_lets d w1 w2
  have h2 : w2.notedFrom w1 := by
    simp only [w2]
    split
    · exact World.notedFrom_trans (World.count_noted _ _ _) (w1.tick_noted _ _ _)
    · exact w1.notedFrom_refl
  exact World.notedFrom_trans (World.traceTo_noted _ _ _ _ _) (World.notedFrom_trans (w2.stamp_noted t _) h2)

theorem World.cancelDump_flows : (w.cancelDump t p).flows = w.flows := by
  unfold World.cancelDump
  split
  · exact (w.endDump_noted t p 8).flows
  · rfl

theorem World.emptyUnits_flows : (w.emptyUnits p).flows = w.flows :=
  (foldl_keeps World.flows (f := fun (v : World) k => v.updCluster k Cluster.emptied) (fun _ _ => rfl) _ _).trans
    (foldl_keeps World.flows (f := fun (v : World) c => v.updCore c Core.emptied) (fun _ _ => rfl) _ _)

theorem World.stopRun_flows (keep : Bool) : (w.stopRun p keep).flows = w.flows := by
  unfold World.stopRun
  split
  · rfl
  · extract_lets w1 w2 w3 w4
    have h1 : w1.flows = w.flows := foldl_keeps World.flows (f := fun (v : World) c => v.updCore c (Core.halted keep)) (fun _ _ => rfl) _ _
    have h2 : w2.flows = w1.flows := by
      simp only [w2]
      split
      · rfl
      · exact w1.emptyUnits_flows p
    have h3 : w3.flows = w2.flows := rfl
    split
    · split <;> exact h3.trans (h2.trans h1)
    · exact h3.trans (h2.trans h1)

theorem World.stopJob_flows (cause trigger : Nat) : (w.stopJob t p cause trigger).flows = w.flows :=
  (World.stopRun_flows _ _ _).trans ((World.cancelDump_flows _ t p).trans (w.freezePart_sent t p cause trigger).flows)

theorem World.agentStop_flows (src : Nat) : (w.agentStop t p src).flows = w.flows := by
  unfold World.agentStop
  split
  · rfl
  · refine (World.stopJob_flows _ t p 1 src).trans ?_
    split
    · rfl
    · split <;> rfl

end StopFlows

/-- A flow of one item whose list begins at byte 0 of the partition's HBM. -/
def listedFlow : FlowDef := { count := 1 }

/-- Its job runs, its one item may be admitted, and the partition's only channel has failed since the start. -/
def failedListState : State :=
  { pwr := { phase := .ready }
    w := { parts := [(0, { job := .running, bundle := some { flows := [listedFlow] }, good := [0] })]
           flows := [(0, { active := true, count := 1 })], channels := [(0, 2)] } }

theorem exec_itemAdmit_failedList : ∃ p src, exec (.itemAdmit 0) failedListState =
    .next { failedListState with w := failedListState.w.agentStop failedListState.sid p src } := by
  have hdef : failedListState.w.flowDef (failedListState.w.partOfFlow (0 : Fin 1024).val) (0 : Fin 1024).val = some listedFlow := by decide
  have hcan : failedListState.w.canAdmit (failedListState.w.partOfFlow (0 : Fin 1024).val) listedFlow = true := by decide
  have hfail : failedListState.w.hbmFailed (failedListState.w.partOfFlow (0 : Fin 1024).val) 0 64 = true := by decide
  have hplace : localOf (listedFlow.listBase + 64 * (failedListState.w.flow listedFlow.flow).admitted) = some (.hbm 0) := by decide
  refine ⟨failedListState.w.partOfFlow (0 : Fin 1024).val, clusterSource 4 (12 * (listedFlow.flow / 256)), next_of_serve (by decide) ?_⟩
  dsimp only
  rw [hdef]
  dsimp only
  rw [if_pos hcan, if_neg (by decide), hplace]
  dsimp only
  rw [World.agentReads, if_pos (by rw [List.any_cons, hfail, Bool.true_or])]

/-- Refutes O23: the dispatcher reads a flow's list before it admits the item (R340), and where the list lies in a channel that has failed
the job stops (R278) and nothing is admitted; the statement does not set the failed channel aside. -/
theorem not_itemsFlowInOrder : ¬ Obligations.ItemsFlowInOrder := by
  intro h
  obtain ⟨t, ht, -, -, -, -, hflow⟩ := (h.1 failedListState (by decide)).1 0 listedFlow (by decide) (by decide)
  obtain ⟨p, src, hx⟩ := exec_itemAdmit_failedList
  have hw : t.w = failedListState.w.agentStop failedListState.sid p src := by
    injection hx.symm.trans ht with ht
    rw [← ht]
  have hkept : (t.w.flow 0).admitted = 0 := by
    rw [World.flow, hw, World.agentStop_flows]
    rfl
  have hone : (t.w.flow 0).admitted = 1 := congrArg Flow.admitted hflow
  omega

end Sys2Proof.Machine

namespace Sys2Proof.Machine

/-! ### RUN_START, the end of operations, the deadlock detector and SEQ_CTRL (R49, R69, R336, R350, R354, R372) -/

section Fold
variable {f : Core → Core} {c : Nat}

theorem World.core_foldl_updCore_keeps {R : Core → Prop} (h : ∀ x, R x → R (f x)) (cs : List Nat) (w : World) (hc : R (w.core c)) :
    R ((cs.foldl (fun w c => w.updCore c f) w).core c) := by
  induction cs generalizing w with
  | nil => exact hc
  | cons d ds ih =>
    refine ih _ ?_
    rw [World.core_updCore]
    split
    case isTrue hd => exact h _ (hd ▸ hc)
    case isFalse => exact hc

/-- What a change of the cores of a list makes of a core of it: `Q` holds before, `R` after. -/
theorem World.core_foldl_updCore_of_mem {Q R : Core → Prop} (hQ : ∀ x, Q x → R (f x)) (hR : ∀ x, R x → R (f x)) {cs : List Nat} (hc : c ∈ cs)
    (w : World) (hw : Q (w.core c)) : R ((cs.foldl (fun w c => w.updCore c f) w).core c) := by
  induction cs generalizing w with
  | nil => cases hc
  | cons d ds ih =>
    by_cases hd : c = d
    · refine World.core_foldl_updCore_keeps hR ds _ ?_
      rw [World.core_updCore, if_pos hd, ← hd]
      exact hQ _ hw
    · refine ih ((List.mem_cons.mp hc).resolve_left hd) _ ?_
      rw [World.core_updCore, if_neg hd]
      exact hw

end Fold

section Reset
variable (w : World) (t : Sid) (p : Nat)

/-- A core without watches, barriers ahead and a registered watch. -/
def Core.forget (x : Core) : Core := { x with watches := [], ahead := [], waitReg := none, wake := false }

/-- What a reset of a partition's dispatch leaves: memories, partitions, configuration, and the cores of the partition but for their watches. -/
structure World.ResetKept (w v : World) (p : Nat) : Prop where
  memories : w.memoriesKept v
  parts : v.parts = w.parts
  config : v.config = w.config
  core : ∀ c ∈ w.coresOf p, v.core c = (w.core c).forget

/-- Memories, partitions, configuration and cores are the same. -/
structure World.CoresKept (w v : World) : Prop where
  memories : w.memoriesKept v
  parts : v.parts = w.parts
  config : v.config = w.config
  cores : v.cores = w.cores

section CoresKept
variable {w v u : World}

theorem World.CoresKept.refl (w : World) : w.CoresKept w := ⟨⟨rfl, rfl, rfl, rfl⟩, rfl, rfl, rfl⟩

theorem World.CoresKept.trans (h : w.CoresKept v) (g : v.CoresKept u) : w.CoresKept u :=
  ⟨h.memories.trans g.memories, g.parts.trans h.parts, g.config.trans h.config, g.cores.trans h.cores⟩

theorem World.CoresKept.foldl {α : Type} {f : World → α → World} (h : ∀ (v : World) (x : α), v.CoresKept (f v x)) (xs : List α) (w : World) :
    w.CoresKept (xs.foldl f w) :=
  List.foldlRecOn xs f (motive := w.CoresKept) (.refl w) fun v hv x _ => hv.trans (h v x)

theorem World.updBar_coresKept (w : World) (key : Nat) (f : Bar → Bar) : w.CoresKept (w.updBar key f) := by
  unfold World.updBar
  split <;> exact ⟨⟨rfl, rfl, rfl, rfl⟩, rfl, rfl, rfl⟩

end CoresKept

theorem World.coresOf_of_config {w v : World} (h : v.config = w.config) (p : Nat) : v.coresOf p = w.coresOf p := by
  simp only [World.coresOf, World.diesOf, h]

theorem World.core_foldl_forget {cs : List Nat} {c : Nat} (hc : c ∈ cs) :
    (cs.foldl (fun w c => w.updCore c Core.forget) w).core c = (w.core c).forget :=
  World.core_foldl_updCore_of_mem (Q := fun x => x = w.core c ∨ x = (w.core c).forget) (R := fun x => x = (w.core c).forget)
    (fun x hx => by obtain rfl | rfl := hx <;> rfl) (fun x hx => by rw [hx]; rfl) hc w (.inl rfl)

theorem World.resetRun_kept : w.ResetKept (w.resetRun p) p := by
  unfold World.resetRun
  extract_lets v1 v2 f0 v3 v4 v5 v6
  have h1 : w.CoresKept v1 := by
    obtain ⟨cs, ds, h⟩ : ∃ cs ds, v1 = { w with counters := cs, dies := ds } := w.discardRecords_eq p
    rw [h]
    exact ⟨⟨rfl, rfl, rfl, rfl⟩, rfl, rfl, rfl⟩
  have h2 : v1.CoresKept v2 :=
    .foldl (f := fun (v : World) d => v.updDie d fun x => { x with ready := [] }) (fun _ _ => ⟨⟨rfl, rfl, rfl, rfl⟩, rfl, rfl, rfl⟩) _ v1
  have h3 : v2.CoresKept v3 := by
    simp only [v3]
    split
    · exact ⟨⟨rfl, rfl, rfl, rfl⟩, rfl, rfl, rfl⟩
    · exact .refl v2
  have h4 : v3.CoresKept v4 :=
    .foldl (f := fun (v : World) k => v.updCluster k Cluster.dropItem) (fun _ _ => ⟨⟨rfl, rfl, rfl, rfl⟩, rfl, rfl, rfl⟩) _ v3
  have h5 : w.CoresKept v5 := (((h1.trans h2).trans h3).trans h4).trans ⟨⟨rfl, rfl, rfl, rfl⟩, rfl, rfl, rfl⟩
  have h7 : v6.CoresKept ((v6.barKeys p).foldl (fun w k => w.updBar k fun b =>
      { b with gen := false, cur := 0, next := 0, rounds := 0, reported := false }) v6) :=
    .foldl (f := fun (v : World) k => v.updBar k fun b => { b with gen := false, cur := 0, next := 0, rounds := 0, reported := false })
      (fun v k => v.updBar_coresKept k _) _ v6
  have h6 : v5.memoriesKept v6 ∧ v6.parts = v5.parts ∧ v6.config = v5.config :=
    ⟨World.memoriesKept.foldl (f := fun (v : World) c => v.updCore c Core.forget) (fun _ _ => ⟨rfl, rfl, rfl, rfl⟩) _ v5,
      foldl_keeps World.parts (f := fun (v : World) c => v.updCore c Core.forget) (fun _ _ => rfl) _ _,
      foldl_keeps World.config (f := fun (v : World) c => v.updCore c Core.forget) (fun _ _ => rfl) _ _⟩
  refine ⟨(h5.memories.trans h6.1).trans h7.memories, h7.parts.trans (h6.2.1.trans h5.parts), h7.config.trans (h6.2.2.trans h5.config), fun c hc => ?_⟩
  have hmem : c ∈ v5.coresOf p := by rwa [World.coresOf_of_config h5.config]
  have hforget : v6.core c = (v5.core c).forget := v5.core_foldl_forget hmem
  rw [World.core_of_cores h7.cores, hforget, World.core_of_cores h5.cores]

theorem World.restartItems_of_free (h : ∀ c, (w.core c).item = none) : w.restartItems t p = w := by
  unfold World.restartItems
  induction w.coresOf p with
  | nil => rfl
  | cons c cs ih =>
    rw [List.foldl_cons, h c]
    exact ih

theorem World.restartWaits_of_free (h : ∀ c, (w.core c).item = none) : w.restartWaits p = false := by
  simp [World.restartWaits, h]

theorem World.wakeRun_sent (eval : Bool) : (w.wakeRun t p eval).sentFrom w :=
  World.sentFrom.foldl (f := fun (v : World) k => v.wakeIsland t k) (fun v k => v.wakeIsland_sent t k) _ w

/-- What decides how the sequencer of a core restarts, and its watches, are the same. -/
def Core.sameEntry (x y : Core) : Prop :=
  y.role = x.role ∧ y.entryPc = x.entryPc ∧ y.stop = x.stop ∧ y.watches = x.watches ∧ (x.seq ≠ .faulted → y.seq ≠ .faulted)

/-- A core whose sequencer has restarted at the entry point of `x`. -/
def Core.restarted (x y : Core) : Prop :=
  x.sameEntry y ∧ y.ended = false ∧ (x.stop = false → y.pc = x.entryPc ∧ y.seq = .running ∧ y.watches = x.watches)

theorem Core.sameEntry.restart {x y : Core} (h : x.sameEntry y) (hrole : x.role ≠ 0x7F) (hseq : x.seq ≠ .faulted) (restored : Bool) :
    x.restarted (Core.restart false restored y) := by
  obtain ⟨h1, h2, h3, h4, h5⟩ := h
  have hgo : y.restarts false = true := by simp [Core.restarts, Core.entry, h1, hrole, h5 hseq]
  rw [Core.restart, if_pos hgo]
  refine ⟨⟨h1, h2, h3, h4, fun _ => ?_⟩, rfl, fun hstop => ⟨h2, ?_, h4⟩⟩
  · dsimp only
    split <;> simp
  · dsimp only
    rw [h3, hstop]
    rfl

/-- The sequencers of a partition restart. -/
def World.restartCores (w : World) (t : Sid) (p : Nat) (eval : Bool) : World :=
  (w.coresOf p).foldl (fun v c => v.updCore c (Core.restart eval (w.part p).restored)) (w.wakeRun t p eval)

theorem World.restartCores_memories (eval : Bool) : w.memoriesKept (w.restartCores t p eval) :=
  (w.wakeRun_sent t p eval).memories.trans (World.memoriesKept.foldl (f := fun (u : World) c => u.updCore c (Core.restart eval (w.part p).restored))
    (fun _ _ => ⟨rfl, rfl, rfl, rfl⟩) _ _)

theorem World.restartCores_config (eval : Bool) : (w.restartCores t p eval).config = w.config :=
  (foldl_keeps World.config (f := fun (u : World) c => u.updCore c (Core.restart eval (w.part p).restored)) (fun _ _ => rfl) _ _).trans
    (w.wakeRun_sent t p eval).config

/-- A core whose sequencer a run restarts: before, or as it stands then. -/
theorem World.core_restartCores {c : Nat} (hc : c ∈ w.coresOf p) (hrole : (w.core c).role ≠ 0x7F) (hseq : (w.core c).seq ≠ .faulted) :
    ((w.restartCores t p false).core c).ended = false ∧ ((w.core c).stop = false → ((w.restartCores t p false).core c).pc = (w.core c).entryPc
      ∧ ((w.restartCores t p false).core c).seq = .running ∧ ((w.restartCores t p false).core c).watches = (w.core c).watches) := by
  have hw := (w.wakeRun_sent t p false).core c
  have hr : ∀ x, (w.core c).restarted x → (w.core c).restarted (Core.restart false (w.part p).restored x) := fun x hx =>
    hx.1.restart hrole hseq _
  obtain ⟨-, hended, hrun⟩ := World.core_foldl_updCore_of_mem (Q := (w.core c).sameEntry) (R := (w.core c).restarted)
    (fun x hx => hx.restart hrole hseq _) hr hc (w.wakeRun t p false)
    (by rw [hw]; exact ⟨rfl, rfl, rfl, rfl, fun h => h⟩)
  exact ⟨hended, hrun⟩

/-- The world in which a run without flows has begun. -/
def World.begunRun (w : World) (t : Sid) (p : Nat) (eval : Bool) : World :=
  (((w.resetRun p).restartCores t p eval).updPart p fun x => { x with running := true, eval := eval }).progressed t p

theorem World.beginRun_of_free (eval : Bool) (h : ∀ c, (w.core c).item = none) (hflows : (w.part p).bundle.elim [] (·.flows) = []) :
    w.beginRun t p eval = w.begunRun t p eval := by
  have hpart : ((w.resetRun p).part p).bundle.elim [] (·.flows) = [] := by
    rw [World.part_of_parts (w.resetRun_kept p).parts, hflows]
  unfold World.beginRun World.begunRun
  rw [if_neg (by simp [w.restartWaits_of_free p h]), w.restartItems_of_free t p h]
  generalize w.resetRun p = v at *
  have hread : v.agentReads t p (clusterSource 4 0) (countReads []) = (some v, v) := rfl
  dsimp only
  rw [hpart, List.filter_nil, hread]
  dsimp only [List.find?_nil, List.foldl_nil]
  rw [World.restartCores]

section Begun
variable {w p} {eval : Bool}

theorem World.begunRun_memories : w.memoriesKept (w.begunRun t p eval) :=
  ((w.resetRun_kept p).memories.trans (World.restartCores_memories _ t p eval)).trans
    ((World.updPart_memories _ _ _).trans (World.updPart_memories _ _ _))

theorem World.begunRun_config : (w.begunRun t p eval).config = w.config := by
  rw [World.begunRun, World.progressed, World.updPart_config, World.updPart_config, World.restartCores_config, (w.resetRun_kept p).config]

theorem World.begunRun_part : ((w.begunRun t p eval).part p).running = true ∧ ((w.begunRun t p eval).part p).eval = eval := by
  unfold World.begunRun
  generalize World.restartCores _ _ _ _ = v
  simp [World.progressed]

/-- A core whose sequencer a run restarts, as it stands then. -/
theorem World.core_begunRun {c : Nat} (hc : c ∈ w.coresOf p) (hrole : (w.core c).role ≠ 0x7F) (hseq : (w.core c).seq ≠ .faulted) :
    ((w.begunRun t p false).core c).ended = false ∧ ((w.core c).stop = false → ((w.begunRun t p false).core c).pc = (w.core c).entryPc
      ∧ ((w.begunRun t p false).core c).seq = .running ∧ ((w.begunRun t p false).core c).watches = []) := by
  have hr := w.resetRun_kept p
  have hsame : (w.begunRun t p false).core c = ((w.resetRun p).restartCores t p false).core c :=
    World.core_of_cores (by rw [World.begunRun, World.progressed, World.updPart_cores, World.updPart_cores]) c
  rw [hsame]
  generalize w.resetRun p = v at *
  have hcore := hr.core c hc
  have hmem : c ∈ v.coresOf p := by rwa [World.coresOf_of_config hr.config]
  have h := v.core_restartCores t p hmem (by rw [hcore]; exact hrole) (by rw [hcore]; exact hseq)
  rw [hcore] at h
  exact h

end Begun

end Reset

end Sys2Proof.Machine

namespace Sys2Proof.Machine

/-! ### RUN_START, OPERATION_DONE, DEADLOCK, SEQ_STOP and SEQ_SINGLE (R49, R69, R336, R350, R354, R372) -/

section RunStart
variable {w : World} {p : Nat}

theorem World.endRun_of_unended (h : w.allEnded p = false) : w.endRun p = w := by
  rw [World.endRun, if_neg (by simp [h])]

theorem World.allEnded_of_unended {c : Nat} (hc : c ∈ w.coresOf p) (h : (w.core c).ended = false) : w.allEnded p = false := by
  rw [World.allEnded, List.all_eq_false]
  exact ⟨c, hc, by simp [h]⟩

/-- A run without flows of a partition that has a sequencer to start. -/
theorem World.startRun_of_free (t : Sid) (hfree : ∀ c, (w.core c).item = none) (hflows : (w.part p).bundle.elim [] (·.flows) = [])
    (hstart : ∃ c ∈ w.coresOf p, (w.core c).role ≠ 0x7F ∧ (w.core c).seq ≠ .faulted) :
    w.startRun t p false = (w.updPart p fun x => { x with due := none }).begunRun t p false := by
  have hbegin := (w.updPart p fun x => { x with due := none }).beginRun_of_free t p false hfree (by
    rw [World.part_updPart_self]
    exact hflows)
  obtain ⟨c, hc, hrole, hseq⟩ := hstart
  have hended := World.core_begunRun (w := w.updPart p fun x => { x with due := none }) t hc hrole hseq
  have hmem : c ∈ ((w.updPart p fun x => { x with due := none }).begunRun t p false).coresOf p := by
    rw [World.coresOf_of_config (World.begunRun_config (w := w.updPart p fun x => { x with due := none }) t)]
    exact hc
  rw [World.startRun, hbegin, World.endRun_of_unended (World.allEnded_of_unended hmem hended.1)]

end RunStart

theorem State.restKept_world (s : State) (w : World) : s.restKept { s with w := w } := ⟨rfl, rfl, rfl, rfl⟩

/-- A core with one completed operation taken off. -/
def Core.finished (y : Core) (x : Engine × IssuedOp) : Core :=
  { y with doneOps := y.doneOps.erase x, live := y.live.filter fun n => decide (n ≠ x.2.serial) }

section Deadlock
variable (w : World) (t : Sid) (p : Nat)

theorem World.core_cancelDump (c : Nat) : (w.cancelDump t p).core c = w.core c := by
  unfold World.cancelDump
  split
  · exact (w.endDump_noted t p 8).core c
  · rfl

/-- A deadlock leaves every core as it stands (R372). -/
theorem World.core_stopRun_keep (c : Nat) : (w.stopRun p true).core c = w.core c := by
  unfold World.stopRun
  split
  · rfl
  · extract_lets w1 w2 w3 w4
    have h1 : w1.core c = w.core c :=
      World.core_foldl_updCore_keeps (R := fun x => x = w.core c) (fun x hx => by rw [Core.halted, if_pos (.inl rfl), hx]) _ w rfl
    have h3 : w3.core c = w.core c := h1
    split
    · split <;> exact h3
    · exact h3

/-- What the stop at a deadlock leaves, and that the job has stopped. -/
theorem World.stopJob_deadlock (trigger : Nat) (hjob : w.jobRuns p = true) :
    w.memoriesKept (w.stopJob t p 2 trigger) ∧ (w.stopJob t p 2 trigger).uzo = w.uzo ∧ ((w.stopJob t p 2 trigger).part p).job = .stopped
      ∧ ∀ c, (w.stopJob t p 2 trigger).core c = w.core c := by
  have hk := (w.freezePart_stopKept t p 2 trigger).trans (World.cancelDump_stopKept _ t p)
  have hcore : ∀ c, ((w.freezePart t p 2 trigger).cancelDump t p).core c = w.core c := fun c =>
    (World.core_cancelDump _ t p c).trans ((w.freezePart_sent t p 2 trigger).core c)
  rw [World.stopJob, decide_eq_true rfl]
  generalize (w.freezePart t p 2 trigger).cancelDump t p = v at *
  have hv : (v.part p).job = .running := (hk.job p).trans (of_decide_eq_true hjob)
  refine ⟨?_, (v.stopRun_uzo p true).trans hk.uzo, ?_, fun c => (v.core_stopRun_keep p c).trans (hcore c)⟩
  · obtain ⟨u, hu, -, -, o, c, h⟩ := v.stopRun_ends (p := p) (keep := true) hv
    rw [h]
    exact hk.memories.trans hu
  · obtain ⟨u, -, -, -, o, c, h⟩ := v.stopRun_ends (p := p) (keep := true) hv
    rw [h]
    exact congrArg Part.job (u.part_updPart_self p Part.stopped)

/-- The record of a deadlock in the registers of the dispatcher (R376, R377). -/
def World.deadlockNoted (w : World) (p : Nat) : World :=
  ((w.setReg (Block.disp.addr ((w.diesOf p).headD 0) 0x018) (w.deadlockSnapshot p)).setReg (Block.disp.addr ((w.diesOf p).headD 0) 0x010)
    (mkField 2 0 4 ||| mkField 1 63 1)).tick .disp ((w.diesOf p).headD 0) 0x0B8

/-- The unit that a deadlock's event names: that of the first core which holds. -/
def World.deadlockSource (w : World) (p : Nat) : Nat :=
  clusterSource 4 (clusterOfCore (((w.coresOf p).filter fun c => (w.core c).held.isSome).headD (96 * (w.diesOf p).headD 0)))

theorem World.deadlockNoted_forwards {sev : Nat} (h : w.forwards sev) : (w.deadlockNoted p).forwards sev := by
  refine h.of_same ?_ rfl
  rw [World.deadlockNoted, (World.tick_noted _ _ _ _).reg, World.reg_setReg,
    if_neg (Block.addr_ne (by decide) (by decide) (by decide)), World.reg_setReg, if_neg (Block.addr_ne (by decide) (by decide) (by decide))]

/-- An event that is forwarded is queued with some SOURCE. -/
theorem World.raise_raised_any {src code payload : Nat} (h : w.forwards (eventSeverity code)) (hc : code < 65536) :
    ∃ x, w.raised (w.raise t src code payload) x code payload := by
  obtain ⟨h1, h2, h3⟩ := (w.stamp t src).2.2.eventRecord_fields (w.stamp t src).1 (w.stamp t src).2.1 src code (eventSeverity code) payload
    (w.eventExtra src)
  exact ⟨src % 65536, _, w.raiseAs_events t h, h1, h2.trans (Nat.mod_eq_of_lt hc), h3⟩

end Deadlock

section Commands
variable {s : State} (hs : s.inService = true)
include hs

theorem exec_runStart_of_due {p : PartId} (hrun : s.w.jobRuns p.val = true) (hidle : (s.w.part p.val).running = false)
    (hdue : (s.w.part p.val).due = some false) (hzero : p.val = 0 → s.w.hop.applied ≠ 0 ∧ s.w.mirrorStop = false) :
    exec (.runStart p false) s = .next { s with w := s.w.startRun s.sid p.val false } := by
  refine next_of_serve hs ?_
  dsimp only
  have hgo : ¬ (s.w.jobRuns p.val = false ∨ (s.w.part p.val).running = true ∨ (s.w.part p.val).due ≠ some false
      ∨ (p.val = 0 ∧ (s.w.hop.applied = 0 ∨ (false = false ∧ s.w.mirrorStop = true)))) := by
    rintro (h | h | h | ⟨h0, h | ⟨-, h⟩⟩)
    · rw [hrun] at h
      cases h
    · rw [hidle] at h
      cases h
    · exact h hdue
    · exact (hzero h0).1 h
    · rw [(hzero h0).2] at h
      cases h
  rw [if_neg hgo, if_neg Bool.false_ne_true]

theorem runStart_restarts {p : PartId} (hrun : s.w.jobRuns p.val = true) (hidle : (s.w.part p.val).running = false)
    (hdue : (s.w.part p.val).due = some false) (hzero : p.val = 0 → s.w.hop.applied ≠ 0 ∧ s.w.mirrorStop = false)
    (hflows : (s.w.part p.val).bundle.elim [] (·.flows) = []) (hfree : ∀ c, (s.w.core c).item = none)
    (hstart : ∃ c ∈ s.w.coresOf p.val, (s.w.core c).role ≠ 0x7F ∧ (s.w.core c).seq ≠ .faulted) :
    ∃ t, exec (.runStart p false) s = .next t ∧ s.restKept t ∧ s.w.memoriesKept t.w ∧ (t.w.part p.val).running = true
      ∧ (t.w.part p.val).eval = false ∧ ∀ c ∈ s.w.coresOf p.val, (s.w.core c).role ≠ 0x7F → (s.w.core c).seq ≠ .faulted → (s.w.core c).stop = false →
        (t.w.core c).pc = (s.w.core c).entryPc ∧ (t.w.core c).seq = .running ∧ (t.w.core c).watches = [] := by
  refine ⟨_, exec_runStart_of_due hs hrun hidle hdue hzero, ⟨rfl, rfl, rfl, rfl⟩, ?_⟩
  rw [s.w.startRun_of_free s.sid hfree hflows hstart]
  have hmem : s.w.memoriesKept ((s.w.updPart p.val fun x => { x with due := none }).begunRun s.sid p.val false) :=
    (s.w.updPart_memories p.val fun x => { x with due := none }).trans (World.begunRun_memories s.sid)
  have hpart := World.begunRun_part (w := s.w.updPart p.val fun x => { x with due := none }) (eval := false) s.sid (p := p.val)
  have hcore := fun c => World.core_begunRun (w := s.w.updPart p.val fun x => { x with due := none }) s.sid (p := p.val) (c := c)
  generalize World.begunRun _ _ _ _ = v at *
  exact ⟨hmem, hpart.1, hpart.2, fun c hc hrole hseq => (hcore c hc hrole hseq).2⟩

theorem exec_operationDone_of_acknowledged {core : CoreId} {e : Engine} {x : Engine × IssuedOp} {i : Nat}
    (hx : ((s.w.core core.val).doneOps.find? fun y => decide (y.1 = e)) = some x) (hdone : x.2.done = some i) (hlive : s.w.coreLive core.val = true)
    (hack : s.w.opUnacked core.val x.2.serial e = false) : exec (.operationDone core e) s = .next { s with
      w := (((s.w.updCore core.val fun y => y.finished x).addWatch s.sid core.val i 1).startOps s.sid core.val e).progressed s.sid
        ((s.w.updCore core.val fun y => y.finished x).partOfCore core.val) } := by
  refine next_of_serve hs ?_
  dsimp only
  rw [hx]
  dsimp only
  rw [if_neg (by simp [hlive, hack]), hdone]
  rfl

theorem operationDone_completes {core : CoreId} {e : Engine} {x : Engine × IssuedOp} {i : Nat}
    (hx : ((s.w.core core.val).doneOps.find? fun y => decide (y.1 = e)) = some x) (hdone : x.2.done = some i) (hlive : s.w.coreLive core.val = true)
    (hack : s.w.opUnacked core.val x.2.serial e = false) : ∃ t, exec (.operationDone core e) s = .next t ∧ s.restKept t ∧ s.w.memoriesKept t.w
      ∧ x.2.serial ∉ (t.w.core core.val).live
      ∧ AMap.get 0 (t.w.core core.val).watches i = AMap.get 0 (s.w.core core.val).watches i + 1 := by
  refine ⟨_, exec_operationDone_of_acknowledged hs hx hdone hlive hack, s.restKept_world _, ?_⟩
  generalize (s.w.updCore core.val fun y => y.finished x).partOfCore core.val = p
  have hmem : s.w.memoriesKept ((s.w.updCore core.val fun y => y.finished x).addWatch s.sid core.val i 1) :=
    (s.w.updCore_coreOnly core.val fun y => y.finished x).memories.trans
      (World.addWatch_coreOnly _ s.sid core.val i 1).memories
  have hcore : ((s.w.updCore core.val fun y => y.finished x).addWatch s.sid core.val i 1).core core.val
      = ((s.w.core core.val).finished x).watched i 1 := by
    rw [World.core_addWatch, if_pos rfl, World.core_updCore, if_pos rfl]
  generalize World.addWatch _ _ _ _ _ = v at *
  have haxe := v.startOps_axeOnly core.val s.sid e
  generalize v.startOps s.sid core.val e = u at *
  obtain ⟨a, ha, -⟩ := haxe.core
  have hend : (u.progressed s.sid p).core core.val = { ((s.w.core core.val).finished x).watched i 1 with axe := a } := by
    rw [World.core_progressed, ha, hcore]
  dsimp only
  rw [hend]
  refine ⟨(hmem.trans haxe.memories).trans (World.updPart_memories _ _ _), fun h => ?_, ?_⟩
  · have hmem' : x.2.serial ∈ (s.w.core core.val).live.filter fun n => decide (n ≠ x.2.serial) := h
    simp at hmem'
  · exact (Core.get_watched i 1 _ i).trans (by rw [if_pos rfl]; rfl)

theorem exec_deadlock_of_armed {p : PartId} (harm : s.w.armed p.val = true) (hms : s.w.deadlockMs p.val ≠ 0)
    (hlate : (s.w.part p.val).progress + s.pwr.withheldPart s.sid.now (s.w.part p.val).progress + s.w.deadlockMs p.val * 1000000 ≤ s.sid.now) :
    exec (.deadlock p) s = .next { s with
      w := ((s.w.deadlockNoted p.val).raise s.sid (s.w.deadlockSource p.val) 0x10D
        (p.val + ((s.w.coresOf p.val).filter fun c => (s.w.core c).held.isSome).length * 2 ^ 16)).stopJob s.sid p.val 2 (s.w.deadlockSource p.val) } := by
  refine next_of_serve hs ?_
  dsimp only
  rw [if_pos ⟨harm, hms, hlate⟩]
  rfl

theorem deadlock_stops {p : PartId} (harm : s.w.armed p.val = true) (hms : s.w.deadlockMs p.val ≠ 0)
    (hlate : (s.w.part p.val).progress + s.pwr.withheldPart s.sid.now (s.w.part p.val).progress + s.w.deadlockMs p.val * 1000000 ≤ s.sid.now)
    (hf : s.w.forwards 3) : ∃ t, exec (.deadlock p) s = .next t ∧ s.restKept t ∧ s.w.memoriesKept t.w ∧ (t.w.part p.val).job = .stopped
      ∧ (∀ c, t.w.core c = s.w.core c)
      ∧ ∃ src, s.w.raised t.w src 0x10D (p.val + ((s.w.coresOf p.val).filter fun c => (s.w.core c).held.isSome).length * 2 ^ 16) := by
  have hjob : s.w.jobRuns p.val = true := by
    simp only [World.armed, Bool.and_eq_true] at harm
    exact harm.1.1.1.1
  refine ⟨_, exec_deadlock_of_armed hs harm hms hlate, s.restKept_world _, ?_⟩
  generalize hn : ((s.w.coresOf p.val).filter fun c => (s.w.core c).held.isSome).length = n
  have hkept : s.w.memoriesKept (s.w.deadlockNoted p.val) := ⟨rfl, rfl, rfl, rfl⟩
  have hcores : (s.w.deadlockNoted p.val).cores = s.w.cores := rfl
  have hparts : (s.w.deadlockNoted p.val).parts = s.w.parts := rfl
  have huzo : (s.w.deadlockNoted p.val).uzo = s.w.uzo := rfl
  have hfor := s.w.deadlockNoted_forwards p.val hf
  generalize s.w.deadlockNoted p.val = v at *
  generalize s.w.deadlockSource p.val = src
  have hnoted := v.raise_noted s.sid src 0x10D (p.val + n * 2 ^ 16)
  obtain ⟨x, hx⟩ := v.raise_raised_any s.sid (src := src) (code := 0x10D) (payload := p.val + n * 2 ^ 16) hfor (by decide)
  generalize v.raise s.sid src 0x10D (p.val + n * 2 ^ 16) = u at *
  have hrun : u.jobRuns p.val = true := by rw [World.jobRuns, hnoted.job, World.part_of_parts hparts]; exact hjob
  obtain ⟨hmem, huzo', hstop, hcore⟩ := u.stopJob_deadlock s.sid p.val src hrun
  generalize u.stopJob s.sid p.val 2 src = z at *
  refine ⟨(hkept.trans hnoted.memories).trans hmem, hstop, fun c => ?_, x, ?_⟩
  · rw [hcore, hnoted.core, World.core_of_cores hcores]
  · rw [World.raised, huzo', ← huzo]
    exact hx

end Commands

section SeqControl
variable {s : State} {core : CoreId} (hs : s.inService = true)
include hs

omit hs in
theorem World.wakeIsland_eq (w : World) (t : Sid) (k : Nat) : ∃ st rs, w.wakeIsland t k = { w with stopped := st, restarts := rs } := by
  unfold World.wakeIsland
  split
  · exact ⟨_, _, rfl⟩
  · exact ⟨w.stopped, w.restarts, rfl⟩

/-- A core whose STOP was written. -/
def Core.stopAt (x : Core) : Core := { x with stop := true, seq := if x.seq = .running then .stopped else x.seq }

omit hs in
theorem bit0_of_withField_one (v : Word) : (withField v 0 1 1).getLsbD 0 = true := by
  simp [withField, mkField]

theorem seqStop_stops : ∃ t, exec (.seqStop core) s = .next t ∧ s.restKept t ∧ s.w.memoriesKept t.w ∧ t.w.core core.val = (s.w.core core.val).stopAt
    ∧ (t.w.reg (Block.seq.addr core.val 0x000)).getLsbD 0 = true ∧ ∀ d, d ≠ core.val → t.w.core d = s.w.core d := by
  refine ⟨_, next_of_serve hs rfl, s.restKept_world _, ?_⟩
  have hwake := s.w.wakeIsland_sent s.sid (clusterOfCore core.val)
  generalize s.w.wakeIsland s.sid (clusterOfCore core.val) = v at *
  dsimp only
  unfold World.writeStop
  refine ⟨hwake.memories.trans ⟨rfl, rfl, rfl, rfl⟩, ?_, ?_, fun d hd => ?_⟩
  · rw [World.core_updCore, if_pos rfl, World.setField, World.core_of_cores (World.setReg_cores _ _ _), hwake.core]
    simp [Core.stopAt]
  · rw [World.reg_of_regs (World.updCore_regs _ _ _), World.setField, World.reg_setReg, if_pos rfl, if_pos rfl]
    exact bit0_of_withField_one _
  · rw [World.core_updCore, if_neg hd, World.setField, World.core_of_cores (World.setReg_cores _ _ _), hwake.core]

theorem seqSingle_lets_one (hstop : (s.w.core core.val).stop = true) (hseq : (s.w.core core.val).seq = .stopped) :
    ∃ t, exec (.seqSingle core) s = .next t ∧ s.onlyCore t core.val ∧ t.w.core core.val = { s.w.core core.val with single := true }
      ∧ (s.w.coreLive core.val = true → s.w.throttled (coreSource 0 core.val) = false → t.w.seqReady core.val = true) := by
  refine ⟨_, next_of_serve hs rfl, ?_⟩
  obtain ⟨st, rs, hwake⟩ := s.w.wakeIsland_eq s.sid (clusterOfCore core.val)
  have hsent := s.w.wakeIsland_sent s.sid (clusterOfCore core.val)
  have hlive : (s.w.wakeIsland s.sid (clusterOfCore core.val)).coreLive core.val = s.w.coreLive core.val := by rw [hwake]; rfl
  have hthr : (s.w.wakeIsland s.sid (clusterOfCore core.val)).throttled (coreSource 0 core.val) = s.w.throttled (coreSource 0 core.val) := by
    rw [hwake]; rfl
  generalize s.w.wakeIsland s.sid (clusterOfCore core.val) = v at *
  have hcore := hsent.core core.val
  rw [World.writeSingle, if_pos ⟨(congrArg Core.stop hcore).trans hstop, (congrArg Core.seq hcore).trans hseq⟩]
  refine ⟨((World.CoreOnly.of_sent hsent core.val).trans (v.updCore_coreOnly core.val _)).onlyCore, ?_, fun hl ht => ?_⟩
  · rw [World.core_updCore, if_pos rfl, hcore]
  · have hone : (v.updCore core.val fun x => { x with single := true }).core core.val = { s.w.core core.val with single := true } := by
      rw [World.core_updCore, if_pos rfl, hcore]
    have hl' : (v.updCore core.val fun x => { x with single := true }).coreLive core.val = true := hlive.trans hl
    have ht' : (v.updCore core.val fun x => { x with single := true }).throttled (coreSource 0 core.val) = false := hthr.trans ht
    rw [World.seqReady, hl', ht', hone]
    simp [hseq]

end SeqControl

/-- Settles O24. -/
theorem runsAndSequencerControl : Obligations.RunsAndSequencerControl := by
  refine ⟨fun s hs => ⟨fun p hrun hidle hdue hzero hflows hfree hstart => runStart_restarts hs hrun hidle hdue hzero hflows hfree hstart,
    fun core e x i hx hdone hlive hack _ => operationDone_completes hs hx hdone hlive hack,
    fun p harm hms hlate hf => deadlock_stops hs harm hms hlate hf⟩, fun s core hs => ⟨seqStop_stops hs, seqSingle_lets_one hs⟩⟩

end Sys2Proof.Machine

namespace Sys2Proof.Machine

/-! ### Two streams of one serial (R171, R226) -/

/-- A RELAY of one tile from queue 1 to queue 0. -/
def relayDesc : List Byte := [0, 3] ++ List.replicate 18 0 ++ [1] ++ List.replicate 30 0 ++ [1] ++ List.replicate 12 0

/-- A CSR tile of one FP16 element, which is zero: beyond its header every byte reads as 0. -/
def zeroTile : Memory := Memory.write [] 0 ([2, 3, 0, 0, 0, 0] ++ leBytes 2 144)

def zeroTileHandle : Word := makeHandle 0 1 1 2 0

/-- A relay that awaits the tile of its one prediction. -/
def awaitingRelay : AxeRun := { predicted := [0] }

/-- The AXE of core 0 holds the relay, whose real tile waits in queue 1, and a finished stream whose operation has the same serial. -/
def twinStreams : State :=
  { pwr := { phase := .ready }
    w := { parts := [(0, { job := .running, bundle := some { descs := [(0, [], [relayDesc])] } })]
           cores := [(0, { axe := { streams := [awaitingRelay, { op := { desc := 1 } }] }, queues := [(1, [{ handle := zeroTileHandle }])] })]
           tun := zeroTile } }

theorem takeTile_zeroTile : ∃ x, twinStreams.w.takeTile 0 mxeReads (fun _ _ => true) zeroTileHandle = .ok x := by
  have hok : (twinStreams.w.takeTile 0 mxeReads (fun _ _ => true) zeroTileHandle).isOk = true := by decide +kernel
  cases h : twinStreams.w.takeTile 0 mxeReads (fun _ _ => true) zeroTileHandle with
  | ok x => exact ⟨x, rfl⟩
  | error k =>
    rw [h] at hok
    cases hok

/-- Whether a command leaves the AXE of core 0 without a stream. -/
def noStreamAfter (o : Host.Outcome State Fault Refusal) : Bool :=
  match o with
  | .next t => (t.w.core 0).axe.streams.isEmpty
  | _ => false

theorem noStreamAfter_zeroPredictVerify : noStreamAfter (exec (.zeroPredictVerify 0 0) twinStreams) = true := by decide +kernel

/-- Refutes O25: the AXE drops finished streams by the serial of their operation, so where a finished stream has the serial of the relay
(the statement does not say that serials differ), the verified relay is dropped with it. -/
theorem not_mxeComputesAndWritesTiles : ¬ Obligations.MxeComputesAndWritesTiles := by
  intro h
  obtain ⟨x, hx⟩ := takeTile_zeroTile
  obtain ⟨t, ht, -, -, -, -, -, -, ⟨y, hy, -⟩, -⟩ := h.2.2 twinStreams 0 0 0 [] awaitingRelay { handle := zeroTileHandle } x (by decide) (by decide)
    (by decide) (by decide) (by decide) (by decide) (by decide) hx (by decide) (fun z hz => absurd hz List.not_mem_nil)
  have hnone := noStreamAfter_zeroPredictVerify
  rw [ht, noStreamAfter, List.isEmpty_iff] at hnone
  have hy' : y ∈ (t.w.core 0).axe.streams := hy
  rw [hnone] at hy'
  cases hy'

end Sys2Proof.Machine

namespace Sys2Proof.Machine

/-! ### A trace region on a channel that the module has not (R590, R591) -/

/-- The channel whose stack's counters would stand where those of CNT stand. -/
def farChannel : Nat := 32 * ((Block.cnt.base - Block.hbc.base) / 0x1000)

/-- One record waits for partition 0's trace region, which lies in the partition's only channel; the good list names a channel that no module has. -/
def farRegion : State :=
  { pwr := { phase := .ready }
    w := { parts := [(0, { good := [farChannel], traceSize := 1024, traceIn := [List.replicate 32 0] })] } }

/-- What CNT_TRACE_RECORDS of partition 0 reads after a command. -/
def traceRecordsAfter (o : Host.Outcome State Fault Refusal) : Word :=
  match o with
  | .next t => AMap.get 0 t.w.counters (Block.cnt.addr 0 0x088)
  | _ => 0

theorem traceRecordsAfter_traceRegionWrite : traceRecordsAfter (exec (.traceRegionWrite 0) farRegion) = 2 := by decide +kernel

/-- Refutes O56: the write of the record counts as an access of its stack too (R270), and the statement does not say that the good list names
channels of the module, so the stack's counter may be the very counter of the records written, which then rises by 2. -/
theorem not_tracePathsKeepOrder : ¬ Obligations.TracePathsKeepOrder := by
  intro h
  obtain ⟨t, ht, -, -, -, -, -, hcount⟩ := ((h farRegion (by decide)).1 0 (List.replicate 32 0) [] rfl rfl).1 (by decide) (by decide) (by decide) (by decide)
  have htwo := traceRecordsAfter_traceRegionWrite
  rw [ht, traceRecordsAfter] at htwo
  have hone : AMap.get 0 t.w.counters (Block.cnt.addr 0 0x088) = 1 := hcount
  rw [hone] at htwo
  exact absurd htwo (by decide)

end Sys2Proof.Machine

namespace Sys2Proof.Machine

/-! ### A physical number that is not the slot's (R395, R409) -/

/-- Port 15 of slot 0 of group 0 is up and carries the one circuit of the module; its physical number is not that of its slot. -/
def strangerState : State :=
  { pwr := { phase := .ready }
    w := { fab := { physical := 1000, ports := [(15, { state := 1 })], circuits := [{ src := 0x3FFF, dst := 5, path := [(0, 15)] }] } } }

/-- Whether a command leaves no circuit fallen back. -/
def noCircuitDownAfter (o : Host.Outcome State Fault Refusal) : Bool :=
  match o with
  | .next t => t.w.fab.circuitsDown.isEmpty
  | _ => false

theorem noCircuitDownAfter_partnerIdle : noCircuitDownAfter (exec (.partnerIdle 15) strangerState) = true := by decide +kernel

/-- Refutes O44: the model tells its own ports from those of other modules by its physical number, which the statement does not tie to its group
and slot; where the two differ, the port of the circuit counts as another module's, which nothing reports down, and the circuit stays. -/
theorem not_portsAndSlotsAreWatched : ¬ Obligations.PortsAndSlotsAreWatched := by
  intro h
  obtain ⟨t, ht, -, -, -, -, hdown⟩ := (h strangerState (by decide)).2.1 15 (by decide)
  have hmem : 5 ∈ t.w.fab.circuitsDown := hdown { src := 0x3FFF, dst := 5, path := [(0, 15)] } (List.mem_singleton_self _) (by decide) (by decide)
  have hnone := noCircuitDownAfter_partnerIdle
  rw [ht, noCircuitDownAfter, List.isEmpty_iff] at hnone
  rw [hnone] at hmem
  cases hmem

end Sys2Proof.Machine

namespace Sys2Proof.Machine

/-! ### A row of an entry that is no row table (R300, R323) -/

/-- An entry of 2^35 − 1 rows of one element each, kept as a matrix. -/
def matrixEntry : KilnEntry := { cols := 1 }
def matrixRule : KilnRule := { kind := 2, entries := [matrixEntry] }

/-- Row 0 of the entry moves here in this step; the cellar partition has two channels. -/
def movedHere : DirEntry := { over1 := [(0, 0x3FFF, 0)] }
def matrixMove : State :=
  { pwr := { phase := .ready }
    w := { parts := [(0, { job := .running, bundle := some { rules := [matrixRule], tensors := [{ dims := [2 ^ 35 - 1, 1], elements := 2 ^ 35 - 1 }] }
                           dir := [movedHere], cellarGood := [0, 1] })] } }

/-- Whether the record of row 0 after a command is empty. -/
def recordZeroAfter (o : Host.Outcome State Fault Refusal) : Bool :=
  match o with
  | .next t => decide (t.w.rowRecord 0 matrixRule matrixEntry 0 = List.replicate 64 0)
  | _ => false

theorem recordZeroAfter_stateIn :
    recordZeroAfter (exec (.stateIn { part := 0, crcFailures := 0 } 0 0 true []) matrixMove) = false := by decide +kernel

theorem blockFits_matrixMove : matrixMove.w.blockFits 0 matrixRule matrixEntry := ⟨by decide, by decide +kernel⟩

/-- Refutes O36: the block of an entry that is no row table has no records and no bitmap, and the statement asks only that the block lie in the
cellar partition. Here the bitmap that the records would have lies past the partition, where the byte of row 0's freeze flag is the first byte
of its record. -/
theorem not_kilnFramesTakeEffect : ¬ Obligations.KilnFramesTakeEffect := by
  intro h
  obtain ⟨-, -, -, -, hin, -⟩ := h matrixMove { part := 0, crcFailures := 0 } (by decide)
  obtain ⟨t, ht, -, -, -, -, hrecord, -⟩ := hin 0 0 0 0 64 true [] matrixRule matrixEntry movedHere (0, 0x3FFF, 0) (by decide) (by decide)
    (by decide) (by decide) (by decide) (by decide +kernel) blockFits_matrixMove
  have hzero := recordZeroAfter_stateIn
  rw [ht, recordZeroAfter, decide_eq_false_iff_not] at hzero
  exact hzero hrecord

end Sys2Proof.Machine

namespace Sys2Proof.Machine

/-! ### AXE streams (R224 to R228, R265) -/

section Handle

theorem testBit_fieldOf (v : Word) (lo n i : Nat) : (fieldOf v lo n).testBit i = (decide (i < n) && v.getLsbD (lo + i)) := by
  rw [fieldOf, bitsAt, Nat.testBit_mod_two_pow, Nat.testBit_div_two_pow, Nat.add_comm i lo, BitVec.testBit_toNat]

theorem getLsbD_mkField (x lo n i : Nat) : (mkField x lo n).getLsbD i = (decide (i < 64) && (decide (lo ≤ i) && (decide (i - lo < n) && x.testBit (i - lo)))) := by
  rw [mkField, BitVec.getLsbD_ofNat, Nat.testBit_mul_two_pow, Nat.testBit_mod_two_pow]

theorem handleAddr_makeHandle (a rows cols f n : Nat) : handleAddr (makeHandle a rows cols f n) = a % 2 ^ 21 := by
  refine Nat.eq_of_testBit_eq fun i => ?_
  rw [handleAddr, testBit_fieldOf, Nat.testBit_mod_two_pow]
  by_cases hi : i < 21
  · have h1 : ¬ 21 ≤ i := by omega
    have h2 : ¬ 27 ≤ i := by omega
    have h3 : ¬ 33 ≤ i := by omega
    have h4 : ¬ 48 ≤ i := by omega
    have h5 : i < 64 := by omega
    simp only [makeHandle, BitVec.getLsbD_or, getLsbD_mkField, hi, h1, h2, h3, h4, h5, decide_true, decide_false, Bool.true_and, Bool.false_and,
      Bool.and_false, Bool.or_false, Nat.zero_le, Nat.zero_add, Nat.sub_zero]
  · simp [hi]

theorem handleIndex_makeHandle (a rows cols f n : Nat) : handleIndex (makeHandle a rows cols f n) = n % 2 ^ 16 := by
  refine Nat.eq_of_testBit_eq fun i => ?_
  rw [handleIndex, testBit_fieldOf, Nat.testBit_mod_two_pow]
  by_cases hi : i < 16
  · have h1 : ¬ 48 + i < 21 := by omega
    have h2 : ¬ 48 + i - 21 < 6 := by omega
    have h3 : ¬ 48 + i - 27 < 6 := by omega
    have h4 : ¬ 48 + i - 33 < 8 := by omega
    have h5 : 48 + i < 64 := by omega
    simp only [makeHandle, BitVec.getLsbD_or, getLsbD_mkField, hi, h1, h2, h3, h4, h5, decide_true, decide_false, Bool.true_and, Bool.false_and,
      Bool.and_false, Bool.or_false, Bool.false_or, Nat.zero_le, Nat.sub_zero, Nat.add_sub_cancel_left, Nat.le_add_right]
  · simp [hi]

end Handle

section Finish
variable {w v : World} {t : Sid} {c : Nat}

theorem World.retryIssues_of_none (h : w.noHeldIssue c) : w.retryIssues t c = w := by
  unfold World.retryIssues
  refine List.foldlRecOn (clusterCores c) (World.retryIssue t) (motive := fun v => v = w) rfl fun v hv d hd => ?_
  subst hv
  unfold World.retryIssue
  split
  next e o he => exact absurd he (h d hd e o)
  next => rfl

theorem World.axeStart_of_empty (h : (w.core c).axe.pending = []) (n : Nat) : w.axeStart t c n = w := by
  cases n with
  | zero => rfl
  | succ n => rw [World.axeStart, h]

theorem World.noHeldIssue.of_held (h : w.noHeldIssue c) (hv : ∀ d, (v.core d).held = (w.core d).held) : v.noHeldIssue c :=
  fun d hd e o => by rw [hv]; exact h d hd e o

/-- The operation ends with no ISSUE held: it waits for OPERATION_DONE. -/
theorem World.finishOp_of_noHeld (h : w.noHeldIssue c) (src : Nat) (e : Engine) (o : IssuedOp) (ho : o.core = c) :
    w.finishOp t src e o = (w.opRecord t src e o 1).updCore c fun x => { x with doneOps := x.doneOps ++ [(e, o)] } := by
  rw [World.finishOp, ho]
  refine World.retryIssues_of_none (h.of_held fun d => ?_)
  rw [World.core_updCore, World.opRecord, (w.act_noted t _ _ _ _ _ _).core, (w.act_noted t _ _ _ _ _ _).core]
  split
  case isTrue hd => rw [hd]
  case isFalse => rfl

theorem World.updCore_memories (w : World) (c : Nat) (f : Core → Core) : w.memoriesKept (w.updCore c f) := ⟨rfl, rfl, rfl, rfl⟩

theorem World.updCore_descOf (w : World) (c : Nat) (f : Core → Core) (d i : Nat) : (w.updCore c f).descOf d i = w.descOf d i := rfl

/-- What the end of an action of the core's one stream `y` leaves: where the stream has ended its operation waits for OPERATION_DONE, and the
stream goes with its last handle and prediction. -/
structure World.StreamEnds (v u : World) (c : Nat) (y : AxeRun) : Prop where
  memories : v.memoriesKept u
  core : ∃ ds ss, u.core c = { v.core c with doneOps := ds, axe := { (v.core c).axe with streams := ss } }
    ∧ (v.axeEnded c y = true → ds = (v.core c).doneOps ++ [(.axe, y.op)])
    ∧ (v.axeEnded c y = false ∨ y.live ≠ [] ∨ y.predicted ≠ [] → ss = [y])
    ∧ (v.axeEnded c y = true → y.live = [] → y.predicted = [] → ss = [])

theorem World.axeFinish_ends {y : AxeRun} (hs : (v.core c).axe.streams = [y]) (hh : v.noHeldIssue c) (hc : y.op.core = c) :
    v.StreamEnds (v.axeFinish t c y.op.serial) c y := by
  have hstream : v.stream c y.op.serial = some y := by simp [World.stream, hs]
  rw [World.axeFinish, hstream]
  dsimp only
  cases he : v.axeEnded c y with
  | false =>
    rw [if_neg Bool.false_ne_true]
    exact ⟨v.memoriesKept_refl, _, _, rfl, fun h => absurd (he.symm.trans h) Bool.false_ne_true, fun _ => hs,
      fun h => absurd (he.symm.trans h) Bool.false_ne_true⟩
  | true =>
    rw [if_pos rfl, World.finishOp_of_noHeld hh _ _ _ hc]
    have hrec : (v.opRecord t (coreSource 1 c) .axe y.op 1).notedFrom v := v.act_noted t _ _ _ _ _ _
    generalize v.opRecord t (coreSource 1 c) .axe y.op 1 = u at *
    have hcore : ((u.updCore c fun x => { x with doneOps := x.doneOps ++ [(.axe, y.op)] }).dropStream c y.op.serial).core c =
        { v.core c with
          doneOps := (v.core c).doneOps ++ [(.axe, y.op)]
          axe := { (v.core c).axe with streams := [y].filter fun r => !(decide (r.op.serial = y.op.serial) && r.live.isEmpty && r.predicted.isEmpty) } } := by
      rw [World.dropStream, World.core_updCore, if_pos rfl, World.core_updCore, if_pos rfl, hrec.core, hs]
    refine ⟨hrec.memories.trans ⟨rfl, rfl, rfl, rfl⟩, _, _, hcore, fun _ => rfl, fun h => ?_, fun _ hl hp => ?_⟩
    · obtain h | h | h := h
      · exact absurd (he.symm.trans h) (by decide)
      · simp [h]
      · simp [h]
    · simp [hl, hp]

variable {kind : Nat} {r : AxeRun}

theorem World.sweepStreams_of_runs (h : w.axeRuns c kind r) : w.sweepStreams c = w := by
  obtain ⟨-, -, -, hs, -, -, -, -, -, he⟩ := h
  rw [World.sweepStreams, hs, List.filter_cons_of_neg (by simp [he])]
  rfl

/-- An action of the core's one stream, with nothing that waits to start. -/
theorem World.axeAct_of_runs (h : w.axeRuns c kind r) (f : World → AxeRun → World) :
    w.axeAct t c r.op.serial kind f = (f w r).axeFinish t c r.op.serial := by
  have hsweep := w.sweepStreams_of_runs h
  obtain ⟨hlive, hfault, hthr, hs, hp, -, -, hheld, hkind, he⟩ := h
  have hstream : w.stream c r.op.serial = some r := by simp [World.stream, hs]
  rw [World.axeAct, if_neg (by simp [hlive, hfault, hthr]), hsweep, World.axeStart_of_empty hp, World.retryIssues_of_none hheld,
    World.axeStart_of_empty hp]
  dsimp only
  rw [hstream]
  dsimp only
  rw [if_neg (not_not_intro hkind), if_neg (by simp [he])]

/-- Of the cores only `c` differs, in its queues and its AXE; the descriptors are the same. -/
structure World.Acted (w v : World) (c : Nat) (qs : AMap (List QEntry)) (a : Axe) : Prop where
  core : v.core c = { w.core c with queues := qs, axe := a }
  other : ∀ d, d ≠ c → v.core d = w.core d
  desc : ∀ i, v.descOf c i = w.descOf c i

theorem World.Acted.ended {qs : AMap (List QEntry)} {a : Axe} (h : w.Acted v c qs a) (y : AxeRun) : v.axeEnded c y = w.axeEnded c y := by
  rw [World.axeEnded, World.axeEnded, h.desc]

/-- What stands after an action, once the stream `y` that acted has ended or goes on. -/
theorem World.Acted.finish {qs : AMap (List QEntry)} {a : Axe} {y : AxeRun} (h : w.Acted v c qs a) (ha : a.streams = [y]) (hh : w.noHeldIssue c)
    (hc : y.op.core = c) : v.memoriesKept (v.axeFinish t c y.op.serial)
      ∧ ∃ ss, ((v.axeFinish t c y.op.serial).core c).queues = qs ∧ ((v.axeFinish t c y.op.serial).core c).axe = { a with streams := ss }
        ∧ (w.axeEnded c y = true → w.opEnded (v.axeFinish t c y.op.serial) c .axe y.op)
        ∧ (w.axeEnded c y = false ∨ y.live ≠ [] ∨ y.predicted ≠ [] → ss = [y])
        ∧ (w.axeEnded c y = true → y.live = [] → y.predicted = [] → ss = []) := by
  have hheld : v.noHeldIssue c := hh.of_held fun d => by
    by_cases hd : d = c
    · rw [hd, h.core]
    · rw [h.other d hd]
  obtain ⟨hmem, ds, ss, hu, hdone, hkeep, hgone⟩ := World.axeFinish_ends (t := t) (y := y) (by rw [h.core]; exact ha) hheld hc
  rw [h.ended] at hdone hkeep hgone
  generalize v.axeFinish t c y.op.serial = u at *
  rw [h.core] at hu
  refine ⟨hmem, ss, by rw [hu], by rw [hu], fun he => ?_, hkeep, hgone⟩
  rw [World.opEnded, hu]
  refine (hdone he).trans ?_
  rw [h.core]

/-- An operation of another kind than COPY has ended with its last tile. -/
theorem World.axeEnded_of_tiles {y : AxeRun} (hk : axeKind (w.descOf c y.op.desc) ≠ 2) :
    w.axeEnded c y = decide (axeTotal (w.descOf c y.op.desc) ≤ y.count) := by
  rw [World.axeEnded]
  exact if_neg hk

theorem World.core_updStream_of_one {y : AxeRun} (hs : (v.core c).axe.streams = [y]) (f : AxeRun → AxeRun) :
    (v.updStream c y.op.serial f).core c = { v.core c with axe := { (v.core c).axe with streams := [f y] } } := by
  rw [World.updStream, World.core_updCore, if_pos rfl, hs, List.map_singleton, if_pos rfl]

end Finish

section Fetch
variable {w w1 : World} {t : Sid} {c : Nat} {r : AxeRun}

theorem World.axeFetch_counters {x : Nat × Nat × Nat} {n : Nat} {last : Bool} {bs : List Byte} (h : w.axeFetch t c r x n last = .ok (some bs, w1)) :
    ∃ cs, w1 = { w with counters := cs } := by
  unfold World.axeFetch at h
  split at h
  · cases h
  · split at h
    · split at h
      · cases h
      · obtain ⟨cs, hc⟩ := w.hbmFetch_eq (coreSource 1 c) x.2.1 x.2.2 n
        rw [hc] at h
        cases h
        exact ⟨_, rfl⟩
    · cases h
      exact ⟨_, rfl⟩
    · dsimp only at h
      split at h
      · cases h
        exact ⟨w.counters, rfl⟩
      · split at h
        · cases h
        · split at h
          · cases h
          · split at h
            · cases h
            · cases h

theorem World.axeTile_counters {x : Nat × Nat × Nat} {last : Bool} {bs : List Byte} (h : w.axeTile t c r x last = .ok (some bs, w1)) :
    ∃ cs, w1 = { w with counters := cs } := by
  unfold World.axeTile at h
  split at h
  · cases h
  · cases h
  next g w2 hg =>
    obtain ⟨cs, rfl⟩ := World.axeFetch_counters hg
    dsimp only at h
    split at h
    · cases h
    · split at h
      · cases h
        exact ⟨cs, rfl⟩
      · split at h
        · split at h
          · cases h
          · cases h
          next bs' w3 h3 =>
            obtain ⟨cs', rfl⟩ := World.axeFetch_counters h3
            cases h
            exact ⟨cs', rfl⟩
        · split at h
          · cases h
          next rest w3 h3 =>
            cases rest with
            | none => cases h
            | some bs' =>
              obtain ⟨cs', rfl⟩ := World.axeFetch_counters h3
              cases h
              exact ⟨cs', rfl⟩

end Fetch

/-! #### LOAD -/

section Load
variable {s : State} {core : CoreId} {w : World} {c : Nat} {r : AxeRun}

/-- A stream that has emitted its next tile. -/
def AxeRun.emitted (r : AxeRun) : AxeRun := { r with count := r.count + 1, live := r.live ++ [r.count], fetched := [], waitTag := none }

/-- The guard of a stream's next tile. -/
def World.loadGuard (w : World) (c : Nat) (r : AxeRun) (x : Nat × Nat × Nat) (bs : List Byte) : Guard :=
  { stream := r.op.serial, emission := r.count, index := r.count, queue := axeQueue (w.descOf c r.op.desc), space := guardSpace x
    lo := x.2.2, hi := x.2.2 + roundUp bs.length 256 }

/-- The world with a stream's next tile in its ring buffer, under its guard. -/
def World.ringFilled (w : World) (c : Nat) (r : AxeRun) (x : Nat × Nat × Nat) (bs : List Byte) : World :=
  ((w.tunWrite c (axeBuffer (w.descOf c r.op.desc) r.count) bs).updStream c r.op.serial fun y =>
    { y with count := y.count + 1, live := y.live ++ [r.count], fetched := [], waitTag := none }).updCore c fun z =>
      { z with axe := { z.axe with guards := z.axe.guards ++ [w.loadGuard c r x bs] } }

/-- The handle of a stream's next tile as it is queued. -/
def World.loadEntry (w : World) (c : Nat) (r : AxeRun) (x : Nat × Nat × Nat) (bs : List Byte) : QEntry :=
  { handle := (w.ringFilled c r x bs).handleAt c (axeBuffer (w.descOf c r.op.desc) r.count) r.count, stream := some r.op.serial, emission := r.count }

/-- The world with a stream's next tile emitted (R225, R226, R228). -/
def World.loaded (w : World) (c : Nat) (r : AxeRun) (x : Nat × Nat × Nat) (bs : List Byte) : World :=
  (w.ringFilled c r x bs).pushQueue c (axeQueue (w.descOf c r.op.desc)) (w.loadEntry c r x bs)

theorem World.core_loaded (hs : (w.core c).axe.streams = [r]) (x : Nat × Nat × Nat) (bs : List Byte) :
    (w.loaded c r x bs).core c = { w.core c with
      queues := AMap.upd [] (w.core c).queues (axeQueue (w.descOf c r.op.desc)) (· ++ [w.loadEntry c r x bs])
      axe := { (w.core c).axe with streams := [r.emitted], guards := (w.core c).axe.guards ++ [w.loadGuard c r x bs] } } := by
  have hbuf : (w.ringFilled c r x bs).core c = { w.core c with
      axe := { (w.core c).axe with streams := [r.emitted], guards := (w.core c).axe.guards ++ [w.loadGuard c r x bs] } } := by
    rw [World.ringFilled, World.core_updCore, if_pos rfl,
      World.core_updStream_of_one (v := w.tunWrite c (axeBuffer (w.descOf c r.op.desc) r.count) bs) (y := r) hs]
    rfl
  rw [World.loaded, World.pushQueue, World.core_updCore, if_pos rfl, hbuf]

theorem World.loaded_acted (cs : AMap Word) (hs : (w.core c).axe.streams = [r]) (x : Nat × Nat × Nat) (bs : List Byte) :
    w.Acted (World.loaded { w with counters := cs } c r x bs) c
      (AMap.upd [] (w.core c).queues (axeQueue (w.descOf c r.op.desc)) (· ++ [World.loadEntry { w with counters := cs } c r x bs]))
      { (w.core c).axe with streams := [r.emitted], guards := (w.core c).axe.guards ++ [w.loadGuard c r x bs] } := by
  refine ⟨World.core_loaded (w := { w with counters := cs }) hs x bs, fun d hd => ?_, fun _ => rfl⟩
  rw [World.loaded, World.pushQueue, World.core_updCore, if_neg hd, World.ringFilled, World.core_updCore, if_neg hd, World.updStream,
    World.core_updCore, if_neg hd]
  rfl

theorem World.loadEntry_names (x : Nat × Nat × Nat) (bs : List Byte) : (w.loadEntry c r x bs).stream = some r.op.serial
    ∧ (w.loadEntry c r x bs).emission = r.count
    ∧ handleAddr (w.loadEntry c r x bs).handle = axeBuffer (w.descOf c r.op.desc) r.count % 2 ^ 21 :=
  ⟨rfl, rfl, handleAddr_makeHandle _ _ _ _ _⟩

theorem World.axeEmit_loads {t : Sid} {x : Nat × Nat × Nat} {bs : List Byte} {w1 : World} (hb : w.bufferBusy c (axeBuffer (w.descOf c r.op.desc) r.count) = false)
    (hq : w.queueFull c (axeQueue (w.descOf c r.op.desc)) = false)
    (hp : w.axePlace c (axeMem (w.descOf c r.op.desc)) (w.axeAddr c r.op (axeOffset (w.descOf c r.op.desc) r.count)) = some x)
    (ht : w.axeTile t c r x (decide (r.count + 1 = axeTotal (w.descOf c r.op.desc))) = .ok (some bs, w1)) :
    ∃ cs, w.axeEmit t c r = World.loaded { w with counters := cs } c r x bs := by
  obtain ⟨cs, rfl⟩ := World.axeTile_counters ht
  refine ⟨cs, ?_⟩
  unfold World.axeEmit
  dsimp only
  rw [if_neg (by simp [hb, hq]), hp]
  dsimp only
  rw [ht]
  rfl

variable (hsv : s.inService = true)
include hsv

theorem exec_axeLoad_of_runs (h : s.w.axeRuns core.val 0 r) :
    exec (.axeLoad core r.op.serial) s = .next { s with w := (s.w.axeEmit s.sid core.val r).axeFinish s.sid core.val r.op.serial } := by
  have hguards : ((s.w.core core.val).axe.guards.find? fun g => g.reread && decide (g.stream = r.op.serial)) = none := by
    obtain ⟨-, -, -, -, -, hg, -, -, -, -⟩ := h
    rw [List.find?_eq_none]
    intro g hmem
    simp [hg g hmem]
  refine next_of_serve hsv ?_
  dsimp only
  rw [hguards]
  exact World.axeAct_of_runs h _

theorem axeLoad_emits {x : Nat × Nat × Nat} {bs : List Byte} {w1 : World} (h : s.w.axeRuns core.val 0 r)
    (hb : s.w.bufferBusy core.val (axeBuffer (s.w.descOf core.val r.op.desc) r.count) = false)
    (hq : s.w.queueFull core.val (axeQueue (s.w.descOf core.val r.op.desc)) = false)
    (hp : s.w.axePlace core.val (axeMem (s.w.descOf core.val r.op.desc)) (s.w.axeAddr core.val r.op (axeOffset (s.w.descOf core.val r.op.desc) r.count)) = some x)
    (ht : s.w.axeTile s.sid core.val r x (decide (r.count + 1 = axeTotal (s.w.descOf core.val r.op.desc))) = .ok (some bs, w1)) :
    ∃ t, exec (.axeLoad core r.op.serial) s = .next t ∧ s.restKept t ∧ s.w.onlyTun t.w
      ∧ s.w.tun.wrote t.w.tun (core.val * tunBytes + axeBuffer (s.w.descOf core.val r.op.desc) r.count) bs
      ∧ (∃ q, t.w.queue core.val (axeQueue (s.w.descOf core.val r.op.desc)) = s.w.queue core.val (axeQueue (s.w.descOf core.val r.op.desc)) ++ [q]
          ∧ q.stream = some r.op.serial ∧ q.emission = r.count ∧ handleAddr q.handle = axeBuffer (s.w.descOf core.val r.op.desc) r.count % 2 ^ 21)
      ∧ (∃ g ∈ (t.w.core core.val).axe.guards, g.stream = r.op.serial ∧ g.emission = r.count ∧ g.space = guardSpace x ∧ g.lo = x.2.2
          ∧ g.hi = x.2.2 + roundUp bs.length 256)
      ∧ (∃ y ∈ (t.w.core core.val).axe.streams, y.op = r.op ∧ y.count = r.count + 1 ∧ y.live = r.live ++ [r.count])
      ∧ (axeTotal (s.w.descOf core.val r.op.desc) = r.count + 1 → s.w.opEnded t.w core.val .axe r.op) := by
  obtain ⟨cs, he⟩ := World.axeEmit_loads hb hq hp ht
  have hx := exec_axeLoad_of_runs hsv h
  obtain ⟨-, -, -, hs, -, -, hop, hheld, hkind, -⟩ := h
  rw [he] at hx
  refine ⟨_, hx, s.restKept_world _, ?_⟩
  have hacted := World.loaded_acted (w := s.w) cs hs x bs
  have hmem : s.w.onlyTun (World.loaded { s.w with counters := cs } core.val r x bs) := ⟨rfl, rfl, rfl⟩
  have htun : (World.loaded { s.w with counters := cs } core.val r x bs).tun
      = s.w.tun.write (core.val * tunBytes + axeBuffer (s.w.descOf core.val r.op.desc) r.count) bs := rfl
  have hentry := World.loadEntry_names (w := { s.w with counters := cs }) (c := core.val) (r := r) x bs
  generalize World.loadEntry { s.w with counters := cs } core.val r x bs = q at *
  generalize World.loaded { s.w with counters := cs } core.val r x bs = v at *
  obtain ⟨hmem', ss, hqs, haxe, hend, hkeep, -⟩ := hacted.finish (t := s.sid) rfl hheld hop
  have hserial : r.emitted.op.serial = r.op.serial := rfl
  rw [hserial] at hmem' hqs haxe hend
  generalize v.axeFinish s.sid core.val r.op.serial = u at *
  rw [hkeep (.inr (.inl (by simp [AxeRun.emitted])))] at haxe
  refine ⟨⟨hmem'.1.trans hmem.1, hmem'.2.2.1.trans hmem.2.1, hmem'.2.2.2.trans hmem.2.2⟩, ?_, ⟨q, ?_, hentry⟩,
    ⟨s.w.loadGuard core.val r x bs, by rw [haxe]; exact List.mem_append_right _ (List.mem_singleton_self _), rfl, rfl, rfl, rfl, rfl⟩,
    ⟨r.emitted, by rw [haxe]; exact List.mem_singleton_self _, rfl, rfl, rfl⟩, fun htotal => hend ?_⟩
  · rw [hmem'.2.1, htun]
    exact ⟨fun i hi => Memory.byte_write bs _ _ i hi, fun k hk => Memory.byte_write_outside bs _ _ k hk⟩
  · rw [World.queue, hqs]
    exact AMap.get_upd_self [] _ _ _
  · rw [World.axeEnded_of_tiles (y := r.emitted) (by show axeKind (s.w.descOf core.val r.op.desc) ≠ 2; rw [hkind]; decide)]
    exact decide_eq_true htotal.le

end Load

/-! #### STORE and COPY -/

section Store
variable {s : State} {core : CoreId} {w : World} {t : Sid} {c p off n : Nat} {bs : List Byte} {r : AxeRun}

theorem rangesMeet_of_mem {a n b m : Nat} (h : b ≤ a) (h' : a < b + m) (hn : 0 < n) : rangesMeet a n b m = true := by
  have hm : 0 < m := by omega
  have hb : b < a + n := by omega
  simp [rangesMeet, h', hb, hn, hm]

/-- An offset outside every pending version lies in none of a REPLICA tensor. -/
theorem World.replicaHome_of_plain (hdir : ∀ e ∈ (w.part 0).dir, rangesMeet off n e.penBase e.bytes = false) (hn : 0 < n) : w.replicaHome off = false := by
  have hnone : w.replicaAt off = none := by
    rw [World.replicaAt, Option.bind_eq_none_iff]
    intro e he
    have hin := List.find?_some he
    simp only [Bool.and_eq_true, decide_eq_true_eq] at hin
    have hmeet := rangesMeet_of_mem hin.1.2 hin.2 hn
    rw [hdir e (List.mem_of_find?_eq_some he)] at hmeet
    cases hmeet
  rw [World.replicaHome, hnone]

theorem World.tellReplicas_of_plain (src : Nat) (hdir : ∀ e ∈ (w.part p).dir, rangesMeet off bs.length e.penBase e.bytes = false) :
    w.tellReplicas t src p off bs = w := by
  unfold World.tellReplicas
  split
  next h =>
    obtain ⟨rfl, h⟩ := h
    cases bs with
    | nil => rfl
    | cons b bs =>
      rw [World.replicaHome_of_plain hdir (Nat.zero_lt_succ _)] at h
      cases h
  next => rfl

/-- `v` is the world `w` with the bytes `bs` in HBM; beside HBM, counters and the marks of other modules' guards it is the same. -/
def World.HbmPut (w v : World) (p off : Nat) (bs : List Byte) : Prop :=
  (∃ m cs g, v = { w with hbm := m, counters := cs, fab := { w.fab with guards := g } }) ∧ w.hbmWrote v p off bs

theorem World.homeWrite_plain (src : Nat) (h : w.plainHbm p off bs.length) : w.HbmPut (w.homeWrite t src p off bs) p off bs := by
  obtain ⟨cs, g, hw⟩ := w.hbmWrite_plain t src w.ownPosition h
  obtain ⟨hnd, hcap, -, hdir⟩ := h
  obtain ⟨m, hm⟩ := World.hbmStore_eq p bs off w
  have hwrote := w.hbmStore_wrote (p := p) (a := off) hnd hcap
  rw [World.homeWrite, hw]
  rw [hm] at hwrote ⊢
  rw [World.tellReplicas_of_plain (w := { w with hbm := m, counters := cs, fab := { w.fab with guards := g } }) src fun e he => (hdir e he).1]
  exact ⟨⟨m, cs, g, rfl⟩, hwrote⟩

theorem World.currentHit_of_plain (h : w.plainHbm p off n) : w.currentHit p off n = none := by
  obtain ⟨-, -, -, hdir⟩ := h
  rw [World.currentHit, List.find?_eq_none]
  intro e he
  simp [(hdir e he).2]

theorem World.HbmPut.counted {v : World} (h : w.HbmPut v p off bs) (a n : Nat) : w.HbmPut (v.count a n) p off bs := by
  obtain ⟨⟨m, cs, g, rfl⟩, hw⟩ := h
  exact ⟨⟨m, _, g, rfl⟩, hw⟩

theorem World.axePut_plain (byAddress ordered : Bool) (h : w.plainHbm p off bs.length) (hf : w.hbmFailed p off bs.length = false) :
    ∃ v, w.axePut t c r (0, p, off) byAddress ordered bs = .ok (true, v) ∧ w.HbmPut v p off bs := by
  have hplace : w.placeHas (0, p, off) bs.length = true := decide_eq_true h.2.1
  refine ⟨(w.homeWrite t (coreSource 1 c) p off bs).axeGrains c 0x088 off bs.length, ?_, (World.homeWrite_plain (coreSource 1 c) h).counted _ _⟩
  unfold World.axePut
  dsimp only
  rw [hplace, if_neg Bool.noConfusion, w.currentHit_of_plain h, if_neg (fun h => by cases h.2), hf, if_neg Bool.false_ne_true]
  rfl

/-- A handle that is taken changes its core's guards and the live emissions of its streams only. -/
theorem World.core_release (w : World) (c : Nat) (e : QEntry) : ∃ (gs : List Guard) (live : AxeRun → List Nat),
    (w.release c e).core c = { w.core c with axe := { (w.core c).axe with
      guards := gs, streams := (w.core c).axe.streams.map fun y => { y with live := live y } } } := by
  unfold World.release
  split
  next => exact ⟨_, AxeRun.live, by rw [List.map_id']⟩
  next n he =>
    refine ⟨(w.core c).axe.guards.filter fun g => !(decide (g.stream = n) && decide (g.emission = e.emission)),
      fun y => if y.op.serial = n then y.live.filter fun m => decide (m ≠ e.emission) else y.live, ?_⟩
    rw [World.core_updCore, if_pos rfl]
    have hmap : ((w.core c).axe.streams.map fun y => if y.op.serial = n then { y with live := y.live.filter fun m => decide (m ≠ e.emission) } else y) =
        (w.core c).axe.streams.map fun y => { y with live := if y.op.serial = n then y.live.filter fun m => decide (m ≠ e.emission) else y.live } := by
      refine List.map_congr_left fun y _ => ?_
      split
      · rfl
      · rfl
    rw [hmap]

theorem World.core_release_ne (w : World) (e : QEntry) {d : Nat} (h : d ≠ c) : (w.release c e).core d = w.core d := by
  unfold World.release
  split
  · rfl
  · exact (World.core_updCore _ _ _ _).trans (if_neg h)

theorem World.release_descOf (w : World) (e : QEntry) (i : Nat) : (w.release c e).descOf c i = w.descOf c i := by
  unfold World.release
  split
  · rfl
  · rfl

theorem World.release_memories (w : World) (e : QEntry) : w.memoriesKept (w.release c e) := by
  unfold World.release
  split
  · exact w.memoriesKept_refl
  · exact ⟨rfl, rfl, rfl, rfl⟩

/-- The world once a STORE stream has stored the tile of the handle `e`: the handle is taken and the stream counts. -/
def World.axeStored (v : World) (c : Nat) (r : AxeRun) (e : QEntry) : World :=
  ((v.popQueue c (axeQueue (v.descOf c r.op.desc))).release c e).updStream c r.op.serial fun y => { y with count := y.count + 1 }

theorem World.axeStored_acted (v : World) (e : QEntry) (hs : (v.core c).axe.streams = [r]) : ∃ a y,
    v.Acted (v.axeStored c r e) c (AMap.upd [] (v.core c).queues (axeQueue (v.descOf c r.op.desc)) (·.drop 1)) a ∧ a.streams = [y]
      ∧ y.op = r.op ∧ y.count = r.count + 1 := by
  obtain ⟨gs, live, hrel⟩ := (v.popQueue c (axeQueue (v.descOf c r.op.desc))).core_release c e
  have hpop : (v.popQueue c (axeQueue (v.descOf c r.op.desc))).core c =
      { v.core c with queues := AMap.upd [] (v.core c).queues (axeQueue (v.descOf c r.op.desc)) (·.drop 1) } :=
    (World.core_updCore _ _ _ _).trans (if_pos rfl)
  rw [hpop] at hrel
  have hstream : (((v.popQueue c (axeQueue (v.descOf c r.op.desc))).release c e).core c).axe.streams = [{ r with live := live r }] := by
    rw [hrel]
    exact congrArg _ hs
  refine ⟨{ (v.core c).axe with guards := gs, streams := [{ r with live := live r, count := r.count + 1 }] },
    { r with live := live r, count := r.count + 1 }, ⟨?_, fun d hd => ?_, fun i => ?_⟩, rfl, rfl, rfl⟩
  · rw [World.axeStored, World.core_updStream_of_one (y := { r with live := live r }) hstream, hrel]
  · rw [World.axeStored, World.updStream, World.core_updCore, if_neg hd, World.core_release_ne _ _ hd, World.popQueue, World.core_updCore, if_neg hd]
  · exact World.release_descOf _ e i

theorem World.axeStored_memories (v : World) (e : QEntry) : v.memoriesKept (v.axeStored c r e) := by
  have h := (v.popQueue c (axeQueue (v.descOf c r.op.desc))).release_memories (c := c) e
  exact ⟨h.1, h.2.1, h.2.2.1, h.2.2.2⟩

theorem World.HbmPut.memories {v : World} (h : w.HbmPut v p off bs) : w.onlyHbm v := by
  obtain ⟨⟨m, cs, g, rfl⟩, -⟩ := h
  exact ⟨rfl, rfl, rfl⟩

theorem World.HbmPut.core_eq {v : World} (h : w.HbmPut v p off bs) (d : Nat) : v.core d = w.core d := by
  obtain ⟨⟨m, cs, g, rfl⟩, -⟩ := h
  rfl

theorem World.HbmPut.descOf {v : World} (h : w.HbmPut v p off bs) (d i : Nat) : v.descOf d i = w.descOf d i := by
  obtain ⟨⟨m, cs, g, rfl⟩, -⟩ := h
  rfl

theorem World.HbmPut.after {v u : World} (h : w.HbmPut v p off bs) (hu : v.memoriesKept u) : w.onlyHbm u ∧ w.hbmWrote u p off bs := by
  obtain ⟨hhbm, htun, hstore, hcellar⟩ := hu
  obtain ⟨h1, h2, h3⟩ := h.memories
  refine ⟨⟨htun.trans h1, hstore.trans h2, hcellar.trans h3⟩, ?_⟩
  rw [World.hbmWrote, hhbm]
  exact h.2

theorem World.axeStoreTile_stores {q : QEntry} (hq : w.head c (axeQueue (w.descOf c r.op.desc)) = some q) (hfit : w.handleFits c q = true)
    (hlen : (w.tunRead c (handleAddr q.handle) (16 + (parseHeader (w.tunRead c (handleAddr q.handle) 16)).imageBytes)).length
      ≤ axeStride (w.descOf c r.op.desc))
    (hplace : w.axePlace c (axeMem (w.descOf c r.op.desc)) (w.axeAddr c r.op (r.count * axeStride (w.descOf c r.op.desc))) = some (0, p, off))
    (hplain : w.plainHbm p off (w.tunRead c (handleAddr q.handle) (16 + (parseHeader (w.tunRead c (handleAddr q.handle) 16)).imageBytes)).length)
    (hfail : w.hbmFailed p off (w.tunRead c (handleAddr q.handle) (16 + (parseHeader (w.tunRead c (handleAddr q.handle) 16)).imageBytes)).length = false) :
    ∃ v, w.axeStoreTile t c r = v.axeStored c r q
      ∧ w.HbmPut v p off (w.tunRead c (handleAddr q.handle) (16 + (parseHeader (w.tunRead c (handleAddr q.handle) 16)).imageBytes)) := by
  obtain ⟨v, hput, hv⟩ := World.axePut_plain (t := t) (c := c) (r := r) (decide (axeTable (w.descOf c r.op.desc) = noTable))
    (axeOrdered (w.descOf c r.op.desc) && decide (r.count + 1 = axeTiles (w.descOf c r.op.desc))) hplain hfail
  have hread : ∀ a n, (w.tunRead c a n).length = n := fun a n => by simp [World.tunRead]
  rw [hread] at hlen
  refine ⟨v, ?_, hv⟩
  unfold World.axeStoreTile
  dsimp only
  rw [hq]
  dsimp only
  rw [if_neg (by simp [hfit]), if_neg (by omega), hplace]
  dsimp only
  rw [if_neg (fun h => absurd h.1 (by decide)), hput]
  dsimp only
  rw [World.axeStored, hv.descOf]

variable (hsv : s.inService = true)
include hsv

theorem exec_axeStore_of_runs (h : s.w.axeRuns core.val 1 r) :
    exec (.axeStore core r.op.serial) s = .next { s with w := (s.w.axeStoreTile s.sid core.val r).axeFinish s.sid core.val r.op.serial } :=
  next_of_serve hsv (World.axeAct_of_runs h _)

theorem axeStore_stores {q : QEntry} (h : s.w.axeRuns core.val 1 r) (hq : s.w.head core.val (axeQueue (s.w.descOf core.val r.op.desc)) = some q)
    (hfit : s.w.handleFits core.val q = true)
    (hbs : bs = s.w.tunRead core.val (handleAddr q.handle) (16 + (parseHeader (s.w.tunRead core.val (handleAddr q.handle) 16)).imageBytes))
    (hlen : bs.length ≤ axeStride (s.w.descOf core.val r.op.desc))
    (hplace : s.w.axePlace core.val (axeMem (s.w.descOf core.val r.op.desc))
      (s.w.axeAddr core.val r.op (r.count * axeStride (s.w.descOf core.val r.op.desc))) = some (0, p, off))
    (hplain : s.w.plainHbm p off bs.length) (hfail : s.w.hbmFailed p off bs.length = false) :
    ∃ t, exec (.axeStore core r.op.serial) s = .next t ∧ s.restKept t ∧ s.w.onlyHbm t.w ∧ s.w.hbmWrote t.w p off bs
      ∧ t.w.queue core.val (axeQueue (s.w.descOf core.val r.op.desc)) = (s.w.queue core.val (axeQueue (s.w.descOf core.val r.op.desc))).drop 1
      ∧ (axeTiles (s.w.descOf core.val r.op.desc) ≠ r.count + 1 → ∃ y ∈ (t.w.core core.val).axe.streams, y.op = r.op ∧ y.count = r.count + 1)
      ∧ (axeTiles (s.w.descOf core.val r.op.desc) = r.count + 1 → s.w.opEnded t.w core.val .axe r.op) := by
  subst hbs
  obtain ⟨v, he, hput⟩ := World.axeStoreTile_stores (t := s.sid) hq hfit hlen hplace hplain hfail
  have hx := exec_axeStore_of_runs hsv h
  rw [he] at hx
  obtain ⟨-, -, -, hs, -, -, hop, hheld, hkind, hend⟩ := h
  have hkind2 : axeKind (s.w.descOf core.val r.op.desc) ≠ 2 := by rw [hkind]; decide
  have htotal : axeTotal (s.w.descOf core.val r.op.desc) = axeTiles (s.w.descOf core.val r.op.desc) := by
    rw [axeTotal, hkind]; rfl
  rw [World.axeEnded_of_tiles hkind2, htotal, decide_eq_false_iff_not] at hend
  obtain ⟨a, y, hacted, hay, hyop, hyc⟩ := v.axeStored_acted (c := core.val) (r := r) q (by rw [hput.core_eq]; exact hs)
  have hmem := v.axeStored_memories (c := core.val) (r := r) q
  rw [hput.descOf] at hacted
  generalize v.axeStored core.val r q = u at *
  obtain ⟨hmem', ss, hqs, haxe, hended, hkeep, -⟩ := hacted.finish (t := s.sid) hay (hheld.of_held fun _ => by rw [hput.core_eq]) (by rw [hyop]; exact hop)
  rw [hyop] at hmem' hqs haxe hended
  have heq : v.axeEnded core.val y = decide (axeTiles (s.w.descOf core.val r.op.desc) ≤ r.count + 1) := by
    rw [World.axeEnded_of_tiles (by rw [hput.descOf, hyop]; exact hkind2), hput.descOf, hyop, htotal, hyc]
  obtain ⟨honly, hwrote⟩ := hput.after (hmem.trans hmem')
  refine ⟨_, hx, s.restKept_world _, honly, hwrote, ?_, fun hne => ⟨y, ?_, hyop, hyc⟩, fun htiles => ?_⟩
  · rw [World.queue, hqs, hput.core_eq]
    exact AMap.get_upd_self [] _ _ _
  · rw [haxe, hkeep (.inl (by rw [heq, decide_eq_false_iff_not]; omega))]
    exact List.mem_singleton_self _
  · have := hended (by rw [heq, decide_eq_true_eq]; omega)
    rwa [World.opEnded, hput.core_eq] at this

end Store

section Copy
variable {s : State} {core : CoreId} {w : World} {t : Sid} {c p off : Nat} {bs : List Byte} {r : AxeRun} {x : Nat × Nat × Nat}

/-- The world once a COPY stream has moved one grain more. -/
def World.grainMoved (v : World) (c : Nat) (r : AxeRun) : World :=
  v.updStream c r.op.serial fun y => { y with grains := y.grains + 1, fetched := [], waitTag := none }

/-- A COPY stream with one grain more. -/
def AxeRun.moved (r : AxeRun) : AxeRun := { r with grains := r.grains + 1, fetched := [], waitTag := none }

theorem World.grainMoved_acted (v : World) (hs : (v.core c).axe.streams = [r]) :
    v.Acted (v.grainMoved c r) c (v.core c).queues { (v.core c).axe with streams := [r.moved] } :=
  ⟨World.core_updStream_of_one hs _, fun _ hd => (World.core_updCore _ _ _ _).trans (if_neg hd), fun _ => rfl⟩

theorem World.axeMove_of_ended {y : AxeRun} (hs : w.stream c n = some y) (he : w.axeEnded c y = true) (fuel : Nat) : w.axeMove t c n fuel = w := by
  cases fuel with
  | zero => rfl
  | succ fuel =>
    rw [World.axeMove, hs]
    exact if_pos he

/-- A COPY has ended with its last grain. -/
theorem World.axeEnded_of_copy {y : AxeRun} (hk : axeKind (w.descOf c y.op.desc) = 2) :
    w.axeEnded c y = decide (axeCopyBytes (w.descOf c y.op.desc) ≤ 256 * y.grains) := by
  rw [World.axeEnded]
  exact if_pos hk

/-- The last grain of a COPY to this module's HBM is moved. -/
theorem World.axeMove_last {w1 : World} (hs : (w.core c).axe.streams = [r]) (hk : axeKind (w.descOf c r.op.desc) = 2) (he : w.axeEnded c r = false)
    (hlast : axeCopyBytes (w.descOf c r.op.desc) ≤ 256 * (r.grains + 1))
    (hsrc : w.axePlace c (axeMem (w.descOf c r.op.desc)) (w.axeAddr c r.op (256 * r.grains)) = some x)
    (hdst : w.axePlace c (axeDstMem (w.descOf c r.op.desc)) ((axeDst (w.descOf c r.op.desc) + 256 * r.grains) % 2 ^ 64) = some (0, p, off))
    (hfetch : w.axeFetch t c r x 256 true = .ok (some bs, w1)) (hplain : w.plainHbm p off bs.length) (hfail : w.hbmFailed p off bs.length = false)
    (fuel : Nat) : ∃ v, w.axeMove t c r.op.serial (fuel + 1) = v.grainMoved c r ∧ w.HbmPut v p off bs := by
  obtain ⟨cs, rfl⟩ := World.axeFetch_counters hfetch
  obtain ⟨v, hput, ⟨m, cs', g, rfl⟩, hwrote⟩ := World.axePut_plain (w := { w with counters := cs }) (t := t) (c := c) (r := r) true
    (axeOrdered (w.descOf c r.op.desc) && true) hplain hfail
  refine ⟨_, ?_, ⟨m, cs', g, rfl⟩, hwrote⟩
  have hstream : w.stream c r.op.serial = some r := by simp [World.stream, hs]
  rw [World.axeMove, hstream]
  dsimp only
  rw [if_neg (by simp [he]), hsrc, hdst]
  dsimp only
  rw [if_neg (fun h => absurd h.1 (by decide)), if_neg (fun h => absurd h.1 (by decide)), decide_eq_true hlast,
    show (true && decide (0 ≠ 2)) = true from rfl, hfetch]
  dsimp only
  rw [hput]
  generalize hv : ({ w with hbm := m, counters := cs', fab := { w.fab with guards := g } } : World) = v
  have hcore : (v.grainMoved c r).core c = { v.core c with axe := { (v.core c).axe with streams := [r.moved] } } :=
    (v.grainMoved_acted (by rw [← hv]; exact hs)).core
  have hdesc : (v.grainMoved c r).descOf c r.op.desc = w.descOf c r.op.desc := by rw [← hv]; rfl
  refine World.axeMove_of_ended (w := v.grainMoved c r) (y := r.moved) ?_ ?_ fuel
  · rw [World.stream, hcore]
    simp [AxeRun.moved]
  · rw [World.axeEnded_of_copy (y := r.moved) (by rw [AxeRun.moved, hdesc]; exact hk), AxeRun.moved, hdesc]
    exact decide_eq_true hlast

variable (hsv : s.inService = true)
include hsv

theorem exec_axeCopy_of_runs (h : s.w.axeRuns core.val 2 r) :
    exec (.axeCopy core r.op.serial) s = .next { s with
      w := (s.w.axeMove s.sid core.val r.op.serial (axeCopyBytes (s.w.descOf core.val r.op.desc) / 256 + 1)).axeFinish s.sid core.val r.op.serial } :=
  next_of_serve hsv (World.axeAct_of_runs h _)

theorem axeCopy_moves {w1 : World} (h : s.w.axeRuns core.val 2 r) (hlast : axeCopyBytes (s.w.descOf core.val r.op.desc) ≤ 256 * (r.grains + 1))
    (hlive : r.live = []) (hpred : r.predicted = [])
    (hsrc : s.w.axePlace core.val (axeMem (s.w.descOf core.val r.op.desc)) (s.w.axeAddr core.val r.op (256 * r.grains)) = some x)
    (hdst : s.w.axePlace core.val (axeDstMem (s.w.descOf core.val r.op.desc)) ((axeDst (s.w.descOf core.val r.op.desc) + 256 * r.grains) % 2 ^ 64)
      = some (0, p, off))
    (hfetch : s.w.axeFetch s.sid core.val r x 256 true = .ok (some bs, w1)) (hplain : s.w.plainHbm p off bs.length)
    (hfail : s.w.hbmFailed p off bs.length = false) :
    ∃ t, exec (.axeCopy core r.op.serial) s = .next t ∧ s.restKept t ∧ s.w.onlyHbm t.w ∧ s.w.hbmWrote t.w p off bs
      ∧ (t.w.core core.val).axe.streams = [] ∧ s.w.opEnded t.w core.val .axe r.op := by
  have hx := exec_axeCopy_of_runs hsv h
  obtain ⟨-, -, -, hs, -, -, hop, hheld, hkind, hend⟩ := h
  obtain ⟨v, he, hput⟩ := World.axeMove_last hs hkind hend hlast hsrc hdst hfetch hplain hfail (axeCopyBytes (s.w.descOf core.val r.op.desc) / 256)
  rw [he] at hx
  have hacted := v.grainMoved_acted (c := core.val) (r := r) (by rw [hput.core_eq]; exact hs)
  have hmem : v.memoriesKept (v.grainMoved core.val r) := ⟨rfl, rfl, rfl, rfl⟩
  generalize v.grainMoved core.val r = u at *
  obtain ⟨hmem', ss, -, haxe, hended, -, hgone⟩ := hacted.finish (t := s.sid) rfl (hheld.of_held fun _ => by rw [hput.core_eq]) (y := r.moved) hop
  have hdone : v.axeEnded core.val r.moved = true := by
    rw [World.axeEnded_of_copy (by rw [hput.descOf]; exact hkind), hput.descOf]
    exact decide_eq_true hlast
  rw [show r.moved.op.serial = r.op.serial from rfl] at hmem' haxe hended
  obtain ⟨honly, hwrote⟩ := hput.after (hmem.trans hmem')
  refine ⟨_, hx, s.restKept_world _, honly, hwrote, ?_, ?_⟩
  · rw [haxe]
    exact hgone hdone hlive hpred
  · have := hended hdone
    rwa [World.opEnded, hput.core_eq] at this

end Copy

/-! #### RELAY -/

section Relay
variable {s : State} {core : CoreId} {w : World} {t : Sid} {c : Nat} {r : AxeRun} {q : QEntry}

/-- The world with the zero map's bit of the next tile brought up to date, where the relay predicts. -/
def World.relayMapped (w : World) (c : Nat) (r : AxeRun) (q : QEntry) : World :=
  if axePredict (w.descOf c r.op.desc) then w.setZeroBit c (axeZmap (w.descOf c r.op.desc)) r.count q else w

/-- A bit of a zero map is a byte of tun memory; with it the core's AXE keeps the shape of a tile. -/
theorem World.setZeroBit_eq (w : World) (c zmap n : Nat) (q : QEntry) : ∃ (m : Memory) (f : AMap Word → AMap Word),
    w.setZeroBit c zmap n q = World.updCore { w with tun := m } c fun x => { x with axe := { x.axe with shapes := f x.axe.shapes } } :=
  ⟨_, fun a => AMap.set 0 a (zmap * 2 ^ 24 + n) q.handle, rfl⟩

theorem World.relayMapped_facts (w : World) (c : Nat) (r : AxeRun) (q : QEntry) : w.onlyTun (w.relayMapped c r q)
    ∧ (axePredict (w.descOf c r.op.desc) = false → w.memoriesKept (w.relayMapped c r q)) ∧ (∀ d i, (w.relayMapped c r q).descOf d i = w.descOf d i)
    ∧ (∀ d, d ≠ c → (w.relayMapped c r q).core d = w.core d)
    ∧ ∃ shapes, (w.relayMapped c r q).core c = { w.core c with axe := { (w.core c).axe with shapes := shapes } } := by
  unfold World.relayMapped
  split
  next h =>
    obtain ⟨m, f, hf⟩ := w.setZeroBit_eq c (axeZmap (w.descOf c r.op.desc)) r.count q
    rw [hf]
    refine ⟨⟨rfl, rfl, rfl⟩, fun hp => absurd (h.symm.trans hp) Bool.noConfusion, fun _ _ => rfl, fun d hd => ?_, f (w.core c).axe.shapes, ?_⟩
    · exact (World.core_updCore _ _ _ _).trans (if_neg hd)
    · exact (World.core_updCore _ _ _ _).trans (if_pos rfl)
  next => exact ⟨⟨rfl, rfl, rfl⟩, fun _ => w.memoriesKept_refl, fun _ _ => rfl, fun _ _ => rfl, _, rfl⟩

/-- The world once a stream has passed on the handle `q`, entry `n` of queue `src`, to queue `dst`, and counted it. -/
def World.passedOn (w : World) (c serial src dst n : Nat) (q : QEntry) : World :=
  ((w.updCore c fun x => { x with queues := AMap.upd [] x.queues src (·.eraseIdx n) }).pushQueue c dst q).updStream c serial fun y =>
    { y with count := y.count + 1 }

theorem World.passedOn_memories (w : World) (c serial src dst n : Nat) (q : QEntry) : w.memoriesKept (w.passedOn c serial src dst n q) :=
  ((w.updCore_memories _ _).trans (World.updCore_memories _ _ _)).trans (World.updCore_memories _ _ _)

theorem World.passedOn_acted (hs : (w.core c).axe.streams = [r]) (src dst n : Nat) : w.Acted (w.passedOn c r.op.serial src dst n q) c
    (AMap.upd [] (AMap.upd [] (w.core c).queues src (·.eraseIdx n)) dst (· ++ [q]))
    { (w.core c).axe with streams := [{ r with count := r.count + 1 }] } := by
  have hpush : ((w.updCore c fun x => { x with queues := AMap.upd [] x.queues src (·.eraseIdx n) }).pushQueue c dst q).core c =
      { w.core c with queues := AMap.upd [] (AMap.upd [] (w.core c).queues src (·.eraseIdx n)) dst (· ++ [q]) } := by
    rw [World.pushQueue, World.core_updCore, if_pos rfl, World.core_updCore, if_pos rfl]
  refine ⟨?_, fun d hd => ?_, fun i => ?_⟩
  · rw [World.passedOn, World.core_updStream_of_one (y := r) (by rw [hpush]; exact hs), hpush]
  · rw [World.passedOn, World.updStream, World.core_updCore, if_neg hd, World.pushQueue, World.core_updCore, if_neg hd, World.core_updCore, if_neg hd]
  · rw [World.passedOn, World.updStream, World.updCore_descOf, World.pushQueue, World.updCore_descOf, World.updCore_descOf]

/-- The world once a RELAY stream has passed on the handle `q`. -/
def World.relayed (w : World) (c : Nat) (r : AxeRun) (q : QEntry) : World :=
  (w.relayMapped c r q).passedOn c r.op.serial (axeSrcQueue (w.descOf c r.op.desc)) (axeQueue (w.descOf c r.op.desc)) r.predicted.length q

theorem World.relayed_memories (w : World) (c : Nat) (r : AxeRun) (q : QEntry) : (w.relayMapped c r q).memoriesKept (w.relayed c r q) :=
  World.passedOn_memories _ _ _ _ _ _ _

theorem World.relayed_acted (hs : (w.core c).axe.streams = [r]) : ∃ shapes, w.Acted (w.relayed c r q) c
    (AMap.upd [] (AMap.upd [] (w.core c).queues (axeSrcQueue (w.descOf c r.op.desc)) (·.eraseIdx r.predicted.length)) (axeQueue (w.descOf c r.op.desc))
      (· ++ [q])) { (w.core c).axe with shapes := shapes, streams := [{ r with count := r.count + 1 }] } := by
  obtain ⟨-, -, hdesc, hother, shapes, hcore⟩ := w.relayMapped_facts c r q
  unfold World.relayed
  generalize w.relayMapped c r q = u at *
  obtain ⟨hc, ho, hd⟩ := World.passedOn_acted (w := u) (c := c) (r := r) (q := q) (by rw [hcore]; exact hs) (axeSrcQueue (w.descOf c r.op.desc))
    (axeQueue (w.descOf c r.op.desc)) r.predicted.length
  rw [hcore] at hc
  exact ⟨shapes, hc, fun d h => (ho d h).trans (hother d h), fun i => (hd i).trans (hdesc c i)⟩

theorem World.axeRelayNext_real (hq : w.queueFull c (axeQueue (w.descOf c r.op.desc)) = false) (hreal : w.relayReal c r = some q)
    (hfit : w.handleFits c q = true) : w.axeRelayNext t c r = w.relayed c r q := by
  unfold World.axeRelayNext
  dsimp only
  rw [if_neg (by simp [hq]), hreal]
  dsimp only
  rw [if_neg (by simp [hfit])]
  rfl

/-- The handle of a predicted zero: the shape that the tile had before, numbered by the relay's count (R171). -/
def World.predictedEntry (w : World) (c : Nat) (r : AxeRun) : QEntry :=
  let h := AMap.get 0 (w.core c).axe.shapes (axeZmap (w.descOf c r.op.desc) * 2 ^ 24 + r.count)
  { handle := makeHandle (handleAddr h) (handleRows h) (handleCols h) (handleFormat h) r.count, stream := some r.op.serial, emission := r.count
    predicted := true }

/-- The world once a RELAY stream has passed on a predicted zero. -/
def World.relayGuessed (w : World) (c : Nat) (r : AxeRun) : World :=
  ((w.pushQueue c (axeQueue (w.descOf c r.op.desc)) (w.predictedEntry c r)).updStream c r.op.serial fun y => { y with count := y.count + 1 }).updStream c
    r.op.serial fun y => { y with predicted := y.predicted ++ [r.count] }

theorem World.relayGuessed_acted (hs : (w.core c).axe.streams = [r]) : w.Acted (w.relayGuessed c r) c
    (AMap.upd [] (w.core c).queues (axeQueue (w.descOf c r.op.desc)) (· ++ [w.predictedEntry c r]))
    { (w.core c).axe with streams := [{ r with count := r.count + 1, predicted := r.predicted ++ [r.count] }] } := by
  have hpush : (w.pushQueue c (axeQueue (w.descOf c r.op.desc)) (w.predictedEntry c r)).core c = { w.core c with
      queues := AMap.upd [] (w.core c).queues (axeQueue (w.descOf c r.op.desc)) (· ++ [w.predictedEntry c r]) } :=
    (World.core_updCore _ _ _ _).trans (if_pos rfl)
  have hcount := World.core_updStream_of_one (v := w.pushQueue c (axeQueue (w.descOf c r.op.desc)) (w.predictedEntry c r)) (c := c) (y := r)
    (by rw [hpush]; exact hs) fun y => { y with count := y.count + 1 }
  rw [hpush] at hcount
  refine ⟨?_, fun d hd => ?_, fun i => ?_⟩
  · rw [World.relayGuessed, World.core_updStream_of_one (y := { r with count := r.count + 1 }) (by rw [hcount]), hcount]
  · rw [World.relayGuessed, World.updStream, World.core_updCore, if_neg hd, World.updStream, World.core_updCore, if_neg hd, World.pushQueue,
      World.core_updCore, if_neg hd]
  · rw [World.relayGuessed, World.updStream, World.updCore_descOf, World.updStream, World.updCore_descOf, World.pushQueue, World.updCore_descOf]

theorem World.axeRelayNext_guess (hq : w.queueFull c (axeQueue (w.descOf c r.op.desc)) = false) (hreal : w.relayReal c r = none)
    (hp : axePredict (w.descOf c r.op.desc) = true) (hz : w.zeroBit c (axeZmap (w.descOf c r.op.desc)) r.count = true) :
    w.axeRelayNext t c r = w.relayGuessed c r := by
  unfold World.axeRelayNext
  dsimp only
  rw [if_neg (by simp [hq]), hreal]
  dsimp only
  rw [if_pos ⟨hp, hz⟩]
  rfl

theorem axeTotal_of_relay {d : List Byte} (h : axeKind d = 3) : axeTotal d = axeTiles d := by
  rw [axeTotal, h]
  rfl

variable (hsv : s.inService = true)
include hsv

theorem exec_axeRelay_of_runs (h : s.w.axeRuns core.val 3 r) :
    exec (.axeRelay core r.op.serial) s = .next { s with w := (s.w.axeRelayNext s.sid core.val r).axeFinish s.sid core.val r.op.serial } :=
  next_of_serve hsv (World.axeAct_of_runs h _)

theorem axeRelay_real (h : s.w.axeRuns core.val 3 r) (hq : s.w.queueFull core.val (axeQueue (s.w.descOf core.val r.op.desc)) = false)
    (hne : axeSrcQueue (s.w.descOf core.val r.op.desc) ≠ axeQueue (s.w.descOf core.val r.op.desc)) (hreal : s.w.relayReal core.val r = some q)
    (hfit : s.w.handleFits core.val q = true) :
    ∃ t, exec (.axeRelay core r.op.serial) s = .next t ∧ s.restKept t ∧ s.w.onlyTun t.w
      ∧ (axePredict (s.w.descOf core.val r.op.desc) = false → s.w.memoriesKept t.w)
      ∧ t.w.queue core.val (axeSrcQueue (s.w.descOf core.val r.op.desc))
          = (s.w.queue core.val (axeSrcQueue (s.w.descOf core.val r.op.desc))).eraseIdx r.predicted.length
      ∧ t.w.queue core.val (axeQueue (s.w.descOf core.val r.op.desc)) = s.w.queue core.val (axeQueue (s.w.descOf core.val r.op.desc)) ++ [q]
      ∧ (axeTiles (s.w.descOf core.val r.op.desc) = r.count + 1 → s.w.opEnded t.w core.val .axe r.op) := by
  have hx := exec_axeRelay_of_runs hsv h
  rw [World.axeRelayNext_real hq hreal hfit] at hx
  obtain ⟨-, -, -, hs, -, -, hop, hheld, hkind, -⟩ := h
  obtain ⟨hmap, hmapped, -, -, -⟩ := s.w.relayMapped_facts core.val r q
  obtain ⟨shapes, hacted⟩ := World.relayed_acted (w := s.w) (c := core.val) (q := q) hs
  have hmem := s.w.relayed_memories core.val r q
  generalize s.w.relayed core.val r q = v at *
  obtain ⟨hmem', ss, hqs, haxe, hended, -, -⟩ := hacted.finish (t := s.sid) (y := { r with count := r.count + 1 }) rfl hheld hop
  have hkept := hmem.trans hmem'
  refine ⟨_, hx, s.restKept_world _, ⟨hkept.1.trans hmap.1, hkept.2.2.1.trans hmap.2.1, hkept.2.2.2.trans hmap.2.2⟩,
    fun hp => (hmapped hp).trans hkept, ?_, ?_, fun htiles => hended ?_⟩
  · rw [World.queue, hqs, AMap.get_upd_ne _ _ _ hne]
    exact AMap.get_upd_self [] _ _ _
  · rw [World.queue, hqs, AMap.get_upd_self, AMap.get_upd_ne _ _ _ hne.symm]
    rfl
  · rw [World.axeEnded_of_tiles (y := { r with count := r.count + 1 }) (by show axeKind (s.w.descOf core.val r.op.desc) ≠ 2; rw [hkind]; decide),
      decide_eq_true_eq, axeTotal_of_relay hkind, htiles]

theorem axeRelay_guess (h : s.w.axeRuns core.val 3 r) (hq : s.w.queueFull core.val (axeQueue (s.w.descOf core.val r.op.desc)) = false)
    (hreal : s.w.relayReal core.val r = none) (hp : axePredict (s.w.descOf core.val r.op.desc) = true)
    (hz : s.w.zeroBit core.val (axeZmap (s.w.descOf core.val r.op.desc)) r.count = true) :
    ∃ t q, exec (.axeRelay core r.op.serial) s = .next t ∧ s.restKept t ∧ s.w.memoriesKept t.w
      ∧ t.w.queue core.val (axeQueue (s.w.descOf core.val r.op.desc)) = s.w.queue core.val (axeQueue (s.w.descOf core.val r.op.desc)) ++ [q]
      ∧ q.predicted = true ∧ q.stream = some r.op.serial ∧ q.emission = r.count ∧ handleIndex q.handle = r.count % 2 ^ 16
      ∧ ∃ y ∈ (t.w.core core.val).axe.streams, y.op = r.op ∧ y.predicted = r.predicted ++ [r.count] := by
  have hx := exec_axeRelay_of_runs hsv h
  rw [World.axeRelayNext_guess hq hreal hp hz] at hx
  obtain ⟨-, -, -, hs, -, -, hop, hheld, -, -⟩ := h
  have hacted := World.relayGuessed_acted (w := s.w) hs
  have hmem : s.w.memoriesKept (s.w.relayGuessed core.val r) :=
    ((World.updCore_memories _ _ _).trans (World.updCore_memories _ _ _)).trans (World.updCore_memories _ _ _)
  generalize s.w.relayGuessed core.val r = v at *
  obtain ⟨hmem', ss, hqs, haxe, -, hkeep, -⟩ := hacted.finish (t := s.sid)
    (y := { r with count := r.count + 1, predicted := r.predicted ++ [r.count] }) rfl hheld hop
  refine ⟨_, s.w.predictedEntry core.val r, hx, s.restKept_world _, hmem.trans hmem', ?_, rfl, rfl, rfl, handleIndex_makeHandle _ _ _ _ _,
    { r with count := r.count + 1, predicted := r.predicted ++ [r.count] }, ?_, rfl, rfl⟩
  · rw [World.queue, hqs]
    exact AMap.get_upd_self [] _ _ _
  · rw [haxe, hkeep (.inr (.inr (by simp)))]
    exact List.mem_singleton_self _

end Relay

/-- Settles O27: in each clause the core's one stream acts, and then ends or goes on. -/
theorem axeStreamsMoveTiles : Obligations.AxeStreamsMoveTiles := by
  intro s core r hsv
  exact ⟨fun x bs w1 h hb hq hp ht => axeLoad_emits hsv h hb hq hp ht,
    fun q p off h hq hfit hlen hp hplain hf => axeStore_stores hsv h hq hfit rfl hlen hp hplain hf,
    fun x p off bs w1 h hlast hlive hpred hsrc _ hdst hfetch hplain hf => axeCopy_moves hsv h hlast hlive hpred hsrc hdst hfetch hplain hf,
    fun q h hq hne hreal hfit => axeRelay_real hsv h hq hne hreal hfit,
    fun h hq hreal hp hz => axeRelay_guess hsv h hq hreal hp hz⟩

end Sys2Proof.Machine

namespace Sys2Proof.Machine

/-! ### Time distribution (R430 to R438) -/

section Median

theorem insertInt_eq_orderedInsert (x : Int) (ys : List Int) : insertInt x ys = ys.orderedInsert (· ≤ ·) x := by
  induction ys with
  | nil => rfl
  | cons y ys ih => rw [insertInt, List.orderedInsert_cons, ih]

/-- The list that the median is taken from: ascending, and the offsets in another order. -/
theorem sortedInts (xs ys : List Int) (h : ys.Pairwise (· ≤ ·)) :
    (xs.foldl (fun l x => insertInt x l) ys).Pairwise (· ≤ ·) ∧ (xs.foldl (fun l x => insertInt x l) ys).Perm (xs ++ ys) := by
  induction xs generalizing ys with
  | nil => exact ⟨h, .refl _⟩
  | cons x xs ih =>
    have hx : (insertInt x ys).Pairwise (· ≤ ·) := by
      rw [insertInt_eq_orderedInsert]
      exact h.orderedInsert x ys
    have hp : (insertInt x ys).Perm (x :: ys) := by
      rw [insertInt_eq_orderedInsert]
      exact List.perm_orderedInsert _ _ _
    obtain ⟨hs, hperm⟩ := ih _ hx
    exact ⟨hs, hperm.trans ((hp.append_left xs).trans List.perm_middle)⟩

/-- Of eight offsets four are at most the median, and four at least. -/
theorem medianOf_middle (xs : List Int) (h : xs.length = 8) : 4 ≤ (xs.filter fun x => decide (x ≤ medianOf xs)).length
    ∧ 4 ≤ (xs.filter fun x => decide (medianOf xs ≤ x)).length := by
  obtain ⟨hs, hperm⟩ := sortedInts xs [] .nil
  rw [List.append_nil] at hperm
  unfold medianOf
  generalize xs.foldl (fun l x => insertInt x l) [] = l at *
  have hl : l.length = 8 := hperm.length_eq.trans h
  obtain ⟨a, b, c, d, e, f, g, k, rfl⟩ : ∃ a b c d e f g k, l = [a, b, c, d, e, f, g, k] := by
    match l, hl with
    | [a, b, c, d, e, f, g, k], _ => exact ⟨a, b, c, d, e, f, g, k, rfl⟩
  have hmid : d ≤ (d + e) / 2 ∧ (d + e) / 2 ≤ e := by
    have : d ≤ e := by simp_all
    omega
  rw [show ([a, b, c, d, e, f, g, k].getD 3 0 + [a, b, c, d, e, f, g, k].getD 4 0) / 2 = (d + e) / 2 from rfl]
  generalize (d + e) / 2 = m at *
  simp only [List.pairwise_cons, List.mem_cons, forall_eq_or_imp] at hs
  obtain ⟨⟨-, -, had, -⟩, ⟨-, hbd, -⟩, ⟨hcd, -⟩, -, ⟨hef, heg, hek, -⟩, -⟩ := hs
  obtain ⟨hlo, hhi⟩ := hmid
  rw [← (hperm.filter _).length_eq, ← (hperm.filter _).length_eq]
  refine ⟨(List.Sublist.filter _ (List.take_sublist 4 _)).length_le.trans' ?_, (List.Sublist.filter _ (List.drop_sublist 4 _)).length_le.trans' ?_⟩
  · simp [had.trans hlo, hbd.trans hlo, hcd.trans hlo, hlo]
  · simp [hhi, hhi.trans hef, hhi.trans heg, hhi.trans hek]

/-- A counter corrected by its second offset is at a whole second. -/
theorem secondOffset_aligns (now : Nat) : ((now : Int) + secondOffset now) % 1000000000 = 0 ∧ (secondOffset now).natAbs ≤ 500000000 := by
  unfold secondOffset
  dsimp only
  split <;> omega

end Median

section Follow
variable {t : Sid} {d : Int}

theorem Sid.correct_of_canStep (h : t.canStep = true) :
    t.correct d = { t.stepBy d with offsets := t.offsets.map (· - d), pendingSlew := 0 } := if_pos h

theorem Sid.correct_of_not_canStep (h : t.canStep = false) : t.correct d = { t with pendingSlew := if d.natAbs ≤ 1 then 0 else d } :=
  if_neg (by simp [h])

theorem Sid.correct_lock (t : Sid) (d : Int) : (t.correct d).lock = t.lock ∧ (t.correct d).holdoverAt = t.holdoverAt := by
  unfold Sid.correct
  split
  · exact ⟨rfl, rfl⟩
  · exact ⟨rfl, rfl⟩

/-- A follower's counter after the marks' offsets `offs`, the newest first. -/
def Sid.marked (t : Sid) (offs : List Int) : Sid :=
  { t with offsets := offs, holdoverAt := none, lock := if t.lock = SidLock.locked then SidLock.locked else SidLock.acquiring }

theorem Sid.heed_of_few (h : ((d :: t.offsets).take 8).length < 8) : t.heed d = t.marked ((d :: t.offsets).take 8) := by
  dsimp only [Sid.heed, Sid.median]
  rw [if_neg (by omega)]
  rfl

theorem Sid.heed_of_eight (h : ((d :: t.offsets).take 8).length = 8) :
    ∃ good lock, t.heed d = { t.marked ((d :: t.offsets).take 8) with goodMarks := good, lock := lock }.correct (medianOf ((d :: t.offsets).take 8))
      ∧ (lock = SidLock.locked ↔ (medianOf ((d :: t.offsets).take 8)).natAbs ≤ 4 ∧ 15 ≤ t.goodMarks) := by
  refine ⟨if (medianOf ((d :: t.offsets).take 8)).natAbs ≤ 4 then t.goodMarks + 1 else 0,
    if 16 ≤ (if (medianOf ((d :: t.offsets).take 8)).natAbs ≤ 4 then t.goodMarks + 1 else 0) then SidLock.locked else SidLock.acquiring, ?_, ?_⟩
  · dsimp only [Sid.heed, Sid.median]
    rw [if_pos h]
    rfl
  · generalize (medianOf ((d :: t.offsets).take 8)).natAbs = k
    by_cases hm : k ≤ 4
    · by_cases hg : 15 ≤ t.goodMarks
      · simp [hm, hg]
      · simp [hm, hg]
    · simp [hm]

/-- What a mark of the parent leaves (R433 to R436). -/
theorem Sid.follow_facts (t : Sid) (d : Int) :
    (t.follow d).lastMark = (t.follow d).now ∧ (t.follow d).holdoverAt = none
      ∧ (((d :: t.offsets).take 8).length < 8 → (t.follow d).now = t.now ∧ (t.follow d).offsets = (d :: t.offsets).take 8)
      ∧ (((d :: t.offsets).take 8).length = 8 →
        ((t.follow d).lock = .locked ↔ (medianOf ((d :: t.offsets).take 8)).natAbs ≤ 4 ∧ 15 ≤ t.goodMarks)
        ∧ (t.canStep = true → (t.follow d).now = ((t.now : Int) + medianOf ((d :: t.offsets).take 8)).toNat % 2 ^ 64
          ∧ (t.follow d).offsets = ((d :: t.offsets).take 8).map (· - medianOf ((d :: t.offsets).take 8)))
        ∧ (t.canStep = false → (t.follow d).now = t.now
          ∧ (t.follow d).pendingSlew = if (medianOf ((d :: t.offsets).take 8)).natAbs ≤ 1 then 0 else medianOf ((d :: t.offsets).take 8))) := by
  have hlen : ((d :: t.offsets).take 8).length ≤ 8 := by simp
  refine ⟨rfl, ?_, fun h => ?_, fun h => ?_⟩
  · show (t.heed d).holdoverAt = none
    by_cases h : ((d :: t.offsets).take 8).length = 8
    · obtain ⟨good, lock, hr, -⟩ := Sid.heed_of_eight h
      rw [hr, (Sid.correct_lock _ _).2]
      rfl
    · rw [Sid.heed_of_few (by omega)]
      rfl
  · show (t.heed d).now = t.now ∧ (t.heed d).offsets = (d :: t.offsets).take 8
    rw [Sid.heed_of_few h]
    exact ⟨rfl, rfl⟩
  · obtain ⟨good, lock, hr, hlock⟩ := Sid.heed_of_eight h
    refine ⟨?_, fun hc => ?_, fun hc => ?_⟩
    · show (t.heed d).lock = .locked ↔ _
      rw [hr, (Sid.correct_lock _ _).1]
      exact hlock
    · rw [Sid.correct_of_canStep (t := { t.marked _ with goodMarks := good, lock := lock }) hc] at hr
      rw [Sid.follow, hr]
      exact ⟨rfl, rfl⟩
    · rw [Sid.correct_of_not_canStep (t := { t.marked _ with goodMarks := good, lock := lock }) hc] at hr
      rw [Sid.follow, hr]
      exact ⟨rfl, rfl⟩

/-- What a root's reference leaves (R437). -/
theorem Sid.discipline_facts (t : Sid) (d : Int) : (t.discipline d).lock = .root ∧ (t.discipline d).holdoverAt = none
    ∧ (t.canStep = true → (t.discipline d).now = ((t.now : Int) + d).toNat % 2 ^ 64)
    ∧ (t.canStep = false → (t.discipline d).now = t.now ∧ (t.discipline d).pendingSlew = if d.natAbs ≤ 1 then 0 else d) := by
  refine ⟨(Sid.correct_lock _ _).1, (Sid.correct_lock _ _).2, fun hc => ?_, fun hc => ?_⟩
  · rw [Sid.discipline, Sid.correct_of_canStep (t := { t with lock := .root, holdoverAt := none }) hc]
    rfl
  · rw [Sid.discipline, Sid.correct_of_not_canStep (t := { t with lock := .root, holdoverAt := none }) hc]
    exact ⟨rfl, rfl⟩

end Follow

section Steps
variable {s : State}

theorem World.emitAll_eq {α : Type} (f : α → Output) (xs : List α) (w : World) :
    xs.foldl (fun w x => w.emit (f x)) w = { w with out := w.out ++ xs.map f } := by
  induction xs generalizing w with
  | nil => simp
  | cons x xs ih =>
    rw [List.foldl_cons, ih, List.map_cons, ← List.singleton_append, ← List.append_assoc]
    rfl

theorem timeMarkSend_sends (hs : s.inService = true) : ∃ t, exec .timeMarkSend s = .next t ∧ s.restKept t
    ∧ t.w = { s.w with out := s.w.out ++ ((List.range 48).filter s.w.portUp).map fun i => .mark i s.sid.now } :=
  ⟨_, next_of_serve hs (World.emitAll_eq _ _ _), s.restKept_world _, rfl⟩

theorem timeMark_follows (hs : s.inService = true) {port : PortId} (value : BitVec 64) (hr : s.sid.isRoot = false)
    (hp : s.sid.parent = some port.val) (hu : s.w.portUp port.val = true) :
    exec (.timeMark port value) s = .next { s with
      sid := s.sid.follow ((value.toNat + halfTrip (AMap.get {} s.w.fab.ports port.val).rttTenthNs : Nat) - (s.sid.now : Int))
      w := s.w.tick .sid 0 0x080 } :=
  if_neg (by simp [hs, hr, hp, hu])

theorem timeMark_ignores {port : PortId} (value : BitVec 64) (hp : s.sid.parent ≠ some port.val) : exec (.timeMark port value) s = .next s :=
  if_pos (.inr (.inr (.inl hp)))

theorem State.holdover_loses (h : s.sid.lock ≠ .holdover) : s.holdover.pwr = s.pwr ∧ s.holdover.sec = s.sec ∧ s.holdover.pending = s.pending
    ∧ s.w.memoriesKept s.holdover.w ∧ s.holdover.sid.lock = .holdover ∧ s.holdover.sid.holdoverAt = some s.sid.now ∧ s.holdover.sid.now = s.sid.now
    ∧ s.w.counted s.holdover.w .sid 0 0x090 ∧ s.w.saw s.holdover.w 2 (ioSource 10) 0x130 (s.sid.parent.getD 0x3F) := by
  have hn := World.raise_Noted (w := s.w) (t := s.sid) (ioSource 10) 0x130 (s.sid.parent.getD 0x3F)
  have hsaw := World.raise_saw (w := s.w) (t := s.sid) (src := ioSource 10) (code := 0x130) (payload := s.sid.parent.getD 0x3F) (by decide) (by decide)
  rw [State.holdover, if_neg h]
  refine ⟨rfl, rfl, rfl, hn.noted.memories.trans (World.tick_noted _ _ _ _).memories, rfl, rfl, rfl, ?_, hsaw⟩
  rw [World.counted, World.counter_tick_self, World.counter, hn.counter _ (not_notedCounter (by decide) (by decide) (by decide) (by decide)),
    World.counter]

theorem timeHoldover_holds (hs : s.inService = true) {p : Nat} (hr : s.sid.isRoot = false) (hp : s.sid.parent = some p)
    (hl : s.sid.lastMark + 100000 ≤ s.sid.now) : exec .timeHoldover s = .next s.holdover :=
  if_neg (by simp [hs, hr, hp, hl])

theorem ptpOrPpsInLost_holds (hs : s.inService = true) (hr : s.sid.isRoot = true) (hc : s.w.config.sidSource = 1 ∨ s.w.config.sidSource = 2) :
    exec .ptpOrPpsInLost s = .next s.holdover :=
  if_pos ⟨hs, hr, hc⟩

theorem World.hear_of_hears {w : World} {port : Nat} (h : w.ethHears port = true) (f : World → World) : w.hear port f = f (w.tick .eth 0 0x080) := by
  have hup : w.ethUp port = true := by
    rw [World.ethHears, Bool.and_eq_true] at h
    exact h.1
  rw [World.hear, if_neg (by simp [hup])]
  exact if_pos h

theorem ptpMessage_disciplines (hs : s.inService = true) (hr : s.sid.isRoot = true) (o : RefOffset) {e : EthEntry} (hc : s.w.config.sidSource = 1)
    (he : s.w.ethRole 5 = some e) (hh : s.w.ethHears e.port = true) :
    exec (.ptpMessage o) s = .next { s with sid := s.sid.discipline o.offset, w := (s.w.tick .eth 0 0x080).tick .eth 0 0x0B0 } := by
  have hup : s.w.ethUp e.port = true := by
    rw [World.ethHears, Bool.and_eq_true] at hh
    exact hh.1
  show execPtpMessage o s = _
  rw [execPtpMessage, he]
  dsimp only
  rw [if_neg (by simp [hs, hup]), World.hear_of_hears hh]
  exact if_pos ⟨hr, hc, hh⟩

theorem ppsInEdge_disciplines (hs : s.inService = true) (hr : s.sid.isRoot = true) (hc : s.w.config.sidSource = 2) :
    exec .ppsInEdge s = .next { s with sid := s.sid.discipline (secondOffset s.sid.now) } :=
  if_pos ⟨hs, hr, hc⟩

/-- One millisecond of slewing. -/
theorem slewTick_slews (hp : s.pwr.phase ≠ .off) (hd : s.sid.pendingSlew ≠ 0) : ∃ t, exec .slewTick s = .next t ∧ t.pwr = s.pwr ∧ t.sec = s.sec
    ∧ t.pending = s.pending ∧ s.w.memoriesKept t.w
    ∧ t.w.counter .sid 0 0x088 = s.w.counter .sid 0 0x088 + BitVec.ofNat 64 (min s.sid.pendingSlew.natAbs 50)
    ∧ t.sid.pendingSlew.natAbs + min s.sid.pendingSlew.natAbs 50 = s.sid.pendingSlew.natAbs
    ∧ (0 < s.sid.pendingSlew → t.sid.now = (s.sid.now + min s.sid.pendingSlew.natAbs 50) % 2 ^ 64)
    ∧ (s.sid.pendingSlew < 0 → t.sid.now = s.sid.now ∧ t.sid.hold = s.sid.hold + min s.sid.pendingSlew.natAbs 50) := by
  have hn : ¬ (s.pwr.phase = .off ∨ min s.sid.pendingSlew.natAbs 50 = 0) := not_or.mpr ⟨hp, by omega⟩
  refine ⟨_, if_neg hn, rfl, rfl, rfl, (World.count_noted _ _ _).memories, World.counter_count_self _ _ _, ?_, fun h => ?_, fun h => ?_⟩
  · by_cases h : s.sid.pendingSlew < 0
    · simp only [h, if_true]
      omega
    · simp only [h, if_false]
      omega
  · simp only [show ¬ s.sid.pendingSlew < 0 by omega, if_false]
  · rw [if_pos h]
    exact ⟨rfl, rfl⟩

end Steps

/-- Settles O50: each command of the time distribution gives its state outright; the median and the second's offset are arithmetic. -/
theorem timeFollowsItsParent : Obligations.TimeFollowsItsParent := by
  refine ⟨medianOf_middle, secondOffset_aligns, fun s => ⟨fun hs => ⟨timeMarkSend_sends hs, fun port value hr hp hu => ?_,
    fun port value hp => timeMark_ignores value hp, fun hl => ⟨fun p hr hp hm => ⟨_, timeHoldover_holds hs hr hp hm, State.holdover_loses hl⟩,
      fun hr hc => ⟨_, ptpOrPpsInLost_holds hs hr hc, State.holdover_loses hl⟩⟩, fun hr => ⟨fun o e hc he hh => ?_, fun hc => ?_⟩⟩,
    fun hp => ⟨⟨_, if_neg hp, s.restKept_world _, rfl⟩, fun hd => slewTick_slews hp hd⟩⟩⟩
  · exact ⟨_, timeMark_follows hs value hr hp hu, rfl, rfl, rfl, (World.tick_noted _ _ _ _).memories, rfl, World.counter_tick_self _ _ _ _,
      Sid.follow_facts _ _⟩
  · refine ⟨_, ptpMessage_disciplines hs hr o hc he hh, ⟨rfl, rfl, rfl, Sid.discipline_facts _ _⟩, ?_⟩
    rw [World.counted, World.counter_tick_self, World.counter_tick_ne _ (by decide) (by decide) (by decide)]
  · exact ⟨_, ppsInEdge_disciplines hs hr hc, rfl, ⟨rfl, rfl, rfl, Sid.discipline_facts _ _⟩⟩

end Sys2Proof.Machine

namespace Sys2Proof.Machine

/-! ### Stripes and their parity (R471) -/

section Parity
variable {n L : Nat}

/-- The XOR of lists of `L` bytes. -/
def xorLists (L : Nat) (xs : List (List Byte)) : List Byte := xs.foldl (fun a x => a.zipWith (· ^^^ ·) x) (List.replicate L 0)

/-- The XOR of bytes. -/
def xorBytes (bs : List Byte) : Byte := bs.foldl (· ^^^ ·) 0

theorem zero_xor_byte (b : Byte) : 0 ^^^ b = b := BitVec.zero_xor

theorem foldl_xor (bs : List Byte) (a : Byte) : bs.foldl (· ^^^ ·) a = a ^^^ xorBytes bs := by
  induction bs generalizing a with
  | nil => simp [xorBytes]
  | cons b bs ih => rw [xorBytes, List.foldl_cons, List.foldl_cons, ih, ih (0 ^^^ b), zero_xor_byte, BitVec.xor_assoc]

theorem xorBytes_append (as bs : List Byte) : xorBytes (as ++ bs) = xorBytes as ^^^ xorBytes bs := by
  rw [xorBytes, List.foldl_append, foldl_xor]
  rfl

theorem xorBytes_cons (a : Byte) (bs : List Byte) : xorBytes (a :: bs) = a ^^^ xorBytes bs := by
  rw [xorBytes, List.foldl_cons, zero_xor_byte, foldl_xor]

theorem foldl_zipWith_xor (xs : List (List Byte)) (a : List Byte) (ha : a.length = L) (h : ∀ x ∈ xs, x.length = L) :
    (xs.foldl (fun a x => a.zipWith (· ^^^ ·) x) a).length = L
      ∧ ∀ i < L, (xs.foldl (fun a x => a.zipWith (· ^^^ ·) x) a).getD i 0 = (xs.map fun x => x.getD i 0).foldl (· ^^^ ·) (a.getD i 0) := by
  induction xs generalizing a with
  | nil => exact ⟨ha, fun i _ => rfl⟩
  | cons x xs ih =>
    have hx : x.length = L := h x (by simp)
    obtain ⟨hlen, hget⟩ := ih (a.zipWith (· ^^^ ·) x) (by simp [ha, hx]) fun y hy => h y (List.mem_cons_of_mem _ hy)
    refine ⟨hlen, fun i hi => (hget i hi).trans ?_⟩
    have hstep : (a.zipWith (· ^^^ ·) x).getD i 0 = a.getD i 0 ^^^ x.getD i 0 := by
      simp [List.getD_eq_getElem?_getD, ha, hx, hi]
    rw [hstep]
    rfl

theorem xorLists_length {xs : List (List Byte)} (h : ∀ x ∈ xs, x.length = L) : (xorLists L xs).length = L :=
  (foldl_zipWith_xor xs _ (by simp) h).1

theorem xorLists_getD {xs : List (List Byte)} (h : ∀ x ∈ xs, x.length = L) {i : Nat} (hi : i < L) :
    (xorLists L xs).getD i 0 = xorBytes (xs.map fun x => x.getD i 0) := by
  rw [xorLists, (foldl_zipWith_xor xs _ (by simp) h).2 i hi]
  simp [xorBytes]

/-- The stripe that is missing from data and parity is the XOR of the others. -/
theorem xorLists_lost {data as cs : List (List Byte)} {d : List Byte} (h : ∀ x ∈ data, x.length = L) (hs : data ++ [xorLists L data] = as ++ d :: cs) :
    xorLists L (as ++ cs) = d := by
  have hall : ∀ x ∈ as ++ d :: cs, x.length = L := by
    rw [← hs]
    intro x hx
    obtain hx | hx := List.mem_append.mp hx
    · exact h x hx
    · rw [List.mem_singleton.mp hx, xorLists_length h]
  have hrest : ∀ x ∈ as ++ cs, x.length = L := fun x hx => hall x (by
    obtain hx | hx := List.mem_append.mp hx
    · exact List.mem_append_left _ hx
    · exact List.mem_append_right _ (List.mem_cons_of_mem _ hx))
  have hd : d.length = L := hall d (by simp)
  refine List.ext_getElem ((xorLists_length hrest).trans hd.symm) fun i hi _ => ?_
  rw [xorLists_length hrest] at hi
  have hzero : xorBytes ((data ++ [xorLists L data]).map fun x => x.getD i 0) = 0 := by
    rw [List.map_append, List.map_singleton, xorLists_getD h hi, xorBytes_append, xorBytes_cons]
    simp [xorBytes]
  rw [hs, List.map_append, List.map_cons, xorBytes_append, xorBytes_cons, ← BitVec.xor_assoc, BitVec.xor_comm _ (d.getD i 0), BitVec.xor_assoc,
    ← xorBytes_append, ← List.map_append, ← xorLists_getD hrest hi] at hzero
  have heq := BitVec.xor_eq_zero_iff.mp hzero
  rw [← List.getD_eq_getElem _ 0, ← List.getD_eq_getElem _ 0, heq]

end Parity

section Slices
variable {n L : Nat} {b : List Byte}

theorem slice_length (bs : List Byte) (o n : Nat) : (slice bs o n).length = n := by
  simp only [slice, List.length_append, List.length_replicate, List.length_take]
  omega

theorem flatMap_slices (b : List Byte) (L m : Nat) :
    ((List.range m).flatMap fun k => slice b (k * L) L) = b.take (m * L) ++ List.replicate (m * L - b.length) 0 := by
  induction m with
  | zero => simp
  | succ m ih =>
    rw [List.range_succ, List.flatMap_append, ih, List.flatMap_singleton, slice, Nat.succ_mul]
    by_cases h : m * L ≤ b.length
    · rw [Nat.sub_eq_zero_of_le h, List.replicate_zero, List.append_nil, ← List.append_assoc, ← List.take_add, List.length_take, List.length_drop]
      congr 2
      omega
    · have hlong : b.length ≤ m * L := by omega
      rw [List.drop_eq_nil_of_le hlong, List.take_nil, List.nil_append, List.length_nil, List.take_of_length_le hlong, List.take_of_length_le (by omega),
        List.append_assoc, List.replicate_append_replicate]
      congr 2
      omega

theorem ceilDiv_mul_le (a : Nat) (hn : 0 < n) : a ≤ n * ceilDiv a n := by
  rw [ceilDiv]
  have := Nat.div_add_mod (a + n - 1) n
  have := Nat.mod_lt (a + n - 1) hn
  omega

theorem take_flatMap_slices (b : List Byte) (hn : 0 < n) :
    ((List.range n).flatMap fun k => slice b (k * ceilDiv b.length n) (ceilDiv b.length n)).take b.length = b := by
  rw [flatMap_slices, List.take_of_length_le (ceilDiv_mul_le b.length hn), List.take_left' rfl]

end Slices

section Pieces
variable {n k j : Nat} {b : List Byte}

/-- A stripe as a piece. -/
def stripePiece (x : List Byte × Nat) : CPiece := { index := x.2, bytes := x.1 }

theorem filter_stripePieces (xs : List (List Byte)) (s j : Nat) : (((xs.zipIdx s).map stripePiece).filter fun x => decide (x.index = j)) =
    if s ≤ j ∧ j < s + xs.length then [stripePiece (xs.getD (j - s) [], j)] else [] := by
  induction xs generalizing s with
  | nil => rw [if_neg (by simp)]; rfl
  | cons x xs ih =>
    rw [List.zipIdx_cons, List.map_cons, List.filter_cons, ih, List.length_cons]
    by_cases hj : s = j
    · subst hj
      simp [stripePiece]
    · rw [if_neg (by simp [stripePiece, hj])]
      by_cases h : s + 1 ≤ j ∧ j < s + 1 + xs.length
      · rw [if_pos h, if_pos (by omega), show j - s = j - (s + 1) + 1 by omega, List.getD_cons_succ]
      · rw [if_neg h, if_neg (by omega)]

theorem joinPieces_singleton (x : CPiece) : joinPieces [x] = some x.bytes := by
  simp [joinPieces, insertPiece]

/-- What `unstripe` finds of the stripe `j`, with the stripe `k` lost or none. -/
theorem joinPieces_stripe (xs : List (List Byte)) (hj : j < xs.length) :
    joinPieces (((xs.zipIdx.map stripePiece)).filter fun x => decide (x.index = j)) = some (xs.getD j []) := by
  rw [filter_stripePieces, if_pos (by omega), joinPieces_singleton]
  rfl

theorem joinPieces_lost (xs : List (List Byte)) (hj : j < xs.length) :
    joinPieces ((((xs.zipIdx.map stripePiece).filter fun x => decide (x.index ≠ k))).filter fun x => decide (x.index = j)) =
      if j = k then none else some (xs.getD j []) := by
  rw [List.filter_filter]
  split
  next h =>
    rw [List.filter_eq_nil_iff.mpr (by simp [h])]
    rfl
  next h =>
    have hfilter : ((xs.zipIdx.map stripePiece).filter fun x => decide (x.index = j) && decide (x.index ≠ k)) =
        (xs.zipIdx.map stripePiece).filter fun x => decide (x.index = j) :=
      List.filter_congr fun x _ => by
        by_cases hx : x.index = j
        · simp [hx, h]
        · simp [hx]
    rw [hfilter, joinPieces_stripe xs hj]

end Pieces

section Unstripe
variable {n len : Nat} {pieces : List CPiece} {xs : List (List Byte)}

theorem map_range_getD (xs : List (List Byte)) : ((List.range xs.length).map fun j => some (xs.getD j [])) = xs.map some := by
  refine List.ext_getElem (by simp) fun i hi _ => ?_
  rw [List.length_map, List.length_range] at hi
  simp [hi]

/-- With every stripe there the object is the data stripes, cut to its length. -/
theorem unstripe_of_all (hlen : xs.length = n + 1)
    (h : ∀ j < n + 1, joinPieces (pieces.filter fun x => decide (x.index = j)) = some (xs.getD j [])) :
    unstripe n len pieces = some ((xs.take n).flatten.take len) := by
  have hall : ((List.range (n + 1)).map fun j => joinPieces (pieces.filter fun x => decide (x.index = j))) = xs.map some := by
    rw [← map_range_getD, hlen]
    exact List.map_congr_left fun j hj => h j (List.mem_range.mp hj)
  unfold unstripe
  dsimp only
  rw [hall, List.filter_eq_nil_iff.mpr (by simp), List.length_nil]
  rw [← List.map_take, List.flatMap_map]
  simp [List.flatMap_def]

/-- With one stripe lost that is the XOR of the others, the object is the same. -/
theorem unstripe_of_lost {as cs : List (List Byte)} {d : List Byte} (hlen : (as ++ d :: cs).length = n + 1)
    (h : ∀ j < n + 1, joinPieces (pieces.filter fun x => decide (x.index = j)) = if j = as.length then none else some ((as ++ d :: cs).getD j []))
    (hd : xorLists (ceilDiv len n) (as ++ cs) = d) : unstripe n len pieces = some (((as ++ d :: cs).take n).flatten.take len) := by
  have hall : ((List.range (n + 1)).map fun j => joinPieces (pieces.filter fun x => decide (x.index = j))) = as.map some ++ none :: cs.map some := by
    refine List.ext_getElem (by simpa using hlen.symm) fun i hi _ => ?_
    rw [List.length_map, List.length_range] at hi
    rw [List.getElem_map, List.getElem_range, h i hi]
    by_cases hlt : i < as.length
    · rw [if_neg (by omega), List.getElem_append_left (by simpa using hlt), List.getD_append _ _ _ _ hlt, List.getElem_map, List.getD_eq_getElem _ _ hlt]
    · rw [List.getElem_append_right (by simpa using hlt), List.getD_append_right _ _ _ _ (by omega)]
      by_cases heq : i = as.length
      · simp [heq]
      · obtain ⟨m, hm⟩ : ∃ m, i - as.length = m + 1 := ⟨i - as.length - 1, by omega⟩
        have hmc : m < cs.length := by
          simp at hlen
          omega
        simp [heq, hm, hmc]
  unfold unstripe
  dsimp only
  rw [hall]
  have hnone : ((as.map some ++ none :: cs.map some).filter (·.isNone)).length = 1 := by
    rw [List.filter_append, List.filter_eq_nil_iff.mpr (by simp), List.filter_cons_of_pos rfl, List.filter_eq_nil_iff.mpr (by simp)]
    rfl
  have hrest : (as.map some ++ none :: cs.map some).filterMap id = as ++ cs := by
    simp [List.filterMap_append, List.filterMap_map]
  rw [hnone]
  rw [hrest, show (as ++ cs).foldl (fun a x => a.zipWith (· ^^^ ·) x) (List.replicate (ceilDiv len n) 0) = d from hd]
  have hmap : (as.map some ++ none :: cs.map some).map (fun s => s.getD d) = as ++ d :: cs := by
    simp
  show some ((((as.map some ++ none :: cs.map some).take n).flatMap fun s => s.getD d).take len) = _
  rw [List.flatMap_def, List.map_take, hmap]

end Unstripe

/-- The stripes of an object: the data stripes, and their XOR. -/
theorem stripesOf_eq (n : Nat) (b : List Byte) : stripesOf n b =
    ((List.range n).map fun k => slice b (k * ceilDiv b.length n) (ceilDiv b.length n))
      ++ [xorLists (ceilDiv b.length n) ((List.range n).map fun k => slice b (k * ceilDiv b.length n) (ceilDiv b.length n))] := rfl

theorem stripesOf_length (n : Nat) (b : List Byte) : (stripesOf n b).length = n + 1 := by simp [stripesOf_eq]

theorem take_stripesOf (b : List Byte) {n : Nat} (hn : 0 < n) : ((stripesOf n b).take n).flatten.take b.length = b := by
  rw [stripesOf_eq, List.take_left' (by simp), ← List.flatMap_def, take_flatMap_slices b hn]

/-- Settles O52: each stripe is found by its index, and a lost one is the XOR of the others. -/
theorem stripesRestoreAnyLoss : Obligations.StripesRestoreAnyLoss := by
  intro n k b hn
  have hlen := stripesOf_length n b
  refine ⟨?_, ?_⟩
  · refine (unstripe_of_all hlen fun j hj => joinPieces_stripe (stripesOf n b) (by omega)).trans ?_
    rw [take_stripesOf b hn]
  · by_cases hk : k < n + 1
    · have hsplit : stripesOf n b = (stripesOf n b).take k ++ (stripesOf n b)[k]'(by omega) :: (stripesOf n b).drop (k + 1) := by simp
      have htake : ((stripesOf n b).take k).length = k := by rw [List.length_take]; omega
      have hxor := xorLists_lost (L := ceilDiv b.length n) (fun x hx => by
        obtain ⟨i, -, rfl⟩ := List.mem_map.mp hx
        exact slice_length _ _ _) ((stripesOf_eq n b).symm.trans hsplit)
      refine (unstripe_of_lost (by rw [← hsplit, hlen]) (fun j hj => ?_) hxor).trans ?_
      · rw [htake, ← hsplit]
        exact joinPieces_lost (stripesOf n b) (by omega)
      · rw [← hsplit, take_stripesOf b hn]
    · refine (unstripe_of_all hlen fun j hj => ?_).trans ?_
      · refine (joinPieces_lost (stripesOf n b) (by omega)).trans (if_neg (by omega))
      · rw [take_stripesOf b hn]

end Sys2Proof.Machine

namespace Sys2Proof.Machine

/-! ### The combining tree (R415 to R417) -/

section Join
variable {w v : World} {t : Sid} {m y : TreeMsg} {key k : Nat}

/-- A generation with one report more. -/
def TreeGen.joined (g : TreeGen) (now : Nat) (m : TreeMsg) : TreeGen :=
  if g.reports = [] ∧ g.msg.entries = 0 then
    { reports := if m.entries = 0 then [] else [m.fromPosition], firstAt := now
      msg := combineMsg (combineMsg { kind := m.kind, barrier := m.barrier, step := m.step } g.msg) m }
  else { g with reports := if m.entries = 0 then g.reports else g.reports ++ [m.fromPosition], msg := combineMsg g.msg m }

theorem TreeGen.joined_counts (g : TreeGen) (now : Nat) (m : TreeMsg) : (g.joined now m).msg.entries = g.msg.entries + m.entries
    ∧ (g.joined now m).msg.sent = g.msg.sent + m.sent ∧ (g.joined now m).msg.received = g.msg.received + m.received := by
  unfold TreeGen.joined
  split
  · simp [combineMsg]
  · exact ⟨rfl, rfl, rfl⟩

theorem TreeGen.mem_joined_reports (g : TreeGen) (now : Nat) (h : 0 < m.entries) : m.fromPosition ∈ (g.joined now m).reports := by
  unfold TreeGen.joined
  rw [if_neg h.ne', if_neg h.ne']
  split
  · exact List.mem_singleton_self _
  · exact List.mem_append_right _ (List.mem_singleton_self _)

/-- The world with the generation `key` in combination. -/
def World.setGen (w : World) (key : Nat) (g : TreeGen) : World := { w with fab := { w.fab with gens := AMap.set {} w.fab.gens key g } }

theorem World.gen_setGen_self (w : World) (key : Nat) (g : TreeGen) : (w.setGen key g).gen key = g := AMap.get_set_self _ _ _ _

theorem World.gen_setGen_ne (w : World) (g : TreeGen) (h : k ≠ key) : (w.setGen key g).gen k = w.gen k := AMap.get_set_ne_any _ _ _ _ h

theorem World.reportsAgain_of_new (h : m.fromPosition ∉ (w.gen (genKey m)).reports) : w.reportsAgain m = false := by
  simp [World.reportsAgain, h]

theorem World.reportsAgain_of_mem (h : m.fromPosition ∈ (w.gen (genKey m)).reports) (he : 0 < m.entries) (hk : m.kind.toNat ≠ 2) :
    w.reportsAgain m = true := by
  simp [World.reportsAgain, h, he, hk]

theorem World.joinGen_of_new (h : m.fromPosition ∉ (w.gen (genKey m)).reports) :
    w.joinGen t m = w.setGen (genKey m) ((w.gen (genKey m)).joined t.now m) := by
  unfold World.joinGen
  dsimp only
  rw [if_neg (by rw [World.reportsAgain_of_new h]; decide)]
  rfl

theorem World.joinGen_of_again (h : w.reportsAgain m = true) (hfree : w.treeWaiting m < treeBuffers) :
    w.joinGen t m = { w with fab := { w.fab with treeHeld := w.fab.treeHeld ++ [m] } } := by
  unfold World.joinGen
  dsimp only
  rw [if_pos h, if_pos hfree]

theorem genKey_div (m : TreeMsg) : genKey m / 16 = m.kind.toNat := by
  have := Nat.mod_lt m.barrier (show 0 < 16 by decide)
  rw [genKey]
  omega

theorem World.genFull_of_group (hd : w.domainHead = false) (hk : key / 16 ≠ 2) :
    w.genFull key = decide (w.config.activeSlots ≤ (w.gen key).msg.entries) := by
  unfold World.genFull
  dsimp only
  rw [if_neg hk, hd]
  rfl

theorem World.genFull_of_domain (hd : w.domainHead = true) (hk : key / 16 ≠ 2) :
    w.genFull key = decide (w.config.positions ≤ (w.gen key).msg.entries) := by
  unfold World.genFull
  dsimp only
  rw [if_neg hk, hd]
  rfl

/-- Where every report in the receive buffers still has to wait, none joins. -/
theorem World.releaseTreeN_of_again (take : World → TreeMsg → World) (h : ∀ y ∈ w.fab.treeHeld, w.reportsAgain y = true) (n : Nat) :
    w.releaseTreeN take n = w := by
  cases n with
  | zero => rfl
  | succ n =>
    have hnone : (w.fab.treeHeld.find? fun m => !(w.reportsAgain m)) = none := List.find?_eq_none.mpr fun y hy => by simp [h y hy]
    rw [World.releaseTreeN, hnone]

theorem World.treeSettled.again (h : w.treeSettled key) (hheld : v.fab.treeHeld = w.fab.treeHeld) (hgen : ∀ k, k ≠ key → v.gen k = w.gen k) :
    ∀ y ∈ v.fab.treeHeld, v.reportsAgain y = true := by
  intro y hy
  rw [hheld] at hy
  obtain ⟨hkey, he, hk, hmem⟩ := h y hy
  exact World.reportsAgain_of_mem (by rw [hgen _ hkey]; exact hmem) he hk

theorem World.joinGen_settled (h : w.treeSettled key) (g : TreeGen) : ∀ y ∈ (w.setGen key g).fab.treeHeld, (w.setGen key g).reportsAgain y = true :=
  h.again rfl fun _ hk => w.gen_setGen_ne g hk

end Join

section Group
variable {s : State} {w : World} {t : Sid} {m y : TreeMsg}

/-- A head's member report and what it completes. -/
def World.memberTakes (t : Sid) (w : World) (m : TreeMsg) : World :=
  if (w.joinGen t m).genFull (genKey m) then
    ((w.joinGen t m).dropGen (genKey m)).emit (.tree true { ((w.joinGen t m).gen (genKey m)).msg with fromPosition := ((w.joinGen t m).dropGen (genKey m)).ownPosition })
  else w.joinGen t m

theorem World.groupTakes_of_report (ha : m.abort = false) (hk : m.kind.toNat < 2) (he : 0 < m.entries) :
    w.groupTakes t m = World.releaseTreeN (World.memberTakes t) (World.memberTakes t w m) (World.memberTakes t w m).fab.treeHeld.length := by
  unfold World.groupTakes
  dsimp only
  rw [if_neg (by rw [ha]; rintro (h | h); cases h; omega), if_neg (fun h => by omega)]
  rfl

theorem World.memberTakes_waits (hd : w.domainHead = false) (hk : m.kind.toNat < 2) (hnew : m.fromPosition ∉ (w.gen (genKey m)).reports)
    (hn : (w.gen (genKey m)).msg.entries + m.entries < w.config.activeSlots) :
    World.memberTakes t w m = w.setGen (genKey m) ((w.gen (genKey m)).joined t.now m) := by
  unfold World.memberTakes
  rw [World.joinGen_of_new hnew, World.genFull_of_group (w := w.setGen _ _) hd (by rw [genKey_div]; omega), World.gen_setGen_self,
    (TreeGen.joined_counts _ _ _).1]
  exact if_neg (by rw [decide_eq_true_eq]; exact hn.not_ge)

theorem World.memberTakes_sends (hd : w.domainHead = false) (hk : m.kind.toNat < 2) (hnew : m.fromPosition ∉ (w.gen (genKey m)).reports)
    (hn : w.config.activeSlots ≤ (w.gen (genKey m)).msg.entries + m.entries) :
    World.memberTakes t w m = ((w.setGen (genKey m) ((w.gen (genKey m)).joined t.now m)).setGen (genKey m) {}).emit
      (.tree true { ((w.gen (genKey m)).joined t.now m).msg with fromPosition := w.ownPosition }) := by
  unfold World.memberTakes
  rw [World.joinGen_of_new hnew, World.genFull_of_group (w := w.setGen _ _) hd (by rw [genKey_div]; omega), World.gen_setGen_self,
    (TreeGen.joined_counts _ _ _).1]
  exact if_pos (decide_eq_true hn)

variable (hs : s.inService = true) (ht : s.w.fab.trained = true)
include hs ht

theorem exec_treeUp_of_group (hd : s.w.domainHead = false) (hg : s.w.groupHead = true) :
    exec (.treeUp m) s = .next { s with w := s.w.groupTakes s.sid m } := by
  refine next_of_serve hs ?_
  rw [if_neg (by simp [ht]), if_neg (by simp [hd]), if_pos hg]

variable (hd : s.w.domainHead = false) (hg : s.w.groupHead = true) (ha : m.abort = false) (hk : m.kind.toNat < 2) (he : 0 < m.entries)
include hd hg

theorem treeUp_group_abort (ha : m.abort = true) :
    ∃ t, exec (.treeUp m) s = .next t ∧ s.restKept t ∧ t.w = { s.w with out := s.w.out ++ [.tree true m] } :=
  ⟨_, exec_treeUp_of_group hs ht hd hg, s.restKept_world _, if_pos (.inl ha)⟩

include ha hk he

/-- A report that its generation still has to wait for others with. -/
theorem treeUp_group_joins (hnew : m.fromPosition ∉ (s.w.gen (genKey m)).reports) (hset : s.w.treeSettled (genKey m))
    (hn : (s.w.gen (genKey m)).msg.entries + m.entries < s.w.config.activeSlots) :
    ∃ t, exec (.treeUp m) s = .next t ∧ s.restKept t ∧ t.w.out = s.w.out ∧ t.w.cores = s.w.cores ∧ t.w.parts = s.w.parts
      ∧ (t.w.gen (genKey m)).msg.entries = (s.w.gen (genKey m)).msg.entries + m.entries
      ∧ (t.w.gen (genKey m)).msg.sent = (s.w.gen (genKey m)).msg.sent + m.sent
      ∧ (t.w.gen (genKey m)).msg.received = (s.w.gen (genKey m)).msg.received + m.received ∧ m.fromPosition ∈ (t.w.gen (genKey m)).reports := by
  have hx := exec_treeUp_of_group (m := m) hs ht hd hg
  rw [World.groupTakes_of_report ha hk he, World.memberTakes_waits hd hk hnew hn, World.releaseTreeN_of_again _ (World.joinGen_settled hset _)] at hx
  refine ⟨_, hx, s.restKept_world _, rfl, rfl, rfl, ?_⟩
  dsimp only
  rw [World.gen_setGen_self]
  obtain ⟨h1, h2, h3⟩ := TreeGen.joined_counts (s.w.gen (genKey m)) s.sid.now m
  exact ⟨h1, h2, h3, TreeGen.mem_joined_reports _ _ he⟩

/-- The last report of a generation: it goes up. -/
theorem treeUp_group_sends (hnew : m.fromPosition ∉ (s.w.gen (genKey m)).reports) (hset : s.w.treeSettled (genKey m))
    (hn : s.w.config.activeSlots ≤ (s.w.gen (genKey m)).msg.entries + m.entries) :
    ∃ t m', exec (.treeUp m) s = .next t ∧ s.restKept t ∧ t.w.out = s.w.out ++ [.tree true m'] ∧ t.w.parts = s.w.parts
      ∧ m'.entries = (s.w.gen (genKey m)).msg.entries + m.entries ∧ m'.sent = (s.w.gen (genKey m)).msg.sent + m.sent
      ∧ m'.received = (s.w.gen (genKey m)).msg.received + m.received ∧ m'.fromPosition = s.w.ownPosition ∧ t.w.gen (genKey m) = {} := by
  have hx := exec_treeUp_of_group (m := m) hs ht hd hg
  have hagain : ∀ y ∈ (World.memberTakes s.sid s.w m).fab.treeHeld, (World.memberTakes s.sid s.w m).reportsAgain y = true := by
    rw [World.memberTakes_sends hd hk hnew hn]
    exact hset.again rfl fun k hne => ((s.w.setGen _ _).gen_setGen_ne _ hne).trans (s.w.gen_setGen_ne _ hne)
  rw [World.groupTakes_of_report ha hk he, World.releaseTreeN_of_again _ hagain, World.memberTakes_sends hd hk hnew hn] at hx
  obtain ⟨h1, h2, h3⟩ := TreeGen.joined_counts (s.w.gen (genKey m)) s.sid.now m
  exact ⟨_, _, hx, s.restKept_world _, rfl, rfl, h1, h2, h3, rfl, World.gen_setGen_self _ _ _⟩

/-- A report of the next generation waits. -/
theorem treeUp_group_waits (hmem : m.fromPosition ∈ (s.w.gen (genKey m)).reports) (hn : (s.w.gen (genKey m)).msg.entries < s.w.config.activeSlots)
    (hset : s.w.treeSettled (genKey m))
    (hfree : (s.w.fab.treeHeld.filter fun y => decide (y.fromPosition = m.fromPosition) && decide (y.kind = m.kind)).length < 2) :
    ∃ t, exec (.treeUp m) s = .next t ∧ s.restKept t ∧ t.w = { s.w with fab := { s.w.fab with treeHeld := s.w.fab.treeHeld ++ [m] } } := by
  have hx := exec_treeUp_of_group (m := m) hs ht hd hg
  have hagain := World.reportsAgain_of_mem hmem he (by omega)
  have htake : World.memberTakes s.sid s.w m = { s.w with fab := { s.w.fab with treeHeld := s.w.fab.treeHeld ++ [m] } } := by
    unfold World.memberTakes
    rw [World.joinGen_of_again hagain hfree, World.genFull_of_group (w := { s.w with fab := { s.w.fab with treeHeld := s.w.fab.treeHeld ++ [m] } }) hd
      (by rw [genKey_div]; omega)]
    exact if_neg (by rw [decide_eq_true_eq]; exact hn.not_ge)
  rw [World.groupTakes_of_report ha hk he, htake, World.releaseTreeN_of_again] at hx
  · exact ⟨_, hx, s.restKept_world _, rfl⟩
  · intro y hy
    obtain hy | hy := List.mem_append.mp hy
    · obtain ⟨-, he', hk', hmem'⟩ := hset y hy
      exact World.reportsAgain_of_mem hmem' he' hk'
    · rw [List.mem_singleton.mp hy]
      exact hagain

/-- The last report of a generation lets a report of the next in. -/
theorem treeUp_group_next (hnew : m.fromPosition ∉ (s.w.gen (genKey m)).reports)
    (hn : s.w.config.activeSlots ≤ (s.w.gen (genKey m)).msg.entries + m.entries) (hheld : s.w.fab.treeHeld = [y]) (hkey : genKey y = genKey m)
    (hye : 0 < y.entries) (hyn : y.entries < s.w.config.activeSlots) :
    ∃ t, exec (.treeUp m) s = .next t ∧ s.restKept t ∧ t.w.fab.treeHeld = [] ∧ (t.w.gen (genKey m)).msg.entries = y.entries
      ∧ (t.w.gen (genKey m)).reports = [y.fromPosition] := by
  have hx := exec_treeUp_of_group (m := m) hs ht hd hg
  have hgone : (World.memberTakes s.sid s.w m).gen (genKey y) = {} := by
    rw [World.memberTakes_sends hd hk hnew hn, hkey]
    exact World.gen_setGen_self _ _ _
  have hheld' : (World.memberTakes s.sid s.w m).fab.treeHeld = [y] := by
    rw [World.memberTakes_sends hd hk hnew hn]
    exact hheld
  have hd' : (World.memberTakes s.sid s.w m).domainHead = false := by
    rw [World.memberTakes_sends hd hk hnew hn]
    exact hd
  have hc' : (World.memberTakes s.sid s.w m).config = s.w.config := by
    rw [World.memberTakes_sends hd hk hnew hn]
    rfl
  rw [World.groupTakes_of_report ha hk he] at hx
  generalize World.memberTakes s.sid s.w m = v at *
  have hynew : v.reportsAgain y = false := World.reportsAgain_of_new (by rw [hgone]; simp)
  have hrelease : v.releaseTreeN (World.memberTakes s.sid) 1 = World.memberTakes s.sid { v with fab := { v.fab with treeHeld := [] } } y := by
    rw [World.releaseTreeN, hheld', List.find?_cons_of_pos (by simp [hynew])]
    dsimp only
    rw [List.erase_cons_head]
    rfl
  have hgone' : ({ v with fab := { v.fab with treeHeld := [] } } : World).gen (genKey y) = {} := hgone
  rw [hheld', List.length_singleton, hrelease, World.memberTakes_waits (w := { v with fab := { v.fab with treeHeld := [] } }) hd'
    (by rw [← genKey_div, hkey, genKey_div]; exact hk) (by rw [hgone']; simp) (by rw [hgone', hc']; simpa using hyn), hgone'] at hx
  refine ⟨_, hx, s.restKept_world _, rfl, ?_⟩
  dsimp only
  rw [← hkey, World.gen_setGen_self]
  refine ⟨by simp [(TreeGen.joined_counts _ _ _).1], ?_⟩
  rw [TreeGen.joined, if_pos ⟨rfl, rfl⟩]
  exact if_neg (by omega)

end Group

section Head
variable {s : State} {w : World} {t : Sid} {m : TreeMsg}

theorem World.settleStep_waits (hd : w.domainHead = true)
    (h : (w.gen 0).msg.entries < w.config.positions ∨ (w.gen 0).msg.received ≠ (w.config.positions - 1) * (w.gen 0).msg.sent) :
    w.settleStep t = w := by
  unfold World.settleStep
  dsimp only
  rw [World.genFull_of_domain hd (by decide)]
  refine if_pos ?_
  obtain h | h := h
  · exact .inl (decide_eq_false h.not_ge)
  · exact .inr (.inl h)

theorem World.settleStep_completes (hd : w.domainHead = true) (h : w.config.positions ≤ (w.gen 0).msg.entries)
    (hr : (w.gen 0).msg.received = (w.config.positions - 1) * (w.gen 0).msg.sent) (ha : w.fab.drain.active = false)
    (hq : w.fab.drain.requested = false) :
    ∃ flags, w.settleStep t = (w.setGen 0 {}).emit (.tree false { (w.gen 0).msg with caskFlags := flags, fromPosition := w.ownPosition, digest := [] }) := by
  unfold World.settleStep
  dsimp only
  rw [World.genFull_of_domain hd (by decide), if_neg (by simp [h, hr, ha]), if_neg (by simp [hq])]
  exact ⟨_, rfl⟩

theorem World.headTakes_of_step (hk : m.kind = 0) (ha : m.abort = false) (hf : w.fab.aborted = false) (hkey : genKey m = 0)
    (hnew : m.fromPosition ∉ (w.gen (genKey m)).reports) :
    w.headTakes t m = ((w.setGen 0 ((w.gen 0).joined t.now m)).settleStep t).releaseTree t := by
  have hk0 : m.kind.toNat = 0 := by rw [hk]; rfl
  unfold World.headTakes
  rw [if_neg (by simp [ha]), if_neg (by omega), if_neg (by simp [ha]), if_neg (by simp [hf]), World.joinGen_of_new hnew, hkey]
  rfl

variable (hs : s.inService = true) (ht : s.w.fab.trained = true) (hd : s.w.domainHead = true) (hf : s.w.fab.aborted = false)
include hs ht hd

theorem exec_treeUp_of_domain : exec (.treeUp m) s = .next { s with w := s.w.headTakes s.sid m } := by
  refine next_of_serve hs ?_
  rw [if_neg (by simp [ht]), if_pos hd]

include hf

theorem treeUp_domain_abort (hk : m.kind = 0) (ha : m.abort = true) : ∃ t a, exec (.treeUp m) s = .next t ∧ s.restKept t
    ∧ t.w.out = s.w.out ++ [.tree false a] ∧ a.abort = true ∧ a.kind = 0 ∧ a.step = m.step ∧ t.w.fab.aborted = true := by
  have hx := exec_treeUp_of_domain (m := m) hs ht hd
  have hk0 : m.kind.toNat = 0 := by rw [hk]; rfl
  rw [World.headTakes, if_pos ⟨hk0, ha⟩, World.abortDomain, if_neg (by simp [hf])] at hx
  exact ⟨_, _, hx, s.restKept_world _, rfl, rfl, rfl, rfl, rfl⟩

variable (hk : m.kind = 0) (hb : m.barrier % 16 = 0) (ha : m.abort = false) (hnew : m.fromPosition ∉ (s.w.gen (genKey m)).reports)
  (hset : s.w.treeSettled (genKey m))
include hk hb ha hnew hset

theorem treeUp_domain_waits
    (h : (s.w.gen (genKey m)).msg.entries + m.entries < s.w.config.positions
      ∨ (s.w.gen (genKey m)).msg.received + m.received ≠ (s.w.config.positions - 1) * ((s.w.gen (genKey m)).msg.sent + m.sent)) :
    ∃ t, exec (.treeUp m) s = .next t ∧ s.restKept t ∧ t.w.out = s.w.out
      ∧ (t.w.gen (genKey m)).msg.entries = (s.w.gen (genKey m)).msg.entries + m.entries := by
  have hkey : genKey m = 0 := by rw [genKey, hk, hb]; rfl
  have hx := exec_treeUp_of_domain (m := m) hs ht hd
  obtain ⟨h1, h2, h3⟩ := TreeGen.joined_counts (s.w.gen 0) s.sid.now m
  rw [World.headTakes_of_step hk ha hf hkey hnew] at hx
  rw [hkey] at h hset ⊢
  rw [World.settleStep_waits (w := s.w.setGen 0 _) hd (by rw [World.gen_setGen_self, h1, h2, h3]; exact h), World.releaseTree,
    World.releaseTreeN_of_again _ (World.joinGen_settled hset _)] at hx
  refine ⟨_, hx, s.restKept_world _, rfl, ?_⟩
  dsimp only
  rw [World.gen_setGen_self, h1]

theorem treeUp_domain_completes (hact : s.w.fab.drain.active = false) (hreq : s.w.fab.drain.requested = false)
    (hn : s.w.config.positions ≤ (s.w.gen (genKey m)).msg.entries + m.entries)
    (hr : (s.w.gen (genKey m)).msg.received + m.received = (s.w.config.positions - 1) * ((s.w.gen (genKey m)).msg.sent + m.sent)) :
    ∃ t m', exec (.treeUp m) s = .next t ∧ s.restKept t ∧ t.w.out = s.w.out ++ [.tree false m']
      ∧ m'.entries = (s.w.gen (genKey m)).msg.entries + m.entries ∧ m'.fromPosition = s.w.ownPosition ∧ t.w.gen (genKey m) = {} := by
  have hkey : genKey m = 0 := by rw [genKey, hk, hb]; rfl
  have hx := exec_treeUp_of_domain (m := m) hs ht hd
  obtain ⟨h1, h2, h3⟩ := TreeGen.joined_counts (s.w.gen 0) s.sid.now m
  rw [World.headTakes_of_step hk ha hf hkey hnew] at hx
  rw [hkey] at hn hr hset ⊢
  obtain ⟨flags, hflags⟩ := World.settleStep_completes (w := s.w.setGen 0 ((s.w.gen 0).joined s.sid.now m)) (t := s.sid) hd
    (by rw [World.gen_setGen_self, h1]; exact hn) (by rw [World.gen_setGen_self, h2, h3]; exact hr) hact hreq
  have hagain : ∀ y ∈ ((s.w.setGen 0 ((s.w.gen 0).joined s.sid.now m)).settleStep s.sid).fab.treeHeld,
      ((s.w.setGen 0 ((s.w.gen 0).joined s.sid.now m)).settleStep s.sid).reportsAgain y = true := by
    rw [hflags]
    exact hset.again rfl fun k hne => ((s.w.setGen _ _).gen_setGen_ne _ hne).trans (s.w.gen_setGen_ne _ hne)
  rw [World.releaseTree, World.releaseTreeN_of_again _ hagain, hflags] at hx
  refine ⟨_, _, hx, s.restKept_world _, rfl, ?_, rfl, World.gen_setGen_self _ _ _⟩
  dsimp only
  rw [World.gen_setGen_self, h1]

end Head

/-- Settles O42: a report joins its generation, and where that is complete it goes on; the reports that wait stay where their generations do. -/
theorem treeCombinesReports : Obligations.TreeCombinesReports := by
  intro s m hs ht
  refine ⟨fun hd hg => ⟨treeUp_group_abort hs ht hd hg, fun ha hk he hnew hset =>
      ⟨treeUp_group_joins hs ht hd hg ha hk he hnew hset, treeUp_group_sends hs ht hd hg ha hk he hnew hset⟩,
      fun ha hk he hmem hn hset hfree => treeUp_group_waits hs ht hd hg ha hk he hmem hn hset hfree,
      fun y ha hk he hnew hn hheld hkey _ hye hyn => treeUp_group_next hs ht hd hg ha hk he hnew hn hheld hkey hye hyn⟩,
    fun hd hf => ⟨treeUp_domain_abort hs ht hd hf, fun hk hb ha _ hnew hact hreq hset =>
      ⟨treeUp_domain_waits hs ht hd hf hk hb ha hnew hset, treeUp_domain_completes hs ht hd hf hk hb ha hnew hset hact hreq⟩⟩⟩

end Sys2Proof.Machine

namespace Sys2Proof.Machine

/-! ### The Ethernet port (R527 to R530) -/

section Link
variable {s : State} {port : Fin 4} {v : BitVec 4} {i k : Nat}

theorem getLsbD_bit (i k : Nat) : (BitVec.ofNat 4 (2 ^ i)).getLsbD k = (decide (k < 4) && decide (k = i)) := by
  rw [BitVec.getLsbD_ofNat, Nat.testBit_two_pow, Bool.decide_congr (eq_comm (a := i))]

/-- The state of the links after a port's own has changed. -/
def linkSet (v : BitVec 4) (i : Nat) (on : Bool) : BitVec 4 := if on then v ||| BitVec.ofNat 4 (2 ^ i) else v &&& ~~~ BitVec.ofNat 4 (2 ^ i)

theorem getLsbD_linkSet (hi : i < 4) (on : Bool) : (linkSet v i on).getLsbD k = if k = i then on else v.getLsbD k := by
  unfold linkSet
  cases on with
  | true =>
    rw [if_pos rfl, BitVec.getLsbD_or, getLsbD_bit]
    by_cases h : k = i
    · simp [h, hi]
    · simp [h]
  | false =>
    rw [if_neg Bool.false_ne_true, BitVec.getLsbD_and, BitVec.getLsbD_not, getLsbD_bit]
    by_cases h : k = i
    · simp [h]
    · by_cases h4 : k < 4
      · simp [h, h4]
      · simp [h, BitVec.getLsbD_of_ge v k (by omega)]

theorem ethLinkChange_sets (hs : s.inService = true) (up : Bool) : ∃ on : Bool, exec (.ethLinkChange port up) s
      = .next { s with w := { s.w with eth := { s.w.eth with linkUp := linkSet s.w.eth.linkUp port.val on } } }
    ∧ (up = false → on = false)
    ∧ (up = true → s.w.config.ethOn = true → (s.w.config.ethTable.any fun e => decide (e.role = 0) && decide (e.port = port.val)) = true →
      s.w.config.ethMode = 3 → on = true) := by
  refine ⟨up && s.w.config.ethOn && (s.w.config.ethTable.any fun e => decide (e.role = 0) && decide (e.port = port.val))
      && decide (port.val < (match s.w.config.ethMode with | 1 => 1 | 2 => 2 | 3 => 4 | _ => 0)), next_of_serve hs rfl, fun h => by rw [h]; rfl,
    fun hu ho ht hm => ?_⟩
  rw [hu, ho, ht, hm]
  exact decide_eq_true port.isLt

theorem ethLinkChange_follows (hs : s.inService = true) (up : Bool) : ∃ t, exec (.ethLinkChange port up) s = .next t ∧ s.restKept t
    ∧ s.w.memoriesKept t.w ∧ t.w.out = s.w.out ∧ (up = false → t.w.eth.linkUp.getLsbD port.val = false)
    ∧ (up = true → s.w.config.ethOn = true → (s.w.config.ethTable.any fun e => decide (e.role = 0) && decide (e.port = port.val)) = true →
      s.w.config.ethMode = 3 → t.w.eth.linkUp.getLsbD port.val = true)
    ∧ ∀ k, k ≠ port.val → t.w.eth.linkUp.getLsbD k = s.w.eth.linkUp.getLsbD k := by
  obtain ⟨on, hx, hdown, hup⟩ := ethLinkChange_sets (port := port) hs up
  have hbit : ∀ k, (linkSet s.w.eth.linkUp port.val on).getLsbD k = if k = port.val then on else s.w.eth.linkUp.getLsbD k :=
    fun k => getLsbD_linkSet port.isLt on
  exact ⟨_, hx, s.restKept_world _, ⟨rfl, rfl, rfl, rfl⟩, rfl, fun h => (hbit _).trans ((if_pos rfl).trans (hdown h)),
    fun h1 h2 h3 h4 => (hbit _).trans ((if_pos rfl).trans (hup h1 h2 h3 h4)), fun k hk => (hbit k).trans (if_neg hk)⟩

end Link

section Frames
variable {s : State} {w : World} {port : Fin 4} {i : Nat}

theorem World.sendFrame_of_sends (h : w.ethSends i = true) (b : List Byte) : w.sendFrame i b = (w.tick .eth 0 0x088).emit (.frame i b) := if_pos h

theorem World.tick_memories (w : World) (b : Block) (i off : Nat) : w.memoriesKept (w.tick b i off) := (w.tick_noted b i off).memories

theorem World.tick_tick_memories (w : World) (off off' : Nat) : w.memoriesKept ((w.tick .eth 0 off).tick .eth 0 off') :=
  (World.tick_memories _ _ _ _).trans (World.tick_memories _ _ _ _)

theorem World.tick_tick_out (w : World) (off off' : Nat) : ((w.tick .eth 0 off).tick .eth 0 off').out = w.out := by
  rw [World.tick_out, World.tick_out]

/-- Two counters of the Ethernet block are added to in turn. -/
theorem World.counted_tick_tick (w : World) {off off' : Nat} (h : off < 0x1000) (h' : off' < 0x1000) (hne : off' ≠ off) :
    w.counted ((w.tick .eth 0 off).tick .eth 0 off') .eth 0 off' ∧ w.counted ((w.tick .eth 0 off).tick .eth 0 off') .eth 0 off := by
  refine ⟨?_, ?_⟩
  · rw [World.counted, World.counter_tick_self, World.counter_tick_ne _ h h' hne]
  · rw [World.counted, World.counter_tick_ne _ h' h hne.symm, World.counter_tick_self]

/-- The world once a port has heard a frame and sent one. -/
def World.answered (w : World) (i : Nat) (b : List Byte) : World := ((w.tick .eth 0 0x080).tick .eth 0 0x088).emit (.frame i b)

/-- A frame that leaves a port is counted. -/
theorem World.answered_facts (w : World) (i : Nat) (b : List Byte) : w.memoriesKept (w.answered i b) ∧ (w.answered i b).out = w.out ++ [.frame i b]
    ∧ w.counted (w.answered i b) .eth 0 0x088 := by
  have hout := w.tick_tick_out 0x080 0x088
  have hmem := w.tick_tick_memories 0x080 0x088
  have hcount := (w.counted_tick_tick (off := 0x080) (off' := 0x088) (by decide) (by decide) (by decide)).1
  unfold World.answered
  generalize (w.tick .eth 0 0x080).tick .eth 0 0x088 = v at *
  exact ⟨hmem, congrArg (· ++ [Output.frame i b]) hout, hcount⟩

variable (hs : s.inService = true)
include hs

theorem ethFrameRx_bad (hu : s.w.ethUp port.val = true) (f : EthFrame) (hf : f = .fcsError port ∨ f = .fecUncorrectable port) :
    ∃ t, exec (.ethFrameRx f) s = .next t ∧ s.restKept t ∧ s.w.memoriesKept t.w ∧ t.w.out = s.w.out
      ∧ (f = .fcsError port → s.w.counted t.w .eth 0 0x090 ∧ s.w.counted t.w .eth 0 0x080)
      ∧ (f = .fecUncorrectable port → s.w.counted t.w .eth 0 0x098) := by
  obtain rfl | rfl := hf
  · exact ⟨_, next_of_serve hs (if_pos hu), s.restKept_world _, World.tick_tick_memories _ _ _, World.tick_tick_out _ _ _,
      fun _ => s.w.counted_tick_tick (by decide) (by decide) (by decide), fun h => by cases h⟩
  · exact ⟨_, next_of_serve hs (if_pos hu), s.restKept_world _, World.tick_memories _ _ _ _, rfl, (fun h => by cases h),
      fun _ => s.w.counter_tick_self _ _ _⟩

theorem ethFrameRx_macsecFail (hu : s.w.ethUp port.val = true) (hp : s.w.macPort port.val = true) (hk : s.w.macKeyed port.val true = true) :
    ∃ t, exec (.ethFrameRx (.macsecFail port)) s = .next t ∧ s.restKept t ∧ s.w.memoriesKept t.w ∧ t.w.out = s.w.out
      ∧ s.w.counted t.w .eth 0 0x0A0 :=
  ⟨_, next_of_serve hs ((if_pos hu).trans (if_pos ⟨hp, hk⟩)), s.restKept_world _, World.tick_tick_memories _ _ _, World.tick_tick_out _ _ _,
    (s.w.counted_tick_tick (by decide) (by decide) (by decide)).1⟩

variable (hh : s.w.ethHears port.val = true)
include hh

theorem ethFrameRx_dropped (f : EthFrame) (hf : f = .fragment port ∨ f = .stackedTag port ∨ f = .other port) :
    ∃ t, exec (.ethFrameRx f) s = .next t ∧ s.restKept t ∧ s.w.memoriesKept t.w ∧ t.w.out = s.w.out ∧ s.w.counted t.w .eth 0 0x080 := by
  have hx : exec (.ethFrameRx f) s = .next { s with w := s.w.tick .eth 0 0x080 } := by
    obtain rfl | rfl | rfl := hf
    · exact next_of_serve hs (World.hear_of_hears hh id)
    · exact next_of_serve hs (World.hear_of_hears hh id)
    · exact next_of_serve hs (World.hear_of_hears hh id)
  exact ⟨_, hx, s.restKept_world _, World.tick_memories _ _ _ _, rfl, s.w.counter_tick_self _ _ _⟩

theorem ethFrameRx_udpUnmatched (d : Datagram) (hd : d.port = port) : ∃ t, exec (.ethFrameRx (.udpUnmatched d)) s = .next t ∧ s.restKept t
    ∧ s.w.memoriesKept t.w ∧ t.w.out = s.w.out ∧ s.w.counted t.w .eth 0 0x0A8 := by
  subst hd
  exact ⟨_, next_of_serve hs (World.hear_of_hears hh _), s.restKept_world _, World.tick_tick_memories _ _ _, World.tick_tick_out _ _ _,
    (s.w.counted_tick_tick (by decide) (by decide) (by decide)).1⟩

variable (hsend : s.w.ethSends port.val = true)
include hsend

omit hs in
/-- A request is heard, and answered where it is to be. -/
theorem World.hear_answer (b : List Byte) (p : Prop) [Decidable p] : s.w.memoriesKept (s.w.hear port.val fun w => if p then w.sendFrame port.val b else w)
    ∧ (s.w.hear port.val fun w => if p then w.sendFrame port.val b else w).out = s.w.out ++ if p then [.frame port.val b] else [] := by
  rw [World.hear_of_hears hh]
  split
  · rw [World.sendFrame_of_sends (w := s.w.tick .eth 0 0x080) hsend]
    exact ⟨(World.answered_facts _ _ _).1, (World.answered_facts _ _ _).2.1⟩
  · exact ⟨World.tick_memories _ _ _ _, (List.append_nil _).symm⟩

theorem ethFrameRx_arpRequest (target sender : List Byte) : ∃ t, exec (.ethFrameRx (.arpRequest port target sender)) s = .next t ∧ s.restKept t
    ∧ s.w.memoriesKept t.w ∧ t.w.out = s.w.out ++ (if s.w.ownAddress port.val false target then
        [.frame port.val ([0, 1, 8, 0, 6, 4, 0, 2] ++ macOf port.val ++ slice target 0 4 ++ sender)] else []) :=
  ⟨_, next_of_serve hs rfl, s.restKept_world _, World.hear_answer hh hsend _ (s.w.ownAddress port.val false target = true)⟩

theorem ethFrameRx_ndpSolicit (target sender : List Byte) : ∃ t, exec (.ethFrameRx (.ndpSolicit port target sender)) s = .next t ∧ s.restKept t
    ∧ s.w.memoriesKept t.w ∧ t.w.out = s.w.out ++ (if s.w.ownAddress port.val true target then
        [.frame port.val ([136, 0, 0, 0, 0x60, 0, 0, 0] ++ slice target 0 16 ++ [2, 1] ++ macOf port.val)] else []) :=
  ⟨_, next_of_serve hs rfl, s.restKept_world _, World.hear_answer hh hsend _ (s.w.ownAddress port.val true target = true)⟩

theorem ethFrameRx_icmpEcho (v6 : Bool) (sender body : List Byte) : ∃ t head, exec (.ethFrameRx (.icmpEcho port v6 sender body)) s = .next t
    ∧ s.restKept t ∧ s.w.memoriesKept t.w ∧ t.w.out = s.w.out ++ [.frame port.val (head ++ body)] ∧ s.w.counted t.w .eth 0 0x088 := by
  have hx : exec (.ethFrameRx (.icmpEcho port v6 sender body)) s =
      .next { s with w := s.w.answered port.val ((if v6 then [129, 0, 0, 0] else [0, 0, 0, 0]) ++ body) } :=
    next_of_serve hs ((World.hear_of_hears hh _).trans (World.sendFrame_of_sends (w := s.w.tick .eth 0 0x080) hsend _))
  exact ⟨_, _, hx, s.restKept_world _, World.answered_facts _ _ _⟩

end Frames

/-- Settles O49: what the port does with each frame is one or two counters and at most one frame in answer. -/
theorem ethernetAnswersAndCounts : Obligations.EthernetAnswersAndCounts := fun _ _ hs =>
  ⟨ethLinkChange_follows hs, fun hu => ⟨ethFrameRx_bad hs hu, ethFrameRx_macsecFail hs hu⟩,
    fun hh => ⟨ethFrameRx_dropped hs hh, ethFrameRx_udpUnmatched hs hh, fun hsend =>
      ⟨ethFrameRx_arpRequest hs hh hsend, ethFrameRx_ndpSolicit hs hh hsend, ethFrameRx_icmpEcho hs hh hsend⟩⟩⟩

end Sys2Proof.Machine

namespace Sys2Proof.Machine

/-! ### What the sending of packets leaves (R396 to R402) -/

/-- `f` is `g` after packets were sent: their numbers, the ports' replay buffers and the choice of routes have gone on. -/
def Fab.mailedFrom (f g : Fab) : Prop :=
  ∃ (ps : AMap Nat) (cd : List Nat) (vc : Nat) (po : AMap Port) (ls : AMap Nat),
    f = { g with pairSent := ps, circuitsDown := cd, viaCounter := vc, ports := po, linkSeq := ls }

theorem Fab.mailedFrom_refl (f : Fab) : f.mailedFrom f := ⟨_, _, _, _, _, rfl⟩

theorem Fab.mailedFrom.trans {f g h : Fab} (a : f.mailedFrom g) (b : g.mailedFrom h) : f.mailedFrom h := by
  obtain ⟨ps, cd, vc, po, ls, rfl⟩ := a
  obtain ⟨_, _, _, _, _, rfl⟩ := b
  exact ⟨ps, cd, vc, po, ls, rfl⟩

/-- The counters that a sent packet and a record of the trace may add to. -/
def mailCounter (a : Nat) : Prop :=
  notedCounter a ∨ (∃ off, (off = 0x080 ∨ off = 0x090 ∨ off = 0x0A0 ∨ off = 0x0B0) ∧ a = Block.fab.addr 0 off)
    ∨ ∃ i off, (off = 0x080 ∨ off = 0x090) ∧ a = Block.fabPort.addr i off

/-- An address that lies at none of those offsets. -/
theorem not_mailCounter {b : Block} {i off : Nat} (h : off < 0x1000) (hn : off ∉ [0x080, 0x090, 0x098, 0x0A0, 0x0A8, 0x0B0]) :
    ¬ mailCounter (b.addr i off) := by
  simp only [List.mem_cons, List.not_mem_nil, or_false, not_or] at hn
  obtain ⟨h1, h2, h3, h4, h5, h6⟩ := hn
  rintro (e | ⟨x, hx, e⟩ | ⟨j, x, hx, e⟩)
  · exact not_notedCounter h h3 h5 h6 e
  · exact Block.addr_ne h (by omega) (by omega) e
  · exact Block.addr_ne h (by omega) (by omega) e

/-- `v` is `w` after packets were sent. -/
structure World.Mailed (w v : World) : Prop where
  sent : v.sentFrom w
  fab : v.fab.mailedFrom w.fab
  out : ∃ o, v.out = w.out ++ o
  counter : ∀ a, ¬ mailCounter a → AMap.get 0 v.counters a = AMap.get 0 w.counters a

section Links
variable {w v u : World} {t : Sid}

theorem World.nothingSent (h : v.out = w.out) : ∃ o, v.out = w.out ++ o := ⟨[], h.trans (List.append_nil _).symm⟩

theorem World.Mailed.refl : w.Mailed w := ⟨w.sentFrom_refl, w.fab.mailedFrom_refl, World.nothingSent rfl, fun _ _ => rfl⟩

theorem World.Mailed.trans (h : w.Mailed v) (g : v.Mailed u) : w.Mailed u := by
  obtain ⟨o, ho⟩ := h.out
  obtain ⟨o', ho'⟩ := g.out
  exact ⟨g.sent.trans h.sent, g.fab.trans h.fab, ⟨o ++ o', by rw [ho', ho, List.append_assoc]⟩, fun a ha => (g.counter a ha).trans (h.counter a ha)⟩

theorem World.Mailed.foldl {α : Type} {f : World → α → World} (h : ∀ (v : World) (x : α), v.Mailed (f v x)) (xs : List α) (w : World) :
    w.Mailed (xs.foldl f w) :=
  List.foldlRecOn xs f (motive := w.Mailed) .refl fun v hv x _ => hv.trans (h v x)

theorem World.Noted.mailed (h : w.Noted v) : w.Mailed v :=
  ⟨h.noted.sent, by rw [h.noted.fab]; exact w.fab.mailedFrom_refl, World.nothingSent h.noted.out,
    fun a ha => h.counter a fun hn => ha (.inl hn)⟩

theorem World.Mailed.memories (h : w.Mailed v) : w.memoriesKept v := h.sent.memories

theorem World.Mailed.mem_out (h : w.Mailed v) {o : Output} (ho : o ∈ w.out) : o ∈ v.out := by
  obtain ⟨o', he⟩ := h.out
  rw [he]
  exact List.mem_append_left _ ho

theorem World.Mailed.failed (h : w.Mailed v) : v.fab.failed = w.fab.failed := by
  obtain ⟨_, _, _, _, _, hf⟩ := h.fab
  rw [hf]

theorem World.Mailed.position (h : w.Mailed v) : v.fab.position = w.fab.position := by
  obtain ⟨_, _, _, _, _, hf⟩ := h.fab
  rw [hf]

theorem World.Mailed.ownPosition (h : w.Mailed v) : v.ownPosition = w.ownPosition := by rw [World.ownPosition, h.position, World.ownPosition]

theorem World.Mailed.canSend (h : w.Mailed v) : v.canSend = w.canSend := by
  obtain ⟨_, _, _, _, _, hf⟩ := h.fab
  rw [World.canSend, hf, World.canSend]

theorem World.Mailed.physicalOf (h : w.Mailed v) (pos : Nat) : v.physicalOf pos = w.physicalOf pos := by
  obtain ⟨_, _, _, _, _, hf⟩ := h.fab
  rw [World.physicalOf, hf, World.physicalOf]

theorem World.Mailed.reaches (h : w.Mailed v) {pos : Nat} (hr : w.reaches pos) : v.reaches pos := by
  obtain ⟨phys, hp, hf⟩ := hr
  exact ⟨phys, (h.physicalOf pos).trans hp, by rw [h.failed]; exact hf⟩

theorem World.Mailed.counter_kept (h : w.Mailed v) {b : Block} {i off : Nat} (ho : off < 0x1000)
    (hn : off ∉ [0x080, 0x090, 0x098, 0x0A0, 0x0A8, 0x0B0]) : v.counter b i off = w.counter b i off := h.counter _ (not_mailCounter ho hn)

end Links

section Sends
variable (w : World) (t : Sid)

theorem World.emit_mailed (o : Output) : w.Mailed (w.emit o) := ⟨w.emit_sent o, w.fab.mailedFrom_refl, ⟨_, rfl⟩, fun _ _ => rfl⟩

theorem World.count_mailed {k : Nat} (h : mailCounter k) (n : Nat) : w.Mailed (w.count k n) :=
  ⟨(World.count_noted w k n).sent, w.fab.mailedFrom_refl, World.nothingSent rfl, fun _ ha => w.counter_count_ne n fun e => ha (e ▸ h)⟩

theorem World.fab_mailed {f : Fab} (h : f.mailedFrom w.fab) : w.Mailed { w with fab := f } :=
  ⟨w.fab_sent f, h, World.nothingSent rfl, fun _ _ => rfl⟩

theorem mailCounter_fab {off : Nat} (h : off = 0x080 ∨ off = 0x090 ∨ off = 0x0A0 ∨ off = 0x0B0) : mailCounter (Block.fab.addr 0 off) :=
  .inr (.inl ⟨off, h, rfl⟩)

theorem mailCounter_port {i off : Nat} (h : off = 0x080 ∨ off = 0x090) : mailCounter (Block.fabPort.addr i off) := .inr (.inr ⟨i, off, h, rfl⟩)

theorem World.wakeIsland_mailed (k : Nat) : w.Mailed (w.wakeIsland t k) := by
  refine ⟨w.wakeIsland_sent t k, ?_, World.nothingSent ?_, fun a _ => ?_⟩
  · unfold World.wakeIsland
    split
    · exact w.fab.mailedFrom_refl
    · exact w.fab.mailedFrom_refl
  · unfold World.wakeIsland
    split
    · rfl
    · rfl
  · unfold World.wakeIsland
    split
    · rfl
    · rfl

theorem World.frameOut_mailed (port kind : Nat) (q : Packet) : w.Mailed (w.frameOut port kind q) := by
  unfold World.frameOut
  extract_lets seq again w1
  have h1 : w.Mailed w1 := w.fab_mailed ⟨_, _, _, _, _, rfl⟩
  clear_value w1
  have h2 : w1.Mailed { w1 with fab := { w1.fab with linkSeq := AMap.set 0 w1.fab.linkSeq port ((seq + 1) % 2 ^ 16) } } :=
    w1.fab_mailed ⟨_, _, _, _, _, rfl⟩
  exact ((h1.trans h2).trans (World.count_mailed _ (mailCounter_port (.inl rfl)) 1)).trans (World.count_mailed _ (mailCounter_port (.inr rfl)) again)

theorem World.packetRecord_mailed (kind dir peer tag a : Nat) : w.Mailed (w.packetRecord t kind dir peer tag a) := (w.act_Noted t _ _ _ _ _ _).mailed

theorem World.route_mailed (dst phys : Nat) : w.Mailed (w.route dst phys).2 ∧ (w.route dst phys).2.out = w.out := by
  unfold World.route
  extract_lets g key minimal bias
  split
  · exact ⟨.refl, rfl⟩
  · split
    · exact ⟨.refl, rfl⟩
    · have h : ∀ n, w.Mailed { w with fab := { w.fab with viaCounter := n } } := fun n => w.fab_mailed ⟨_, _, _, _, _, rfl⟩
      split
      · split
        · exact ⟨(h _).trans (World.count_mailed _ (mailCounter_fab (by decide)) 1), rfl⟩
        · exact ⟨h _, rfl⟩
      · exact ⟨h _, rfl⟩

/-- What a packet that was sent carries of its request. -/
structure PacketCarries (q : Packet) (dst tag a : Nat) (ordered : Bool) (payload : List Byte) : Prop where
  dst : q.dst = BitVec.ofNat 14 dst
  tag : q.tag = BitVec.ofNat 32 tag
  address : q.address = BitVec.ofNat 64 a
  order : pktOrder q = ordered
  payload : q.payload = payload

/-- ORDER is bit 0 of the flags that a packet is sent with. -/
theorem bitAt_zero_flags (o v l s : Bool) (c : Nat) :
    bitAt (BitVec.ofNat 8 ((if o then 1 else 0) + (if v then 2 else 0) + (if l then 8 else 0) + 16 * c + (if s then 64 else 0))).toNat 0 = o := by
  have heven : ∀ b : Bool, (if b then 2 else 0) % 2 = 0 ∧ (if b then 8 else 0) % 2 = 0 ∧ (if b then 64 else 0) % 2 = 0 := by decide
  have hv := (heven v).1
  have hl := (heven l).2.1
  have hs := (heven s).2.2
  rw [bitAt, BitVec.toNat_ofNat, Nat.pow_zero, Nat.div_one]
  generalize (if v = true then 2 else 0) = x at *
  generalize (if l = true then 8 else 0) = y at *
  generalize (if s = true then 64 else 0) = z at *
  cases o with
  | true => exact decide_eq_true (by rw [if_pos rfl]; omega)
  | false => exact decide_eq_false (by rw [if_neg Bool.false_ne_true]; omega)

/-- A packet to a position that an entry names is sent, unless its module has failed: it leaves last, and all before it is sending. -/
theorem World.sendFrom_cases (src kind dst source tag a : Nat) (ordered stepped : Bool) (payload : List Byte) (mask : List Bool) :
    (w.Mailed (w.sendFrom t src kind dst source tag a ordered stepped payload mask) ∧ ¬ w.reaches dst
        ∧ (w.sendFrom t src kind dst source tag a ordered stepped payload mask).out = w.out)
      ∨ ∃ v q, w.Mailed v ∧ v.out = w.out ∧ PacketCarries q dst tag a ordered payload
        ∧ w.sendFrom t src kind dst source tag a ordered stepped payload mask = v.emit (.packet kind q) := by
  unfold World.sendFrom
  split
  next h => exact .inl ⟨.refl, fun ⟨phys, hp, _⟩ => (by rw [h] at hp; cases hp), rfl⟩
  next phys hphys =>
    extract_lets own count f1 w1 circuit live f2 w2 r w3 flags q
    have h1 : w.Mailed w1 ∧ w1.out = w.out := by
      refine ⟨.trans ?_ (World.count_mailed _ (mailCounter_fab (.inl rfl)) 1), ?_⟩
      · split
        · exact w.fab_mailed ⟨_, _, _, _, _, rfl⟩
        · exact .refl
      · simp only [w1, World.tick_out]
        split
        · rfl
        · rfl
    split
    next hf =>
      refine .inl ⟨h1.1.trans (w1.count_mailed (mailCounter_fab (by decide)) 1), fun ⟨phys', hp, hn⟩ => ?_, h1.2⟩
      rw [h1.1.failed] at hf
      rw [hphys] at hp
      cases hp
      rw [hn] at hf
      cases hf
    next =>
      refine .inr ⟨(w3.frameOut r.1.1 kind q).packetRecord t kind 0 dst tag a, q, ?_, ?_, ⟨rfl, rfl, rfl, bitAt_zero_flags _ _ _ _ _, rfl⟩, rfl⟩
      all_goals
        have h2 : w1.Mailed w2 ∧ w2.out = w1.out := by
          simp only [w2]
          split
          · exact ⟨(w1.fab_mailed ⟨_, _, _, _, _, rfl⟩).trans (World.count_mailed _ (mailCounter_fab (by decide)) 1), rfl⟩
          · exact ⟨.refl, rfl⟩
        have h3 : w2.Mailed w3 ∧ w3.out = w2.out := by
          show w2.Mailed r.2 ∧ r.2.out = w2.out
          clear_value w2
          cases hl : live with
          | some c =>
            simp only [r, hl]
            exact ⟨.refl, trivial⟩
          | none =>
            simp only [r, hl]
            exact w2.route_mailed _ _
      · exact (h1.1.trans (h2.1.trans h3.1)).trans ((w3.frameOut_mailed _ _ _).trans (World.packetRecord_mailed _ t _ _ _ _ _))
      · exact (World.act_noted _ t _ _ _ _ _ _).out.trans (h3.2.trans (h2.2.trans h1.2))

theorem World.sendFrom_mailed (src kind dst source tag a : Nat) (ordered stepped : Bool) (payload : List Byte) (mask : List Bool) :
    w.Mailed (w.sendFrom t src kind dst source tag a ordered stepped payload mask) := by
  obtain ⟨h, -, -⟩ | ⟨v, q, h, -, -, he⟩ := w.sendFrom_cases t src kind dst source tag a ordered stepped payload mask
  · exact h
  · rw [he]
    exact h.trans (v.emit_mailed _)

variable (kind dst source tag a : Nat) (ordered stepped : Bool) (payload : List Byte)

theorem World.sendPacket_mailed : w.Mailed (w.sendPacket t kind dst source tag a ordered stepped payload) := w.sendFrom_mailed t _ _ _ _ _ _ _ _ _ _

/-- A packet to a position that packets reach leaves. -/
theorem World.sendPacket_leaves_packet (h : w.reaches dst) : ∃ q, PacketCarries q dst tag a ordered payload
    ∧ (w.sendPacket t kind dst source tag a ordered stepped payload).out = w.out ++ [.packet kind q] := by
  obtain ⟨-, hn, -⟩ | ⟨v, q, -, ho, hq, he⟩ := w.sendFrom_cases t w.ownPosition kind dst source tag a ordered stepped payload []
  · exact absurd h hn
  · refine ⟨q, hq, ?_⟩
    rw [World.sendPacket, he, World.emit_out, ho]

theorem World.sendPacket_leaves (h : w.reaches dst) : w.sent (w.sendPacket t kind dst source tag a ordered stepped payload) kind dst payload := by
  obtain ⟨q, hq, ho⟩ := w.sendPacket_leaves_packet t kind dst source tag a ordered stepped payload h
  exact ⟨q, ho, hq.dst, hq.payload⟩

end Sends

end Sys2Proof.Machine

namespace Sys2Proof.Machine

/-! ### Transfers with the external store (R487 to R489) -/

section Frames
variable {w v : World} {t : Sid} {b fr : List Byte} {kind : Nat}

theorem World.hearStore_of_hears (h : w.storeHears kind b) (f : World → World) : w.hearStore kind b f = f (w.tick .eth 0 0x080) := by
  obtain ⟨e, he, hh, hf⟩ := h
  rw [World.hearStore, he]
  exact (World.hear_of_hears hh _).trans (if_pos hf)

theorem World.updCask_memories (w : World) (f : Cask → Cask) : w.memoriesKept (w.updCask f) := ⟨rfl, rfl, rfl, rfl⟩

theorem World.emit_memories (w : World) (o : Output) : w.memoriesKept (w.emit o) := ⟨rfl, rfl, rfl, rfl⟩

theorem World.sendDatagram_memories (w : World) (e : EthEntry) (b : List Byte) : w.memoriesKept (w.sendDatagram e b) := by
  unfold World.sendDatagram
  split
  · exact (w.tick_memories _ _ _).trans (World.emit_memories _ _)
  · exact w.memoriesKept_refl

theorem World.sendDatagram_out (w : World) (e : EthEntry) (b : List Byte) :
    (w.sendDatagram e b).out = w.out ++ if w.ethSends e.port then [.datagram e.port e.address e.udpPort b] else [] := by
  unfold World.sendDatagram
  split
  · rw [World.emit_out, World.tick_out]
  · exact (List.append_nil _).symm

theorem World.sendDatagram_cask (w : World) (e : EthEntry) (b : List Byte) : (w.sendDatagram e b).cask = w.cask := by
  unfold World.sendDatagram
  split
  · rfl
  · rfl

theorem World.toStore_memories (w : World) (b : List Byte) : w.memoriesKept (w.toStore b) := by
  unfold World.toStore
  cases w.store with
  | none => exact w.memoriesKept_refl
  | some e => exact w.sendDatagram_memories e b

theorem World.toStore_cask (w : World) (b : List Byte) : (w.toStore b).cask = w.cask := by
  unfold World.toStore
  cases w.store with
  | none => rfl
  | some e => exact w.sendDatagram_cask e b

/-- A frame to the store, from a world that has the table and the links of `w` and has sent what `w` has. -/
theorem World.toStore_told (h : w.store.isSome = true) (hc : v.config = w.config) (he : v.eth = w.eth) (ho : v.out = w.out) :
    w.toldStore (v.toStore fr) fr := by
  obtain ⟨e, hw⟩ := Option.isSome_iff_exists.mp h
  have hv : v.store = some e := by
    rw [World.store, World.ethRole, hc]
    exact hw
  have hsends : v.ethSends e.port = w.ethSends e.port := by
    simp only [World.ethSends, World.ethUp, World.macPort, World.macKeyed, hc, he]
  refine ⟨e, hw, ?_⟩
  rw [World.toStore, hv]
  exact (v.sendDatagram_out e fr).trans (by rw [ho, hsends])

theorem World.storeHears.isSome (h : w.storeHears kind b) : w.store.isSome = true := by
  obtain ⟨e, he, -, -⟩ := h
  rw [he]
  rfl

end Frames

section Transfers
variable {w : World} {t : Sid}

theorem World.nextFrame_facts (w : World) : w.memoriesKept w.nextFrame ∧ w.nextFrame.cask.transfer.active = w.cask.transfer.active
    ∧ w.nextFrame.cask.transfer.step = w.cask.transfer.step := by
  unfold World.nextFrame
  extract_lets x push
  have hpush : ∀ b y, w.memoriesKept (push w b y) := fun b y => (w.toStore_memories b).trans (World.updCask_memories _ _)
  split
  · split
    · exact ⟨w.memoriesKept_refl, rfl, rfl⟩
    · exact ⟨hpush _ _, rfl, rfl⟩
  next i b rest hsegs =>
    dsimp only
    generalize decide (b.length ≤ x.offset + frameData) = last
    cases last with
    | true => exact ⟨hpush _ _, rfl, rfl⟩
    | false => exact ⟨hpush _ _, rfl, rfl⟩

theorem World.pumpTransfer_facts (n : Nat) (w : World) : w.memoriesKept (w.pumpTransfer n) ∧ (w.pumpTransfer n).cask.transfer.active = w.cask.transfer.active
    ∧ (w.pumpTransfer n).cask.transfer.step = w.cask.transfer.step := by
  induction n generalizing w with
  | zero => exact ⟨w.memoriesKept_refl, rfl, rfl⟩
  | succ n ih =>
    unfold World.pumpTransfer
    split
    · exact ⟨w.memoriesKept_refl, rfl, rfl⟩
    · obtain ⟨h1, h2, h3⟩ := ih w.nextFrame
      obtain ⟨g1, g2, g3⟩ := w.nextFrame_facts
      exact ⟨g1.trans h1, h2.trans g2, h3.trans g3⟩

theorem World.startTransfer_facts (w : World) (step : Nat) (segs : List (Nat × List Byte)) : w.memoriesKept (w.startTransfer step segs)
    ∧ (w.startTransfer step segs).cask.transfer.active = true ∧ (w.startTransfer step segs).cask.transfer.step = step := by
  obtain ⟨h1, h2, h3⟩ := World.pumpTransfer_facts transferWindow (w.updCask fun c => { c with transfer := { active := true, step := step, segs := segs } })
  exact ⟨(w.updCask_memories _).trans h1, h2, h3⟩

/-- With nothing left to send but acknowledgements to wait for, nothing leaves. -/
theorem World.pumpTransfer_of_sent (hs : w.cask.transfer.segs = []) (he : w.cask.transfer.endSent = true) (n : Nat) : w.pumpTransfer n = w := by
  have hnext : w.nextFrame = w := by
    unfold World.nextFrame
    dsimp only
    rw [hs]
    exact if_pos he
  induction n with
  | zero => rfl
  | succ n ih =>
    rw [World.pumpTransfer, hnext, ih, ite_self]

theorem World.endTransfer_facts (hd : w.cask.transfer.dump = none) (ok : Bool) (hg : ok = true → w.inGroup = true) :
    w.memoriesKept (w.endTransfer t ok) ∧ w.exported (w.endTransfer t ok) ok ∧ (w.endTransfer t ok).out = w.out := by
  have hmem := w.updCask_memories fun c => { c with transfer := {}, exportDue := none, exportFailed := !ok }
  unfold World.endTransfer
  dsimp only
  rw [hd, if_neg (by decide)]
  cases ok with
  | true =>
    rw [if_pos rfl, if_pos]
    · exact ⟨hmem.trans (World.tick_memories _ _ _ _), ⟨rfl, rfl, rfl, World.counter_tick_self _ _ _ _⟩, World.tick_out _ _ _ _⟩
    · exact hg rfl
  | false =>
    rw [if_neg Bool.false_ne_true]
    exact ⟨hmem.trans (World.tick_memories _ _ _ _), ⟨rfl, rfl, rfl, World.counter_tick_self _ _ _ _⟩, World.tick_out _ _ _ _⟩

theorem World.exported.of_same {u v : World} {ok : Bool} (h : v.exported u ok)
    (hc : v.counter .csk 0 (if ok then 0x0B0 else 0x0B8) = w.counter .csk 0 (if ok then 0x0B0 else 0x0B8)) : w.exported u ok := by
  obtain ⟨h1, h2, h3, h4⟩ := h
  exact ⟨h1, h2, h3, by rw [World.counted, ← hc]; exact h4⟩

/-- What the end of a transfer leaves where the frame that ends it was heard. -/
theorem World.endTransfer_heard {f : Cask → Cask} (hd : (f w.cask).transfer.dump = none) (ok : Bool) (hg : ok = true → w.inGroup = true) :
    w.memoriesKept (((w.tick .eth 0 0x080).updCask f).endTransfer t ok) ∧ w.exported (((w.tick .eth 0 0x080).updCask f).endTransfer t ok) ok
      ∧ (((w.tick .eth 0 0x080).updCask f).endTransfer t ok).out = w.out := by
  have hmem := (w.tick_memories .eth 0 0x080).trans (World.updCask_memories _ f)
  have hcount : ((w.tick .eth 0 0x080).updCask f).counter .csk 0 (if ok then 0x0B0 else 0x0B8) = w.counter .csk 0 (if ok then 0x0B0 else 0x0B8) :=
    w.counter_tick_ne (by decide) (by split <;> decide) (by split <;> decide)
  have hgroup : ok = true → ((w.tick .eth 0 0x080).updCask f).inGroup = true := hg
  have hout : ((w.tick .eth 0 0x080).updCask f).out = w.out := w.tick_out .eth 0 0x080
  have hdump : ((w.tick .eth 0 0x080).updCask f).cask.transfer.dump = none := hd
  generalize (w.tick .eth 0 0x080).updCask f = v at *
  obtain ⟨h1, h2, h3⟩ := World.endTransfer_facts (w := v) (t := t) hdump ok hgroup
  exact ⟨hmem.trans h1, h2.of_same hcount, h3.trans hout⟩

end Transfers

section Export
variable {s : State} {n : Nat}

theorem World.askPeers_facts (w : World) (t : Sid) (n : Nat) : w.Mailed (w.askPeers t n)
    ∧ ∀ p ∈ w.peers, w.reaches p → ∃ q, Output.packet 0x10 q ∈ (w.askPeers t n).out ∧ q.dst = BitVec.ofNat 14 p ∧ leAt q.payload 0 1 = 4 := by
  unfold World.askPeers
  generalize w.peers = ps
  have hall : ∀ (xs : List Nat) (u v : World), u.Mailed (xs.foldl (fun w p =>
      w.sendPacket t 0x10 p (ioSource 11) (mkTag 7 9 0) 0 false false (pieceImage 4 { owner := w.ownPosition, step := n })) u) := fun xs u _ =>
    World.Mailed.foldl (fun v p => v.sendPacket_mailed t _ _ _ _ _ _ _ _) xs u
  induction ps generalizing w with
  | nil => exact ⟨.refl, fun p hp => absurd hp List.not_mem_nil⟩
  | cons x xs ih =>
    have hfirst := w.sendPacket_mailed t 0x10 x (ioSource 11) (mkTag 7 9 0) 0 false false (pieceImage 4 { owner := w.ownPosition, step := n })
    have hleaves := w.sendPacket_leaves t 0x10 x (ioSource 11) (mkTag 7 9 0) 0 false false (pieceImage 4 { owner := w.ownPosition, step := n })
    rw [List.foldl_cons]
    generalize w.sendPacket t 0x10 x (ioSource 11) (mkTag 7 9 0) 0 false false (pieceImage 4 { owner := w.ownPosition, step := n }) = v at *
    obtain ⟨hrest, hmem⟩ := ih v
    refine ⟨hfirst.trans hrest, fun p hp hr => ?_⟩
    obtain rfl | hp := List.mem_cons.mp hp
    · obtain ⟨q, hq, hdst, hpay⟩ := hleaves hr
      exact ⟨q, hrest.mem_out (by rw [hq]; simp), hdst, by rw [hpay]; rfl⟩
    · exact hmem p hp (hfirst.reaches hr)

variable (hs : s.inService = true) (hdue : s.w.cask.exportDue = some n) (ha : s.w.cask.transfer.active = false)
include hs hdue ha

theorem caskExport_noStore (hd : s.w.cask.transfer.dump = none) (hst : s.w.store = none) :
    ∃ t, exec .caskExport s = .next t ∧ s.restKept t ∧ s.w.memoriesKept t.w ∧ s.w.exported t.w false := by
  have hx : exec .caskExport s = .next { s with w := s.w.endTransfer s.sid false } := by
    refine next_of_serve hs ?_
    dsimp only
    rw [hdue]
    dsimp only
    rw [if_neg (by simp [ha]), if_pos (by simp [hst])]
  obtain ⟨h1, h2, -⟩ := World.endTransfer_facts (t := s.sid) hd false (fun h => by cases h)
  exact ⟨_, hx, s.restKept_world _, h1, h2⟩

theorem caskExport_gathers (hst : s.w.store.isSome = true) (hg : s.w.inGroup = true) (hf : s.w.cask.fetching = none) (hc : s.w.canSend = true) :
    ∃ t, exec .caskExport s = .next t ∧ s.restKept t ∧ s.w.memoriesKept t.w
      ∧ (∃ f, t.w.cask.fetching = some f ∧ f.step = n ∧ f.toExport = true)
      ∧ ∀ p ∈ s.w.peers, s.w.reaches p → ∃ q, Output.packet 0x10 q ∈ t.w.out ∧ q.dst = BitVec.ofNat 14 p ∧ leAt q.payload 0 1 = 4 := by
  have hx : exec .caskExport s =
      .next { s with w := (s.w.updCask fun c => { c with fetching := some { step := n, toExport := true } }).askPeers s.sid n } := by
    refine next_of_serve hs ?_
    dsimp only
    rw [hdue]
    dsimp only
    rw [if_neg (by simp [ha]), if_neg (by simp [Option.isSome_iff_ne_none.mp hst]), if_neg (by simp [hg]), hf]
    exact if_pos hc
  obtain ⟨hmail, hask⟩ := (s.w.updCask fun c => { c with fetching := some { step := n, toExport := true } }).askPeers_facts s.sid n
  refine ⟨_, hx, s.restKept_world _, (s.w.updCask_memories _).trans hmail.memories, ⟨{ step := n, toExport := true }, ?_, rfl, rfl⟩, hask⟩
  exact congrArg Cask.fetching hmail.sent.cask

theorem caskExport_starts (hst : s.w.store.isSome = true) (hg : s.w.inGroup = false) : ∃ t, exec .caskExport s = .next t ∧ s.restKept t
    ∧ s.w.memoriesKept t.w ∧ t.w.cask.transfer.active = true ∧ t.w.cask.transfer.step = n := by
  have hx : exec .caskExport s =
      .next { s with w := s.w.startTransfer n ((0xFFFFFFFF, s.w.cask.manifest) :: s.w.cask.transfer.segs) } := by
    refine next_of_serve hs ?_
    dsimp only
    rw [hdue]
    dsimp only
    rw [if_neg (by simp [ha]), if_neg (by simp [Option.isSome_iff_ne_none.mp hst]), if_pos hg]
  exact ⟨_, hx, s.restKept_world _, s.w.startTransfer_facts _ _⟩

end Export

section Data
variable {s : State} {b : List Byte} {f : Fetching}

/-- What of a segment has come once a frame is taken. -/
def Fetching.extended (f : Fetching) (b : List Byte) : List Byte :=
  let old := ((f.store.find? fun y => decide (y.1 = beAt b 12 4)).map (·.2)).getD []
  if beAt b 24 8 = old.length then old ++ b.drop 48 else old

/-- The restore with that segment. -/
def Fetching.takes (f : Fetching) (b : List Byte) : Fetching :=
  { f with store := (f.store.filter fun x => decide (x.1 ≠ beAt b 12 4)) ++ [(beAt b 12 4, f.extended b)] }

theorem Fetching.takes_finds (f : Fetching) (b : List Byte) :
    (((f.takes b).store.find? fun y => decide (y.1 = beAt b 12 4)).map (·.2)) = some (f.extended b) := by
  have hnone : ((f.store.filter fun x => decide (x.1 ≠ beAt b 12 4)).find? fun y => decide (y.1 = beAt b 12 4)) = none := by
    rw [List.find?_eq_none]
    intro y hy
    simpa using (List.mem_filter.mp hy).2
  rw [Fetching.takes, List.find?_append, hnone]
  simp

theorem World.takeData_takes {w : World} (hf : w.cask.fetching = some f) (hst : f.fromStore = true) (hn : beAt b 16 8 = f.step) :
    w.takeData b = (w.updCask fun c => { c with fetching := some (f.takes b) }).toStore
      (w.caskFrame 2 (beAt b 12 4) f.step (f.extended b).length (beAt b 36 4) false []) := by
  unfold World.takeData
  rw [hf]
  dsimp only
  rw [if_neg (by simp [hst, hn])]
  have hupd : (w.updFetch fun g => { g with store := (g.store.filter fun x => decide (x.1 ≠ beAt b 12 4)) ++ [(beAt b 12 4, f.extended b)] }) =
      w.updCask fun c => { c with fetching := some (f.takes b) } := by
    rw [World.updFetch, World.updCask, World.updCask, hf]
    rfl
  exact congrArg (fun v => World.toStore v (w.caskFrame 2 (beAt b 12 4) f.step (f.extended b).length (beAt b 36 4) false [])) hupd

/-- A frame of the store with bytes of a manifest or of a segment. -/
theorem takeData_took {kind : Nat} (hf : s.w.cask.fetching = some f) (hst : f.fromStore = true) (hn : beAt b 16 8 = f.step)
    (hh : s.w.storeHears kind b) {i : Instr} (hx : exec i s = .next { s with w := (s.w.tick .eth 0 0x080).takeData b }) :
    ∃ t, exec i s = .next t ∧ s.restKept t ∧ s.w.memoriesKept t.w
      ∧ s.w.toldStore t.w (s.w.caskFrame 2 (beAt b 12 4) f.step (f.extended b).length (beAt b 36 4) false [])
      ∧ ∃ f', t.w.cask.fetching = some f' ∧ ((f'.store.find? fun y => decide (y.1 = beAt b 12 4)).map (·.2)) = some (f.extended b) := by
  rw [World.takeData_takes (w := s.w.tick .eth 0 0x080) hf hst hn] at hx
  refine ⟨_, hx, s.restKept_world _, ((s.w.tick_memories _ _ _).trans (World.updCask_memories _ _)).trans (World.toStore_memories _ _),
    World.toStore_told hh.isSome rfl rfl rfl, f.takes b, ?_, f.takes_finds b⟩
  exact congrArg Cask.fetching (World.toStore_cask _ _)

end Data

section Acks
variable {s : State} {b : List Byte}

/-- Whether an acknowledgement covers a frame. -/
def ackCovers (b : List Byte) (u : Nat × List Byte) : Bool :=
  if beAt u.2 4 1 = 4 then decide (beAt b 36 4 = u.1) && decide (beAt b 12 4 = 0xFFFFFFFF)
  else decide (beAt u.2 12 4 = beAt b 12 4) && decide (beAt u.2 24 8 + beAt u.2 32 4 ≤ beAt b 24 8)

/-- The transfer without the frames that an acknowledgement covers. -/
def World.ackedFrames (w : World) (b : List Byte) : World :=
  w.updCask fun c => { c with transfer := { w.cask.transfer with unacked := w.cask.transfer.unacked.filter fun u => !ackCovers b u } }

variable (hs : s.inService = true) (ha : s.w.cask.transfer.active = true) (hd : s.w.cask.transfer.dump = none) (hg : s.w.inGroup = true)
  (hn : beAt b 16 8 = s.w.cask.transfer.step)
include hs

theorem exec_caskAck_of_hears (hh : s.w.storeHears 2 b) (ha : s.w.cask.transfer.active = true) (hn : beAt b 16 8 = s.w.cask.transfer.step)
    (hsegs : s.w.cask.transfer.segs = []) (hend : s.w.cask.transfer.endSent = true) :
    exec (.caskAck b) s = .next { s with w :=
      if ((s.w.tick .eth 0 0x080).ackedFrames b).cask.transfer.endSent ∧ ((s.w.tick .eth 0 0x080).ackedFrames b).cask.transfer.unacked = [] then
        ((s.w.tick .eth 0 0x080).ackedFrames b).endTransfer s.sid true
      else (s.w.tick .eth 0 0x080).ackedFrames b } := by
  refine next_of_serve hs ((World.hearStore_of_hears hh _).trans ?_)
  have hpump := World.pumpTransfer_of_sent (w := (s.w.tick .eth 0 0x080).ackedFrames b) hsegs hend transferWindow
  refine (if_neg (not_or.mpr ⟨fun h => Bool.noConfusion (ha.symm.trans h), not_not_intro hn⟩)).trans ?_
  exact congrArg (fun v : World => if v.cask.transfer.endSent ∧ v.cask.transfer.unacked = [] then v.endTransfer s.sid true else v) hpump

include ha hd hg hn

theorem caskAck_ends (hh : s.w.storeHears 2 b) {u : Nat × List Byte} (hsegs : s.w.cask.transfer.segs = []) (hend : s.w.cask.transfer.endSent = true)
    (hu : s.w.cask.transfer.unacked = [u]) (hk : beAt u.2 4 1 = 4) (hseq : beAt b 36 4 = u.1) (hall : beAt b 12 4 = 0xFFFFFFFF) :
    ∃ t, exec (.caskAck b) s = .next t ∧ s.restKept t ∧ s.w.memoriesKept t.w ∧ t.w.out = s.w.out ∧ s.w.exported t.w true := by
  have hx := exec_caskAck_of_hears hs hh ha hn hsegs hend
  have hcover : ((s.w.tick .eth 0 0x080).ackedFrames b).cask.transfer.unacked = [] := by
    show (s.w.cask.transfer.unacked.filter fun u => !ackCovers b u) = []
    rw [hu, List.filter_cons_of_neg (by simp [ackCovers, hk, hseq, hall])]
    rfl
  rw [if_pos ⟨hend, hcover⟩] at hx
  obtain ⟨h1, h2, h3⟩ := World.endTransfer_heard (w := s.w) (t := s.sid)
    (f := fun c => { c with transfer := { s.w.cask.transfer with unacked := s.w.cask.transfer.unacked.filter fun u => !ackCovers b u } })
    hd true fun _ => hg
  exact ⟨_, hx, s.restKept_world _, h1, h3, h2⟩

omit hd hg in
theorem caskAck_frees (hh : s.w.storeHears 2 b) {u v : Nat × List Byte} (hsegs : s.w.cask.transfer.segs = []) (hend : s.w.cask.transfer.endSent = true)
    (hu : s.w.cask.transfer.unacked = [u, v]) (hku : beAt u.2 4 1 ≠ 4) (hkv : beAt v.2 4 1 = 4) (hseg : beAt b 12 4 = beAt u.2 12 4)
    (hlen : beAt u.2 24 8 + beAt u.2 32 4 ≤ beAt b 24 8) (hall : beAt b 12 4 ≠ 0xFFFFFFFF) :
    ∃ t, exec (.caskAck b) s = .next t ∧ s.restKept t ∧ s.w.memoriesKept t.w ∧ t.w.out = s.w.out
      ∧ t.w.cask.transfer = { s.w.cask.transfer with unacked := [v] } := by
  have hx := exec_caskAck_of_hears hs hh ha hn hsegs hend
  have hcover : ((s.w.tick .eth 0 0x080).ackedFrames b).cask.transfer.unacked = [v] := by
    show (s.w.cask.transfer.unacked.filter fun u => !ackCovers b u) = [v]
    rw [hu, List.filter_cons_of_neg (by simp [ackCovers, hku, hseg, hlen]), List.filter_cons_of_pos (by simp [ackCovers, hkv, hall])]
    rfl
  rw [if_neg fun h => List.cons_ne_nil _ _ (hcover.symm.trans h.2)] at hx
  exact ⟨_, hx, s.restKept_world _, (s.w.tick_memories _ _ _).trans (World.updCask_memories _ _), rfl, by
    rw [← hcover]
    rfl⟩

theorem caskEnd_ends (hh : s.w.storeHears 4 b) (hend : s.w.cask.transfer.endSent = true) :
    ∃ t, exec (.caskEnd b) s = .next t ∧ s.restKept t ∧ s.w.memoriesKept t.w ∧ s.w.exported t.w true := by
  have hx : exec (.caskEnd b) s = .next { s with w := (s.w.tick .eth 0 0x080).endTransfer s.sid true } :=
    next_of_serve hs ((World.hearStore_of_hears hh _).trans (if_pos ⟨ha, hend, hn⟩))
  obtain ⟨h1, h2, -⟩ := World.endTransfer_heard (w := s.w) (t := s.sid) (f := id) hd true fun _ => hg
  exact ⟨_, hx, s.restKept_world _, h1, h2⟩

omit hg in
theorem caskRefuse_ends (hh : s.w.storeHears 5 b) : ∃ t, exec (.caskRefuse b) s = .next t ∧ s.restKept t ∧ s.w.memoriesKept t.w
    ∧ s.w.exported t.w false := by
  have hx : exec (.caskRefuse b) s = .next { s with w := (s.w.tick .eth 0 0x080).endTransfer s.sid false } :=
    next_of_serve hs ((World.hearStore_of_hears hh _).trans (if_pos ⟨ha, hn⟩))
  obtain ⟨h1, h2, -⟩ := World.endTransfer_heard (w := s.w) (t := s.sid) (f := id) hd false fun h => by cases h
  exact ⟨_, hx, s.restKept_world _, h1, h2⟩

end Acks

section Resend
variable {s : State}

theorem caskFetch_asks (hs : s.inService = true) (b : List Byte) {f : Fetching} {a : Nat × Nat} (hf : s.w.cask.fetching = some f)
    (hst : f.fromStore = true) (hask : f.nextAsk = some a) (hstore : s.w.store.isSome = true) :
    ∃ t, exec (.caskFetch b) s = .next t ∧ s.restKept t ∧ s.w.memoriesKept t.w ∧ t.w.cask = s.w.cask
      ∧ s.w.toldStore t.w (s.w.caskFrame 3 a.1 f.step a.2 0 false []) := by
  have hx : exec (.caskFetch b) s = .next { s with w := s.w.toStore (s.w.caskFrame 3 a.1 f.step a.2 0 false []) } := by
    refine next_of_serve hs ?_
    rw [World.askStore, hf]
    dsimp only
    rw [if_pos hst, hask]
    rfl
  exact ⟨_, hx, s.restKept_world _, World.toStore_memories _ _, World.toStore_cask _ _, World.toStore_told hstore rfl rfl rfl⟩

variable {seq : Nat} {u : Nat × List Byte} (hs : s.inService = true) (hu : (s.w.cask.transfer.unacked.find? fun u => decide (u.1 = seq)) = some u)
include hs hu

theorem caskFrameResend_resends (hn : AMap.get 0 s.w.cask.transfer.resends seq < 100) (hstore : s.w.store.isSome = true) :
    ∃ t, exec (.caskFrameResend seq) s = .next t ∧ s.restKept t ∧ s.w.memoriesKept t.w ∧ s.w.toldStore t.w u.2
      ∧ AMap.get 0 t.w.cask.transfer.resends seq = AMap.get 0 s.w.cask.transfer.resends seq + 1
      ∧ t.w.cask.transfer.unacked = s.w.cask.transfer.unacked := by
  have hx : exec (.caskFrameResend seq) s = .next { s with w := (s.w.toStore u.2).updCask fun c => { c with
      transfer := { s.w.cask.transfer with resends := AMap.set 0 s.w.cask.transfer.resends seq (AMap.get 0 s.w.cask.transfer.resends seq + 1) } } } := by
    refine next_of_serve hs ?_
    dsimp only
    rw [hu]
    exact if_neg (Nat.not_le.mpr hn)
  have hset := AMap.get_set_self 0 s.w.cask.transfer.resends seq (AMap.get 0 s.w.cask.transfer.resends seq + 1)
  exact ⟨_, hx, s.restKept_world _, (World.toStore_memories _ _).trans (World.updCask_memories _ _),
    World.toStore_told hstore rfl rfl rfl, hset, rfl⟩

theorem caskFrameResend_fails (hn : 100 ≤ AMap.get 0 s.w.cask.transfer.resends seq) (hd : s.w.cask.transfer.dump = none) :
    ∃ t, exec (.caskFrameResend seq) s = .next t ∧ s.restKept t ∧ s.w.memoriesKept t.w ∧ t.w.out = s.w.out ∧ s.w.exported t.w false := by
  have hx : exec (.caskFrameResend seq) s = .next { s with w := s.w.endTransfer s.sid false } := by
    refine next_of_serve hs ?_
    dsimp only
    rw [hu]
    exact if_pos hn
  obtain ⟨h1, h2, h3⟩ := World.endTransfer_facts (t := s.sid) hd false (fun h => by cases h)
  exact ⟨_, hx, s.restKept_world _, h1, h3, h2⟩

end Resend

/-- Settles O54: each frame and each command changes the transfer or the restore alone, and sends at most one frame beside those the window allows. -/
theorem transfersWithTheStore : Obligations.TransfersWithTheStore := fun _ hs =>
  ⟨fun _ hdue ha hd => ⟨caskExport_noStore hs hdue ha hd, caskExport_gathers hs hdue ha, caskExport_starts hs hdue ha⟩,
    fun _ _ hf hst hn => ⟨fun hh => takeData_took hf hst hn hh (next_of_serve hs (World.hearStore_of_hears hh _)),
      fun hh => takeData_took hf hst hn hh (next_of_serve hs (World.hearStore_of_hears hh _))⟩,
    fun _ ha hd hg hn => ⟨fun hh _ => caskAck_ends hs ha hd hg hn hh, fun hh _ _ => caskAck_frees hs ha hn hh, caskEnd_ends hs ha hd hg hn,
      caskRefuse_ends hs ha hd hn⟩,
    fun b _ _ hf hst hask hstore => caskFetch_asks hs b hf hst hask hstore,
    fun _ _ hu => ⟨caskFrameResend_resends hs hu, caskFrameResend_fails hs hu⟩⟩

end Sys2Proof.Machine

namespace Sys2Proof.Machine

/-! ### What the stop of a job leaves (R30, R47, R597, R602) -/

/-- `x` is `y` but for its job's state, its run, its dump and the trace records that wait. -/
def Part.haltedFrom (x y : Part) : Prop :=
  ∃ (j : JobState) (r b s : Bool) (d : Option Bool) (du : Dump) (l : List (List Byte)),
    x = { y with job := j, running := r, inBarrier := b, stopAtBoundary := s, due := d, dump := du, traceIn := l }

theorem Part.haltedFrom_refl (x : Part) : x.haltedFrom x := ⟨_, _, _, _, _, _, _, rfl⟩

theorem Part.haltedFrom.trans {x y z : Part} (h : x.haltedFrom y) (g : y.haltedFrom z) : x.haltedFrom z := by
  obtain ⟨j, r, b, s, d, du, l, rfl⟩ := h
  obtain ⟨_, _, _, _, _, _, _, rfl⟩ := g
  exact ⟨j, r, b, s, d, du, l, rfl⟩

/-- `a` is `b` but for its cores, clusters and partitions, the cask in progress, the islands' clocks, what is noted, and what was sent. -/
def World.haltedFrom (a b : World) : Prop :=
  ∃ (cs : AMap Word) (ps : AMap Part) (co : AMap Core) (cl : AMap Cluster) (ip : Option Nat) (st : AMap Nat) (ta : AMap Tail) (tr : Trc)
    (sp : AMap Bool) (rs : AMap (Nat × Nat)) (o : List Output),
    a = { b with counters := cs, parts := ps, cores := co, clusters := cl, cask := { b.cask with inProgress := ip }, stamps := st, tails := ta, trc := tr
                 stopped := sp, restarts := rs, out := o }

theorem World.haltedFrom_refl (w : World) : w.haltedFrom w := ⟨_, _, _, _, _, _, _, _, _, _, _, rfl⟩

theorem World.haltedFrom.trans {a b c : World} (h : a.haltedFrom b) (g : b.haltedFrom c) : a.haltedFrom c := by
  obtain ⟨cs, ps, co, cl, ip, st, ta, tr, sp, rs, o, rfl⟩ := h
  obtain ⟨_, _, _, _, _, _, _, _, _, _, _, rfl⟩ := g
  exact ⟨cs, ps, co, cl, ip, st, ta, tr, sp, rs, o, rfl⟩

/-- The counters that the stop of a job may add to. -/
def haltCounter (a : Nat) : Prop := notedCounter a ∨ ∃ p, a = Block.cnt.addr p 0x0B8

theorem not_haltCounter {b : Block} {i off : Nat} (h : off < 0x1000) (hn : off ∉ [0x098, 0x0A8, 0x0B0, 0x0B8]) : ¬ haltCounter (b.addr i off) := by
  simp only [List.mem_cons, List.not_mem_nil, or_false, not_or] at hn
  obtain ⟨h1, h2, h3, h4⟩ := hn
  rintro (e | ⟨p, e⟩)
  · exact not_notedCounter h h1 h2 h3 e
  · exact Block.addr_ne h (by omega) h4 e

/-- `v` is `w` once a job, or jobs, have stopped. -/
structure World.Halted (w v : World) : Prop where
  world : v.haltedFrom w
  part : ∀ q, (v.part q).haltedFrom (w.part q)
  out : ∃ o, v.out = w.out ++ o
  counter : ∀ a, ¬ haltCounter a → AMap.get 0 v.counters a = AMap.get 0 w.counters a

section Links
variable {w v u : World} {t : Sid}

theorem World.Halted.refl : w.Halted w :=
  ⟨w.haltedFrom_refl, fun _ => Part.haltedFrom_refl _, World.nothingSent rfl, fun _ _ => rfl⟩

theorem World.Halted.trans (h : w.Halted v) (g : v.Halted u) : w.Halted u := by
  obtain ⟨o, ho⟩ := h.out
  obtain ⟨o', ho'⟩ := g.out
  exact ⟨g.world.trans h.world, fun q => (g.part q).trans (h.part q), ⟨o ++ o', by rw [ho', ho, List.append_assoc]⟩,
    fun a ha => (g.counter a ha).trans (h.counter a ha)⟩

theorem World.Halted.foldl {α : Type} {f : World → α → World} (h : ∀ (v : World) (x : α), v.Halted (f v x)) (xs : List α) (w : World) :
    w.Halted (xs.foldl f w) :=
  List.foldlRecOn xs f (motive := w.Halted) .refl fun v hv x _ => hv.trans (h v x)

theorem World.Noted.halted (h : w.Noted v) (hu : v.uzo = w.uzo) : w.Halted v := by
  have hout := World.nothingSent h.noted.out
  have hc := h.counter
  obtain ⟨⟨c, ps, u, st, ta, tr, he⟩, hp⟩ := h.noted
  refine ⟨⟨c, ps, w.cores, w.clusters, w.cask.inProgress, st, ta, tr, w.stopped, w.restarts, w.out, ?_⟩, fun q => ?_, hout,
    fun a ha => hc a fun hn => ha (.inl hn)⟩
  · have huzo : { w.uzo with events := u.1, lost := u.2 } = w.uzo := by
      rw [he] at hu
      exact hu
    rw [he, huzo]
  · obtain ⟨l, hl⟩ := hp q
    exact ⟨_, _, _, _, _, _, l, hl⟩

theorem World.updPart_halted (w : World) (p : Nat) {f : Part → Part} (h : ∀ x, (f x).haltedFrom x) : w.Halted (w.updPart p f) := by
  refine ⟨⟨_, _, _, _, _, _, _, _, _, _, _, rfl⟩, fun q => ?_, World.nothingSent rfl, fun _ _ => rfl⟩
  rw [World.part_updPart]
  split
  next e => rw [e]; exact h _
  next => exact Part.haltedFrom_refl _

theorem World.updCore_halted (w : World) (c : Nat) (f : Core → Core) : w.Halted (w.updCore c f) :=
  ⟨⟨_, _, _, _, _, _, _, _, _, _, _, rfl⟩, fun _ => Part.haltedFrom_refl _, World.nothingSent rfl, fun _ _ => rfl⟩

theorem World.updCluster_halted (w : World) (k : Nat) (f : Cluster → Cluster) : w.Halted (w.updCluster k f) :=
  ⟨⟨_, _, _, _, _, _, _, _, _, _, _, rfl⟩, fun _ => Part.haltedFrom_refl _, World.nothingSent rfl, fun _ _ => rfl⟩

theorem World.wakeIsland_halted (w : World) (t : Sid) (k : Nat) : w.Halted (w.wakeIsland t k) := by
  obtain ⟨st, rs, h⟩ := w.wakeIsland_eq t k
  rw [h]
  exact ⟨⟨_, _, _, _, _, _, _, _, st, rs, _, rfl⟩, fun _ => Part.haltedFrom_refl _, World.nothingSent rfl, fun _ _ => rfl⟩

theorem World.emit_halted (w : World) (o : Output) : w.Halted (w.emit o) :=
  ⟨⟨_, _, _, _, _, _, _, _, _, _, _, rfl⟩, fun _ => Part.haltedFrom_refl _, ⟨[o], rfl⟩, fun _ _ => rfl⟩

variable (w : World) (t : Sid) (p : Nat)

theorem World.freezePart_halted (cause trigger : Nat) : w.Halted (w.freezePart t p cause trigger) := by
  unfold World.freezePart
  extract_lets w1
  have h1 : w.Halted w1 := .foldl (f := fun v k => v.wakeIsland t k) (fun v k => v.wakeIsland_halted t k) _ _
  have h2 : w1.Halted ((w1.partSources p).foldl (World.freezeTail t cause trigger) w1) := .foldl (f := World.freezeTail t cause trigger)
    (fun v src => (v.freezeTail_Noted t cause trigger src).halted (v.freezeTail_uzo t cause trigger src)) _ _
  generalize (w1.partSources p).foldl (World.freezeTail t cause trigger) w1 = w2 at *
  have h3 : w2.Halted (w2.tick .cnt p 0x0B8) :=
    ⟨⟨_, _, _, _, _, _, _, _, _, _, _, rfl⟩, fun _ => Part.haltedFrom_refl _, World.nothingSent rfl,
      fun _ ha => World.counter_count_ne _ 1 fun e => ha (.inr ⟨p, e⟩)⟩
  exact (h1.trans h2).trans h3

theorem World.cancelDump_halted : w.Halted (w.cancelDump t p) := by
  unfold World.cancelDump
  split
  · unfold World.endDump
    extract_lets d w1 w2
    have h1 : w.Halted w1 := w.updPart_halted p fun _ => ⟨_, _, _, _, _, _, _, rfl⟩
    have h2 : w2 = w1 := if_neg (by decide)
    rw [h2]
    exact h1.trans (((w1.stamp_Noted t _).halted (World.stamp_uzo _ t _)).trans
      ((World.traceTo_Noted _ _ _ _ _).halted (World.traceTo_uzo _ _ _ _ _)))
  · exact .refl

theorem World.stopRun_halted (keep : Bool) : w.Halted (w.stopRun p keep) := by
  unfold World.stopRun
  split
  · exact .refl
  · extract_lets w1 w2 w3
    have h1 : w.Halted w1 := .foldl (f := fun (v : World) c => v.updCore c (Core.halted keep)) (fun v c => v.updCore_halted c _) _ _
    have h2 : w1.Halted w2 := by
      simp only [w2]
      split
      · exact .refl
      · exact (World.Halted.foldl (f := fun (v : World) c => v.updCore c Core.emptied) (fun v c => v.updCore_halted c _) _ _).trans
          (.foldl (f := fun (v : World) k => v.updCluster k Cluster.emptied) (fun v k => v.updCluster_halted k _) _ _)
    have h3 : w2.Halted w3 := w2.updPart_halted p fun _ => ⟨_, _, _, _, _, _, _, rfl⟩
    have h123 := (h1.trans h2).trans h3
    clear_value w3
    split
    · have h4 : w3.Halted { w3 with cask := { w3.cask with inProgress := none } } :=
        ⟨⟨_, _, _, _, none, _, _, _, _, _, _, rfl⟩, fun _ => Part.haltedFrom_refl _, World.nothingSent rfl, fun _ _ => rfl⟩
      split
      · exact (h123.trans h4).trans (World.emit_halted _ _)
      · exact h123.trans h4
    · exact h123

/-- A fault that stops the job of a partition. -/
theorem World.stopJob_halted (cause trigger : Nat) : w.Halted (w.stopJob t p cause trigger) :=
  ((w.freezePart_halted t p cause trigger).trans (World.cancelDump_halted _ t p)).trans (World.stopRun_halted _ p _)

theorem World.stopRun_job {keep : Bool} (h : (w.part p).job = .running) : ((w.stopRun p keep).part p).job = .stopped := by
  obtain ⟨v, -, -, -, o, c, he⟩ := w.stopRun_ends p (keep := keep) h
  have hpart : ({ v.updPart p Part.stopped with out := v.out ++ o, cask := c } : World).part p = (v.part p).stopped := v.part_updPart_self p Part.stopped
  rw [he, hpart]
  rfl

theorem World.stopJob_job {cause trigger : Nat} (h : (w.part p).job = .running) : ((w.stopJob t p cause trigger).part p).job = .stopped := by
  have hk := (w.freezePart_stopKept t p cause trigger).trans (World.cancelDump_stopKept _ t p)
  exact World.stopRun_job _ p ((hk.job p).trans h)

end Links

section Fields
variable {w v : World} (h : w.Halted v)
include h

theorem World.Halted.memories : w.memoriesKept v := by
  obtain ⟨_, _, _, _, _, _, _, _, _, _, _, rfl⟩ := h.world
  exact ⟨rfl, rfl, rfl, rfl⟩

theorem World.Halted.uzo : v.uzo = w.uzo := by obtain ⟨_, _, _, _, _, _, _, _, _, _, _, rfl⟩ := h.world; rfl
theorem World.Halted.regs : v.regs = w.regs := by obtain ⟨_, _, _, _, _, _, _, _, _, _, _, rfl⟩ := h.world; rfl
theorem World.Halted.fab : v.fab = w.fab := by obtain ⟨_, _, _, _, _, _, _, _, _, _, _, rfl⟩ := h.world; rfl
theorem World.Halted.kiln : v.kiln = w.kiln := by obtain ⟨_, _, _, _, _, _, _, _, _, _, _, rfl⟩ := h.world; rfl
theorem World.Halted.twin : v.twin = w.twin := by obtain ⟨_, _, _, _, _, _, _, _, _, _, _, rfl⟩ := h.world; rfl
theorem World.Halted.config : v.config = w.config := by obtain ⟨_, _, _, _, _, _, _, _, _, _, _, rfl⟩ := h.world; rfl
theorem World.Halted.eth : v.eth = w.eth := by obtain ⟨_, _, _, _, _, _, _, _, _, _, _, rfl⟩ := h.world; rfl
theorem World.Halted.channels : v.channels = w.channels := by obtain ⟨_, _, _, _, _, _, _, _, _, _, _, rfl⟩ := h.world; rfl
theorem World.Halted.cellarBad : v.cellarBad = w.cellarBad := by obtain ⟨_, _, _, _, _, _, _, _, _, _, _, rfl⟩ := h.world; rfl
theorem World.Halted.parityHeld : v.parityHeld = w.parityHeld := by obtain ⟨_, _, _, _, _, _, _, _, _, _, _, rfl⟩ := h.world; rfl
theorem World.Halted.reg (x : Nat) : v.reg x = w.reg x := World.reg_of_regs h.regs x

theorem World.Halted.cask : ∃ ip, v.cask = { w.cask with inProgress := ip } := by
  obtain ⟨_, _, _, _, ip, _, _, _, _, _, _, rfl⟩ := h.world
  exact ⟨ip, rfl⟩

theorem World.Halted.part_keeps {γ : Type} (g : Part → γ)
    (hg : ∀ x j r b s d du l, g { x with job := j, running := r, inBarrier := b, stopAtBoundary := s, due := d, dump := du, traceIn := l } = g x) (q : Nat) :
    g (v.part q) = g (w.part q) := by
  obtain ⟨j, r, b, s, d, du, l, hq⟩ := h.part q
  rw [hq]
  exact hg _ _ _ _ _ _ _ _

theorem World.Halted.counter_kept {b : Block} {i off : Nat} (ho : off < 0x1000) (hn : off ∉ [0x098, 0x0A8, 0x0B0, 0x0B8]) :
    v.counter b i off = w.counter b i off := h.counter _ (not_haltCounter ho hn)

end Fields

section Metadata
variable {w : World} {t : Sid} {p src check low : Nat}

/-- METADATA is raised, and the job stops. -/
theorem World.metadata_stops (hjob : (w.part p).job = .running) : w.memoriesKept (w.metadata t p src check low)
    ∧ ((w.metadata t p src check low).part p).job = .stopped ∧ (w.metadata t p src check low).regs = w.regs
    ∧ (w.metadata t p src check low).fab = w.fab := by
  have hn := w.raise_noted t src 0x102 (check * 2 ^ 24 + low % 2 ^ 24)
  unfold World.metadata
  generalize w.raise t src 0x102 (check * 2 ^ 24 + low % 2 ^ 24) = v at *
  have hh := v.stopJob_halted t p 1 src
  exact ⟨hn.memories.trans hh.memories, v.stopJob_job t p (hn.job p ▸ hjob), hh.regs.trans hn.regs, hh.fab.trans hn.fab⟩

theorem World.metadata_raised (hf : w.forwards 3) (hsrc : src < 65536) :
    w.raised (w.metadata t p src check low) src 0x102 (check * 2 ^ 24 + low % 2 ^ 24) := by
  have hr := World.raise_raised (w := w) (t := t) (src := src) (code := 0x102) (payload := check * 2 ^ 24 + low % 2 ^ 24) hf hsrc (by decide)
  unfold World.metadata
  generalize w.raise t src 0x102 (check * 2 ^ 24 + low % 2 ^ 24) = v at *
  rw [World.raised, (v.stopJob_halted t p 1 src).uzo]
  exact hr

end Metadata

end Sys2Proof.Machine

namespace Sys2Proof.Machine

/-! ### How a packet comes in (R29, R398, R399) -/

section Heard
variable (w : World) (t : Sid)

theorem World.act_uzo (src kind cls a16 a32 : Nat) (data : List Byte) : (w.act t src kind cls a16 a32 data).uzo = w.uzo :=
  (World.traceTo_uzo _ _ _ _ _).trans ((World.tailWrite_uzo _ _ _).trans (World.stamp_uzo _ t src))

/-- The module has heard a packet: it is counted and recorded. -/
def World.heardPacket (kind : Nat) (q : Packet) : World :=
  (w.tick .fab 0 0x088).packetRecord t (kind % 256) 1 q.src.toNat q.tag.toNat q.address.toNat

/-- A counter of the fabric block that no note is counted in. -/
theorem not_notedCounter_fab {off : Nat} (h : off < 0x1000) (hn : off ≠ 0x0B0) (h1 : Block.fab.addr 0 off ≠ Block.sid.addr 0 0x098)
    (h2 : Block.fab.addr 0 off ≠ Block.trc.addr 0 0x098) (h3 : Block.fab.addr 0 off ≠ Block.uzo.addr 0 0x0A8) : ¬ notedCounter (Block.fab.addr 0 off) := by
  rintro (e | e | e | ⟨p, e⟩)
  · exact h1 e
  · exact h2 e
  · exact h3 e
  · exact Block.addr_ne h (by decide) hn e

theorem World.packetRecord_noted (kind dir peer tag a : Nat) : (w.packetRecord t kind dir peer tag a).notedFrom w
    ∧ (w.packetRecord t kind dir peer tag a).uzo = w.uzo := ⟨w.act_noted t _ _ _ _ _ _, w.act_uzo t _ _ _ _ _ _⟩

theorem World.heardPacket_noted (kind : Nat) (q : Packet) : (w.heardPacket t kind q).notedFrom w ∧ (w.heardPacket t kind q).uzo = w.uzo := by
  have htick := w.tick_noted .fab 0 0x088
  have huzo := w.tick_uzo .fab 0 0x088
  unfold World.heardPacket
  generalize w.tick .fab 0 0x088 = v at *
  obtain ⟨h1, h2⟩ := v.packetRecord_noted t (kind % 256) 1 q.src.toNat q.tag.toNat q.address.toNat
  exact ⟨World.notedFrom_trans h1 htick, h2.trans huzo⟩

theorem World.heardPacket_counter (kind : Nat) (q : Packet) {b : Block} {i off : Nat} (h : off < 0x1000) (hne : off ≠ 0x088)
    (hn : ¬ notedCounter (b.addr i off)) : (w.heardPacket t kind q).counter b i off = w.counter b i off := by
  have htick := w.counter_tick_ne (b := .fab) (b' := b) (i := 0) (j := i) (off := 0x088) (by decide) h hne
  unfold World.heardPacket
  generalize w.tick .fab 0 0x088 = v at *
  exact ((World.act_Noted (w := v) (t := t) _ _ _ _ _ _).counter _ hn).trans htick

theorem World.countPair_facts (q : Packet) : w.memoriesKept (w.countPair q) ∧ (w.countPair q).out = w.out ∧ (w.countPair q).cores = w.cores
    ∧ (w.countPair q).clusters = w.clusters ∧ (w.countPair q).parts = w.parts ∧ (w.countPair q).counters = w.counters ∧ (w.countPair q).uzo = w.uzo
    ∧ (w.countPair q).regs = w.regs ∧ (w.countPair q).fab.orderHeld = w.fab.orderHeld ∧ (w.countPair q).fab.stepHeld = w.fab.stepHeld := by
  unfold World.countPair
  split
  · exact ⟨w.memoriesKept_refl, rfl, rfl, rfl, rfl, rfl, rfl, rfl, rfl, rfl⟩
  · exact ⟨⟨rfl, rfl, rfl, rfl⟩, rfl, rfl, rfl, rfl, rfl, rfl, rfl, rfl, rfl⟩

/-- Where no packet waits for its ORDER, none is released. -/
theorem World.releaseOrder_of_none (h : w.fab.orderHeld = []) (src n : Nat) : w.releaseOrder t src n = w := by
  cases n with
  | zero => rfl
  | succ n => rw [World.releaseOrder, h, List.find?_nil]

/-- What the packet's own part of an arrival leaves: its progress, and one more of its pair. -/
theorem World.arrived_eq (kind : Nat) (q : Packet) : w.arrived t kind q = ((w.heardPacket t kind q).progressed t 0).countPair q := rfl

theorem World.arrived_fab (kind : Nat) (q : Packet) : ∃ ps, (w.arrived t kind q).fab = { w.fab with pairReceived := ps } := by
  have h := (w.heardPacket_noted t kind q).1.fab
  rw [World.arrived_eq]
  generalize w.heardPacket t kind q = v at *
  unfold World.countPair
  split
  · exact ⟨_, h⟩
  · refine ⟨AMap.upd 0 w.fab.pairReceived q.src.toNat (· + 1), ?_⟩
    show ({ v.fab with pairReceived := AMap.upd 0 v.fab.pairReceived q.src.toNat (· + 1) } : Fab) = _
    rw [h]

/-- A packet that arrives is noted; beside that it is progress of partition 0, and one more of its pair. -/
theorem World.arrived_noted (kind : Nat) (q : Packet) :
    ∃ (v : World) (f : Fab), v.notedFrom w ∧ v.uzo = w.uzo ∧ w.arrived t kind q = { v.progressed t 0 with fab := f } := by
  obtain ⟨hn, hu⟩ := w.heardPacket_noted t kind q
  rw [World.arrived_eq]
  generalize w.heardPacket t kind q = v at *
  unfold World.countPair
  split
  · exact ⟨v, v.fab, hn, hu, rfl⟩
  · exact ⟨v, _, hn, hu, rfl⟩

theorem World.arrived_memories (kind : Nat) (q : Packet) : w.memoriesKept (w.arrived t kind q) := by
  obtain ⟨v, f, hn, -, he⟩ := w.arrived_noted t kind q
  rw [he]
  exact hn.memories.trans (v.updPart_memories 0 fun x => { x with progress := t.now })

theorem World.arrived_out (kind : Nat) (q : Packet) : (w.arrived t kind q).out = w.out := by
  obtain ⟨v, f, hn, -, he⟩ := w.arrived_noted t kind q
  rw [he]
  exact hn.out

theorem World.arrived_uzo (kind : Nat) (q : Packet) : (w.arrived t kind q).uzo = w.uzo := by
  obtain ⟨v, f, -, hu, he⟩ := w.arrived_noted t kind q
  rw [he]
  exact hu

theorem World.arrived_regs (kind : Nat) (q : Packet) : (w.arrived t kind q).regs = w.regs := by
  obtain ⟨v, f, hn, -, he⟩ := w.arrived_noted t kind q
  rw [he]
  exact hn.regs

theorem World.arrived_cores (kind : Nat) (q : Packet) : (w.arrived t kind q).cores = w.cores ∧ (w.arrived t kind q).clusters = w.clusters := by
  obtain ⟨v, f, hn, -, he⟩ := w.arrived_noted t kind q
  rw [he]
  exact ⟨hn.cores, hn.clusters⟩

/-- An arrival leaves of a partition all but its progress and the trace records that wait. -/
theorem World.arrived_part_keeps {γ : Type} (g : Part → γ) (hg : ∀ x l, g { x with traceIn := l } = g x) (hp : ∀ x n, g { x with progress := n } = g x)
    (kind : Nat) (q : Packet) (p : Nat) : g ((w.arrived t kind q).part p) = g (w.part p) := by
  obtain ⟨v, f, hn, -, he⟩ := w.arrived_noted t kind q
  have hpart : (w.arrived t kind q).part p = (v.progressed t 0).part p := by rw [he]; rfl
  rw [hpart, World.progressed, World.part_updPart, ← hn.part_keeps g hg p]
  split
  next e => rw [e]; exact hp _ _
  next => rfl

theorem World.arrived_counter (kind : Nat) (q : Packet) {b : Block} {i off : Nat} (h : off < 0x1000) (hne : off ≠ 0x088)
    (hn : ¬ notedCounter (b.addr i off)) : (w.arrived t kind q).counter b i off = w.counter b i off := by
  rw [World.arrived_eq, World.counter, (World.countPair_facts _ q).2.2.2.2.2.1]
  exact w.heardPacket_counter t kind q h hne hn

end Heard

section Execs
variable {s : State} {i : Instr} {kind : Nat} {q : Packet}

/-- The command that is a packet's arrival receives it. -/
theorem exec_packet (hs : s.inService = true) (ht : s.w.fab.trained = true) (hpos : s.w.fab.position.isSome = true) (h : packetOf i = some (kind, q))
    (ha : kind = 0x01 ∨ kind = 0x03 → addrSpace q.address.toNat ≠ 3) : exec i s = .next { s with w := s.w.receive s.sid kind q } := by
  have hmem : addrSpace q.address.toNat ≠ 3 → ∀ write, s.memoryRequest write q = { s with w := s.w.receive s.sid (if write then 0x03 else 0x01) q } := by
    intro ha write
    rw [State.memoryRequest, if_neg (by simp [hs, ht, Option.isSome_iff_ne_none.mp hpos])]
    exact if_neg ha
  unfold packetOf at h
  split at h
  case h_1 => cases h; exact congrArg Host.Outcome.next (hmem (ha (.inl rfl)) false)
  case h_3 => cases h; exact congrArg Host.Outcome.next (hmem (ha (.inr rfl)) true)
  case h_16 => cases h
  all_goals
    cases h
    exact next_of_serve hs rfl

theorem World.receive_of_trained {w : World} {t : Sid} (ht : w.fab.trained = true) (hpos : w.fab.position.isSome = true) : w.receive t kind q =
    if pktOrder q ∧ AMap.get 0 w.fab.pairReceived q.src.toNat < q.pairCount then
      World.tick { w.heardPacket t kind q with fab := { (w.heardPacket t kind q).fab with orderHeld := (w.heardPacket t kind q).fab.orderHeld ++ [(kind, q)] } }
        .fab 0 0x098
    else ((w.heardPacket t kind q).deliver t kind q).releaseOrder t q.src.toNat ((w.heardPacket t kind q).fab.orderHeld.length + 1) := by
  have hpair : (w.heardPacket t kind q).fab.pairReceived = w.fab.pairReceived := by rw [(w.heardPacket_noted t kind q).1.fab]
  unfold World.receive
  rw [if_neg (by simp [ht, Option.isSome_iff_ne_none.mp hpos]), ← hpair]
  rfl

/-- A packet that neither ORDER nor its step has wait is served. -/
theorem exec_packet_of_comes (hs : s.inService = true) (h : packetOf i = some (kind, q))
    (ha : kind = 0x01 ∨ kind = 0x03 → addrSpace q.address.toNat ≠ 3) (hc : s.w.comes q)
    (hheld : ((s.w.arrived s.sid kind q).process s.sid kind q).fab.orderHeld = []) :
    exec i s = .next { s with w := (s.w.arrived s.sid kind q).process s.sid kind q } := by
  obtain ⟨ht, hpos, -, hnone, hord, hstep⟩ := hc
  rw [exec_packet hs ht hpos h ha, World.receive_of_trained ht hpos, if_neg (fun h => absurd (hord h.1) (Nat.not_le.mpr h.2))]
  have hdeliver : (s.w.heardPacket s.sid kind q).deliver s.sid kind q = (s.w.arrived s.sid kind q).process s.sid kind q := by
    have hjob := s.w.arrived_part_keeps s.sid Part.job (fun _ _ => rfl) (fun _ _ => rfl) kind q 0
    have hn := s.w.arrived_part_keeps s.sid Part.step (fun _ _ => rfl) (fun _ _ => rfl) kind q 0
    refine if_pos ?_
    show pktStepped q = false ∨ (s.w.arrived s.sid kind q).jobRuns 0 = false ∨ q.stepTag.toNat = ((s.w.arrived s.sid kind q).part 0).step % 256
    by_cases hp : pktStepped q = true
    · by_cases hj : s.w.jobRuns 0 = true
      · exact .inr (.inr (by rw [hn]; exact hstep hp hj))
      · refine .inr (.inl ?_)
        rw [World.jobRuns, hjob]
        simpa [World.jobRuns] using hj
    · exact .inl (by simpa using hp)
  rw [hdeliver, World.releaseOrder_of_none _ _ hheld]

/-- What a packet that is no multicast does where it is served. -/
theorem World.countMulticast_of_plain {w : World} (h : pktMulticast q = false) : w.countMulticast q = w := if_pos h

end Execs

end Sys2Proof.Machine

namespace Sys2Proof.Machine

/-! ### Packets that wait, and packets in transit (R29, R398 to R408) -/

section Bits

/-- The CLASS of a packet whose flags were given one. -/
theorem class_of_given (f : BitVec 8) {c : Nat} (hc : c < 4) : bitsAt ((f &&& 0xCF) ||| BitVec.ofNat 8 (16 * c)).toNat 4 2 = c := by
  refine Nat.eq_of_testBit_eq fun i => ?_
  rw [bitsAt, Nat.testBit_mod_two_pow, Nat.testBit_div_two_pow, BitVec.testBit_toNat, BitVec.getLsbD_or, BitVec.getLsbD_and, BitVec.getLsbD_ofNat,
    show 16 * c = c * 2 ^ 4 by omega, Nat.testBit_mul_two_pow]
  match i with
  | 0 => simp
  | 1 => simp
  | i + 2 =>
    have hbit : c.testBit (i + 2) = false := Nat.testBit_lt_two_pow (lt_of_lt_of_le hc (Nat.pow_le_pow_right (by decide) (by omega) : 2 ^ 2 ≤ 2 ^ (i + 2)))
    simp [hbit]

/-- What FAB_FAULT records of a stop by METADATA 0x70. -/
def stepFault (src : Nat) : Word := mkField 1 0 4 ||| mkField 0x70 8 8 ||| mkField src 16 14 ||| mkField 1 63 1

theorem stepFault_valid (src : Nat) : fieldOf (stepFault src) 63 1 = 1 := by
  refine Nat.eq_of_testBit_eq fun i => ?_
  rw [testBit_fieldOf]
  match i with
  | 0 => simp [stepFault, getLsbD_mkField]
  | i + 1 => simp [Nat.testBit_succ]

theorem stepFault_position {src : Nat} (h : src < 2 ^ 14) : fieldOf (stepFault src) 16 14 = src := by
  refine Nat.eq_of_testBit_eq fun i => ?_
  rw [testBit_fieldOf]
  by_cases hi : i < 14
  · have h1 : ¬ 16 + i < 4 := by omega
    have h2 : ¬ 16 + i - 8 < 8 := by omega
    have h3 : ¬ 63 ≤ 16 + i := by omega
    have h4 : 16 + i < 64 := by omega
    rw [stepFault, BitVec.getLsbD_or, BitVec.getLsbD_or, BitVec.getLsbD_or, getLsbD_mkField, getLsbD_mkField, getLsbD_mkField, getLsbD_mkField]
    simp [hi, h1, h2, h3, h4]
  · rw [Nat.testBit_lt_two_pow (lt_of_lt_of_le h (Nat.pow_le_pow_right (by decide) (by omega)))]
    simp [hi]

end Bits

/-- A record of the fabric's own changes no memory. -/
theorem World.fab_memories (w : World) (f : Fab) : w.memoriesKept { w with fab := f } := ⟨rfl, rfl, rfl, rfl⟩

/-- The stop of a packet of the wrong step, with what FAB_FAULT reads then. -/
def World.faultRecorded (w : World) (q : Packet) : World := w.setReg (Block.fab.addr 0 0x030) (stepFault q.src.toNat)

theorem World.stepTagFault_eq (w : World) (t : Sid) (q : Packet) :
    w.stepTagFault t q = (w.faultRecorded q).metadata t 0 (ioSource 0) 0x70 q.src.toNat := rfl

theorem World.faultRecorded_reg (w : World) (q : Packet) (a : Nat) :
    (w.faultRecorded q).reg a = if a = Block.fab.addr 0 0x030 then stepFault q.src.toNat else w.reg a :=
  w.reg_setReg _ a _

/-- Such a stop, from a world whose job runs. -/
theorem World.stepTagFault_facts {w : World} {t : Sid} {q : Packet} (hjob : (w.part 0).job = .running) (hf : w.forwards 3) :
    w.memoriesKept (w.stepTagFault t q) ∧ ((w.stepTagFault t q).part 0).job = .stopped ∧ (w.stepTagFault t q).fab = w.fab
      ∧ w.raised (w.stepTagFault t q) (ioSource 0) 0x102 (0x70 * 2 ^ 24 + q.src.toNat)
      ∧ (w.stepTagFault t q).regField (Block.fab.addr 0 0x030) 63 1 = 1
      ∧ (w.stepTagFault t q).regField (Block.fab.addr 0 0x030) 16 14 = q.src.toNat := by
  have hsrc : q.src.toNat < 2 ^ 14 := q.src.isLt
  have hpay : q.src.toNat % 2 ^ 24 = q.src.toNat := Nat.mod_eq_of_lt (lt_of_lt_of_le hsrc (by decide))
  have hset := w.faultRecorded_reg q
  have hmem : w.memoriesKept (w.faultRecorded q) := ⟨rfl, rfl, rfl, rfl⟩
  have huzo : (w.faultRecorded q).uzo = w.uzo := rfl
  have hjob' : ((w.faultRecorded q).part 0).job = .running := hjob
  have hfab : (w.faultRecorded q).fab = w.fab := rfl
  rw [World.stepTagFault_eq]
  generalize w.faultRecorded q = u at *
  obtain ⟨hm, hstopped, hregs, hfabm⟩ := World.metadata_stops (w := u) (t := t) (p := 0) (src := ioSource 0) (check := 0x70) (low := q.src.toNat) hjob'
  have hfor : u.forwards 3 := hf.of_same (by rw [hset, if_neg (by decide)]) huzo
  have hraised := World.metadata_raised (w := u) (t := t) (p := 0) (src := ioSource 0) (check := 0x70) (low := q.src.toNat) hfor (by decide)
  rw [hpay] at hraised
  have hend : (u.metadata t 0 (ioSource 0) 0x70 q.src.toNat).reg (Block.fab.addr 0 0x030) = stepFault q.src.toNat := by
    rw [World.reg_of_regs hregs, hset, if_pos rfl]
  refine ⟨hmem.trans hm, hstopped, hfabm.trans hfab, hraised.of_same huzo, ?_, ?_⟩
  · rw [World.regField, hend, stepFault_valid]
  · rw [World.regField, hend, stepFault_position hsrc]

section Waits
variable {s : State} {i : Instr} {kind : Nat} {q : Packet} (hs : s.inService = true) (h : packetOf i = some (kind, q)) (ht : s.w.fab.trained = true)
  (hpos : s.w.fab.position.isSome = true) (ha : addrSpace q.address.toNat ≠ 3)
include hs h ht hpos ha

theorem packet_waits_for_order (ho : pktOrder q = true) (hn : AMap.get 0 s.w.fab.pairReceived q.src.toNat < q.pairCount) :
    ∃ t, exec i s = .next t ∧ s.restKept t ∧ s.w.memoriesKept t.w ∧ t.w.out = s.w.out ∧ t.w.fab.orderHeld = s.w.fab.orderHeld ++ [(kind, q)]
      ∧ t.w.cores = s.w.cores ∧ t.w.clusters = s.w.clusters ∧ s.w.counted t.w .fab 0 0x098 := by
  have hx := exec_packet hs ht hpos h (fun _ => ha)
  rw [World.receive_of_trained ht hpos, if_pos ⟨ho, hn⟩] at hx
  have hnoted := (s.w.heardPacket_noted s.sid kind q).1
  have hcount := s.w.heardPacket_counter s.sid kind q (b := .fab) (i := 0) (off := 0x098) (by decide) (by decide)
    (not_notedCounter_fab (by decide) (by decide) (by decide) (by decide) (by decide))
  generalize s.w.heardPacket s.sid kind q = v at *
  refine ⟨_, hx, s.restKept_world _,
    hnoted.memories.trans ((World.fab_memories _ _).trans (World.tick_memories _ _ _ _)), hnoted.out, ?_, hnoted.cores, hnoted.clusters, ?_⟩
  · show v.fab.orderHeld ++ [(kind, q)] = _
    rw [hnoted.fab]
  · rw [World.counted, World.counter_tick_self, ← hcount]
    rfl

variable (ho : pktOrder q = false) (hp : pktStepped q = true) (hnone : s.w.fab.orderHeld = []) (hj : s.w.jobRuns 0 = true)
include ho hp hnone hj

omit hnone in
/-- A stepped packet of another step than this waits or stops the job. -/
theorem exec_packet_of_step (hne : q.stepTag.toNat ≠ (s.w.part 0).step % 256) {v : World}
    (hv : (if q.stepTag.toNat = ((s.w.part 0).step % 256 + 1) % 256 then
        World.tick { s.w.arrived s.sid kind q with fab := { (s.w.arrived s.sid kind q).fab with
          stepHeld := (s.w.arrived s.sid kind q).fab.stepHeld ++ [(kind, q)] } } .fab 0 0x0A8
      else (s.w.arrived s.sid kind q).stepTagFault s.sid q) = v) (hheld : v.fab.orderHeld = []) : exec i s = .next { s with w := v } := by
  have hjob := s.w.arrived_part_keeps s.sid Part.job (fun _ _ => rfl) (fun _ _ => rfl) kind q 0
  have hn := s.w.arrived_part_keeps s.sid Part.step (fun _ _ => rfl) (fun _ _ => rfl) kind q 0
  rw [exec_packet hs ht hpos h (fun _ => ha), World.receive_of_trained ht hpos, if_neg (by simp [ho])]
  have hdeliver : (s.w.heardPacket s.sid kind q).deliver s.sid kind q = v := by
    refine (if_neg ?_).trans ?_
    · show ¬ (pktStepped q = false ∨ (s.w.arrived s.sid kind q).jobRuns 0 = false ∨ q.stepTag.toNat = ((s.w.arrived s.sid kind q).part 0).step % 256)
      rw [World.jobRuns, hjob, hn]
      rw [World.jobRuns] at hj
      simp [hp, hj, hne]
    · rw [← hn] at hv
      exact hv
  rw [hdeliver, World.releaseOrder_of_none _ _ hheld]

theorem packet_waits_for_step (hn : q.stepTag.toNat = ((s.w.part 0).step % 256 + 1) % 256) :
    ∃ t, exec i s = .next t ∧ s.restKept t ∧ s.w.memoriesKept t.w ∧ t.w.out = s.w.out ∧ t.w.fab.stepHeld = s.w.fab.stepHeld ++ [(kind, q)]
      ∧ t.w.cores = s.w.cores ∧ t.w.clusters = s.w.clusters ∧ s.w.counted t.w .fab 0 0x0A8 := by
  obtain ⟨ps, hfab⟩ := s.w.arrived_fab s.sid kind q
  have hx := exec_packet_of_step hs h ht hpos ha ho hp hj (by omega) (if_pos hn)
    (by show (s.w.arrived s.sid kind q).fab.orderHeld = []; rw [hfab]; exact hnone)
  have hmem := s.w.arrived_memories s.sid kind q
  have hout := s.w.arrived_out s.sid kind q
  have hcores := s.w.arrived_cores s.sid kind q
  have hcount := s.w.arrived_counter s.sid kind q (b := .fab) (i := 0) (off := 0x0A8) (by decide) (by decide)
    (not_notedCounter_fab (by decide) (by decide) (by decide) (by decide) (by decide))
  generalize s.w.arrived s.sid kind q = v at *
  refine ⟨_, hx, s.restKept_world _, hmem.trans ((World.fab_memories _ _).trans (World.tick_memories _ _ _ _)), hout, ?_, hcores.1, hcores.2, ?_⟩
  · show v.fab.stepHeld ++ [(kind, q)] = _
    rw [hfab]
  · rw [World.counted, World.counter_tick_self, ← hcount]
    rfl

theorem packet_of_wrong_step (hne : q.stepTag.toNat ≠ (s.w.part 0).step % 256) (hne' : q.stepTag.toNat ≠ ((s.w.part 0).step % 256 + 1) % 256)
    (hf : s.w.forwards 3) : ∃ t, exec i s = .next t ∧ s.restKept t ∧ s.w.memoriesKept t.w ∧ (t.w.part 0).job = .stopped
      ∧ s.w.raised t.w (ioSource 0) 0x102 (0x70 * 2 ^ 24 + q.src.toNat) ∧ t.w.regField (Block.fab.addr 0 0x030) 63 1 = 1
      ∧ t.w.regField (Block.fab.addr 0 0x030) 16 14 = q.src.toNat := by
  obtain ⟨ps, hfab⟩ := s.w.arrived_fab s.sid kind q
  have hjob : ((s.w.arrived s.sid kind q).part 0).job = .running :=
    (s.w.arrived_part_keeps s.sid Part.job (fun _ _ => rfl) (fun _ _ => rfl) kind q 0).trans (by simpa [World.jobRuns] using hj)
  have huzo := s.w.arrived_uzo s.sid kind q
  have hfor : (s.w.arrived s.sid kind q).forwards 3 := hf.of_same (World.reg_of_regs (s.w.arrived_regs s.sid kind q) _) huzo
  obtain ⟨hm, hstopped, hfabm, hraised, hvalid, hposn⟩ := World.stepTagFault_facts (t := s.sid) (q := q) hjob hfor
  have hx := exec_packet_of_step hs h ht hpos ha ho hp hj hne (if_neg hne') (by rw [hfabm, hfab]; exact hnone)
  have hmem := (s.w.arrived_memories s.sid kind q).trans hm
  have hraised' := hraised.of_same huzo
  clear hraised
  generalize (s.w.arrived s.sid kind q).stepTagFault s.sid q = v at *
  exact ⟨_, hx, s.restKept_world _, hmem, hstopped, hraised', hvalid, hposn⟩

end Waits

theorem badPacket_dropped {s : State} {kind : BitVec 8} {q : Packet} (hs : s.inService = true) (ht : s.w.fab.trained = true)
    (hk : kind.toNat = 0 ∨ 0x12 ≤ kind.toNat) (hnone : s.w.fab.orderHeld = []) :
    ∃ t, exec (.badPacket kind q) s = .next t ∧ s.restKept t ∧ s.w.memoriesKept t.w ∧ t.w.out = s.w.out ∧ t.w.cores = s.w.cores
      ∧ t.w.clusters = s.w.clusters ∧ s.w.counted t.w .fab 0 0x0D8 ∧ s.w.counted t.w .fab 0 0x088 := by
  have hfacts := World.countPair_facts ((s.w.tick .fab 0 0x088).tick .fab 0 0x0D8) q
  have hx : exec (.badPacket kind q) s = .next { s with w := ((s.w.tick .fab 0 0x088).tick .fab 0 0x0D8).countPair q } := by
    refine next_of_serve hs ((if_neg ?_).trans (World.releaseOrder_of_none _ _ ?_ _ _))
    · rintro (h | ⟨h0, h1⟩)
      · rw [ht] at h
        cases h
      · omega
    · exact hfacts.2.2.2.2.2.2.2.2.1.trans hnone
  have h1 : ((s.w.tick .fab 0 0x088).tick .fab 0 0x0D8).counter .fab 0 0x0D8 = s.w.counter .fab 0 0x0D8 + 1 := by
    rw [World.counter_tick_self, World.counter_tick_ne _ (by decide) (by decide) (by decide)]
  have h2 : ((s.w.tick .fab 0 0x088).tick .fab 0 0x0D8).counter .fab 0 0x088 = s.w.counter .fab 0 0x088 + 1 := by
    rw [World.counter_tick_ne _ (by decide) (by decide) (by decide), World.counter_tick_self]
  have hmem : s.w.memoriesKept ((s.w.tick .fab 0 0x088).tick .fab 0 0x0D8) := (s.w.tick_memories _ _ _).trans (World.tick_memories _ _ _ _)
  have hnoted := World.notedFrom_trans ((s.w.tick .fab 0 0x088).tick_noted .fab 0 0x0D8) (s.w.tick_noted _ _ _)
  generalize (s.w.tick .fab 0 0x088).tick .fab 0 0x0D8 = v at *
  obtain ⟨hm, hout, hcores, hclusters, -, hcounters, -⟩ := hfacts
  refine ⟨_, hx, s.restKept_world _, hmem.trans hm, hout.trans hnoted.out, hcores.trans hnoted.cores, hclusters.trans hnoted.clusters, ?_, ?_⟩
  · rw [World.counted, World.counter, hcounters]
    exact h1
  · rw [World.counted, World.counter, hcounters]
    exact h2

section Hops
variable {s : State} {port : PortId} {continues : Bool} {kind : BitVec 8} {q : Packet} {phys : Nat} {w : World}

theorem World.minimalHop_class (w : World) (g x key : Nat) : (w.minimalHop g x key).2 < 4 := by
  unfold World.minimalHop
  split
  · exact (by decide : 2 < 4)
  · split
    · exact (by decide : 0 < 4)
    · split
      · exact (by decide : 1 < 4)
      · exact (by decide : 0 < 4)

theorem World.transitHop_class (w : World) (q : Packet) (phys : Nat) :
    bitsAt q.flags.toNat 4 2 ≤ (w.transitHop q phys).2 ∧ (w.transitHop q phys).2 < 4 := by
  have hcls : bitsAt q.flags.toNat 4 2 < 4 := Nat.mod_lt _ (by decide)
  unfold World.transitHop
  dsimp only
  refine ⟨le_max_left _ _, max_lt hcls ?_⟩
  split
  · exact w.minimalHop_class _ _ _
  · exact w.minimalHop_class _ _ _

/-- A packet in transit leaves in the CLASS of its hop. -/
theorem World.passes_leaves (w : World) (k : Nat) (q : Packet) (hop : Nat × Nat) (h : hop.2 < 4) : ∃ q', w.Mailed (w.passes k q hop)
    ∧ (w.passes k q hop).out = w.out ++ [.packet k q'] ∧ q'.dst = q.dst ∧ q'.src = q.src ∧ q'.payload = q.payload ∧ q'.tag = q.tag
    ∧ bitsAt q'.flags.toNat 4 2 = hop.2 :=
  ⟨{ q with flags := (q.flags &&& 0xCF) ||| BitVec.ofNat 8 (16 * hop.2) }, (w.frameOut_mailed _ _ _).trans (World.emit_mailed _ _), rfl, rfl, rfl, rfl, rfl,
    class_of_given q.flags h⟩

theorem World.Mailed.buffers {v : World} (h : w.Mailed v) : v.fab.buffers = w.fab.buffers := by
  obtain ⟨_, _, _, _, _, hf⟩ := h.fab
  rw [hf]

theorem World.Mailed.portTurn {v : World} (h : w.Mailed v) : v.fab.portTurn = w.fab.portTurn := by
  obtain ⟨_, _, _, _, _, hf⟩ := h.fab
  rw [hf]

/-- The place of a packet's CLASS among a port's buffers. -/
def classKey (port : PortId) (q : Packet) : Nat := 4 * port.val + bitsAt q.flags.toNat 4 2

/-- The world with other packets in one CLASS's buffers. -/
def World.setBuffers (w : World) (key : Nat) (xs : List (Nat × Packet)) : World :=
  { w with fab := { w.fab with buffers := AMap.set [] w.fab.buffers key xs } }

theorem World.setBuffers_self (w : World) (key : Nat) (xs : List (Nat × Packet)) : AMap.get [] (w.setBuffers key xs).fab.buffers key = xs :=
  AMap.get_set_self [] w.fab.buffers key xs

variable (hs : s.inService = true) (ht : s.w.fab.trained = true) (hup : s.w.portUp port.val = true) (hphys : s.w.physicalOf q.dst.toNat = some phys)
include hs ht hup hphys

/-- What a packet in transit does at this module. -/
theorem exec_packetHop_of_up {v : World} (h : (if s.w.fab.failed.contains phys then
        (s.w.setBuffers (classKey port q) ((AMap.get [] s.w.fab.buffers (classKey port q)).erase (kind.toNat, q))).tick .fab 0 0x0A0
      else if bitAt q.flags.toNat 3 then (s.w.tick .fabPort port.val 0x088).passes kind.toNat q (s.w.circuitHop q phys)
      else if (AMap.get [] s.w.fab.buffers (classKey port q)).contains (kind.toNat, q) then
        if s.w.inputServed (s.w.transitHop q phys).1 = some port.val then
          World.passes { s.w.setBuffers (classKey port q) ((AMap.get [] s.w.fab.buffers (classKey port q)).erase (kind.toNat, q)) with
            fab := { (s.w.setBuffers (classKey port q) ((AMap.get [] s.w.fab.buffers (classKey port q)).erase (kind.toNat, q))).fab with
              portTurn := AMap.set 0 s.w.fab.portTurn (s.w.transitHop q phys).1 ((port.val + 1) % 48) } } kind.toNat q (s.w.transitHop q phys)
        else s.w
      else if (AMap.get [] s.w.fab.buffers (classKey port q)).length + (if continues then 1 else 2) ≤ classBuffers then
        (s.w.setBuffers (classKey port q) (AMap.get [] s.w.fab.buffers (classKey port q) ++ [(kind.toNat, q)])).tick .fabPort port.val 0x088
      else if continues then s.w else s.w.tick .fab 0 0x0D0) = v) :
    exec (.packetHop ⟨port, continues⟩ kind q) s = .next { s with w := v } := by
  refine next_of_serve hs ?_
  dsimp only
  rw [if_neg (by simp [ht, hup]), hphys]
  exact h

theorem packetHop_failed (hf : s.w.fab.failed.contains phys = true) : ∃ t, exec (.packetHop ⟨port, continues⟩ kind q) s = .next t ∧ s.restKept t
    ∧ s.w.memoriesKept t.w ∧ t.w.out = s.w.out ∧ s.w.counted t.w .fab 0 0x0A0
    ∧ AMap.get [] t.w.fab.buffers (classKey port q) = (AMap.get [] s.w.fab.buffers (classKey port q)).erase (kind.toNat, q) := by
  refine ⟨_, exec_packetHop_of_up hs ht hup hphys (if_pos hf), s.restKept_world _, (World.fab_memories _ _).trans (World.tick_memories _ _ _ _), rfl,
    World.counter_tick_self _ _ _ _, World.setBuffers_self _ _ _⟩

variable (hf : s.w.fab.failed.contains phys = false)
include hf

theorem packetHop_circuit (hc : bitAt q.flags.toNat 3 = true) : ∃ t q', exec (.packetHop ⟨port, continues⟩ kind q) s = .next t ∧ s.restKept t
    ∧ s.w.memoriesKept t.w ∧ t.w.out = s.w.out ++ [.packet kind.toNat q'] ∧ t.w.fab.buffers = s.w.fab.buffers ∧ q'.dst = q.dst ∧ q'.src = q.src
    ∧ q'.payload = q.payload ∧ bitsAt q.flags.toNat 4 2 ≤ bitsAt q'.flags.toNat 4 2 := by
  have hx := exec_packetHop_of_up (continues := continues) (kind := kind) hs ht hup hphys ((if_neg (by rw [hf]; exact Bool.false_ne_true)).trans (if_pos hc))
  have hcls : (s.w.circuitHop q phys).2 = (s.w.transitHop q phys).2 := by
    unfold World.circuitHop
    dsimp only
    cases ((s.w.circuitTo q.src.toNat q.dst.toNat).bind fun c => c.path.find? fun x => decide (x.1 = s.w.fab.physical)) with
    | none => rfl
    | some x => rfl
  obtain ⟨hle, hlt⟩ := s.w.transitHop_class q phys
  rw [← hcls] at hle hlt
  have hmem := s.w.tick_memories .fabPort port.val 0x088
  have hout := s.w.tick_out .fabPort port.val 0x088
  have hfab := s.w.tick_fab .fabPort port.val 0x088
  generalize s.w.tick .fabPort port.val 0x088 = v at *
  obtain ⟨q', hmail, ho, hdst, hsrc, hpay, -, hclass⟩ := v.passes_leaves kind.toNat q _ hlt
  exact ⟨_, q', hx, s.restKept_world _, hmem.trans hmail.memories, ho.trans (by rw [hout]), hmail.buffers.trans (by rw [hfab]), hdst, hsrc, hpay,
    by rw [hclass]; exact hle⟩

variable (hc : bitAt q.flags.toNat 3 = false)
include hc

theorem packetHop_enters (hheld : (AMap.get [] s.w.fab.buffers (classKey port q)).contains (kind.toNat, q) = false) :
    ∃ t, exec (.packetHop ⟨port, continues⟩ kind q) s = .next t ∧ s.restKept t ∧ s.w.memoriesKept t.w ∧ t.w.out = s.w.out
      ∧ AMap.get [] t.w.fab.buffers (classKey port q) =
        (if decide ((AMap.get [] s.w.fab.buffers (classKey port q)).length + (if continues then 1 else 2) ≤ 8) then
          AMap.get [] s.w.fab.buffers (classKey port q) ++ [(kind.toNat, q)] else AMap.get [] s.w.fab.buffers (classKey port q))
      ∧ (decide ((AMap.get [] s.w.fab.buffers (classKey port q)).length + (if continues then 1 else 2) ≤ 8) = false → continues = false →
        s.w.counted t.w .fab 0 0x0D0) := by
  have hx := fun v => exec_packetHop_of_up (continues := continues) (kind := kind) (v := v) hs ht hup hphys
  rw [hf, hc, hheld] at hx
  by_cases hroom : (AMap.get [] s.w.fab.buffers (classKey port q)).length + (if continues then 1 else 2) ≤ 8
  · rw [decide_eq_true hroom]
    exact ⟨_, hx _ (if_pos hroom), s.restKept_world _, (World.fab_memories _ _).trans (World.tick_memories _ _ _ _), rfl, World.setBuffers_self _ _ _,
      fun h => absurd h (by decide)⟩
  · rw [decide_eq_false hroom]
    cases continues with
    | true => exact ⟨_, hx _ (if_neg hroom), s.restKept_world _, s.w.memoriesKept_refl, rfl, rfl, fun _ h => absurd h (by decide)⟩
    | false => exact ⟨_, hx _ (if_neg hroom), s.restKept_world _, World.tick_memories _ _ _ _, rfl, rfl, fun _ _ => World.counter_tick_self _ _ _ _⟩

variable (hheld : (AMap.get [] s.w.fab.buffers (classKey port q)).contains (kind.toNat, q) = true)
include hheld

theorem packetHop_leaves (hserved : s.w.inputServed (s.w.transitHop q phys).1 = some port.val) :
    ∃ t q', exec (.packetHop ⟨port, continues⟩ kind q) s = .next t ∧ s.restKept t ∧ s.w.memoriesKept t.w
      ∧ t.w.out = s.w.out ++ [.packet kind.toNat q']
      ∧ AMap.get [] t.w.fab.buffers (classKey port q) = (AMap.get [] s.w.fab.buffers (classKey port q)).erase (kind.toNat, q)
      ∧ q'.dst = q.dst ∧ q'.src = q.src ∧ q'.payload = q.payload ∧ q'.tag = q.tag ∧ bitsAt q.flags.toNat 4 2 ≤ bitsAt q'.flags.toNat 4 2
      ∧ AMap.get 0 t.w.fab.portTurn (s.w.transitHop q phys).1 = (port.val + 1) % 48 := by
  have hx := fun v => exec_packetHop_of_up (continues := continues) (kind := kind) (v := v) hs ht hup hphys
  rw [hf, hc, hheld] at hx
  have hx' := hx _ (if_pos hserved)
  obtain ⟨hle, hlt⟩ := s.w.transitHop_class q phys
  generalize hv : ({ s.w.setBuffers (classKey port q) ((AMap.get [] s.w.fab.buffers (classKey port q)).erase (kind.toNat, q)) with
    fab := { (s.w.setBuffers (classKey port q) ((AMap.get [] s.w.fab.buffers (classKey port q)).erase (kind.toNat, q))).fab with
      portTurn := AMap.set 0 s.w.fab.portTurn (s.w.transitHop q phys).1 ((port.val + 1) % 48) } } : World) = v at hx'
  have hmem : s.w.memoriesKept v := by rw [← hv]; exact ⟨rfl, rfl, rfl, rfl⟩
  have hout : v.out = s.w.out := by rw [← hv]; rfl
  have hbuf : AMap.get [] v.fab.buffers (classKey port q) = (AMap.get [] s.w.fab.buffers (classKey port q)).erase (kind.toNat, q) := by
    rw [← hv]
    exact s.w.setBuffers_self _ _
  have hturn : AMap.get 0 v.fab.portTurn (s.w.transitHop q phys).1 = (port.val + 1) % 48 := by
    rw [← hv]
    exact AMap.get_set_self 0 s.w.fab.portTurn _ _
  obtain ⟨q', hmail, ho, hdst, hsrc, hpay, htag, hclass⟩ := v.passes_leaves kind.toNat q _ hlt
  exact ⟨_, q', hx', s.restKept_world _, hmem.trans hmail.memories, ho.trans (by rw [hout]), by rw [hmail.buffers, hbuf], hdst, hsrc, hpay, htag,
    by rw [hclass]; exact hle, by rw [hmail.portTurn, hturn]⟩

theorem packetHop_stays (hserved : s.w.inputServed (s.w.transitHop q phys).1 ≠ some port.val) :
    exec (.packetHop ⟨port, continues⟩ kind q) s = .next s := by
  have hx := fun v => exec_packetHop_of_up (continues := continues) (kind := kind) (v := v) hs ht hup hphys
  rw [hf, hc, hheld] at hx
  exact hx _ (if_neg hserved)

end Hops

/-- Settles O40: what holds a packet back is its place in its pair, its step, or the room in its CLASS; what passes keeps or raises its CLASS. -/
theorem packetsWaitOrTravelInClass : Obligations.PacketsWaitOrTravelInClass :=
  ⟨fun _ _ _ _ hs h ht hpos ha => ⟨packet_waits_for_order hs h ht hpos ha, fun ho hp hnone hj =>
      ⟨packet_waits_for_step hs h ht hpos ha ho hp hnone hj, packet_of_wrong_step hs h ht hpos ha ho hp hnone hj⟩⟩,
    fun _ _ _ hs ht hk hnone => badPacket_dropped hs ht hk hnone,
    fun _ _ _ _ _ _ hs ht hup hphys => ⟨packetHop_failed hs ht hup hphys, packetHop_enters hs ht hup hphys,
      fun hf hc hheld => ⟨packetHop_leaves hs ht hup hphys hf hc hheld, packetHop_stays hs ht hup hphys hf hc hheld⟩,
      packetHop_circuit hs ht hup hphys⟩⟩

end Sys2Proof.Machine

namespace Sys2Proof.Machine

/-! ### Gradients in delivery to the Kiln (R317, R319, R326) -/

section Facts
variable (w : World)

/-- What a partition's HBM reads as turns on the memory, and on the partition's channels, alone. -/
theorem World.hbmRead_of_good {w v : World} {p : Nat} (hg : (v.part p).good = (w.part p).good) (hm : v.hbm = w.hbm) (a n : Nat) :
    v.hbmRead p a n = w.hbmRead p a n := by
  simp only [World.hbmRead, World.hbmByte, hg, hm]

theorem World.hbmCapacity_of_good {w v : World} {p : Nat} (hg : (v.part p).good = (w.part p).good) : v.hbmCapacity p = w.hbmCapacity p := by
  rw [World.hbmCapacity, hg, World.hbmCapacity]

theorem World.hbmFailed_of_good {w v : World} {p : Nat} (hg : (v.part p).good = (w.part p).good) (hc : v.channels = w.channels) (a n : Nat) :
    v.hbmFailed p a n = w.hbmFailed p a n := by
  rw [World.hbmFailed, hg, hc, World.hbmFailed]

theorem World.grad_key (p tensor : Nat) : (w.grad p tensor).part = p ∧ (w.grad p tensor).tensor = tensor := by
  unfold World.grad
  cases hf : w.kiln.grads.find? fun g => decide (g.part = p) && decide (g.tensor = tensor) with
  | none => exact ⟨rfl, rfl⟩
  | some g => simpa using List.find?_some hf

/-- Of an entry's gradients the one that was set is the one that is found. -/
theorem World.grad_setGrad (g : Grad) : (w.setGrad g).grad g.part g.tensor = g := by
  have hold : (w.kiln.grads.filter fun x => !(decide (x.part = g.part) && decide (x.tensor = g.tensor))).find?
      (fun x => decide (x.part = g.part) && decide (x.tensor = g.tensor)) = none := by
    rw [List.find?_eq_none]
    intro x hx
    simpa [Bool.and_eq_false_imp, Decidable.imp_iff_not_or] using (List.mem_filter.1 hx).2
  have hlast : [g].find? (fun x => decide (x.part = g.part) && decide (x.tensor = g.tensor)) = some g := by simp
  show ((w.kiln.grads.filter _ ++ [g]).find? _).getD _ = g
  rw [List.find?_append, hold, Option.none_or, hlast]
  rfl

theorem World.grad_of_grads {w v : World} (h : v.kiln.grads = w.kiln.grads) (p tensor : Nat) : v.grad p tensor = w.grad p tensor := by
  rw [World.grad, h, World.grad]

/-- A gradient in delivery that changes, and keeps its part and its tensor, is found changed. -/
theorem World.grad_setGrad_of {p tensor : Nat} {g : Grad} (hp : g.part = (w.grad p tensor).part) (ht : g.tensor = (w.grad p tensor).tensor) :
    (w.setGrad g).grad p tensor = g := by
  have h := w.grad_setGrad g
  rwa [hp, ht, (w.grad_key p tensor).1, (w.grad_key p tensor).2] at h

/-- The READ of one grain of gradient. -/
def World.askGrain (p : Nat) (w : World) (a : Nat) : World :=
  (w.updKiln fun k => { k with reads := AMap.upd 0 k.reads p (· + 1) }).fromKiln 1 p [a] []

/-- The READs of a gradient range: they are counted and leave in order. -/
theorem World.askGrains_eq (p : Nat) : ∀ (xs : List Nat) (w : World), ∃ r,
    xs.foldl (World.askGrain p) w = { w with kiln := { w.kiln with reads := r }, out := w.out ++ xs.map fun a => .kiln false 1 p [a] [] }
  | [], w => ⟨w.kiln.reads, by rw [List.map_nil, List.append_nil]; rfl⟩
  | x :: xs, w => by
    obtain ⟨r, h⟩ := World.askGrains_eq p xs (World.askGrain p w x)
    refine ⟨r, ?_⟩
    rw [List.foldl_cons, h, List.map_cons, ← List.singleton_append, ← List.append_assoc]
    rfl

theorem World.progressed_keeps (t : Sid) (p : Nat) {γ : Type} (g : Part → γ) (hg : ∀ x n, g { x with progress := n } = g x) :
    g ((w.progressed t p).part p) = g (w.part p) := by
  rw [World.progressed, World.part_updPart_self]
  exact hg _ _

theorem World.frameIn_memories (f : KilnFrame) : w.memoriesKept (w.frameIn f) := ⟨rfl, rfl, rfl, rfl⟩

theorem World.setGrad_memories (g : Grad) : w.memoriesKept (w.setGrad g) := ⟨rfl, rfl, rfl, rfl⟩

/-- The world with the Kiln's fault recorded. -/
def World.klnRecorded (w : World) (p check tensor : Nat) : World :=
  (w.setReg (Block.kln.addr 0 0x008) (mkField 1 0 4 ||| mkField p 4 2 ||| mkField check 8 8 ||| mkField tensor 16 24 ||| mkField 1 63 1)).updKiln
    fun k => { k with faultedParts := if k.faultedParts.contains p then k.faultedParts else k.faultedParts ++ [p] }

theorem World.klnFault_eq (t : Sid) (p check tensor : Nat) :
    w.klnFault t p check tensor = (w.klnRecorded p check tensor).metadata t p klnSource check tensor := rfl

theorem World.metadata_saw {w : World} {t : Sid} {p src check low : Nat} (hsrc : src < 65536) :
    w.saw (w.metadata t p src check low) 3 src 0x102 (check * 2 ^ 24 + low % 2 ^ 24) := by
  have hr := World.raise_saw (w := w) (t := t) (src := src) (code := 0x102) (payload := check * 2 ^ 24 + low % 2 ^ 24) hsrc (by decide)
  unfold World.metadata
  generalize w.raise t src 0x102 (check * 2 ^ 24 + low % 2 ^ 24) = v at *
  rw [World.saw, (v.stopJob_halted t p 1 src).uzo]
  exact hr

end Facts

/-- A check that fails in the Kiln stops the partition, and its event tells which. -/
theorem World.klnFault_stops {w : World} {t : Sid} {p check tensor : Nat} (hjob : (w.part p).job = .running) :
    w.memoriesKept (w.klnFault t p check tensor) ∧ ((w.klnFault t p check tensor).part p).job = .stopped
      ∧ w.saw (w.klnFault t p check tensor) 3 klnSource 0x102 (check * 2 ^ 24 + tensor % 2 ^ 24)
      ∧ (w.forwards 3 → w.raised (w.klnFault t p check tensor) klnSource 0x102 (check * 2 ^ 24 + tensor % 2 ^ 24)) := by
  have hmem : w.memoriesKept (w.klnRecorded p check tensor) := ⟨rfl, rfl, rfl, rfl⟩
  have huzo : (w.klnRecorded p check tensor).uzo = w.uzo := rfl
  have hjob' : ((w.klnRecorded p check tensor).part p).job = .running := hjob
  have hreg : (w.klnRecorded p check tensor).reg (Block.uzo.addr 0 0x008) = w.reg (Block.uzo.addr 0 0x008) :=
    (World.reg_setReg _ _ _ _).trans (if_neg (by decide))
  rw [World.klnFault_eq]
  generalize w.klnRecorded p check tensor = v at *
  obtain ⟨hm, hstop, -, -⟩ := World.metadata_stops (t := t) (src := klnSource) (check := check) (low := tensor) hjob'
  exact ⟨hmem.trans hm, hstop, (World.metadata_saw (by decide)).of_same hreg huzo,
    fun hf => (World.metadata_raised (hf.of_same hreg huzo) (by decide)).of_same huzo⟩

theorem World.jobRuns_of_kilnLive {w : World} {p : Nat} (h : w.kilnLive p = true) : (w.part p).job = .running := by
  simp only [World.kilnLive, Bool.and_eq_true] at h
  exact of_decide_eq_true h.1.1

/-- A frame of the Kiln whose check fails. -/
theorem klnFault_next {s : State} {f : KilnFrame} {p check tensor : Nat} {i : Instr} (hjob : (s.w.part p).job = .running)
    (hx : exec i s = .next { s with w := (s.w.frameIn f).klnFault s.sid p check tensor }) :
    ∃ t, exec i s = .next t ∧ s.restKept t ∧ s.w.memoriesKept t.w ∧ (t.w.part p).job = .stopped
      ∧ s.w.saw t.w 3 klnSource 0x102 (check * 2 ^ 24 + tensor % 2 ^ 24)
      ∧ (s.w.forwards 3 → s.w.raised t.w klnSource 0x102 (check * 2 ^ 24 + tensor % 2 ^ 24)) := by
  have huzo : (s.w.frameIn f).uzo = s.w.uzo := rfl
  have hreg : (s.w.frameIn f).reg (Block.uzo.addr 0 0x008) = s.w.reg (Block.uzo.addr 0 0x008) := rfl
  have hmem := s.w.frameIn_memories f
  have hjob' : ((s.w.frameIn f).part p).job = .running := hjob
  generalize s.w.frameIn f = v at *
  obtain ⟨hm, hstop, hsaw, hraised⟩ := World.klnFault_stops (t := s.sid) (check := check) (tensor := tensor) hjob'
  have hsaw' := hsaw.of_same hreg huzo
  have hraised' := fun hf : s.w.forwards 3 => (hraised (hf.of_same hreg huzo)).of_same huzo
  have hm' := hmem.trans hm
  clear hsaw hraised hm
  generalize v.klnFault s.sid p check tensor = u at *
  exact ⟨_, hx, s.restKept_world _, hm', hstop, hsaw', hraised'⟩

section Frames
variable {s : State} {f : KilnFrame} {tensor step g i : Nat} {r : KilnRule} {e : KilnEntry}

/-- GRAD_READY after the close of its step. -/
theorem exec_gradReady_late (hs : s.inService = true) (hl : s.w.kilnLive f.part.val = true) (hc : s.w.kilnClosed f.part.val step = true) (offset first count : Nat) :
    exec (.gradReady f tensor step offset first count) s = .next { s with w := (s.w.frameIn f).klnFault s.sid f.part.val 0x53 tensor } := by
  refine next_of_serve hs ?_
  exact (if_neg (by rw [show (s.w.frameIn f).kilnLive f.part.val = true from hl]; exact Bool.noConfusion)).trans (if_pos hc)

variable (hs : s.inService = true) (hl : s.w.kilnLive f.part.val = true) (hc : s.w.kilnClosed f.part.val step = false)
  (he : s.w.kilnEntryOf f.part.val tensor = some (g, i, r, e))
include hs hl hc he

theorem exec_gradReady_of_open (offset first count : Nat) {v : World}
    (h : (if e.rowTable ∨ count = 0 ∨ first < (s.w.homedRows f.part.val (s.w.kilnTensor f.part.val e)).1 * e.cols
          ∨ (s.w.homedRows f.part.val (s.w.kilnTensor f.part.val e)).2 * e.cols < first + count then (s.w.frameIn f).klnFault s.sid f.part.val 0x52 tensor
        else if (s.w.grad f.part.val tensor).ranges.any fun y => rangesMeet first count y.2.1 y.2.2 then (s.w.frameIn f).klnFault s.sid f.part.val 0x51 tensor
        else
          let y := { s.w.grad f.part.val tensor with ranges := (s.w.grad f.part.val tensor).ranges ++ [(offset, first, count)] }
          let w := (grainsOf offset (4 * count)).foldl (World.askGrain f.part.val) ((s.w.frameIn f).setGrad y)
          if (y.ranges.map (·.2.2)).sum = ((s.w.homedRows f.part.val (s.w.kilnTensor f.part.val e)).2
              - (s.w.homedRows f.part.val (s.w.kilnTensor f.part.val e)).1) * e.cols then
            w.updKiln fun k => { k with queue := k.queue ++ [(f.part.val, g, i)] }
          else w) = v) :
    exec (.gradReady f tensor step offset first count) s = .next { s with w := v } := by
  refine next_of_serve hs ?_
  dsimp only
  rw [show (s.w.frameIn f).kilnLive f.part.val = true from hl, show (s.w.frameIn f).kilnClosed f.part.val step = false from hc,
    show (s.w.frameIn f).kilnEntryOf f.part.val tensor = some (g, i, r, e) from he]
  exact h

theorem exec_rowGrad_of_open (row : Nat) (values : List (BitVec 32)) {v : World}
    (h : (if e.rowTable = false ∨ values.length ≠ e.cols ∨ e.rows ≤ row then (s.w.frameIn f).klnFault s.sid f.part.val 0x52 tensor
        else if (s.w.grad f.part.val tensor).rows.any fun y => decide (y.1 = row) then (s.w.frameIn f).klnFault s.sid f.part.val 0x51 tensor
        else if (s.w.grad f.part.val tensor).ended then (s.w.frameIn f).klnFault s.sid f.part.val 0x52 tensor
        else (s.w.frameIn f).setGrad { s.w.grad f.part.val tensor with
          rows := ((s.w.grad f.part.val tensor).rows.filter fun y => decide (y.1 < row)) ++ (row, values) ::
            (s.w.grad f.part.val tensor).rows.filter fun y => decide (row < y.1) }) = v) :
    exec (.rowGrad f tensor step row values) s = .next { s with w := v } := by
  refine next_of_serve hs ?_
  dsimp only
  rw [show (s.w.frameIn f).kilnLive f.part.val = true from hl, show (s.w.frameIn f).kilnClosed f.part.val step = false from hc,
    show (s.w.frameIn f).kilnEntryOf f.part.val tensor = some (g, i, r, e) from he]
  exact h

theorem exec_rowsEnd_of_open (touched : Nat) {v : World}
    (h : (if e.rowTable = false then (s.w.frameIn f).klnFault s.sid f.part.val 0x52 tensor
        else if (s.w.grad f.part.val tensor).ended then s.w.frameIn f
        else
          let w := (s.w.frameIn f).setGrad { s.w.grad f.part.val tensor with ended := true }
          if (s.w.grad f.part.val tensor).rows.isEmpty then w else w.updKiln fun k => { k with queue := k.queue ++ [(f.part.val, g, i)] }) = v) :
    exec (.rowsEnd f tensor step touched) s = .next { s with w := v } := by
  refine next_of_serve hs ?_
  dsimp only
  rw [show (s.w.frameIn f).kilnLive f.part.val = true from hl, show (s.w.frameIn f).kilnClosed f.part.val step = false from hc,
    show (s.w.frameIn f).kilnEntryOf f.part.val tensor = some (g, i, r, e) from he]
  exact h

theorem gradReady_asks (offset first count : Nat) (hrow : e.rowTable = false) (h0 : 0 < count)
    (h1 : (s.w.homedRows f.part.val (s.w.kilnTensor f.part.val e)).1 * e.cols ≤ first)
    (h2 : first + count ≤ (s.w.homedRows f.part.val (s.w.kilnTensor f.part.val e)).2 * e.cols)
    (hmeet : ∀ y ∈ (s.w.grad f.part.val tensor).ranges, rangesMeet first count y.2.1 y.2.2 = false) :
    ∃ t, exec (.gradReady f tensor step offset first count) s = .next t ∧ s.restKept t ∧ s.w.memoriesKept t.w
      ∧ (t.w.grad f.part.val tensor).ranges = (s.w.grad f.part.val tensor).ranges ++ [(offset, first, count)]
      ∧ t.w.out = s.w.out ++ (grainsOf offset (4 * count)).map (fun a => .kiln false 1 f.part.val [a] [])
      ∧ t.w.kiln.queue = s.w.kiln.queue ++ (if ((s.w.grad f.part.val tensor).ranges.map (·.2.2)).sum + count =
          ((s.w.homedRows f.part.val (s.w.kilnTensor f.part.val e)).2 - (s.w.homedRows f.part.val (s.w.kilnTensor f.part.val e)).1) * e.cols
        then [(f.part.val, g, i)] else []) := by
  have hx := exec_gradReady_of_open hs hl hc he offset first count ((if_neg (by rw [hrow]; simp; omega)).trans
    (if_neg (by simpa using hmeet)))
  dsimp only at hx
  have hmem := (s.w.frameIn_memories f).trans (World.setGrad_memories _
    { s.w.grad f.part.val tensor with ranges := (s.w.grad f.part.val tensor).ranges ++ [(offset, first, count)] })
  have hgrad := (s.w.frameIn f).grad_setGrad_of (p := f.part.val) (tensor := tensor)
    (g := { s.w.grad f.part.val tensor with ranges := (s.w.grad f.part.val tensor).ranges ++ [(offset, first, count)] }) rfl rfl
  have hout : ((s.w.frameIn f).setGrad { s.w.grad f.part.val tensor with
    ranges := (s.w.grad f.part.val tensor).ranges ++ [(offset, first, count)] }).out = s.w.out := rfl
  have hqueue : ((s.w.frameIn f).setGrad { s.w.grad f.part.val tensor with
    ranges := (s.w.grad f.part.val tensor).ranges ++ [(offset, first, count)] }).kiln.queue = s.w.kiln.queue := rfl
  generalize (s.w.frameIn f).setGrad { s.w.grad f.part.val tensor with
    ranges := (s.w.grad f.part.val tensor).ranges ++ [(offset, first, count)] } = v at *
  obtain ⟨rs, hask⟩ := World.askGrains_eq f.part.val (grainsOf offset (4 * count)) v
  rw [hask, List.map_append, List.sum_append, List.map_singleton, List.sum_singleton] at hx
  have hranges : (v.grad f.part.val tensor).ranges = (s.w.grad f.part.val tensor).ranges ++ [(offset, first, count)] := by rw [hgrad]
  split at hx
  next hfull => exact ⟨_, hx, s.restKept_world _, hmem, hranges, by rw [← hout]; rfl, by rw [← hqueue]; exact congrArg (v.kiln.queue ++ ·) (if_pos hfull).symm⟩
  next hpart => exact ⟨_, hx, s.restKept_world _, hmem, hranges, by rw [← hout], by rw [if_neg hpart, List.append_nil]; exact hqueue⟩

theorem rowGrad_keeps (row : Nat) (values : List (BitVec 32)) (hrow : e.rowTable = true) (hlen : values.length = e.cols) (hr : row < e.rows)
    (hend : (s.w.grad f.part.val tensor).ended = false) (hnew : ∀ y ∈ (s.w.grad f.part.val tensor).rows, y.1 ≠ row) :
    ∃ t, exec (.rowGrad f tensor step row values) s = .next t ∧ s.restKept t ∧ s.w.memoriesKept t.w
      ∧ (row, values) ∈ (t.w.grad f.part.val tensor).rows
      ∧ (∀ y ∈ (s.w.grad f.part.val tensor).rows, y ∈ (t.w.grad f.part.val tensor).rows) ∧ t.w.kiln.queue = s.w.kiln.queue := by
  have hx := exec_rowGrad_of_open hs hl hc he row values ((if_neg (by rw [hrow]; simp [hlen]; omega)).trans
    ((if_neg (by simpa using fun x h => hnew (row, x) h rfl)).trans (if_neg (by rw [hend]; exact Bool.noConfusion))))
  have hgrad := (s.w.frameIn f).grad_setGrad_of (p := f.part.val) (tensor := tensor)
    (g := { s.w.grad f.part.val tensor with
          rows := ((s.w.grad f.part.val tensor).rows.filter fun y => decide (y.1 < row)) ++ (row, values) ::
            (s.w.grad f.part.val tensor).rows.filter fun y => decide (row < y.1) }) rfl rfl
  refine ⟨_, hx, s.restKept_world _, (s.w.frameIn_memories f).trans (World.setGrad_memories _ _), ?_, fun y hy => ?_, rfl⟩
  · rw [hgrad]
    exact List.mem_append_right _ List.mem_cons_self
  · rw [hgrad]
    obtain h | h := Nat.lt_or_gt_of_ne (hnew y hy)
    · exact List.mem_append_left _ (List.mem_filter.2 ⟨hy, decide_eq_true h⟩)
    · exact List.mem_append_right _ (List.mem_cons_of_mem _ (List.mem_filter.2 ⟨hy, decide_eq_true h⟩))

theorem rowGrad_twice (row : Nat) (values : List (BitVec 32)) (hrow : e.rowTable = true) (hlen : values.length = e.cols) (hr : row < e.rows)
    (hold : ∃ y ∈ (s.w.grad f.part.val tensor).rows, y.1 = row) :
    ∃ t, exec (.rowGrad f tensor step row values) s = .next t ∧ s.restKept t ∧ s.w.memoriesKept t.w ∧ (t.w.part f.part.val).job = .stopped
      ∧ s.w.saw t.w 3 klnSource 0x102 (0x51 * 2 ^ 24 + tensor % 2 ^ 24) := by
  have hx := exec_rowGrad_of_open hs hl hc he row values ((if_neg (by rw [hrow]; simp [hlen]; omega)).trans (if_pos (by simpa using hold)))
  obtain ⟨t, ht, hrest, hm, hstop, hsaw, -⟩ := klnFault_next (World.jobRuns_of_kilnLive hl) hx
  exact ⟨t, ht, hrest, hm, hstop, hsaw⟩

theorem rowsEnd_completes (touched : Nat) (hrow : e.rowTable = true) (hend : (s.w.grad f.part.val tensor).ended = false) :
    ∃ t, exec (.rowsEnd f tensor step touched) s = .next t ∧ s.restKept t ∧ s.w.memoriesKept t.w ∧ (t.w.grad f.part.val tensor).ended = true
      ∧ t.w.kiln.queue = s.w.kiln.queue ++ (if (s.w.grad f.part.val tensor).rows.isEmpty then [] else [(f.part.val, g, i)]) := by
  have hx := exec_rowsEnd_of_open hs hl hc he touched ((if_neg (by rw [hrow]; exact Bool.noConfusion)).trans
    (if_neg (by rw [hend]; exact Bool.noConfusion)))
  dsimp only at hx
  have hmem := (s.w.frameIn_memories f).trans (World.setGrad_memories _ { s.w.grad f.part.val tensor with ended := true })
  have hgrad := (s.w.frameIn f).grad_setGrad_of (p := f.part.val) (tensor := tensor) (g := { s.w.grad f.part.val tensor with ended := true }) rfl rfl
  have hqueue : ((s.w.frameIn f).setGrad { s.w.grad f.part.val tensor with ended := true }).kiln.queue = s.w.kiln.queue := rfl
  generalize (s.w.frameIn f).setGrad { s.w.grad f.part.val tensor with ended := true } = v at *
  have hended : (v.grad f.part.val tensor).ended = true := by rw [hgrad]
  split at hx
  next hnone => exact ⟨_, hx, s.restKept_world _, hmem, hended, by rw [if_pos hnone, List.append_nil]; exact hqueue⟩
  next hsome => exact ⟨_, hx, s.restKept_world _, hmem, hended, by rw [← hqueue]; exact congrArg (v.kiln.queue ++ ·) (if_neg hsome).symm⟩

end Frames

section Reads
variable {s : State} {f : KilnFrame} (hs : s.inService = true)
include hs

theorem kilnRead_answers {offset : Nat} (hj : s.w.jobRuns f.part.val = true) (hcap : offset + 256 ≤ s.w.hbmCapacity f.part.val)
    (hgoodch : s.w.hbmFailed f.part.val offset 256 = false) :
    ∃ t, exec (.kilnRead f offset) s = .next t ∧ s.restKept t ∧ s.w.memoriesKept t.w
      ∧ t.w.out = s.w.out ++ [.kiln true 6 f.part.val [0] [], .kiln true 2 f.part.val [offset] (s.w.hbmRead f.part.val offset 256)] := by
  have hgood := (s.w.frameIn f).progressed_keeps s.sid f.part.val Part.good fun _ _ => rfl
  have hjob := (s.w.frameIn f).progressed_keeps s.sid f.part.val Part.job fun _ _ => rfl
  have hmem : s.w.memoriesKept ((s.w.frameIn f).progressed s.sid f.part.val) := ⟨rfl, rfl, rfl, rfl⟩
  have hout : ((s.w.frameIn f).progressed s.sid f.part.val).out = s.w.out := rfl
  have hchannels : ((s.w.frameIn f).progressed s.sid f.part.val).channels = s.w.channels := rfl
  have hx : ∀ v, (if ((s.w.frameIn f).progressed s.sid f.part.val).jobRuns f.part.val = false
      ∨ ((s.w.frameIn f).progressed s.sid f.part.val).hbmCapacity f.part.val < offset + 256 then (s.w.frameIn f).progressed s.sid f.part.val
    else if ((s.w.frameIn f).progressed s.sid f.part.val).hbmFailed f.part.val offset 256 then
      ((s.w.frameIn f).progressed s.sid f.part.val).agentStop s.sid f.part.val klnSource
    else ((((s.w.frameIn f).progressed s.sid f.part.val).hbmFetch klnSource f.part.val offset 256).2.toKiln 6 f.part.val [0] []).toKiln 2
      f.part.val [offset] (((s.w.frameIn f).progressed s.sid f.part.val).hbmFetch klnSource f.part.val offset 256).1) = v →
    exec (.kilnRead f offset) s = .next { s with w := v } := fun v h => next_of_serve hs h
  generalize (s.w.frameIn f).progressed s.sid f.part.val = v at *
  obtain ⟨c, hfetch⟩ := v.hbmFetch_eq klnSource f.part.val offset 256
  have hstored : v.hbmFailed f.part.val offset 256 = false := (World.hbmFailed_of_good hgood hchannels _ _).trans hgoodch
  have hroom : v.hbmCapacity f.part.val = s.w.hbmCapacity f.part.val := World.hbmCapacity_of_good hgood
  have hruns : v.jobRuns f.part.val = true := (congrArg (fun j => decide (j = JobState.running)) hjob).trans hj
  have hread : v.hbmRead f.part.val offset 256 = s.w.hbmRead f.part.val offset 256 := World.hbmRead_of_good hgood hmem.1 _ _
  have hx' := hx _ ((if_neg (by rw [hruns, hroom]; simp; omega)).trans (if_neg (by rw [hstored]; exact Bool.noConfusion)))
  rw [hfetch, hread] at hx'
  exact ⟨_, hx', s.restKept_world _, hmem.trans ⟨rfl, rfl, rfl, rfl⟩, (List.append_assoc _ _ _).trans (by rw [hout]; rfl)⟩

theorem kilnReadData_keeps (offset : Nat) (data : List Byte) :
    ∃ t, exec (.kilnReadData f offset data) s = .next t ∧ s.restKept t ∧ s.w.memoriesKept t.w
      ∧ t.w.counter .kln 0 0x0C8 = s.w.counter .kln 0 0x0C8 + BitVec.ofNat 64 f.crcFailures.val
      ∧ s.w.kiln.buffer.wrote t.w.kiln.buffer (f.part.val * 2 ^ 48 + offset) (slice data 0 256) ∧ f.part.val * 2 ^ 48 + offset ∈ t.w.kiln.grains := by
  refine ⟨_, next_of_serve hs rfl, s.restKept_world _, s.w.frameIn_memories f, s.w.counter_count_self _ _, ⟨fun i hi => ?_, fun k hk => ?_⟩, ?_⟩
  · exact Memory.byte_write _ _ _ _ hi
  · exact Memory.byte_write_outside _ _ _ _ hk
  · show _ ∈ if s.w.kiln.grains.contains (f.part.val * 2 ^ 48 + offset) then s.w.kiln.grains else s.w.kiln.grains ++ [f.part.val * 2 ^ 48 + offset]
    split
    next h => exact List.contains_iff_mem.1 h
    next => exact List.mem_append_right _ (List.mem_singleton_self _)

theorem gradReady_late {tensor step : Nat} (offset first count : Nat) (hl : s.w.kilnLive f.part.val = true)
    (hc : s.w.kilnClosed f.part.val step = true) (hf : s.w.forwards 3) :
    ∃ t, exec (.gradReady f tensor step offset first count) s = .next t ∧ s.restKept t ∧ s.w.memoriesKept t.w ∧ (t.w.part f.part.val).job = .stopped
      ∧ s.w.raised t.w klnSource 0x102 (0x53 * 2 ^ 24 + tensor % 2 ^ 24) := by
  have hx := exec_gradReady_late (tensor := tensor) hs hl hc offset first count
  obtain ⟨t, ht, hrest, hm, hstop, -, hraised⟩ := klnFault_next (World.jobRuns_of_kilnLive hl) hx
  exact ⟨t, ht, hrest, hm, hstop, hraised hf⟩

end Reads

/-- Settles O34: a gradient in delivery is found as it was set, and a check that fails stops the partition whose job ran. -/
theorem kilnTakesGradients : Obligations.KilnTakesGradients :=
  fun _ _ hs => ⟨fun _ _ _ _ _ _ hl hc he => ⟨gradReady_asks hs hl hc he, rowGrad_keeps hs hl hc he, rowGrad_twice hs hl hc he,
      rowsEnd_completes hs hl hc he⟩,
    fun _ => kilnRead_answers hs, kilnReadData_keeps hs, fun _ _ offset first count => gradReady_late hs offset first count⟩

end Sys2Proof.Machine

namespace Sys2Proof.Machine

/-! ### What the sending of a cask's pieces leaves (R471, R475) -/

/-- `c` is `d` after pieces were sent: more of them are unacknowledged. -/
def Cask.piecedFrom (c d : Cask) : Prop := ∃ u j b : Nat, c = { d with unacked := u, journalUnacked := j, baseUnacked := b }

theorem Cask.piecedFrom_refl (c : Cask) : c.piecedFrom c := ⟨_, _, _, rfl⟩

theorem Cask.piecedFrom.trans {c d e : Cask} (h : c.piecedFrom d) (g : d.piecedFrom e) : c.piecedFrom e := by
  obtain ⟨u, j, b, rfl⟩ := h
  obtain ⟨_, _, _, rfl⟩ := g
  exact ⟨u, j, b, rfl⟩

/-- `v` is `w` after pieces of a cask were sent. -/
structure World.Pieced (w v : World) : Prop where
  memories : w.memoriesKept v
  config : v.config = w.config
  cask : v.cask.piecedFrom w.cask
  fab : v.fab.mailedFrom w.fab
  out : ∃ o, v.out = w.out ++ o

section Links
variable {w v u : World} {t : Sid}

theorem World.Pieced.refl : w.Pieced w := ⟨w.memoriesKept_refl, rfl, w.cask.piecedFrom_refl, w.fab.mailedFrom_refl, World.nothingSent rfl⟩

theorem World.Pieced.trans (h : w.Pieced v) (g : v.Pieced u) : w.Pieced u := by
  obtain ⟨o, ho⟩ := h.out
  obtain ⟨o', ho'⟩ := g.out
  exact ⟨h.memories.trans g.memories, g.config.trans h.config, g.cask.trans h.cask, g.fab.trans h.fab,
    ⟨o ++ o', by rw [ho', ho, List.append_assoc]⟩⟩

theorem World.Pieced.foldl {α : Type} {f : World → α → World} (h : ∀ (v : World) (x : α), v.Pieced (f v x)) (xs : List α) (w : World) :
    w.Pieced (xs.foldl f w) :=
  List.foldlRecOn xs f (motive := w.Pieced) .refl fun v hv x _ => hv.trans (h v x)

theorem World.Mailed.pieced (h : w.Mailed v) : w.Pieced v :=
  ⟨h.memories, h.sent.config, by rw [h.sent.cask]; exact w.cask.piecedFrom_refl, h.fab, h.out⟩

theorem World.cask_pieced {c : Cask} (h : c.piecedFrom w.cask) : w.Pieced { w with cask := c } :=
  ⟨⟨rfl, rfl, rfl, rfl⟩, rfl, h, w.fab.mailedFrom_refl, World.nothingSent rfl⟩

theorem World.Pieced.mem_out (h : w.Pieced v) {o : Output} (ho : o ∈ w.out) : o ∈ v.out := by
  obtain ⟨o', he⟩ := h.out
  rw [he]
  exact List.mem_append_left _ ho

theorem World.Pieced.ownPosition (h : w.Pieced v) : v.ownPosition = w.ownPosition := by
  obtain ⟨_, _, _, _, _, hf⟩ := h.fab
  rw [World.ownPosition, hf, World.ownPosition]

theorem World.Pieced.peers (h : w.Pieced v) : v.peers = w.peers := by rw [World.peers, h.ownPosition, h.config, World.peers]

theorem World.Pieced.reaches (h : w.Pieced v) {pos : Nat} (hr : w.reaches pos) : v.reaches pos := by
  obtain ⟨phys, hp, hn⟩ := hr
  obtain ⟨_, _, _, _, _, hf⟩ := h.fab
  exact ⟨phys, by rw [World.physicalOf, hf]; exact hp, by rw [hf]; exact hn⟩

/-- Where each of a list's sendings makes a packet leave for a position that packets reach, all of them are among what left. -/
theorem World.Pieced.foldl_leaves {α : Type} {f : World → α → World} {pos : α → Nat} {P : α → Packet → Prop} (hp : ∀ (v : World) (x : α), v.Pieced (f v x))
    (hl : ∀ (v : World) (x : α), v.reaches (pos x) → ∃ q, Output.packet 0x10 q ∈ (f v x).out ∧ P x q) :
    ∀ (xs : List α) (w : World), ∀ x ∈ xs, w.reaches (pos x) → ∃ q, Output.packet 0x10 q ∈ (xs.foldl f w).out ∧ P x q
  | [], _, _, hx, _ => absurd hx List.not_mem_nil
  | y :: ys, w, x, hx, hr => by
    obtain rfl | hx := List.mem_cons.mp hx
    · obtain ⟨q, hq, hP⟩ := hl w x hr
      exact ⟨q, (World.Pieced.foldl hp ys (f w x)).mem_out hq, hP⟩
    · exact World.Pieced.foldl_leaves hp hl ys (f w y) x hx ((hp w y).reaches hr)

/-- What keeps every field of a cask but the numbers of its unacknowledged pieces is kept. -/
theorem World.Pieced.cask_keeps (h : w.Pieced v) {γ : Type} (g : Cask → γ)
    (hg : ∀ c u j b, g { c with unacked := u, journalUnacked := j, baseUnacked := b } = g c) : g v.cask = g w.cask := by
  obtain ⟨u, j, b, hc⟩ := h.cask
  rw [hc]
  exact hg _ _ _ _

end Links

section Sends
variable (w : World) (t : Sid)

theorem World.sendPiece_pieced (inst : Nat) (x : Nat × CPiece) : w.Pieced (World.sendPiece t inst w x) := by
  unfold World.sendPiece
  refine World.Pieced.foldl (fun v y => ?_) _ w
  refine .trans (v.cask_pieced ?_) (World.sendPacket_mailed _ t _ _ _ _ _ _ _ _).pieced
  split
  · exact ⟨_, _, _, rfl⟩
  · split
    · exact ⟨_, _, _, rfl⟩
    · exact ⟨_, _, _, rfl⟩

theorem World.sendStripes_pieced (inst : Nat) (x : CPiece) : w.Pieced (w.sendStripes t inst x) :=
  .foldl (fun v _ => v.sendPiece_pieced t inst _) _ w

theorem World.mirrorOut_pieced (n : Nat) (xs : List (CSeg × List Byte)) : w.Pieced (w.mirrorOut t n xs) :=
  .foldl (fun v _ => v.sendStripes_pieced t 4 _) _ w

/-- Reads of an agent that meet no failed channel count, and nothing else. -/
theorem World.agentReads_of_good (p src : Nat) {xs : List (Nat × Nat)} (h : ∀ x ∈ xs, w.hbmFailed p x.1 x.2 = false) :
    ∃ c, w.agentReads t p src xs = (some { w with counters := c }, { w with counters := c }) := by
  obtain ⟨c, hc⟩ := foldl_counters (f := fun w x => (World.hbmFetch w src p x.1 x.2).2) (fun v x => by
    obtain ⟨c, h⟩ := v.hbmFetch_eq src p x.1 x.2
    exact ⟨c, by rw [h]⟩) xs w
  refine ⟨c, ?_⟩
  rw [World.agentReads, if_neg (by simpa using h)]
  exact Prod.ext (congrArg some hc) hc

end Sends

section Images

theorem pieceImage_kind (kind : Nat) (x : CPiece) : leAt (pieceImage kind x) 0 1 = kind % 256 := by
  simp only [pieceImage, List.append_assoc]
  exact leAt_leBytes_append [] _ 0 1 kind rfl

/-- The bytes of a piece follow its header. -/
theorem pieceImage_bytes (kind : Nat) (x : CPiece) : (parsePiece (pieceImage kind x)).bytes = x.bytes :=
  List.drop_left' (by simp)

end Images

end Sys2Proof.Machine

namespace Sys2Proof.Machine

/-! ### A packet that comes in and is served at once (R397 to R399) -/

section Arrived
variable (w : World) (t : Sid) (kind : Nat) (q : Packet)

theorem World.arrived_orderHeld (h : w.fab.orderHeld = []) : (w.arrived t kind q).fab.orderHeld = [] := by
  obtain ⟨ps, hf⟩ := w.arrived_fab t kind q
  rw [hf]
  exact h

theorem World.arrived_reaches {pos : Nat} (h : w.reaches pos) : (w.arrived t kind q).reaches pos := by
  obtain ⟨ps, hf⟩ := w.arrived_fab t kind q
  obtain ⟨phys, hp, hn⟩ := h
  exact ⟨phys, by rw [World.physicalOf, hf]; exact hp, by rw [hf]; exact hn⟩

theorem World.arrived_cask : (w.arrived t kind q).cask = w.cask := by
  obtain ⟨v, f, hn, -, he⟩ := w.arrived_noted t kind q
  rw [he]
  exact hn.cask

theorem World.arrived_kiln : (w.arrived t kind q).kiln = w.kiln := by
  obtain ⟨v, f, hn, -, he⟩ := w.arrived_noted t kind q
  rw [he]
  exact hn.kiln

theorem World.arrived_channels : (w.arrived t kind q).channels = w.channels := by
  obtain ⟨v, f, hn, -, he⟩ := w.arrived_noted t kind q
  rw [he]
  exact hn.channels

theorem World.arrived_good (p : Nat) : ((w.arrived t kind q).part p).good = (w.part p).good :=
  w.arrived_part_keeps t Part.good (fun _ _ => rfl) (fun _ _ => rfl) kind q p

theorem World.arrived_job (p : Nat) : ((w.arrived t kind q).part p).job = (w.part p).job :=
  w.arrived_part_keeps t Part.job (fun _ _ => rfl) (fun _ _ => rfl) kind q p

theorem World.arrived_jobRuns (p : Nat) : (w.arrived t kind q).jobRuns p = w.jobRuns p := by
  rw [World.jobRuns, w.arrived_job t kind q p, World.jobRuns]

end Arrived

section Served
variable {s : State} {i : Instr} {kind : Nat} {q : Packet}

/-- What a packet does that comes in, where it is served. -/
theorem exec_packet_served (hs : s.inService = true) (h : packetOf i = some (kind, q)) (ha : kind = 0x01 ∨ kind = 0x03 → addrSpace q.address.toNat ≠ 3)
    (hc : s.w.comes q) {v : World} (hv : (s.w.arrived s.sid kind q).process s.sid kind q = v) (hf : v.fab.orderHeld = []) :
    exec i s = .next { s with w := v } := by
  rw [exec_packet_of_comes hs h ha hc (by rw [hv]; exact hf), hv]

theorem World.Mailed.orderHeld {w v : World} (h : w.Mailed v) : v.fab.orderHeld = w.fab.orderHeld := by
  obtain ⟨_, _, _, _, _, hf⟩ := h.fab
  rw [hf]

/-- A response for no cluster wakes none. -/
theorem World.responded_of_none {w : World} {t : Sid} {tag : Nat} (h : responseIsland tag = none) : w.responded t tag = w := by
  rw [World.responded, h]
  rfl

theorem World.responded_mailed (w : World) (t : Sid) (tag : Nat) : w.Mailed (w.responded t tag) := by
  unfold World.responded
  cases responseIsland tag with
  | none => exact .refl
  | some k => exact w.wakeIsland_mailed t k

theorem World.responded_out (w : World) (t : Sid) (tag : Nat) : (w.responded t tag).out = w.out := by
  unfold World.responded
  cases responseIsland tag with
  | none => rfl
  | some k =>
    show (w.wakeIsland t k).out = w.out
    unfold World.wakeIsland
    split
    · rfl
    · rfl

end Served

end Sys2Proof.Machine

namespace Sys2Proof.Machine

/-! ### Casks asked for, weighed, gathered, signed and kept (R471 to R499) -/

section Asks
variable {s : State} (hs : s.inService = true)
include hs

theorem cskRequest_asks : ∃ t, exec .cskRequest s = .next t ∧ s.restKept t ∧ t.w = { s.w with cask := { s.w.cask with request := true } } :=
  ⟨_, next_of_serve hs rfl, s.restKept_world _, rfl⟩

theorem riskEval_weighs (old : Nat × Nat × Nat × Nat × Nat)
    (hold : (s.w.cask.riskHist.find? fun y => decide (y.1 + 60000000000 ≤ s.sid.now)) = some old) :
    let x := s.w.riskTerms
    let risk := (x.1 - old.2.1) + 64 * (x.2.1 - old.2.2.1) + 16 * (x.2.2.1 - old.2.2.2.1) + 256 * (x.2.2.2 - old.2.2.2.2)
    let limit := s.w.regField (Block.csk.addr 0 0x000) 0 16
    ∃ t, exec .riskEval s = .next t ∧ s.restKept t ∧ s.w.memoriesKept t.w ∧ t.w.cask.risk = min risk (2 ^ 32 - 1)
      ∧ (t.w.cask.flag = true ↔ s.w.cask.flag = true ∨ (limit ≠ 0 ∧ limit ≤ risk ∧ s.w.config.positions ≤ 256)) := by
  dsimp only
  refine ⟨_, next_of_serve hs rfl, s.restKept_world _, ⟨rfl, rfl, rfl, rfl⟩, ?_, ?_⟩
  · simp only [World.updCask, hold, Option.getD_some]
  · simp only [World.updCask, hold, Option.getD_some, Bool.or_eq_true, Bool.and_eq_true, decide_eq_true_eq, and_assoc]

theorem runStart_held (hip : s.w.cask.inProgress.isSome = true) {a : Nat} (ha : s.w.cask.stop = some a) : exec (.runStart 0 false) s = .next s := by
  have hstop : s.w.mirrorStop = true := by rw [World.mirrorStop, hip, ha]; rfl
  exact next_of_serve hs (if_pos (.inr (.inr (.inr ⟨rfl, .inr ⟨rfl, hstop⟩⟩))))

end Asks

/-- The end of a mirror stop changes the cask's stop, its length and those of the newest. -/
theorem World.endStop_eq (w : World) (t : Sid) :
    ∃ st us ss, w.endStop t = { w with cask := { w.cask with stop := st, lastStopUs := us, stops := ss } } := by
  unfold World.endStop
  split
  next h => exact ⟨w.cask.stop, w.cask.lastStopUs, w.cask.stops, rfl⟩
  next a h => exact ⟨none, _, _, rfl⟩

/-- The world with the Kiln part of the cask of step `n` gathered. -/
def World.kilnGathered (w : World) (n : Nat) : World :=
  w.updCask fun c =>
    { c with kilnSent := true, segments := c.segments ++ (w.kilnSegments n).map (·.1)
             transfer := if w.inGroup then c.transfer
               else { c.transfer with segs := c.transfer.segs ++ (w.kilnSegments n).zipIdx.map fun x => (c.segments.length + x.2, x.1.2) } }

/-- The last bytes of a manifest go to a peer, with ORDER. -/
def World.sendLast (t : Sid) (x : CPiece) (w : World) (p : Nat) : World :=
  (w.updCask fun c => { c with unacked := c.unacked + 1 }).sendPacket t 0x10 p (ioSource 11) (mkTag 7 4 0) 0 true false (pieceImage 2 x)

theorem World.sendLast_pieced (w : World) (t : Sid) (x : CPiece) (p : Nat) : w.Pieced (w.sendLast t x p) :=
  (World.cask_pieced ⟨w.cask.unacked + 1, w.cask.journalUnacked, w.cask.baseUnacked, rfl⟩).trans
    (World.sendPacket_mailed _ t _ _ _ _ _ _ _ _).pieced

theorem World.sendLast_leaves (w : World) (t : Sid) (x : CPiece) (p : Nat) (h : w.reaches p) : ∃ q, Output.packet 0x10 q ∈ (w.sendLast t x p).out
    ∧ q.dst = BitVec.ofNat 14 p ∧ pktOrder q = true ∧ (parsePiece q.payload).kind = 2 ∧ (parsePiece q.payload).bytes = x.bytes := by
  have hr : (w.updCask fun c => { c with unacked := c.unacked + 1 }).reaches p := h
  obtain ⟨q, hq, ho⟩ := World.sendPacket_leaves_packet _ t 0x10 p (ioSource 11) (mkTag 7 4 0) 0 true false (pieceImage 2 x) hr
  refine ⟨q, ?_, hq.dst, hq.order, ?_, ?_⟩
  · rw [World.sendLast, ho]
    exact List.mem_append_right _ (List.mem_singleton_self _)
  · rw [hq.payload]
    exact congrArg (· % 8) (pieceImage_kind 2 x)
  · rw [hq.payload, pieceImage_bytes]

/-- A manifest's last bytes, as a piece; and the world after its other bytes went to every peer. -/
def World.manifestEnd (w : World) (n : Nat) : CPiece :=
  { kind := 2, owner := w.ownPosition, step := n, offset := w.cask.manifest.length - 8
    bytes := w.cask.manifest.drop (w.cask.manifest.length - 8) }
def World.manifestOut (w : World) (t : Sid) (n : Nat) : World :=
  let piece : CPiece := { kind := 2, owner := w.ownPosition, step := n, bytes := w.cask.manifest.take (w.cask.manifest.length - 8) }
  w.peers.foldl (fun v p => World.sendPiece t 4 v (p, piece)) w

/-- The manifest goes to every peer, and its last bytes follow. -/
theorem World.sendManifest_facts (w : World) (t : Sid) (n : Nat) : w.Pieced (w.sendManifest t n)
    ∧ ∀ p ∈ w.peers, w.reaches p → ∃ q, Output.packet 0x10 q ∈ (w.sendManifest t n).out ∧ q.dst = BitVec.ofNat 14 p ∧ pktOrder q = true
      ∧ (parsePiece q.payload).kind = 2 ∧ (parsePiece q.payload).bytes = w.cask.manifest.drop (w.cask.manifest.length - 8) := by
  have hlen : (w.cask.manifest.take (w.cask.manifest.length - 8)).length = w.cask.manifest.length - 8 := by
    rw [List.length_take]
    omega
  have hbody : w.Pieced (w.manifestOut t n) := .foldl (fun v p => v.sendPiece_pieced t 4 _) w.peers w
  have hx : w.sendManifest t n = (w.manifestOut t n).peers.foldl (World.sendLast t (w.manifestEnd n)) (w.manifestOut t n) := by
    rw [World.sendManifest, hlen]
    rfl
  rw [hx]
  generalize w.manifestOut t n = v at *
  rw [hbody.peers]
  exact ⟨hbody.trans (.foldl (fun v p => v.sendLast_pieced t _ p) _ v), fun p hp hr =>
    World.Pieced.foldl_leaves (pos := id) (fun v p => v.sendLast_pieced t _ p) (fun v p => v.sendLast_leaves t _ p) w.peers v p hp (hbody.reaches hr)⟩

section Progress
variable {s : State} {n : Nat} (hs : s.inService = true) (hip : s.w.cask.inProgress = some n) (hj : s.w.jobRuns 0 = true)
include hs hip hj

theorem kilnPartSend_sends (hk : s.w.cask.kilnSent = false) (hc : s.w.canSend = true) (hstop : s.w.inGroup = true → s.w.cask.stop = none) :
    ∃ t, exec .kilnPartSend s = .next t ∧ s.restKept t ∧ s.w.memoriesKept t.w ∧ t.w.cask.kilnSent = true
      ∧ t.w.cask.segments = s.w.cask.segments ++ (s.w.kilnSegments n).map (·.1) := by
  have hguard : ¬ (s.w.cask.kilnSent = true ∨ s.w.jobRuns 0 = false ∨ s.w.canSend = false ∨ (s.w.inGroup = true ∧ s.w.cask.stop.isSome = true)) := by
    rintro (h | h | h | ⟨h, h'⟩)
    · rw [hk] at h; cases h
    · rw [hj] at h; cases h
    · rw [hc] at h; cases h
    · rw [hstop h] at h'; cases h'
  have hx : ∀ v, (if s.w.inGroup = true then (s.w.kilnGathered n).mirrorOut s.sid n (s.w.kilnSegments n)
      else (s.w.kilnGathered n).endStop s.sid) = v →
      exec .kilnPartSend s = .next { s with w := v } := by
    intro v h
    refine next_of_serve hs ?_
    dsimp only
    rw [hip]
    exact (if_neg hguard).trans h
  have hsent : ∀ f : Cask → Cask, s.w.memoriesKept (s.w.updCask f) := fun f => s.w.updCask_memories f
  by_cases hg : s.w.inGroup = true
  · have hp := World.mirrorOut_pieced (s.w.kilnGathered n) s.sid n (s.w.kilnSegments n)
    exact ⟨_, hx _ (if_pos hg), s.restKept_world _, (hsent _).trans hp.memories, hp.cask_keeps Cask.kilnSent fun _ _ _ _ => rfl,
      hp.cask_keeps Cask.segments fun _ _ _ _ => rfl⟩
  · obtain ⟨st, us, ss, he⟩ := World.endStop_eq (s.w.kilnGathered n) s.sid
    exact ⟨_, hx _ ((if_neg hg).trans he), s.restKept_world _, ⟨rfl, rfl, rfl, rfl⟩, rfl, rfl⟩

section Commit
variable (hr : s.w.caskReady = true) (hrep : s.w.cask.reported = false)
include hr hrep

/-- What CASK_COMMIT does with a cask whose pieces are in place. -/
theorem exec_caskCommit_of_ready : exec .caskCommit s =
    if s.w.cask.manifest = [] then
      if s.w.cask.signing then .next s
      else .next { s with
        sec := { s.sec with signQueue := s.sec.signQueue ++ [.manifest (s.w.manifestBody s.sid.now s.sec.fwVersion.toNat n) n] }
        w := s.w.updCask fun c => { c with signing := true } }
    else if s.w.inGroup = false then .next { s with w := s.w.updCask fun c => { c with exportDue := some n } }
    else if s.w.cask.manifestSent = false then
      if s.w.canSend then .next { s with w := (s.w.sendManifest s.sid n).updCask fun c => { c with manifestSent := true } } else .next s
    else .next { s with w := s.w.reportCommit s.sid n } := by
  show execCaskCommit s = _
  unfold execCaskCommit
  rw [hip]
  exact if_neg (by simp [hs, hj, hr, hrep])

theorem caskCommit_signs (hm : s.w.cask.manifest = []) (hsign : s.w.cask.signing = false) :
    ∃ t, exec .caskCommit s = .next t ∧ t.pending = s.pending ∧ s.w.memoriesKept t.w ∧ t.w.cask.signing = true
      ∧ t.sec.signQueue = s.sec.signQueue ++ [.manifest (s.w.manifestBody s.sid.now s.sec.fwVersion.toNat n) n] := by
  refine ⟨_, (exec_caskCommit_of_ready hs hip hj hr hrep).trans ((if_pos hm).trans (if_neg (by simp [hsign]))), rfl, ⟨rfl, rfl, rfl, rfl⟩, rfl, rfl⟩

variable (hm : s.w.cask.manifest ≠ [])
include hm

theorem caskCommit_exports (hg : s.w.inGroup = false) :
    ∃ t, exec .caskCommit s = .next t ∧ s.restKept t ∧ t.w = { s.w with cask := { s.w.cask with exportDue := some n } } :=
  ⟨_, (exec_caskCommit_of_ready hs hip hj hr hrep).trans ((if_neg hm).trans (if_pos hg)), s.restKept_world _, rfl⟩

variable (hg : s.w.inGroup = true)
include hg

theorem caskCommit_sends (hsent : s.w.cask.manifestSent = false) (hc : s.w.canSend = true) :
    ∃ t, exec .caskCommit s = .next t ∧ s.restKept t ∧ s.w.memoriesKept t.w ∧ t.w.cask.manifestSent = true
      ∧ ∀ p ∈ s.w.peers, s.w.reaches p → ∃ q, Output.packet 0x10 q ∈ t.w.out ∧ q.dst = BitVec.ofNat 14 p
        ∧ pktOrder q = true ∧ (parsePiece q.payload).kind = 2
        ∧ (parsePiece q.payload).bytes = s.w.cask.manifest.drop (s.w.cask.manifest.length - 8) := by
  have hx := (exec_caskCommit_of_ready hs hip hj hr hrep).trans
    ((if_neg hm).trans ((if_neg (by simp [hg])).trans ((if_pos hsent).trans (if_pos hc))))
  obtain ⟨hp, hleave⟩ := s.w.sendManifest_facts s.sid n
  generalize s.w.sendManifest s.sid n = v at *
  exact ⟨_, hx, s.restKept_world _, hp.memories.trans (v.updCask_memories _), rfl, hleave⟩

theorem caskCommit_reports (hsent : s.w.cask.manifestSent = true) :
    ∃ t, exec .caskCommit s = .next t ∧ s.restKept t ∧ s.w.memoriesKept t.w ∧ t.w.cask.reported = true
      ∧ t.w.out = s.w.out ++ [.tree true { kind := 1, barrier := 1, entries := 1, step := n, amax := [(0, BitVec.ofNat 32 s.w.cask.lastStopUs)],
                                           fromPosition := s.w.ownPosition }] := by
  have hpos : s.w.fab.position.isSome = true := by
    simp only [World.inGroup, Bool.and_eq_true] at hg
    exact hg.1
  have hrepc : s.w.reportCommit s.sid n = (s.w.updCask fun c => { c with reported := true }).emit (.tree true
      { kind := 1, barrier := 1, entries := 1, step := n, amax := [(0, BitVec.ofNat 32 s.w.cask.lastStopUs)], fromPosition := s.w.ownPosition }) :=
    if_pos hpos
  have hx := (exec_caskCommit_of_ready hs hip hj hr hrep).trans
    ((if_neg hm).trans ((if_neg (by simp [hg])).trans (if_neg (by simp [hsent]))))
  rw [hrepc] at hx
  exact ⟨_, hx, s.restKept_world _, ⟨rfl, rfl, rfl, rfl⟩, rfl, rfl⟩

end Commit

end Progress

/-- The pieces of a base leave: the table's records, and its Kiln rows where the Kiln keeps it. -/
def World.baseOut (w : World) (t : Sid) (own tensor n : Nat) (e : DirEntry) : World :=
  let piece : CPiece := { kind := 3, owner := own, step := n, tensor := tensor }
  let v := w.sendStripes t 8 { piece with bytes := w.hbmRead 0 e.curBase e.bytes }
  match v.kilnEntryOf 0 tensor with
  | some (_, _, r, k) => v.sendStripes t 8 { piece with part := 1, bytes := v.blockBytesOf r k }
  | none => v

theorem World.baseOut_pieced (w : World) (t : Sid) (own tensor n : Nat) (e : DirEntry) : w.Pieced (w.baseOut t own tensor n e) := by
  unfold World.baseOut
  dsimp only
  split
  · exact (w.sendStripes_pieced _ _ _).trans (World.sendStripes_pieced _ _ _ _)
  · exact w.sendStripes_pieced _ _ _

section Bases
variable {s : State} {tensor n : Nat} {e : DirEntry}

theorem baseStart_begins (hs : s.inService = true) (he : (s.w.part 0).entry tensor = some e) (hn : (s.w.part 0).lastSwitched = some n)
    (hj : s.w.jobRuns 0 = true) (hg : s.w.inGroup = true) (hjournal : e.journals = true) (hnone : s.w.cask.baseRun = none) (hc : s.w.canSend = true)
    (hdue : s.w.baseDue e = true) (hgood : ∀ a k, s.w.hbmFailed 0 a k = false) :
    ∃ t, exec (.baseStart tensor) s = .next t ∧ s.restKept t ∧ s.w.memoriesKept t.w ∧ t.w.cask.baseRun = some (tensor, n)
      ∧ AMap.get 0 t.w.cask.journalBytes tensor = 0 := by
  obtain ⟨c, hread⟩ := s.w.agentReads_of_good s.sid 0 (ioSource 11) (xs := [(e.curBase, e.bytes)]) fun x _ => hgood x.1 x.2
  have hguard : ¬ (s.w.jobRuns 0 = false ∨ s.w.inGroup = false ∨ e.journals = false ∨ s.w.cask.baseRun.isSome = true ∨ s.w.canSend = false
      ∨ s.w.baseDue e = false) := by
    simp [hj, hg, hjournal, hnone, hc, hdue]
  generalize hv : (({ s.w with counters := c } : World).updCask fun c => { c with baseRun := some (tensor, n), journalBytes := AMap.set 0 c.journalBytes tensor 0 }) = v
  have hrun : v.cask.baseRun = some (tensor, n) := by rw [← hv]; rfl
  have hbytes : AMap.get 0 v.cask.journalBytes tensor = 0 := by rw [← hv]; exact AMap.get_set_self 0 s.w.cask.journalBytes tensor 0
  have hmem : s.w.memoriesKept v := by rw [← hv]; exact ⟨rfl, rfl, rfl, rfl⟩
  have hx : exec (.baseStart tensor) s = .next { s with w := v.baseOut s.sid s.w.ownPosition tensor n e } := by
    refine next_of_serve hs ?_
    dsimp only
    rw [he, hn]
    dsimp only
    rw [if_neg hguard, hread]
    dsimp only
    rw [hv]
    rfl
  have hp := v.baseOut_pieced s.sid s.w.ownPosition tensor n e
  exact ⟨_, hx, s.restKept_world _, hmem.trans hp.memories, (hp.cask_keeps Cask.baseRun fun _ _ _ _ => rfl).trans hrun,
    (hp.cask_keeps (fun c => AMap.get 0 c.journalBytes tensor) fun _ _ _ _ => rfl).trans hbytes⟩

end Bases

section Packets
variable {s : State} {q : Packet} (hs : s.inService = true) (hc : s.w.comes q)
include hs hc

theorem exec_cask_served {v : World} (hv : (s.w.arrived s.sid 0x10 q).takeCask s.sid q = v) (hf : v.fab.orderHeld = []) :
    exec (.cask q) s = .next { s with w := v } := by
  refine exec_packet_served hs rfl (fun h => absurd h (by decide)) hc ?_ hf
  have hplain : pktMulticast q = false := hc.2.2.1
  rw [World.process, World.countMulticast_of_plain hplain]
  exact hv

theorem cask_kept (hk : leAt q.payload 0 1 < 4) (hlast : leAt q.payload 0 1 ≠ 2 ∨ (parsePiece q.payload).bytes.length ≠ 8)
    (hr : s.w.reaches q.src.toNat) : ∃ t, exec (.cask q) s = .next t ∧ s.restKept t ∧ s.w.memoriesKept t.w
      ∧ t.w.cask.reserve = (s.w.cask.reserve.filter fun y => !(parsePiece q.payload).samePlace y) ++ [parsePiece q.payload]
      ∧ s.w.sent t.w 4 q.src.toNat [] := by
  have hkind : ¬ ((parsePiece q.payload).kind = 2 ∧ (parsePiece q.payload).bytes.length = 8) := by
    have hmod : (parsePiece q.payload).kind = leAt q.payload 0 1 := Nat.mod_eq_of_lt (by omega)
    rw [hmod]
    omega
  have hheld := s.w.arrived_orderHeld s.sid 0x10 q hc.2.2.2.1
  have hreach := s.w.arrived_reaches s.sid 0x10 q hr
  have hcask := s.w.arrived_cask s.sid 0x10 q
  have hmem := s.w.arrived_memories s.sid 0x10 q
  have hout := s.w.arrived_out s.sid 0x10 q
  have hx := fun v (h : (s.w.arrived s.sid 0x10 q).storePiece s.sid q = v) => exec_cask_served hs hc ((if_pos hk).trans h)
  generalize s.w.arrived s.sid 0x10 q = u at *
  generalize hv : (u.updCask fun c =>
    { c with reserve := if (parsePiece q.payload).kind = 2 ∧ (parsePiece q.payload).bytes.length = 8 then
               freeEntries (parsePiece q.payload).owner ((c.reserve.filter fun y => !(parsePiece q.payload).samePlace y) ++ [parsePiece q.payload])
             else (c.reserve.filter fun y => !(parsePiece q.payload).samePlace y) ++ [parsePiece q.payload] }) = v
  have hmemv : u.memoriesKept v := by rw [← hv]; exact u.updCask_memories _
  have hreachv : v.reaches q.src.toNat := by rw [← hv]; exact hreach
  have houtv : v.out = u.out := by rw [← hv]; rfl
  have hheldv : v.fab.orderHeld = [] := by rw [← hv]; exact hheld
  have hres : v.cask.reserve = (s.w.cask.reserve.filter fun y => !(parsePiece q.payload).samePlace y) ++ [parsePiece q.payload] := by
    rw [← hv, ← hcask]
    exact if_neg hkind
  have hmail := v.sendPacket_mailed s.sid 0x04 q.src.toNat (ioSource 11) q.tag.toNat 0 false false []
  obtain ⟨p, hp, hdst, hpay⟩ := v.sendPacket_leaves s.sid 0x04 q.src.toNat (ioSource 11) q.tag.toNat 0 false false [] hreachv
  have hstore : u.storePiece s.sid q = v.sendPacket s.sid 0x04 q.src.toNat (ioSource 11) q.tag.toNat 0 false false [] := by rw [← hv]; rfl
  refine ⟨_, hx _ hstore (hmail.orderHeld.trans hheldv), s.restKept_world _, hmem.trans (hmemv.trans hmail.memories),
    (congrArg Cask.reserve hmail.sent.cask).trans hres, p, ?_, hdst, hpay⟩
  rw [hp, houtv, hout]

/-- A piece on its way back. -/
def World.sendBack (t : Sid) (q : Packet) (w : World) (ordered : Bool) (b : List Byte) : World :=
  w.sendPacket t 0x10 q.src.toNat (ioSource 11) (mkTag 7 9 0) 0 ordered false b

/-- Whether a piece of a reserve is one of those that a request asks for. -/
def CPiece.askedBy (y x : CPiece) : Bool :=
  decide (y.owner = x.owner) && (match y.kind with
    | 0 | 2 => decide (y.step = x.step)
    | _ => decide (y.part = 4) || decide (y.step ≤ x.step))

/-- The pieces of a reserve that a request asks for leave. -/
def World.backOut (w : World) (t : Sid) (q : Packet) (ys : List CPiece) : World :=
  ys.foldl (fun v y => World.sendBack t q v false (pieceImage (y.kind + 8) y)) w

omit hs hc in
theorem World.servePieces_eq (w : World) (t : Sid) : w.servePieces t q =
    World.sendBack t q (w.backOut t q (w.cask.reserve.filter fun y => y.askedBy (parsePiece q.payload))) true (pieceImage 7 (parsePiece q.payload)) := rfl

omit hs hc in
theorem World.sendBack_mailed (w : World) (t : Sid) (ordered : Bool) (b : List Byte) : w.Mailed (World.sendBack t q w ordered b) :=
  w.sendPacket_mailed t _ _ _ _ _ _ _ _

omit hs hc in
/-- A piece on its way back leaves last. -/
theorem World.sendBack_leaves (w : World) (t : Sid) (ordered : Bool) (b : List Byte) (hr : w.reaches q.src.toNat) :
    ∃ p, (World.sendBack t q w ordered b).out = w.out ++ [.packet 0x10 p] ∧ p.dst = q.src ∧ p.payload = b := by
  obtain ⟨p, hp, hdst, hpay⟩ := w.sendPacket_leaves t 0x10 q.src.toNat (ioSource 11) (mkTag 7 9 0) 0 ordered false b hr
  exact ⟨p, hp, hdst.trans (by simp), hpay⟩

omit hs hc in
theorem World.backOut_mailed (w : World) (t : Sid) (ys : List CPiece) : w.Mailed (w.backOut t q ys) := by
  unfold World.backOut
  have hstep : ∀ (v : World) (y : CPiece), v.Mailed (World.sendBack t q v false (pieceImage (y.kind + 8) y)) := fun v _ => v.sendBack_mailed t _ _
  exact World.Mailed.foldl hstep ys w

omit hs hc in
theorem World.backOut_leaves (w : World) (t : Sid) (ys : List CPiece) (hr : w.reaches q.src.toNat) (y : CPiece) (hy : y ∈ ys) :
    ∃ p, Output.packet 0x10 p ∈ (w.backOut t q ys).out ∧ p.dst = q.src ∧ p.payload = pieceImage (y.kind + 8) y := by
  have hstep : ∀ (v : World) (y : CPiece), v.Pieced (World.sendBack t q v false (pieceImage (y.kind + 8) y)) :=
    fun v _ => (v.sendBack_mailed t _ _).pieced
  refine World.Pieced.foldl_leaves (pos := fun _ => q.src.toNat) (P := fun y p => p.dst = q.src ∧ p.payload = pieceImage (y.kind + 8) y)
    hstep (fun v y hv => ?_) ys w y hy hr
  obtain ⟨p, hp, hrest⟩ := v.sendBack_leaves t false (pieceImage (y.kind + 8) y) hv
  exact ⟨p, by rw [hp]; exact List.mem_append_right _ (List.mem_singleton_self _), hrest⟩

theorem cask_served (hk : leAt q.payload 0 1 = 4) (hr : s.w.reaches q.src.toNat) :
    ∃ t, exec (.cask q) s = .next t ∧ s.restKept t ∧ s.w.memoriesKept t.w ∧ t.w.cask = s.w.cask
      ∧ (∀ y ∈ s.w.cask.reserve, y.owner = (parsePiece q.payload).owner → y.kind = 0 → y.step = (parsePiece q.payload).step →
          ∃ p, Output.packet 0x10 p ∈ t.w.out ∧ p.dst = q.src ∧ p.payload = pieceImage 8 y)
      ∧ ∃ o p, t.w.out = o ++ [.packet 0x10 p] ∧ p.dst = q.src ∧ p.payload = pieceImage 7 (parsePiece q.payload) := by
  have hheld := s.w.arrived_orderHeld s.sid 0x10 q hc.2.2.2.1
  have hreach := s.w.arrived_reaches s.sid 0x10 q hr
  have hcask := s.w.arrived_cask s.sid 0x10 q
  have hmem := s.w.arrived_memories s.sid 0x10 q
  have hx := fun v (h : (s.w.arrived s.sid 0x10 q).servePieces s.sid q = v) =>
    exec_cask_served hs hc ((if_neg (by omega)).trans ((if_pos hk).trans h))
  generalize s.w.arrived s.sid 0x10 q = u at *
  rw [u.servePieces_eq, hcask] at hx
  have hasked : ∀ y ∈ s.w.cask.reserve, y.owner = (parsePiece q.payload).owner → y.kind = 0 → y.step = (parsePiece q.payload).step →
      y ∈ s.w.cask.reserve.filter fun y => y.askedBy (parsePiece q.payload) := by
    intro y hy how hk0 hstep
    refine List.mem_filter.2 ⟨hy, ?_⟩
    rw [CPiece.askedBy, how, hk0, hstep]
    simp
  generalize (s.w.cask.reserve.filter fun y => y.askedBy (parsePiece q.payload)) = ys at *
  have hall := u.backOut_mailed (q := q) s.sid ys
  have hleaves := u.backOut_leaves s.sid ys hreach
  generalize u.backOut s.sid q ys = v at *
  have hend := v.sendBack_mailed (q := q) s.sid true (pieceImage 7 (parsePiece q.payload))
  obtain ⟨p, hp, hlast⟩ := v.sendBack_leaves s.sid true (pieceImage 7 (parsePiece q.payload)) (hall.reaches hreach)
  generalize World.sendBack s.sid q v true (pieceImage 7 (parsePiece q.payload)) = u' at *
  have hboth := hall.trans hend
  refine ⟨_, hx _ rfl (hboth.orderHeld.trans hheld), s.restKept_world _, hmem.trans hboth.memories, hboth.sent.cask.trans hcask,
    fun y hy how hk0 hstep => ?_, v.out, p, hp, hlast⟩
  obtain ⟨p', hp', hdst', hpay'⟩ := hleaves y (hasked y hy how hk0 hstep)
  exact ⟨p', hend.mem_out hp', hdst', by rw [hpay', hk0]⟩

omit hs hc in
theorem World.updFetch_of_some {w : World} {x : Fetching} (h : w.cask.fetching = some x) (f : Fetching → Fetching) :
    (w.updFetch f).cask = { w.cask with fetching := some (f x) } := by
  simp only [World.updFetch, World.updCask, h, Option.map_some]

theorem cask_ended {f : Fetching} (hf : s.w.cask.fetching = some f) (hk : leAt q.payload 0 1 = 7) :
    ∃ t, exec (.cask q) s = .next t ∧ s.restKept t ∧ s.w.memoriesKept t.w
      ∧ t.w.cask = { s.w.cask with fetching := some { f with ended := f.ended ++ [q.src.toNat] } } := by
  have hx := exec_cask_served hs hc ((if_neg (by omega)).trans ((if_neg (by omega)).trans (if_pos hk))) (s.w.arrived_orderHeld s.sid 0x10 q hc.2.2.2.1)
  have hcask := s.w.arrived_cask s.sid 0x10 q
  have hmem := s.w.arrived_memories s.sid 0x10 q
  generalize s.w.arrived s.sid 0x10 q = u at *
  refine ⟨_, hx, s.restKept_world _, hmem.trans (u.updCask_memories _), ?_⟩
  exact (World.updFetch_of_some (hcask ▸ hf) _).trans (by rw [hcask])

theorem cask_back {f : Fetching} (hf : s.w.cask.fetching = some f) (h8 : 8 ≤ leAt q.payload 0 1) (h12 : leAt q.payload 0 1 < 12) :
    ∃ t, exec (.cask q) s = .next t ∧ s.restKept t ∧ s.w.memoriesKept t.w
      ∧ t.w.cask = { s.w.cask with fetching := some { f with pieces := f.pieces ++ [parsePiece q.payload] } } := by
  have hx := exec_cask_served hs hc ((if_neg (by omega)).trans ((if_neg (by omega)).trans ((if_neg (by omega)).trans (if_pos ⟨h8, h12⟩))))
    (s.w.arrived_orderHeld s.sid 0x10 q hc.2.2.2.1)
  have hcask := s.w.arrived_cask s.sid 0x10 q
  have hmem := s.w.arrived_memories s.sid 0x10 q
  generalize s.w.arrived s.sid 0x10 q = u at *
  refine ⟨_, hx, s.restKept_world _, hmem.trans (u.updCask_memories _), ?_⟩
  exact (World.updFetch_of_some (hcask ▸ hf) _).trans (by rw [hcask])

omit hs hc in
/-- The settling of a base changes the cask's bases. -/
theorem World.settleBase_eq (w : World) : ∃ r b, w.settleBase = { w with cask := { w.cask with baseRun := r, bases := b } } := by
  unfold World.settleBase
  split
  · exact ⟨w.cask.baseRun, w.cask.bases, rfl⟩
  · split
    · exact ⟨w.cask.baseRun, w.cask.bases, rfl⟩
    · exact ⟨_, _, rfl⟩

omit hs hc in
/-- The acknowledgement of the last stripe ends the mirror stop. -/
theorem World.pieceAcked_last {w : World} {t : Sid} {a : Nat} (ha : w.cask.stop = some a) (hu : w.cask.unacked = 1) :
    ∃ c, w.pieceAcked t 4 = { w with cask := c } ∧ c.unacked = 0 ∧ c.stop = none ∧ c.lastStopUs = (t.now - a) / 1000 := by
  obtain ⟨r, b, he⟩ := (w.updCask fun c => { c with unacked := c.unacked - 1 }).settleBase_eq
  have hack : w.pieceAcked t 4 = if 4 = 4 ∧ (w.updCask fun c => { c with unacked := c.unacked - 1 }).settleBase.cask.unacked = 0 then
      (w.updCask fun c => { c with unacked := c.unacked - 1 }).settleBase.endStop t else (w.updCask fun c => { c with unacked := c.unacked - 1 }).settleBase := rfl
  generalize (w.updCask fun c => { c with unacked := c.unacked - 1 }).settleBase = v at *
  have hzero : v.cask.unacked = 0 := by
    rw [he]
    show w.cask.unacked - 1 = 0
    omega
  have hstop : v.cask.stop = some a := by rw [he]; exact ha
  rw [hack, if_pos ⟨rfl, hzero⟩, World.endStop, hstop]
  refine ⟨{ v.cask with stop := none, lastStopUs := (t.now - a) / 1000, stops := ((t.now - a) / 1000 :: v.cask.stops).take 8 }, ?_, hzero, rfl, rfl⟩
  rw [he]
  rfl

theorem writeAck_ends {a : Nat} (ha : s.w.cask.stop = some a) (hu : s.w.cask.unacked = 1) (hkind : tagKind q.tag.toNat = 7)
    (hinst : tagInst q.tag.toNat = 4) : ∃ t, exec (.writeAck q) s = .next t ∧ s.restKept t ∧ s.w.memoriesKept t.w ∧ t.w.out = s.w.out
      ∧ t.w.cask.unacked = 0 ∧ t.w.cask.stop = none ∧ t.w.cask.lastStopUs = (s.sid.now - a) / 1000 := by
  have hplain : pktMulticast q = false := hc.2.2.1
  have hheld := s.w.arrived_orderHeld s.sid 0x04 q hc.2.2.2.1
  have hcask := s.w.arrived_cask s.sid 0x04 q
  have hmem := s.w.arrived_memories s.sid 0x04 q
  have hout := s.w.arrived_out s.sid 0x04 q
  have hproc : (s.w.arrived s.sid 0x04 q).process s.sid 0x04 q = (s.w.arrived s.sid 0x04 q).pieceAcked s.sid 4 := by
    rw [World.process, World.countMulticast_of_plain hplain]
    show ((s.w.arrived s.sid 0x04 q).responded s.sid q.tag.toNat).takeWriteAck s.sid q = _
    rw [World.responded_of_none (by rw [responseIsland, hkind]; rfl), World.takeWriteAck, hkind, hinst]
    rfl
  have hx := fun v hv => exec_packet_served (i := .writeAck q) hs rfl (fun h => absurd h (by decide)) hc (hproc.trans hv) (v := v)
  generalize s.w.arrived s.sid 0x04 q = u at *
  obtain ⟨c, he, h1, h2, h3⟩ := World.pieceAcked_last (t := s.sid) (hcask ▸ ha) (hcask ▸ hu)
  exact ⟨_, hx _ he hheld, s.restKept_world _, hmem.trans ⟨rfl, rfl, rfl, rfl⟩, hout, h1, h2, h3⟩

end Packets

/-- Settles O53: a cask's pieces change only what counts them, and what comes in finds the reserve as it was. -/
theorem casksAreTakenAndKept : Obligations.CasksAreTakenAndKept :=
  fun _ hs => ⟨cskRequest_asks hs, riskEval_weighs hs,
    fun _ hip hj => ⟨fun _ ha => runStart_held hs (by rw [hip]; rfl) ha, kilnPartSend_sends hs hip hj,
      fun hr hrep => ⟨caskCommit_signs hs hip hj hr hrep, fun hm => ⟨caskCommit_exports hs hip hj hr hrep hm,
        caskCommit_sends hs hip hj hr hrep hm, caskCommit_reports hs hip hj hr hrep hm⟩⟩⟩,
    fun _ _ _ he hn hj hg hjournal hnone hc hdue hgood => baseStart_begins hs he hn hj hg hjournal hnone hc hdue hgood,
    fun _ hc => ⟨cask_kept hs hc, cask_served hs hc, fun _ hf => ⟨cask_ended hs hc hf, cask_back hs hc hf⟩,
      fun _ ha hu hkind hinst => writeAck_ends hs hc ha hu hkind hinst⟩⟩

end Sys2Proof.Machine

namespace Sys2Proof.Machine

/-! ### What the start of a restore leaves (R457, R489) -/

section Sending
variable (w : World) (t : Sid)

theorem World.frameOut_uzo (port kind : Nat) (q : Packet) : (w.frameOut port kind q).uzo = w.uzo := rfl

theorem World.route_uzo (dst phys : Nat) : (w.route dst phys).2.uzo = w.uzo := by
  unfold World.route
  extract_lets g key minimal bias
  split
  · rfl
  · split
    · rfl
    · split
      · split
        · rfl
        · rfl
      · rfl

/-- The sending of a packet raises no event. -/
theorem World.sendFrom_uzo (src kind dst source tag a : Nat) (ordered stepped : Bool) (payload : List Byte) (mask : List Bool) :
    (w.sendFrom t src kind dst source tag a ordered stepped payload mask).uzo = w.uzo := by
  unfold World.sendFrom
  split
  next => rfl
  next phys hphys =>
    extract_lets own count f1 w1 circuit live f2 w2 r w3 flags q
    have h1 : w1.uzo = w.uzo := by
      simp only [w1, World.tick_uzo]
      split
      · rfl
      · rfl
    split
    next => exact h1
    next =>
      have h2 : w2.uzo = w1.uzo := by
        simp only [w2]
        split
        · rfl
        · rfl
      have h3 : w3.uzo = w2.uzo := by
        show r.2.uzo = w2.uzo
        clear_value w2
        cases hl : live with
        | some c => simp only [r, hl]
        | none =>
          simp only [r, hl]
          exact w2.route_uzo _ _
      clear_value w3
      rw [World.emit_uzo, (World.packetRecord_noted _ t kind 0 dst tag a).2, World.frameOut_uzo, h3, h2, h1]

theorem World.sendPacket_uzo (kind dst source tag a : Nat) (ordered stepped : Bool) (payload : List Byte) :
    (w.sendPacket t kind dst source tag a ordered stepped payload).uzo = w.uzo := w.sendFrom_uzo t _ _ _ _ _ _ _ _ _ _

end Sending

/-- Twin operation, events, the state of every job and the count of rollbacks are the same. -/
structure World.Restarting (w v : World) : Prop where
  twin : v.twin = w.twin
  uzo : v.uzo = w.uzo
  job : ∀ p, (v.part p).job = (w.part p).job
  counter : v.counter .sid 0 0x0B0 = w.counter .sid 0 0x0B0

section Links
variable {w v u : World} {t : Sid}

theorem World.Restarting.refl : w.Restarting w := ⟨rfl, rfl, fun _ => rfl, rfl⟩

theorem World.Restarting.trans (h : w.Restarting v) (g : v.Restarting u) : w.Restarting u :=
  ⟨g.twin.trans h.twin, g.uzo.trans h.uzo, fun p => (g.job p).trans (h.job p), g.counter.trans h.counter⟩

theorem World.Restarting.foldl {α : Type} {f : World → α → World} (h : ∀ (v : World) (x : α), v.Restarting (f v x)) (xs : List α) (w : World) :
    w.Restarting (xs.foldl f w) :=
  List.foldlRecOn xs f (motive := w.Restarting) .refl fun v hv x _ => hv.trans (h v x)

/-- What changes nothing but cores, clusters, memories, the Kiln, the fabric, the cask or what leaves. -/
theorem World.Restarting.of_same (ht : v.twin = w.twin) (hu : v.uzo = w.uzo) (hp : v.parts = w.parts) (hc : v.counters = w.counters) : w.Restarting v :=
  ⟨ht, hu, fun p => by rw [World.part_of_parts hp], by rw [World.counter, hc, World.counter]⟩

/-- The counters of the Kiln's neighbours of `sid` that events, packets and stops add to are not the count of rollbacks. -/
theorem not_haltCounter_rollbacks : ¬ haltCounter (Block.sid.addr 0 0x0B0) := by
  rintro ((e | e | e | ⟨p, e⟩) | ⟨p, e⟩)
  · revert e; decide
  · revert e; decide
  · revert e; decide
  · simp only [Block.addr, Block.base] at e
    omega
  · simp only [Block.addr, Block.base] at e
    omega

theorem not_mailCounter_rollbacks : ¬ mailCounter (Block.sid.addr 0 0x0B0) := by
  rintro (e | ⟨off, hoff, e⟩ | ⟨j, x, hx, e⟩)
  · exact not_haltCounter_rollbacks (.inl e)
  · obtain rfl | rfl | rfl | rfl := hoff
    · revert e; decide
    · revert e; decide
    · revert e; decide
    · revert e; decide
  · exact Block.addr_ne (by decide) (by omega) (by omega) e

theorem World.Mailed.restarting (h : w.Mailed v) (hu : v.uzo = w.uzo) : w.Restarting v :=
  ⟨h.sent.twin, hu, fun p => h.sent.part_keeps Part.job (fun _ _ => rfl) p, h.counter _ not_mailCounter_rollbacks⟩

theorem World.askPeers_restarting (w : World) (t : Sid) (n : Nat) : w.Restarting (w.askPeers t n) := by
  unfold World.askPeers
  exact .foldl (fun v p => (v.sendPacket_mailed t _ _ _ _ _ _ _ _).restarting (v.sendPacket_uzo t _ _ _ _ _ _ _ _)) _ w

theorem World.sendDatagram_restarting (w : World) (e : EthEntry) (b : List Byte) : w.Restarting (w.sendDatagram e b) := by
  unfold World.sendDatagram
  split
  · exact ⟨rfl, rfl, fun _ => rfl, World.counter_tick_ne _ (by decide) (by decide) (by decide)⟩
  · exact .refl

theorem World.toStore_restarting (w : World) (b : List Byte) : w.Restarting (w.toStore b) := by
  unfold World.toStore
  cases w.store with
  | none => exact .refl
  | some e => exact w.sendDatagram_restarting e b

theorem World.askStore_restarting (w : World) : w.Restarting w.askStore ∧ w.askStore.cask = w.cask := by
  unfold World.askStore
  split
  · exact ⟨.refl, rfl⟩
  next f hf =>
    split
    · cases f.nextAsk with
      | none => exact ⟨.refl, rfl⟩
      | some x => exact ⟨w.toStore_restarting _, w.toStore_cask _⟩
    · exact ⟨.refl, rfl⟩

theorem World.updPart_restarting (w : World) (p : Nat) {f : Part → Part} (h : ∀ x, (f x).job = x.job) : w.Restarting (w.updPart p f) := by
  refine ⟨rfl, rfl, fun q => ?_, rfl⟩
  rw [World.part_updPart]
  split
  next e => subst e; exact h _
  next => rfl

theorem World.emptyUnits_restarting (w : World) (p : Nat) : w.Restarting (w.emptyUnits p) := by
  unfold World.emptyUnits
  exact (World.Restarting.foldl (f := fun (w : World) c => w.updCore c Core.emptied) (fun _ _ => .of_same rfl rfl rfl rfl) _ w).trans
    (.foldl (f := fun (w : World) k => w.updCluster k Cluster.emptied) (fun _ _ => .of_same rfl rfl rfl rfl) _ _)

theorem World.zeroLocal_restarting (w : World) (p : Nat) (x : Bundle) : w.Restarting (w.zeroLocal p x) := by
  unfold World.zeroLocal
  exact (World.Restarting.foldl (f := fun (w : World) c => { w with tun := w.tun.zero (c * tunBytes) ((c + 1) * tunBytes - x.regionBytes c) })
      (fun _ _ => .of_same rfl rfl rfl rfl) _ w).trans
    (.foldl (f := fun (w : World) k => { w with cstore := w.cstore.zero (k * storeBytes) ((k + 1) * storeBytes) })
      (fun _ _ => .of_same rfl rfl rfl rfl) _ _)

/-- The module has four dies. -/
theorem partitionLayout_lt (k : Nat) : ∀ ds ∈ partitionLayout k, ∀ d ∈ ds, d < 4 := by
  unfold partitionLayout
  split <;> decide

theorem World.die_lt (w : World) {p d : Nat} (h : d ∈ w.diesOf p) : d < 4 := by
  rw [World.diesOf, List.getD_eq_getElem?_getD] at h
  cases hp : (partitionLayout w.config.partition)[p]? with
  | none =>
    rw [hp] at h
    cases h
  | some ds =>
    rw [hp] at h
    exact partitionLayout_lt _ ds (List.mem_of_getElem? hp) d h

theorem World.discardRecords_restarting (w : World) (p : Nat) : w.Restarting (w.discardRecords p) := by
  unfold World.discardRecords
  have hlt : ∀ d ∈ w.diesOf p, d < 4 := fun d hd => w.die_lt hd
  refine List.foldlRecOn (w.diesOf p) (fun (w : World) d => (w.count (Block.disp.addr d 0x0B0) (w.die d).collect.length).updDie d
    fun x => { x with collect := [] }) (motive := w.Restarting) .refl fun v hv d hd => hv.trans ⟨rfl, rfl, fun _ => rfl, ?_⟩
  refine World.counter_count_ne _ _ fun e => ?_
  have hd4 := hlt d hd
  simp only [Block.addr, Block.base] at e
  omega

theorem World.updBar_restarting (w : World) (key : Nat) (f : Bar → Bar) : w.Restarting (w.updBar key f) := by
  unfold World.updBar
  split
  · exact .of_same rfl rfl rfl rfl
  · exact .of_same rfl rfl rfl rfl

theorem World.resetRun_restarting (w : World) (p : Nat) : w.Restarting (w.resetRun p) := by
  unfold World.resetRun
  extract_lets v1 v2 f0 v3 v4 v5 v6
  have h1 : w.Restarting v1 := w.discardRecords_restarting p
  have h2 : v1.Restarting v2 :=
    .foldl (f := fun (v : World) d => v.updDie d fun x => { x with ready := [] }) (fun _ _ => .of_same rfl rfl rfl rfl) _ v1
  have h3 : v2.Restarting v3 := by
    simp only [v3]
    split
    · exact .of_same rfl rfl rfl rfl
    · exact .refl
  have h4 : v3.Restarting v4 :=
    .foldl (f := fun (v : World) k => v.updCluster k Cluster.dropItem) (fun _ _ => .of_same rfl rfl rfl rfl) _ v3
  have h5 : v4.Restarting v5 := .of_same rfl rfl rfl rfl
  have h6 : v5.Restarting v6 := .foldl (f := fun (v : World) c => v.updCore c Core.forget) (fun _ _ => .of_same rfl rfl rfl rfl) _ v5
  exact (((((h1.trans h2).trans h3).trans h4).trans h5).trans h6).trans (.foldl (fun v k => v.updBar_restarting k _) _ v6)

theorem World.stopRun_facts (w : World) (p : Nat) (keep : Bool) : (w.stopRun p keep).twin = w.twin ∧ (w.stopRun p keep).uzo = w.uzo
    ∧ ((w.stopRun p keep).part p).job ≠ .running ∧ (w.stopRun p keep).counter .sid 0 0x0B0 = w.counter .sid 0 0x0B0 := by
  have h := w.stopRun_halted p keep
  refine ⟨h.twin, h.uzo, ?_, h.counter _ not_haltCounter_rollbacks⟩
  by_cases hj : (w.part p).job = .running
  · rw [w.stopRun_job p hj]
    decide
  · rw [World.stopRun, if_pos hj]
    exact hj

end Links

/-- A restore begins with partition 0's job stopped: it asks for the cask of its step. -/
theorem World.beginRestore_facts (w : World) (t : Sid) (fromStore : Bool) (n : Nat) : (w.beginRestore t fromStore n).twin = w.twin
    ∧ (w.beginRestore t fromStore n).uzo = w.uzo ∧ ((w.beginRestore t fromStore n).part 0).job ≠ .running
    ∧ (w.beginRestore t fromStore n).counter .sid 0 0x0B0 = w.counter .sid 0 0x0B0
    ∧ ∃ f, (w.beginRestore t fromStore n).cask.fetching = some f ∧ f.step = n ∧ f.written = false := by
  obtain ⟨htwin, huzo, hjob, hcount⟩ := w.stopRun_facts 0 false
  unfold World.beginRestore
  extract_lets v1 v2 v3 store v4 fab v5
  have h1 : (w.stopRun 0 false).Restarting v1 :=
    ((World.emptyUnits_restarting _ 0).trans (World.zeroLocal_restarting _ 0 _)).trans (World.resetRun_restarting _ 0)
  clear_value v1
  have h2 : v1.Restarting v2 := .foldl (f := fun (w : World) c => w.updCore c fun x => { (Core.halted false x) with axe := { x.axe with shapes := [] } })
    (fun _ _ => .of_same rfl rfl rfl rfl) _ v1
  clear_value v2
  have h3 : v2.Restarting v3 := v2.updPart_restarting 0 fun _ => rfl
  clear_value v3
  have h4 : v3.Restarting v4 := .of_same rfl rfl rfl rfl
  have h5 : v4.Restarting v5 := .of_same rfl rfl rfl rfl
  have hfetch : ∃ f, v5.cask.fetching = some f ∧ f.step = n ∧ f.written = false := ⟨_, rfl, rfl, rfl⟩
  have h := (((h1.trans h2).trans h3).trans h4).trans h5
  clear_value v5
  have hend : v5.Restarting (if store then v5.askStore else v5.askPeers t n)
      ∧ (if store then v5.askStore else v5.askPeers t n).cask = v5.cask := by
    split
    · exact v5.askStore_restarting
    · exact ⟨v5.askPeers_restarting t n, (v5.askPeers_facts t n).1.sent.cask⟩
  obtain ⟨hlast, hcask⟩ := hend
  have hall := h.trans hlast
  exact ⟨hall.twin.trans htwin, hall.uzo.trans huzo, by rw [hall.job 0]; exact hjob, hall.counter.trans hcount, by rw [hcask]; exact hfetch⟩

end Sys2Proof.Machine

namespace Sys2Proof.Machine

/-! ### Twin domains (R454 to R459) -/

section Frames
variable {s : State} (hs : s.inService = true)
include hs

theorem twinDigestForm_sends {n : Nat} (hn : (s.w.part 0).lastSwitched = some n) (hrole : s.w.config.twinRole ≠ 0) (hj : s.w.jobRuns 0 = true)
    (hdir : ∀ e ∈ (s.w.part 0).dir, e.catchupDone = true) (hf : s.w.twin.formed ≠ some n) (hpos : s.w.fab.position.isSome = true) :
    ∃ t, exec .twinDigestForm s = .next t ∧ s.restKept t ∧ s.w.memoriesKept t.w ∧ t.w.twin.formed = some n
      ∧ t.w.out = s.w.out ++ [.tree true { kind := 1, barrier := 3, entries := 1, step := n, digest := s.w.partialTable n
                                           fromPosition := s.w.ownPosition }] := by
  have hguard : ¬ (s.w.config.twinRole = 0 ∨ s.w.jobRuns 0 = false ∨ ((s.w.part 0).dir.any fun e => !e.catchupDone) = true
      ∨ s.w.twin.formed = some n) := by
    rintro (h | h | h | h)
    · exact hrole h
    · rw [hj] at h; cases h
    · obtain ⟨e, he, hne⟩ := List.any_eq_true.mp h
      rw [hdir e he] at hne
      cases hne
    · exact hf h
  have hx : exec .twinDigestForm s = .next { s with w := (s.w.updTwin fun x =>
      { x with formed := some n, sums := x.sums.filter fun y => decide (y.1 / 4096 ≠ n % 2) }).emit (.tree true
        { kind := 1, barrier := 3, entries := 1, step := n, digest := s.w.partialTable n, fromPosition := s.w.ownPosition }) } := by
    refine next_of_serve hs ?_
    dsimp only
    rw [hn]
    exact (if_neg hguard).trans (if_pos hpos)
  exact ⟨_, hx, s.restKept_world _, ⟨rfl, rfl, rfl, rfl⟩, rfl, rfl⟩

omit hs in
/-- A frame to the partner, with the table's entry and the port's state of `w`. -/
theorem World.toTwin_facts {w v : World} {e : EthEntry} (he : w.ethRole 3 = some e) (hc : v.config = w.config) (heth : v.eth = w.eth)
    (hsend : w.ethSends e.port = true) (b : List Byte) : v.memoriesKept (v.toTwin b) ∧ (v.toTwin b).twin = v.twin ∧ (v.toTwin b).config = w.config
      ∧ (v.toTwin b).eth = w.eth ∧ (v.toTwin b).out = v.out ++ [.datagram e.port e.address e.udpPort b] := by
  have hv : v.ethRole 3 = some e := by rw [World.ethRole, hc]; exact he
  have hsends : v.ethSends e.port = true := by
    rw [← hsend]
    simp only [World.ethSends, World.ethUp, World.macPort, World.macKeyed, hc, heth]
  have hx : v.toTwin b = (v.tick .eth 0 0x088).emit (.datagram e.port e.address e.udpPort b) := by
    rw [World.toTwin, hv]
    exact if_pos hsends
  rw [hx]
  exact ⟨⟨rfl, rfl, rfl, rfl⟩, rfl, hc, heth, rfl⟩

theorem twinDigestResend_sends {e : EthEntry} (htalks : s.w.twin.talks = true) (he : s.w.ethRole 3 = some e) (hsend : s.w.ethSends e.port = true) :
    ∃ t, exec .twinDigestResend s = .next t ∧ s.restKept t ∧ s.w.memoriesKept t.w ∧ t.w.twin = s.w.twin
      ∧ t.w.out = s.w.out ++ s.w.twin.pending.map fun b => .datagram e.port e.address e.udpPort b.2 := by
  have hall : ∀ (xs : List (Nat × List Byte)) (v : World), v.config = s.w.config → v.eth = s.w.eth →
      v.memoriesKept (xs.foldl (fun w b => w.toTwin b.2) v) ∧ (xs.foldl (fun w b => w.toTwin b.2) v).twin = v.twin
        ∧ (xs.foldl (fun w b => w.toTwin b.2) v).out = v.out ++ xs.map fun b => .datagram e.port e.address e.udpPort b.2 := by
    intro xs
    induction xs with
    | nil => exact fun v _ _ => ⟨v.memoriesKept_refl, rfl, (List.append_nil _).symm⟩
    | cons x xs ih =>
      intro v hc heth
      obtain ⟨hm, ht, hc', heth', ho⟩ := World.toTwin_facts he hc heth hsend x.2
      obtain ⟨hm', ht', ho'⟩ := ih (v.toTwin x.2) hc' heth'
      rw [List.foldl_cons]
      exact ⟨hm.trans hm', ht'.trans ht, by rw [ho', ho, List.append_assoc]; rfl⟩
  obtain ⟨hm, ht, ho⟩ := hall s.w.twin.pending s.w rfl rfl
  exact ⟨_, next_of_serve hs (if_pos htalks), s.restKept_world _, hm, ht, ho⟩

end Frames

section Hears
variable {s : State} {kind : Nat} {b : List Byte}

/-- The world once a frame of the partner is heard. -/
def World.twinHeard (w : World) (t : Sid) : World := (w.tick .eth 0 0x080).updTwin fun x => { x with lastFrameAt := t.now }

theorem State.hearTwin_of_hears (h : s.twinHears kind b) (f : State → State) : s.hearTwin kind b f = f { s with w := s.w.twinHeard s.sid } := by
  obtain ⟨e, he, hh, hlen, h0, h4, h6, h7, hz, hhead, htalks, htag⟩ := h
  unfold State.hearTwin
  rw [he]
  dsimp only
  rw [World.hear_of_hears hh]
  refine (if_neg ?_).trans (if_neg ?_)
  · rintro (h | h | h | h)
    · exact Bool.noConfusion (hh.symm.trans h)
    · simp [hlen, h0, h4, h6, h7, hz] at h
    · exact Bool.noConfusion (hhead.symm.trans h)
    · exact Bool.noConfusion (htalks.symm.trans h)
  · exact not_not_intro htag

theorem World.twinHeard_facts (w : World) (t : Sid) : w.memoriesKept (w.twinHeard t) ∧ (w.twinHeard t).out = w.out ∧ (w.twinHeard t).uzo = w.uzo
    ∧ (w.twinHeard t).regs = w.regs ∧ (w.twinHeard t).parts = w.parts ∧ (w.twinHeard t).twin = { w.twin with lastFrameAt := t.now }
    ∧ (∀ off, off ≠ 0x080 → off < 0x1000 → (w.twinHeard t).counter .sid 0 off = w.counter .sid 0 off) :=
  ⟨⟨rfl, rfl, rfl, rfl⟩, rfl, rfl, rfl, rfl, rfl, fun _ h ho => World.counter_tick_ne _ (by decide) ho h⟩

end Hears

section Stops
variable {w v u : World} {t : Sid}

theorem World.saw.of_uzo {sev src code payload : Nat} (h : w.saw v sev src code payload) (hu : u.uzo = v.uzo) : w.saw u sev src code payload := by
  rw [World.saw, hu]
  exact h

theorem World.toTwin_restarting (w : World) (b : List Byte) : w.Restarting (w.toTwin b) ∧ (w.toTwin b).regs = w.regs ∧ (w.toTwin b).cask = w.cask := by
  unfold World.toTwin
  cases w.ethRole 3 with
  | none => exact ⟨.refl, rfl, rfl⟩
  | some e =>
    refine ⟨w.sendDatagram_restarting e b, ?_, w.sendDatagram_cask e b⟩
    show (w.sendDatagram e b).regs = w.regs
    unfold World.sendDatagram
    split
    · rfl
    · rfl

/-- The stop of partition 0's job for the twin's sake. -/
theorem World.twinStop_facts (w : World) (t : Sid) : ((w.twinStop t).part 0).job ≠ .running ∧ (w.twinStop t).twin = w.twin ∧ (w.twinStop t).uzo = w.uzo
    ∧ (w.twinStop t).counter .sid 0 0x0B0 = w.counter .sid 0 0x0B0 := by
  have hfacts : ∀ {v : World}, w.Halted v → v.twin = w.twin ∧ v.uzo = w.uzo ∧ v.counter .sid 0 0x0B0 = w.counter .sid 0 0x0B0 :=
    fun h => ⟨h.twin, h.uzo, h.counter _ not_haltCounter_rollbacks⟩
  unfold World.twinStop
  split
  next hj =>
    refine ⟨?_, hfacts (w.stopJob_halted t 0 1 (ioSource 10))⟩
    rw [w.stopJob_job t 0 (of_decide_eq_true hj)]
    decide
  next hj =>
    refine ⟨?_, hfacts (w.cancelDump_halted t 0)⟩
    rw [w.cancelDump_part_keeps t 0 Part.job (fun _ _ => rfl) (fun _ _ => rfl)]
    exact of_decide_eq_false (Bool.eq_false_iff.mpr hj)

/-- The event of a mismatch, and what it leaves. -/
theorem World.mismatch_facts (w : World) (t : Sid) (n flag : Nat) : w.saw (w.mismatch t n flag) 3 (ioSource 10) 0x131 (Nat.lor (n % 2 ^ 32) flag)
    ∧ (w.mismatch t n flag).twin = w.twin ∧ (w.mismatch t n flag).counter .sid 0 0x0B0 = w.counter .sid 0 0x0B0 := by
  have hsaw := w.raise_saw (t := t) (src := ioSource 10) (code := 0x131) (payload := Nat.lor (n % 2 ^ 32) flag) (by decide) (by decide)
  have hnoted := w.raise_Noted t (ioSource 10) 0x131 (Nat.lor (n % 2 ^ 32) flag)
  unfold World.mismatch
  generalize w.raise t (ioSource 10) 0x131 (Nat.lor (n % 2 ^ 32) flag) = v at *
  refine ⟨hsaw.of_uzo rfl, hnoted.noted.twin, ?_⟩
  rw [World.counter_tick_ne _ (by decide) (by decide) (by decide)]
  exact hnoted.counter _ fun h => not_haltCounter_rollbacks (.inl h)

end Stops

section Rollback
variable {t : Sid} {n : Nat}

/-- Without a common cask the domain stops. -/
theorem World.twinEnd_facts (w : World) (t : Sid) (n flag : Nat) : ((w.twinEnd t n flag).part 0).job ≠ .running ∧ (w.twinEnd t n flag).twin.state = twinStopped
    ∧ w.saw (w.twinEnd t n flag) 3 (ioSource 10) 0x131 (Nat.lor (n % 2 ^ 32) flag) := by
  obtain ⟨hsaw, -, -⟩ := w.mismatch_facts t n flag
  obtain ⟨hjob, -, huzo, -⟩ := (w.mismatch t n flag).twinStop_facts t
  unfold World.twinEnd
  generalize (w.mismatch t n flag).twinStop t = v at *
  exact ⟨hjob, rfl, hsaw.of_uzo huzo⟩

/-- The world at the start of the restore of a rollback: the frame is sent, the job has stopped, and the rollback is counted. -/
def World.rollingBack (w : World) (t : Sid) (n : Nat) : World :=
  ((((w.mismatch t n 0).toTwin (w.twinFrame t.now 1 n [])).twinStop t).tick .sid 0 0x0B0).updCask fun c =>
    { c with takeovers := t.now :: c.takeovers }

/-- The twin operation of a domain that rolls back to the cask of step `c`. -/
def Twin.rolling (x : Twin) (n c : Nat) : Twin :=
  let first := fun (k : Nat) (m : AMap (List Byte)) (o : AMap (List Byte)) => AMap.set [] o k (AMap.get [] m n)
  { x with
    state := twinRolling, replayStep := some n, pending := []
    originals := if x.replayStep = some n then x.originals
      else first (partnerOriginal n) x.partner (first (ownOriginal n) x.digests [])
    digests := x.digests.filter fun y => decide (y.1 ≤ c)
    partner := x.partner.filter fun y => decide (y.1 ≤ c)
    sums := [], formed := none }

theorem World.rollingBack_facts (w : World) (t : Sid) (n : Nat) : w.saw (w.rollingBack t n) 3 (ioSource 10) 0x131 (n % 2 ^ 32)
    ∧ w.counted (w.rollingBack t n) .sid 0 0x0B0 := by
  obtain ⟨hsaw, -, hcount⟩ := w.mismatch_facts t n 0
  obtain ⟨hsend, -, -⟩ := (w.mismatch t n 0).toTwin_restarting (w.twinFrame t.now 1 n [])
  obtain ⟨-, -, huzo, hcount'⟩ := ((w.mismatch t n 0).toTwin (w.twinFrame t.now 1 n [])).twinStop_facts t
  have hpay : Nat.lor (n % 2 ^ 32) 0 = n % 2 ^ 32 := Nat.or_zero _
  rw [hpay] at hsaw
  unfold World.rollingBack
  generalize ((w.mismatch t n 0).toTwin (w.twinFrame t.now 1 n [])).twinStop t = v at *
  refine ⟨hsaw.of_uzo (huzo.trans hsend.uzo), ?_⟩
  have hv : v.counter .sid 0 0x0B0 = w.counter .sid 0 0x0B0 := hcount'.trans (hsend.counter.trans hcount)
  show (v.tick .sid 0 0x0B0).counter .sid 0 0x0B0 = _
  rw [World.counter_tick_self, hv]

theorem World.rollBack_rolledBack (w : World) (t : Sid) (n : Nat) : w.rolledBack (w.rollBack t n) n w.twin.partnerVerified := by
  unfold World.rolledBack
  cases hcommon : w.twin.verified.find? fun x => w.twin.partnerVerified.contains x with
  | none =>
    have hx : w.rollBack t n = (w.toTwin (w.twinFrame t.now 1 n [])).twinEnd t n (2 ^ 31) := by
      unfold World.rollBack
      rw [hcommon]
    obtain ⟨hsend, hregs, -⟩ := w.toTwin_restarting (w.twinFrame t.now 1 n [])
    obtain ⟨hjob, hstate, hsaw⟩ := (w.toTwin (w.twinFrame t.now 1 n [])).twinEnd_facts t n (2 ^ 31)
    rw [hx]
    exact ⟨hjob, hstate, hsaw.of_same (World.reg_of_regs hregs _) hsend.uzo⟩
  | some c =>
    have hx : w.rollBack t n = ((w.rollingBack t n).updTwin fun x => x.rolling n c).beginRestore t false c := by
      unfold World.rollBack
      rw [hcommon]
      rfl
    obtain ⟨hsaw, hcount⟩ := w.rollingBack_facts t n
    rw [hx]
    generalize w.rollingBack t n = v at *
    obtain ⟨htwin, huzo, hjob, hcount', hfetch⟩ := (v.updTwin fun x => x.rolling n c).beginRestore_facts t false c
    generalize (v.updTwin fun x => x.rolling n c).beginRestore t false c = u at *
    refine ⟨hjob, by rw [htwin]; rfl, by rw [htwin]; rfl, hfetch, hsaw.of_uzo huzo, ?_⟩
    rw [World.counted, hcount']
    exact hcount

/-- A rollback, told from a world with the same verified casks, events and counts. -/
theorem World.rolledBack.of_same {w v u : World} {ys : List Nat} (h : v.rolledBack u n ys) (ht : v.twin.verified = w.twin.verified)
    (hr : v.reg (Block.uzo.addr 0 0x008) = w.reg (Block.uzo.addr 0 0x008)) (hu : v.uzo = w.uzo)
    (hc : v.counter .sid 0 0x0B0 = w.counter .sid 0 0x0B0) : w.rolledBack u n ys := by
  unfold World.rolledBack at h ⊢
  rw [ht] at h
  obtain ⟨hjob, h⟩ := h
  refine ⟨hjob, ?_⟩
  cases hcommon : w.twin.verified.find? fun x => ys.contains x with
  | none =>
    rw [hcommon] at h
    exact ⟨h.1, h.2.of_same hr hu⟩
  | some c =>
    rw [hcommon] at h
    obtain ⟨h1, h2, h3, h4, h5⟩ := h
    exact ⟨h1, h2, h3, h4.of_same hr hu, by rw [World.counted, ← hc]; exact h5⟩

end Rollback

section Digests
variable {s : State} {b : List Byte} (hs : s.inService = true) (hh : s.twinHears 0 b)
include hs hh

/-- The world once a DIGEST frame is heard. -/
def World.digestHeard (w : World) (t : Sid) (b : List Byte) : World :=
  (w.twinHeard t).updTwin fun x => { x with partnerVerified := frameVerified b, pending := x.pending.filter fun y => decide (beAt b 8 8 < y.1) }

theorem exec_twinDigestFrame_of_hears {t : State} (h : (if AMap.get [] s.w.twin.partner (beAt b 8 8) ≠ [] then { s with w := s.w.digestHeard s.sid b }
      else { s with w := ((s.w.digestHeard s.sid b).updTwin fun x =>
        { x with partner := AMap.set [] x.partner (beAt b 8 8) (slice b 24 32) }).compareStep s.sid (beAt b 8 8) } : State) = t) :
    exec (.twinDigestFrame b) s = .next t := by
  show execTwinDigestFrame b s = _
  rw [execTwinDigestFrame, if_neg (by simp [hs]), State.hearTwin_of_hears hh]
  exact congrArg Host.Outcome.next h

theorem twinDigestFrame_repeated (hold : AMap.get [] s.w.twin.partner (beAt b 8 8) ≠ []) :
    ∃ t, exec (.twinDigestFrame b) s = .next t ∧ s.restKept t ∧ s.w.memoriesKept t.w ∧ t.w.out = s.w.out
      ∧ t.w.twin.partner = s.w.twin.partner ∧ t.w.twin.digests = s.w.twin.digests ∧ t.w.twin.partnerVerified = frameVerified b
      ∧ t.w.twin.lastFrameAt = s.sid.now :=
  ⟨_, exec_twinDigestFrame_of_hears hs hh (if_pos hold), s.restKept_world _, ⟨rfl, rfl, rfl, rfl⟩, rfl, rfl, rfl, rfl, rfl⟩

/-- The world once a DIGEST frame of a new step is heard. -/
def World.digestKept (w : World) (t : Sid) (b : List Byte) : World :=
  (w.digestHeard t b).updTwin fun x => { x with partner := AMap.set [] x.partner (beAt b 8 8) (slice b 24 32) }

omit hs hh in
theorem World.digestKept_partner (w : World) (t : Sid) (b : List Byte) : AMap.get [] (w.digestKept t b).twin.partner (beAt b 8 8) = slice b 24 32 :=
  AMap.get_set_self [] w.twin.partner (beAt b 8 8) (slice b 24 32)

omit hs hh in
theorem slice_24_ne_nil (b : List Byte) : slice b 24 32 ≠ [] := fun h => by
  have hlen := slice_length b 24 32
  rw [h] at hlen
  cases hlen

omit hs hh in
theorem World.digestKept_facts (w : World) (t : Sid) (b : List Byte) : w.memoriesKept (w.digestKept t b) ∧ (w.digestKept t b).out = w.out
    ∧ (w.digestKept t b).uzo = w.uzo ∧ (w.digestKept t b).regs = w.regs ∧ (w.digestKept t b).twin.digests = w.twin.digests
    ∧ (w.digestKept t b).twin.talks = w.twin.talks ∧ (w.digestKept t b).twin.replayStep = w.twin.replayStep
    ∧ (w.digestKept t b).twin.verified = w.twin.verified ∧ (w.digestKept t b).twin.partnerVerified = frameVerified b
    ∧ (w.digestKept t b).twin.matched = w.twin.matched ∧ (w.digestKept t b).twin.state = w.twin.state
    ∧ (∀ off, off ≠ 0x080 → off < 0x1000 → (w.digestKept t b).counter .sid 0 off = w.counter .sid 0 off) :=
  ⟨⟨rfl, rfl, rfl, rfl⟩, rfl, rfl, rfl, rfl, rfl, rfl, rfl, rfl, rfl, rfl, fun _ h ho => World.counter_tick_ne _ (by decide) ho h⟩

omit hs hh in
/-- The settling of the verified casks changes the twin operation's lists of casks and digests. -/
theorem World.settleVerified_eq (w : World) : ∃ k d p, w.settleVerified = { w with twin := { w.twin with verified := k, digests := d, partner := p } } := by
  unfold World.settleVerified
  split
  · exact ⟨w.twin.verified, w.twin.digests, w.twin.partner, rfl⟩
  · exact ⟨_, _, _, rfl⟩

variable (hnew : AMap.get [] s.w.twin.partner (beAt b 8 8) = []) (hreplay : s.w.twin.replayStep = none)
  (hown : AMap.get [] s.w.twin.digests (beAt b 8 8) ≠ [])
include hnew hreplay hown

omit hs hh hnew hreplay hown in
/-- What a comparison does outside of a rollback, with both digests known. -/
theorem World.compareStep_of_known {w : World} {t : Sid} {n : Nat} (h1 : AMap.get [] w.twin.digests n ≠ []) (h2 : AMap.get [] w.twin.partner n ≠ [])
    (ht : w.twin.talks = true) (hr : w.twin.replayStep = none) : w.compareStep t n =
      if AMap.get [] w.twin.digests n = AMap.get [] w.twin.partner n then
        ((w.updTwin fun x => { x with matched := some (x.matched.elim n (max n)) }).tick .sid 0 0x0A0).settleVerified
      else w.rollBack t n := by
  have hguard : ¬ (AMap.get [] w.twin.digests n = [] ∨ AMap.get [] w.twin.partner n = [] ∨ w.twin.talks = false) := by
    simp [h1, h2, ht]
  have hstep : ¬ (w.twin.replayStep = some n) := by simp [hr]
  unfold World.compareStep
  dsimp only
  rw [if_neg hguard, decide_eq_false hstep, Bool.false_and, Bool.false_and, if_neg Bool.false_ne_true]
  split
  next he => rw [if_neg fun h => hstep h.1]
  next he => rw [if_neg (by simp [ht]), if_neg fun h => hstep h.1]

/-- What a DIGEST frame of a new step does where the domain has its own digest. -/
theorem exec_twinDigestFrame_of_new {v : World} (h : (if AMap.get [] s.w.twin.digests (beAt b 8 8) = slice b 24 32 then
        (((s.w.digestKept s.sid b).updTwin fun x => { x with matched := some (x.matched.elim (beAt b 8 8) (max (beAt b 8 8))) }).tick .sid 0 0x0A0).settleVerified
      else (s.w.digestKept s.sid b).rollBack s.sid (beAt b 8 8)) = v) : exec (.twinDigestFrame b) s = .next { s with w := v } := by
  have htalks : s.w.twin.talks = true := by
    obtain ⟨e, -, -, -, -, -, -, -, -, -, htalks, -⟩ := hh
    exact htalks
  have hpartner := s.w.digestKept_partner s.sid b
  refine exec_twinDigestFrame_of_hears hs hh ((if_neg (not_not_intro hnew)).trans ?_)
  show ({ s with w := (s.w.digestKept s.sid b).compareStep s.sid (beAt b 8 8) } : State) = _
  have hcompare := World.compareStep_of_known (w := s.w.digestKept s.sid b) (t := s.sid) (n := beAt b 8 8) hown
    (by rw [hpartner]; exact slice_24_ne_nil b) htalks hreplay
  rw [hcompare, hpartner]
  exact congrArg (fun v => ({ s with w := v } : State)) h

theorem twinDigestFrame_matches (he : AMap.get [] s.w.twin.digests (beAt b 8 8) = slice b 24 32) :
    ∃ t, exec (.twinDigestFrame b) s = .next t ∧ s.restKept t ∧ s.w.memoriesKept t.w ∧ t.w.out = s.w.out
      ∧ t.w.twin.matched = some (s.w.twin.matched.elim (beAt b 8 8) (max (beAt b 8 8))) ∧ t.w.twin.state = s.w.twin.state
      ∧ s.w.counted t.w .sid 0 0x0A0 := by
  have hx := exec_twinDigestFrame_of_new hs hh hnew hreplay hown (if_pos he)
  obtain ⟨hmem, hout, -, -, -, -, -, -, -, hmatched, hstate, hcount⟩ := s.w.digestKept_facts s.sid b
  have hcount := hcount 0x0A0 (by decide) (by decide)
  generalize s.w.digestKept s.sid b = v at *
  obtain ⟨k, d, p, hsettle⟩ := World.settleVerified_eq
    ((v.updTwin fun x => { x with matched := some (x.matched.elim (beAt b 8 8) (max (beAt b 8 8))) }).tick .sid 0 0x0A0)
  rw [hsettle] at hx
  refine ⟨_, hx, s.restKept_world _, hmem.trans ⟨rfl, rfl, rfl, rfl⟩, hout, ?_, hstate, ?_⟩
  · rw [← hmatched]
    rfl
  · rw [World.counted, ← hcount]
    exact World.counter_tick_self _ _ _ _

theorem twinDigestFrame_differs (he : AMap.get [] s.w.twin.digests (beAt b 8 8) ≠ slice b 24 32) :
    ∃ t, exec (.twinDigestFrame b) s = .next t ∧ s.restKept t ∧ s.w.rolledBack t.w (beAt b 8 8) (frameVerified b) := by
  have hx := exec_twinDigestFrame_of_new hs hh hnew hreplay hown (if_neg he)
  obtain ⟨-, -, huzo, hregs, -, -, -, hverified, hpartner, -, -, hcount⟩ := s.w.digestKept_facts s.sid b
  have hcount := hcount 0x0B0 (by decide) (by decide)
  generalize s.w.digestKept s.sid b = v at *
  have hroll := v.rollBack_rolledBack s.sid (beAt b 8 8)
  rw [hpartner] at hroll
  exact ⟨_, hx, s.restKept_world _, hroll.of_same hverified (World.reg_of_regs hregs _) huzo hcount⟩

end Digests

section Others
variable {s : State} {b : List Byte} (hs : s.inService = true)
include hs

/-- The world once a ROLLBACK frame is heard. -/
def World.rollbackHeard (w : World) (t : Sid) (b : List Byte) : World :=
  (w.twinHeard t).updTwin fun x => { x with partnerVerified := frameVerified b }

theorem exec_rollback_of_hears (hh : s.twinHears 1 b) {t : State}
    (h : (if s.w.twin.replayStep = some (beAt b 8 8) then { s with w := s.w.rollbackHeard s.sid b }
      else { s with w := (s.w.rollbackHeard s.sid b).rollBack s.sid (beAt b 8 8) } : State) = t) : exec (.rollback b) s = .next t := by
  show execRollback b s = _
  rw [execRollback, if_neg (by simp [hs]), State.hearTwin_of_hears hh]
  exact congrArg Host.Outcome.next h

theorem rollback_rolls (hh : s.twinHears 1 b) (hr : s.w.twin.replayStep ≠ some (beAt b 8 8)) :
    ∃ t, exec (.rollback b) s = .next t ∧ s.restKept t ∧ s.w.rolledBack t.w (beAt b 8 8) (frameVerified b) := by
  have hx := exec_rollback_of_hears hs hh (if_neg hr)
  have hroll := (s.w.rollbackHeard s.sid b).rollBack_rolledBack s.sid (beAt b 8 8)
  have hcount : (s.w.rollbackHeard s.sid b).counter .sid 0 0x0B0 = s.w.counter .sid 0 0x0B0 :=
    World.counter_tick_ne _ (by decide) (by decide) (by decide)
  have hroll' := World.rolledBack.of_same (w := s.w) (ys := frameVerified b) hroll rfl rfl rfl hcount
  generalize (s.w.rollbackHeard s.sid b).rollBack s.sid (beAt b 8 8) = v at *
  exact ⟨_, hx, s.restKept_world _, hroll'⟩

theorem rollback_repeated (hh : s.twinHears 1 b) (hr : s.w.twin.replayStep = some (beAt b 8 8)) :
    ∃ t, exec (.rollback b) s = .next t ∧ s.restKept t ∧ s.w.memoriesKept t.w ∧ t.w.out = s.w.out
      ∧ t.w.twin.state = s.w.twin.state ∧ t.w.twin.partnerVerified = frameVerified b :=
  ⟨_, exec_rollback_of_hears hs hh (if_pos hr), s.restKept_world _, ⟨rfl, rfl, rfl, rfl⟩, rfl, rfl, rfl⟩

omit hs in
/-- A domain that goes alone has no frames that wait, and its event tells why. -/
theorem World.goAlone_facts (w : World) (t : Sid) (how : Nat) : w.memoriesKept (w.goAlone t how) ∧ (w.goAlone t how).twin.state = twinAlone
    ∧ (w.goAlone t how).twin.pending = [] ∧ w.saw (w.goAlone t how) 3 (ioSource 10) 0x132 how := by
  have hmem : w.memoriesKept (w.updTwin fun x => { x with state := twinAlone, pending := [], replayStep := none, originals := [] }) := ⟨rfl, rfl, rfl, rfl⟩
  have hstate : (w.updTwin fun x => { x with state := twinAlone, pending := [], replayStep := none, originals := [] }).twin.state = twinAlone := rfl
  have hpending : (w.updTwin fun x => { x with state := twinAlone, pending := [], replayStep := none, originals := [] }).twin.pending = [] := rfl
  have huzo : (w.updTwin fun x => { x with state := twinAlone, pending := [], replayStep := none, originals := [] }).uzo = w.uzo := rfl
  have hregs : (w.updTwin fun x => { x with state := twinAlone, pending := [], replayStep := none, originals := [] }).regs = w.regs := rfl
  unfold World.goAlone World.raiseFenced
  generalize (w.updTwin fun x => { x with state := twinAlone, pending := [], replayStep := none, originals := [] }) = v at *
  have hnoted := v.raise_noted t (ioSource 10) 0x132 how
  have hsaw := v.raise_saw (t := t) (src := ioSource 10) (code := 0x132) (payload := how) (by decide) (by decide)
  exact ⟨hmem.trans hnoted.memories, by rw [hnoted.twin]; exact hstate, by rw [hnoted.twin]; exact hpending,
    World.saw.of_same hsaw (World.reg_of_regs hregs _) huzo⟩

theorem twinFenceFrame_alone (hh : s.twinHears 2 b) : ∃ t, exec (.twinFenceFrame b) s = .next t ∧ s.restKept t ∧ s.w.memoriesKept t.w
    ∧ t.w.twin.state = twinAlone ∧ t.w.twin.pending = [] ∧ s.w.saw t.w 3 (ioSource 10) 0x132 1 := by
  have hx : exec (.twinFenceFrame b) s = .next { s with w := (s.w.twinHeard s.sid).goAlone s.sid 1 } := by
    show execTwinFenceFrame b s = _
    rw [execTwinFenceFrame, if_neg (by simp [hs]), State.hearTwin_of_hears hh]
  obtain ⟨hmem, -, huzo, hregs, -, -, -⟩ := s.w.twinHeard_facts s.sid
  generalize s.w.twinHeard s.sid = v at *
  obtain ⟨hm, hstate, hpending, hsaw⟩ := v.goAlone_facts s.sid 1
  generalize v.goAlone s.sid 1 = u at *
  exact ⟨_, hx, s.restKept_world _, hmem.trans hm, hstate, hpending, hsaw.of_same (World.reg_of_regs hregs _) huzo⟩

theorem twinTimeout_alone (hhead : s.w.headOfDomain = true) (htalks : s.w.twin.talks = true)
    (hlate : s.w.twin.lastFrameAt + s.w.twinTimeout ≤ s.sid.now) : ∃ t, exec .twinTimeout s = .next t ∧ s.restKept t ∧ s.w.memoriesKept t.w
      ∧ t.w.twin.state = twinAlone ∧ t.w.twin.pending = [] ∧ s.w.saw t.w 3 (ioSource 10) 0x132 2 := by
  have hx : exec .twinTimeout s = .next { s with w := s.w.goAlone s.sid 2 } := next_of_serve hs (if_pos (by simp [hhead, htalks, hlate]))
  obtain ⟨hm, hstate, hpending, hsaw⟩ := s.w.goAlone_facts s.sid 2
  generalize s.w.goAlone s.sid 2 = u at *
  exact ⟨_, hx, s.restKept_world _, hm, hstate, hpending, hsaw⟩

end Others

/-- Settles O51: a frame that is heard changes only the twin operation before the digests are compared, and every rollback either finds a common
cask or stops the domain. -/
theorem twinsCompareAndRollBack : Obligations.TwinsCompareAndRollBack :=
  fun _ hs => ⟨fun _ hn hrole hj hdir hf hpos => twinDigestForm_sends hs hn hrole hj hdir hf hpos,
    fun _ htalks he hsend => twinDigestResend_sends hs htalks he hsend,
    fun _ hh => ⟨twinDigestFrame_repeated hs hh, fun hnew hreplay hown =>
      ⟨twinDigestFrame_matches hs hh hnew hreplay hown, twinDigestFrame_differs hs hh hnew hreplay hown⟩⟩,
    fun _ hh => ⟨rollback_rolls hs hh, rollback_repeated hs hh⟩,
    fun _ hh => twinFenceFrame_alone hs hh, twinTimeout_alone hs⟩

end Sys2Proof.Machine

namespace Sys2Proof.Machine

/-! ### Writes to HBM with a byte mask (R270, R397) -/

/-- The bytes that a mask lets through, stored one after the other from offset `a` on. -/
def maskStore (good : List Nat) : Nat → List (Bool × Byte) → Memory → Memory
  | _, [], m => m
  | a, (false, _) :: xs, m => maskStore good (a + 1) xs m
  | a, (true, b) :: xs, m => maskStore good (a + 1) xs (m.setByte (hbmKey good a) b)

section Stores
variable {good : List Nat}

theorem maskStore_outside : ∀ (xs : List (Bool × Byte)) (a : Nat) (m : Memory) {key : Nat},
    (∀ i < xs.length, (xs.getD i (false, 0)).1 = true → key ≠ hbmKey good (a + i)) → (maskStore good a xs m).byte key = m.byte key
  | [], _, _, _, _ => rfl
  | (c, b) :: xs, a, m, key, h => by
    have hrest : ∀ i < xs.length, (xs.getD i (false, 0)).1 = true → key ≠ hbmKey good (a + 1 + i) := fun i hi hc => by
      have := h (i + 1) (by simpa using hi) (by simpa using hc)
      rwa [show a + (i + 1) = a + 1 + i by omega] at this
    cases c with
    | false => exact maskStore_outside xs (a + 1) m hrest
    | true =>
      refine (maskStore_outside xs (a + 1) _ hrest).trans ?_
      rw [Memory.byte_setByte]
      exact if_neg (h 0 (by simp) rfl)

theorem maskStore_inside (hnd : good.Nodup) : ∀ (xs : List (Bool × Byte)) (a : Nat) (m : Memory), a + xs.length ≤ good.length * 2 ^ 31 →
    ∀ i < xs.length, (xs.getD i (false, 0)).1 = true → (maskStore good a xs m).byte (hbmKey good (a + i)) = (xs.getD i (false, 0)).2
  | [], _, _, _, i, hi, _ => absurd hi (Nat.not_lt_zero i)
  | (c, b) :: xs, a, m, hcap, i, hi, hc => by
    rw [List.length_cons] at hcap hi
    cases i with
    | zero =>
      have hc : c = true := hc
      subst hc
      refine (maskStore_outside xs (a + 1) _ fun j hj _ he => ?_).trans ?_
      · have := hbmKey_inj hnd (by omega) (by omega) he
        omega
      · rw [Memory.byte_setByte]
        exact if_pos rfl
    | succ i =>
      have h := fun m => maskStore_inside hnd xs (a + 1) m (by omega) i (by omega) (by simpa using hc)
      rw [show a + (i + 1) = a + 1 + i by omega]
      cases c with
      | false => exact h m
      | true => exact h _

end Stores

section Runs
variable {p : Nat}

/-- The bytes of one range, stored. -/
theorem World.hbmStore_hbm : ∀ (bs : List Byte) (w : World) (a : Nat),
    w.hbmStore p a bs = { w with hbm := maskStore (w.part p).good a (bs.map fun b => (true, b)) w.hbm }
  | [], _, _ => rfl
  | b :: bs, w, a => World.hbmStore_hbm bs { w with hbm := w.hbm.setByte (hbmKey (w.part p).good a) b } (a + 1)

/-- A run of a mask's bytes lies within the mask. -/
theorem maskRuns_within : ∀ (xs : List (Bool × Byte)) (i : Nat), ∀ r ∈ maskRuns i xs, i ≤ r.1 ∧ 0 < r.2.length ∧ r.1 + r.2.length ≤ i + xs.length
  | [], _, _, hr => absurd hr List.not_mem_nil
  | (c, b) :: xs, i, r, hr => by
    have ih := maskRuns_within xs (i + 1)
    have hlater : r ∈ maskRuns (i + 1) xs → i ≤ r.1 ∧ 0 < r.2.length ∧ r.1 + r.2.length ≤ i + ((c, b) :: xs).length := fun h => by
      have := ih r h
      rw [List.length_cons]
      omega
    unfold maskRuns at hr
    split at hr
    next => exact hlater hr
    next h =>
      obtain rfl := List.mem_singleton.mp hr
      simp
    next j bs ys h =>
      have hj := ih (j, bs) (by rw [h]; exact List.mem_cons_self)
      split at hr
      · obtain rfl | hr := List.mem_cons.mp hr
        · simp only [List.length_cons] at hj ⊢
          omega
        · exact hlater (by rw [h]; exact List.mem_cons_of_mem _ hr)
      · obtain rfl | hr := List.mem_cons.mp hr
        · simp
        · exact hlater (by rw [h]; exact hr)

/-- Runs of bytes, each with its place after `a`, stored in turn. -/
def storeRuns (good : List Nat) (a : Nat) : List (Nat × List Byte) → Memory → Memory
  | [], m => m
  | r :: rs, m => storeRuns good a rs (maskStore good (a + r.1) (r.2.map fun b => (true, b)) m)

theorem World.foldl_hbmStore (a : Nat) : ∀ (rs : List (Nat × List Byte)) (w : World),
    rs.foldl (fun w r => w.hbmStore p (a + r.1) r.2) w = { w with hbm := storeRuns (w.part p).good a rs w.hbm }
  | [], _ => rfl
  | r :: rs, w => by
    rw [List.foldl_cons, w.hbmStore_hbm]
    exact World.foldl_hbmStore a rs _

/-- The runs of a mask's bytes are the bytes that it lets through. -/
theorem storeRuns_maskRuns (good : List Nat) (a : Nat) : ∀ (xs : List (Bool × Byte)) (i : Nat) (m : Memory),
    storeRuns good a (maskRuns i xs) m = maskStore good (a + i) xs m
  | [], _, _ => rfl
  | (c, b) :: xs, i, m => by
    have ih := storeRuns_maskRuns good a xs (i + 1)
    unfold maskRuns
    split
    next => exact ih m
    next h =>
      have hnone := ih (m.setByte (hbmKey good (a + i)) b)
      rw [h] at hnone
      exact hnone
    next j bs ys h =>
      have hrest := ih (m.setByte (hbmKey good (a + i)) b)
      rw [h] at hrest
      split
      next hj =>
        subst hj
        exact hrest
      next => exact hrest

end Runs

section Writes
variable {w : World} {t : Sid} {p a n : Nat} {bs : List Byte} {mask : List Bool}

theorem rangesMeet_sub {b k lo m : Nat} (hk : 0 < k) (h1 : a ≤ b) (h2 : b + k ≤ a + n) (h : rangesMeet a n lo m = false) : rangesMeet b k lo m = false := by
  simp only [rangesMeet, Bool.and_eq_false_iff, decide_eq_false_iff_not] at h ⊢
  omega

theorem World.plainHbm_sub {b k : Nat} (hk : 0 < k) (h1 : a ≤ b) (h2 : b + k ≤ a + n) (h : w.plainHbm p a n) : w.plainHbm p b k := by
  obtain ⟨hnd, hcap, hhits, hdir⟩ := h
  refine ⟨hnd, by omega, ?_, fun e he => ⟨rangesMeet_sub hk h1 h2 (hdir e he).1, rangesMeet_sub hk h1 h2 (hdir e he).2⟩⟩
  simp only [World.guardHits, List.flatMap_eq_nil_iff, List.map_eq_nil_iff, List.filter_eq_nil_iff, Bool.and_eq_true, decide_eq_true_eq, not_and,
    Bool.not_eq_true] at hhits ⊢
  exact fun e he g hg hspace => rangesMeet_sub hk h1 h2 (hhits e he g hg hspace)

/-- Runs that land where no guard and no table lies are stored. -/
theorem World.foldl_hbmLand (src pos : Nat) : ∀ (rs : List (Nat × List Byte)) (w : World), (∀ r ∈ rs, w.plainHbm p (a + r.1) r.2.length) →
    ∃ g, rs.foldl (fun w r => World.hbmLand t src pos p (a + r.1) w r.2) w
      = { w with hbm := storeRuns (w.part p).good a rs w.hbm, fab := { w.fab with guards := g } }
  | [], w, _ => ⟨w.fab.guards, rfl⟩
  | r :: rs, w, h => by
    obtain ⟨g, hg⟩ := World.hbmLand_plain w t src pos (h r List.mem_cons_self)
    rw [w.hbmStore_hbm] at hg
    obtain ⟨g', hg'⟩ := World.foldl_hbmLand src pos rs
      { w with hbm := maskStore (w.part p).good (a + r.1) (r.2.map fun b => (true, b)) w.hbm, fab := { w.fab with guards := g } }
      fun r' hr' => h r' (List.mem_cons_of_mem _ hr')
    exact ⟨g', by rw [List.foldl_cons, hg, hg']; rfl⟩

/-- Which bytes of a write a mask lets through: without one, all of them. -/
def maskWrites (mask : List Bool) (i : Nat) : Prop := mask = [] ∨ mask.getD i false = true

/-- `m` is `w`'s HBM with the bytes of a range that a mask lets through. -/
def World.maskWrote (w : World) (m : Memory) (p a : Nat) (bs : List Byte) (mask : List Bool) : Prop :=
  (∀ i < bs.length, maskWrites mask i → m.byte (hbmKey (w.part p).good (a + i)) = bs.getD i 0)
    ∧ ∀ key, (∀ i < bs.length, maskWrites mask i → key ≠ hbmKey (w.part p).good (a + i)) → m.byte key = w.hbm.byte key

theorem zip_getD_mask (hlen : mask.length = bs.length) {i : Nat} (hi : i < bs.length) : (mask.zip bs).getD i (false, 0) = (mask.getD i false, bs.getD i 0) := by
  have hm : i < mask.length := by omega
  have hz : i < (mask.zip bs).length := by rw [List.length_zip]; omega
  rw [List.getD_eq_getElem _ _ hz, List.getD_eq_getElem _ _ hm, List.getD_eq_getElem _ _ hi, List.getElem_zip]

/-- Every byte of a range, stored. -/
theorem World.maskWrote_all (hnd : (w.part p).good.Nodup) (hcap : a + bs.length ≤ w.hbmCapacity p) (hall : mask.all id = true)
    (hlen : mask = [] ∨ mask.length = bs.length) : w.maskWrote (w.hbmStore p a bs).hbm p a bs mask := by
  have hwrites : ∀ i < bs.length, maskWrites mask i := fun i hi => hlen.imp_right fun h => by
    have hm : i < mask.length := by omega
    rw [List.getD_eq_getElem _ _ hm]
    exact List.all_eq_true.mp hall _ (List.getElem_mem hm)
  obtain ⟨hin, hout⟩ := World.hbmStore_wrote (w := w) (p := p) (a := a) (bs := bs) hnd hcap
  exact ⟨fun i hi _ => hin i hi, fun key h => hout key fun i hi => h i hi (hwrites i hi)⟩

/-- The runs of a mask, stored. -/
theorem World.maskWrote_runs (hnd : (w.part p).good.Nodup) (hcap : a + bs.length ≤ w.hbmCapacity p) (hsome : mask ≠ []) (hlen : mask.length = bs.length) :
    w.maskWrote (storeRuns (w.part p).good a (maskRuns 0 (mask.zip bs)) w.hbm) p a bs mask := by
  have hzip : (mask.zip bs).length = bs.length := by rw [List.length_zip]; omega
  have hbyte : ∀ i < bs.length, (maskWrites mask i ↔ ((mask.zip bs).getD i (false, 0)).1 = true) := fun i hi => by
    rw [zip_getD_mask hlen hi]
    exact ⟨fun h => h.resolve_left hsome, .inr⟩
  rw [storeRuns_maskRuns]
  refine ⟨fun i hi hw => ?_, fun key h => ?_⟩
  · have h := maskStore_inside hnd (mask.zip bs) a w.hbm (by rw [hzip]; exact hcap) i (by omega) ((hbyte i hi).mp hw)
    rw [zip_getD_mask hlen hi] at h
    exact h
  · refine maskStore_outside (mask.zip bs) _ w.hbm fun i hi hc => ?_
    exact h i (by omega) ((hbyte i (by omega)).mpr hc)

theorem World.hbmCountMask_eq (w : World) (p a n : Nat) (mask : List Bool) : ∃ c, w.hbmCountMask p a n mask = { w with counters := c } := by
  obtain ⟨c, hc⟩ := w.hbmCount_eq p a n true
  obtain ⟨c', h'⟩ := foldl_counters (f := fun (w : World) g =>
    if a ≤ g ∧ g + 256 ≤ a + n ∧ ((mask.drop (g - a)).take 256).all id = false then w.tick .hbc ((hbmLocate (w.part p).good g).1 / 32) 0x090 else w)
    (fun v g => by
      split
      · exact ⟨_, rfl⟩
      · exact ⟨_, rfl⟩) (grainsOf a n) (w.hbmCount p a n true)
  refine ⟨c', ?_⟩
  rw [World.hbmCountMask, h', hc]

/-- A write with a mask, where no guard and no table lies. -/
theorem World.hbmApplyMask_plain (src pos : Nat) (h : w.plainHbm p a bs.length) (hlen : mask = [] ∨ mask.length = bs.length) :
    ∃ m c g, w.hbmApplyMask t src pos p a bs mask = { w with hbm := m, counters := c, fab := { w.fab with guards := g } } ∧ w.maskWrote m p a bs mask := by
  unfold World.hbmApplyMask
  split
  next hall =>
    obtain ⟨c, g, hx⟩ := w.hbmApply_plain t src pos h
    refine ⟨(w.hbmStore p a bs).hbm, c, g, ?_, World.maskWrote_all h.1 h.2.1 hall hlen⟩
    rw [hx, w.hbmStore_hbm]
  next hsome =>
    have hne : mask ≠ [] := by rintro rfl; exact hsome rfl
    have hl := hlen.resolve_left hne
    obtain ⟨c, hc⟩ := w.hbmCountMask_eq p a bs.length mask
    obtain ⟨c', hc'⟩ := ({ w with counters := c } : World).ringGrains_eq src p a bs.length true
    obtain ⟨g, hg⟩ := World.foldl_hbmLand (t := t) (p := p) (a := a) src pos (maskRuns 0 (mask.zip bs)) { w with counters := c' } fun r hr => by
      obtain ⟨-, hpos, hend⟩ := maskRuns_within _ _ r hr
      have hzip : (mask.zip bs).length = bs.length := by rw [List.length_zip]; omega
      exact World.plainHbm_sub (w := w) hpos (by omega) (by omega) h
    refine ⟨_, c', g, ?_, World.maskWrote_runs h.1 h.2.1 hne hl⟩
    rw [hc, hc']
    exact hg

theorem World.hbmWriteMask_plain (src pos : Nat) (h : w.plainHbm p a bs.length) (hlen : mask = [] ∨ mask.length = bs.length) :
    ∃ m c g, w.hbmWriteMask t src pos p a bs mask = { w with hbm := m, counters := c, fab := { w.fab with guards := g } } ∧ w.maskWrote m p a bs mask := by
  unfold World.hbmWriteMask
  split
  next hall =>
    obtain ⟨c, g, hx⟩ := w.hbmWrite_plain t src pos h
    refine ⟨(w.hbmStore p a bs).hbm, c, g, ?_, World.maskWrote_all h.1 h.2.1 hall hlen⟩
    rw [hx, w.hbmStore_hbm]
  next =>
    rw [w.behindCatchup_of_plain h]
    exact World.hbmApplyMask_plain src pos h hlen

end Writes

end Sys2Proof.Machine

namespace Sys2Proof.Machine

/-! ### READ_REQ, READ_DATA, WRITE and WRITE_ACK (R251, R265, R266, R397) -/

section Rows
variable {w v : World} {p : Nat}

theorem World.tensor_of_bundle (hb : (v.part p).bundle = (w.part p).bundle) (id : Nat) : v.tensor p id = w.tensor p id := by
  rw [World.tensor, hb, World.tensor]

theorem World.ownPosition_of_position (hpos : v.fab.position = w.fab.position) : v.ownPosition = w.ownPosition := by
  rw [World.ownPosition, hpos, World.ownPosition]

theorem World.mapHome_of_same (hb : (v.part p).bundle = (w.part p).bundle) (hpos : v.fab.position = w.fab.position) (hc : v.config = w.config)
    (e : DirEntry) (row : Nat) : v.mapHome p e row = w.mapHome p e row := by
  unfold World.mapHome
  rw [World.tensor_of_bundle hb, hpos, hc, World.ownPosition_of_position hpos]

/-- Where a row lives turns on the bundle, the position and the configuration. -/
theorem World.homesRow_of_same (hb : (v.part p).bundle = (w.part p).bundle) (hpos : v.fab.position = w.fab.position) (hc : v.config = w.config)
    (e : DirEntry) (row : Nat) : v.homesRow p e row = w.homesRow p e row := by
  rw [World.homesRow, World.homeOf, World.mapHome_of_same hb hpos hc, World.ownPosition_of_position hpos, World.homesRow, World.homeOf]

theorem World.readsRow_of_same (hb : (v.part p).bundle = (w.part p).bundle) (hpos : v.fab.position = w.fab.position) (hc : v.config = w.config)
    (e : DirEntry) (row : Nat) : v.readsRow p e row = w.readsRow p e row := by
  rw [World.readsRow, World.homesRow_of_same hb hpos hc, World.isReplica, hpos, World.tensor_of_bundle hb, World.readsRow, World.isReplica]

/-- Where a range meets no pending version, no row of one begins. -/
theorem Part.rowAt_penBase_of_plain {off n : Nat} (hn : 0 < n) (h : w.plainHbm p off n) : (w.part p).rowAt DirEntry.penBase off = none := by
  obtain ⟨-, -, -, hdir⟩ := h
  rw [Part.rowAt, Option.map_eq_none_iff, List.find?_eq_none]
  intro e he hrow
  simp only [Bool.and_eq_true, decide_eq_true_eq] at hrow
  have hmeet := (hdir e he).1
  simp only [rangesMeet, Bool.and_eq_false_iff, decide_eq_false_iff_not] at hmeet
  omega

end Rows

section Requests
variable {s : State} {q : Packet}

theorem World.arrived_config (w : World) (t : Sid) (kind : Nat) : (w.arrived t kind q).config = w.config := by
  obtain ⟨v, f, hn, -, he⟩ := w.arrived_noted t kind q
  rw [he]
  exact hn.config

theorem World.arrived_position (w : World) (t : Sid) (kind : Nat) : (w.arrived t kind q).fab.position = w.fab.position := by
  obtain ⟨ps, hf⟩ := w.arrived_fab t kind q
  rw [hf]

theorem World.arrived_dir (w : World) (t : Sid) (kind p : Nat) : ((w.arrived t kind q).part p).dir = (w.part p).dir :=
  w.arrived_part_keeps t Part.dir (fun _ _ => rfl) (fun _ _ => rfl) kind q p

theorem World.arrived_bundle (w : World) (t : Sid) (kind p : Nat) : ((w.arrived t kind q).part p).bundle = (w.part p).bundle :=
  w.arrived_part_keeps t Part.bundle (fun _ _ => rfl) (fun _ _ => rfl) kind q p

theorem World.guardRemote_eq (w : World) (off n : Nat) : ∃ g, w.guardRemote q off n = { w with fab := { w.fab with guards := g } } := by
  unfold World.guardRemote
  split
  · exact ⟨_, rfl⟩
  · exact ⟨w.fab.guards, rfl⟩

/-- The answer to a READ_REQ leaves for the packet's source. -/
def World.answerRead (w : World) (t : Sid) (q : Packet) (b : List Byte) : World :=
  w.sendPacket t 0x02 q.src.toNat (ioSource 0) q.tag.toNat 0 false false b

/-- What a READ_REQ is answered with, where its grains have not failed and its row is read here. -/
theorem World.serveRead_of_good {w : World} {t : Sid} (hj : w.jobRuns 0 = true) (ha : addrSpace q.address.toNat ≠ 3)
    (hgood : w.hbmFailed 0 (addrOffset q.address.toNat) (leAt q.payload 0 4) = false)
    (hrow : ∀ x, (w.part 0).rowAt DirEntry.curBase (addrOffset q.address.toNat) = some x → w.readsRow 0 x.1 x.2 = true) :
    ∃ cs g, w.serveRead t q = ({ w with counters := cs, fab := { w.fab with guards := g } } : World).answerRead t q
      (if 0 < leAt q.payload 0 4 ∧ leAt q.payload 0 4 ≤ 2048 ∧ addrOffset q.address.toNat + leAt q.payload 0 4 ≤ w.hbmCapacity 0 then
        w.hbmRead 0 (addrOffset q.address.toNat) (leAt q.payload 0 4) else []) := by
  have hnone : (((w.part 0).rowAt DirEntry.curBase (addrOffset q.address.toNat)).bind fun x => if w.readsRow 0 x.1 x.2 then none else some x) = none := by
    cases hx : (w.part 0).rowAt DirEntry.curBase (addrOffset q.address.toNat) with
    | none => rfl
    | some x => exact if_pos (hrow x hx)
  unfold World.serveRead
  dsimp only
  rw [if_neg (by simp [hj, ha])]
  by_cases hfit : 0 < leAt q.payload 0 4 ∧ leAt q.payload 0 4 ≤ 2048 ∧ addrOffset q.address.toNat + leAt q.payload 0 4 ≤ w.hbmCapacity 0
  · obtain ⟨g, hg⟩ := w.guardRemote_eq (q := q) (addrOffset q.address.toNat) (leAt q.payload 0 4)
    obtain ⟨cs, hfetch⟩ := World.hbmFetch_eq { w with fab := { w.fab with guards := g } } (ioSource 0) 0 (addrOffset q.address.toNat) (leAt q.payload 0 4)
    rw [if_neg (by omega), if_neg (by simp [hgood]), hnone, if_pos hfit]
    refine ⟨cs, g, ?_⟩
    dsimp only
    rw [hg, hfetch]
    rfl
  · rw [if_pos (by omega), if_neg hfit]
    exact ⟨w.counters, w.fab.guards, rfl⟩

variable (hs : s.inService = true) (hc : s.w.comes q)
include hs hc

theorem readReq_answered (hj : s.w.jobRuns 0 = true) (hr : s.w.reaches q.src.toNat) (ha : addrSpace q.address.toNat ≠ 3)
    (hgood : s.w.hbmFailed 0 (addrOffset q.address.toNat) (leAt q.payload 0 4) = false)
    (hrow : ∀ x, (s.w.part 0).rowAt DirEntry.curBase (addrOffset q.address.toNat) = some x → s.w.readsRow 0 x.1 x.2 = true) :
    ∃ t, exec (.readReq q) s = .next t ∧ s.restKept t ∧ s.w.memoriesKept t.w ∧ s.w.sent t.w 2 q.src.toNat
      (if 0 < leAt q.payload 0 4 ∧ leAt q.payload 0 4 ≤ 2048 ∧ addrOffset q.address.toNat + leAt q.payload 0 4 ≤ s.w.hbmCapacity 0 then
        s.w.hbmRead 0 (addrOffset q.address.toNat) (leAt q.payload 0 4) else []) := by
  have hplain : pktMulticast q = false := hc.2.2.1
  have hheld := s.w.arrived_orderHeld s.sid 0x01 q hc.2.2.2.1
  have hreach := s.w.arrived_reaches s.sid 0x01 q hr
  have hmem := s.w.arrived_memories s.sid 0x01 q
  have hout := s.w.arrived_out s.sid 0x01 q
  have hpart := s.w.arrived_good s.sid 0x01 q 0
  have hdir := s.w.arrived_dir (q := q) s.sid 0x01 0
  have hreads := World.readsRow_of_same (s.w.arrived_bundle (q := q) s.sid 0x01 0) (s.w.arrived_position (q := q) s.sid 0x01)
    (s.w.arrived_config (q := q) s.sid 0x01)
  have hfailed := World.hbmFailed_of_good hpart (s.w.arrived_channels s.sid 0x01 q) (addrOffset q.address.toNat) (leAt q.payload 0 4)
  have hjob := s.w.arrived_jobRuns s.sid 0x01 q 0
  have hx := fun v (h : (s.w.arrived s.sid 0x01 q).serveRead s.sid q = v) => exec_packet_served (i := .readReq q) hs rfl (fun _ => ha) hc
    (v := v) (by rw [World.process, World.countMulticast_of_plain hplain]; exact h)
  generalize s.w.arrived s.sid 0x01 q = u at *
  obtain ⟨cs, g, hserve⟩ := World.serveRead_of_good (t := s.sid) (hjob.trans hj) ha (hfailed.trans hgood) fun x h => by
    rw [Part.rowAt, hdir] at h
    exact (hreads x.1 x.2).trans (hrow x h)
  rw [World.hbmCapacity_of_good hpart, World.hbmRead_of_good hpart hmem.1] at hserve
  have hmail := World.sendPacket_mailed { u with counters := cs, fab := { u.fab with guards := g } } s.sid 0x02 q.src.toNat (ioSource 0) q.tag.toNat 0 false false
    (if 0 < leAt q.payload 0 4 ∧ leAt q.payload 0 4 ≤ 2048 ∧ addrOffset q.address.toNat + leAt q.payload 0 4 ≤ s.w.hbmCapacity 0 then
        s.w.hbmRead 0 (addrOffset q.address.toNat) (leAt q.payload 0 4) else [])
  obtain ⟨p, hp, hdst, hpay⟩ := World.sendPacket_leaves { u with counters := cs, fab := { u.fab with guards := g } } s.sid 0x02 q.src.toNat (ioSource 0)
    q.tag.toNat 0 false false (if 0 < leAt q.payload 0 4 ∧ leAt q.payload 0 4 ≤ 2048 ∧ addrOffset q.address.toNat + leAt q.payload 0 4 ≤ s.w.hbmCapacity 0 then
        s.w.hbmRead 0 (addrOffset q.address.toNat) (leAt q.payload 0 4) else []) hreach
  unfold World.answerRead at hserve
  refine ⟨_, hx _ hserve (hmail.orderHeld.trans hheld), s.restKept_world _, hmem.trans hmail.memories, p, ?_, hdst, hpay⟩
  exact hp.trans (by rw [← hout])

/-- What READ_DATA does at its requester, which its response reaches first. -/
theorem exec_readData_served {v : World}
    (hv : ((s.w.arrived s.sid 0x02 q).responded s.sid q.tag.toNat).takeReadData s.sid q = v) (hf : v.fab.orderHeld = []) :
    exec (.readData q) s = .next { s with w := v } := by
  have hplain : pktMulticast q = false := hc.2.2.1
  exact exec_packet_served hs rfl (fun h => absurd h (by decide)) hc (by rw [World.process, World.countMulticast_of_plain hplain]; exact hv) hf

omit hs in
/-- What an arrival and its response leave. -/
theorem World.responded_arrived (kind : Nat) : s.w.memoriesKept ((s.w.arrived s.sid kind q).responded s.sid q.tag.toNat)
    ∧ ((s.w.arrived s.sid kind q).responded s.sid q.tag.toNat).out = s.w.out
    ∧ (∀ c, ((s.w.arrived s.sid kind q).responded s.sid q.tag.toNat).core c = s.w.core c)
    ∧ (∀ k, ((s.w.arrived s.sid kind q).responded s.sid q.tag.toNat).cluster k = s.w.cluster k)
    ∧ ((s.w.arrived s.sid kind q).responded s.sid q.tag.toNat).cores = s.w.cores
    ∧ ((s.w.arrived s.sid kind q).responded s.sid q.tag.toNat).fab.orderHeld = [] := by
  have hmem := s.w.arrived_memories s.sid kind q
  have hout := s.w.arrived_out s.sid kind q
  obtain ⟨hcores, hclusters⟩ := s.w.arrived_cores s.sid kind q
  have hheld := s.w.arrived_orderHeld s.sid kind q hc.2.2.2.1
  generalize s.w.arrived s.sid kind q = u at *
  have hresp := u.responded_mailed s.sid q.tag.toNat
  have ho := u.responded_out s.sid q.tag.toNat
  generalize u.responded s.sid q.tag.toNat = v at *
  refine ⟨hmem.trans hresp.memories, ho.trans hout, fun c => ?_, fun k => ?_, hresp.sent.cores.trans hcores, hresp.orderHeld.trans hheld⟩
  · rw [hresp.sent.core, World.core_of_cores hcores]
  · rw [hresp.sent.cluster, World.cluster, hclusters, World.cluster]

theorem readData_stream (r : AxeRun) (hkind : tagKind q.tag.toNat = 0) (hpay : q.payload ≠ [])
    (hrun : ((s.w.core (tagInst q.tag.toNat)).axe.streams.find? fun y => decide (y.waitTag = some q.tag.toNat)) = some r) :
    ∃ t, exec (.readData q) s = .next t ∧ s.restKept t ∧ s.w.memoriesKept t.w ∧ t.w.out = s.w.out
      ∧ (t.w.core (tagInst q.tag.toNat)).axe.streams = (s.w.core (tagInst q.tag.toNat)).axe.streams.map fun y =>
          if y.op.serial = r.op.serial then { y with fetched := y.fetched ++ q.payload, waitTag := none } else y := by
  obtain ⟨hmem, hout, hcore, -, -, hheld⟩ := World.responded_arrived hc 0x02
  have hx := fun v h => exec_readData_served (v := v) hs hc h
  generalize (s.w.arrived s.sid 0x02 q).responded s.sid q.tag.toNat = u at *
  have hdata : u.takeReadData s.sid q = u.updStream (tagInst q.tag.toNat) r.op.serial fun y =>
      { y with fetched := y.fetched ++ q.payload, waitTag := none } := by
    rw [World.takeReadData, hkind]
    show u.axeData s.sid q = _
    unfold World.axeData
    dsimp only
    rw [hcore, hrun]
    exact if_neg hpay
  refine ⟨_, hx _ hdata hheld, s.restKept_world _, hmem.trans (u.updCore_memories _ _), hout, ?_⟩
  rw [World.updStream, World.core_updCore, if_pos rfl, hcore]

theorem readData_gather (x : Nat × Nat) (o : IssuedOp) (rest : List IssuedOp) (hkind : tagKind q.tag.toNat = 3) (hpay : q.payload ≠ [])
    (hfind : ((s.w.cluster (tagInst q.tag.toNat)).gsu.remote.find? fun y => decide (y.1 = q.tag.toNat)) = some x)
    (hpend : (s.w.cluster (tagInst q.tag.toNat)).gsu.pending = o :: rest) :
    ∃ t, exec (.readData q) s = .next t ∧ s.restKept t ∧ s.w.memoriesKept t.w ∧ t.w.out = s.w.out
      ∧ AMap.get [] (t.w.cluster (tagInst q.tag.toNat)).gsu.rows x.2 = q.payload
      ∧ ∀ y ∈ (t.w.cluster (tagInst q.tag.toNat)).gsu.remote, y.1 ≠ q.tag.toNat := by
  obtain ⟨hmem, hout, -, hcluster, -, hheld⟩ := World.responded_arrived hc 0x02
  have hx := fun v h => exec_readData_served (v := v) hs hc h
  generalize (s.w.arrived s.sid 0x02 q).responded s.sid q.tag.toNat = u at *
  have htag : x.1 = q.tag.toNat := by simpa using List.find?_some hfind
  have hdata : u.takeReadData s.sid q = u.updGsu (tagInst q.tag.toNat) fun y =>
      { y with remote := y.remote.filter fun z => decide (z.1 ≠ x.1), rows := AMap.set [] y.rows x.2 q.payload } := by
    rw [World.takeReadData, hkind]
    show u.gsuData s.sid q = _
    unfold World.gsuData
    dsimp only
    rw [hcluster, hfind, hpend]
    exact if_neg hpay
  refine ⟨_, hx _ hdata hheld, s.restKept_world _, hmem.trans ⟨rfl, rfl, rfl, rfl⟩, hout, ?_, ?_⟩
  · rw [World.updGsu, World.cluster_updCluster_self]
    exact AMap.get_set_self [] _ _ _
  · rw [World.updGsu, World.cluster_updCluster_self]
    intro y hy
    rw [← htag]
    simpa using (List.mem_filter.mp hy).2

end Requests

section Writes
variable {s : State} {q : Packet}

/-- The acknowledgement of a WRITE leaves for the packet's source. -/
def World.ackWrite (w : World) (t : Sid) (q : Packet) (a : Nat) : World :=
  w.sendPacket t 0x04 q.src.toNat (ioSource 0) q.tag.toNat a false false []

/-- A WRITE of bytes that no guard, no table and no failed grain holds lands, and is acknowledged. -/
theorem World.serveWrite_of_plain {w : World} {t : Sid} (hj : w.jobRuns 0 = true) (ha : addrSpace q.address.toNat ≠ 3) (hq : pktMulticast q = false)
    (hpay : q.payload ≠ []) (hplain : w.plainHbm 0 (addrOffset q.address.toNat) q.payload.length)
    (hgood : w.hbmFailed 0 (addrOffset q.address.toNat) q.payload.length = false) :
    w.serveWrite t q = (w.hbmWriteMask t q.source.toNat q.src.toNat 0 (addrOffset q.address.toNat) q.payload q.mask).ackWrite t q 0 := by
  have hn : 0 < q.payload.length := List.length_pos_iff.mpr hpay
  have hfits : decide (addrOffset q.address.toNat + q.payload.length ≤ w.hbmCapacity 0) = true := decide_eq_true hplain.2.1
  have hcur : (w.currentHit 0 (addrOffset q.address.toNat) q.payload.length).isSome = false := by rw [World.currentHit_of_plain hplain]; rfl
  unfold World.serveWrite
  dsimp only
  rw [if_neg (by simp [hj, ha]), if_neg (by simp [hq]), hfits, if_neg (by decide), hcur, if_neg (by decide), Part.rowAt_penBase_of_plain hn hplain,
    if_neg (by simp [hgood])]
  rfl

theorem World.serveWrite_of_outside {w : World} {t : Sid} (hj : w.jobRuns 0 = true) (ha : addrSpace q.address.toNat ≠ 3) (hq : pktMulticast q = false)
    (hout : w.hbmCapacity 0 < addrOffset q.address.toNat + q.payload.length) : w.serveWrite t q = w.ackWrite t q q.address.toNat := by
  have hfits : decide (addrOffset q.address.toNat + q.payload.length ≤ w.hbmCapacity 0) = false := decide_eq_false (by omega)
  unfold World.serveWrite
  dsimp only
  rw [if_neg (by simp [hj, ha]), if_neg (by simp [hq]), hfits]
  exact if_pos rfl

variable (hs : s.inService = true) (hc : s.w.comes q) (hj : s.w.jobRuns 0 = true) (hr : s.w.reaches q.src.toNat)
  (ha : addrSpace q.address.toNat ≠ 3)
include hs hc hj hr ha

omit hj hr in
theorem exec_write_served {v : World} (hv : (s.w.arrived s.sid 0x03 q).serveWrite s.sid q = v) (hf : v.fab.orderHeld = []) :
    exec (.write q) s = .next { s with w := v } := by
  have hplain : pktMulticast q = false := hc.2.2.1
  exact exec_packet_served hs rfl (fun _ => ha) hc (by rw [World.process, World.countMulticast_of_plain hplain]; exact hv) hf

theorem write_lands (hpay : q.payload ≠ []) (hplain : s.w.plainHbm 0 (addrOffset q.address.toNat) q.payload.length)
    (hgood : s.w.hbmFailed 0 (addrOffset q.address.toNat) q.payload.length = false) (hmask : q.mask = [] ∨ q.mask.length = q.payload.length) :
    ∃ t, exec (.write q) s = .next t ∧ s.restKept t ∧ s.w.onlyHbm t.w
      ∧ s.w.grainWrote t.w 0 (addrOffset q.address.toNat) { data := q.payload, length := q.payload.length, mask := q.mask }
      ∧ s.w.sent t.w 4 q.src.toNat [] := by
  have hq : pktMulticast q = false := hc.2.2.1
  have hheld := s.w.arrived_orderHeld s.sid 0x03 q hc.2.2.2.1
  have hreach := s.w.arrived_reaches s.sid 0x03 q hr
  have hmem := s.w.arrived_memories s.sid 0x03 q
  have hout := s.w.arrived_out s.sid 0x03 q
  have hpart := s.w.arrived_good s.sid 0x03 q 0
  have hdir := s.w.arrived_dir (q := q) s.sid 0x03 0
  have hcores := (s.w.arrived_cores s.sid 0x03 q).1
  have hfailed := World.hbmFailed_of_good hpart (s.w.arrived_channels s.sid 0x03 q) (addrOffset q.address.toNat) q.payload.length
  have hjob := s.w.arrived_jobRuns s.sid 0x03 q 0
  have hx := fun v h => exec_write_served (v := v) hs hc ha h
  generalize s.w.arrived s.sid 0x03 q = u at *
  have hplain' : u.plainHbm 0 (addrOffset q.address.toNat) q.payload.length := by
    rw [World.plainHbm, hpart, World.hbmCapacity_of_good hpart, hdir, World.guardHits, hcores]
    exact hplain
  have hserve := World.serveWrite_of_plain (t := s.sid) (hjob.trans hj) ha hq hpay hplain' (hfailed.trans hgood)
  obtain ⟨m, cs, g, hw, hin, hother⟩ := World.hbmWriteMask_plain (t := s.sid) (mask := q.mask) q.source.toNat q.src.toNat hplain' hmask
  rw [hw] at hserve
  have hmail := World.sendPacket_mailed { u with hbm := m, counters := cs, fab := { u.fab with guards := g } } s.sid 0x04 q.src.toNat (ioSource 0)
    q.tag.toNat 0 false false []
  obtain ⟨p, hp, hdst, hpay'⟩ := World.sendPacket_leaves { u with hbm := m, counters := cs, fab := { u.fab with guards := g } } s.sid 0x04 q.src.toNat
    (ioSource 0) q.tag.toNat 0 false false [] hreach
  unfold World.ackWrite at hserve
  obtain ⟨hm1, hm2, hm3, hm4⟩ := hmail.memories
  obtain ⟨hu1, hu2, hu3, hu4⟩ := hmem
  refine ⟨_, hx _ hserve (hmail.orderHeld.trans hheld), s.restKept_world _,
    ⟨hm2.trans hu2, hm3.trans hu3, hm4.trans hu4⟩, ?_, p, hp.trans (by rw [← hout]), hdst, hpay'⟩
  rw [hpart] at hin hother
  unfold World.grainWrote
  dsimp only
  rw [List.take_length, hm1]
  exact ⟨hin, fun key h => (hother key h).trans (by rw [hu1])⟩

theorem write_outside (hcap : s.w.hbmCapacity 0 < addrOffset q.address.toNat + q.payload.length) :
    ∃ t x, exec (.write q) s = .next t ∧ s.restKept t ∧ s.w.memoriesKept t.w ∧ t.w.out = s.w.out ++ [.packet 4 x] ∧ x.dst.toNat = q.src.toNat
      ∧ x.address = q.address ∧ x.tag = q.tag := by
  have hq : pktMulticast q = false := hc.2.2.1
  have hheld := s.w.arrived_orderHeld s.sid 0x03 q hc.2.2.2.1
  have hreach := s.w.arrived_reaches s.sid 0x03 q hr
  have hmem := s.w.arrived_memories s.sid 0x03 q
  have hout := s.w.arrived_out s.sid 0x03 q
  have hroom := World.hbmCapacity_of_good (s.w.arrived_good s.sid 0x03 q 0)
  have hjob := s.w.arrived_jobRuns s.sid 0x03 q 0
  have hx := fun v h => exec_write_served (v := v) hs hc ha h
  generalize s.w.arrived s.sid 0x03 q = u at *
  have hserve := World.serveWrite_of_outside (t := s.sid) (hjob.trans hj) ha hq (by rw [hroom]; exact hcap)
  have hmail := u.sendPacket_mailed s.sid 0x04 q.src.toNat (ioSource 0) q.tag.toNat q.address.toNat false false []
  obtain ⟨p, hp, ho⟩ := u.sendPacket_leaves_packet s.sid 0x04 q.src.toNat (ioSource 0) q.tag.toNat q.address.toNat false false [] hreach
  unfold World.ackWrite at hserve
  refine ⟨_, p, hx _ hserve (hmail.orderHeld.trans hheld), s.restKept_world _, hmem.trans hmail.memories, ho.trans (by rw [hout]), ?_, ?_, ?_⟩
  · rw [hp.dst]
    simp
  · rw [hp.address]
    simp
  · rw [hp.tag]
    simp

end Writes

section Acks
variable {s : State} {q : Packet} (hs : s.inService = true) (hc : s.w.comes q)
include hs hc

omit hs hc in
theorem AMap.mem_put {α : Type} {k : Nat} {v : α} {e : Nat × α} : ∀ {m : AMap α}, e ∈ m.put k v → e = (k, v) ∨ e ∈ m
  | [], h => .inl (List.mem_singleton.mp h)
  | (a, x) :: r, h => by
    unfold AMap.put at h
    split at h
    · exact List.mem_cons.mp h
    · obtain rfl | h := List.mem_cons.mp h
      · exact .inr List.mem_cons_self
      · exact (AMap.mem_put h).imp_right (List.mem_cons_of_mem _)

omit hs hc in
theorem AMap.mem_set {α : Type} [DecidableEq α] {d : α} {m : AMap α} {k : Nat} {v : α} {e : Nat × α} (h : e ∈ AMap.set d m k v) : e = (k, v) ∨ e ∈ m := by
  unfold AMap.set at h
  split at h
  · exact .inr (List.mem_filter.mp h).1
  · exact (AMap.mem_put h).imp_right fun h => (List.mem_filter.mp h).1

omit hs hc in
/-- What a table reads at a key is its default, or listed. -/
theorem AMap.get_eq_or_mem {α : Type} (d : α) (k : Nat) : ∀ m : AMap α, AMap.get d m k = d ∨ (k, AMap.get d m k) ∈ m
  | [] => .inl rfl
  | (a, v) :: r => by
    unfold AMap.get
    split
    next h => exact .inr (by rw [h]; exact List.mem_cons_self)
    next => exact (AMap.get_eq_or_mem d k r).imp_right (List.mem_cons_of_mem _)

omit hs hc in
/-- A change to a core that leaves its guards leaves no guard where there was none. -/
theorem World.noGuards_updCore {w : World} {c : Nat} {f : Core → Core} (h : w.noGuards) (hf : ∀ x, (f x).axe.guards = x.axe.guards) : (w.updCore c f).noGuards := by
  intro e he
  obtain rfl | he := AMap.mem_set he
  · refine (hf _).trans ?_
    obtain hget | hget := AMap.get_eq_or_mem ({} : Core) c w.cores
    · rw [hget]
    · exact h _ hget
  · exact h e he

omit hs hc in
theorem World.guardHits_of_none {w : World} (h : w.noGuards) (space a n : Nat) : w.guardHits space a n = [] := by
  rw [World.guardHits, List.flatMap_eq_nil_iff]
  intro e he
  rw [h e he]
  rfl

theorem writeAck_completes (x : Nat × Nat) (hkind : tagKind q.tag.toNat = 1) (haddr : q.address = 0) (hg : s.w.noGuards)
    (hx : ((s.w.core (tagInst q.tag.toNat)).signals.find? fun y => decide (y.1 = q.tag.toNat)) = some x) :
    ∃ t, exec (.writeAck q) s = .next t ∧ s.restKept t ∧ s.w.memoriesKept t.w ∧ t.w.out = s.w.out
      ∧ (t.w.core (tagInst q.tag.toNat)).signals = (s.w.core (tagInst q.tag.toNat)).signals.filter fun y => decide (y.1 ≠ q.tag.toNat) := by
  have hplain : pktMulticast q = false := hc.2.2.1
  obtain ⟨hmem, hout, hcore, -, hcores, hheld⟩ := World.responded_arrived hc 0x04
  have hexec := fun v h => exec_packet_served (i := .writeAck q) (v := v) hs rfl (fun h => absurd h (by decide)) hc
    (show (s.w.arrived s.sid 0x04 q).process s.sid 0x04 q = v by rw [World.process, World.countMulticast_of_plain hplain]; exact h)
  generalize (s.w.arrived s.sid 0x04 q).responded s.sid q.tag.toNat = u at *
  have hack : u.takeWriteAck s.sid q = u.updCore (tagInst q.tag.toNat) fun y =>
      { y with signals := y.signals.filter fun z => decide (z.1 ≠ q.tag.toNat)
               axe := { y.axe with writes := y.axe.writes.filter fun z => decide (z.tag ≠ q.tag.toNat) } } := by
    have hguards := World.noGuards_updCore (w := u) (c := tagInst q.tag.toNat) (f := fun y =>
      { y with signals := y.signals.filter fun z => decide (z.1 ≠ q.tag.toNat)
               axe := { y.axe with writes := y.axe.writes.filter fun z => decide (z.tag ≠ q.tag.toNat) } })
      (by rw [World.noGuards, hcores]; exact hg) fun _ => rfl
    have haddr' : q.address.toNat = 0 := by rw [haddr]; rfl
    unfold World.takeWriteAck
    dsimp only
    rw [hkind, hcore, hx]
    dsimp only
    cases (s.w.core (tagInst q.tag.toNat)).axe.writes.find? fun y => decide (y.tag = q.tag.toNat) with
    | none => rfl
    | some y =>
      dsimp only
      rw [if_pos haddr', World.guardHits_of_none hguards, List.foldl_nil]
      rfl
  refine ⟨_, hexec _ hack hheld, s.restKept_world _, hmem.trans (u.updCore_memories _ _), hout, ?_⟩
  rw [World.core_updCore, if_pos rfl, hcore]

end Acks

/-- Settles O38: a packet's arrival leaves memories, cores and clusters, so what it names is found as it was sent. -/
theorem packetsReadAndWriteMemory : Obligations.PacketsReadAndWriteMemory :=
  fun _ _ hs hc => ⟨readReq_answered hs hc, readData_stream hs hc, readData_gather hs hc,
    fun hj hr ha => ⟨write_lands hs hc hj hr ha, write_outside hs hc hj hr ha⟩, writeAck_completes hs hc⟩

end Sys2Proof.Machine

namespace Sys2Proof.Machine

/-! ### What accesses of HBM count (R270, R403) -/

/-- The counters that an access of HBM may add to: its stack's and those of the rings. -/
def accessCounter (a : Nat) : Prop :=
  (∃ d, a = Block.orb.addr d 0x098) ∨ ∃ (b : Block) (i off : Nat), off ∈ [0x080, 0x088, 0x090] ∧ a = b.addr i off

/-- `v` is `w` but for the counters of accesses. -/
structure World.Counted (w v : World) : Prop where
  world : ∃ c, v = { w with counters := c }
  counter : ∀ a, ¬ accessCounter a → AMap.get 0 v.counters a = AMap.get 0 w.counters a

section Counted
variable {w v u : World}

theorem World.Counted.refl : w.Counted w := ⟨⟨w.counters, rfl⟩, fun _ _ => rfl⟩

theorem World.Counted.trans (h : w.Counted v) (g : v.Counted u) : w.Counted u := by
  obtain ⟨c, rfl⟩ := h.world
  obtain ⟨c', rfl⟩ := g.world
  exact ⟨⟨c', rfl⟩, fun a ha => (g.counter a ha).trans (h.counter a ha)⟩

theorem World.Counted.foldl {α : Type} {f : World → α → World} (h : ∀ (v : World) (x : α), v.Counted (f v x)) (xs : List α) (w : World) :
    w.Counted (xs.foldl f w) :=
  List.foldlRecOn xs f (motive := w.Counted) .refl fun v hv x _ => hv.trans (h v x)

variable (w)

theorem World.count_counted {a : Nat} (n : Nat) (h : accessCounter a) : w.Counted (w.count a n) :=
  ⟨⟨_, rfl⟩, fun _ hx => w.counter_count_ne n fun e => hx (e ▸ h)⟩

theorem accessCounter_of_offset (b : Block) (i : Nat) {off : Nat} (h : off ∈ [0x080, 0x088, 0x090]) : accessCounter (b.addr i off) := .inr ⟨b, i, off, h, rfl⟩

theorem World.hbmCount_counted (p a n : Nat) (isWrite : Bool) : w.Counted (w.hbmCount p a n isWrite) := by
  refine World.Counted.foldl (fun v g => ?_) _ w
  have h := v.count_counted 1 (accessCounter_of_offset .hbc ((hbmLocate (v.part p).good g).1 / 32) (off := if isWrite then 0x088 else 0x080)
    (by cases isWrite <;> decide))
  dsimp only
  split
  · exact h
  · exact h.trans (World.count_counted _ 1 (accessCounter_of_offset .hbc _ (by decide)))

theorem World.hbmCountMask_counted (p a n : Nat) (mask : List Bool) : w.Counted (w.hbmCountMask p a n mask) := by
  refine (w.hbmCount_counted p a n true).trans (World.Counted.foldl (fun v g => ?_) _ _)
  split
  · exact v.count_counted 1 (accessCounter_of_offset .hbc _ (by decide))
  · exact .refl

theorem World.ringLeg_counted (d x y n : Nat) : w.Counted (w.ringLeg d x y n) := by
  unfold World.ringLeg
  split
  · exact .refl
  · extract_lets off
    have hoff : off ∈ [0x080, 0x088, 0x090] := by
      simp only [off]
      split <;> decide
    exact (w.count_counted _ (.inl ⟨d, rfl⟩)).trans (World.count_counted _ n (accessCounter_of_offset .orb d hoff))

theorem World.ringCarry_counted (e y n : Nat) : ∀ (fuel : Nat) (w : World) (d x : Nat), w.Counted (w.ringCarry d x e y n fuel)
  | 0, _, _, _ => .refl
  | fuel + 1, w, d, x => by
    unfold World.ringCarry
    split
    · exact w.ringLeg_counted d x y n
    · split
      · exact ((w.ringLeg_counted d x 1 n).trans (World.count_counted _ n (accessCounter_of_offset .orb _ (by decide)))).trans
          (World.ringCarry_counted e y n fuel _ _ _)
      · exact ((w.ringLeg_counted d x 4 n).trans (World.count_counted _ n (accessCounter_of_offset .orb _ (by decide)))).trans
          (World.ringCarry_counted e y n fuel _ _ _)

theorem World.ringGrains_counted (src p a n : Nat) (isWrite : Bool) : w.Counted (w.ringGrains src p a n isWrite) := by
  refine World.Counted.foldl (fun v g => ?_) _ w
  dsimp only
  split
  · exact World.ringCarry_counted _ _ _ _ _ _ _
  · exact World.ringCarry_counted _ _ _ _ _ _ _

end Counted

/-! ### Writes of a grain (R270) -/

/-- `v` is `w` but for HBM, the counters of accesses and the marks of other modules' guards. -/
structure World.Landed (w v : World) : Prop where
  world : ∃ m c g, v = { w with hbm := m, counters := c, fab := { w.fab with guards := g } }
  counter : ∀ a, ¬ accessCounter a → AMap.get 0 v.counters a = AMap.get 0 w.counters a

section Masks
variable {w : World} {t : Sid} {p a : Nat} {bs : List Byte} {mask : List Bool}

/-- A write where no guard and no table lies counts as an access does. -/
theorem World.hbmApplyMask_counter (src pos : Nat) (h : w.plainHbm p a bs.length) (hlen : mask = [] ∨ mask.length = bs.length) {x : Nat}
    (hx : ¬ accessCounter x) : AMap.get 0 (w.hbmApplyMask t src pos p a bs mask).counters x = AMap.get 0 w.counters x := by
  have key : ∀ v : World, w.Counted v → v.plainHbm p a bs.length ∧ AMap.get 0 v.counters x = AMap.get 0 w.counters x := fun v hv => by
    have hc := hv.counter x hx
    obtain ⟨c, rfl⟩ := hv.world
    exact ⟨h, hc⟩
  unfold World.hbmApplyMask
  split
  next hall =>
    obtain ⟨hplain, hc⟩ := key _ ((w.hbmCount_counted p a bs.length true).trans (World.ringGrains_counted _ src p a bs.length true))
    obtain ⟨g, hg⟩ := World.hbmLand_plain _ t src pos hplain
    rw [World.hbmApply, hg, World.hbmStore_hbm]
    exact hc
  next hsome =>
    have hne : mask ≠ [] := by rintro rfl; exact hsome rfl
    have hl := hlen.resolve_left hne
    obtain ⟨hplain, hc⟩ := key _ ((w.hbmCountMask_counted p a bs.length mask).trans (World.ringGrains_counted _ src p a bs.length true))
    obtain ⟨g, hg⟩ := World.foldl_hbmLand (t := t) (p := p) (a := a) src pos (maskRuns 0 (mask.zip bs)) _ fun r hr => by
      obtain ⟨-, hpos, hend⟩ := maskRuns_within _ _ r hr
      have hzip : (mask.zip bs).length = bs.length := by rw [List.length_zip]; omega
      exact World.plainHbm_sub hpos (by omega) (by omega) hplain
    dsimp only
    rw [hg]
    exact hc

theorem World.hbmApplyMask_landed (src pos : Nat) (h : w.plainHbm p a bs.length) (hlen : mask = [] ∨ mask.length = bs.length) :
    w.Landed (w.hbmApplyMask t src pos p a bs mask) ∧ w.maskWrote (w.hbmApplyMask t src pos p a bs mask).hbm p a bs mask := by
  have hcounter := fun x hx => World.hbmApplyMask_counter (t := t) src pos h hlen (x := x) hx
  obtain ⟨m, c, g, he, hm⟩ := World.hbmApplyMask_plain (t := t) src pos h hlen
  rw [he] at hcounter ⊢
  exact ⟨⟨⟨m, c, g, rfl⟩, hcounter⟩, hm⟩

/-- A mask that is as long as the data, cut to the bytes that are written, lets the same of them through. -/
theorem World.maskWrote_take {m : Memory} {n : Nat} (h : w.maskWrote m p a (bs.take n) (mask.take n)) : w.maskWrote m p a (bs.take n) mask := by
  have hsame : ∀ i < (bs.take n).length, (maskWrites (mask.take n) i ↔ maskWrites mask i) := fun i hi => by
    have hn : i < n := by rw [List.length_take] at hi; omega
    have hnil : mask.take n = [] ↔ mask = [] := List.take_eq_nil_iff.trans ⟨fun h => h.resolve_left (by omega), .inr⟩
    rw [maskWrites, maskWrites, hnil, List.getD_eq_getElem?_getD, List.getElem?_take_of_lt hn, List.getD_eq_getElem?_getD]
  exact ⟨fun i hi hw => h.1 i hi ((hsame i hi).mpr hw), fun key hk => h.2 key fun i hi hw => hk i hi ((hsame i hi).mp hw)⟩

theorem World.maskWrote_grainWrote {v : World} {off : Nat} {x : GrainAccess} (h : w.maskWrote v.hbm p (off + x.first) (x.data.take x.length) x.mask) :
    w.grainWrote v p off x := by
  refine ⟨fun i hi hw => (h.1 i hi hw).trans ?_, h.2⟩
  have hn : i < x.length := by rw [List.length_take] at hi; omega
  rw [List.getD_eq_getElem?_getD, List.getElem?_take_of_lt hn, List.getD_eq_getElem?_getD]

theorem zip_take {α β : Type} : ∀ (n : Nat) (xs : List α) (ys : List β), xs.zip (ys.take n) = (xs.take n).zip (ys.take n)
  | 0, _, _ => by simp
  | _ + 1, [], _ => by simp
  | _ + 1, _ :: _, [] => by simp
  | n + 1, x :: xs, y :: ys => by rw [List.take_succ_cons, List.take_succ_cons, List.zip_cons_cons, List.zip_cons_cons, zip_take n xs ys]

/-- A write of the background class. -/
theorem World.hbmCopy_landed {n : Nat} (hnd : (w.part p).good.Nodup) (hcap : a + (bs.take n).length ≤ w.hbmCapacity p)
    (hlen : mask = [] ∨ mask.length = bs.length) :
    w.Landed (w.hbmCopy p a (bs.take n) mask) ∧ w.maskWrote (w.hbmCopy p a (bs.take n) mask).hbm p a (bs.take n) mask := by
  have hland : ∀ m : Memory, w.Landed (World.hbmCountMask { w with hbm := m } p a (bs.take n).length mask)
      ∧ (World.hbmCountMask { w with hbm := m } p a (bs.take n).length mask).hbm = m := fun m => by
    have h := World.hbmCountMask_counted { w with hbm := m } p a (bs.take n).length mask
    have hc := h.counter
    obtain ⟨c, he⟩ := h.world
    rw [he] at hc ⊢
    exact ⟨⟨⟨m, c, w.fab.guards, rfl⟩, hc⟩, rfl⟩
  have hcut : mask.take n = [] ∨ (mask.take n).length = (bs.take n).length := hlen.imp (fun h => by rw [h, List.take_nil])
    fun h => by rw [List.length_take, List.length_take, h]
  have hzip : mask.zip (bs.take n) = (mask.take n).zip (bs.take n) := zip_take n mask bs
  unfold World.hbmCopy
  extract_lets runs
  have hfold : runs.foldl (fun w r => w.hbmStore p (a + r.1) r.2) w = { w with hbm := storeRuns (w.part p).good a runs w.hbm } := World.foldl_hbmStore a runs w
  rw [hfold]
  obtain ⟨hl, hm⟩ := hland (storeRuns (w.part p).good a runs w.hbm)
  refine ⟨hl, ?_⟩
  rw [hm]
  refine World.maskWrote_take ?_
  simp only [runs]
  split
  next hall =>
    have hall' : (mask.take n).all id = true := List.all_eq_true.mpr fun x hx => List.all_eq_true.mp hall x (List.mem_of_mem_take hx)
    have h := World.maskWrote_all (w := w) (p := p) (a := a) hnd hcap hall' hcut
    rw [World.hbmStore_hbm] at h
    exact h
  next hsome =>
    rw [hzip]
    by_cases hne : mask.take n = []
    · have hnil : bs.take n = [] := by
        obtain rfl | rfl := List.take_eq_nil_iff.mp hne
        · exact List.take_zero
        · exact absurd rfl hsome
      rw [hne, hnil]
      exact ⟨fun i hi => absurd hi (Nat.not_lt_zero i), fun _ _ => rfl⟩
    · exact World.maskWrote_runs hnd hcap hne (hcut.resolve_left hne)

end Masks

end Sys2Proof.Machine

namespace Sys2Proof.Machine

/-! ### Channels that fail (R278, R280, R285) -/

/-- The memories, the channels and the partitions of a module are the same. -/
structure World.ChannelsKept (w v : World) : Prop where
  memories : w.memoriesKept v
  channels : v.channels = w.channels
  config : v.config = w.config

section Stops
variable {w v u : World}

theorem World.ChannelsKept.refl : w.ChannelsKept w := ⟨w.memoriesKept_refl, rfl, rfl⟩

theorem World.ChannelsKept.trans (h : w.ChannelsKept v) (g : v.ChannelsKept u) : w.ChannelsKept u :=
  ⟨h.memories.trans g.memories, g.channels.trans h.channels, g.config.trans h.config⟩

theorem World.ChannelsKept.foldl {α : Type} {f : World → α → World} (h : ∀ (v : World) (x : α), v.ChannelsKept (f v x)) (xs : List α) (w : World) :
    w.ChannelsKept (xs.foldl f w) :=
  List.foldlRecOn xs f (motive := w.ChannelsKept) .refl fun v hv x _ => hv.trans (h v x)

theorem World.Halted.channelsKept (h : w.Halted v) : w.ChannelsKept v := ⟨h.memories, h.channels, h.config⟩

theorem World.Noted.channelsKept (h : w.Noted v) : w.ChannelsKept v := ⟨h.noted.memories, h.noted.channels, h.noted.config⟩

theorem World.ChannelsKept.partOfChannel (h : w.ChannelsKept v) (c : Nat) : v.partOfChannel c = w.partOfChannel c := by
  rw [World.partOfChannel, World.ownerOfDie, h.config]
  rfl

variable (w) (t : Sid)

theorem World.updCore_channelsKept (c : Nat) (f : Core → Core) : w.ChannelsKept (w.updCore c f) := ⟨⟨rfl, rfl, rfl, rfl⟩, rfl, rfl⟩

theorem World.updCluster_channelsKept (k : Nat) (f : Cluster → Cluster) : w.ChannelsKept (w.updCluster k f) := ⟨⟨rfl, rfl, rfl, rfl⟩, rfl, rfl⟩

theorem World.setReg_channelsKept (a : Nat) (x : Word) : w.ChannelsKept (w.setReg a x) := ⟨⟨rfl, rfl, rfl, rfl⟩, rfl, rfl⟩

theorem World.stopJob_channelsKept (p cause src : Nat) : w.ChannelsKept (w.stopJob t p cause src) := (w.stopJob_halted t p cause src).channelsKept

theorem World.agentStop_channelsKept (p src : Nat) : w.ChannelsKept (w.agentStop t p src) := by
  unfold World.agentStop
  split
  · exact .refl
  · refine World.ChannelsKept.trans ?_ (World.stopJob_channelsKept _ t p 1 src)
    split
    · exact w.setReg_channelsKept _ _
    · split
      · exact w.setReg_channelsKept _ _
      · exact .refl

theorem World.axeStop_channelsKept (c : Nat) (o : IssuedOp) (queue index pos : Nat) : w.ChannelsKept (w.axeStop t c o stopMemory queue index pos) := by
  unfold World.axeStop
  dsimp only
  rw [if_pos rfl]
  exact (((w.updCore_channelsKept c _).trans (World.setReg_channelsKept _ _ _)).trans (World.updCore_channelsKept _ c _)).trans
    (World.stopJob_channelsKept _ t _ 1 _)

theorem World.gsuStop_channelsKept (k : Nat) (o : IssuedOp) (tensor row x : Nat) : w.ChannelsKept (w.gsuStop t k o tensor row (stopMemory, x)) := by
  unfold World.gsuStop
  dsimp only
  rw [if_pos rfl]
  exact ((((w.updCluster_channelsKept k _).trans (World.updCore_channelsKept _ o.core _)).trans (World.setReg_channelsKept _ _ _)).trans
    (World.setReg_channelsKept _ _ _)).trans (World.stopJob_channelsKept _ t _ 1 _)

theorem World.smpStop_channelsKept (k plan hop : Nat) (op : Option IssuedOp) (x : Nat) : w.ChannelsKept (w.smpStop t k plan hop op (stopMemory, x)) := by
  have h : w.ChannelsKept (op.elim (w.updSmp k fun x => { x with faulted := true, pending := [], run := none, item := none })
      fun o => (w.updSmp k fun x => { x with faulted := true, pending := [], run := none, item := none }).updCore o.core Core.faultSeq) := by
    cases op with
    | none => exact w.updCluster_channelsKept k _
    | some o => exact (w.updCluster_channelsKept k _).trans (World.updCore_channelsKept _ _ _)
  unfold World.smpStop
  dsimp only
  rw [if_pos rfl]
  exact ((h.trans (World.setReg_channelsKept _ _ _)).trans (World.setReg_channelsKept _ _ _)).trans (World.stopJob_channelsKept _ t _ 1 _)

/-- A unit whose access completes without data stops. -/
theorem World.memoryStop_channelsKept (src : Nat) : w.ChannelsKept (w.memoryStop t src) := by
  unfold World.memoryStop
  dsimp only
  split
  · exact w.agentStop_channelsKept t 0 src
  · split
    · exact .refl
    · split
      · split
        · exact .refl
        · exact w.axeStop_channelsKept t _ _ _ _ _
      · split
        · split
          · exact .refl
          · exact w.gsuStop_channelsKept t _ _ _ _ _
        · split
          · split
            · exact .refl
            · exact w.smpStop_channelsKept t _ _ _ _ _
          · exact .refl

theorem World.stopJob_not_running (p cause src : Nat) : ((w.stopJob t p cause src).part p).job ≠ .running := by
  by_cases h : (w.part p).job = .running
  · rw [w.stopJob_job t p h]
    exact nofun
  · have hk := (w.freezePart_stopKept t p cause src).trans (World.cancelDump_stopKept _ t p)
    rw [← hk.job p] at h
    have hsame : ∀ keep, (World.stopRun ((w.freezePart t p cause src).cancelDump t p) p keep) = (w.freezePart t p cause src).cancelDump t p := fun keep => by
      rw [World.stopRun, if_pos h]
    rw [World.stopJob, hsame]
    exact h

end Stops

/-! ### Map-out lists (R280, R285) -/

section Lists

theorem bitAt_eq_testBit (v i : Nat) : bitAt v i = v.testBit i := Nat.testBit_eq_decide_div_mod_eq.symm

theorem mem_mapoutList {r : MramRecord} {n i : Nat} : i ∈ mapoutList r n ↔ i < n ∧ (leNat r.body).testBit i = true := by
  rw [mapoutList, numbersWhere, List.mem_filter, List.mem_range, bitAt_eq_testBit]

theorem mem_mapoutList_writeBits {r : MramRecord} {bytes v i : Nat} : i ∈ mapoutList (r.writeBits bytes v) (8 * bytes) ↔ i < 8 * bytes ∧ v.testBit i = true := by
  have h : (256 : Nat) ^ bytes = 2 ^ (8 * bytes) := by rw [show 256 = 2 ^ 8 from rfl, ← Nat.pow_mul]
  rw [mem_mapoutList, MramRecord.writeBits, MramRecord.body_write, leNat_leBytes, h, Nat.testBit_mod_two_pow]
  simp

theorem mem_mapOutHbm (x : Sec) {c : Nat} (h : c < 256) : c ∈ mapoutList (x.mapOutHbm c).hbmMapout 256 :=
  mem_mapoutList_writeBits.mpr ⟨h, by simp [Nat.testBit_two_pow_self]⟩

theorem mem_mapOutCellar (x : Sec) {c : Nat} (h : c < 64) : c ∈ mapoutList (x.mapOutCellar c).cellarMapout 64 :=
  mem_mapoutList_writeBits.mpr ⟨h, by simp [Nat.testBit_two_pow_self]⟩

theorem mem_clearMapout (x : Sec) (stack : StackId) (clear : BitVec 32) {i : Nat} (hi : i < 256) :
    i ∈ mapoutList (x.clearMapout stack.val clear).hbmMapout 256
      ↔ i ∈ mapoutList x.hbmMapout 256 ∧ ¬ (i / 32 = stack.val ∧ clear.getLsbD (i % 32) = true) := by
  have hstack := stack.isLt
  have hclear : clear.toNat * 2 ^ (32 * stack.val) < 2 ^ 256 :=
    calc clear.toNat * 2 ^ (32 * stack.val) < 2 ^ 32 * 2 ^ (32 * stack.val) := Nat.mul_lt_mul_of_pos_right clear.isLt (Nat.two_pow_pos _)
      _ = 2 ^ (32 + 32 * stack.val) := (Nat.pow_add _ _ _).symm
      _ ≤ 2 ^ 256 := Nat.pow_le_pow_right (by decide) (by omega)
  have hbit : (clear.toNat * 2 ^ (32 * stack.val)).testBit i = true ↔ i / 32 = stack.val ∧ clear.getLsbD (i % 32) = true := by
    rw [Nat.testBit_mul_two_pow, Bool.and_eq_true, decide_eq_true_eq, BitVec.getLsbD]
    constructor
    · rintro ⟨hle, hb⟩
      have hlt : i - 32 * stack.val < 32 := by
        by_contra hge
        rw [Nat.testBit_lt_two_pow (Nat.lt_of_lt_of_le clear.isLt (Nat.pow_le_pow_right (by decide) (by omega)))] at hb
        cases hb
      rw [show i % 32 = i - 32 * stack.val by omega]
      exact ⟨by omega, hb⟩
    · rintro ⟨hdiv, hb⟩
      rw [show i - 32 * stack.val = i % 32 by omega]
      exact ⟨by omega, hb⟩
  rw [Sec.clearMapout]
  dsimp only
  generalize clear.toNat * 2 ^ (32 * stack.val) = m at *
  have hkeep : (2 ^ 256 - 1 - m).testBit i = !m.testBit i := by
    rw [Nat.sub_sub, Nat.add_comm 1 m, Nat.testBit_two_pow_sub_succ hclear, decide_eq_true hi, Bool.true_and]
  refine (mem_mapoutList_writeBits (bytes := 32)).trans ?_
  rw [show Nat.land (leNat x.hbmMapout.body) (2 ^ 256 - 1 - m) = leNat x.hbmMapout.body &&& (2 ^ 256 - 1 - m) from rfl,
    Nat.testBit_land, hkeep, mem_mapoutList, ← hbit, Bool.and_eq_true, Bool.not_eq_true', Bool.not_eq_true, and_assoc]

end Lists

end Sys2Proof.Machine

namespace Sys2Proof.Machine

/-! ### Accesses, retries and faults of channels (R270 to R285) -/

section Plain
variable {w v : World} {p a n : Nat}

/-- Guards and tables that are the same leave a range plain. -/
theorem World.plainHbm_of_same (hc : v.cores = w.cores) (hg : (v.part p).good = (w.part p).good) (hd : (v.part p).dir = (w.part p).dir)
    (h : w.plainHbm p a n) : v.plainHbm p a n := by
  simp only [World.plainHbm, World.hbmCapacity, World.guardHits, hc, hg, hd]
  exact h

theorem World.grainWrote_of_good {u : World} {off : Nat} {x : GrainAccess} (hg : (v.part p).good = (w.part p).good) (hm : v.hbm = w.hbm)
    (h : v.grainWrote u p off x) : w.grainWrote u p off x := by
  simp only [World.grainWrote, hg, hm] at h ⊢
  exact h

theorem hbc_not_access {st : Nat} (h : st < 8) : ¬ accessCounter (Block.hbc.addr st 0x098) := by
  rintro (⟨d, e⟩ | ⟨b, i, off, ho, e⟩)
  · simp only [Block.addr, Block.base] at e
    omega
  · simp only [List.mem_cons, List.not_mem_nil, or_false] at ho
    exact Block.addr_ne (by decide) (by omega) (by omega) e

theorem not_accessCounter {b : Block} {i off : Nat} (h : off < 0x1000) (hoff : off ∉ [0x080, 0x088, 0x090, 0x098]) : ¬ accessCounter (b.addr i off) := by
  simp only [List.mem_cons, List.not_mem_nil, or_false, not_or] at hoff
  rintro (⟨d, e⟩ | ⟨b', i', off', ho, e⟩)
  · exact Block.addr_ne h (by decide) (by omega) e
  · simp only [List.mem_cons, List.not_mem_nil, or_false] at ho
    exact Block.addr_ne h (by omega) (by omega) e

theorem hbc_not_noted {st : Nat} (h : st < 8) : ¬ notedCounter (Block.hbc.addr st 0x098) := by
  rintro (e | e | e | ⟨p, e⟩)
  · simp only [Block.addr, Block.base] at e
    omega
  · simp only [Block.addr, Block.base] at e
    omega
  · exact Block.addr_ne (by decide) (by decide) (by decide) e
  · exact Block.addr_ne (by decide) (by decide) (by decide) e

end Plain

section Grants
variable {s : State} {c off : Nat} {a : GrainAccess}

/-- A write of a grain that passes its checks, where no guard and no table lies. -/
theorem State.grantAccess_writes (hw : a.write = true) (hplain : s.w.plainHbm (s.w.partOfChannel c) (off + a.first) (a.data.take a.length).length)
    (hmask : a.mask = [] ∨ a.mask.length = a.data.length) :
    ∃ v, s.grantAccess c off a = { s with w := v } ∧ s.w.Landed v ∧ s.w.grainWrote v (s.w.partOfChannel c) off a := by
  have hcut : a.mask.take a.length = [] ∨ (a.mask.take a.length).length = (a.data.take a.length).length :=
    hmask.imp (fun h => by rw [h, List.take_nil]) fun h => by rw [List.length_take, List.length_take, h]
  unfold State.grantAccess
  dsimp only
  rw [if_pos hw]
  by_cases hcls : a.cls = 3
  · obtain ⟨hl, hm⟩ := World.hbmCopy_landed (w := s.w) (a := off + a.first) (n := a.length) (bs := a.data) hplain.1 hplain.2.1 hmask
    rw [if_pos hcls]
    exact ⟨_, rfl, hl, World.maskWrote_grainWrote hm⟩
  · obtain ⟨hl, hm⟩ := World.hbmApplyMask_landed (t := s.sid) a.writerSource.toNat a.writerPosition.toNat hplain hcut
    rw [if_neg hcls]
    exact ⟨_, rfl, hl, World.maskWrote_grainWrote (World.maskWrote_take hm)⟩

theorem State.corrected_facts (s : State) (c : Nat) : (s.corrected c).pwr = s.pwr ∧ (s.corrected c).sid = s.sid ∧ s.w.memoriesKept (s.corrected c).w
    ∧ (s.corrected c).w.counters = ((s.w.tick .hbc (c / 32) 0x0A0).count (Block.hbc.addr (c / 32) (0x200 + 8 * (c % 32))) 1).counters := by
  unfold State.corrected
  extract_lets w1 hour base n w2
  split
  · exact ⟨rfl, rfl, ⟨rfl, rfl, rfl, rfl⟩, rfl⟩
  · exact ⟨rfl, rfl, ⟨rfl, rfl, rfl, rfl⟩, rfl⟩

end Grants

section Channel
variable {s : State} {channel : ChannelId} {grain off : Nat}

/-- What an access of a channel in service meets. -/
theorem State.onChannel_eq (hs : s.inService = true) (hoff : s.w.grainOffset channel.val grain = some off) (hch : AMap.get 0 s.w.channels channel.val ≠ 2)
    (issuer : Option Nat) (f : State → Nat → State) : s.onChannel channel.val grain issuer f = f s off := by
  rw [State.onChannel, if_neg (by rw [hs]; exact Bool.noConfusion), hoff]
  exact if_neg hch

theorem forwards_setReg_hbc {w : World} {sev st off : Nat} {x : Word} (h : w.forwards sev) (h1 : off < 0x1000) (h2 : off ≠ 0x008) :
    (w.setReg (Block.hbc.addr st off) x).forwards sev :=
  h.of_same (by rw [World.reg_setReg, if_neg (Block.addr_ne (by decide) h1 (Ne.symm h2))]) rfl

theorem hbcSource_lt {st : Nat} (h : st < 8) : hbcSource st < 65536 := by
  rw [hbcSource, sourceOf]
  omega

/-- A channel that has failed, before the units that wait for it stop. -/
def World.channelFailed (w : World) (c cause : Nat) : World :=
  let v := { w with channels := AMap.set 0 w.channels c 2 }
  let v := v.setReg (Block.hbc.addr (c / 32) 0x018) (mkField 1 0 4 ||| mkField cause 4 4 ||| mkField (c % 32) 8 5 ||| mkField 1 63 1)
  let v := if cause = 1 then v.tick .hbc (c / 32) 0x0A8 else v
  { v with parityHeld := AMap.set [] v.parityHeld c [] }

theorem World.channelFailed_facts (w : World) (c cause : Nat) : let v := w.channelFailed c cause
    w.memoriesKept v ∧ AMap.get 0 v.channels c = 2 ∧ v.config = w.config ∧ v.uzo = w.uzo ∧ (∀ sev, w.forwards sev → v.forwards sev) := by
  have hf : ∀ sev, w.forwards sev → (World.setReg { w with channels := AMap.set 0 w.channels c 2 } (Block.hbc.addr (c / 32) 0x018)
      (mkField 1 0 4 ||| mkField cause 4 4 ||| mkField (c % 32) 8 5 ||| mkField 1 63 1)).forwards sev :=
    fun sev h => forwards_setReg_hbc (w := { w with channels := AMap.set 0 w.channels c 2 }) h (by decide) (by decide)
  unfold World.channelFailed
  by_cases hcause : cause = 1
  · simp only [if_pos hcause]
    exact ⟨⟨rfl, rfl, rfl, rfl⟩, AMap.get_set_self 0 w.channels c 2, rfl, rfl, hf⟩
  · simp only [if_neg hcause]
    exact ⟨⟨rfl, rfl, rfl, rfl⟩, AMap.get_set_self 0 w.channels c 2, rfl, rfl, hf⟩

/-- The units whose accesses complete without data stop, and the fault is reported. -/
def World.channelReported (w : World) (t : Sid) (c cause : Nat) (xs : List Nat) : World :=
  (xs.foldl (fun w x => w.memoryStop t x) (w.channelFailed c cause)).raise t (hbcSource (c / 32)) 0x112 (c + cause * 2 ^ 24)

theorem State.channelFault_eq (s : State) (c cause : Nat) (issuer : Option Nat) :
    ∃ xs, (issuer = none → AMap.get [] s.w.parityHeld c = [] → xs = []) ∧ s.channelFault c cause issuer = { s with
      sec := s.sec.mapOutHbm c
      w := (s.w.channelReported s.sid c cause xs).stopJob s.sid ((s.w.channelReported s.sid c cause xs).partOfChannel c) 1 (hbcSource (c / 32)) } := by
  refine ⟨_, fun hissuer hheld => ?_, rfl⟩
  rw [hissuer]
  split
  · simp only [World.tick, World.count, World.setReg, hheld]
    rfl
  · simp only [World.setReg, hheld]
    rfl

/-- A channel fault: the channel is failed and mapped out, and the job of its partition stops. -/
theorem State.channelFault_facts (s : State) (cause : Nat) (issuer : Option Nat) :
    ∃ t, s.channelFault channel.val cause issuer = t ∧ t.pwr = s.pwr ∧ t.sid = s.sid ∧ AMap.get 0 t.w.channels channel.val = 2
      ∧ channel.val ∈ mapoutList t.sec.hbmMapout 256 ∧ (t.w.part (s.w.partOfChannel channel.val)).job ≠ .running ∧ s.w.memoriesKept t.w
      ∧ (issuer = none → AMap.get [] s.w.parityHeld channel.val = [] → s.w.forwards 3 →
          s.w.raised t.w (hbcSource (channel.val / 32)) 0x112 (channel.val + cause * 2 ^ 24)) := by
  have hlt : channel.val < 256 := channel.isLt
  obtain ⟨xs, hxs, he⟩ := s.channelFault_eq channel.val cause issuer
  obtain ⟨hmem, hbad, hconfig, huzo, hf⟩ := s.w.channelFailed_facts channel.val cause
  have hown : (s.w.channelFailed channel.val cause).partOfChannel channel.val = s.w.partOfChannel channel.val := by
    rw [World.partOfChannel, World.ownerOfDie, hconfig]
    rfl
  have hunits : (s.w.channelFailed channel.val cause).ChannelsKept (xs.foldl (fun w x => w.memoryStop s.sid x) (s.w.channelFailed channel.val cause)) :=
    .foldl (f := fun w x => w.memoryStop s.sid x) (fun v x => v.memoryStop_channelsKept s.sid x) _ _
  have hreport := hunits.trans (World.raise_Noted _ s.sid (hbcSource (channel.val / 32)) 0x112 (channel.val + cause * 2 ^ 24)).channelsKept
  have hraised : issuer = none → AMap.get [] s.w.parityHeld channel.val = [] → s.w.forwards 3 →
      s.w.raised (s.w.channelReported s.sid channel.val cause xs) (hbcSource (channel.val / 32)) 0x112 (channel.val + cause * 2 ^ 24) := fun hi hh hfor => by
    rw [World.channelReported, hxs hi hh]
    exact (World.raise_raised (w := s.w.channelFailed channel.val cause) (t := s.sid) (code := 0x112) (payload := channel.val + cause * 2 ^ 24)
      (hf 3 hfor) (hbcSource_lt (by omega)) (by decide)).of_same huzo
  rw [← World.channelReported] at hreport
  generalize s.w.channelReported s.sid channel.val cause xs = v at *
  rw [hreport.partOfChannel, hown] at he
  have hh := v.stopJob_halted s.sid (s.w.partOfChannel channel.val) 1 (hbcSource (channel.val / 32))
  have hjob := v.stopJob_not_running s.sid (s.w.partOfChannel channel.val) 1 (hbcSource (channel.val / 32))
  generalize v.stopJob s.sid (s.w.partOfChannel channel.val) 1 (hbcSource (channel.val / 32)) = u at *
  refine ⟨_, he, rfl, rfl, ?_, mem_mapOutHbm _ hlt, hjob, (hmem.trans hreport.memories).trans hh.memories, fun hi hheld hfor => ?_⟩
  · rw [hh.channels, hreport.channels]
    exact hbad
  · have h := hraised hi hheld hfor
    rw [World.raised] at h ⊢
    rw [hh.uzo]
    exact h

/-! ### The accesses of a channel -/

theorem grainWrite_lands (hs : s.inService = true) {a : GrainAccess} (hoff : s.w.grainOffset channel.val a.grain = some off)
    (hch : AMap.get 0 s.w.channels channel.val ≠ 2) (hok : a.parityOk = true)
    (hfree : ∀ y ∈ AMap.get [] s.w.parityHeld channel.val, y.grain ≠ a.grain) (hw : a.write = true)
    (hplain : s.w.plainHbm (s.w.partOfChannel channel.val) (off + a.first) (a.data.take a.length).length)
    (hmask : a.mask = [] ∨ a.mask.length = a.data.length) :
    ∃ t, exec (.hbmGrainAccess channel a) s = .next t ∧ s.restKept t ∧ s.w.onlyHbm t.w ∧ s.w.grainWrote t.w (s.w.partOfChannel channel.val) off a := by
  obtain ⟨v, hv, hland, hwrote⟩ := State.grantAccess_writes (s := s) (c := channel.val) hw hplain hmask
  refine ⟨s.grantAccess channel.val off a, ?_, ?_, ?_, ?_⟩
  · show execHbmGrainAccess channel a s = _
    rw [execHbmGrainAccess, State.onChannel_eq hs hoff hch]
    dsimp only
    rw [if_pos ⟨hok, List.all_eq_true.mpr fun y hy => decide_eq_true (hfree y hy)⟩]
  · rw [hv]
    exact s.restKept_world v
  · rw [hv]
    obtain ⟨m, k, g, rfl⟩ := hland.world
    exact ⟨rfl, rfl, rfl⟩
  · rw [hv]
    exact hwrote

theorem grainRead_corrected (hs : s.inService = true) {a : GrainAccess} (hoff : s.w.grainOffset channel.val a.grain = some off)
    (hch : AMap.get 0 s.w.channels channel.val ≠ 2) (hok : a.parityOk = true)
    (hfree : ∀ y ∈ AMap.get [] s.w.parityHeld channel.val, y.grain ≠ a.grain) (hw : a.write = false) (hcor : a.corrected = true)
    (hunc : a.uncorrectable = false) :
    ∃ t, exec (.hbmGrainAccess channel a) s = .next t ∧ t.pwr = s.pwr ∧ t.sid = s.sid ∧ s.w.memoriesKept t.w
      ∧ AMap.get 0 t.w.counters (Block.hbc.addr (channel.val / 32) 0x0A0) = AMap.get 0 s.w.counters (Block.hbc.addr (channel.val / 32) 0x0A0) + 1
      ∧ AMap.get 0 t.w.counters (Block.hbc.addr (channel.val / 32) (0x200 + 8 * (channel.val % 32))) =
        AMap.get 0 s.w.counters (Block.hbc.addr (channel.val / 32) (0x200 + 8 * (channel.val % 32))) + 1 := by
  have hcount := s.w.hbmCount_counted (s.w.partOfChannel channel.val) (off + a.first) a.length false
  have hexec : exec (.hbmGrainAccess channel a) s
      = .next ({ s with w := s.w.hbmCount (s.w.partOfChannel channel.val) (off + a.first) a.length false }.corrected channel.val) := by
    show execHbmGrainAccess channel a s = _
    rw [execHbmGrainAccess, State.onChannel_eq hs hoff hch]
    dsimp only
    rw [if_pos ⟨hok, List.all_eq_true.mpr fun y hy => decide_eq_true (hfree y hy)⟩, State.grantAccess]
    dsimp only
    rw [if_neg (by rw [hw]; exact Bool.noConfusion), if_neg (by rw [hunc]; exact Bool.noConfusion), if_pos hcor]
  generalize s.w.hbmCount (s.w.partOfChannel channel.val) (off + a.first) a.length false = v at *
  obtain ⟨hpwr, hsid, hmem, hcounters⟩ := State.corrected_facts { s with w := v } channel.val
  have hvmem : s.w.memoriesKept v := by
    obtain ⟨k, rfl⟩ := hcount.world
    exact ⟨rfl, rfl, rfl, rfl⟩
  have hlow : 0x200 + 8 * (channel.val % 32) < 0x1000 := by omega
  refine ⟨_, hexec, hpwr, hsid, hvmem.trans hmem, ?_, ?_⟩
  · rw [hcounters, World.counter_count_ne _ 1 (Block.addr_ne (by decide) hlow (by omega)), World.tick, World.counter_count_self,
      hcount.counter _ (not_accessCounter (by decide) (by decide))]
    rfl
  · rw [hcounters, World.counter_count_self, World.tick, World.counter_count_ne _ 1 (Block.addr_ne hlow (by decide) (by omega)),
      hcount.counter _ (not_accessCounter hlow (by simp only [List.mem_cons, List.not_mem_nil, or_false]; omega))]
    rfl

theorem grainAccess_waits (hs : s.inService = true) {a : GrainAccess} (hoff : s.w.grainOffset channel.val a.grain = some off)
    (hch : AMap.get 0 s.w.channels channel.val ≠ 2)
    (h : a.parityOk = false ∨ ¬ ∀ y ∈ AMap.get [] s.w.parityHeld channel.val, y.grain ≠ a.grain) :
    exec (.hbmGrainAccess channel a) s = .next { s with w := { s.w with
      parityHeld := AMap.set [] s.w.parityHeld channel.val (AMap.get [] s.w.parityHeld channel.val ++ [a]) } } := by
  show execHbmGrainAccess channel a s = _
  rw [execHbmGrainAccess, State.onChannel_eq hs hoff hch]
  dsimp only
  rw [if_neg]
  · rfl
  · rintro ⟨hok, hall⟩
    obtain hf | hn := h
    · rw [hok] at hf
      cases hf
    · exact hn fun y hy => of_decide_eq_true (List.all_eq_true.mp hall y hy)

/-- A retry of a channel counts, and the channel has had one in this step. -/
def World.retrying (w : World) (c : Nat) : World :=
  { w.tick .hbc (c / 32) 0x098 with parityStep := AMap.set false w.parityStep c true }

/-- A retry of a channel: the first in a step is reported. -/
def World.retried (w : World) (t : Sid) (c : Nat) : World :=
  if !(AMap.get false w.parityStep c) then (w.retrying c).raise t (hbcSource (c / 32)) 0x111 c else w.retrying c

theorem World.retried_facts (w : World) (t : Sid) (hc : channel.val / 32 < 8) : let v := w.retried t channel.val
    w.memoriesKept v ∧ v.cores = w.cores ∧ v.config = w.config ∧ v.parityHeld = w.parityHeld
      ∧ (∀ p, (v.part p).good = (w.part p).good ∧ (v.part p).dir = (w.part p).dir)
      ∧ AMap.get 0 v.counters (Block.hbc.addr (channel.val / 32) 0x098) =
      AMap.get 0 w.counters (Block.hbc.addr (channel.val / 32) 0x098) + 1
      ∧ (AMap.get false w.parityStep channel.val = false → w.forwards 1 → w.raised v (hbcSource (channel.val / 32)) 0x111 channel.val)
      ∧ (AMap.get false w.parityStep channel.val = true → v.uzo = w.uzo) := by
  unfold World.retried
  have hcounter : AMap.get 0 (w.retrying channel.val).counters (Block.hbc.addr (channel.val / 32) 0x098) =
      AMap.get 0 w.counters (Block.hbc.addr (channel.val / 32) 0x098) + 1 :=
    w.counter_count_self _ 1
  have hforwards : w.forwards 1 → (w.retrying channel.val).forwards 1 := fun h => h
  have hv : w.memoriesKept (w.retrying channel.val) ∧ (w.retrying channel.val).cores = w.cores ∧ (w.retrying channel.val).config = w.config
      ∧ (w.retrying channel.val).parityHeld = w.parityHeld ∧ (w.retrying channel.val).uzo = w.uzo ∧ (w.retrying channel.val).parts = w.parts :=
    ⟨⟨rfl, rfl, rfl, rfl⟩, rfl, rfl, rfl, rfl, rfl⟩
  generalize w.retrying channel.val = v at *
  obtain ⟨hmem, hcores, hconfig, hheld, huzo, hparts⟩ := hv
  have hpart : ∀ p, v.part p = w.part p := fun p => World.part_of_parts hparts p
  dsimp only
  split
  next hfirst =>
    have hfirst : AMap.get false w.parityStep channel.val = false := by simpa using hfirst
    have hn := v.raise_Noted t (hbcSource (channel.val / 32)) 0x111 channel.val
    have hr := fun h => (World.raise_raised (w := v) (t := t) (code := 0x111) (payload := channel.val) h (hbcSource_lt hc) (by decide)).of_same huzo
    generalize v.raise t (hbcSource (channel.val / 32)) 0x111 channel.val = u at *
    refine ⟨hmem.trans hn.noted.memories, hn.noted.cores.trans hcores, hn.noted.config.trans hconfig, hn.noted.parityHeld.trans hheld, fun p => ?_,
      (hn.counter _ (hbc_not_noted hc)).trans hcounter, fun _ hf => hr (hforwards hf), fun ht => absurd (hfirst.symm.trans ht) Bool.noConfusion⟩
    rw [hn.noted.part_keeps Part.good fun _ _ => rfl, hn.noted.part_keeps Part.dir fun _ _ => rfl, hpart]
    exact ⟨rfl, rfl⟩
  next hlater =>
    have hlater : AMap.get false w.parityStep channel.val = true := by simpa using hlater
    exact ⟨hmem, hcores, hconfig, hheld, fun p => by rw [hpart]; exact ⟨rfl, rfl⟩, hcounter, fun hf => absurd (hf.symm.trans hlater) Bool.noConfusion,
      fun _ => huzo⟩

theorem execParityRetry_eq (hs : s.inService = true) {a : GrainAccess} (attempt : Nat) (hoff : s.w.grainOffset channel.val a.grain = some off)
    (hch : AMap.get 0 s.w.channels channel.val ≠ 2) : exec (.parityRetry channel a attempt) s = .next (
      let u : State := { s with w := s.w.retried s.sid channel.val }
      let xs := AMap.get [] u.w.parityHeld channel.val
      let rest := (xs.find? fun y => decide (y.grain = a.grain)).elim xs xs.erase
      if a.parityOk then State.releaseGrain channel.val off a.grain xs.length ((u.setHeld channel.val rest).grantAccess channel.val off a)
      else if 4 ≤ attempt then u.channelFault channel.val 0 (some a.writerSource.toNat)
      else u.setHeld channel.val (if xs.any fun y => decide (y.grain = a.grain) then xs else xs ++ [a])) := by
  show execParityRetry channel a attempt s = _
  rw [execParityRetry, State.onChannel_eq hs hoff hch]
  rfl

theorem parityRetry_passes (hs : s.inService = true) {a : GrainAccess} (attempt : Nat) (hoff : s.w.grainOffset channel.val a.grain = some off)
    (hch : AMap.get 0 s.w.channels channel.val ≠ 2) (hok : a.parityOk = true) (hheld : AMap.get [] s.w.parityHeld channel.val = [a])
    (hw : a.write = true) (hplain : s.w.plainHbm (s.w.partOfChannel channel.val) (off + a.first) (a.data.take a.length).length)
    (hmask : a.mask = [] ∨ a.mask.length = a.data.length) :
    ∃ t, exec (.parityRetry channel a attempt) s = .next t ∧ s.restKept t ∧ s.w.onlyHbm t.w ∧ s.w.grainWrote t.w (s.w.partOfChannel channel.val) off a
      ∧ AMap.get [] t.w.parityHeld channel.val = []
      ∧ AMap.get 0 t.w.counters (Block.hbc.addr (channel.val / 32) 0x098) = AMap.get 0 s.w.counters (Block.hbc.addr (channel.val / 32) 0x098) + 1 := by
  have hc : channel.val / 32 < 8 := by have := channel.isLt; omega
  have hfind : ([a] : List GrainAccess).find? (fun y => decide (y.grain = a.grain)) = some a := List.find?_cons_of_pos (decide_eq_true rfl)
  obtain ⟨hmem, hcores, hconfig, hpar, hpart, hcounter, -, -⟩ := s.w.retried_facts s.sid hc
  have hexec := execParityRetry_eq hs attempt hoff hch
  generalize s.w.retried s.sid channel.val = v at *
  dsimp only at hexec
  rw [hpar, hheld, if_pos hok, hfind] at hexec
  have hown : v.partOfChannel channel.val = s.w.partOfChannel channel.val := by
    rw [World.partOfChannel, World.ownerOfDie, hconfig]
    rfl
  obtain ⟨hgood, hdir⟩ := hpart (s.w.partOfChannel channel.val)
  have hplain' := World.plainHbm_of_same hcores hgood hdir hplain
  rw [← hown] at hplain'
  have hset : (({ s with w := v } : State).setHeld channel.val (Option.elim (some a) [a] ([a] : List GrainAccess).erase))
      = { s with w := { v with parityHeld := AMap.set [] v.parityHeld channel.val [] } } := by
    rw [Option.elim, List.erase_cons_head (α := GrainAccess)]
    rfl
  rw [hset] at hexec
  obtain ⟨x, hx, hland, hwrote⟩ := State.grantAccess_writes (s := { s with w := { v with parityHeld := AMap.set [] v.parityHeld channel.val [] } })
    (c := channel.val) hw hplain' hmask
  have hempty : AMap.get [] x.parityHeld channel.val = [] := by
    obtain ⟨m, k, g, rfl⟩ := hland.world
    exact AMap.get_set_self [] v.parityHeld channel.val []
  have hrelease : State.releaseGrain channel.val off a.grain [a].length { s with w := x } = { s with w := x } := by
    rw [List.length_singleton, State.releaseGrain]
    dsimp only
    rw [hempty]
    rfl
  rw [hx] at hexec
  refine ⟨{ s with w := x }, hexec.trans (congrArg _ hrelease), s.restKept_world x, ?_, ?_, hempty, ?_⟩
  · obtain ⟨m, k, g, rfl⟩ := hland.world
    exact ⟨hmem.2.1, hmem.2.2.1, hmem.2.2.2⟩
  · rw [← hown]
    exact World.grainWrote_of_good (by rw [hown]; exact hgood) hmem.1 hwrote
  · exact (hland.counter _ (hbc_not_access hc)).trans hcounter

theorem parityRetry_waits (hs : s.inService = true) {a : GrainAccess} (attempt : Nat) (hoff : s.w.grainOffset channel.val a.grain = some off)
    (hch : AMap.get 0 s.w.channels channel.val ≠ 2) (hok : a.parityOk = false) (hlow : attempt < 4) (hf : s.w.forwards 1) :
    ∃ t, exec (.parityRetry channel a attempt) s = .next t ∧ s.restKept t ∧ s.w.memoriesKept t.w
      ∧ AMap.get 0 t.w.counters (Block.hbc.addr (channel.val / 32) 0x098) = AMap.get 0 s.w.counters (Block.hbc.addr (channel.val / 32) 0x098) + 1
      ∧ (AMap.get false s.w.parityStep channel.val = false → s.w.raised t.w (hbcSource (channel.val / 32)) 0x111 channel.val)
      ∧ (AMap.get false s.w.parityStep channel.val = true → t.w.uzo = s.w.uzo) := by
  have hc : channel.val / 32 < 8 := by have := channel.isLt; omega
  obtain ⟨hmem, -, -, -, -, hcounter, hraised, hkept⟩ := s.w.retried_facts s.sid hc
  have hexec := execParityRetry_eq hs attempt hoff hch
  generalize s.w.retried s.sid channel.val = v at *
  dsimp only at hexec
  rw [if_neg (by rw [hok]; exact Bool.noConfusion), if_neg (by omega)] at hexec
  exact ⟨_, hexec, s.restKept_world _, hmem, hcounter, fun h => hraised h hf, hkept⟩

theorem parityRetry_fails (hs : s.inService = true) {a : GrainAccess} (attempt : Nat) (hoff : s.w.grainOffset channel.val a.grain = some off)
    (hch : AMap.get 0 s.w.channels channel.val ≠ 2) (hok : a.parityOk = false) (hlate : 4 ≤ attempt) :
    ∃ t, exec (.parityRetry channel a attempt) s = .next t ∧ AMap.get 0 t.w.channels channel.val = 2 ∧ channel.val ∈ mapoutList t.sec.hbmMapout 256
      ∧ (t.w.part (s.w.partOfChannel channel.val)).job ≠ .running ∧ s.w.memoriesKept t.w := by
  have hc : channel.val / 32 < 8 := by have := channel.isLt; omega
  obtain ⟨hmem, -, hconfig, -, -, -, -, -⟩ := s.w.retried_facts s.sid hc
  have hexec := execParityRetry_eq hs attempt hoff hch
  generalize s.w.retried s.sid channel.val = v at *
  dsimp only at hexec
  rw [if_neg (by rw [hok]; exact Bool.noConfusion), if_pos hlate] at hexec
  have hown : v.partOfChannel channel.val = s.w.partOfChannel channel.val := by
    rw [World.partOfChannel, World.ownerOfDie, hconfig]
    rfl
  obtain ⟨t, ht, -, -, hbad, hmap, hjob, hkept, -⟩ := State.channelFault_facts (channel := channel) { s with w := v } 0 (some a.writerSource.toNat)
  exact ⟨t, hexec.trans (congrArg _ ht), hbad, hmap, hown ▸ hjob, hmem.trans hkept⟩

theorem scrubGrain_counts (hs : s.inService = true) (hoff : s.w.grainOffset channel.val grain = some off) (hch : AMap.get 0 s.w.channels channel.val ≠ 2) :
    ∃ t, exec (.scrubGrain channel grain false false) s = .next t ∧ s.restKept t ∧ s.w.memoriesKept t.w
      ∧ AMap.get 0 t.w.counters (Block.hbc.addr (channel.val / 32) 0x0C0) = AMap.get 0 s.w.counters (Block.hbc.addr (channel.val / 32) 0x0C0) + 1 := by
  refine ⟨{ s with w := s.w.tick .hbc (channel.val / 32) 0x0C0 }, ?_, s.restKept_world _, ⟨rfl, rfl, rfl, rfl⟩, s.w.counter_count_self _ 1⟩
  show execScrubGrain channel grain false false s = _
  rw [execScrubGrain, State.onChannel_eq hs hoff hch]
  rfl

theorem scrubGrain_fails (hs : s.inService = true) (hoff : s.w.grainOffset channel.val grain = some off) (hch : AMap.get 0 s.w.channels channel.val ≠ 2)
    (hf : s.w.forwards 3) (hheld : AMap.get [] s.w.parityHeld channel.val = []) :
    ∃ t, exec (.scrubGrain channel grain false true) s = .next t ∧ t.pwr = s.pwr ∧ t.sid = s.sid ∧ s.w.memoriesKept t.w
      ∧ AMap.get 0 t.w.channels channel.val = 2 ∧ channel.val ∈ mapoutList t.sec.hbmMapout 256
      ∧ s.w.raised t.w (hbcSource (channel.val / 32)) 0x112 (channel.val + 2 ^ 24) ∧ (t.w.part (s.w.partOfChannel channel.val)).job ≠ .running := by
  obtain ⟨t, ht, hpwr, hsid, hbad, hmap, hjob, hmem, hraised⟩ := State.channelFault_facts (channel := channel)
    { s with w := s.w.tick .hbc (channel.val / 32) 0x0C0 } 1 none
  refine ⟨t, ?_, hpwr, hsid, hmem, hbad, hmap, hraised rfl hheld hf, hjob⟩
  show execScrubGrain channel grain false true s = _
  rw [execScrubGrain, State.onChannel_eq hs hoff hch]
  exact congrArg _ ht

end Channel

section Cellar
variable {s : State} {b : CellarBurst}

theorem cellarBurst_counts (hs : s.inService = true) (hgood : AMap.get false s.w.cellarBad b.channel.val = false) (hlow : b.crcFailures < 5)
    (hunc : b.uncorrectable = false) : ∃ t, exec (.cellarBurst b) s = .next t ∧ s.restKept t ∧ s.w.memoriesKept t.w
      ∧ AMap.get 0 t.w.counters (Block.kln.addr 0 0x108) = AMap.get 0 s.w.counters (Block.kln.addr 0 0x108) + BitVec.ofNat 64 (min 4 b.crcFailures) := by
  have hmeets : ¬ (s.inService = false ∨ AMap.get false s.w.cellarBad b.channel.val = true) := by simp [hs, hgood]
  have hfails : ¬ (5 ≤ b.crcFailures ∨ b.uncorrectable = true) := by simp [hunc, hlow]
  have hself := s.w.counter_count_self (Block.kln.addr 0 0x108) (min 4 b.crcFailures)
  have hexec : exec (.cellarBurst b) s = .next { s with
      w := if b.corrected then (s.w.count (Block.kln.addr 0 0x108) (min 4 b.crcFailures)).count (Block.kln.addr 0 0x110) 1
        else s.w.count (Block.kln.addr 0 0x108) (min 4 b.crcFailures) } := by
    show execCellarBurst b s = _
    rw [execCellarBurst]
    dsimp only
    rw [if_neg hmeets, if_neg hfails]
  refine ⟨_, hexec, s.restKept_world _, ?_⟩
  dsimp only
  split
  · exact ⟨⟨rfl, rfl, rfl, rfl⟩, (World.counter_count_ne _ 1 (Block.addr_ne (by decide) (by decide) (by decide))).trans hself⟩
  · exact ⟨⟨rfl, rfl, rfl, rfl⟩, hself⟩

/-- A cellar channel that has failed. -/
def World.cellarFailed (w : World) (b : CellarBurst) : World :=
  { w.count (Block.kln.addr 0 0x108) (min 4 b.crcFailures) with cellarBad := AMap.set false w.cellarBad b.channel.val true }

theorem cellarBurst_fails (hs : s.inService = true) (hgood : AMap.get false s.w.cellarBad b.channel.val = false) (hfails : 5 ≤ b.crcFailures)
    (hf : s.w.forwards 3) : ∃ t, exec (.cellarBurst b) s = .next t ∧ t.pwr = s.pwr ∧ t.sid = s.sid ∧ s.w.memoriesKept t.w
      ∧ AMap.get false t.w.cellarBad b.channel.val = true ∧ b.channel.val ∈ mapoutList t.sec.cellarMapout 64
      ∧ s.w.raised t.w klnSource 0x112 (b.channel.val + 2 ^ 23) ∧ (t.w.part (s.w.partOfCellar b.channel.val)).job ≠ .running := by
  have hmeets : ¬ (s.inService = false ∨ AMap.get false s.w.cellarBad b.channel.val = true) := by simp [hs, hgood]
  have hexec : exec (.cellarBurst b) s = .next { s with
      sec := s.sec.mapOutCellar b.channel.val
      w := ((s.w.cellarFailed b).raise s.sid klnSource 0x112 (b.channel.val + 2 ^ 23)).stopJob s.sid
        (((s.w.cellarFailed b).raise s.sid klnSource 0x112 (b.channel.val + 2 ^ 23)).partOfCellar b.channel.val) 1 klnSource } := by
    show execCellarBurst b s = _
    rw [execCellarBurst]
    dsimp only
    rw [if_neg hmeets, if_pos (.inl hfails), if_pos hfails, Nat.zero_mul, Nat.add_zero]
    rfl
  have hv : s.w.memoriesKept (s.w.cellarFailed b) ∧ AMap.get false (s.w.cellarFailed b).cellarBad b.channel.val = true
      ∧ (s.w.cellarFailed b).config = s.w.config ∧ (s.w.cellarFailed b).uzo = s.w.uzo ∧ (s.w.cellarFailed b).forwards 3 :=
    ⟨⟨rfl, rfl, rfl, rfl⟩, AMap.get_set_self false s.w.cellarBad b.channel.val true, rfl, rfl, hf⟩
  generalize s.w.cellarFailed b = v at *
  obtain ⟨hmem, hbad, hconfig, huzo, hf'⟩ := hv
  have hn := v.raise_Noted s.sid klnSource 0x112 (b.channel.val + 2 ^ 23)
  have hr := (World.raise_raised (w := v) (t := s.sid) (src := klnSource) (code := 0x112) (payload := b.channel.val + 2 ^ 23) hf' (by decide) (by decide)).of_same huzo
  generalize v.raise s.sid klnSource 0x112 (b.channel.val + 2 ^ 23) = u at *
  have hown : u.partOfCellar b.channel.val = s.w.partOfCellar b.channel.val := by
    rw [World.partOfCellar, World.ownerOfDie, hn.noted.config, hconfig]
    rfl
  rw [hown] at hexec
  have hh := u.stopJob_halted s.sid (s.w.partOfCellar b.channel.val) 1 klnSource
  have hjob := u.stopJob_not_running s.sid (s.w.partOfCellar b.channel.val) 1 klnSource
  generalize u.stopJob s.sid (s.w.partOfCellar b.channel.val) 1 klnSource = x at *
  refine ⟨_, hexec, rfl, rfl, (hmem.trans hn.noted.memories).trans hh.memories, ?_, mem_mapOutCellar _ b.channel.isLt, ?_, hjob⟩
  · rw [hh.cellarBad, hn.noted.cellarBad]
    exact hbad
  · rw [World.raised] at hr ⊢
    rw [hh.uzo]
    exact hr

end Cellar

/-- Settles O32: a write that passes its checks lands as its mask says; a fault ends in the stop of the channel's partition. -/
theorem memoryAccessesAndFaults : Obligations.MemoryAccessesAndFaults := by
  refine ⟨fun s channel a off hs hoff hch => ⟨fun hok hfree hw hfits => grainWrite_lands hs hoff hch hok hfree hw hfits.1 hfits.2,
      fun hok hfree hw hcor hunc => grainRead_corrected hs hoff hch hok hfree hw hcor hunc, fun h => grainAccess_waits hs hoff hch h,
      fun attempt hok hheld hw hfits => parityRetry_passes hs attempt hoff hch hok hheld hw hfits.1 hfits.2,
      fun attempt hok hlow hf => parityRetry_waits hs attempt hoff hch hok hlow hf,
      fun attempt hok hlate => parityRetry_fails hs attempt hoff hch hok hlate⟩,
    fun s channel grain off hs hoff hch => ⟨scrubGrain_counts hs hoff hch, fun hf hheld => scrubGrain_fails hs hoff hch hf hheld⟩,
    fun s stack clear hs hclear =>
      ⟨_, if_neg fun h => h.elim (fun h => absurd (hs.symm.trans h) Bool.noConfusion) hclear, rfl, rfl, rfl, fun i hi => mem_clearMapout s.sec stack clear hi⟩,
    fun s b hs hgood => ⟨fun hlow hunc => cellarBurst_counts hs hgood hlow hunc, fun hfails hf => cellarBurst_fails hs hgood hfails hf⟩⟩

end Sys2Proof.Machine

namespace Sys2Proof.Machine

/-! ### What a draw leaves (R189 to R195): it reads the graph image, and counts -/

/-- `v` is `w` but for its counters. -/
def World.countsOnly (w v : World) : Prop := ∃ c, v = { w with counters := c }

/-- Where something comes of a read, the world is but for its counters as before. -/
def World.readsOnly (w : World) {α : Type} (z : Except (Nat × Nat) (α × World)) : Prop := ∀ x v, z = .ok (x, v) → w.countsOnly v

section Reads
variable {w v u : World} {α β : Type}

theorem World.countsOnly.refl : w.countsOnly w := ⟨w.counters, rfl⟩

theorem World.countsOnly.trans (h : w.countsOnly v) (g : v.countsOnly u) : w.countsOnly u := by
  obtain ⟨c, rfl⟩ := h
  obtain ⟨c', rfl⟩ := g
  exact ⟨c', rfl⟩

theorem World.countsOnly.foldl {f : World → α → World} (h : ∀ (v : World) (x : α), v.countsOnly (f v x)) (xs : List α) (w : World) :
    w.countsOnly (xs.foldl f w) :=
  List.foldlRecOn xs f (motive := w.countsOnly) .refl fun v hv x _ => hv.trans (h v x)

theorem World.readsOnly.error {e : Nat × Nat} : w.readsOnly (.error e : Except (Nat × Nat) (α × World)) := fun _ _ h => by cases h

theorem World.readsOnly.ok {x : α} (h : w.countsOnly v) : w.readsOnly (.ok (x, v)) := fun _ _ he => by
  cases he
  exact h

theorem World.readsOnly.ok_pair {z : α × World} (h : w.countsOnly z.2) : w.readsOnly (.ok z) := fun _ _ he => by
  rw [Except.ok.inj he] at h
  exact h

theorem World.readsOnly.map {z : Except (Nat × Nat) (α × World)} {f : α → β} (h : w.readsOnly z) : w.readsOnly (z.map fun y => (f y.1, y.2)) := by
  cases z with
  | error e => exact .error
  | ok y =>
    obtain ⟨x, v⟩ := y
    exact .ok (h x v rfl)

theorem World.readsOnly.trans {z : Except (Nat × Nat) (α × World)} (h : w.countsOnly v) (g : v.readsOnly z) : w.readsOnly z :=
  fun x u he => h.trans (g x u he)

/-! The steps of a draw, each over a value of its own: of those that match on a reading, the reading counts. -/

theorem World.readsOnly.of_header {z : Except (Nat × Nat) (List Byte)} {f : List Byte → Except (Nat × Nat) (α × World)} (h : ∀ x, w.readsOnly (f x)) :
    w.readsOnly (match z with
      | .error e => .error e
      | .ok x => f x) := by
  cases z with
  | error e => exact .error
  | ok x => exact h x

theorem World.readsOnly.of_shard {o : Option Nat} {e : Nat × Nat} {f : Nat → Except (Nat × Nat) (α × World)} (h : ∀ x, w.readsOnly (f x)) :
    w.readsOnly (match o with
      | none => .error e
      | some x => f x) := by
  cases o with
  | none => exact .error
  | some x => exact h x

theorem World.readsOnly.of_dir {bad : Option (Nat × Nat)} {o : Option Nat} {e : Nat × Nat} {f : Nat → Except (Nat × Nat) (α × World)}
    (h : ∀ x, w.readsOnly (f x)) : w.readsOnly (match bad, o with
      | some z, _ => .error z
      | none, none => .error e
      | none, some x => f x) := by
  split
  next => exact .error
  next => exact .error
  next x => exact h x

theorem World.readsOnly.of_ranges {z : Except (Nat × Nat) (List (Nat × Nat × Nat × List Byte) × World)}
    {f : List (Nat × Nat × Nat × List Byte) → World → Except (Nat × Nat) (α × World)} (hz : w.readsOnly z)
    (h : ∀ (x : List (Nat × Nat × Nat × List Byte)) (v : World), v.readsOnly (f x v)) : w.readsOnly (match z with
      | .error e => .error e
      | .ok (x, v) => f x v) := by
  split
  next => exact .error
  next x v => exact .trans (hz _ _ rfl) (h x v)

theorem World.readsOnly.of_places {z : Except (Nat × Nat) ((List Nat × Nat) × World)}
    {f : List Nat → Nat → World → Except (Nat × Nat) (α × World)} (hz : w.readsOnly z)
    (h : ∀ (x : List Nat) (n : Nat) (v : World), v.readsOnly (f x n v)) : w.readsOnly (match z with
      | .error e => .error e
      | .ok ((x, n), v) => f x n v) := by
  split
  next => exact .error
  next x n v => exact .trans (hz _ _ rfl) (h x n v)

theorem World.readsOnly.of_edges {z : Except (Nat × Nat) (List DrawEdge × World)}
    {f : List DrawEdge → World → Except (Nat × Nat) (α × World)} (hz : w.readsOnly z)
    (h : ∀ (x : List DrawEdge) (v : World), v.readsOnly (f x v)) : w.readsOnly (match z with
      | .error e => .error e
      | .ok (x, v) => f x v) := by
  split
  next => exact .error
  next x v => exact .trans (hz _ _ rfl) (h x v)

theorem World.count_countsOnly (w : World) (a n : Nat) : w.countsOnly (w.count a n) := ⟨_, rfl⟩

end Reads

section Draws

/-! A refusal of a read weighs the partition's capacity, a count times 2^31, which the kernel must not evaluate when a proof opens a function that
matches on it. So the functions below are opened as constants, before they are applied, and what they match on is named. -/

variable (w : World) (src p base n : Nat)

theorem World.hbmFetch_countsOnly (a len : Nat) : w.countsOnly (w.hbmFetch src p a len).2 := by
  obtain ⟨c, h⟩ := w.hbmFetch_eq src p a len
  rw [h]
  exact ⟨c, rfl⟩

theorem World.graphRead_readsOnly (a len : Nat) : w.readsOnly (w.graphRead src p n a len) := by
  obtain ⟨f, hf⟩ : ∃ f, f = @World.graphRead := ⟨_, rfl⟩
  rw [← hf]
  delta World.graphRead at hf
  subst hf
  beta_reduce
  split
  · exact .error
  · exact .ok_pair (w.hbmFetch_countsOnly src p a len)

theorem World.graphReads_countsOnly {v : World} (xs : List (Nat × Nat)) (h : w.graphReads src p n xs = .ok v) : w.countsOnly v := by
  have hstep : ∀ (v : World) (x : Nat × Nat), v.countsOnly (v.hbmFetch src p x.1 x.2).2 := fun v x => v.hbmFetch_countsOnly src p x.1 x.2
  have hall := World.countsOnly.foldl hstep xs w
  unfold World.graphReads at h
  split at h
  · cases h
  · rw [Except.ok.inj h] at hall
    exact hall

theorem World.typeRange_readsOnly (row target y : Nat) (hop : Hop) (e : List Byte) : w.readsOnly (w.typeRange src p base n row target hop y e) := by
  obtain ⟨f, hf⟩ : ∃ f, f = @World.typeRange := ⟨_, rfl⟩
  rw [← hf]
  delta World.typeRange at hf
  subst hf
  beta_reduce
  split
  next => exact .error
  next b w1 hread =>
    have h1 := w.graphRead_readsOnly src p n _ _ _ _ hread
    extract_lets lo hi
    split
    · exact .error
    · split
      · exact .error
      · split
        · exact .error
        · split
          · split
            next => exact .error
            next w2 hreads =>
              split
              · exact .error
              · exact .ok (h1.trans (w1.graphReads_countsOnly src p n _ hreads))
          · exact .ok h1

/-- What a step of a function that runs down a list has of the rest of it. -/
def belowHead {α β : Type} (P : β → Prop) : (xs : List α) → List.below (motive := fun _ => β) xs → Prop
  | [], _ => True
  | _ :: _, b => P b.1

/-- What a function that runs down a list makes of it, from what each of its steps makes. -/
theorem brecOn_forall {α β : Type} {P : β → Prop} {F : (xs : List α) → List.below (motive := fun _ => β) xs → β}
    (h : ∀ xs b, belowHead P xs b → P (F xs b)) : ∀ xs, P (List.brecOn xs F)
  | [] => h [] _ trivial
  | x :: xs => h (x :: xs) _ (brecOn_forall h xs)

theorem World.candidateRanges_readsOnly (row target dir : Nat) (hop : Hop) (ys : List Nat) (w : World) :
    w.readsOnly (w.candidateRanges src p base n row target hop dir ys) := by
  obtain ⟨f, hf⟩ : ∃ f, f = @World.candidateRanges := ⟨_, rfl⟩
  rw [← hf]
  delta World.candidateRanges at hf
  subst hf
  beta_reduce
  refine brecOn_forall (P := fun m : World → Except (Nat × Nat) (List (Nat × Nat × Nat × List Byte) × World) => ∀ w : World, w.readsOnly (m w))
    (fun ys b hb w => ?_) ys w
  obtain ⟨f, hf⟩ : ∃ f, f = @World.candidateRanges._f := ⟨_, rfl⟩
  rw [← hf]
  delta World.candidateRanges._f at hf
  subst hf
  beta_reduce
  split
  · exact .ok .refl
  next =>
    rename_i b hb
    extract_lets e
    split
    · exact .error
    · split
      · exact hb w
      · split
        next => exact .error
        next c w1 hrange => exact .trans (w.typeRange_readsOnly src p base n row target _ hop _ _ _ hrange) (hb w1).map

theorem World.rangeWeights_readsOnly (at0 : Nat) (x : Nat × Nat × Nat × List Byte) : w.readsOnly (w.rangeWeights src p base n at0 x) := by
  unfold World.rangeWeights
  dsimp only
  split
  next => exact .error
  next w2 hreads =>
    split
    · exact .error
    · exact .ok (w.graphReads_countsOnly src p n _ hreads)

theorem World.sequenceWeights_readsOnly : ∀ (rs : List (Nat × Nat × Nat × List Byte)) (w : World) (at0 : Nat),
    w.readsOnly (w.sequenceWeights src p base n at0 rs)
  | [], _, _ => .ok .refl
  | x :: rs, w, at0 => by
    unfold World.sequenceWeights
    split
    next => exact .error
    next ds w1 hrange =>
      exact .trans (w.rangeWeights_readsOnly src p base n at0 x _ _ hrange) (World.sequenceWeights_readsOnly rs w1 _).map

theorem World.choosePlaces_readsOnly (hop : Hop) (word : Nat → Nat) (rs : List (Nat × Nat × Nat × List Byte)) :
    w.readsOnly (w.choosePlaces src p base n hop word rs) := by
  unfold World.choosePlaces
  dsimp only
  split
  · exact .ok .refl
  · exact .ok .refl
  · split
    next => exact .error
    next cs w1 hseq => exact .ok (World.sequenceWeights_readsOnly src p base n rs w 0 _ _ hseq)
  · split
    · have h : ∀ v, w.graphReads src p n (w.recentPlaces p base hop.fanout rs).2 = .ok v → w.countsOnly v := fun _ hv => w.graphReads_countsOnly src p n _ hv
      generalize w.graphReads src p n (w.recentPlaces p base hop.fanout rs).2 = z at *
      cases z with
      | error e => exact .error
      | ok v => exact .ok (h v rfl)
    · split
      · exact .ok .refl
      · exact .ok .refl

theorem World.readEdge_readsOnly (last : Nat) (x : Nat × List Byte × Nat) : w.readsOnly (w.readEdge src p base n last x) := by
  obtain ⟨f, hf⟩ : ∃ f, f = @World.readEdge := ⟨_, rfl⟩
  rw [← hf]
  delta World.readEdge at hf
  subst hf
  beta_reduce
  extract_lets e i
  split
  next => exact .error
  next => exact .error
  next => exact .error
  next nb w1 tb _ wb _ hread _ _ =>
    have h1 := w.graphRead_readsOnly src p n _ _ _ _ hread
    have fetched : ∀ (b : Bool) (u : World) (a len : Nat), u.countsOnly (if b = true then (u.hbmFetch src p a len).2 else u) := fun b u a len => by
      split
      · exact u.hbmFetch_countsOnly src p a len
      · exact .refl
    extract_lets v w2 w3
    have h3 : w.countsOnly w3 := (h1.trans (fetched _ _ _ _)).trans (fetched _ _ _ _)
    clear_value w3
    split
    · exact .error
    · split
      · exact .error
      · split
        · exact .error
        · exact .ok h3

/-- What is known of the rest of a list of edges that are read. -/
abbrev EdgesBelow (xs : List (Nat × List Byte × Nat)) : Type := List.below (motive := fun _ => World → Except (Nat × Nat) (List DrawEdge × World)) xs

/-- A step of the reading of edges, as a constant before it is applied. -/
theorem World.readEdges_step : ∃ g : World → Nat → Nat → Nat → Nat → Nat → (x : Nat × List Byte × Nat) → (xs : List (Nat × List Byte × Nat)) →
      EdgesBelow (x :: xs) → Except (Nat × Nat) (List DrawEdge × World),
    (∀ (w : World) (src p base n last : Nat) (x : Nat × List Byte × Nat) (xs : List (Nat × List Byte × Nat)) (b : EdgesBelow (x :: xs)),
      (∀ v : World, v.readsOnly (b.1 v)) → w.readsOnly (g w src p base n last x xs b))
    ∧ @World.readEdges._f = fun src p base n last xs b w =>
        (match (motive := ∀ xs, EdgesBelow xs → Except (Nat × Nat) (List DrawEdge × World)) xs with
          | [] => fun _ => .ok ([], w)
          | x :: xs => g w src p base n last x xs) b := by
  refine ⟨_, fun w src p base n last x xs b hb => ?_, rfl⟩
  split
  next => exact .error
  next e w1 hedge => exact .trans (w.readEdge_readsOnly src p base n last _ _ _ hedge) (hb w1).map

theorem World.readEdges_readsOnly (last : Nat) (xs : List (Nat × List Byte × Nat)) (w : World) : w.readsOnly (w.readEdges src p base n last xs) := by
  obtain ⟨f, hf⟩ : ∃ f, f = @World.readEdges := ⟨_, rfl⟩
  obtain ⟨g, hg, hstep⟩ := World.readEdges_step
  rw [← hf]
  delta World.readEdges at hf
  rw [hstep] at hf
  subst hf
  refine brecOn_forall (P := fun m : World → Except (Nat × Nat) (List DrawEdge × World) => ∀ w : World, w.readsOnly (m w)) (fun xs b hb w => ?_) xs w
  cases xs with
  | nil => exact .ok .refl
  | cons x xs => exact hg w src p base n last x xs b hb

/-- A draw reads and counts. -/
theorem World.drawNode_readsOnly (k level step target : Nat) (plan : Plan) : w.readsOnly (w.drawNode k p plan level step n target) := by
  obtain ⟨f, hf⟩ : ∃ f, f = @World.drawNode := ⟨_, rfl⟩
  rw [← hf]
  delta World.drawNode at hf
  subst hf
  beta_reduce
  extract_lets src hop base
  obtain ⟨header, hheader⟩ : ∃ x, x = w.graphHeader p base := ⟨_, rfl⟩
  rw [← hheader]
  refine World.readsOnly.of_header (z := header) (fun hd => ?_)
  obtain ⟨shard, hshard⟩ : ∃ x, x = w.shardOfNode p base hd n := ⟨_, rfl⟩
  rw [← hshard]
  refine World.readsOnly.of_shard (o := shard) (fun s => ?_)
  obtain ⟨bad, hbad⟩ : ∃ x, x = w.graphBad p n (base + leAt hd 0x18 8 + 8 * s) 16 := ⟨_, rfl⟩
  obtain ⟨found, hfound⟩ : ∃ x, x = w.typeDir p base hd s := ⟨_, rfl⟩
  rw [← hbad, ← hfound]
  refine World.readsOnly.of_dir (bad := bad) (o := found) (fun dir => ?_)
  extract_lets row
  obtain ⟨ranges, hr⟩ : ∃ x, x = w.candidateRanges src p base n row target hop dir (List.range (leAt hd 6 2)) := ⟨_, rfl⟩
  have hranges : w.readsOnly ranges := by
    rw [hr]
    exact World.candidateRanges_readsOnly src p base n row target dir hop _ w
  rw [← hr]
  refine World.readsOnly.of_ranges (z := ranges) hranges fun rs w1 => ?_
  obtain ⟨places, hp⟩ : ∃ x, x = w1.choosePlaces src p base n hop (sampleWord (w1.part p).jobSeed.toNat plan.id level n step) rs := ⟨_, rfl⟩
  have hplaces : w1.readsOnly places := by
    rw [hp]
    exact w1.choosePlaces_readsOnly src p base n hop _ rs
  rw [← hp]
  refine World.readsOnly.of_places (z := places) hplaces fun xs words w2 => ?_
  obtain ⟨edges, he⟩ : ∃ x, x = w2.readEdges src p base n (w2.firstNode p base hd 4096) (xs.filterMap (placeAt rs)) := ⟨_, rfl⟩
  have hedges : w2.readsOnly edges := by
    rw [he]
    exact World.readEdges_readsOnly src p base n _ _ w2
  rw [← he]
  refine World.readsOnly.of_edges (z := edges) hedges fun es w3 => ?_
  extract_lets w4
  refine .ok ((w3.count_countsOnly (Block.smp.addr k 0x090) words).trans ?_)
  split
  · exact World.count_countsOnly _ _ 1
  · exact .refl

end Draws

end Sys2Proof.Machine

namespace Sys2Proof.Machine

/-! ### Packets for the NMR, the CJU, the migration, the Kiln and the sampler (R198 to R200, R244, R249, R323, R356) -/

section Parts

theorem World.part_updPart_keeps (w : World) {γ : Type} (g : Part → γ) (p : Nat) (f : Part → Part) (h : ∀ x, g (f x) = g x) (q : Nat) :
    g ((w.updPart p f).part q) = g (w.part q) := by
  rw [w.part_updPart]
  split
  next e => rw [e, h]
  next => rfl

end Parts

section Multicast
variable (w : World) (t : Sid)

theorem World.copyTo_mailed (kind : Nat) (p : Packet) (q : Nat) : w.Mailed (World.copyTo kind p w q) ∧ (World.copyTo kind p w q).out = w.out := by
  unfold World.copyTo
  split
  next => exact ⟨.refl, rfl⟩
  next phys _ =>
    have h := w.count_mailed (mailCounter_fab (off := 0x080) (by decide)) 1
    dsimp only
    split
    · exact ⟨h.trans (World.count_mailed _ (mailCounter_fab (by decide)) 1), rfl⟩
    · exact ⟨h.trans (World.frameOut_mailed _ _ _ _), rfl⟩

theorem World.copies_mailed (kind : Nat) (p : Packet) (xs : List Nat) :
    w.Mailed (xs.foldl (World.copyTo kind p) w) ∧ (xs.foldl (World.copyTo kind p) w).out = w.out :=
  List.foldlRecOn xs (World.copyTo kind p) (motive := fun v => w.Mailed v ∧ v.out = w.out) ⟨.refl, rfl⟩ fun v hv x _ => by
    obtain ⟨h, ho⟩ := v.copyTo_mailed kind p x
    exact ⟨hv.1.trans h, ho.trans hv.2⟩

/-- A multicast packet leaves last; partition 0 counts its grains. -/
theorem World.sendMulticast_leaves (kind source tag offset : Nat) (stepped : Bool) (payload : List Byte) :
    ∃ v n x, w.sendMulticast t kind source tag offset stepped payload = v ∧ (w.updPart 0 fun y => { y with mcSent := y.mcSent + n }).Mailed v
      ∧ v.out = w.out ++ [.packet kind x] ∧ pktMulticast x = true := by
  unfold World.sendMulticast
  extract_lets address p w1
  obtain ⟨hcopy, ho⟩ := w1.copies_mailed kind p w1.multicastTargets
  have hrecord := World.packetRecord_mailed (w1.multicastTargets.foldl (World.copyTo kind p) w1) t kind 0 0x3FFF tag address
  have hout : (World.packetRecord (w1.multicastTargets.foldl (World.copyTo kind p) w1) t kind 0 0x3FFF tag address).out = w.out :=
    (World.act_noted _ t _ _ _ _ _ _).out.trans ho
  have hflags : pktMulticast p = true := by
    simp only [pktMulticast, p]
    cases stepped <;> decide
  generalize World.packetRecord (w1.multicastTargets.foldl (World.copyTo kind p) w1) t kind 0 0x3FFF tag address = u at *
  exact ⟨_, max 1 (ceilDiv payload.length 256), p, rfl, (hcopy.trans hrecord).trans (u.emit_mailed _), by rw [World.emit_out, hout], hflags⟩

end Multicast

section Overrides
variable (w : World) (t : Sid)

theorem World.writeEntry_eq (p table : Nat) : ∃ m, w.writeEntry p table = { w with hbm := m } := by
  unfold World.writeEntry
  split
  · exact ⟨w.hbm, rfl⟩
  · exact w.hbmStore_eq p _ _

/-- A table's pending overrides with the entry of a row put, or removed where it names the map's home (R248). -/
def World.overridesWith (w : World) (p : Nat) (e : DirEntry) (row pos step : Nat) : List (Nat × Nat × Nat) :=
  let rest := e.penOver.filter fun x => decide (x.1 ≠ row)
  if w.mapHome p e row = pos then rest
  else (rest.filter fun x => decide (x.1 < row)) ++ (row, pos, step) :: rest.filter fun x => decide (row < x.1)

/-- An override entry that is put changes the table's pending overrides, and HBM. -/
theorem World.putOverride_of_entry {p table : Nat} {e : DirEntry} (he : (w.part p).entry table = some e) (row pos step : Nat) :
    ∃ m, w.putOverride p table row pos step
      = { w.updPart p fun x => x.updEntry table fun y => y.setPenOver (w.overridesWith p e row pos step) with hbm := m } := by
  unfold World.putOverride
  split
  case h_1 h => exact absurd (he.symm.trans h) (Option.some_ne_none _)
  case h_2 e' h =>
    obtain rfl := Option.some.inj (he.symm.trans h)
    extract_lets rest xs w1 w2 w3
    change ∃ m, w3.writeEntry p table = { w1 with hbm := m }
    obtain ⟨m2, h2⟩ := w1.hbmStore_eq p (overImage xs) e.penOverBase
    have h3 : ∃ m, w3 = { w1 with hbm := m } := by
      simp only [w3]
      split
      · obtain ⟨m3, h3⟩ := w2.hbmStore_eq p (List.replicate 16 0) (e.penOverBase + 16 * xs.length)
        exact ⟨m3, by rw [h3]; simp only [w2]; rw [h2]⟩
      · exact ⟨m2, h2⟩
    obtain ⟨m3, h3⟩ := h3
    obtain ⟨m4, h4⟩ := w3.writeEntry_eq p table
    exact ⟨m4, by rw [h4, h3]⟩

theorem World.putOverride_of_none {p table : Nat} (he : (w.part p).entry table = none) (row pos step : Nat) : w.putOverride p table row pos step = w := by
  unfold World.putOverride
  rw [he]

theorem World.putOverride_facts (p table row pos step : Nat) : let v := w.putOverride p table row pos step
    w.onlyHbm v ∧ v.out = w.out ∧ v.fab = w.fab ∧ (v.part p).accepted = (w.part p).accepted := by
  dsimp only
  cases he : (w.part p).entry table with
  | none =>
    rw [w.putOverride_of_none he]
    exact ⟨⟨rfl, rfl, rfl⟩, rfl, rfl, rfl⟩
  | some e =>
    obtain ⟨m, h⟩ := w.putOverride_of_entry he row pos step
    rw [h]
    refine ⟨⟨rfl, rfl, rfl⟩, rfl, rfl, ?_⟩
    exact w.part_updPart_keeps Part.accepted p (fun x => x.updEntry table fun y => y.setPenOver (w.overridesWith p e row pos step)) (fun _ => rfl) p

/-- The world after the home noted and counted that a row migrates. -/
def World.migrationNoted (w : World) (p k table row target : Nat) : World :=
  ((w.tick .gsu k 0x098).updPart p fun y => { y with accepted := y.accepted ++ [(table, row, target)] }).putOverride p table row target ((w.part p).step + 1)

theorem World.migrationNoted_facts (p k table row target : Nat) : let v := w.migrationNoted p k table row target
    w.onlyHbm v ∧ v.out = w.out ∧ v.fab = w.fab ∧ (v.part p).accepted = (w.part p).accepted ++ [(table, row, target)] := by
  obtain ⟨⟨ht, hc, hl⟩, hout, hfab, hkeep⟩ := World.putOverride_facts
    ((w.tick .gsu k 0x098).updPart p fun y => { y with accepted := y.accepted ++ [(table, row, target)] }) p table row target ((w.part p).step + 1)
  exact ⟨⟨ht, hc, hl⟩, hout, hfab, hkeep.trans (congrArg Part.accepted (World.part_updPart_self _ p _))⟩

/-- A migration that the home accepts is noted, and told to every position where the module has one. -/
theorem World.decideMigration_eq {w : World} {p k row target : Nat} {e : DirEntry} (htarget : target ≠ w.ownPosition)
    (hcur : ∀ x ∈ e.curOver, x.1 ≠ row) (hpen : e.penOver.length < 65536)
    (hnew : ∀ x ∈ (w.part p).accepted, x.1 = e.tensor → x.2.1 ≠ row) (hroom : (w.part p).forwarding.length + (w.part p).accepted.length < 4096) :
    w.decideMigration t p k e row target = if p = 0 ∧ w.fab.position.isSome = true then
        (w.migrationNoted p k e.tensor row target).sendMulticast t 0x0B (clusterSource 6 k) 0 e.penOverBase true
          (leBytes 6 row ++ leBytes 2 target ++ leBytes 8 ((w.part p).step + 1))
      else w.migrationNoted p k e.tensor row target := by
  have hfresh : ¬ ((e.curOver.any fun o => decide (o.1 = row) && decide ((w.part p).step < o.2.2 + 2)) = true
      ∨ (decide (65536 ≤ e.penOver.length) && !(e.penOver.any fun o => decide (o.1 = row))) = true) := by
    rintro (h | h)
    · obtain ⟨o, ho, h⟩ := List.any_eq_true.mp h
      simp only [Bool.and_eq_true, decide_eq_true_eq] at h
      exact hcur o ho h.1
    · simp only [Bool.and_eq_true, decide_eq_true_eq] at h
      omega
  have hnone : ((w.part p).accepted.find? fun a => decide (a.1 = e.tensor) && decide (a.2.1 = row)) = none := by
    rw [List.find?_eq_none]
    intro a ha h
    simp only [Bool.and_eq_true, decide_eq_true_eq] at h
    exact hnew a ha h.1 h.2
  obtain ⟨-, -, hfab, -⟩ := w.migrationNoted_facts p k e.tensor row target
  rw [← hfab]
  unfold World.decideMigration World.migrationNoted
  dsimp only
  rw [if_neg htarget, if_neg hfresh, hnone]
  dsimp only
  rw [if_neg (by omega)]

/-- A migration that the home accepts is noted and told to every position. -/
theorem World.decideMigration_accepts {w : World} {k row target : Nat} {e : DirEntry} (hpos : w.fab.position.isSome = true) (htarget : target ≠ w.ownPosition)
    (hcur : ∀ x ∈ e.curOver, x.1 ≠ row) (hpen : e.penOver.length < 65536)
    (hnew : ∀ x ∈ (w.part 0).accepted, x.1 = e.tensor → x.2.1 ≠ row) (hroom : (w.part 0).forwarding.length + (w.part 0).accepted.length < 4096) :
    ∃ v x, w.decideMigration t 0 k e row target = v ∧ w.onlyHbm v ∧ (v.part 0).accepted = (w.part 0).accepted ++ [(e.tensor, row, target)]
      ∧ v.out = w.out ++ [.packet 0x0B x] ∧ pktMulticast x = true ∧ v.fab.orderHeld = w.fab.orderHeld := by
  obtain ⟨⟨ht, hc, hl⟩, hout, hfab, haccepted⟩ := w.migrationNoted_facts 0 k e.tensor row target
  have hdecide := World.decideMigration_eq (t := t) (k := k) htarget hcur hpen hnew hroom
  rw [if_pos ⟨rfl, hpos⟩] at hdecide
  generalize w.migrationNoted 0 k e.tensor row target = u at *
  obtain ⟨v, n, x, hv, hmail, ho, hx⟩ := u.sendMulticast_leaves t 0x0B (clusterSource 6 k) 0 e.penOverBase true
    (leBytes 6 row ++ leBytes 2 target ++ leBytes 8 ((w.part 0).step + 1))
  obtain ⟨hm1, hm2, hm3, hm4⟩ := hmail.memories
  have hkeep : (v.part 0).accepted = (u.part 0).accepted := by
    rw [hmail.sent.part_keeps Part.accepted (fun _ _ => rfl) 0]
    exact u.part_updPart_keeps Part.accepted 0 (fun y => { y with mcSent := y.mcSent + n }) (fun _ => rfl) 0
  refine ⟨v, x, hdecide.trans hv, ⟨hm2.trans ht, hm3.trans hc, hm4.trans hl⟩, hkeep.trans haccepted, ho.trans (by rw [hout]), hx, ?_⟩
  exact hmail.orderHeld.trans (congrArg Fab.orderHeld hfab)

end Overrides

end Sys2Proof.Machine

namespace Sys2Proof.Machine

/-! ### What the packets for the units do (R198 to R200, R244, R249, R323, R356) -/

section Graphs
variable {w v : World} {p : Nat}

/-- A graph image reads the same where HBM and the partition's channels are the same. -/
theorem World.shardOfNode_of_same (hread : ∀ a n, v.hbmRead p a n = w.hbmRead p a n) (base : Nat) (h : List Byte) (n : Nat) :
    v.shardOfNode p base h n = w.shardOfNode p base h n := by
  have hfirst : v.firstNode p base h = w.firstNode p base h := funext fun s => by rw [World.firstNode, hread, World.firstNode]
  unfold World.shardOfNode
  rw [hfirst]

theorem World.shardAway_of_same (hpos : v.fab.position = w.fab.position) (hc : v.config = w.config) (s : Nat) : v.shardAway p s = w.shardAway p s := by
  unfold World.shardAway
  rw [hpos, hc]

theorem World.plan_of_bundle (hb : (v.part p).bundle = (w.part p).bundle) (i : Nat) : v.plan p i = w.plan p i := by rw [World.plan, hb, World.plan]

theorem World.homeCluster_of_config (hc : v.config = w.config) (s : Nat) : v.homeCluster s = w.homeCluster s := by
  rw [World.homeCluster, World.clustersOf, World.diesOf, hc, World.homeCluster, World.clustersOf, World.diesOf]

theorem World.partOfCluster_of_config (hc : v.config = w.config) (k : Nat) : v.partOfCluster k = w.partOfCluster k := by
  rw [World.partOfCluster, World.ownerOfDie, hc, World.partOfCluster, World.ownerOfDie]

end Graphs

section Acks
variable {s : State} {q : Packet} (hs : s.inService = true) (hc : s.w.comes q)
include hs hc

theorem nmrAck_counts : ∃ t, exec (.nmrAck q) s = .next t ∧ s.restKept t ∧ s.w.memoriesKept t.w ∧ t.w.out = s.w.out
    ∧ (t.w.cluster (tagInst q.tag.toNat)).gsu.unacked = (s.w.cluster (tagInst q.tag.toNat)).gsu.unacked.map fun x => (x.1, x.2 - 1) := by
  have hplain : pktMulticast q = false := hc.2.2.1
  obtain ⟨hmem, hout, -, hcluster, -, hheld⟩ := World.responded_arrived hc 0x06
  have hx := fun v h => exec_packet_served (i := .nmrAck q) (v := v) hs rfl (fun h => absurd h (by decide)) hc
    (show (s.w.arrived s.sid 0x06 q).process s.sid 0x06 q = v by rw [World.process, World.countMulticast_of_plain hplain]; exact h)
  generalize (s.w.arrived s.sid 0x06 q).responded s.sid q.tag.toNat = u at *
  refine ⟨_, hx _ rfl hheld, s.restKept_world _, hmem.trans ⟨rfl, rfl, rfl, rfl⟩, hout, ?_⟩
  rw [World.takeNmrAck, World.updGsu, World.cluster_updCluster_self, hcluster]

theorem signalAck_completes : ∃ t, exec (.signalAck q) s = .next t ∧ s.restKept t ∧ s.w.memoriesKept t.w ∧ t.w.out = s.w.out
    ∧ (t.w.core (tagInst q.tag.toNat)).signals = (s.w.core (tagInst q.tag.toNat)).signals.filter fun y => decide (y.1 ≠ q.tag.toNat) := by
  have hplain : pktMulticast q = false := hc.2.2.1
  obtain ⟨hmem, hout, hcore, -, -, hheld⟩ := World.responded_arrived hc 0x0A
  have hx := fun v h => exec_packet_served (i := .signalAck q) (v := v) hs rfl (fun h => absurd h (by decide)) hc
    (show (s.w.arrived s.sid 0x0A q).process s.sid 0x0A q = v by rw [World.process, World.countMulticast_of_plain hplain]; exact h)
  generalize (s.w.arrived s.sid 0x0A q).responded s.sid q.tag.toNat = u at *
  refine ⟨_, hx _ rfl hheld, s.restKept_world _, hmem.trans (u.updCore_memories _ _), hout, ?_⟩
  rw [World.takeSignalAck, World.core_updCore, if_pos rfl, hcore]

theorem kilnState_goes_on : ∃ t, exec (.kilnState q) s = .next t ∧ s.restKept t ∧ s.w.memoriesKept t.w
    ∧ t.w.kiln.stateFrom = s.w.kiln.stateFrom ++ [(q.src.toNat, q.tag.toNat)]
    ∧ t.w.out = s.w.out ++ [.kiln true 8 0 [leAt q.payload 0 4, leAt q.payload 4 6, leAt q.payload 10 1 % 2] (q.payload.drop 16)] := by
  have hplain : pktMulticast q = false := hc.2.2.1
  have hmem := s.w.arrived_memories s.sid 0x0C q
  have hout := s.w.arrived_out s.sid 0x0C q
  have hkiln := s.w.arrived_kiln s.sid 0x0C q
  have hheld := s.w.arrived_orderHeld s.sid 0x0C q hc.2.2.2.1
  have hx := fun v h => exec_packet_served (i := .kilnState q) (v := v) hs rfl (fun h => absurd h (by decide)) hc
    (show (s.w.arrived s.sid 0x0C q).process s.sid 0x0C q = v by rw [World.process, World.countMulticast_of_plain hplain]; exact h)
  generalize s.w.arrived s.sid 0x0C q = u at *
  refine ⟨_, hx _ rfl hheld, s.restKept_world _, hmem.trans ⟨rfl, rfl, rfl, rfl⟩, ?_, ?_⟩
  · show u.kiln.stateFrom ++ _ = _
    rw [hkiln]
  · show u.out ++ _ = _
    rw [hout]

theorem fabSignal_adds (hj : s.w.jobRuns 0 = true) (hcore : leAt q.payload 0 2 < 384) (hown : s.w.partOfCore (leAt q.payload 0 2) = 0)
    (hr : s.w.reaches q.src.toNat) : ∃ t, exec (.fabSignal q) s = .next t ∧ s.restKept t ∧ s.w.memoriesKept t.w ∧ s.w.sent t.w 0x0A q.src.toNat []
      ∧ AMap.get 0 (t.w.core (leAt q.payload 0 2)).watches (leAt q.payload 2 1 % 64)
        = AMap.get 0 (s.w.core (leAt q.payload 0 2)).watches (leAt q.payload 2 1 % 64) + BitVec.ofNat 64 (leAt q.payload 4 2) := by
  have hplain : pktMulticast q = false := hc.2.2.1
  have hmem := s.w.arrived_memories s.sid 0x09 q
  have hout := s.w.arrived_out s.sid 0x09 q
  have hjob := (s.w.arrived_jobRuns s.sid 0x09 q 0).trans hj
  have hcores := (s.w.arrived_cores s.sid 0x09 q).1
  have hheld := s.w.arrived_orderHeld s.sid 0x09 q hc.2.2.2.1
  have hreach := s.w.arrived_reaches s.sid 0x09 q hr
  have hconfig := s.w.arrived_config (q := q) s.sid 0x09
  have hx := fun v h => exec_packet_served (i := .fabSignal q) (v := v) hs rfl (fun h => absurd h (by decide)) hc
    (show (s.w.arrived s.sid 0x09 q).process s.sid 0x09 q = v by rw [World.process, World.countMulticast_of_plain hplain]; exact h)
  generalize s.w.arrived s.sid 0x09 q = u at *
  have hpart : u.partOfCore (leAt q.payload 0 2) = 0 := by
    rw [World.partOfCore, World.ownerOfDie, hconfig]
    exact hown
  have htake : u.takeSignal s.sid q = (u.addWatch s.sid (leAt q.payload 0 2) (leAt q.payload 2 1 % 64) (BitVec.ofNat 64 (leAt q.payload 4 2))).sendPacket
      s.sid 0x0A q.src.toNat (ioSource 0) q.tag.toNat 0 false false [] := by
    rw [World.takeSignal, if_pos ⟨hjob, hcore, hpart⟩]
  have hadd := u.core_addWatch s.sid (leAt q.payload 0 2) (leAt q.payload 2 1 % 64) (BitVec.ofNat 64 (leAt q.payload 4 2)) (leAt q.payload 0 2)
  have hkept : u.memoriesKept (u.addWatch s.sid (leAt q.payload 0 2) (leAt q.payload 2 1 % 64) (BitVec.ofNat 64 (leAt q.payload 4 2)))
      ∧ (u.addWatch s.sid (leAt q.payload 0 2) (leAt q.payload 2 1 % 64) (BitVec.ofNat 64 (leAt q.payload 4 2))).out = u.out
      ∧ (u.addWatch s.sid (leAt q.payload 0 2) (leAt q.payload 2 1 % 64) (BitVec.ofNat 64 (leAt q.payload 4 2))).fab = u.fab := ⟨⟨rfl, rfl, rfl, rfl⟩, rfl, rfl⟩
  rw [if_pos rfl] at hadd
  generalize u.addWatch s.sid (leAt q.payload 0 2) (leAt q.payload 2 1 % 64) (BitVec.ofNat 64 (leAt q.payload 4 2)) = v at *
  obtain ⟨hvmem, hvout, hvfab⟩ := hkept
  have hmail := v.sendPacket_mailed s.sid 0x0A q.src.toNat (ioSource 0) q.tag.toNat 0 false false []
  obtain ⟨x, ho, hdst, hpay⟩ := v.sendPacket_leaves s.sid 0x0A q.src.toNat (ioSource 0) q.tag.toNat 0 false false []
    (by rw [World.reaches, World.physicalOf, hvfab]; exact hreach)
  refine ⟨_, hx _ htake ?_, s.restKept_world _, (hmem.trans hvmem).trans hmail.memories, ⟨x, ?_, hdst, hpay⟩, ?_⟩
  · rw [hmail.orderHeld, hvfab]
    exact hheld
  · exact ho.trans (by rw [hvout, hout])
  · rw [hmail.sent.core, hadd, Core.get_watched, if_pos rfl, World.core_of_cores hcores]

theorem migrate_accepted (e : DirEntry) (hj : s.w.jobRuns 0 = true)
    (hfind : ((s.w.part 0).dir.find? fun e => decide (e.kind = 1) && (decide (e.override0 = addrOffset q.address.toNat)
      || decide (e.override1 = addrOffset q.address.toNat))) = some e)
    (hrow : leAt q.payload 0 8 < e.records) (hhome : s.w.homesRow 0 e (leAt q.payload 0 8) = true) (htarget : leAt q.payload 8 2 ≠ s.w.ownPosition)
    (hcur : ∀ x ∈ e.curOver, x.1 ≠ leAt q.payload 0 8) (hpen : e.penOver.length < 65536)
    (hnew : ∀ x ∈ (s.w.part 0).accepted, x.1 = e.tensor → x.2.1 ≠ leAt q.payload 0 8)
    (hroom : (s.w.part 0).forwarding.length + (s.w.part 0).accepted.length < 4096) :
    ∃ t x, exec (.migrate q) s = .next t ∧ s.restKept t ∧ s.w.onlyHbm t.w
      ∧ (t.w.part 0).accepted = (s.w.part 0).accepted ++ [(e.tensor, leAt q.payload 0 8, leAt q.payload 8 2)]
      ∧ t.w.out = s.w.out ++ [.packet 0x0B x] ∧ pktMulticast x = true := by
  have hplain : pktMulticast q = false := hc.2.2.1
  have hmem := s.w.arrived_memories s.sid 0x0B q
  have hout := s.w.arrived_out s.sid 0x0B q
  have hjob := (s.w.arrived_jobRuns s.sid 0x0B q 0).trans hj
  have hheld := s.w.arrived_orderHeld s.sid 0x0B q hc.2.2.2.1
  have hdir := s.w.arrived_dir (q := q) s.sid 0x0B 0
  have hposition := s.w.arrived_position (q := q) s.sid 0x0B
  have hhomes := World.homesRow_of_same (s.w.arrived_bundle (q := q) s.sid 0x0B 0) hposition (s.w.arrived_config (q := q) s.sid 0x0B) e
    (leAt q.payload 0 8)
  have hacc := s.w.arrived_part_keeps s.sid Part.accepted (fun _ _ => rfl) (fun _ _ => rfl) 0x0B q 0
  have hfor := s.w.arrived_part_keeps s.sid Part.forwarding (fun _ _ => rfl) (fun _ _ => rfl) 0x0B q 0
  have hx := fun v h => exec_packet_served (i := .migrate q) (v := v) hs rfl (fun h => absurd h (by decide)) hc
    (show (s.w.arrived s.sid 0x0B q).process s.sid 0x0B q = v by rw [World.process, World.countMulticast_of_plain hplain]; exact h)
  generalize s.w.arrived s.sid 0x0B q = u at *
  have htake : u.takeMigrate s.sid q = u.decideMigration s.sid 0 ((u.clustersOf 0).headD 0) e (leAt q.payload 0 8) (leAt q.payload 8 2) := by
    unfold World.takeMigrate
    dsimp only
    rw [hdir, hfind]
    dsimp only
    rw [if_neg (by rw [hjob]; exact Bool.noConfusion), if_neg (by rw [hplain]; exact Bool.noConfusion), if_neg (by omega), if_pos (hhomes.trans hhome)]
  obtain ⟨v, x, hv, ⟨h1, h2, h3⟩, hvacc, hvout, hmulti, hvheld⟩ := World.decideMigration_accepts (t := s.sid) (k := (u.clustersOf 0).headD 0)
    (row := leAt q.payload 0 8) (target := leAt q.payload 8 2) (e := e) (by rw [hposition]; exact hc.2.1)
    (by rw [World.ownPosition_of_position hposition]; exact htarget) hcur hpen (by rw [hacc]; exact hnew) (by rw [hacc, hfor]; exact hroom)
  refine ⟨_, x, hx v (htake.trans hv) (hvheld.trans hheld), s.restKept_world _, ⟨h1.trans hmem.2.1, h2.trans hmem.2.2.1, h3.trans hmem.2.2.2⟩, ?_, ?_, hmulti⟩
  · exact hvacc.trans (by rw [hacc])
  · exact hvout.trans (by rw [hout])

end Acks

end Sys2Proof.Machine

namespace Sys2Proof.Machine

/-! ### Requests and replies of the sampler (R198 to R201) -/

section Requests
variable {w w1 : World} {t : Sid} {q : Packet} {bd : Bundle} {plan : Plan} {es : List DrawEdge}

/-- A reply of at most 64 edges is one packet. -/
theorem World.sendReply_single (k dst tag rtag node status check : Nat) (h : es.length ≤ 64) : w.sendReply t k dst tag rtag node status check es
    = w.sendPacket t 0x08 dst (clusterSource 5 k) tag 0 false false (replyImage status check rtag node 0 es.length true es) := by
  have hn : max 1 (ceilDiv es.length 64) = 1 := by
    rw [ceilDiv]
    omega
  have htake : (es.drop (64 * 0)).take 64 = es := List.take_of_length_le (by simpa using h)
  unfold World.sendReply
  dsimp only
  rw [hn]
  show w.sendPacket t 0x08 dst (clusterSource 5 k) tag 0 false false (replyImage status check rtag node 0 es.length (decide (0 + 1 = 1))
    ((es.drop (64 * 0)).take 64)) = _
  rw [htake]
  rfl

/-- A request for a draw whose bundle is another is answered with status 1. -/
theorem World.serveSample_of_other (hb : (w.part 0).bundle = some bd) (hp : w.plan 0 (leAt q.payload 1 1) = some plan)
    (hdigest : leAt bd.digest 0 4 ≠ leAt q.payload 28 4) :
    ∃ k, w.serveSample t q = w.sendReply t k q.src.toNat q.tag.toNat (leAt q.payload 4 4) (leAt q.payload 16 8) 1 0 [] := by
  unfold World.serveSample
  dsimp only
  rw [hb, hp]
  dsimp only
  rw [if_pos (.inl hdigest)]
  exact ⟨_, rfl⟩

/-- A request for a draw of a shard that is homed here is drawn for. -/
theorem World.serveSample_of_draw (hb : (w.part 0).bundle = some bd) (hp : w.plan 0 (leAt q.payload 1 1) = some plan)
    (hdigest : leAt bd.digest 0 4 = leAt q.payload 28 4) (hlow : 0 < leAt q.payload 2 1) (hhigh : leAt q.payload 2 1 ≤ plan.hops) {shard : Option Nat}
    (hshard : w.shardOfNode 0 (((w.part 0).entry plan.graph).elim 0 (·.curBase)) (w.hbmRead 0 (((w.part 0).entry plan.graph).elim 0 (·.curBase)) 128)
      (leAt q.payload 16 8) = shard) (haway : shard.bind (w.shardAway 0) = none)
    (hdraw : w.drawNode (w.homeCluster (shard.getD 0)) 0 plan (leAt q.payload 2 1) (leAt q.payload 8 8) (leAt q.payload 16 8) (leAt q.payload 24 4)
      = .ok (es, w1)) :
    w.serveSample t q = (w1.tick .smp (w.homeCluster (shard.getD 0)) 0x0A0).sendReply t (w.homeCluster (shard.getD 0)) q.src.toNat q.tag.toNat
      (leAt q.payload 4 4) (leAt q.payload 16 8) 0 0 es := by
  have hmeets : ¬ (leAt bd.digest 0 4 ≠ leAt q.payload 28 4 ∨ leAt q.payload 2 1 = 0 ∨ plan.hops < leAt q.payload 2 1) := by
    rintro (h | h | h)
    · exact h hdigest
    · omega
    · omega
  unfold World.serveSample
  dsimp only
  rw [hb, hp]
  dsimp only
  rw [if_neg hmeets, Option.elim_some, hshard, haway, if_neg (by decide), hdraw]

end Requests

section Replies
variable {w : World} {t : Sid} {k p : Nat} {plan : Plan}

/-- What requests for draws leave: the block in progress keeps its draws. -/
theorem World.requestDraw_keeps {r : SmpRun} (hr : (w.cluster k).smp.run = some r) (x : Nat × BNode × Nat) :
    w.memoriesKept (World.requestDraw t k p w x) ∧ (World.requestDraw t k p w x).fab.orderHeld = w.fab.orderHeld
      ∧ ∃ r1, ((World.requestDraw t k p w x).cluster k).smp.run = some r1 ∧ r1.draws = r.draws := by
  unfold World.requestDraw
  rw [hr]
  dsimp only
  split
  · exact ⟨w.memoriesKept_refl, rfl, r, hr, rfl⟩
  · have hmail := fun (v : World) b => v.sendPacket_mailed t 0x07 x.2.2 (clusterSource 5 k) (mkTag 5 k (w.cluster k).smp.nextTag) 0 false true b
    refine ⟨World.memoriesKept.trans ⟨rfl, rfl, rfl, rfl⟩ (hmail _ _).memories, (hmail _ _).orderHeld, ?_⟩
    rw [(hmail _ _).sent.cluster]
    refine ⟨{ r with remote := r.remote ++ [{ tag := mkTag 5 k (w.cluster k).smp.nextTag, node := x.2.1.node, parent := x.1 }] }, ?_, rfl⟩
    rw [(World.tick_noted _ .smp k 0x098).sent.cluster, World.updRun, World.updSmp, World.cluster_updCluster_self, World.updSmp, World.cluster_updCluster_self]
    dsimp only
    rw [hr]
    rfl

theorem World.requestDraws_keeps {r : SmpRun} (hr : (w.cluster k).smp.run = some r) (r0 : SmpRun) : let v := w.requestDraws t k p plan r0
    w.memoriesKept v ∧ v.fab.orderHeld = w.fab.orderHeld ∧ ∃ r1, (v.cluster k).smp.run = some r1 ∧ r1.draws = r.draws := by
  unfold World.requestDraws
  refine List.foldlRecOn _ (World.requestDraw t k p)
    (motive := fun v => w.memoriesKept v ∧ v.fab.orderHeld = w.fab.orderHeld ∧ ∃ r1, (v.cluster k).smp.run = some r1 ∧ r1.draws = r.draws)
    ⟨w.memoriesKept_refl, rfl, r, hr, rfl⟩ fun v ⟨hmem, hheld, r1, hr1, hd⟩ x _ => ?_
  obtain ⟨hm, hh, r2, hr2, hd2⟩ := World.requestDraw_keeps (t := t) (p := p) hr1 x
  exact ⟨hmem.trans hm, hh.trans hheld, r2, hr2, hd2.trans hd⟩

/-- A request as a part of its reply leaves it. -/
def RemoteDraw.withPart (x : RemoteDraw) (b : List Byte) (es : List DrawEdge) : RemoteDraw :=
  { x with parts := x.parts ++ [(leAt b 16 4, es)], lastPart := if bitAt (leAt b 22 2) 0 then some (leAt b 16 4) else x.lastPart }

/-- A reply's part is kept until all are here; then the draw of its parent stands. -/
theorem World.takeReply_keeps {r : SmpRun} {x : RemoteDraw} {q : Packet} {es : List DrawEdge} (hr : (w.cluster (tagInst q.tag.toNat)).smp.run = some r)
    (hx : (r.remote.find? fun z => decide (z.tag = leAt q.payload 4 4)) = some x)
    (hp : w.plan (w.partOfCluster (tagInst q.tag.toNat)) r.plan = some plan) (hok : leAt q.payload 1 1 = 0)
    (hes : replyEdges (plan.hop.getD (r.hop - 1) {}).mode ((w.shardOfNode (w.partOfCluster (tagInst q.tag.toNat))
      (((w.part (w.partOfCluster (tagInst q.tag.toNat))).entry plan.graph).elim 0 (·.curBase))
      (w.hbmRead (w.partOfCluster (tagInst q.tag.toNat)) (((w.part (w.partOfCluster (tagInst q.tag.toNat))).entry plan.graph).elim 0 (·.curBase)) 128)
      x.node).getD 0) q.payload = es) :
    ∃ v r1, w.takeReply t q = v ∧ w.memoriesKept v ∧ v.fab.orderHeld = w.fab.orderHeld ∧ (v.cluster (tagInst q.tag.toNat)).smp.run = some r1
      ∧ ((x.withPart q.payload es).whole = none → r1.draws = r.draws ∧ x.withPart q.payload es ∈ r1.remote)
      ∧ ∀ all, (x.withPart q.payload es).whole = some all → AMap.get none r1.draws x.parent = some all := by
  have hmem : x ∈ r.remote := List.mem_of_find?_eq_some hx
  have htake : w.takeReply t q = (match (x.withPart q.payload es).whole with
      | none => w.updRun (tagInst q.tag.toNat) fun r => { r with remote := r.remote.map fun z => if z.tag = x.tag then x.withPart q.payload es else z }
      | some all =>
        let w := w.updRun (tagInst q.tag.toNat) fun r =>
          { r with remote := r.remote.filter fun z => decide (z.tag ≠ x.tag), draws := AMap.set none r.draws x.parent (some all) }
        match (w.cluster (tagInst q.tag.toNat)).smp.run with
        | none => w
        | some r => w.requestDraws t (tagInst q.tag.toNat) (w.partOfCluster (tagInst q.tag.toNat)) plan r) := by
    unfold World.takeReply
    dsimp only
    rw [hr]
    dsimp only
    rw [hx, hp]
    dsimp only
    rw [if_neg (by omega), hes]
    rfl
  have hrun : ∀ f : SmpRun → SmpRun, ((w.updRun (tagInst q.tag.toNat) f).cluster (tagInst q.tag.toNat)).smp.run = some (f r) := fun f => by
    rw [World.updRun, World.updSmp, World.cluster_updCluster_self]
    dsimp only
    rw [hr]
    rfl
  cases hwhole : (x.withPart q.payload es).whole with
  | none =>
    rw [hwhole] at htake
    refine ⟨_, _, htake, ⟨rfl, rfl, rfl, rfl⟩, rfl, hrun _, fun _ => ⟨rfl, ?_⟩, nofun⟩
    exact List.mem_map.mpr ⟨x, hmem, if_pos rfl⟩
  | some all =>
    rw [hwhole] at htake
    dsimp only at htake
    rw [hrun] at htake
    obtain ⟨hm, hh, r1, hr1, hd⟩ := World.requestDraws_keeps (t := t) (p := w.partOfCluster (tagInst q.tag.toNat)) (plan := plan)
      (hrun fun r => { r with remote := r.remote.filter fun z => decide (z.tag ≠ x.tag), draws := AMap.set none r.draws x.parent (some all) })
      { r with remote := r.remote.filter fun z => decide (z.tag ≠ x.tag), draws := AMap.set none r.draws x.parent (some all) }
    refine ⟨_, r1, htake, World.memoriesKept.trans ⟨rfl, rfl, rfl, rfl⟩ hm, hh, hr1, nofun, fun all' he => ?_⟩
    obtain rfl := Option.some.inj he
    rw [hd]
    exact AMap.get_set_self none r.draws x.parent (some _)

end Replies

section Served
variable {s : State} {q : Packet} (hs : s.inService = true) (hc : s.w.comes q)
include hs hc

theorem exec_sampleReq_served {v : World} (hv : (s.w.arrived s.sid 0x07 q).serveSample s.sid q = v) (hf : v.fab.orderHeld = []) :
    exec (.sampleReq q) s = .next { s with w := v } := by
  have hplain : pktMulticast q = false := hc.2.2.1
  exact exec_packet_served hs rfl (fun h => absurd h (by decide)) hc (by rw [World.process, World.countMulticast_of_plain hplain]; exact hv) hf

theorem sampleReq_drawn {bd : Bundle} {plan : Plan} (hb : (s.w.part 0).bundle = some bd) (hp : s.w.plan 0 (leAt q.payload 1 1) = some plan)
    (hr : s.w.reaches q.src.toNat) (es : List DrawEdge) (w1 : World) {shard : Option Nat}
    (hshard : s.w.shardOfNode 0 (((s.w.part 0).entry plan.graph).elim 0 (·.curBase))
      (s.w.hbmRead 0 (((s.w.part 0).entry plan.graph).elim 0 (·.curBase)) 128) (leAt q.payload 16 8) = shard)
    (hdigest : leAt bd.digest 0 4 = leAt q.payload 28 4) (hlow : 0 < leAt q.payload 2 1) (hhigh : leAt q.payload 2 1 ≤ plan.hops)
    (haway : shard.bind (s.w.shardAway 0) = none)
    (hdraw : (s.w.arrived s.sid 7 q).drawNode (s.w.homeCluster (shard.getD 0)) 0 plan (leAt q.payload 2 1) (leAt q.payload 8 8) (leAt q.payload 16 8)
      (leAt q.payload 24 4) = .ok (es, w1)) (hfew : es.length ≤ 64) :
    ∃ t, exec (.sampleReq q) s = .next t ∧ s.restKept t ∧ s.w.memoriesKept t.w
      ∧ s.w.sent t.w 8 q.src.toNat (replyImage 0 0 (leAt q.payload 4 4) (leAt q.payload 16 8) 0 es.length true es) := by
  have hmem := s.w.arrived_memories s.sid 0x07 q
  have hout := s.w.arrived_out s.sid 0x07 q
  have hheld := s.w.arrived_orderHeld s.sid 0x07 q hc.2.2.2.1
  have hreach := s.w.arrived_reaches s.sid 0x07 q hr
  have hconfig := s.w.arrived_config (q := q) s.sid 0x07
  have hposition := s.w.arrived_position (q := q) s.sid 0x07
  have hbundle := s.w.arrived_bundle (q := q) s.sid 0x07 0
  have hread := World.hbmRead_of_good (s.w.arrived_good s.sid 0x07 q 0) hmem.1
  have hdir := s.w.arrived_dir (q := q) s.sid 0x07 0
  have hx := fun v h => exec_sampleReq_served (v := v) hs hc h
  generalize s.w.arrived s.sid 0x07 q = u at *
  have hentry : (u.part 0).entry plan.graph = (s.w.part 0).entry plan.graph := by rw [Part.entry, hdir, Part.entry]
  have haway' : u.shardAway 0 = s.w.shardAway 0 := funext fun i => World.shardAway_of_same hposition hconfig i
  have hserve := World.serveSample_of_draw (t := s.sid) (hbundle.trans hb) ((World.plan_of_bundle hbundle _).trans hp) hdigest hlow hhigh
    (shard := shard) (by rw [hentry, hread, World.shardOfNode_of_same hread]; exact hshard) (by rw [haway']; exact haway)
    (by rw [World.homeCluster_of_config hconfig]; exact hdraw)
  rw [World.sendReply_single _ _ _ _ _ _ _ hfew] at hserve
  obtain ⟨k, hk⟩ := u.drawNode_readsOnly 0 (leAt q.payload 16 8) _ _ _ _ _ es w1 hdraw
  subst hk
  generalize u.homeCluster (shard.getD 0) = c at *
  have hmail := World.sendPacket_mailed (World.tick { u with counters := k } .smp c 0x0A0) s.sid 0x08 q.src.toNat (clusterSource 5 c) q.tag.toNat 0 false
    false (replyImage 0 0 (leAt q.payload 4 4) (leAt q.payload 16 8) 0 es.length true es)
  obtain ⟨x, ho, hdst, hpay⟩ := World.sendPacket_leaves (World.tick { u with counters := k } .smp c 0x0A0) s.sid 0x08 q.src.toNat (clusterSource 5 c)
    q.tag.toNat 0 false false (replyImage 0 0 (leAt q.payload 4 4) (leAt q.payload 16 8) 0 es.length true es) hreach
  refine ⟨_, hx _ hserve (hmail.orderHeld.trans hheld), s.restKept_world _, hmem.trans hmail.memories, x, ?_, hdst, hpay⟩
  exact ho.trans (by rw [← hout]; rfl)

theorem sampleReq_refused {bd : Bundle} {plan : Plan} (hb : (s.w.part 0).bundle = some bd) (hp : s.w.plan 0 (leAt q.payload 1 1) = some plan)
    (hr : s.w.reaches q.src.toNat) (hdigest : leAt bd.digest 0 4 ≠ leAt q.payload 28 4) :
    ∃ t, exec (.sampleReq q) s = .next t ∧ s.restKept t ∧ s.w.memoriesKept t.w
      ∧ s.w.sent t.w 8 q.src.toNat (replyImage 1 0 (leAt q.payload 4 4) (leAt q.payload 16 8) 0 0 true []) := by
  have hmem := s.w.arrived_memories s.sid 0x07 q
  have hout := s.w.arrived_out s.sid 0x07 q
  have hheld := s.w.arrived_orderHeld s.sid 0x07 q hc.2.2.2.1
  have hreach := s.w.arrived_reaches s.sid 0x07 q hr
  have hbundle := s.w.arrived_bundle (q := q) s.sid 0x07 0
  have hx := fun v h => exec_sampleReq_served (v := v) hs hc h
  generalize s.w.arrived s.sid 0x07 q = u at *
  obtain ⟨c, hserve⟩ := World.serveSample_of_other (t := s.sid) (hbundle.trans hb) ((World.plan_of_bundle hbundle _).trans hp) hdigest
  rw [World.sendReply_single (es := []) _ _ _ _ _ _ _ (Nat.zero_le 64)] at hserve
  have hmail := u.sendPacket_mailed s.sid 0x08 q.src.toNat (clusterSource 5 c) q.tag.toNat 0 false false
    (replyImage 1 0 (leAt q.payload 4 4) (leAt q.payload 16 8) 0 0 true [])
  obtain ⟨x, ho, hdst, hpay⟩ := u.sendPacket_leaves s.sid 0x08 q.src.toNat (clusterSource 5 c) q.tag.toNat 0 false false
    (replyImage 1 0 (leAt q.payload 4 4) (leAt q.payload 16 8) 0 0 true []) hreach
  exact ⟨_, hx _ hserve (hmail.orderHeld.trans hheld), s.restKept_world _, hmem.trans hmail.memories, x, ho.trans (by rw [hout]), hdst, hpay⟩

theorem sampleReply_kept (r : SmpRun) (x : RemoteDraw) (plan : Plan) {es : List DrawEdge} (hr : (s.w.cluster (tagInst q.tag.toNat)).smp.run = some r)
    (hx : (r.remote.find? fun z => decide (z.tag = leAt q.payload 4 4)) = some x)
    (hp : s.w.plan (s.w.partOfCluster (tagInst q.tag.toNat)) r.plan = some plan) (hok : leAt q.payload 1 1 = 0)
    (hes : replyEdges (plan.hop.getD (r.hop - 1) {}).mode ((s.w.shardOfNode (s.w.partOfCluster (tagInst q.tag.toNat))
      (((s.w.part (s.w.partOfCluster (tagInst q.tag.toNat))).entry plan.graph).elim 0 (·.curBase))
      (s.w.hbmRead (s.w.partOfCluster (tagInst q.tag.toNat)) (((s.w.part (s.w.partOfCluster (tagInst q.tag.toNat))).entry plan.graph).elim 0 (·.curBase)) 128)
      x.node).getD 0) q.payload = es) :
    ∃ t r1, exec (.sampleReply q) s = .next t ∧ s.restKept t ∧ s.w.memoriesKept t.w ∧ (t.w.cluster (tagInst q.tag.toNat)).smp.run = some r1
      ∧ ((x.withPart q.payload es).whole = none → r1.draws = r.draws ∧ x.withPart q.payload es ∈ r1.remote)
      ∧ ∀ all, (x.withPart q.payload es).whole = some all → AMap.get none r1.draws x.parent = some all := by
  have hplain : pktMulticast q = false := hc.2.2.1
  obtain ⟨hmem, -, -, hcluster, -, hheld⟩ := World.responded_arrived hc 0x08
  have hresp := (s.w.arrived s.sid 0x08 q).responded_mailed s.sid q.tag.toNat
  have hconfig := hresp.sent.config.trans (s.w.arrived_config (q := q) s.sid 0x08)
  have hpart : ∀ {γ : Type} (g : Part → γ), (∀ x l, g { x with traceIn := l } = g x) → (∀ x n, g { x with progress := n } = g x) → ∀ p,
      g (((s.w.arrived s.sid 0x08 q).responded s.sid q.tag.toNat).part p) = g (s.w.part p) := fun g h1 h2 p =>
    (hresp.sent.part_keeps g h1 p).trans (s.w.arrived_part_keeps s.sid g h1 h2 0x08 q p)
  have hbundle := hpart Part.bundle (fun _ _ => rfl) (fun _ _ => rfl) (s.w.partOfCluster (tagInst q.tag.toNat))
  have hdir := hpart Part.dir (fun _ _ => rfl) (fun _ _ => rfl) (s.w.partOfCluster (tagInst q.tag.toNat))
  have hread := World.hbmRead_of_good (hpart Part.good (fun _ _ => rfl) (fun _ _ => rfl) (s.w.partOfCluster (tagInst q.tag.toNat))) hmem.1
  have hexec := fun v h => exec_packet_served (i := .sampleReply q) (v := v) hs rfl (fun h => absurd h (by decide)) hc
    (show (s.w.arrived s.sid 0x08 q).process s.sid 0x08 q = v by rw [World.process, World.countMulticast_of_plain hplain]; exact h)
  clear hpart hresp
  generalize (s.w.arrived s.sid 0x08 q).responded s.sid q.tag.toNat = u at *
  have hown := World.partOfCluster_of_config hconfig (tagInst q.tag.toNat)
  have hentry : (u.part (s.w.partOfCluster (tagInst q.tag.toNat))).entry plan.graph
      = (s.w.part (s.w.partOfCluster (tagInst q.tag.toNat))).entry plan.graph := by rw [Part.entry, hdir, Part.entry]
  obtain ⟨v, r1, hv, hkept, hvheld, hrun, hnone, hsome⟩ := World.takeReply_keeps (w := u) (t := s.sid) (plan := plan) (es := es)
    ((congrArg (·.smp.run) (hcluster _)).trans hr) hx (by rw [hown, World.plan_of_bundle hbundle]; exact hp) hok
    (by rw [hown, hentry, hread, World.shardOfNode_of_same hread]; exact hes)
  exact ⟨_, r1, hexec v hv (hvheld.trans hheld), s.restKept_world v, hmem.trans hkept, hrun, hnone, hsome⟩

end Served

/-- Settles O39: an arrival leaves what a unit goes by; what the unit does of a packet is then its own. -/
theorem packetsReachTheirUnits : Obligations.PacketsReachTheirUnits :=
  fun _ _ hs hc => ⟨nmrAck_counts hs hc, fun hj hcore hown hr => fabSignal_adds hs hc hj hcore hown hr, signalAck_completes hs hc,
    fun e hj hfind hrow hhome htarget hcur hpen hnew hroom => migrate_accepted hs hc e hj hfind hrow hhome htarget hcur hpen hnew hroom,
    kilnState_goes_on hs hc,
    fun _ _ hb hp hr => ⟨fun es w1 hdigest hlow hhigh haway hdraw hfew => sampleReq_drawn hs hc hb hp hr es w1 rfl hdigest hlow hhigh haway hdraw hfew,
      fun hdigest => sampleReq_refused hs hc hb hp hr hdigest⟩,
    fun r x plan hr hx hp hok => sampleReply_kept hs hc r x plan hr hx hp hok rfl⟩

end Sys2Proof.Machine

namespace Sys2Proof.Machine

/-! ### Accesses at local addresses of a cluster store (R265) -/

section StorePlaces
variable {w : World} {t : Sid} {a o n : Nat}

theorem localOf_store (h : localOf a = some (.store o)) : o = a % 2 ^ 24 := by
  unfold localOf at h
  split at h
  · split at h <;> simp at h
  · split at h
    · exact (LocalPlace.store.inj (Option.some.inj h)).symm
    · simp at h

theorem localOf_mod (a : Nat) : localOf (a % 2 ^ 64) = localOf a := by
  have h1 : a % 2 ^ 64 % 2 ^ 64 = a % 2 ^ 64 := Nat.mod_mod _ _
  have h2 : a % 2 ^ 64 % 2 ^ 24 = a % 2 ^ 24 := Nat.mod_mod_of_dvd _ (by decide)
  have h3 : bitsAt (a % 2 ^ 64) 24 39 = bitsAt a 24 39 := by
    unfold bitsAt
    omega
  rw [localOf, h1, h2, h3, localOf]

theorem World.localBad_of_store (p : Nat) (h : localOf a = some (.store o)) (hn : o + n ≤ storeBytes) : w.localBad p a n = none := by
  rw [World.localBad, h]
  exact if_neg (Nat.not_lt.mpr hn)

theorem World.localRead_of_store (src p k : Nat) (h : localOf a = some (.store o)) (hn : o + n ≤ storeBytes) :
    w.localRead src p k a n = .ok (w.storeRead k o n, w) := by
  rw [World.localRead, World.localBad_of_store p h hn, h]

theorem World.localWriteBad_of_store (p : Nat) (h : localOf a = some (.store o)) (hn : o + n ≤ storeBytes) : w.localWriteBad p a n = none := by
  rw [World.localWriteBad, h]
  exact World.localBad_of_store p h hn

theorem World.localStore_of_store (src p k : Nat) {bs : List Byte} (h : localOf a = some (.store o)) (hg : w.noGuards) :
    w.localStore t src p k a bs = { w with cstore := w.cstore.write (k * storeBytes + a % 2 ^ 24) bs } := by
  rw [World.localStore, h, localOf_store h]
  dsimp only
  rw [World.storeWrite, World.guardHits_of_none hg]
  rfl

theorem World.putAll_of_store (src p k : Nat) {outs : List (Nat × List Byte)} (ho : storeOuts outs) (hg : w.noGuards) :
    w.putAll t src p k outs = .ok { w with cstore := storeAfter w.cstore k outs } := by
  have hgood : (outs.findSome? fun x => w.localWriteBad p x.1 x.2.length) = none := by
    rw [List.findSome?_eq_none_iff]
    intro x hx
    obtain ⟨q, hq, hn⟩ := ho x hx
    exact World.localWriteBad_of_store p hq hn
  have hfold : ∀ (xs : List (Nat × List Byte)) (v : World), storeOuts xs → v.noGuards →
      xs.foldl (fun w x => w.localStore t src p k x.1 x.2) v = { v with cstore := storeAfter v.cstore k xs } := by
    intro xs
    induction xs with
    | nil => exact fun _ _ _ => rfl
    | cons x xs ih =>
      intro v hx hv
      obtain ⟨q, hq, -⟩ := hx x (List.mem_cons_self ..)
      rw [List.foldl_cons, World.localStore_of_store src p k hq hv]
      exact ih _ (fun y hy => hx y (List.mem_cons_of_mem _ hy)) hv
  rw [World.putAll, hgood]
  exact congrArg Except.ok (hfold outs w ho hg)

end StorePlaces

/-! ### How an operation of a cluster's unit ends (R53, R354) -/

/-- `z` is `w` with an operation ended that no core's ISSUE waited for. -/
structure World.UnitEnded (w z : World) (e : Engine) (o : IssuedOp) : Prop where
  memories : w.memoriesKept z
  cluster : ∀ k, z.cluster k = w.cluster k
  ended : w.opEnded z o.core e o
  counter : ∀ a, ¬ notedCounter a → AMap.get 0 z.counters a = AMap.get 0 w.counters a
  part : ∀ p, (z.part p).sameButTrace (w.part p)

section Ended
variable {w v : World} {t : Sid} {o : IssuedOp}

theorem World.cluster_of_clusters (h : v.clusters = w.clusters) (k : Nat) : v.cluster k = w.cluster k := by rw [World.cluster, h, World.cluster]

theorem World.noHeldIssue.of_cores {c : Nat} (h : w.noHeldIssue c) (hc : v.cores = w.cores) : v.noHeldIssue c :=
  h.of_held fun d => congrArg Core.held (World.core_of_cores hc d)

theorem World.noGuards.of_cores (h : w.noGuards) (hc : v.cores = w.cores) : v.noGuards := fun e he => h e (hc ▸ he)

theorem World.partOfCore_of_config (hc : v.config = w.config) (c : Nat) : v.partOfCore c = w.partOfCore c := by
  rw [World.partOfCore, World.ownerOfDie, hc, World.partOfCore, World.ownerOfDie]

theorem World.descOf_of_bundle (hc : v.config = w.config) (hb : ∀ p, (v.part p).bundle = (w.part p).bundle) (c i : Nat) : v.descOf c i = w.descOf c i := by
  rw [World.descOf, World.partOfCore_of_config hc, hb, World.descOf]

theorem World.notedFrom.descOf (h : v.notedFrom w) (c i : Nat) : v.descOf c i = w.descOf c i :=
  World.descOf_of_bundle h.config (fun p => h.part_keeps Part.bundle (fun _ _ => rfl) p) c i

theorem World.opRecord_Noted (w : World) (t : Sid) (src : Nat) (e : Engine) (o : IssuedOp) (phase : Nat) : w.Noted (w.opRecord t src e o phase) :=
  w.act_Noted t _ _ _ _ _ _

theorem World.finishOp_ended (h : w.noHeldIssue o.core) (src : Nat) (e : Engine) : w.UnitEnded (w.finishOp t src e o) e o := by
  rw [World.finishOp_of_noHeld h src e o rfl]
  have hn := w.opRecord_Noted t src e o 1
  generalize w.opRecord t src e o 1 = u at *
  obtain ⟨hnoted, hcounter⟩ := hn
  refine ⟨hnoted.memories, World.cluster_of_clusters hnoted.clusters, ?_, hcounter, hnoted.2⟩
  rw [World.opEnded, World.core_updCore, if_pos rfl, hnoted.core]

theorem World.UnitEnded.pending {z : World} {e : Engine} (h : v.UnitEnded z e o) {γ : Type} (g : Cluster → γ) (k : Nat) :
    g (z.cluster k) = g (v.cluster k) := congrArg g (h.cluster k)

/-- What a core holds of ended operations, where the world before the end has the same cores. -/
theorem World.UnitEnded.of_cores {z : World} {e : Engine} (h : v.UnitEnded z e o) (hc : v.cores = w.cores) : w.opEnded z o.core e o := by
  rw [World.opEnded, h.ended, World.core_of_cores hc]

end Ended

end Sys2Proof.Machine

namespace Sys2Proof.Machine

/-! ### The unique list and the inverse map (R233) -/

theorem mem_insertKey {x y : Nat} : ∀ {m : List Nat}, y ∈ insertKey x m ↔ y = x ∨ y ∈ m
  | [] => by simp [insertKey]
  | z :: r => by
    unfold insertKey
    split
    · simp
    · split
      next h => simp [h]
      next => rw [List.mem_cons, mem_insertKey, List.mem_cons]; tauto

theorem pairwise_insertKey {x : Nat} : ∀ {m : List Nat}, m.Pairwise (· < ·) → (insertKey x m).Pairwise (· < ·)
  | [], _ => List.pairwise_singleton _ _
  | y :: r, h => by
    obtain ⟨hy, hr⟩ := List.pairwise_cons.mp h
    unfold insertKey
    split
    next hxy => exact List.pairwise_cons.mpr ⟨fun z hz => by
      obtain rfl | hz := List.mem_cons.mp hz
      · exact hxy
      · exact hxy.trans (hy z hz), h⟩
    next hxy =>
      split
      next => exact h
      next hne =>
        refine List.pairwise_cons.mpr ⟨fun z hz => ?_, pairwise_insertKey hr⟩
        obtain rfl | hz := mem_insertKey.mp hz
        · omega
        · exact hy z hz

theorem mem_foldl_insertKey {x : Nat} : ∀ (ks m : List Nat), x ∈ ks.foldl (fun m y => insertKey y m) m ↔ x ∈ ks ∨ x ∈ m
  | [], m => by simp
  | k :: ks, m => by rw [List.foldl_cons, mem_foldl_insertKey, mem_insertKey, List.mem_cons]; tauto

theorem uniqueKeys_pairwise (lo hi : Nat) (ks : List Nat) : (uniqueKeys lo hi ks).Pairwise (· < ·) :=
  List.foldlRecOn (ks.filter _) _ (motive := List.Pairwise (· < ·)) .nil fun _ h _ _ => pairwise_insertKey h

theorem mem_uniqueKeys {lo hi x : Nat} {ks : List Nat} : x ∈ uniqueKeys lo hi ks ↔ x ∈ ks ∧ lo ≤ x ∧ x < hi := by
  rw [uniqueKeys, mem_foldl_insertKey]
  simp

/-- A key's place in the inverse map names the key in the list. -/
theorem inverseOf_getD {us ks : List Nat} {i : Nat} (hi : i < ks.length) (hlen : us.length ≤ 0xFFFFFFFF) (h : (inverseOf us ks).getD i 0 < us.length) :
    us.getD ((inverseOf us ks).getD i 0) 0 = ks.getD i 0 := by
  have hget : (inverseOf us ks).getD i 0 = (us.findIdx? fun u => decide (u = ks.getD i 0)).getD 0xFFFFFFFF := by
    simp [inverseOf, List.getD_eq_getElem?_getD, List.getElem?_eq_getElem hi]
  rw [hget] at h ⊢
  generalize ks.getD i 0 = x at *
  cases hf : us.findIdx? fun u => decide (u = x) with
  | none => rw [hf] at h; exact absurd h (Nat.not_lt.mpr hlen)
  | some j =>
    obtain ⟨hj, hx, -⟩ := List.findIdx?_eq_some_iff_getElem.mp hf
    rw [Option.getD_some, List.getD_eq_getElem?_getD, List.getElem?_eq_getElem hj]
    exact of_decide_eq_true hx

/-! ### SORT_UNIQUE (R232, R233) -/

/-- What SORT_UNIQUE writes for the keys `ks`; WORK is left with free bytes from `base` on. -/
def suqOuts (base : Nat) (d : List Byte) (n : Nat) (ks : List Nat) : List (Nat × List Byte) :=
  let us := uniqueKeys (suqLo d) (suqHi d) ks
  let inv := inverseOf us ks
  let gone := (inv.filter fun i => decide (i = 0xFFFFFFFF)).length
  let counts := us.zipIdx.map fun u => (inv.filter fun i => decide (i = u.2)).length
  [(suqWork d, freeBytes base (16 * n)),
      (suqUnique d, leBytes 4 us.length ++ leBytes 4 n ++ leBytes 4 gone ++ [0, 0, 0, 0] ++ us.flatMap (leBytes 8)),
      (suqInverse d, inv.flatMap (leBytes 4))] ++ if suqCounts d then [(suqCountsAddr d, counts.flatMap (leBytes 4))] else []

section Suq
variable {w : World} {t : Sid} {k a : Nat} {o : IssuedOp} {d : List Byte}

theorem World.length_storeList (w : World) (k a size n : Nat) : (w.storeList k a size n).length = n := by
  rw [World.storeList, List.length_map, List.length_range]

theorem World.suqKeys_of_store (p : Nat) (hblock : suqBlock d = false) (hwork : suqFromWork d = false) (hn : suqCount d ≤ 4194304)
    (ha : localOf (suqIn d) = some (.store a)) (hroom : a + 8 * suqCount d ≤ storeBytes) :
    w.suqKeys p k d o = .ok (w.storeList k a 8 (suqCount d), w) := by
  have haddr : localOf ((suqIn d + if suqFromWork d then o.word (suqWord d) else 0) % 2 ^ 64) = some (.store a) := by
    rw [localOf_mod, if_neg (by rw [hwork]; exact Bool.noConfusion), Nat.add_zero, ha]
  unfold World.suqKeys
  dsimp only
  rw [if_neg (by rw [hblock]; exact Bool.noConfusion), if_neg (Nat.not_lt.mpr hn), World.localRead_of_store _ p k haddr hroom]
  rfl

/-- The world after the SUQ wrote and counted `n` keys, `us` unique and `gone` out of range, before its operation ends. -/
def World.suqWrote (w : World) (k : Nat) (m : Memory) (n us gone : Nat) : World :=
  (((({ w.count (Block.suq.addr k 0x080) n with cstore := m, free := w.free + 16 * n }).count (Block.suq.addr k 0x088) us).count
    (Block.suq.addr k 0x090) gone).updSuq k fun x => { x with pending := x.pending.drop 1 })

theorem World.suqWrote_pending (m : Memory) (n us gone : Nat) : ((w.suqWrote k m n us gone).cluster k).suq.pending = (w.cluster k).suq.pending.drop 1 :=
  congrArg (fun x : Cluster => x.suq.pending) (World.cluster_updCluster_self _ k _)

theorem World.suqWrote_keys (m : Memory) (n us gone : Nat) : AMap.get 0 (w.suqWrote k m n us gone).counters (Block.suq.addr k 0x080)
    = AMap.get 0 w.counters (Block.suq.addr k 0x080) + BitVec.ofNat 64 n := by
  rw [World.suqWrote, World.updSuq, World.updCluster_counters]
  refine (World.counter_count_ne _ _ fun e => ?_).trans ((World.counter_count_ne _ _ fun e => ?_).trans (w.counter_count_self _ _))
  · exact Block.addr_ne (by decide) (by decide) (by decide) e
  · exact Block.addr_ne (by decide) (by decide) (by decide) e

theorem World.suqWrote_unique (m : Memory) (n us gone : Nat) : AMap.get 0 (w.suqWrote k m n us gone).counters (Block.suq.addr k 0x088)
    = AMap.get 0 w.counters (Block.suq.addr k 0x088) + BitVec.ofNat 64 us := by
  rw [World.suqWrote, World.updSuq, World.updCluster_counters]
  refine (World.counter_count_ne _ _ fun e => ?_).trans ((World.counter_count_self _ _ _).trans (congrArg (· + _) (w.counter_count_ne _ fun e => ?_)))
  · exact Block.addr_ne (by decide) (by decide) (by decide) e
  · exact Block.addr_ne (by decide) (by decide) (by decide) e

theorem World.suqRun_eq (hd : w.descOf o.core o.desc = d) (hblock : suqBlock d = false) (hwork : suqFromWork d = false) (hn : suqCount d ≤ 4194304)
    (ha : localOf (suqIn d) = some (.store a)) (hroom : a + 8 * suqCount d ≤ storeBytes)
    (houts : storeOuts (suqOuts w.free d (suqCount d) (w.storeList k a 8 (suqCount d)))) (hg : w.noGuards) :
    ∃ gone, w.suqRun t k o = (w.suqWrote k (storeAfter w.cstore k (suqOuts w.free d (suqCount d) (w.storeList k a 8 (suqCount d)))) (suqCount d)
      (uniqueKeys (suqLo d) (suqHi d) (w.storeList k a 8 (suqCount d))).length gone).finishOp t (clusterSource 7 k) .suq o := by
  have hlen := w.length_storeList k a 8 (suqCount d)
  obtain ⟨m, hm⟩ : ∃ m, storeAfter w.cstore k (suqOuts w.free d (suqCount d) (w.storeList k a 8 (suqCount d))) = m := ⟨_, rfl⟩
  have hput : (w.count (Block.suq.addr k 0x080) (suqCount d)).putAll t (clusterSource 7 k) (w.partOfCluster k) k
      (suqOuts w.free d (suqCount d) (w.storeList k a 8 (suqCount d))) = .ok { w.count (Block.suq.addr k 0x080) (suqCount d) with cstore := m } := by
    rw [← hm]
    exact World.putAll_of_store _ _ _ houts hg
  rw [hm]
  unfold World.suqRun
  dsimp only
  rw [hd, World.suqKeys_of_store _ hblock hwork hn ha hroom]
  dsimp only
  rw [hlen]
  unfold suqOuts at hput
  dsimp only at hput
  rw [show (w.count (Block.suq.addr k 0x080) (suqCount d)).free = w.free from rfl, hput]
  dsimp only
  generalize (uniqueKeys (suqLo d) (suqHi d) (w.storeList k a 8 (suqCount d))).length = us
  exact ⟨_, rfl⟩

/-- What an operation of the SUQ leaves. -/
theorem World.suqRun_writes (hd : w.descOf o.core o.desc = d) (hblock : suqBlock d = false) (hwork : suqFromWork d = false) (hn : suqCount d ≤ 4194304)
    (ha : localOf (suqIn d) = some (.store a)) (hroom : a + 8 * suqCount d ≤ storeBytes)
    (houts : storeOuts (suqOuts w.free d (suqCount d) (w.storeList k a 8 (suqCount d)))) (hg : w.noGuards) (hh : w.noHeldIssue o.core) :
    ∃ v, (v.UnitEnded (w.suqRun t k o) .suq o) ∧ w.onlyStore v ∧ v.cores = w.cores
      ∧ v.cstore = storeAfter w.cstore k (suqOuts w.free d (suqCount d) (w.storeList k a 8 (suqCount d)))
      ∧ (v.cluster k).suq.pending = (w.cluster k).suq.pending.drop 1
      ∧ AMap.get 0 v.counters (Block.suq.addr k 0x080) = AMap.get 0 w.counters (Block.suq.addr k 0x080) + BitVec.ofNat 64 (suqCount d)
      ∧ AMap.get 0 v.counters (Block.suq.addr k 0x088) = AMap.get 0 w.counters (Block.suq.addr k 0x088)
        + BitVec.ofNat 64 (uniqueKeys (suqLo d) (suqHi d) (w.storeList k a 8 (suqCount d))).length := by
  obtain ⟨gone, hrun⟩ := World.suqRun_eq (t := t) hd hblock hwork hn ha hroom houts hg
  rw [hrun]
  generalize storeAfter w.cstore k (suqOuts w.free d (suqCount d) (w.storeList k a 8 (suqCount d))) = m
  generalize (uniqueKeys (suqLo d) (suqHi d) (w.storeList k a 8 (suqCount d))).length = us
  have hcores : (w.suqWrote k m (suqCount d) us gone).cores = w.cores := rfl
  exact ⟨_, World.finishOp_ended (hh.of_cores hcores) _ _, ⟨rfl, rfl, rfl⟩, hcores, rfl, World.suqWrote_pending m _ us gone,
    World.suqWrote_keys m _ us gone, World.suqWrote_unique m _ us gone⟩

variable {s : State} {cluster : ClusterId} {rest : List IssuedOp}

theorem exec_sortUnique_of_pending (hs : s.inService = true) (hfree : s.w.unitFree 7 cluster.val) (hf : (s.w.cluster cluster.val).suq.faulted = false)
    (hp : (s.w.cluster cluster.val).suq.pending = o :: rest) :
    exec (.sortUnique cluster) s
      = .next { s with w := (s.w.opRecord s.sid (clusterSource 7 cluster.val) .suq o 0).suqRun s.sid cluster.val o } := by
  obtain ⟨hl, ht, hh⟩ := hfree
  refine next_of_serve hs ?_
  dsimp only
  rw [hp]
  dsimp only
  rw [if_neg (by rw [hl, hf, ht]; decide), if_neg (by rw [hh]; decide)]

/-- SORT_UNIQUE writes its list, the inverse map and the counts, and nothing else. -/
theorem sortUnique_sorts (hs : s.inService = true) (hfree : s.w.unitFree 7 cluster.val) (hf : (s.w.cluster cluster.val).suq.faulted = false)
    (hp : (s.w.cluster cluster.val).suq.pending = o :: rest) (hd : s.w.descOf o.core o.desc = d) (hblock : suqBlock d = false)
    (hwork : suqFromWork d = false) (hn : suqCount d ≤ 4194304) (ha : localOf (suqIn d) = some (.store a)) (hroom : a + 8 * suqCount d ≤ storeBytes)
    (houts : storeOuts (suqOuts s.w.free d (suqCount d) (s.w.storeList cluster.val a 8 (suqCount d)))) (hg : s.w.noGuards)
    (hh : s.w.noHeldIssue o.core) :
    ∃ t, exec (.sortUnique cluster) s = .next t ∧ s.restKept t ∧ s.w.onlyStore t.w
      ∧ t.w.cstore = storeAfter s.w.cstore cluster.val (suqOuts s.w.free d (suqCount d) (s.w.storeList cluster.val a 8 (suqCount d)))
      ∧ (t.w.cluster cluster.val).suq.pending = rest ∧ s.w.opEnded t.w o.core .suq o
      ∧ AMap.get 0 t.w.counters (Block.suq.addr cluster.val 0x080)
        = AMap.get 0 s.w.counters (Block.suq.addr cluster.val 0x080) + BitVec.ofNat 64 (suqCount d)
      ∧ AMap.get 0 t.w.counters (Block.suq.addr cluster.val 0x088) = AMap.get 0 s.w.counters (Block.suq.addr cluster.val 0x088)
        + BitVec.ofNat 64 (uniqueKeys (suqLo d) (suqHi d) (s.w.storeList cluster.val a 8 (suqCount d))).length := by
  refine ⟨_, exec_sortUnique_of_pending hs hfree hf hp, s.restKept_world _, ?_⟩
  obtain ⟨hnoted, hcounter⟩ := s.w.opRecord_Noted s.sid (clusterSource 7 cluster.val) .suq o 0
  generalize s.w.opRecord s.sid (clusterSource 7 cluster.val) .suq o 0 = u at *
  have hlist : u.storeList cluster.val a 8 (suqCount d) = s.w.storeList cluster.val a 8 (suqCount d) := by
    rw [World.storeList, World.storeRead, hnoted.cstore, World.storeList, World.storeRead]
  rw [← hlist, ← hnoted.free] at houts ⊢
  obtain ⟨v, hend, ⟨h1, h2, h3⟩, hcores, hstore, hpend, hc1, hc2⟩ := World.suqRun_writes (t := s.sid) ((hnoted.descOf _ _).trans hd) hblock hwork hn ha
    hroom houts (hg.of_cores hnoted.cores) (hh.of_cores hnoted.cores)
  obtain ⟨e1, e2, e3, e4⟩ := hend.memories
  dsimp only
  generalize u.suqRun s.sid cluster.val o = z at *
  refine ⟨⟨(e1.trans h1).trans hnoted.hbm, (e2.trans h2).trans hnoted.tun, (e4.trans h3).trans hnoted.cellar⟩, (e3.trans hstore).trans (by rw [hnoted.cstore]),
    ?_, hend.of_cores (hcores.trans hnoted.cores), ?_, ?_⟩
  · rw [hend.cluster, hpend, World.cluster_of_clusters hnoted.clusters, hp]
    rfl
  · rw [hend.counter _ (not_notedCounter (by decide) (by decide) (by decide) (by decide)), hc1,
      hcounter _ (not_notedCounter (by decide) (by decide) (by decide) (by decide))]
  · rw [hend.counter _ (not_notedCounter (by decide) (by decide) (by decide) (by decide)), hc2,
      hcounter _ (not_notedCounter (by decide) (by decide) (by decide) (by decide))]

end Suq

end Sys2Proof.Machine

namespace Sys2Proof.Machine

/-! ### What reads of HBM leave of the counters of the clusters' units (R270, R403) -/

/-- `v` is `w` but for counters of the stacks' controllers and of blocks above them. -/
def World.countedAbove (w v : World) : Prop :=
  ∃ c, v = { w with counters := c } ∧ ∀ a < Block.hbc.base, AMap.get 0 c a = AMap.get 0 w.counters a

section CountedAbove
variable {w v u : World}

theorem World.countedAbove_refl : w.countedAbove w := ⟨w.counters, rfl, fun _ _ => rfl⟩

theorem World.countedAbove.trans (h : w.countedAbove v) (g : v.countedAbove u) : w.countedAbove u := by
  obtain ⟨c, rfl, h⟩ := h
  obtain ⟨c', rfl, g⟩ := g
  exact ⟨c', rfl, fun a ha => (g a ha).trans (h a ha)⟩

theorem World.countedAbove.foldl {α : Type} {f : World → α → World} (h : ∀ (v : World) (x : α), v.countedAbove (f v x)) (xs : List α) (w : World) :
    w.countedAbove (xs.foldl f w) :=
  List.foldlRecOn xs f (motive := w.countedAbove) World.countedAbove_refl fun v hv x _ => hv.trans (h v x)

theorem World.count_countedAbove (w : World) {a : Nat} (n : Nat) (h : Block.hbc.base ≤ a) : w.countedAbove (w.count a n) :=
  ⟨_, rfl, fun _ hx => w.counter_count_ne n (by omega)⟩

theorem hbc_base_le_hbc (i off : Nat) : Block.hbc.base ≤ Block.hbc.addr i off := by
  simp only [Block.addr]
  omega

theorem hbc_base_le_orb (i off : Nat) : Block.hbc.base ≤ Block.orb.addr i off := by
  simp only [Block.addr, Block.base]
  omega

theorem World.hbmCount_countedAbove (w : World) (p a n : Nat) (isWrite : Bool) : w.countedAbove (w.hbmCount p a n isWrite) := by
  refine World.countedAbove.foldl (fun v g => ?_) _ w
  have h := fun off => v.count_countedAbove 1 (hbc_base_le_hbc ((hbmLocate (v.part p).good g).1 / 32) off)
  dsimp only
  split
  · exact h _
  · exact (h _).trans (World.count_countedAbove _ 1 (hbc_base_le_hbc _ _))

theorem World.ringLeg_countedAbove (w : World) (d x y n : Nat) : w.countedAbove (w.ringLeg d x y n) := by
  unfold World.ringLeg
  split
  · exact World.countedAbove_refl
  · exact (w.count_countedAbove _ (hbc_base_le_orb d _)).trans (World.count_countedAbove _ n (hbc_base_le_orb d _))

theorem World.ringCarry_countedAbove (e y n : Nat) : ∀ (fuel : Nat) (w : World) (d x : Nat), w.countedAbove (w.ringCarry d x e y n fuel)
  | 0, _, _, _ => World.countedAbove_refl
  | fuel + 1, w, d, x => by
    unfold World.ringCarry
    split
    · exact w.ringLeg_countedAbove d x y n
    · split
      · exact ((w.ringLeg_countedAbove d x 1 n).trans (World.count_countedAbove _ n (hbc_base_le_orb _ _))).trans
          (World.ringCarry_countedAbove e y n fuel _ _ _)
      · exact ((w.ringLeg_countedAbove d x 4 n).trans (World.count_countedAbove _ n (hbc_base_le_orb _ _))).trans
          (World.ringCarry_countedAbove e y n fuel _ _ _)

theorem World.hbmFetch_countedAbove (w : World) (src p a n : Nat) :
    ∃ v, w.hbmFetch src p a n = (w.hbmRead p a n, v) ∧ w.countedAbove v := by
  refine ⟨_, rfl, (w.hbmCount_countedAbove p a n false).trans (World.countedAbove.foldl (fun v g => ?_) _ _)⟩
  dsimp only
  split
  · exact World.ringCarry_countedAbove _ _ _ _ _ _ _
  · exact World.ringCarry_countedAbove _ _ _ _ _ _ _

end CountedAbove

/-! ### How the GSU begins an operation (R235) -/

section Begin
variable {w : World} {t : Sid} {k op a : Nat} {o : IssuedOp} {rest : List IssuedOp} {e : DirEntry} {d : List Byte}

theorem World.gsuAct_of_begins (h : w.gsuBegins k op o rest e) (f : World → IssuedOp → DirEntry → World) :
    w.gsuAct t k op f = f (w.opRecord t (clusterSource 6 k) .gsu o 0) o e := by
  obtain ⟨⟨hl, hthr, hths⟩, hf, hst, hun, hp, hop, he, hsend, -⟩ := h
  unfold World.gsuAct
  dsimp only
  rw [hp]
  dsimp only
  rw [he]
  dsimp only
  rw [if_neg, if_neg (by rw [hst, hun]; decide), if_neg (by rw [hths]; exact Bool.noConfusion)]
  rw [hl, hf, hthr]
  rintro (h | h | h | h | ⟨hz, h⟩)
  · exact h hop
  · exact Bool.noConfusion h
  · exact Bool.noConfusion h
  · exact Bool.noConfusion h
  · exact Bool.noConfusion ((hsend hz).symm.trans h)

theorem World.gsuKeyList_of_store (p : Nat) (hsuq : gsuSuqList d = false) (ha : localOf (gsuKeysAt d o) = some (.store a))
    (hroom : a + 8 * gsuKeyCount d ≤ storeBytes) : w.gsuKeyList p k d o = .ok (w.storeList k a 8 (gsuKeyCount d), w) := by
  unfold World.gsuKeyList
  dsimp only
  rw [if_neg (by rw [hsuq]; exact Bool.noConfusion), World.localRead_of_store _ p k ha hroom]
  rfl

/-- The GSU without the operation that it ran. -/
def World.gsuIdle (w : World) (k : Nat) : World :=
  w.updGsu k fun x => { x with pending := x.pending.drop 1, started := false, remote := [], rows := [], unacked := none }

theorem World.gsuIdle_pending (w : World) (k : Nat) : ((w.gsuIdle k).cluster k).gsu.pending = (w.cluster k).gsu.pending.drop 1 :=
  congrArg (fun x : Cluster => x.gsu.pending) (World.cluster_updCluster_self _ k _)

/-- What the end of an operation of the GSU leaves. -/
theorem World.gsuDone_ended (hh : w.noHeldIssue o.core) : (w.gsuIdle k).UnitEnded (w.gsuDone t k o) .gsu o :=
  World.finishOp_ended (w := w.gsuIdle k) (hh.of_cores rfl) _ _

end Begin

/-! ### GATHER (R236, R237) -/

section Gather
variable {w : World} {t : Sid} {k p a : Nat} {o : IssuedOp} {rest : List IssuedOp} {e : DirEntry} {d : List Byte}

theorem gsu_below_hbc (cluster : ClusterId) {off : Nat} (h : off < 0x1000) : Block.gsu.addr cluster.val off < Block.hbc.base := by
  have := cluster.isLt
  simp only [Block.addr, Block.base]
  omega

/-- A row of the table that this module reads: its record, one more element counted. -/
theorem World.gatherRow_here (x : Nat × Nat) (hr : w.readsRow p e x.1 = true) (hf : w.hbmFailed p (e.curBase + x.1 * e.recordBytes) e.recordBytes = false) :
    ∃ v, w.gatherRow p k e x = .ok (w.hbmRead p (e.curBase + x.1 * e.recordBytes) e.recordBytes, v) ∧ (w.tick .gsu k 0x080).countedAbove v := by
  obtain ⟨v, hv, hc⟩ := (w.tick .gsu k 0x080).hbmFetch_countedAbove (clusterSource 6 k) p (e.curBase + x.1 * e.recordBytes) e.recordBytes
  refine ⟨v, ?_, hc⟩
  unfold World.gatherRow
  dsimp only
  rw [if_pos (show (w.tick .gsu k 0x080).readsRow p e x.1 = true from hr),
    if_neg (by rw [show (w.tick .gsu k 0x080).hbmFailed p _ _ = false from hf]; exact Bool.noConfusion), hv]
  rfl

theorem World.gatherRows_here (cluster : ClusterId) : ∀ (xs : List (Nat × Nat)) (w : World),
    (∀ x ∈ xs, w.readsRow p e x.1 = true ∧ w.hbmFailed p (e.curBase + x.1 * e.recordBytes) e.recordBytes = false) →
    ∃ c, w.gatherRows p cluster.val e xs
        = .ok (xs.map fun x => w.hbmRead p (e.curBase + x.1 * e.recordBytes) e.recordBytes, { w with counters := c })
      ∧ AMap.get 0 c (Block.gsu.addr cluster.val 0x080) = AMap.get 0 w.counters (Block.gsu.addr cluster.val 0x080) + BitVec.ofNat 64 xs.length
  | [], w, _ => ⟨w.counters, rfl, (BitVec.add_zero _).symm⟩
  | x :: xs, w, h => by
    obtain ⟨hr, hf⟩ := h x (List.mem_cons_self ..)
    obtain ⟨v, hv, c, rfl, hc⟩ := w.gatherRow_here (k := cluster.val) x hr hf
    obtain ⟨c', hv', hc'⟩ := World.gatherRows_here cluster xs { w.tick .gsu cluster.val 0x080 with counters := c } fun y hy => h y (List.mem_cons_of_mem _ hy)
    refine ⟨c', ?_, ?_⟩
    · rw [World.gatherRows, hv]
      dsimp only
      rw [hv']
      rfl
    · rw [hc', hc _ (gsu_below_hbc cluster (by decide)), World.tick, w.counter_count_self, List.length_cons, Nat.add_comm, BitVec.ofNat_add, ← BitVec.add_assoc]

/-- What a raw GATHER writes: the records of its keys, one after another. -/
def World.rawRows (w : World) (p : Nat) (d : List Byte) (e : DirEntry) (keys : List Nat) : List (Nat × List Byte) :=
  keys.zipIdx.map fun x => (gsuOut d + x.2 * e.recordBytes, w.hbmRead p (e.curBase + x.1 * e.recordBytes) e.recordBytes)

theorem zipIdx_map_zipIdx {α β : Type} (f : Nat → α) (g : α → Nat → β) (xs : List Nat) :
    ((xs.zipIdx.map fun x => f x.1).zipIdx.map fun r => g r.1 r.2) = xs.zipIdx.map fun x => g (f x.1) x.2 := by
  have h : (xs.zipIdx.map fun x => f x.1) = xs.map f := by
    rw [show (fun x : Nat × Nat => f x.1) = f ∘ Prod.fst from rfl, ← List.map_map, List.zipIdx_map_fst]
  rw [h, List.zipIdx_map, List.map_map]
  rfl

/-- What a raw GATHER whose rows are all read here leaves before it ends. -/
theorem World.gatherFinish_raw (cluster : ClusterId) {keys : List Nat} (hp : w.partOfCluster cluster.val = p) (hd : w.descOf o.core o.desc = d)
    (hraw : gsuRaw d = true)
    (hkeys : ∀ x ∈ keys, w.homesRow p e x = true ∧ w.hbmFailed p (e.curBase + x * e.recordBytes) e.recordBytes = false)
    (houts : storeOuts (w.rawRows p d e keys)) (hg : w.noGuards) :
    ∃ c, w.gatherFinish t cluster.val o e keys
        = World.gsuDone { w with counters := c, cstore := storeAfter w.cstore cluster.val (w.rawRows p d e keys) } t cluster.val o
      ∧ AMap.get 0 c (Block.gsu.addr cluster.val 0x080) = AMap.get 0 w.counters (Block.gsu.addr cluster.val 0x080) + BitVec.ofNat 64 keys.length := by
  obtain ⟨c, hrows, hc⟩ := World.gatherRows_here (p := p) (e := e) cluster keys.zipIdx w fun x hx => by
    obtain ⟨hh, hf⟩ := hkeys x.1 (List.fst_mem_of_mem_zipIdx hx)
    exact ⟨by rw [World.readsRow, hh]; rfl, hf⟩
  rw [List.length_zipIdx] at hc
  obtain ⟨m, hm⟩ : ∃ m, storeAfter w.cstore cluster.val (w.rawRows p d e keys) = m := ⟨_, rfl⟩
  have hput : World.putAll { w with counters := c } t (clusterSource 6 cluster.val) p cluster.val (w.rawRows p d e keys)
      = .ok { w with counters := c, cstore := m } := by
    rw [← hm]
    exact World.putAll_of_store (w := { w with counters := c }) _ _ _ houts hg
  refine ⟨c, ?_, hc⟩
  rw [hm]
  unfold World.gatherFinish
  dsimp only
  rw [hp, hd, hrows]
  dsimp only
  rw [if_pos hraw, zipIdx_map_zipIdx (fun x => w.hbmRead p (e.curBase + x * e.recordBytes) e.recordBytes) (fun b i => (gsuOut d + i * e.recordBytes, b)) keys]
  unfold World.rawRows at hput
  rw [hput]

theorem World.gsuGather_of_here (hp : w.partOfCluster k = p) (hd : w.descOf o.core o.desc = d) (hsuq : gsuSuqList d = false)
    (ha : localOf (gsuKeysAt d o) = some (.store a)) (hroom : a + 8 * gsuKeyCount d ≤ storeBytes) (hst : (w.cluster k).gsu.started = false)
    (hkeys : ∀ x ∈ w.storeList k a 8 (gsuKeyCount d), x < e.records ∧ w.homesRow p e x = true) :
    w.gsuGather t k o e = w.gatherFinish t k o e (w.storeList k a 8 (gsuKeyCount d)) := by
  have hall : ((w.storeList k a 8 (gsuKeyCount d)).find? fun x => decide (e.records ≤ x)) = none := by
    rw [List.find?_eq_none]
    intro x hx h
    exact absurd (of_decide_eq_true h) (Nat.not_le.mpr (hkeys x hx).1)
  have hfar : ((w.storeList k a 8 (gsuKeyCount d)).zipIdx.filter fun x => !w.readsRow p e x.1) = [] := by
    rw [List.filter_eq_nil_iff]
    intro x hx
    rw [World.readsRow, (hkeys x.1 (List.fst_mem_of_mem_zipIdx hx)).2]
    exact Bool.noConfusion
  unfold World.gsuGather
  dsimp only
  rw [hp, hd, World.gsuKeyList_of_store p hsuq ha hroom]
  dsimp only
  rw [hall]
  dsimp only
  rw [if_neg (by rw [hst]; exact Bool.noConfusion), hfar]
  rfl

variable {s : State} {cluster : ClusterId}

/-- A raw GATHER of rows homed here copies their records to the cluster store and nothing else. -/
theorem gsuGather_copies (hs : s.inService = true) (hb : s.w.gsuBegins cluster.val 0 o rest e) (hp : s.w.partOfCluster cluster.val = p)
    (hd : s.w.descOf o.core o.desc = d) (ha : localOf (gsuKeysAt d o) = some (.store a)) (hsuq : gsuSuqList d = false) (hraw : gsuRaw d = true)
    (hroom : a + 8 * gsuKeyCount d ≤ storeBytes)
    (hkeys : ∀ x ∈ s.w.storeList cluster.val a 8 (gsuKeyCount d), x < e.records ∧ s.w.homesRow p e x = true
      ∧ s.w.hbmFailed p (e.curBase + x * e.recordBytes) e.recordBytes = false)
    (houts : storeOuts (s.w.rawRows p d e (s.w.storeList cluster.val a 8 (gsuKeyCount d)))) (hg : s.w.noGuards) :
    ∃ t, exec (.gsuGather cluster) s = .next t ∧ s.restKept t ∧ s.w.onlyStore t.w
      ∧ t.w.cstore = storeAfter s.w.cstore cluster.val (s.w.rawRows p d e (s.w.storeList cluster.val a 8 (gsuKeyCount d)))
      ∧ (t.w.cluster cluster.val).gsu.pending = rest ∧ s.w.opEnded t.w o.core .gsu o
      ∧ AMap.get 0 t.w.counters (Block.gsu.addr cluster.val 0x080)
        = AMap.get 0 s.w.counters (Block.gsu.addr cluster.val 0x080) + BitVec.ofNat 64 (gsuKeyCount d) := by
  refine ⟨_, next_of_serve hs (World.gsuAct_of_begins hb _), s.restKept_world _, ?_⟩
  obtain ⟨-, -, hst, -, hpend, -, -, -, hh⟩ := hb
  obtain ⟨hnoted, hcounter⟩ := s.w.opRecord_Noted s.sid (clusterSource 6 cluster.val) .gsu o 0
  generalize s.w.opRecord s.sid (clusterSource 6 cluster.val) .gsu o 0 = u at *
  have hlist : u.storeList cluster.val a 8 (gsuKeyCount d) = s.w.storeList cluster.val a 8 (gsuKeyCount d) := by
    rw [World.storeList, World.storeRead, hnoted.cstore, World.storeList, World.storeRead]
  have hgood := hnoted.part_keeps Part.good (fun _ _ => rfl) p
  have hread := World.hbmRead_of_good hgood hnoted.hbm
  have hfailed := World.hbmFailed_of_good hgood hnoted.channels
  have hhome := World.homesRow_of_same (hnoted.part_keeps Part.bundle (fun _ _ => rfl) p) (congrArg Fab.position hnoted.fab) hnoted.config e
  have hraws : u.rawRows p d e (s.w.storeList cluster.val a 8 (gsuKeyCount d)) = s.w.rawRows p d e (s.w.storeList cluster.val a 8 (gsuKeyCount d)) := by
    simp only [World.rawRows, hread]
  have hpu : u.partOfCluster cluster.val = p := by rw [World.partOfCluster, World.ownerOfDie, hnoted.config]; exact hp
  have hdu := (hnoted.descOf o.core o.desc).trans hd
  have hlen := s.w.length_storeList cluster.val a 8 (gsuKeyCount d)
  dsimp only
  rw [World.gsuGather_of_here hpu hdu hsuq ha hroom ((congrArg (·.gsu.started) (World.cluster_of_clusters hnoted.clusters _)).trans hst)
    (by rw [hlist]; exact fun x hx => ⟨(hkeys x hx).1, (hhome x).trans (hkeys x hx).2.1⟩), hlist]
  generalize s.w.storeList cluster.val a 8 (gsuKeyCount d) = keys at *
  obtain ⟨c, hfin, hc⟩ := World.gatherFinish_raw (t := s.sid) cluster hpu hdu hraw
    (fun x hx => ⟨(hhome x).trans (hkeys x hx).2.1, (hfailed _ _).trans (hkeys x hx).2.2⟩) (by rw [hraws]; exact houts) (hg.of_cores hnoted.cores)
  rw [hfin, hraws, hnoted.cstore]
  generalize storeAfter s.w.cstore cluster.val (s.w.rawRows p d e keys) = m
  have hend := World.gsuDone_ended (w := { u with counters := c, cstore := m }) (t := s.sid) (k := cluster.val) (hh.of_cores hnoted.cores)
  have hidle := World.gsuIdle_pending { u with counters := c, cstore := m } cluster.val
  obtain ⟨e1, e2, e3, e4⟩ := hend.memories
  generalize World.gsuDone { u with counters := c, cstore := m } s.sid cluster.val o = z at *
  refine ⟨⟨e1.trans hnoted.hbm, e2.trans hnoted.tun, e4.trans hnoted.cellar⟩, e3, ?_, hend.of_cores hnoted.cores, ?_⟩
  · rw [hend.cluster, hidle]
    refine (congrArg (fun x : Cluster => x.gsu.pending.drop 1) (World.cluster_of_clusters hnoted.clusters cluster.val)).trans ?_
    rw [hpend]
    rfl
  · refine (hend.counter _ (not_notedCounter (by decide) (by decide) (by decide) (by decide))).trans (hc.trans ?_)
    rw [hcounter _ (not_notedCounter (by decide) (by decide) (by decide) (by decide)), hlen]

end Gather

end Sys2Proof.Machine

namespace Sys2Proof.Machine

/-! ### MIGRATE of a row homed here (R249) -/

section Entries
variable {w : World} {p : Nat} {e : DirEntry}

theorem Part.tensor_of_entry {x : Part} {id : Nat} (h : x.entry id = some e) : e.tensor = id :=
  of_decide_eq_true (List.find?_some (p := fun y : DirEntry => decide (y.tensor = id)) h)

theorem DirEntry.tensor_setPenOver (e : DirEntry) (xs : List (Nat × Nat × Nat)) : (e.setPenOver xs).tensor = e.tensor := by
  unfold DirEntry.setPenOver
  split <;> rfl

theorem DirEntry.penOver_setPenOver (e : DirEntry) (xs : List (Nat × Nat × Nat)) : (e.setPenOver xs).penOver = xs := by
  cases hc : e.current <;> simp [DirEntry.setPenOver, DirEntry.penOver, hc]

theorem Part.entry_updEntry {x : Part} {id : Nat} {f : DirEntry → DirEntry} (hf : ∀ y, (f y).tensor = y.tensor) (h : x.entry id = some e) :
    (x.updEntry id f).entry id = some (f e) := by
  have hcomp : ((fun y : DirEntry => decide (y.tensor = id)) ∘ fun y => if y.tensor = id then f y else y) = fun y => decide (y.tensor = id) := by
    funext y
    simp only [Function.comp]
    split
    · rw [hf]
    · rfl
  rw [Part.entry, Part.updEntry, List.find?_map, hcomp, show (x.dir.find? fun y => decide (y.tensor = id)) = some e from h, Option.map_some,
    if_pos (Part.tensor_of_entry h)]

/-- Where the map names another home, the entry that is put is among the overrides. -/
theorem World.mem_overridesWith {row pos : Nat} (h : w.mapHome p e row ≠ pos) (step : Nat) : (row, pos, step) ∈ w.overridesWith p e row pos step := by
  unfold World.overridesWith
  dsimp only
  rw [if_neg h]
  exact List.mem_append_right _ (List.mem_cons_self ..)

end Entries

section Noted
variable {w : World} {t : Sid} {p row target : Nat} {e : DirEntry}

/-- What putting an override entry leaves of the rest; where the map names another home, the entry stands. -/
theorem World.putOverride_entry {pos : Nat} (he : (w.part p).entry e.tensor = some e) (hmap : w.mapHome p e row ≠ pos) (step : Nat) :
    let v := w.putOverride p e.tensor row pos step
    v.cores = w.cores ∧ v.clusters = w.clusters ∧ v.counters = w.counters
      ∧ ∃ f, (v.part p).entry e.tensor = some f ∧ (row, pos, step) ∈ f.penOver := by
  obtain ⟨m, h⟩ := w.putOverride_of_entry he row pos step
  have hmem := World.mem_overridesWith hmap step
  dsimp only
  rw [h]
  generalize w.overridesWith p e row pos step = xs at *
  refine ⟨rfl, rfl, rfl, e.setPenOver xs, ?_, by rw [DirEntry.penOver_setPenOver]; exact hmem⟩
  exact (congrArg (Part.entry · e.tensor) (w.part_updPart_self p fun x => x.updEntry e.tensor fun y => y.setPenOver xs)).trans
    (Part.entry_updEntry (fun y => y.tensor_setPenOver xs) he)

/-- What a noted migration leaves of the rest, and its entry in the pending override table. -/
theorem World.migrationNoted_entry (he : (w.part p).entry e.tensor = some e) (hmap : w.mapHome p e row ≠ target) (k : Nat) :
    let v := w.migrationNoted p k e.tensor row target
    v.cores = w.cores ∧ v.clusters = w.clusters ∧ v.counters = (w.tick .gsu k 0x098).counters
      ∧ ∃ f, (v.part p).entry e.tensor = some f ∧ (row, target, (w.part p).step + 1) ∈ f.penOver := by
  have hentry := (w.tick .gsu k 0x098).part_updPart_keeps (Part.entry · e.tensor) p
    (fun y => { y with accepted := y.accepted ++ [(e.tensor, row, target)] }) (fun _ => rfl) p
  have hbundle := (w.tick .gsu k 0x098).part_updPart_keeps Part.bundle p
    (fun y => { y with accepted := y.accepted ++ [(e.tensor, row, target)] }) (fun _ => rfl) p
  have hhome := World.mapHome_of_same (w := w) hbundle rfl rfl e row
  obtain ⟨h1, h2, h3, h4⟩ := World.putOverride_entry (pos := target) (hentry.trans he) (fun h => hmap (hhome.symm.trans h)) ((w.part p).step + 1)
  exact ⟨h1, h2, h3, h4⟩

theorem gsu_migrated_not_mail (cluster : ClusterId) : ¬ mailCounter (Block.gsu.addr cluster.val 0x098) := by
  have hk := cluster.isLt
  rintro ((e | e | e | ⟨p, e⟩) | ⟨off, h, e⟩ | ⟨i, off, h, e⟩) <;> simp only [Block.addr, Block.base] at e <;> omega

/-- A migration that is accepted changes HBM and its partition; it is counted and stands in the pending override table. -/
theorem World.decideMigration_facts (cluster : ClusterId) (he : (w.part p).entry e.tensor = some e) (hmap : w.mapHome p e row ≠ target)
    (htarget : target ≠ w.ownPosition) (hcur : ∀ x ∈ e.curOver, x.1 ≠ row) (hpen : e.penOver.length < 65536)
    (hnew : ∀ x ∈ (w.part p).accepted, x.1 = e.tensor → x.2.1 ≠ row) (hroom : (w.part p).forwarding.length + (w.part p).accepted.length < 4096) :
    let v := w.decideMigration t p cluster.val e row target
    w.onlyHbm v ∧ v.cores = w.cores ∧ v.clusters = w.clusters ∧ (v.part p).accepted = (w.part p).accepted ++ [(e.tensor, row, target)]
      ∧ AMap.get 0 v.counters (Block.gsu.addr cluster.val 0x098) = AMap.get 0 w.counters (Block.gsu.addr cluster.val 0x098) + 1
      ∧ ∃ f, (v.part p).entry e.tensor = some f ∧ (row, target, (w.part p).step + 1) ∈ f.penOver := by
  dsimp only
  rw [World.decideMigration_eq t htarget hcur hpen hnew hroom]
  obtain ⟨hm, -, -, hacc⟩ := w.migrationNoted_facts p cluster.val e.tensor row target
  obtain ⟨hcores, hclusters, hcounters, f, hf, hmem⟩ := World.migrationNoted_entry he hmap cluster.val
  have hcount : AMap.get 0 (w.migrationNoted p cluster.val e.tensor row target).counters (Block.gsu.addr cluster.val 0x098)
      = AMap.get 0 w.counters (Block.gsu.addr cluster.val 0x098) + 1 := by
    rw [hcounters]
    exact w.counter_count_self _ 1
  generalize w.migrationNoted p cluster.val e.tensor row target = u at *
  split
  case isFalse => exact ⟨hm, hcores, hclusters, hacc, hcount, f, hf, hmem⟩
  case isTrue =>
    obtain ⟨v, n, x, hv, hmail, -, -⟩ := u.sendMulticast_leaves t 0x0B (clusterSource 6 cluster.val) 0 e.penOverBase true
      (leBytes 6 row ++ leBytes 2 target ++ leBytes 8 ((w.part p).step + 1))
    obtain ⟨hm1, hm2, hm3, hm4⟩ := hmail.memories
    have hkeep : ∀ {γ : Type} (g : Part → γ), (∀ x l, g { x with traceIn := l } = g x) → (∀ x m, g { x with mcSent := m } = g x) →
        g (v.part p) = g (u.part p) := fun g h1 h2 =>
      (hmail.sent.part_keeps g h1 p).trans (u.part_updPart_keeps g 0 (fun y => { y with mcSent := y.mcSent + n }) (fun y => h2 y _) p)
    obtain ⟨h1, h2, h3⟩ := hm
    rw [hv]
    exact ⟨⟨hm2.trans h1, hm3.trans h2, hm4.trans h3⟩, hmail.sent.cores.trans hcores, hmail.sent.clusters.trans hclusters,
      (hkeep Part.accepted (fun _ _ => rfl) (fun _ _ => rfl)).trans hacc, (hmail.counter _ (gsu_migrated_not_mail cluster)).trans hcount, f,
      (hkeep (Part.entry · e.tensor) (fun _ _ => rfl) (fun _ _ => rfl)).trans hf, hmem⟩

end Noted

section Migrate
variable {w : World} {t : Sid} {k p a : Nat} {o : IssuedOp} {rest : List IssuedOp} {e : DirEntry} {d : List Byte}

/-- A MIGRATE of one row that this module homes decides it. -/
theorem World.gsuMigrate_of_home (hp : w.partOfCluster k = p) (hd : w.descOf o.core o.desc = d) (hn : gsuKeyCount d = 1)
    (ha : localOf (gsuKeysAt d o) = some (.store a)) (hroom : a + 16 ≤ storeBytes) (he : (w.part p).entry e.tensor = some e)
    (hrow : leAt (w.storeRead k a 16) 0 8 < e.records) (hhome : w.homesRow p e (leAt (w.storeRead k a 16) 0 8) = true) :
    w.gsuMigrate t k o e
      = (w.decideMigration t p k e (leAt (w.storeRead k a 16) 0 8) (leAt (w.storeRead k a 16) 8 2)).gsuDone t k o := by
  have hread : w.localRead (clusterSource 6 k) p k (gsuKeysAt d o) (16 * gsuKeyCount d) = .ok (w.storeRead k a 16, w) := by
    rw [hn]
    exact World.localRead_of_store _ p k ha hroom
  have hxs : ((List.range (gsuKeyCount d)).map fun i => (leAt (w.storeRead k a 16) (16 * i) 8, leAt (w.storeRead k a 16) (16 * i + 8) 2))
      = [(leAt (w.storeRead k a 16) 0 8, leAt (w.storeRead k a 16) 8 2)] := by rw [hn]; rfl
  unfold World.gsuMigrate
  dsimp only
  rw [hp, hd, hread]
  dsimp only
  rw [hxs]
  generalize leAt (w.storeRead k a 16) 0 8 = row at *
  generalize leAt (w.storeRead k a 16) 8 2 = target at *
  rw [List.find?_cons_of_neg (by simpa using hrow), List.filter_cons_of_neg (by rw [hhome]; decide), List.filter_nil]
  dsimp only [List.find?_nil]
  rw [if_neg (by simp), List.foldl_cons, List.foldl_nil]
  unfold World.sendMigration
  dsimp only
  rw [he, Option.getD_some, if_pos hhome]

theorem World.homesRow_fresh {row : Nat} (hcur : ∀ x ∈ e.curOver, x.1 ≠ row) (h : w.homesRow p e row = true) : w.mapHome p e row = w.ownPosition := by
  have hnone : (e.curOver.find? fun x => decide (x.1 = row)) = none := by
    rw [List.find?_eq_none]
    exact fun x hx h => hcur x hx (of_decide_eq_true h)
  have hhome := of_decide_eq_true h
  rw [World.homeOf, hnone] at hhome
  exact hhome

variable {s : State} {cluster : ClusterId}

/-- A MIGRATE entry for a row homed here is accepted. -/
theorem gsuMigrate_accepts (hs : s.inService = true) (hb : s.w.gsuBegins cluster.val 2 o rest e) (hp : s.w.partOfCluster cluster.val = p)
    (hd : s.w.descOf o.core o.desc = d) (ha : localOf (gsuKeysAt d o) = some (.store a)) (hn : gsuKeyCount d = 1) (hroom : a + 16 ≤ storeBytes)
    {row target : Nat} (hrow : leAt (s.w.storeRead cluster.val a 16) 0 8 = row) (htarget : leAt (s.w.storeRead cluster.val a 16) 8 2 = target)
    (hin : row < e.records) (hhome : s.w.homesRow p e row = true) (hown : target ≠ s.w.ownPosition) (hcur : ∀ x ∈ e.curOver, x.1 ≠ row)
    (hpen : e.penOver.length < 65536) (hnew : ∀ x ∈ (s.w.part p).accepted, x.1 = e.tensor → x.2.1 ≠ row)
    (hspace : (s.w.part p).forwarding.length + (s.w.part p).accepted.length < 4096) :
    ∃ t, exec (.gsuMigrate cluster) s = .next t ∧ s.restKept t ∧ s.w.onlyHbm t.w
      ∧ (t.w.part p).accepted = (s.w.part p).accepted ++ [(e.tensor, row, target)] ∧ (t.w.cluster cluster.val).gsu.pending = rest
      ∧ s.w.opEnded t.w o.core .gsu o
      ∧ AMap.get 0 t.w.counters (Block.gsu.addr cluster.val 0x098) = AMap.get 0 s.w.counters (Block.gsu.addr cluster.val 0x098) + 1
      ∧ ∃ f, (t.w.part p).entry e.tensor = some f ∧ (row, target, (s.w.part p).step + 1) ∈ f.penOver := by
  refine ⟨_, next_of_serve hs (World.gsuAct_of_begins hb _), s.restKept_world _, ?_⟩
  obtain ⟨-, -, -, -, hpend, -, hentry, -, hh⟩ := hb
  rw [hp] at hentry
  have hentry' : (s.w.part p).entry e.tensor = some e := by rw [Part.tensor_of_entry hentry]; exact hentry
  have hmap : s.w.mapHome p e row ≠ target := by rw [World.homesRow_fresh hcur hhome]; exact hown.symm
  obtain ⟨hnoted, hcounter⟩ := s.w.opRecord_Noted s.sid (clusterSource 6 cluster.val) .gsu o 0
  generalize s.w.opRecord s.sid (clusterSource 6 cluster.val) .gsu o 0 = u at *
  have hread : u.storeRead cluster.val a 16 = s.w.storeRead cluster.val a 16 := by rw [World.storeRead, hnoted.cstore, World.storeRead]
  have hbundle := hnoted.part_keeps Part.bundle (fun _ _ => rfl) p
  have hposition := congrArg Fab.position hnoted.fab
  have hkeep : ∀ {γ : Type} (g : Part → γ), (∀ x l, g { x with traceIn := l } = g x) → g (u.part p) = g (s.w.part p) := fun g hg => hnoted.part_keeps g hg p
  have hue := (hkeep (Part.entry · e.tensor) (fun _ _ => rfl)).trans hentry'
  have hpu : u.partOfCluster cluster.val = p := by rw [World.partOfCluster, World.ownerOfDie, hnoted.config]; exact hp
  dsimp only
  rw [World.gsuMigrate_of_home hpu ((hnoted.descOf o.core o.desc).trans hd) hn ha hroom hue (by rw [hread, hrow]; exact hin)
    (by rw [hread, hrow, World.homesRow_of_same hbundle hposition hnoted.config]; exact hhome), hread, hrow, htarget]
  have hacc := hkeep Part.accepted (fun _ _ => rfl)
  have hfor := hkeep Part.forwarding (fun _ _ => rfl)
  have hstep := hkeep Part.step (fun _ _ => rfl)
  obtain ⟨⟨h1, h2, h3⟩, hcores, hclusters, haccepted, hcount, f, hf, hmem⟩ := World.decideMigration_facts (t := s.sid) cluster hue
    (by rw [World.mapHome_of_same hbundle hposition hnoted.config]; exact hmap) (by rw [World.ownPosition_of_position hposition]; exact hown) hcur hpen
    (by rw [hacc]; exact hnew) (by rw [hacc, hfor]; exact hspace)
  generalize u.decideMigration s.sid p cluster.val e row target = v at *
  have hend := World.gsuDone_ended (w := v) (t := s.sid) (k := cluster.val) ((hh.of_cores hnoted.cores).of_cores hcores)
  have hidle := v.gsuIdle_pending cluster.val
  obtain ⟨e1, e2, e3, e4⟩ := hend.memories
  have hpart : ∀ {γ : Type} (g : Part → γ), (∀ x l, g { x with traceIn := l } = g x) → g ((v.gsuDone s.sid cluster.val o).part p) = g (v.part p) :=
    fun g hg => by
      obtain ⟨l, hl⟩ := hend.part p
      rw [hl]
      exact hg _ _
  have hgone := hpart Part.accepted (fun _ _ => rfl)
  have hentryv := hpart (Part.entry · e.tensor) (fun _ _ => rfl)
  clear hpart
  generalize v.gsuDone s.sid cluster.val o = z at *
  refine ⟨⟨(e2.trans h1).trans hnoted.tun, (e3.trans h2).trans hnoted.cstore, (e4.trans h3).trans hnoted.cellar⟩, hgone.trans (haccepted.trans (by rw [hacc])), ?_,
    hend.of_cores (hcores.trans hnoted.cores), ?_, f, hentryv.trans hf, by rw [← hstep]; exact hmem⟩
  · rw [hend.cluster, hidle]
    refine (congrArg (fun x : Cluster => x.gsu.pending.drop 1) (World.cluster_of_clusters (hclusters.trans hnoted.clusters) cluster.val)).trans ?_
    rw [hpend]
    rfl
  · refine (hend.counter _ fun h => gsu_migrated_not_mail cluster (.inl h)).trans (hcount.trans ?_)
    rw [hcounter _ fun h => gsu_migrated_not_mail cluster (.inl h)]

end Migrate

/-- Settles O28: the unique list is built by insertion; SORT_UNIQUE and a raw GATHER write runs of bytes that lie in the cluster store; a MIGRATE entry for a row
homed here passes each check of its home. -/
theorem keysAreSortedAndRowsGathered : Obligations.KeysAreSortedAndRowsGathered := by
  unfold Obligations.KeysAreSortedAndRowsGathered
  refine ⟨⟨fun lo hi ks => ⟨uniqueKeys_pairwise lo hi ks, fun x => mem_uniqueKeys⟩, fun us ks i => inverseOf_getD, ?_⟩, ?_⟩
  · intro s cluster o rest a hs k w d n ks us inv gone counts outs hfree hf hp hblock hwork hn ha hroom houts hg hh
    exact sortUnique_sorts hs hfree hf hp rfl hblock hwork hn ha hroom houts hg hh
  · intro s cluster o rest e a hs k w p d n rb ha
    refine ⟨fun hb hsuq hraw hroom hkeys houts hg => ?_, fun hb hn hroom hin hhome hown hcur hpen hnew hspace => ?_⟩
    · exact gsuGather_copies hs hb rfl rfl ha hsuq hraw hroom hkeys houts hg
    · obtain ⟨t, h1, h2, h3, h4, h5, h6, h7, h8⟩ := gsuMigrate_accepts hs hb rfl rfl ha hn hroom rfl rfl hin hhome hown hcur hpen hnew hspace
      exact ⟨t, h1, h2, h3, h4, h5, h6, h7, fun _ => h8⟩

end Sys2Proof.Machine

namespace Sys2Proof.Machine

/-! ### The bytes of a window cell (R241) -/

theorem bitsOf_signedOf (n v : Nat) : bitsOf n (signedOf n v) = v % 2 ^ n := by
  have hpos : 0 < 2 ^ n := Nat.two_pow_pos n
  have hlt := Nat.mod_lt v hpos
  have hmod : (signedOf n v) % ((2 ^ n : Nat) : Int) = ((v % 2 ^ n : Nat) : Int) := by
    unfold signedOf
    split
    · exact Int.emod_eq_of_lt (Int.natCast_nonneg _) (by exact_mod_cast hlt)
    · rw [Int.sub_emod_right]
      exact Int.emod_eq_of_lt (Int.natCast_nonneg _) (by exact_mod_cast hlt)
  rw [bitsOf, hmod, Int.toNat_natCast]

theorem signedOf_mod (n v : Nat) : signedOf n (v % 2 ^ n) = signedOf n v := by rw [signedOf, Nat.mod_mod, signedOf]

theorem length_cellImage (w128 : Bool) (c : Int × Bool × Bool) : (cellImage w128 c).length = cellBytes w128 := by
  cases w128 <;> simp [cellImage, cellBytes, cellBits]

/-- A cell's bytes give the cell back, its integer over the cell's width. -/
theorem parseCell_cellImage (w128 : Bool) (c : Int × Bool × Bool) :
    parseCell w128 (cellImage w128 c) = (signedOf (cellBits w128) (bitsOf (cellBits w128) c.1), c.2.1, c.2.2) := by
  obtain ⟨z, pos, neg⟩ := c
  have hpow : 256 ^ (cellBits w128 / 8) = 2 ^ cellBits w128 := by cases w128 <;> decide
  have hint : leAt (cellImage w128 (z, pos, neg)) 0 (cellBits w128 / 8) = bitsOf (cellBits w128) z % 2 ^ cellBits w128 := by
    rw [← hpow]
    simp only [cellImage, List.append_assoc]
    exact leAt_leBytes_append [] _ 0 _ _ rfl
  have hflag : leAt (cellImage w128 (z, pos, neg)) (cellBits w128 / 8) 1 = ((if pos then 1 else 0) + (if neg then 2 else 0)) % 256 ^ 1 := by
    simp only [cellImage, List.append_assoc]
    exact leAt_leBytes_append _ _ _ _ _ (length_leBytes _ _)
  unfold parseCell
  dsimp only
  rw [hint, hflag, signedOf_mod]
  cases pos <;> cases neg <;> rfl

/-- A sum of cells stands whole in its bytes. -/
theorem parseCell_cellAdd (w128 : Bool) (a b : Int × Bool × Bool) : parseCell w128 (cellImage w128 (cellAdd w128 a b)) = cellAdd w128 a b := by
  rw [parseCell_cellImage]
  unfold cellAdd
  dsimp only
  rw [bitsOf_signedOf, signedOf_mod]

theorem parseCell_zeros (w128 : Bool) : parseCell w128 (List.replicate (cellBytes w128) 0) = (0, false, false) := by
  cases w128 <;> decide

/-! ### Slices of concatenated runs of one length -/

theorem slice_flatMap {α : Type} {f : α → List Byte} {b : Nat} (hf : ∀ x, (f x).length = b) : ∀ (xs : List α) (j : Nat) (h : j < xs.length),
    slice (xs.flatMap f) (b * j) b = f xs[j]
  | x :: xs, 0, _ => by
    simp [slice, List.take_append_of_le_length (Nat.le_of_eq (hf x).symm), List.take_of_length_le (Nat.le_of_eq (hf x)), hf x]
  | x :: xs, j + 1, h => by
    have hdrop : ((x :: xs).flatMap f).drop (b * (j + 1)) = (xs.flatMap f).drop (b * j) := by
      rw [List.flatMap_cons, Nat.mul_succ, Nat.add_comm (b * j), ← List.drop_drop, List.drop_left' (hf x)]
    rw [slice, hdrop]
    exact slice_flatMap hf xs j (Nat.lt_of_succ_lt_succ h)

theorem length_flatMap_of {α : Type} {f : α → List Byte} {b : Nat} (hf : ∀ x, (f x).length = b) (xs : List α) :
    (xs.flatMap f).length = b * xs.length := by
  rw [List.length_flatMap, List.map_congr_left (g := fun _ => b) fun x _ => hf x, List.map_const', List.sum_replicate, smul_eq_mul, Nat.mul_comm]

theorem slice_replicate {b n j : Nat} (h : j < n) : slice (List.replicate (b * n) (0 : Byte)) (b * j) b = List.replicate b 0 := by
  have hle : b * j + b ≤ b * n := by rw [← Nat.mul_succ]; exact Nat.mul_le_mul_left b h
  rw [slice, List.drop_replicate, List.take_replicate, List.length_replicate, Nat.min_eq_left (by omega), Nat.sub_self, List.replicate_zero, List.append_nil]

/-! ### Reads of HBM after a store (R268) -/

section Reads
variable {w : World} {p a n : Nat} {bs : List Byte}

theorem World.slice_hbmRead (w : World) (p a : Nat) {o m n : Nat} (h : o + m ≤ n) : slice (w.hbmRead p a n) o m = w.hbmRead p (a + o) m := by
  have hcut : ((w.hbmRead p a n).drop o).take m = w.hbmRead p (a + o) m := by
    refine List.ext_getElem (by simp [World.hbmRead]; omega) fun i h1 h2 => ?_
    simp [World.hbmRead, Nat.add_assoc]
  rw [slice, hcut, World.length_hbmRead, Nat.sub_self, List.replicate_zero, List.append_nil]

/-- A range that a store covers reads as what was stored. -/
theorem World.hbmRead_hbmWrote {v : World} (h : w.hbmWrote v p a bs) (hg : (v.part p).good = (w.part p).good) {o m : Nat} (hm : o + m ≤ bs.length) :
    v.hbmRead p (a + o) m = slice bs o m := by
  have hlen : ((bs.drop o).take m).length = m := by rw [List.length_take, List.length_drop]; omega
  rw [slice, hlen, Nat.sub_self, List.replicate_zero, List.append_nil]
  refine List.ext_getElem (by rw [World.length_hbmRead, hlen]) fun i h1 h2 => ?_
  have hi : i < m := by rwa [World.length_hbmRead] at h1
  have hb := h.1 (o + i) (by omega)
  rw [List.getD_eq_getElem?_getD, List.getElem?_eq_getElem (by omega)] at hb
  simp only [World.hbmRead, World.hbmByte, hg, List.getElem_map, List.getElem_range, List.getElem_take, List.getElem_drop]
  rw [Nat.add_assoc]
  exact hb

/-- A range apart from what a store covers reads as before. -/
theorem World.hbmRead_of_apart {v : World} (h : w.hbmWrote v p a bs) (hg : (v.part p).good = (w.part p).good) (hnd : (w.part p).good.Nodup)
    (hcap : a + bs.length ≤ w.hbmCapacity p) {c m : Nat} (hc : c + m ≤ w.hbmCapacity p) (hapart : c + m ≤ a ∨ a + bs.length ≤ c) :
    v.hbmRead p c m = w.hbmRead p c m := by
  refine List.map_congr_left fun i hi => ?_
  have him := List.mem_range.mp hi
  rw [World.hbmByte, World.hbmByte, hg]
  refine h.2 _ fun j hj e => ?_
  have := hbmKey_inj hnd (by unfold World.hbmCapacity at hc; omega) (by unfold World.hbmCapacity at hcap; omega) e
  omega

end Reads

end Sys2Proof.Machine

namespace Sys2Proof.Machine

/-! ### What a world gathers of packets that it sends while it reads (R414) -/

/-- `v` is `w` after packets were sent and counters went on. -/
structure World.Posted (w v : World) : Prop where
  sent : v.sentFrom w
  fab : v.fab.mailedFrom w.fab
  out : ∃ o, v.out = w.out ++ o

section Posted
variable {w v u : World}

theorem World.Posted.refl : w.Posted w := ⟨w.sentFrom_refl, w.fab.mailedFrom_refl, World.nothingSent rfl⟩

theorem World.Posted.trans (h : w.Posted v) (g : v.Posted u) : w.Posted u := by
  obtain ⟨o, ho⟩ := h.out
  obtain ⟨o', ho'⟩ := g.out
  exact ⟨g.sent.trans h.sent, g.fab.trans h.fab, o ++ o', by rw [ho', ho, List.append_assoc]⟩

theorem World.Mailed.posted (h : w.Mailed v) : w.Posted v := ⟨h.sent, h.fab, h.out⟩

theorem World.counters_posted (w : World) (c : AMap Word) : w.Posted { w with counters := c } :=
  ⟨(World.sentFrom.trans (b := w) ⟨w.fab, w.out, w.stopped, w.restarts,
    ⟨c, w.parts, (w.uzo.events, w.uzo.lost), w.stamps, w.tails, w.trc, rfl⟩, fun _ => Part.sameButTrace_refl _⟩ w.sentFrom_refl),
    w.fab.mailedFrom_refl, World.nothingSent rfl⟩

theorem World.Posted.fab_eq (h : w.Posted v) : v.fab.position = w.fab.position ∧ v.fab.posTable = w.fab.posTable ∧ v.fab.failed = w.fab.failed
    ∧ v.fab.reduceSent = w.fab.reduceSent ∧ v.fab.orderHeld = w.fab.orderHeld := by
  obtain ⟨_, _, _, _, _, hf⟩ := h.fab
  rw [hf]
  exact ⟨rfl, rfl, rfl, rfl, rfl⟩

theorem World.Posted.reaches (h : w.Posted v) {pos : Nat} (hr : w.reaches pos) : v.reaches pos := by
  obtain ⟨phys, hp, hn⟩ := hr
  obtain ⟨-, htable, hfailed, -, -⟩ := h.fab_eq
  exact ⟨phys, by rw [World.physicalOf, htable]; exact hp, by rw [hfailed]; exact hn⟩

/-- Steps that each post what their item asks for post what all the items ask for. -/
theorem World.Posted.foldl {α : Type} {f : World → α → World} {R : α → List Output → Prop} (hR : ∀ x out o, R x out → R x (out ++ o)) :
    ∀ (xs : List α) (w : World), (∀ v x, w.Posted v → x ∈ xs → v.Posted (f v x) ∧ R x (f v x).out) →
      w.Posted (xs.foldl f w) ∧ ∀ x ∈ xs, R x (xs.foldl f w).out
  | [], w, _ => ⟨.refl, fun _ h => absurd h List.not_mem_nil⟩
  | x :: xs, w, h => by
    obtain ⟨hp, hx⟩ := h w x .refl (List.mem_cons_self ..)
    obtain ⟨hq, hxs⟩ := World.Posted.foldl hR xs (f w x) fun v y hv hy => h v y (hp.trans hv) (List.mem_cons_of_mem _ hy)
    refine ⟨hp.trans hq, fun y hy => ?_⟩
    obtain rfl | hy := List.mem_cons.mp hy
    · obtain ⟨o, ho⟩ := hq.out
      rw [List.foldl_cons, ho]
      exact hR _ _ _ hx
    · exact hxs y hy

end Posted

/-! ### Where the homes of a REDUCE tensor lie (R413, R414) -/

section Homes
variable {w v : World}

theorem World.loadEnv_dense_of_same (hpos : v.fab.position = w.fab.position) (hc : v.config = w.config) : (v.loadEnv 0).dense = (w.loadEnv 0).dense := by
  have h : ∀ u : World, (u.loadEnv 0).dense = u.fab.position.elim (LoadEnv.dense {}) u.config.dense := fun u => by
    unfold World.loadEnv
    dsimp only
    cases u.fab.position <;> rfl
  rw [h, h, hpos, hc]

theorem World.reduceMap_of_bundle (hb : (v.part 0).bundle = (w.part 0).bundle) (id : Nat) : v.reduceMap id = w.reduceMap id := by
  rw [World.reduceMap, World.tensor_of_bundle hb, World.reduceMap]

theorem World.reduceRange_of_same (hb : (v.part 0).bundle = (w.part 0).bundle) (hc : v.config = w.config) (m : ShardMap) (d : Nat) :
    v.reduceRange m d = w.reduceRange m d := by
  unfold World.reduceRange
  rw [World.tensor_of_bundle hb, hc]

theorem World.partialCell_of_same (hread : ∀ a n, v.hbmRead 0 a n = w.hbmRead 0 a n) (hseed : (v.part 0).jobSeed = (w.part 0).jobSeed)
    (hstep : (v.part 0).step = (w.part 0).step) (x : Tensor) (m : ShardMap) (shards : List Nat) (e : Nat) :
    v.partialCell x m shards e = w.partialCell x m shards e := by
  unfold World.partialCell
  simp only [hread, hseed, hstep]

end Homes

/-! ### REDUCE_START (R414) -/

section Start
variable {w : World} {t : Sid} {x : Tensor} {m : ShardMap}

/-- One packet of a home's partial cells, the `i`-th. -/
def World.reducePacket (w : World) (x : Tensor) (m : ShardMap) (d i : Nat) (out : List Output) : Prop :=
  let b := cellBytes x.recipe.w128
  let per := 2048 / b
  let r := w.reduceRange m d
  let home := w.config.positionAt d
  ∃ q, Output.packet 0x0D q ∈ out ∧ q.dst = BitVec.ofNat 14 home ∧ q.address = BitVec.ofNat 64 (globalAddr home (m.accum + b * per * i))
    ∧ q.payload = ((List.range (min per (r.2 - r.1 - per * i))).map fun j =>
        w.partialCell x m (shardsOf w.config.positions (w.loadEnv 0).dense) (r.1 + per * i + j)).flatMap (cellImage x.recipe.w128)

theorem World.sendReduce_posts {v : World} (hv : w.Posted v) (hf : ∀ a n, w.hbmFailed 0 a n = false) {d : Nat}
    (hhome : (w.reduceRange m d).1 < (w.reduceRange m d).2 → w.config.positionAt d ≠ w.ownPosition ∧ w.reaches (w.config.positionAt d)) :
    v.Posted (World.sendReduce t x m v d) ∧ ∀ i < ceilDiv ((w.reduceRange m d).2 - (w.reduceRange m d).1) (2048 / cellBytes x.recipe.w128),
      w.reducePacket x m d i (World.sendReduce t x m v d).out := by
  have hbundle := fun u (hu : w.Posted u) => hu.sent.part_keeps Part.bundle (fun _ _ => rfl) 0
  unfold World.sendReduce
  dsimp only
  rw [World.reduceRange_of_same (hbundle v hv) hv.sent.config, hv.sent.config, World.loadEnv_dense_of_same hv.fab_eq.1 hv.sent.config]
  by_cases hempty : (w.reduceRange m d).1 < (w.reduceRange m d).2
  case neg => 
    have hz : ceilDiv ((w.reduceRange m d).2 - (w.reduceRange m d).1) (2048 / cellBytes x.recipe.w128) = 0 := by
      rw [Nat.sub_eq_zero_of_le (Nat.not_lt.mp hempty)]
      cases x.recipe.w128 <;> rfl
    rw [hz]
    exact ⟨.refl, fun i hi => absurd hi (Nat.not_lt_zero i)⟩
  case pos =>
    obtain ⟨hown, hreach⟩ := hhome hempty
    have hR : ∀ i out o, w.reducePacket x m d i out → w.reducePacket x m d i (out ++ o) := fun i out o ⟨q, hq, h⟩ => ⟨q, List.mem_append_left _ hq, h⟩
    refine (World.Posted.foldl hR _ v ?_).imp id fun h i hi => h i (List.mem_range.mpr hi)
    intro u i hu hi
    have hwu := hv.trans hu
    have hgood := hwu.sent.part_keeps Part.good (fun _ _ => rfl) 0
    have hread := World.hbmRead_of_good hgood hwu.sent.memories.1
    have hfailed : ∀ a n, u.hbmFailed 0 a n = false := fun a n => (World.hbmFailed_of_good hgood hwu.sent.channels a n).trans (hf a n)
    have hcell := World.partialCell_of_same hread (hwu.sent.part_keeps Part.jobSeed (fun _ _ => rfl) 0) (hwu.sent.part_keeps Part.step (fun _ _ => rfl) 0) x m
      (shardsOf w.config.positions (w.loadEnv 0).dense)
    have hownu : u.ownPosition = w.ownPosition := World.ownPosition_of_position hwu.fab_eq.1
    simp only [hcell]
    obtain ⟨c, hc⟩ := u.agentReads_of_good t 0 (ioSource 0) (xs := (shardsOf w.config.positions (w.loadEnv 0).dense).map fun s =>
      (m.staging + (s - (shardsOf w.config.positions (w.loadEnv 0).dense).headD 0) * m.stageStride
        + 4 * ((w.reduceRange m d).1 + 2048 / cellBytes x.recipe.w128 * i),
        4 * min (2048 / cellBytes x.recipe.w128) ((w.reduceRange m d).2 - (w.reduceRange m d).1 - 2048 / cellBytes x.recipe.w128 * i)))
      (fun _ _ => hfailed _ _)
    rw [hc]
    dsimp only
    rw [if_neg (by rw [show World.ownPosition { u with counters := c } = u.ownPosition from rfl, hownu]; exact hown)]
    have hu' := u.counters_posted c
    generalize ({ u with counters := c } : World) = z at *
    obtain ⟨q, hq, ho⟩ := z.sendPacket_leaves_packet t 0x0D (w.config.positionAt d) (ioSource 0) (mkTag 7 6 0)
      (globalAddr (w.config.positionAt d) (m.accum + cellBytes x.recipe.w128 * (2048 / cellBytes x.recipe.w128) * i)) false false
      (((List.range (min (2048 / cellBytes x.recipe.w128) ((w.reduceRange m d).2 - (w.reduceRange m d).1 - 2048 / cellBytes x.recipe.w128 * i))).map fun j =>
        w.partialCell x m (shardsOf w.config.positions (w.loadEnv 0).dense) ((w.reduceRange m d).1 + 2048 / cellBytes x.recipe.w128 * i + j)).flatMap
        (cellImage x.recipe.w128)) ((hwu.trans hu').reaches hreach)
    refine ⟨hu'.trans (z.sendPacket_mailed t _ _ _ _ _ _ _ _).posted, q, ?_, hq.dst, hq.address, hq.payload⟩
    rw [ho]
    exact List.mem_append_right _ (List.mem_singleton_self _)

/-- The world when the collective engine has begun on a tensor. -/
def World.reduceBegun (w : World) (tensor : Nat) : World := { w with fab := { w.fab with reduceSent := w.fab.reduceSent ++ [tensor] } }

/-- REDUCE_START sends each home its partial cells. -/
theorem reduceStart_sends {s : State} (hs : s.inService = true) (tensor : Nat) (hmap : s.w.reduceMap tensor = some (x, m)) (hj : s.w.jobRuns 0 = true)
    (hpos : s.w.fab.position.isSome = true) (hsend : s.w.canSend = true) (hnew : tensor ∉ s.w.fab.reduceSent) (hdue : s.w.reduceDue m = true)
    (hhome : ∀ d < s.w.config.positions, (s.w.reduceRange m d).1 < (s.w.reduceRange m d).2 →
      s.w.config.positionAt d ≠ s.w.ownPosition ∧ s.w.reaches (s.w.config.positionAt d)) (hf : ∀ a n, s.w.hbmFailed 0 a n = false) :
    ∃ t, exec (.reduceStart tensor) s = .next t ∧ s.restKept t ∧ s.w.memoriesKept t.w ∧ t.w.fab.reduceSent = s.w.fab.reduceSent ++ [tensor]
      ∧ ∀ d < s.w.config.positions, ∀ i < ceilDiv ((s.w.reduceRange m d).2 - (s.w.reduceRange m d).1) (2048 / cellBytes x.recipe.w128),
        s.w.reducePacket x m d i t.w.out := by
  have hx : exec (.reduceStart tensor) s = .next { s with w := (List.range s.w.config.positions).foldl (World.sendReduce s.sid x m) (s.w.reduceBegun tensor) } := by
    refine next_of_serve hs ?_
    dsimp only
    rw [hmap]
    refine if_neg ?_
    rintro (h | h | h | h | h)
    · exact Bool.noConfusion (hj.symm.trans h)
    · rw [h] at hpos
      exact Bool.noConfusion hpos
    · exact Bool.noConfusion (hsend.symm.trans h)
    · exact hnew (List.contains_iff_mem.mp h)
    · exact Bool.noConfusion (hdue.symm.trans h)
  obtain ⟨hposted, hpackets⟩ := World.Posted.foldl (f := World.sendReduce s.sid x m)
    (R := fun d out => ∀ i < ceilDiv ((s.w.reduceRange m d).2 - (s.w.reduceRange m d).1) (2048 / cellBytes x.recipe.w128), s.w.reducePacket x m d i out)
    (fun d out o h i hi => by
      obtain ⟨q, hq, h⟩ := h i hi
      exact ⟨q, List.mem_append_left _ hq, h⟩)
    (List.range s.w.config.positions) (s.w.reduceBegun tensor) fun v d hv hd => World.sendReduce_posts hv hf (hhome d (List.mem_range.mp hd))
  refine ⟨_, hx, s.restKept_world _, ?_⟩
  dsimp only
  generalize (List.range s.w.config.positions).foldl (World.sendReduce s.sid x m) (s.w.reduceBegun tensor) = z at *
  obtain ⟨-, -, -, hreduce, -⟩ := hposted.fab_eq
  exact ⟨hposted.sent.memories, hreduce, fun d hd => hpackets d (List.mem_range.mpr hd)⟩

end Start

end Sys2Proof.Machine

namespace Sys2Proof.Machine

/-! ### The cells of a home (R414, step 3) -/

/-- A home's account of a tensor's cells after `count` more came in from a position. -/
def World.reduceEntry (w : World) (x : Tensor) (position count : Nat) : Reduce :=
  let y : Reduce := (w.fab.reduces.find? fun y => decide (y.tensor = x.id)).getD { tensor := x.id }
  { y with got := AMap.upd 0 y.got position (· + count) }

def World.reducesWith (w : World) (x : Tensor) (position count : Nat) : List Reduce :=
  (w.fab.reduces.filter fun z => decide (z.tensor ≠ x.id)) ++ [w.reduceEntry x position count]

/-- A cell of a home before cells are added: zero where the generation has none yet. -/
def World.reduceCell (w : World) (x : Tensor) (m : ShardMap) (j : Nat) : Int × Bool × Bool :=
  if (w.fab.reduces.find? fun y => decide (y.tensor = x.id)).isSome then
    parseCell x.recipe.w128 (w.hbmRead 0 (m.accum + cellBytes x.recipe.w128 * j) (cellBytes x.recipe.w128))
  else (0, false, false)

section Cells
variable {w : World} {t : Sid} {x : Tensor} {m : ShardMap} {n i : Nat} {cells : List (Int × Bool × Bool)}

theorem World.reduceEntry_tensor (w : World) (x : Tensor) (position count : Nat) : (w.reduceEntry x position count).tensor = x.id := by
  unfold World.reduceEntry
  cases h : w.fab.reduces.find? fun y => decide (y.tensor = x.id) with
  | none => rfl
  | some y =>
    change y.tensor = x.id
    exact of_decide_eq_true (List.find?_some (p := fun y : Reduce => decide (y.tensor = x.id)) h)

theorem World.reduceEntry_got (w : World) (x : Tensor) (position count : Nat) (p : Nat) : AMap.get 0 (w.reduceEntry x position count).got p
    = AMap.get 0 ((w.fab.reduces.find? fun y => decide (y.tensor = x.id)).elim [] (·.got)) p + if p = position then count else 0 := by
  have h : ∀ o : Option Reduce, AMap.get 0 (AMap.upd 0 (o.getD { tensor := x.id }).got position (· + count)) p
      = AMap.get 0 (o.elim [] (·.got)) p + if p = position then count else 0 := fun o => by
    have ho : (o.getD { tensor := x.id }).got = o.elim [] (·.got) := by cases o <;> rfl
    rw [ho]
    split
    next e => rw [e, AMap.get_upd_self]
    next e => rw [AMap.get_upd_ne _ _ _ e, Nat.add_zero]
  exact h _

/-- A home whose generation begins finds zeros. -/
theorem World.reduceBegins (hplain : w.plainHbm 0 m.accum (cellBytes x.recipe.w128 * n)) :
    ∃ mm c, (if (w.fab.reduces.find? fun y => decide (y.tensor = x.id)).isSome then w
        else (w.hbmStore 0 m.accum (List.replicate (cellBytes x.recipe.w128 * n) 0)).hbmCount 0 m.accum (cellBytes x.recipe.w128 * n) true)
        = { w with hbm := mm, counters := c }
      ∧ (∀ j < n, parseCell x.recipe.w128 (World.hbmRead { w with hbm := mm } 0 (m.accum + cellBytes x.recipe.w128 * j) (cellBytes x.recipe.w128))
        = w.reduceCell x m j)
      ∧ ∀ key, (∀ j < cellBytes x.recipe.w128 * n, key ≠ hbmKey (w.part 0).good (m.accum + j)) → mm.byte key = w.hbm.byte key := by
  obtain ⟨hnd, hcap, -, -⟩ := hplain
  unfold World.reduceCell
  split
  next => exact ⟨w.hbm, w.counters, rfl, fun _ _ => rfl, fun _ _ => rfl⟩
  next =>
    obtain ⟨mm, hm⟩ := w.hbmStore_eq 0 (List.replicate (cellBytes x.recipe.w128 * n) 0) m.accum
    have hwrote := World.hbmStore_wrote (w := w) (p := 0) (a := m.accum) (bs := List.replicate (cellBytes x.recipe.w128 * n) 0) hnd
      (by rw [List.length_replicate]; exact hcap)
    rw [hm] at hwrote ⊢
    obtain ⟨c, hc⟩ := World.hbmCount_eq { w with hbm := mm } 0 m.accum (cellBytes x.recipe.w128 * n) true
    refine ⟨mm, c, hc, fun j hj => ?_, fun key hkey => hwrote.2 key (by rwa [List.length_replicate])⟩
    have hle : cellBytes x.recipe.w128 * j + cellBytes x.recipe.w128 ≤ (List.replicate (cellBytes x.recipe.w128 * n) (0 : Byte)).length := by
      rw [List.length_replicate, ← Nat.mul_succ]
      exact Nat.mul_le_mul_left _ hj
    rw [World.hbmRead_hbmWrote hwrote rfl hle, slice_replicate hj, parseCell_zeros]

/-- The bytes of the sums of cells with those of a home, from its element `i` on. -/
def World.reduceSum (w : World) (x : Tensor) (m : ShardMap) (i : Nat) (cells : List (Int × Bool × Bool)) : List Byte :=
  cells.zipIdx.flatMap fun c => cellImage x.recipe.w128
    (cellAdd x.recipe.w128 (parseCell x.recipe.w128 (w.hbmRead 0 (m.accum + cellBytes x.recipe.w128 * (i + c.2)) (cellBytes x.recipe.w128))) c.1)

theorem World.length_reduceSum (w : World) (x : Tensor) (m : ShardMap) (i : Nat) (cells : List (Int × Bool × Bool)) :
    (w.reduceSum x m i cells).length = cellBytes x.recipe.w128 * cells.length := by
  rw [World.reduceSum, length_flatMap_of fun c => length_cellImage _ _, List.length_zipIdx]

theorem World.slice_reduceSum (w : World) (x : Tensor) (m : ShardMap) (i : Nat) (cells : List (Int × Bool × Bool)) {k : Nat} (hk : k < cells.length) :
    slice (w.reduceSum x m i cells) (cellBytes x.recipe.w128 * k) (cellBytes x.recipe.w128) = cellImage x.recipe.w128 (cellAdd x.recipe.w128
      (parseCell x.recipe.w128 (w.hbmRead 0 (m.accum + cellBytes x.recipe.w128 * (i + k)) (cellBytes x.recipe.w128))) (cells.getD k (0, false, false))) := by
  have h : k < cells.zipIdx.length := by rwa [List.length_zipIdx]
  have hget : cells.zipIdx[k] = (cells.getD k (0, false, false), k) := by
    rw [List.getElem_zipIdx, Nat.zero_add, List.getD_eq_getElem?_getD, List.getElem?_eq_getElem hk, Option.getD_some]
  rw [World.reduceSum, slice_flatMap (fun c => length_cellImage _ _) _ _ h, hget]

/-- The cells that come in stand added to those of the home; no other byte has changed. -/
theorem World.reduceAdds (hplain : w.plainHbm 0 m.accum (cellBytes x.recipe.w128 * n)) (hcount : 0 < cells.length) (hroom : i + cells.length ≤ n) (pos : Nat) :
    ∃ mm c g, (w.hbmCount 0 (m.accum + cellBytes x.recipe.w128 * i) (cellBytes x.recipe.w128 * cells.length) false).hbmApply t (ioSource 0) pos 0
        (m.accum + cellBytes x.recipe.w128 * i) (w.reduceSum x m i cells) = { w with hbm := mm, counters := c, fab := { w.fab with guards := g } }
      ∧ (∀ j < n, parseCell x.recipe.w128 (World.hbmRead { w with hbm := mm } 0 (m.accum + cellBytes x.recipe.w128 * j) (cellBytes x.recipe.w128))
        = if i ≤ j ∧ j < i + cells.length then cellAdd x.recipe.w128
            (parseCell x.recipe.w128 (w.hbmRead 0 (m.accum + cellBytes x.recipe.w128 * j) (cellBytes x.recipe.w128))) (cells.getD (j - i) (0, false, false))
          else parseCell x.recipe.w128 (w.hbmRead 0 (m.accum + cellBytes x.recipe.w128 * j) (cellBytes x.recipe.w128)))
      ∧ ∀ key, (∀ j < cellBytes x.recipe.w128 * n, key ≠ hbmKey (w.part 0).good (m.accum + j)) → mm.byte key = w.hbm.byte key := by
  obtain ⟨hnd, hcap, -, -⟩ := id hplain
  have hlen := w.length_reduceSum x m i cells
  have hslice := fun k hk => w.slice_reduceSum x m i cells (k := k) hk
  have hbytes : 0 < cellBytes x.recipe.w128 := by cases x.recipe.w128 <;> decide
  generalize cellBytes x.recipe.w128 = b at *
  have hle : b * i + b * cells.length ≤ b * n := by rw [← Nat.mul_add]; exact Nat.mul_le_mul_left b hroom
  have hpos : 0 < b * cells.length := Nat.mul_pos hbytes hcount
  obtain ⟨c, hc⟩ := w.hbmCount_eq 0 (m.accum + b * i) (b * cells.length) false
  have hsub : World.plainHbm { w with counters := c } 0 (m.accum + b * i) (w.reduceSum x m i cells).length := by
    rw [hlen]
    exact w.plainHbm_of_counters (World.plainHbm_sub hpos (by omega) (by omega) hplain)
  generalize w.reduceSum x m i cells = sum at *
  obtain ⟨c', g, happly⟩ := World.hbmApply_plain _ t (ioSource 0) pos hsub
  obtain ⟨mm, hmm⟩ := w.hbmStore_eq 0 sum (m.accum + b * i)
  have hwrote : w.hbmWrote { w with hbm := mm } 0 (m.accum + b * i) sum := by
    rw [← hmm]
    exact World.hbmStore_wrote w hnd (by rw [hlen]; omega)
  refine ⟨mm, c', g, ?_, fun j hj => ?_, fun key hkey => hwrote.2 key fun k hk => ?_⟩
  · rw [hc, happly, World.hbmStore_counters, hmm]
  · have hjn : b * j + b ≤ b * n := by rw [← Nat.mul_succ]; exact Nat.mul_le_mul_left b hj
    split
    next hin =>
      obtain ⟨k, rfl⟩ := Nat.exists_eq_add_of_le hin.1
      have hk : k < cells.length := by omega
      have hend : b * k + b ≤ sum.length := by rw [hlen, ← Nat.mul_succ]; exact Nat.mul_le_mul_left b hk
      have hread := World.hbmRead_hbmWrote hwrote rfl hend
      rw [Nat.mul_add, ← Nat.add_assoc, hread, hslice k hk, parseCell_cellAdd, Nat.add_sub_cancel_left, Nat.mul_add, Nat.add_assoc]
    next hout =>
      have hapart : m.accum + b * j + b ≤ m.accum + b * i ∨ m.accum + b * i + sum.length ≤ m.accum + b * j := by
        rw [hlen]
        rcases Nat.lt_or_ge j i with h | h
        · have := Nat.mul_le_mul_left b h
          rw [Nat.mul_succ] at this
          omega
        · have := Nat.mul_le_mul_left b (show i + cells.length ≤ j by omega)
          rw [Nat.mul_add] at this
          omega
      rw [World.hbmRead_of_apart hwrote rfl hnd (by omega) (by omega) hapart]
  · rw [Nat.add_assoc]
    exact hkey (b * i + k) (by omega)

/-- What cells that come in leave, before a complete range is read out. -/
theorem World.addReduce_adds (hrange : ((w.reduceRange m (w.loadEnv 0).dense).2 - (w.reduceRange m (w.loadEnv 0).dense).1) = n)
    (hplain : w.plainHbm 0 m.accum (cellBytes x.recipe.w128 * n)) (hcount : 0 < cells.length) (hroom : i + cells.length ≤ n)
    (hfa : w.hbmFailed 0 m.accum (cellBytes x.recipe.w128 * n) = false) (hfo : w.hbmFailed 0 m.out (4 * n) = false) (src : Nat) :
    ∃ mm c g, w.addReduce t x m src i cells
        = (if (List.range w.config.positions).all fun d => decide (AMap.get 0 (w.reduceEntry x src cells.length).got (w.config.positionAt d) = n) then
            World.finishReduce { w with hbm := mm, counters := c, fab := { w.fab with guards := g, reduces := w.reducesWith x src cells.length } } t x m
              (w.reduceRange m (w.loadEnv 0).dense).1 n
          else { w with hbm := mm, counters := c, fab := { w.fab with guards := g, reduces := w.reducesWith x src cells.length } })
      ∧ (∀ j < n, parseCell x.recipe.w128 (World.hbmRead { w with hbm := mm } 0 (m.accum + cellBytes x.recipe.w128 * j) (cellBytes x.recipe.w128))
        = if i ≤ j ∧ j < i + cells.length then cellAdd x.recipe.w128 (w.reduceCell x m j) (cells.getD (j - i) (0, false, false)) else w.reduceCell x m j)
      ∧ ∀ key, (∀ j < cellBytes x.recipe.w128 * n, key ≠ hbmKey (w.part 0).good (m.accum + j)) → mm.byte key = w.hbm.byte key := by
  obtain ⟨m0, c0, h0, hcells0, hout0⟩ := World.reduceBegins hplain
  have hplain0 : World.plainHbm { w with hbm := m0, counters := c0 } 0 m.accum (cellBytes x.recipe.w128 * n) := hplain
  obtain ⟨mm, c, g, h1, hcells1, hout1⟩ := World.reduceAdds (t := t) hplain0 hcount hroom w.ownPosition
  refine ⟨mm, c, g, ?_, fun j hj => ?_, fun key hkey => (hout1 key hkey).trans (hout0 key hkey)⟩
  · unfold World.addReduce
    dsimp only
    rw [hrange, if_neg (by rw [hfa, hfo]; decide), h0]
    unfold World.reduceSum at h1
    rw [show World.ownPosition { w with hbm := m0, counters := c0 } = w.ownPosition from rfl, h1]
    rfl
  · have h : parseCell x.recipe.w128 (World.hbmRead { w with hbm := m0, counters := c0 } 0 (m.accum + cellBytes x.recipe.w128 * j)
      (cellBytes x.recipe.w128)) = w.reduceCell x m j := hcells0 j hj
    refine (hcells1 j hj).trans ?_
    rw [h]

end Cells

end Sys2Proof.Machine

namespace Sys2Proof.Machine

/-! ### The result of a home's range (R414, step 3) -/

/-- The elements of a home's range as its cells read out. -/
def World.reduceRead (w : World) (x : Tensor) (m : ShardMap) (n : Nat) : List (Nat × Bool × Bool) :=
  (List.range n).map fun i => readCell x.recipe.w128 x.recipe.windowT
    (parseCell x.recipe.w128 (slice (w.hbmRead 0 m.accum (cellBytes x.recipe.w128 * n)) (cellBytes x.recipe.w128 * i) (cellBytes x.recipe.w128)))

/-- Elements that overflowed raise their tensor's event once. -/
def World.reduceOverflow (w : World) (t : Sid) (x : Tensor) (nOver : Nat) : World :=
  if 0 < nOver ∧ w.fab.raisedOverflow.contains x.id = false then
    { w.raise t (ioSource 0) 0x10A x.id with
      fab := { (w.raise t (ioSource 0) 0x10A x.id).fab with raisedOverflow := w.fab.raisedOverflow ++ [x.id] } }
  else w

/-- The tensor's generation is complete: the Kiln's message and the report up the tree. -/
def World.reduceReport (w : World) (x : Tensor) (m : ShardMap) (first n : Nat) : World :=
  let w := { w with fab := { w.fab with reduces := w.fab.reduces.filter fun y => decide (y.tensor ≠ x.id) } }
  (w.toKiln 0 0 [m.target, (w.part 0).step, m.out, first, n] []).emit
    (.tree true { kind := 2, barrier := m.barrier, entries := 1, step := (w.part 0).step, fromPosition := w.ownPosition })

section Readout
variable {w : World} {t : Sid} {x : Tensor} {m : ShardMap} {n first : Nat}

theorem World.reduceReport_facts (w : World) (x : Tensor) (m : ShardMap) (first n : Nat) : let z := w.reduceReport x m first n
    w.memoriesKept z ∧ z.parts = w.parts ∧ (∀ y ∈ z.fab.reduces, y.tensor ≠ x.id) ∧ z.fab.orderHeld = w.fab.orderHeld
      ∧ z.out = w.out ++ [.kiln true 0 0 [m.target, (w.part 0).step, m.out, first, n] [],
        .tree true { kind := 2, barrier := m.barrier, entries := 1, step := (w.part 0).step, fromPosition := w.ownPosition }] := by
  refine ⟨⟨rfl, rfl, rfl, rfl⟩, rfl, fun y hy => ?_, rfl, ?_⟩
  · have hreduces : (w.reduceReport x m first n).fab.reduces = w.fab.reduces.filter fun y => decide (y.tensor ≠ x.id) := rfl
    rw [hreduces] at hy
    exact of_decide_eq_true (List.mem_filter.mp hy).2
  · have hout : (w.reduceReport x m first n).out = (w.out ++ [.kiln true 0 0 [m.target, (w.part 0).step, m.out, first, n] []])
        ++ [.tree true { kind := 2, barrier := m.barrier, entries := 1, step := (w.part 0).step, fromPosition := w.ownPosition }] := rfl
    rw [hout, List.append_assoc]
    rfl

theorem World.reduceOverflow_facts (w : World) (t : Sid) (x : Tensor) (nOver : Nat) : let v := w.reduceOverflow t x nOver
    w.memoriesKept v ∧ (v.part 0).good = (w.part 0).good ∧ (v.part 0).step = (w.part 0).step ∧ v.fab.position = w.fab.position
      ∧ v.fab.orderHeld = w.fab.orderHeld ∧ v.out = w.out := by
  unfold World.reduceOverflow
  split
  next =>
    have hn := w.raise_noted t (ioSource 0) 0x10A x.id
    have hp : (w.raise t (ioSource 0) 0x10A x.id).fab.position = w.fab.position := by rw [hn.fab]
    have hh : (w.raise t (ioSource 0) 0x10A x.id).fab.orderHeld = w.fab.orderHeld := by rw [hn.fab]
    exact ⟨hn.memories, hn.part_keeps Part.good (fun _ _ => rfl) 0, hn.part_keeps Part.step (fun _ _ => rfl) 0, hp, hh, hn.out⟩
  next => exact ⟨World.memoriesKept_refl w, rfl, rfl, rfl, rfl, rfl⟩

theorem World.length_reduceRead (w : World) (x : Tensor) (m : ShardMap) (n : Nat) : (w.reduceRead x m n).length = n := by
  rw [World.reduceRead, List.length_map, List.length_range]

/-- A complete range is read out to OUT. -/
theorem World.finishReduce_reads (hplain : w.plainHbm 0 m.out (4 * n)) :
    ∃ mm c g nOver, w.finishReduce t x m first n
        = (World.reduceOverflow { w with hbm := mm, counters := c, fab := { w.fab with guards := g } } t x nOver).reduceReport x m first n
      ∧ w.hbmWrote { w with hbm := mm } 0 m.out ((w.reduceRead x m n).flatMap fun v => leBytes 4 v.1) := by
  obtain ⟨hnd, hcap, -, -⟩ := id hplain
  have hlen : ((w.reduceRead x m n).flatMap fun v => leBytes 4 v.1).length = 4 * n := by
    rw [length_flatMap_of fun v => length_leBytes _ _, w.length_reduceRead]
  obtain ⟨c, hc⟩ := w.hbmFetch_eq (ioSource 0) 0 m.accum (cellBytes x.recipe.w128 * n)
  obtain ⟨c', g, happly⟩ := World.hbmApply_plain { w with counters := c } t (ioSource 0) w.ownPosition (p := 0) (a := m.out)
    (bs := (w.reduceRead x m n).flatMap fun v => leBytes 4 v.1) (by rw [hlen]; exact w.plainHbm_of_counters hplain)
  obtain ⟨mm, hmm⟩ := w.hbmStore_eq 0 ((w.reduceRead x m n).flatMap fun v => leBytes 4 v.1) m.out
  have hwrote := World.hbmStore_wrote w (p := 0) (a := m.out) (bs := (w.reduceRead x m n).flatMap fun v => leBytes 4 v.1) hnd (by rw [hlen]; exact hcap)
  rw [hmm] at hwrote
  rw [World.hbmStore_counters, hmm] at happly
  refine ⟨mm, AMap.upd 0 c' (Block.fab.addr 0 0x0B8) (· + BitVec.ofNat 64 ((w.reduceRead x m n).filter (·.2.1)).length), g,
    ((w.reduceRead x m n).filter (·.2.1)).length, ?_, hwrote⟩
  change (World.reduceOverflow (World.count (World.hbmApply (w.hbmFetch (ioSource 0) 0 m.accum (cellBytes x.recipe.w128 * n)).2 t (ioSource 0) w.ownPosition 0 m.out
    ((w.reduceRead x m n).flatMap fun v => leBytes 4 v.1)) (Block.fab.addr 0 0x0B8) ((w.reduceRead x m n).filter (·.2.1)).length) t x
    ((w.reduceRead x m n).filter (·.2.1)).length).reduceReport x m first n = _
  rw [hc, happly]
  rfl

/-- What the read-out of a complete range leaves. -/
theorem World.finishReduce_facts (hplain : w.plainHbm 0 m.out (4 * n)) (hcap : m.accum + cellBytes x.recipe.w128 * n ≤ w.hbmCapacity 0)
    (happart : rangesMeet m.accum (cellBytes x.recipe.w128 * n) m.out (4 * n) = false) : let z := w.finishReduce t x m first n
    w.onlyHbm z ∧ (∀ y ∈ z.fab.reduces, y.tensor ≠ x.id) ∧ z.fab.orderHeld = w.fab.orderHeld
      ∧ (∀ j < n, leNat (z.hbmRead 0 (m.out + 4 * j) 4) = (readCell x.recipe.w128 x.recipe.windowT
        (parseCell x.recipe.w128 (z.hbmRead 0 (m.accum + cellBytes x.recipe.w128 * j) (cellBytes x.recipe.w128)))).1 % 2 ^ 32)
      ∧ z.out = w.out ++ [.kiln true 0 0 [m.target, (w.part 0).step, m.out, first, n] [],
        .tree true { kind := 2, barrier := m.barrier, entries := 1, step := (w.part 0).step, fromPosition := w.ownPosition }] := by
  obtain ⟨hnd, hcapo, -, -⟩ := id hplain
  obtain ⟨mm, c, g, nOver, hz, hwrote⟩ := World.finishReduce_reads (t := t) (x := x) (m := m) (first := first) hplain
  have hlenr := w.length_reduceRead x m n
  have hlen : ((w.reduceRead x m n).flatMap fun v => leBytes 4 v.1).length = 4 * n := by
    rw [length_flatMap_of fun v => length_leBytes _ _, hlenr]
  have hbytes : 0 < cellBytes x.recipe.w128 := by cases x.recipe.w128 <;> decide
  dsimp only
  rw [hz]
  obtain ⟨hm, hgood, hstep, hpos, hheld, ho⟩ := World.reduceOverflow_facts { w with hbm := mm, counters := c, fab := { w.fab with guards := g } } t x nOver
  generalize World.reduceOverflow { w with hbm := mm, counters := c, fab := { w.fab with guards := g } } t x nOver = v at *
  obtain ⟨hm', hparts, hreduces, hheld', ho'⟩ := v.reduceReport_facts x m first n
  have hgood' : ((v.reduceReport x m first n).part 0).good = (w.part 0).good := by rw [World.part, hparts]; exact hgood
  generalize v.reduceReport x m first n = z at *
  have hkept := hm.trans hm'
  have hzw : w.hbmWrote z 0 m.out ((w.reduceRead x m n).flatMap fun v => leBytes 4 v.1) := by
    obtain ⟨h1, -, -, -⟩ := hkept
    rw [World.hbmWrote, h1]
    exact hwrote
  obtain ⟨-, h2, h3, h4⟩ := hkept
  refine ⟨⟨h2, h3, h4⟩, hreduces, hheld'.trans hheld, fun j hj => ?_, ?_⟩
  · have hle : cellBytes x.recipe.w128 * j + cellBytes x.recipe.w128 ≤ cellBytes x.recipe.w128 * n := by
      rw [← Nat.mul_succ]
      exact Nat.mul_le_mul_left _ hj
    have hapart : m.accum + cellBytes x.recipe.w128 * j + cellBytes x.recipe.w128 ≤ m.out
        ∨ m.out + ((w.reduceRead x m n).flatMap fun v => leBytes 4 v.1).length ≤ m.accum + cellBytes x.recipe.w128 * j := by
      rw [hlen]
      simp only [rangesMeet, Bool.and_eq_false_iff, decide_eq_false_iff_not] at happart
      have := Nat.mul_pos hbytes (show 0 < n by omega)
      omega
    rw [World.hbmRead_hbmWrote hzw hgood' (by rw [hlen]; omega), World.hbmRead_of_apart hzw hgood' hnd (by rw [hlen]; exact hcapo) (by omega) hapart,
      slice_flatMap (fun v => length_leBytes _ _) _ j (by rw [hlenr]; exact hj), leNat_leBytes]
    unfold World.reduceRead
    rw [List.getElem_map, List.getElem_range, World.slice_hbmRead w 0 m.accum hle]
    rfl
  · rw [ho', ho, hstep, World.ownPosition_of_position hpos]
    rfl

end Readout

end Sys2Proof.Machine

namespace Sys2Proof.Machine

/-! ### REDUCE_DATA at a home (R414, R415) -/

section Take
variable {w v : World} {t : Sid} {q : Packet} {x : Tensor} {m : ShardMap}

/-- The elements that this home holds of a REDUCE tensor. -/
def World.reduceCount (w : World) (m : ShardMap) : Nat := (w.reduceRange m (w.loadEnv 0).dense).2 - (w.reduceRange m (w.loadEnv 0).dense).1

/-- The cells that a packet carries. -/
def reduceCells (w128 : Bool) (q : Packet) : List (Int × Bool × Bool) :=
  (List.range (q.payload.length / cellBytes w128)).map fun i => parseCell w128 (slice q.payload (cellBytes w128 * i) (cellBytes w128))

theorem World.takeReduce_at (hat : w.reduceAt (addrOffset q.address.toNat) = some (x, m)) (hj : w.jobRuns 0 = true) :
    w.takeReduce t q = w.addReduce t x m q.src.toNat ((addrOffset q.address.toNat - m.accum) / cellBytes x.recipe.w128) (reduceCells x.recipe.w128 q) := by
  have hms : ((w.part 0).bundle.elim [] fun b => b.tensors.filterMap fun x => w.reduceMap x.id)
      = ((w.part 0).bundle.elim [] (·.tensors)).filterMap fun x => w.reduceMap x.id := by cases (w.part 0).bundle <;> rfl
  unfold World.takeReduce
  dsimp only
  rw [hms]
  unfold World.reduceAt at hat
  rw [hat]
  dsimp only
  rw [if_neg (by rw [hj]; exact Bool.noConfusion)]
  rfl

theorem World.reduceCount_of_same (hb : (v.part 0).bundle = (w.part 0).bundle) (hpos : v.fab.position = w.fab.position) (hc : v.config = w.config)
    (m : ShardMap) : v.reduceCount m = w.reduceCount m := by
  rw [World.reduceCount, World.loadEnv_dense_of_same hpos hc, World.reduceRange_of_same hb hc, World.reduceCount]

theorem World.reduceAt_of_same (hb : (v.part 0).bundle = (w.part 0).bundle) (hpos : v.fab.position = w.fab.position) (hc : v.config = w.config)
    (off : Nat) : v.reduceAt off = w.reduceAt off := by
  have hcount := World.reduceCount_of_same hb hpos hc
  unfold World.reduceCount at hcount
  unfold World.reduceAt
  simp only [hb, World.reduceMap_of_bundle hb, hcount]

theorem length_reduceCells {w128 : Bool} {count : Nat} (h : q.payload.length = cellBytes w128 * count) : (reduceCells w128 q).length = count := by
  have hb : 0 < cellBytes w128 := by cases w128 <;> decide
  rw [reduceCells, List.length_map, List.length_range, h, Nat.mul_div_cancel_left _ hb]

theorem reduceCells_getD {w128 : Bool} {count k : Nat} (h : q.payload.length = cellBytes w128 * count) (hk : k < count) :
    (reduceCells w128 q).getD k (0, false, false) = parseCell w128 (slice q.payload (cellBytes w128 * k) (cellBytes w128)) := by
  have hb : 0 < cellBytes w128 := by cases w128 <;> decide
  rw [reduceCells, h, Nat.mul_div_cancel_left _ hb, List.getD_eq_getElem?_getD, List.getElem?_map, List.getElem?_range hk]
  rfl

theorem World.arrived_reduces (w : World) (t : Sid) (kind : Nat) (q : Packet) : (w.arrived t kind q).fab.reduces = w.fab.reduces := by
  obtain ⟨ps, h⟩ := w.arrived_fab t kind q
  rw [h]

variable {s : State}

theorem exec_reduceData_served (hs : s.inService = true) (hc : s.w.comes q) (hv : (s.w.arrived s.sid 0x0D q).takeReduce s.sid q = v)
    (hf : v.fab.orderHeld = []) : exec (.reduceData q) s = .next { s with w := v } :=
  exec_packet_served hs rfl (fun h => absurd h (by decide)) hc (by rw [World.process, World.countMulticast_of_plain hc.2.2.1]; exact hv) hf

end Take

section Come
variable {s : State} {q : Packet} {x : Tensor} {m : ShardMap} {i count : Nat}
variable (hs : s.inService = true) (hc : s.w.comes q) (hj : s.w.jobRuns 0 = true) (hat : s.w.reduceAt (addrOffset q.address.toNat) = some (x, m))
  (haddr : addrOffset q.address.toNat = m.accum + cellBytes x.recipe.w128 * i) (hlen : q.payload.length = cellBytes x.recipe.w128 * count)
  (hcount : 0 < count) (hroom : i + count ≤ s.w.reduceCount m) (hplain : s.w.plainHbm 0 m.accum (cellBytes x.recipe.w128 * s.w.reduceCount m))
  (hfa : s.w.hbmFailed 0 m.accum (cellBytes x.recipe.w128 * s.w.reduceCount m) = false) (hfo : s.w.hbmFailed 0 m.out (4 * s.w.reduceCount m) = false)
include hs hc hj hat haddr hlen hcount hroom hplain hfa hfo

/-- What cells that come to this home leave, before a complete range is read out. -/
theorem reduceData_adds : ∃ (u : World) (mm : Memory) (c : AMap Word) (g : List RemoteGuard),
    (∀ v, (if (List.range u.config.positions).all fun d => decide (AMap.get 0 (u.reduceEntry x q.src.toNat count).got (u.config.positionAt d) = s.w.reduceCount m) then
            World.finishReduce { u with hbm := mm, counters := c, fab := { u.fab with guards := g, reduces := u.reducesWith x q.src.toNat count } } s.sid x m
              (s.w.reduceRange m (s.w.loadEnv 0).dense).1 (s.w.reduceCount m)
          else { u with hbm := mm, counters := c, fab := { u.fab with guards := g, reduces := u.reducesWith x q.src.toNat count } }) = v →
        v.fab.orderHeld = [] → exec (.reduceData q) s = .next { s with w := v })
      ∧ s.w.memoriesKept u ∧ u.out = s.w.out ∧ u.config = s.w.config ∧ u.cores = s.w.cores ∧ u.fab.position = s.w.fab.position
      ∧ u.fab.reduces = s.w.fab.reduces ∧ u.fab.orderHeld = []
      ∧ (u.part 0).good = (s.w.part 0).good ∧ (u.part 0).dir = (s.w.part 0).dir ∧ (u.part 0).step = (s.w.part 0).step
      ∧ (∀ j < s.w.reduceCount m, parseCell x.recipe.w128 (World.hbmRead { u with hbm := mm } 0 (m.accum + cellBytes x.recipe.w128 * j) (cellBytes x.recipe.w128))
        = if i ≤ j ∧ j < i + count then
            cellAdd x.recipe.w128 (s.w.reduceCell x m j) (parseCell x.recipe.w128 (slice q.payload (cellBytes x.recipe.w128 * (j - i)) (cellBytes x.recipe.w128)))
          else s.w.reduceCell x m j)
      ∧ ∀ key, (∀ j < cellBytes x.recipe.w128 * s.w.reduceCount m, key ≠ hbmKey (s.w.part 0).good (m.accum + j)) → mm.byte key = s.w.hbm.byte key := by
  have hmem := s.w.arrived_memories s.sid 0x0D q
  have hout := s.w.arrived_out s.sid 0x0D q
  have hheld := s.w.arrived_orderHeld s.sid 0x0D q hc.2.2.2.1
  have hconfig := s.w.arrived_config (q := q) s.sid 0x0D
  have hposition := s.w.arrived_position (q := q) s.sid 0x0D
  have hreduces := s.w.arrived_reduces s.sid 0x0D q
  have hcores := (s.w.arrived_cores s.sid 0x0D q).1
  have hgood := s.w.arrived_good s.sid 0x0D q 0
  have hchannels := s.w.arrived_channels s.sid 0x0D q
  have hdir := s.w.arrived_dir (q := q) s.sid 0x0D 0
  have hbundle := s.w.arrived_bundle (q := q) s.sid 0x0D 0
  have hstep := s.w.arrived_part_keeps s.sid Part.step (fun _ _ => rfl) (fun _ _ => rfl) 0x0D q 0
  have hju := (s.w.arrived_jobRuns s.sid 0x0D q 0).trans hj
  have hexec := fun v h hf => exec_reduceData_served (v := v) hs hc h hf
  generalize s.w.arrived s.sid 0x0D q = u at *
  have hn := World.reduceCount_of_same hbundle hposition hconfig m
  have hfailed := World.hbmFailed_of_good hgood hchannels
  have hread := World.hbmRead_of_good hgood hmem.1
  have hcells := length_reduceCells hlen
  have htake := World.takeReduce_at (t := s.sid) ((World.reduceAt_of_same hbundle hposition hconfig _).trans hat) hju
  have hb : 0 < cellBytes x.recipe.w128 := by cases x.recipe.w128 <;> decide
  rw [haddr, Nat.add_sub_cancel_left, Nat.mul_div_cancel_left _ hb] at htake
  have hcell : ∀ j, u.reduceCell x m j = s.w.reduceCell x m j := fun j => by rw [World.reduceCell, hreduces, hread, World.reduceCell]
  have hwas := fun k hk => reduceCells_getD hlen (k := k) hk
  generalize reduceCells x.recipe.w128 q = cells at *
  subst hcells
  obtain ⟨mm, c, g, hadd, hparse, hrest⟩ := World.addReduce_adds (t := s.sid) hn (World.plainHbm_of_same hcores hgood hdir hplain) hcount hroom
    ((hfailed _ _).trans hfa) ((hfailed _ _).trans hfo) q.src.toNat
  rw [World.loadEnv_dense_of_same hposition hconfig, World.reduceRange_of_same hbundle hconfig] at hadd
  refine ⟨u, mm, c, g, fun v hv hf => hexec v (htake.trans (hadd.trans hv)) hf, hmem, hout, hconfig, hcores, hposition, hreduces, hheld, hgood, hdir, hstep, fun j hj => ?_,
    fun key hkey => (hrest key (by rw [hgood]; exact hkey)).trans (by rw [hmem.1])⟩
  rw [hparse j hj, hcell]
  split
  next hin => rw [hwas (j - i) (by omega)]
  next => rfl

/-- Cells that leave the range incomplete are added to the home's; no event, message or other byte comes of them. -/
theorem reduceData_incomplete (hmissing : ∃ d < s.w.config.positions, s.w.config.positionAt d ≠ q.src.toNat
      ∧ AMap.get 0 ((s.w.fab.reduces.find? fun y => decide (y.tensor = x.id)).elim [] (·.got)) (s.w.config.positionAt d) ≠ s.w.reduceCount m) :
    ∃ t bs, exec (.reduceData q) s = .next t ∧ s.restKept t ∧ s.w.onlyHbm t.w ∧ t.w.out = s.w.out
      ∧ bs.length = cellBytes x.recipe.w128 * s.w.reduceCount m ∧ s.w.hbmWrote t.w 0 m.accum bs
      ∧ (∀ j < s.w.reduceCount m, parseCell x.recipe.w128 (slice bs (cellBytes x.recipe.w128 * j) (cellBytes x.recipe.w128))
        = if i ≤ j ∧ j < i + count then
            cellAdd x.recipe.w128 (s.w.reduceCell x m j) (parseCell x.recipe.w128 (slice q.payload (cellBytes x.recipe.w128 * (j - i)) (cellBytes x.recipe.w128)))
          else s.w.reduceCell x m j)
      ∧ ∃ y ∈ t.w.fab.reduces, y.tensor = x.id ∧ AMap.get 0 y.got q.src.toNat
        = AMap.get 0 ((s.w.fab.reduces.find? fun y => decide (y.tensor = x.id)).elim [] (·.got)) q.src.toNat + count := by
  obtain ⟨u, mm, c, g, hexec, hmem, hout, hconfig, -, -, hreduces, hheld, hgood, -, -, hparse, hrest⟩ :=
    reduceData_adds hs hc hj hat haddr hlen hcount hroom hplain hfa hfo
  have hgot := fun p => u.reduceEntry_got x q.src.toNat count p
  rw [hreduces] at hgot
  have hnot : ¬ ((List.range u.config.positions).all fun d =>
      decide (AMap.get 0 (u.reduceEntry x q.src.toNat count).got (u.config.positionAt d) = s.w.reduceCount m)) = true := by
    intro h
    obtain ⟨d, hd, hne, hmiss⟩ := hmissing
    rw [hconfig] at h
    have := of_decide_eq_true (List.all_eq_true.mp h d (List.mem_range.mpr hd))
    rw [hgot, if_neg hne] at this
    exact hmiss this
  have hx := hexec _ (if_neg hnot) hheld
  refine ⟨_, World.hbmRead { u with hbm := mm } 0 m.accum (cellBytes x.recipe.w128 * s.w.reduceCount m), hx, s.restKept_world _, ?_⟩
  obtain ⟨-, h2, h3, h4⟩ := hmem
  refine ⟨⟨h2, h3, h4⟩, hout, World.length_hbmRead _ _ _ _, ⟨fun k hk => ?_, fun key hkey => hrest key fun k hk => hkey k ?_⟩, fun j hj => ?_, ?_⟩
  · rw [World.length_hbmRead] at hk
    rw [List.getD_eq_getElem?_getD, World.hbmRead, List.getElem?_map, List.getElem?_range hk, ← hgood]
    rfl
  · rwa [World.length_hbmRead]
  · rw [World.slice_hbmRead _ 0 m.accum (by rw [← Nat.mul_succ]; exact Nat.mul_le_mul_left _ hj), hparse j hj]
  · refine ⟨u.reduceEntry x q.src.toNat count, List.mem_append_right _ (List.mem_singleton_self _), u.reduceEntry_tensor x _ _, ?_⟩
    rw [hgot, if_pos rfl]

/-- The last cells of a range have it read out to OUT; the Kiln is told and the report goes up the tree. -/
theorem reduceData_complete
    (hothers : ∀ d < s.w.config.positions, s.w.config.positionAt d ≠ q.src.toNat →
      AMap.get 0 ((s.w.fab.reduces.find? fun y => decide (y.tensor = x.id)).elim [] (·.got)) (s.w.config.positionAt d) = s.w.reduceCount m)
    (hown : AMap.get 0 ((s.w.fab.reduces.find? fun y => decide (y.tensor = x.id)).elim [] (·.got)) q.src.toNat + count = s.w.reduceCount m)
    (hplaino : s.w.plainHbm 0 m.out (4 * s.w.reduceCount m))
    (hapart : rangesMeet m.accum (cellBytes x.recipe.w128 * s.w.reduceCount m) m.out (4 * s.w.reduceCount m) = false) :
    ∃ t, exec (.reduceData q) s = .next t ∧ s.restKept t ∧ s.w.onlyHbm t.w ∧ (∀ y ∈ t.w.fab.reduces, y.tensor ≠ x.id)
      ∧ (∀ j < s.w.reduceCount m, leNat (t.w.hbmRead 0 (m.out + 4 * j) 4) = (readCell x.recipe.w128 x.recipe.windowT
        (parseCell x.recipe.w128 (t.w.hbmRead 0 (m.accum + cellBytes x.recipe.w128 * j) (cellBytes x.recipe.w128)))).1 % 2 ^ 32)
      ∧ t.w.out = s.w.out ++ [.kiln true 0 0 [m.target, (s.w.part 0).step, m.out, (s.w.reduceRange m (s.w.loadEnv 0).dense).1, s.w.reduceCount m] [],
        .tree true { kind := 2, barrier := m.barrier, entries := 1, step := (s.w.part 0).step, fromPosition := s.w.ownPosition }] := by
  obtain ⟨u, mm, c, g, hexec, hmem, hout, hconfig, hcores, hposition, hreduces, hheld, hgood, hdir, hstep, -, -⟩ :=
    reduceData_adds hs hc hj hat haddr hlen hcount hroom hplain hfa hfo
  have hgot := fun p => u.reduceEntry_got x q.src.toNat count p
  rw [hreduces] at hgot
  have hall : ((List.range u.config.positions).all fun d =>
      decide (AMap.get 0 (u.reduceEntry x q.src.toNat count).got (u.config.positionAt d) = s.w.reduceCount m)) = true := by
    rw [List.all_eq_true]
    intro d hd
    rw [decide_eq_true_eq, hgot, hconfig]
    rw [hconfig] at hd
    split
    next e => rw [e]; exact hown
    next e => rw [Nat.add_zero]; exact hothers d (List.mem_range.mp hd) e
  have hcap := World.hbmCapacity_of_good hgood
  obtain ⟨hz1, hz2, hz3, hz4, hz5⟩ := World.finishReduce_facts
    (w := { u with hbm := mm, counters := c, fab := { u.fab with guards := g, reduces := u.reducesWith x q.src.toNat count } }) (t := s.sid) (x := x) (m := m)
    (first := (s.w.reduceRange m (s.w.loadEnv 0).dense).1) (World.plainHbm_of_same hcores hgood hdir hplaino)
    (by rw [show World.hbmCapacity { u with hbm := mm, counters := c, fab := { u.fab with guards := g, reduces := u.reducesWith x q.src.toNat count } } 0
          = u.hbmCapacity 0 from rfl, hcap]; exact hplain.2.1) hapart
  have hx := hexec _ (if_pos hall) (hz3.trans hheld)
  refine ⟨_, hx, s.restKept_world _, ?_⟩
  dsimp only
  generalize World.finishReduce { u with hbm := mm, counters := c, fab := { u.fab with guards := g, reduces := u.reducesWith x q.src.toNat count } } s.sid x m
    (s.w.reduceRange m (s.w.loadEnv 0).dense).1 (s.w.reduceCount m) = z at *
  obtain ⟨-, h2, h3, h4⟩ := hmem
  obtain ⟨k2, k3, k4⟩ := hz1
  refine ⟨⟨k2.trans h2, k3.trans h3, k4.trans h4⟩, hz2, hz4, hz5.trans ?_⟩
  rw [← hstep, ← hout, ← World.ownPosition_of_position hposition]
  rfl

end Come

/-- Settles O41: a packet leaves for each run of cells of each home; cells that come in are added where the range's bytes say; the last of them have the
range read out. -/
theorem reduceAddsAtHomes : Obligations.ReduceAddsAtHomes := by
  unfold Obligations.ReduceAddsAtHomes
  intro s hs w
  refine ⟨fun tensor x m hmap hj hpos hsend hnew hdue hhome hf => reduceStart_sends hs tensor hmap hj hpos hsend hnew hdue hhome hf, ?_⟩
  intro q x m i count hc hj hat w128 b src r n old got cell haddr hlen hcount hroom hplain hfa hfo
  refine ⟨fun hmissing => reduceData_incomplete hs hc hj hat haddr hlen hcount hroom hplain hfa hfo hmissing, ?_⟩
  intro hold hothers hown hplaino hapart
  exact reduceData_complete hs hc hj hat haddr hlen hcount hroom hplain hfa hfo hothers hown hplaino hapart

end Sys2Proof.Machine

namespace Sys2Proof.Machine

/-! ### The cellar: where its bytes stand (R284) -/

section Keys
variable {good : List Nat} {p a b : Nat}

theorem cellarLocate_eq (good : List Nat) (a : Nat) : cellarLocate good a = hbmLocate good (4 * a) := by
  rw [cellarLocate, hbmLocate, show 4 * a / 256 = a / 64 by omega]

/-- Two offsets of a share that the cellar keeps at one place are one. -/
theorem cellarKey_inj (hnd : good.Nodup) (ha : a < 2 ^ 40) (hb : b < 2 ^ 40) (h : cellarKey good p a = cellarKey good p b) : a = b := by
  unfold cellarKey at h
  split at h
  · omega
  next hne =>
    have hline : ∀ c, (cellarLocate good c).2 ≤ c / 64 := fun c => Nat.div_le_self _ _
    have ha' := hline a
    have hb' := hline b
    dsimp only at h
    have hsnd : (cellarLocate good a).2 = (cellarLocate good b).2 := by omega
    have hfst : (cellarLocate good a).1 = (cellarLocate good b).1 := by omega
    have hgrain := grain_eq_of_hbmLocate_eq hne hnd (a := 4 * a) (b := 4 * b) (by
      rw [← cellarLocate_eq, ← cellarLocate_eq]
      exact Prod.ext hfst hsnd)
    omega

end Keys

section Store
variable {good : List Nat} {p a : Nat}

/-- The cellar after bytes are stored from an offset of a share on. -/
def cellarStore (good : List Nat) (p a : Nat) (bs : List (Byte × Nat)) (m : Memory) : Memory :=
  bs.foldl (fun m b => m.setByte (cellarKey good p (a + b.2)) b.1) m

theorem cellarStore_outside {key : Nat} : ∀ (bs : List Byte) (k : Nat) (m : Memory), (∀ i < bs.length, key ≠ cellarKey good p (a + (k + i))) →
    (cellarStore good p a (bs.zipIdx k) m).byte key = m.byte key
  | [], _, _, _ => rfl
  | b :: bs, k, m, h => by
    rw [List.zipIdx_cons, cellarStore, List.foldl_cons]
    refine (cellarStore_outside bs (k + 1) _ fun i hi => ?_).trans ?_
    · have := h (i + 1) (by simpa using hi)
      rwa [show k + (i + 1) = k + 1 + i by omega] at this
    · rw [Memory.byte_setByte]
      exact if_neg (h 0 (by simp))

theorem cellarStore_inside (hnd : good.Nodup) : ∀ (bs : List Byte) (k : Nat) (m : Memory), a + (k + bs.length) ≤ 2 ^ 40 → ∀ i < bs.length,
    (cellarStore good p a (bs.zipIdx k) m).byte (cellarKey good p (a + (k + i))) = bs.getD i 0
  | [], _, _, _, _, hi => absurd hi (Nat.not_lt_zero _)
  | b :: bs, k, m, hcap, i, hi => by
    rw [List.length_cons] at hcap hi
    rw [List.zipIdx_cons, cellarStore, List.foldl_cons]
    cases i with
    | zero =>
      refine (cellarStore_outside bs (k + 1) _ fun j hj e => ?_).trans ?_
      · have := cellarKey_inj hnd (by omega) (by omega) e
        omega
      · rw [Nat.add_zero, Memory.byte_setByte, if_pos rfl]
        rfl
    | succ i =>
      have := cellarStore_inside hnd bs (k + 1) (m.setByte (cellarKey good p (a + k)) b) (by omega) i (by omega)
      rw [show k + (i + 1) = k + 1 + i by omega]
      exact this

end Store

section Reads
variable {w v : World} {p a n : Nat} {bs : List Byte}

theorem World.cellarRead_of_same (hg : (v.part p).cellarGood = (w.part p).cellarGood) (hm : v.cellar = w.cellar) (a n : Nat) :
    v.cellarRead p a n = w.cellarRead p a n := by
  simp only [World.cellarRead, World.cellarByte, hg, hm]

theorem World.length_cellarRead (w : World) (p a n : Nat) : (w.cellarRead p a n).length = n := by rw [World.cellarRead, List.length_map, List.length_range]

/-- What was written reads back. -/
theorem World.cellarRead_written (hnd : (w.part p).cellarGood.Nodup) (hcap : a + bs.length ≤ 2 ^ 40) (hn : n = bs.length) :
    (w.cellarWrite p a bs).cellarRead p a n = bs := by
  subst hn
  have hbs : ((List.range bs.length).map fun i => bs.getD i 0) = bs := List.ext_getElem (by simp) fun i _ h => by simp [List.getElem?_eq_getElem h]
  refine (List.map_congr_left fun i hi => ?_).trans hbs
  have h := cellarStore_inside (p := p) (a := a) hnd bs 0 w.cellar (by omega) i (List.mem_range.mp hi)
  rw [Nat.zero_add] at h
  exact h

/-- Bytes apart from what was written read as before. -/
theorem World.cellarRead_apart (hnd : (w.part p).cellarGood.Nodup) (hcap : a + bs.length ≤ 2 ^ 40) {c m : Nat} (hc : c + m ≤ 2 ^ 40)
    (h : c + m ≤ a ∨ a + bs.length ≤ c) : (w.cellarWrite p a bs).cellarRead p c m = w.cellarRead p c m := by
  refine List.map_congr_left fun i hi => ?_
  have him := List.mem_range.mp hi
  refine cellarStore_outside bs 0 w.cellar fun j hj e => ?_
  have := cellarKey_inj hnd (by omega) (by omega) e
  omega

end Reads

end Sys2Proof.Machine

namespace Sys2Proof.Machine

/-! ### KILN_ENTRY_UPDATE (R304, R315, R319, R320) -/

/-- `v` is `w` but for what emission, counting and noting of an update change: the memories stand, and the Kiln's queue and its list of updated
entries. -/
structure World.Emitted (w v : World) : Prop where
  memories : w.memoriesKept v
  queue : v.kiln.queue = w.kiln.queue
  updated : v.kiln.updated = w.kiln.updated
  closing : v.kiln.closing = w.kiln.closing
  migrants : v.kiln.migrants = w.kiln.migrants
  config : v.config = w.config
  fab : v.fab = w.fab
  part : ∀ {γ : Type} (g : Part → γ), (∀ x st, g { x with stats := st } = g x) → ∀ p, g (v.part p) = g (w.part p)
  counter : ∀ a, a ≠ Block.kln.addr 0 0x0B0 → AMap.get 0 v.counters a = AMap.get 0 w.counters a

section Emitted
variable {w v u : World}

theorem World.Emitted.refl : w.Emitted w := ⟨w.memoriesKept_refl, rfl, rfl, rfl, rfl, rfl, rfl, fun _ _ _ => rfl, fun _ _ => rfl⟩

theorem World.Emitted.trans (h : w.Emitted v) (k : v.Emitted u) : w.Emitted u :=
  ⟨h.memories.trans k.memories, k.queue.trans h.queue, k.updated.trans h.updated, k.closing.trans h.closing, k.migrants.trans h.migrants,
    k.config.trans h.config, k.fab.trans h.fab, fun g hg p => (k.part g hg p).trans (h.part g hg p),
    fun a ha => (k.counter a ha).trans (h.counter a ha)⟩

theorem World.Emitted.foldl {α : Type} {f : World → α → World} (h : ∀ (v : World) (x : α), v.Emitted (f v x)) (xs : List α) (w : World) :
    w.Emitted (xs.foldl f w) :=
  List.foldlRecOn xs f (motive := w.Emitted) .refl fun v hv x _ => hv.trans (h v x)

theorem World.Emitted.ite {c : Prop} [Decidable c] (h : w.Emitted v) (k : w.Emitted u) : w.Emitted (if c then v else u) := by
  split
  · exact h
  · exact k

variable (w)

theorem World.fromKiln_emitted (kind p : Nat) (fields : List Nat) (payload : List Byte) : w.Emitted (w.fromKiln kind p fields payload) :=
  ⟨⟨rfl, rfl, rfl, rfl⟩, rfl, rfl, rfl, rfl, rfl, rfl, fun _ _ _ => rfl, fun _ _ => rfl⟩

theorem World.setReg_emitted (a : Nat) (x : Word) : w.Emitted (w.setReg a x) :=
  ⟨⟨rfl, rfl, rfl, rfl⟩, rfl, rfl, rfl, rfl, rfl, rfl, fun _ _ _ => rfl, fun _ _ => rfl⟩

theorem World.addStats_emitted (p id : Nat) (y : Tally) : w.Emitted (w.addStats p id y) :=
  ⟨⟨rfl, rfl, rfl, rfl⟩, rfl, rfl, rfl, rfl, rfl, rfl,
    fun g hg q => w.part_updPart_keeps g p (fun x => { x with stats := AMap.upd {} x.stats id (·.add y) }) (fun x => hg x _) q, fun _ _ => rfl⟩

theorem World.emitImage_emitted (p tensor at' : Nat) (image : List Byte) : w.Emitted (w.emitImage p tensor at' image) := by
  unfold World.emitImage
  extract_lets n v
  have hv : w.Emitted v := World.Emitted.foldl (fun u i => u.fromKiln_emitted _ _ _ _) _ w
  clear_value v
  exact hv.trans ⟨⟨rfl, rfl, rfl, rfl⟩, rfl, rfl, rfl, rfl, rfl, rfl, fun _ _ _ => rfl, fun a ha => World.counter_count_ne _ _ ha⟩

theorem World.emitRow_emitted (p : Nat) (e : KilnEntry) (row : Nat) (ms : List Val) : w.Emitted (w.emitRow p e row ms) :=
  (w.addStats_emitted p _ _).trans (World.emitImage_emitted _ _ _ _ _)

theorem World.emitMatrix_emitted (p : Nat) (e : KilnEntry) (ms : List Val) : w.Emitted (w.emitMatrix p e ms) := by
  unfold World.emitMatrix
  refine World.Emitted.foldl (fun v q => ?_) _ w
  exact .ite ((v.addStats_emitted p _ _).trans (World.emitImage_emitted _ _ _ _ _)) .refl

theorem World.addLeaf_emitted (step shard : Nat) (item : List Byte) : w.Emitted (w.addLeaf step shard item) := by
  unfold World.addLeaf
  split
  · exact .refl
  · exact ⟨⟨rfl, rfl, rfl, rfl⟩, rfl, rfl, rfl, rfl, rfl, rfl, fun _ _ _ => rfl, fun _ _ => rfl⟩

theorem World.kilnItem_emitted (p : Nat) (x : Tensor) (row index updates : Nat) (bytes : List Byte) : w.Emitted (w.kilnItem p x row index updates bytes) := by
  unfold World.kilnItem
  split
  · exact w.addLeaf_emitted _ _ _
  · exact .refl

end Emitted

/-! ### What an update writes in the cellar (R299, R300, R304) -/

section Block
variable {w : World} {p : Nat} {r : KilnRule} {e : KilnEntry}

theorem le_roundUp {m : Nat} (x : Nat) (h : 0 < m) : x ≤ roundUp x m := by
  have := Nat.div_add_mod (x + m - 1) m
  have := Nat.mod_lt (x + m - 1) h
  rw [roundUp, Nat.mul_comm]
  omega

theorem length_masterBytes (ms : List Val) : (masterBytes ms).length = 6 * ms.length := length_flatMap_of (fun _ => length_leBytes _ _) ms

theorem length_stateBytes (xs : List Val) : (stateBytes xs).length = 4 * xs.length := length_flatMap_of (fun _ => length_leBytes _ _) xs

theorem KilnRule.writeCopy_lt (r : KilnRule) (u : Nat) : r.writeCopy u < r.copies := by
  unfold KilnRule.writeCopy KilnRule.copies
  split
  · exact Nat.mod_lt _ (by decide)
  · exact Nat.one_pos

/-- The bytes of a block header (R299, R304). -/
def headerBytes (hd : Nat × Nat × Nat) : List Byte := leBytes 8 hd.1 ++ leBytes 8 hd.2.1 ++ leBytes 8 hd.2.2

theorem length_headerBytes (hd : Nat × Nat × Nat) : (headerBytes hd).length = 24 := by simp [headerBytes]

theorem World.bumpHeader_eq (w : World) (p : Nat) (r : KilnRule) (e : KilnEntry) :
    (w.bumpHeader p r e).2 = w.cellarWrite p e.cellar (headerBytes (w.bumpHeader p r e).1) := rfl

/-- The masters and states of a matrix entry written. -/
def World.matrixStored (w : World) (p : Nat) (r : KilnRule) (e : KilnEntry) (n u : Nat) (masters : List Val) (states : List (List Val)) : World :=
  states.zipIdx.foldl (fun w s => w.cellarWrite p (stateAt r e n s.2 (r.writeCopy u)) (stateBytes s.1)) (w.cellarWrite p (e.cellar + 64) (masterBytes masters))

/-- `v` is `w` but for its cellar. -/
def World.cellarOnly (w v : World) : Prop := ∃ m, v = { w with cellar := m }

theorem World.cellarWrite_only (w : World) (p a : Nat) (bs : List Byte) : w.cellarOnly (w.cellarWrite p a bs) := ⟨_, rfl⟩

theorem World.cellarOnly.trans {v u : World} (h : w.cellarOnly v) (k : v.cellarOnly u) : w.cellarOnly u := by
  obtain ⟨m, rfl⟩ := h
  obtain ⟨m', rfl⟩ := k
  exact ⟨m', rfl⟩

theorem World.cellarOnly.good {v : World} (h : w.cellarOnly v) (p : Nat) : (v.part p).cellarGood = (w.part p).cellarGood := by
  obtain ⟨m, rfl⟩ := h
  rfl

/-- A state of a matrix block lies behind the masters and within the block. -/
theorem stateAt_bounds {n i c : Nat} (hi : i < r.states) (hc : c < r.copies) (he : e.rowTable = false) (rows : Nat) :
    e.cellar + 64 + roundUp (6 * n) 64 ≤ stateAt r e n i c ∧ stateAt r e n i c + 4 * n ≤ e.cellar + r.blockBytes e n rows := by
  have hle := le_roundUp (m := 64) (4 * n) (by decide)
  have hprod : (c * r.states + i + 1) * roundUp (4 * n) 64 ≤ r.states * r.copies * roundUp (4 * n) 64 := by
    refine Nat.mul_le_mul_right _ ?_
    have := Nat.mul_le_mul_right r.states (Nat.succ_le_of_lt hc)
    rw [Nat.succ_mul] at this
    rw [Nat.mul_comm r.states]
    omega
  rw [Nat.succ_mul] at hprod
  have hblock : r.blockBytes e n rows = 64 + roundUp (6 * n) 64 + r.states * r.copies * roundUp (4 * n) 64 := by
    rw [KilnRule.blockBytes, if_neg (by rw [he]; exact Bool.noConfusion)]
  rw [hblock]
  unfold stateAt
  generalize (c * r.states + i) * roundUp (4 * n) 64 = a at *
  omega

/-- The masters stand as they were written, and nothing before them has changed. -/
theorem World.matrixStored_reads {n rows u : Nat} {masters : List Val} {states : List (List Val)} (hnd : (w.part p).cellarGood.Nodup)
    (hfit : e.cellar + r.blockBytes e n rows ≤ 2 ^ 40) (he : e.rowTable = false) (hm : masters.length = n) (hs : states.length = r.states)
    (hlen : ∀ x ∈ states, x.length = n) : let v := w.matrixStored p r e n u masters states
    w.cellarOnly v ∧ v.cellarRead p (e.cellar + 64) (6 * n) = masterBytes masters ∧ v.cellarRead p e.cellar 24 = w.cellarRead p e.cellar 24 := by
  have hround := le_roundUp (m := 64) (6 * n) (by decide)
  have hbytes : (masterBytes masters).length = 6 * n := by rw [length_masterBytes, hm]
  have hblock : 64 + roundUp (6 * n) 64 ≤ r.blockBytes e n rows := by
    rw [KilnRule.blockBytes, if_neg (by rw [he]; exact Bool.noConfusion)]
    omega
  have h0 : w.cellarOnly (w.cellarWrite p (e.cellar + 64) (masterBytes masters))
      ∧ (w.cellarWrite p (e.cellar + 64) (masterBytes masters)).cellarRead p (e.cellar + 64) (6 * n) = masterBytes masters
      ∧ (w.cellarWrite p (e.cellar + 64) (masterBytes masters)).cellarRead p e.cellar 24 = w.cellarRead p e.cellar 24 :=
    ⟨w.cellarWrite_only _ _ _, World.cellarRead_written hnd (by omega) hbytes.symm, World.cellarRead_apart hnd (by omega) (by omega) (by omega)⟩
  unfold World.matrixStored
  refine List.foldlRecOn _ _ (motive := fun v => w.cellarOnly v ∧ v.cellarRead p (e.cellar + 64) (6 * n) = masterBytes masters
    ∧ v.cellarRead p e.cellar 24 = w.cellarRead p e.cellar 24) h0 fun v ⟨hv, hv1, hv2⟩ x hx => ?_
  obtain ⟨xs, i⟩ := x
  have hi : i < r.states := by
    rw [← hs]
    exact List.snd_lt_of_mem_zipIdx hx
  obtain ⟨hlow, hhigh⟩ := stateAt_bounds (n := n) hi (r.writeCopy_lt u) he rows
  have hxs : (stateBytes xs).length = 4 * n := by rw [length_stateBytes, hlen xs (List.fst_mem_of_mem_zipIdx hx)]
  have hndv : (v.part p).cellarGood.Nodup := by rw [hv.good]; exact hnd
  refine ⟨hv.trans (v.cellarWrite_only _ _ _), ?_, ?_⟩
  · rw [World.cellarRead_apart hndv (by dsimp only; omega) (by omega) (by dsimp only; omega), hv1]
  · rw [World.cellarRead_apart hndv (by dsimp only; omega) (by omega) (by dsimp only; omega), hv2]

end Block

end Sys2Proof.Machine

namespace Sys2Proof.Machine

/-! ### Updates of a matrix entry (R320) -/

section Matrix
variable {w : World} {t : Sid} {p g i : Nat} {r : KilnRule} {e : KilnEntry}

/-- A step of an elementwise kind gives as many masters, and values of each state, as it takes. -/
theorem World.length_matrixStep {h : KHyper} {u n : Nat} {grads masters : List Val} (hk : r.kind ≠ 4) (hg : grads.length = n) (hm : masters.length = n) :
    let out := w.matrixStep p r e h u n grads masters
    out.1.length = n ∧ out.2.1.length = r.states ∧ ∀ x ∈ out.2.1, x.length = n := by
  unfold World.matrixStep
  dsimp only
  rw [if_neg hk]
  refine ⟨by simp [hg, hm], by simp, fun x hx => ?_⟩
  obtain ⟨s, -, rfl⟩ := List.mem_map.mp hx
  simp [hg, hm]

theorem World.length_masterArray (w : World) (p : Nat) (e : KilnEntry) (n : Nat) : (w.masterArray p e n).length = n := by
  unfold World.masterArray
  rw [List.length_map, List.length_range]

/-- The gradient of a matrix entry. -/
def World.matrixGrads (w : World) (p : Nat) (e : KilnEntry) : List Val :=
  (List.range (w.matrixElements p e)).map fun k => fp32.decode (w.gradElement p (w.grad p e.tensor) ((w.homedRows p (w.kilnTensor p e)).1 * e.cols + k))

theorem World.length_matrixGrads (w : World) (p : Nat) (e : KilnEntry) : (w.matrixGrads p e).length = w.matrixElements p e := by
  rw [World.matrixGrads, List.length_map, List.length_range]

/-- The rates of an update of partition `p`. -/
def World.entryHyper (w : World) (p : Nat) (r : KilnRule) (hd : Nat × Nat × Nat) : KHyper :=
  r.hyper ((w.part p).bundle.elim [] (·.schedules)) (w.part p).step hd.2.1 hd.2.2

/-- What an update of a matrix entry comes to. -/
def World.matrixOut (w : World) (p : Nat) (r : KilnRule) (e : KilnEntry) : List Val × List (List Val) × Bool × Nat :=
  w.matrixStep p r e (w.entryHyper p r (w.bumpHeader p r e).1) (w.bumpHeader p r e).1.1 (w.matrixElements p e) (w.matrixGrads p e)
    (w.masterArray p e (w.matrixElements p e))

/-- The world with the header, masters and states of a matrix entry written. -/
def World.matrixDone (w : World) (p : Nat) (r : KilnRule) (e : KilnEntry) : World :=
  (w.bumpHeader p r e).2.matrixStored p r e (w.matrixElements p e) (w.bumpHeader p r e).1.1 (w.matrixOut p r e).1 (w.matrixOut p r e).2.1

/-- The update of a matrix entry, counted. -/
def World.matrixCounted (w : World) (n cycles : Nat) (inf inv : Bool) : World :=
  (((w.klnSticky false inf inv false).tick .kln 0 0x080).count (Block.kln.addr 0 0x088) n).count (Block.kln.addr 0 0x0A8) cycles

theorem World.matrixDone_reads (hfit : w.blockFits p r e) (he : e.rowTable = false) (hk : r.kind ≠ 4) : let v := w.matrixDone p r e
    w.cellarOnly v ∧ v.cellarRead p (e.cellar + 64) (6 * w.matrixElements p e) = masterBytes (w.matrixOut p r e).1
      ∧ v.cellarRead p e.cellar 24 = headerBytes (w.bumpHeader p r e).1 := by
  obtain ⟨hnd, hfits⟩ := hfit
  have hfit : e.cellar + r.blockBytes e (w.matrixElements p e) ((w.homedRows p (w.kilnTensor p e)).2 - (w.homedRows p (w.kilnTensor p e)).1) ≤ 2 ^ 40 := hfits
  obtain ⟨hm, hs, hlen⟩ := World.length_matrixStep (w := w) (p := p) (e := e) (h := w.entryHyper p r (w.bumpHeader p r e).1)
    (u := (w.bumpHeader p r e).1.1) hk (w.length_matrixGrads p e) (w.length_masterArray p e _)
  have hblock : 64 ≤ r.blockBytes e (w.matrixElements p e) ((w.homedRows p (w.kilnTensor p e)).2 - (w.homedRows p (w.kilnTensor p e)).1) := by
    rw [KilnRule.blockBytes, if_neg (by rw [he]; exact Bool.noConfusion)]
    omega
  have hhead := w.bumpHeader_eq p r e
  have honly : w.cellarOnly (w.bumpHeader p r e).2 := ⟨_, rfl⟩
  have hread : (w.bumpHeader p r e).2.cellarRead p e.cellar 24 = headerBytes (w.bumpHeader p r e).1 := by
    rw [hhead]
    exact World.cellarRead_written hnd (by rw [length_headerBytes]; omega) (length_headerBytes _).symm
  obtain ⟨h1, h2, h3⟩ := World.matrixStored_reads (w := (w.bumpHeader p r e).2) (u := (w.bumpHeader p r e).1.1) (by rw [honly.good]; exact hnd) hfit he hm hs hlen
  exact ⟨honly.trans h1, h2, h3.trans hread⟩

theorem World.matrixCounted_elements (n cycles : Nat) (inf inv : Bool) : AMap.get 0 (w.matrixCounted n cycles inf inv).counters (Block.kln.addr 0 0x088)
    = AMap.get 0 w.counters (Block.kln.addr 0 0x088) + BitVec.ofNat 64 n := by
  unfold World.matrixCounted
  refine (World.counter_count_ne _ _ fun h => ?_).trans ((World.counter_count_self _ _ _).trans (congrArg (· + _) (World.counter_count_ne _ _ fun h => ?_)))
  · exact Block.addr_ne (by decide) (by decide) (by decide) h
  · exact Block.addr_ne (by decide) (by decide) (by decide) h

/-- What an update of a matrix entry hands to the digest and to the package. -/
def World.matrixEmitted (w : World) (p : Nat) (e : KilnEntry) (x : Tensor) (first u : Nat) (ms : List Val) (states : List (List Val)) : World :=
  (if w.digests p x then
      ms.zipIdx.foldl (fun w v => w.kilnItem p x ((first + v.2) / (max 1 e.cols)) (first + v.2) u
        (masterBytes [v.1] ++ stateBytes (states.map fun s => s.getD v.2 (.fin false 0 0)))) w
    else w).emitMatrix p e ms

theorem World.matrixEmitted_emitted (w : World) (p : Nat) (e : KilnEntry) (x : Tensor) (first u : Nat) (ms : List Val) (states : List (List Val)) :
    w.Emitted (w.matrixEmitted p e x first u ms states) :=
  (World.Emitted.ite (World.Emitted.foldl (fun v _ => v.kilnItem_emitted _ _ _ _ _ _) _ w) .refl).trans (World.emitMatrix_emitted _ _ _ _)

/-- What an update of a matrix entry with a finite gradient is. -/
theorem World.updateMatrix_eq (hfin : ∀ v ∈ w.matrixGrads p e, v.isFinite = true) : ∃ cycles inf inv v,
    ((w.matrixDone p r e).matrixCounted (w.matrixElements p e) cycles inf inv).Emitted v
      ∧ w.updateMatrix t p g i r e = v.updKiln fun k => { k with updated := k.updated ++ [(p, g, i)] } := by
  have hany : ((w.matrixGrads p e).any fun v => !v.isFinite) = false := by
    rw [List.any_eq_false]
    intro v hv
    rw [hfin v hv]
    decide
  unfold World.matrixGrads at hany
  refine ⟨(w.matrixOut p r e).2.2.2, becameInf (w.masterArray p e (w.matrixElements p e)) (w.matrixOut p r e).1, (w.matrixOut p r e).2.2.1, _,
    World.matrixEmitted_emitted _ p e (w.kilnTensor p e) ((w.homedRows p (w.kilnTensor p e)).1 * e.cols) (w.bumpHeader p r e).1.1 (w.matrixOut p r e).1
      (w.matrixOut p r e).2.1, ?_⟩
  unfold World.updateMatrix
  dsimp only
  rw [if_neg (by rw [hany]; exact Bool.noConfusion)]
  rfl

/-- What an update of a matrix entry leaves (R304, R320). -/
theorem World.updateMatrix_updates (hfin : ∀ v ∈ w.matrixGrads p e, v.isFinite = true) (hfit : w.blockFits p r e) (he : e.rowTable = false)
    (hk : r.kind ≠ 4) : let z := w.updateMatrix t p g i r e
    (z.hbm = w.hbm ∧ z.tun = w.tun ∧ z.cstore = w.cstore) ∧ z.kiln.queue = w.kiln.queue ∧ z.kiln.closing = w.kiln.closing
      ∧ z.cellarRead p e.cellar 24 = headerBytes (w.bumpHeader p r e).1
      ∧ z.cellarRead p (e.cellar + 64) (6 * w.matrixElements p e) = masterBytes (w.matrixOut p r e).1
      ∧ AMap.get 0 z.counters (Block.kln.addr 0 0x088) = AMap.get 0 w.counters (Block.kln.addr 0 0x088) + BitVec.ofNat 64 (w.matrixElements p e)
      ∧ (p, g, i) ∈ z.kiln.updated := by
  obtain ⟨cycles, inf, inv, v, hv, hz⟩ := World.updateMatrix_eq (t := t) (g := g) (i := i) (r := r) hfin
  obtain ⟨honly, hmasters, hheader⟩ := World.matrixDone_reads hfit he hk
  obtain ⟨h1, h2, h3, h4, h5⟩ : (w.matrixDone p r e).hbm = w.hbm ∧ (w.matrixDone p r e).tun = w.tun ∧ (w.matrixDone p r e).cstore = w.cstore
      ∧ (w.matrixDone p r e).kiln = w.kiln ∧ (w.matrixDone p r e).counters = w.counters := by
    obtain ⟨m, hm⟩ := honly
    rw [hm]
    exact ⟨rfl, rfl, rfl, rfl, rfl⟩
  have hcount := World.matrixCounted_elements (w := w.matrixDone p r e) (w.matrixElements p e) cycles inf inv
  have hkept := hv.counter (Block.kln.addr 0 0x088) fun h => Block.addr_ne (by decide) (by decide) (by decide) h
  have hread := World.cellarRead_of_same (v := v) (w := w.matrixDone p r e) (p := p) (hv.part Part.cellarGood (fun _ _ => rfl) p) hv.memories.2.2.2
  obtain ⟨k1, k2, k3, -⟩ := hv.memories
  have hkiln : ((w.matrixDone p r e).matrixCounted (w.matrixElements p e) cycles inf inv).kiln = w.kiln := h4
  have hqueue := hv.queue
  have hclosing := hv.closing
  rw [hkiln] at hqueue hclosing
  rw [hcount, h5] at hkept
  dsimp only
  rw [hz]
  exact ⟨⟨k1.trans h1, k2.trans h2, k3.trans h3⟩, hqueue, hclosing, (hread _ _).trans hheader, (hread _ _).trans hmasters, hkept,
    List.mem_append_right _ (List.mem_singleton_self _)⟩

end Matrix

end Sys2Proof.Machine

namespace Sys2Proof.Machine

/-! ### Updates of a row table (R307, R320) -/

section Rows
variable {w v : World} {t : Sid} {p g i row a : Nat} {r : KilnRule} {e : KilnEntry} {vs : List (BitVec 32)}

theorem World.homedRows_of_same (hr : (v.part p).record = (w.part p).record) (hd : (v.part p).dies = (w.part p).dies)
    (hg : (v.part p).good = (w.part p).good) (hc : (v.part p).cellarGib = (w.part p).cellarGib) (hb : (v.part p).bundle = (w.part p).bundle)
    (hconf : v.config = w.config) (hfab : v.fab = w.fab) (e : KilnEntry) : v.homedRows p (v.kilnTensor p e) = w.homedRows p (w.kilnTensor p e) := by
  rw [World.homedRows, World.loadEnv_congr hr hd hg hc hconf hfab, World.kilnTensor, World.tensor_of_bundle hb, World.homedRows, World.kilnTensor]

theorem World.ownRecord_of_same (h : v.homedRows p (v.kilnTensor p e) = w.homedRows p (w.kilnTensor p e)) (r : KilnRule) (row : Nat) :
    v.ownRecord p r e row = w.ownRecord p r e row := by
  rw [World.ownRecord, h, World.ownRecord]

/-- A row that the shard map homes here has its record and its freeze flag behind the header and within the block (R300). -/
theorem World.ownRecord_bounds (hown : w.ownRecord p r e row = some a) (he : e.rowTable = true) (hfit : w.blockFits p r e) :
    e.cellar + 64 ≤ a ∧ a + r.recordBytes e.cols ≤ 2 ^ 40 ∧ e.cellar + 64 ≤ (w.freezeBit p r e row).1 ∧ (w.freezeBit p r e row).1 + 1 ≤ 2 ^ 40 := by
  obtain ⟨-, hcap⟩ := hfit
  unfold World.ownRecord at hown
  unfold World.freezeBit
  dsimp only at hown hcap ⊢
  rw [KilnRule.blockBytes, if_pos he, KilnRule.slotsFrom] at hcap
  generalize w.homedRows p (w.kilnTensor p e) = h at *
  split at hown
  next hin =>
    obtain ⟨hlo, hhi⟩ := hin
    cases Option.some.inj hown
    have hrec : (row - h.1 + 1) * r.recordBytes e.cols ≤ (h.2 - h.1) * r.recordBytes e.cols := Nat.mul_le_mul_right _ (by omega)
    rw [Nat.succ_mul] at hrec
    have hbits : (row - h.1) / 8 + 1 ≤ ceilDiv (h.2 - h.1) 8 := by
      rw [ceilDiv]
      omega
    have hround := le_roundUp (m := 64) (ceilDiv (h.2 - h.1) 8) (by decide)
    omega
  next => exact absurd hown (Option.some_ne_none _).symm

/-- The world with a table's header counted up. -/
theorem World.bumpHeader_keeps (hfit : w.blockFits p r e) (he : e.rowTable = true) (hown : w.ownRecord p r e row = some a) :
    let v := (w.bumpHeader p r e).2
    v.rowFrozen p r e row = w.rowFrozen p r e row ∧ v.rowRecord p r e row = w.rowRecord p r e row ∧ v.ownRecord p r e row = some a := by
  obtain ⟨h1, h2, h3, h4⟩ := World.ownRecord_bounds hown he hfit
  obtain ⟨hnd, -⟩ := hfit
  have hownv : (w.bumpHeader p r e).2.ownRecord p r e row = some a := hown
  have hlen := length_headerBytes (w.bumpHeader p r e).1
  have hread : ∀ c m, e.cellar + 64 ≤ c → c + m ≤ 2 ^ 40 → (w.bumpHeader p r e).2.cellarRead p c m = w.cellarRead p c m := fun c m hc hm => by
    rw [w.bumpHeader_eq]
    exact World.cellarRead_apart hnd (by rw [hlen]; omega) hm (by rw [hlen]; omega)
  have hbit : (w.bumpHeader p r e).2.freezeBit p r e row = w.freezeBit p r e row := rfl
  refine ⟨?_, ?_, hownv⟩
  · unfold World.rowFrozen
    rw [hownv, hown]
    dsimp only
    rw [hbit, hread _ _ h3 h4]
  · unfold World.rowRecord
    rw [hownv, hown]
    exact hread _ _ h1 h2

/-- A row that is neither frozen nor moving, with a finite gradient: its record is written and what it is emitted as goes out. -/
theorem World.updateRow_eq (h : KHyper) (u : Nat) (hown : w.ownRecord p r e row = some a) (hfro : w.rowFrozen p r e row = false)
    (hfin : ∀ x ∈ vs, (fp32.decode x.toNat).isFinite = true) (hmove : w.moveTarget p e.tensor row = none) :
    ∃ v, (w.cellarWrite p a (rowStep r e h u (vs.map fun x => fp32.decode x.toNat) (w.rowRecord p r e row)).1).Emitted v
      ∧ World.updateRow t p r e h u w (row, vs) = (v.tick .kln 0 0x090).count (Block.kln.addr 0 0x088) e.cols := by
  have hany : ((vs.map fun x => fp32.decode x.toNat).any fun x => !x.isFinite) = false := by
    rw [List.any_eq_false]
    intro x hx
    obtain ⟨y, hy, rfl⟩ := List.mem_map.mp hx
    rw [hfin y hy]
    decide
  have hset : w.setRowRecord p r e row (rowStep r e h u (vs.map fun x => fp32.decode x.toNat) (w.rowRecord p r e row)).1
      = w.cellarWrite p a (rowStep r e h u (vs.map fun x => fp32.decode x.toNat) (w.rowRecord p r e row)).1 := by
    unfold World.setRowRecord
    rw [hown]
  unfold World.updateRow
  dsimp only
  rw [if_neg (by rw [hfro]; exact Bool.noConfusion), if_neg (by rw [hany]; exact Bool.noConfusion), hset]
  generalize rowStep r e h u (vs.map fun x => fp32.decode x.toNat) (w.rowRecord p r e row) = o
  have hem := ((World.setReg_emitted _ _ _).trans (World.kilnItem_emitted (World.klnSticky (w.cellarWrite p a o.1) false
    (becameInf (recordMasters (w.rowRecord p r e row) e.cols) o.2.1) o.2.2 false) p
    ((World.klnSticky (w.cellarWrite p a o.1) false (becameInf (recordMasters (w.rowRecord p r e row) e.cols) o.2.1) o.2.2 false).kilnTensor p e)
    row row u o.1)).trans (World.emitRow_emitted _ p e row o.2.1)
  have hacc := hem.part Part.accepted (fun _ _ => rfl) p
  refine ⟨_, hem, ?_⟩
  generalize World.emitRow _ p e row o.2.1 = x at *
  have hmv : ((x.tick .kln 0 0x090).count (Block.kln.addr 0 0x088) e.cols).moveTarget p e.tensor row = none := by
    rw [← hmove, World.moveTarget, World.moveTarget]
    exact congrArg (fun l : List (Nat × Nat × Nat) => (l.find? fun a => decide (a.1 = e.tensor) && decide (a.2.1 = row)).map (·.2.2)) hacc
  rw [hmv]
  rfl

/-- The update of a table with one touched row that is live. -/
theorem World.updateTable_eq (hrows : (w.grad p e.tensor).rows = [(row, vs)])
    (hlive : ([(row, vs)].filter fun x => !(w.rowFrozen p r e x.1) && x.2.all fun v => (fp32.decode v.toNat).isFinite) = [(row, vs)])
    (hrow : World.updateRow t p r e (w.entryHyper p r (w.bumpHeader p r e).1) (w.bumpHeader p r e).1.1 (w.bumpHeader p r e).2 (row, vs) = v)
    (hrest : ((v.part p).entry e.tensor).elim false (·.fullRewrite) = false) :
    w.updateTable t p g i r e = (v.tick .kln 0 0x080).updKiln fun k => { k with updated := k.updated ++ [(p, g, i)] } := by
  unfold World.entryHyper at hrow
  unfold World.updateTable
  dsimp only
  rw [hrows, hlive, List.isEmpty_cons, if_neg Bool.false_ne_true, if_neg Bool.false_ne_true, List.foldl_cons, List.foldl_nil, hrow,
    show (v.tick .kln 0 0x080).part p = v.part p from rfl, hrest, if_neg Bool.false_ne_true, List.foldl_nil]

theorem length_rowStep (r : KilnRule) (e : KilnEntry) (h : KHyper) (u : Nat) (xs : List Val) (b : List Byte) :
    (rowStep r e h u xs b).1.length = r.recordBytes e.cols := by
  unfold rowStep
  dsimp only
  split
  · exact slice_length _ _ _
  · exact slice_length _ _ _

/-- The world with an updated row counted and its entry noted. -/
def World.rowCounted (w : World) (p g i n : Nat) : World :=
  (((w.tick .kln 0 0x090).count (Block.kln.addr 0 0x088) n).tick .kln 0 0x080).updKiln fun k => { k with updated := k.updated ++ [(p, g, i)] }

theorem World.rowCounted_rows (v : World) (p g i n : Nat) :
    AMap.get 0 (v.rowCounted p g i n).counters (Block.kln.addr 0 0x090) = AMap.get 0 v.counters (Block.kln.addr 0 0x090) + 1 := by
  change AMap.get 0 (((v.count (Block.kln.addr 0 0x090) 1).count (Block.kln.addr 0 0x088) n).count (Block.kln.addr 0 0x080) 1).counters _ = _
  rw [World.counter_count_ne _ _ fun h => Block.addr_ne (by decide) (by decide) (by decide) h,
    World.counter_count_ne _ _ fun h => Block.addr_ne (by decide) (by decide) (by decide) h, World.counter_count_self]
  rfl

theorem World.rowCounted_keeps (v : World) (p g i n : Nat) : let z := v.rowCounted p g i n
    v.memoriesKept z ∧ z.kiln.queue = v.kiln.queue ∧ z.kiln.closing = v.kiln.closing ∧ z.parts = v.parts ∧ z.config = v.config ∧ z.fab = v.fab :=
  ⟨⟨rfl, rfl, rfl, rfl⟩, rfl, rfl, rfl, rfl, rfl⟩

theorem World.rowRecord_of_same (h : v.homedRows p (v.kilnTensor p e) = w.homedRows p (w.kilnTensor p e)) (hown : w.ownRecord p r e row = some a)
    (hg : (v.part p).cellarGood = (w.part p).cellarGood) (hc : v.cellar = w.cellar) : v.rowRecord p r e row = w.rowRecord p r e row := by
  have hread : ∀ a n, v.cellarRead p a n = w.cellarRead p a n := World.cellarRead_of_same hg hc
  rw [World.rowRecord, World.ownRecord_of_same h, World.rowRecord, hown]
  exact hread _ _

/-- What an update of a table with one touched row leaves (R304, R320). -/
theorem World.updateTable_updates (hfit : w.blockFits p r e) (he : e.rowTable = true) (hown : w.ownRecord p r e row = some a)
    (hrows : (w.grad p e.tensor).rows = [(row, vs)]) (hfro : w.rowFrozen p r e row = false)
    (hfin : ∀ x ∈ vs, (fp32.decode x.toNat).isFinite = true) (hmove : w.moveTarget p e.tensor row = none)
    (hfull : ∀ f, (w.part p).entry e.tensor = some f → f.fullRewrite = false) : let z := w.updateTable t p g i r e
    (z.hbm = w.hbm ∧ z.tun = w.tun ∧ z.cstore = w.cstore) ∧ z.kiln.queue = w.kiln.queue ∧ z.kiln.closing = w.kiln.closing
      ∧ z.rowRecord p r e row = (rowStep r e (w.entryHyper p r (w.bumpHeader p r e).1) (w.bumpHeader p r e).1.1 (vs.map fun x => fp32.decode x.toNat)
        (w.rowRecord p r e row)).1
      ∧ AMap.get 0 z.counters (Block.kln.addr 0 0x090) = AMap.get 0 w.counters (Block.kln.addr 0 0x090) + 1 := by
  obtain ⟨hfrov, hrecv, hownv⟩ := World.bumpHeader_keeps hfit he hown
  obtain ⟨-, hacap, -, -⟩ := World.ownRecord_bounds hown he hfit
  obtain ⟨hnd, -⟩ := hfit
  have hlive : ([(row, vs)].filter fun x => !(w.rowFrozen p r e x.1) && x.2.all fun v => (fp32.decode v.toNat).isFinite) = [(row, vs)] := by
    refine List.filter_eq_self.mpr fun x hx => ?_
    cases List.mem_singleton.mp hx
    rw [hfro, List.all_eq_true.mpr hfin]
    rfl
  obtain ⟨v, hv, hrow⟩ := World.updateRow_eq (w := (w.bumpHeader p r e).2) (t := t) (w.entryHyper p r (w.bumpHeader p r e).1) (w.bumpHeader p r e).1.1 hownv
    (hfrov.trans hfro) hfin hmove
  rw [hrecv] at hv
  generalize hb : (rowStep r e (w.entryHyper p r (w.bumpHeader p r e).1) (w.bumpHeader p r e).1.1 (vs.map fun x => fp32.decode x.toNat)
    (w.rowRecord p r e row)).1 = bytes at *
  have hlen : bytes.length = r.recordBytes e.cols := by
    rw [← hb]
    exact length_rowStep _ _ _ _ _ _
  have hsame : w.cellarOnly ((w.bumpHeader p r e).2.cellarWrite p a bytes) := by
    rw [w.bumpHeader_eq]
    exact (w.cellarWrite_only _ _ _).trans (World.cellarWrite_only _ _ _ _)
  have hwritten : ((w.bumpHeader p r e).2.cellarWrite p a bytes).cellarRead p a bytes.length = bytes :=
    World.cellarRead_written hnd (by rw [hlen]; exact hacap) rfl
  obtain ⟨u1, u2, u3, u4, u5⟩ : ((w.bumpHeader p r e).2.cellarWrite p a bytes).hbm = w.hbm
      ∧ ((w.bumpHeader p r e).2.cellarWrite p a bytes).tun = w.tun ∧ ((w.bumpHeader p r e).2.cellarWrite p a bytes).cstore = w.cstore
      ∧ ((w.bumpHeader p r e).2.cellarWrite p a bytes).kiln = w.kiln
      ∧ ((w.bumpHeader p r e).2.cellarWrite p a bytes).counters = w.counters := by
    obtain ⟨m, hm⟩ := hsame
    rw [hm]
    exact ⟨rfl, rfl, rfl, rfl, rfl⟩
  have hpart : ((w.bumpHeader p r e).2.cellarWrite p a bytes).part p = w.part p := by
    obtain ⟨m, hm⟩ := hsame
    rw [hm]
    rfl
  have hplace : ((w.bumpHeader p r e).2.cellarWrite p a bytes).homedRows p (((w.bumpHeader p r e).2.cellarWrite p a bytes).kilnTensor p e)
      = w.homedRows p (w.kilnTensor p e) := by
    obtain ⟨m, hm⟩ := hsame
    rw [hm]
    rfl
  generalize (w.bumpHeader p r e).2.cellarWrite p a bytes = u at *
  have hentry : ((((v.tick .kln 0 0x090).count (Block.kln.addr 0 0x088) e.cols).part p).entry e.tensor).elim false (·.fullRewrite) = false := by
    have hv' : (v.part p).entry e.tensor = (w.part p).entry e.tensor :=
      (hv.part (fun x => x.entry e.tensor) (fun _ _ => rfl) p).trans (congrArg (fun x : Part => x.entry e.tensor) hpart)
    change ((v.part p).entry e.tensor).elim false (·.fullRewrite) = false
    rw [hv']
    cases h : (w.part p).entry e.tensor with
    | none => rfl
    | some f => exact hfull f h
  have hz : w.updateTable t p g i r e = v.rowCounted p g i e.cols := World.updateTable_eq hrows hlive hrow hentry
  obtain ⟨hm, hq, hc, hparts, hconfig, hfab⟩ := v.rowCounted_keeps p g i e.cols
  have hcount := v.rowCounted_rows p g i e.cols
  rw [hv.counter _ fun h => Block.addr_ne (by decide) (by decide) (by decide) h, u5] at hcount
  dsimp only
  rw [hz]
  generalize v.rowCounted p g i e.cols = z at *
  obtain ⟨k1, k2, k3, k4⟩ := hv.memories.trans hm
  have hsame : ∀ {γ : Type} (f : Part → γ), (∀ x st, f { x with stats := st } = f x) → f (z.part p) = f (u.part p) := fun f hf => by
    rw [← hv.part f hf p, World.part, World.part, hparts]
  have hhome := (World.homedRows_of_same (hsame Part.record fun _ _ => rfl) (hsame Part.dies fun _ _ => rfl) (hsame Part.good fun _ _ => rfl)
    (hsame Part.cellarGib fun _ _ => rfl) (hsame Part.bundle fun _ _ => rfl) (hconfig.trans hv.config) (hfab.trans hv.fab) e)
  have hread : z.rowRecord p r e row = u.rowRecord p r e row :=
    World.rowRecord_of_same hhome ((World.ownRecord_of_same hplace r row).trans hown) (hsame Part.cellarGood fun _ _ => rfl) k4
  have hbytes : u.rowRecord p r e row = bytes := by
    unfold World.rowRecord
    rw [World.ownRecord_of_same hplace, hown, ← hlen]
    exact hwritten
  have hqueue := hq.trans hv.queue
  have hclosing := hc.trans hv.closing
  rw [u4] at hqueue hclosing
  exact ⟨⟨k1.trans u1, k2.trans u2, k3.trans u3⟩, hqueue, hclosing, hread.trans hbytes, hcount⟩

end Rows

end Sys2Proof.Machine

namespace Sys2Proof.Machine

section Entries
variable {w : World} {t : Sid} {p g i : Nat} {r : KilnRule} {e : KilnEntry}

/-- The world with an entry taken from the Kiln's queue, where no freeze command waits. -/
def World.unqueued (w : World) (p g i : Nat) : World :=
  { w with kiln := { w.kiln with freezes := [], queue := w.kiln.queue.filter fun q => decide (q ≠ (p, g, i)) } }

theorem World.applyFreezes_of_none (h : w.kiln.freezes = []) (step : Nat) :
    (w.applyFreezes p step).updKiln (fun k => { k with queue := k.queue.filter fun q => decide (q ≠ (p, g, i)) }) = w.unqueued p g i := by
  unfold World.applyFreezes World.unqueued
  dsimp only [World.updKiln]
  rw [h]
  rfl

/-- With no step to close the Kiln has nothing to settle. -/
theorem World.settleKiln_of_open (h : AMap.get 0 w.kiln.closing p = 0) : w.settleKiln p = w := if_pos (.inl h)

variable {s : State} {part : PartId}

/-- An update that does not wait. -/
theorem exec_kilnEntryUpdate (hs : s.inService = true) (hq : (s.w.kiln.queue.find? fun q => decide (q.1 = part.val)) = some (part.val, g, i))
    (he : s.w.kilnEntryAt part.val g i = some (r, e)) (hlive : s.w.kilnLive part.val = true)
    (hrun : (s.w.part part.val).running = false ∨ (s.w.part part.val).eval = false) (hcow : s.w.cowHeld part.val e.tensor = false)
    (hgrad : s.w.gradArrived part.val (s.w.grad part.val e.tensor) = true) (hf : s.w.kiln.freezes = []) {v : World}
    (hv : (if (part.val, g, i) ∈ s.w.kiln.frozen then (s.w.unqueued part.val g i).tick .kln 0 0x098
      else if e.rowTable = true then (s.w.unqueued part.val g i).updateTable s.sid part.val g i r e
      else (s.w.unqueued part.val g i).updateMatrix s.sid part.val g i r e) = v) (hc : AMap.get 0 v.kiln.closing part.val = 0) :
    exec (.kilnEntryUpdate part) s = .next { s with w := v } := by
  refine next_of_serve hs ?_
  dsimp only
  rw [hq]
  dsimp only
  rw [he]
  dsimp only
  rw [World.applyFreezes_of_none hf, if_neg, ← hv]
  · have hfrozen : ((s.w.unqueued part.val g i).kiln.frozen.contains (part.val, g, i) = true) = ((part.val, g, i) ∈ s.w.kiln.frozen) :=
      propext List.contains_iff_mem
    simp only [hfrozen]
    rw [hv]
    exact World.settleKiln_of_open hc
  · rw [hlive, hcow, hgrad]
    obtain h | h := hrun
    · rw [h]
      simp
    · rw [h]
      simp

/-- What the skip of an entry leaves (R320). -/
theorem World.kilnSkip_skips (w : World) (t : Sid) (p tensor : Nat) (h : w.forwards 2) : let z := w.kilnSkip t p tensor false
    w.memoriesKept z ∧ z.kiln = w.kiln ∧ w.raised z klnSource 0x10B tensor
      ∧ AMap.get 0 z.counters (Block.kln.addr 0 0x0A0) = AMap.get 0 w.counters (Block.kln.addr 0 0x0A0) + 1 := by
  let v := (w.klnSticky true false false false).tick .kln 0 0x0A0
  have hfwd : v.forwards (eventSeverity 0x10B) :=
    World.forwards.of_same h ((World.reg_setReg _ _ _ _).trans (if_neg fun e => Block.addr_ne (by decide) (by decide) (by decide) e)) rfl
  obtain ⟨hn, hc⟩ := v.raise_Noted t klnSource 0x10B tensor
  have hcount : AMap.get 0 (v.raise t klnSource 0x10B tensor).counters (Block.kln.addr 0 0x0A0)
      = AMap.get 0 w.counters (Block.kln.addr 0 0x0A0) + 1 :=
    (hc _ (not_notedCounter (by decide) (by decide) (by decide) (by decide))).trans (World.counter_count_self _ _ _)
  have hraised : w.raised (v.raise t klnSource 0x10B tensor) klnSource 0x10B tensor :=
    World.raised.of_same (World.raise_raised (w := v) (t := t) hfwd (by decide) (by decide)) rfl
  have hz : w.kilnSkip t p tensor false = (v.raise t klnSource 0x10B tensor).updPart p fun x => { x with skipRaised := x.skipRaised ++ [tensor] } := by
    unfold World.kilnSkip
    dsimp only
    rw [if_neg fun h => Bool.noConfusion h.1, if_neg Bool.false_ne_true, Nat.add_zero]
  obtain ⟨k1, k2, k3, k4⟩ := hn.memories
  dsimp only
  rw [hz]
  exact ⟨⟨k1, k2, k3, k4⟩, hn.kiln, hraised, hcount⟩

/-- An update of a matrix entry with a non-finite gradient skips it. -/
theorem World.updateMatrix_of_nonfinite {x : Val} (hx : x ∈ w.matrixGrads p e) (hfin : x.isFinite = false) :
    w.updateMatrix t p g i r e = w.kilnSkip t p e.tensor false := by
  unfold World.matrixGrads at hx
  exact if_pos (List.any_eq_true.mpr ⟨x, hx, by rw [hfin]; rfl⟩)

end Entries

/-- Settles O35: with nothing to wait for, the update takes its entry from the queue; a frozen one is counted, and of the others each kind's rule says
what the header, the masters or the row's record become. -/
theorem kilnUpdatesEntries : Obligations.KilnUpdatesEntries := by
  unfold Obligations.KilnUpdatesEntries
  intro s part g i r e hs
  dsimp only
  intro hq he hlive hrun hcow hgrad hf hclosing hfit
  have hexec := fun v => exec_kilnEntryUpdate (v := v) hs hq he hlive hrun hcow hgrad hf
  refine ⟨fun hfrozen => ?_, fun hfrozen hrow hnonfin hfwd => ?_, fun hfrozen hrow hfin hkind => ?_,
    fun row a vs hfrozen hrow hrows hfin hfro hown hfull hmove => ?_⟩
  · exact ⟨_, hexec _ (if_pos hfrozen) hclosing, ⟨⟨rfl, rfl, rfl, rfl⟩, rfl, rfl, rfl, rfl⟩, rfl, World.counter_count_self _ _ _⟩
  · obtain ⟨x, hx, hxfin⟩ := hnonfin
    have hz := World.updateMatrix_of_nonfinite (w := s.w.unqueued part.val g i) (t := s.sid) (g := g) (i := i) (r := r) (p := part.val) hx hxfin
    obtain ⟨⟨h1, h2, h3, h4⟩, hk, hraised, hcount⟩ := (s.w.unqueued part.val g i).kilnSkip_skips s.sid part.val e.tensor hfwd
    rw [← hz] at h1 h2 h3 h4 hk hraised hcount
    refine ⟨_, hexec _ ((if_neg hfrozen).trans (if_neg (by rw [hrow]; exact Bool.noConfusion))) (by rw [hk]; exact hclosing), ?_⟩
    exact ⟨⟨⟨rfl, rfl, rfl, rfl⟩, h1, h2, h3, congrArg Kiln.queue hk⟩, h4, hraised, hcount⟩
  · obtain ⟨⟨h1, h2, h3⟩, hqueue, hc, hhead, hmasters, hcount, hup⟩ := World.updateMatrix_updates (w := s.w.unqueued part.val g i) (t := s.sid)
      (g := g) (i := i) (r := r) (p := part.val) (e := e) hfin hfit hrow hkind
    exact ⟨_, hexec _ ((if_neg hfrozen).trans (if_neg (by rw [hrow]; exact Bool.noConfusion))) (by rw [hc]; exact hclosing),
      ⟨⟨rfl, rfl, rfl, rfl⟩, h1, h2, h3, hqueue⟩, hhead, hmasters, hcount, hup⟩
  · obtain ⟨⟨h1, h2, h3⟩, hqueue, hc, hrecord, hcount⟩ := World.updateTable_updates (w := s.w.unqueued part.val g i) (t := s.sid) (g := g) (i := i)
      (r := r) (p := part.val) (e := e) hfit hrow hown hrows hfro hfin hmove hfull
    exact ⟨_, hexec _ ((if_neg hfrozen).trans (if_pos hrow)) (by rw [hc]; exact hclosing), ⟨⟨rfl, rfl, rfl, rfl⟩, h1, h2, h3, hqueue⟩, hrecord, hcount⟩

end Sys2Proof.Machine

namespace Sys2Proof.Machine

/-! ### Floyd's choice and the negatives (R186, R187, R190) -/

theorem length_insertKey_of_not_mem {x : Nat} : ∀ {m : List Nat}, x ∉ m → (insertKey x m).length = m.length + 1
  | [], _ => rfl
  | y :: m, h => by
    obtain ⟨hy, hm⟩ := not_or.mp (List.mem_cons.not.mp h)
    unfold insertKey
    rw [if_neg hy]
    split
    · rfl
    · rw [List.length_cons, length_insertKey_of_not_mem hm, List.length_cons]

/-- A word's share of `n` lies below `n`. -/
theorem word_share_lt {x n : Nat} (h : x < 2 ^ 32) (hn : 0 < n) : x * n / 2 ^ 32 < n := by
  rw [Nat.div_lt_iff_lt_mul (by decide), Nat.mul_comm n]
  exact Nat.mul_lt_mul_of_pos_right h hn

/-- A step of Floyd's choice adds one place of those below the next bound. -/
theorem floyd_step {m : List Nat} {j t : Nat} (hs : m.Pairwise (· < ·)) (hm : ∀ x ∈ m, x < j) (ht : t < j + 1) :
    let n := insertKey (if m.contains t then j else t) m
    n.length = m.length + 1 ∧ n.Pairwise (· < ·) ∧ ∀ x ∈ n, x < j + 1 := by
  have hnew : (if m.contains t then j else t) ∉ m ∧ (if m.contains t then j else t) < j + 1 := by
    split
    next => exact ⟨fun h => Nat.lt_irrefl _ (hm j h), Nat.lt_succ_self j⟩
    next h => exact ⟨fun ht => h (List.contains_iff_mem.mpr ht), ht⟩
  obtain ⟨hmem, hlt⟩ := hnew
  refine ⟨length_insertKey_of_not_mem hmem, pairwise_insertKey hs, fun x hx => ?_⟩
  obtain rfl | hx := mem_insertKey.mp hx
  · exact hlt
  · exact Nat.lt_succ_of_lt (hm x hx)

theorem floyd_places {word : Nat → Nat} {d k : Nat} (hw : ∀ u, word u < 2 ^ 32) (hk : k ≤ d) :
    (floyd word d k).length = k ∧ (floyd word d k).Pairwise (· < ·) ∧ ∀ x ∈ floyd word d k, x < d := by
  have hfold : ∀ n ≤ k, let m := (List.range n).foldl (fun chosen u =>
      insertKey (if chosen.contains (word u * (d - k + u + 1) / 2 ^ 32) then d - k + u else word u * (d - k + u + 1) / 2 ^ 32) chosen) []
      m.length = n ∧ m.Pairwise (· < ·) ∧ ∀ x ∈ m, x < d - k + n := by
    intro n
    induction n with
    | zero => exact fun _ => ⟨rfl, .nil, fun _ h => absurd h List.not_mem_nil⟩
    | succ n ih =>
      intro hn
      obtain ⟨hlen, hsort, hlt⟩ := ih (Nat.le_of_succ_le hn)
      obtain ⟨h1, h2, h3⟩ := floyd_step (t := word n * (d - k + n + 1) / 2 ^ 32) hsort hlt (word_share_lt (hw n) (Nat.succ_pos _))
      dsimp only at hlen ⊢
      rw [List.range_succ, List.foldl_append, List.foldl_cons, List.foldl_nil]
      exact ⟨h1.trans (congrArg (· + 1) hlen), h2, h3⟩
  have h := hfold k (Nat.le_refl k)
  rw [Nat.sub_add_cancel hk] at h
  exact h

theorem philoxRounds_words (n k0 k1 : Nat) {c : Nat × Nat × Nat × Nat} (h : c.1 < 2 ^ 32 ∧ c.2.1 < 2 ^ 32 ∧ c.2.2.1 < 2 ^ 32 ∧ c.2.2.2 < 2 ^ 32)
    (hk0 : k0 < 2 ^ 32) (hk1 : k1 < 2 ^ 32) :
    let r := philoxRounds n k0 k1 c
    r.1 < 2 ^ 32 ∧ r.2.1 < 2 ^ 32 ∧ r.2.2.1 < 2 ^ 32 ∧ r.2.2.2 < 2 ^ 32 := by
  induction n generalizing k0 k1 c with
  | zero => exact h
  | succ n ih =>
    obtain ⟨h1, h2, h3, h4⟩ := h
    have hhigh : ∀ a x : Nat, a < 2 ^ 32 → x < 2 ^ 32 → a * x / 2 ^ 32 < 2 ^ 32 := fun a x ha hx => by
      rw [Nat.div_lt_iff_lt_mul (by decide)]
      exact Nat.mul_lt_mul'' ha hx
    refine ih (k0 := (k0 + 0x9E3779B9) % 2 ^ 32) (k1 := (k1 + 0xBB67AE85) % 2 ^ 32) ⟨?_, Nat.mod_lt _ (by decide), ?_, Nat.mod_lt _ (by decide)⟩
      (Nat.mod_lt _ (by decide)) (Nat.mod_lt _ (by decide))
    · exact Nat.xor_lt_two_pow (Nat.xor_lt_two_pow (hhigh _ _ (by decide) h3) h2) hk0
    · exact Nat.xor_lt_two_pow (Nat.xor_lt_two_pow (hhigh _ _ (by decide) h1) h4) hk1

theorem philoxWord_lt (seed cls position stream j : Nat) : philoxWord seed cls position stream j < 2 ^ 32 := by
  have hmod : ∀ x : Nat, x % 2 ^ 32 < 2 ^ 32 := fun x => Nat.mod_lt x (by decide)
  obtain ⟨h1, h2, h3, h4⟩ := philoxRounds_words 10 (seed % 2 ^ 32 ^^^ cls % 2 ^ 32) (seed / 2 ^ 32 % 2 ^ 32)
    (c := (position % 2 ^ 32, position / 2 ^ 32 % 2 ^ 32, stream % 2 ^ 32, stream / 2 ^ 32 % 2 ^ 32)) ⟨hmod _, hmod _, hmod _, hmod _⟩
    (Nat.xor_lt_two_pow (hmod _) (hmod _)) (hmod _)
  unfold philoxWord
  dsimp only
  split
  · exact h1
  · exact h2
  · exact h3
  · exact h4

theorem negativeOf_bounds (seed plan node step j : Nat) {lo hi : Nat} (h : lo < hi) :
    lo ≤ negativeOf seed plan node step lo hi j ∧ negativeOf seed plan node step lo hi j < hi := by
  unfold negativeOf
  extract_lets word
  have hw : ∀ u, word u < 2 ^ 32 := fun u => philoxWord_lt _ _ _ _ _
  have h1 := hw (2 * j + 1)
  have h0 := hw (2 * j)
  generalize word (2 * j + 1) = a at *
  generalize word (2 * j) = b at *
  have hlt : (a * 2 ^ 32 + b) * (hi - lo) / 2 ^ 64 < hi - lo := by
    rw [Nat.div_lt_iff_lt_mul (by decide), Nat.mul_comm (hi - lo)]
    exact Nat.mul_lt_mul_of_pos_right (by omega) (by omega)
  omega

end Sys2Proof.Machine

namespace Sys2Proof.Machine

/-! ### What a block reads before its first hop (R184, R211) -/

section Reads
variable {w v : World} {src p k a n : Nat}

theorem World.countsOnly.part (h : w.countsOnly v) (p : Nat) : v.part p = w.part p := by
  obtain ⟨c, rfl⟩ := h
  rfl

theorem World.localRead_readsOnly (w : World) (src p k a n : Nat) : w.readsOnly (w.localRead src p k a n) := by
  rw [World.localRead]
  generalize w.localBad p a n = bad
  generalize localOf a = place
  cases bad with
  | some e => exact .error
  | none =>
    cases place with
    | none => exact .error
    | some q =>
      cases q with
      | hbm o => exact .ok_pair (w.hbmFetch_countsOnly src p o n)
      | store o => exact .ok .refl

theorem World.localBad_of_same (hg : (v.part p).good = (w.part p).good) (hc : v.channels = w.channels) (a n : Nat) :
    v.localBad p a n = w.localBad p a n := by
  rw [World.localBad, World.localBad, World.hbmCapacity_of_good hg]
  generalize localOf a = place
  cases place with
  | none => rfl
  | some q =>
    cases q with
    | hbm o => dsimp only; rw [World.hbmFailed_of_good hg hc]
    | store o => rfl

/-- The bytes that a read at a local address gives are those of the memories. -/
theorem World.localRead_of_same (hg : (v.part p).good = (w.part p).good) (hc : v.channels = w.channels) (hh : v.hbm = w.hbm) (hs : v.cstore = w.cstore)
    (src k a n : Nat) : (v.localRead src p k a n).map Prod.fst = (w.localRead src p k a n).map Prod.fst := by
  rw [World.localRead, World.localRead, World.localBad_of_same hg hc]
  generalize w.localBad p a n = bad
  generalize localOf a = place
  cases bad with
  | some e => rfl
  | none =>
    cases place with
    | none => rfl
    | some q =>
      cases q with
      | hbm o => exact congrArg Except.ok (World.hbmRead_of_good hg hh o n)
      | store o =>
        refine congrArg Except.ok ?_
        change v.storeRead k o n = w.storeRead k o n
        rw [World.storeRead, hs, World.storeRead]

end Reads

/-! ### The start of a block (R184, R211) -/

section Start
variable {w v : World} {k p last : Nat} {d : List Byte} {o : Option IssuedOp} {xs : List BNode}

theorem World.readSeeds_readsOnly (w : World) (k p : Nat) (d : List Byte) (o : Option IssuedOp) (last : Nat) : w.readsOnly (w.readSeeds k p d o last) := by
  have hread := w.localRead_readsOnly (clusterSource 5 k) p k (smpSeedsAt d o) (16 * smpSeedCountAt d o)
  unfold World.readSeeds
  dsimp only
  generalize w.localRead (clusterSource 5 k) p k (smpSeedsAt d o) (16 * smpSeedCountAt d o) = z at *
  cases z with
  | error e => exact .error
  | ok y =>
    obtain ⟨b, u⟩ := y
    dsimp only
    split
    · exact .error
    · exact .ok (hread b u rfl)

/-- Seeds that keep a bound keep a higher one. -/
theorem World.readSeeds_of_last (hg : (v.part p).good = (w.part p).good) (hc : v.channels = w.channels) (hh : v.hbm = w.hbm) (hs : v.cstore = w.cstore)
    (hl : last ≤ 2 ^ 40) {u : World} (h : v.readSeeds k p d o last = .ok (xs, u)) : ∃ y, w.readSeeds k p d o (2 ^ 40) = .ok (xs, y) := by
  have hread := World.localRead_of_same (v := v) (w := w) (p := p) hg hc hh hs (clusterSource 5 k) k (smpSeedsAt d o) (16 * smpSeedCountAt d o)
  unfold World.readSeeds at h ⊢
  dsimp only at h ⊢
  generalize w.localRead (clusterSource 5 k) p k (smpSeedsAt d o) (16 * smpSeedCountAt d o) = z at *
  generalize v.localRead (clusterSource 5 k) p k (smpSeedsAt d o) (16 * smpSeedCountAt d o) = z' at *
  cases z' with
  | error e => cases h
  | ok y' =>
    cases z with
    | error e => cases hread
    | ok y =>
      obtain ⟨b, u'⟩ := y
      obtain ⟨b', u''⟩ := y'
      cases (Except.ok.inj hread : b' = b)
      dsimp only at h ⊢
      split at h
      next => cases h
      next hnone =>
        obtain ⟨rfl, rfl⟩ := Prod.mk.inj (Except.ok.inj h)
        refine ⟨u', ?_⟩
        rw [List.find?_eq_none.mpr fun x hx => ?_]
        have hx' := List.find?_eq_none.mp hnone x hx
        simp only [decide_eq_true_eq] at hx' ⊢
        omega

/-- Where a block starts, the world is but for its counters as before, and the block is at the hop, and for the descriptor, operation and item, that it was
begun with. -/
def World.startsBlock (w : World) (r : SmpRun) (z : Except (Nat × Nat) (SmpRun × World)) : Prop :=
  ∀ r' v, z = .ok (r', v) → w.countsOnly v ∧ r'.hop = r.hop ∧ r'.item = r.item ∧ r'.desc = r.desc ∧ r'.op = r.op

theorem World.startsBlock.error {r : SmpRun} {e : Nat × Nat} : w.startsBlock r (.error e) := fun _ _ h => by cases h

theorem World.startsBlock.ok {r r' : SmpRun} (h : w.countsOnly v) (hh : r'.hop = r.hop) (hi : r'.item = r.item) (hd : r'.desc = r.desc) (ho : r'.op = r.op) :
    w.startsBlock r (.ok (r', v)) :=
  fun _ _ he => by
    obtain ⟨rfl, rfl⟩ := Prod.mk.inj (Except.ok.inj he)
    exact ⟨h, hh, hi, hd, ho⟩

theorem World.startsBlock.of_read {r : SmpRun} {z : Except (Nat × Nat) (List Byte × World)} {f : List Byte → World → Except (Nat × Nat) (SmpRun × World)}
    (hz : w.readsOnly z) (h : ∀ b v, w.countsOnly v → w.startsBlock r (f b v)) : w.startsBlock r (match (generalizing := false) z with
      | .error e => .error e
      | .ok (b, v) => f b v) := by
  split
  next => exact .error
  next b v => exact h b v (hz b v rfl)

theorem World.readFrontier_starts (w : World) (k p : Nat) (d : List Byte) (plan : Plan) (r : SmpRun) : w.startsBlock r (w.readFrontier k p d plan r) := by
  unfold World.readFrontier
  dsimp only
  refine .of_read (w.localRead_readsOnly _ _ _ _ _) fun h v hv => ?_
  split
  · exact .error
  · refine .of_read (fun b u hu => hv.trans (v.localRead_readsOnly _ _ _ _ _ b u hu)) fun nb v' hv' => ?_
    refine .of_read (fun b u hu => hv'.trans (v'.localRead_readsOnly _ _ _ _ _ b u hu)) fun eb v'' hv'' => ?_
    exact .ok hv'' rfl rfl rfl rfl

/-- A block that starts with its seeds has them for nodes, and no edges. -/
def World.startsSeeded (w : World) (k p : Nat) (d : List Byte) (r : SmpRun) (z : Except (Nat × Nat) (SmpRun × World)) : Prop :=
  ∀ r' v, z = .ok (r', v) → r'.edges = r.edges ∧ ∃ y, w.readSeeds k p d r.op (2 ^ 40) = .ok (r'.nodes, y)

/-! The functions that match on the header's checks are opened as constants, for the reason that the draws give. -/

theorem World.blockStart_starts (w : World) (k p : Nat) (d : List Byte) (plan : Plan) (r : SmpRun) :
    w.startsBlock r (w.blockStart k p d plan r) ∧ (smpFirst d ≤ 1 → w.startsSeeded k p d r (w.blockStart k p d plan r)) := by
  obtain ⟨f, hf⟩ : ∃ f, f = @World.blockStart := ⟨_, rfl⟩
  rw [← hf]
  delta World.blockStart at hf
  obtain ⟨g, hg⟩ : ∃ g, g = @World.graphHeader := ⟨_, rfl⟩
  rw [← hg] at hf
  subst hf
  dsimp only
  generalize g w p (((w.part p).entry plan.graph).elim 0 (·.curBase)) = header
  cases header with
  | error e => exact ⟨.error, fun _ _ _ h => by cases h⟩
  | ok hd =>
    have hcounts := w.hbmFetch_countsOnly (clusterSource 5 k) p (((w.part p).entry plan.graph).elim 0 (·.curBase)) 128
    dsimp only
    generalize (w.hbmFetch (clusterSource 5 k) p (((w.part p).entry plan.graph).elim 0 (·.curBase)) 128).2 = u at *
    obtain ⟨last, hlast⟩ : ∃ x, x = u.firstNode p (((w.part p).entry plan.graph).elim 0 (·.curBase)) hd 4096 := ⟨_, rfl⟩
    have hle : last ≤ 2 ^ 40 := by
      rw [hlast, World.firstNode]
      exact Nat.le_of_lt (Nat.mod_lt _ (by decide))
    rw [← hlast]
    have hreads := u.readSeeds_readsOnly k p d r.op last
    have hseeds : ∀ xs y, u.readSeeds k p d r.op last = .ok (xs, y) → ∃ y, w.readSeeds k p d r.op (2 ^ 40) = .ok (xs, y) := by
      obtain ⟨c, rfl⟩ := hcounts
      exact fun xs y h => World.readSeeds_of_last (v := { w with counters := c }) (w := w) rfl rfl rfl rfl hle h
    generalize u.readSeeds k p d r.op last = z at *
    cases z with
    | error e => exact ⟨.error, fun _ _ _ h => by cases h⟩
    | ok y =>
      obtain ⟨seeds, u'⟩ := y
      have hu' : w.countsOnly u' := hcounts.trans (hreads seeds u' rfl)
      dsimp only
      split
      next =>
        refine ⟨.ok hu' rfl rfl rfl rfl, fun _ r' v h => ?_⟩
        obtain ⟨rfl, rfl⟩ := Prod.mk.inj (Except.ok.inj h)
        exact ⟨rfl, hseeds seeds u' rfl⟩
      next hfirst =>
        refine ⟨fun r' v h => ?_, fun h => absurd h hfirst⟩
        obtain ⟨h1, h2, h3⟩ := World.readFrontier_starts u' k p d plan _ r' v h
        exact ⟨hu'.trans h1, h2, h3⟩

/-! ### SAMPLER_BLOCK -/

/-- A sampler's world with its work item taken. -/
def World.itemTaken (w : World) (k : Nat) : World := w.updSmp k fun y => { y with item := none }

theorem World.smp_updSmp (w : World) (k : Nat) (f : Smp → Smp) : ((w.updSmp k f).cluster k).smp = f (w.cluster k).smp :=
  congrArg Cluster.smp (w.cluster_updCluster_self k _)

/-- The block that a work item begins (R183). -/
def SmpRun.ofItem (d : List Byte) (i : ItemRef) (plan : Plan) (step : Nat) : SmpRun :=
  { desc := d, item := some i, plan := plan.id, hop := smpFirst d, step := step }

theorem World.beginBlock_of_start {w v : World} {t : Sid} {p : Nat} {plan : Plan} {r : SmpRun} {i : ItemRef} (hp : w.partOfCluster k = p)
    (hplan : w.plan p (smpPlan d) = some plan) (hgood : imageBad d none (some plan) = false)
    (hstart : w.blockStart k p d plan (.ofItem d i plan (w.stepOf p)) = .ok (r, v)) :
    w.beginBlock t k d none (some i) = v.updSmp k fun x => { x with run := some r } := by
  obtain ⟨g, hg⟩ : ∃ g, g = @World.blockStart := ⟨_, rfl⟩
  rw [← hg] at hstart
  unfold World.beginBlock
  rw [← hg]
  dsimp only
  rw [hp, hplan, if_neg (by rw [hgood]; exact Bool.noConfusion)]
  unfold SmpRun.ofItem at hstart
  dsimp only [Option.getD_some]
  rw [hstart]

/-- SAMPLER_BLOCK with a work item and no operation of a core. -/
theorem exec_samplerBlock_of_item {s : State} {cluster : ClusterId} {i : ItemRef} (hs : s.inService = true)
    (hl : s.w.clusterLive cluster.val = true) (hthr : s.w.throttled (clusterSource 5 cluster.val) = false)
    (hrun : (s.w.cluster cluster.val).smp.run = none) (hf : (s.w.cluster cluster.val).smp.faulted = false)
    (hp : (s.w.cluster cluster.val).smp.pending = []) (hi : (s.w.cluster cluster.val).smp.item = some (i, d)) :
    exec (.samplerBlock cluster) s
      = .next { s with w := (s.w.itemTaken cluster.val).beginBlock s.sid cluster.val d none (some i) } := by
  refine next_of_serve hs ?_
  dsimp only
  rw [hrun, hf, hl, hthr, hp, hi, if_neg (by simp)]
  rfl

end Start

end Sys2Proof.Machine

namespace Sys2Proof.Machine

/-! ### The draws of a hop (R197, R204, R205) -/

section Hops
variable {w v : World} {t : Sid} {k p : Nat} {plan : Plan} {r r1 : SmpRun}

/-- Local draws fill in draws of the hop, and count. -/
theorem World.drawLocal_draws (xs : List (Nat × BNode)) (w : World) (r r1 : SmpRun) (v : World) (h : w.drawLocal k p plan r xs = .ok (r1, v)) :
    w.countsOnly v ∧ ∃ d, r1 = { r with draws := d } := by
  obtain ⟨f, hf⟩ : ∃ f, f = @World.drawLocal := ⟨_, rfl⟩
  rw [← hf] at h
  delta World.drawLocal World.drawLocal._f at hf
  obtain ⟨node, hnode⟩ : ∃ g, g = @World.drawNode := ⟨_, rfl⟩
  obtain ⟨home, hhome⟩ : ∃ g, g = @World.drawHome := ⟨_, rfl⟩
  rw [← hnode, ← hhome] at hf
  subst hf
  have hreads : ∀ w level step n target, World.readsOnly w (node w k p plan level step n target) := by
    rw [hnode]
    exact fun w level step n target => w.drawNode_readsOnly p n k level step target plan
  clear hnode hhome
  refine brecOn_forall (P := fun m : World → SmpRun → Except (Nat × Nat) (SmpRun × World) =>
    ∀ w r r1 v, m w r = .ok (r1, v) → w.countsOnly v ∧ ∃ d, r1 = { r with draws := d }) (fun xs b hb w r r1 v h => ?_) xs w r r1 v h
  cases xs with
  | nil =>
    obtain ⟨rfl, rfl⟩ := Prod.mk.inj (Except.ok.inj h)
    exact ⟨.refl, r.draws, rfl⟩
  | cons x xs =>
    dsimp only at h
    generalize home w p plan x.2.node = q at h
    cases q with
    | some q =>
      dsimp only at h
      split at h
      · cases h
      · exact hb w r r1 v h
    | none =>
      have hread := hreads w r.hop r.step x.2.node x.2.time
      generalize node w k p plan r.hop r.step x.2.node x.2.time = z at *
      cases z with
      | error e => cases h
      | ok y =>
        obtain ⟨es, u⟩ := y
        obtain ⟨h1, d, rfl⟩ := hb u _ r1 v h
        exact ⟨(hread es u rfl).trans h1, d, rfl⟩

/-- With every draw of the hop here nothing is asked for. -/
theorem World.requestDraws_of_drawn (hrun : (w.cluster k).smp.run = some r) (h : r.waits = false) : w.requestDraws t k p plan r = w := by
  have hdrawn : ∀ x ∈ r.parents, AMap.get none r.draws x.1 ≠ none := fun x hx hn => by
    have := List.any_eq_false.mp h x hx
    rw [hn] at this
    exact this (decide_eq_true rfl)
  unfold World.requestDraws
  refine List.foldlRecOn _ _ (motive := fun v => v = w) rfl fun v hv x hx => ?_
  subst hv
  obtain ⟨y, hy, hxy⟩ := List.mem_filterMap.mp hx
  obtain ⟨q, -, rfl⟩ := Option.map_eq_some_iff.mp hxy
  rw [World.requestDraw, hrun]
  exact if_pos (.inl (hdrawn y hy))

/-- A block that is not cut short takes a node and an edge for each drawn edge. -/
theorem SmpRun.addChildren_counts {hop : Hop} (h : (r.addChildren plan hop).truncated = false) : let z := r.addChildren plan hop
    z.nodes.length = r.nodes.length + r.drawn.length ∧ z.edges.length = r.edges.length + r.drawn.length
      ∧ (r.nodes.length ≤ plan.nodeCap → z.nodes.length ≤ plan.nodeCap) ∧ (r.edges.length ≤ plan.edgeCap → z.edges.length ≤ plan.edgeCap) := by
  obtain ⟨-, hcut⟩ := (Bool.or_eq_false_iff).mp h
  have hroom : r.drawn.length ≤ min (plan.nodeCap - r.nodes.length) (plan.edgeCap - r.edges.length) := Nat.not_lt.mp (of_decide_eq_false hcut)
  unfold SmpRun.addChildren
  dsimp only
  rw [List.take_of_length_le hroom, List.length_append, List.length_append, List.length_map, List.length_map, List.length_zipIdx]
  omega

/-- A hop that is no layer joins its children to the block. -/
theorem SmpRun.joinHop_children (h : (plan.hop.getD (r.hop - 1) {}).mode ≠ 4) (jobSeed seed0 : Nat) : (r.joinHop plan jobSeed seed0).1
    = { { r with hopNodes := r.hopNodes ++ [r.nodes.length], hopEdges := r.hopEdges ++ [r.edges.length] }.addChildren plan (plan.hop.getD (r.hop - 1) {}) with
        hop := r.hop + 1, draws := [], remote := [], issuedHop := false } := by
  unfold SmpRun.joinHop
  dsimp only
  rw [if_neg h]

theorem World.run_updRun (hrun : (w.cluster k).smp.run = some r) (f : SmpRun → SmpRun) : ((w.updRun k f).cluster k).smp.run = some (f r) := by
  rw [World.updRun, World.smp_updSmp, hrun]
  rfl

theorem World.settleHop_of_unissued (hrun : (w.cluster k).smp.run = some r) (h : r.issuedHop = false) (seed0 : Nat) : w.settleHop k p plan seed0 = w := by
  unfold World.settleHop
  rw [hrun]
  exact if_neg fun hi => by rw [h] at hi; exact Bool.noConfusion hi.1

theorem World.settleHop_of_drawn (hrun : (w.cluster k).smp.run = some r) (hi : r.issuedHop = true) (hw : r.waits = false) (seed0 : Nat) :
    w.settleHop k p plan seed0 = w.assembleHop k p plan seed0 r := by
  unfold World.settleHop
  rw [hrun]
  exact if_pos ⟨hi, hw⟩

theorem World.assembleHop_run (hrun : (w.cluster k).smp.run = some r) (seed0 : Nat) : let v := w.assembleHop k p plan seed0 r
    w.memoriesKept v ∧ (v.cluster k).smp.run = some (r.joinHop plan (w.part p).jobSeed.toNat seed0).1 := by
  have h : ∀ n, (((w.count (Block.smp.addr k 0x090) n).updRun k fun _ => (r.joinHop plan (w.part p).jobSeed.toNat seed0).1).cluster k).smp.run
      = some (r.joinHop plan (w.part p).jobSeed.toNat seed0).1 := fun n => World.run_updRun (w := w.count _ n) hrun _
  unfold World.assembleHop
  dsimp only
  split
  · exact ⟨⟨rfl, rfl, rfl, rfl⟩, h _⟩
  · exact ⟨⟨rfl, rfl, rfl, rfl⟩, h _⟩

/-- What a sampler draws here, joined to its block. -/
theorem exec_smpHopDraw_of_hop {s : State} {cluster : ClusterId} (hs : s.inService = true) (hp : s.w.partOfCluster cluster.val = p)
    (hl : s.w.clusterLive cluster.val = true) (hthr : s.w.throttled (clusterSource 5 cluster.val) = false)
    (hrun : (s.w.cluster cluster.val).smp.run = some r) (hplan : s.w.plan p r.plan = some plan) (hi : r.issuedHop = false) (ht : r.truncated = false)
    (hlast : r.hop < smpLast r.desc) (hmode : (plan.hop.getD (r.hop - 1) {}).mode ≠ 4)
    (hdraw : s.w.drawLocal cluster.val p plan { r with issuedHop := true } r.parents = .ok (r1, v)) (hw : r1.waits = false)
    (hcut : (r1.addChildren plan (plan.hop.getD (r.hop - 1) {})).truncated = false) :
    ∃ z seed0, exec (.smpHopDraw cluster) s = .next { s with w := z } ∧ s.w.memoriesKept z
      ∧ (z.cluster cluster.val).smp.run = some (r1.joinHop plan (s.w.part p).jobSeed.toNat seed0).1 := by
  obtain ⟨⟨c, rfl⟩, d, rfl⟩ := World.drawLocal_draws _ _ _ _ _ hdraw
  let r1 : SmpRun := { r with issuedHop := true, draws := d }
  let seed0 := ((s.w.seedsOf cluster.val p r).headD {}).node
  let u := ({ s.w with counters := c }).updRun cluster.val fun _ => r1
  have hu : (u.cluster cluster.val).smp.run = some r1 := World.run_updRun (w := { s.w with counters := c }) hrun _
  obtain ⟨hmem, hz⟩ := World.assembleHop_run (p := p) (plan := plan) hu seed0
  have hjoin := SmpRun.joinHop_children (r := r1) hmode (u.part p).jobSeed.toNat seed0
  refine ⟨u.assembleHop cluster.val p plan seed0 r1, seed0, ?_, hmem, hz⟩
  obtain ⟨g, hg⟩ : ∃ g, g = @World.drawLocal := ⟨_, rfl⟩
  rw [← hg] at hdraw
  refine next_of_serve hs ?_
  rw [← hg]
  dsimp only
  rw [hp, hrun]
  dsimp only
  rw [hplan]
  dsimp only
  rw [if_neg (by rw [hl, hthr]; simp), if_neg (by rw [hi]; simp), World.settleHop_of_unissued hrun hi, hrun]
  dsimp only
  rw [if_neg (by rw [ht]; simp; omega), hdraw]
  dsimp only
  rw [World.requestDraws_of_drawn hu hw, World.settleHop_of_drawn hu rfl hw, hz]
  dsimp only
  rw [hjoin]
  refine if_neg ?_
  rintro ⟨-, h | h⟩
  · change smpLast r.desc < r.hop + 1 at h
    omega
  · exact Bool.noConfusion (hcut.symm.trans h)

end Hops
end Sys2Proof.Machine

namespace Sys2Proof.Machine

/-! ### The end of a sampler's operation, where the queue may have held a core (R53, R208) -/

/-- `v` is `w` with operations that an ISSUE held handed over: what every core has ended, and every sampler's block, stands. -/
structure World.HandedOver (w v : World) : Prop where
  memories : w.memoriesKept v
  ended : ∀ c, (v.core c).doneOps = (w.core c).doneOps
  block : ∀ k, (v.cluster k).smp.run = (w.cluster k).smp.run
  counter : ∀ a, ¬ notedCounter a → (∀ c, a ≠ Block.seq.addr c 0x068) → AMap.get 0 v.counters a = AMap.get 0 w.counters a

section HandedOver
variable {w v u : World} {t : Sid}

theorem World.HandedOver.refl : w.HandedOver w := ⟨w.memoriesKept_refl, fun _ => rfl, fun _ => rfl, fun _ _ _ => rfl⟩

theorem World.HandedOver.trans (h : w.HandedOver v) (g : v.HandedOver u) : w.HandedOver u :=
  ⟨h.memories.trans g.memories, fun c => (g.ended c).trans (h.ended c), fun k => (g.block k).trans (h.block k),
    fun a ha hs => (g.counter a ha hs).trans (h.counter a ha hs)⟩

theorem World.HandedOver.of_noted (h : w.Noted v) : w.HandedOver v :=
  ⟨h.noted.memories, fun c => congrArg Core.doneOps (h.noted.core c), fun k => congrArg (fun x : Cluster => x.smp.run) (World.cluster_of_clusters h.noted.clusters k),
    fun a ha _ => h.counter a ha⟩

theorem World.updCore_handedOver (w : World) (c : Nat) {f : Core → Core} (h : ∀ x, (f x).doneOps = x.doneOps) : w.HandedOver (w.updCore c f) := by
  refine ⟨⟨rfl, rfl, rfl, rfl⟩, fun d => ?_, fun _ => rfl, fun _ _ _ => rfl⟩
  rw [World.core_updCore]
  split
  next hd => rw [h, hd]
  next => rfl

theorem World.updCluster_handedOver (w : World) (j : Nat) {f : Cluster → Cluster} (h : ∀ x, (f x).smp.run = x.smp.run) : w.HandedOver (w.updCluster j f) := by
  refine ⟨⟨rfl, rfl, rfl, rfl⟩, fun _ => rfl, fun k => ?_, fun _ _ _ => rfl⟩
  by_cases hk : k = j
  · rw [hk, World.cluster_updCluster_self, h]
  · simp only [World.cluster, World.updCluster, AMap.get_upd_ne _ _ _ hk]

theorem World.retire_handedOver (w : World) (t : Sid) (c : Nat) : w.HandedOver (w.retire t c) :=
  (w.updCore_handedOver c (f := Core.advance) fun _ => rfl).trans
    ⟨⟨rfl, rfl, rfl, rfl⟩, fun _ => rfl, fun _ => rfl, fun _ _ hs => World.counter_count_ne _ 1 (hs c)⟩

theorem World.enqueueOp_handedOver (w : World) (c : Nat) (e : Engine) (o : IssuedOp) : w.HandedOver (w.enqueueOp c e o) := by
  have hlive := w.updCore_handedOver c (f := fun x => { x with live := x.live ++ [o.serial] }) fun _ => rfl
  cases e with
  | axe => exact hlive.trans (World.updCore_handedOver _ c fun _ => rfl)
  | mxe => exact hlive.trans (World.updCore_handedOver _ c fun _ => rfl)
  | vxe => exact hlive.trans (World.updCore_handedOver _ c fun _ => rfl)
  | gsu => exact hlive.trans (World.updCluster_handedOver _ _ fun _ => rfl)
  | suq => exact hlive.trans (World.updCluster_handedOver _ _ fun _ => rfl)
  | smp => exact hlive.trans (World.updCluster_handedOver _ _ fun _ => rfl)

theorem World.retryIssue_handedOver (w : World) (t : Sid) (c : Nat) : w.HandedOver (World.retryIssue t w c) := by
  unfold World.retryIssue
  split
  next e o _ =>
    split
    · exact ((w.enqueueOp_handedOver c e o).trans (.of_noted (World.holdRecord_Noted _ _ _ _ _))).trans (World.retire_handedOver _ t c)
    · exact .refl
  next => exact .refl

theorem World.retryIssues_handedOver (w : World) (t : Sid) (c : Nat) : w.HandedOver (w.retryIssues t c) :=
  List.foldlRecOn (clusterCores c) (World.retryIssue t) (motive := w.HandedOver) .refl fun v hv d _ => hv.trans (v.retryIssue_handedOver t d)

/-- What the end of an operation leaves: it stands in its core's list of ended operations. -/
theorem World.finishOp_hands (w : World) (t : Sid) (src : Nat) (e : Engine) (o : IssuedOp) : let v := w.finishOp t src e o
    w.memoriesKept v ∧ w.opEnded v o.core e o ∧ (∀ k, (v.cluster k).smp.run = (w.cluster k).smp.run)
      ∧ ∀ a, ¬ notedCounter a → (∀ c, a ≠ Block.seq.addr c 0x068) → AMap.get 0 v.counters a = AMap.get 0 w.counters a := by
  have hrec := w.opRecord_Noted t src e o 1
  unfold World.finishOp
  generalize w.opRecord t src e o 1 = u at *
  obtain ⟨h1, h2, h3, h4⟩ := World.retryIssues_handedOver (u.updCore o.core fun x => { x with doneOps := x.doneOps ++ [(e, o)] }) t o.core
  have hmem : w.memoriesKept (u.updCore o.core fun x => { x with doneOps := x.doneOps ++ [(e, o)] }) := hrec.noted.memories
  refine ⟨hmem.trans h1, ?_, fun k => (h3 k).trans (congrArg (fun x : Cluster => x.smp.run) (World.cluster_of_clusters hrec.noted.clusters k)),
    fun a ha hs => (h4 a ha hs).trans (hrec.counter a ha)⟩
  rw [World.opEnded, h2, World.core_updCore, if_pos rfl, hrec.noted.core]

end HandedOver

section Finish
variable {w : World} {t : Sid} {k p : Nat} {plan : Plan} {r : SmpRun} {o : IssuedOp} {seeds : List BNode}

/-- The block's memory written and its end counted. -/
def World.blockDone (w : World) (k n : Nat) (m : Memory) (r : SmpRun) : World :=
  let v := ({ w with counters := (w.count (Block.smp.addr k 0x090) n).counters, cstore := m }.tick .smp k 0x080).count (Block.smp.addr k 0x088) r.edges.length
  (if r.truncated then v.tick .smp k 0x0B0 else v).updSmp k fun x => { x with run := none }

theorem World.blockDone_keeps (w : World) (k n : Nat) (m : Memory) (r : SmpRun) : let v := w.blockDone k n m r
    w.onlyStore v ∧ v.cstore = m ∧ v.cores = w.cores ∧ (v.cluster k).smp.run = none
      ∧ AMap.get 0 v.counters (Block.smp.addr k 0x080) = AMap.get 0 w.counters (Block.smp.addr k 0x080) + 1 := by
  have hcount : ∀ v : World, AMap.get 0 ((v.tick .smp k 0x080).count (Block.smp.addr k 0x088) r.edges.length).counters (Block.smp.addr k 0x080)
      = AMap.get 0 v.counters (Block.smp.addr k 0x080) + 1 := fun v => by
    rw [World.counter_count_ne _ _ fun h => Block.addr_ne (by decide) (by decide) (by decide) h]
    exact v.counter_tick_self .smp k 0x080
  have hfirst : AMap.get 0 (w.count (Block.smp.addr k 0x090) n).counters (Block.smp.addr k 0x080) = AMap.get 0 w.counters (Block.smp.addr k 0x080) :=
    World.counter_count_ne _ _ fun h => Block.addr_ne (by decide) (by decide) (by decide) h
  have hsum := (hcount { w with counters := (w.count (Block.smp.addr k 0x090) n).counters, cstore := m }).trans (congrArg (· + 1) hfirst)
  have hidle : ∀ v : World, ((v.updSmp k fun x => { x with run := none }).cluster k).smp.run = none := fun v => by rw [World.smp_updSmp]
  unfold World.blockDone
  extract_lets v z
  change AMap.get 0 v.counters _ = _ at hsum
  have hv : w.onlyStore v ∧ v.cstore = m ∧ v.cores = w.cores := ⟨⟨rfl, rfl, rfl⟩, rfl, rfl⟩
  clear_value v
  obtain ⟨h1, h2, h3⟩ := hv
  simp only [z]
  split
  · refine ⟨h1, h2, h3, hidle _, (World.counter_count_ne _ _ fun h => ?_).trans hsum⟩
    exact Block.addr_ne (by decide) (by decide) (by decide) h
  · exact ⟨h1, h2, h3, hidle _, hsum⟩

/-- What a block writes, but for what is empty. -/
def World.blockOuts (w : World) (k p : Nat) (plan : Plan) (seeds : List BNode) (r : SmpRun) : List (Nat × List Byte) :=
  ({ r with dropped := w.droppedOf k p plan seeds r }.outputs plan (w.part p).jobSeed.toNat seeds).filter fun o => decide (o.2 ≠ [])

/-- The end of a block of a core's operation, all of which lies in the cluster store. -/
theorem World.finishBlock_eq (ho : r.op = some o) (hi : r.item = none) (hg : w.noGuards) (hstore : storeOuts (w.blockOuts k p plan seeds r)) :
    w.finishBlock t k p plan seeds r = (w.blockDone k (2 * seeds.length * plan.negCount) (storeAfter w.cstore k (w.blockOuts k p plan seeds r)) r).finishOp t
      (clusterSource 5 k) .smp o := by
  have hput : (w.count (Block.smp.addr k 0x090) (2 * seeds.length * plan.negCount)).putAll t (clusterSource 5 k) p k (w.blockOuts k p plan seeds r)
      = .ok { w with counters := (w.count (Block.smp.addr k 0x090) (2 * seeds.length * plan.negCount)).counters,
                     cstore := storeAfter w.cstore k (w.blockOuts k p plan seeds r) } :=
    World.putAll_of_store (w := w.count (Block.smp.addr k 0x090) (2 * seeds.length * plan.negCount)) _ _ _ hstore hg
  obtain ⟨g, hgd⟩ : ∃ g, g = @World.putAll := ⟨_, rfl⟩
  obtain ⟨dropped, hd⟩ : ∃ g, g = @World.droppedOf := ⟨_, rfl⟩
  unfold World.blockOuts at hput ⊢
  rw [← hgd, ← hd] at hput
  unfold World.finishBlock World.blockDone
  rw [← hgd, ← hd]
  dsimp only
  have hpart : (w.count (Block.smp.addr k 0x090) (2 * seeds.length * plan.negCount)).part p = w.part p := rfl
  rw [hpart, hput]
  dsimp only
  rw [ho, hi, Option.elim_none, Option.elim_some]

/-- SMP_HOP_DRAW after the last hop, of a block that a core's operation asked for. -/
theorem exec_smpHopDraw_of_end {s : State} {cluster : ClusterId} (hs : s.inService = true) (hp : s.w.partOfCluster cluster.val = p)
    (hl : s.w.clusterLive cluster.val = true) (hthr : s.w.throttled (clusterSource 5 cluster.val) = false)
    (hrun : (s.w.cluster cluster.val).smp.run = some r) (hplan : s.w.plan p r.plan = some plan) (hi : r.issuedHop = false)
    (hend : smpLast r.desc < r.hop ∨ r.truncated = true) :
    exec (.smpHopDraw cluster) s = .next { s with w := s.w.finishBlock s.sid cluster.val p plan (s.w.seedsOf cluster.val p r) r } := by
  obtain ⟨g, hg⟩ : ∃ g, g = @World.drawLocal := ⟨_, rfl⟩
  refine next_of_serve hs ?_
  rw [← hg]
  dsimp only
  rw [hp, hrun]
  dsimp only
  rw [hplan]
  dsimp only
  rw [if_neg (by rw [hl, hthr]; simp), if_neg (by rw [hi]; simp), World.settleHop_of_unissued hrun hi, hrun]
  exact if_pos hend

end Finish

/-- Settles O33: Floyd's choice adds a place that is not chosen yet below each bound; the start of a block, the draws of a hop and the end of a block each
have their lemma. -/
theorem samplerDrawsAndBuildsBlocks : Obligations.SamplerDrawsAndBuildsBlocks := by
  unfold Obligations.SamplerDrawsAndBuildsBlocks
  refine ⟨⟨fun word d k hw hk => floyd_places hw hk, fun seed plan node step lo hi j h => negativeOf_bounds seed plan node step j h⟩, ?_⟩
  intro s cluster plan hs
  dsimp only
  intro hl hthr
  refine ⟨fun i d r w1 hrun hf hpend hitem hplan hgood hstart => ?_, fun r r1 w1 hrun hplan hi ht hlast hmode hdraw hw hcut => ?_,
    fun r o hrun hplan hi hend ho hitem hg hstore => ?_⟩
  · obtain ⟨hstarts, hseeded⟩ := World.blockStart_starts (s.w.itemTaken cluster.val) cluster.val (s.w.partOfCluster cluster.val) d plan
      (.ofItem d i plan (s.w.stepOf (s.w.partOfCluster cluster.val)))
    obtain ⟨hcounts, hhop, hri, hdesc, hop⟩ := hstarts r w1 hstart
    have hbegin := World.beginBlock_of_start (w := s.w.itemTaken cluster.val) (t := s.sid) (k := cluster.val) rfl hplan hgood hstart
    refine ⟨_, (exec_samplerBlock_of_item hs hl hthr hrun hf hpend hitem).trans (by rw [hbegin]), s.restKept_world _, ?_⟩
    obtain ⟨c, rfl⟩ := hcounts
    refine ⟨⟨rfl, rfl, rfl, rfl⟩, by rw [World.smp_updSmp], ?_, hhop, hri, fun hfirst => ?_⟩
    · rw [World.smp_updSmp]
      change (((s.w.itemTaken cluster.val).cluster cluster.val).smp).item = none
      rw [World.itemTaken, World.smp_updSmp]
    · obtain ⟨hedges, y, hread⟩ := hseeded hfirst r _ hstart
      obtain ⟨y', hread'⟩ := World.readSeeds_of_last (v := s.w.itemTaken cluster.val) (w := s.w) rfl rfl rfl rfl (Nat.le_refl _) hread
      refine ⟨?_, hedges⟩
      rw [World.seedsOf, hdesc, hop]
      unfold SmpRun.ofItem at hread' ⊢
      rw [hread']
  · obtain ⟨z, seed0, hexec, hmem, hz⟩ := exec_smpHopDraw_of_hop hs rfl hl hthr hrun hplan hi ht hlast hmode hdraw hw hcut
    obtain ⟨hhop, hnodes, hedges, hnums⟩ : r1.hop = r.hop ∧ r1.nodes = r.nodes ∧ r1.edges = r.edges ∧ r1.hopNodes = r.hopNodes := by
      obtain ⟨-, d, hd⟩ := World.drawLocal_draws _ _ _ _ _ hdraw
      rw [hd]
      exact ⟨rfl, rfl, rfl, rfl⟩
    rw [← hhop] at hmode hcut
    rw [SmpRun.joinHop_children hmode] at hz
    obtain ⟨h1, h2, h3, h4⟩ := SmpRun.addChildren_counts (r := { r1 with hopNodes := r1.hopNodes ++ [r1.nodes.length], hopEdges := r1.hopEdges ++ [r1.edges.length] })
      hcut
    refine ⟨_, _, hexec, s.restKept_world _, hmem, hz, congrArg (· + 1) hhop, ?_⟩
    rw [← hnodes, ← hedges, ← hnums]
    exact ⟨⟨h1, h2⟩, h3, h4, rfl⟩
  · have hexec := exec_smpHopDraw_of_end hs rfl hl hthr hrun hplan hi hend
    rw [World.finishBlock_eq ho hitem hg hstore] at hexec
    generalize s.w.seedsOf cluster.val (s.w.partOfCluster cluster.val) r = seeds at hexec ⊢
    have hdone := s.w.blockDone_keeps cluster.val (2 * seeds.length * plan.negCount)
      (storeAfter s.w.cstore cluster.val (s.w.blockOuts cluster.val (s.w.partOfCluster cluster.val) plan seeds r)) r
    generalize s.w.blockDone cluster.val _ _ r = v at hexec hdone
    obtain ⟨⟨m1, m2, m3, m4⟩, hended, hblock, hcounter⟩ := v.finishOp_hands s.sid (clusterSource 5 cluster.val) .smp o
    generalize v.finishOp s.sid (clusterSource 5 cluster.val) .smp o = z at hexec m1 m2 m3 m4 hended hblock hcounter
    obtain ⟨⟨k1, k2, k3⟩, kstore, kcores, krun, kcount⟩ := hdone
    refine ⟨_, hexec, s.restKept_world _, ⟨m1.trans k1, m2.trans k2, m4.trans k3⟩, m3.trans kstore, (hblock _).trans krun, ?_, ?_⟩
    · rw [World.opEnded, hended, World.core_of_cores kcores]
    · refine (hcounter _ (not_notedCounter (by decide) (by decide) (by decide) (by decide)) fun c h => ?_).trans kcount
      exact Block.addr_ne (by decide) (by decide) (by decide) h

end Sys2Proof.Machine

namespace Sys2Proof.Machine

/-! ### Circuits (R408) -/

/-- The key of a link in the table of reserved slots. -/
def linkKey (l : Nat × Nat) : Nat := 48 * l.1 + l.2

/-- Slots that a path's circuit reserves join those of its links, and of no other key. -/
theorem reserved_get (s k : Nat) : ∀ (path : List (Nat × Nat)) (m : AMap (List Nat)),
    AMap.get [] (path.foldl (fun m l => AMap.set [] m (linkKey l) (AMap.get [] m (linkKey l) ++ [s])) m) k
      = AMap.get [] m k ++ List.replicate (path.countP fun l => decide (linkKey l = k)) s
  | [], m => (List.append_nil _).symm
  | l :: path, m => by
    rw [List.foldl_cons, reserved_get s k path, List.countP_cons]
    by_cases h : linkKey l = k
    · rw [if_pos (decide_eq_true h), h, AMap.get_set_self, List.replicate_succ, List.append_assoc]
      rfl
    · rw [if_neg (by rw [decide_eq_false h]; exact Bool.noConfusion), AMap.get_set_ne_any _ _ _ _ (Ne.symm h), Nat.add_zero]

/-- The slots that circuits reserve on a link. -/
def slotsOn (cs : List Circuit) (link : Nat × Nat) : List Nat := (cs.filter fun c => c.path.contains link).flatMap (·.slots)

/-- Every link's slots differ, are at most 12 of the 16, and are noted as reserved. -/
def SlotsKept (x : List Circuit × AMap (List Nat)) : Prop :=
  ∀ link, (slotsOn x.1 link).Nodup ∧ (slotsOn x.1 link).length ≤ linkSlots ∧ (slotsOn x.1 link).length ≤ (AMap.get [] x.2 (linkKey link)).length
    ∧ ∀ s ∈ slotsOn x.1 link, s < 16 ∧ s ∈ AMap.get [] x.2 (linkKey link)

theorem slotsKept_empty : SlotsKept ([], []) := fun _ => ⟨.nil, Nat.zero_le _, Nat.zero_le _, fun _ h => absurd h List.not_mem_nil⟩

/-- The slot that a path's circuit gets, where it gets one. -/
def circuitSlot (path : List (Nat × Nat)) (m : AMap (List Nat)) : Option Nat :=
  if path.isEmpty ∨ (path.map fun l => AMap.get [] m (linkKey l)).any (fun u => decide (linkSlots ≤ u.length)) then none
  else (List.range 16).find? fun s => (path.map fun l => AMap.get [] m (linkKey l)).all fun u => !u.contains s

/-- A slot given is below 16, and free on every link of the path, none of which has 12 reserved. -/
theorem circuitSlot_free {path : List (Nat × Nat)} {m : AMap (List Nat)} {s : Nat} (h : circuitSlot path m = some s) :
    s < 16 ∧ ∀ l ∈ path, s ∉ AMap.get [] m (linkKey l) ∧ (AMap.get [] m (linkKey l)).length < linkSlots := by
  unfold circuitSlot at h
  split at h
  next => cases h
  next hroom =>
    have hfree := List.find?_some h
    refine ⟨List.mem_range.mp (List.mem_of_find?_eq_some h), fun l hl => ⟨fun hs => ?_, Nat.not_le.mp fun hfull => hroom (.inr ?_)⟩⟩
    · have := List.all_eq_true.mp hfree _ (List.mem_map_of_mem hl)
      rw [List.contains_iff_mem.mpr hs] at this
      exact Bool.noConfusion this
    · exact List.any_eq_true.mpr ⟨_, List.mem_map_of_mem hl, decide_eq_true hfull⟩

theorem addCircuit_eq (path : List (Nat × Nat)) (x : List Circuit × AMap (List Nat)) (a b : Nat) : addCircuit path x a b
    = (circuitSlot path x.2).elim x fun s => (x.1 ++ [{ src := a, dst := b, path := path, slots := [s] }],
        path.foldl (fun m l => AMap.set [] m (linkKey l) (AMap.get [] m (linkKey l) ++ [s])) x.2) := by
  unfold addCircuit circuitSlot linkKey
  dsimp only
  split <;> (rename_i h; rw [h]; rfl)

theorem slotsOn_append (cs : List Circuit) (c : Circuit) (link : Nat × Nat) :
    slotsOn (cs ++ [c]) link = slotsOn cs link ++ if c.path.contains link then c.slots else [] := by
  rw [slotsOn, List.filter_append, List.flatMap_append, slotsOn]
  refine congrArg _ ?_
  by_cases h : c.path.contains link
  · rw [if_pos h, List.filter_singleton, h, cond_true, List.flatMap_singleton]
  · rw [if_neg h, List.filter_singleton, Bool.eq_false_iff.mpr h, cond_false, List.flatMap_nil]

theorem addCircuit_keeps {x : List Circuit × AMap (List Nat)} (path : List (Nat × Nat)) (a b : Nat) (h : SlotsKept x) : SlotsKept (addCircuit path x a b) := by
  rw [addCircuit_eq]
  cases hs : circuitSlot path x.2 with
  | none => exact h
  | some s =>
    obtain ⟨hlt, hfree⟩ := circuitSlot_free hs
    intro link
    obtain ⟨hnd, hmax, hlen, hmem⟩ := h link
    dsimp only [Option.elim]
    rw [slotsOn_append, reserved_get]
    by_cases hlink : path.contains link
    · have hin := List.contains_iff_mem.mp hlink
      obtain ⟨hnew, hroom⟩ := hfree link hin
      have hcount : 0 < path.countP fun l => decide (linkKey l = linkKey link) := List.countP_pos_iff.mpr ⟨link, hin, decide_eq_true rfl⟩
      rw [if_pos hlink]
      refine ⟨List.nodup_append.mpr ⟨hnd, List.nodup_singleton s, fun y hy z hz he => ?_⟩, ?_, ?_, fun y hy => ?_⟩
      · rw [List.mem_singleton.mp hz] at he
        exact hnew (he ▸ (hmem y hy).2)
      · rw [List.length_append, List.length_singleton]
        omega
      · rw [List.length_append, List.length_append, List.length_singleton, List.length_replicate]
        omega
      · obtain hy | hy := List.mem_append.mp hy
        · exact ⟨(hmem y hy).1, List.mem_append_left _ (hmem y hy).2⟩
        · cases List.mem_singleton.mp hy
          exact ⟨hlt, List.mem_append_right _ (List.mem_replicate.mpr ⟨Nat.ne_of_gt hcount, rfl⟩)⟩
    · rw [if_neg hlink, List.append_nil]
      exact ⟨hnd, hmax, hlen.trans (by rw [List.length_append]; exact Nat.le_add_right _ _), fun y hy => ⟨(hmem y hy).1, List.mem_append_left _ (hmem y hy).2⟩⟩

theorem World.circuitTable_slots (w : World) (link : Nat × Nat) :
    (slotsOn w.circuitTable link).length ≤ 12 ∧ (slotsOn w.circuitTable link).Nodup ∧ ∀ x ∈ slotsOn w.circuitTable link, x < 16 := by
  unfold World.circuitTable
  split
  · exact ⟨Nat.zero_le _, .nil, fun _ h => absurd h List.not_mem_nil⟩
  · have h : SlotsKept (w.circuitPairs.foldl (fun x p => addCircuit (w.circuitPath p.1 p.2) x p.1 p.2) ([], [])) :=
      List.foldlRecOn _ _ (motive := SlotsKept) slotsKept_empty fun x hx p _ => addCircuit_keeps _ _ _ hx
    obtain ⟨hnd, hmax, -, hmem⟩ := h link
    exact ⟨hmax, hnd, fun x hx => (hmem x hx).1⟩

end Sys2Proof.Machine

namespace Sys2Proof.Machine

/-! ### What a module does after a drain: it goes on (R417 to R419, R489, R493) -/

/-- `v` follows `w`: what left and the events queued are there still, injection and the time of the last drain stand, and the drains counted. -/
structure World.Onward (w v : World) : Prop where
  out : ∀ o ∈ w.out, o ∈ v.out
  events : ∀ r ∈ w.uzo.events, r ∈ v.uzo.events
  injecting : v.fab.drain.injecting = w.fab.drain.injecting
  lastUs : v.fab.drain.lastUs = w.fab.drain.lastUs
  counter : AMap.get 0 v.counters (Block.fab.addr 0 0x0C8) = AMap.get 0 w.counters (Block.fab.addr 0 0x0C8)

section Onward
variable {w v u : World} {t : Sid}

theorem World.Onward.refl : w.Onward w := ⟨fun _ h => h, fun _ h => h, rfl, rfl, rfl⟩

theorem World.Onward.trans (h : w.Onward v) (g : v.Onward u) : w.Onward u :=
  ⟨fun o ho => g.out o (h.out o ho), fun r hr => g.events r (h.events r hr), g.injecting.trans h.injecting, g.lastUs.trans h.lastUs,
    g.counter.trans h.counter⟩

theorem World.Onward.foldl {α : Type} {f : World → α → World} (h : ∀ (v : World) (x : α), v.Onward (f v x)) (xs : List α) (w : World) :
    w.Onward (xs.foldl f w) :=
  List.foldlRecOn xs f (motive := w.Onward) .refl fun v hv x _ => hv.trans (h v x)

theorem World.Onward.ite {c : Prop} [Decidable c] (h : w.Onward v) (g : w.Onward u) : w.Onward (if c then v else u) := by
  split
  · exact h
  · exact g

/-- What changes nothing of these. -/
theorem World.Onward.of_same (ho : v.out = w.out) (hu : v.uzo = w.uzo) (hd : v.fab.drain = w.fab.drain) (hc : v.counters = w.counters) : w.Onward v :=
  ⟨fun _ h => ho ▸ h, fun _ h => hu ▸ h, by rw [hd], by rw [hd], by rw [hc]⟩

theorem World.emit_onward (w : World) (o : Output) : w.Onward (w.emit o) := ⟨fun _ h => List.mem_append_left _ h, fun _ h => h, rfl, rfl, rfl⟩

theorem World.count_onward (w : World) {b : Block} {i off : Nat} (n : Nat) (h : off < 0x1000) (hne : 0x0C8 ≠ off) : w.Onward (w.count (b.addr i off) n) :=
  ⟨fun _ h => h, fun _ h => h, rfl, rfl, World.counter_count_ne _ n fun e => Block.addr_ne (by decide) h hne e⟩

theorem World.Mailed.onward (h : w.Mailed v) (hu : v.uzo = w.uzo) : w.Onward v := by
  have hd : v.fab.drain = w.fab.drain := by
    obtain ⟨_, _, _, _, _, hf⟩ := h.fab
    rw [hf]
  exact ⟨fun _ ho => h.mem_out ho, fun _ hr => hu ▸ hr, by rw [hd], by rw [hd], h.counter _ (not_mailCounter (by decide) (by decide))⟩

theorem World.Halted.onward (h : w.Halted v) : w.Onward v := by
  obtain ⟨o, ho⟩ := h.out
  exact ⟨fun _ hx => ho ▸ List.mem_append_left _ hx, fun _ hr => h.uzo ▸ hr, by rw [h.fab], by rw [h.fab], h.counter _ (not_haltCounter (by decide) (by decide))⟩

theorem World.sendPacket_onward (w : World) (t : Sid) (kind dst source tag a : Nat) (ordered stepped : Bool) (payload : List Byte) :
    w.Onward (w.sendPacket t kind dst source tag a ordered stepped payload) :=
  (w.sendPacket_mailed t _ _ _ _ _ _ _ _).onward (w.sendPacket_uzo t _ _ _ _ _ _ _ _)

theorem World.queueEvent_events (w : World) (sev : Nat) (r : List Byte) : ∀ x ∈ w.uzo.events, x ∈ (w.queueEvent sev r).uzo.events := by
  unfold World.queueEvent
  extract_lets ctrl
  split
  · split
    · exact fun x hx => List.mem_append_left _ hx
    · exact fun x hx => hx
  · exact fun x hx => hx

theorem World.raiseAs_onward (w : World) (t : Sid) (src code sev payload extra : Nat) : w.Onward (w.raiseAs t src code sev payload extra) := by
  obtain ⟨hnoted, hcount⟩ := w.raiseAs_Noted t src code sev payload extra
  refine ⟨fun _ h => hnoted.out ▸ h, ?_, by rw [hnoted.fab], by rw [hnoted.fab],
    hcount _ (not_notedCounter (by decide) (by decide) (by decide) (by decide))⟩
  have hq := (w.stamp t src).2.2.queueEvent_events sev ((w.stamp t src).2.2.eventRecord (w.stamp t src).1 (w.stamp t src).2.1 src code sev payload extra)
  rw [World.stamp_uzo] at hq
  simp only [World.raiseAs, World.freezeShared_uzo, World.traceTo_uzo, World.tailWrite_uzo]
  split
  · exact hq
  · split
    · exact hq
    · exact hq

theorem World.raise_onward (w : World) (t : Sid) (src code payload : Nat) : w.Onward (w.raise t src code payload) := w.raiseAs_onward t _ _ _ _ _

end Onward

/-! #### Datagrams and restores -/

section Restores
variable (w : World) (t : Sid)

theorem World.sendDatagram_onward (e : EthEntry) (b : List Byte) : w.Onward (w.sendDatagram e b) :=
  .ite ((w.count_onward 1 (by decide) (by decide)).trans (World.emit_onward _ _)) .refl

theorem World.toStore_onward (b : List Byte) : w.Onward (w.toStore b) := by
  unfold World.toStore
  cases w.store with
  | none => exact .refl
  | some e => exact w.sendDatagram_onward e b

theorem World.askStore_onward : w.Onward w.askStore := by
  unfold World.askStore
  split
  · exact .refl
  next f _ =>
    split
    · cases f.nextAsk with
      | none => exact .refl
      | some x => exact w.toStore_onward _
    · exact .refl

theorem World.askPeers_onward (n : Nat) : w.Onward (w.askPeers t n) :=
  .foldl (fun v _ => v.sendPacket_onward t _ _ _ _ _ _ _ _) _ w

theorem World.emptyUnits_onward (p : Nat) : w.Onward (w.emptyUnits p) := by
  unfold World.emptyUnits
  exact (World.Onward.foldl (f := fun (w : World) c => w.updCore c Core.emptied) (fun _ _ => .of_same rfl rfl rfl rfl) _ w).trans
    (.foldl (f := fun (w : World) k => w.updCluster k Cluster.emptied) (fun _ _ => .of_same rfl rfl rfl rfl) _ _)

theorem World.zeroLocal_onward (p : Nat) (x : Bundle) : w.Onward (w.zeroLocal p x) := by
  unfold World.zeroLocal
  exact (World.Onward.foldl (f := fun (w : World) c => { w with tun := w.tun.zero (c * tunBytes) ((c + 1) * tunBytes - x.regionBytes c) })
      (fun _ _ => .of_same rfl rfl rfl rfl) _ w).trans
    (.foldl (f := fun (w : World) k => { w with cstore := w.cstore.zero (k * storeBytes) ((k + 1) * storeBytes) }) (fun _ _ => .of_same rfl rfl rfl rfl) _ _)

theorem World.discardRecords_onward (p : Nat) : w.Onward (w.discardRecords p) :=
  .foldl (f := fun (w : World) d => (w.count (Block.disp.addr d 0x0B0) (w.die d).collect.length).updDie d fun x => { x with collect := [] })
    (fun v d => (v.count_onward _ (by decide) (by decide)).trans (.of_same rfl rfl rfl rfl)) _ w

theorem World.updBar_onward (key : Nat) (f : Bar → Bar) : w.Onward (w.updBar key f) := .ite (.of_same rfl rfl rfl rfl) (.of_same rfl rfl rfl rfl)

theorem World.resetRun_onward (p : Nat) : w.Onward (w.resetRun p) := by
  unfold World.resetRun
  extract_lets v1 v2 f0 v3 v4 v5 v6
  have h1 : w.Onward v1 := w.discardRecords_onward p
  have h2 : v1.Onward v2 := .foldl (f := fun (v : World) d => v.updDie d fun x => { x with ready := [] }) (fun _ _ => .of_same rfl rfl rfl rfl) _ v1
  have h3 : v2.Onward v3 := .ite (.of_same rfl rfl rfl rfl) .refl
  have h4 : v3.Onward v4 := .foldl (f := fun (v : World) k => v.updCluster k Cluster.dropItem) (fun _ _ => .of_same rfl rfl rfl rfl) _ v3
  have h5 : v4.Onward v5 := .of_same rfl rfl rfl rfl
  have h6 : v5.Onward v6 := .foldl (f := fun (v : World) c => v.updCore c Core.forget) (fun _ _ => .of_same rfl rfl rfl rfl) _ v5
  exact (((((h1.trans h2).trans h3).trans h4).trans h5).trans h6).trans (.foldl (fun v k => v.updBar_onward k _) _ v6)

theorem World.beginRestore_onward (fromStore : Bool) (n : Nat) : w.Onward (w.beginRestore t fromStore n) := by
  have h0 : w.Onward (w.stopRun 0 false) := (w.stopRun_halted 0 false).onward
  unfold World.beginRestore
  extract_lets v1 v2 v3 store v4 fab v5
  have h1 : (w.stopRun 0 false).Onward v1 :=
    ((World.emptyUnits_onward _ 0).trans (World.zeroLocal_onward _ 0 _)).trans (World.resetRun_onward _ 0)
  clear_value v1
  have h2 : v1.Onward v2 := .foldl (f := fun (w : World) c => w.updCore c fun x => { (Core.halted false x) with axe := { x.axe with shapes := [] } })
    (fun _ _ => .of_same rfl rfl rfl rfl) _ v1
  clear_value v2
  have h3 : v2.Onward v3 := .of_same rfl rfl rfl rfl
  clear_value v3
  have h4 : v3.Onward v4 := .of_same rfl rfl rfl rfl
  clear_value v4
  have h5 : v4.Onward v5 := .of_same rfl rfl rfl rfl
  have h := ((((h0.trans h1).trans h2).trans h3).trans h4).trans h5
  clear_value v5
  exact h.trans (.ite v5.askStore_onward (v5.askPeers_onward t n))

end Restores

/-! #### The twin and the combining tree -/

section Tree
variable (w : World) (t : Sid)

theorem World.toTwin_onward (b : List Byte) : w.Onward (w.toTwin b) := by
  unfold World.toTwin
  cases w.ethRole 3 with
  | none => exact .refl
  | some e => exact w.sendDatagram_onward e b

theorem World.updTwin_onward (f : Twin → Twin) : w.Onward (w.updTwin f) := .of_same rfl rfl rfl rfl

theorem World.twinStop_onward : w.Onward (w.twinStop t) :=
  .ite (w.stopJob_halted t 0 1 (ioSource 10)).onward (w.cancelDump_halted t 0).onward

theorem World.charge_onward (n : Nat) : w.Onward (w.charge t n) := by
  unfold World.charge
  extract_lets v1 v2
  have h1 : w.Onward v1 := w.updTwin_onward _
  refine .ite h1 (.trans (v := v2) ?_ (World.updTwin_onward _ _))
  exact ((h1.trans (v1.raise_onward t _ _ _)).trans (World.twinStop_onward _ t)).trans (World.toTwin_onward _ _)

theorem World.mismatch_onward (n flag : Nat) : w.Onward (w.mismatch t n flag) := (w.raise_onward t _ _ _).trans (World.count_onward _ 1 (by decide) (by decide))

theorem World.twinEnd_onward (n flag : Nat) : w.Onward (w.twinEnd t n flag) :=
  ((w.mismatch_onward t n flag).trans (World.twinStop_onward _ t)).trans (World.updTwin_onward _ _)

theorem World.rollBack_onward (n : Nat) : w.Onward (w.rollBack t n) := by
  unfold World.rollBack
  extract_lets common v1 v2 first
  have h1 : w.Onward v1 := (w.mismatch_onward t n 0).trans (World.toTwin_onward _ _)
  clear_value v1
  have h2 : w.Onward v2 := h1.trans (((v1.twinStop_onward t).trans (World.count_onward _ 1 (by decide) (by decide))).trans (.of_same rfl rfl rfl rfl))
  clear_value v2
  cases common with
  | none => exact (w.toTwin_onward _).trans (World.twinEnd_onward _ t _ _)
  | some c => exact (h2.trans (v2.updTwin_onward _)).trans (World.beginRestore_onward _ t false c)

theorem World.settleVerified_onward : w.Onward w.settleVerified := .ite .refl (w.updTwin_onward _)

theorem World.compareStep_onward (n : Nat) : w.Onward (w.compareStep t n) := by
  unfold World.compareStep
  extract_lets x own theirs original diverged v1 v2 v3
  have h1 : w.Onward v1 := .ite (w.charge_onward t n) .refl
  clear_value v1
  refine .ite .refl (.ite (.trans (v := v3) ?_ v3.settleVerified_onward) (.ite h1 (.ite (h1.trans (v1.twinEnd_onward t _ _)) (h1.trans (v1.rollBack_onward t n)))))
  have h2 : w.Onward v2 := (h1.trans (v1.updTwin_onward _)).trans (World.count_onward _ 1 (by decide) (by decide))
  exact .ite (h2.trans (v2.updTwin_onward _)) h2

theorem World.formDigest_onward (n : Nat) (table : List (Nat × List (BitVec 64))) : w.Onward (w.formDigest t n table) := by
  unfold World.formDigest
  extract_lets d v1 b answered v2
  have h1 : w.Onward v1 := w.updTwin_onward _
  exact .ite h1 (((h1.trans (v1.toTwin_onward b)).trans (World.updTwin_onward _ _)).trans (World.compareStep_onward _ t n))

theorem World.startDrain_onward (reason : Nat) : w.Onward (w.startDrain reason) :=
  .trans (v := w.updDrain fun d => { d with active := true, requested := false, reason := reason, status := 0, installed := false })
    ⟨fun _ h => h, fun _ h => h, rfl, rfl, rfl⟩ (World.emit_onward _ _)

theorem World.dropGen_onward (key : Nat) : w.Onward (w.dropGen key) := .of_same rfl rfl rfl rfl

theorem World.down_onward (m : TreeMsg) : w.Onward (w.down m) := w.emit_onward _

theorem World.settleStep_onward : w.Onward (w.settleStep t) := by
  unfold World.settleStep
  extract_lets m cask
  exact .ite .refl (.ite (w.startDrain_onward 1) ((w.dropGen_onward 0).trans (World.down_onward _ _)))

theorem World.settleDomBar_onward (b : Nat) : w.Onward (w.settleDomBar b) :=
  .ite .refl (((w.dropGen_onward b).trans (World.dropGen_onward _ _)).trans (World.down_onward _ _))

theorem World.settleDomain_onward (key : Nat) : w.Onward (w.settleDomain t key) := by
  unfold World.settleDomain
  extract_lets m
  have hdrop := w.dropGen_onward key
  refine .ite (w.settleStep_onward t) (.ite (w.settleDomBar_onward _) (.ite (w.settleDomBar_onward _) (.ite .refl (.ite ?_ (.ite ?_ (.ite ?_ .refl))))))
  · exact (hdrop.trans (World.raise_onward _ t _ _ _)).trans (World.down_onward _ _)
  · exact hdrop.trans (World.down_onward _ _)
  · exact hdrop.trans (World.formDigest_onward _ t _ _)

theorem World.joinGen_onward (m : TreeMsg) : w.Onward (w.joinGen t m) := by
  unfold World.joinGen
  extract_lets g g'
  exact .ite (.ite (.of_same rfl rfl rfl rfl) .refl) (.of_same rfl rfl rfl rfl)

theorem World.releaseTreeN_onward {take : World → TreeMsg → World} (h : ∀ (v : World) m, v.Onward (take v m)) : ∀ (n : Nat) (w : World),
    w.Onward (World.releaseTreeN take w n)
  | 0, _ => .refl
  | n + 1, w => by
    unfold World.releaseTreeN
    split
    · exact .refl
    next m _ =>
      refine .trans ?_ (World.releaseTreeN_onward h n _)
      exact .trans (v := { w with fab := { w.fab with treeHeld := w.fab.treeHeld.erase m } }) (.of_same rfl rfl rfl rfl) (h _ m)

theorem World.releaseTree_onward : w.Onward (w.releaseTree t) :=
  World.releaseTreeN_onward (fun v m => (v.joinGen_onward t m).trans (World.settleDomain_onward _ t _)) _ w

/-! #### Takeovers -/

theorem World.abortDomain_onward (n : Nat) : w.Onward (w.abortDomain n) :=
  .ite .refl (.trans (v := { w with fab := { w.fab with aborted := true, gens := w.fab.gens.filter fun g => decide (16 ≤ g.1 ∧ g.1 < 32) } })
    (.of_same rfl rfl rfl rfl) (World.emit_onward _ _))

theorem World.raiseTakeover_onward (pos group status : Nat) : w.Onward (w.raiseTakeover t pos group status) := w.raiseAs_onward t _ _ _ _ _

/-- A position's takeover begins a drain, unless one is under way. -/
theorem World.taking_onward (phys pos : Nat) : w.Onward (if w.fab.drain.active then
      { w with fab := { w.fab with staged := AMap.set unstaged w.fab.staged pos phys, taking := w.fab.taking ++ [pos] } }
    else { w with fab := { w.fab with staged := AMap.set unstaged w.fab.staged pos phys, taking := w.fab.taking ++ [pos] } }.startDrain 0) :=
  .ite (.of_same rfl rfl rfl rfl) (.trans (v := { w with
    fab := { w.fab with staged := AMap.set unstaged w.fab.staged pos phys, taking := w.fab.taking ++ [pos] } }) (.of_same rfl rfl rfl rfl)
      (World.startDrain_onward _ 0))

theorem World.takeover_onward (phys pos : Nat) : w.Onward (w.takeover t phys pos) := by
  have h1 := w.abortDomain_onward (w.part 0).step
  unfold World.takeover
  dsimp only
  generalize w.abortDomain (w.part 0).step = v at *
  have h2 : v.Onward { v with
    fab := { v.fab with uncovered := if v.fab.uncovered.contains (phys / 17) then v.fab.uncovered else v.fab.uncovered ++ [phys / 17] }
    cask := { v.cask with takeovers := (t.now :: v.cask.takeovers) } } := .of_same rfl rfl rfl rfl
  exact (h1.trans h2).trans (.ite (World.raiseTakeover_onward _ t _ _ _) (.ite (World.raiseTakeover_onward _ t _ _ _) (World.taking_onward _ _ _)))

end Tree

end Sys2Proof.Machine

namespace Sys2Proof.Machine

/-! ### Drain and change (R387, R418 to R420) -/

section Tables
variable {d : Nat}

theorem get_foldl_set_ne {k : Nat} : ∀ (xs : List (Nat × Nat)) (m : AMap Nat), k ∉ xs.map (·.1) →
    AMap.get d (xs.foldl (fun (m : AMap Nat) (e : Nat × Nat) => AMap.set d m e.1 e.2) m) k = AMap.get d m k
  | [], _, _ => rfl
  | e :: xs, m, h => by
    obtain ⟨hne, hrest⟩ := not_or.mp (List.mem_cons.not.mp h)
    rw [List.foldl_cons, get_foldl_set_ne xs _ hrest, AMap.get_set_ne d m e.2 hne]

/-- A table entered key by key reads as entered, where no key comes twice. -/
theorem get_foldl_set {e : Nat × Nat} : ∀ (xs : List (Nat × Nat)) (m : AMap Nat), (xs.map (·.1)).Nodup → e ∈ xs →
    AMap.get d (xs.foldl (fun (m : AMap Nat) (e : Nat × Nat) => AMap.set d m e.1 e.2) m) e.1 = e.2
  | [], _, _, h => absurd h List.not_mem_nil
  | f :: xs, m, hn, h => by
    obtain ⟨hf, hn⟩ := List.nodup_cons.mp hn
    rw [List.foldl_cons]
    obtain rfl | h := List.mem_cons.mp h
    · rw [get_foldl_set_ne xs _ hf, AMap.get_set_self]
    · exact get_foldl_set xs _ hn h

/-- Keys that are all set to one value read as that value. -/
theorem get_foldl_set_const {v p : Nat} : ∀ (xs : List Nat) (m : AMap Nat), p ∈ xs ∨ AMap.get d m p = v →
    AMap.get d (xs.foldl (fun (m : AMap Nat) (p : Nat) => AMap.set d m p v) m) p = v
  | [], _, h => h.elim (fun h => absurd h List.not_mem_nil) id
  | x :: xs, m, h => by
    rw [List.foldl_cons]
    refine get_foldl_set_const xs _ ?_
    by_cases hx : p = x
    · rw [hx]
      exact .inr (AMap.get_set_self _ _ _ _)
    · refine h.imp (fun hp => (List.mem_cons.mp hp).resolve_left hx) fun hm => ?_
      rw [AMap.get_set_ne d m v hx]
      exact hm

end Tables

section Requests
variable {s : State} (hs : s.inService = true)
include hs

theorem drainGo_requests : ∃ t, exec .drainGo s = .next t ∧ s.restKept t ∧ s.w.memoriesKept t.w ∧ t.w.out = s.w.out
    ∧ t.w.fab.drain = { s.w.fab.drain with requested := s.w.fab.drain.requested || s.w.domainHead } := by
  refine ⟨_, next_of_serve hs rfl, s.restKept_world _, ?_⟩
  dsimp only
  unfold World.requestDrain
  cases hd : s.w.domainHead with
  | true => exact ⟨⟨rfl, rfl, rfl, rfl⟩, rfl, by rw [Bool.or_true]; rfl⟩
  | false => exact ⟨⟨rfl, rfl, rfl, rfl⟩, rfl, by rw [Bool.or_false]; rfl⟩

theorem drainReq_stops (htrained : s.w.fab.trained = true) (staged : List (Nat × Nat)) (hn : (staged.map (·.1)).Nodup) :
    ∃ t, exec (.drainReq staged) s = .next t ∧ s.restKept t ∧ s.w.memoriesKept t.w ∧ t.w.out = s.w.out
      ∧ t.w.canSend = false ∧ t.w.fab.drain.active = true ∧ t.w.fab.circuits = [] ∧ ∀ e ∈ staged, AMap.get unstaged t.w.fab.staged e.1 = e.2 :=
  ⟨_, next_of_serve hs (if_neg (by rw [htrained]; exact Bool.noConfusion)), s.restKept_world _, ⟨rfl, rfl, rfl, rfl⟩, rfl, rfl, rfl, rfl,
    fun _ he => get_foldl_set staged [] hn he⟩

theorem install_installs (htrained : s.w.fab.trained = true) (table : List (Nat × Nat)) (hactive : s.w.fab.drain.active = true)
    (hn : (table.map (·.1)).Nodup) :
    ∃ t, exec (.install table) s = .next t ∧ t.pending = s.pending ∧ s.w.memoriesKept t.w ∧ t.w.out = s.w.out ++ [.drain 3 [s.w.fab.physical]]
      ∧ t.w.fab.drain.installed = true ∧ (∀ e ∈ table, AMap.get 0xFFFF t.w.fab.posTable e.1 = e.2)
      ∧ t.w.fab.staged = [] ∧ t.w.fab.pairSent = [] ∧ t.w.fab.pairReceived = [] ∧ t.w.fab.circuitsDown = [] ∧ t.w.fab.circuits = t.w.circuitTable := by
  refine ⟨_, if_neg (by rw [hs, htrained, hactive]; simp), rfl, ⟨rfl, rfl, rfl, rfl⟩, rfl, rfl,
    fun _ he => get_foldl_set table [] hn he, rfl, rfl, rfl, rfl, rfl⟩

end Requests

section Counts
variable {s : State} {reports : List (Nat × Nat × Nat × Nat)}

/-- The counts that this module reports. -/
def World.countReport (w : World) : Output := .drain 1 [w.fab.physical, w.drainCounts.1, w.drainCounts.2.1, w.drainCounts.2.2]

/-- Whether every module that holds a position and is not failed has reported. -/
def World.allReported (w : World) (reports : List (Nat × Nat × Nat × Nat)) : Bool :=
  (((List.range w.config.positions).map w.config.positionAt).filterMap w.physicalOf).all fun x =>
    decide (x = w.fab.physical) || w.fab.failed.contains x || reports.any fun r => decide (r.1 = x)

theorem World.allReported_of {w : World} (h : ∀ p ∈ (List.range w.config.positions).map w.config.positionAt, ∀ x, w.physicalOf p = some x →
    x = w.fab.physical ∨ ∃ r ∈ reports, r.1 = x) : w.allReported reports = true := by
  refine List.all_eq_true.mpr fun x hx => ?_
  obtain ⟨p, hp, hpx⟩ := List.mem_filterMap.mp hx
  obtain rfl | ⟨r, hr, rfl⟩ := h p hp x hpx
  · rw [decide_eq_true rfl, Bool.true_or, Bool.true_or]
  · rw [List.any_eq_true.mpr ⟨r, hr, decide_eq_true rfl⟩, Bool.or_true]

/-- What a round of the counts leaves. -/
def World.countRound (w : World) (reports : List (Nat × Nat × Nat × Nat)) : World :=
  let sent := w.drainCounts.1 + (reports.map (·.2.1)).sum
  let got := w.drainCounts.2.1 + w.drainCounts.2.2 + (reports.map fun r => r.2.2.1 + r.2.2.2).sum
  if w.domainHead ∧ w.allReported reports ∧ sent = got then (w.emit w.countReport).sendInstall else w.emit w.countReport

theorem exec_drainCountRound (hs : s.inService = true) (ha : s.w.fab.drain.active = true) (hi : s.w.fab.drain.injecting = false)
    (hins : s.w.fab.drain.installed = false) : exec (.drainCountRound reports) s = .next { s with w := s.w.countRound reports } :=
  next_of_serve hs (if_neg (by rw [ha, hi, hins]; simp))

end Counts

/-! #### Modules whose reports are missing (R420) -/

/-- `v` is `w` with modules marked failed during a drain. -/
structure World.MarkedLost (w v : World) : Prop where
  memories : w.memoriesKept v
  config : v.config = w.config
  fab : ∃ failed lost, v.fab = { w.fab with failed := failed, lost := lost }
  failed : ∀ x ∈ w.fab.failed, x ∈ v.fab.failed

section Lost
variable {w v u : World} {s : State} {phys : Nat}

theorem World.MarkedLost.refl : w.MarkedLost w := ⟨w.memoriesKept_refl, rfl, ⟨_, _, rfl⟩, fun _ h => h⟩

theorem World.MarkedLost.trans (h : w.MarkedLost v) (g : v.MarkedLost u) : w.MarkedLost u := by
  refine ⟨h.memories.trans g.memories, g.config.trans h.config, ?_, fun x hx => g.failed x (h.failed x hx)⟩
  obtain ⟨f, l, hv⟩ := h.fab
  obtain ⟨f', l', hu⟩ := g.fab
  exact ⟨f', l', by rw [hu, hv]⟩

theorem World.notedFrom.markedLost (h : v.notedFrom w) : w.MarkedLost v :=
  ⟨h.memories, h.config, ⟨w.fab.failed, w.fab.lost, h.fab⟩, fun _ hx => h.fab ▸ hx⟩

theorem World.MarkedLost.drain (h : w.MarkedLost v) : v.fab.drain = w.fab.drain ∧ v.domainHead = w.domainHead ∧ v.fab.staged = w.fab.staged
    ∧ v.fab.physical = w.fab.physical := by
  obtain ⟨_, _, hf⟩ := h.fab
  exact ⟨by rw [hf], by rw [World.domainHead, hf, World.domainHead], by rw [hf], by rw [hf]⟩

theorem World.MarkedLost.positionHeld (h : w.MarkedLost v) (x : Nat) : v.positionHeld x = w.positionHeld x := by
  obtain ⟨_, _, hf⟩ := h.fab
  have hp : ∀ p, v.physicalOf p = w.physicalOf p := fun p => by rw [World.physicalOf, hf, World.physicalOf]
  rw [World.positionHeld, h.config, World.positionHeld]
  simp only [hp]

/-- During a drain the domain head only notes a failed module. -/
theorem World.headFailed_marks (t : Sid) (ha : w.fab.drain.active = true) : w.MarkedLost (w.headFailed t phys) ∧ phys ∈ (w.headFailed t phys).fab.failed := by
  unfold World.headFailed
  dsimp only
  split
  next h => exact ⟨.refl, List.contains_iff_mem.mp h⟩
  next =>
    have hmem : phys ∈ w.fab.failed ++ [phys] := List.mem_append_right _ (List.mem_singleton_self _)
    cases w.positionHeld phys with
    | none => exact ⟨⟨⟨rfl, rfl, rfl, rfl⟩, rfl, ⟨_, _, rfl⟩, fun _ h => List.mem_append_left _ h⟩, hmem⟩
    | some p =>
      exact ⟨⟨⟨rfl, rfl, rfl, rfl⟩, rfl, ⟨_, _, rfl⟩, fun _ h => List.mem_append_left _ h⟩, hmem⟩

theorem World.markFailed_marks (t : Sid) (hd : w.domainHead = true) (ha : w.fab.drain.active = true) :
    w.MarkedLost (w.markFailed t phys) ∧ phys ∈ (w.markFailed t phys).fab.failed := by
  unfold World.markFailed
  split
  next h => exact ⟨.refl, List.contains_iff_mem.mp h⟩
  next =>
    extract_lets own cask v fab v'
    have hv : w.MarkedLost v ∧ v.domainHead = true ∧ v.fab.drain.active = true := by
      simp only [v]
      split
      · exact ⟨⟨⟨rfl, rfl, rfl, rfl⟩, rfl, ⟨_, _, rfl⟩, fun _ h => h⟩, hd, ha⟩
      · exact ⟨.refl, hd, ha⟩
    obtain ⟨h1, h2, h3⟩ := hv
    rw [if_pos h2]
    obtain ⟨h4, h5⟩ := v.headFailed_marks (phys := phys) t h3
    exact ⟨h1.trans h4, h5⟩

theorem State.holdover_marks (s : State) : s.w.MarkedLost s.holdover.w ∧ s.holdover.pending = s.pending := by
  unfold State.holdover
  split
  · exact ⟨.refl, rfl⟩
  · exact ⟨(s.w.raise_noted s.sid _ _ _).markedLost.trans (World.tick_noted _ .sid 0 0x090).markedLost, rfl⟩

/-- A module marked failed during a drain, where the root's loss brings HOLDOVER (R436). -/
theorem State.markFailed_marks (hd : s.w.domainHead = true) (ha : s.w.fab.drain.active = true) :
    s.w.MarkedLost (s.markFailed phys).w ∧ (s.markFailed phys).pending = s.pending ∧ phys ∈ (s.markFailed phys).w.fab.failed := by
  obtain ⟨h, hmem⟩ := s.w.markFailed_marks (phys := phys) s.sid hd ha
  unfold State.markFailed
  dsimp only
  split
  · obtain ⟨hh, hp⟩ := State.holdover_marks { s with w := s.w.markFailed s.sid phys }
    exact ⟨h.trans hh, hp, hh.failed _ hmem⟩
  · exact ⟨h, rfl, hmem⟩

theorem State.markAll_marks : ∀ (xs : List Nat) (s : State), s.w.domainHead = true → s.w.fab.drain.active = true →
    s.w.MarkedLost (xs.foldl State.markFailed s).w ∧ (xs.foldl State.markFailed s).pending = s.pending
      ∧ ∀ x ∈ xs, x ∈ (xs.foldl State.markFailed s).w.fab.failed
  | [], _, _, _ => ⟨.refl, rfl, fun _ h => absurd h List.not_mem_nil⟩
  | x :: xs, s, hd, ha => by
    obtain ⟨h1, hp1, hx⟩ := s.markFailed_marks (phys := x) hd ha
    obtain ⟨hdrain, hhead, -, -⟩ := h1.drain
    obtain ⟨h2, hp2, hxs⟩ := State.markAll_marks xs (s.markFailed x) (hhead.trans hd) (by rw [hdrain]; exact ha)
    refine ⟨h1.trans h2, hp2.trans hp1, fun y hy => ?_⟩
    obtain rfl | hy := List.mem_cons.mp hy
    · exact h2.failed _ hx
    · exact hxs y hy

/-- The head gives up a drain: it stages the positions of the modules that are gone as empty, and installs the table. -/
def World.installWithout (w : World) (t : Sid) (gone : List Nat) : World :=
  let limit := max 460 (w.regField (Block.fab.addr 0 0x000) 32 16)
  let held := gone.filterMap w.positionHeld
  let w := { w with fab := { w.fab with staged := held.foldl (fun (m : AMap Nat) (p : Nat) => AMap.set unstaged m p 0xFFFF) w.fab.staged } }
  let w := (w.updDrain fun d => { d with status := 2 }).raiseDrain t limit 2 w.fab.drain.reason
  w.sendInstall

theorem World.raiseDrain_noted (w : World) (t : Sid) (us status reason : Nat) : (w.raiseDrain t us status reason).notedFrom w := w.raiseAs_noted _ _ _ _ _ _

theorem World.installWithout_facts (w : World) (t : Sid) (gone : List Nat) : let v := w.installWithout t gone
    w.memoriesKept v ∧ v.fab.drain.status = 2 ∧ (∃ o tbl, v.out = o ++ [.drain 2 tbl]) ∧ v.fab.failed = w.fab.failed
      ∧ v.fab.staged = (gone.filterMap w.positionHeld).foldl (fun (m : AMap Nat) (p : Nat) => AMap.set unstaged m p 0xFFFF) w.fab.staged := by
  unfold World.installWithout
  extract_lets limit held fab u v
  have hn : v.notedFrom (u.updDrain fun d => { d with status := 2 }) := World.raiseDrain_noted _ t limit 2 u.fab.drain.reason
  have hmem := hn.memories
  have hfab := hn.fab
  clear_value v
  have hstatus : v.fab.drain.status = 2 := by rw [hfab]; rfl
  have hfailed : v.fab.failed = w.fab.failed := by rw [hfab]; rfl
  have hstaged : v.fab.staged = u.fab.staged := by rw [hfab]; rfl
  exact ⟨hmem, hstatus, ⟨_, _, rfl⟩, hfailed, hstaged⟩

theorem exec_drainTimeout (hs : s.inService = true) (missing : List Nat) (hd : s.w.domainHead = true) (ha : s.w.fab.drain.active = true)
    (hi : s.w.fab.drain.installed = false) :
    let gone := missing.filter fun x => decide (x ≠ s.w.fab.physical) && !s.w.fab.failed.contains x
    let v := gone.foldl State.markFailed s
    exec (.drainTimeout missing) s = .next { v with w := v.w.installWithout v.sid gone } :=
  if_neg (by rw [hs, hd, ha, hi]; simp)

theorem drainTimeout_marks (hs : s.inService = true) (missing : List Nat) (hd : s.w.domainHead = true) (ha : s.w.fab.drain.active = true)
    (hi : s.w.fab.drain.installed = false) :
    ∃ t, exec (.drainTimeout missing) s = .next t ∧ t.pending = s.pending ∧ s.w.memoriesKept t.w ∧ t.w.fab.drain.status = 2
      ∧ (∃ o tbl, t.w.out = o ++ [.drain 2 tbl])
      ∧ ∀ x ∈ missing, x ≠ s.w.fab.physical → x ∉ s.w.fab.failed →
        x ∈ t.w.fab.failed ∧ ∀ p, s.w.positionHeld x = some p → AMap.get unstaged t.w.fab.staged p = 0xFFFF := by
  have hexec := exec_drainTimeout hs missing hd ha hi
  obtain ⟨h, hp, hgone⟩ := State.markAll_marks (missing.filter fun x => decide (x ≠ s.w.fab.physical) && !s.w.fab.failed.contains x) s hd ha
  have hin : ∀ x ∈ missing, x ≠ s.w.fab.physical → x ∉ s.w.fab.failed →
      x ∈ missing.filter fun x => decide (x ≠ s.w.fab.physical) && !s.w.fab.failed.contains x := fun x hx hne hfail => by
    rw [List.mem_filter, decide_eq_true hne, Bool.true_and, Bool.not_eq_true', ← Bool.not_eq_true, List.contains_iff_mem]
    exact ⟨hx, hfail⟩
  dsimp only at hexec
  generalize (missing.filter fun x => decide (x ≠ s.w.fab.physical) && !s.w.fab.failed.contains x) = gone at *
  have hheld := h.positionHeld
  have hmem := h.memories
  generalize gone.foldl State.markFailed s = v at *
  obtain ⟨hm, hstatus, hout, hfailed, hstaged⟩ := v.w.installWithout_facts v.sid gone
  refine ⟨_, hexec, hp, hmem.trans hm, hstatus, hout, fun x hx hne hfail => ⟨?_, fun p hpos => ?_⟩⟩
  · rw [hfailed]
    exact hgone x (hin x hx hne hfail)
  · rw [hstaged]
    refine get_foldl_set_const _ _ (.inl (List.mem_filterMap.mpr ⟨x, hin x hx hne hfail, ?_⟩))
    rw [hheld]
    exact hpos

end Lost

end Sys2Proof.Machine

namespace Sys2Proof.Machine

/-! ### RESUME (R418, R419) -/

section SendRegs
variable (w : World) (t : Sid)

/-- Forwarded accesses that the drain held back leave; nothing else of this module changes but that they are marked as sent. -/
theorem World.sendRegs_facts : w.Onward (w.sendRegs t) ∧ (w.sendRegs t).fab.drain = w.fab.drain ∧ (w.sendRegs t).domainHead = w.domainHead
    ∧ (w.sendRegs t).regs = w.regs ∧ (w.sendRegs t).uzo.events = w.uzo.events := by
  unfold World.sendRegs
  split
  · exact ⟨.refl, rfl, rfl, rfl, rfl⟩
  · extract_lets due
    let u := w.updUzo fun u => { u with regWaits := u.regWaits.map fun x => { x with sent := true } }
    have hstep : ∀ (v : World) (x : RegWait), v.Mailed (World.sendReg t v x) ∧ (World.sendReg t v x).uzo = v.uzo := fun v x =>
      ⟨v.sendPacket_mailed t _ _ _ _ _ _ _ _, v.sendPacket_uzo t _ _ _ _ _ _ _ _⟩
    obtain ⟨hm, hu⟩ : u.Mailed (due.foldl (World.sendReg t) u) ∧ (due.foldl (World.sendReg t) u).uzo = u.uzo :=
      List.foldlRecOn due _ (motive := fun v => u.Mailed v ∧ v.uzo = u.uzo) ⟨.refl, rfl⟩ fun v ⟨hv, hvu⟩ x _ =>
        ⟨hv.trans (hstep v x).1, (hstep v x).2.trans hvu⟩
    have hon : w.Onward u := ⟨fun _ h => h, fun _ h => h, rfl, rfl, rfl⟩
    have hdrain : (due.foldl (World.sendReg t) u).fab.drain = w.fab.drain := by
      obtain ⟨_, _, _, _, _, hf⟩ := hm.fab
      rw [hf]
      rfl
    have hevents : (due.foldl (World.sendReg t) u).uzo.events = w.uzo.events := by rw [hu]; rfl
    exact ⟨hon.trans (hm.onward hu), hdrain, by rw [World.domainHead, hm.position]; rfl, hm.sent.regs, hevents⟩

theorem World.askStore_drain : w.askStore.fab = w.fab := by
  have hsend : ∀ (e : EthEntry) (b : List Byte), (w.sendDatagram e b).fab = w.fab := fun e b => by
    unfold World.sendDatagram
    split <;> rfl
  unfold World.askStore
  split
  · rfl
  next f _ =>
    split
    · cases f.nextAsk with
      | none => rfl
      | some x =>
        show (w.toStore _).fab = w.fab
        unfold World.toStore
        cases w.store with
        | none => rfl
        | some e => exact hsend e _
    · rfl

theorem World.askPeers_drain (n : Nat) : (w.askPeers t n).fab.drain = w.fab.drain := by
  obtain ⟨_, _, _, _, _, hf⟩ := (w.askPeers_facts t n).1.fab
  rw [hf]

theorem World.resetRun_drain (p : Nat) : (w.resetRun p).fab.drain = w.fab.drain := by
  unfold World.resetRun
  extract_lets v1 v2 f0 v3 v4 v5 v6
  have h1 : v1.fab.drain = w.fab.drain := foldl_keeps (fun v : World => v.fab.drain)
    (f := fun (w : World) d => (w.count (Block.disp.addr d 0x0B0) (w.die d).collect.length).updDie d fun x => { x with collect := [] }) (fun _ _ => rfl) _ w
  have h2 : v2.fab.drain = v1.fab.drain :=
    foldl_keeps (fun v : World => v.fab.drain) (f := fun (v : World) d => v.updDie d fun x => { x with ready := [] }) (fun _ _ => rfl) _ v1
  have h3 : v3.fab.drain = v2.fab.drain := by
    simp only [v3]
    split <;> rfl
  have h4 : v4.fab.drain = v3.fab.drain := foldl_keeps (fun v : World => v.fab.drain) (f := fun (v : World) k => v.updCluster k Cluster.dropItem) (fun _ _ => rfl) _ v3
  have h6 : v6.fab.drain = v5.fab.drain := foldl_keeps (fun v : World => v.fab.drain) (f := fun (v : World) c => v.updCore c Core.forget) (fun _ _ => rfl) _ v5
  refine (foldl_keeps (fun v : World => v.fab.drain) (fun v k => ?_) _ v6).trans (h6.trans (h4.trans (h3.trans (h2.trans h1))))
  unfold World.updBar
  split <;> rfl

theorem World.emptyUnits_drain (p : Nat) : (w.emptyUnits p).fab.drain = w.fab.drain :=
  (foldl_keeps (fun v : World => v.fab.drain) (f := fun (w : World) k => w.updCluster k Cluster.emptied) (fun _ _ => rfl) _ _).trans
    (foldl_keeps (fun v : World => v.fab.drain) (f := fun (w : World) c => w.updCore c Core.emptied) (fun _ _ => rfl) _ w)

theorem World.zeroLocal_drain (p : Nat) (x : Bundle) : (w.zeroLocal p x).fab.drain = w.fab.drain :=
  (foldl_keeps (fun v : World => v.fab.drain) (f := fun (w : World) k => { w with cstore := w.cstore.zero (k * storeBytes) ((k + 1) * storeBytes) })
      (fun _ _ => rfl) _ _).trans
    (foldl_keeps (fun v : World => v.fab.drain)
      (f := fun (w : World) c => { w with tun := w.tun.zero (c * tunBytes) ((c + 1) * tunBytes - x.regionBytes c) }) (fun _ _ => rfl) _ w)

theorem World.beginRestore_drain (fromStore : Bool) (n : Nat) : (w.beginRestore t fromStore n).fab.drain = w.fab.drain := by
  have h0 : (w.stopRun 0 false).fab = w.fab := (w.stopRun_halted 0 false).fab
  unfold World.beginRestore
  extract_lets v1 v2 v3 store v4 fab v5
  have h1 : v1.fab.drain = w.fab.drain := by
    simp only [v1, World.resetRun_drain, World.zeroLocal_drain, World.emptyUnits_drain, h0]
  clear_value v1
  have h2 : v2.fab.drain = v1.fab.drain := foldl_keeps (fun v : World => v.fab.drain)
    (f := fun (w : World) c => w.updCore c fun x => { (Core.halted false x) with axe := { x.axe with shapes := [] } }) (fun _ _ => rfl) _ v1
  clear_value v2
  have h3 : v3.fab.drain = v2.fab.drain := rfl
  clear_value v3
  have h4 : v4.fab.drain = v3.fab.drain := rfl
  clear_value v4
  have h5 : v5.fab.drain = v4.fab.drain := rfl
  clear_value v5
  split
  · rw [v5.askStore_drain, h5, h4, h3, h2, h1]
  · rw [v5.askPeers_drain, h5, h4, h3, h2, h1]

end SendRegs

section Resume
variable {s : State} (us : BitVec 20)

/-- The drain is over for this module: it injects again. -/
def World.resumed (w : World) (t : Sid) : World :=
  ((w.updDrain fun d => { d with active := false, injecting := true, installed := false, lastUs := us.toNat, status := if d.status = 2 then 2 else 1 }).tick
    .fab 0 0x0C8).sendRegs t

/-- DRAIN raised by the head, and told down the tree. -/
def World.toldDrain (w : World) (t : Sid) (status reason : Nat) : World :=
  (if status = 1 then w.raiseDrain t us.toNat 1 reason else w).emit (.drain 4 [us.toNat])

/-- What the head does once the drain is over. -/
def World.headResumes (w : World) (t : Sid) (status reason : Nat) : World :=
  let w := w.toldDrain us t status reason
  let w := w.fab.taking.foldl (fun w p => w.raiseTakeover t p (p / 16) 0) w
  let lost := w.fab.lost
  let w := { w with fab := { w.fab with taking := [], lost := [] } }
  let w := lost.foldl (fun w x => w.takeover t x.1 x.2) w
  (w.settleStep t).releaseTree t

/-- What follows a drain: the head's part, and the restore that a takeover brings. -/
def World.afterDrain (w : World) (t : Sid) (status reason : Nat) : World :=
  let w := if w.domainHead then w.headResumes us t status reason else w
  if reason = 0 ∧ w.jobRuns 0 = false ∧ (w.part 0).started ∧ w.fab.position.isSome ∧ w.canSend then w.cask.committed.elim w fun c => w.beginRestore t false c
  else w

theorem exec_resume (hs : s.inService = true) (ha : s.w.fab.drain.active = true) (hi : s.w.fab.drain.installed = true) : exec (.resume us) s
    = .next { s with w := (s.w.resumed us s.sid).afterDrain us s.sid (if s.w.fab.drain.status = 2 then 2 else 1) s.w.fab.drain.reason } :=
by
  refine next_of_serve hs ?_
  dsimp only
  rw [if_neg (by rw [ha, hi]; simp)]
  unfold World.afterDrain World.headResumes World.toldDrain World.resumed
  rfl

theorem World.restores_onward (w : World) (t : Sid) : w.Onward (w.cask.committed.elim w fun c => w.beginRestore t false c)
    ∧ (w.cask.committed.elim w fun c => w.beginRestore t false c).fab.drain = w.fab.drain := by
  cases w.cask.committed with
  | none => exact ⟨.refl, rfl⟩
  | some c =>
    rw [Option.elim_some]
    exact ⟨w.beginRestore_onward t false c, w.beginRestore_drain t false c⟩

theorem World.toldDrain_onward (w : World) (t : Sid) (status reason : Nat) : w.Onward (w.toldDrain us t status reason) :=
  .trans (.ite (w.raiseAs_onward t _ _ _ _ _) .refl) (World.emit_onward _ _)

theorem World.headResumes_onward (w : World) (t : Sid) (status reason : Nat) : (w.toldDrain us t status reason).Onward (w.headResumes us t status reason) := by
  unfold World.headResumes
  extract_lets v1 v2 lost fab v3 v4
  have h2 : v1.Onward v2 := .foldl (fun v p => v.raiseTakeover_onward t p (p / 16) 0) _ v1
  clear_value v2
  have h3 : v2.Onward v3 := .of_same rfl rfl rfl rfl
  clear_value v3
  have h4 : v3.Onward v4 := .foldl (f := fun w (x : Nat × Nat) => w.takeover t x.1 x.2) (fun v x => v.takeover_onward t x.1 x.2) _ v3
  clear_value v4
  exact ((h2.trans h3).trans h4).trans ((v4.settleStep_onward t).trans (World.releaseTree_onward _ t))

theorem World.resumed_facts (w : World) (t : Sid) : (w.resumed us t).fab.drain.active = false ∧ (w.resumed us t).fab.drain.injecting = true
    ∧ (w.resumed us t).fab.drain.lastUs = us.toNat ∧ w.counted (w.resumed us t) .fab 0 0x0C8 ∧ (w.resumed us t).domainHead = w.domainHead
    ∧ (w.resumed us t).regs = w.regs ∧ (w.resumed us t).uzo.events = w.uzo.events := by
  unfold World.resumed
  generalize hu : w.updDrain _ = u
  have hd : u.fab.drain.active = false ∧ u.fab.drain.injecting = true ∧ u.fab.drain.lastUs = us.toNat := by
    rw [← hu]
    exact ⟨rfl, rfl, rfl⟩
  have hc : u.counters = w.counters := by rw [← hu]; rfl
  have hh : u.domainHead = w.domainHead := by rw [← hu]; rfl
  have hr : u.regs = w.regs := by rw [← hu]; rfl
  have he : u.uzo.events = w.uzo.events := by rw [← hu]; rfl
  obtain ⟨ho, hdrain, hhead, hregs, hevents⟩ := (u.tick .fab 0 0x0C8).sendRegs_facts t
  obtain ⟨h1, h2, h3⟩ := hd
  have hcount : (u.tick .fab 0 0x0C8).counter .fab 0 0x0C8 = w.counter .fab 0 0x0C8 + 1 := by
    rw [World.counter_tick_self, World.counter, hc, World.counter]
  refine ⟨?_, ?_, ?_, ho.counter.trans hcount, hhead.trans hh, hregs.trans hr, hevents.trans he⟩
  · rw [hdrain]; exact h1
  · rw [hdrain]; exact h2
  · rw [hdrain]; exact h3

/-- The head's DRAIN of a drain that balanced. -/
theorem World.toldDrain_raises (w : World) (t : Sid) (reason : Nat) (h : w.forwards 0) :
    ∃ r ∈ (w.toldDrain us t 1 reason).uzo.events, leAt r 10 2 = ioSource 0 ∧ leAt r 12 2 = 0x122
      ∧ leAt r 16 4 = (us.toNat + 2 ^ 20 + reason * 2 ^ 24) % 2 ^ 32 := by
  obtain ⟨r, hr, h1, h2, h3⟩ := w.raiseAs_raised t (src := ioSource 0) (code := 0x122) (sev := 0)
    (payload := us.toNat % 2 ^ 20 + 1 * 2 ^ 20 + reason * 2 ^ 24) (extra := w.eventExtra (ioSource 0)) h (by decide) (by decide)
  rw [Nat.mod_eq_of_lt us.isLt, Nat.one_mul] at h3
  have hev : (w.toldDrain us t 1 reason).uzo.events = w.uzo.events ++ [r] := hr
  exact ⟨r, by rw [hev]; exact List.mem_append_right _ (List.mem_singleton_self _), h1, h2, h3⟩

theorem World.afterDrain_onward (w : World) (t : Sid) (status reason : Nat) : w.Onward (w.afterDrain us t status reason)
    ∧ (w.domainHead = false → (w.afterDrain us t status reason).fab.drain = w.fab.drain)
    ∧ (w.domainHead = true → (w.toldDrain us t status reason).Onward (w.afterDrain us t status reason)) := by
  unfold World.afterDrain
  have hhead := w.headResumes_onward us t status reason
  have htold := w.toldDrain_onward us t status reason
  have hrest : ∀ v : World, v.Onward (if reason = 0 ∧ v.jobRuns 0 = false ∧ (v.part 0).started ∧ v.fab.position.isSome ∧ v.canSend
        then v.cask.committed.elim v fun c => v.beginRestore t false c else v)
      ∧ (if reason = 0 ∧ v.jobRuns 0 = false ∧ (v.part 0).started ∧ v.fab.position.isSome ∧ v.canSend
        then v.cask.committed.elim v fun c => v.beginRestore t false c else v).fab.drain = v.fab.drain := fun v => by
    split
    · exact v.restores_onward t
    · exact ⟨.refl, rfl⟩
  cases w.domainHead with
  | false => exact ⟨(hrest w).1, fun _ => (hrest w).2, nofun⟩
  | true => exact ⟨(htold.trans hhead).trans (hrest _).1, nofun, fun _ => hhead.trans (hrest _).1⟩

/-- RESUME injects again; the head raises DRAIN and tells it (R419). -/
theorem resume_injects (hs : s.inService = true) (ha : s.w.fab.drain.active = true) (hi : s.w.fab.drain.installed = true) :
    ∃ t, exec (.resume us) s = .next t ∧ t.pending = s.pending ∧ t.w.canSend = true ∧ t.w.fab.drain.lastUs = us.toNat ∧ s.w.counted t.w .fab 0 0x0C8
      ∧ (s.w.domainHead = false → t.w.fab.drain.active = false)
      ∧ (s.w.domainHead = true → Output.drain 4 [us.toNat] ∈ t.w.out
        ∧ (s.w.fab.drain.status ≠ 2 → s.w.forwards 0 → ∃ r ∈ t.w.uzo.events, leAt r 10 2 = ioSource 0 ∧ leAt r 12 2 = 0x122
            ∧ leAt r 16 4 = (us.toNat + 2 ^ 20 + s.w.fab.drain.reason * 2 ^ 24) % 2 ^ 32)) := by
  obtain ⟨hactive, hinject, hlast, hcount, hhead, hregs, hevents⟩ := s.w.resumed_facts us s.sid
  obtain ⟨ho, hkept, htold⟩ := (s.w.resumed us s.sid).afterDrain_onward us s.sid (if s.w.fab.drain.status = 2 then 2 else 1) s.w.fab.drain.reason
  rw [hhead] at hkept htold
  refine ⟨_, exec_resume us hs ha hi, rfl, ho.injecting.trans hinject, ho.lastUs.trans hlast, ho.counter.trans hcount, fun h => ?_, fun h => ⟨?_, fun hst hf => ?_⟩⟩
  · rw [hkept h]
    exact hactive
  · exact (htold h).out _ (List.mem_append_right _ (List.mem_singleton_self _))
  · rw [if_neg hst] at htold
    have hf : (s.w.resumed us s.sid).forwards 0 := by
      rw [World.forwards, World.reg, hregs, hevents]
      exact hf
    obtain ⟨r, hr, hfields⟩ := (s.w.resumed us s.sid).toldDrain_raises us s.sid s.w.fab.drain.reason hf
    refine ⟨r, ?_, hfields⟩
    rw [if_neg hst]
    exact (htold h).events r hr

end Resume

section Round
variable {s : State} {reports : List (Nat × Nat × Nat × Nat)} (hs : s.inService = true) (ha : s.w.fab.drain.active = true)
  (hi : s.w.fab.drain.injecting = false) (hins : s.w.fab.drain.installed = false)
include hs ha hi hins

theorem drainCountRound_reports
    (h : s.w.domainHead = false ∨ s.w.drainCounts.1 + (reports.map (·.2.1)).sum
      ≠ s.w.drainCounts.2.1 + s.w.drainCounts.2.2 + (reports.map fun r => r.2.2.1 + r.2.2.2).sum) :
    ∃ t, exec (.drainCountRound reports) s = .next t ∧ s.restKept t ∧ t.w = { s.w with out := s.w.out ++ [s.w.countReport] } := by
  refine ⟨_, exec_drainCountRound hs ha hi hins, s.restKept_world _, if_neg fun ⟨hd, _, he⟩ => ?_⟩
  obtain h | h := h
  · exact Bool.noConfusion (h.symm.trans hd)
  · exact h he

theorem drainCountRound_installs (hd : s.w.domainHead = true) (he : s.w.drainCounts.1 + (reports.map (·.2.1)).sum
      = s.w.drainCounts.2.1 + s.w.drainCounts.2.2 + (reports.map fun r => r.2.2.1 + r.2.2.2).sum)
    (hall : ∀ p ∈ (List.range s.w.config.positions).map s.w.config.positionAt, ∀ x, s.w.physicalOf p = some x →
      x = s.w.fab.physical ∨ ∃ r ∈ reports, r.1 = x) :
    ∃ t tbl, exec (.drainCountRound reports) s = .next t ∧ s.restKept t ∧ t.w = { s.w with out := s.w.out ++ [s.w.countReport, .drain 2 tbl] } := by
  have hround : s.w.countRound reports = (s.w.emit s.w.countReport).sendInstall := if_pos ⟨hd, World.allReported_of hall, he⟩
  refine ⟨_, (s.w.emit s.w.countReport).stagedTable.flatMap fun (e : Nat × Nat) => [e.1, e.2], exec_drainCountRound hs ha hi hins, s.restKept_world _, ?_⟩
  rw [hround, World.sendInstall]
  unfold World.emit
  rw [List.append_assoc]
  rfl

end Round

/-- Settles O45: circuits by the slots that the circuit table hands out, the drain by what each of its commands leaves; after RESUME whatever
the takeovers and the restore do keeps the drain's outcome. -/
theorem drainInstallsTables : Obligations.DrainInstallsTables := by
  unfold Obligations.DrainInstallsTables
  refine ⟨fun w link => w.circuitTable_slots link, fun s hs => ⟨drainGo_requests hs, fun ht => ⟨drainReq_stops hs ht, install_installs hs ht⟩,
    fun reports ha hi hins => ⟨drainCountRound_reports hs ha hi hins, drainCountRound_installs hs ha hi hins⟩, fun us ha hi => resume_injects us hs ha hi,
    fun missing hd ha hi => drainTimeout_marks hs missing hd ha hi⟩⟩

end Sys2Proof.Machine

namespace Sys2Proof.Machine

/-! ### What a command keeps of the memories' form and of the tables (log entry 4, R28, R219)

`w.Tidy k` says of a world what `k` follows: that its memories are in canonical form, and that partitions stand in their step, with their tables
in their versions. Each operation keeps it. -/

/-- What is followed: whether the memories are canonical, and the partitions whose step and versions stand. -/
structure Track where
  memories : Bool
  parts : Nat → Option Part

/-- The memories alone are followed. -/
def Track.canonical : Track := ⟨true, fun _ => none⟩

/-- The step of `x` in `y`, and its tables in their versions. -/
structure Part.SameVersions (x y : Part) : Prop where
  step : y.step = x.step
  lastSwitched : y.lastSwitched = x.lastSwitched
  dir : ∀ e ∈ x.dir, ∃ f ∈ y.dir, f.tensor = e.tensor ∧ f.current = e.current ∧ f.version = e.version

/-- The memories are in their canonical form. -/
structure World.Canonical (w : World) : Prop where
  hbm : w.hbm.wf = true
  tun : w.tun.wf = true
  cstore : w.cstore.wf = true
  cellar : w.cellar.wf = true
  buffer : w.kiln.buffer.wf = true

structure World.Tidy (k : Track) (w : World) : Prop where
  canonical : k.memories = true → w.Canonical
  parts : ∀ p x, k.parts p = some x → x.SameVersions (w.part p)

section Parts
variable {x y z : Part}

theorem Part.SameVersions.of_same (hs : y.step = x.step) (hl : y.lastSwitched = x.lastSwitched) (hd : y.dir = x.dir) : x.SameVersions y :=
  ⟨hs, hl, fun e he => ⟨e, hd ▸ he, rfl, rfl, rfl⟩⟩

theorem Part.SameVersions.trans (h : x.SameVersions y) (g : y.SameVersions z) : x.SameVersions z := by
  refine ⟨g.step.trans h.step, g.lastSwitched.trans h.lastSwitched, fun e he => ?_⟩
  obtain ⟨f, hf, h1, h2, h3⟩ := h.dir e he
  obtain ⟨f', hf', g1, g2, g3⟩ := g.dir f hf
  exact ⟨f', hf', g1.trans h1, g2.trans h2, g3.trans h3⟩

/-- A change of the directory that keeps each entry's table and version. -/
theorem Part.SameVersions.map (hs : y.step = x.step) (hl : y.lastSwitched = x.lastSwitched) {f : DirEntry → DirEntry} (hd : y.dir = x.dir.map f)
    (hf : ∀ e, (f e).tensor = e.tensor ∧ (f e).current = e.current ∧ (f e).version = e.version) : x.SameVersions y :=
  ⟨hs, hl, fun e he => ⟨f e, hd ▸ List.mem_map_of_mem he, hf e⟩⟩

theorem Part.SameVersions.updEntry (id : Nat) {f : DirEntry → DirEntry}
    (hf : ∀ e, (f e).tensor = e.tensor ∧ (f e).current = e.current ∧ (f e).version = e.version) : x.SameVersions (x.updEntry id f) := by
  refine .map rfl rfl rfl fun e => ?_
  split
  · exact hf e
  · exact ⟨rfl, rfl, rfl⟩

end Parts

namespace World.Tidy
variable {k : Track} {w v : World}

theorem of_fields (h : w.Tidy k) (h1 : v.hbm = w.hbm) (h2 : v.tun = w.tun) (h3 : v.cstore = w.cstore) (h4 : v.cellar = w.cellar)
    (h5 : v.kiln.buffer = w.kiln.buffer) (h6 : v.parts = w.parts) : v.Tidy k := by
  refine ⟨fun hm => ?_, fun p x hx => ?_⟩
  · obtain ⟨g1, g2, g3, g4, g5⟩ := h.canonical hm
    exact ⟨h1 ▸ g1, h2 ▸ g2, h3 ▸ g3, h4 ▸ g4, h5 ▸ g5⟩
  · rw [World.part_of_parts h6]
    exact h.parts p x hx

/-- What leaves the memories, the Kiln and the partitions as they are. Its statement names every field, so that it applies without a side goal. -/
theorem same {regs counters config channels hourEcc eccHour parityStep parityHeld nmrFaulted cellarBad cores clusters dies flows bars dbars fab cask
    twin hop tap eth uzo trc tails stamps stopped restarts mhz pointers free out} (h : w.Tidy k) :
    World.Tidy k
      { regs, counters, config, hbm := w.hbm, tun := w.tun, cstore := w.cstore, cellar := w.cellar, channels, hourEcc, eccHour, parityStep,
        parityHeld, nmrFaulted, cellarBad, cores, clusters, parts := w.parts, dies, flows, bars, dbars, kiln := w.kiln, fab, cask, twin, hop, tap,
        eth, uzo, trc, tails, stamps, stopped, restarts, mhz, pointers, free, out } :=
  h.of_fields rfl rfl rfl rfl rfl rfl

/-- What leaves the memories and the Kiln as they are, where the memories alone are followed. -/
theorem sameMemories {regs counters config channels hourEcc eccHour parityStep parityHeld nmrFaulted cellarBad cores clusters parts dies flows bars
    dbars fab cask twin hop tap eth uzo trc tails stamps stopped restarts mhz pointers free out} (h : w.Tidy .canonical) :
    World.Tidy .canonical
      { regs, counters, config, hbm := w.hbm, tun := w.tun, cstore := w.cstore, cellar := w.cellar, channels, hourEcc, eccHour, parityStep,
        parityHeld, nmrFaulted, cellarBad, cores, clusters, parts, dies, flows, bars, dbars, kiln := w.kiln, fab, cask, twin, hop, tap, eth, uzo,
        trc, tails, stamps, stopped, restarts, mhz, pointers, free, out } :=
  ⟨fun hm => ⟨(h.canonical hm).hbm, (h.canonical hm).tun, (h.canonical hm).cstore, (h.canonical hm).cellar, (h.canonical hm).buffer⟩,
    fun _ x hx => absurd (show none = some x from hx) (Option.some_ne_none x).symm⟩

theorem next (h : w.Tidy k) (f : w.Tidy k → v.Tidy k) : v.Tidy k := f h

/-! #### Results that may be missing -/

theorem of_some (hr : some w = some v) (h : w.Tidy k) : v.Tidy k := Option.some.inj hr ▸ h

theorem of_ok {ε : Type} (hr : (Except.ok w : Except ε World) = .ok v) (h : w.Tidy k) : v.Tidy k := Except.ok.inj hr ▸ h

theorem of_pair {ε α : Type} {x a : α} (hr : (Except.ok (x, w) : Except ε (α × World)) = .ok (a, v)) (h : w.Tidy k) : v.Tidy k :=
  (Prod.mk.inj (Except.ok.inj hr)).2 ▸ h

theorem of_result {ε α : Type} {x : α × World} {a : α} (hr : (Except.ok x : Except ε (α × World)) = .ok (a, v)) (h : x.2.Tidy k) : v.Tidy k := by
  rw [Except.ok.inj hr] at h
  exact h

theorem of_map {ε α β : Type} {z : Except ε (α × World)} {f : α × World → β × World} {b : β} (hr : z.map f = .ok (b, v))
    (h : ∀ a u, z = .ok (a, u) → u.Tidy k) (hf : ∀ y, (f y).2 = y.2) : v.Tidy k := by
  cases z with
  | error e => cases hr
  | ok y =>
    refine .of_result (x := f y) hr ?_
    rw [hf y]
    exact h y.1 y.2 rfl

theorem of_counts (h : w.Tidy k) (hv : w.countsOnly v) : v.Tidy k := by
  obtain ⟨m, hm⟩ := hv
  rw [hm]
  exact h.same

theorem of_reads {α : Type} {z : Except (Nat × Nat) (α × World)} {a : α} (h : w.Tidy k) (hz : w.readsOnly z) (hr : z = .ok (a, v)) : v.Tidy k :=
  h.of_counts (hz a v hr)

theorem of_eq {α : Type} {x : α × World} {a : α} (hr : x = (a, v)) (h : x.2.Tidy k) : v.Tidy k := by
  rw [hr] at h
  exact h

/-- What sends and notes, and no more (R397). -/
theorem of_sent (h : w.Tidy k) (hs : v.sentFrom w) : v.Tidy k := by
  obtain ⟨_, _, _, _, hn⟩ := hs
  obtain ⟨hhbm, htun, hstore, hcellar⟩ := hn.memories
  have hkiln := hn.kiln
  refine ⟨fun hk => ?_, fun p x hx => (h.parts p x hx).trans ?_⟩
  · obtain ⟨g1, g2, g3, g4, g5⟩ := h.canonical hk
    exact ⟨hhbm ▸ g1, htun ▸ g2, hstore ▸ g3, hcellar ▸ g4, hkiln ▸ g5⟩
  · obtain ⟨_, hp⟩ := hn.2 p
    rw [hp]
    exact .of_same rfl rfl rfl

/-! #### Control -/

theorem ite {c : Prop} [Decidable c] (h : w.Tidy k) (g : v.Tidy k) : (if c then w else v).Tidy k := by
  split
  · exact h
  · exact g

theorem itePair {α : Type} {c : Prop} [Decidable c] {x y : α × World} (h : x.2.Tidy k) (g : y.2.Tidy k) : (if c then x else y).2.Tidy k := by
  split
  · exact h
  · exact g

theorem elim {α : Type} {o : Option α} {f : α → World} (h : w.Tidy k) (hf : ∀ a, (f a).Tidy k) : (o.elim w f).Tidy k := by
  cases o with
  | none => exact h
  | some a => exact hf a

theorem foldl {α : Type} {f : World → α → World} {xs : List α} (h : w.Tidy k) (hf : ∀ (v : World) (x : α), v.Tidy k → (f v x).Tidy k) :
    (xs.foldl f w).Tidy k :=
  List.foldlRecOn xs f (motive := World.Tidy k) h fun v hv x _ => hf v x hv

/-! #### The memories' writes -/

theorem updPartOf {p : Nat} {f : Part → Part} (h : w.Tidy k) (hf : ∀ x : Part, x.SameVersions (f x)) : (w.updPart p f).Tidy k := by
  refine ⟨fun hm => ?_, fun q x hx => ?_⟩
  · obtain ⟨g1, g2, g3, g4, g5⟩ := h.canonical hm
    exact ⟨g1, g2, g3, g4, g5⟩
  · rw [w.part_updPart]
    split
    next e => exact (h.parts q x hx).trans (e ▸ hf _)
    next => exact h.parts q x hx

/-- A change of a partition that leaves its step and its directory. -/
theorem updPart {p : Nat} {job session bundle jobSeed started cycle c0 restored running eval stopAtBoundary due inBarrier closeSent kilnDone
    migrateSent migrateOut pools stats formats prevAmax jobKey seqOwner seqJob progress record good cellarGib cellarGood dies dump traceLost firstLost
    traceRead traceWrite traceActive traceAddr traceSize traceIn overflowRaised skipRaised accepted forwarding heldWrites mcSent mcReceived : Part →
    _} (h : w.Tidy k) :
    (w.updPart p fun x =>
      { job := job x, session := session x, bundle := bundle x, jobSeed := jobSeed x, step := x.step, lastSwitched := x.lastSwitched, started :=
        started x, cycle := cycle x, c0 := c0 x, restored := restored x, running := running x, eval := eval x, stopAtBoundary := stopAtBoundary x,
        due := due x, inBarrier := inBarrier x, closeSent := closeSent x, kilnDone := kilnDone x, migrateSent := migrateSent x, migrateOut :=
        migrateOut x, dir := x.dir, pools := pools x, stats := stats x, formats := formats x, prevAmax := prevAmax x, jobKey := jobKey x, seqOwner
        := seqOwner x, seqJob := seqJob x, progress := progress x, record := record x, good := good x, cellarGib := cellarGib x, cellarGood :=
        cellarGood x, dies := dies x, dump := dump x, traceLost := traceLost x, firstLost := firstLost x, traceRead := traceRead x, traceWrite :=
        traceWrite x, traceActive := traceActive x, traceAddr := traceAddr x, traceSize := traceSize x, traceIn := traceIn x, overflowRaised :=
        overflowRaised x, skipRaised := skipRaised x, accepted := accepted x, forwarding := forwarding x, heldWrites := heldWrites x, mcSent :=
        mcSent x, mcReceived := mcReceived x }).Tidy k :=
  h.updPartOf fun _ => .of_same rfl rfl rfl

theorem setPart {p : Nat} {f : Part → Part} (h : w.Tidy .canonical) : (w.updPart p f).Tidy .canonical := h.sameMemories

theorem setHbm {m : Memory} (h : w.Tidy k) (hm : w.hbm.wf = true → m.wf = true) : ({ w with hbm := m } : World).Tidy k := by
  refine ⟨fun hk => ?_, h.parts⟩
  obtain ⟨g1, g2, g3, g4, g5⟩ := h.canonical hk
  exact ⟨hm g1, g2, g3, g4, g5⟩

theorem setTun {m : Memory} (h : w.Tidy k) (hm : w.tun.wf = true → m.wf = true) : ({ w with tun := m } : World).Tidy k := by
  refine ⟨fun hk => ?_, h.parts⟩
  obtain ⟨g1, g2, g3, g4, g5⟩ := h.canonical hk
  exact ⟨g1, hm g2, g3, g4, g5⟩

theorem setStore {m : Memory} (h : w.Tidy k) (hm : w.cstore.wf = true → m.wf = true) : ({ w with cstore := m } : World).Tidy k := by
  refine ⟨fun hk => ?_, h.parts⟩
  obtain ⟨g1, g2, g3, g4, g5⟩ := h.canonical hk
  exact ⟨g1, g2, hm g3, g4, g5⟩

theorem setCellar {m : Memory} (h : w.Tidy k) (hm : w.cellar.wf = true → m.wf = true) : ({ w with cellar := m } : World).Tidy k := by
  refine ⟨fun hk => ?_, h.parts⟩
  obtain ⟨g1, g2, g3, g4, g5⟩ := h.canonical hk
  exact ⟨g1, g2, g3, hm g4, g5⟩

theorem updKilnOf {f : Kiln → Kiln} (h : w.Tidy k) (hf : w.kiln.buffer.wf = true → (f w.kiln).buffer.wf = true) : (w.updKiln f).Tidy k := by
  refine ⟨fun hk => ?_, h.parts⟩
  obtain ⟨g1, g2, g3, g4, g5⟩ := h.canonical hk
  exact ⟨g1, g2, g3, g4, hf g5⟩

/-- A change of the Kiln that leaves its link buffer. -/
theorem updKiln {grads queue grains unacked closing flushed stepDone updated frozen freezes freezeResult faultedParts failedRetrains linkDown moving
    migrants reads stateFrom : Kiln → _} (h : w.Tidy k) :
    (w.updKiln fun x =>
      { grads := grads x, queue := queue x, buffer := x.buffer, grains := grains x, unacked := unacked x, closing := closing x, flushed := flushed x,
        stepDone := stepDone x, updated := updated x, frozen := frozen x, freezes := freezes x, freezeResult := freezeResult x, faultedParts :=
        faultedParts x, failedRetrains := failedRetrains x, linkDown := linkDown x, moving := moving x, migrants := migrants x, reads := reads x,
        stateFrom := stateFrom x }).Tidy k :=
  h.updKilnOf id

theorem hbmStore {p a : Nat} {bs : List Byte} (h : w.Tidy k) : (w.hbmStore p a bs).Tidy k := by
  induction bs generalizing w a with
  | nil => exact h
  | cons b bs ih => exact ih (h.setHbm fun hm => Memory.wf_setByte _ _ _ hm)

theorem tunWrite {c a : Nat} {bs : List Byte} (h : w.Tidy k) : (w.tunWrite c a bs).Tidy k := h.setTun fun hm => Memory.wf_write _ _ _ hm

theorem cellarWrite {p a : Nat} {bs : List Byte} (h : w.Tidy k) : (w.cellarWrite p a bs).Tidy k :=
  h.setCellar fun hm => List.foldlRecOn bs.zipIdx _ (motive := fun m => Memory.wf m = true) hm fun m hm _ _ => Memory.wf_setByte m _ _ hm

theorem cellarZero {p a n : Nat} (h : w.Tidy k) : (w.cellarZero p a n).Tidy k := h.setCellar fun hm => AMap.wfFrom_filter 0 _ _ hm

end World.Tidy

end Sys2Proof.Machine

namespace Sys2Proof.Machine

namespace World.Tidy
variable {k : Track} {w : World}

/-! #### The named operations -/

theorem updCore {c : Nat} {f : Core → Core} (h : w.Tidy k) : (w.updCore c f).Tidy k := h.same

theorem updCluster {c : Nat} {f : Cluster → Cluster} (h : w.Tidy k) : (w.updCluster c f).Tidy k := h.same

theorem updDie {d : Nat} {f : Die → Die} (h : w.Tidy k) : (w.updDie d f).Tidy k := h.same

theorem updFlow {i : Nat} {f : Machine.Flow → Machine.Flow} (h : w.Tidy k) : (w.updFlow i f).Tidy k := h.same

theorem emit {o : Output} (h : w.Tidy k) : (w.emit o).Tidy k := h.same

theorem setReg {a : Nat} {v : Word} (h : w.Tidy k) : (w.setReg a v).Tidy k := h.same

theorem setField {a lo n x : Nat} (h : w.Tidy k) : (w.setField a lo n x).Tidy k := h.setReg

theorem setBits {a : Nat} {m : Word} (h : w.Tidy k) : (w.setBits a m).Tidy k := h.setReg

theorem count {a n : Nat} (h : w.Tidy k) : (w.count a n).Tidy k := h.same

theorem tick {b : Block} {i off : Nat} (h : w.Tidy k) : (w.tick b i off).Tidy k := h.count

theorem wakeIsland {t : Sid} {c : Nat} (h : w.Tidy k) : (w.wakeIsland t c).Tidy k := .ite h.same h

theorem stamp {t : Sid} {src : Nat} (h : w.Tidy k) : (w.stamp t src).2.2.Tidy k := .ite h.same.tick h.same

theorem tailWrite {src : Nat} {r : List Byte} (h : w.Tidy k) : (w.tailWrite src r).Tidy k := h.same

theorem portDrop {stamp : Nat} (h : w.Tidy k) : (w.portDrop stamp).Tidy k := h.same.tick

theorem portAccept {src cls stamp : Nat} {r : List Byte} (h : w.Tidy k) : (w.portAccept src cls stamp r).Tidy k :=
  .ite h.portDrop (.ite (.ite h.same h.portDrop) (.ite h.same h.same))

theorem traceTo {src cls stamp : Nat} {r : List Byte} (h : w.Tidy k) : (w.traceTo src cls stamp r).Tidy k := by
  unfold World.traceTo
  extract_lets v
  have hv : v.Tidy k := by
    simp only [v]
    split
    · exact h
    · exact .ite h.updPart h
  exact .ite hv.portAccept hv

theorem act {t : Sid} {src kind cls arg16 arg32 : Nat} {data : List Byte} (h : w.Tidy k) : (w.act t src kind cls arg16 arg32 data).Tidy k :=
  h.stamp.tailWrite.traceTo

theorem holdRecord {t : Sid} {src state : Nat} {ends : Bool} (h : w.Tidy k) : (w.holdRecord t src state ends).Tidy k := h.stamp.tailWrite

theorem throttle {src : Nat} (h : w.Tidy k) : (w.throttle src).Tidy k := h.same.tick

theorem freezeTail {t : Sid} {cause trigger src : Nat} (h : w.Tidy k) : (World.freezeTail t cause trigger w src).Tidy k := .ite h h.stamp.same

theorem freezePart {t : Sid} {p cause trigger : Nat} (h : w.Tidy k) : (w.freezePart t p cause trigger).Tidy k :=
  ((h.foldl fun _ _ h => h.wakeIsland).foldl fun _ _ h => h.freezeTail).tick

theorem freezeShared {t : Sid} {sev src : Nat} (h : w.Tidy k) : (w.freezeShared t sev src).Tidy k := .ite h.freezeTail h

theorem thawTails {srcs : List Nat} (h : w.Tidy k) : (w.thawTails srcs).Tidy k := h.same

theorem queueEvent {sev : Nat} {r : List Byte} (h : w.Tidy k) : (w.queueEvent sev r).Tidy k := .ite (.ite h.same h.same.tick) h

theorem raiseAs {t : Sid} {src code sev payload extra : Nat} (h : w.Tidy k) : (w.raiseAs t src code sev payload extra).Tidy k := by
  have hs := h.stamp (t := t) (src := src)
  unfold World.raiseAs
  generalize w.stamp t src = z at *
  obtain ⟨st, rs, u⟩ := z
  dsimp (zeta := false) only
  extract_lets v1 v2 v3
  have h1 : v1.Tidy k := World.Tidy.queueEvent hs
  have h2 : v2.Tidy k := by
    simp only [v2]
    split
    · exact h1
    · exact .ite h1.tick h1
  exact h2.tailWrite.traceTo.freezeShared

theorem raise {t : Sid} {src code payload : Nat} (h : w.Tidy k) : (w.raise t src code payload).Tidy k := h.raiseAs

theorem emptyUnits {p : Nat} (h : w.Tidy k) : (w.emptyUnits p).Tidy k := (h.foldl fun _ _ h => h.updCore).foldl fun _ _ h => h.updCluster

theorem stopRun {p : Nat} {keep : Bool} (h : w.Tidy k) : (w.stopRun p keep).Tidy k := by
  unfold World.stopRun
  split
  · exact h
  · extract_lets v1 v2 v3 cask v4
    have h1 : v1.Tidy k := h.foldl fun _ _ h => h.updCore
    clear_value v1
    have h2 : v2.Tidy k := .ite h1 h1.emptyUnits
    clear_value v2
    have h3 : v3.Tidy k := h2.updPart
    clear_value v3
    have h4 : v4.Tidy k := h3.same
    exact .ite (.ite h4.emit h4) h3

theorem endDump {t : Sid} {p result : Nat} (h : w.Tidy k) : (w.endDump t p result).Tidy k := by
  unfold World.endDump
  extract_lets d v1 v2
  have h1 : v1.Tidy k := h.updPart
  have h2 : v2.Tidy k := .ite h1.tick.count h1
  exact h2.stamp.traceTo

theorem cancelDump {t : Sid} {p : Nat} (h : w.Tidy k) : (w.cancelDump t p).Tidy k := .ite h.endDump h

theorem stopJob {t : Sid} {p cause trigger : Nat} (h : w.Tidy k) : (w.stopJob t p cause trigger).Tidy k := h.freezePart.cancelDump.stopRun

theorem metadata {t : Sid} {p src check low : Nat} (h : w.Tidy k) : (w.metadata t p src check low).Tidy k := h.raise.stopJob

theorem race {t : Sid} {p src index queue cause : Nat} (h : w.Tidy k) : (w.race t p src index queue cause).Tidy k := h.raise.stopJob

theorem hbmCount {p a n : Nat} {isWrite : Bool} (h : w.Tidy k) : (w.hbmCount p a n isWrite).Tidy k := h.foldl fun _ _ h => .ite h.tick h.tick.tick

theorem ringEnter {d a off : Nat} (h : w.Tidy k) : (w.ringEnter d a off).Tidy k := h.count

theorem ringLeg {d a b n : Nat} (h : w.Tidy k) : (w.ringLeg d a b n).Tidy k := .ite h h.ringEnter.count

theorem ringCarry {d a e b n fuel : Nat} (h : w.Tidy k) : (w.ringCarry d a e b n fuel).Tidy k := by
  induction fuel generalizing w d a with
  | zero => exact h
  | succ fuel ih => exact .ite h.ringLeg (.ite (ih h.ringLeg.count) (ih h.ringLeg.count))

theorem ringGrains {src p a n : Nat} {isWrite : Bool} (h : w.Tidy k) : (w.ringGrains src p a n isWrite).Tidy k :=
  h.foldl fun _ _ h => .ite h.ringCarry h.ringCarry

theorem hbmFetch {src p a n : Nat} (h : w.Tidy k) : (w.hbmFetch src p a n).2.Tidy k := h.hbmCount.ringGrains

theorem markFormat_version (w : World) (p r : Nat) (e : DirEntry) :
    (w.markFormat p r e).tensor = e.tensor ∧ (w.markFormat p r e).current = e.current ∧ (w.markFormat p r e).version = e.version := by
  unfold World.markFormat
  split
  · cases w.tensor p e.tensor with
    | none => exact ⟨rfl, rfl, rfl⟩
    | some x =>
      show (e.setPenFormat r _).tensor = _ ∧ (e.setPenFormat r _).current = _ ∧ (e.setPenFormat r _).version = _
      unfold DirEntry.setPenFormat
      cases e.current <;> exact ⟨rfl, rfl, rfl⟩
  · exact ⟨rfl, rfl, rfl⟩

theorem markDirty {p a n : Nat} (h : w.Tidy k) : (w.markDirty p a n).Tidy k :=
  h.foldl fun _ _ h => h.foldl fun _ _ h => h.hbmStore.updPartOf fun _ => .updEntry _ fun y => markFormat_version _ p _ y

theorem guardHit {t : Sid} {wsrc wpos : Nat} {x : Nat × Guard} (h : w.Tidy k) : (World.guardHit t wsrc wpos w x).Tidy k :=
  .ite (h.tick.updCore.next fun h => .ite h.raise h) (.ite h h.setReg.setReg.updCore.race)

theorem hitRemote {p a n : Nat} (h : w.Tidy k) : (w.hitRemote p a n).Tidy k := .ite h.same h

theorem hbmLand {t : Sid} {wsrc wpos p a : Nat} {bs : List Byte} (h : w.Tidy k) : (World.hbmLand t wsrc wpos p a w bs).Tidy k :=
  h.hbmStore.markDirty.hitRemote.foldl fun _ _ h => h.guardHit

theorem hbmApply {t : Sid} {wsrc wpos p a : Nat} {bs : List Byte} (h : w.Tidy k) : (w.hbmApply t wsrc wpos p a bs).Tidy k := h.hbmCount.ringGrains.hbmLand

theorem hbmCountMask {p a n : Nat} {mask : List Bool} (h : w.Tidy k) : (w.hbmCountMask p a n mask).Tidy k := h.hbmCount.foldl fun _ _ h => .ite h.tick h

theorem hbmApplyMask {t : Sid} {wsrc wpos p a : Nat} {bs : List Byte} {mask : List Bool} (h : w.Tidy k) : (w.hbmApplyMask t wsrc wpos p a bs mask).Tidy k :=
  .ite h.hbmApply (h.hbmCountMask.ringGrains.foldl fun _ _ h => h.hbmLand)

theorem hbmWrite {t : Sid} {wsrc wpos p a : Nat} {bs : List Byte} (h : w.Tidy k) : (w.hbmWrite t wsrc wpos p a bs).Tidy k := by
  unfold World.hbmWrite
  split
  · exact h.hbmApply
  · exact h.updPart.tick

theorem hbmWriteMask {t : Sid} {wsrc wpos p a : Nat} {bs : List Byte} {mask : List Bool} (h : w.Tidy k) : (w.hbmWriteMask t wsrc wpos p a bs mask).Tidy k :=
  .ite h.hbmWrite (.ite h.hbmApplyMask (h.foldl fun _ _ h => h.hbmWrite))

theorem agentStop {t : Sid} {p src : Nat} (h : w.Tidy k) : (w.agentStop t p src).Tidy k := .ite h (World.Tidy.ite h.setReg (.ite h.setReg h)).stopJob

theorem agentReads {t : Sid} {p src : Nat} {xs : List (Nat × Nat)} (h : w.Tidy k) : (w.agentReads t p src xs).2.Tidy k :=
  .itePair h.agentStop (h.foldl fun _ _ h => h.hbmFetch)

theorem agentReads_some {t : Sid} {p src : Nat} {xs : List (Nat × Nat)} {v u : World} (h : w.Tidy k) (hr : w.agentReads t p src xs = (some v, u)) : v.Tidy k
    := by
  unfold World.agentReads at hr
  split at hr
  · cases hr
  · exact .of_some (Prod.mk.inj hr).1 (h.foldl fun _ _ h => h.hbmFetch)

theorem storeWrite {t : Sid} {wsrc wpos c a : Nat} {bs : List Byte} (h : w.Tidy k) : (w.storeWrite t wsrc wpos c a bs).Tidy k :=
  (h.setStore fun hm => Memory.wf_write _ _ _ hm).foldl fun _ _ h => h.guardHit

/-! #### Statistics -/

theorem addStats {p id : Nat} {y : Tally} (h : w.Tidy k) : (w.addStats p id y).Tidy k := h.updPart

theorem addFlags {p id flags : Nat} (h : w.Tidy k) : (w.addFlags p id flags).Tidy k := .ite h h.updPart

theorem stickyEvents {t : Sid} {p id format old new : Nat} (h : w.Tidy k) : (w.stickyEvents t p id format old new).Tidy k := h.foldl fun _ _ h => .ite h.raise h

theorem closeTensor {t : Sid} {p n : Nat} {x : Tensor × Nat} (h : w.Tidy k) : (World.closeTensor t p n w x).Tidy k :=
  h.hbmCount.hbmStore.hbmCount.updPart.stickyEvents.next fun h => (World.Tidy.ite h.raise.tick h).next fun h => .ite h.raise h

theorem closeStats {t : Sid} {p n : Nat} (h : w.Tidy k) : (w.closeStats t p n).Tidy k := (h.foldl fun _ _ h => h.closeTensor).updPart

/-! #### Issue -/

theorem progressed {t : Sid} {p : Nat} (h : w.Tidy k) : (w.progressed t p).Tidy k := h.updPart

theorem retire {t : Sid} {c : Nat} (h : w.Tidy k) : (w.retire t c).Tidy k := h.updCore.tick.progressed

theorem holdSeq {t : Sid} {c : Nat} {st : SeqState} {x : Held} (h : w.Tidy k) : (w.holdSeq t c st x).Tidy k := h.updCore.holdRecord

theorem endHold {t : Sid} {c : Nat} (h : w.Tidy k) : (w.endHold t c).Tidy k := h.holdRecord.retire

theorem enqueueOp {c : Nat} {e : Engine} {o : IssuedOp} (h : w.Tidy k) : (w.enqueueOp c e o).Tidy k := by
  unfold World.enqueueOp
  dsimp only
  split
  · exact h.updCore.updCore
  · exact h.updCore.updCore
  · exact h.updCore.updCore
  · exact h.updCore.updCluster
  · exact h.updCore.updCluster
  · exact h.updCore.updCluster

theorem retryIssue {t : Sid} {c : Nat} (h : w.Tidy k) : (World.retryIssue t w c).Tidy k := by
  unfold World.retryIssue
  split
  · exact .ite h.enqueueOp.endHold h
  · exact h

theorem retryIssues {t : Sid} {c : Nat} (h : w.Tidy k) : (w.retryIssues t c).Tidy k := h.foldl fun _ _ h => h.retryIssue

/-! #### Operands -/

theorem pushQueue {c q : Nat} {e : QEntry} (h : w.Tidy k) : (w.pushQueue c q e).Tidy k := h.updCore

theorem popQueue {c q : Nat} (h : w.Tidy k) : (w.popQueue c q).Tidy k := h.updCore

theorem popAll {c : Nat} {qs : List Nat} (h : w.Tidy k) : (w.popAll c qs).Tidy k := h.foldl fun _ _ h => h.popQueue

theorem release {c : Nat} {e : QEntry} (h : w.Tidy k) : (w.release c e).Tidy k := by
  unfold World.release
  split
  · exact h
  · exact h.updCore

theorem putTile {c addr number : Nat} {x : Tile} (h : w.Tidy k) : (w.putTile c addr number x).2.Tidy k := h.tunWrite

theorem opRecord {t : Sid} {src : Nat} {e : Engine} {o : IssuedOp} {phase : Nat} (h : w.Tidy k) : (w.opRecord t src e o phase).Tidy k := h.act

theorem finishOp {t : Sid} {src : Nat} {e : Engine} {o : IssuedOp} (h : w.Tidy k) : (w.finishOp t src e o).Tidy k := h.opRecord.updCore.retryIssues

theorem engineMetadata {t : Sid} {c unit check queue index : Nat} (h : w.Tidy k) : (w.engineMetadata t c unit check queue index).Tidy k := h.updCore.metadata

/-! #### MXE -/

theorem countPath {c : Nat} {a b : Tile} (h : w.Tidy k) : (w.countPath c a b).Tidy k := by
  unfold World.countPath
  split
  · exact h
  · exact h.tick.count

theorem updMxe {c : Nat} {f : Mxe → Mxe} (h : w.Tidy k) : (w.updMxe c f).Tidy k := h.updCore

theorem mxeWrite {c : Nat} {run : MxeRun} {x : AccTile} (h : w.Tidy k) : (w.mxeWrite c run x).Tidy k := by
  unfold World.mxeWrite
  dsimp only
  split
  · exact h
  · exact h.putTile.addStats.addFlags.tick.next fun h => .ite h.pushQueue h

theorem mxeDrain {c : Nat} {run : MxeRun} {n i : Nat} (h : w.Tidy k) : (w.mxeDrain c run n i).Tidy k := by
  induction n generalizing w i with
  | zero => exact h
  | succ n ih =>
    unfold World.mxeDrain
    split
    · exact h
    · exact .ite (ih h.mxeWrite) h

theorem mxeFault {t : Sid} {c : Nat} {run : MxeRun} {check queue index : Nat} (h : w.Tidy k) : (w.mxeFault t c run check queue index).Tidy k :=
  h.mxeDrain.updMxe.setReg.engineMetadata

theorem mxeStart {t : Sid} {c : Nat} (h : w.Tidy k) : (w.mxeStart t c).Tidy k := by
  unfold World.mxeStart
  split
  · exact .ite h.throttle (h.updMxe.opRecord.next fun h => .ite h h.mxeFault)
  · exact h

theorem mxeStepOn {t : Sid} {c : Nat} {run : MxeRun} {n i : Nat} {ch : Option QEntry} {a b : QEntry} (h : w.Tidy k) : (w.mxeStepOn t c run n i ch a b).Tidy
    k := by
  unfold World.mxeStepOn
  extract_lets d qa qb qc qs open' c0 x first es v1 done
  clear_value c0
  split
  · exact h.popAll.mxeFault
  · split
    · exact h.popAll.mxeFault
    · split
      · exact h.popAll.mxeFault
      · extract_lets both y y' v2
        have h1 : v1.Tidy k := h.popAll.foldl fun _ _ h => h.release
        clear_value v1
        have h2 : v2.Tidy k := (h1.elim fun _ => h1.countPath).count
        exact h2.updMxe

theorem mxeKStep {t : Sid} {c : Nat} {run : MxeRun} (h : w.Tidy k) : (w.mxeKStep t c run).Tidy k :=
  .ite h (.ite h (by
    split
    · exact h.mxeStepOn
    · exact h.mxeStepOn
    · exact h))

/-! #### Start-up -/

theorem trainFabric {t : Sid} {geo fwMajor : Nat} {b : BootIn} (h : w.Tidy k) : (w.trainFabric t geo fwMajor b).Tidy k :=
  .ite (h.same.foldl fun _ _ h => h.raise) (h.same.foldl fun _ _ h => by
    split
    · exact h
    · exact h.raise)

theorem makeParts (h : w.Tidy k) : (w.makeParts).Tidy k := h.foldl fun _ _ h => h.updPart

end World.Tidy

end Sys2Proof.Machine

namespace Sys2Proof.Machine

namespace World.Tidy
variable {k : Track} {w : World}

/-! #### VXE -/

theorem updVxe {c : Nat} {f : Vxe → Vxe} (h : w.Tidy k) : (w.updVxe c f).Tidy k := h.updCore

theorem vxeFault {t : Sid} {c : Nat} {o : IssuedOp} {check queue index : Nat} (h : w.Tidy k) : (w.vxeFault t c o check queue index).Tidy k :=
  h.updVxe.setReg.engineMetadata

theorem vxeFlags {c : Nat} {d : List Byte} {fl : Nat} (h : w.Tidy k) : (w.vxeFlags c d fl).Tidy k := .ite (.ite h h.setBits) h.addFlags

theorem vxeEmit {t : Sid} {c : Nat} {run : VxeRun} {rows cols : Nat} {cells : Cells} (h : w.Tidy k) : (w.vxeEmit t c run rows cols cells).Tidy k :=
  .ite h.updVxe.count (by
    split
    · exact h
    · exact .ite h.vxeFault (h.putTile.count.addStats.next fun h => .ite h.pushQueue h))

theorem vxeStart {t : Sid} {c : Nat} (h : w.Tidy k) : (w.vxeStart t c).Tidy k := by
  unfold World.vxeStart
  split
  · exact .ite h.throttle (h.updVxe.opRecord.next fun h => .ite h h.vxeFault)
  · exact h

theorem vxeTake {c : Nat} {d : List Byte} {accA : Nat → Bool} {maxCols : Nat} {a : VInput} {v : World} (h : w.Tidy k)
    (hr : w.vxeTake c d accA maxCols = some (.ok (a, v))) : v.Tidy k := by
  unfold World.vxeTake at hr
  extract_lets i sa sb regs at hr
  obtain ⟨es, -, he⟩ := Option.map_eq_some_iff.mp hr
  extract_lets ha hb ta at he
  clear_value ta
  split at he
  · cases he
  · extract_lets tb at he
    clear_value tb
    split at he
    · cases he
    · cases he
      exact h.popAll

theorem releaseAll {c : Nat} {es : List QEntry} (h : w.Tidy k) : (w.releaseAll c es).Tidy k := h.foldl fun _ _ h => h.release

theorem setVxe {c : Nat} {run : VxeRun} (h : w.Tidy k) : (w.setVxe c run).Tidy k := h.updVxe

theorem vxeLane {c : Nat} {d : List Byte} {l : Lane} (h : w.Tidy k) : (w.vxeLane c d l).Tidy k := h.updVxe.vxeFlags

theorem countStages {c : Nat} {d : List Byte} {cols n : Nat} (h : w.Tidy k) : (w.countStages c d cols n).Tidy k := h.count

theorem vxeDone {t : Sid} {c : Nat} {run : VxeRun} (h : w.Tidy k) : (w.vxeDone t c run).Tidy k := .ite h h.updVxe.finishOp

theorem vxeInputStep {t : Sid} {c : Nat} {run : VxeRun} {v : World} (h : w.Tidy k) (hr : w.vxeInputStep t c run = some v) : v.Tidy k := by
  unfold World.vxeInputStep at hr
  extract_lets d op left at hr
  clear_value op
  split at hr
  · cases hr
  · split at hr
    · exact .of_some hr h.vxeDone
    · split at hr
      · cases hr
      · exact .of_some hr h.vxeFault
      next e1 =>
        dsimp only at hr
        have h1 := (h.vxeTake e1)
        split at hr
        · exact .of_some hr h1.vxeLane.countStages.releaseAll.setVxe
        · exact .of_some hr h1.vxeLane.countStages.releaseAll.vxeEmit.setVxe
        · exact .of_some hr h1.vxeLane.countStages.releaseAll.vxeFlags.vxeEmit.setVxe
        · exact .of_some hr h1.vxeLane.countStages.releaseAll.vxeEmit.setVxe

theorem vxeOffsets {t : Sid} {c : Nat} {run : VxeRun} {v : World} (h : w.Tidy k) (hr : (w.vxeOffsets t c run) = some v) : v.Tidy k := by
  unfold World.vxeOffsets at hr
  dsimp only at hr
  split at hr
  · cases hr
  · split at hr
    · exact .of_some hr h.vxeFault
    · split at hr
      · exact .of_some hr h.vxeFault
      · exact .of_some hr h.popQueue.release.setVxe

theorem vxeSegmentOut {t : Sid} {c : Nat} {run : VxeRun} {v : World} (h : w.Tidy k) (hr : (w.vxeSegmentOut t c run) = some v) : v.Tidy k := by
  unfold World.vxeSegmentOut at hr
  dsimp only at hr
  split at hr
  · exact .of_some hr h.vxeDone
  · split at hr
    · cases hr
    · exact .of_some hr h.vxeFlags.vxeEmit.setVxe

theorem vxeMatmulOn {t : Sid} {c : Nat} {run : VxeRun} {n step : Nat} {ch : Option QEntry} {a b : QEntry} (h : w.Tidy k) :
    (w.vxeMatmulOn t c run n step ch a b).Tidy k := by
  unfold World.vxeMatmulOn
  extract_lets d i f ctx qs fault start
  have hfault : ∀ n x q e, (fault n x q e).Tidy k := fun _ _ _ _ => h.popAll.vxeFault
  clear_value start fault
  split
  · exact hfault _ _ _ _
  · split
    · exact hfault _ _ _ _
    · split
      · exact hfault _ _ _ _
      · extract_lets va vb live r v y rest base
        have hv : v.Tidy k := h.popAll.releaseAll.vxeFlags
        clear_value v
        exact .ite hv.vxeEmit.setVxe hv.setVxe

theorem vxeMatmulStep {t : Sid} {c : Nat} {run : VxeRun} {v : World} (h : w.Tidy k) (hr : (w.vxeMatmulStep t c run) = some v) : v.Tidy k := by
  unfold World.vxeMatmulStep at hr
  dsimp only at hr
  split at hr
  · exact .of_some hr h.vxeDone
  · split at hr
    · cases hr
    · split at hr
      · exact .of_some hr h.vxeMatmulOn
      · exact .of_some hr h.vxeMatmulOn
      · cases hr

theorem vxeIndexStep {t : Sid} {c : Nat} {run : VxeRun} {v : World} (h : w.Tidy k) (hr : w.vxeIndexStep t c run = some v) : v.Tidy k := by
  unfold World.vxeIndexStep at hr
  extract_lets d i f size left ctx base idx at hr
  split at hr
  · cases hr
  · split at hr
    · exact .of_some hr h.vxeDone
    · split at hr
      · cases hr
      · exact .of_some hr h.vxeFault
      next e1 =>
        have h1 := h.vxeTake e1
        extract_lets live at' run1 v1 eb cells r at hr
        split at hr
        · exact .of_some hr h1.vxeFault
        · have h2 : v1.Tidy k := h1.releaseAll
          split at hr
          · exact .of_some hr h2.vxeEmit.setVxe
          · have h3 : r.1.Tidy k := List.foldlRecOn at' _ (motive := fun st : World × Nat => st.1.Tidy k) h2.count fun _ h _ _ => h.tunWrite
            exact .of_some hr h3.vxeFlags.setVxe

theorem vxeNext {t : Sid} {c : Nat} {run : VxeRun} {v : World} (h : w.Tidy k) (hr : (w.vxeNext t c run) = some v) : v.Tidy k := by
  unfold World.vxeNext at hr
  dsimp only at hr
  split at hr
  · exact h.vxeMatmulStep hr
  · exact h.vxeMatmulStep hr
  · split at hr
    · exact .of_some hr h.vxeDone
    · exact h.vxeIndexStep hr
  · split at hr
    · exact .of_some hr h.vxeDone
    · exact h.vxeIndexStep hr
  · split at hr
    · exact h.vxeInputStep hr
    · split at hr
      · exact h.vxeSegmentOut hr
      · exact h.vxeOffsets hr
  · split at hr
    · exact .of_some hr h.vxeDone
    · exact h.vxeInputStep hr

theorem vxeRun {t : Sid} {c n : Nat} (h : w.Tidy k) : (w.vxeRun t c n).Tidy k := by
  induction n generalizing w with
  | zero => exact h
  | succ n ih =>
    unfold World.vxeRun
    refine .ite h ?_
    split
    · exact h
    · split
      · exact h
      next e1 => exact ih (h.vxeNext e1)

theorem vxeCommand {t : Sid} {core : CoreId} {op : Nat} (h : w.Tidy k) : (w.vxeCommand t core op).Tidy k :=
  .ite h (by
    split
    · exact h
    · exact .ite h.vxeStart.vxeRun h)

/-! #### Load -/

theorem writeProgram {x : Bundle} {c : Nat} (h : w.Tidy k) : (w.writeProgram x c).Tidy k := h.tunWrite

theorem zeroLocal {p : Nat} {x : Bundle} (h : w.Tidy k) : (w.zeroLocal p x).Tidy k := by
  unfold World.zeroLocal
  extract_lets v
  have hv : v.Tidy k := h.foldl fun _ _ h => h.setTun fun hm => Memory.wf_zero _ _ _ hm
  exact hv.foldl fun _ _ h => h.setStore fun hm => Memory.wf_zero _ _ _ hm

theorem resetUnits {p : Nat} {x : Bundle} (h : w.Tidy k) : (w.resetUnits p x).Tidy k := h.same.same

theorem writeDirectory {p base : Nat} (h : w.Tidy k) : (w.writeDirectory p base).Tidy k := h.foldl fun _ _ h => h.hbmStore

theorem install {p : Nat} {x : Bundle} (h : w.Tidy .canonical) : (w.install p x).Tidy .canonical := by
  unfold World.install
  extract_lets env area base v1 v2 v3 v4 v5
  have h1 : v1.Tidy .canonical := h.sameMemories
  clear_value v1
  have h2 : v2.Tidy .canonical := h1.zeroLocal.resetUnits
  clear_value v2
  have h3 : v3.Tidy .canonical := h2.foldl fun _ _ h => h.writeProgram
  clear_value v3
  have h4 : v4.Tidy .canonical := h3.setPart
  clear_value v4
  exact h4.writeDirectory.foldl fun _ _ h => h.setReg

/-! #### Packets that leave -/

theorem route {dst phys : Nat} (h : w.Tidy k) : (w.route dst phys).2.Tidy k :=
  .itePair h (by
    split
    · exact h
    · split
      · exact .itePair h.same.tick h.same
      · exact h.same)

theorem packetRecord {t : Sid} {kind dir peer tag address : Nat} (h : w.Tidy k) : (w.packetRecord t kind dir peer tag address).Tidy k := h.act

theorem updPort {i : Nat} {f : Port → Port} (h : w.Tidy k) : (w.updPort i f).Tidy k := h.same

theorem frameOut {port kind : Nat} {p : Packet} (h : w.Tidy k) : (w.frameOut port kind p).Tidy k := by
  unfold World.frameOut
  extract_lets seq again v fab
  have hv : v.Tidy k := h.updPort
  clear_value v
  exact hv.same.tick.count

theorem sendFrom {t : Sid} {src kind dst source tag address : Nat} {ordered stepped : Bool} {payload : List Byte} {mask : List Bool} (h : w.Tidy k) :
    (w.sendFrom t src kind dst source tag address ordered stepped payload mask).Tidy k :=
  h.of_sent (w.sendFrom_sent t _ _ _ _ _ _ _ _ _ _)

theorem sendPacket {t : Sid} {kind dst source tag address : Nat} {ordered stepped : Bool} {payload : List Byte} (h : w.Tidy k) : (w.sendPacket t kind dst
    source tag address ordered stepped payload).Tidy k :=
  h.sendFrom

theorem copyTo {kind : Nat} {p : Packet} {q : Nat} (h : w.Tidy k) : (World.copyTo kind p w q).Tidy k := by
  unfold World.copyTo
  split
  · exact h
  · exact .ite h.tick.tick h.tick.frameOut

theorem sendMulticast {t : Sid} {kind source tag offset : Nat} {stepped : Bool} {payload : List Byte} (h : w.Tidy k) : (w.sendMulticast t kind source tag
    offset stepped payload).Tidy k :=
  (h.updPart.foldl fun _ _ h => h.copyTo).packetRecord.emit

theorem noPosition {pos : Nat} (h : w.Tidy k) : (w.noPosition pos).Tidy k := h.setReg

/-! #### NMR -/

theorem tellReplicas {t : Sid} {src p a : Nat} {bs : List Byte} (h : w.Tidy k) : (w.tellReplicas t src p a bs).Tidy k :=
  .ite (h.foldl fun _ _ h => h.sendMulticast) h

theorem homeWrite {t : Sid} {src p a : Nat} {bs : List Byte} (h : w.Tidy k) : (w.homeWrite t src p a bs).Tidy k := h.hbmWrite.tellReplicas

theorem nmrStop {t : Sid} {p st check table row : Nat} (h : w.Tidy k) : (w.nmrStop t p st check table row).Tidy k := h.same.setReg.setReg.metadata

theorem windowAdd {p : Nat} {e : DirEntry} {win : Bool × Int} {row col : Nat} {cells : List (Int × Bool × Bool)} {v : World} (h : w.Tidy k) (hr :
    (w.windowAdd p e win row col cells) = .ok v) : v.Tidy k := by
  unfold World.windowAdd at hr
  dsimp only at hr
  split at hr
  · cases hr
  · split at hr
    · cases hr
    · split at hr
      · cases hr
      · exact .of_ok hr h.updPart

theorem addI64 {t : Sid} {p st : Nat} {e : DirEntry} {payload : List Byte} {x : Nat × Nat} (h : w.Tidy k) : (World.addI64 t p st e payload w x).Tidy k :=
  h.homeWrite

theorem addF32 {t : Sid} {p st : Nat} {e : DirEntry} {payload : List Byte} {x : Nat × Nat} (h : w.Tidy k) : (World.addF32 t p st e payload w x).Tidy k :=
  h.setBits.homeWrite

theorem nmrAdd {t : Sid} {p op : Nat} {c : NmrCmd} {win : Option (Bool × Int)} {st : Nat} {e : DirEntry} {v : World} (h : w.Tidy k) (hr : (w.nmrAdd t p op
    c win st e) = .ok v) : v.Tidy k := by
  unfold World.nmrAdd at hr
  dsimp only at hr
  split at hr
  · cases hr
  · split at hr
    · exact h.windowAdd hr
    · split at hr
      · cases hr
      · exact .of_ok hr (.ite (h.foldl fun _ _ h => h.addI64) (h.foldl fun _ _ h => h.addF32))

theorem forwardNmr {t : Sid} {op st dest : Nat} {c : NmrCmd} (h : w.Tidy k) : (w.forwardNmr t op st dest c).Tidy k := h.tick.sendFrom

theorem toKiln {kind p : Nat} {fields : List Nat} {payload : List Byte} (h : w.Tidy k) : (w.toKiln kind p fields payload).Tidy k := h.emit

theorem readRow {t : Sid} {p : Nat} {e : DirEntry} {win : Bool × Int} {row : Nat × AMap (Int × Bool × Bool)} (h : w.Tidy k) : (World.readRow t p e win w
    row).Tidy k :=
  h.tick.count.next fun h => (World.Tidy.ite h.setBits.raise.updPart h.setBits).toKiln

theorem readoutTable {t : Sid} {p : Nat} {e : DirEntry} (h : w.Tidy k) : (w.readoutTable t p e).Tidy k := .ite h (h.foldl fun _ _ h => h.readRow).updPart.toKiln

theorem writeEntry {p table : Nat} (h : w.Tidy k) : (w.writeEntry p table).Tidy k := by
  unfold World.writeEntry
  split
  · exact h
  · exact h.hbmStore

theorem setPenOver_version (e : DirEntry) (xs : List (Nat × Nat × Nat)) :
    (e.setPenOver xs).tensor = e.tensor ∧ (e.setPenOver xs).current = e.current ∧ (e.setPenOver xs).version = e.version := by
  unfold DirEntry.setPenOver
  cases e.current <;> exact ⟨rfl, rfl, rfl⟩

theorem putOverride {p table row pos step : Nat} (h : w.Tidy k) : (w.putOverride p table row pos step).Tidy k := by
  unfold World.putOverride
  split
  · exact h
  · extract_lets rest xs v1 v2 v3
    have h1 : v1.Tidy k := h.updPartOf fun _ => .updEntry _ fun y => setPenOver_version y _
    have h2 : v2.Tidy k := h1.hbmStore
    exact (World.Tidy.ite h2.hbmStore h2).writeEntry

theorem decideMigration {t : Sid} {p c : Nat} {e : DirEntry} {row target : Nat} (h : w.Tidy k) : (w.decideMigration t p c e row target).Tidy k :=
  .ite h (.ite h.tick (by
    split
    · exact .ite h.tick (.ite (h.tick.putOverride.next fun h => .ite h.sendMulticast h) (h.tick.updPart.putOverride.next fun h => .ite h.sendMulticast h))
    · exact .ite h.tick (h.tick.updPart.putOverride.next fun h => .ite h.sendMulticast h)))

theorem setPenFormat_version (e : DirEntry) (r f : Nat) :
    (e.setPenFormat r f).tensor = e.tensor ∧ (e.setPenFormat r f).current = e.current ∧ (e.setPenFormat r f).version = e.version := by
  unfold DirEntry.setPenFormat
  cases e.current <;> exact ⟨rfl, rfl, rfl⟩

theorem copyRecord {t : Sid} {p : Nat} {e : DirEntry} {r : Nat} (h : w.Tidy k) : (w.copyRecord t p e r).Tidy k := by
  unfold World.copyRecord
  extract_lets o hits v1 v2 v3 v4
  have h2 : v2.Tidy k := h.hbmStore.hbmCount.hbmCount
  have h3 : v3.Tidy k := h2.foldl fun _ _ h => h.tick
  have h4 : v4.Tidy k := h3.updPartOf fun _ => .updEntry _ fun y => setPenFormat_version y _ _
  exact h4.hitRemote.foldl fun _ _ h => h.guardHit

theorem clearDirty {p : Nat} {e : DirEntry} {r : Nat} (h : w.Tidy k) : (w.clearDirty p e r).Tidy k := h.hbmStore

theorem releaseHeld {t : Sid} {p table : Nat} (h : w.Tidy k) : (w.releaseHeld t p table).Tidy k :=
  h.updPart.foldl fun _ _ h => .ite h.hbmApply.toKiln h.hbmApply

theorem copyOverrides {p : Nat} {e : DirEntry} (h : w.Tidy k) : (w.copyOverrides p e).Tidy k := h.hbmStore.foldl fun _ _ h => h.tick

theorem catchUp {t : Sid} {p table : Nat} (h : w.Tidy k) : (w.catchUp t p table).Tidy k := by
  unfold World.catchUp
  split
  · exact h
  · refine .ite h ?_
    extract_lets v1 v2 v3
    have h1 : v1.Tidy k := h.foldl fun _ _ h => h.copyRecord.clearDirty
    have h2 : v2.Tidy k := .ite h1.copyOverrides h1
    have h3 : v3.Tidy k := h2.updPartOf fun _ => .updEntry _ fun _ => ⟨rfl, rfl, rfl⟩
    exact h3.writeEntry.releaseHeld

theorem firstCopy {t : Sid} {p : Nat} (h : w.Tidy k) : (w.firstCopy t p).Tidy k := h.foldl fun _ _ h => h.foldl fun _ _ h => h.copyRecord

/-! #### AXE -/

theorem updStream {c serial : Nat} {f : AxeRun → AxeRun} (h : w.Tidy k) : (w.updStream c serial f).Tidy k := h.updCore

theorem dropStream {c serial : Nat} (h : w.Tidy k) : (w.dropStream c serial).Tidy k := h.updCore

theorem sweepStreams {c : Nat} (h : w.Tidy k) : (w.sweepStreams c).Tidy k := h.foldl fun _ _ h => h.dropStream

theorem axeStart {t : Sid} {c n : Nat} (h : w.Tidy k) : (w.axeStart t c n).Tidy k := by
  induction n generalizing w with
  | zero => exact h
  | succ n ih =>
    unfold World.axeStart
    split
    · exact h
    · exact .ite h (.ite h.throttle (ih h.updCore.opRecord))

theorem axeStop {t : Sid} {c : Nat} {o : IssuedOp} {code queue index pos : Nat} (h : w.Tidy k) : (w.axeStop t c o code queue index pos).Tidy k :=
  .ite h.updCore.setReg.updCore.stopJob (.ite h.updCore.setReg.updCore.race (.ite h.updCore.setReg.noPosition.engineMetadata (.ite
    h.updCore.setReg.updCore.metadata h.updCore.setReg.engineMetadata)))

theorem axeGrains {c off a n : Nat} (h : w.Tidy k) : (w.axeGrains c off a n).Tidy k := h.count

theorem takeTag {c kind : Nat} (h : w.Tidy k) : (w.takeTag c kind).2.Tidy k := h.updCore

theorem axeWaits {t : Sid} {c pos : Nat} (h : w.Tidy k) : (w.axeWaits t c pos).Tidy k := .ite h.updCore.raise h

theorem axeFetch {t : Sid} {c : Nat} {r : AxeRun} {x : Nat × Nat × Nat} {n : Nat} {last : Bool} {a : Option (List Byte)} {v : World} (h : w.Tidy k) (hr :
    (w.axeFetch t c r x n last) = .ok (a, v)) : v.Tidy k := by
  unfold World.axeFetch at hr
  dsimp only at hr
  split at hr
  · cases hr
  · split at hr
    · split at hr
      · cases hr
      · exact .of_pair hr h.hbmFetch.axeGrains
    · exact .of_pair hr h.axeGrains
    · split at hr
      · exact .of_pair hr h
      · split at hr
        · exact .of_pair hr h
        · split at hr
          · cases hr
          · split at hr
            · exact .of_pair hr h.axeWaits
            · exact .of_pair hr h.takeTag.updStream.axeGrains.sendPacket

theorem sendWrites {t : Sid} {c : Nat} {o : IssuedOp} {pos off : Nat} {ordered : Bool} {bs : List Byte} {fuel sent : Nat} (h : w.Tidy k) :
    (w.sendWrites t c o pos off ordered bs fuel sent).2.Tidy k := by
  induction fuel generalizing w sent with
  | zero => exact h
  | succ n ih =>
    unfold World.sendWrites
    exact .itePair h (.itePair h.axeWaits (ih h.takeTag.updCore.axeGrains.sendPacket))

theorem axePut {t : Sid} {c : Nat} {r : AxeRun} {x : Nat × Nat × Nat} {byAddress ordered : Bool} {bs : List Byte} {a : Bool} {v : World} (h : w.Tidy k) (hr
    : (w.axePut t c r x byAddress ordered bs) = .ok (a, v)) : v.Tidy k := by
  unfold World.axePut at hr
  dsimp only at hr
  split at hr
  · cases hr
  · split at hr
    · split at hr
      · cases hr
      · split at hr
        · cases hr
        · exact .of_pair hr h.homeWrite.axeGrains
    · exact .of_pair hr h.storeWrite.axeGrains
    · split at hr
      · cases hr
      · split at hr
        · cases hr
        · exact .of_pair hr h.sendWrites.updStream

theorem axeTile {t : Sid} {c : Nat} {r : AxeRun} {x : Nat × Nat × Nat} {last : Bool} {a : Option (List Byte)} {v : World} (h : w.Tidy k) (hr : (w.axeTile t
    c r x last) = .ok (a, v)) : v.Tidy k := by
  unfold World.axeTile at hr
  dsimp only at hr
  split at hr
  · cases hr
  next e1 => exact .of_pair hr (h.axeFetch e1)
  next e1 =>
    split at hr
    · cases hr
    · split at hr
      · exact .of_pair hr (h.axeFetch e1)
      · split at hr
        · split at hr
          · cases hr
          next e2 => exact .of_pair hr ((h.axeFetch e1).axeFetch e2)
          next e2 => exact .of_pair hr ((h.axeFetch e1).axeFetch e2)
        · split at hr
          · cases hr
          next e2 => exact .of_pair hr ((h.axeFetch e1).axeFetch e2)

theorem axeEmit {t : Sid} {c : Nat} {r : AxeRun} (h : w.Tidy k) : (w.axeEmit t c r).Tidy k :=
  .ite h (by
    split
    · exact h.axeStop
    · split
      · exact h.axeStop
      next e1 => exact h.axeTile e1
      next e1 => exact (h.axeTile e1).tunWrite.updStream.updCore.pushQueue)

theorem axeReread {t : Sid} {c : Nat} {r : AxeRun} {g : Guard} (h : w.Tidy k) : (w.axeReread t c r g).Tidy k :=
  .ite h.updCore (by
    split
    · exact h.updCore
    · split
      · exact h.axeStop
      next e1 => exact h.axeTile e1
      next e1 => exact (h.axeTile e1).tunWrite.updCore)

theorem axeFinish {t : Sid} {c serial : Nat} (h : w.Tidy k) : (w.axeFinish t c serial).Tidy k := by
  unfold World.axeFinish
  split
  · exact h
  · exact .ite h.finishOp.dropStream h

theorem axeAct {t : Sid} {c serial kind : Nat} {f : World → AxeRun → World} (h : w.Tidy k) (hf : ∀ (v : World) (r : AxeRun), v.Tidy k → (f v r).Tidy k) :
    (w.axeAct t c serial kind f).Tidy k := by
  unfold World.axeAct
  refine .ite h ?_
  extract_lets v
  have hv : v.Tidy k := h.sweepStreams.axeStart.retryIssues.axeStart
  clear_value v
  split
  · exact hv
  · exact .ite hv (.ite hv (hf _ _ hv).axeFinish)

theorem axeStoreTile {t : Sid} {c : Nat} {r : AxeRun} (h : w.Tidy k) : (w.axeStoreTile t c r).Tidy k := by
  unfold World.axeStoreTile
  dsimp only
  split
  · exact h
  · exact .ite h.axeStop (.ite h.axeStop (by
      split
      · exact h.axeStop
      · exact .ite h (by
          split
          · exact h.axeStop
          next e1 => exact h.axePut e1
          next e1 => exact (h.axePut e1).popQueue.release.updStream)))

theorem axeMove {t : Sid} {c serial fuel : Nat} (h : w.Tidy k) : (w.axeMove t c serial fuel).Tidy k := by
  induction fuel generalizing w with
  | zero => exact h
  | succ n ih =>
    unfold World.axeMove
    split
    · exact h
    · extract_lets d last
      refine .ite h ?_
      split
      · refine .ite h (.ite h.axeWaits ?_)
        split
        · exact h.axeStop
        next e => exact h.axeFetch e
        next e =>
          have hf := h.axeFetch e
          split
          · exact hf.axeStop
          next e => exact ih (hf.axePut e).updStream
      · exact h.axeStop

theorem setZeroBit {c zmap n : Nat} {e : QEntry} (h : w.Tidy k) : (w.setZeroBit c zmap n e).Tidy k := h.tunWrite.updCore

theorem axeRelayNext {t : Sid} {c : Nat} {r : AxeRun} (h : w.Tidy k) : (w.axeRelayNext t c r).Tidy k :=
  .ite h (by
    split
    · exact .ite h.axeStop (World.Tidy.ite h.setZeroBit h).updCore.pushQueue.updStream
    · exact .ite h.pushQueue.updStream.updStream h)

theorem resolveGuess {c queue stream number : Nat} {real : QEntry} {zero : Bool} (h : w.Tidy k) : (w.resolveGuess c queue stream number real zero).Tidy k :=
  h.updCore.count.foldl fun _ _ h => h.countPath

end World.Tidy

end Sys2Proof.Machine

namespace Sys2Proof.Machine

namespace World.Tidy
variable {k : Track} {w : World}

/-! #### Ethernet -/

theorem sendDatagram {e : EthEntry} {payload : List Byte} (h : w.Tidy k) : (w.sendDatagram e payload).Tidy k := .ite h.tick.emit h

theorem sendFrame {port : Nat} {bytes : List Byte} (h : w.Tidy k) : (w.sendFrame port bytes).Tidy k := .ite h.tick.emit h

theorem hear {port : Nat} {f : World → World} (h : w.Tidy k) (hf : ∀ (v : World), v.Tidy k → (f v).Tidy k) : (w.hear port f).Tidy k :=
  .ite h (.ite (hf _ h.tick) h.tick)

/-! #### GSU and sort-unique -/

theorem localRead {src p c a n : Nat} {bs : List Byte} {v : World} (h : w.Tidy k) (hr : w.localRead src p c a n = .ok (bs, v)) : v.Tidy k :=
  h.of_reads (w.localRead_readsOnly src p c a n) hr

theorem localStore {t : Sid} {src p c a : Nat} {bs : List Byte} (h : w.Tidy k) : (w.localStore t src p c a bs).Tidy k := by
  unfold World.localStore
  split
  · exact h.homeWrite
  · exact h.storeWrite
  · exact h

theorem putAll {t : Sid} {src p c : Nat} {outs : List (Nat × List Byte)} {v : World} (h : w.Tidy k) (hr : (w.putAll t src p c outs) = .ok v) : v.Tidy k := by
  unfold World.putAll at hr
  split at hr
  · cases hr
  · exact .of_ok hr (h.foldl fun _ _ h => h.localStore)

theorem updSuq {c : Nat} {f : Suq → Suq} (h : w.Tidy k) : (w.updSuq c f).Tidy k := h.updCluster

theorem updGsu {c : Nat} {f : Gsu → Gsu} (h : w.Tidy k) : (w.updGsu c f).Tidy k := h.updCluster

theorem suqStop {t : Sid} {c : Nat} {o : IssuedOp} {e : Nat × Nat} (h : w.Tidy k) : (w.suqStop t c o e).Tidy k :=
  h.updSuq.updCore.next fun h => .ite h.setReg.stopJob (.ite h.setReg.race h.setReg.metadata)

theorem suqKeys {p c : Nat} {d : List Byte} {o : IssuedOp} {ks : List Nat} {v : World} (h : w.Tidy k) (hr : w.suqKeys p c d o = .ok (ks, v)) : v.Tidy k := by
  unfold World.suqKeys at hr
  extract_lets src a n at hr
  split at hr
  · split at hr
    · cases hr
    next e =>
      extract_lets m at hr
      split at hr
      · cases hr
      · exact .of_map hr (fun _ _ he => (h.localRead e).localRead he) fun _ => rfl
  · split at hr
    · cases hr
    · exact .of_map hr (fun _ _ he => h.localRead he) fun _ => rfl

theorem suqRun {t : Sid} {c : Nat} {o : IssuedOp} (h : w.Tidy k) : (w.suqRun t c o).Tidy k := by
  unfold World.suqRun
  extract_lets p d
  split
  · exact h.suqStop
  next e1 =>
    extract_lets v1 us inv out counts outs
    have h1 : v1.Tidy k := (h.suqKeys e1).count
    clear_value v1 outs
    split
    · exact h1.suqStop
    next e2 =>
      extract_lets v2 v3
      have h2 : v2.Tidy k := (h1.putAll e2).same
      clear_value v2
      exact h2.count.count.updSuq.finishOp

theorem gsuStop {t : Sid} {c : Nat} {o : IssuedOp} {tensor row : Nat} {e : Nat × Nat} (h : w.Tidy k) : (w.gsuStop t c o tensor row e).Tidy k :=
  h.updGsu.updCore.next fun h => .ite h.setReg.setReg.stopJob (.ite h.setReg.setReg.race (.ite h.setReg.setReg.noPosition.metadata h.setReg.setReg.metadata))

theorem gsuKeyList {p c : Nat} {d : List Byte} {o : IssuedOp} {ks : List Nat} {v : World} (h : w.Tidy k) (hr : w.gsuKeyList p c d o = .ok (ks, v)) :
    v.Tidy k := by
  unfold World.gsuKeyList at hr
  extract_lets src a at hr
  split at hr
  · split at hr
    · cases hr
    next e => exact .of_map hr (fun _ _ he => (h.localRead e).localRead he) fun _ => rfl
  · exact .of_map hr (fun _ _ he => h.localRead he) fun _ => rfl

theorem gsuDone {t : Sid} {c : Nat} {o : IssuedOp} (h : w.Tidy k) : (w.gsuDone t c o).Tidy k := h.updGsu.finishOp

theorem gsuTag {c kind : Nat} (h : w.Tidy k) : (w.gsuTag c kind).2.Tidy k := by
  rw [World.gsuTag]
  dsimp only
  exact h.updGsu

theorem requestRow {t : Sid} {c pos off : Nat} {e : DirEntry} {key : Nat} (h : w.Tidy k) : (w.requestRow t c pos off e key).Tidy k :=
  h.foldl fun _ _ h => h.gsuTag.updGsu.sendPacket

theorem gatherRow {p c : Nat} {e : DirEntry} {key : Nat × Nat} {a : List Byte} {v : World} (h : w.Tidy k) (hr : (w.gatherRow p c e key) = .ok (a, v)) :
    v.Tidy k := by
  unfold World.gatherRow at hr
  dsimp only at hr
  split at hr
  · split at hr
    · cases hr
    · exact .of_result hr h.tick.hbmFetch
  · exact .of_pair hr h.tick

theorem gatherRows {p c : Nat} {e : DirEntry} {xs : List (Nat × Nat)} {rows : List (List Byte)} {v : World} (h : w.Tidy k)
    (hr : w.gatherRows p c e xs = .ok (rows, v)) : v.Tidy k := by
  induction xs generalizing w v rows with
  | nil => exact .of_pair hr h
  | cons x xs ih =>
    unfold World.gatherRows at hr
    split at hr
    · cases hr
    next he => exact .of_map hr (fun _ _ hu => ih (h.gatherRow he) hu) fun _ => rfl

theorem gatherValues {p c : Nat} {d : List Byte} {o : IssuedOp} {dim : Nat} {rows : List (List Val)} {a : List (List Val)} {v : World} (h : w.Tidy k) (hr :
    (w.gatherValues p c d o dim rows) = .ok (a, v)) : v.Tidy k := by
  unfold World.gatherValues at hr
  dsimp only at hr
  split at hr
  · exact .of_pair hr h
  · split at hr
    · cases hr
    next e1 =>
      split at hr
      · cases hr
      · split at hr
        · cases hr
        next e2 =>
          split at hr
          · cases hr
          · exact .of_pair hr ((h.localRead e1).localRead e2)

theorem gatherFinish {t : Sid} {c : Nat} {o : IssuedOp} {e : DirEntry} {keys : List Nat} (h : w.Tidy k) : (w.gatherFinish t c o e keys).Tidy k := by
  unfold World.gatherFinish
  dsimp only
  split
  · exact h.gsuStop
  next e1 => exact .ite (by
        split
        · exact (h.gatherRows e1).gsuStop
        next e2 => exact ((h.gatherRows e1).putAll e2).gsuDone) (by
        split
        · exact (h.gatherRows e1).gsuStop
        next e2 =>
          split
          · exact ((h.gatherRows e1).gatherValues e2).gsuStop
          next e3 => exact (((h.gatherRows e1).gatherValues e2).putAll e3).gsuDone)

theorem gsuGather {t : Sid} {c : Nat} {o : IssuedOp} {e : DirEntry} (h : w.Tidy k) : (w.gsuGather t c o e).Tidy k := by
  unfold World.gsuGather
  dsimp only
  split
  · exact h.gsuStop
  next e1 =>
    split
    · exact (h.gsuKeyList e1).gsuStop
    · exact .ite (.ite (h.gsuKeyList e1).gatherFinish (h.gsuKeyList e1)) (by
          split
          · exact (h.gsuKeyList e1).gsuStop
          · exact .ite (h.gsuKeyList e1).gatherFinish (.ite (h.gsuKeyList e1) ((h.gsuKeyList e1).updGsu.foldl fun _ _ h => h.requestRow)))

theorem scatterTile {p c : Nat} {d : List Byte} {rows dim : Nat} {q : Nat × Nat} {a : Tile} {v : World} (h : w.Tidy k) (hr : (w.scatterTile p c d rows dim
    q) = .ok (a, v)) : v.Tidy k := by
  unfold World.scatterTile at hr
  dsimp only at hr
  split at hr
  · cases hr
  next e1 =>
    split at hr
    · cases hr
    next e2 =>
      split at hr
      · cases hr
      · exact .of_pair hr ((h.localRead e1).localRead e2)

theorem scatterTiles {p c : Nat} {d : List Byte} {rows dim : Nat} {qs : List (Nat × Nat)} {tiles : List Tile} {v : World} (h : w.Tidy k)
    (hr : w.scatterTiles p c d rows dim qs = .ok (tiles, v)) : v.Tidy k := by
  induction qs generalizing w v tiles with
  | nil => exact .of_pair hr h
  | cons q qs ih =>
    unfold World.scatterTiles at hr
    split at hr
    · cases hr
    next he => exact .of_map hr (fun _ _ hu => ih (h.scatterTile he) hu) fun _ => rfl

theorem contribute {t : Sid} {c p : Nat} {e : DirEntry} {win : Bool × Int} {c' : NmrCmd} (h : w.Tidy k) : (World.contribute t c p e win w c').Tidy k :=
  .ite h (.ite (.ite h.tick (by
    split
    · exact h.tick.nmrStop
    next e1 => exact (h.tick.nmrAdd e1).tick)) h.tick.gsuTag.updGsu.sendPacket)

theorem gsuScatter {t : Sid} {c : Nat} {o : IssuedOp} {e : DirEntry} (h : w.Tidy k) : (w.gsuScatter t c o e).Tidy k := by
  unfold World.gsuScatter
  extract_lets p d stop
  have hstop : ∀ (v : World) row z, v.Tidy k → (stop v row z).Tidy k := fun _ _ _ h => h.gsuStop
  clear_value stop
  split
  · exact .ite h.gsuDone h
  · split
    · exact h.gsuStop
    · exact h
    next e1 _ =>
      have h1 := h.gsuKeyList e1
      split
      · exact h1.gsuStop
      · extract_lets rows inv w128
        have hinv : ∀ ib u, inv = .ok (ib, u) → u.Tidy k := fun ib u hr => by
          simp only [inv] at hr
          split at hr
          · exact .of_pair hr h1
          · exact h1.localRead hr
        clear_value inv
        split
        · exact hstop _ _ _ h1
        · next ib u =>
          have h2 := hinv ib u rfl
          extract_lets own used
          clear_value own
          split
          · exact hstop _ _ _ h2
          · split
            · exact hstop _ _ _ h2
            next e2 =>
              have h3 := h2.scatterTiles e2
              extract_lets far a cells v1 cmds v2 v3
              split
              · exact hstop _ _ _ h3
              · refine .ite h3 ?_
                have h4 : v2.Tidy k := h3.count.updGsu
                clear_value v2
                have h5 : v3.Tidy k := h4.foldl fun _ _ h => h.contribute
                exact .ite h5.gsuDone h5

theorem sendMigration {t : Sid} {c p : Nat} {e : DirEntry} {x : Nat × Nat} (h : w.Tidy k) : (World.sendMigration t c p e w x).Tidy k :=
  .ite h.decideMigration h.gsuTag.sendPacket

theorem gsuMigrate {t : Sid} {c : Nat} {o : IssuedOp} {e : DirEntry} (h : w.Tidy k) : (w.gsuMigrate t c o e).Tidy k := by
  unfold World.gsuMigrate
  dsimp only
  split
  · exact h.gsuStop
  next e1 =>
    split
    · exact (h.localRead e1).gsuStop
    · split
      · exact (h.localRead e1).gsuStop
      · exact .ite (h.localRead e1) ((h.localRead e1).foldl fun _ _ h => h.sendMigration).gsuDone

theorem gsuAct {t : Sid} {c op : Nat} {f : World → IssuedOp → DirEntry → World} (h : w.Tidy k) (hf : ∀ (v : World) x1 x2, v.Tidy k → (f v x1 x2).Tidy k) :
    (w.gsuAct t c op f).Tidy k := by
  unfold World.gsuAct
  dsimp only
  split
  · exact h
  · split
    · exact h
    · exact .ite h (.ite (hf _ _ _ h) (.ite h.throttle (hf _ _ _ h.opRecord)))

/-! #### Dispatch and barriers -/

theorem itemRecord {t : Sid} {c flow phase seq : Nat} {result : Word} (h : w.Tidy k) : (w.itemRecord t c flow phase seq result).Tidy k := h.act

theorem syncRecord {t : Sid} {src what index value : Nat} (h : w.Tidy k) : (w.syncRecord t src what index value).Tidy k := h.act

theorem addWatch {t : Sid} {c x : Nat} {n : Word} (h : w.Tidy k) : (w.addWatch t c x n).Tidy k := h.updCore.progressed

theorem flowFault {t : Sid} {p flow : Nat} (h : w.Tidy k) : (w.flowFault t p flow).Tidy k := h.setReg.metadata

theorem granted {resource i : Nat} (h : w.Tidy k) : (w.granted resource i).Tidy k := h.same

theorem takeItem {t : Sid} {p d c src : Nat} {r : Ready} (h : w.Tidy k) : (w.takeItem t p d c src r).Tidy k :=
  h.granted.updDie.updFlow.tick.itemRecord.progressed

theorem serveCore {t : Sid} {c : Nat} {mask : BitVec 16} (h : w.Tidy k) : (w.serveCore t c mask).Tidy k :=
  .ite (.ite h.wakeIsland.updCore.endHold h) (by
    split
    · exact h.wakeIsland.takeItem.updCore.endHold
    · exact .ite h.wakeIsland.updCore.endHold h)

theorem serveSampler {t : Sid} {c : Nat} (h : w.Tidy k) : (w.serveSampler t c).Tidy k :=
  .ite h (by
    split
    · exact h
    · exact h.wakeIsland.takeItem.updCluster)

theorem completeItem {t : Sid} {c : Nat} {i : ItemRef} {x : Word} (h : w.Tidy k) : (w.completeItem t c i x).Tidy k := by
  unfold World.completeItem
  extract_lets p base v1 v2
  have h1 : v1.Tidy k := h.updFlow
  have h2 : v2.Tidy k := by
    simp only [v2]
    clear_value base
    split
    · exact h1
    · exact h1.hbmWrite
  exact h2.itemRecord.progressed

theorem completeHeld {t : Sid} {c : Nat} {x : Word} {v : World} (h : w.Tidy k) (hr : w.completeHeld t c x = some v) : v.Tidy k := by
  unfold World.completeHeld at hr
  split at hr
  · exact .of_some hr h
  · extract_lets collects u at hr
    have hu : u.Tidy k := .ite h.updDie h
    clear_value u
    split at hr
    · cases hr
    · exact .of_some hr hu.updCore.completeItem

theorem afterComplete {t : Sid} {c : Nat} {thenGet : Option (BitVec 16)} {thenEnd : Bool} (h : w.Tidy k) : (w.afterComplete t c thenGet thenEnd).Tidy k := by
  unfold World.afterComplete
  split
  · exact h.holdSeq
  · exact h.holdSeq
  · exact h.retire

theorem retryComplete {t : Sid} {c : Nat} (h : w.Tidy k) : (w.retryComplete t c).Tidy k := by
  unfold World.retryComplete
  split
  · split
    · exact h
    next e1 => exact (h.completeHeld e1).holdRecord.afterComplete
  · exact h

theorem completeOrHold {t : Sid} {c : Nat} {v : Word} {thenGet : Option (BitVec 16)} {thenEnd : Bool} (h : w.Tidy k) : (w.completeOrHold t c v thenGet
    thenEnd).Tidy k := by
  unfold World.completeOrHold
  split
  next e1 => exact (h.completeHeld e1).afterComplete
  · exact h.holdSeq

theorem releaseItems {t : Sid} {p : Nat} {f : FlowDef} {n : Nat} (h : w.Tidy k) : (w.releaseItems t p f n).Tidy k := by
  induction n generalizing w with
  | zero => exact h
  | succ n ih =>
    unfold World.releaseItems
    extract_lets x y v1 v2 v3
    have h1 : v1.Tidy k := h.updFlow
    have h2 : v2.Tidy k := by
      simp only [v2]
      split
      · exact h1.addWatch
      · exact h1
    have h3 : v3.Tidy k := h2.tick.itemRecord
    exact .ite (ih h3.progressed) h

theorem updBar {key : Nat} {f : Bar → Bar} (h : w.Tidy k) : (w.updBar key f).Tidy k := .ite h.same h.same

theorem passBar {t : Sid} {key c : Nat} (h : w.Tidy k) : (World.passBar t key w c).Tidy k := by
  unfold World.passBar
  dsimp only
  split
  · exact .ite (.ite h.updCore.endHold h.updCore.updCore) h.updCore
  · exact h.updCore

theorem completeBar {t : Sid} {p key : Nat} (h : w.Tidy k) : (w.completeBar t p key).Tidy k :=
  (h.updBar.tick.syncRecord.foldl fun _ _ h => h.passBar).progressed

theorem settleBar {t : Sid} {p key n : Nat} (h : w.Tidy k) : (w.settleBar t p key n).Tidy k := by
  induction n generalizing w with
  | zero => exact h
  | succ n ih => exact .ite h (.ite (.ite h h.updBar.emit) (ih h.completeBar))

theorem overrun {t : Sid} {p c key : Nat} (h : w.Tidy k) : (w.overrun t p c key).Tidy k := h.setReg.updCore.raise.stopJob

theorem enterBar {t : Sid} {p c key : Nat} {wait : Bool} (h : w.Tidy k) : (w.enterBar t p c key wait).Tidy k :=
  .ite h.overrun ((World.Tidy.ite h.updCore.updBar h.updCore.updBar.tick).next fun h => (World.Tidy.ite h.holdSeq h.retire).settleBar)

theorem discardRecords {p : Nat} (h : w.Tidy k) : (w.discardRecords p).Tidy k := h.foldl fun _ _ h => h.count.updDie

theorem resetRun {p : Nat} (h : w.Tidy k) : (w.resetRun p).Tidy k := by
  unfold World.resetRun
  extract_lets v1 v2 fab v3 v4 v5 v6
  have h1 : v1.Tidy k := h.discardRecords
  have h2 : v2.Tidy k := h1.foldl fun _ _ h => h.updDie
  clear_value v2
  have h3 : v3.Tidy k := .ite h2.same h2
  have h4 : v4.Tidy k := h3.foldl fun _ _ h => h.updCluster
  clear_value v4
  have h5 : v5.Tidy k := h4.same
  have h6 : v6.Tidy k := h5.foldl fun _ _ h => h.updCore
  exact h6.foldl fun _ _ h => h.updBar

theorem abandonBars {p : Nat} (h : w.Tidy k) : (w.abandonBars p).Tidy k := h.foldl fun _ _ h => .ite h.tick h

theorem restartItems {t : Sid} {p : Nat} (h : w.Tidy k) : (w.restartItems t p).Tidy k := by
  refine h.foldl fun v c hv => .ite ?_ hv
  cases hc : (v.tick .disp (dieOfCore c) 0x098).completeHeld t c 0 with
  | none => exact hv
  | some u => exact hv.tick.completeHeld hc

theorem wakeRun {t : Sid} {p : Nat} {eval : Bool} (h : w.Tidy k) : (w.wakeRun t p eval).Tidy k := h.foldl fun _ _ h => h.wakeIsland

theorem beginRun {t : Sid} {p : Nat} {eval : Bool} (h : w.Tidy k) : (w.beginRun t p eval).Tidy k := by
  unfold World.beginRun
  refine .ite h.updPart ?_
  extract_lets v flows
  have hv : v.Tidy k := h.restartItems.resetRun
  clear_value v
  split
  next e => exact .of_eq e hv.agentReads
  next e =>
    have hu := hv.agentReads_some e
    split
    · exact hu.flowFault
    · extract_lets v1 restored v2
      have h1 : v1.Tidy k := hu.foldl fun _ _ h => h.updFlow
      have h2 : v2.Tidy k := h1.wakeRun.foldl fun _ _ h => h.updCore
      exact h2.updPart.progressed

theorem endRun {p : Nat} (h : w.Tidy k) : (w.endRun p).Tidy k := .ite h.abandonBars.discardRecords.updPart h

/-! #### The Kiln -/

theorem addLeaf {step shard : Nat} {item : List Byte} (h : w.Tidy k) : (w.addLeaf step shard item).Tidy k := .ite h h.same

theorem bumpHeader {p : Nat} {r : KilnRule} {e : KilnEntry} (h : w.Tidy k) : (w.bumpHeader p r e).2.Tidy k := h.cellarWrite

theorem klnSticky {nonfinite overflow invalid late : Bool} (h : w.Tidy k) : (w.klnSticky nonfinite overflow invalid late).Tidy k := h.setBits

theorem klnFault {t : Sid} {p check tensor : Nat} (h : w.Tidy k) : (w.klnFault t p check tensor).Tidy k := h.setReg.updKiln.metadata

theorem frameIn {f : KilnFrame} (h : w.Tidy k) : (w.frameIn f).Tidy k := h.count

theorem fromKiln {kind p : Nat} {fields : List Nat} {payload : List Byte} (h : w.Tidy k) : (w.fromKiln kind p fields payload).Tidy k := h.emit

theorem setGrad {g : Grad} (h : w.Tidy k) : (w.setGrad g).Tidy k := h.updKiln

theorem emitImage {p tensor at' : Nat} {image : List Byte} (h : w.Tidy k) : (w.emitImage p tensor at' image).Tidy k :=
  (h.foldl fun _ _ h => h.fromKiln).updKiln.count

theorem emitMatrix {p : Nat} {e : KilnEntry} {masters : List Val} (h : w.Tidy k) : (w.emitMatrix p e masters).Tidy k :=
  h.foldl fun _ _ h => .ite h.addStats.emitImage h

theorem emitRow {p : Nat} {e : KilnEntry} {row : Nat} {masters : List Val} (h : w.Tidy k) : (w.emitRow p e row masters).Tidy k := h.addStats.emitImage

theorem updMigrant {p tensor row : Nat} {f : Migrant → Migrant} (h : w.Tidy k) : (w.updMigrant p tensor row f).Tidy k := h.updKiln

theorem dropMigrant {p tensor row : Nat} (h : w.Tidy k) : (w.dropMigrant p tensor row).Tidy k := h.updKiln

theorem takeMigrant {p tensor row : Nat} (h : w.Tidy k) : (w.takeMigrant p tensor row).Tidy k := .ite h h.updKiln

theorem putBlock {p : Nat} {r : KilnRule} {e : KilnEntry} {b : List Byte} (h : w.Tidy k) : (w.putBlock p r e b).Tidy k :=
  .ite h.cellarWrite.updKiln h.cellarWrite

theorem setRowRecord {p : Nat} {r : KilnRule} {e : KilnEntry} {row : Nat} {b : List Byte} (h : w.Tidy k) : (w.setRowRecord p r e row b).Tidy k := by
  unfold World.setRowRecord
  split
  · exact h.cellarWrite
  · exact h.updMigrant

theorem setRowFrozen {p : Nat} {r : KilnRule} {e : KilnEntry} {row : Nat} {v : Bool} (h : w.Tidy k) : (w.setRowFrozen p r e row v).Tidy k := by
  unfold World.setRowFrozen
  split
  · exact h.cellarWrite
  · exact h.updMigrant

theorem moveRow {p : Nat} {r : KilnRule} {e : KilnEntry} {row target : Nat} (h : w.Tidy k) : (w.moveRow p r e row target).Tidy k :=
  .ite h h.fromKiln.updKiln.tick

theorem applyFreeze {c : FreezeCmd} (h : w.Tidy k) : (w.applyFreeze c).Tidy k := by
  unfold World.applyFreeze
  split
  · exact h.updKiln
  · exact h.foldl fun _ _ h => h.setRowFrozen
  · exact h

theorem applyFreezes {p step : Nat} (h : w.Tidy k) : (w.applyFreezes p step).Tidy k := h.updKiln.foldl fun _ _ h => h.applyFreeze

theorem freezeCommand {t : Sid} {p rule entry op effective : Nat} (h : w.Tidy k) : (w.freezeCommand t p rule entry op effective).Tidy k := by
  unfold World.freezeCommand
  extract_lets result ok list n rows c
  have hresult : ∀ (v : World) (x : Nat), v.Tidy k → (result v x).Tidy k := fun _ _ h => h.updKiln
  clear_value result
  refine .ite (hresult _ _ h) (.ite (hresult _ _ h.klnSticky).tick ?_)
  split
  next e => exact .of_eq e h.agentReads
  next e => exact hresult _ _ (h.agentReads_some e).updKiln

theorem kilnSkip {t : Sid} {p tensor : Nat} {row : Bool} (h : w.Tidy k) : (w.kilnSkip t p tensor row).Tidy k :=
  h.klnSticky.tick.next fun h => .ite h h.raise.updPart

theorem kilnItem {p : Nat} {x : Tensor} {row index updates : Nat} {bytes : List Byte} (h : w.Tidy k) : (w.kilnItem p x row index updates bytes).Tidy k :=
  .ite h.addLeaf h

theorem updateMatrix {t : Sid} {p g i : Nat} {r : KilnRule} {e : KilnEntry} (h : w.Tidy k) : (w.updateMatrix t p g i r e).Tidy k :=
  .ite h.kilnSkip ((h.bumpHeader.cellarWrite.foldl fun _ _ h => h.cellarWrite).klnSticky.tick.count.count.next fun h => (World.Tidy.ite (h.foldl fun _ _ h =>
    h.kilnItem) h).emitMatrix.updKiln)

theorem updateRow {t : Sid} {p : Nat} {r : KilnRule} {e : KilnEntry} {x : KHyper} {u : Nat} {x' : Nat × List (BitVec 32)} (h : w.Tidy k) : (World.updateRow
    t p r e x u w x').Tidy k :=
  .ite (.elim h.tick fun _ => h.tick.moveRow) (.ite (.elim h.kilnSkip fun _ => h.kilnSkip.moveRow) (h.setRowRecord.klnSticky.next fun h => .elim
    h.kilnItem.emitRow.tick.count fun _ => h.kilnItem.emitRow.tick.count.moveRow))

theorem updateTable {t : Sid} {p g i : Nat} {r : KilnRule} {e : KilnEntry} (h : w.Tidy k) : (w.updateTable t p g i r e).Tidy k := by
  unfold World.updateTable
  extract_lets rows live hd hy v1 v2 rest
  have h0 : hd.2.Tidy k := .itePair h h.bumpHeader
  have h1 : v1.Tidy k := h0.foldl fun _ _ h => h.updateRow
  have h2 : v2.Tidy k := .ite h1 h1.tick
  exact World.Tidy.updKiln (h2.foldl fun _ _ h => h.emitRow)

theorem flushKiln {p : Nat} (h : w.Tidy k) : (w.flushKiln p).Tidy k := by
  unfold World.flushKiln
  extract_lets v1 all v2 v3
  have h1 : v1.Tidy k := h.applyFreezes
  have h2 : v2.Tidy k := h1.foldl fun _ _ h => .ite h (.ite (h.foldl fun _ _ h => h.emitRow) (.ite h h.emitMatrix))
  clear_value v2
  have h3 : v3.Tidy k := h2.foldl fun _ _ h => by
    split
    · exact h
    · exact h.moveRow
  exact h3.updKiln

theorem settleKiln {p : Nat} (h : w.Tidy k) : (w.settleKiln p).Tidy k := by
  unfold World.settleKiln
  extract_lets c v1 v2
  have h1 : v1.Tidy k := .ite h h.flushKiln
  clear_value v1
  have h2 : v2.Tidy k := h1.updKilnOf fun hm => Memory.wf_zero _ _ _ hm
  exact .ite h (.ite h1 h2.setReg.fromKiln)

theorem initBlock {p : Nat} {x : KilnRule × KilnEntry} (h : w.Tidy k) : (World.initBlock p w x).Tidy k :=
  h.hbmFetch.cellarZero.cellarWrite.klnSticky.next fun h => .ite (h.foldl fun _ _ h => h.cellarWrite) h.cellarWrite

theorem kilnInit {p : Nat} (h : w.Tidy k) : (w.kilnInit p).Tidy k :=
  (h.updKilnOf fun hm => Memory.wf_zero _ _ _ hm).foldl fun _ _ h => h.initBlock

theorem freeMoved {p : Nat} (h : w.Tidy k) : (w.freeMoved p).Tidy k := by
  unfold World.freeMoved
  extract_lets v
  have hv : v.Tidy k := h.foldl fun _ _ h => by
    split
    · exact h
    · split
      · exact h.setRowRecord.setRowFrozen
      · exact h.dropMigrant
  exact hv.updKiln

end World.Tidy

end Sys2Proof.Machine

namespace Sys2Proof.Machine

namespace World.Tidy
variable {k : Track} {w : World}

/-! #### The sampler -/

theorem drawNode {c p level step n target : Nat} {plan : Plan} {es : List DrawEdge} {v : World} (h : w.Tidy k)
    (hr : w.drawNode c p plan level step n target = .ok (es, v)) : v.Tidy k :=
  h.of_reads (w.drawNode_readsOnly p n c level step target plan) hr

theorem updSmp {c : Nat} {f : Smp → Smp} (h : w.Tidy k) : (w.updSmp c f).Tidy k := h.updCluster

theorem updRun {c : Nat} {f : SmpRun → SmpRun} (h : w.Tidy k) : (w.updRun c f).Tidy k := h.updSmp

theorem smpStop {t : Sid} {c plan hop : Nat} {op : Option IssuedOp} {e : Nat × Nat} (h : w.Tidy k) : (w.smpStop t c plan hop op e).Tidy k :=
  (World.Tidy.elim h.updSmp fun _ => h.updSmp.updCore).next fun h => .ite h.setReg.setReg.stopJob (.ite h.setReg.setReg.race (.ite
    h.setReg.setReg.noPosition.metadata h.setReg.setReg.metadata))

theorem blockStart {c p : Nat} {d : List Byte} {plan : Plan} {r r' : SmpRun} {v : World} (h : w.Tidy k) (hr : w.blockStart c p d plan r = .ok (r', v)) :
    v.Tidy k :=
  h.of_counts ((w.blockStart_starts c p d plan r).1 r' v hr).1

theorem beginBlock {t : Sid} {c : Nat} {d : List Byte} {op : Option IssuedOp} {item : Option ItemRef} (h : w.Tidy k) : (w.beginBlock t c d op item).Tidy k :=
  .ite h.smpStop (by
    split
    · exact h.smpStop
    next e1 => exact (h.blockStart e1).updSmp)

theorem requestDraw {t : Sid} {c p : Nat} {x : Nat × BNode × Nat} (h : w.Tidy k) : (World.requestDraw t c p w x).Tidy k := by
  unfold World.requestDraw
  split
  · exact h
  · exact .ite h h.updSmp.updRun.tick.sendPacket

theorem requestDraws {t : Sid} {c p : Nat} {plan : Plan} {r : SmpRun} (h : w.Tidy k) : (w.requestDraws t c p plan r).Tidy k :=
  h.foldl fun _ _ h => h.requestDraw

theorem drawLocal {c p : Nat} {plan : Plan} {r r' : SmpRun} {xs : List (Nat × BNode)} {v : World} (h : w.Tidy k)
    (hr : w.drawLocal c p plan r xs = .ok (r', v)) : v.Tidy k :=
  h.of_counts (World.drawLocal_draws _ _ _ _ _ hr).1

theorem assembleHop {c p : Nat} {plan : Plan} {seed0 : Nat} {r : SmpRun} (h : w.Tidy k) : (w.assembleHop c p plan seed0 r).Tidy k :=
  h.count.updRun.next fun h => .ite h.tick h

theorem finishBlock {t : Sid} {c p : Nat} {plan : Plan} {seeds : List BNode} {r : SmpRun} (h : w.Tidy k) : (w.finishBlock t c p plan seeds r).Tidy k := by
  unfold World.finishBlock
  dsimp only
  split
  · exact h.count.smpStop
  next e1 => exact (h.count.putAll e1).tick.count.next fun h => (World.Tidy.ite h.tick h).next fun h => (World.Tidy.elim h.updSmp fun _ =>
      h.updSmp.finishOp).next fun h => .elim h fun _ => h.completeItem

theorem settleHop {c p : Nat} {plan : Plan} {seed0 : Nat} (h : w.Tidy k) : (w.settleHop c p plan seed0).Tidy k := by
  unfold World.settleHop
  split
  · exact h
  · exact .ite h.assembleHop h

theorem sendReply {t : Sid} {c dst tag rtag node status check : Nat} {es : List DrawEdge} (h : w.Tidy k) : (w.sendReply t c dst tag rtag node status check
    es).Tidy k :=
  h.foldl fun _ _ h => h.sendPacket

theorem serveSample {t : Sid} {q : Packet} (h : w.Tidy k) : (w.serveSample t q).Tidy k := by
  unfold World.serveSample
  dsimp only
  split
  · exact .ite h.sendReply (.ite h.sendReply (by
      split
      · exact h.tick.sendReply
      next e1 => exact (h.drawNode e1).tick.sendReply))
  · exact h.sendReply

theorem takeReply {t : Sid} {q : Packet} (h : w.Tidy k) : (w.takeReply t q).Tidy k := by
  unfold World.takeReply
  dsimp only
  split
  · exact h
  · split
    · exact .ite h.smpStop (by
        split
        · exact h.updRun
        · split
          · exact h.updRun
          · exact h.updRun.requestDraws)
    · exact h

/-! #### The live loop -/

theorem updHop {f : Hop_ → Hop_} (h : w.Tidy k) : (w.updHop f).Tidy k := h.same

theorem hopStart (h : w.Tidy k) : (w.hopStart).Tidy k := h.same

theorem feedWrite {t : Sid} {first : Bool} {e : DirEntry} {x : Nat × List Byte} (h : w.Tidy k) : (World.feedWrite t first e w x).Tidy k :=
  .ite h (.ite h.hbmStore.hbmStore.hbmCount.hbmCount.tellReplicas h.homeWrite)

theorem applyRecord {t : Sid} {first : Bool} {r : List Byte} {v : World} (h : w.Tidy k) (hr : w.applyRecord t first r = .ok v) : v.Tidy k := by
  unfold World.applyRecord at hr
  extract_lets entry finish at hr
  have hfinish : ∀ e x, finish e x = .ok v → v.Tidy k := fun e x hr => by
    simp only [finish] at hr
    split at hr
    · cases hr
    next ws =>
      refine .of_ok hr ?_
      split
      next e => exact .of_eq e h.agentReads
      next e => exact (h.agentReads_some e).foldl fun _ _ h => h.feedWrite
  clear_value finish
  split at hr
  · split at hr
    · exact hfinish _ _ hr
    · cases hr
  · split at hr
    · exact hfinish _ _ hr
    · cases hr
  · split at hr
    · exact hfinish _ _ hr
    · cases hr
  · cases hr
  · cases hr
  · cases hr
  · cases hr

theorem applyOne {t : Sid} {n : Nat} {x : FeedRec} (h : w.Tidy k) : (World.applyOne t n w x).Tidy k := by
  unfold World.applyOne
  refine .ite h.tick ?_
  extract_lets v1 kind v2
  have h1 : v1.Tidy k := h.updHop
  clear_value v1
  split
  next e =>
    have h3 := h1.applyRecord e
    exact (World.Tidy.ite h3.updHop h3).tick
  · have h2 : v2.Tidy k := h1.tick
    exact .ite h2 h2.raise.updHop

theorem applyBatch {t : Sid} {n : Nat} {recs : List FeedRec} (h : w.Tidy k) : (w.applyBatch t n recs).Tidy k := by
  unfold World.applyBatch
  extract_lets v logged
  have hv : v.Tidy k := h.updHop
  have hf : (recs.foldl (World.applyOne t n) v).Tidy k := hv.foldl fun _ _ h => h.applyOne
  exact hf.updHop

theorem settleBatches {t : Sid} {n : Nat} (h : w.Tidy k) : (w.settleBatches t n).Tidy k := by
  induction n generalizing w with
  | zero => exact h
  | succ n ih =>
    unfold World.settleBatches
    extract_lets i recs v
    refine .ite h (.ite ?_ (.ite (ih (World.Tidy.applyBatch (h.updHop))) h))
    split
    · exact h
    · exact ih h.applyBatch.count

theorem ringPut {b : List Byte} (h : w.Tidy k) : (w.ringPut b).Tidy k := .ite h.hbmStore.hbmCount.updHop h

theorem routeRecord {t : Sid} {x : FeedRec} (h : w.Tidy k) : (World.routeRecord t w x).Tidy k :=
  .ite h.updHop (.ite h.ringPut.updHop.updHop (.ite h.noPosition.metadata (h.updHop.tick.foldl fun _ _ h => h.sendPacket)))

theorem routeWaiting {t : Sid} {n : Nat} (h : w.Tidy k) : (w.routeWaiting t n).Tidy k := h.updHop.foldl fun _ _ h => h.routeRecord

theorem lateRecord {t : Sid} {n : Nat} (h : w.Tidy k) : (w.lateRecord t n).Tidy k := .ite h.tick h.tick.raise.updHop

theorem takeRecord {t : Sid} {source seq : Nat} {x : List Byte × Nat} (h : w.Tidy k) : (World.takeRecord t source seq w x).Tidy k :=
  (World.Tidy.ite h.lateRecord h).next fun h => .ite h.routeRecord h.updHop

theorem intakeRecord {t : Sid} {b : List Byte} (h : w.Tidy k) : (w.intakeRecord t b).Tidy k := by
  unfold World.intakeRecord
  dsimp only
  split
  · exact (World.Tidy.ite h.tick.tick h).sendPacket
  · exact .ite h (.ite h.nmrStop h.ringPut.updHop)

theorem takeMarker {t : Sid} {position : Nat} {b : List Byte} (h : w.Tidy k) : (w.takeMarker t position b).Tidy k := .ite h h.updHop.settleBatches

theorem sendMarkers {t : Sid} {n : Nat} (h : w.Tidy k) : (w.sendMarkers t n).Tidy k := h.foldl fun _ _ h => .ite h.takeMarker h.updHop.sendPacket

theorem lateWaiting {t : Sid} {n : Nat} (h : w.Tidy k) : (w.lateWaiting t n).Tidy k := by
  unfold World.lateWaiting
  extract_lets late v
  have hv : v.Tidy k := h.foldl fun _ _ h => h.lateRecord
  exact hv.updHop

theorem freeRings {t : Sid} {n : Nat} (h : w.Tidy k) : (w.freeRings t n).Tidy k := .ite h.updHop.routeWaiting h.updHop

theorem endReplay {t : Sid} (h : w.Tidy k) : (w.endReplay t).Tidy k := .ite h (h.updHop.routeWaiting.foldl fun _ _ h => h.sendMarkers)

/-! #### Casks -/

theorem updCask {f : Cask → Cask} (h : w.Tidy k) : (w.updCask f).Tidy k := h.same

theorem sendPiece {t : Sid} {inst : Nat} {x : Nat × CPiece} (h : w.Tidy k) : (World.sendPiece t inst w x).Tidy k := h.foldl fun _ _ h => h.updCask.sendPacket

theorem sendStripes {t : Sid} {inst : Nat} {x : CPiece} (h : w.Tidy k) : (w.sendStripes t inst x).Tidy k := h.foldl fun _ _ h => h.sendPiece

theorem mirrorOut {t : Sid} {n : Nat} {xs : List (CSeg × List Byte)} (h : w.Tidy k) : (w.mirrorOut t n xs).Tidy k := h.foldl fun _ _ h => h.sendStripes

theorem endStop {t : Sid} (h : w.Tidy k) : (w.endStop t).Tidy k := by
  unfold World.endStop
  split
  · exact h
  · exact h.updCask

theorem beginCask {t : Sid} {n : Nat} (h : w.Tidy k) : (w.beginCask t n).Tidy k := by
  unfold World.beginCask
  split
  · exact h.tick
  · extract_lets gone b
    split
    next e => exact .of_eq e h.agentReads
    next e =>
      extract_lets xs v1 v2
      have h1 : v1.Tidy k := (h.agentReads_some e).updCask
      have h2 : v2.Tidy k := h1.mirrorOut
      exact .ite (.ite h2.endStop h2) h1

theorem journalOut {t : Sid} {x : CPiece} (h : w.Tidy k) : (World.journalOut t w x).Tidy k := h.count.updCask.sendPiece.sendPiece

theorem journalTable {t : Sid} {e : DirEntry} (h : w.Tidy k) : (w.journalTable t e).Tidy k := by
  unfold World.journalTable
  refine .ite h ?_
  extract_lets n v
  have hv : v.Tidy k := .ite h.tick.updCask h
  clear_value v
  split
  next e => exact .of_eq e hv.agentReads
  next e => exact (hv.agentReads_some e).foldl fun _ _ h => h.journalOut

theorem journalFeed {t : Sid} {n : Nat} (h : w.Tidy k) : (w.journalFeed t n).Tidy k := by
  unfold World.journalFeed
  split
  · exact h
  · exact .ite h h.journalOut

theorem settleBase (h : w.Tidy k) : (w.settleBase).Tidy k := by
  unfold World.settleBase
  split
  · exact h
  · exact .ite h h.updCask

theorem pieceAcked {t : Sid} {inst : Nat} (h : w.Tidy k) : (w.pieceAcked t inst).Tidy k := h.updCask.settleBase.next fun h => .ite h.endStop h

theorem committedCask {n stopUs : Nat} (h : w.Tidy k) : (w.committedCask n stopUs).Tidy k := by
  unfold World.committedCask
  exact h.tick.updCask

theorem caskDone {t : Sid} {n : Nat} (h : w.Tidy k) : (w.caskDone t n).Tidy k := h.raise

theorem reportCommit {t : Sid} {n : Nat} (h : w.Tidy k) : (w.reportCommit t n).Tidy k := .ite h.updCask.emit h.updCask.caskDone.committedCask

theorem sendManifest {t : Sid} {n : Nat} (h : w.Tidy k) : (w.sendManifest t n).Tidy k :=
  (h.foldl fun _ _ h => h.sendPiece).foldl fun _ _ h => h.updCask.sendPacket

/-! #### REDUCE -/

theorem finishReduce {t : Sid} {x : Tensor} {m : ShardMap} {first n : Nat} (h : w.Tidy k) : (w.finishReduce t x m first n).Tidy k := by
  unfold World.finishReduce
  extract_lets r b src c vals nOver v1 v2 u fab v3 fab' v4
  have h1 : v1.Tidy k := h.hbmFetch.hbmApply
  clear_value v1
  have h2 : v2.Tidy k := h1.count
  have h3 : v3.Tidy k := .ite h2.raise.same h2
  have h4 : v4.Tidy k := h3.same
  exact h4.toKiln.emit

theorem addReduce {t : Sid} {x : Tensor} {m : ShardMap} {position i : Nat} {cells : List (Int × Bool × Bool)} (h : w.Tidy k) : (w.addReduce t x m position
    i cells).Tidy k :=
  .ite h.agentStop ((World.Tidy.ite h h.hbmStore.hbmCount).hbmCount.hbmApply.next fun h => .ite h.same.finishReduce h.same)

theorem sendReduce {t : Sid} {x : Tensor} {m : ShardMap} {d : Nat} (h : w.Tidy k) : (World.sendReduce t x m w d).Tidy k := by
  unfold World.sendReduce
  extract_lets range shards b per n home
  refine h.foldl fun v i hv => ?_
  extract_lets c cells
  split
  next e => exact .of_eq e hv.agentReads
  next e => exact .ite (hv.agentReads_some e).addReduce (hv.agentReads_some e).sendPacket

theorem takeReduce {t : Sid} {q : Packet} (h : w.Tidy k) : (w.takeReduce t q).Tidy k := by
  unfold World.takeReduce
  dsimp only
  split
  · exact h
  · exact .ite h h.addReduce

/-! #### Circuits -/

theorem setCircuits (h : w.Tidy k) : (w.setCircuits).Tidy k := h.same

/-! #### Answers -/

theorem updUzo {f : Uzo → Uzo} (h : w.Tidy k) : (w.updUzo f).Tidy k := h.same

theorem windowWrite {t : Sid} {p a : Nat} {bs : List Byte} (h : w.Tidy k) : (w.windowWrite t p a bs).Tidy k := .ite h h.hbmWrite

theorem sendParcel {o : Output} (h : w.Tidy k) : (w.sendParcel o).Tidy k := h.tick.count.emit

theorem answer {t : Sid} {o : Machine.Origin} {type : Nat} {q : Parcel} {status detail : Nat} {payload : List Byte} (h : w.Tidy k) : (w.answer t o type q
    status detail payload).Tidy k := by
  unfold World.answer
  dsimp only
  split
  · exact h.foldl fun _ _ h => h.sendParcel
  · exact .ite h.windowWrite h

theorem sendReg {t : Sid} {x : RegWait} (h : w.Tidy k) : (World.sendReg t w x).Tidy k := h.sendPacket

theorem sendRegs {t : Sid} (h : w.Tidy k) : (w.sendRegs t).Tidy k := .ite h (h.updUzo.foldl fun _ _ h => h.sendReg)

theorem answerRestore {t : Sid} {status : Nat} (h : w.Tidy k) : (w.answerRestore t status).Tidy k := by
  unfold World.answerRestore
  split
  · exact h
  · exact h.updUzo.answer

/-! #### Power -/

theorem driveAlert {was : Bool} (h : w.Tidy k) : (w.driveAlert was).Tidy k := .ite h h.emit

theorem setAlert {b : Nat} (h : w.Tidy k) : (w.setAlert b).Tidy k := h.setBits.driveAlert

theorem writeAlert {v : Word} (h : w.Tidy k) : (w.writeAlert v).Tidy k := h.setReg.driveAlert

theorem reset : w.reset.Tidy .canonical := by
  have h0 : ({ out := w.out, free := w.free, uzo := { light := w.uzo.light } } : World).Tidy .canonical :=
    ⟨fun _ => ⟨rfl, rfl, rfl, rfl, rfl⟩, fun _ x hx => absurd (show none = some x from hx) (Option.some_ne_none x).symm⟩
  exact h0.driveAlert

theorem noticeFail (h : w.Tidy k) : (w.noticeFail).Tidy k := h.foldl fun _ _ h => h.emit

theorem haltAll (h : w.Tidy k) : (w.haltAll).Tidy k := h.foldl fun _ _ h => h.stopRun

theorem failEvent {t : Sid} {cause payload : Nat} (h : w.Tidy k) : (w.failEvent t cause payload).Tidy k := .ite h.raise h.raise

theorem uzoDark (h : w.Tidy k) : (w.uzoDark).Tidy k := h.emit

theorem measure {avg : Nat} {m : Measurement} (h : w.Tidy k) : (w.measure avg m).Tidy k :=
  ((h.setReg.foldl fun _ _ h => .ite h.setReg h).foldl fun _ _ h => .ite h.setField h).setReg.setReg

/-! #### Sequencers -/

theorem seqRun {c : Nat} {f : World → World} (h : w.Tidy k) (hf : ∀ (v : World), v.Tidy k → (f v).Tidy k) : (w.seqRun c f).Tidy k := .ite (hf _ h) h

theorem startOps {t : Sid} {c : Nat} {e : Engine} (h : w.Tidy k) : (w.startOps t c e).Tidy k := .ite h.axeStart h

theorem seqMetadata {t : Sid} {c check pos : Nat} (h : w.Tidy k) : (w.seqMetadata t c check pos).Tidy k := h.updCore.noPosition.metadata

theorem writeStop {c : Nat} {stop : Bool} (h : w.Tidy k) : (w.writeStop c stop).Tidy k := h.setField.updCore

theorem writeSingle {c : Nat} (h : w.Tidy k) : (w.writeSingle c).Tidy k := .ite h.updCore h

end World.Tidy

end Sys2Proof.Machine

namespace Sys2Proof.Machine

/-! #### The parts of a boundary -/

/-- The first part of a switch: the tables' versions change places (R219). -/
def World.turnTables (w : World) (p : Nat) : World :=
  w.updPart p fun x => { x with forwarding := x.forwarded, dir := x.dir.map (w.closedFormat p ·.switched), accepted := [] }

/-- What follows at a boundary, once the step of a partition has its number. -/
def World.openNext (w : World) (t : Sid) (p n : Nat) (cask : Bool) : World :=
  let w := if p = 0 then w.domainBoundary t n cask else w
  let w := w.startDump p n
  if (w.part p).stopAtBoundary then
    let v := w.cancelDump t p
    { v.stopRun p false with out := v.out }
  else w.openStep t p

theorem World.boundary_eq (w : World) (t : Sid) (p : Nat) (cask : Bool) : w.boundary t p cask
    = ((((w.closeStats t p (w.part p).step).switchTables p).clearStep p).updPart p fun x =>
        { x with step := (w.part p).step + 1, lastSwitched := some (w.part p).step, restored := false }).openNext t p (w.part p).step cask := rfl

namespace World.Tidy
variable {k : Track} {w : World}

/-! #### Restore and what leaves for the store -/

theorem storePiece {t : Sid} {q : Packet} (h : w.Tidy k) : (w.storePiece t q).Tidy k := h.updCask.sendPacket

theorem servePieces {t : Sid} {q : Packet} (h : w.Tidy k) : (w.servePieces t q).Tidy k := (h.foldl fun _ _ h => h.sendPacket).sendPacket

theorem updFetch {f : Fetching → Fetching} (h : w.Tidy k) : (w.updFetch f).Tidy k := h.updCask

theorem takeCask {t : Sid} {q : Packet} (h : w.Tidy k) : (w.takeCask t q).Tidy k := .ite h.storePiece (.ite h.servePieces (.ite h.updFetch (.ite h.updFetch h)))

theorem writeOverrides {table : Nat} {b : List Byte} (h : w.Tidy .canonical) : (w.writeOverrides table b).Tidy .canonical := by
  unfold World.writeOverrides
  dsimp only
  split
  · exact h.setPart
  · exact h.setPart.hbmStore.hbmStore

theorem writeStats {b : List Byte} (h : w.Tidy .canonical) : (w.writeStats b).Tidy .canonical := by
  unfold World.writeStats
  extract_lets bd v
  have hv : v.Tidy .canonical := h.hbmStore
  exact hv.foldl fun _ _ h => h.setPart

theorem writeBlock {r : KilnRule} {e : KilnEntry} {b : List Byte} (h : w.Tidy k) : (w.writeBlock r e b).Tidy k := h.putBlock

theorem writeFreezes {b : List Byte} (h : w.Tidy k) : (w.writeFreezes b).Tidy k := by
  unfold World.writeFreezes
  exact h.updKiln

theorem writeRows {f : Fetching} {g : CSeg} {r : KilnRule} {e : KilnEntry} (h : w.Tidy k) : (w.writeRows f g r e).Tidy k :=
  h.foldl fun _ _ h => h.foldl fun _ _ h => by
    split
    · exact h
    · exact .ite h.setRowRecord.setRowFrozen h.writeBlock

theorem writeSegment {f : Fetching} {n : Nat} {x : CSeg × Option (List Byte)} (h : w.Tidy .canonical) : (World.writeSegment f n w x).Tidy .canonical := by
  unfold World.writeSegment
  dsimp only
  split
  · exact h
  · exact .ite (.elim h fun _ => h.hbmStore) (.ite h.writeStats (.ite h.writeOverrides (.ite (.ite h.writeFreezes (by
      split
      · exact h
      · exact .ite h.writeBlock (World.Tidy.elim h fun _ => h.writeBlock).writeRows)) h)))

theorem askPeers {t : Sid} {step : Nat} (h : w.Tidy k) : (w.askPeers t step).Tidy k := h.foldl fun _ _ h => h.sendPacket

theorem toStore {b : List Byte} (h : w.Tidy k) : (w.toStore b).Tidy k := .elim h fun _ => h.sendDatagram

theorem nextFrame (h : w.Tidy k) : (w.nextFrame).Tidy k := by
  unfold World.nextFrame
  dsimp only
  split
  · exact .ite h h.toStore.updCask
  · exact h.toStore.updCask

theorem pumpTransfer {n : Nat} (h : w.Tidy k) : (w.pumpTransfer n).Tidy k := by
  induction n generalizing w with
  | zero => exact h
  | succ n ih => exact .ite h (ih h.nextFrame)

theorem endTransfer {t : Sid} {ok : Bool} (h : w.Tidy k) : (w.endTransfer t ok).Tidy k :=
  .ite h.updCask.updPart (.ite (h.updCask.tick.next fun h => .ite h h.reportCommit) h.updCask.tick)

theorem startTransfer {step : Nat} {segs : List (Nat × List Byte)} (h : w.Tidy k) : (w.startTransfer step segs).Tidy k := h.updCask.pumpTransfer

theorem hearStore {kind : Nat} {b : List Byte} {f : World → World} (h : w.Tidy k) (hf : ∀ (v : World), v.Tidy k → (f v).Tidy k) : (w.hearStore kind b
    f).Tidy k :=
  .elim h fun _ => h.hear (fun _ h => .ite (hf _ h) h)

theorem takeData {b : List Byte} (h : w.Tidy k) : (w.takeData b).Tidy k := by
  unfold World.takeData
  split
  · exact h
  · exact .ite h h.updFetch.toStore

theorem askStore (h : w.Tidy k) : (w.askStore).Tidy k := by
  unfold World.askStore
  split
  · exact h
  · exact .ite (.elim h fun _ => h.toStore) h

theorem refuseRestore {t : Sid} {step : Nat} (h : w.Tidy k) : (w.refuseRestore t step).Tidy k := h.updCask.answerRestore.next fun h => .ite h.raiseAs h.emit

theorem beginRestore {t : Sid} {fromStore : Bool} {step : Nat} (h : w.Tidy .canonical) : (w.beginRestore t fromStore step).Tidy .canonical := by
  unfold World.beginRestore
  extract_lets v1 v2 v3 store v4 fab v5
  have h1 : v1.Tidy .canonical := h.stopRun.emptyUnits.zeroLocal.resetRun
  clear_value v1
  have h2 : v2.Tidy .canonical := h1.foldl fun _ _ h => h.updCore
  clear_value v2
  have h3 : v3.Tidy .canonical := h2.setPart
  clear_value v3
  have h4 : v4.Tidy .canonical := (h3.updKilnOf fun hm => Memory.wf_zero _ _ _ hm).updCask
  clear_value v4
  have h5 : v5.Tidy .canonical := h4.same
  exact .ite h5.askStore h5.askPeers

theorem writeRestore {t : Sid} {f : Fetching} (h : w.Tidy .canonical) : (w.writeRestore t f).Tidy .canonical := by
  unfold World.writeRestore
  extract_lets m segs v1 v2 n v3 log v4 v5
  have h1 : v1.Tidy .canonical := h.foldl fun _ _ h => h.writeSegment
  clear_value v1
  have h2 : v2.Tidy .canonical := h1.writeDirectory.firstCopy
  clear_value v2
  have h3 : v3.Tidy .canonical := h2.setPart
  clear_value v3
  have h4 : v4.Tidy .canonical := h3.updHop
  clear_value v4
  have h5 : v5.Tidy .canonical := h4.updFetch.updCask
  exact .ite h.refuseRestore (.ite h5.emit h5)

theorem endRestore {step : Nat} (h : w.Tidy k) : (w.endRestore step).Tidy k := h.tick.updCask

/-! #### Packets that arrive -/

theorem nmrAck {t : Sid} {st : Nat} {remote : Bool} {c : NmrCmd} (h : w.Tidy k) : (w.nmrAck t st remote c).Tidy k := .ite h.tick.sendPacket h.tick

theorem nmrServe {t : Sid} {op : Nat} {remote : Bool} {c : NmrCmd} (h : w.Tidy k) : (w.nmrServe t op remote c).Tidy k :=
  .ite h (by
    split
    · exact h.nmrStop
    · exact .ite h.nmrStop (.ite h.readoutTable.nmrAck (.ite (by
        split
        · exact h.forwardNmr
        · exact h.nmrStop) (by
        split
        · exact h.nmrStop
        next e1 => exact (h.nmrAdd e1).nmrAck))))

theorem gsuNotHome {t : Sid} {table row : Nat} (h : w.Tidy k) : (w.gsuNotHome t table row).Tidy k := h.setReg.setReg.updCluster.metadata

theorem passOn {t : Sid} {kind : Nat} {q : Packet} {e : DirEntry} {row : Nat} (h : w.Tidy k) : (w.passOn t kind q e row).Tidy k := by
  unfold World.passOn
  dsimp only
  split
  · exact .ite h.nmrStop h.gsuNotHome
  · exact h.tick.sendFrom

theorem guardRemote {q : Packet} {off n : Nat} (h : w.Tidy k) : (w.guardRemote q off n).Tidy k := .ite h.same h

theorem serveRead {t : Sid} {q : Packet} (h : w.Tidy k) : (w.serveRead t q).Tidy k := by
  unfold World.serveRead
  extract_lets off n answer row r
  have hanswer : ∀ v b, v.Tidy k → (answer v b).Tidy k := fun _ _ h => h.sendPacket
  refine .ite h (.ite (hanswer _ _ h) (.ite (World.Tidy.agentStop (hanswer _ _ h)) ?_))
  clear_value row answer
  split
  · exact h.passOn
  · exact hanswer _ _ h.guardRemote.hbmFetch

theorem relay {kind : Nat} {q : Packet} (h : w.Tidy k) : (w.relay kind q).Tidy k := .ite (h.foldl fun _ _ h => h.copyTo).emit h

theorem serveWrite {t : Sid} {q : Packet} (h : w.Tidy k) : (w.serveWrite t q).Tidy k := by
  unfold World.serveWrite
  extract_lets off n ack fits current land row
  have hack : ∀ v a, v.Tidy k → (ack v a).Tidy k := fun _ _ h => h.sendPacket
  have hland : (land w).Tidy k := .ite h.agentStop h.hbmWriteMask
  refine .ite h (.ite (World.Tidy.relay (.ite hland h)) (.ite (hack _ _ h) (.ite (hack _ _ h) ?_)))
  clear_value row ack
  split
  · exact h.passOn
  · exact hack _ _ hland

theorem axeData {t : Sid} {q : Packet} (h : w.Tidy k) : (w.axeData t q).Tidy k := by
  unfold World.axeData
  dsimp only
  split
  · exact h
  · exact .ite h.axeStop h.updStream

theorem gsuData {t : Sid} {q : Packet} (h : w.Tidy k) : (w.gsuData t q).Tidy k := by
  unfold World.gsuData
  dsimp only
  split
  · exact .ite h.gsuStop h.updGsu
  · exact h

theorem regAnswered {t : Sid} {tag : Nat} {refused : Bool} {b : List Byte} (h : w.Tidy k) : (w.regAnswered t tag refused b).Tidy k := by
  unfold World.regAnswered
  split
  · exact h
  · exact h.updUzo.answer

theorem responded {t : Sid} {tag : Nat} (h : w.Tidy k) : (w.responded t tag).Tidy k := h.elim fun _ => h.wakeIsland

theorem takeReadData {t : Sid} {q : Packet} (h : w.Tidy k) : (w.takeReadData t q).Tidy k := by
  unfold World.takeReadData
  split
  · exact h.axeData
  · exact h.gsuData
  · exact h.regAnswered
  · exact h

theorem takeWriteAck {t : Sid} {q : Packet} (h : w.Tidy k) : (w.takeWriteAck t q).Tidy k := by
  unfold World.takeWriteAck
  dsimp only
  split
  · split
    · exact h
    · split
      · exact h.updCore
      · exact .ite (h.updCore.foldl fun _ _ h => h.guardHit) h.updCore.axeStop
  · exact .ite h.toKiln (.ite h.updHop (.ite h.updPart h.pieceAcked))
  · exact h.regAnswered
  · exact h

theorem takeNmrAck {q : Packet} (h : w.Tidy k) : (w.takeNmrAck q).Tidy k := h.updGsu

theorem takeSignal {t : Sid} {q : Packet} (h : w.Tidy k) : (w.takeSignal t q).Tidy k := (World.Tidy.ite h.addWatch h).sendPacket

theorem takeSignalAck {q : Packet} (h : w.Tidy k) : (w.takeSignalAck q).Tidy k := h.updCore

theorem takeMigrate {t : Sid} {q : Packet} (h : w.Tidy k) : (w.takeMigrate t q).Tidy k := by
  unfold World.takeMigrate
  dsimp only
  split
  · exact h
  · exact .ite h (.ite h.putOverride.relay (.ite h (.ite h.decideMigration h.passOn)))

theorem takeKilnState {q : Packet} (h : w.Tidy k) : (w.takeKilnState q).Tidy k := h.updKiln.toKiln

theorem hopAck {t : Sid} {q : Packet} (h : w.Tidy k) : (w.hopAck t q).Tidy k := h.sendPacket

theorem countMulticast {q : Packet} (h : w.Tidy k) : (w.countMulticast q).Tidy k := .ite h (.ite h.updPart.emit h.updPart)

theorem process {t : Sid} {kind : Nat} {q : Packet} (h : w.Tidy k) : (w.process t kind q).Tidy k := by
  unfold World.process
  extract_lets v
  have h : v.Tidy k := h.countMulticast
  clear_value v
  split
  · exact h.serveRead
  · exact h.responded.takeReadData
  · exact h.serveWrite
  · exact h.responded.takeWriteAck
  · exact h.nmrServe
  · exact h.responded.takeNmrAck
  · exact h.serveSample
  · exact h.responded.takeReply
  · exact h.takeSignal
  · exact h.responded.takeSignalAck
  · exact h.takeMigrate
  · exact h.takeKilnState
  · exact h.takeReduce
  · exact h.takeCask
  · exact h.hopAck.intakeRecord
  · exact h.hopAck.takeMarker
  · exact h

theorem stepTagFault {t : Sid} {q : Packet} (h : w.Tidy k) : (w.stepTagFault t q).Tidy k := h.setReg.metadata

theorem countPair {q : Packet} (h : w.Tidy k) : (w.countPair q).Tidy k := .ite h h.same

theorem deliver {t : Sid} {kind : Nat} {q : Packet} (h : w.Tidy k) : (w.deliver t kind q).Tidy k :=
  h.progressed.countPair.next fun h => .ite h.process (.ite h.same.tick h.stepTagFault)

theorem releaseOrder {t : Sid} {src n : Nat} (h : w.Tidy k) : (w.releaseOrder t src n).Tidy k := by
  induction n generalizing w with
  | zero => exact h
  | succ n ih =>
    unfold World.releaseOrder
    split
    · exact h
    · exact ih h.same.deliver

theorem receive {t : Sid} {kind : Nat} {q : Packet} (h : w.Tidy k) : (w.receive t kind q).Tidy k :=
  .ite h (h.tick.packetRecord.next fun h => .ite h.same.tick h.deliver.releaseOrder)

theorem releaseSteps {t : Sid} (h : w.Tidy k) : (w.releaseSteps t).Tidy k := h.same.foldl fun _ _ h => h.process

theorem takeNmr {t : Sid} {op : Nat} {c : NmrCmd} (h : w.Tidy k) : (w.takeNmr t op c).Tidy k := .ite h.nmrServe h.receive

theorem passes {kind : Nat} {p : Packet} {hop : Nat × Nat} (h : w.Tidy k) : (w.passes kind p hop).Tidy k := h.frameOut.emit

/-! #### The step boundary -/

theorem rowItem {n p : Nat} {x : Tensor} {e : DirEntry} {row : Nat} (h : w.Tidy k) : (World.rowItem n p x e w row).Tidy k := h.addLeaf

theorem runItem {n p : Nat} {x : Tensor} {e : DirEntry} {recs : List Nat} {q : Nat} (h : w.Tidy k) : (World.runItem n p x e recs w q).Tidy k := .ite h h.addLeaf

theorem tableItems {n p : Nat} {e : DirEntry} {recs : List Nat} (h : w.Tidy k) : (w.tableItems n p e recs).Tidy k := by
  unfold World.tableItems
  split
  · exact h
  · exact .ite h (.ite (h.foldl fun _ _ h => h.rowItem) (h.foldl fun _ _ h => h.runItem))

theorem graphItem {n : Nat} {y : Nat × Nat × Nat} (h : w.Tidy k) : (World.graphItem n w y).Tidy k := by
  unfold World.graphItem
  split
  · exact h
  · extract_lets rd
    split
    · exact h
    · split
      · exact h
      · exact h.addLeaf

theorem switchItems {n : Nat} (h : w.Tidy k) : (w.switchItems n).Tidy k :=
  .ite h (((World.Tidy.ite (h.foldl fun _ _ h => h.addLeaf) h).foldl fun _ _ h => h.tableItems).foldl fun _ _ h => h.graphItem).updHop

theorem takeStats {m : TreeMsg} (h : w.Tidy k) : (w.takeStats m).Tidy k := h.updPart

theorem sendMigrant {t : Sid} {a : Nat × Nat × Nat} (h : w.Tidy k) : (World.sendMigrant t w a).Tidy k := by
  unfold World.sendMigrant
  split
  · exact h
  · exact .ite h.noPosition.metadata (h.hbmFetch.foldl fun _ _ h => h.updPart.sendPacket)

theorem switchTables_of_turned {p : Nat} (h : (w.turnTables p).Tidy k) : (w.switchTables p).Tidy k := by
  unfold World.switchTables
  extract_lets v1 v2
  have h1 : v1.Tidy k := h
  clear_value v1
  have h2 : v2.Tidy k := h1.foldl fun _ _ h => h.hbmStore
  exact h2.writeDirectory.freeMoved

theorem switchTables {p : Nat} (h : w.Tidy .canonical) : (w.switchTables p).Tidy .canonical := switchTables_of_turned h.setPart

theorem clearStep {p : Nat} (h : w.Tidy k) : (w.clearStep p).Tidy k := by
  unfold World.clearStep
  extract_lets v1 v2 v3 fab cask
  have h1 : v1.Tidy k := h.updPart
  have h2 : v2.Tidy k := h1.foldl fun _ _ h => h.updCore
  clear_value v2
  have h3 : v3.Tidy k := h2.same
  exact .ite h3.same h3

theorem sendDump (h : w.Tidy k) : (w.sendDump).Tidy k := .ite h.updCask.pumpTransfer h

theorem startDump {p n : Nat} (h : w.Tidy k) : (w.startDump p n).Tidy k := by
  unfold World.startDump
  dsimp only
  split
  · exact .ite h.updPart.sendDump h
  · exact h

theorem startRun {t : Sid} {p : Nat} {eval : Bool} (h : w.Tidy k) : (w.startRun t p eval).Tidy k := h.updPart.beginRun.endRun

theorem clearProposals {t : Sid} (h : w.Tidy k) : (w.clearProposals t).Tidy k := .ite h.hbmApply h

theorem startSlot {t : Sid} (h : w.Tidy k) : (w.startSlot t).Tidy k := h.same.clearProposals.startRun

theorem releaseRun {t : Sid} {p : Nat} (h : w.Tidy k) : (w.releaseRun t p).Tidy k := .ite h.updPart h.startRun

theorem openStep {t : Sid} {p : Nat} (h : w.Tidy k) : (w.openStep t p).Tidy k := .ite (.ite h.raise.tick.releaseRun h.startSlot) h.releaseRun

theorem domainBoundary {t : Sid} {n : Nat} {cask : Bool} (h : w.Tidy k) : (w.domainBoundary t n cask).Tidy k :=
  h.updHop.updPart.updCask.switchItems.journalFeed.next fun h => (World.Tidy.ite h.beginCask h).releaseSteps.endReplay.freeRings.settleBatches

theorem openNext {t : Sid} {p n : Nat} {cask : Bool} (h : w.Tidy k) : (w.openNext t p n cask).Tidy k := by
  unfold World.openNext
  extract_lets v1 v2 v
  have h1 : v1.Tidy k := .ite h.domainBoundary h
  have h2 : v2.Tidy k := h1.startDump
  clear_value v2
  have hv : v.Tidy k := h2.cancelDump
  exact .ite hv.stopRun.same h2.openStep

theorem boundary {t : Sid} {p : Nat} {cask : Bool} (h : w.Tidy .canonical) : (w.boundary t p cask).Tidy .canonical := by
  rw [World.boundary_eq]
  exact h.closeStats.switchTables.clearStep.setPart.openNext

theorem enterStepBarrier {t : Sid} {p : Nat} (h : w.Tidy .canonical) : (w.enterStepBarrier t p).Tidy .canonical := .ite h.setPart.emit h.boundary

end World.Tidy

end Sys2Proof.Machine

namespace Sys2Proof.Machine

namespace World.Tidy
variable {k : Track} {w : World}

/-! #### Drain -/

theorem abortDomain {step : Nat} (h : w.Tidy k) : (w.abortDomain step).Tidy k := .ite h h.same.emit

theorem updDrain {f : Drain → Drain} (h : w.Tidy k) : (w.updDrain f).Tidy k := h.same

theorem startDrain {reason : Nat} (h : w.Tidy k) : (w.startDrain reason).Tidy k := h.updDrain.emit

theorem raiseTakeover {t : Sid} {pos group status : Nat} (h : w.Tidy k) : (w.raiseTakeover t pos group status).Tidy k := h.raiseAs

theorem takeover {t : Sid} {phys pos : Nat} (h : w.Tidy k) : (w.takeover t phys pos).Tidy k :=
  h.abortDomain.next fun h => .ite h.same.raiseTakeover (.ite h.same.raiseTakeover (.ite h.same.same h.same.same.startDrain))

theorem headFailed {t : Sid} {phys : Nat} (h : w.Tidy k) : (w.headFailed t phys).Tidy k :=
  .ite h (by
    split
    · exact h.same
    · exact .ite h.same.same h.same.takeover)

theorem markFailed {t : Sid} {phys : Nat} (h : w.Tidy k) : (w.markFailed t phys).Tidy k :=
  .ite h ((World.Tidy.ite h.same h).next fun h => .ite h.headFailed (.ite h.same.emit h.same))

/-! #### The twin -/

theorem updTwin {f : Twin → Twin} (h : w.Tidy k) : (w.updTwin f).Tidy k := h.same

theorem toTwin {b : List Byte} (h : w.Tidy k) : (w.toTwin b).Tidy k := .elim h fun _ => h.sendDatagram

theorem twinStop {t : Sid} (h : w.Tidy k) : (w.twinStop t).Tidy k := .ite h.stopJob h.cancelDump

theorem raiseFenced {t : Sid} {how : Nat} (h : w.Tidy k) : (w.raiseFenced t how).Tidy k := h.raise

theorem charge {t : Sid} {n : Nat} (h : w.Tidy k) : (w.charge t n).Tidy k := .ite h.updTwin h.updTwin.raiseFenced.twinStop.toTwin.updTwin

theorem goAlone {t : Sid} {how : Nat} (h : w.Tidy k) : (w.goAlone t how).Tidy k := h.updTwin.raiseFenced

theorem mismatch {t : Sid} {n flag : Nat} (h : w.Tidy k) : (w.mismatch t n flag).Tidy k := h.raise.tick

theorem twinEnd {t : Sid} {n flag : Nat} (h : w.Tidy k) : (w.twinEnd t n flag).Tidy k := h.mismatch.twinStop.updTwin

theorem rollBack {t : Sid} {n : Nat} (h : w.Tidy .canonical) : (w.rollBack t n).Tidy .canonical := by
  unfold World.rollBack
  dsimp only
  split
  · exact h.toTwin.twinEnd
  · exact h.mismatch.toTwin.twinStop.tick.updCask.updTwin.beginRestore

theorem settleVerified (h : w.Tidy k) : (w.settleVerified).Tidy k := .ite h h.updTwin

theorem compareStep {t : Sid} {n : Nat} (h : w.Tidy .canonical) : (w.compareStep t n).Tidy .canonical :=
  .ite h ((World.Tidy.ite h.charge h).next fun h => .ite (h.updTwin.tick.next fun h => (World.Tidy.ite h.updTwin h).settleVerified) (.ite h (.ite h.twinEnd
    h.rollBack)))

theorem formDigest {t : Sid} {n : Nat} {table : List (Nat × List (BitVec 64))} (h : w.Tidy .canonical) : (w.formDigest t n table).Tidy .canonical :=
  .ite h.updTwin h.updTwin.toTwin.updTwin.compareStep

/-! #### The combining tree -/

theorem dropGen {key : Nat} (h : w.Tidy k) : (w.dropGen key).Tidy k := h.same

theorem down {m : TreeMsg} (h : w.Tidy k) : (w.down m).Tidy k := h.emit

theorem settleStep {t : Sid} (h : w.Tidy k) : (w.settleStep t).Tidy k := .ite h (.ite h.startDrain h.dropGen.down)

theorem settleDomBar {b : Nat} (h : w.Tidy k) : (w.settleDomBar b).Tidy k := .ite h h.dropGen.dropGen.down

theorem settleDomain {t : Sid} {key : Nat} (h : w.Tidy .canonical) : (w.settleDomain t key).Tidy .canonical :=
  .ite h.settleStep (.ite h.settleDomBar (.ite h.settleDomBar (.ite h (.ite h.dropGen.caskDone.down (.ite h.dropGen.down (.ite h.dropGen.formDigest h))))))

theorem joinGen {t : Sid} {m : TreeMsg} (h : w.Tidy k) : (w.joinGen t m).Tidy k := .ite (.ite h.same h) h.same

theorem restoreRefused {t : Sid} {m : TreeMsg} (h : w.Tidy k) : (w.restoreRefused t m).Tidy k := h.raiseTakeover

theorem releaseTreeN {take : World → TreeMsg → World} {n : Nat} (h : w.Tidy k) (hf : ∀ (v : World) m, v.Tidy k → (take v m).Tidy k) :
    (World.releaseTreeN take w n).Tidy k := by
  induction n generalizing w with
  | zero => exact h
  | succ n ih =>
    unfold World.releaseTreeN
    split
    · exact h
    · exact ih (hf _ _ h.same)

theorem releaseTree {t : Sid} (h : w.Tidy .canonical) : (w.releaseTree t).Tidy .canonical := h.releaseTreeN (fun _ _ h => h.joinGen.settleDomain)

theorem headTakes {t : Sid} {m : TreeMsg} (h : w.Tidy .canonical) : (w.headTakes t m).Tidy .canonical :=
  .ite h.abortDomain (.ite h.headFailed (.ite h.restoreRefused (.ite h h.joinGen.settleDomain.releaseTree)))

theorem groupTakes {t : Sid} {m : TreeMsg} (h : w.Tidy k) : (w.groupTakes t m).Tidy k := by
  unfold World.groupTakes
  extract_lets up take v
  have htake : ∀ (v : World) m, v.Tidy k → (take v m).Tidy k := fun _ _ h => h.joinGen.next fun h => .ite h.dropGen.emit h
  have hup : ∀ m, (up w m).Tidy k := fun _ => h.emit
  exact .ite h.emit (.ite (hup m) ((htake w m h).releaseTreeN htake))

theorem abortHere {t : Sid} (h : w.Tidy k) : (w.abortHere t).Tidy k := h.tick.cancelDump.stopRun.same

theorem resumeAfterRestore {t : Sid} {step : Nat} (h : w.Tidy k) : (w.resumeAfterRestore t step).Tidy k := by
  unfold World.resumeAfterRestore
  extract_lets n v fab
  have hv : v.Tidy k := h.endRestore.updPart
  clear_value v
  exact .ite h hv.same.answerRestore

theorem takeResult {t : Sid} {m : TreeMsg} (h : w.Tidy .canonical) : (w.takeResult t m).Tidy .canonical :=
  .ite h.abortHere (.ite (.ite h.takeStats.boundary h) (.ite (.ite h.completeBar.settleBar h) (.ite (World.Tidy.ite h.committedCask h).same.settleVerified
    (.ite h.resumeAfterRestore h))))

/-! #### Fabric ports -/

theorem resend {i : Nat} {frames : List (Nat × Nat × Packet)} (h : w.Tidy k) : (w.resend i frames).Tidy k := (h.updPort.foldl fun _ _ h => h.emit).count

theorem requestDrain (h : w.Tidy k) : (w.requestDrain).Tidy k := .ite h.updDrain h

theorem sendInstall (h : w.Tidy k) : (w.sendInstall).Tidy k := h.emit

theorem raiseDrain {t : Sid} {us status reason : Nat} (h : w.Tidy k) : (w.raiseDrain t us status reason).Tidy k := h.raiseAs

/-! #### Tap and governors -/

theorem updTap {f : Tap → Tap} (h : w.Tidy k) : (w.updTap f).Tidy k := h.same

theorem proposals (h : w.Tidy k) : w.proposals.2.2.2.Tidy k := h.hbmFetch.hbmFetch

theorem sendSetpoints {now : Nat} {g : Governor} {x : Bool × List Setpoint} (h : w.Tidy k) : (World.sendSetpoints now g w x).Tidy k :=
  .ite h (h.foldl fun _ _ h => h.sendDatagram).updTap.tick

theorem sendClass {now : Nat} {sent : List Setpoint} {g : Governor} (h : w.Tidy k) : (World.sendClass now sent w g).Tidy k :=
  h.foldl fun _ _ h => h.sendSetpoints

/-! #### Memory faults -/

theorem memoryStop {t : Sid} {src : Nat} (h : w.Tidy k) : (w.memoryStop t src).Tidy k :=
  .ite h.agentStop (.ite h (.ite (by
    split
    · exact h
    · exact h.axeStop) (.ite (by
    split
    · exact h
    · exact h.gsuStop) (.ite (by
    split
    · exact h
    · exact h.smpStop) h))))

theorem hbmCopy {p a : Nat} {bs : List Byte} {mask : List Bool} (h : w.Tidy k) : (w.hbmCopy p a bs mask).Tidy k :=
  (h.foldl fun _ _ h => h.hbmStore).hbmCountMask

/-! #### Observability -/

theorem startTrace {p : Nat} (h : w.Tidy k) : (w.startTrace p).Tidy k := h.updPart

theorem ringRecord {p : Nat} {r : List Byte} (h : w.Tidy k) : (w.ringRecord p r).Tidy k := h.hbmStore.hbmCount.updPart.tick

theorem lossRecord {t : Sid} {port : Bool} {lost first : Nat} (h : w.Tidy k) : (w.lossRecord t port lost first).2.Tidy k := h.stamp

theorem ringLoss {t : Sid} {p : Nat} (h : w.Tidy k) : (w.ringLoss t p).Tidy k := by
  have hl := h.lossRecord (t := t) (port := false) (lost := (w.part p).traceLost) (first := (w.part p).firstLost)
  unfold World.ringLoss
  exact .ite h (World.Tidy.ringRecord hl).updPart

theorem writeTraceRead {p v : Nat} (h : w.Tidy k) : (w.writeTraceRead p v).Tidy k := .ite h.updPart h

theorem dumpGo {p : Nat} {owner : Bool} (h : w.Tidy k) : (w.dumpGo p owner).Tidy k :=
  .ite h.updPart (.ite h.updPart (by
    split
    · exact h.updPart
    · exact .ite h.updPart (.ite h.updPart h.updPart)))

theorem tailThaw {p : Nat} (h : w.Tidy k) : (w.tailThaw p).Tidy k := h.thawTails

theorem portLoss {t : Sid} (h : w.Tidy k) : (w.portLoss t).2.Tidy k := .itePair h h.lossRecord.same

/-! #### Views -/

theorem elapse {b : Block} {i off : Nat} (h : w.Tidy k) : (w.elapse b i off).Tidy k := h.same

/-! #### Registers -/

theorem storeReg {ready : Bool} {b : Block} {i off : Nat} {v : Word} (h : w.Tidy k) : (w.storeReg ready b i off v).Tidy k := by
  unfold World.storeReg
  split
  · exact h
  · exact h.setReg

theorem writeCnt {t : Sid} {owner : Bool} {p off : Nat} {x : Word} {v : World} (h : w.Tidy k) (hr : w.writeCnt t owner p off x = some v) : v.Tidy k := by
  unfold World.writeCnt at hr
  split at hr
  · exact .of_some hr h.writeTraceRead
  · split at hr
    · extract_lets u at hr
      have hu : u.Tidy k := .ite h.dumpGo h
      exact .of_some hr (.ite hu.cancelDump hu)
    · split at hr
      · extract_lets u at hr
        have hu : u.Tidy k := .ite h.freezePart h
        exact .of_some hr (.ite hu.tailThaw hu)
      · cases hr

theorem writeUnit {t : Sid} {ready : Bool} {b : Block} {i off : Nat} {x : Word} {v : World} (h : w.Tidy k) (hr : w.writeUnit t ready b i off x = some v) :
    v.Tidy k := by
  unfold World.writeUnit at hr
  split at hr
  · split at hr
    · exact .of_some hr (.ite h.storeReg.writeStop.writeSingle h.storeReg.writeStop)
    · cases hr
  · split at hr
    · exact .of_some hr h
    · cases hr
  · split at hr
    · exact .of_some hr h.storeReg
    · cases hr
  · split at hr
    · exact .of_some hr h.storeReg
    · cases hr
  · split at hr
    · exact .of_some hr h.freezeCommand
    · cases hr
  · cases hr

theorem writeShared {t : Sid} {owner : Bool} {b : Block} {i off : Nat} {x : Word} {v : World} (h : w.Tidy k) (hr : w.writeShared t owner b i off x = some v) :
    v.Tidy k := by
  unfold World.writeShared at hr
  split at hr
  · split at hr
    · exact .of_some hr (.ite h.requestDrain h)
    · split at hr
      · exact .of_some hr h.same
      · cases hr
  · split at hr
    · exact .of_some hr (.ite h.updCask h)
    · split at hr
      · exact .of_some hr (.ite h.updCask h)
      · cases hr
  · exact h.writeCnt hr
  · split at hr
    · exact .of_some hr h.writeAlert
    · cases hr
  · cases hr

/-! #### Jobs -/

theorem raiseReject {t : Sid} {r : Nat × Nat × Nat} (h : w.Tidy k) : (w.raiseReject t r).Tidy k := h.raiseAs

theorem loadBundle {t : Sid} {p : Nat} {b : List Byte} (h : w.Tidy .canonical) : (w.loadBundle t p b).2.Tidy .canonical := by
  unfold World.loadBundle
  split
  · exact h.same.raiseReject
  · exact h.install.thawTails

theorem startStats {p : Nat} (h : w.Tidy k) : (w.startStats p).Tidy k := h.foldl fun _ _ h => h.hbmCount.hbmStore

theorem startDomain {t : Sid} (h : w.Tidy k) : (w.startDomain t).Tidy k := by
  unfold World.startDomain
  extract_lets v1 c0 v2 g v3 c fab
  have h1 : v1.Tidy k := h.hopStart
  have h2 : v2.Tidy k := h1.updPart
  have h3 : v3.Tidy k := h2.hbmStore
  clear_value v3
  exact h3.same

theorem stopNow {t : Sid} {p : Nat} (h : w.Tidy k) : (w.stopNow t p).Tidy k := h.cancelDump.stopRun

theorem unloadPart {p : Nat} (h : w.Tidy .canonical) : (w.unloadPart p).Tidy .canonical := by
  unfold World.unloadPart
  extract_lets v1 v2
  have h1 : v1.Tidy .canonical := h.foldl fun _ _ h => h.updCore
  have h2 : v2.Tidy .canonical := h1.setPart
  clear_value v2
  exact h2.same

/-! #### Start of the memories -/

theorem ethBringUp {boot : BootIn} (h : w.Tidy k) : (w.ethBringUp boot).Tidy k := h.same

theorem buildRecords {now fw : Nat} (h : w.Tidy k) : (w.buildRecords now fw).Tidy k := h.makeParts.foldl fun _ _ h => h.updPart

/-! #### Parcels -/

theorem countRefusal {status : Nat} (h : w.Tidy k) : (w.countRefusal status).Tidy k := .ite h.tick (.ite h.tick h)

/-! #### Rings -/

theorem slotParcel {p a : Nat} (h : w.Tidy k) : (w.slotParcel p a).2.Tidy k := by
  unfold World.slotParcel
  extract_lets x n good tail b f
  have hx : x.2.Tidy k := h.hbmFetch
  clear_value x
  have hb : b.2.Tidy k := hx.hbmFetch
  clear_value b f
  exact hb

end World.Tidy

end Sys2Proof.Machine

namespace Sys2Proof.Machine

/-! ### The step barrier (R27, R28, R219, R250, R324, R480): O46 -/

section Switch
variable (w : World) (t : Sid) (p : Nat)

/-- What is followed of partition `p` alone: `x`. -/
def Track.part (p : Nat) (x : Part) : Track := ⟨false, fun q => if q = p then some x else none⟩

theorem World.Tidy.of_part {x : Part} {p : Nat} {w : World} (h : x.SameVersions (w.part p)) : w.Tidy (.part p x) := by
  refine ⟨fun e => absurd e Bool.false_ne_true, fun q y hy => ?_⟩
  obtain ⟨e, hxy⟩ := Option.ite_none_right_eq_some.mp hy
  exact Option.some.inj hxy ▸ e ▸ h

theorem World.Tidy.part {x : Part} {p : Nat} {w : World} (h : w.Tidy (.part p x)) : x.SameVersions (w.part p) := h.parts p x (if_pos rfl)

/-- A partition that is followed as it is. -/
theorem World.Tidy.at_part {w : World} (p : Nat) : w.Tidy (.part p (w.part p)) := .of_part (.of_same rfl rfl rfl)

theorem DirEntry.switched_version (e : DirEntry) : e.switched.tensor = e.tensor ∧ e.switched.current = !e.current
    ∧ e.switched.version = (e.version + 1) % 2 ^ 63 := World.Tidy.setPenOver_version _ _

theorem World.closedFormat_version (e : DirEntry) : (w.closedFormat p e).tensor = e.tensor ∧ (w.closedFormat p e).current = e.current
    ∧ (w.closedFormat p e).version = e.version := by
  unfold World.closedFormat
  split
  · split <;> exact ⟨rfl, rfl, rfl⟩
  · exact ⟨rfl, rfl, rfl⟩

/-- `y` is `x` after the switch that closed the step of `x`. -/
structure Part.Switched (x y : Part) : Prop where
  step : y.step = x.step + 1
  lastSwitched : y.lastSwitched = some x.step
  dir : ∀ e ∈ x.dir, ∃ f ∈ y.dir, f.tensor = e.tensor ∧ f.current = !e.current ∧ f.version = (e.version + 1) % 2 ^ 63

theorem Part.Switched.trans {x y z : Part} (h : x.Switched y) (g : y.SameVersions z) : x.Switched z := by
  refine ⟨g.step.trans h.step, g.lastSwitched.trans h.lastSwitched, fun e he => ?_⟩
  obtain ⟨f, hf, ht, hc, hv⟩ := h.dir e he
  obtain ⟨f', hf', gt, gc, gv⟩ := g.dir f hf
  exact ⟨f', hf', gt.trans ht, gc.trans hc, gv.trans hv⟩

/-- The tables of `x` have changed places in `y`, and no step is counted yet. -/
theorem World.turnTables_part (e : DirEntry) (he : e ∈ (w.part p).dir) : ∃ f ∈ ((w.turnTables p).part p).dir,
    f.tensor = e.tensor ∧ f.current = !e.current ∧ f.version = (e.version + 1) % 2 ^ 63 := by
  obtain ⟨ht, hc, hv⟩ := w.closedFormat_version p e.switched
  obtain ⟨st, sc, sv⟩ := e.switched_version
  refine ⟨w.closedFormat p e.switched, ?_, ht.trans st, hc.trans sc, hv.trans sv⟩
  rw [World.turnTables, World.part_updPart_self]
  exact List.mem_map_of_mem he

theorem World.boundary_switched (cask : Bool) : (w.part p).Switched ((w.boundary t p cask).part p) := by
  rw [World.boundary_eq]
  generalize hn : (w.part p).step = n
  have hstats : (w.part p).SameVersions ((w.closeStats t p n).part p) := (World.Tidy.at_part p).closeStats.part
  generalize w.closeStats t p n = w1 at hstats
  have hclear : ((w1.turnTables p).part p).SameVersions (((w1.switchTables p).clearStep p).part p) :=
    (World.Tidy.switchTables_of_turned (World.Tidy.at_part p)).clearStep.part
  generalize (w1.switchTables p).clearStep p = w2 at hclear
  refine Part.Switched.trans ?_ (World.Tidy.at_part p).openNext.part
  rw [World.part_updPart_self]
  refine ⟨congrArg (· + 1) hn.symm, congrArg some hn.symm, fun e he => ?_⟩
  obtain ⟨f1, hf1, h1t, h1c, h1v⟩ := hstats.dir e he
  obtain ⟨f2, hf2, h2t, h2c, h2v⟩ := w1.turnTables_part p f1 hf1
  obtain ⟨f3, hf3, h3t, h3c, h3v⟩ := hclear.dir f2 hf2
  exact ⟨f3, hf3, by rw [h3t, h2t, h1t], by rw [h3c, h2c, h1c], by rw [h3v, h2v, h1v]⟩

theorem World.enterStepBarrier_switched (h : w.inTree p = false) : w.switched (w.enterStepBarrier t p) p := by
  rw [World.enterStepBarrier, if_neg (ne_true_of_eq_false h)]
  obtain ⟨hs, hl, hd⟩ := w.boundary_switched t p (decide (p = 0) && (w.cask.forced || w.caskDecision t.now (w.part 0).step w.stepEntry.caskFlags))
  exact ⟨hs, hl, hd⟩

end Switch

section Migrant
variable {w : World} {a : Nat × Nat × Nat} {e : DirEntry}

/-- The counters of a read are `c`, and one packet more of a migrating row is out. -/
def World.migrating (w : World) (c : AMap Word) : World :=
  ({ w with counters := c } : World).updPart 0 fun x => { x with migrateOut := x.migrateOut + 1 }

theorem World.migrating_part (c : AMap Word) : (w.migrating c).part 0 = { w.part 0 with migrateOut := (w.part 0).migrateOut + 1 } :=
  World.part_updPart_self _ _ _

/-- A row whose record one packet holds migrates in that packet (R250). -/
theorem World.sendMigrant_eq (t : Sid) (he : (w.part 0).entry a.1 = some e) (hr : w.reaches a.2.2) (h0 : 0 < e.recordBytes) (h1 : e.recordBytes ≤ 2048) :
    ∃ c src addr, w.sendMigrant t a = (w.migrating c).sendPacket t 0x03 a.2.2 src (mkTag 7 7 0) addr false true
      (w.hbmRead 0 (e.penBase + a.2.1 * e.recordBytes) e.recordBytes) := by
  obtain ⟨phys, hphys, -⟩ := hr
  have hone : ceilDiv e.recordBytes 2048 = 1 := by
    rw [ceilDiv]
    omega
  obtain ⟨c, hc⟩ := w.hbmFetch_eq (nmrSource (w.rowStack 0 e a.2.1)) 0 (e.penBase + a.2.1 * e.recordBytes) e.recordBytes
  refine ⟨c, nmrSource (w.rowStack 0 e a.2.1), globalAddr a.2.2 (e.penBase + a.2.1 * e.recordBytes), ?_⟩
  unfold World.sendMigrant
  rw [he]
  dsimp only
  rw [if_neg (by simp [hphys]), hone, hc, List.range_one, List.foldl_cons, List.foldl_nil, Nat.mul_zero, List.drop_zero,
    List.take_of_length_le ((w.length_hbmRead _ _ _).trans_le h1)]
  rfl

theorem World.sendMigrant_leaves (t : Sid) (he : (w.part 0).entry a.1 = some e) (hr : w.reaches a.2.2) (h0 : 0 < e.recordBytes) (h1 : e.recordBytes ≤ 2048) :
    w.memoriesKept (w.sendMigrant t a) ∧ ((w.sendMigrant t a).part 0).migrateSent = (w.part 0).migrateSent
      ∧ ((w.sendMigrant t a).part 0).migrateOut = (w.part 0).migrateOut + 1
      ∧ w.sent (w.sendMigrant t a) 3 a.2.2 (w.hbmRead 0 (e.penBase + a.2.1 * e.recordBytes) e.recordBytes) := by
  obtain ⟨c, src, addr, hw⟩ := World.sendMigrant_eq t he hr h0 h1
  have hm := (w.migrating c).sendPacket_mailed t 0x03 a.2.2 src (mkTag 7 7 0) addr false true
    (w.hbmRead 0 (e.penBase + a.2.1 * e.recordBytes) e.recordBytes)
  have hs := (w.migrating c).sendPacket_leaves t 0x03 a.2.2 src (mkTag 7 7 0) addr false true
    (w.hbmRead 0 (e.penBase + a.2.1 * e.recordBytes) e.recordBytes) hr
  rw [← hw] at hm hs
  refine ⟨hm.memories, ?_, ?_, hs⟩
  · rw [hm.sent.part_keeps (·.migrateSent) (fun _ _ => rfl), World.migrating_part]
  · rw [hm.sent.part_keeps (·.migrateOut) (fun _ _ => rfl), World.migrating_part]

end Migrant

section Enter
variable {s : State} {part : PartId}

/-- The barrier is entered, unless the journal's rings are full (R480). -/
def World.heldOrEntered (w : World) (t : Sid) (p : Nat) : World :=
  if p = 0 ∧ w.ringFull then
    if w.cask.ringHeld then w else (w.updCask fun c => { c with ringHeld := true }).tick .csk 0 0x0A8
  else w.enterStepBarrier t p

/-- A partition whose step is closed, with the Kiln done, and nothing that still migrates. -/
structure World.AtBarrier (w : World) (p : Nat) : Prop where
  stepDone : w.stepDone p = true
  closeSent : (w.part p).closeSent = true
  kilnDone : (w.part p).kilnDone = true

theorem exec_stepBarrierEnter_of_open (hs : s.inService = true) (hd : s.w.stepDone part.val = true) (hc : (s.w.part part.val).closeSent = false) :
    exec (.stepBarrierEnter part) s
      = .next { s with w := (s.w.updPart part.val fun y => { y with closeSent := true }).toKiln 9 part.val [(s.w.part part.val).step] [] } :=
  next_of_serve hs (by rw [if_neg (ne_false_of_eq_true hd), if_pos hc])

theorem exec_stepBarrierEnter_of_unsent (hs : s.inService = true) (hb : s.w.AtBarrier part.val) (hp : part.val = 0)
    (hm : (s.w.part part.val).migrateSent = false) :
    exec (.stepBarrierEnter part) s = .next
      { s with w := (s.w.part part.val).accepted.foldl (World.sendMigrant s.sid) (s.w.updPart 0 fun y => { y with migrateSent := true }) } :=
  next_of_serve hs (by
    rw [if_neg (ne_false_of_eq_true hb.stepDone), if_neg (ne_false_of_eq_true hb.closeSent), if_neg (ne_false_of_eq_true hb.kilnDone), if_pos ⟨hp, hm⟩])

theorem exec_stepBarrierEnter_of_sent (hs : s.inService = true) (hb : s.w.AtBarrier part.val)
    (hm : part.val = 0 → (s.w.part part.val).migrateSent = true ∧ s.w.cask.journalUnacked = 0) (ho : (s.w.part part.val).migrateOut = 0) :
    exec (.stepBarrierEnter part) s = .next { s with w := (s.w.heldOrEntered s.sid part.val) } :=
  next_of_serve hs (by
    rw [if_neg (ne_false_of_eq_true hb.stepDone), if_neg (ne_false_of_eq_true hb.closeSent), if_neg (ne_false_of_eq_true hb.kilnDone),
      if_neg fun e => absurd e.2 (ne_false_of_eq_true (hm e.1).1), if_neg fun e => e.elim (· ho) fun e => e.2 (hm e.1).2, World.heldOrEntered])

end Enter

/-- Settles O46: the guards of R27 in their order; a switch changes the version of every table once, and what follows it leaves the versions. -/
theorem stepBarrierIsEntered : Obligations.StepBarrierIsEntered := by
  intro s part hs
  dsimp only
  intro hd
  refine ⟨fun hc => ?_, fun hc hk => ⟨fun hp hm ha => ?_, fun a e hp hm ha he hr h0 h1 => ?_, fun hm ho hf => ⟨fun ht => ?_, fun ht => ?_⟩,
    fun hp hm hj ho hf hh => ?_⟩⟩
  · refine ⟨_, exec_stepBarrierEnter_of_open hs hd hc, ⟨rfl, rfl, rfl, rfl⟩, ⟨rfl, rfl, rfl, rfl⟩,
      congrArg Part.closeSent (s.w.part_updPart_self part.val fun y => { y with closeSent := true }), rfl⟩
  all_goals have hb : s.w.AtBarrier part.val := ⟨hd, hc, hk⟩
  · refine ⟨_, exec_stepBarrierEnter_of_unsent hs hb hp hm, ⟨rfl, rfl, rfl, rfl⟩, ?_⟩
    rw [ha]
    exact ⟨⟨rfl, rfl, rfl, rfl⟩, by rw [List.foldl_nil, World.part_updPart_self], rfl⟩
  · refine ⟨_, exec_stepBarrierEnter_of_unsent hs hb hp hm, ⟨rfl, rfl, rfl, rfl⟩, ?_⟩
    rw [ha, List.foldl_cons, List.foldl_nil]
    have hpart : (s.w.updPart 0 fun y => { y with migrateSent := true }).part 0 = { s.w.part 0 with migrateSent := true } := s.w.part_updPart_self 0 _
    obtain ⟨hmem, hsent, hout, hq⟩ := World.sendMigrant_leaves (w := s.w.updPart 0 fun y => { y with migrateSent := true }) (a := a) (e := e) s.sid
      (by rw [hpart, ← he, hp]; rfl) hr h0 h1
    rw [World.hbmRead_of_same (w := s.w) (v := s.w.updPart 0 fun y => { y with migrateSent := true }) rfl (by rw [hpart])] at hq
    exact ⟨hmem, by rw [hsent, hpart], by rw [hout, hpart, hp], hq⟩
  · have he := exec_stepBarrierEnter_of_sent hs hb hm ho
    rw [World.heldOrEntered, if_neg fun e => absurd e.2 (ne_true_of_eq_false (hf e.1)), World.enterStepBarrier, if_pos ht] at he
    exact ⟨_, he, ⟨rfl, rfl, rfl, rfl⟩, ⟨rfl, rfl, rfl, rfl⟩,
      congrArg Part.inBarrier (s.w.part_updPart_self 0 fun x => { x with inBarrier := true }), rfl⟩
  · have he := exec_stepBarrierEnter_of_sent hs hb hm ho
    rw [World.heldOrEntered, if_neg fun e => absurd e.2 (ne_true_of_eq_false (hf e.1))] at he
    exact ⟨_, he, rfl, s.w.enterStepBarrier_switched s.sid part.val ht⟩
  · have he := exec_stepBarrierEnter_of_sent hs hb (fun _ => ⟨hm, hj⟩) ho
    rw [World.heldOrEntered, if_pos ⟨hp, hf⟩, if_neg (ne_true_of_eq_false hh)] at he
    exact ⟨_, he, ⟨rfl, rfl, rfl, rfl⟩, ⟨rfl, rfl, rfl, rfl⟩, rfl, World.counter_tick_self _ _ _ _, rfl⟩

end Sys2Proof.Machine

namespace Sys2Proof.Machine

/-! ### The states whose memories are canonical (log entry 4) -/

/-- The memories of the world, and the recipe store, are in canonical form. -/
structure State.Tidy (s : State) : Prop where
  world : s.w.Tidy .canonical
  flash : s.sec.flash.wf = true

theorem State.tidy_iff (s : State) : s.Tidy ↔ s.memoriesWf = true := by
  unfold State.memoriesWf
  simp only [Bool.and_eq_true]
  constructor
  · rintro ⟨hw, hf⟩
    obtain ⟨h1, h2, h3, h4, h5⟩ := hw.canonical rfl
    exact ⟨⟨⟨⟨⟨h1, h2⟩, h3⟩, h4⟩, h5⟩, hf⟩
  · rintro ⟨⟨⟨⟨⟨h1, h2⟩, h3⟩, h4⟩, h5⟩, hf⟩
    exact ⟨⟨fun _ => ⟨h1, h2, h3, h4, h5⟩, fun _ x hx => absurd (show none = some x from hx) (Option.some_ne_none x).symm⟩, hf⟩

/-! #### The recipe store (R556) -/

section Flash
variable {x : Sec}

theorem Sec.flash_writeManifest (h : x.flash.wf = true) (flags n0 n1 n2 : Nat) (d0 d1 d2 : List Byte) :
    (x.writeManifest flags n0 n1 n2 d0 d1 d2).flash.wf = true := by
  rw [Sec.writeManifest_flash]
  exact Memory.wf_write _ _ _ h

theorem Sec.flash_setManifestFlags (h : x.flash.wf = true) (f : Nat → Nat) : (x.setManifestFlags f).flash.wf = true := x.flash_writeManifest h _ _ _ _ _ _ _

theorem Sec.flash_commitRegion (h : x.flash.wf = true) (r n : Nat) (d : List Byte) : (x.commitRegion r n d).flash.wf = true :=
  x.flash_writeManifest h _ _ _ _ _ _ _

end Flash

namespace State.Tidy
variable {s v : State}

theorem ite {c : Prop} [Decidable c] (h : s.Tidy) (g : v.Tidy) : (if c then s else v).Tidy := by
  split
  · exact h
  · exact g

theorem foldl {α : Type} {f : State → α → State} {xs : List α} (h : s.Tidy) (hf : ∀ (v : State) (x : α), v.Tidy → (f v x).Tidy) : (xs.foldl f s).Tidy :=
  List.foldlRecOn xs f (motive := State.Tidy) h fun v hv x _ => hf v x hv

theorem of_fields (h : s.Tidy) (hw : v.w = s.w) (hf : v.sec.flash = s.sec.flash) : v.Tidy := ⟨hw ▸ h.world, hf ▸ h.flash⟩

section Fields
variable {pwr : Pwr} {sid : Sid} {w : World} {pending : List Instr}

theorem setWorldOf {sec : Sec} (h : s.Tidy) (hw : w.Tidy .canonical) (hf : sec.flash = s.sec.flash) : State.Tidy ⟨pwr, sid, sec, w, pending⟩ :=
  ⟨hw, hf ▸ h.flash⟩

/-- Another world, and a security die with the same recipe store. Its statement names every field of the die, so that it applies without a side
goal. -/
theorem setWorld {bootStep recovery recoveryCause bootId timer nextIndex xmss owner rollbackFloor hbmMapout cellarMapout credits signQueue fwMeasure
    recipeMeasure fwVersion expiries mgcHeld mgcRunning lastKick bootHeld sparesOut} (h : s.Tidy) (hw : w.Tidy .canonical) :
    State.Tidy
      ⟨pwr, sid,
        { bootStep, recovery, recoveryCause, bootId, timer, nextIndex, xmss, owner, rollbackFloor, hbmMapout, cellarMapout, credits, signQueue,
          fwMeasure, recipeMeasure, fwVersion, expiries, mgcHeld, mgcRunning, lastKick, bootHeld, flash := s.sec.flash, sparesOut },
        w, pending⟩ :=
  ⟨hw, h.flash⟩

/-- The same world and the same recipe store. -/
theorem same {bootStep recovery recoveryCause bootId timer nextIndex xmss owner rollbackFloor hbmMapout cellarMapout credits signQueue fwMeasure
    recipeMeasure fwVersion expiries mgcHeld mgcRunning lastKick bootHeld sparesOut} (h : s.Tidy) :
    State.Tidy
      ⟨pwr, sid,
        { bootStep, recovery, recoveryCause, bootId, timer, nextIndex, xmss, owner, rollbackFloor, hbmMapout, cellarMapout, credits, signQueue,
          fwMeasure, recipeMeasure, fwVersion, expiries, mgcHeld, mgcRunning, lastKick, bootHeld, flash := s.sec.flash, sparesOut },
        s.w, pending⟩ :=
  h.setWorld h.world

end Fields

theorem onWorld {f : World → World} (h : s.Tidy) (hf : s.w.Tidy .canonical → (f s.w).Tidy .canonical) : (s.onWorld f).Tidy := ⟨hf h.world, h.flash⟩

theorem serve {f : World → World} (h : s.Tidy) (hf : s.w.Tidy .canonical → (f s.w).Tidy .canonical) : (s.serve f).Tidy := .ite (h.onWorld hf) h

/-! #### Power and reset -/

theorem modReset (h : s.Tidy) : s.modReset.Tidy := ⟨World.Tidy.reset, h.flash⟩

theorem failCause {cause alert payload : Nat} (h : s.Tidy) : (s.failCause cause alert payload).Tidy := by
  unfold State.failCause
  split
  · exact .ite ⟨h.world.setAlert.failEvent, h.flash⟩ h
  · split
    · exact ⟨h.world.setAlert.haltAll.noticeFail.failEvent, h.flash⟩
    · exact ⟨h.world.setAlert.haltAll.noticeFail.failEvent, h.flash⟩
    · exact h
    · exact h

/-! #### Time and the fabric -/

theorem holdover (h : s.Tidy) : s.holdover.Tidy := .ite h ⟨h.world.raise.tick, h.flash⟩

theorem chooseParent (h : s.Tidy) : s.chooseParent.Tidy := h.same

theorem markFailed {phys : Nat} (h : s.Tidy) : (s.markFailed phys).Tidy := by
  have hw : ({ s with w := s.w.markFailed s.sid phys } : State).Tidy := ⟨h.world.markFailed, h.flash⟩
  exact .ite hw.holdover hw

theorem slotReport {reporter slot : Nat} (h : s.Tidy) : (s.slotReport reporter slot).Tidy := by
  unfold State.slotReport
  extract_lets rs world fab v
  have hv : v.Tidy := ⟨h.world.same, h.flash⟩
  exact .ite h (.ite hv.markFailed hv)

theorem reportDown {port : Nat} (h : s.Tidy) : (s.reportDown port).Tidy := by
  unfold State.reportDown
  extract_lets slot v
  have hv : v.Tidy := .ite ⟨h.world.emit, h.flash⟩ h
  exact .ite h hv.slotReport

theorem hearTwin {kind : Nat} {b : List Byte} {f : State → State} (h : s.Tidy) (hf : ∀ v : State, v.Tidy → (f v).Tidy) : (s.hearTwin kind b f).Tidy := by
  unfold State.hearTwin
  split
  · exact h
  · extract_lets v u formed
    have hv : v.Tidy := ⟨h.world.hear fun _ h => h, h.flash⟩
    have hu : u.Tidy .canonical := hv.world
    clear_value u
    exact .ite hv (.ite (hv.setWorld hu.tick) (hf _ (hv.setWorld hu.updTwin)))

theorem portDown {i : Nat} (h : s.Tidy) : (s.portDown i).Tidy := by
  unfold State.portDown
  extract_lets v fab u
  have hv : v.Tidy .canonical := h.world.updPort
  have hu : u.Tidy .canonical := hv.same
  exact (chooseParent (s := { s with w := u }) ⟨hu, h.flash⟩).reportDown

/-! #### The memory's channels -/

theorem channelFault {c cause : Nat} {issuer : Option Nat} (h : s.Tidy) : (s.channelFault c cause issuer).Tidy := by
  unfold State.channelFault
  extract_lets src world v1 v2 v3 waiting v4 v5 v6
  have h1 : v1.Tidy .canonical := h.world.same
  have h2 : v2.Tidy .canonical := h1.setReg
  have h3 : v3.Tidy .canonical := .ite h2.tick h2
  clear_value v3
  have h4 : v4.Tidy .canonical := h3.same
  have h5 : v5.Tidy .canonical := h4.foldl fun _ _ h => h.memoryStop
  have h6 : v6.Tidy .canonical := h5.raise
  clear_value v6
  exact h.setWorld h6.stopJob

theorem corrected {c : Nat} (h : s.Tidy) : (s.corrected c).Tidy := by
  unfold State.corrected
  extract_lets v1 hour base n v2
  have h1 : v1.Tidy .canonical := h.world.tick.count
  have h2 : v2.Tidy .canonical := h1.same
  exact .ite (h.setWorld h2.same) (h.setWorld h2)

theorem grantAccess {c off : Nat} {a : GrainAccess} (h : s.Tidy) : (s.grantAccess c off a).Tidy := by
  have hw : ({ s with w := s.w.hbmCount (s.w.partOfChannel c) (off + a.first) a.length false } : State).Tidy := ⟨h.world.hbmCount, h.flash⟩
  exact .ite ⟨.ite h.world.hbmCopy h.world.hbmApplyMask, h.flash⟩ (.ite hw.channelFault (.ite hw.corrected hw))

theorem onChannel {c grain : Nat} {issuer : Option Nat} {f : State → Nat → State} (h : s.Tidy) (hf : ∀ off, (f s off).Tidy) :
    (s.onChannel c grain issuer f).Tidy := by
  unfold State.onChannel
  refine .ite h ?_
  split
  · exact h
  · exact .ite ⟨.elim h.world fun _ => h.world.memoryStop, h.flash⟩ (hf _)

theorem setHeld {c : Nat} {xs : List GrainAccess} (h : s.Tidy) : (s.setHeld c xs).Tidy := ⟨h.world.same, h.flash⟩

theorem releaseGrain {c off grain : Nat} (n : Nat) (h : s.Tidy) : (State.releaseGrain c off grain n s).Tidy := by
  induction n generalizing s with
  | zero => exact h
  | succ n ih =>
    unfold State.releaseGrain
    extract_lets xs
    split
    · exact h
    · exact .ite (ih h.setHeld.grantAccess) h

/-! #### Registers -/

theorem reaches {b : Block} {i : Nat} (h : s.Tidy) : (s.reaches b i).Tidy := by
  unfold State.reaches
  split
  · exact h
  · exact ⟨h.world.wakeIsland, h.flash⟩

theorem readReg {job : Bool} {b : Block} {i off : Nat} (h : s.Tidy) : (s.readReg job b i off).2.Tidy .canonical := by
  unfold State.readReg
  extract_lets v
  have hv : v.Tidy := h.reaches
  split
  · exact hv.world
  · exact .ite hv.world.elapse hv.world

theorem writeReg {ready owner : Bool} {b : Block} {i off : Nat} {x : Word} (h : s.Tidy) : (s.writeReg ready owner b i off x).Tidy := by
  unfold State.writeReg
  extract_lets v u
  have hv : v.Tidy := h.reaches
  have hu : u.Tidy .canonical := by
    clear_value v
    have hr : ∀ r, ((v.w.writeUnit v.sid ready b i off x).orElse fun _ => v.w.writeShared v.sid owner b i off x) = some r → r.Tidy .canonical := by
      intro r hr
      cases hz : v.w.writeUnit v.sid ready b i off x with
      | none =>
        rw [hz] at hr
        exact hv.world.writeShared hr
      | some y =>
        rw [hz] at hr
        exact .of_some hr (hv.world.writeUnit hz)
    unfold u
    cases ho : (v.w.writeUnit v.sid ready b i off x).orElse fun _ => v.w.writeShared v.sid owner b i off x with
    | none => exact hv.world.storeReg
    | some r => exact hr r ho
  clear_value u v
  refine .ite (.ite hv hv.same) (hv.setWorldOf hu ?_)
  split <;> rfl

theorem regAccess {job : Option Nat} {o : Origin} {write : Bool} {q : Parcel} (h : s.Tidy) : (s.regAccess job o write q).Tidy := by
  unfold State.regAccess
  extract_lets a type say refuse
  have hsay : ∀ (w : World) (status : Nat) (b : List Byte), w.Tidy .canonical → (say w status b).Tidy .canonical := fun _ _ _ h => h.answer
  have hrefuse : ∀ status, (refuse status).Tidy := fun _ => ⟨hsay _ _ _ h.world, h.flash⟩
  clear_value refuse
  split
  · exact hrefuse _
  · refine .ite (hrefuse _) (.ite (.ite (.ite ?_ (hrefuse _)) (.ite ⟨hsay _ _ _ h.readReg, h.flash⟩ (hrefuse _))) (.ite (hrefuse _) (.ite (hrefuse _) ?_)))
    · exact setWorld (h.writeReg (ready := true)) (hsay _ _ _ h.writeReg.world)
    · exact ⟨h.world.updUzo.sendRegs, h.flash⟩

theorem serveReg {write : Bool} {q : Packet} (h : s.Tidy) : (s.serveReg write q).Tidy := by
  unfold State.serveReg
  extract_lets reply
  have hreply : ∀ (v : State) (refused : Bool) (b : List Byte), v.Tidy → (reply v refused b).Tidy := fun _ _ _ h => h.onWorld fun h => h.sendPacket
  clear_value reply
  split
  · exact hreply _ _ _ h
  · exact .ite (.ite (hreply _ _ _ h.writeReg) (hreply _ _ _ h)) (hreply _ _ _ ⟨h.readReg, h.flash⟩)

theorem memoryRequest {write : Bool} {q : Packet} (h : s.Tidy) : (s.memoryRequest write q).Tidy := by
  have hw : ({ s with w := s.w.receive s.sid (if write then 0x03 else 0x01) q } : State).Tidy := ⟨h.world.receive, h.flash⟩
  exact .ite h (.ite hw.serveReg hw)

/-! #### Start-up -/

theorem startJob {p : Nat} {seed : Word} (h : s.Tidy) : (s.startJob p seed).Tidy := by
  unfold State.startJob
  extract_lets v1 v2 v3
  have h1 : v1.Tidy .canonical := h.world.startStats.kilnInit.firstCopy
  have h2 : v2.Tidy .canonical := .ite h1.startDomain.setCircuits h1
  exact ⟨h2.startTrace.updPart, h.flash⟩

/-- The world and the security die that the memories' training leaves. -/
structure Trained (x : World × Sec) : Prop where
  world : x.1.Tidy .canonical
  flash : x.2.flash.wf = true

theorem trainHbm {t : Sid} {fails : List Nat} {x : World × Sec} {c : Nat} (h : Trained x) : Trained (Machine.trainHbm t fails x c) := by
  unfold Machine.trainHbm
  extract_lets listed sec world v
  have hv : v.Tidy .canonical := h.world.same
  split
  · refine ⟨by dsimp only; exact hv.raise, ?_⟩
    show sec.flash.wf = true
    unfold sec
    split
    · exact h.flash
    · exact h.flash
  · exact h

theorem trainCellar {t : Sid} {b : BootIn} {x : World × Sec} {c : Nat} (h : Trained x) : Trained (Machine.trainCellar t b x c) := by
  unfold Machine.trainCellar
  extract_lets listed bad sec world v
  have hv : v.Tidy .canonical := h.world.same
  split
  · refine ⟨by dsimp only; exact hv.raise, ?_⟩
    show sec.flash.wf = true
    unfold sec
    split
    · exact h.flash
    · exact h.flash
  · exact h

theorem Trained.hbm {t : Sid} {fails xs : List Nat} {x : World × Sec} (h : Trained x) : Trained (xs.foldl (Machine.trainHbm t fails) x) :=
  List.foldlRecOn xs _ (motive := Trained) h fun _ hx _ _ => trainHbm hx

theorem Trained.cellar {t : Sid} {b : BootIn} {xs : List Nat} {x : World × Sec} (h : Trained x) : Trained (xs.foldl (Machine.trainCellar t b) x) :=
  List.foldlRecOn xs _ (motive := Trained) h fun _ hx _ _ => trainCellar hx

theorem trainMemory_eq (s : State) (boot : BootIn) : ∃ v, s.trainMemory boot = { s with
    w := ((List.range 64).foldl (Machine.trainCellar s.sid boot) ((List.range 256).foldl (Machine.trainHbm s.sid boot.hbmFail) (s.w, s.sec))).1.setReg
      (Block.pwr.addr 0 0x300) v
    sec := ((List.range 64).foldl (Machine.trainCellar s.sid boot) ((List.range 256).foldl (Machine.trainHbm s.sid boot.hbmFail) (s.w, s.sec))).2 } :=
  ⟨_, rfl⟩

theorem Trained.state {x : World × Sec} (h : Trained x) (v : Word) :
    State.Tidy { s with w := x.1.setReg (Block.pwr.addr 0 0x300) v, sec := x.2 } := ⟨World.Tidy.setReg h.world, h.flash⟩

theorem trainMemory {boot : BootIn} (h : s.Tidy) : (s.trainMemory boot).Tidy := by
  obtain ⟨v, hv⟩ := trainMemory_eq s boot
  have ht := (Trained.mk h.world h.flash : Trained (s.w, s.sec)).hbm (t := s.sid) (fails := boot.hbmFail) (xs := List.range 256)
    |>.cellar (t := s.sid) (b := boot) (xs := List.range 64)
  rw [hv]
  exact ht.state v

theorem trainPorts {boot : BootIn} (h : s.Tidy) : (s.trainPorts boot).Tidy := by
  unfold State.trainPorts
  extract_lets v1 v2 pwr s1 s2
  have h1 : v1.Tidy .canonical := h.world.trainFabric
  have h2 : v2.Tidy .canonical := (World.Tidy.ite h1 h1.setAlert).ethBringUp
  clear_value v2
  have hs1 : s1.Tidy := ⟨h2, h.flash⟩
  have hs2 : s2.Tidy := .ite hs1 (hs1.foldl fun _ _ h => .ite h h.reportDown)
  exact hs2.chooseParent

theorem ready {boot : BootIn} (h : s.Tidy) : (s.ready boot).Tidy := ⟨h.world.setField, h.flash⟩

theorem autonomous (h : s.Tidy) : s.autonomous.Tidy := by
  unfold State.autonomous
  split
  · split
    next e => exact ⟨.of_eq e h.world.loadBundle, h.flash⟩
    next e => exact startJob ⟨.of_eq e h.world.loadBundle, h.flash⟩
  · exact h

theorem bootOn {boot : BootIn} (h : s.Tidy) : (s.bootOn boot).Tidy := by
  unfold State.bootOn
  extract_lets sec s1 s2 s3
  have h1 : s1.Tidy := h.same
  have h2 : s2.Tidy := h1.trainMemory.trainPorts
  clear_value s2
  have h3 : s3.Tidy := ⟨h2.world.buildRecords, h2.flash⟩
  exact h3.ready.autonomous

theorem bootFirst {boot : BootIn} (h : s.Tidy) : (s.bootFirst boot).Tidy := ⟨h.world.same, h.flash⟩

theorem configWrite {e : Nat × Word} (h : s.Tidy) : (s.configWrite e).Tidy := by
  unfold State.configWrite
  extract_lets skip
  have hskip : skip.Tidy := ⟨h.world.tick, h.flash⟩
  split
  · exact hskip
  · exact .ite h.writeReg hskip

theorem takePlace {w : World} {geo : Nat} (h : w.Tidy .canonical) : (w.takePlace geo).Tidy .canonical := by
  unfold World.takePlace
  extract_lets c
  exact .ite h.same h.same

theorem configure (h : s.Tidy) : s.configure.Tidy := by
  unfold State.configure
  extract_lets b m img c world s1 v1 v2 v3 sec s2
  have hw : ({ s.w with config := c } : World).Tidy .canonical := h.world.same
  have h1 : s1.Tidy := chooseParent (h.setWorld (takePlace hw))
  have hv1 : v1.Tidy .canonical := h1.world.setField
  have hv2 : v2.Tidy .canonical := .ite hv1 hv1.raise
  have hv3 : v3.Tidy .canonical := .ite hv2.raise hv2
  have h2 : s2.Tidy := h1.setWorld hv3
  exact .ite (h2.foldl fun _ _ h => h.configWrite) h2

theorem boot {b : BootIn} (h : s.Tidy) : (s.boot b).Tidy := by
  unfold State.boot
  extract_lets v sec u sec'
  have hv : v.Tidy := h.bootFirst
  split
  · exact ⟨hv.world.setAlert, hv.flash⟩
  · have hu : u.Tidy := hv.configure
    clear_value u
    exact .ite hu.bootOn hu.same

end State.Tidy

end Sys2Proof.Machine

namespace Sys2Proof.Machine

/-! ### Parcels keep the memories canonical -/

/-- A request's handler keeps the memories canonical. -/
def Handler.Tidy (h : Handler) : Prop := ∀ job o q (s : State), s.Tidy → (h job o q s).Tidy

namespace State.Tidy
variable {s : State}

theorem respond {o : Origin} {type : Nat} {q : Parcel} {status : Nat} (h : s.Tidy) : (s.respond o type q status).Tidy := ⟨h.world.answer, h.flash⟩

theorem respondWith {o : Origin} {type : Nat} {q : Parcel} {payload : List Byte} (h : s.Tidy) : (s.respondWith o type q payload).Tidy :=
  ⟨h.world.answer, h.flash⟩

theorem request {type : Nat} {f : Handler} {o : Origin} {q : Parcel} (h : s.Tidy) (hf : f.Tidy) : (s.request type f o q).Tidy := by
  unfold State.request
  extract_lets say
  have hsay : ∀ (v : State) st, v.Tidy → (say v st).Tidy := fun _ _ h => .ite h h.respond
  clear_value say
  split
  · exact h
  · exact hsay _ _ ⟨h.world.countRefusal, h.flash⟩
  · extract_lets v
    have hv : v.Tidy := .ite (h.onWorld fun h => h.setPart) h
    clear_value v
    exact .ite (hsay _ _ hv) (.ite (hsay _ _ hv) (hf _ _ _ _ hv))

theorem fromLink {type : Nat} {f : Handler} {q : Parcel} (h : s.Tidy) (hf : f.Tidy) : (s.fromLink type f q).Tidy :=
  .ite (request (h.onWorld fun h => h.tick) hf) h

theorem setRs {r : Option RsSession} (h : s.Tidy) : (s.setRs r).Tidy := h.onWorld fun h => h.updUzo

theorem setManifestFlags {f : Nat → Nat} (h : s.Tidy) : State.Tidy { s with sec := s.sec.setManifestFlags f } :=
  ⟨h.world, Sec.flash_setManifestFlags h.flash f⟩

theorem commitRegion {r n : Nat} {d : List Byte} (h : s.Tidy) : State.Tidy { s with sec := s.sec.commitRegion r n d } :=
  ⟨h.world, Sec.flash_commitRegion h.flash r n d⟩

end State.Tidy

/-! #### The handlers -/

theorem doStatus_tidy : Handler.Tidy doStatus := fun _ _ _ _ h => h.respondWith

theorem doCapQuery_tidy : Handler.Tidy doCapQuery := fun _ _ _ _ h => h.respondWith

theorem doLoadBegin_tidy : Handler.Tidy doLoadBegin := fun _ _ _ _ h =>
  .ite ⟨h.world.answer, h.flash⟩ (.ite h.respond (h.onWorld fun h => h.setPart).respond)

theorem doLoadData_tidy : Handler.Tidy doLoadData := by
  intro job o q s h
  unfold doLoadData
  extract_lets p set
  have hset : ∀ x, (set x).Tidy := fun _ => h.onWorld fun h => h.setPart
  clear_value set
  split
  · exact h.respond
  · exact .ite h.respond (.ite (hset _).respond (hset _).respond)

theorem doLoadEnd_tidy : Handler.Tidy doLoadEnd := by
  intro job o q s h
  unfold doLoadEnd
  extract_lets p v say
  split
  · exact h.respond
  · have hv : v.Tidy .canonical := h.world.setPart
    have hsay : ∀ (w : World) status reason offset record, w.Tidy .canonical → (say w status reason offset record).Tidy :=
      fun _ _ _ _ _ hw => ⟨hw.answer, h.flash⟩
    clear_value say v
    refine .ite (hsay _ _ _ _ _ hv) ?_
    split
    next e => exact hsay _ _ _ _ _ (.of_eq e hv.loadBundle)
    next e => exact hsay _ _ _ _ _ (.of_eq e hv.loadBundle)

theorem doUnload_tidy : Handler.Tidy doUnload := fun _ _ _ _ h => .ite (h.onWorld fun h => h.unloadPart).respond h.respond

theorem doStart_tidy : Handler.Tidy doStart := fun _ _ _ _ h => .ite h.startJob.respond h.respond

theorem doStop_tidy : Handler.Tidy doStop := by
  intro job o q s h
  unfold doStop
  extract_lets p v
  have hv : v.Tidy := h.onWorld fun h => .ite h.stopNow h.setPart
  exact .ite h.respond hv.respondWith

theorem doRestore_tidy : Handler.Tidy doRestore := fun _ _ _ _ h =>
  .ite h.respond (.ite h.respond (.ite h.respond (h.onWorld fun h => h.updUzo.beginRestore)))

theorem doRegRead_tidy : Handler.Tidy doRegRead := fun _ _ _ _ h => h.regAccess

theorem doRegWrite_tidy : Handler.Tidy doRegWrite := fun _ _ _ _ h => h.regAccess

theorem doDmaOpen_tidy : Handler.Tidy doDmaOpen := fun _ _ _ _ h => .ite h.respond (h.onWorld fun h => h.updUzo).respond

theorem doDmaClose_tidy : Handler.Tidy doDmaClose := fun _ _ _ _ h => .ite h.respond (h.onWorld fun h => h.updUzo).respond

theorem doDmaRead_tidy : Handler.Tidy doDmaRead := by
  intro job o q s h
  unfold doDmaRead
  extract_lets i n off x r
  split
  · exact h.respond
  · have hr : r.2.Tidy .canonical := h.world.hbmFetch
    clear_value r
    exact State.Tidy.respondWith ⟨hr.count, h.flash⟩

theorem doDmaWrite_tidy : Handler.Tidy doDmaWrite := by
  intro job o q s h
  unfold doDmaWrite
  extract_lets i off bs
  split
  · exact h.respond
  · exact .ite h.respond (h.onWorld fun h => h.hbmWrite.count).respond

theorem doRingCfg_tidy : Handler.Tidy doRingCfg := fun _ _ _ _ h =>
  .ite h.respond (.ite h.respond (.ite h.respond (h.onWorld fun h => h.updUzo).respond))

theorem doRsBegin_tidy : Handler.Tidy doRsBegin := by
  intro job o q s h
  unfold doRsBegin
  extract_lets r n v
  have hv : v.Tidy := .ite h.setManifestFlags h
  exact .ite h.respond (.ite h.respond (.ite (.ite h.respond h.setManifestFlags.respond) (.ite h.respond hv.setRs.respond)))

theorem doRsData_tidy (sparesOut : Bool) : Handler.Tidy (doRsData sparesOut) := by
  intro job o q s h
  unfold doRsData
  split
  · exact h.respond
  next x _ =>
    have hw : State.Tidy { s with sec := { s.sec with flash := s.sec.flash.write (regionBase x.region + x.received) (q.payload.drop 8) } } :=
      ⟨h.world, Memory.wf_write _ _ _ h.flash⟩
    exact .ite h.setRs.respond (.ite (State.Tidy.respond h.same) hw.setRs.respond)

theorem doRsEnd_tidy (boot : BootIn) : Handler.Tidy (doRsEnd boot) := by
  intro job o q s h
  unfold doRsEnd
  split
  · exact h.respond
  · extract_lets bs d v u
    have hv : v.Tidy := h.setRs
    split
    · exact ⟨hv.world.answer, hv.flash⟩
    · have hu : u.Tidy := hv.commitRegion.respond
      exact .ite hu.boot hu

theorem doAttest_tidy : Handler.Tidy doAttest := fun _ _ _ _ h => .ite h.respond (.ite h.respond (.ite h.respond h.same))

theorem doKey_tidy : Handler.Tidy doKey := fun _ _ _ _ h => .ite h.respond (State.Tidy.respond (h.onWorld fun h => h.same))

theorem doJobKey_tidy : Handler.Tidy doJobKey := fun _ _ _ _ h => (h.onWorld fun h => h.setPart).respond

theorem doClaim_tidy : Handler.Tidy doClaim := fun _ _ _ _ h => .ite h.respond (State.Tidy.respond h.same)

theorem doRelease_tidy : Handler.Tidy doRelease := by
  intro job o q s h
  unfold doRelease
  generalize List.range 4 = ps
  exact State.Tidy.respond (h.setWorld (h.world.foldl fun _ _ h => .ite h.stopNow h))

theorem doFloor_tidy : Handler.Tidy doFloor := fun _ _ _ _ h => .ite h.respond (State.Tidy.respond h.same)

theorem doSlotBell_tidy : Handler.Tidy doSlotBell := fun _ _ _ _ h => h.respond

theorem handlerOf_tidy (type : Nat) : (handlerOf type).Tidy := by
  unfold handlerOf
  split
  · exact doStatus_tidy
  · exact doCapQuery_tidy
  · exact doAttest_tidy
  · exact doLoadBegin_tidy
  · exact doLoadData_tidy
  · exact doLoadEnd_tidy
  · exact doUnload_tidy
  · exact doStart_tidy
  · exact doStop_tidy
  · exact doRestore_tidy
  · exact doRegRead_tidy
  · exact doRegWrite_tidy
  · exact doDmaOpen_tidy
  · exact doDmaClose_tidy
  · exact doDmaRead_tidy
  · exact doDmaWrite_tidy
  · exact doRingCfg_tidy
  · exact doRsBegin_tidy
  · exact doRsData_tidy false
  · exact doRsEnd_tidy _
  · exact doKey_tidy
  · exact doJobKey_tidy
  · exact doClaim_tidy
  · exact doRelease_tidy
  · exact doFloor_tidy
  · exact doSlotBell_tidy

/-! #### Rings and the signer -/

namespace State.Tidy
variable {s : State}

theorem ringSlot {r slot : Nat} (h : s.Tidy) : (State.ringSlot r s slot).Tidy := by
  unfold State.ringSlot
  extract_lets ring win
  refine .ite h ?_
  split
  next e =>
    have hv : State.Tidy { s with w := _ } := ⟨.of_eq e h.world.slotParcel, h.flash⟩
    exact .ite hv.respond (hv.request (handlerOf_tidy _))

theorem refuseSign {r : SignReq} (h : s.Tidy) : (s.refuseSign r).Tidy := by
  unfold State.refuseSign
  extract_lets v
  have hv : v.Tidy := h.onWorld fun h => h.tick
  clear_value v
  split
  · exact .ite hv.respond hv
  · exact hv

theorem reserveLeaves (h : s.Tidy) : s.reserveLeaves.Tidy := by
  unfold State.reserveLeaves
  exact h.setWorld h.world.tick.raise

theorem sign {r : SignReq} (h : s.Tidy) : (s.sign r).Tidy := by
  unfold State.sign
  extract_lets i sec v
  have hv : v.Tidy := h.setWorld h.world.tick
  clear_value v
  split
  · exact hv.respondWith
  · exact hv.onWorld fun h => .ite h.updCask h

end State.Tidy

theorem doDoorbell_tidy : Handler.Tidy doDoorbell := by
  intro job o q s h
  unfold doDoorbell
  extract_lets r tail ring win n v
  have hv : v.Tidy := h.foldl fun _ _ h => h.ringSlot
  exact .ite (h.onWorld fun h => h.tick) (hv.onWorld fun h => h.updUzo.sendParcel)

end Sys2Proof.Machine

namespace Sys2Proof.Machine

/-! ### The commands that run on the module in service keep the memories canonical -/

section Served
variable {s : State}

/-- A command answers a next state whose memories are canonical. -/
def Answer.Tidy (o : Host.Outcome State Fault Refusal) : Prop := ∃ t, o = .next t ∧ t.Tidy

theorem Answer.Tidy.serve (h : s.Tidy) {f : World → World} (hf : ∀ w : World, w.Tidy .canonical → (f w).Tidy .canonical) :
    Answer.Tidy (.next (s.serve f)) := ⟨_, rfl, h.serve (hf s.w)⟩

/-! #### MXE -/

theorem execMxeKStep_tidy {core : CoreId} (h : s.Tidy) : Answer.Tidy (execMxeKStep core s) := .serve h fun _ h => by
  extract_lets c v
  have hv : v.Tidy .canonical := h.mxeStart
  refine .ite h ?_
  split
  · exact hv
  · exact .ite hv hv.mxeKStep

theorem execMxeTileWriteback_tidy {core : CoreId} (h : s.Tidy) : Answer.Tidy (execMxeTileWriteback core s) := .serve h fun _ h =>
  .ite h (by
    split
    · exact h
    · split
      · exact h
      · exact .ite h (.ite h.mxeWrite.updMxe.finishOp h.mxeWrite.updMxe))

/-! #### VXE -/

theorem execVxeChain_tidy {core : CoreId} (h : s.Tidy) : Answer.Tidy (execVxeChain core s) := .serve h fun _ h => h.vxeCommand

theorem execVxeSegmented_tidy {core : CoreId} (h : s.Tidy) : Answer.Tidy (execVxeSegmented core s) := .serve h fun _ h => h.vxeCommand

theorem execVxeMatmulF32_tidy {core : CoreId} (h : s.Tidy) : Answer.Tidy (execVxeMatmulF32 core s) := .serve h fun _ h => h.vxeCommand

theorem execVxeMatmulF64_tidy {core : CoreId} (h : s.Tidy) : Answer.Tidy (execVxeMatmulF64 core s) := .serve h fun _ h => h.vxeCommand

theorem execVxeTranspose_tidy {core : CoreId} (h : s.Tidy) : Answer.Tidy (execVxeTranspose core s) := .serve h fun _ h => h.vxeCommand

theorem execVxeGather_tidy {core : CoreId} (h : s.Tidy) : Answer.Tidy (execVxeGather core s) := .serve h fun _ h => h.vxeCommand

theorem execVxeScatter_tidy {core : CoreId} (h : s.Tidy) : Answer.Tidy (execVxeScatter core s) := .serve h fun _ h => h.vxeCommand

theorem execVxeGrouped_tidy {core : CoreId} (h : s.Tidy) : Answer.Tidy (execVxeGrouped core s) := .serve h fun _ h => h.vxeCommand

/-! #### AXE -/

theorem execAxeLoad_tidy {core : CoreId} {stream : Nat} (h : s.Tidy) : Answer.Tidy (execAxeLoad core stream s) := .serve h fun _ h => by
  dsimp only
  split
  · exact .ite h h.axeReread
  · exact h.axeAct (fun _ _ h => h.axeEmit)

theorem execAxeStore_tidy {core : CoreId} {stream : Nat} (h : s.Tidy) : Answer.Tidy (execAxeStore core stream s) :=
  .serve h fun _ h => h.axeAct (fun _ _ h => h.axeStoreTile)

theorem execAxeCopy_tidy {core : CoreId} {stream : Nat} (h : s.Tidy) : Answer.Tidy (execAxeCopy core stream s) :=
  .serve h fun _ h => h.axeAct (fun _ _ h => h.axeMove)

theorem execAxeRelay_tidy {core : CoreId} {stream : Nat} (h : s.Tidy) : Answer.Tidy (execAxeRelay core stream s) :=
  .serve h fun _ h => h.axeAct (fun _ _ h => h.axeRelayNext)

theorem execZeroPredictVerify_tidy {core : CoreId} {stream : Nat} (h : s.Tidy) : Answer.Tidy (execZeroPredictVerify core stream s) := .serve h fun _ h => by
  dsimp only
  split
  · exact h
  · split
    · exact .ite h (by
        split
        · exact h.mxeFault
        · exact h.axeStop
        · exact h.setZeroBit.popQueue.resolveGuess.next fun h => (World.Tidy.ite h h.release).updStream.sweepStreams.next fun h => by
            split
            · exact h.mxeFault
            · exact h)
    · exact h

/-! #### Ethernet -/

theorem execEthFrameRx_tidy {f : EthFrame} (h : s.Tidy) : Answer.Tidy (execEthFrameRx f s) := .serve h fun _ h => by
  split
  · exact h.hear fun _ h => .ite h.sendFrame h
  · exact h.hear fun _ h => .ite h.sendFrame h
  · exact h.hear fun _ h => h.sendFrame
  · exact h.hear fun _ h => h.tick
  · exact .ite (.ite h.tick.tick h.tick) h
  · exact .ite h.tick.tick h
  · exact .ite h.tick h
  · exact h.hear fun _ h => h
  · exact h.hear fun _ h => h
  · exact h.hear fun _ h => h

theorem execEthLinkChange_tidy {port : Fin 4} {up : Bool} (h : s.Tidy) : Answer.Tidy (execEthLinkChange port up s) := .serve h fun _ h => h.same

/-! #### GSU and sort-unique -/

theorem execSortUnique_tidy {cluster : ClusterId} (h : s.Tidy) : Answer.Tidy (execSortUnique cluster s) := .serve h fun _ h => by
  dsimp only
  split
  · exact h
  · exact .ite h (.ite h.throttle h.opRecord.suqRun)

theorem execGsuGather_tidy {cluster : ClusterId} (h : s.Tidy) : Answer.Tidy (execGsuGather cluster s) :=
  .serve h fun _ h => h.gsuAct (fun _ _ _ h => h.gsuGather)

theorem execGsuScatter_tidy {cluster : ClusterId} (h : s.Tidy) : Answer.Tidy (execGsuScatter cluster s) :=
  .serve h fun _ h => h.gsuAct (fun _ _ _ h => h.gsuScatter)

theorem execGsuMigrate_tidy {cluster : ClusterId} (h : s.Tidy) : Answer.Tidy (execGsuMigrate cluster s) :=
  .serve h fun _ h => h.gsuAct (fun _ _ _ h => h.gsuMigrate)

theorem execGsuReadout_tidy {cluster : ClusterId} (h : s.Tidy) : Answer.Tidy (execGsuReadout cluster s) :=
  .serve h fun _ h => h.gsuAct (fun _ _ _ h => .ite h h.readoutTable.gsuDone)

/-! #### Dispatch and barriers -/

theorem execItemAdmit_tidy {flow : Fin 1024} (h : s.Tidy) : Answer.Tidy (execItemAdmit flow s) := .serve h fun _ h => by
  dsimp only
  split
  · exact h
  · exact .ite (by
      split
      next e1 => exact .of_eq e1 h.agentReads
      next e1 => exact (h.agentReads_some e1).updDie.updFlow.progressed) h

theorem execWorkDispatch_tidy {r : Requester} (h : s.Tidy) : Answer.Tidy (execWorkDispatch r s) := .serve h fun _ h =>
  .ite h (by
    split
    · split
      · exact .ite h.serveCore h
      · exact h
    · exact .ite h.serveSampler h)

theorem execCollectRecord_tidy {core : CoreId} (h : s.Tidy) : Answer.Tidy (execCollectRecord core s) := .serve h fun _ h => by
  dsimp only
  split
  · exact .ite h h.wakeIsland.granted.updDie.updCore.endHold.retryComplete
  · exact h

theorem execItemComplete_tidy {flow : Fin 1024} {seq : Nat} (h : s.Tidy) : Answer.Tidy (execItemComplete flow seq s) := .serve h fun _ h => by
  dsimp only
  split
  · exact h
  · exact .ite h.updFlow.releaseItems h

theorem execWatchWake_tidy {core : CoreId} (h : s.Tidy) : Answer.Tidy (execWatchWake core s) := .serve h fun _ h => by
  dsimp only
  split
  · exact h
  · exact .ite h.wakeIsland.updCore.syncRecord.endHold h

theorem execDeadlock_tidy {part : PartId} (h : s.Tidy) : Answer.Tidy (execDeadlock part s) := .serve h fun _ h => .ite h.setReg.setReg.tick.raise.stopJob h

/-! #### The Kiln -/

theorem execGradReady_tidy {frame : KilnFrame} {tensor step offset first count : Nat} (h : s.Tidy) : Answer.Tidy (execGradReady frame tensor step offset
    first count s) :=
  .serve h fun _ h =>
  .ite h.frameIn (.ite h.frameIn.klnFault (by
    split
    · exact h.frameIn.klnFault
    · exact .ite h.frameIn.klnFault (.ite h.frameIn.klnFault ((h.frameIn.setGrad.foldl fun _ _ h => h.updKiln.fromKiln).next fun h => .ite h.updKiln h))))

theorem execKilnRead_tidy {frame : KilnFrame} {offset : Nat} (h : s.Tidy) : Answer.Tidy (execKilnRead frame offset s) :=
  .serve h fun _ h => h.frameIn.progressed.next fun h => .ite h (.ite h.agentStop h.hbmFetch.toKiln.toKiln)

theorem execKilnReadData_tidy {frame : KilnFrame} {offset : Nat} {data : List Byte} (h : s.Tidy) : Answer.Tidy (execKilnReadData frame offset data s) :=
  .serve h fun _ h => h.frameIn.updKilnOf fun hw => Memory.wf_write _ _ _ hw

theorem execRowGrad_tidy {frame : KilnFrame} {tensor step row : Nat} {values : List (BitVec 32)} (h : s.Tidy) : Answer.Tidy (execRowGrad frame tensor step
    row values s) :=
  .serve h fun _ h =>
  .ite h.frameIn (.ite h.frameIn.klnFault (by
    split
    · exact h.frameIn.klnFault
    · exact .ite h.frameIn.klnFault (.ite h.frameIn.klnFault (.ite h.frameIn.klnFault h.frameIn.setGrad))))

theorem execRowsEnd_tidy {frame : KilnFrame} {tensor step touched : Nat} (h : s.Tidy) : Answer.Tidy (execRowsEnd frame tensor step touched s) :=
  .serve h fun _ h =>
  .ite h.frameIn (.ite h.frameIn.klnFault (by
    split
    · exact h.frameIn.klnFault
    · exact .ite h.frameIn.klnFault (.ite h.frameIn (h.frameIn.setGrad.next fun h => .ite h h.updKiln))))

theorem execFreezeEntry_tidy {part : PartId} {rule entry effectiveStep : Nat} (h : s.Tidy) : Answer.Tidy (execFreezeEntry part rule entry effectiveStep s) :=
  .serve h fun _ h => h.freezeCommand

theorem execThawEntry_tidy {part : PartId} {rule entry effectiveStep : Nat} (h : s.Tidy) : Answer.Tidy (execThawEntry part rule entry effectiveStep s) :=
  .serve h fun _ h => h.freezeCommand

theorem execFreezeRows_tidy {part : PartId} {rule entry effectiveStep : Nat} (h : s.Tidy) : Answer.Tidy (execFreezeRows part rule entry effectiveStep s) :=
  .serve h fun _ h => h.freezeCommand

theorem execThawRows_tidy {part : PartId} {rule entry effectiveStep : Nat} (h : s.Tidy) : Answer.Tidy (execThawRows part rule entry effectiveStep s) :=
  .serve h fun _ h => h.freezeCommand

theorem execKilnEntryUpdate_tidy {part : PartId} (h : s.Tidy) : Answer.Tidy (execKilnEntryUpdate part s) := .serve h fun _ h => by
  dsimp only
  split
  · exact h
  · split
    · exact h
    · exact .ite h (h.applyFreezes.next fun h => (World.Tidy.ite h.updKiln.tick (.ite h.updKiln.updateTable h.updKiln.updateMatrix)).settleKiln)

theorem execEmit_tidy {frame : KilnFrame} {tensor offset : Nat} {data : List Byte} (h : s.Tidy) : Answer.Tidy (execEmit frame tensor offset data s) :=
  .serve h fun _ h => h.frameIn.progressed.next fun h => by
    dsimp only
    split
    · exact h
    · exact .ite h (.ite h.agentStop (.ite h.homeWrite h.homeWrite.toKiln))

theorem execKilnAck_tidy {frame : KilnFrame} {what : AckOf} (h : s.Tidy) : Answer.Tidy (execKilnAck frame what s) := .serve h fun _ h => by
  dsimp only
  split
  · exact h.frameIn.updKiln.settleKiln
  · exact h.frameIn.updKiln.settleKiln
  · exact h.frameIn.updKiln.settleKiln
  · exact h.frameIn.progressed.next fun h => by
      split
      · exact h
      · exact h.updKiln.sendPacket

theorem execStateOut_tidy {frame : KilnFrame} {tensor row position : Nat} {frozen : Bool} {record : List Byte} (h : s.Tidy) : Answer.Tidy (execStateOut
    frame tensor row position frozen record s) :=
  .serve h fun _ h => h.frameIn.progressed.next fun h => .ite h h.sendPacket

theorem execStateIn_tidy {frame : KilnFrame} {tensor row : Nat} {frozen : Bool} {record : List Byte} (h : s.Tidy) : Answer.Tidy (execStateIn frame tensor
    row frozen record s) :=
  .serve h fun _ h => by
  dsimp only
  split
  · exact .ite h.frameIn (.ite h.frameIn.klnFault (World.Tidy.ite h.frameIn h.frameIn.takeMigrant).setRowRecord.setRowFrozen.fromKiln)
  · exact .ite h.frameIn.klnFault h.frameIn

theorem execStepClose_tidy {frame : KilnFrame} {step : Nat} (h : s.Tidy) : Answer.Tidy (execStepClose frame step s) :=
  .serve h fun _ h => .ite h.frameIn h.frameIn.updKiln.settleKiln

theorem execStepDone_tidy {frame : KilnFrame} {step : Nat} (h : s.Tidy) : Answer.Tidy (execStepDone frame step s) :=
  .serve h fun _ h => h.frameIn.progressed.next fun h => .ite h.setPart h

theorem execKilnLinkRetrain_tidy {ok : Bool} (h : s.Tidy) : Answer.Tidy (execKilnLinkRetrain ok s) := .serve h fun _ h => by
  extract_lets v1 cask v2 n v3
  have h1 : v1.Tidy .canonical := h.count
  have h2 : v2.Tidy .canonical := h1.same
  have h3 : v3.Tidy .canonical := h2.updKiln
  exact .ite h2.updKiln (.ite (h3.foldl fun _ _ h => .ite h.klnFault h) h3)

/-! #### The sampler -/

theorem execSamplerBlock_tidy {cluster : ClusterId} (h : s.Tidy) : Answer.Tidy (execSamplerBlock cluster s) := .serve h fun _ h =>
  .ite h (by
    split
    · exact .ite h.throttle h.updSmp.tick.opRecord.beginBlock
    · exact h.updSmp.beginBlock
    · exact h)

theorem execSmpHopDraw_tidy {cluster : ClusterId} (h : s.Tidy) : Answer.Tidy (execSmpHopDraw cluster s) := .serve h fun _ h => by
  extract_lets k p
  split
  · exact h
  · split
    · exact h
    · extract_lets seeds seed0 v
      have hv : v.Tidy .canonical := h.settleHop
      refine .ite h (.ite h.requestDraws ?_)
      split
      · exact hv
      · refine .ite hv.finishBlock ?_
        split
        · exact hv.smpStop
        next e1 =>
          extract_lets u
          have hu : u.Tidy .canonical := (hv.drawLocal e1).updRun.requestDraws.settleHop
          split
          · exact hu
          · exact .ite hu.finishBlock hu

/-! #### The live loop -/

theorem execFeedDatagram_tidy {d : Datagram} (h : s.Tidy) : Answer.Tidy (execFeedDatagram d s) := .serve h fun _ h =>
  h.hear (fun _ h => .ite h.tick (.ite h.tick (by
    split
    · exact h.tick
    · exact .ite h.tick (h.tick.count.foldl fun _ _ h => h.takeRecord))))

theorem execBatchClose_tidy {batch : Nat} (h : s.Tidy) : Answer.Tidy (execBatchClose batch s) :=
  .serve h fun _ h => .ite h (.ite h.lateWaiting.updHop (h.routeWaiting.next fun h => .ite h h.updHop.sendMarkers))

/-! #### Casks -/

theorem execKilnPartSend_tidy (h : s.Tidy) : Answer.Tidy (execKilnPartSend s) := .serve h fun _ h => by
  split
  · exact h
  · exact .ite h (.ite h.updCask.mirrorOut h.updCask.endStop)

theorem execBaseStart_tidy {tensor : Nat} (h : s.Tidy) : Answer.Tidy (execBaseStart tensor s) := .serve h fun _ h => by
  split
  · refine .ite h ?_
    split
    next e1 => exact .of_eq e1 h.agentReads
    next e1 =>
      extract_lets piece v1 v2
      have h1 : v1.Tidy .canonical := (h.agentReads_some e1).updCask
      have h2 : v2.Tidy .canonical := h1.sendStripes
      split
      · exact h2.sendStripes
      · exact h2
  · exact h

theorem execCskRequest_tidy (h : s.Tidy) : Answer.Tidy (execCskRequest s) := .serve h fun _ h => h.updCask

theorem execRiskEval_tidy (h : s.Tidy) : Answer.Tidy (execRiskEval s) := .serve h fun _ h => h.updCask

/-! #### REDUCE -/

theorem execReduceStart_tidy {tensor : Nat} (h : s.Tidy) : Answer.Tidy (execReduceStart tensor s) := .serve h fun _ h => by
  split
  · exact h
  · exact .ite h (h.same.foldl fun _ _ h => h.sendReduce)

/-! #### Power -/

theorem execClockStop_tidy {cluster : ClusterId} (h : s.Tidy) : Answer.Tidy (execClockStop cluster s) := .serve h fun _ h => .ite h.same.count h

theorem execClockRestart_tidy {cluster : ClusterId} (h : s.Tidy) : Answer.Tidy (execClockRestart cluster s) := .serve h fun _ h => h.wakeIsland

/-! #### Sequencers -/

theorem execNop_tidy {core : CoreId} (h : s.Tidy) : Answer.Tidy (execNop core s) := .serve h fun _ h => h.seqRun (fun _ h => h.retire)

theorem execIssue_tidy {core : CoreId} {engine : Engine} {desc : Fin 2048} {loopBind : Fin 8} {doneWatch : Option WatchId} (h : s.Tidy) : Answer.Tidy
    (execIssue core engine desc loopBind doneWatch s) :=
  .serve h fun _ h => h.seqRun (fun _ h => .ite h.updCore.enqueueOp.startOps.retire h.updCore.holdSeq)

theorem execOperationDone_tidy {core : CoreId} {engine : Engine} (h : s.Tidy) : Answer.Tidy (execOperationDone core engine s) := .serve h fun _ h => by
  dsimp only
  split
  · exact h
  · refine .ite h (World.Tidy.progressed (World.Tidy.startOps ?_))
    split
    · exact h.updCore
    · exact h.updCore.addWatch

theorem execLoop_tidy {core : CoreId} {counter : Fin 8} {count : BitVec 24} {endPc : Fin 8192} {fromWork : Bool} {word : Fin 8} (h : s.Tidy) : Answer.Tidy
    (execLoop core counter count endPc fromWork word s) :=
  .serve h fun _ h => h.seqRun (fun _ h => .ite h.updCore.retire h.updCore.tick.progressed)

theorem execBranch_tidy {core : CoreId} {cond : Fin 16} {sense : Bool} {target : Fin 8192} (h : s.Tidy) : Answer.Tidy (execBranch core cond sense target s) :=
  .serve h fun _ h => h.seqRun (fun _ h => (World.Tidy.ite h h.tick).next fun h => .ite h.updCore.updCore.tick.progressed h.updCore.retire)

theorem execSetcc_tidy {core : CoreId} {mask value : BitVec 7} (h : s.Tidy) : Answer.Tidy (execSetcc core mask value s) :=
  .serve h fun _ h => h.seqRun (fun _ h => h.updCore.retire)

theorem execGetWork_tidy {core : CoreId} {serviceMask : BitVec 16} (h : s.Tidy) : Answer.Tidy (execGetWork core serviceMask s) :=
  .serve h fun _ h => h.seqRun (fun _ h => .ite h.tick.completeOrHold h.holdSeq)

theorem execComplete_tidy {core : CoreId} {useWord : Bool} {word : Fin 8} (h : s.Tidy) : Answer.Tidy (execComplete core useWord word s) :=
  .serve h fun _ h => h.seqRun (fun _ h => .ite h.completeOrHold h.tick.retire)

theorem execWait_tidy {core : CoreId} {watch : WatchId} {cmp : Fin 3} {fromWork : Bool} {word : Fin 8} {target : BitVec 32} (h : s.Tidy) : Answer.Tidy
    (execWait core watch cmp fromWork word target s) :=
  .serve h fun _ h => h.seqRun (fun _ h => .ite h.retire h.updCore.holdSeq)

theorem execSignal_tidy {core : CoreId} {remote : Bool} {toCore : CoreId} {watch : WatchId} {increment : BitVec 16} {position : BitVec 14} (h : s.Tidy) :
    Answer.Tidy (execSignal core remote toCore watch increment position s) :=
  .serve h fun _ h => h.seqRun (fun _ h => .ite h.addWatch.updCore.retire (.ite h.seqMetadata (.ite h h.takeTag.updCore.sendPacket.retire)))

theorem execFence_tidy {core : CoreId} (h : s.Tidy) : Answer.Tidy (execFence core s) := .serve h fun _ h => h.seqRun (fun _ h => h.holdSeq)

theorem execFenceComplete_tidy {core : CoreId} (h : s.Tidy) : Answer.Tidy (execFenceComplete core s) := .serve h fun _ h => by
  dsimp only
  split
  · exact .ite h.syncRecord.endHold h
  · exact h

theorem execBarrier_tidy {core : CoreId} {domain wait : Bool} {cluster : Fin 12} {index : Fin 64} (h : s.Tidy) : Answer.Tidy (execBarrier core domain wait
    cluster index s) :=
  .serve h fun _ h => h.seqRun (fun _ h => h.enterBar)

theorem execRaise_tidy {core : CoreId} {code : BitVec 8} {payload : BitVec 32} (h : s.Tidy) : Answer.Tidy (execRaise core code payload s) :=
  .serve h fun _ h => h.seqRun (fun _ h => h.raise.retire)

theorem execEnd_tidy {core : CoreId} (h : s.Tidy) : Answer.Tidy (execEnd_ core s) :=
  .serve h fun _ h => h.seqRun (fun _ h => .ite h.tick.completeOrHold h.holdSeq)

theorem execEndDrained_tidy {core : CoreId} (h : s.Tidy) : Answer.Tidy (execEndDrained core s) := .serve h fun _ h => by
  dsimp only
  split
  · exact .ite h.holdRecord.updCore.tick.progressed.endRun h
  · exact h

theorem execSeqStop_tidy {core : CoreId} (h : s.Tidy) : Answer.Tidy (execSeqStop core s) := .serve h fun _ h => h.wakeIsland.writeStop

theorem execSeqSingle_tidy {core : CoreId} (h : s.Tidy) : Answer.Tidy (execSeqSingle core s) := .serve h fun _ h => h.wakeIsland.writeSingle

/-! #### Restore and what leaves for the store -/

theorem execCaskExport_tidy (h : s.Tidy) : Answer.Tidy (execCaskExport s) := .serve h fun _ h => by
  split
  · exact h
  · exact .ite h (.ite h.endTransfer (.ite h.startTransfer (by
      split
      · exact .ite h.updCask.askPeers h
      · exact .ite h (.ite h.updCask.endTransfer h.updCask.startTransfer))))

theorem execCaskManifest_tidy {frame : List Byte} (h : s.Tidy) : Answer.Tidy (execCaskManifest frame s) :=
  .serve h fun _ h => h.hearStore (fun _ h => h.takeData)

theorem execCaskData_tidy {frame : List Byte} (h : s.Tidy) : Answer.Tidy (execCaskData frame s) := .serve h fun _ h => h.hearStore (fun _ h => h.takeData)

theorem execCaskAck_tidy {frame : List Byte} (h : s.Tidy) : Answer.Tidy (execCaskAck frame s) :=
  .serve h fun _ h => h.hearStore (fun _ h => .ite h (h.updCask.pumpTransfer.next fun h => .ite h.endTransfer h))

theorem execCaskFetch_tidy {frame : List Byte} (h : s.Tidy) : Answer.Tidy (execCaskFetch frame s) := .serve h fun _ h => h.askStore

theorem execCaskEnd_tidy {frame : List Byte} (h : s.Tidy) : Answer.Tidy (execCaskEnd frame s) :=
  .serve h fun _ h => h.hearStore (fun _ h => .ite h.endTransfer h.toStore)

theorem execCaskRefuse_tidy {frame : List Byte} (h : s.Tidy) : Answer.Tidy (execCaskRefuse frame s) := .serve h fun _ h =>
  h.hearStore (fun _ h => .ite h.endTransfer (by
    split
    · exact .ite h.refuseRestore h
    · exact h))

theorem execCaskFrameResend_tidy {seq : Nat} (h : s.Tidy) : Answer.Tidy (execCaskFrameResend seq s) := .serve h fun _ h => by
  dsimp only
  split
  · exact h
  · exact .ite h.endTransfer h.toStore.updCask

/-! #### Packets -/

theorem execSampleReq_tidy {p : Packet} (h : s.Tidy) : Answer.Tidy (execSampleReq p s) := .serve h fun _ h => h.receive

theorem execSampleReply_tidy {p : Packet} (h : s.Tidy) : Answer.Tidy (execSampleReply p s) := .serve h fun _ h => h.receive

theorem execNmrAck_tidy {p : Packet} (h : s.Tidy) : Answer.Tidy (execNmrAck p s) := .serve h fun _ h => h.receive

theorem execFabSignal_tidy {p : Packet} (h : s.Tidy) : Answer.Tidy (execFabSignal p s) := .serve h fun _ h => h.receive

theorem execSignalAck_tidy {p : Packet} (h : s.Tidy) : Answer.Tidy (execSignalAck p s) := .serve h fun _ h => h.receive

theorem execMigrate_tidy {p : Packet} (h : s.Tidy) : Answer.Tidy (execMigrate p s) := .serve h fun _ h => h.receive

theorem execKilnState_tidy {p : Packet} (h : s.Tidy) : Answer.Tidy (execKilnState p s) := .serve h fun _ h => h.receive

theorem execReduceData_tidy {p : Packet} (h : s.Tidy) : Answer.Tidy (execReduceData p s) := .serve h fun _ h => h.receive

theorem execCask_tidy {p : Packet} (h : s.Tidy) : Answer.Tidy (execCask p s) := .serve h fun _ h => h.receive

theorem execFeedRecordIntake_tidy {p : Packet} (h : s.Tidy) : Answer.Tidy (execFeedRecordIntake p s) := .serve h fun _ h => h.receive

theorem execCloseMarker_tidy {p : Packet} (h : s.Tidy) : Answer.Tidy (execCloseMarker p s) := .serve h fun _ h => h.receive

theorem execAddW64_tidy {c : NmrCmd} (h : s.Tidy) : Answer.Tidy (execAddW64 c s) := .serve h fun _ h => h.takeNmr

theorem execAddW128_tidy {c : NmrCmd} (h : s.Tidy) : Answer.Tidy (execAddW128 c s) := .serve h fun _ h => h.takeNmr

theorem execAddI64_tidy {c : NmrCmd} (h : s.Tidy) : Answer.Tidy (execAddI64 c s) := .serve h fun _ h => h.takeNmr

theorem execAddF32_tidy {c : NmrCmd} (h : s.Tidy) : Answer.Tidy (execAddF32 c s) := .serve h fun _ h => h.takeNmr

theorem execNmrReadout_tidy {c : NmrCmd} (h : s.Tidy) : Answer.Tidy (execNmrReadout c s) := .serve h fun _ h => h.takeNmr

theorem execBadPacket_tidy {kind : BitVec 8} {p : Packet} (h : s.Tidy) : Answer.Tidy (execBadPacket kind p s) :=
  .serve h fun _ h => .ite h h.tick.tick.countPair.releaseOrder

theorem execPacketHop_tidy {input : HopInput} {kind : BitVec 8} {p : Packet} (h : s.Tidy) : Answer.Tidy (execPacketHop input kind p s) := .serve h fun _ h =>
  .ite h (by
    split
    · exact h
    · exact .ite h.same.tick (.ite h.tick.passes (.ite (.ite h.same.same.passes h) (.ite h.same.tick (.ite h h.tick)))))

/-! #### The step boundary -/

theorem execStepBarrierEnter_tidy {part : PartId} (h : s.Tidy) : Answer.Tidy (execStepBarrierEnter part s) :=
  .serve h fun _ h => .ite h (.ite h.setPart.toKiln (.ite h (.ite (h.setPart.foldl fun _ _ h => h.sendMigrant) (.ite h (.ite (.ite h h.updCask.tick)
    h.enterStepBarrier)))))

theorem execRunStart_tidy {part : PartId} {eval : Bool} (h : s.Tidy) : Answer.Tidy (execRunStart part eval s) :=
  .serve h fun _ h => .ite h (.ite h.openStep h.startRun)

theorem execCatchupCopy_tidy {part : PartId} {table : Nat} (h : s.Tidy) : Answer.Tidy (execCatchupCopy part table s) := .serve h fun _ h => by
  dsimp only
  split
  · exact h
  · exact .ite h (World.Tidy.ite h.journalTable.tableItems h).catchUp

/-! #### Time -/

theorem execTimeMarkSend_tidy (h : s.Tidy) : Answer.Tidy (execTimeMarkSend s) := .serve h fun _ h => h.foldl fun _ _ h => h.emit

/-! #### The twin -/

theorem execTwinDigestForm_tidy (h : s.Tidy) : Answer.Tidy (execTwinDigestForm s) := .serve h fun _ h => by
  split
  · exact h
  · exact .ite h (.ite h.updTwin.emit h.updTwin.formDigest)

theorem execTwinDigestResend_tidy (h : s.Tidy) : Answer.Tidy (execTwinDigestResend s) := .serve h fun _ h => .ite (h.foldl fun _ _ h => h.toTwin) h

theorem execTwinTimeout_tidy (h : s.Tidy) : Answer.Tidy (execTwinTimeout s) := .serve h fun _ h => .ite h.goAlone h

/-! #### The combining tree -/

theorem execTreeUp_tidy {m : TreeMsg} (h : s.Tidy) : Answer.Tidy (execTreeUp m s) := .serve h fun _ h => .ite h (.ite h.headTakes (.ite h.groupTakes h))

theorem execTreeDown_tidy {m : TreeMsg} (h : s.Tidy) : Answer.Tidy (execTreeDown m s) := .serve h fun _ h => .ite h (World.Tidy.ite h.emit h).takeResult

theorem execDomainBarrierTimeout_tidy {barrier : Fin 16} (h : s.Tidy) : Answer.Tidy (execDomainBarrierTimeout barrier s) :=
  .serve h fun _ h => .ite h h.raise.abortDomain

theorem execCaskRestore_tidy {step : Nat} (h : s.Tidy) : Answer.Tidy (execCaskRestore step s) := .serve h fun _ h => by
  split
  · exact .ite (.ite h h.beginRestore) (.ite h (h.writeRestore.next fun h => .ite h.resumeAfterRestore h))
  · exact .ite h h.beginRestore

/-! #### Fabric ports -/

theorem execQueueFigureExchange_tidy {slot : Fin 17} {x : SlotFigures} (h : s.Tidy) : Answer.Tidy (execQueueFigureExchange slot x s) :=
  .serve h fun _ h => .ite h.emit h.same

theorem execDrainGo_tidy (h : s.Tidy) : Answer.Tidy (execDrainGo s) := .serve h fun _ h => h.requestDrain

theorem execDrainReq_tidy {staged : List (Nat × Nat)} (h : s.Tidy) : Answer.Tidy (execDrainReq staged s) := .serve h fun _ h => .ite h h.same.same.updDrain

theorem execDrainCountRound_tidy {reports : List (Nat × Nat × Nat × Nat)} (h : s.Tidy) : Answer.Tidy (execDrainCountRound reports s) :=
  .serve h fun _ h => .ite h (.ite h.emit.sendInstall h.emit)

theorem execResume_tidy {us : BitVec 20} (h : s.Tidy) : Answer.Tidy (execResume us s) :=
  .serve h fun _ h => .ite h (h.updDrain.tick.sendRegs.next fun h => (World.Tidy.ite (((World.Tidy.ite h.raiseDrain h).emit.foldl fun _ _ h =>
    h.raiseTakeover).same.foldl fun _ _ h => h.takeover).settleStep.releaseTree h).next fun h => .ite (.elim h fun _ => h.beginRestore) h)

/-! #### Tap -/

theorem execEvalOverrun_tidy (h : s.Tidy) : Answer.Tidy (execEvalOverrun s) := .serve h fun _ h => .ite h h.updTap.raise.tick

theorem World.Tidy.governOne {t : Sid} {acc : World × List Setpoint} {p : Proposal} (h : acc.1.Tidy .canonical) :
    (World.governOne t acc p).1.Tidy .canonical := by
  unfold World.governOne
  extract_lets w
  split
  · split
    next e1 => exact .of_eq e1 h.agentReads
    next e1 =>
      exact (h.agentReads_some e1).hbmCount.hbmApply.next fun h => (World.Tidy.ite h.tick h).next fun h => .ite h.tick h
  · exact World.Tidy.tick h.agentReads
  · exact World.Tidy.tick h

theorem execTapEmit_tidy (h : s.Tidy) : Answer.Tidy (execTapEmit s) := .serve h fun _ h => by
  extract_lets x v1 ps v2 r v3
  have h1 : v1.Tidy .canonical := h.updTap
  have hp : ps.2.2.2.Tidy .canonical := h1.proposals
  have h2 : v2.Tidy .canonical := hp.count.count
  have hr : r.1.Tidy .canonical :=
    List.foldlRecOn _ _ (motive := fun r : World × List Setpoint => r.1.Tidy .canonical) h2 fun _ h _ _ => h.governOne
  have h3 : v3.Tidy .canonical := hr.count
  exact .ite h (.ite h1 (.ite h2 (h3.foldl fun _ _ h => h.sendClass)))

/-! #### Observability -/

theorem execTraceRegionWrite_tidy {part : PartId} (h : s.Tidy) : Answer.Tidy (execTraceRegionWrite part s) := .serve h fun _ h => by
  dsimp only
  split
  · exact h
  · exact h.setPart.ringLoss.next fun h => .ite h.ringRecord h.setPart.tick

theorem execCntTraceRead_tidy {part : PartId} {value : BitVec 64} (h : s.Tidy) : Answer.Tidy (execCntTraceRead part value s) :=
  .serve h fun _ h => h.writeTraceRead

theorem execPcSample_tidy {core : CoreId} {toPort : Bool} (h : s.Tidy) : Answer.Tidy (execPcSample core toPort s) :=
  .serve h fun _ h => .ite h (.ite h.throttle (.ite h.stamp.portAccept h.stamp.setPart.tick))

theorem execGo_tidy {part : PartId} {owner : Bool} (h : s.Tidy) : Answer.Tidy (execGo part owner s) := .serve h fun _ h => h.dumpGo

theorem execCancel_tidy {part : PartId} (h : s.Tidy) : Answer.Tidy (execCancel part s) := .serve h fun _ h => h.cancelDump

theorem execDumpEnd_tidy {part : PartId} {ok : Bool} (h : s.Tidy) : Answer.Tidy (execDumpEnd part ok s) :=
  .serve h fun _ h => .ite h (.ite h.hbmApply.endDump (.ite h.sendDump h.endDump))

theorem execFreeze_tidy {part : PartId} (h : s.Tidy) : Answer.Tidy (execFreeze part s) := .serve h fun _ h => h.freezePart

theorem execThaw_tidy {part : PartId} (h : s.Tidy) : Answer.Tidy (execThaw part s) := .serve h fun _ h => h.tailThaw

theorem World.Tidy.refillPort {w : World} (h : w.Tidy .canonical) : w.refillPort.Tidy .canonical := by
  unfold World.refillPort
  extract_lets v held trc
  have hv : v.Tidy .canonical := h.foldl fun _ _ h => h.same
  exact hv.same

theorem execTracePortFrame_tidy (h : s.Tidy) : Answer.Tidy (execTracePortFrame s) := .serve h fun _ h => by
  refine .ite h ?_
  split
  next loss u e1 =>
    extract_lets rs again v1 trc
    have hu : u.Tidy .canonical := .of_eq e1 h.portLoss
    have h1 : v1.Tidy .canonical := hu.emit.tick.count.count
    exact World.Tidy.refillPort h1.same

theorem execTraceCredit_tidy {frames : BitVec 16} (h : s.Tidy) : Answer.Tidy (execTraceCredit frames s) := .serve h fun _ h => h.same

theorem execTracePortLinkChange_tidy {link : Fin 3} (h : s.Tidy) : Answer.Tidy (execTracePortLinkChange link s) := .serve h fun _ h => h.same

/-! #### Registers -/

theorem execReadData_tidy {p : Packet} (h : s.Tidy) : Answer.Tidy (execReadData p s) := .serve h fun _ h => h.receive

theorem execWriteAck_tidy {p : Packet} (h : s.Tidy) : Answer.Tidy (execWriteAck p s) := .serve h fun _ h => h.receive

/-! #### Parcels -/

theorem execLoadTimeout_tidy {part : PartId} (h : s.Tidy) : Answer.Tidy (execLoadTimeout part s) := .serve h fun _ h => by
  split
  · exact h
  · exact .ite h h.setPart.raiseReject

end Served

end Sys2Proof.Machine

namespace Sys2Proof.Machine

/-! ### Every command keeps the memories canonical: O60 -/

section Commands
variable {s : State}

theorem Answer.Tidy.next (h : s.Tidy) : Answer.Tidy (.next s) := ⟨s, rfl, h⟩

theorem Answer.Tidy.ite {p : Prop} [Decidable p] {x y : Host.Outcome State Fault Refusal} (hx : Answer.Tidy x) (hy : Answer.Tidy y) :
    Answer.Tidy (if p then x else y) := by
  split
  · exact hx
  · exact hy

section Fields
variable {pwr : Pwr} {sid : Sid} {w : World} {pending : List Instr}

/-- Another world, and a security die with the same recipe store. -/
theorem Answer.Tidy.world {bootStep recovery recoveryCause bootId timer nextIndex xmss owner rollbackFloor hbmMapout cellarMapout credits signQueue
    fwMeasure recipeMeasure fwVersion expiries mgcHeld mgcRunning lastKick bootHeld sparesOut} (h : s.Tidy) (hw : w.Tidy .canonical) :
    Answer.Tidy (.next
      ⟨pwr, sid,
        { bootStep, recovery, recoveryCause, bootId, timer, nextIndex, xmss, owner, rollbackFloor, hbmMapout, cellarMapout, credits, signQueue,
          fwMeasure, recipeMeasure, fwVersion, expiries, mgcHeld, mgcRunning, lastKick, bootHeld, flash := s.sec.flash, sparesOut },
        w, pending⟩) :=
  .next (h.setWorld hw)

end Fields

theorem Answer.Tidy.parcel {type : Nat} {f : Handler} {q : Parcel} (h : s.Tidy) (hf : f.Tidy) : Answer.Tidy (.next (s.fromLink type f q)) :=
  .next (h.fromLink hf)

/-! #### Power -/

theorem execPowerOnQualify_tidy {vin : BitVec 16} {geo : BitVec 6} {b : BootIn} (h : s.Tidy) : Answer.Tidy (execPowerOnQualify vin geo b s) := by
  unfold execPowerOnQualify
  extract_lets v pwr u
  have hv : v.Tidy := h.modReset
  have hu : u.Tidy := hv.same
  exact .ite (.next h) (.next (.ite hu hu.boot))

theorem execInputBelow30V_tidy (h : s.Tidy) : Answer.Tidy (execInputBelow30V s) := .world h h.world.haltAll.uzoDark

theorem execInputPowerFail_tidy {vin : BitVec 16} (h : s.Tidy) : Answer.Tidy (execInputPowerFail vin s) := .next h.failCause

theorem execHoldupEnd_tidy (h : s.Tidy) : Answer.Tidy (execHoldupEnd s) := by
  unfold execHoldupEnd
  split
  · exact .next h
  · extract_lets pwr sec v
    have hw : (((s.w.emit .idleLanes).uzoDark).tick .pwr 0 0x098).Tidy .canonical := h.world.emit.uzoDark.tick
    have hv : v.Tidy := h.setWorld hw
    exact .next (.ite hv.modReset hv)

theorem execInputLow_tidy {vin : BitVec 16} (h : s.Tidy) : Answer.Tidy (execInputLow vin s) := .next (.ite (h.onWorld fun h => h.setAlert) h)

theorem execInputRange_tidy {vin : BitVec 16} (h : s.Tidy) : Answer.Tidy (execInputRange vin s) :=
  .next (.ite (h.setWorld h.world.setAlert.tick.raise) h)

theorem execPwrEnRise_tidy {b : BootIn} (h : s.Tidy) : Answer.Tidy (execPwrEnRise b s) := by
  have hv : State.Tidy { s with pwr := { s.pwr with pwrEn := true } } := h.same
  exact .next (.ite hv.bootOn hv)

theorem execPwrEnFall_tidy (h : s.Tidy) : Answer.Tidy (execPwrEnFall s) := by
  have hv : State.Tidy { s with pwr := { s.pwr with pwrEn := false } } := h.same
  exact .next (.ite hv.failCause hv)

theorem execModResetLAssert_tidy (h : s.Tidy) : Answer.Tidy (execModResetLAssert s) := by
  unfold execModResetLAssert
  extract_lets pwr v pwr' u
  have hv : v.Tidy := h.same
  have hu : u.Tidy := hv.modReset
  exact .next (.ite hv (.ite hv.same (hu.setWorld hu.world.uzoDark)))

theorem execModResetLRelease_tidy {geo : BitVec 6} {b : BootIn} (h : s.Tidy) : Answer.Tidy (execModResetLRelease geo b s) := by
  unfold execModResetLRelease
  extract_lets pwr v pwr'
  have hv : v.Tidy := h.same
  exact .ite (.next h) (.next (.ite hv (State.Tidy.boot hv.same)))

theorem execDroopDetected_tidy {island : Fin 95} (h : s.Tidy) : Answer.Tidy (execDroopDetected island s) := .next (.ite h.same h)

theorem execDroopRecovered_tidy {island : Fin 95} (h : s.Tidy) : Answer.Tidy (execDroopRecovered island s) := .next h.same

theorem execPowerSample_tidy {watts : BitVec 16} (h : s.Tidy) : Answer.Tidy (execPowerSample watts s) := .next (.ite (h.setWorld h.world.count) h)

theorem execCapWindowEnd_tidy {m : Measurement} (h : s.Tidy) : Answer.Tidy (execCapWindowEnd m s) := by
  unfold execCapWindowEnd
  extract_lets avg v q v1 v2 cask v3
  have hv : v.Tidy .canonical := h.world.measure
  have h1 : v1.Tidy .canonical := .ite hv.tick hv
  have h2 : v2.Tidy .canonical := .ite h1.sameMemories h1
  have h3 : v3.Tidy .canonical := .ite h2.same h2
  exact .next (.ite (.ite (h.setWorld h3.same) (h.setWorld hv)) h)

theorem execThermalWarn_tidy {sensor : Fin 17} {temp : BitVec 16} (h : s.Tidy) : Answer.Tidy (execThermalWarn sensor temp s) := by
  unfold execThermalWarn
  extract_lets v hot
  have hv : v.Tidy .canonical := h.world.setField
  exact .next (.ite (h.setWorld (.ite hv hv.setAlert.tick.raise)) h)

theorem execThermalTrip_tidy {sensor : Fin 17} {temp : BitVec 16} (h : s.Tidy) : Answer.Tidy (execThermalTrip sensor temp s) := .next h.failCause

theorem execPwrCapWrite_tidy {value : BitVec 64} (h : s.Tidy) : Answer.Tidy (execPwrCapWrite value s) :=
  .next (.ite (h.onWorld fun h => h.setReg) h)

/-! #### Registers and memory requests -/

theorem execSmbusBlockRead_tidy {code : BitVec 8} (h : s.Tidy) : Answer.Tidy (execSmbusBlockRead code s) := by
  unfold execSmbusBlockRead
  extract_lets r
  have hr : r.2.Tidy .canonical := h.readReg
  exact .ite (.next h) (.ite (.world h hr.emit) (.world h h.world.emit))

theorem execSmbusBlockWrite_tidy {code : BitVec 8} {value : BitVec 64} (h : s.Tidy) : Answer.Tidy (execSmbusBlockWrite code value s) :=
  .ite (.next h) (.world h (.ite h.world.writeAlert h.world.emit))

theorem execRegisterWrite_tidy {offset : Nat} {value : BitVec 64} (h : s.Tidy) : Answer.Tidy (execRegisterWrite offset value s) := by
  unfold execRegisterWrite
  refine .ite (.next h) ?_
  split
  · exact .next h
  · exact .next (.ite h.writeReg h)

theorem execReadReq_tidy {q : Packet} (h : s.Tidy) : Answer.Tidy (execReadReq q s) := .next h.memoryRequest

theorem execWrite_tidy {q : Packet} (h : s.Tidy) : Answer.Tidy (execWrite q s) := .next h.memoryRequest

/-! #### The memory's channels -/

theorem execHbmGrainAccess_tidy {channel : ChannelId} {a : GrainAccess} (h : s.Tidy) : Answer.Tidy (execHbmGrainAccess channel a s) :=
  .next (h.onChannel fun _ => .ite h.grantAccess h.setHeld)

theorem execParityRetry_tidy {channel : ChannelId} {a : GrainAccess} {attempt : Nat} (h : s.Tidy) :
    Answer.Tidy (execParityRetry channel a attempt s) := by
  refine .next (h.onChannel fun off => ?_)
  extract_lets c v first v1 u xs rest
  have hv : v.Tidy .canonical := h.world.tick
  have h1 : v1.Tidy .canonical := hv.same
  have hu : u.Tidy := h.setWorld (.ite h1.raise h1)
  exact .ite (State.Tidy.releaseGrain _ hu.setHeld.grantAccess) (.ite hu.channelFault hu.setHeld)

theorem execScrubGrain_tidy {channel : ChannelId} {grain : Nat} {corrected uncorrectable : Bool} (h : s.Tidy) :
    Answer.Tidy (execScrubGrain channel grain corrected uncorrectable s) := by
  refine .next (h.onChannel fun off => ?_)
  extract_lets c u
  have hu : u.Tidy := h.setWorld h.world.tick
  exact .ite hu.channelFault (.ite hu.corrected hu)

theorem execHbcMapoutClear_tidy {stack : StackId} {clear : BitVec 32} (h : s.Tidy) : Answer.Tidy (execHbcMapoutClear stack clear s) :=
  .ite (.next h) (.next h.same)

theorem execCellarBurst_tidy {b : CellarBurst} (h : s.Tidy) : Answer.Tidy (execCellarBurst b s) := by
  unfold execCellarBurst
  extract_lets c v1 cause v2 v3
  have h1 : v1.Tidy .canonical := h.world.count
  have h2 : v2.Tidy .canonical := h1.same
  have h3 : v3.Tidy .canonical := h2.raise
  exact .ite (.next h) (.ite (.world h h3.stopJob) (.world h (.ite h1.count h1)))

/-! #### Time -/

theorem execTimeMark_tidy {port : PortId} {value : BitVec 64} (h : s.Tidy) : Answer.Tidy (execTimeMark port value s) :=
  .ite (.next h) (.world h h.world.tick)

theorem execSlewTick_tidy (h : s.Tidy) : Answer.Tidy (execSlewTick s) := .ite (.next h) (.world h h.world.count)

theorem execTimeHoldover_tidy (h : s.Tidy) : Answer.Tidy (execTimeHoldover s) := .ite (.next h) (.next h.holdover)

theorem execPtpMessage_tidy {o : RefOffset} (h : s.Tidy) : Answer.Tidy (execPtpMessage o s) := by
  unfold execPtpMessage
  split
  · exact .next h
  · extract_lets v
    have hv : v.Tidy := h.setWorld (h.world.hear fun _ h => h)
    exact .ite (.next h) (.ite (.world h hv.world.tick) (.next hv))

theorem execPpsInEdge_tidy (h : s.Tidy) : Answer.Tidy (execPpsInEdge s) := .ite (.next h.same) (.next h)

theorem execPpsOutEdge_tidy (h : s.Tidy) : Answer.Tidy (execPpsOutEdge s) := .ite (.next h) (.world h h.world.emit)

theorem execPtpOrPpsInLost_tidy (h : s.Tidy) : Answer.Tidy (execPtpOrPpsInLost s) := .ite (.next h.holdover) (.next h)

/-! #### The twin -/

theorem execTwinDigestFrame_tidy {frame : List Byte} (h : s.Tidy) : Answer.Tidy (execTwinDigestFrame frame s) := by
  refine .ite (.next h) (.next (h.hearTwin fun s h => ?_))
  extract_lets n v u
  have hv : v.Tidy .canonical := h.world.updTwin
  have hu : u.Tidy .canonical := hv.updTwin
  exact .ite (h.setWorld hv) (h.setWorld hu.compareStep)

theorem execRollback_tidy {frame : List Byte} (h : s.Tidy) : Answer.Tidy (execRollback frame s) := by
  refine .ite (.next h) (.next (h.hearTwin fun s h => ?_))
  extract_lets n v
  have hv : v.Tidy .canonical := h.world.updTwin
  exact .ite (h.setWorld hv) (h.setWorld hv.rollBack)

theorem execTwinFenceFrame_tidy {frame : List Byte} (h : s.Tidy) : Answer.Tidy (execTwinFenceFrame frame s) :=
  .ite (.next h) (.next (h.hearTwin fun _ h => h.setWorld h.world.goAlone))

/-! #### The fabric -/

theorem execPortRetrain_tidy {port : PortId} {partner : PortPartner} {x : PortMeasured} {acked : BitVec 16} (h : s.Tidy) :
    Answer.Tidy (execPortRetrain port partner x acked s) := by
  unfold execPortRetrain
  extract_lets i y old r full lost result v n u
  have hv : v.Tidy .canonical := h.world.tick.raiseAs
  refine .ite (.next h) (.ite (.world h hv.updPort.resend) ?_)
  split
  next reason _ =>
    have hd : State.Tidy (({ s with w := v.raise s.sid (portSource i) 0x121 (cablingPayload i y.partnerGroup y.partnerSlot reason) } : State).portDown i) :=
      State.Tidy.portDown (h.setWorld hv.raise)
    exact .world hd hd.world.updPort
  · have hu : u.Tidy := h.setWorld hv.updPort
    exact .next (.ite hu.portDown hu)

theorem execPartnerIdle_tidy {port : PortId} (h : s.Tidy) : Answer.Tidy (execPartnerIdle port s) := .ite (.next h) (.next h.portDown)

theorem execGroupNotice_tidy {reporter slot : Fin 17} {powerFail : Bool} (h : s.Tidy) : Answer.Tidy (execGroupNotice reporter slot powerFail s) :=
  .ite (.next h) (.ite (.next h.markFailed) (.next h.slotReport))

theorem execInstall_tidy {table : List (Nat × Nat)} (h : s.Tidy) : Answer.Tidy (execInstall table s) := by
  unfold execInstall
  extract_lets w n posTable fab v u
  have hv : v.Tidy .canonical := h.world.same
  have hu : u.Tidy .canonical := hv.updDrain
  exact .ite (.next h) (.next (State.Tidy.chooseParent (h.setWorld hu.setCircuits.emit)))

theorem execDrainTimeout_tidy {missing : List Nat} (h : s.Tidy) : Answer.Tidy (execDrainTimeout missing s) := by
  unfold execDrainTimeout
  extract_lets gone v w limit held fab v1 v2
  have hv : v.Tidy := h.foldl fun _ _ h => h.markFailed
  have h1 : v1.Tidy .canonical := hv.world.same
  have h2 : v2.Tidy .canonical := h1.updDrain.raiseDrain
  exact .ite (.next h) (.world hv h2.sendInstall)

/-! #### Casks -/

theorem execCaskCommit_tidy (h : s.Tidy) : Answer.Tidy (execCaskCommit s) := by
  unfold execCaskCommit
  split
  · exact .next h
  · exact .ite (.next h) (.ite (.ite (.next h) (.world h h.world.updCask)) (.ite (.world h h.world.updCask)
      (.ite (.ite (.world h h.world.sendManifest.updCask) (.next h)) (.world h h.world.reportCommit))))

/-! #### The security die and the port -/

theorem execSignatureRequest_tidy (h : s.Tidy) : Answer.Tidy (execSignatureRequest s) := by
  unfold execSignatureRequest
  refine .ite (.next h) ?_
  split
  · exact .next h
  · extract_lets sec v
    have hv : v.Tidy := h.same
    exact .next (.ite (.ite hv.refuseSign hv.reserveLeaves.sign) hv.sign)

theorem execKick_tidy (h : s.Tidy) : Answer.Tidy (execKick s) := .next (.ite h.same h)

theorem execMgcWatchdogExpiry_tidy (h : s.Tidy) : Answer.Tidy (execMgcWatchdogExpiry s) := by
  unfold execMgcWatchdogExpiry
  extract_lets src sec held v1 v2
  have h1 : v1.Tidy .canonical := h.world.updUzo
  have h2 : v2.Tidy .canonical := h1.tick.raise
  exact .ite (.next h) (.world h (.ite h2.setAlert h2))

theorem execEventsHeartbeat_tidy (h : s.Tidy) : Answer.Tidy (execEventsHeartbeat s) := by
  unfold execEventsHeartbeat
  extract_lets rs now lost v1 v2
  have h1 : v1.Tidy .canonical := h.world.updUzo
  have h2 : v2.Tidy .canonical := h1.count.sendParcel
  exact .ite (.next h) (.world h (.ite h2.updUzo.raise h2))

theorem execUzoPartnerLightChange_tidy {light : Bool} {lanes : Nat} (h : s.Tidy) : Answer.Tidy (execUzoPartnerLightChange light lanes s) :=
  .next (h.onWorld fun h => h.updUzo)

theorem execUzoRetrain_tidy (h : s.Tidy) : Answer.Tidy (execUzoRetrain s) := .next (.ite (h.onWorld fun h => h.count) h)

theorem execUnknownTypeParcel_tidy {type : BitVec 16} {q : Parcel} (h : s.Tidy) : Answer.Tidy (execUnknownTypeParcel type q s) := by
  refine .parcel h ?_
  split
  · exact doDoorbell_tidy
  · exact handlerOf_tidy _

theorem exec_tidy (c : Instr) (h : s.Tidy) : Answer.Tidy (exec c s) := by
  cases c
  case powerOnQualify => exact execPowerOnQualify_tidy h
  case inputBelow30V => exact execInputBelow30V_tidy h
  case inputPowerFail => exact execInputPowerFail_tidy h
  case holdupEnd => exact execHoldupEnd_tidy h
  case inputLow vin => exact execInputLow_tidy (vin := vin) h
  case inputRange => exact execInputRange_tidy h
  case pwrEnRise => exact execPwrEnRise_tidy h
  case pwrEnFall => exact execPwrEnFall_tidy h
  case modResetLAssert => exact execModResetLAssert_tidy h
  case modResetLRelease => exact execModResetLRelease_tidy h
  case droopDetected => exact execDroopDetected_tidy h
  case droopRecovered => exact execDroopRecovered_tidy h
  case clockStop => exact execClockStop_tidy h
  case clockRestart => exact execClockRestart_tidy h
  case powerSample => exact execPowerSample_tidy h
  case capWindowEnd => exact execCapWindowEnd_tidy h
  case thermalWarn => exact execThermalWarn_tidy h
  case thermalTrip => exact execThermalTrip_tidy h
  case pwrCapWrite => exact execPwrCapWrite_tidy h
  case smbusBlockRead => exact execSmbusBlockRead_tidy h
  case smbusBlockWrite => exact execSmbusBlockWrite_tidy h
  case registerWrite => exact execRegisterWrite_tidy h
  case loadBegin => exact .parcel h doLoadBegin_tidy
  case loadData => exact .parcel h doLoadData_tidy
  case loadEnd => exact .parcel h doLoadEnd_tidy
  case loadTimeout => exact execLoadTimeout_tidy h
  case unload => exact .parcel h doUnload_tidy
  case start => exact .parcel h doStart_tidy
  case stop => exact .parcel h doStop_tidy
  case restore => exact .parcel h doRestore_tidy
  case status => exact .parcel h doStatus_tidy
  case capQuery => exact .parcel h doCapQuery_tidy
  case attest => exact .parcel h doAttest_tidy
  case regRead => exact .parcel h doRegRead_tidy
  case regWrite => exact .parcel h doRegWrite_tidy
  case dmaOpen => exact .parcel h doDmaOpen_tidy
  case dmaClose => exact .parcel h doDmaClose_tidy
  case dmaRead => exact .parcel h doDmaRead_tidy
  case dmaWrite => exact .parcel h doDmaWrite_tidy
  case ringCfg => exact .parcel h doRingCfg_tidy
  case doorbell => exact .parcel h doDoorbell_tidy
  case eventsHeartbeat => exact execEventsHeartbeat_tidy h
  case rsBegin => exact .parcel h doRsBegin_tidy
  case rsData => exact .parcel h (doRsData_tidy _)
  case rsEnd => exact .parcel h (doRsEnd_tidy _)
  case key => exact .parcel h doKey_tidy
  case jobKey => exact .parcel h doJobKey_tidy
  case claim => exact .parcel h doClaim_tidy
  case release => exact .parcel h doRelease_tidy
  case floor => exact .parcel h doFloor_tidy
  case uzoRetrain => exact execUzoRetrain_tidy h
  case mgcWatchdogExpiry => exact execMgcWatchdogExpiry_tidy h
  case kick => exact execKick_tidy h
  case signatureRequest => exact execSignatureRequest_tidy h
  case nop => exact execNop_tidy h
  case issue => exact execIssue_tidy h
  case loop => exact execLoop_tidy h
  case branch => exact execBranch_tidy h
  case setcc => exact execSetcc_tidy h
  case getWork => exact execGetWork_tidy h
  case complete => exact execComplete_tidy h
  case wait => exact execWait_tidy h
  case signal => exact execSignal_tidy h
  case fence => exact execFence_tidy h
  case barrier => exact execBarrier_tidy h
  case raise => exact execRaise_tidy h
  case end_ => exact execEnd_tidy h
  case endDrained => exact execEndDrained_tidy h
  case seqStop => exact execSeqStop_tidy h
  case seqSingle => exact execSeqSingle_tidy h
  case runStart => exact execRunStart_tidy h
  case itemAdmit => exact execItemAdmit_tidy h
  case workDispatch => exact execWorkDispatch_tidy h
  case itemComplete => exact execItemComplete_tidy h
  case collectRecord => exact execCollectRecord_tidy h
  case watchWake => exact execWatchWake_tidy h
  case operationDone => exact execOperationDone_tidy h
  case fenceComplete => exact execFenceComplete_tidy h
  case deadlock => exact execDeadlock_tidy h
  case mxeKStep => exact execMxeKStep_tidy h
  case mxeTileWriteback => exact execMxeTileWriteback_tidy h
  case zeroPredictVerify => exact execZeroPredictVerify_tidy h
  case vxeChain => exact execVxeChain_tidy h
  case vxeSegmented => exact execVxeSegmented_tidy h
  case vxeMatmulF32 => exact execVxeMatmulF32_tidy h
  case vxeMatmulF64 => exact execVxeMatmulF64_tidy h
  case vxeTranspose => exact execVxeTranspose_tidy h
  case vxeGather => exact execVxeGather_tidy h
  case vxeScatter => exact execVxeScatter_tidy h
  case vxeGrouped => exact execVxeGrouped_tidy h
  case axeLoad => exact execAxeLoad_tidy h
  case axeStore => exact execAxeStore_tidy h
  case axeCopy => exact execAxeCopy_tidy h
  case axeRelay => exact execAxeRelay_tidy h
  case sortUnique => exact execSortUnique_tidy h
  case gsuGather => exact execGsuGather_tidy h
  case gsuScatter => exact execGsuScatter_tidy h
  case gsuMigrate => exact execGsuMigrate_tidy h
  case gsuReadout => exact execGsuReadout_tidy h
  case addW64 => exact execAddW64_tidy h
  case addW128 => exact execAddW128_tidy h
  case addI64 => exact execAddI64_tidy h
  case addF32 => exact execAddF32_tidy h
  case nmrReadout => exact execNmrReadout_tidy h
  case catchupCopy => exact execCatchupCopy_tidy h
  case hbmGrainAccess => exact execHbmGrainAccess_tidy h
  case parityRetry => exact execParityRetry_tidy h
  case scrubGrain => exact execScrubGrain_tidy h
  case hbcMapoutClear => exact execHbcMapoutClear_tidy h
  case cellarBurst => exact execCellarBurst_tidy h
  case samplerBlock => exact execSamplerBlock_tidy h
  case smpHopDraw => exact execSmpHopDraw_tidy h
  case sampleReq => exact execSampleReq_tidy h
  case sampleReply => exact execSampleReply_tidy h
  case gradReady => exact execGradReady_tidy h
  case kilnRead => exact execKilnRead_tidy h
  case kilnReadData => exact execKilnReadData_tidy h
  case rowGrad => exact execRowGrad_tidy h
  case rowsEnd frame tensor step touched => exact execRowsEnd_tidy (touched := touched) h
  case emit => exact execEmit_tidy h
  case kilnAck => exact execKilnAck_tidy h
  case stateOut => exact execStateOut_tidy h
  case stateIn => exact execStateIn_tidy h
  case stepClose => exact execStepClose_tidy h
  case stepDone => exact execStepDone_tidy h
  case kilnEntryUpdate => exact execKilnEntryUpdate_tidy h
  case kilnLinkRetrain => exact execKilnLinkRetrain_tidy h
  case freezeEntry => exact execFreezeEntry_tidy h
  case thawEntry => exact execThawEntry_tidy h
  case freezeRows => exact execFreezeRows_tidy h
  case thawRows => exact execThawRows_tidy h
  case stepBarrierEnter => exact execStepBarrierEnter_tidy h
  case evalOverrun => exact execEvalOverrun_tidy h
  case tapEmit => exact execTapEmit_tidy h
  case feedDatagram => exact execFeedDatagram_tidy h
  case feedRecordIntake => exact execFeedRecordIntake_tidy h
  case batchClose => exact execBatchClose_tidy h
  case closeMarker => exact execCloseMarker_tidy h
  case readReq => exact execReadReq_tidy h
  case readData => exact execReadData_tidy h
  case write => exact execWrite_tidy h
  case writeAck => exact execWriteAck_tidy h
  case nmrAck => exact execNmrAck_tidy h
  case fabSignal => exact execFabSignal_tidy h
  case signalAck => exact execSignalAck_tidy h
  case migrate => exact execMigrate_tidy h
  case kilnState => exact execKilnState_tidy h
  case reduceStart => exact execReduceStart_tidy h
  case reduceData => exact execReduceData_tidy h
  case treeUp => exact execTreeUp_tidy h
  case treeDown => exact execTreeDown_tidy h
  case cask => exact execCask_tidy h
  case groupNotice => exact execGroupNotice_tidy h
  case badPacket => exact execBadPacket_tidy h
  case packetHop => exact execPacketHop_tidy h
  case portRetrain => exact execPortRetrain_tidy h
  case partnerIdle => exact execPartnerIdle_tidy h
  case queueFigureExchange => exact execQueueFigureExchange_tidy h
  case drainGo => exact execDrainGo_tidy h
  case drainReq => exact execDrainReq_tidy h
  case drainCountRound => exact execDrainCountRound_tidy h
  case install => exact execInstall_tidy h
  case resume => exact execResume_tidy h
  case drainTimeout => exact execDrainTimeout_tidy h
  case domainBarrierTimeout => exact execDomainBarrierTimeout_tidy h
  case timeMarkSend => exact execTimeMarkSend_tidy h
  case timeMark => exact execTimeMark_tidy h
  case slewTick => exact execSlewTick_tidy h
  case timeHoldover => exact execTimeHoldover_tidy h
  case ptpMessage => exact execPtpMessage_tidy h
  case ppsInEdge => exact execPpsInEdge_tidy h
  case ppsOutEdge => exact execPpsOutEdge_tidy h
  case twinDigestForm => exact execTwinDigestForm_tidy h
  case twinDigestResend => exact execTwinDigestResend_tidy h
  case twinDigestFrame => exact execTwinDigestFrame_tidy h
  case rollback => exact execRollback_tidy h
  case twinFenceFrame => exact execTwinFenceFrame_tidy h
  case twinTimeout => exact execTwinTimeout_tidy h
  case riskEval => exact execRiskEval_tidy h
  case cskRequest => exact execCskRequest_tidy h
  case kilnPartSend => exact execKilnPartSend_tidy h
  case baseStart => exact execBaseStart_tidy h
  case caskCommit => exact execCaskCommit_tidy h
  case caskExport => exact execCaskExport_tidy h
  case caskManifest => exact execCaskManifest_tidy h
  case caskData => exact execCaskData_tidy h
  case caskAck => exact execCaskAck_tidy h
  case caskFetch frame => exact execCaskFetch_tidy (frame := frame) h
  case caskEnd => exact execCaskEnd_tidy h
  case caskRefuse => exact execCaskRefuse_tidy h
  case caskFrameResend => exact execCaskFrameResend_tidy h
  case caskRestore => exact execCaskRestore_tidy h
  case traceRegionWrite => exact execTraceRegionWrite_tidy h
  case pcSample => exact execPcSample_tidy h
  case cntTraceRead => exact execCntTraceRead_tidy h
  case go => exact execGo_tidy h
  case cancel => exact execCancel_tidy h
  case dumpEnd part ok => exact execDumpEnd_tidy (ok := ok) h
  case freeze => exact execFreeze_tidy h
  case thaw => exact execThaw_tidy h
  case tracePortFrame => exact execTracePortFrame_tidy h
  case traceCredit => exact execTraceCredit_tidy h
  case uzoPartnerLightChange => exact execUzoPartnerLightChange_tidy h
  case ethLinkChange => exact execEthLinkChange_tidy h
  case ethFrameRx => exact execEthFrameRx_tidy h
  case tracePortLinkChange => exact execTracePortLinkChange_tidy h
  case ptpOrPpsInLost => exact execPtpOrPpsInLost_tidy h
  case unknownTypeParcel => exact execUnknownTypeParcel_tidy h

theorem idleTick_tidy (h : s.Tidy) : (idleTick s).Tidy := .ite h h.same

end Commands

/-- Settles O60: the memories change by writes of bytes alone, and each of these keeps the canonical form. -/
theorem everyStepKeepsMemoriesCanonical : Obligations.EveryStepKeepsMemoriesCanonical := by
  intro s t hs hstep
  have h : s.Tidy := s.tidy_iff.mpr hs
  refine t.tidy_iff.mp ?_
  unfold step at hstep
  split at hstep
  · exact Host.Outcome.next.inj hstep ▸ idleTick_tidy h
  next c r _ =>
    have hp : State.Tidy { s with pending := r } := h.same
    obtain ⟨u, hu, ht⟩ := exec_tidy c hp
    exact Host.Outcome.next.inj (hu.symm.trans hstep) ▸ ht

end Sys2Proof.Machine
